-- ==== Sys2Proof/Word.lean ====
section
/-! DEFINITION. The word types of the KV4812 and their plainest arithmetic (R5, R98, R120, R138). -/

namespace Sys2Proof

/-- A byte of memory. -/
abbrev Byte := BitVec 8

/-- A 32-bit register or instruction word. -/
abbrev Word := BitVec 32

/-- An 80-bit virtual address (R138). -/
abbrev VAddr := BitVec 80

end Sys2Proof
end

