-- ==== Sys2Proof/Syntax.lean ====
section
/-! DEFINITION. The instruction set: one constructor per row of the opcode table.

The first group are the 140 steps of the device that have no encoding (spec/95, R157); each carries the choice or the
outside data that the step takes.  The second group are the 285 instruction words of R286, each with every operand
field of its format (R281), the stall count `st` of R107 among them. -/

namespace Sys2Proof

/-- A thread: its team's number, its group in the team and its lane column (R98). -/
structure Tid where
  team : Nat
  group : Nat
  lane : Nat
  deriving DecidableEq, Repr


/-- What a fatal error is: a temperature or a supply fault of an island, a state error, a failed self-test (R237). -/
inductive FatalCause where
  | temperature (island : Nat) | supply (island : Nat) | stateError | selfTest
  deriving DecidableEq, Repr

/-- What a write message of a peer does with its bytes: it stores `n` of them, or with `atom` it is an atomic, by its number, which may
expect a value (R19, R165). -/
structure WriteForm where
  n : Nat
  atom : Option (Nat × Bool)
  deriving DecidableEq, Repr

/-- The way by which a window access comes: the function, and the IDE stream that carries it (R25, R46). -/
structure WindowVia where
  fn : Nat
  ide : Option Nat
  deriving DecidableEq, Repr

/-- What the host has stored in its own memory since the step before: addresses and bytes, oldest first. -/
abbrev HostStores := List (Nat × BitVec 8)

/-- One step of the KV4812: an instruction word (R276 to R290) or a device step without an encoding (spec/95). -/
inductive Instr where
  /-- DEVICE_RESET (R66). Reset clears the measurement registers, advances the boot epoch and starts the measured boot. -/
  | deviceReset
  /-- POWER_LIMIT_SET (R14). The management interface sets the module power limit, from 1,200 W to 2,800 W in 10 W steps. -/
  | powerLimitSet (watts : Nat)
  /-- POWER_WINDOW (R14). At the end of each 10 ms power window, firmware lowers or raises island steps to hold the limit. -/
  | powerWindow (watts : Nat)
  /-- ISLAND_GATE_REQUEST (R13). A request to gate a core half is refused with BUSY while the half holds resident teams. -/
  | islandGateRequest (island : Nat)
  /-- ISLAND_STEP_CHANGE (R13). A deferred lowering of an island's step takes effect once every targeted thread has ended its exit routine. -/
  | islandStepChange (island : Nat)
  /-- THERMAL_WARNING (R15). At a junction temperature of 100 °C the island drops to its lowest non-gated step and a warning is posted to firmware. -/
  | thermalWarning (island : Nat) (temp : Nat)
  /-- FATAL_ERROR (R237). On a fatal error every slot, engine and walker stops, the dump is written and the device is reset. -/
  | fatalError (cause : FatalCause)
  /-- CORRECTED_ERROR (R9). A corrected HBM or die-to-die link error is counted for its channel or link. -/
  | correctedError (link : Bool) (index : Nat)
  /-- LINK_READ_REQUEST (R19). A one-slot read request from a peer arrives and is served at this device's home slice. -/
  | linkReadRequest (port : Nat) (dev : Nat) (hdr : BitVec 64) (slot : Nat) (num : Nat) (addr : Nat) (cls : Nat)
  /-- LINK_WRITE (R19). A five-slot 64-byte write message from a peer arrives and is performed in per-line order. -/
  | linkWrite (port : Nat) (dev : Nat) (hdr : BitVec 64) (slot : Nat) (num : Nat) (addr : Nat) (form : WriteForm) (data : BitVec 512)
  /-- LINK_READ_RESPONSE (R19). A five-slot read response arrives and completes the waiting remote load. -/
  | linkReadResponse (port : Nat) (dev : Nat) (hdr : BitVec 64) (slot : Nat) (num : Nat) (expiry : Nat) (data : BitVec 512)
  /-- LINK_ACKNOWLEDGEMENT (R19). An acknowledgement arrives and completes a remote store at system scope. -/
  | linkAcknowledgement (port : Nat) (dev : Nat) (hdr : BitVec 64) (slot : Nat) (num : Nat)
  /-- LINK_REPLAY_REQUEST (R20). A replay request flit makes the sender resend the named flit from its replay buffer. -/
  | linkReplayRequest (port : Nat) (dev : Nat) (hdr : BitVec 64)
  /-- PORT_DOWN (R20). After eight failed replays of one flit the port goes down and its peers' traffic moves to other ports. -/
  | portDown (port : Nat)
  /-- FAILOVER_MESSAGE (R21). A resent type-3 flit arrives and is dropped if its original sequence number was already received on the failed port. -/
  | failoverMessage (port : Nat) (dev : Nat) (hdr : BitVec 64) (slot : Nat) (kind : Nat) (num : Nat) (addr : Nat) (form : WriteForm) (cls : Nat) (expiry : Nat) (data : BitVec 512)
  /-- PEER_TIMEOUT (R20). A request to a peer that no port reaches ends after 100 µs with EXTERNAL_ABORT. -/
  | peerTimeout (num : Nat)
  /-- CREATE_CONTEXT (R34). Reads and validates a context descriptor, allots a context id, commits its view tag quota and starts the root grid. -/
  | createContext
  /-- DESTROY_CONTEXT (R34). Pre-empts every team of the context, discards its views and scrubs its state. -/
  | destroyContext
  /-- SUSPEND_CONTEXT (R34). Pre-empts every team of the context and holds its records. -/
  | suspendContext
  /-- RESUME_CONTEXT (R34). Makes a suspended context's records eligible to run again. -/
  | resumeContext
  /-- SET_WATCHDOG (R96). Sets the watchdog window of a context. -/
  | setWatchdog
  /-- MEASURE_STEWARD (R66). Extends MEAS5 once with the staged steward image, only before the first CREATE_CONTEXT. -/
  | measureSteward
  /-- BAD_COMMAND (R30). A mailbox command with an unknown code ends with RESULT 0x01. -/
  | badCommand
  /-- COMMAND_END (R30). When a mailbox command ends, the device writes OUT, TAG and RESULT, clears BUSY and raises PF vector 0. -/
  | commandEnd
  /-- WINDOW_READ (R46). A host read through a device-memory window is mapped by its segment table, and a failed read returns all ones. -/
  | windowRead (via : WindowVia) (off : Nat) (n : Nat)
  /-- WINDOW_WRITE (R36). A host write through a window becomes a system-scope store at its home slice, in arrival order per link. -/
  | windowWrite (via : WindowVia) (off : Nat) (n : Nat) (data : BitVec 512)
  /-- VECTOR_UNMASK (R38). Unmasking an MSI-X vector whose pending bit is set sends one message. -/
  | vectorUnmask (fn : Nat) (vec : Nat)
  /-- MSI_MESSAGE (R38). A host signal's MSI-X message is sent once every earlier store of the thread has completed at system scope. -/
  | msiMessage
  /-- FAULT_VECTOR (R39). The context's fault vector is raised after fault records are written, at most once per 1 µs. -/
  | faultVector (ctx : Nat)
  /-- UNTRUSTED_ACCESS (R48). An untrusted access to a guarded page reads zero or drops the write, counts in UNTRUSTED and appends audit entry 0x0001. -/
  | untrustedAccess
  /-- REGISTER_WRITE (R4). A write to a register field that has no row of its own, following its access code. -/
  | registerWrite (page : Nat) (off : Nat) (val : Word)
  /-- HFEN_WRITE (R44). A write of HFEN takes effect only when HFBASE is aligned and HFENTRIES is legal. -/
  | hfenWrite (en : Bool)
  /-- DEFINE (R52). The staged bitmaps become the ownership of an undefined partition. -/
  | define
  /-- DELETE (R52). A partition's resources return to no owner. -/
  | delete
  /-- GROW (R52). The staged resources are added to the partition. -/
  | grow
  /-- SHRINK (R88). The staged resources are removed from the partition, pre-empting teams on removed clusters. -/
  | shrink
  /-- LEND (R53). Pre-empts the lender's teams on the staged clusters, scrubs the clusters and gives them to the borrower. -/
  | lend
  /-- RECLAIM (R54). Pre-empts the borrower's teams on the staged clusters so that they can be returned to the lender. -/
  | reclaim
  /-- RECLAIM_COMPLETE (R54). Once every pre-empted save record is written, the reclaimed clusters are scrubbed and returned, and BUSY clears. -/
  | reclaimComplete
  /-- PARTITION_READ (R52). A partition's owned resources are written to the staging page. -/
  | partitionRead
  /-- BIND (R55). Binds or renews a bulk-engine lease for a context. -/
  | bind
  /-- LEASE_RELEASE (R55). Ends a bulk-engine lease at once. -/
  | leaseRelease
  /-- LEASE_EXPIRY (R55). At EXPIRY the lease ends, and queued requests of the context report NO_LEASE. -/
  | leaseExpiry (eng : Nat)
  /-- PAVILION_CREATE (R57). Creates a pavilion, generating its key and evicting other lines from its reserved ways. -/
  | pavilionCreate
  /-- ASSIGN (R57). Assigns quadrants and fenced banks of a core to a pavilion. -/
  | assign
  /-- UNASSIGN (R57). Removes quadrants and banks of a core from a pavilion. -/
  | unassign
  /-- ADDFRAME (R62). Adds frames to the pavilion's sealed frame list, marking them fresh during a rotation. -/
  | addframe
  /-- DELFRAME (R62). Scrubs frames and removes them from the sealed frame list. -/
  | delframe
  /-- PAVILION_DESTROY (R57). Scrubs the pavilion's frames and destroys its key last. -/
  | pavilionDestroy
  /-- KEY_ROTATION_GO (R60). Starts rotating a pavilion's lines to a fresh key. -/
  | keyRotationGo
  /-- SWEEP_LINE (R61). The rotation sweep reads, unseals and reseals the line at POINTER and advances POINTER. -/
  | sweepLine
  /-- FRAME_QUEUE (R64). A write of FRGO queues a frame for scrub and marks its granules scrub-pending. -/
  | frameQueue
  /-- FRAME_SCRUB (R65). An engine zeroes a queued frame, invalidates every cached copy, clears the marks and writes TOKEN. -/
  | frameScrub
  /-- MEAS_EXTEND (R67). A write of EXTGO extends MEAS6 or MEAS7 with the written digest and appends an audit entry. -/
  | measExtend
  /-- GET_VERSION (R68). The SPDM responder answers GET_VERSION. -/
  | getVersion
  /-- GET_CAPABILITIES (R68). The SPDM responder answers GET_CAPABILITIES. -/
  | getCapabilities
  /-- NEGOTIATE_ALGORITHMS (R68). The SPDM responder offers only Ed25519 and SHA-512. -/
  | negotiateAlgorithms
  /-- GET_CERTIFICATE (R68). The SPDM responder returns the identity certificate chain in slot 0. -/
  | getCertificate (slot : Nat)
  /-- CHALLENGE (R68). The SPDM responder signs a challenge response with the device identity key. -/
  | challenge (slot : Nat) (nonce : BitVec 512)
  /-- GET_MEASUREMENTS (R68). The SPDM responder returns MEAS0-MEAS7 as measurement blocks. -/
  | getMeasurements (index : Nat)
  /-- UNSUPPORTED_REQUEST (R68). Any other SPDM request receives ERROR with code UnsupportedRequest. -/
  | unsupportedRequest (code : Nat)
  /-- SIGREQ (R70). A write of SIGREQ signs the head of the audit log now. -/
  | sigreq
  /-- LPCODE (R71). A firmware write of LPCODE appends one audit entry with the staged detail and clears LPDETAIL. -/
  | lpcode (code : Word)
  /-- KEYX (R74). Makes a fresh X25519 key pair for the pavilion and fills HOOWNX and HOOWNSIG. -/
  | keyx
  /-- PREPARE (R72). Seals a pavilion image under the transfer key, suspending it for a MOVE. -/
  | prepare
  /-- HANDOVER_COMMIT (R72). Verifies the destination receipt, destroys the pavilion key, scrubs its frames and signs a commit proof. -/
  | handoverCommit
  /-- HANDOVER_ABORT (R72). Destroys the transfer key and returns a sealed pavilion to LIVE. -/
  | handoverAbort
  /-- ACCEPT (R74). At the destination, opens and checks an image, fills the pavilion and writes a receipt. -/
  | accept
  /-- HANDOVER_RELEASE (R74). At the destination, verifies a release and makes the accepted pavilion's contexts eligible to run. -/
  | handoverRelease
  /-- STATEMENT (R74). At the source, signs a release statement or a reset statement for the pavilion. -/
  | statement
  /-- INVALIDATE (R147). Removes the cached translations of a context's pages and waits for accesses that used them. -/
  | invalidate (fn : Nat)
  /-- REPLAY (R149). Retries logged accesses by a fresh table walk. -/
  | replay (fn : Nat)
  /-- ABORT (R149). Discards logged accesses, poisons their destinations and makes the thread trap. -/
  | abort (fn : Nat)
  /-- INJECT (R149). Copies a hypervisor-area fault into the context's own area as a PAGE_FAULT record. -/
  | inject (fn : Nat)
  /-- SPILL_ADD (R217). Adds an extent to a context's spill pool. -/
  | spillAdd
  /-- SPILL_QUERY (R217). Writes the spill pool's size and use to SPTOTAL and SPUSED. -/
  | spillQuery
  /-- CHECKPOINT_START (R234). Takes a checkpoint of the listed ranges of a context at once. -/
  | checkpointStart
  /-- ARM (R233). Stores a checkpoint list for a context and arms a firmware-triggered checkpoint. -/
  | arm
  /-- DISARM (R233). Clears ARMED for a context. -/
  | disarm
  /-- CHECKPOINT_WARNING (R233). On a warning, firmware checkpoints each armed context in ascending id and disarms it. -/
  | checkpointWarning
  /-- CHECKPOINT_TICK (R234). Once every routine of the suspended context has ended, dirty lines are written back and the staging copy starts. -/
  | checkpointTick
  /-- STAGED_COMMIT (R234). After the copy, the staged commit record is written, CKSEQ updated, vector 5 raised and the context resumed. -/
  | stagedCommit
  /-- OB_SET (R242). Gives a context its trace and sample ring and zeroes its head, tail and lost count. -/
  | obSet
  /-- OB_READ (R242). Writes a context's ring head, tail and lost count to the block. -/
  | obRead
  /-- HIST (R242). Copies a quadrant's eligibility histogram to HGVAL and optionally clears it. -/
  | hist
  /-- OB_TAIL (R242). Sets a context's ring tail to OBTAIL. -/
  | obTail
  /-- SAMPLE (R239). When the sampler interval expires, the quadrant records the issued flock and one unpicked path. -/
  | sample (core : Nat) (quad : Nat)
  /-- LAUNCH_COMPLETE (R80). A launch waiting on a full controller completes when an entry frees, in issue order. -/
  | launchComplete (seq : Nat)
  /-- GRID_READY (R82). A write to the wait-on word's line makes a pending grid ready once the word reaches the expected value. -/
  | gridReady (grid : Nat)
  /-- TEAM_PLACE (R85). The dispatcher places the next team of the grid of highest precedence whole on a chosen core. -/
  | teamPlace (part : Nat)
  /-- RESIDENCY_EXPIRY (R84). When a protected team reaches 4,096 ticks of residency, the dispatcher tries placement again. -/
  | residencyExpiry (team : Nat)
  /-- THREAD_VECTORING (R173). A pre-empted thread reaches an instruction boundary and is vectored to its region's exit routine. -/
  | threadVectoring (t : Tid)
  /-- ROUTINE_OVERRUN (R176). An exit routine's budget runs out before exit.save, so the routine ends OVERRUN and a fallback dump is taken. -/
  | routineOverrun (t : Tid)
  /-- SAVE_RECORD_COMPLETE (R177). Once every routine or dump has ended and the gate has drained, the group's save record is completed and the resources are freed. -/
  | saveRecordComplete (team : Nat)
  /-- BUDGET_EVENT (R89). A slice budget reaching its count pre-empts the grid's teams and advances or holds the grid. -/
  | budgetEvent (grid : Nat)
  /-- WATCHDOG_EXPIRY (R97). W ticks without progress classify the waiting threads and then post a quiescent notice or fire the watchdog. -/
  | watchdogExpiry (ctx : Nat)
  /-- TEAM_RETIRE (R114). A team retires when its last group has retired and its engine operations have delivered. -/
  | teamRetire (team : Nat)
  /-- FLOCK_PICK (R94). At a slot turn, the picker forms a flock from the first path in order. -/
  | flockPick (core : Nat) (quad : Nat) (k : Nat)
  /-- PERFORM_LOAD (R157). A load binds its value from the gate, a lease copy or the home slice. -/
  | performLoad (t : Tid) (acc : Nat)
  /-- ENTER_GATE (R157). A region-0 store enters the core's store gate and raises WCT_team. -/
  | enterGate (t : Tid) (acc : Nat)
  /-- DRAIN (R157). A store-gate entry reaches its home slice, gets its completion time and raises the completion registers. -/
  | drain (t : Tid) (acc : Nat)
  /-- EXPIRE (R157). A lease copy is dropped when T reaches its expiry. -/
  | expire (store : Nat) (line : Nat)
  /-- PERFORM_ATOMIC (R157). An atomic or reduction is performed at its home slice at its completion time. -/
  | performAtomic (t : Tid) (acc : Nat)
  /-- SCRATCH_ACCESS (R157). A scratchpad access is performed at its bank in arrival order. -/
  | scratchAccess (t : Tid) (acc : Nat)
  /-- EXTERNAL_ACCESS (R161). An external access is performed after earlier external accesses have completed at system scope. -/
  | externalAccess (t : Tid) (acc : Nat)
  /-- FINISH_FENCE (R162). A fence leaves the issue queue when its preconditions hold. -/
  | finishFence (t : Tid) (acc : Nat)
  /-- ENGINE_WRITE (R166). An engine write is performed at its bank or home slice. -/
  | engineWrite (op : Nat) (host : HostStores)
  /-- ENGINE_STATUS (R166). An engine operation's status word is delivered at d and its range locks are removed. -/
  | engineStatus (op : Nat)
  /-- COMMIT (R168). At tc, a view becomes an alias of its parent at every slice. -/
  | commit (tag : Nat)
  /-- DISCARD (R168). A view is discarded at one tick, and its versions are never returned again. -/
  | discard (tag : Nat)
  /-- PAGE_WALK (R145). A page walk reads table lines at home and completes a translation or takes a fault. -/
  | pageWalk (t : Tid) (acc : Nat) (off : Word)
  /-- GRANULE_REQUEST (R200). A task's request for a granule is decided at the granule home on arrival. -/
  | granuleRequest (t : Tid) (acc : Nat)
  /-- WOUND (R203). A wound reaches a family's anchor and starts its rollback unless a commit was accepted first. -/
  | wound (family : Nat)
  /-- COMMIT_REQUEST (R203). A tend commit reaches the anchor and is accepted unless a wound came first. -/
  | commitRequest (team : Nat)
  /-- ROLLBACK (R204). When the family's last thread is taken, its views are discarded, holds released and the anchor team restarted. -/
  | rollback (family : Nat)
  /-- TASK_RESTART (R421). A rolled-back task restarts after tbegin with a new draft tag, waiting if no tag is free. -/
  | taskRestart (family : Nat)
  /-- SWEEPER (R218). The slice sweeper merges aliased versions and invalidates dead ones in the background. -/
  | sweeper (tag : Nat) (line : Nat)
  /-- TAG_FREE (R218). A tag becomes free when no line carries it and 4,096 ticks have passed since its commit or discard. -/
  | tagFree (tag : Nat)
  /-- FORK_COPY_DONE (R222). The copies of fork.w end, and every world continues after the fork. -/
  | forkCopyDone (fork : Nat)
  /-- CHOOSE_FIRST_REQUEST (R226). A choose.first request reaches the fork anchor, and the first accepted wins. -/
  | chooseFirstRequest (fork : Nat) (world : Nat)
  /-- CHOOSE_BEST_ARRIVAL (R227). A choose.best arrival or wabort reaches the fork anchor, which decides when the last world arrives. -/
  | chooseBestArrival (team : Nat)
  /-- CHOOSE_COPY_DONE (R228). The winner's state is copied into world 0's slot. -/
  | chooseCopyDone (fork : Nat)
  /-- SLEEP_END (R364). A timed sleep ends after its count of device ticks. -/
  | sleepEnd (t : Tid)
  /-- ENGINE_START (R381). An engine operation enters its range locks and starts once entries and earlier accesses allow. -/
  | engineStart (op : Nat)
  /-- MULTICAST_BEAT (R387). A multicast beat is written if its generation matches the destination, else dropped as STALE_TARGET. -/
  | multicastBeat (op : Nat) (p : Nat) (host : HostStores)
  /-- ENGINE_PEN_UPDATE (R392). An engine's byte count update reaches a pen's combiner. -/
  | enginePenUpdate (op : Nat)
  /-- GATHER_PUSH (R393). The gather engine reads the next element and pushes it into the trough, waiting while it is full. -/
  | gatherPush (op : Nat) (host : HostStores) (between : HostStores)
  /-- TROUGH_SERVE (R396). A queued pop or push is served when a slot is filled or freed. -/
  | troughServe (team : Nat) (q : Nat) (pop : Nat)
  /-- BULK_TRANSFER (R391). A bulk engine performs the operation at the head of its queue, or reports NO_LEASE. -/
  | bulkTransfer (eng : Nat) (ats : Bool) (host : HostStores)
  /-- MATRIX_OP_START (R401). A matrix queue operation starts at the head of the queue. -/
  | matrixOpStart (core : Nat) (quad : Nat)
  /-- MATRIX_CHUNK (R257). One K-chunk of an mx.mma is applied to every tile element, rounded once. -/
  | matrixChunk (core : Nat) (quad : Nat)
  /-- NOP (R292). Does nothing. -/
  | nop (st : BitVec 2)
  /-- YIELD (R292). Ends the clause as if its header had YIELD 2. -/
  | yield (st : BitVec 2)
  /-- SLEEPTK (R292). Makes the thread wait off the slot while the named register is pending. -/
  | sleeptk (a : BitVec 7) (st : BitVec 2)
  /-- ADD (R293). 32-bit add. -/
  | add (d : BitVec 7) (a : BitVec 7) (b : BitVec 7) (st : BitVec 2)
  /-- SUB (R293). 32-bit subtract. -/
  | sub (d : BitVec 7) (a : BitVec 7) (b : BitVec 7) (st : BitVec 2)
  /-- ADDC (R293). Add with carry through p47. -/
  | addc (d : BitVec 7) (a : BitVec 7) (b : BitVec 7) (st : BitVec 2)
  /-- SUBB (R293). Subtract with borrow through p47. -/
  | subb (d : BitVec 7) (a : BitVec 7) (b : BitVec 7) (st : BitVec 2)
  /-- ADDS_I32 (R293). Signed saturating add. -/
  | addsI32 (d : BitVec 7) (a : BitVec 7) (b : BitVec 7) (st : BitVec 2)
  /-- SUBS_I32 (R293). Signed saturating subtract. -/
  | subsI32 (d : BitVec 7) (a : BitVec 7) (b : BitVec 7) (st : BitVec 2)
  /-- ADDS_N32 (R293). Unsigned saturating add. -/
  | addsN32 (d : BitVec 7) (a : BitVec 7) (b : BitVec 7) (st : BitVec 2)
  /-- SUBS_N32 (R293). Unsigned saturating subtract. -/
  | subsN32 (d : BitVec 7) (a : BitVec 7) (b : BitVec 7) (st : BitVec 2)
  /-- ADDI (R294). Add a sign-extended immediate. -/
  | addi (d : BitVec 7) (a : BitVec 7) (i : BitVec 8) (st : BitVec 2)
  /-- ANDI (R294). AND with a zero-extended immediate. -/
  | andi (d : BitVec 7) (a : BitVec 7) (i : BitVec 8) (st : BitVec 2)
  /-- ORI (R294). OR with a zero-extended immediate. -/
  | ori (d : BitVec 7) (a : BitVec 7) (i : BitVec 8) (st : BitVec 2)
  /-- XORI (R294). XOR with a zero-extended immediate. -/
  | xori (d : BitVec 7) (a : BitVec 7) (i : BitVec 8) (st : BitVec 2)
  /-- MUL (R295). Low 32 bits of a product. -/
  | mul (d : BitVec 7) (a : BitVec 7) (b : BitVec 7) (st : BitVec 2)
  /-- MULHI_I32 (R295). High word of a signed product. -/
  | mulhiI32 (d : BitVec 7) (a : BitVec 7) (b : BitVec 7) (st : BitVec 2)
  /-- MULHI_N32 (R295). High word of an unsigned product. -/
  | mulhiN32 (d : BitVec 7) (a : BitVec 7) (b : BitVec 7) (st : BitVec 2)
  /-- MAD (R295). Low product plus vd. -/
  | mad (d : BitVec 7) (a : BitVec 7) (b : BitVec 7) (st : BitVec 2)
  /-- MADHI_I32 (R295). Signed high product plus vd. -/
  | madhiI32 (d : BitVec 7) (a : BitVec 7) (b : BitVec 7) (st : BitVec 2)
  /-- MADHI_N32 (R295). Unsigned high product plus vd. -/
  | madhiN32 (d : BitVec 7) (a : BitVec 7) (b : BitVec 7) (st : BitVec 2)
  /-- MULW_I32 (R295). 64-bit signed product into a pair. -/
  | mulwI32 (d : BitVec 7) (a : BitVec 7) (b : BitVec 7) (st : BitVec 2)
  /-- MULW_N32 (R295). 64-bit unsigned product into a pair. -/
  | mulwN32 (d : BitVec 7) (a : BitVec 7) (b : BitVec 7) (st : BitVec 2)
  /-- AND (R296). Bitwise AND. -/
  | and (d : BitVec 7) (a : BitVec 7) (b : BitVec 7) (st : BitVec 2)
  /-- OR (R296). Bitwise OR. -/
  | or (d : BitVec 7) (a : BitVec 7) (b : BitVec 7) (st : BitVec 2)
  /-- XOR (R296). Bitwise XOR. -/
  | xor (d : BitVec 7) (a : BitVec 7) (b : BitVec 7) (st : BitVec 2)
  /-- ANDN (R296). va AND NOT vb. -/
  | andn (d : BitVec 7) (a : BitVec 7) (b : BitVec 7) (st : BitVec 2)
  /-- ORN (R296). va OR NOT vb. -/
  | orn (d : BitVec 7) (a : BitVec 7) (b : BitVec 7) (st : BitVec 2)
  /-- XNOR (R296). Bitwise XNOR. -/
  | xnor (d : BitVec 7) (a : BitVec 7) (b : BitVec 7) (st : BitVec 2)
  /-- NOT (R296). Bitwise NOT. -/
  | not (d : BitVec 7) (a : BitVec 7) (st : BitVec 2)
  /-- SHL (R297). Shift left by a register count. -/
  | shl (d : BitVec 7) (a : BitVec 7) (b : BitVec 7) (st : BitVec 2)
  /-- SHR_N32 (R297). Logical shift right. -/
  | shrN32 (d : BitVec 7) (a : BitVec 7) (b : BitVec 7) (st : BitVec 2)
  /-- SHR_I32 (R297). Arithmetic shift right. -/
  | shrI32 (d : BitVec 7) (a : BitVec 7) (b : BitVec 7) (st : BitVec 2)
  /-- ROTL (R297). Rotate left. -/
  | rotl (d : BitVec 7) (a : BitVec 7) (b : BitVec 7) (st : BitVec 2)
  /-- ROTR (R297). Rotate right. -/
  | rotr (d : BitVec 7) (a : BitVec 7) (b : BitVec 7) (st : BitVec 2)
  /-- FSHL (R297). Funnel shift left of va:vd. -/
  | fshl (d : BitVec 7) (a : BitVec 7) (b : BitVec 7) (st : BitVec 2)
  /-- FSHR (R297). Funnel shift right of va:vd. -/
  | fshr (d : BitVec 7) (a : BitVec 7) (b : BitVec 7) (st : BitVec 2)
  /-- SHLI (R297). Shift left by an immediate. -/
  | shli (d : BitVec 7) (a : BitVec 7) (i : BitVec 5) (st : BitVec 2)
  /-- SHRI_N32 (R297). Logical shift right by an immediate. -/
  | shriN32 (d : BitVec 7) (a : BitVec 7) (i : BitVec 5) (st : BitVec 2)
  /-- SHRI_I32 (R297). Arithmetic shift right by an immediate. -/
  | shriI32 (d : BitVec 7) (a : BitVec 7) (i : BitVec 5) (st : BitVec 2)
  /-- ROTI (R297). Rotate left by an immediate. -/
  | roti (d : BitVec 7) (a : BitVec 7) (i : BitVec 5) (st : BitVec 2)
  /-- POPC (R298). Population count. -/
  | popc (d : BitVec 7) (a : BitVec 7) (st : BitVec 2)
  /-- CLZ (R298). Count leading zeros. -/
  | clz (d : BitVec 7) (a : BitVec 7) (st : BitVec 2)
  /-- CTZ (R298). Count trailing zeros. -/
  | ctz (d : BitVec 7) (a : BitVec 7) (st : BitVec 2)
  /-- BREV (R298). Bit reverse. -/
  | brev (d : BitVec 7) (a : BitVec 7) (st : BitVec 2)
  /-- BSWAP (R298). Byte swap. -/
  | bswap (d : BitVec 7) (a : BitVec 7) (st : BitVec 2)
  /-- PERM (R298). Byte permute from va and vd. -/
  | perm (d : BitVec 7) (a : BitVec 7) (b : BitVec 7) (st : BitVec 2)
  /-- BMSK (R298). Build a bit mask. -/
  | bmsk (d : BitVec 7) (a : BitVec 7) (b : BitVec 7) (st : BitVec 2)
  /-- BFX_N32 (R299). Unsigned bit field extract. -/
  | bfxN32 (d : BitVec 7) (a : BitVec 7) (b : BitVec 7) (st : BitVec 2)
  /-- BFX_I32 (R299). Signed bit field extract. -/
  | bfxI32 (d : BitVec 7) (a : BitVec 7) (b : BitVec 7) (st : BitVec 2)
  /-- BFI (R299). Bit field insert. -/
  | bfi (d : BitVec 7) (a : BitVec 7) (b : BitVec 7) (st : BitVec 2)
  /-- MIN_I32 (R300). Signed minimum. -/
  | minI32 (d : BitVec 7) (a : BitVec 7) (b : BitVec 7) (st : BitVec 2)
  /-- MAX_I32 (R300). Signed maximum. -/
  | maxI32 (d : BitVec 7) (a : BitVec 7) (b : BitVec 7) (st : BitVec 2)
  /-- MIN_N32 (R300). Unsigned minimum. -/
  | minN32 (d : BitVec 7) (a : BitVec 7) (b : BitVec 7) (st : BitVec 2)
  /-- MAX_N32 (R300). Unsigned maximum. -/
  | maxN32 (d : BitVec 7) (a : BitVec 7) (b : BitVec 7) (st : BitVec 2)
  /-- ABS_I32 (R300). Absolute value. -/
  | absI32 (d : BitVec 7) (a : BitVec 7) (st : BitVec 2)
  /-- NEG_I32 (R300). Negate. -/
  | negI32 (d : BitVec 7) (a : BitVec 7) (st : BitVec 2)
  /-- ADIFF_N32 (R300). Unsigned absolute difference. -/
  | adiffN32 (d : BitVec 7) (a : BitVec 7) (b : BitVec 7) (st : BitVec 2)
  /-- MOV (R301). Register copy. -/
  | mov (d : BitVec 7) (a : BitVec 7) (st : BitVec 2)
  /-- SEL (R301). Select by the covering guard's condition. -/
  | sel (d : BitVec 7) (a : BitVec 7) (b : BitVec 7) (st : BitVec 2)
  /-- MOVS_READ (R302). Reads a special register. -/
  | movsRead (d : BitVec 7) (a : BitVec 7) (st : BitVec 2)
  /-- MOVS_WRITE (R302). Writes %fctl, %fstat or %gmask. -/
  | movsWrite (d : BitVec 7) (a : BitVec 7) (st : BitVec 2)
  /-- POP (R303). Pops the next trough slot into vd. -/
  | pop (d : BitVec 7) (a : BitVec 7) (st : BitVec 2)
  /-- PUSH (R303). Pushes va into the next free trough slot. -/
  | push (d : BitVec 7) (a : BitVec 7) (st : BitVec 2)
  /-- MOVP (R301). Copies p0-p31 into vd. -/
  | movp (d : BitVec 7) (st : BitVec 2)
  /-- SETP (R301). Sets p0-p31 from va. -/
  | setp (a : BitVec 7) (st : BitVec 2)
  /-- MOVSV (R301). Copies a group scalar register into vd. -/
  | movsv (d : BitVec 7) (a : BitVec 7) (st : BitVec 2)
  /-- MOVL (R304). Loads a 16-bit immediate, zeroing the high half. -/
  | movl (d : BitVec 7) (i : BitVec 16) (st : BitVec 2)
  /-- MOVH (R304). Loads a 16-bit immediate into the high half. -/
  | movh (d : BitVec 7) (i : BitVec 16) (st : BitVec 2)
  /-- CMP_I32 (R305). Signed 32-bit compare into a predicate. -/
  | cmpI32 (cc : BitVec 4) (p : BitVec 6) (a : BitVec 7) (b : BitVec 7) (st : BitVec 2)
  /-- CMP_N32 (R305). Unsigned 32-bit compare into a predicate. -/
  | cmpN32 (cc : BitVec 4) (p : BitVec 6) (a : BitVec 7) (b : BitVec 7) (st : BitVec 2)
  /-- CMP_F32 (R306). F32 ordered or unordered compare. -/
  | cmpF32 (cc : BitVec 4) (p : BitVec 6) (a : BitVec 7) (b : BitVec 7) (st : BitVec 2)
  /-- CMP_64 (R305). Signed or unsigned 64-bit pair compare. -/
  | cmp64 (cc : BitVec 4) (p : BitVec 6) (a : BitVec 7) (b : BitVec 7) (st : BitVec 2)
  /-- PAND (R307). Predicate AND. -/
  | pand (d : BitVec 6) (a : BitVec 6) (b : BitVec 6) (m : BitVec 1) (n : BitVec 1) (st : BitVec 2)
  /-- POR (R307). Predicate OR. -/
  | por (d : BitVec 6) (a : BitVec 6) (b : BitVec 6) (m : BitVec 1) (n : BitVec 1) (st : BitVec 2)
  /-- PXOR (R307). Predicate XOR. -/
  | pxor (d : BitVec 6) (a : BitVec 6) (b : BitVec 6) (m : BitVec 1) (n : BitVec 1) (st : BitVec 2)
  /-- PMOV (R307). Predicate move. -/
  | pmov (d : BitVec 6) (a : BitVec 6) (m : BitVec 1) (st : BitVec 2)
  /-- PSET (R307). Sets a predicate. -/
  | pset (d : BitVec 6) (st : BitVec 2)
  /-- PCLR (R307). Clears a predicate. -/
  | pclr (d : BitVec 6) (st : BitVec 2)
  /-- GUARD (R308). Latches a predicate condition over the next LEN words. -/
  | guard (n : BitVec 1) (g : BitVec 6) (l : BitVec 3) (st : BitVec 2)
  /-- BRA (R309). Conditional branch to a clause header. -/
  | bra (n : BitVec 1) (g : BitVec 6) (o : BitVec 17) (st : BitVec 2)
  /-- CALL (R309). Conditional call, pushing the next header. -/
  | call (n : BitVec 1) (g : BitVec 6) (o : BitVec 17) (st : BitVec 2)
  /-- JMP (R310). Jumps to a register target. -/
  | jmp (a : BitVec 7) (st : BitVec 2)
  /-- CALLR (R310). Calls a register target. -/
  | callr (a : BitVec 7) (st : BitVec 2)
  /-- RET (R310). Returns to the popped offset. -/
  | ret (st : BitVec 2)
  /-- FADD (R316). F32 add. -/
  | fadd (d : BitVec 7) (a : BitVec 7) (b : BitVec 7) (st : BitVec 2)
  /-- FSUB (R316). F32 subtract. -/
  | fsub (d : BitVec 7) (a : BitVec 7) (b : BitVec 7) (st : BitVec 2)
  /-- FMUL (R316). F32 multiply. -/
  | fmul (d : BitVec 7) (a : BitVec 7) (b : BitVec 7) (st : BitVec 2)
  /-- FMIN (R317). F32 minimum, NaN-propagating. -/
  | fmin (d : BitVec 7) (a : BitVec 7) (b : BitVec 7) (st : BitVec 2)
  /-- FMAX (R317). F32 maximum, NaN-propagating. -/
  | fmax (d : BitVec 7) (a : BitVec 7) (b : BitVec 7) (st : BitVec 2)
  /-- FMINNUM (R317). F32 minimum ignoring one NaN. -/
  | fminnum (d : BitVec 7) (a : BitVec 7) (b : BitVec 7) (st : BitVec 2)
  /-- FMAXNUM (R317). F32 maximum ignoring one NaN. -/
  | fmaxnum (d : BitVec 7) (a : BitVec 7) (b : BitVec 7) (st : BitVec 2)
  /-- FCOPYSIGN (R316). Magnitude of va with the sign of vb. -/
  | fcopysign (d : BitVec 7) (a : BitVec 7) (b : BitVec 7) (st : BitVec 2)
  /-- FFMA (R318). F32 fused multiply-add. -/
  | ffma (d : BitVec 7) (a : BitVec 7) (b : BitVec 7) (st : BitVec 2)
  /-- FFMS (R318). F32 fused multiply-subtract. -/
  | ffms (d : BitVec 7) (a : BitVec 7) (b : BitVec 7) (st : BitVec 2)
  /-- FFNMA (R318). F32 negated fused multiply-add. -/
  | ffnma (d : BitVec 7) (a : BitVec 7) (b : BitVec 7) (st : BitVec 2)
  /-- FFNMS (R318). F32 negated fused multiply-subtract. -/
  | ffnms (d : BitVec 7) (a : BitVec 7) (b : BitVec 7) (st : BitVec 2)
  /-- HADD_BF16X2 (R319). Packed BF16 add. -/
  | haddBf16x2 (d : BitVec 7) (a : BitVec 7) (b : BitVec 7) (st : BitVec 2)
  /-- HMUL_BF16X2 (R319). Packed BF16 multiply. -/
  | hmulBf16x2 (d : BitVec 7) (a : BitVec 7) (b : BitVec 7) (st : BitVec 2)
  /-- HFMA_BF16X2 (R319). Packed BF16 fused multiply-add. -/
  | hfmaBf16x2 (d : BitVec 7) (a : BitVec 7) (b : BitVec 7) (st : BitVec 2)
  /-- HADD_F16X2 (R319). Packed F16 add. -/
  | haddF16x2 (d : BitVec 7) (a : BitVec 7) (b : BitVec 7) (st : BitVec 2)
  /-- HMUL_F16X2 (R319). Packed F16 multiply. -/
  | hmulF16x2 (d : BitVec 7) (a : BitVec 7) (b : BitVec 7) (st : BitVec 2)
  /-- HFMA_F16X2 (R319). Packed F16 fused multiply-add. -/
  | hfmaF16x2 (d : BitVec 7) (a : BitVec 7) (b : BitVec 7) (st : BitVec 2)
  /-- HMAX_BF16X2 (R319). Packed BF16 maximum. -/
  | hmaxBf16x2 (d : BitVec 7) (a : BitVec 7) (b : BitVec 7) (st : BitVec 2)
  /-- HMIN_BF16X2 (R319). Packed BF16 minimum. -/
  | hminBf16x2 (d : BitVec 7) (a : BitVec 7) (b : BitVec 7) (st : BitVec 2)
  /-- DADD (R320). F64 add. -/
  | dadd (d : BitVec 7) (a : BitVec 7) (b : BitVec 7) (st : BitVec 2)
  /-- DSUB (R320). F64 subtract. -/
  | dsub (d : BitVec 7) (a : BitVec 7) (b : BitVec 7) (st : BitVec 2)
  /-- DMUL (R320). F64 multiply. -/
  | dmul (d : BitVec 7) (a : BitVec 7) (b : BitVec 7) (st : BitVec 2)
  /-- DFMA (R320). F64 fused multiply-add. -/
  | dfma (d : BitVec 7) (a : BitVec 7) (b : BitVec 7) (st : BitVec 2)
  /-- DMIN (R317). F64 minimum. -/
  | dmin (d : BitVec 7) (a : BitVec 7) (b : BitVec 7) (st : BitVec 2)
  /-- DMAX (R317). F64 maximum. -/
  | dmax (d : BitVec 7) (a : BitVec 7) (b : BitVec 7) (st : BitVec 2)
  /-- DDIV (R320). F64 divide. -/
  | ddiv (d : BitVec 7) (a : BitVec 7) (b : BitVec 7) (st : BitVec 2)
  /-- DSQRT (R320). F64 square root. -/
  | dsqrt (d : BitVec 7) (a : BitVec 7) (st : BitVec 2)
  /-- RCP (R323). F32 reciprocal. -/
  | rcp (d : BitVec 7) (a : BitVec 7) (st : BitVec 2)
  /-- RSQRT (R323). F32 reciprocal square root. -/
  | rsqrt (d : BitVec 7) (a : BitVec 7) (st : BitVec 2)
  /-- SQRT (R323). F32 square root. -/
  | sqrt (d : BitVec 7) (a : BitVec 7) (st : BitVec 2)
  /-- LOG2 (R323). F32 base-2 logarithm. -/
  | log2 (d : BitVec 7) (a : BitVec 7) (st : BitVec 2)
  /-- EXP2 (R323). F32 base-2 exponential. -/
  | exp2 (d : BitVec 7) (a : BitVec 7) (st : BitVec 2)
  /-- SIN (R323). F32 sine. -/
  | sin (d : BitVec 7) (a : BitVec 7) (st : BitVec 2)
  /-- COS (R323). F32 cosine. -/
  | cos (d : BitVec 7) (a : BitVec 7) (st : BitVec 2)
  /-- TANH (R323). F32 hyperbolic tangent. -/
  | tanh (d : BitVec 7) (a : BitVec 7) (st : BitVec 2)
  /-- CVT (R328). Converts elements by the conversion code in FN. -/
  | cvt (f : BitVec 6) (d : BitVec 7) (a : BitVec 7) (m : BitVec 4) (st : BitVec 2)
  /-- DOT_I8X4 (R330). I8 dot product, wrapping. -/
  | dotI8x4 (d : BitVec 7) (a : BitVec 7) (b : BitVec 7) (st : BitVec 2)
  /-- DOTS_I8X4 (R330). I8 dot product, saturating. -/
  | dotsI8x4 (d : BitVec 7) (a : BitVec 7) (b : BitVec 7) (st : BitVec 2)
  /-- DOT_I4X8 (R330). I4 dot product. -/
  | dotI4x8 (d : BitVec 7) (a : BitVec 7) (b : BitVec 7) (st : BitVec 2)
  /-- DOT_F8AX4 (R330). F8A dot product into F32. -/
  | dotF8ax4 (d : BitVec 7) (a : BitVec 7) (b : BitVec 7) (st : BitVec 2)
  /-- DOT_F8BX4 (R330). F8B dot product into F32. -/
  | dotF8bx4 (d : BitVec 7) (a : BitVec 7) (b : BitVec 7) (st : BitVec 2)
  /-- DOT_L4X8 (R330). L4 dot product into F32. -/
  | dotL4x8 (d : BitVec 7) (a : BitVec 7) (b : BitVec 7) (st : BitVec 2)
  /-- DOT_BF16X2 (R330). BF16 dot product into F32. -/
  | dotBf16x2 (d : BitVec 7) (a : BitVec 7) (b : BitVec 7) (st : BitVec 2)
  /-- SCALEF (R331). Scales an F32 value by 2^k. -/
  | scalef (d : BitVec 7) (a : BitVec 7) (b : BitVec 7) (st : BitVec 2)
  /-- FEXP (R331). Extracts the exponent of an F32 value. -/
  | fexp (d : BitVec 7) (a : BitVec 7) (st : BitVec 2)
  /-- FMANT (R331). Extracts the mantissa of an F32 value. -/
  | fmant (d : BitVec 7) (a : BitVec 7) (st : BitVec 2)
  /-- SADD (R313). Scalar add. -/
  | sadd (d : BitVec 6) (a : BitVec 6) (b : BitVec 6) (i : BitVec 1) (st : BitVec 2)
  /-- SSUB (R313). Scalar subtract. -/
  | ssub (d : BitVec 6) (a : BitVec 6) (b : BitVec 6) (i : BitVec 1) (st : BitVec 2)
  /-- SMUL (R313). Scalar multiply. -/
  | smul (d : BitVec 6) (a : BitVec 6) (b : BitVec 6) (i : BitVec 1) (st : BitVec 2)
  /-- SAND (R313). Scalar AND. -/
  | sand (d : BitVec 6) (a : BitVec 6) (b : BitVec 6) (i : BitVec 1) (st : BitVec 2)
  /-- SOR (R313). Scalar OR. -/
  | sor (d : BitVec 6) (a : BitVec 6) (b : BitVec 6) (i : BitVec 1) (st : BitVec 2)
  /-- SXOR (R313). Scalar XOR. -/
  | sxor (d : BitVec 6) (a : BitVec 6) (b : BitVec 6) (i : BitVec 1) (st : BitVec 2)
  /-- SSHL (R313). Scalar shift left. -/
  | sshl (d : BitVec 6) (a : BitVec 6) (b : BitVec 6) (i : BitVec 1) (st : BitVec 2)
  /-- SSHR (R313). Scalar logical shift right. -/
  | sshr (d : BitVec 6) (a : BitVec 6) (b : BitVec 6) (i : BitVec 1) (st : BitVec 2)
  /-- SMOV (R313). Scalar move. -/
  | smov (d : BitVec 6) (b : BitVec 6) (i : BitVec 1) (st : BitVec 2)
  /-- SMIN (R313). Scalar signed minimum. -/
  | smin (d : BitVec 6) (a : BitVec 6) (b : BitVec 6) (i : BitVec 1) (st : BitVec 2)
  /-- SMAX (R313). Scalar signed maximum. -/
  | smax (d : BitVec 6) (a : BitVec 6) (b : BitVec 6) (i : BitVec 1) (st : BitVec 2)
  /-- SFROM (R313). Copies a vector register of the lowest admitted lane into a scalar. -/
  | sfrom (d : BitVec 6) (a : BitVec 6) (st : BitVec 2)
  /-- SLD_B32 (R341). Constant-path 4-byte load into a scalar. -/
  | sldB32 (d : BitVec 6) (a : BitVec 6) (b : BitVec 6) (i : BitVec 1) (st : BitVec 2)
  /-- SLD_B64 (R341). Constant-path 8-byte load into a scalar pair. -/
  | sldB64 (d : BitVec 6) (a : BitVec 6) (b : BitVec 6) (i : BitVec 1) (st : BitVec 2)
  /-- BSET (R314). Sets a base register from a scalar pair and B. -/
  | bset (d : BitVec 6) (a : BitVec 6) (b : BitVec 6) (i : BitVec 1) (st : BitVec 2)
  /-- BADD (R314). Adds an offset to a base register. -/
  | badd (d : BitVec 6) (a : BitVec 6) (b : BitVec 6) (i : BitVec 1) (st : BitVec 2)
  /-- BGET (R314). Reads part of a base register into scalars. -/
  | bget (d : BitVec 6) (a : BitVec 6) (b : BitVec 6) (st : BitVec 2)
  /-- BMOV (R314). Copies a base register. -/
  | bmov (d : BitVec 6) (a : BitVec 6) (st : BitVec 2)
  /-- LD (R339). Global load with a 32-bit offset. -/
  | ld (sz : BitVec 3) (d : BitVec 7) (b : BitVec 4) (o : BitVec 7) (ord : BitVec 3) (st : BitVec 2)
  /-- ST (R339). Global store with a 32-bit offset. -/
  | st (sz : BitVec 3) (d : BitVec 7) (b : BitVec 4) (o : BitVec 7) (ord : BitVec 3) (st : BitVec 2)
  /-- LDW (R339). Global load with a 64-bit offset pair. -/
  | ldw (sz : BitVec 3) (d : BitVec 7) (b : BitVec 4) (o : BitVec 7) (ord : BitVec 3) (st : BitVec 2)
  /-- STW (R339). Global store with a 64-bit offset pair. -/
  | stw (sz : BitVec 3) (d : BitVec 7) (b : BitVec 4) (o : BitVec 7) (ord : BitVec 3) (st : BitVec 2)
  /-- LDS (R340). Scratchpad load through w0 or wc. -/
  | lds (sz : BitVec 3) (d : BitVec 7) (b : BitVec 4) (o : BitVec 7) (ord : BitVec 3) (st : BitVec 2)
  /-- STS (R340). Scratchpad store through w0 or wc. -/
  | sts (sz : BitVec 3) (d : BitVec 7) (b : BitVec 4) (o : BitVec 7) (ord : BitVec 3) (st : BitVec 2)
  /-- ATOM_ADD_I32 (R343). Atomic 32-bit integer add. -/
  | atomAddI32 (d : BitVec 7) (b : BitVec 4) (o : BitVec 7) (ord : BitVec 3) (st : BitVec 2)
  /-- ATOM_ADD_F32 (R343). Atomic F32 add. -/
  | atomAddF32 (d : BitVec 7) (b : BitVec 4) (o : BitVec 7) (ord : BitVec 3) (st : BitVec 2)
  /-- ATOM_MIN_I32 (R343). Atomic signed minimum. -/
  | atomMinI32 (d : BitVec 7) (b : BitVec 4) (o : BitVec 7) (ord : BitVec 3) (st : BitVec 2)
  /-- ATOM_MAX_I32 (R343). Atomic signed maximum. -/
  | atomMaxI32 (d : BitVec 7) (b : BitVec 4) (o : BitVec 7) (ord : BitVec 3) (st : BitVec 2)
  /-- ATOM_MIN_N32 (R343). Atomic unsigned minimum. -/
  | atomMinN32 (d : BitVec 7) (b : BitVec 4) (o : BitVec 7) (ord : BitVec 3) (st : BitVec 2)
  /-- ATOM_MAX_N32 (R343). Atomic unsigned maximum. -/
  | atomMaxN32 (d : BitVec 7) (b : BitVec 4) (o : BitVec 7) (ord : BitVec 3) (st : BitVec 2)
  /-- ATOM_EXCH (R343). Atomic exchange. -/
  | atomExch (d : BitVec 7) (b : BitVec 4) (o : BitVec 7) (ord : BitVec 3) (st : BitVec 2)
  /-- ATOM_CAS (R343). Atomic 32-bit compare-and-swap. -/
  | atomCas (d : BitVec 7) (b : BitVec 4) (o : BitVec 7) (ord : BitVec 3) (st : BitVec 2)
  /-- ATOM_AND (R343). Atomic AND. -/
  | atomAnd (d : BitVec 7) (b : BitVec 4) (o : BitVec 7) (ord : BitVec 3) (st : BitVec 2)
  /-- ATOM_OR (R343). Atomic OR. -/
  | atomOr (d : BitVec 7) (b : BitVec 4) (o : BitVec 7) (ord : BitVec 3) (st : BitVec 2)
  /-- ATOM_XOR (R343). Atomic XOR. -/
  | atomXor (d : BitVec 7) (b : BitVec 4) (o : BitVec 7) (ord : BitVec 3) (st : BitVec 2)
  /-- ATOM_ADD_I64 (R343). Atomic 64-bit add. -/
  | atomAddI64 (d : BitVec 7) (b : BitVec 4) (o : BitVec 7) (ord : BitVec 3) (st : BitVec 2)
  /-- ATOM_CAS_B64 (R343). Atomic 64-bit compare-and-swap. -/
  | atomCasB64 (d : BitVec 7) (b : BitVec 4) (o : BitVec 7) (ord : BitVec 3) (st : BitVec 2)
  /-- ATOM_ADD_BF16X2 (R343). Atomic packed BF16 add. -/
  | atomAddBf16x2 (d : BitVec 7) (b : BitVec 4) (o : BitVec 7) (ord : BitVec 3) (st : BitVec 2)
  /-- ATOM_INC_N32 (R343). Atomic wrapping increment. -/
  | atomIncN32 (d : BitVec 7) (b : BitVec 4) (o : BitVec 7) (ord : BitVec 3) (st : BitVec 2)
  /-- ATOM_DEC_N32 (R343). Atomic wrapping decrement. -/
  | atomDecN32 (d : BitVec 7) (b : BitVec 4) (o : BitVec 7) (ord : BitVec 3) (st : BitVec 2)
  /-- RED_ADD_I32 (R343). Reduction: 32-bit integer add. -/
  | redAddI32 (d : BitVec 7) (b : BitVec 4) (o : BitVec 7) (ord : BitVec 3) (st : BitVec 2)
  /-- RED_ADD_F32 (R343). Reduction: F32 add. -/
  | redAddF32 (d : BitVec 7) (b : BitVec 4) (o : BitVec 7) (ord : BitVec 3) (st : BitVec 2)
  /-- RED_MIN_I32 (R343). Reduction: signed minimum. -/
  | redMinI32 (d : BitVec 7) (b : BitVec 4) (o : BitVec 7) (ord : BitVec 3) (st : BitVec 2)
  /-- RED_MAX_I32 (R343). Reduction: signed maximum. -/
  | redMaxI32 (d : BitVec 7) (b : BitVec 4) (o : BitVec 7) (ord : BitVec 3) (st : BitVec 2)
  /-- RED_MIN_N32 (R343). Reduction: unsigned minimum. -/
  | redMinN32 (d : BitVec 7) (b : BitVec 4) (o : BitVec 7) (ord : BitVec 3) (st : BitVec 2)
  /-- RED_MAX_N32 (R343). Reduction: unsigned maximum. -/
  | redMaxN32 (d : BitVec 7) (b : BitVec 4) (o : BitVec 7) (ord : BitVec 3) (st : BitVec 2)
  /-- RED_EXCH (R343). Reduction: exchange. -/
  | redExch (d : BitVec 7) (b : BitVec 4) (o : BitVec 7) (ord : BitVec 3) (st : BitVec 2)
  /-- RED_CAS (R343). Reduction: 32-bit compare-and-swap. -/
  | redCas (d : BitVec 7) (b : BitVec 4) (o : BitVec 7) (ord : BitVec 3) (st : BitVec 2)
  /-- RED_AND (R343). Reduction: AND. -/
  | redAnd (d : BitVec 7) (b : BitVec 4) (o : BitVec 7) (ord : BitVec 3) (st : BitVec 2)
  /-- RED_OR (R343). Reduction: OR. -/
  | redOr (d : BitVec 7) (b : BitVec 4) (o : BitVec 7) (ord : BitVec 3) (st : BitVec 2)
  /-- RED_XOR (R343). Reduction: XOR. -/
  | redXor (d : BitVec 7) (b : BitVec 4) (o : BitVec 7) (ord : BitVec 3) (st : BitVec 2)
  /-- RED_ADD_I64 (R343). Reduction: 64-bit add. -/
  | redAddI64 (d : BitVec 7) (b : BitVec 4) (o : BitVec 7) (ord : BitVec 3) (st : BitVec 2)
  /-- RED_CAS_B64 (R343). Reduction: 64-bit compare-and-swap. -/
  | redCasB64 (d : BitVec 7) (b : BitVec 4) (o : BitVec 7) (ord : BitVec 3) (st : BitVec 2)
  /-- RED_ADD_BF16X2 (R343). Reduction: packed BF16 add. -/
  | redAddBf16x2 (d : BitVec 7) (b : BitVec 4) (o : BitVec 7) (ord : BitVec 3) (st : BitVec 2)
  /-- RED_INC_N32 (R343). Reduction: wrapping increment. -/
  | redIncN32 (d : BitVec 7) (b : BitVec 4) (o : BitVec 7) (ord : BitVec 3) (st : BitVec 2)
  /-- RED_DEC_N32 (R343). Reduction: wrapping decrement. -/
  | redDecN32 (d : BitVec 7) (b : BitVec 4) (o : BitVec 7) (ord : BitVec 3) (st : BitVec 2)
  /-- ATOMS_ADD_I32 (R343). Scratchpad atomic 32-bit integer add. -/
  | atomsAddI32 (d : BitVec 7) (b : BitVec 4) (o : BitVec 7) (ord : BitVec 3) (st : BitVec 2)
  /-- ATOMS_ADD_F32 (R343). Scratchpad atomic F32 add. -/
  | atomsAddF32 (d : BitVec 7) (b : BitVec 4) (o : BitVec 7) (ord : BitVec 3) (st : BitVec 2)
  /-- ATOMS_MIN_I32 (R343). Scratchpad atomic signed minimum. -/
  | atomsMinI32 (d : BitVec 7) (b : BitVec 4) (o : BitVec 7) (ord : BitVec 3) (st : BitVec 2)
  /-- ATOMS_MAX_I32 (R343). Scratchpad atomic signed maximum. -/
  | atomsMaxI32 (d : BitVec 7) (b : BitVec 4) (o : BitVec 7) (ord : BitVec 3) (st : BitVec 2)
  /-- ATOMS_MIN_N32 (R343). Scratchpad atomic unsigned minimum. -/
  | atomsMinN32 (d : BitVec 7) (b : BitVec 4) (o : BitVec 7) (ord : BitVec 3) (st : BitVec 2)
  /-- ATOMS_MAX_N32 (R343). Scratchpad atomic unsigned maximum. -/
  | atomsMaxN32 (d : BitVec 7) (b : BitVec 4) (o : BitVec 7) (ord : BitVec 3) (st : BitVec 2)
  /-- ATOMS_EXCH (R343). Scratchpad atomic exchange. -/
  | atomsExch (d : BitVec 7) (b : BitVec 4) (o : BitVec 7) (ord : BitVec 3) (st : BitVec 2)
  /-- ATOMS_CAS (R343). Scratchpad atomic compare-and-swap. -/
  | atomsCas (d : BitVec 7) (b : BitVec 4) (o : BitVec 7) (ord : BitVec 3) (st : BitVec 2)
  /-- FENCE_REL_TEAM (R162). Release fence at team scope. -/
  | fenceRelTeam (st : BitVec 2)
  /-- FENCE_REL_CLUSTER (R162). Release fence at cluster scope. -/
  | fenceRelCluster (st : BitVec 2)
  /-- FENCE_REL_DEVICE (R162). Release fence at device scope. -/
  | fenceRelDevice (st : BitVec 2)
  /-- FENCE_REL_SYSTEM (R162). Release fence at system scope. -/
  | fenceRelSystem (st : BitVec 2)
  /-- FENCE_ACQ (R162). Acquire fence over earlier loads. -/
  | fenceAcq (st : BitVec 2)
  /-- FENCE_FULL_TEAM (R162). Full fence at team scope. -/
  | fenceFullTeam (st : BitVec 2)
  /-- FENCE_FULL_CLUSTER (R162). Full fence at cluster scope. -/
  | fenceFullCluster (st : BitVec 2)
  /-- FENCE_FULL_DEVICE (R162). Full fence at device scope. -/
  | fenceFullDevice (st : BitVec 2)
  /-- FENCE_FULL_SYSTEM (R162). Full fence at system scope. -/
  | fenceFullSystem (st : BitVec 2)
  /-- PFENCE_LC (R162). Orders the load-store path before the constant path and empties the constant cache. -/
  | pfenceLc (st : BitVec 2)
  /-- PFENCE_LT (R162). Orders the load-store path before tile-path engine reads. -/
  | pfenceLt (st : BitVec 2)
  /-- TBEGIN (R351). Opens a task: age stamp, snapshot, shadow lock and draft view. -/
  | tbegin (a : BitVec 6) (b : BitVec 6) (st : BitVec 2)
  /-- TEND (R352). Commits the task at its anchor and releases its holds. -/
  | tend (st : BitVec 2)
  /-- TABORT (R205). Wounds and rolls back the issuing family. -/
  | tabort (st : BitVec 2)
  /-- TPROBE (R353). Reads the thread's task state. -/
  | tprobe (d : BitVec 7) (st : BitVec 2)
  /-- ADECL (R354). Declares an atomic set from a set entry. -/
  | adecl (a : BitVec 6) (b : BitVec 6) (st : BitVec 2)
  /-- ADROP (R354). Frees a set id. -/
  | adrop (a : BitVec 6) (st : BitVec 2)
  /-- FORK_W (R220). Forks the team into rival worlds. -/
  | forkW (d : BitVec 7) (a : BitVec 6) (st : BitVec 2)
  /-- CHOOSE_FIRST (R226). Requests that this world win the fork. -/
  | chooseFirst (d : BitVec 7) (st : BitVec 2)
  /-- CHOOSE_BEST (R227). Arrives at the choice with a score. -/
  | chooseBest (d : BitVec 7) (a : BitVec 6) (st : BitVec 2)
  /-- WABORT (R227). Withdraws the world from the choice. -/
  | wabort (d : BitVec 7) (st : BitVec 2)
  /-- WQUERY (R229). Reads the world state word. -/
  | wquery (d : BitVec 7) (st : BitVec 2)
  /-- EXIT_SAVE (R356). Releases the routine's stores and ends the exit routine with ROUTINE_OK. -/
  | exitSave (st : BitVec 2)
  /-- ENTRY_DONE (R356). Ends the entry routine, checks it in checked mode and continues at %resume. -/
  | entryDone (st : BitVec 2)
  /-- RREC (R357). Reads a word of the thread's save record. -/
  | rrec (d : BitVec 7) (a : BitVec 6) (st : BitVec 2)
  /-- RPOISON (R358). Poisons the vector registers named by a mask. -/
  | rpoison (a : BitVec 6) (st : BitVec 2)
  /-- PEN_INIT (R377). Initialises a pen. -/
  | penInit (a : BitVec 6) (b : BitVec 6) (st : BitVec 2)
  /-- PEN_EXPECT (R377). Arms a pen source with a byte count. -/
  | penExpect (a : BitVec 6) (b : BitVec 6) (st : BitVec 2)
  /-- PEN_ARRIVE (R377). Counts the flock's arrivals at a pen. -/
  | penArrive (a : BitVec 6) (st : BitVec 2)
  /-- PEN_WAIT (R377). Waits until the pen's phase differs from a parity. -/
  | penWait (a : BitVec 6) (b : BitVec 6) (st : BitVec 2)
  /-- PEN_TEST (R377). Reads a pen's word 0. -/
  | penTest (d : BitVec 7) (a : BitVec 6) (st : BitVec 2)
  /-- BAR_TEAM (R375). Team-wide barrier. -/
  | barTeam (a : BitVec 6) (st : BitVec 2)
  /-- BAR_ROLE (R375). Barrier over the roles named in a mask. -/
  | barRole (a : BitVec 6) (b : BitVec 6) (st : BitVec 2)
  /-- GSYNC (R375). Group collective synchronisation. -/
  | gsync (st : BitVec 2)
  /-- PEN_INVAL (R377). Zeroes a pen and traps its waiters. -/
  | penInval (a : BitVec 6) (st : BitVec 2)
  /-- BALLOT (R370). Collects a predicate bit from each contributing member. -/
  | ballot (d : BitVec 7) (a : BitVec 7) (st : BitVec 2)
  /-- VALL (R370). True when every contributing member's predicate is set. -/
  | vall (d : BitVec 7) (a : BitVec 7) (st : BitVec 2)
  /-- VANY (R370). True when some contributing member's predicate is set. -/
  | vany (d : BitVec 7) (a : BitVec 7) (st : BitVec 2)
  /-- MATCH (R370). Mask of members holding an equal value. -/
  | matchLanes (d : BitVec 7) (a : BitVec 7) (st : BitVec 2)
  /-- SHFL_IDX (R370). Shuffle from an indexed lane. -/
  | shflIdx (d : BitVec 7) (a : BitVec 7) (b : BitVec 7) (st : BitVec 2)
  /-- SHFL_UP (R370). Shuffle from a lower lane. -/
  | shflUp (d : BitVec 7) (a : BitVec 7) (b : BitVec 7) (st : BitVec 2)
  /-- SHFL_DOWN (R370). Shuffle from a higher lane. -/
  | shflDown (d : BitVec 7) (a : BitVec 7) (b : BitVec 7) (st : BitVec 2)
  /-- SHFL_XOR (R370). Shuffle from an XOR-indexed lane. -/
  | shflXor (d : BitVec 7) (a : BitVec 7) (b : BitVec 7) (st : BitVec 2)
  /-- REDADD_I32 (R370). Group integer sum. -/
  | redaddI32 (d : BitVec 7) (a : BitVec 7) (st : BitVec 2)
  /-- SCANADD_I32 (R370). Inclusive group prefix sum. -/
  | scanaddI32 (d : BitVec 7) (a : BitVec 7) (st : BitVec 2)
  /-- EXSCAN_I32 (R370). Exclusive group prefix sum. -/
  | exscanI32 (d : BitVec 7) (a : BitVec 7) (st : BitVec 2)
  /-- REDMAX_I32 (R370). Group signed maximum. -/
  | redmaxI32 (d : BitVec 7) (a : BitVec 7) (st : BitVec 2)
  /-- REDMIN_I32 (R370). Group signed minimum. -/
  | redminI32 (d : BitVec 7) (a : BitVec 7) (st : BitVec 2)
  /-- REDADD_F32 (R372). Group F32 sum over a fixed tree. -/
  | redaddF32 (d : BitVec 7) (a : BitVec 7) (st : BitVec 2)
  /-- ELECT (R370). Sets the predicate in the lowest contributing member. -/
  | elect (d : BitVec 7) (st : BitVec 2)
  /-- SETGM (R373). Writes the thread's member mask. -/
  | setgm (a : BitVec 7) (st : BitVec 2)
  /-- COPY_TEAM (R384). Copies global rows into the team's scratchpad. -/
  | copyTeam (d : BitVec 7) (a : BitVec 6) (st : BitVec 2)
  /-- COPY_MC (R387). Multicasts global rows into the scratchpads of the cores in CMASK. -/
  | copyMc (d : BitVec 7) (a : BitVec 6) (st : BitVec 2)
  /-- COPY_SP (R388). Expands a bitmap-compressed tile into dense scratch rows. -/
  | copySp (d : BitVec 7) (a : BitVec 6) (st : BitVec 2)
  /-- COPY_OUT (R389). Copies scratch rows to global memory. -/
  | copyOut (d : BitVec 7) (a : BitVec 6) (st : BitVec 2)
  /-- RLK_Q (R390). Tests a scratch range against the core's lock table. -/
  | rlkQ (d : BitVec 7) (a : BitVec 6) (b : BitVec 6) (st : BitVec 2)
  /-- COPY_BULK (R391). Queues a global-to-global transfer on a leased bulk engine. -/
  | copyBulk (d : BitVec 7) (a : BitVec 6) (st : BitVec 2)
  /-- GATH (R393). Starts a gather of indexed elements into a trough. -/
  | gath (d : BitVec 7) (a : BitVec 6) (st : BitVec 2)
  /-- GATH_CLOSE (R397). Closes a trough once earlier gathers have finished pushing. -/
  | gathClose (a : BitVec 6) (st : BitVec 2)
  /-- TR_BIND (R394). Binds a queue register to a trough. -/
  | trBind (a : BitVec 6) (b : BitVec 6) (st : BitVec 2)
  /-- TR_UNBIND (R394). Unbinds a trough once no engine pushes into it. -/
  | trUnbind (a : BitVec 6) (st : BitVec 2)
  /-- TR_FILLED (R394). Reads the filled slot count. -/
  | trFilled (d : BitVec 7) (a : BitVec 6) (st : BitVec 2)
  /-- TR_FREE (R394). Reads the free slot count. -/
  | trFree (d : BitVec 7) (a : BitVec 6) (st : BitVec 2)
  /-- TR_RESET (R394). Empties and reopens a trough once no engine pushes into it. -/
  | trReset (a : BitVec 6) (st : BitVec 2)
  /-- MX_MMA (R406). Group-collective matrix multiply into an accumulator tile. -/
  | mxMma (d : BitVec 7) (a : BitVec 6) (b : BitVec 6) (st : BitVec 2)
  /-- MX_RD (R407). Reads four tile elements per lane. -/
  | mxRd (d : BitVec 7) (a : BitVec 6) (st : BitVec 2)
  /-- MX_ST (R408). Stores a tile to scratchpad. -/
  | mxSt (d : BitVec 7) (a : BitVec 6) (b : BitVec 6) (st : BitVec 2)
  /-- MX_LD (R408). Loads a tile from scratchpad. -/
  | mxLd (d : BitVec 7) (a : BitVec 6) (b : BitVec 6) (st : BitVec 2)
  /-- MX_CLR (R409). Clears and claims the tiles named in a mask. -/
  | mxClr (a : BitVec 6) (st : BitVec 2)
  /-- MX_STAT (R409). Reads the matrix queue and tile claim state. -/
  | mxStat (d : BitVec 7) (st : BitVec 2)
  /-- LAUNCH (R359). Hands a task record to the queue controller. -/
  | launch (a : BitVec 6) (b : BitVec 6) (st : BitVec 2)
  /-- EXIT (R113). Retires the thread. -/
  | exit (st : BitVec 2)
  /-- EXIT_SUCC (R360). Retires the thread and names a successor record. -/
  | exitSucc (a : BitVec 6) (b : BitVec 6) (st : BitVec 2)
  /-- TYIELD (R361). Offers the team to its dispatcher. -/
  | tyield (st : BitVec 2)
  /-- WAIT_EXT (R362). Waits while a signal word equals a value. -/
  | waitExt (d : BitVec 7) (a : BitVec 6) (b : BitVec 6) (st : BitVec 2)
  /-- SIG_HOST (R363). Raises an MSI-X vector of the context. -/
  | sigHost (a : BitVec 6) (st : BitVec 2)
  /-- SLEEP (R364). Waits for a count of device ticks. -/
  | sleep (a : BitVec 6) (st : BitVec 2)
  /-- TRAP (R365). Takes the TRAP_INST stopping trap. -/
  | trap (a : BitVec 6) (st : BitVec 2)
  /-- BRK (R365). Takes the BREAK stopping trap. -/
  | brk (st : BitVec 2)
  /-- RDPRIV (R367). Reads a privileged context register. -/
  | rdpriv (d : BitVec 7) (a : BitVec 6) (st : BitVec 2)
  /-- WRPRIV (R367). Writes a privileged context register. -/
  | wrpriv (d : BitVec 7) (a : BitVec 6) (st : BitVec 2)
  /-- TRET (R366). Returns from the trap handler to the trap return offset. -/
  | tret (st : BitVec 2)
  /-- TRET_SKIP (R366). Returns from the trap handler to the word after the trap return offset. -/
  | tretSkip (st : BitVec 2)
  /-- IPREF (R368). Prefetches code lines. -/
  | ipref (a : BitVec 6) (b : BitVec 6) (st : BitVec 2)
  /-- IPIN (R368). Fetches and pins code lines. -/
  | ipin (d : BitVec 7) (a : BitVec 6) (b : BitVec 6) (st : BitVec 2)
  /-- IUNPIN (R368). Releases the team's code-line pins. -/
  | iunpin (d : BitVec 7) (a : BitVec 6) (b : BitVec 6) (st : BitVec 2)
  /-- TMARK (R369). Writes a trace record. -/
  | tmark (d : BitVec 7) (st : BitVec 2)
  /-- PERF_RD (R369). Reads a team performance counter. -/
  | perfRd (d : BitVec 7) (a : BitVec 6) (st : BitVec 2)
  /-- CLK (R369). Reads device time into a pair. -/
  | clk (d : BitVec 7) (st : BitVec 2)
  /-- SFU_F64_RESULT (R321). The result of an SFU or F64 instruction is written, which clears its pending bits and ORs its flags into %fstat. -/
  | sfuF64Result (team : Nat) (tok : Nat)
  /-- MATRIX_OP_FINISH (R401). A matrix queue operation (mx.rd, mx.st, mx.ld, mx.clr, or the status of mx.mma) finishes, delivering its values or status word and freeing its queue place. -/
  | matrixOpFinish (core : Nat) (quad : Nat)
  /-- TBEGIN_STAMP_ADVANCE (R197). A tbegin rendezvous held because T[57:8] equals the last stamp of its core and slot completes once T[57:8] advances. -/
  | tbeginStampAdvance (team : Nat)
  /-- PCIE_COMPLETION (R337). A PCIe completion returns for a region-2 load and performs it. -/
  | pcieCompletion (t : Tid) (acc : Nat)
  /-- POSTED_WRITE_ACCEPTED (R161). The PCIe link accepts a posted region-2 write, which completes the store at system scope one tick later. -/
  | postedWriteAccepted (t : Tid) (acc : Nat)
  /-- PRI_RESPONSE (R47). The host answers a PRI page request, which lets a bulk-engine host transfer continue or ends it with a refusal and a PAGE_FAULT record. -/
  | priResponse (op : Nat) (granted : Bool)
  /-- CRC_FAILURE (R20). A received flit fails its CRC and the receiver requests its replay. -/
  | crcFailure (port : Nat) (dev : Nat)
  /-- TDISP_STATE_CHANGE (R25). A VF's TDISP interface moves among CONFIG_UNLOCKED, CONFIG_LOCKED, RUN and ERROR, which decides whether its pavilion window traffic is accepted. -/
  | tdispStateChange (fn : Nat) (code : Nat)
  /-- MANAGEMENT_STEP_REQUEST (R13). The management interface requests a step change for an island, which is applied at once or deferred until a pre-emption in progress ends. -/
  | managementStepRequest (island : Nat) (step : Nat)
  deriving DecidableEq, Repr

end Sys2Proof
end

