-- ==== Sys2Proof/WellFormed.lean ====
section
/-! DEFINITION. Well-formed instruction words: the field values that R282, R283, R287, R288 and R325 accept. -/

namespace Sys2Proof

/-- A predicate register number (R283). -/
def predOk {n : Nat} (p : BitVec n) : Bool := p.toNat < 48

/-- The predicate field of format B: a predicate, or 63 without inversion (R283). -/
def branchPredOk (n : BitVec 1) (g : BitVec 6) : Bool := g.toNat < 48 || (g.toNat == 63 && n == 0#1)

/-- A base register number in a 6-bit field (R283). -/
def baseOk (a : BitVec 6) : Bool := a.toNat < 16

/-- A queue register number (R283). -/
def queueOk {n : Nat} (q : BitVec n) : Bool := q.toNat < 8

/-- An even first register of a scalar pair (R283). -/
def evenOk {n : Nat} (r : BitVec n) : Bool := r.toNat % 2 == 0

/-- A special register number of R289. -/
def specialOk (a : BitVec 7) : Bool :=
  let n := a.toNat
  n ≤ 10 || (16 ≤ n && n ≤ 18) || (24 ≤ n && n ≤ 29) || n / 2 == 16 || n / 2 == 20 || (48 ≤ n && n ≤ 50)

/-- A size code of a load (R288). -/
def loadSizeOk (sz : BitVec 3) : Bool := sz.toNat < 7

/-- A size code of a store (R288). -/
def storeSizeOk (sz : BitVec 3) : Bool := [0, 2, 4, 5, 6].contains sz.toNat

/-- An ordering code of a store, an atomic or a reduction: 6 is reserved (R288). -/
def storeOrdOk (r : BitVec 3) : Bool := r.toNat != 6

/-- An ordering code of a scratchpad access (R288). -/
def scratchOrdOk (r : BitVec 3) : Bool := r.toNat < 5

/-- A scratchpad window (R128). -/
def windowOk (b : BitVec 4) : Bool := b.toNat < 2

/-- A condition code of the 32-bit integer compares (R287). -/
def ccIntOk (c : BitVec 4) : Bool := c.toNat < 6

/-- A condition code of the F32 compare (R287). -/
def ccFloatOk (c : BitVec 4) : Bool := c.toNat < 6 || 8 ≤ c.toNat

/-- A condition code of the 64-bit compare (R287). -/
def ccWideOk (c : BitVec 4) : Bool := c.toNat < 6 || (8 ≤ c.toNat && c.toNat < 14)

/-- A conversion mode (R325): rounding codes 5 and 6 are reserved. -/
def cvtModeOk (m : BitVec 4) : Bool := m.toNat % 8 != 5 && m.toNat % 8 != 6

/-- The field checks of R290 step 2 on one instruction; a device step has no field to check. -/
def Instr.wf (i : Instr) : Bool :=
  match i with
  | .cmpI32 cc p _ _ _ => ccIntOk cc && predOk p
  | .cmpN32 cc p _ _ _ => ccIntOk cc && predOk p
  | .cmpF32 cc p _ _ _ => ccFloatOk cc && predOk p
  | .cmp64 cc p _ _ _ => ccWideOk cc && predOk p
  | .pand d a b _ _ _ => predOk d && predOk a && predOk b
  | .por d a b _ _ _ => predOk d && predOk a && predOk b
  | .pxor d a b _ _ _ => predOk d && predOk a && predOk b
  | .pmov d a _ _ => predOk d && predOk a
  | .pset d _ => predOk d
  | .pclr d _ => predOk d
  | .guard _ g _ _ => predOk g
  | .bra n g _ _ => branchPredOk n g
  | .call n g _ _ => branchPredOk n g
  | .movsRead _ a _ => specialOk a
  | .movsWrite _ a _ => specialOk a
  | .pop _ a _ => queueOk a
  | .push d _ _ => queueOk d
  | .movsv _ a _ => a.toNat < 64
  | .cvt _ _ _ m _ => cvtModeOk m
  | .sldB32 _ a _ _ _ => baseOk a
  | .sldB64 d a _ _ _ => baseOk a && evenOk d
  | .bset d a _ _ _ => baseOk d && evenOk a
  | .badd d a b i _ => baseOk d && baseOk a && (i == 1#1 || evenOk b)
  | .bget d a b _ => baseOk a && ((b.toNat == 0 && evenOk d) || b.toNat == 1)
  | .bmov d a _ => baseOk d && baseOk a
  | .ld sz _ _ _ _ _ => loadSizeOk sz
  | .st sz _ _ _ r _ => storeSizeOk sz && storeOrdOk r
  | .ldw sz _ _ o _ _ => loadSizeOk sz && evenOk o
  | .stw sz _ _ o r _ => storeSizeOk sz && storeOrdOk r && evenOk o
  | .lds sz _ b _ r _ => loadSizeOk sz && windowOk b && scratchOrdOk r
  | .sts sz _ b _ r _ => storeSizeOk sz && windowOk b && scratchOrdOk r
  | .atomAddI32 _ _ _ r _ => storeOrdOk r
  | .atomAddF32 _ _ _ r _ => storeOrdOk r
  | .atomMinI32 _ _ _ r _ => storeOrdOk r
  | .atomMaxI32 _ _ _ r _ => storeOrdOk r
  | .atomMinN32 _ _ _ r _ => storeOrdOk r
  | .atomMaxN32 _ _ _ r _ => storeOrdOk r
  | .atomExch _ _ _ r _ => storeOrdOk r
  | .atomCas _ _ _ r _ => storeOrdOk r
  | .atomAnd _ _ _ r _ => storeOrdOk r
  | .atomOr _ _ _ r _ => storeOrdOk r
  | .atomXor _ _ _ r _ => storeOrdOk r
  | .atomAddI64 _ _ _ r _ => storeOrdOk r
  | .atomCasB64 _ _ _ r _ => storeOrdOk r
  | .atomAddBf16x2 _ _ _ r _ => storeOrdOk r
  | .atomIncN32 _ _ _ r _ => storeOrdOk r
  | .atomDecN32 _ _ _ r _ => storeOrdOk r
  | .redAddI32 _ _ _ r _ => storeOrdOk r
  | .redAddF32 _ _ _ r _ => storeOrdOk r
  | .redMinI32 _ _ _ r _ => storeOrdOk r
  | .redMaxI32 _ _ _ r _ => storeOrdOk r
  | .redMinN32 _ _ _ r _ => storeOrdOk r
  | .redMaxN32 _ _ _ r _ => storeOrdOk r
  | .redExch _ _ _ r _ => storeOrdOk r
  | .redCas _ _ _ r _ => storeOrdOk r
  | .redAnd _ _ _ r _ => storeOrdOk r
  | .redOr _ _ _ r _ => storeOrdOk r
  | .redXor _ _ _ r _ => storeOrdOk r
  | .redAddI64 _ _ _ r _ => storeOrdOk r
  | .redCasB64 _ _ _ r _ => storeOrdOk r
  | .redAddBf16x2 _ _ _ r _ => storeOrdOk r
  | .redIncN32 _ _ _ r _ => storeOrdOk r
  | .redDecN32 _ _ _ r _ => storeOrdOk r
  | .atomsAddI32 _ b _ r _ => windowOk b && scratchOrdOk r
  | .atomsAddF32 _ b _ r _ => windowOk b && scratchOrdOk r
  | .atomsMinI32 _ b _ r _ => windowOk b && scratchOrdOk r
  | .atomsMaxI32 _ b _ r _ => windowOk b && scratchOrdOk r
  | .atomsMinN32 _ b _ r _ => windowOk b && scratchOrdOk r
  | .atomsMaxN32 _ b _ r _ => windowOk b && scratchOrdOk r
  | .atomsExch _ b _ r _ => windowOk b && scratchOrdOk r
  | .atomsCas _ b _ r _ => windowOk b && scratchOrdOk r
  | .tbegin a _ _ => a.toNat % 4 == 0
  | .adecl a _ _ => baseOk a
  | .launch a _ _ => baseOk a
  | .exitSucc a _ _ => baseOk a
  | .waitExt _ a _ _ => baseOk a
  | .rpoison a _ => a.toNat % 4 == 0
  | .vall d a _ => predOk d && predOk a
  | .vany d a _ => predOk d && predOk a
  | .ballot _ a _ => predOk a
  | .elect d _ => predOk d
  | .copyTeam _ a _ => a.toNat % 8 == 0
  | .copyMc _ a _ => a.toNat % 8 == 0
  | .copySp _ a _ => a.toNat % 8 == 0
  | .copyOut _ a _ => a.toNat % 8 == 0
  | .copyBulk _ a _ => a.toNat % 8 == 0
  | .gath _ a _ => a.toNat % 8 == 0
  | .gathClose a _ => queueOk a
  | .trUnbind a _ => queueOk a
  | .trReset a _ => queueOk a
  | .trBind a _ _ => queueOk a
  | .trFilled _ a _ => queueOk a
  | .trFree _ a _ => queueOk a
  | .mxMma _ _ b _ => b.toNat % 8 == 0
  | .deviceReset => true
  | .powerLimitSet .. => true
  | .powerWindow .. => true
  | .islandGateRequest .. => true
  | .islandStepChange .. => true
  | .thermalWarning .. => true
  | .fatalError .. => true
  | .correctedError .. => true
  | .linkReadRequest .. => true
  | .linkWrite .. => true
  | .linkReadResponse .. => true
  | .linkAcknowledgement .. => true
  | .linkReplayRequest .. => true
  | .portDown .. => true
  | .failoverMessage .. => true
  | .peerTimeout .. => true
  | .createContext => true
  | .destroyContext => true
  | .suspendContext => true
  | .resumeContext => true
  | .setWatchdog => true
  | .measureSteward => true
  | .badCommand => true
  | .commandEnd => true
  | .windowRead .. => true
  | .windowWrite .. => true
  | .vectorUnmask .. => true
  | .msiMessage => true
  | .faultVector .. => true
  | .untrustedAccess => true
  | .registerWrite .. => true
  | .hfenWrite .. => true
  | .define => true
  | .delete => true
  | .grow => true
  | .shrink => true
  | .lend => true
  | .reclaim => true
  | .reclaimComplete => true
  | .partitionRead => true
  | .bind => true
  | .leaseRelease => true
  | .leaseExpiry .. => true
  | .pavilionCreate => true
  | .assign => true
  | .unassign => true
  | .addframe => true
  | .delframe => true
  | .pavilionDestroy => true
  | .keyRotationGo => true
  | .sweepLine => true
  | .frameQueue => true
  | .frameScrub => true
  | .measExtend => true
  | .getVersion => true
  | .getCapabilities => true
  | .negotiateAlgorithms => true
  | .getCertificate .. => true
  | .challenge .. => true
  | .getMeasurements .. => true
  | .unsupportedRequest .. => true
  | .sigreq => true
  | .lpcode .. => true
  | .keyx => true
  | .prepare => true
  | .handoverCommit => true
  | .handoverAbort => true
  | .accept => true
  | .handoverRelease => true
  | .statement => true
  | .invalidate .. => true
  | .replay .. => true
  | .abort .. => true
  | .inject .. => true
  | .spillAdd => true
  | .spillQuery => true
  | .checkpointStart => true
  | .arm => true
  | .disarm => true
  | .checkpointWarning => true
  | .checkpointTick => true
  | .stagedCommit => true
  | .obSet => true
  | .obRead => true
  | .hist => true
  | .obTail => true
  | .sample .. => true
  | .launchComplete .. => true
  | .gridReady .. => true
  | .teamPlace .. => true
  | .residencyExpiry .. => true
  | .threadVectoring .. => true
  | .routineOverrun .. => true
  | .saveRecordComplete .. => true
  | .budgetEvent .. => true
  | .watchdogExpiry .. => true
  | .teamRetire .. => true
  | .flockPick .. => true
  | .performLoad .. => true
  | .enterGate .. => true
  | .drain .. => true
  | .expire .. => true
  | .performAtomic .. => true
  | .scratchAccess .. => true
  | .externalAccess .. => true
  | .finishFence .. => true
  | .engineWrite .. => true
  | .engineStatus .. => true
  | .commit .. => true
  | .discard .. => true
  | .pageWalk .. => true
  | .granuleRequest .. => true
  | .wound .. => true
  | .commitRequest .. => true
  | .rollback .. => true
  | .taskRestart .. => true
  | .sweeper .. => true
  | .tagFree .. => true
  | .forkCopyDone .. => true
  | .chooseFirstRequest .. => true
  | .chooseBestArrival .. => true
  | .chooseCopyDone .. => true
  | .sleepEnd .. => true
  | .engineStart .. => true
  | .multicastBeat .. => true
  | .enginePenUpdate .. => true
  | .gatherPush .. => true
  | .troughServe .. => true
  | .bulkTransfer .. => true
  | .matrixOpStart .. => true
  | .matrixChunk .. => true
  | .nop .. => true
  | .yield .. => true
  | .sleeptk .. => true
  | .add .. => true
  | .sub .. => true
  | .addc .. => true
  | .subb .. => true
  | .addsI32 .. => true
  | .subsI32 .. => true
  | .addsN32 .. => true
  | .subsN32 .. => true
  | .addi .. => true
  | .andi .. => true
  | .ori .. => true
  | .xori .. => true
  | .mul .. => true
  | .mulhiI32 .. => true
  | .mulhiN32 .. => true
  | .mad .. => true
  | .madhiI32 .. => true
  | .madhiN32 .. => true
  | .mulwI32 .. => true
  | .mulwN32 .. => true
  | .and .. => true
  | .or .. => true
  | .xor .. => true
  | .andn .. => true
  | .orn .. => true
  | .xnor .. => true
  | .not .. => true
  | .shl .. => true
  | .shrN32 .. => true
  | .shrI32 .. => true
  | .rotl .. => true
  | .rotr .. => true
  | .fshl .. => true
  | .fshr .. => true
  | .shli .. => true
  | .shriN32 .. => true
  | .shriI32 .. => true
  | .roti .. => true
  | .popc .. => true
  | .clz .. => true
  | .ctz .. => true
  | .brev .. => true
  | .bswap .. => true
  | .perm .. => true
  | .bmsk .. => true
  | .bfxN32 .. => true
  | .bfxI32 .. => true
  | .bfi .. => true
  | .minI32 .. => true
  | .maxI32 .. => true
  | .minN32 .. => true
  | .maxN32 .. => true
  | .absI32 .. => true
  | .negI32 .. => true
  | .adiffN32 .. => true
  | .mov .. => true
  | .sel .. => true
  | .movp .. => true
  | .setp .. => true
  | .movl .. => true
  | .movh .. => true
  | .jmp .. => true
  | .callr .. => true
  | .ret .. => true
  | .fadd .. => true
  | .fsub .. => true
  | .fmul .. => true
  | .fmin .. => true
  | .fmax .. => true
  | .fminnum .. => true
  | .fmaxnum .. => true
  | .fcopysign .. => true
  | .ffma .. => true
  | .ffms .. => true
  | .ffnma .. => true
  | .ffnms .. => true
  | .haddBf16x2 .. => true
  | .hmulBf16x2 .. => true
  | .hfmaBf16x2 .. => true
  | .haddF16x2 .. => true
  | .hmulF16x2 .. => true
  | .hfmaF16x2 .. => true
  | .hmaxBf16x2 .. => true
  | .hminBf16x2 .. => true
  | .dadd .. => true
  | .dsub .. => true
  | .dmul .. => true
  | .dfma .. => true
  | .dmin .. => true
  | .dmax .. => true
  | .ddiv .. => true
  | .dsqrt .. => true
  | .rcp .. => true
  | .rsqrt .. => true
  | .sqrt .. => true
  | .log2 .. => true
  | .exp2 .. => true
  | .sin .. => true
  | .cos .. => true
  | .tanh .. => true
  | .dotI8x4 .. => true
  | .dotsI8x4 .. => true
  | .dotI4x8 .. => true
  | .dotF8ax4 .. => true
  | .dotF8bx4 .. => true
  | .dotL4x8 .. => true
  | .dotBf16x2 .. => true
  | .scalef .. => true
  | .fexp .. => true
  | .fmant .. => true
  | .sadd .. => true
  | .ssub .. => true
  | .smul .. => true
  | .sand .. => true
  | .sor .. => true
  | .sxor .. => true
  | .sshl .. => true
  | .sshr .. => true
  | .smov .. => true
  | .smin .. => true
  | .smax .. => true
  | .sfrom .. => true
  | .fenceRelTeam .. => true
  | .fenceRelCluster .. => true
  | .fenceRelDevice .. => true
  | .fenceRelSystem .. => true
  | .fenceAcq .. => true
  | .fenceFullTeam .. => true
  | .fenceFullCluster .. => true
  | .fenceFullDevice .. => true
  | .fenceFullSystem .. => true
  | .pfenceLc .. => true
  | .pfenceLt .. => true
  | .tend .. => true
  | .tabort .. => true
  | .tprobe .. => true
  | .adrop .. => true
  | .forkW .. => true
  | .chooseFirst .. => true
  | .chooseBest .. => true
  | .wabort .. => true
  | .wquery .. => true
  | .exitSave .. => true
  | .entryDone .. => true
  | .rrec .. => true
  | .penInit .. => true
  | .penExpect .. => true
  | .penArrive .. => true
  | .penWait .. => true
  | .penTest .. => true
  | .barTeam .. => true
  | .barRole .. => true
  | .gsync .. => true
  | .penInval .. => true
  | .matchLanes .. => true
  | .shflIdx .. => true
  | .shflUp .. => true
  | .shflDown .. => true
  | .shflXor .. => true
  | .redaddI32 .. => true
  | .scanaddI32 .. => true
  | .exscanI32 .. => true
  | .redmaxI32 .. => true
  | .redminI32 .. => true
  | .redaddF32 .. => true
  | .setgm .. => true
  | .rlkQ .. => true
  | .mxRd .. => true
  | .mxSt .. => true
  | .mxLd .. => true
  | .mxClr .. => true
  | .mxStat .. => true
  | .exit .. => true
  | .tyield .. => true
  | .sigHost .. => true
  | .sleep .. => true
  | .trap .. => true
  | .brk .. => true
  | .rdpriv .. => true
  | .wrpriv .. => true
  | .tret .. => true
  | .tretSkip .. => true
  | .ipref .. => true
  | .ipin .. => true
  | .iunpin .. => true
  | .tmark .. => true
  | .perfRd .. => true
  | .clk .. => true
  | .sfuF64Result .. => true
  | .matrixOpFinish .. => true
  | .tbeginStampAdvance .. => true
  | .pcieCompletion .. => true
  | .postedWriteAccepted .. => true
  | .priResponse .. => true
  | .crcFailure .. => true
  | .tdispStateChange .. => true
  | .managementStepRequest .. => true

/-- Whether the row is an instruction word, not a device step. -/
def Instr.isWord (i : Instr) : Bool :=
  match i with
  | .deviceReset => false
  | .powerLimitSet .. => false
  | .powerWindow .. => false
  | .islandGateRequest .. => false
  | .islandStepChange .. => false
  | .thermalWarning .. => false
  | .fatalError .. => false
  | .correctedError .. => false
  | .linkReadRequest .. => false
  | .linkWrite .. => false
  | .linkReadResponse .. => false
  | .linkAcknowledgement .. => false
  | .linkReplayRequest .. => false
  | .portDown .. => false
  | .failoverMessage .. => false
  | .peerTimeout .. => false
  | .createContext => false
  | .destroyContext => false
  | .suspendContext => false
  | .resumeContext => false
  | .setWatchdog => false
  | .measureSteward => false
  | .badCommand => false
  | .commandEnd => false
  | .windowRead .. => false
  | .windowWrite .. => false
  | .vectorUnmask .. => false
  | .msiMessage => false
  | .faultVector .. => false
  | .untrustedAccess => false
  | .registerWrite .. => false
  | .hfenWrite .. => false
  | .define => false
  | .delete => false
  | .grow => false
  | .shrink => false
  | .lend => false
  | .reclaim => false
  | .reclaimComplete => false
  | .partitionRead => false
  | .bind => false
  | .leaseRelease => false
  | .leaseExpiry .. => false
  | .pavilionCreate => false
  | .assign => false
  | .unassign => false
  | .addframe => false
  | .delframe => false
  | .pavilionDestroy => false
  | .keyRotationGo => false
  | .sweepLine => false
  | .frameQueue => false
  | .frameScrub => false
  | .measExtend => false
  | .getVersion => false
  | .getCapabilities => false
  | .negotiateAlgorithms => false
  | .getCertificate .. => false
  | .challenge .. => false
  | .getMeasurements .. => false
  | .unsupportedRequest .. => false
  | .sigreq => false
  | .lpcode .. => false
  | .keyx => false
  | .prepare => false
  | .handoverCommit => false
  | .handoverAbort => false
  | .accept => false
  | .handoverRelease => false
  | .statement => false
  | .invalidate .. => false
  | .replay .. => false
  | .abort .. => false
  | .inject .. => false
  | .spillAdd => false
  | .spillQuery => false
  | .checkpointStart => false
  | .arm => false
  | .disarm => false
  | .checkpointWarning => false
  | .checkpointTick => false
  | .stagedCommit => false
  | .obSet => false
  | .obRead => false
  | .hist => false
  | .obTail => false
  | .sample .. => false
  | .launchComplete .. => false
  | .gridReady .. => false
  | .teamPlace .. => false
  | .residencyExpiry .. => false
  | .threadVectoring .. => false
  | .routineOverrun .. => false
  | .saveRecordComplete .. => false
  | .budgetEvent .. => false
  | .watchdogExpiry .. => false
  | .teamRetire .. => false
  | .flockPick .. => false
  | .performLoad .. => false
  | .enterGate .. => false
  | .drain .. => false
  | .expire .. => false
  | .performAtomic .. => false
  | .scratchAccess .. => false
  | .externalAccess .. => false
  | .finishFence .. => false
  | .engineWrite .. => false
  | .engineStatus .. => false
  | .commit .. => false
  | .discard .. => false
  | .pageWalk .. => false
  | .granuleRequest .. => false
  | .wound .. => false
  | .commitRequest .. => false
  | .rollback .. => false
  | .taskRestart .. => false
  | .sweeper .. => false
  | .tagFree .. => false
  | .forkCopyDone .. => false
  | .chooseFirstRequest .. => false
  | .chooseBestArrival .. => false
  | .chooseCopyDone .. => false
  | .sleepEnd .. => false
  | .engineStart .. => false
  | .multicastBeat .. => false
  | .enginePenUpdate .. => false
  | .gatherPush .. => false
  | .troughServe .. => false
  | .bulkTransfer .. => false
  | .matrixOpStart .. => false
  | .matrixChunk .. => false
  | .nop .. => true
  | .yield .. => true
  | .sleeptk .. => true
  | .add .. => true
  | .sub .. => true
  | .addc .. => true
  | .subb .. => true
  | .addsI32 .. => true
  | .subsI32 .. => true
  | .addsN32 .. => true
  | .subsN32 .. => true
  | .addi .. => true
  | .andi .. => true
  | .ori .. => true
  | .xori .. => true
  | .mul .. => true
  | .mulhiI32 .. => true
  | .mulhiN32 .. => true
  | .mad .. => true
  | .madhiI32 .. => true
  | .madhiN32 .. => true
  | .mulwI32 .. => true
  | .mulwN32 .. => true
  | .and .. => true
  | .or .. => true
  | .xor .. => true
  | .andn .. => true
  | .orn .. => true
  | .xnor .. => true
  | .not .. => true
  | .shl .. => true
  | .shrN32 .. => true
  | .shrI32 .. => true
  | .rotl .. => true
  | .rotr .. => true
  | .fshl .. => true
  | .fshr .. => true
  | .shli .. => true
  | .shriN32 .. => true
  | .shriI32 .. => true
  | .roti .. => true
  | .popc .. => true
  | .clz .. => true
  | .ctz .. => true
  | .brev .. => true
  | .bswap .. => true
  | .perm .. => true
  | .bmsk .. => true
  | .bfxN32 .. => true
  | .bfxI32 .. => true
  | .bfi .. => true
  | .minI32 .. => true
  | .maxI32 .. => true
  | .minN32 .. => true
  | .maxN32 .. => true
  | .absI32 .. => true
  | .negI32 .. => true
  | .adiffN32 .. => true
  | .mov .. => true
  | .sel .. => true
  | .movsRead .. => true
  | .movsWrite .. => true
  | .pop .. => true
  | .push .. => true
  | .movp .. => true
  | .setp .. => true
  | .movsv .. => true
  | .movl .. => true
  | .movh .. => true
  | .cmpI32 .. => true
  | .cmpN32 .. => true
  | .cmpF32 .. => true
  | .cmp64 .. => true
  | .pand .. => true
  | .por .. => true
  | .pxor .. => true
  | .pmov .. => true
  | .pset .. => true
  | .pclr .. => true
  | .guard .. => true
  | .bra .. => true
  | .call .. => true
  | .jmp .. => true
  | .callr .. => true
  | .ret .. => true
  | .fadd .. => true
  | .fsub .. => true
  | .fmul .. => true
  | .fmin .. => true
  | .fmax .. => true
  | .fminnum .. => true
  | .fmaxnum .. => true
  | .fcopysign .. => true
  | .ffma .. => true
  | .ffms .. => true
  | .ffnma .. => true
  | .ffnms .. => true
  | .haddBf16x2 .. => true
  | .hmulBf16x2 .. => true
  | .hfmaBf16x2 .. => true
  | .haddF16x2 .. => true
  | .hmulF16x2 .. => true
  | .hfmaF16x2 .. => true
  | .hmaxBf16x2 .. => true
  | .hminBf16x2 .. => true
  | .dadd .. => true
  | .dsub .. => true
  | .dmul .. => true
  | .dfma .. => true
  | .dmin .. => true
  | .dmax .. => true
  | .ddiv .. => true
  | .dsqrt .. => true
  | .rcp .. => true
  | .rsqrt .. => true
  | .sqrt .. => true
  | .log2 .. => true
  | .exp2 .. => true
  | .sin .. => true
  | .cos .. => true
  | .tanh .. => true
  | .cvt .. => true
  | .dotI8x4 .. => true
  | .dotsI8x4 .. => true
  | .dotI4x8 .. => true
  | .dotF8ax4 .. => true
  | .dotF8bx4 .. => true
  | .dotL4x8 .. => true
  | .dotBf16x2 .. => true
  | .scalef .. => true
  | .fexp .. => true
  | .fmant .. => true
  | .sadd .. => true
  | .ssub .. => true
  | .smul .. => true
  | .sand .. => true
  | .sor .. => true
  | .sxor .. => true
  | .sshl .. => true
  | .sshr .. => true
  | .smov .. => true
  | .smin .. => true
  | .smax .. => true
  | .sfrom .. => true
  | .sldB32 .. => true
  | .sldB64 .. => true
  | .bset .. => true
  | .badd .. => true
  | .bget .. => true
  | .bmov .. => true
  | .ld .. => true
  | .st .. => true
  | .ldw .. => true
  | .stw .. => true
  | .lds .. => true
  | .sts .. => true
  | .atomAddI32 .. => true
  | .atomAddF32 .. => true
  | .atomMinI32 .. => true
  | .atomMaxI32 .. => true
  | .atomMinN32 .. => true
  | .atomMaxN32 .. => true
  | .atomExch .. => true
  | .atomCas .. => true
  | .atomAnd .. => true
  | .atomOr .. => true
  | .atomXor .. => true
  | .atomAddI64 .. => true
  | .atomCasB64 .. => true
  | .atomAddBf16x2 .. => true
  | .atomIncN32 .. => true
  | .atomDecN32 .. => true
  | .redAddI32 .. => true
  | .redAddF32 .. => true
  | .redMinI32 .. => true
  | .redMaxI32 .. => true
  | .redMinN32 .. => true
  | .redMaxN32 .. => true
  | .redExch .. => true
  | .redCas .. => true
  | .redAnd .. => true
  | .redOr .. => true
  | .redXor .. => true
  | .redAddI64 .. => true
  | .redCasB64 .. => true
  | .redAddBf16x2 .. => true
  | .redIncN32 .. => true
  | .redDecN32 .. => true
  | .atomsAddI32 .. => true
  | .atomsAddF32 .. => true
  | .atomsMinI32 .. => true
  | .atomsMaxI32 .. => true
  | .atomsMinN32 .. => true
  | .atomsMaxN32 .. => true
  | .atomsExch .. => true
  | .atomsCas .. => true
  | .fenceRelTeam .. => true
  | .fenceRelCluster .. => true
  | .fenceRelDevice .. => true
  | .fenceRelSystem .. => true
  | .fenceAcq .. => true
  | .fenceFullTeam .. => true
  | .fenceFullCluster .. => true
  | .fenceFullDevice .. => true
  | .fenceFullSystem .. => true
  | .pfenceLc .. => true
  | .pfenceLt .. => true
  | .tbegin .. => true
  | .tend .. => true
  | .tabort .. => true
  | .tprobe .. => true
  | .adecl .. => true
  | .adrop .. => true
  | .forkW .. => true
  | .chooseFirst .. => true
  | .chooseBest .. => true
  | .wabort .. => true
  | .wquery .. => true
  | .exitSave .. => true
  | .entryDone .. => true
  | .rrec .. => true
  | .rpoison .. => true
  | .penInit .. => true
  | .penExpect .. => true
  | .penArrive .. => true
  | .penWait .. => true
  | .penTest .. => true
  | .barTeam .. => true
  | .barRole .. => true
  | .gsync .. => true
  | .penInval .. => true
  | .ballot .. => true
  | .vall .. => true
  | .vany .. => true
  | .matchLanes .. => true
  | .shflIdx .. => true
  | .shflUp .. => true
  | .shflDown .. => true
  | .shflXor .. => true
  | .redaddI32 .. => true
  | .scanaddI32 .. => true
  | .exscanI32 .. => true
  | .redmaxI32 .. => true
  | .redminI32 .. => true
  | .redaddF32 .. => true
  | .elect .. => true
  | .setgm .. => true
  | .copyTeam .. => true
  | .copyMc .. => true
  | .copySp .. => true
  | .copyOut .. => true
  | .rlkQ .. => true
  | .copyBulk .. => true
  | .gath .. => true
  | .gathClose .. => true
  | .trBind .. => true
  | .trUnbind .. => true
  | .trFilled .. => true
  | .trFree .. => true
  | .trReset .. => true
  | .mxMma .. => true
  | .mxRd .. => true
  | .mxSt .. => true
  | .mxLd .. => true
  | .mxClr .. => true
  | .mxStat .. => true
  | .launch .. => true
  | .exit .. => true
  | .exitSucc .. => true
  | .tyield .. => true
  | .waitExt .. => true
  | .sigHost .. => true
  | .sleep .. => true
  | .trap .. => true
  | .brk .. => true
  | .rdpriv .. => true
  | .wrpriv .. => true
  | .tret .. => true
  | .tretSkip .. => true
  | .ipref .. => true
  | .ipin .. => true
  | .iunpin .. => true
  | .tmark .. => true
  | .perfRd .. => true
  | .clk .. => true
  | .sfuF64Result .. => false
  | .matrixOpFinish .. => false
  | .tbeginStampAdvance .. => false
  | .pcieCompletion .. => false
  | .postedWriteAccepted .. => false
  | .priResponse .. => false
  | .crcFailure .. => false
  | .tdispStateChange .. => false
  | .managementStepRequest .. => false


end Sys2Proof
end

