-- ==== Sys2Proof/Decode.lean ====
section
/-! DEFINITION. The decoder of instruction words, total on every word (R276 to R290), and the encoder after it. -/

namespace Sys2Proof

/-- Why a word is no instruction: step 2 of R290. -/
inductive DecodeErr where
  /-- A reserved OP or function code, or a nonzero unused or zero field (R282, R286). -/
  | reserved
  /-- A field value outside its register file, code table or multiple (R283, R287, R288, R325). -/
  | badField
  /-- Not one 32-bit word (R276). -/
  | badLength
  deriving DecidableEq, Repr

/-- Bits [lo + n - 1 : lo] of a word. -/
def fld (w : BitVec 32) (lo n : Nat) : BitVec n := w.extractLsb' lo n

/-- OP 0x00 of R286. -/
noncomputable def decOp00 (w : BitVec 32) : Option Instr :=
  match (fld w 23 3).toNat with
  | 0 => if fld w 16 7 = 0#7 ∧ fld w 9 7 = 0#7 ∧ fld w 2 7 = 0#7 then some (Instr.nop (fld w 0 2)) else none
  | 1 => if fld w 16 7 = 0#7 ∧ fld w 9 7 = 0#7 ∧ fld w 2 7 = 0#7 then some (Instr.yield (fld w 0 2)) else none
  | 2 => if fld w 16 7 = 0#7 ∧ fld w 2 7 = 0#7 then some (Instr.sleeptk (fld w 9 7) (fld w 0 2)) else none
  | _ => none

/-- OP 0x01 of R286. -/
noncomputable def decOp01 (w : BitVec 32) : Option Instr :=
  match (fld w 23 3).toNat with
  | 0 => some (Instr.add (fld w 16 7) (fld w 9 7) (fld w 2 7) (fld w 0 2))
  | 1 => some (Instr.sub (fld w 16 7) (fld w 9 7) (fld w 2 7) (fld w 0 2))
  | 2 => some (Instr.addc (fld w 16 7) (fld w 9 7) (fld w 2 7) (fld w 0 2))
  | 3 => some (Instr.subb (fld w 16 7) (fld w 9 7) (fld w 2 7) (fld w 0 2))
  | 4 => some (Instr.addsI32 (fld w 16 7) (fld w 9 7) (fld w 2 7) (fld w 0 2))
  | 5 => some (Instr.subsI32 (fld w 16 7) (fld w 9 7) (fld w 2 7) (fld w 0 2))
  | 6 => some (Instr.addsN32 (fld w 16 7) (fld w 9 7) (fld w 2 7) (fld w 0 2))
  | 7 => some (Instr.subsN32 (fld w 16 7) (fld w 9 7) (fld w 2 7) (fld w 0 2))
  | _ => none

/-- OP 0x02 of R286. -/
noncomputable def decOp02 (w : BitVec 32) : Option Instr :=
  match (fld w 24 2).toNat with
  | 0 => some (Instr.addi (fld w 17 7) (fld w 10 7) (fld w 2 8) (fld w 0 2))
  | 1 => some (Instr.andi (fld w 17 7) (fld w 10 7) (fld w 2 8) (fld w 0 2))
  | 2 => some (Instr.ori (fld w 17 7) (fld w 10 7) (fld w 2 8) (fld w 0 2))
  | 3 => some (Instr.xori (fld w 17 7) (fld w 10 7) (fld w 2 8) (fld w 0 2))
  | _ => none

/-- OP 0x03 of R286. -/
noncomputable def decOp03 (w : BitVec 32) : Option Instr :=
  match (fld w 23 3).toNat with
  | 0 => some (Instr.mul (fld w 16 7) (fld w 9 7) (fld w 2 7) (fld w 0 2))
  | 1 => some (Instr.mulhiI32 (fld w 16 7) (fld w 9 7) (fld w 2 7) (fld w 0 2))
  | 2 => some (Instr.mulhiN32 (fld w 16 7) (fld w 9 7) (fld w 2 7) (fld w 0 2))
  | 3 => some (Instr.mad (fld w 16 7) (fld w 9 7) (fld w 2 7) (fld w 0 2))
  | 4 => some (Instr.madhiI32 (fld w 16 7) (fld w 9 7) (fld w 2 7) (fld w 0 2))
  | 5 => some (Instr.madhiN32 (fld w 16 7) (fld w 9 7) (fld w 2 7) (fld w 0 2))
  | 6 => some (Instr.mulwI32 (fld w 16 7) (fld w 9 7) (fld w 2 7) (fld w 0 2))
  | 7 => some (Instr.mulwN32 (fld w 16 7) (fld w 9 7) (fld w 2 7) (fld w 0 2))
  | _ => none

/-- OP 0x04 of R286. -/
noncomputable def decOp04 (w : BitVec 32) : Option Instr :=
  match (fld w 23 3).toNat with
  | 0 => some (Instr.and (fld w 16 7) (fld w 9 7) (fld w 2 7) (fld w 0 2))
  | 1 => some (Instr.or (fld w 16 7) (fld w 9 7) (fld w 2 7) (fld w 0 2))
  | 2 => some (Instr.xor (fld w 16 7) (fld w 9 7) (fld w 2 7) (fld w 0 2))
  | 3 => some (Instr.andn (fld w 16 7) (fld w 9 7) (fld w 2 7) (fld w 0 2))
  | 4 => some (Instr.orn (fld w 16 7) (fld w 9 7) (fld w 2 7) (fld w 0 2))
  | 5 => some (Instr.xnor (fld w 16 7) (fld w 9 7) (fld w 2 7) (fld w 0 2))
  | 6 => if fld w 2 7 = 0#7 then some (Instr.not (fld w 16 7) (fld w 9 7) (fld w 0 2)) else none
  | _ => none

/-- OP 0x05 of R286. -/
noncomputable def decOp05 (w : BitVec 32) : Option Instr :=
  match (fld w 23 3).toNat with
  | 0 => some (Instr.shl (fld w 16 7) (fld w 9 7) (fld w 2 7) (fld w 0 2))
  | 1 => some (Instr.shrN32 (fld w 16 7) (fld w 9 7) (fld w 2 7) (fld w 0 2))
  | 2 => some (Instr.shrI32 (fld w 16 7) (fld w 9 7) (fld w 2 7) (fld w 0 2))
  | 3 => some (Instr.rotl (fld w 16 7) (fld w 9 7) (fld w 2 7) (fld w 0 2))
  | 4 => some (Instr.rotr (fld w 16 7) (fld w 9 7) (fld w 2 7) (fld w 0 2))
  | 5 => some (Instr.fshl (fld w 16 7) (fld w 9 7) (fld w 2 7) (fld w 0 2))
  | 6 => some (Instr.fshr (fld w 16 7) (fld w 9 7) (fld w 2 7) (fld w 0 2))
  | _ => none

/-- OP 0x06 of R286. -/
noncomputable def decOp06 (w : BitVec 32) : Option Instr :=
  match (fld w 24 2).toNat with
  | 0 => if fld w 7 3 = 0#3 then some (Instr.shli (fld w 17 7) (fld w 10 7) (fld w 2 5) (fld w 0 2)) else none
  | 1 => if fld w 7 3 = 0#3 then some (Instr.shriN32 (fld w 17 7) (fld w 10 7) (fld w 2 5) (fld w 0 2)) else none
  | 2 => if fld w 7 3 = 0#3 then some (Instr.shriI32 (fld w 17 7) (fld w 10 7) (fld w 2 5) (fld w 0 2)) else none
  | 3 => if fld w 7 3 = 0#3 then some (Instr.roti (fld w 17 7) (fld w 10 7) (fld w 2 5) (fld w 0 2)) else none
  | _ => none

/-- OP 0x07 of R286. -/
noncomputable def decOp07 (w : BitVec 32) : Option Instr :=
  match (fld w 23 3).toNat with
  | 0 => if fld w 2 7 = 0#7 then some (Instr.popc (fld w 16 7) (fld w 9 7) (fld w 0 2)) else none
  | 1 => if fld w 2 7 = 0#7 then some (Instr.clz (fld w 16 7) (fld w 9 7) (fld w 0 2)) else none
  | 2 => if fld w 2 7 = 0#7 then some (Instr.ctz (fld w 16 7) (fld w 9 7) (fld w 0 2)) else none
  | 3 => if fld w 2 7 = 0#7 then some (Instr.brev (fld w 16 7) (fld w 9 7) (fld w 0 2)) else none
  | 4 => if fld w 2 7 = 0#7 then some (Instr.bswap (fld w 16 7) (fld w 9 7) (fld w 0 2)) else none
  | 5 => some (Instr.perm (fld w 16 7) (fld w 9 7) (fld w 2 7) (fld w 0 2))
  | 6 => some (Instr.bmsk (fld w 16 7) (fld w 9 7) (fld w 2 7) (fld w 0 2))
  | _ => none

/-- OP 0x08 of R286. -/
noncomputable def decOp08 (w : BitVec 32) : Option Instr :=
  match (fld w 23 3).toNat with
  | 0 => some (Instr.bfxN32 (fld w 16 7) (fld w 9 7) (fld w 2 7) (fld w 0 2))
  | 1 => some (Instr.bfxI32 (fld w 16 7) (fld w 9 7) (fld w 2 7) (fld w 0 2))
  | 2 => some (Instr.bfi (fld w 16 7) (fld w 9 7) (fld w 2 7) (fld w 0 2))
  | _ => none

/-- OP 0x09 of R286. -/
noncomputable def decOp09 (w : BitVec 32) : Option Instr :=
  match (fld w 23 3).toNat with
  | 0 => some (Instr.minI32 (fld w 16 7) (fld w 9 7) (fld w 2 7) (fld w 0 2))
  | 1 => some (Instr.maxI32 (fld w 16 7) (fld w 9 7) (fld w 2 7) (fld w 0 2))
  | 2 => some (Instr.minN32 (fld w 16 7) (fld w 9 7) (fld w 2 7) (fld w 0 2))
  | 3 => some (Instr.maxN32 (fld w 16 7) (fld w 9 7) (fld w 2 7) (fld w 0 2))
  | 4 => if fld w 2 7 = 0#7 then some (Instr.absI32 (fld w 16 7) (fld w 9 7) (fld w 0 2)) else none
  | 5 => if fld w 2 7 = 0#7 then some (Instr.negI32 (fld w 16 7) (fld w 9 7) (fld w 0 2)) else none
  | 6 => some (Instr.adiffN32 (fld w 16 7) (fld w 9 7) (fld w 2 7) (fld w 0 2))
  | _ => none

/-- OP 0x0A of R286. -/
noncomputable def decOp0A (w : BitVec 32) : Option Instr :=
  match (fld w 23 3).toNat with
  | 0 => if fld w 2 7 = 0#7 then some (Instr.mov (fld w 16 7) (fld w 9 7) (fld w 0 2)) else none
  | 1 => some (Instr.sel (fld w 16 7) (fld w 9 7) (fld w 2 7) (fld w 0 2))
  | 2 => if fld w 2 7 = 0#7 then some (Instr.movsRead (fld w 16 7) (fld w 9 7) (fld w 0 2)) else if fld w 2 7 = 127#7 then some (Instr.movsWrite (fld w 16 7) (fld w 9 7) (fld w 0 2)) else none
  | 3 => if fld w 2 7 = 0#7 then some (Instr.pop (fld w 16 7) (fld w 9 7) (fld w 0 2)) else none
  | 4 => if fld w 2 7 = 0#7 then some (Instr.push (fld w 16 7) (fld w 9 7) (fld w 0 2)) else none
  | 5 => if fld w 9 7 = 0#7 ∧ fld w 2 7 = 0#7 then some (Instr.movp (fld w 16 7) (fld w 0 2)) else none
  | 6 => if fld w 16 7 = 0#7 ∧ fld w 2 7 = 0#7 then some (Instr.setp (fld w 9 7) (fld w 0 2)) else none
  | 7 => if fld w 2 7 = 0#7 then some (Instr.movsv (fld w 16 7) (fld w 9 7) (fld w 0 2)) else none
  | _ => none

/-- OP 0x0B of R286. -/
noncomputable def decOp0B (w : BitVec 32) : Option Instr :=
  match (fld w 25 1).toNat with
  | 0 => some (Instr.movl (fld w 18 7) (fld w 2 16) (fld w 0 2))
  | 1 => some (Instr.movh (fld w 18 7) (fld w 2 16) (fld w 0 2))
  | _ => none

/-- OP 0x0C of R286. -/
noncomputable def decOp0C (w : BitVec 32) : Option Instr :=
  some (Instr.cmpI32 (fld w 22 4) (fld w 16 6) (fld w 9 7) (fld w 2 7) (fld w 0 2))

/-- OP 0x0D of R286. -/
noncomputable def decOp0D (w : BitVec 32) : Option Instr :=
  some (Instr.cmpN32 (fld w 22 4) (fld w 16 6) (fld w 9 7) (fld w 2 7) (fld w 0 2))

/-- OP 0x0E of R286. -/
noncomputable def decOp0E (w : BitVec 32) : Option Instr :=
  some (Instr.cmpF32 (fld w 22 4) (fld w 16 6) (fld w 9 7) (fld w 2 7) (fld w 0 2))

/-- OP 0x0F of R286. -/
noncomputable def decOp0F (w : BitVec 32) : Option Instr :=
  some (Instr.cmp64 (fld w 22 4) (fld w 16 6) (fld w 9 7) (fld w 2 7) (fld w 0 2))

/-- OP 0x10 of R286. -/
noncomputable def decOp10 (w : BitVec 32) : Option Instr :=
  match (fld w 23 3).toNat with
  | 0 => if fld w 2 1 = 0#1 then some (Instr.pand (fld w 17 6) (fld w 11 6) (fld w 5 6) (fld w 4 1) (fld w 3 1) (fld w 0 2)) else none
  | 1 => if fld w 2 1 = 0#1 then some (Instr.por (fld w 17 6) (fld w 11 6) (fld w 5 6) (fld w 4 1) (fld w 3 1) (fld w 0 2)) else none
  | 2 => if fld w 2 1 = 0#1 then some (Instr.pxor (fld w 17 6) (fld w 11 6) (fld w 5 6) (fld w 4 1) (fld w 3 1) (fld w 0 2)) else none
  | 3 => if fld w 5 6 = 0#6 ∧ fld w 3 1 = 0#1 ∧ fld w 2 1 = 0#1 then some (Instr.pmov (fld w 17 6) (fld w 11 6) (fld w 4 1) (fld w 0 2)) else none
  | 4 => if fld w 11 6 = 0#6 ∧ fld w 5 6 = 0#6 ∧ fld w 4 1 = 0#1 ∧ fld w 3 1 = 0#1 ∧ fld w 2 1 = 0#1 then some (Instr.pset (fld w 17 6) (fld w 0 2)) else none
  | 5 => if fld w 11 6 = 0#6 ∧ fld w 5 6 = 0#6 ∧ fld w 4 1 = 0#1 ∧ fld w 3 1 = 0#1 ∧ fld w 2 1 = 0#1 then some (Instr.pclr (fld w 17 6) (fld w 0 2)) else none
  | _ => none

/-- OP 0x11 of R286. -/
noncomputable def decOp11 (w : BitVec 32) : Option Instr :=
  if fld w 2 14 = 0#14 then some (Instr.guard (fld w 25 1) (fld w 19 6) (fld w 16 3) (fld w 0 2)) else none

/-- OP 0x12 of R286. -/
noncomputable def decOp12 (w : BitVec 32) : Option Instr :=
  some (Instr.bra (fld w 25 1) (fld w 19 6) (fld w 2 17) (fld w 0 2))

/-- OP 0x13 of R286. -/
noncomputable def decOp13 (w : BitVec 32) : Option Instr :=
  some (Instr.call (fld w 25 1) (fld w 19 6) (fld w 2 17) (fld w 0 2))

/-- OP 0x14 of R286. -/
noncomputable def decOp14 (w : BitVec 32) : Option Instr :=
  match (fld w 23 3).toNat with
  | 0 => if fld w 16 7 = 0#7 ∧ fld w 2 7 = 0#7 then some (Instr.jmp (fld w 9 7) (fld w 0 2)) else none
  | 1 => if fld w 16 7 = 0#7 ∧ fld w 2 7 = 0#7 then some (Instr.callr (fld w 9 7) (fld w 0 2)) else none
  | 2 => if fld w 16 7 = 0#7 ∧ fld w 9 7 = 0#7 ∧ fld w 2 7 = 0#7 then some (Instr.ret (fld w 0 2)) else none
  | _ => none

/-- OP 0x15 of R286. -/
noncomputable def decOp15 (w : BitVec 32) : Option Instr :=
  match (fld w 23 3).toNat with
  | 0 => some (Instr.fadd (fld w 16 7) (fld w 9 7) (fld w 2 7) (fld w 0 2))
  | 1 => some (Instr.fsub (fld w 16 7) (fld w 9 7) (fld w 2 7) (fld w 0 2))
  | 2 => some (Instr.fmul (fld w 16 7) (fld w 9 7) (fld w 2 7) (fld w 0 2))
  | 3 => some (Instr.fmin (fld w 16 7) (fld w 9 7) (fld w 2 7) (fld w 0 2))
  | 4 => some (Instr.fmax (fld w 16 7) (fld w 9 7) (fld w 2 7) (fld w 0 2))
  | 5 => some (Instr.fminnum (fld w 16 7) (fld w 9 7) (fld w 2 7) (fld w 0 2))
  | 6 => some (Instr.fmaxnum (fld w 16 7) (fld w 9 7) (fld w 2 7) (fld w 0 2))
  | 7 => some (Instr.fcopysign (fld w 16 7) (fld w 9 7) (fld w 2 7) (fld w 0 2))
  | _ => none

/-- OP 0x16 of R286. -/
noncomputable def decOp16 (w : BitVec 32) : Option Instr :=
  match (fld w 23 3).toNat with
  | 0 => some (Instr.ffma (fld w 16 7) (fld w 9 7) (fld w 2 7) (fld w 0 2))
  | 1 => some (Instr.ffms (fld w 16 7) (fld w 9 7) (fld w 2 7) (fld w 0 2))
  | 2 => some (Instr.ffnma (fld w 16 7) (fld w 9 7) (fld w 2 7) (fld w 0 2))
  | 3 => some (Instr.ffnms (fld w 16 7) (fld w 9 7) (fld w 2 7) (fld w 0 2))
  | _ => none

/-- OP 0x17 of R286. -/
noncomputable def decOp17 (w : BitVec 32) : Option Instr :=
  match (fld w 23 3).toNat with
  | 0 => some (Instr.haddBf16x2 (fld w 16 7) (fld w 9 7) (fld w 2 7) (fld w 0 2))
  | 1 => some (Instr.hmulBf16x2 (fld w 16 7) (fld w 9 7) (fld w 2 7) (fld w 0 2))
  | 2 => some (Instr.hfmaBf16x2 (fld w 16 7) (fld w 9 7) (fld w 2 7) (fld w 0 2))
  | 3 => some (Instr.haddF16x2 (fld w 16 7) (fld w 9 7) (fld w 2 7) (fld w 0 2))
  | 4 => some (Instr.hmulF16x2 (fld w 16 7) (fld w 9 7) (fld w 2 7) (fld w 0 2))
  | 5 => some (Instr.hfmaF16x2 (fld w 16 7) (fld w 9 7) (fld w 2 7) (fld w 0 2))
  | 6 => some (Instr.hmaxBf16x2 (fld w 16 7) (fld w 9 7) (fld w 2 7) (fld w 0 2))
  | 7 => some (Instr.hminBf16x2 (fld w 16 7) (fld w 9 7) (fld w 2 7) (fld w 0 2))
  | _ => none

/-- OP 0x18 of R286. -/
noncomputable def decOp18 (w : BitVec 32) : Option Instr :=
  match (fld w 23 3).toNat with
  | 0 => some (Instr.dadd (fld w 16 7) (fld w 9 7) (fld w 2 7) (fld w 0 2))
  | 1 => some (Instr.dsub (fld w 16 7) (fld w 9 7) (fld w 2 7) (fld w 0 2))
  | 2 => some (Instr.dmul (fld w 16 7) (fld w 9 7) (fld w 2 7) (fld w 0 2))
  | 3 => some (Instr.dfma (fld w 16 7) (fld w 9 7) (fld w 2 7) (fld w 0 2))
  | 4 => some (Instr.dmin (fld w 16 7) (fld w 9 7) (fld w 2 7) (fld w 0 2))
  | 5 => some (Instr.dmax (fld w 16 7) (fld w 9 7) (fld w 2 7) (fld w 0 2))
  | 6 => some (Instr.ddiv (fld w 16 7) (fld w 9 7) (fld w 2 7) (fld w 0 2))
  | 7 => if fld w 2 7 = 0#7 then some (Instr.dsqrt (fld w 16 7) (fld w 9 7) (fld w 0 2)) else none
  | _ => none

/-- OP 0x19 of R286. -/
noncomputable def decOp19 (w : BitVec 32) : Option Instr :=
  match (fld w 23 3).toNat with
  | 0 => if fld w 2 7 = 0#7 then some (Instr.rcp (fld w 16 7) (fld w 9 7) (fld w 0 2)) else none
  | 1 => if fld w 2 7 = 0#7 then some (Instr.rsqrt (fld w 16 7) (fld w 9 7) (fld w 0 2)) else none
  | 2 => if fld w 2 7 = 0#7 then some (Instr.sqrt (fld w 16 7) (fld w 9 7) (fld w 0 2)) else none
  | 3 => if fld w 2 7 = 0#7 then some (Instr.log2 (fld w 16 7) (fld w 9 7) (fld w 0 2)) else none
  | 4 => if fld w 2 7 = 0#7 then some (Instr.exp2 (fld w 16 7) (fld w 9 7) (fld w 0 2)) else none
  | 5 => if fld w 2 7 = 0#7 then some (Instr.sin (fld w 16 7) (fld w 9 7) (fld w 0 2)) else none
  | 6 => if fld w 2 7 = 0#7 then some (Instr.cos (fld w 16 7) (fld w 9 7) (fld w 0 2)) else none
  | 7 => if fld w 2 7 = 0#7 then some (Instr.tanh (fld w 16 7) (fld w 9 7) (fld w 0 2)) else none
  | _ => none

/-- OP 0x1A of R286. -/
noncomputable def decOp1A (w : BitVec 32) : Option Instr :=
  some (Instr.cvt (fld w 20 6) (fld w 13 7) (fld w 6 7) (fld w 2 4) (fld w 0 2))

/-- OP 0x1B of R286. -/
noncomputable def decOp1B (w : BitVec 32) : Option Instr :=
  match (fld w 23 3).toNat with
  | 0 => some (Instr.dotI8x4 (fld w 16 7) (fld w 9 7) (fld w 2 7) (fld w 0 2))
  | 1 => some (Instr.dotsI8x4 (fld w 16 7) (fld w 9 7) (fld w 2 7) (fld w 0 2))
  | 2 => some (Instr.dotI4x8 (fld w 16 7) (fld w 9 7) (fld w 2 7) (fld w 0 2))
  | 3 => some (Instr.dotF8ax4 (fld w 16 7) (fld w 9 7) (fld w 2 7) (fld w 0 2))
  | 4 => some (Instr.dotF8bx4 (fld w 16 7) (fld w 9 7) (fld w 2 7) (fld w 0 2))
  | 5 => some (Instr.dotL4x8 (fld w 16 7) (fld w 9 7) (fld w 2 7) (fld w 0 2))
  | 6 => some (Instr.dotBf16x2 (fld w 16 7) (fld w 9 7) (fld w 2 7) (fld w 0 2))
  | _ => none

/-- OP 0x1C of R286. -/
noncomputable def decOp1C (w : BitVec 32) : Option Instr :=
  match (fld w 23 3).toNat with
  | 0 => some (Instr.scalef (fld w 16 7) (fld w 9 7) (fld w 2 7) (fld w 0 2))
  | 1 => if fld w 2 7 = 0#7 then some (Instr.fexp (fld w 16 7) (fld w 9 7) (fld w 0 2)) else none
  | 2 => if fld w 2 7 = 0#7 then some (Instr.fmant (fld w 16 7) (fld w 9 7) (fld w 0 2)) else none
  | _ => none

/-- OP 0x1D of R286. -/
noncomputable def decOp1D (w : BitVec 32) : Option Instr :=
  match (fld w 22 4).toNat with
  | 0 => if fld w 2 1 = 0#1 then some (Instr.sadd (fld w 16 6) (fld w 10 6) (fld w 4 6) (fld w 3 1) (fld w 0 2)) else none
  | 1 => if fld w 2 1 = 0#1 then some (Instr.ssub (fld w 16 6) (fld w 10 6) (fld w 4 6) (fld w 3 1) (fld w 0 2)) else none
  | 2 => if fld w 2 1 = 0#1 then some (Instr.smul (fld w 16 6) (fld w 10 6) (fld w 4 6) (fld w 3 1) (fld w 0 2)) else none
  | 3 => if fld w 2 1 = 0#1 then some (Instr.sand (fld w 16 6) (fld w 10 6) (fld w 4 6) (fld w 3 1) (fld w 0 2)) else none
  | 4 => if fld w 2 1 = 0#1 then some (Instr.sor (fld w 16 6) (fld w 10 6) (fld w 4 6) (fld w 3 1) (fld w 0 2)) else none
  | 5 => if fld w 2 1 = 0#1 then some (Instr.sxor (fld w 16 6) (fld w 10 6) (fld w 4 6) (fld w 3 1) (fld w 0 2)) else none
  | 6 => if fld w 2 1 = 0#1 then some (Instr.sshl (fld w 16 6) (fld w 10 6) (fld w 4 6) (fld w 3 1) (fld w 0 2)) else none
  | 7 => if fld w 2 1 = 0#1 then some (Instr.sshr (fld w 16 6) (fld w 10 6) (fld w 4 6) (fld w 3 1) (fld w 0 2)) else none
  | 8 => if fld w 10 6 = 0#6 ∧ fld w 2 1 = 0#1 then some (Instr.smov (fld w 16 6) (fld w 4 6) (fld w 3 1) (fld w 0 2)) else none
  | 9 => if fld w 2 1 = 0#1 then some (Instr.smin (fld w 16 6) (fld w 10 6) (fld w 4 6) (fld w 3 1) (fld w 0 2)) else none
  | 10 => if fld w 2 1 = 0#1 then some (Instr.smax (fld w 16 6) (fld w 10 6) (fld w 4 6) (fld w 3 1) (fld w 0 2)) else none
  | 11 => if fld w 4 6 = 0#6 ∧ fld w 3 1 = 0#1 ∧ fld w 2 1 = 0#1 then some (Instr.sfrom (fld w 16 6) (fld w 10 6) (fld w 0 2)) else none
  | _ => none

/-- OP 0x1E of R286. -/
noncomputable def decOp1E (w : BitVec 32) : Option Instr :=
  match (fld w 22 4).toNat with
  | 0 => if fld w 2 1 = 0#1 then some (Instr.sldB32 (fld w 16 6) (fld w 10 6) (fld w 4 6) (fld w 3 1) (fld w 0 2)) else none
  | 1 => if fld w 2 1 = 0#1 then some (Instr.sldB64 (fld w 16 6) (fld w 10 6) (fld w 4 6) (fld w 3 1) (fld w 0 2)) else none
  | _ => none

/-- OP 0x1F of R286. -/
noncomputable def decOp1F (w : BitVec 32) : Option Instr :=
  match (fld w 22 4).toNat with
  | 0 => if fld w 2 1 = 0#1 then some (Instr.bset (fld w 16 6) (fld w 10 6) (fld w 4 6) (fld w 3 1) (fld w 0 2)) else none
  | 1 => if fld w 2 1 = 0#1 then some (Instr.badd (fld w 16 6) (fld w 10 6) (fld w 4 6) (fld w 3 1) (fld w 0 2)) else none
  | 2 => if fld w 3 1 = 1#1 ∧ fld w 2 1 = 0#1 then some (Instr.bget (fld w 16 6) (fld w 10 6) (fld w 4 6) (fld w 0 2)) else none
  | 3 => if fld w 4 6 = 0#6 ∧ fld w 3 1 = 0#1 ∧ fld w 2 1 = 0#1 then some (Instr.bmov (fld w 16 6) (fld w 10 6) (fld w 0 2)) else none
  | _ => none

/-- OP 0x20 of R286. -/
noncomputable def decOp20 (w : BitVec 32) : Option Instr :=
  some (Instr.ld (fld w 23 3) (fld w 16 7) (fld w 12 4) (fld w 5 7) (fld w 2 3) (fld w 0 2))

/-- OP 0x21 of R286. -/
noncomputable def decOp21 (w : BitVec 32) : Option Instr :=
  some (Instr.st (fld w 23 3) (fld w 16 7) (fld w 12 4) (fld w 5 7) (fld w 2 3) (fld w 0 2))

/-- OP 0x22 of R286. -/
noncomputable def decOp22 (w : BitVec 32) : Option Instr :=
  some (Instr.ldw (fld w 23 3) (fld w 16 7) (fld w 12 4) (fld w 5 7) (fld w 2 3) (fld w 0 2))

/-- OP 0x23 of R286. -/
noncomputable def decOp23 (w : BitVec 32) : Option Instr :=
  some (Instr.stw (fld w 23 3) (fld w 16 7) (fld w 12 4) (fld w 5 7) (fld w 2 3) (fld w 0 2))

/-- OP 0x24 of R286. -/
noncomputable def decOp24 (w : BitVec 32) : Option Instr :=
  some (Instr.lds (fld w 23 3) (fld w 16 7) (fld w 12 4) (fld w 5 7) (fld w 2 3) (fld w 0 2))

/-- OP 0x25 of R286. -/
noncomputable def decOp25 (w : BitVec 32) : Option Instr :=
  some (Instr.sts (fld w 23 3) (fld w 16 7) (fld w 12 4) (fld w 5 7) (fld w 2 3) (fld w 0 2))

/-- OP 0x26 of R286. -/
noncomputable def decOp26 (w : BitVec 32) : Option Instr :=
  match (fld w 23 3).toNat with
  | 0 => some (Instr.atomAddI32 (fld w 16 7) (fld w 12 4) (fld w 5 7) (fld w 2 3) (fld w 0 2))
  | 1 => some (Instr.atomAddF32 (fld w 16 7) (fld w 12 4) (fld w 5 7) (fld w 2 3) (fld w 0 2))
  | 2 => some (Instr.atomMinI32 (fld w 16 7) (fld w 12 4) (fld w 5 7) (fld w 2 3) (fld w 0 2))
  | 3 => some (Instr.atomMaxI32 (fld w 16 7) (fld w 12 4) (fld w 5 7) (fld w 2 3) (fld w 0 2))
  | 4 => some (Instr.atomMinN32 (fld w 16 7) (fld w 12 4) (fld w 5 7) (fld w 2 3) (fld w 0 2))
  | 5 => some (Instr.atomMaxN32 (fld w 16 7) (fld w 12 4) (fld w 5 7) (fld w 2 3) (fld w 0 2))
  | 6 => some (Instr.atomExch (fld w 16 7) (fld w 12 4) (fld w 5 7) (fld w 2 3) (fld w 0 2))
  | 7 => some (Instr.atomCas (fld w 16 7) (fld w 12 4) (fld w 5 7) (fld w 2 3) (fld w 0 2))
  | _ => none

/-- OP 0x27 of R286. -/
noncomputable def decOp27 (w : BitVec 32) : Option Instr :=
  match (fld w 23 3).toNat with
  | 0 => some (Instr.atomAnd (fld w 16 7) (fld w 12 4) (fld w 5 7) (fld w 2 3) (fld w 0 2))
  | 1 => some (Instr.atomOr (fld w 16 7) (fld w 12 4) (fld w 5 7) (fld w 2 3) (fld w 0 2))
  | 2 => some (Instr.atomXor (fld w 16 7) (fld w 12 4) (fld w 5 7) (fld w 2 3) (fld w 0 2))
  | 3 => some (Instr.atomAddI64 (fld w 16 7) (fld w 12 4) (fld w 5 7) (fld w 2 3) (fld w 0 2))
  | 4 => some (Instr.atomCasB64 (fld w 16 7) (fld w 12 4) (fld w 5 7) (fld w 2 3) (fld w 0 2))
  | 5 => some (Instr.atomAddBf16x2 (fld w 16 7) (fld w 12 4) (fld w 5 7) (fld w 2 3) (fld w 0 2))
  | 6 => some (Instr.atomIncN32 (fld w 16 7) (fld w 12 4) (fld w 5 7) (fld w 2 3) (fld w 0 2))
  | 7 => some (Instr.atomDecN32 (fld w 16 7) (fld w 12 4) (fld w 5 7) (fld w 2 3) (fld w 0 2))
  | _ => none

/-- OP 0x28 of R286. -/
noncomputable def decOp28 (w : BitVec 32) : Option Instr :=
  match (fld w 23 3).toNat with
  | 0 => some (Instr.redAddI32 (fld w 16 7) (fld w 12 4) (fld w 5 7) (fld w 2 3) (fld w 0 2))
  | 1 => some (Instr.redAddF32 (fld w 16 7) (fld w 12 4) (fld w 5 7) (fld w 2 3) (fld w 0 2))
  | 2 => some (Instr.redMinI32 (fld w 16 7) (fld w 12 4) (fld w 5 7) (fld w 2 3) (fld w 0 2))
  | 3 => some (Instr.redMaxI32 (fld w 16 7) (fld w 12 4) (fld w 5 7) (fld w 2 3) (fld w 0 2))
  | 4 => some (Instr.redMinN32 (fld w 16 7) (fld w 12 4) (fld w 5 7) (fld w 2 3) (fld w 0 2))
  | 5 => some (Instr.redMaxN32 (fld w 16 7) (fld w 12 4) (fld w 5 7) (fld w 2 3) (fld w 0 2))
  | 6 => some (Instr.redExch (fld w 16 7) (fld w 12 4) (fld w 5 7) (fld w 2 3) (fld w 0 2))
  | 7 => some (Instr.redCas (fld w 16 7) (fld w 12 4) (fld w 5 7) (fld w 2 3) (fld w 0 2))
  | _ => none

/-- OP 0x29 of R286. -/
noncomputable def decOp29 (w : BitVec 32) : Option Instr :=
  match (fld w 23 3).toNat with
  | 0 => some (Instr.redAnd (fld w 16 7) (fld w 12 4) (fld w 5 7) (fld w 2 3) (fld w 0 2))
  | 1 => some (Instr.redOr (fld w 16 7) (fld w 12 4) (fld w 5 7) (fld w 2 3) (fld w 0 2))
  | 2 => some (Instr.redXor (fld w 16 7) (fld w 12 4) (fld w 5 7) (fld w 2 3) (fld w 0 2))
  | 3 => some (Instr.redAddI64 (fld w 16 7) (fld w 12 4) (fld w 5 7) (fld w 2 3) (fld w 0 2))
  | 4 => some (Instr.redCasB64 (fld w 16 7) (fld w 12 4) (fld w 5 7) (fld w 2 3) (fld w 0 2))
  | 5 => some (Instr.redAddBf16x2 (fld w 16 7) (fld w 12 4) (fld w 5 7) (fld w 2 3) (fld w 0 2))
  | 6 => some (Instr.redIncN32 (fld w 16 7) (fld w 12 4) (fld w 5 7) (fld w 2 3) (fld w 0 2))
  | 7 => some (Instr.redDecN32 (fld w 16 7) (fld w 12 4) (fld w 5 7) (fld w 2 3) (fld w 0 2))
  | _ => none

/-- OP 0x2A of R286. -/
noncomputable def decOp2A (w : BitVec 32) : Option Instr :=
  match (fld w 23 3).toNat with
  | 0 => some (Instr.atomsAddI32 (fld w 16 7) (fld w 12 4) (fld w 5 7) (fld w 2 3) (fld w 0 2))
  | 1 => some (Instr.atomsAddF32 (fld w 16 7) (fld w 12 4) (fld w 5 7) (fld w 2 3) (fld w 0 2))
  | 2 => some (Instr.atomsMinI32 (fld w 16 7) (fld w 12 4) (fld w 5 7) (fld w 2 3) (fld w 0 2))
  | 3 => some (Instr.atomsMaxI32 (fld w 16 7) (fld w 12 4) (fld w 5 7) (fld w 2 3) (fld w 0 2))
  | 4 => some (Instr.atomsMinN32 (fld w 16 7) (fld w 12 4) (fld w 5 7) (fld w 2 3) (fld w 0 2))
  | 5 => some (Instr.atomsMaxN32 (fld w 16 7) (fld w 12 4) (fld w 5 7) (fld w 2 3) (fld w 0 2))
  | 6 => some (Instr.atomsExch (fld w 16 7) (fld w 12 4) (fld w 5 7) (fld w 2 3) (fld w 0 2))
  | 7 => some (Instr.atomsCas (fld w 16 7) (fld w 12 4) (fld w 5 7) (fld w 2 3) (fld w 0 2))
  | _ => none

/-- OP 0x2B of R286. -/
noncomputable def decOp2B (w : BitVec 32) : Option Instr :=
  match (fld w 21 5).toNat with
  | 0 => if fld w 14 7 = 0#7 ∧ fld w 8 6 = 0#6 ∧ fld w 2 6 = 0#6 then some (Instr.fenceRelTeam (fld w 0 2)) else none
  | 1 => if fld w 14 7 = 0#7 ∧ fld w 8 6 = 0#6 ∧ fld w 2 6 = 0#6 then some (Instr.fenceRelCluster (fld w 0 2)) else none
  | 2 => if fld w 14 7 = 0#7 ∧ fld w 8 6 = 0#6 ∧ fld w 2 6 = 0#6 then some (Instr.fenceRelDevice (fld w 0 2)) else none
  | 3 => if fld w 14 7 = 0#7 ∧ fld w 8 6 = 0#6 ∧ fld w 2 6 = 0#6 then some (Instr.fenceRelSystem (fld w 0 2)) else none
  | 4 => if fld w 14 7 = 0#7 ∧ fld w 8 6 = 0#6 ∧ fld w 2 6 = 0#6 then some (Instr.fenceAcq (fld w 0 2)) else none
  | 5 => if fld w 14 7 = 0#7 ∧ fld w 8 6 = 0#6 ∧ fld w 2 6 = 0#6 then some (Instr.fenceFullTeam (fld w 0 2)) else none
  | 6 => if fld w 14 7 = 0#7 ∧ fld w 8 6 = 0#6 ∧ fld w 2 6 = 0#6 then some (Instr.fenceFullCluster (fld w 0 2)) else none
  | 7 => if fld w 14 7 = 0#7 ∧ fld w 8 6 = 0#6 ∧ fld w 2 6 = 0#6 then some (Instr.fenceFullDevice (fld w 0 2)) else none
  | 8 => if fld w 14 7 = 0#7 ∧ fld w 8 6 = 0#6 ∧ fld w 2 6 = 0#6 then some (Instr.fenceFullSystem (fld w 0 2)) else none
  | 9 => if fld w 14 7 = 0#7 ∧ fld w 8 6 = 0#6 ∧ fld w 2 6 = 0#6 then some (Instr.pfenceLc (fld w 0 2)) else none
  | 10 => if fld w 14 7 = 0#7 ∧ fld w 8 6 = 0#6 ∧ fld w 2 6 = 0#6 then some (Instr.pfenceLt (fld w 0 2)) else none
  | _ => none

/-- OP 0x2C of R286. -/
noncomputable def decOp2C (w : BitVec 32) : Option Instr :=
  match (fld w 21 5).toNat with
  | 0 => if fld w 14 7 = 0#7 then some (Instr.tbegin (fld w 8 6) (fld w 2 6) (fld w 0 2)) else none
  | 1 => if fld w 14 7 = 0#7 ∧ fld w 8 6 = 0#6 ∧ fld w 2 6 = 0#6 then some (Instr.tend (fld w 0 2)) else none
  | 2 => if fld w 14 7 = 0#7 ∧ fld w 8 6 = 0#6 ∧ fld w 2 6 = 0#6 then some (Instr.tabort (fld w 0 2)) else none
  | 3 => if fld w 8 6 = 0#6 ∧ fld w 2 6 = 0#6 then some (Instr.tprobe (fld w 14 7) (fld w 0 2)) else none
  | 4 => if fld w 14 7 = 0#7 then some (Instr.adecl (fld w 8 6) (fld w 2 6) (fld w 0 2)) else none
  | 5 => if fld w 14 7 = 0#7 ∧ fld w 2 6 = 0#6 then some (Instr.adrop (fld w 8 6) (fld w 0 2)) else none
  | _ => none

/-- OP 0x2D of R286. -/
noncomputable def decOp2D (w : BitVec 32) : Option Instr :=
  match (fld w 21 5).toNat with
  | 0 => if fld w 2 6 = 0#6 then some (Instr.forkW (fld w 14 7) (fld w 8 6) (fld w 0 2)) else none
  | 1 => if fld w 8 6 = 0#6 ∧ fld w 2 6 = 0#6 then some (Instr.chooseFirst (fld w 14 7) (fld w 0 2)) else none
  | 2 => if fld w 2 6 = 0#6 then some (Instr.chooseBest (fld w 14 7) (fld w 8 6) (fld w 0 2)) else none
  | 3 => if fld w 8 6 = 0#6 ∧ fld w 2 6 = 0#6 then some (Instr.wabort (fld w 14 7) (fld w 0 2)) else none
  | 4 => if fld w 8 6 = 0#6 ∧ fld w 2 6 = 0#6 then some (Instr.wquery (fld w 14 7) (fld w 0 2)) else none
  | _ => none

/-- OP 0x2E of R286. -/
noncomputable def decOp2E (w : BitVec 32) : Option Instr :=
  match (fld w 21 5).toNat with
  | 0 => if fld w 14 7 = 0#7 ∧ fld w 8 6 = 0#6 ∧ fld w 2 6 = 0#6 then some (Instr.exitSave (fld w 0 2)) else none
  | 1 => if fld w 14 7 = 0#7 ∧ fld w 8 6 = 0#6 ∧ fld w 2 6 = 0#6 then some (Instr.entryDone (fld w 0 2)) else none
  | 2 => if fld w 2 6 = 0#6 then some (Instr.rrec (fld w 14 7) (fld w 8 6) (fld w 0 2)) else none
  | 3 => if fld w 14 7 = 0#7 ∧ fld w 2 6 = 0#6 then some (Instr.rpoison (fld w 8 6) (fld w 0 2)) else none
  | _ => none

/-- OP 0x2F of R286. -/
noncomputable def decOp2F (w : BitVec 32) : Option Instr :=
  match (fld w 21 5).toNat with
  | 0 => if fld w 14 7 = 0#7 then some (Instr.penInit (fld w 8 6) (fld w 2 6) (fld w 0 2)) else none
  | 1 => if fld w 14 7 = 0#7 then some (Instr.penExpect (fld w 8 6) (fld w 2 6) (fld w 0 2)) else none
  | 2 => if fld w 14 7 = 0#7 ∧ fld w 2 6 = 0#6 then some (Instr.penArrive (fld w 8 6) (fld w 0 2)) else none
  | 3 => if fld w 14 7 = 0#7 then some (Instr.penWait (fld w 8 6) (fld w 2 6) (fld w 0 2)) else none
  | 4 => if fld w 2 6 = 0#6 then some (Instr.penTest (fld w 14 7) (fld w 8 6) (fld w 0 2)) else none
  | 5 => if fld w 14 7 = 0#7 ∧ fld w 2 6 = 0#6 then some (Instr.barTeam (fld w 8 6) (fld w 0 2)) else none
  | 6 => if fld w 14 7 = 0#7 then some (Instr.barRole (fld w 8 6) (fld w 2 6) (fld w 0 2)) else none
  | 7 => if fld w 14 7 = 0#7 ∧ fld w 8 6 = 0#6 ∧ fld w 2 6 = 0#6 then some (Instr.gsync (fld w 0 2)) else none
  | 8 => if fld w 14 7 = 0#7 ∧ fld w 2 6 = 0#6 then some (Instr.penInval (fld w 8 6) (fld w 0 2)) else none
  | _ => none

/-- OP 0x30 of R286. -/
noncomputable def decOp30 (w : BitVec 32) : Option Instr :=
  match (fld w 23 3).toNat with
  | 0 => if fld w 2 7 = 0#7 then some (Instr.ballot (fld w 16 7) (fld w 9 7) (fld w 0 2)) else none
  | 1 => if fld w 2 7 = 0#7 then some (Instr.vall (fld w 16 7) (fld w 9 7) (fld w 0 2)) else none
  | 2 => if fld w 2 7 = 0#7 then some (Instr.vany (fld w 16 7) (fld w 9 7) (fld w 0 2)) else none
  | 3 => if fld w 2 7 = 0#7 then some (Instr.matchLanes (fld w 16 7) (fld w 9 7) (fld w 0 2)) else none
  | 4 => some (Instr.shflIdx (fld w 16 7) (fld w 9 7) (fld w 2 7) (fld w 0 2))
  | 5 => some (Instr.shflUp (fld w 16 7) (fld w 9 7) (fld w 2 7) (fld w 0 2))
  | 6 => some (Instr.shflDown (fld w 16 7) (fld w 9 7) (fld w 2 7) (fld w 0 2))
  | 7 => some (Instr.shflXor (fld w 16 7) (fld w 9 7) (fld w 2 7) (fld w 0 2))
  | _ => none

/-- OP 0x31 of R286. -/
noncomputable def decOp31 (w : BitVec 32) : Option Instr :=
  match (fld w 23 3).toNat with
  | 0 => if fld w 2 7 = 0#7 then some (Instr.redaddI32 (fld w 16 7) (fld w 9 7) (fld w 0 2)) else none
  | 1 => if fld w 2 7 = 0#7 then some (Instr.scanaddI32 (fld w 16 7) (fld w 9 7) (fld w 0 2)) else none
  | 2 => if fld w 2 7 = 0#7 then some (Instr.exscanI32 (fld w 16 7) (fld w 9 7) (fld w 0 2)) else none
  | 3 => if fld w 2 7 = 0#7 then some (Instr.redmaxI32 (fld w 16 7) (fld w 9 7) (fld w 0 2)) else none
  | 4 => if fld w 2 7 = 0#7 then some (Instr.redminI32 (fld w 16 7) (fld w 9 7) (fld w 0 2)) else none
  | 5 => if fld w 2 7 = 0#7 then some (Instr.redaddF32 (fld w 16 7) (fld w 9 7) (fld w 0 2)) else none
  | 6 => if fld w 9 7 = 0#7 ∧ fld w 2 7 = 0#7 then some (Instr.elect (fld w 16 7) (fld w 0 2)) else none
  | 7 => if fld w 16 7 = 0#7 ∧ fld w 2 7 = 0#7 then some (Instr.setgm (fld w 9 7) (fld w 0 2)) else none
  | _ => none

/-- OP 0x32 of R286. -/
noncomputable def decOp32 (w : BitVec 32) : Option Instr :=
  match (fld w 21 5).toNat with
  | 0 => if fld w 2 6 = 0#6 then some (Instr.copyTeam (fld w 14 7) (fld w 8 6) (fld w 0 2)) else none
  | 1 => if fld w 2 6 = 0#6 then some (Instr.copyMc (fld w 14 7) (fld w 8 6) (fld w 0 2)) else none
  | 2 => if fld w 2 6 = 0#6 then some (Instr.copySp (fld w 14 7) (fld w 8 6) (fld w 0 2)) else none
  | 3 => if fld w 2 6 = 0#6 then some (Instr.copyOut (fld w 14 7) (fld w 8 6) (fld w 0 2)) else none
  | 4 => some (Instr.rlkQ (fld w 14 7) (fld w 8 6) (fld w 2 6) (fld w 0 2))
  | 5 => if fld w 2 6 = 0#6 then some (Instr.copyBulk (fld w 14 7) (fld w 8 6) (fld w 0 2)) else none
  | _ => none

/-- OP 0x33 of R286. -/
noncomputable def decOp33 (w : BitVec 32) : Option Instr :=
  match (fld w 21 5).toNat with
  | 0 => if fld w 2 6 = 0#6 then some (Instr.gath (fld w 14 7) (fld w 8 6) (fld w 0 2)) else none
  | 1 => if fld w 14 7 = 0#7 ∧ fld w 2 6 = 0#6 then some (Instr.gathClose (fld w 8 6) (fld w 0 2)) else none
  | _ => none

/-- OP 0x34 of R286. -/
noncomputable def decOp34 (w : BitVec 32) : Option Instr :=
  match (fld w 21 5).toNat with
  | 0 => if fld w 14 7 = 0#7 then some (Instr.trBind (fld w 8 6) (fld w 2 6) (fld w 0 2)) else none
  | 1 => if fld w 14 7 = 0#7 ∧ fld w 2 6 = 0#6 then some (Instr.trUnbind (fld w 8 6) (fld w 0 2)) else none
  | 2 => if fld w 2 6 = 0#6 then some (Instr.trFilled (fld w 14 7) (fld w 8 6) (fld w 0 2)) else none
  | 3 => if fld w 2 6 = 0#6 then some (Instr.trFree (fld w 14 7) (fld w 8 6) (fld w 0 2)) else none
  | 4 => if fld w 14 7 = 0#7 ∧ fld w 2 6 = 0#6 then some (Instr.trReset (fld w 8 6) (fld w 0 2)) else none
  | _ => none

/-- OP 0x35 of R286. -/
noncomputable def decOp35 (w : BitVec 32) : Option Instr :=
  match (fld w 21 5).toNat with
  | 0 => some (Instr.mxMma (fld w 14 7) (fld w 8 6) (fld w 2 6) (fld w 0 2))
  | 1 => if fld w 2 6 = 0#6 then some (Instr.mxRd (fld w 14 7) (fld w 8 6) (fld w 0 2)) else none
  | 2 => some (Instr.mxSt (fld w 14 7) (fld w 8 6) (fld w 2 6) (fld w 0 2))
  | 3 => some (Instr.mxLd (fld w 14 7) (fld w 8 6) (fld w 2 6) (fld w 0 2))
  | 4 => if fld w 14 7 = 0#7 ∧ fld w 2 6 = 0#6 then some (Instr.mxClr (fld w 8 6) (fld w 0 2)) else none
  | 5 => if fld w 8 6 = 0#6 ∧ fld w 2 6 = 0#6 then some (Instr.mxStat (fld w 14 7) (fld w 0 2)) else none
  | _ => none

/-- OP 0x36 of R286. -/
noncomputable def decOp36 (w : BitVec 32) : Option Instr :=
  match (fld w 21 5).toNat with
  | 0 => if fld w 14 7 = 0#7 then some (Instr.launch (fld w 8 6) (fld w 2 6) (fld w 0 2)) else none
  | 1 => if fld w 14 7 = 0#7 ∧ fld w 8 6 = 0#6 ∧ fld w 2 6 = 0#6 then some (Instr.exit (fld w 0 2)) else none
  | 2 => if fld w 14 7 = 0#7 then some (Instr.exitSucc (fld w 8 6) (fld w 2 6) (fld w 0 2)) else none
  | 3 => if fld w 14 7 = 0#7 ∧ fld w 8 6 = 0#6 ∧ fld w 2 6 = 0#6 then some (Instr.tyield (fld w 0 2)) else none
  | 4 => some (Instr.waitExt (fld w 14 7) (fld w 8 6) (fld w 2 6) (fld w 0 2))
  | 5 => if fld w 14 7 = 0#7 ∧ fld w 2 6 = 0#6 then some (Instr.sigHost (fld w 8 6) (fld w 0 2)) else none
  | 6 => if fld w 14 7 = 0#7 ∧ fld w 2 6 = 0#6 then some (Instr.sleep (fld w 8 6) (fld w 0 2)) else none
  | _ => none

/-- OP 0x37 of R286. -/
noncomputable def decOp37 (w : BitVec 32) : Option Instr :=
  match (fld w 21 5).toNat with
  | 0 => if fld w 14 7 = 0#7 ∧ fld w 2 6 = 0#6 then some (Instr.trap (fld w 8 6) (fld w 0 2)) else none
  | 1 => if fld w 14 7 = 0#7 ∧ fld w 8 6 = 0#6 ∧ fld w 2 6 = 0#6 then some (Instr.brk (fld w 0 2)) else none
  | 2 => if fld w 2 6 = 0#6 then some (Instr.rdpriv (fld w 14 7) (fld w 8 6) (fld w 0 2)) else none
  | 3 => if fld w 2 6 = 0#6 then some (Instr.wrpriv (fld w 14 7) (fld w 8 6) (fld w 0 2)) else none
  | 4 => if fld w 14 7 = 0#7 ∧ fld w 8 6 = 0#6 ∧ fld w 2 6 = 0#6 then some (Instr.tret (fld w 0 2)) else if fld w 14 7 = 0#7 ∧ fld w 8 6 = 0#6 ∧ fld w 2 6 = 1#6 then some (Instr.tretSkip (fld w 0 2)) else none
  | 5 => if fld w 14 7 = 0#7 then some (Instr.ipref (fld w 8 6) (fld w 2 6) (fld w 0 2)) else none
  | 6 => some (Instr.ipin (fld w 14 7) (fld w 8 6) (fld w 2 6) (fld w 0 2))
  | 7 => some (Instr.iunpin (fld w 14 7) (fld w 8 6) (fld w 2 6) (fld w 0 2))
  | 8 => if fld w 8 6 = 0#6 ∧ fld w 2 6 = 0#6 then some (Instr.tmark (fld w 14 7) (fld w 0 2)) else none
  | 9 => if fld w 2 6 = 0#6 then some (Instr.perfRd (fld w 14 7) (fld w 8 6) (fld w 0 2)) else none
  | 10 => if fld w 8 6 = 0#6 ∧ fld w 2 6 = 0#6 then some (Instr.clk (fld w 14 7) (fld w 0 2)) else none
  | _ => none

/-- The opcode map of R286: primary opcode, then function code; `none` for a reserved code or a nonzero unused field. -/
noncomputable def decodeRaw (w : BitVec 32) : Option Instr :=
  match (fld w 26 6).toNat with
  | 0 => decOp00 w
  | 1 => decOp01 w
  | 2 => decOp02 w
  | 3 => decOp03 w
  | 4 => decOp04 w
  | 5 => decOp05 w
  | 6 => decOp06 w
  | 7 => decOp07 w
  | 8 => decOp08 w
  | 9 => decOp09 w
  | 10 => decOp0A w
  | 11 => decOp0B w
  | 12 => decOp0C w
  | 13 => decOp0D w
  | 14 => decOp0E w
  | 15 => decOp0F w
  | 16 => decOp10 w
  | 17 => decOp11 w
  | 18 => decOp12 w
  | 19 => decOp13 w
  | 20 => decOp14 w
  | 21 => decOp15 w
  | 22 => decOp16 w
  | 23 => decOp17 w
  | 24 => decOp18 w
  | 25 => decOp19 w
  | 26 => decOp1A w
  | 27 => decOp1B w
  | 28 => decOp1C w
  | 29 => decOp1D w
  | 30 => decOp1E w
  | 31 => decOp1F w
  | 32 => decOp20 w
  | 33 => decOp21 w
  | 34 => decOp22 w
  | 35 => decOp23 w
  | 36 => decOp24 w
  | 37 => decOp25 w
  | 38 => decOp26 w
  | 39 => decOp27 w
  | 40 => decOp28 w
  | 41 => decOp29 w
  | 42 => decOp2A w
  | 43 => decOp2B w
  | 44 => decOp2C w
  | 45 => decOp2D w
  | 46 => decOp2E w
  | 47 => decOp2F w
  | 48 => decOp30 w
  | 49 => decOp31 w
  | 50 => decOp32 w
  | 51 => decOp33 w
  | 52 => decOp34 w
  | 53 => decOp35 w
  | 54 => decOp36 w
  | 55 => decOp37 w
  | _ => none

/-- The instruction of a word, or why it is none (R290 step 2, which depends only on the word). -/
noncomputable def decode (w : BitVec 32) : Except DecodeErr Instr :=
  match decodeRaw w with
  | none => .error .reserved
  | some i => if i.wf then .ok i else .error .badField

/-- A word from its four bytes, lowest address first (R276: little-endian). -/
def wordOfBytes (b0 b1 b2 b3 : Byte) : BitVec 32 := b3 ++ b2 ++ b1 ++ b0

/-- Decoding of any bytes: the first word, and the bytes after it. -/
noncomputable def decodeBytes (bs : List Byte) : Except DecodeErr (Instr × List Byte) :=
  match bs with
  | b0 :: b1 :: b2 :: b3 :: rest =>
    match decode (wordOfBytes b0 b1 b2 b3) with
    | .ok i => .ok (i, rest)
    | .error e => .error e
  | _ => .error .badLength

/-- The four bytes of a word, lowest address first (R276). -/
def bytesOfWord (w : BitVec 32) : List Byte :=
  [w.extractLsb' 0 8, w.extractLsb' 8 8, w.extractLsb' 16 8, w.extractLsb' 24 8]

/-- The instruction that the decoder reads from the first `nbits` bits of `w`; bits above are zero. -/
noncomputable def decodeTableWord (nbits w : Nat) : Option Instr :=
  match decodeBytes (bytesOfWord (BitVec.ofNat 32 (w % 2 ^ min nbits 32))) with
  | .ok (i, _) => some i
  | .error _ => none

/-- A word of format A (R281), from OP down to ST. -/
def encA (op : BitVec 6) (fn : BitVec 3) (d : BitVec 7) (a : BitVec 7) (b : BitVec 7) (st : BitVec 2) : BitVec 32 :=
  op ++ fn ++ d ++ a ++ b ++ st

/-- A word of format I (R281), from OP down to ST. -/
def encI (op : BitVec 6) (fn : BitVec 2) (d : BitVec 7) (a : BitVec 7) (i : BitVec 8) (st : BitVec 2) : BitVec 32 :=
  op ++ fn ++ d ++ a ++ i ++ st

/-- A word of format L (R281), from OP down to ST. -/
def encL (op : BitVec 6) (fn : BitVec 1) (d : BitVec 7) (i : BitVec 16) (st : BitVec 2) : BitVec 32 :=
  op ++ fn ++ d ++ i ++ st

/-- A word of format C (R281), from OP down to ST. -/
def encC (op : BitVec 6) (cc : BitVec 4) (p : BitVec 6) (a : BitVec 7) (b : BitVec 7) (st : BitVec 2) : BitVec 32 :=
  op ++ cc ++ p ++ a ++ b ++ st

/-- A word of format P (R281), from OP down to ST. -/
def encP (op : BitVec 6) (fn : BitVec 3) (d : BitVec 6) (a : BitVec 6) (b : BitVec 6) (m : BitVec 1) (n : BitVec 1) (z : BitVec 1) (st : BitVec 2) : BitVec 32 :=
  op ++ fn ++ d ++ a ++ b ++ m ++ n ++ z ++ st

/-- A word of format G (R281), from OP down to ST. -/
def encG (op : BitVec 6) (n : BitVec 1) (g : BitVec 6) (l : BitVec 3) (z : BitVec 14) (st : BitVec 2) : BitVec 32 :=
  op ++ n ++ g ++ l ++ z ++ st

/-- A word of format B (R281), from OP down to ST. -/
def encB (op : BitVec 6) (n : BitVec 1) (g : BitVec 6) (o : BitVec 17) (st : BitVec 2) : BitVec 32 :=
  op ++ n ++ g ++ o ++ st

/-- A word of format M (R281), from OP down to ST. -/
def encM (op : BitVec 6) (sz : BitVec 3) (d : BitVec 7) (b : BitVec 4) (o : BitVec 7) (ord : BitVec 3) (st : BitVec 2) : BitVec 32 :=
  op ++ sz ++ d ++ b ++ o ++ ord ++ st

/-- A word of format S (R281), from OP down to ST. -/
def encS (op : BitVec 6) (fn : BitVec 4) (d : BitVec 6) (a : BitVec 6) (b : BitVec 6) (i : BitVec 1) (z : BitVec 1) (st : BitVec 2) : BitVec 32 :=
  op ++ fn ++ d ++ a ++ b ++ i ++ z ++ st

/-- A word of format E (R281), from OP down to ST. -/
def encE (op : BitVec 6) (fn : BitVec 5) (d : BitVec 7) (a : BitVec 6) (b : BitVec 6) (st : BitVec 2) : BitVec 32 :=
  op ++ fn ++ d ++ a ++ b ++ st

/-- A word of format V (R281), from OP down to ST. -/
def encV (op : BitVec 6) (f : BitVec 6) (d : BitVec 7) (a : BitVec 7) (m : BitVec 4) (st : BitVec 2) : BitVec 32 :=
  op ++ f ++ d ++ a ++ m ++ st


/-- The word of an instruction (R281, R286); a device step has none. -/
def encode (i : Instr) : Option (BitVec 32) :=
  match i with
  | .nop st => some (encA 0#6 0#3 0#7 0#7 0#7 st)
  | .yield st => some (encA 0#6 1#3 0#7 0#7 0#7 st)
  | .sleeptk a st => some (encA 0#6 2#3 0#7 a 0#7 st)
  | .add d a b st => some (encA 1#6 0#3 d a b st)
  | .sub d a b st => some (encA 1#6 1#3 d a b st)
  | .addc d a b st => some (encA 1#6 2#3 d a b st)
  | .subb d a b st => some (encA 1#6 3#3 d a b st)
  | .addsI32 d a b st => some (encA 1#6 4#3 d a b st)
  | .subsI32 d a b st => some (encA 1#6 5#3 d a b st)
  | .addsN32 d a b st => some (encA 1#6 6#3 d a b st)
  | .subsN32 d a b st => some (encA 1#6 7#3 d a b st)
  | .addi d a i st => some (encI 2#6 0#2 d a i st)
  | .andi d a i st => some (encI 2#6 1#2 d a i st)
  | .ori d a i st => some (encI 2#6 2#2 d a i st)
  | .xori d a i st => some (encI 2#6 3#2 d a i st)
  | .mul d a b st => some (encA 3#6 0#3 d a b st)
  | .mulhiI32 d a b st => some (encA 3#6 1#3 d a b st)
  | .mulhiN32 d a b st => some (encA 3#6 2#3 d a b st)
  | .mad d a b st => some (encA 3#6 3#3 d a b st)
  | .madhiI32 d a b st => some (encA 3#6 4#3 d a b st)
  | .madhiN32 d a b st => some (encA 3#6 5#3 d a b st)
  | .mulwI32 d a b st => some (encA 3#6 6#3 d a b st)
  | .mulwN32 d a b st => some (encA 3#6 7#3 d a b st)
  | .and d a b st => some (encA 4#6 0#3 d a b st)
  | .or d a b st => some (encA 4#6 1#3 d a b st)
  | .xor d a b st => some (encA 4#6 2#3 d a b st)
  | .andn d a b st => some (encA 4#6 3#3 d a b st)
  | .orn d a b st => some (encA 4#6 4#3 d a b st)
  | .xnor d a b st => some (encA 4#6 5#3 d a b st)
  | .not d a st => some (encA 4#6 6#3 d a 0#7 st)
  | .shl d a b st => some (encA 5#6 0#3 d a b st)
  | .shrN32 d a b st => some (encA 5#6 1#3 d a b st)
  | .shrI32 d a b st => some (encA 5#6 2#3 d a b st)
  | .rotl d a b st => some (encA 5#6 3#3 d a b st)
  | .rotr d a b st => some (encA 5#6 4#3 d a b st)
  | .fshl d a b st => some (encA 5#6 5#3 d a b st)
  | .fshr d a b st => some (encA 5#6 6#3 d a b st)
  | .shli d a i st => some (encI 6#6 0#2 d a ((0#3 : BitVec 3) ++ i) st)
  | .shriN32 d a i st => some (encI 6#6 1#2 d a ((0#3 : BitVec 3) ++ i) st)
  | .shriI32 d a i st => some (encI 6#6 2#2 d a ((0#3 : BitVec 3) ++ i) st)
  | .roti d a i st => some (encI 6#6 3#2 d a ((0#3 : BitVec 3) ++ i) st)
  | .popc d a st => some (encA 7#6 0#3 d a 0#7 st)
  | .clz d a st => some (encA 7#6 1#3 d a 0#7 st)
  | .ctz d a st => some (encA 7#6 2#3 d a 0#7 st)
  | .brev d a st => some (encA 7#6 3#3 d a 0#7 st)
  | .bswap d a st => some (encA 7#6 4#3 d a 0#7 st)
  | .perm d a b st => some (encA 7#6 5#3 d a b st)
  | .bmsk d a b st => some (encA 7#6 6#3 d a b st)
  | .bfxN32 d a b st => some (encA 8#6 0#3 d a b st)
  | .bfxI32 d a b st => some (encA 8#6 1#3 d a b st)
  | .bfi d a b st => some (encA 8#6 2#3 d a b st)
  | .minI32 d a b st => some (encA 9#6 0#3 d a b st)
  | .maxI32 d a b st => some (encA 9#6 1#3 d a b st)
  | .minN32 d a b st => some (encA 9#6 2#3 d a b st)
  | .maxN32 d a b st => some (encA 9#6 3#3 d a b st)
  | .absI32 d a st => some (encA 9#6 4#3 d a 0#7 st)
  | .negI32 d a st => some (encA 9#6 5#3 d a 0#7 st)
  | .adiffN32 d a b st => some (encA 9#6 6#3 d a b st)
  | .mov d a st => some (encA 10#6 0#3 d a 0#7 st)
  | .sel d a b st => some (encA 10#6 1#3 d a b st)
  | .movsRead d a st => some (encA 10#6 2#3 d a 0#7 st)
  | .movsWrite d a st => some (encA 10#6 2#3 d a 127#7 st)
  | .pop d a st => some (encA 10#6 3#3 d a 0#7 st)
  | .push d a st => some (encA 10#6 4#3 d a 0#7 st)
  | .movp d st => some (encA 10#6 5#3 d 0#7 0#7 st)
  | .setp a st => some (encA 10#6 6#3 0#7 a 0#7 st)
  | .movsv d a st => some (encA 10#6 7#3 d a 0#7 st)
  | .movl d i st => some (encL 11#6 0#1 d i st)
  | .movh d i st => some (encL 11#6 1#1 d i st)
  | .cmpI32 cc p a b st => some (encC 12#6 cc p a b st)
  | .cmpN32 cc p a b st => some (encC 13#6 cc p a b st)
  | .cmpF32 cc p a b st => some (encC 14#6 cc p a b st)
  | .cmp64 cc p a b st => some (encC 15#6 cc p a b st)
  | .pand d a b m n st => some (encP 16#6 0#3 d a b m n 0#1 st)
  | .por d a b m n st => some (encP 16#6 1#3 d a b m n 0#1 st)
  | .pxor d a b m n st => some (encP 16#6 2#3 d a b m n 0#1 st)
  | .pmov d a m st => some (encP 16#6 3#3 d a 0#6 m 0#1 0#1 st)
  | .pset d st => some (encP 16#6 4#3 d 0#6 0#6 0#1 0#1 0#1 st)
  | .pclr d st => some (encP 16#6 5#3 d 0#6 0#6 0#1 0#1 0#1 st)
  | .guard n g l st => some (encG 17#6 n g l 0#14 st)
  | .bra n g o st => some (encB 18#6 n g o st)
  | .call n g o st => some (encB 19#6 n g o st)
  | .jmp a st => some (encA 20#6 0#3 0#7 a 0#7 st)
  | .callr a st => some (encA 20#6 1#3 0#7 a 0#7 st)
  | .ret st => some (encA 20#6 2#3 0#7 0#7 0#7 st)
  | .fadd d a b st => some (encA 21#6 0#3 d a b st)
  | .fsub d a b st => some (encA 21#6 1#3 d a b st)
  | .fmul d a b st => some (encA 21#6 2#3 d a b st)
  | .fmin d a b st => some (encA 21#6 3#3 d a b st)
  | .fmax d a b st => some (encA 21#6 4#3 d a b st)
  | .fminnum d a b st => some (encA 21#6 5#3 d a b st)
  | .fmaxnum d a b st => some (encA 21#6 6#3 d a b st)
  | .fcopysign d a b st => some (encA 21#6 7#3 d a b st)
  | .ffma d a b st => some (encA 22#6 0#3 d a b st)
  | .ffms d a b st => some (encA 22#6 1#3 d a b st)
  | .ffnma d a b st => some (encA 22#6 2#3 d a b st)
  | .ffnms d a b st => some (encA 22#6 3#3 d a b st)
  | .haddBf16x2 d a b st => some (encA 23#6 0#3 d a b st)
  | .hmulBf16x2 d a b st => some (encA 23#6 1#3 d a b st)
  | .hfmaBf16x2 d a b st => some (encA 23#6 2#3 d a b st)
  | .haddF16x2 d a b st => some (encA 23#6 3#3 d a b st)
  | .hmulF16x2 d a b st => some (encA 23#6 4#3 d a b st)
  | .hfmaF16x2 d a b st => some (encA 23#6 5#3 d a b st)
  | .hmaxBf16x2 d a b st => some (encA 23#6 6#3 d a b st)
  | .hminBf16x2 d a b st => some (encA 23#6 7#3 d a b st)
  | .dadd d a b st => some (encA 24#6 0#3 d a b st)
  | .dsub d a b st => some (encA 24#6 1#3 d a b st)
  | .dmul d a b st => some (encA 24#6 2#3 d a b st)
  | .dfma d a b st => some (encA 24#6 3#3 d a b st)
  | .dmin d a b st => some (encA 24#6 4#3 d a b st)
  | .dmax d a b st => some (encA 24#6 5#3 d a b st)
  | .ddiv d a b st => some (encA 24#6 6#3 d a b st)
  | .dsqrt d a st => some (encA 24#6 7#3 d a 0#7 st)
  | .rcp d a st => some (encA 25#6 0#3 d a 0#7 st)
  | .rsqrt d a st => some (encA 25#6 1#3 d a 0#7 st)
  | .sqrt d a st => some (encA 25#6 2#3 d a 0#7 st)
  | .log2 d a st => some (encA 25#6 3#3 d a 0#7 st)
  | .exp2 d a st => some (encA 25#6 4#3 d a 0#7 st)
  | .sin d a st => some (encA 25#6 5#3 d a 0#7 st)
  | .cos d a st => some (encA 25#6 6#3 d a 0#7 st)
  | .tanh d a st => some (encA 25#6 7#3 d a 0#7 st)
  | .cvt f d a m st => some (encV 26#6 f d a m st)
  | .dotI8x4 d a b st => some (encA 27#6 0#3 d a b st)
  | .dotsI8x4 d a b st => some (encA 27#6 1#3 d a b st)
  | .dotI4x8 d a b st => some (encA 27#6 2#3 d a b st)
  | .dotF8ax4 d a b st => some (encA 27#6 3#3 d a b st)
  | .dotF8bx4 d a b st => some (encA 27#6 4#3 d a b st)
  | .dotL4x8 d a b st => some (encA 27#6 5#3 d a b st)
  | .dotBf16x2 d a b st => some (encA 27#6 6#3 d a b st)
  | .scalef d a b st => some (encA 28#6 0#3 d a b st)
  | .fexp d a st => some (encA 28#6 1#3 d a 0#7 st)
  | .fmant d a st => some (encA 28#6 2#3 d a 0#7 st)
  | .sadd d a b i st => some (encS 29#6 0#4 d a b i 0#1 st)
  | .ssub d a b i st => some (encS 29#6 1#4 d a b i 0#1 st)
  | .smul d a b i st => some (encS 29#6 2#4 d a b i 0#1 st)
  | .sand d a b i st => some (encS 29#6 3#4 d a b i 0#1 st)
  | .sor d a b i st => some (encS 29#6 4#4 d a b i 0#1 st)
  | .sxor d a b i st => some (encS 29#6 5#4 d a b i 0#1 st)
  | .sshl d a b i st => some (encS 29#6 6#4 d a b i 0#1 st)
  | .sshr d a b i st => some (encS 29#6 7#4 d a b i 0#1 st)
  | .smov d b i st => some (encS 29#6 8#4 d 0#6 b i 0#1 st)
  | .smin d a b i st => some (encS 29#6 9#4 d a b i 0#1 st)
  | .smax d a b i st => some (encS 29#6 10#4 d a b i 0#1 st)
  | .sfrom d a st => some (encS 29#6 11#4 d a 0#6 0#1 0#1 st)
  | .sldB32 d a b i st => some (encS 30#6 0#4 d a b i 0#1 st)
  | .sldB64 d a b i st => some (encS 30#6 1#4 d a b i 0#1 st)
  | .bset d a b i st => some (encS 31#6 0#4 d a b i 0#1 st)
  | .badd d a b i st => some (encS 31#6 1#4 d a b i 0#1 st)
  | .bget d a b st => some (encS 31#6 2#4 d a b 1#1 0#1 st)
  | .bmov d a st => some (encS 31#6 3#4 d a 0#6 0#1 0#1 st)
  | .ld sz d b o ord st => some (encM 32#6 sz d b o ord st)
  | .st sz d b o ord st => some (encM 33#6 sz d b o ord st)
  | .ldw sz d b o ord st => some (encM 34#6 sz d b o ord st)
  | .stw sz d b o ord st => some (encM 35#6 sz d b o ord st)
  | .lds sz d b o ord st => some (encM 36#6 sz d b o ord st)
  | .sts sz d b o ord st => some (encM 37#6 sz d b o ord st)
  | .atomAddI32 d b o ord st => some (encM 38#6 0#3 d b o ord st)
  | .atomAddF32 d b o ord st => some (encM 38#6 1#3 d b o ord st)
  | .atomMinI32 d b o ord st => some (encM 38#6 2#3 d b o ord st)
  | .atomMaxI32 d b o ord st => some (encM 38#6 3#3 d b o ord st)
  | .atomMinN32 d b o ord st => some (encM 38#6 4#3 d b o ord st)
  | .atomMaxN32 d b o ord st => some (encM 38#6 5#3 d b o ord st)
  | .atomExch d b o ord st => some (encM 38#6 6#3 d b o ord st)
  | .atomCas d b o ord st => some (encM 38#6 7#3 d b o ord st)
  | .atomAnd d b o ord st => some (encM 39#6 0#3 d b o ord st)
  | .atomOr d b o ord st => some (encM 39#6 1#3 d b o ord st)
  | .atomXor d b o ord st => some (encM 39#6 2#3 d b o ord st)
  | .atomAddI64 d b o ord st => some (encM 39#6 3#3 d b o ord st)
  | .atomCasB64 d b o ord st => some (encM 39#6 4#3 d b o ord st)
  | .atomAddBf16x2 d b o ord st => some (encM 39#6 5#3 d b o ord st)
  | .atomIncN32 d b o ord st => some (encM 39#6 6#3 d b o ord st)
  | .atomDecN32 d b o ord st => some (encM 39#6 7#3 d b o ord st)
  | .redAddI32 d b o ord st => some (encM 40#6 0#3 d b o ord st)
  | .redAddF32 d b o ord st => some (encM 40#6 1#3 d b o ord st)
  | .redMinI32 d b o ord st => some (encM 40#6 2#3 d b o ord st)
  | .redMaxI32 d b o ord st => some (encM 40#6 3#3 d b o ord st)
  | .redMinN32 d b o ord st => some (encM 40#6 4#3 d b o ord st)
  | .redMaxN32 d b o ord st => some (encM 40#6 5#3 d b o ord st)
  | .redExch d b o ord st => some (encM 40#6 6#3 d b o ord st)
  | .redCas d b o ord st => some (encM 40#6 7#3 d b o ord st)
  | .redAnd d b o ord st => some (encM 41#6 0#3 d b o ord st)
  | .redOr d b o ord st => some (encM 41#6 1#3 d b o ord st)
  | .redXor d b o ord st => some (encM 41#6 2#3 d b o ord st)
  | .redAddI64 d b o ord st => some (encM 41#6 3#3 d b o ord st)
  | .redCasB64 d b o ord st => some (encM 41#6 4#3 d b o ord st)
  | .redAddBf16x2 d b o ord st => some (encM 41#6 5#3 d b o ord st)
  | .redIncN32 d b o ord st => some (encM 41#6 6#3 d b o ord st)
  | .redDecN32 d b o ord st => some (encM 41#6 7#3 d b o ord st)
  | .atomsAddI32 d b o ord st => some (encM 42#6 0#3 d b o ord st)
  | .atomsAddF32 d b o ord st => some (encM 42#6 1#3 d b o ord st)
  | .atomsMinI32 d b o ord st => some (encM 42#6 2#3 d b o ord st)
  | .atomsMaxI32 d b o ord st => some (encM 42#6 3#3 d b o ord st)
  | .atomsMinN32 d b o ord st => some (encM 42#6 4#3 d b o ord st)
  | .atomsMaxN32 d b o ord st => some (encM 42#6 5#3 d b o ord st)
  | .atomsExch d b o ord st => some (encM 42#6 6#3 d b o ord st)
  | .atomsCas d b o ord st => some (encM 42#6 7#3 d b o ord st)
  | .fenceRelTeam st => some (encE 43#6 0#5 0#7 0#6 0#6 st)
  | .fenceRelCluster st => some (encE 43#6 1#5 0#7 0#6 0#6 st)
  | .fenceRelDevice st => some (encE 43#6 2#5 0#7 0#6 0#6 st)
  | .fenceRelSystem st => some (encE 43#6 3#5 0#7 0#6 0#6 st)
  | .fenceAcq st => some (encE 43#6 4#5 0#7 0#6 0#6 st)
  | .fenceFullTeam st => some (encE 43#6 5#5 0#7 0#6 0#6 st)
  | .fenceFullCluster st => some (encE 43#6 6#5 0#7 0#6 0#6 st)
  | .fenceFullDevice st => some (encE 43#6 7#5 0#7 0#6 0#6 st)
  | .fenceFullSystem st => some (encE 43#6 8#5 0#7 0#6 0#6 st)
  | .pfenceLc st => some (encE 43#6 9#5 0#7 0#6 0#6 st)
  | .pfenceLt st => some (encE 43#6 10#5 0#7 0#6 0#6 st)
  | .tbegin a b st => some (encE 44#6 0#5 0#7 a b st)
  | .tend st => some (encE 44#6 1#5 0#7 0#6 0#6 st)
  | .tabort st => some (encE 44#6 2#5 0#7 0#6 0#6 st)
  | .tprobe d st => some (encE 44#6 3#5 d 0#6 0#6 st)
  | .adecl a b st => some (encE 44#6 4#5 0#7 a b st)
  | .adrop a st => some (encE 44#6 5#5 0#7 a 0#6 st)
  | .forkW d a st => some (encE 45#6 0#5 d a 0#6 st)
  | .chooseFirst d st => some (encE 45#6 1#5 d 0#6 0#6 st)
  | .chooseBest d a st => some (encE 45#6 2#5 d a 0#6 st)
  | .wabort d st => some (encE 45#6 3#5 d 0#6 0#6 st)
  | .wquery d st => some (encE 45#6 4#5 d 0#6 0#6 st)
  | .exitSave st => some (encE 46#6 0#5 0#7 0#6 0#6 st)
  | .entryDone st => some (encE 46#6 1#5 0#7 0#6 0#6 st)
  | .rrec d a st => some (encE 46#6 2#5 d a 0#6 st)
  | .rpoison a st => some (encE 46#6 3#5 0#7 a 0#6 st)
  | .penInit a b st => some (encE 47#6 0#5 0#7 a b st)
  | .penExpect a b st => some (encE 47#6 1#5 0#7 a b st)
  | .penArrive a st => some (encE 47#6 2#5 0#7 a 0#6 st)
  | .penWait a b st => some (encE 47#6 3#5 0#7 a b st)
  | .penTest d a st => some (encE 47#6 4#5 d a 0#6 st)
  | .barTeam a st => some (encE 47#6 5#5 0#7 a 0#6 st)
  | .barRole a b st => some (encE 47#6 6#5 0#7 a b st)
  | .gsync st => some (encE 47#6 7#5 0#7 0#6 0#6 st)
  | .penInval a st => some (encE 47#6 8#5 0#7 a 0#6 st)
  | .ballot d a st => some (encA 48#6 0#3 d a 0#7 st)
  | .vall d a st => some (encA 48#6 1#3 d a 0#7 st)
  | .vany d a st => some (encA 48#6 2#3 d a 0#7 st)
  | .matchLanes d a st => some (encA 48#6 3#3 d a 0#7 st)
  | .shflIdx d a b st => some (encA 48#6 4#3 d a b st)
  | .shflUp d a b st => some (encA 48#6 5#3 d a b st)
  | .shflDown d a b st => some (encA 48#6 6#3 d a b st)
  | .shflXor d a b st => some (encA 48#6 7#3 d a b st)
  | .redaddI32 d a st => some (encA 49#6 0#3 d a 0#7 st)
  | .scanaddI32 d a st => some (encA 49#6 1#3 d a 0#7 st)
  | .exscanI32 d a st => some (encA 49#6 2#3 d a 0#7 st)
  | .redmaxI32 d a st => some (encA 49#6 3#3 d a 0#7 st)
  | .redminI32 d a st => some (encA 49#6 4#3 d a 0#7 st)
  | .redaddF32 d a st => some (encA 49#6 5#3 d a 0#7 st)
  | .elect d st => some (encA 49#6 6#3 d 0#7 0#7 st)
  | .setgm a st => some (encA 49#6 7#3 0#7 a 0#7 st)
  | .copyTeam d a st => some (encE 50#6 0#5 d a 0#6 st)
  | .copyMc d a st => some (encE 50#6 1#5 d a 0#6 st)
  | .copySp d a st => some (encE 50#6 2#5 d a 0#6 st)
  | .copyOut d a st => some (encE 50#6 3#5 d a 0#6 st)
  | .rlkQ d a b st => some (encE 50#6 4#5 d a b st)
  | .copyBulk d a st => some (encE 50#6 5#5 d a 0#6 st)
  | .gath d a st => some (encE 51#6 0#5 d a 0#6 st)
  | .gathClose a st => some (encE 51#6 1#5 0#7 a 0#6 st)
  | .trBind a b st => some (encE 52#6 0#5 0#7 a b st)
  | .trUnbind a st => some (encE 52#6 1#5 0#7 a 0#6 st)
  | .trFilled d a st => some (encE 52#6 2#5 d a 0#6 st)
  | .trFree d a st => some (encE 52#6 3#5 d a 0#6 st)
  | .trReset a st => some (encE 52#6 4#5 0#7 a 0#6 st)
  | .mxMma d a b st => some (encE 53#6 0#5 d a b st)
  | .mxRd d a st => some (encE 53#6 1#5 d a 0#6 st)
  | .mxSt d a b st => some (encE 53#6 2#5 d a b st)
  | .mxLd d a b st => some (encE 53#6 3#5 d a b st)
  | .mxClr a st => some (encE 53#6 4#5 0#7 a 0#6 st)
  | .mxStat d st => some (encE 53#6 5#5 d 0#6 0#6 st)
  | .launch a b st => some (encE 54#6 0#5 0#7 a b st)
  | .exit st => some (encE 54#6 1#5 0#7 0#6 0#6 st)
  | .exitSucc a b st => some (encE 54#6 2#5 0#7 a b st)
  | .tyield st => some (encE 54#6 3#5 0#7 0#6 0#6 st)
  | .waitExt d a b st => some (encE 54#6 4#5 d a b st)
  | .sigHost a st => some (encE 54#6 5#5 0#7 a 0#6 st)
  | .sleep a st => some (encE 54#6 6#5 0#7 a 0#6 st)
  | .trap a st => some (encE 55#6 0#5 0#7 a 0#6 st)
  | .brk st => some (encE 55#6 1#5 0#7 0#6 0#6 st)
  | .rdpriv d a st => some (encE 55#6 2#5 d a 0#6 st)
  | .wrpriv d a st => some (encE 55#6 3#5 d a 0#6 st)
  | .tret st => some (encE 55#6 4#5 0#7 0#6 0#6 st)
  | .tretSkip st => some (encE 55#6 4#5 0#7 0#6 1#6 st)
  | .ipref a b st => some (encE 55#6 5#5 0#7 a b st)
  | .ipin d a b st => some (encE 55#6 6#5 d a b st)
  | .iunpin d a b st => some (encE 55#6 7#5 d a b st)
  | .tmark d st => some (encE 55#6 8#5 d 0#6 0#6 st)
  | .perfRd d a st => some (encE 55#6 9#5 d a 0#6 st)
  | .clk d st => some (encE 55#6 10#5 d 0#6 0#6 st)
  | .deviceReset => none
  | .powerLimitSet .. => none
  | .powerWindow .. => none
  | .islandGateRequest .. => none
  | .islandStepChange .. => none
  | .thermalWarning .. => none
  | .fatalError .. => none
  | .correctedError .. => none
  | .linkReadRequest .. => none
  | .linkWrite .. => none
  | .linkReadResponse .. => none
  | .linkAcknowledgement .. => none
  | .linkReplayRequest .. => none
  | .portDown .. => none
  | .failoverMessage .. => none
  | .peerTimeout .. => none
  | .createContext => none
  | .destroyContext => none
  | .suspendContext => none
  | .resumeContext => none
  | .setWatchdog => none
  | .measureSteward => none
  | .badCommand => none
  | .commandEnd => none
  | .windowRead .. => none
  | .windowWrite .. => none
  | .vectorUnmask .. => none
  | .msiMessage => none
  | .faultVector .. => none
  | .untrustedAccess => none
  | .registerWrite .. => none
  | .hfenWrite .. => none
  | .define => none
  | .delete => none
  | .grow => none
  | .shrink => none
  | .lend => none
  | .reclaim => none
  | .reclaimComplete => none
  | .partitionRead => none
  | .bind => none
  | .leaseRelease => none
  | .leaseExpiry .. => none
  | .pavilionCreate => none
  | .assign => none
  | .unassign => none
  | .addframe => none
  | .delframe => none
  | .pavilionDestroy => none
  | .keyRotationGo => none
  | .sweepLine => none
  | .frameQueue => none
  | .frameScrub => none
  | .measExtend => none
  | .getVersion => none
  | .getCapabilities => none
  | .negotiateAlgorithms => none
  | .getCertificate .. => none
  | .challenge .. => none
  | .getMeasurements .. => none
  | .unsupportedRequest .. => none
  | .sigreq => none
  | .lpcode .. => none
  | .keyx => none
  | .prepare => none
  | .handoverCommit => none
  | .handoverAbort => none
  | .accept => none
  | .handoverRelease => none
  | .statement => none
  | .invalidate .. => none
  | .replay .. => none
  | .abort .. => none
  | .inject .. => none
  | .spillAdd => none
  | .spillQuery => none
  | .checkpointStart => none
  | .arm => none
  | .disarm => none
  | .checkpointWarning => none
  | .checkpointTick => none
  | .stagedCommit => none
  | .obSet => none
  | .obRead => none
  | .hist => none
  | .obTail => none
  | .sample .. => none
  | .launchComplete .. => none
  | .gridReady .. => none
  | .teamPlace .. => none
  | .residencyExpiry .. => none
  | .threadVectoring .. => none
  | .routineOverrun .. => none
  | .saveRecordComplete .. => none
  | .budgetEvent .. => none
  | .watchdogExpiry .. => none
  | .teamRetire .. => none
  | .flockPick .. => none
  | .performLoad .. => none
  | .enterGate .. => none
  | .drain .. => none
  | .expire .. => none
  | .performAtomic .. => none
  | .scratchAccess .. => none
  | .externalAccess .. => none
  | .finishFence .. => none
  | .engineWrite .. => none
  | .engineStatus .. => none
  | .commit .. => none
  | .discard .. => none
  | .pageWalk .. => none
  | .granuleRequest .. => none
  | .wound .. => none
  | .commitRequest .. => none
  | .rollback .. => none
  | .taskRestart .. => none
  | .sweeper .. => none
  | .tagFree .. => none
  | .forkCopyDone .. => none
  | .chooseFirstRequest .. => none
  | .chooseBestArrival .. => none
  | .chooseCopyDone .. => none
  | .sleepEnd .. => none
  | .engineStart .. => none
  | .multicastBeat .. => none
  | .enginePenUpdate .. => none
  | .gatherPush .. => none
  | .troughServe .. => none
  | .bulkTransfer .. => none
  | .matrixOpStart .. => none
  | .matrixChunk .. => none
  | .sfuF64Result .. => none
  | .matrixOpFinish .. => none
  | .tbeginStampAdvance .. => none
  | .pcieCompletion .. => none
  | .postedWriteAccepted .. => none
  | .priResponse .. => none
  | .crcFailure .. => none
  | .tdispStateChange .. => none
  | .managementStepRequest .. => none

end Sys2Proof
end

