-- ==== Sys2Proof/Config.lean ====
section
/-! DEFINITION. What an implementation fixes and the spec does not state: identity fields, cryptographic results, and the
values that stay open (free values). None has a body, so no proof can see which value it is. -/

namespace Sys2Proof.Config

/-- VENDOR of the identity page: R28 gives no value. -/
opaque vendor : BitVec 16
/-- FWMINOR of the identity page: R28 gives no value. -/
opaque fwMinor : BitVec 8
/-- FWMAJOR of the identity page: R28 gives no value. -/
opaque fwMajor : BitVec 8
/-- REV of the identity page: R28 gives no value. -/
opaque silicon : BitVec 8
/-- The image of boot component `n`, measured into MEAS*n* by the boot ROM (R66). -/
opaque bootImage : Nat → List Byte
/-- SHA-512 of a byte string (R66, R67). DESIGN CHOICE: log entry 68. -/
opaque sha512 : List Byte → BitVec 512
/-- Ed25519 signature by the key of the first argument over the bytes of the second (R68, R70, R74). -/
opaque ed25519Sign : Nat → List Byte → BitVec 512
/-- Whether a signature verifies under a public key (R72 to R74). -/
opaque ed25519Verify : BitVec 256 → List Byte → BitVec 512 → Bool
/-- The secret scalar of the n-th fresh X25519 key pair (R74). -/
opaque x25519Fresh : Nat → BitVec 256
/-- The public half of an X25519 key (R74). -/
opaque x25519Public : BitVec 256 → BitVec 256
/-- The shared secret of an X25519 exchange (R74). DESIGN CHOICE: log entry 68. -/
opaque x25519Shared : BitVec 256 → BitVec 256 → BitVec 256
/-- The n-th fresh sealing key (R57, R60). -/
opaque freshKey : Nat → BitVec 256
/-- The certificate chain of slot 0, and the capabilities that the SPDM responder states (R68). -/
opaque certChain : List Byte
opaque spdmCaps : List Byte
/-- Authenticated sealing of bytes under a key, with associated data (R59, R72). -/
opaque sealBytes : BitVec 256 → List Byte → List Byte → List Byte
/-- Opening of sealed bytes: `none` when the integrity check fails (R59, R74). -/
opaque openBytes : BitVec 256 → List Byte → List Byte → Option (List Byte)

/-- The 28-bit integrity code of a sealed line: key, address and bytes (R59). DESIGN CHOICE: log entry 68. -/
opaque sealCode : BitVec 256 → Nat → List Byte → BitVec 28
/-- Whether HBM holds a line's last bytes when its context is released, by a fresh count and the line (R63). DESIGN CHOICE: log entry 82. -/
opaque writtenBack : Nat → Nat → Bool
/-- Whether a section of a dump cannot be read, by a fresh count and its place in the order (R238). DESIGN CHOICE: log entry 72. -/
opaque unreadable : Nat → Nat → Bool

/-- The 16 bytes of a message's header slot, for its kind and fields: R19 gives no layout. DESIGN CHOICE: log entry 51. -/
opaque headerSlot : List Nat → BitVec 128
/-- The CRC-64 of R18, whose polynomial the spec does not give. DESIGN CHOICE: log entry 51. -/
opaque crc64 : List Byte → BitVec 64
/-- The credit return of a flit, by tick and port: R18 gives the field and no rule. DESIGN CHOICE: log entry 51. -/
opaque linkCredit : Nat → Nat → BitVec 8

/-- A 32-bit value that the spec leaves open; the argument is a fresh count, or the operands it depends on. DESIGN CHOICE: log entry 4. -/
opaque freeWord : Nat → Word
/-- A bit that the spec leaves open. -/
opaque freeBit : Nat → Bool
/-- A byte that the spec leaves open. -/
opaque freeByte : Nat → Byte

end Sys2Proof.Config
end

