-- ==== Sys2Proof/Machine/State.lean ====
section
/-! DEFINITION. The state of the KV4812: every piece of state that spec/01 to spec/20 give the device, as plain data, and its
value after reset.  Lists that hold objects (teams, contexts, views, ...) are empty after reset. -/

namespace Sys2Proof.Machine

/-- Memory as (address, byte) pairs: addresses strictly rising, no entry with the byte that an unlisted address reads as. -/
abbrev Memory := List Host.Cell

/-- What an unlisted byte of memory reads as (log entry 2). DESIGN CHOICE: log entry 2. -/
def unlistedByte : Byte := 0#8

/-- The canonical form of a memory: addresses strictly rise and no entry holds the unlisted byte. -/
def Memory.wf (m : Memory) : Bool :=
  match m with
  | [] => true
  | [c] => c.2 != unlistedByte
  | c :: d :: rest => c.2 != unlistedByte && decide (c.1 < d.1) && Memory.wf (d :: rest)

/-- The causes of R192. -/
inductive Cause where
  | illegalOp | illegalHeader | badTarget | classMismatch | stallShort | poisonRead | misalign | pageFault | stage2Fault
  | protection | rangeConflict | fmtDiverge | holdOverflow | viewCapacity | viewDepth | worldExternal | deferFull
  | rebuildMismatch | budget | trapInst | brk | priv | taskState | penState | scratchBounds | queueState
  | eccUncorrected | watchdog | externalAbort | routineViolation
  deriving DecidableEq, Repr

/-- A trap: its cause and `%tval` (R190). -/
structure Trap where
  cause : Cause
  lo : Word
  hi : Word
  deriving DecidableEq, Repr

/-- A destination of a write: the registers of R120 and R124, the flag OR of R255 and the poison of R358. -/
inductive Reg where
  | v (n : Nat) | p (n : Nat) | s (n : Nat) | b (n : Nat) | fctl | fstat | flags | gmask | poison (n : Nat)
  deriving DecidableEq, Repr

/-- A fixed-latency result not yet written (R106, R108). -/
structure Due where
  /-- Island whose clock the cycle counts. -/
  clk : Nat
  /-- Cycle at which the result is written. -/
  cycle : Nat
  reg : Reg
  val : BitVec 80
  /-- Flock that issued it. -/
  fid : Nat
  /-- Pending mark of R108: set at the end of the clause, or for a collective result from the start. -/
  marked : Bool
  /-- A collective result, which WAIT X covers (R371). -/
  coll : Bool
  deriving DecidableEq, Repr

/-- What kind of variable-latency result a register waits for (R105). -/
inductive PendWhy where
  | load | sfu | engine | test
  deriving DecidableEq, Repr

/-- A pending mark of a variable-latency destination (R108). -/
structure Pend where
  reg : Reg
  why : PendWhy
  /-- Number of the access or operation that clears it. -/
  tok : Nat
  deriving DecidableEq, Repr

/-- A result of the SFU or the F64 unit not yet delivered (R321, R322). -/
structure HeldRes where
  tok : Nat
  vals : List (Reg × BitVec 80)
  deriving DecidableEq, Repr

/-- Where a thread stands: at a header, or inside a clause before the word at `off` (R92, R173). -/
structure Pc where
  off : Word
  inside : Bool
  /-- Header of the clause, its offset and its word. -/
  hdr : Word
  hword : Word
  /-- Covered words left of the guard span, and the condition latched for this thread (R284, R308). -/
  guardLeft : Nat
  guardOk : Bool
  guardPred : BitVec 6
  guardNeg : Bool
  /-- At the entry of a role or a routine, before its first fetch (R76, R171, R278). -/
  entry : Bool
  deriving DecidableEq, Repr

/-- Why a thread is not ready although it is resident (R92). -/
inductive Wait where
  /-- In a group rendezvous (R111). -/
  | coll
  /-- In a team rendezvous (R349). -/
  | team
  /-- At a barrier id, before or after its arrival was performed (R375). -/
  | barrier (id : Nat) (arrived : Bool)
  /-- In pen.wait on a pen, until its phase differs from the parity (R377). -/
  | pen (off : Nat) (parity : Bool)
  /-- For a granule, with the access that asked for it (R200, R206). -/
  | granule (acc : Nat)
  /-- In a timed sleep until a tick (R364). -/
  | sleep (till : Nat)
  /-- In sleeptk until the pending bits of its registers clear (R292). -/
  | sleeptk (regs : List Nat)
  /-- For the fetch of a transfer's target word; the transfer is issued again once its page is cached (R309). -/
  | fetch (off : Word)
  /-- In wait.ext, with the access that reads its word (R362). -/
  | waitExt (acc : Nat)
  /-- In adecl, until the entry that the leading lane reads is in force (R354). -/
  | adecl (leader : Tid) (acc : Nat)
  /-- In launch: a full controller, the fence of R359 or an unreadable record (R80, R359). -/
  | launch (va : VAddr)
  /-- In exit.save, until its release fence finishes (R356). -/
  | exitSave
  /-- In fork.w after the grant, while the copies run (R222). -/
  | forkCopy
  /-- In choose.first, choose.best or wabort, until the decision (R226, R227). -/
  | choose
  /-- After an accepted tend, until its commit takes effect; the position is already past the tend (R208). -/
  | commit
  /-- In tr.unbind, tr.reset or gath.close, until no engine pushes into the trough (R394, R397). -/
  | trough (op : Nat) (q : Nat)
  deriving DecidableEq, Repr

/-- Life of a lane (R113, R426). -/
inductive Life where
  | live | retired | provisional
  deriving DecidableEq, Repr

/-- Exit or entry routine (R174, R186). -/
inductive RoutineKind where
  | exit | entry
  deriving DecidableEq, Repr

/-- A lane status of R176. -/
inductive LaneStatus where
  | routineOk | overrun | violation | faulted | wounded | trapped
  deriving DecidableEq, Repr

/-- A routine that a thread runs, with the state it resumes in (R173, R174, R186, R312). -/
structure Routine where
  kind : RoutineKind
  /-- Index of its region. -/
  region : Nat
  /-- First offset of the routine and its length in bytes (R170). -/
  start : Word
  len : Nat
  /-- Tick at which the budget of an exit routine reaches zero (R175). -/
  budgetEnd : Nat
  /-- Position at which the thread resumes (`%resume`). -/
  resume : Pc
  /-- Return stack at the vectoring (R311). -/
  stack : List Word
  /-- Predicates, `%gmask`, `%fctl` and `%fstat` captured at the vectoring (R312). -/
  preds : BitVec 48
  gmask : Word
  fctl : Word
  fstat : Word
  /-- Physical address of the thread's routine slot (R180, R182). -/
  slot : Nat
  deriving DecidableEq, Repr

/-- The captured state of a trap handler (R190, R366). DEDUCED: log entry 29. -/
structure Handler where
  /-- Position of the trapping instruction's clause. -/
  ret : Pc
  /-- The trap was REBUILD_MISMATCH (R189). -/
  rebuild : Bool
  deriving DecidableEq, Repr

/-- The operations of ATOMA and ATOMB (R343). -/
inductive AtomOp where
  | addI32 | addF32 | minI32 | maxI32 | minN32 | maxN32 | exch | cas | and | or | xor | addI64 | casB64 | addBf16x2
  | incN32 | decN32
  deriving DecidableEq, Repr

/-- The scopes of R163. -/
inductive Scope where
  | team | cluster | device | system
  deriving DecidableEq, Repr

/-- The fences of R162. -/
inductive Fence where
  | rel (s : Scope) | acq | full (s : Scope) | pfenceLc | pfenceLt
  deriving DecidableEq, Repr

/-- The pen updates of R377 that the combiner applies. -/
inductive PenOp where
  | init (expect : Nat) | expect (src : Nat) (bytes : Nat) | arrive | inval
  deriving DecidableEq, Repr

/-- What an access of an issue queue does (R154). -/
inductive AccOp where
  /-- A load into vector registers from `rd`, sign-extended when narrow and `sx`; ordering code 6 reads the constant path (R336). -/
  | load (rd : Nat) (sx : Bool)
  | store
  /-- An atomic into `rd`, or a reduction. -/
  | atomic (op : AtomOp) (rd : Option Nat)
  /-- A fence; `code` when it stands for the release or acquire part of an ordering code (R162). -/
  | fence (f : Fence) (code : Bool)
  /-- A scalar constant load into scalar registers (R341). -/
  | scalar (sd : Nat)
  /-- A pen update (R377), and a read of a pen's word 0. -/
  | pen (op : PenOp)
  | penTest (rd : Nat)
  /-- The read of wait.ext, which completes once the word differs from `val` (R362). -/
  | waitExt (val : BitVec 64)
  /-- The read of a set entry by adecl (R354). -/
  | adecl
  /-- An engine start (R166), by operation number. -/
  | engine (op : Nat)
  deriving DecidableEq, Repr

/-- Where an access goes: the home slice, a peer, the host, or the scratchpad of a core (R139, R154). -/
inductive Space where
  | home | peer (dev : Nat) | host | scratch (core : Nat)
  deriving DecidableEq, Repr

/-- One access or fence of a thread's issue queue (R154, R157). DEDUCED: log entry 52. -/
structure Access where
  id : Nat
  op : AccOp
  space : Space
  va : VAddr
  /-- Physical address at the home slice or peer, host address, or core address; `none` until translated. -/
  pa : Option Nat
  size : Nat
  /-- Ordering code (R159). -/
  ord : Nat
  /-- Bytes of a store, or operands of an atomic. -/
  data : List Byte
  view : Nat
  /-- Effective lease class of the line (R144). -/
  lease : Nat
  /-- Offset of the instruction, for a fault record. -/
  pc : Word
  /-- Number of the issue that made it, shared by the lanes of the flock, for the coalescer (R165). -/
  inst : Nat
  /-- A slot access of a routine (R182). -/
  slot : Bool
  /-- Sequence number of the fault record under which it is logged (R148); 2^32 - 1 when none was written. -/
  logged : Option Nat
  /-- The fault it is logged for is a second-stage fault (R149). -/
  s2 : Bool
  /-- Its granule is granted, or it needs none (R200). -/
  granted : Bool
  /-- Marked for REPLAY or ABORT while its team is off its core (R152). -/
  mark : Nat
  /-- Left for the store gate, the home slice, the link or PCIe, and not yet complete (R157, R161, R337). -/
  sent : Bool
  /-- Its completion time, once it has one (R156). -/
  c : Option Nat
  /-- Position of its instruction, for a precise trap of a value that never comes (R20). -/
  pos : Option Pc := none
  deriving DecidableEq, Repr

/-- A thread: its registers (R120, R124), position, routine, trap and memory state. -/
structure Thread where
  life : Life
  pc : Pc
  /-- Transfer target taken by the last instruction word of a clause (R309, R310). -/
  jump : Option Word
  v : List Word
  p : BitVec 48
  poison : BitVec 128
  pend : List Pend
  held : List HeldRes
  due : List Due
  gmask : Word
  fctl : Word
  fstat : Word
  cause : BitVec 8
  tvalLo : Word
  tvalHi : Word
  /-- Trap return offset (R190). -/
  tret : Word
  /-- The handler the lane runs, if any (R190). -/
  handler : Option Handler
  stack : List Word
  /-- Latched high half of device time (R125). -/
  dtime : Option Word
  routine : Option Routine
  /-- Status of a lane whose routine has ended (R176), and whether its dumps were taken. -/
  status : Option LaneStatus
  fallback : Bool
  checked : Bool
  /-- Counted as restored after a resume (R186). -/
  restored : Bool
  /-- Stopped by a trap in its entry routine (R191, bit 31 of the lane block). -/
  stoppedEntry : Bool
  wait : Option Wait
  /-- Registers of the sleeptk instructions performed in this clause (R292). -/
  nap : List Nat
  /-- Trap to take at the next instruction boundary (R149, R377). -/
  owed : Option Trap
  /-- Offset whose fetch has faulted: it is walked again only after a REPLAY (R148, R150). -/
  fetchFault : Option Word
  /-- That fault is a second-stage one (R149). -/
  fetchS2 : Bool := false
  /-- Sequence number of that fault's record; 2^32 - 1 when none was written. -/
  fetchSeq : Nat := 4294967295
  queue : List Access
  wctTeam : Nat
  wctCluster : Nat
  wctDevice : Nat
  wctSystem : Nat
  /-- Accesses of the thread that left the queue and still lack their completion time (WAIT S, R105). -/
  storesOut : List Nat
  deriving DecidableEq, Repr

/-- A member's arrival at a rendezvous: its lane or group key and the values it supplied (R111). -/
structure Arrival where
  tid : Tid
  mask : Word
  vals : List Word
  /-- Flock and instruction order of the arrival. -/
  fid : Nat
  deriving DecidableEq, Repr

/-- A rendezvous keyed by the PC of its instruction (R110, R349). -/
structure Rdv where
  off : Word
  word : Word
  arrivals : List Arrival
  deriving DecidableEq, Repr

/-- A barrier id of a team in use: its kind and role mask (R375). -/
structure Bar where
  id : Nat
  /-- `none` for bar.team, the role mask for bar.role. -/
  roles : Option Word
  members : List Tid
  deriving DecidableEq, Repr

/-- A group of 32 threads (R98): its place, its scalar registers and its rendezvous. -/
structure Group where
  quad : Nat
  /-- Group slot in the quadrant, first register row and rounded register count (R85, R183). -/
  gslot : Nat
  row : Nat
  regs : Nat
  role : Nat
  s : List Word
  sdue : List Due
  spend : List Pend
  /-- Scalars and the team's bases as captured at the vectoring of the group's first thread (R312). -/
  scapt : Option (List Word)
  bcapt : Option (List VAddr)
  rdv : List Rdv
  threads : List Thread
  /-- All threads retired and rows freed (R114). -/
  retired : Bool
  /-- Physical address of the group's header in the save arena while its record is live (R180, R185). -/
  record : Option Nat
  deriving DecidableEq, Repr

/-- State of a team (R172 to R193). -/
inductive TeamState where
  /-- Placed and running. -/
  | resident
  /-- Under pre-emption: routines running. -/
  | preempting
  /-- Off its core; its save record is complete. -/
  | saved
  /-- Off its core, but bound to it with its allocation because the spill pool lacks room (R179). -/
  | bound
  /-- Its threads have retired and its place is free; stores that they issued are still on their way (R114, R116). -/
  | retired
  deriving DecidableEq, Repr

/-- Why a team is pre-empted (R172); it decides what holds it afterwards. -/
inductive PreemptWhy where
  | budget | reclaim | suspend | destroy | dispatch | trap | tyield | coResident | checkpoint
  deriving DecidableEq, Repr

/-- A parsed region table entry (R170). -/
structure Region where
  start : Word
  stop : Word
  exitOff : Word
  entryOff : Word
  budget : Nat
  save : Nat
  flags : Word
  scratchOff : Nat
  scratchLen : Nat
  exitLen : Nat
  entryLen : Nat
  live : BitVec 128
  deriving DecidableEq, Repr

/-- A team (R98): its place, bases, queue bindings, view, task and pre-emption state. -/
structure Team where
  id : Nat
  grid : Nat
  ctx : Nat
  /-- Linear index and coordinates in the grid (R83). -/
  index : Nat
  x : Nat
  y : Nat
  z : Nat
  core : Nat
  slot : Nat
  groups : List Group
  b : List VAddr
  bdue : List Due
  q : List (BitVec 64)
  allocBase : Nat
  allocSize : Nat
  gen : BitVec 8
  view : Nat
  world : Nat
  nworld : Nat
  fork : Option Nat
  family : Option Nat
  /-- Tick and order of its placement (R84, R94). -/
  placed : Nat
  order : Nat
  state : TeamState
  why : Option PreemptWhy
  /-- Held until SUSPEND_CONTEXT and RESUME_CONTEXT (R191). -/
  held : Bool
  /-- Team rendezvous and barriers (R349, R375). -/
  rdv : List Rdv
  bars : List Bar
  /-- Counters 0 to 11 of R243. -/
  counters : List Nat
  /-- Successor named by exit.succ (R118). -/
  succ : Option VAddr
  /-- Index of its cluster-launch set (R86). -/
  setIdx : Option Nat
  /-- Spill run of its saved scratch ranges (R427): address of the first cell and the cells. -/
  run : Option (Nat × Nat)
  /-- A discarded world's team, to retire at its next clause boundary (R226). -/
  discarded : Bool
  /-- The region table and the quadrant hints of the roles, as read at its last placement (R79). -/
  regions : List Region := []
  hints : List Nat := []
  deriving DecidableEq, Repr

/-- One issue slot (R91): the flock it holds and its next issue cycle. -/
structure Slot where
  core : Nat
  quad : Nat
  k : Nat
  flock : List Tid
  fid : Nat
  /-- Cycle of the slot's next issue. -/
  due : Nat
  /-- Class of the last non-neutral instruction of the clause, and whether the rotation of R279 was paid. -/
  lastClass : Option Nat
  paid : Bool
  /-- Its next instruction was found stalled on a pending register (R108). -/
  stalled : Bool
  /-- `yield` was performed in this clause (R292), and the paths that the slot's next pick chooses last (YIELD 2, R93). -/
  yielded : Bool
  low : List (Nat × Word)
  deriving DecidableEq, Repr

/-- An ageing counter of a path of a quadrant (R94). -/
structure Ageing where
  core : Nat
  quad : Nat
  team : Nat
  off : Word
  count : Nat
  deriving DecidableEq, Repr

/-- An entry of a core's store gate (R154). -/
structure GateEntry where
  tid : Tid
  acc : Nat
  core : Nat
  view : Nat
  pa : Nat
  bytes : List Byte
  entered : Nat
  /-- Number of the issue that made it (R155). -/
  inst : Nat
  deriving DecidableEq, Repr

/-- A request of a peer that waits for its completion time: device, port and number, and whether it expects a value (R19, R161). -/
structure PeerRef where
  dev : Nat
  port : Nat
  num : Nat
  value : Bool
  deriving DecidableEq, Repr

/-- A store or atomic result at its home slice, waiting for its completion time (R156). -/
structure Waiting where
  tid : Tid
  ctx : Nat
  view : Nat
  pa : Nat
  bytes : List Byte
  c : Nat
  /-- A completion write: 1 is added to the bytes at `c` (R37). -/
  add : Bool := false
  /-- An atomic of a peer: its operation, with the bytes as operands, and the request to answer (R19, R165). -/
  atom : Option AtomOp := none
  peer : Option PeerRef := none
  deriving DecidableEq, Repr

/-- Lease maximum and last completion time of a line (R154). -/
structure LineRec where
  line : Nat
  lm : Nat
  lastC : Nat
  deriving DecidableEq, Repr

/-- A lease-store copy (R130, R154); `store` is the core, or 1024 + the cluster when fused (R131). -/
structure LeaseCopy where
  store : Nat
  line : Nat
  view : Nat
  expiry : Nat
  bytes : List Byte
  /-- Device that homes the line: `none` for this one. -/
  peer : Option Nat
  /-- Pavilion id of the line, 0 for none (R58). -/
  pav : Nat
  /-- Context whose load left the copy (R63). -/
  ctx : Nat := 0
  deriving DecidableEq, Repr

/-- A constant-cache line of a core (R135). -/
structure ConstLine where
  core : Nat
  ctx : Nat
  pav : Nat
  line : Nat
  bytes : List Byte
  deriving DecidableEq, Repr

/-- A version of a line in a view: the bytes written (R214), and the cell reserved for it (R216). -/
structure Version where
  tag : Nat
  line : Nat
  bytes : List (Nat × Byte)
  ctx : Nat
  deriving DecidableEq, Repr

/-- State of a view tag (R213, R219). -/
inductive ViewState where
  | live | aliased | dead
  deriving DecidableEq, Repr

/-- A view map entry (R213). -/
structure ViewRec where
  tag : Nat
  parent : Nat
  depth : Nat
  ctx : Nat
  state : ViewState
  /-- Tick of its commit or discard. -/
  tick : Nat
  deriving DecidableEq, Repr

/-- A commit requested and not yet in effect (R168); `fork` or `family` says what it ends. -/
structure CommitRec where
  tag : Nat
  tc : Nat
  family : Option Nat
  fork : Option Nat
  deriving DecidableEq, Repr

/-- A range lock (R154, R166). -/
structure RangeLock where
  /-- Core in whose table it stands. -/
  core : Nat
  /-- Engine operation, or `none` for a task's shadow lock with its team (R198). -/
  op : Option Nat
  team : Nat
  ctx : Nat
  write : Bool
  scratch : Bool
  lo : Nat
  hi : Nat
  deriving DecidableEq, Repr

/-- A cached translation (R145) of a page of 2^`sz` bytes: one of the 256 of a core, or one of the 8,192 of a die. -/
structure Tlb where
  die : Nat
  core : Option Nat
  ctx : Nat
  /-- log2 of the smaller leaf's size, and the virtual address divided by that size. -/
  sz : Nat
  page : Nat
  /-- IPA and physical address of the page. -/
  ipa : Nat
  pa : Nat
  w : Bool
  x : Bool
  lease : Nat
  deriving DecidableEq, Repr

/-- A walk-cache entry (R145): stage, level and the page-number prefix it stands for. -/
structure WalkEntry where
  die : Nat
  ctx : Nat
  stage : Nat
  level : Nat
  index : Nat
  entry : BitVec 64
  deriving DecidableEq, Repr

/-- A pinned code line (R368): level 0 is the instruction cache, 1 is L2. -/
structure Pin where
  core : Nat
  team : Nat
  level : Nat
  line : Nat
  deriving DecidableEq, Repr

/-- A deferred operation of a world or a task (R207, R224, R225). -/
structure Deferred where
  tid : Tid
  /-- World queue (fork and index), or the family's queue. -/
  fork : Option (Nat × Nat)
  family : Option Nat
  /-- What was deferred: 0 sig.host (value), 1 launch (address), 2 a store, 3 a completion write (address; value is its context). -/
  kind : Nat
  addr : VAddr
  value : Word
  acc : Option Access
  pc : Word
  deriving DecidableEq, Repr

/-- A declared atomic set of a context (R194). -/
structure SetRec where
  ctx : Nat
  id : Nat
  base : Nat
  size : Nat
  log2 : Nat
  free : Bool
  deriving DecidableEq, Repr

/-- A held granule (R199). -/
structure Hold where
  ctx : Nat
  set : Nat
  granule : Nat
  family : Nat
  /-- Its entry went to the overflow table of the spill pool. -/
  spilled : Bool := false
  deriving DecidableEq, Repr

/-- A waiter of a granule (R200, R206); `family` is `none` for a non-task load. -/
structure Waiter where
  ctx : Nat
  set : Nat
  granule : Nat
  tid : Tid
  acc : Nat
  family : Option Nat
  age : Nat
  deriving DecidableEq, Repr

/-- State of a task (R211). -/
inductive TaskState where
  | opened | wounded | committing
  deriving DecidableEq, Repr

/-- A family: a task and its worlds (R196, R230). -/
structure Family where
  id : Nat
  ctx : Nat
  /-- Age stamp (R197). -/
  age : Nat
  /-- The team that executed tbegin. -/
  anchor : Nat
  state : TaskState
  draft : Nat
  mask : BitVec 128
  shadow : Nat
  /-- Position after tbegin's clause, at which a rolled-back task restarts (R351). -/
  restartOff : Word
  restarts : Nat
  /-- Lanes that were live when tbegin completed (R193). -/
  lanes : List Tid
  /-- A wound is on its way to the anchor (R203). -/
  woundSent : Bool
  /-- Rolled back, waiting for a tag to restart with (R421). -/
  waitingTag : Bool
  deriving DecidableEq, Repr

/-- A world of a fork (R221, R227). -/
structure World where
  idx : Nat
  team : Nat
  tag : Nat
  /-- Arrived at choose.best with its score, or aborted (R227). -/
  score : Option Int
  aborted : Bool
  discarded : Bool
  /-- Capacity of its deferred queue (R225). -/
  cap : Nat
  /-- Destination register of its choose.first, choose.best or wabort (R226 to R228). -/
  rd : Nat
  deriving DecidableEq, Repr

/-- A fork (R220 to R228). -/
structure Fork where
  id : Nat
  ctx : Nat
  worlds : List World
  parentView : Nat
  parentWorld : Nat
  parentNworld : Nat
  parentFork : Option Nat
  /-- Copies still running: of fork.w before a choice (R222), of the winner after it (R228). -/
  copying : Bool
  /-- Destination register of fork.w. -/
  rd : Nat
  /-- The continuing team has left the fork already; only the winner's commit is pending (R228). -/
  moved : Bool
  /-- The winner of a choice whose copy or commit is pending (R228). -/
  winner : Option Nat
  /-- choose.first requests on their way to the anchor (R226). -/
  requests : List Nat
  /-- Requests that have reached the anchor in the present tick (R425). -/
  reached : List Nat
  deriving DecidableEq, Repr

/-- A last age stamp of a core and team slot (R197): the time part. -/
structure StampRec where
  core : Nat
  slot : Nat
  part : Nat
  deriving DecidableEq, Repr

/-- What came of a read of a peer's line by an engine: nothing yet, its bytes, or no answer in time (R20). -/
inductive Fetch where
  | waits | got (bytes : List Byte) | failed
  deriving DecidableEq, Repr

/-- The kinds of engine operation (R384, R391, R393). -/
inductive EngKind where
  | team | multicast | sparse | out | bulk | gather
  deriving DecidableEq, Repr

/-- An engine operation (R380 to R393): its issuers, its descriptors and its progress. -/
structure EngOp where
  id : Nat
  kind : EngKind
  team : Nat
  ctx : Nat
  core : Nat
  view : Nat
  /-- Threads that receive the status word, and its destination register. -/
  tids : List Tid
  rd : Nat
  /-- Groups and their descriptors, eight words each, with the bases read at issue. -/
  descs : List (Nat × List Word)
  bases : List VAddr
  pc : Word
  started : Bool
  /-- Place in the order of starts. -/
  order : Nat
  /-- Bytes (or elements) moved so far. -/
  done : Nat
  /-- Counts of bytes written, and of bytes per status code (R380). -/
  written : Nat
  codes : List (Nat × Nat)
  /-- Generations captured per core position (R387). -/
  gens : List (Nat × BitVec 8)
  /-- Bytes written per destination core and group, keyed 256 * core + group, for the pen update (R392). -/
  perCore : List (Nat × Nat)
  /-- Completion tick of its latest global write (R166). -/
  latest : Nat
  /-- Bytes of the multicast done per core position (R387). -/
  prog : List (Nat × Nat)
  /-- Messages of its writes to peers not yet acknowledged (R381). -/
  acks : List Nat
  /-- Lines read from peers: number of the request, address, and what came of it (R19, R381). -/
  fetched : List (Nat × Nat × Fetch)
  /-- Sequence number of the fault record that pauses it (R382), with the faulting address and access kind. -/
  paused : Option Nat
  faultVa : Nat
  faultKind : Nat
  pausedS2 : Bool := false
  /-- A bulk engine has taken the operation up (R55, R391). -/
  begun : Bool := false
  /-- A `gath.close` sets CLOSED when this gather ends (R397). -/
  closes : Bool := false
  /-- Ended: all bytes moved, or ended by a fault or an abort. -/
  ended : Bool
  cancelled : Bool
  delivered : Bool
  deriving DecidableEq, Repr

/-- A pen update of an engine on its way to the combiner (R392). -/
structure PenUpdate where
  core : Nat
  /-- Core address of the pen. -/
  addr : Nat
  src : Nat
  bytes : Nat
  op : Nat
  deriving DecidableEq, Repr

/-- A queued pop or push of a trough (R396). -/
structure TroughReq where
  tid : Tid
  q : Nat
  /-- Destination register of a pop, or the pushed word. -/
  pop : Bool
  rd : Nat
  val : Word
  tok : Nat
  deriving DecidableEq, Repr

/-- The operations of a matrix queue (R400). -/
inductive MatKind where
  | mma | read | store | load | clear
  deriving DecidableEq, Repr

/-- An operation of a matrix queue (R400, R401). -/
structure MatOp where
  id : Nat
  kind : MatKind
  core : Nat
  quad : Nat
  team : Nat
  group : Nat
  tids : List Tid
  rd : Nat
  /-- Format word and the eight parameters, or the scalar operands of the other forms. -/
  word : Word
  params : List Word
  /-- Register-mode operands: one row or column per lane (R405). -/
  regsA : List (Nat × List Word)
  regsB : List (Nat × List Word)
  started : Bool
  chunk : Nat
  flags : Word
  tok : Nat
  deriving DecidableEq, Repr

/-- An accumulator tile: its claim and its elements in row order (R399). -/
structure Tile where
  core : Nat
  quad : Nat
  tile : Nat
  team : Nat
  vals : List Word
  deriving DecidableEq, Repr

/-- A parsed task record (R75), with every field. -/
structure TaskRec where
  magic : Word
  flags : Word
  code : VAddr
  regions : VAddr
  regionCount : Nat
  x : Nat
  y : Nat
  z : Nat
  period : Nat
  roleCount : Nat
  scratch : Nat
  /-- Entry offset, registers, groups and quadrant hint of each role entry. -/
  roles : List (Word × Nat × Nat × Nat)
  b : List VAddr
  setTable : VAddr
  setCount : Nat
  deadline : Nat
  budget : Nat
  waitOn : VAddr
  expected : Nat
  completion : Nat
  deriving DecidableEq, Repr

/-- A grid (R79 to R90): the kept fields of its record, its place in the queue and its teams. -/
structure Grid where
  id : Nat
  ctx : Nat
  part : Nat
  addr : VAddr
  /-- The fields of its record that are kept from the launch; the others are zero, and are read again at each placement (R79, R81). -/
  record : TaskRec
  seq : Nat
  deadline : Nat
  ready : Bool
  /-- Held by a budget event, a trap or an unreadable record (R79, R89, R191). -/
  held : Bool
  /-- Index of the next team not yet placed, and the number of teams. -/
  next : Nat
  total : Nat
  /-- A slice is open, and the ticks it has counted (R89). -/
  slice : Bool
  sliceTicks : Nat
  /-- Its wait-on read faulted, by record number (R82), or its record read at placement (R79). -/
  waitFault : Option Nat
  placeFault : Option Nat
  /-- Remaining teams dropped, completion not written (R79). -/
  dropped : Bool
  ended : Bool
  /-- Greatest device-scope completion time of its retired threads (R116). -/
  flush : Nat
  deriving DecidableEq, Repr

/-- A launch in flight at a full or faulted controller (R80, R359). -/
structure LaunchWait where
  tid : Tid
  ctx : Nat
  addr : VAddr
  seq : Nat
  fault : Option Nat
  /-- Released from a deferred queue: no thread waits for it (R225, R359). -/
  deferred : Bool
  /-- Offset of the launch instruction. -/
  pc : Word
  deriving DecidableEq, Repr

/-- A context (R31 to R34): its descriptor fields and its run state. -/
structure Context where
  id : Nat
  /-- Flags of R32: protected, checking scoreboard, privileged start-up, stage 2. -/
  flags : Word
  part : Nat
  pav : Nat
  msix : Nat
  root1 : Nat
  root2 : Nat
  rootRec : VAddr
  arenaBase : Nat
  arenaSize : Nat
  faultBase : Nat
  faultEntries : Nat
  handler : Word
  vecBase : Nat
  vecCount : Nat
  quota : Nat
  saveBytes : Nat
  /-- Suspended: by the driver, by the watchdog, by a checkpoint or a handover. -/
  suspended : Bool
  suspendedBy : List Nat
  /-- Watchdog: window, ticks since progress, notice posted (R96, R97). -/
  window : Nat
  idle : Nat
  noticed : Bool
  /-- WDLO held until WDHI is written (R367). -/
  wdLo : Word
  sample : Word
  seed : Word
  /-- Spill extents (base, length), and cells in use by saved ranges (R217, R427). -/
  extents : List (Nat × Nat)
  cellsUsed : List Nat
  /-- Core areas bound: (area, core), the first `fixed` for life (R181). -/
  areas : List (Nat × Nat)
  fixedAreas : Nat
  /-- Trace and sample ring (R240, R242). -/
  ringBase : Nat
  ringSize : Nat
  ringHead : Nat
  ringTail : Nat
  ringLost : Nat
  /-- Fault area head and lost count as the device holds them (R40, R41). -/
  faultHead : Nat
  faultLost : Nat
  /-- Fault vector: records waiting to be signalled, and the last tick it was raised (R39). -/
  faultDue : Bool
  faultTick : Option Nat
  /-- Firmware checkpoint armed (R233): list address, count, slots. -/
  armed : Option (Nat × Nat × Nat × Nat)
  destroying : Bool
  deriving DecidableEq, Repr

/-- A fault record as the device builds it (R42). -/
structure FaultRec where
  ctx : Nat
  info : Bool
  stage2 : Bool
  code : BitVec 8
  lane : Nat
  group : Nat
  quad : Nat
  core : Nat
  slot : Nat
  pc : Nat
  va : VAddr
  ipa : Nat
  detail : BitVec 64
  deriving DecidableEq, Repr

/-- A record bound for the hypervisor's area or a context's area that a thread or engine waits on, for INJECT (R149). -/
structure LoggedRec where
  seq : Nat
  hyper : Bool
  record : FaultRec
  deriving DecidableEq, Repr

/-- An island's status word and clock (R10, R13, R16). -/
structure Island where
  step : Nat
  /-- Causes holding the step below 0 (R16 LIMIT). -/
  limit : BitVec 4
  temp : Nat
  /-- A step change that waits for a pre-emption to end (R13). -/
  deferred : Option Nat
  /-- Cycles of the island's clock, and the phase of a reduced clock within four ticks. -/
  cycle : Nat
  phase : Nat
  deriving DecidableEq, Repr

/-- The status that the management interface gives for its last request to gate a core half (R13). -/
inductive GateStatus where
  | none | ok | busy
  deriving DecidableEq, Repr

/-- A line that a pavilion has written, as it stands outside its reserved ways: sealed under a key, with its integrity code (R59). -/
structure SealRec where
  line : Nat
  pav : Nat
  key : BitVec 256
  code : BitVec 28
  /-- An agent outside the pavilion has written into the sealed bytes. -/
  changed : Bool
  /-- Held in the reserved ways until the sweep has finished the line (R61). -/
  held : Bool
  deriving DecidableEq, Repr

/-- A committed line that a context has written and that may stand in L2 or L3 only: the bytes that HBM holds (R63). -/
structure DirtyLine where
  line : Nat
  ctx : Nat
  old : List Byte
  deriving DecidableEq, Repr

/-- The kinds of message on a link (R19). -/
inductive MsgKind where
  | readReq | write | atomic | response | ack
  deriving DecidableEq, Repr

/-- A message: a header slot and the bytes of its data slots (R19). -/
structure LinkMsg where
  kind : MsgKind
  /-- Peer that sends or receives it, and number of the request, which its answer repeats. -/
  dev : Nat
  num : Nat
  /-- Physical address at the receiver, bytes asked for, and lease class of a read request. -/
  addr : Nat
  size : Nat
  cls : Nat
  /-- Operation of an atomic, and whether it expects a value. -/
  atom : Option (AtomOp × Bool)
  /-- Expiry of the lease that comes with a response, 0 for none (R139). -/
  expiry : Nat
  data : List Byte
  deriving DecidableEq, Repr

/-- A flit (R18), as the sender holds it until it is acknowledged (R20, R21). -/
structure Flit where
  /-- 1 message, 2 replay request, 3 failover message. -/
  kind : Nat
  dev : Nat
  port : Nat
  seq : BitVec 12
  ack : BitVec 12
  credit : BitVec 8
  /-- Failed port and original sequence number of a flit of type 3 (R21). -/
  failed : Nat
  orig : BitVec 12
  msgs : List LinkMsg
  /-- Tick at which it was sent, and replays asked for so far (R20). -/
  time : Nat
  replays : Nat
  deriving DecidableEq, Repr

/-- A Bascy port (R17 to R21). -/
structure Port where
  up : Bool
  /-- Next sequence number to send to each peer, and last number received from each; both are kept when the port goes down (R21). -/
  txSeq : List (Nat × BitVec 12)
  rxSeq : List (Nat × BitVec 12)
  /-- Flits sent and not acknowledged, oldest first. -/
  replay : List Flit
  deriving DecidableEq, Repr

/-- Who waits for the answer of a request to a peer: lanes whose accesses one request combines, lowest lane first (R165), an engine
operation, or a completion write of a context. -/
inductive ReqBy where
  | access (lanes : List (Tid × Nat))
  | engine (op : Nat)
  | signal (ctx : Nat)
  deriving DecidableEq, Repr

/-- A request to a peer not yet answered (R19, R20). -/
structure RemoteReq where
  msg : Nat
  src : ReqBy
  dev : Nat
  /-- Partition whose ports it may use (R50), and tick of its issue. -/
  part : Nat
  issued : Nat
  /-- Refused at the device itself, for an access to its own id (R23, R139). -/
  refused : Bool
  deriving DecidableEq, Repr

/-- A message that waits for a port: the partition whose ports it may use, or for an answer the port on which the request came. -/
structure OutMsg where
  part : Nat
  via : Option Nat
  msg : LinkMsg
  deriving DecidableEq, Repr

/-- The Bascy link of the device (R17 to R23). -/
structure Links where
  ports : List Port
  /-- Which ports reach a peer (R17). -/
  reach : List (Nat × List Nat)
  domId : BitVec 10
  reqs : List RemoteReq
  /-- Messages that no port carries yet, oldest first. -/
  out : List OutMsg
  /-- Messages to the device's own id on their way through the base die, oldest first (R23). -/
  loop : List OutMsg
  /-- Flits sent out, oldest first. -/
  sent : List Flit
  /-- The last resent flit performed: device, port and number (R21). -/
  resent : Option (Nat × Nat × BitVec 12)
  nextMsg : Nat
  deriving DecidableEq, Repr

/-- The mailbox page (R29, R30). -/
structure Mailbox where
  cmd : List Word
  tag : BitVec 16
  result : BitVec 8
  reject : Bool
  busy : Bool
  out : List Word
  /-- The command in progress, and whether it has ended with a result and OUT words to publish. -/
  running : Bool
  pendResult : Option (BitVec 8)
  pendOut : List Word
  deriving DecidableEq, Repr

/-- State of a TDISP interface (R25). -/
inductive Tdisp where
  | configUnlocked | configLocked | run | error
  deriving DecidableEq, Repr

/-- A virtual function (R25, R46). -/
structure VirtFn where
  fn : Nat
  part : Nat
  pav : Nat
  tdisp : Tdisp
  /-- The selective IDE stream of its link to which its interface is bound (R25, R46). -/
  ide : Option Nat := none
  deriving DecidableEq, Repr

/-- Translation control of the PF or of a VF (R146). -/
structure TransBlock where
  fn : Nat
  /-- XCTX and XSTAGE as written, reserved bits included. -/
  ctx : Nat
  stage : Nat
  va : VAddr
  pages : Nat
  seq : Nat
  result : BitVec 8
  busy : Bool
  /-- The INVALIDATE in progress has removed its translations. -/
  started : Bool
  /-- Accesses that used a removed translation (R147). -/
  waits : List (Tid × Nat)
  /-- Engine operations whose present line used one (R147). -/
  engs : List Nat := []
  /-- XOP as last written. -/
  op : Nat := 0
  /-- An INVALIDATE waits for the window writes that complete up to `after` (R147), and ends after the completions up to `ending`. -/
  after : Nat := 0
  ending : Nat := 0
  deriving DecidableEq, Repr

/-- The host interface outside the mailbox (R28, R38 to R47). -/
structure HostIf where
  winFail : BitVec 32
  /-- Segment table entries by (table, index): table 0 is the PF's, table n the n-th VF's (R45). -/
  segs : List (Nat × Nat × BitVec 64)
  /-- The bytes that the last window read returned (R46). -/
  readData : List Byte
  masked : List (Nat × Nat)
  pending : List (Nat × Nat)
  /-- MSI-X messages sent: function and vector, oldest first (R38). -/
  msgs : List (Nat × Nat)
  /-- Signals that wait for earlier stores (R38, R363): threads, function and vector. -/
  sigs : List (List Tid × Nat × Nat)
  vfs : List VirtFn
  seq : BitVec 32
  hfBase : BitVec 64
  hfEntries : Word
  hfEn : Bool
  hfHeld : BitVec 64
  hfHead : Nat
  hfLost : Nat
  trans : List TransBlock
  /-- Spill pool registers (R217). -/
  spCtx : Nat
  spBase : BitVec 64
  spLen : BitVec 64
  spResult : BitVec 8
  spTotal : BitVec 64
  spUsed : BitVec 64
  /-- Host-side transfers that wait for a PRI answer: engine operation and address (R47). -/
  pri : List (Nat × Nat)
  /-- SPOP as last written. -/
  spOp : Nat := 0
  /-- Link 1 is trained (R24). -/
  link1 : Bool := true
  /-- BAR2 sizes in GiB, by function, where they differ from the largest (R26). -/
  bar2 : List (Nat × Nat) := []
  /-- Message address and data of MSI-X table entries: function, vector, word 0 to 2, value (R26). -/
  msix : List (Nat × Nat × Nat × Word) := []
  /-- Completion time of the last window write of a link (R36). -/
  lastWin : List (Nat × Nat) := []
  deriving DecidableEq, Repr

/-- A staged or owned set of resources: clusters, slices, channels, bulk engines, ports (R49, R51). -/
structure Resources where
  clusters : List Nat
  slices : List Nat
  channels : List Nat
  engines : List Nat
  ports : List Nat
  deriving DecidableEq, Repr

/-- A partition (R49). -/
structure Partition where
  id : Nat
  own : Resources
  /-- Clusters lent away, with the borrower (R53). -/
  lent : List (Nat × Nat)
  deriving DecidableEq, Repr

/-- A bulk-engine lease (R55). -/
structure EngLease where
  eng : Nat
  ctx : Nat
  expiry : Nat
  deriving DecidableEq, Repr

/-- Partition pages 5, 6 and 7 (R51, R55). -/
structure PartIf where
  psel : Nat
  force : Bool
  peer : Nat
  result : BitVec 8
  busy : Bool
  op : Nat
  staged : Resources
  eng : Nat
  ectx : Nat
  lease : BitVec 64
  eresult : BitVec 8
  /-- OP of pages 0x005 and 0x007 as last written. -/
  lastOp : Nat := 0
  eop : Nat := 0
  deriving DecidableEq, Repr

/-- Source-side handover state of a pavilion (R72). -/
inductive HandSrc where
  | live | sealed | gone
  deriving DecidableEq, Repr

/-- Destination-side handover state of a pavilion (R74). -/
inductive HandDst where
  | none | accepted | released
  deriving DecidableEq, Repr

/-- A pavilion (R56 to R62, R72 to R74). -/
structure Pavilion where
  id : Nat
  part : Nat
  ways : BitVec 16
  /-- Quadrants and fenced banks per core: core, quadrant mask, bank mask. -/
  cores : List (Nat × Nat × Nat)
  /-- Sealed frame list by frame number, with the fresh mark of R62. -/
  frames : List (Nat × Bool)
  key : BitVec 256
  /-- Handover: X25519 secret, states, transfer key, image digest, image kind COPY, image epoch, own image prepared. -/
  secret : Option (BitVec 256)
  src : HandSrc
  dst : HandDst
  transfer : Option (BitVec 256)
  digest : BitVec 512
  copyKind : Bool
  epoch : BitVec 64
  copyPrepared : Bool
  deriving DecidableEq, Repr

/-- Pavilion page 8 (R57). -/
structure PavIf where
  sel : Nat
  part : Nat
  core : Nat
  quad : Nat
  bank : Nat
  ways : BitVec 16
  frame : Nat
  count : Nat
  result : BitVec 8
  busy : Bool
  /-- The operation in progress: 5 a DELFRAME that waits for the sweep, 7 one whose frames are in scrub, 8 a DESTROY. -/
  op : Nat
  /-- PVOP as last written, and a nonzero reserved bit of PVWAYS, of PVFRAME's low and of its high word. -/
  lastOp : Nat := 0
  waysBad : Bool := false
  frameLoBad : Bool := false
  frameHiBad : Bool := false
  deriving DecidableEq, Repr

/-- Key rotation, page 9 (R60 to R62). -/
structure Rotation where
  sel : Nat
  pav : Nat
  pointer : Nat
  done : Bool
  active : Bool
  result : BitVec 8
  newKey : BitVec 256
  deriving DecidableEq, Repr

/-- A frame queued for scrub: base, size in bytes, sequence number (R64, R65). -/
structure ScrubRec where
  base : Nat
  size : Nat
  seq : Nat
  deriving DecidableEq, Repr

/-- Frame queue page 0xC (R64). -/
structure FrameIf where
  base : Nat
  size : Nat
  token : BitVec 64
  queue : List ScrubRec
  nextSeq : Nat
  deriving DecidableEq, Repr

/-- An audit entry (R69). -/
structure AuditRec where
  seq : Nat
  time : Nat
  source : Nat
  code : Nat
  ctx : Nat
  part : Nat
  detail : List Byte
  chain : BitVec 512
  deriving DecidableEq, Repr

/-- Measurement, audit and handover registers (R66 to R74). -/
structure Trust where
  meas : List (BitVec 512)
  extSel : Nat
  extDigest : BitVec 512
  stewardDone : Bool
  contextCreated : Bool
  /-- SPDM answers given: answer code and content, oldest first (R68). -/
  spdm : List (Nat × List Byte)
  audit : List AuditRec
  nextSeq : Nat
  readSeq : BitVec 64
  lost : BitVec 64
  untrusted : BitVec 32
  headSeq : BitVec 64
  headSig : BitVec 512
  lpDetail : List Byte
  /-- First sequence number of the overwritten range that the next entry notes (R70). -/
  overwritten : Option Nat
  hoPv : Nat
  hoCopy : Bool
  hoImg : Nat
  hoLen : BitVec 64
  hoResult : BitVec 8
  hoBusy : Bool
  /-- A reserved field of the page is nonzero (R74). -/
  hoBad : Bool
  epoch : BitVec 64
  peerX : BitVec 256
  peerId : BitVec 256
  peerSig : BitVec 512
  peerEpoch : BitVec 64
  ownX : BitVec 256
  ownSig : BitVec 512
  hoIn : List Byte
  hoOut : List Byte
  /-- Pavilions destroyed since a COPY image of them was prepared in this boot (R74 STATEMENT). -/
  destroyedCopies : List Nat
  /-- HOOP as last written. -/
  hoOp : Nat := 0
  /-- The boot ROM has measured the components of this boot (R66). -/
  booted : Bool := false
  /-- Physical base of the audit log's ring (R70). DESIGN CHOICE: log entry 90. -/
  logBase : Nat := 412182642688
  deriving DecidableEq, Repr

/-- A checkpoint in progress (R234). -/
structure CkptRun where
  ctx : Nat
  list : Nat
  count : Nat
  slot0 : Nat
  slot1 : Nat
  useSlot1 : Bool
  /-- The checkpoint tick, once every routine has ended. -/
  tick : Option Nat
  /-- The listed ranges, base and length, and what they hold at the checkpoint tick (R231). -/
  ranges : List (Nat × Nat) := []
  image : List (List Byte) := []
  deriving DecidableEq, Repr

/-- An eligibility histogram of a quadrant: 24 counters (R241). -/
structure Hist where
  core : Nat
  quad : Nat
  vals : List (BitVec 48)
  deriving DecidableEq, Repr

/-- A sampler of a quadrant: context, LFSR, next tick (R239). -/
structure Sampler where
  core : Nat
  quad : Nat
  ctx : Nat
  lfsr : BitVec 16
  next : Nat
  deriving DecidableEq, Repr

/-- What a fatal error leaves in the dump region (R238): the header's bytes, and the state of the sections; what belongs to a
pavilion is sealed. DESIGN CHOICE: log entry 72. -/
structure Dump where
  header : List Byte
  teams : List Team
  scratch : Memory
  locks : List RangeLock
  versions : List Version
  holds : List Hold
  views : List ViewRec
  grids : List Grid
  engLeases : List EngLease
  pavilions : List (Nat × Nat)
  /-- Sealed state of each pavilion. -/
  sealed : List (Nat × List Byte)
  /-- The dump region as it reads: the sections in their order. -/
  bytes : List Byte := []
  deriving DecidableEq, Repr

/-- Checkpoints, dumps and observation (R231 to R243). -/
structure Observe where
  ckCtx : Nat
  ckList : BitVec 64
  ckCount : Word
  ckSlot0 : BitVec 64
  ckSlot1 : BitVec 64
  ckResult : BitVec 8
  ckSeq : BitVec 64
  ckWarn : Word
  ckRun : Option CkptRun
  /-- Warned contexts whose checkpoint has not been taken yet (R233, R235). -/
  warned : List Nat
  obCtx : Nat
  obBase : BitVec 64
  obSize : Word
  obHead : BitVec 64
  obTail : BitVec 64
  obLost : BitVec 64
  hgClr : Bool
  hgQuad : Nat
  hgCore : Nat
  obResult : BitVec 8
  hgVal : List (BitVec 64)
  hists : List Hist
  samplers : List Sampler
  /-- The dump region (R238). -/
  dump : Option Dump
  /-- Corrected errors: (link, index, count, count in this second, second) (R9, R233). -/
  errors : List (Bool × Nat × Nat × Nat × Nat)
  /-- Thermal warnings posted to firmware: island and tick (R15). -/
  thermal : List (Nat × Nat)
  /-- CKOP and OBOP as last written. -/
  ckOp : Nat := 0
  obOp : Nat := 0
  /-- Physical base of the dump region (R238). DESIGN CHOICE: log entry 90. -/
  dumpBase : Nat := 410035159040
  deriving DecidableEq, Repr

/-- One entry of the schedule: an issue of a slot, a tick of device time, or a device step with its outside data. -/
inductive Move where
  | issue (core quad k : Nat)
  | tick
  | event (i : Instr)
  deriving DecidableEq, Repr

/-- The state of the device. DESIGN CHOICE: log entry 3. -/
structure State where
  /-- Device time T in ticks (R11). -/
  time : Nat
  /-- The schedule of steps to come (log entry 3); the machine's own choice when empty. -/
  agenda : List Move
  /-- The slot whose flock issues (R91). -/
  cur : Option Nat
  /-- Count of free values taken (log entry 4), and of the numbers given to accesses, flocks, teams and other objects. -/
  fresh : Nat
  nextId : Nat
  islands : List Island
  powerLimit : Nat
  gateStatus : GateStatus
  links : Links
  mailbox : Mailbox
  host : HostIf
  contexts : List Context
  /-- Launch sequence number (R83). -/
  launchSeq : Nat
  grids : List Grid
  launches : List LaunchWait
  teams : List Team
  slots : List Slot
  ageing : List Ageing
  /-- Clusters with the fused L1 (R78). -/
  fused : List Nat
  stamps : List StampRec
  /-- Device memory (committed lines), host memory, and scratchpads keyed 2^18 * core + core address. -/
  mem : Memory
  hostMem : Memory
  scratch : Memory
  /-- Bank generations and last context, keyed 32 * core + bank (R117). -/
  banks : List (Nat × BitVec 8 × Nat)
  lines : List LineRec
  seals : List SealRec
  dirty : List DirtyLine
  waiting : List Waiting
  gate : List GateEntry
  leases : List LeaseCopy
  constCache : List ConstLine
  tlb : List Tlb
  walkCache : List WalkEntry
  locks : List RangeLock
  pins : List Pin
  versions : List Version
  views : List ViewRec
  commits : List CommitRec
  sets : List SetRec
  holds : List Hold
  waiters : List Waiter
  families : List Family
  forks : List Fork
  deferred : List Deferred
  engines : List EngOp
  penUpdates : List PenUpdate
  bulk : List Nat
  troughs : List TroughReq
  matrix : List MatOp
  tiles : List Tile
  logged : List LoggedRec
  partIf : PartIf
  partitions : List Partition
  engLeases : List EngLease
  pavIf : PavIf
  pavilions : List Pavilion
  rotation : Rotation
  frames : FrameIf
  trust : Trust
  observe : Observe
  deriving DecidableEq, Repr

/-- Fault of the machine: none is raised, since every fault of the spec is a next state (R190 to R193). -/
inductive Fault where
  /-- Raised by no step: a stop of the model where the device has no next state; safe. -/
  | stuck
  deriving DecidableEq, Repr

/-- Refusals of the model. -/
inductive Refusal where
  /-- Raised by the dispatch for an instruction without a meaning yet; safe. -/
  | notModelled (mnemonic : String)
  deriving DecidableEq, Repr

/-- Staged or owned resources, none. -/
def Resources.empty : Resources := ⟨[], [], [], [], []⟩

/-- An island after reset (R16; TEMP and clocks: log entry 5). DESIGN CHOICE: log entry 5. -/
def Island.reset : Island := ⟨0, 0#4, 0, none, 0, 0⟩

/-- A port after reset (log entry 6). DESIGN CHOICE: log entry 6. -/
def Port.reset : Port := ⟨true, [], [], []⟩

/-- The machine right after reset: every field at the value the spec states, the others at the values of log entries 2 to 8 and 90. DESIGN CHOICE: log entry 5. DESIGN CHOICE: log entry 6. DESIGN CHOICE: log entry 7. DESIGN CHOICE: log entry 8. -/
def State.reset : State where
  time := 0
  agenda := []
  cur := none
  fresh := 0
  nextId := 1
  islands := List.replicate 16 Island.reset
  powerLimit := 2800
  gateStatus := .none
  links := ⟨List.replicate 24 Port.reset, [], 0#10, [], [], [], [], none, 0⟩
  mailbox := ⟨List.replicate 16 0#32, 0#16, 0#8, false, false, List.replicate 6 0#32, false, none, []⟩
  host := { winFail := 0, segs := [], readData := [], masked := [], pending := [], msgs := [], sigs := [], vfs := [], seq := 0,
            hfBase := 0, hfEntries := 0, hfEn := false, hfHeld := 0, hfHead := 0, hfLost := 0, trans := [],
            spCtx := 0, spBase := 0, spLen := 0, spResult := 0, spTotal := 0, spUsed := 0, pri := [] }
  contexts := []
  launchSeq := 0
  grids := []
  launches := []
  teams := []
  slots := []
  ageing := []
  fused := []
  stamps := []
  mem := []
  hostMem := []
  scratch := []
  banks := []
  lines := []
  seals := []
  dirty := []
  waiting := []
  gate := []
  leases := []
  constCache := []
  tlb := []
  walkCache := []
  locks := []
  pins := []
  versions := []
  views := []
  commits := []
  sets := []
  holds := []
  waiters := []
  families := []
  forks := []
  deferred := []
  engines := []
  penUpdates := []
  bulk := []
  troughs := []
  matrix := []
  tiles := []
  logged := []
  partIf := { psel := 0, force := false, peer := 0, result := 0, busy := false, op := 0, staged := Resources.empty,
              eng := 0, ectx := 0, lease := 0, eresult := 0 }
  partitions := []
  engLeases := []
  pavIf := { sel := 0, part := 0, core := 0, quad := 0, bank := 0, ways := 0, frame := 0, count := 0, result := 0, busy := false, op := 0 }
  pavilions := []
  rotation := { sel := 0, pav := 0, pointer := 0, done := false, active := false, result := 0, newKey := 0 }
  frames := { base := 0, size := 0, token := 0, queue := [], nextSeq := 1 }
  trust := { meas := List.replicate 8 0#512, extSel := 0, extDigest := 0, stewardDone := false, contextCreated := false,
             spdm := [], audit := [], nextSeq := 0, readSeq := 0, lost := 0, untrusted := 0, headSeq := 0, headSig := 0,
             lpDetail := List.replicate 40 0#8, overwritten := none, hoPv := 0, hoCopy := false, hoImg := 0, hoLen := 0,
             hoResult := 0, hoBusy := false, hoBad := false, epoch := 0, peerX := 0, peerId := 0, peerSig := 0, peerEpoch := 0, ownX := 0,
             ownSig := 0, hoIn := List.replicate 128 0#8, hoOut := List.replicate 128 0#8, destroyedCopies := [] }
  observe := { ckCtx := 0, ckList := 0, ckCount := 0, ckSlot0 := 0, ckSlot1 := 0, ckResult := 0, ckSeq := 0, ckWarn := 64,
               ckRun := none, warned := [], obCtx := 0, obBase := 0, obSize := 0, obHead := 0, obTail := 0, obLost := 0,
               hgClr := false, hgQuad := 0, hgCore := 0, obResult := 0, hgVal := List.replicate 24 0#64, hists := [],
               samplers := [], dump := none, errors := [], thermal := [] }

end Sys2Proof.Machine
end

