-- ==== Sys2Proof/Machine/Ops.lean ====
section
/-! DEFINITION. The named operations over the state: threads and teams, memory, home slices, fault records, vectors, and the
taking of a trap (R190, R191) with the return from it (R366). -/

namespace Sys2Proof.Machine

/-! ### Lists -/

/-- Replace the entries that satisfy `p` by `f` of them. -/
def updWhere {α : Type} (p : α → Bool) (f : α → α) (l : List α) : List α := l.map fun a => if p a then f a else a

/-- Replace the entry at index `i`. -/
def updAt {α : Type} (i : Nat) (f : α → α) : List α → List α
  | [] => []
  | a :: l => match i with
    | 0 => f a :: l
    | j + 1 => a :: updAt j f l

/-- The least element of a list by a measure, the earliest at equal measures. -/
def minBy {α : Type} (m : α → Nat) : List α → Option α
  | [] => none
  | a :: l => match minBy m l with
    | none => some a
    | some b => if m b < m a then some b else some a

/-- Insert by a measure, before the entries of the same measure. -/
def insertBy {α : Type} (m : α → Nat) (a : α) : List α → List α
  | [] => [a]
  | b :: l => if m a ≤ m b then a :: b :: l else b :: insertBy m a l

/-- A list in ascending order of a measure; entries of equal measure keep their order. -/
def sortBy {α : Type} (m : α → Nat) (l : List α) : List α := l.foldr (insertBy m) []

/-- All elements of a list without repeats, first occurrences kept. -/
def dedup {α : Type} [DecidableEq α] : List α → List α
  | [] => []
  | a :: l => a :: (dedup l).filter (fun b => b ≠ a)

/-- 0, 1, ..., n - 1. -/
def upto (n : Nat) : List Nat := List.range n

/-! ### Bytes -/

/-- Little-endian value of bytes. -/
def leNat : List Byte → Nat
  | [] => 0
  | b :: l => b.toNat + 256 * leNat l

/-- The low `n` bytes of a value, least significant first. -/
def leBytes (n v : Nat) : List Byte :=
  match n with
  | 0 => []
  | m + 1 => BitVec.ofNat 8 v :: leBytes m (v / 256)

/-- Set bit `n` of a word to `b`. -/
def setBit {w : Nat} (x : BitVec w) (n : Nat) (b : Bool) : BitVec w :=
  if b then x ||| (BitVec.twoPow w n) else x &&& ~~~(BitVec.twoPow w n)

/-! ### Memory -/

/-- The byte at an address. DESIGN CHOICE: log entry 2. -/
def Memory.read (m : Memory) (a : Nat) : Byte :=
  match m with
  | [] => unlistedByte
  | c :: rest => if c.1 == a then c.2 else if a < c.1 then unlistedByte else Memory.read rest a

/-- Write one byte; the canonical form is kept. -/
def Memory.write (m : Memory) (a : Nat) (b : Byte) : Memory :=
  match m with
  | [] => if b == unlistedByte then [] else [(a, b)]
  | c :: rest =>
    if a < c.1 then (if b == unlistedByte then c :: rest else (a, b) :: c :: rest)
    else if c.1 == a then (if b == unlistedByte then rest else (a, b) :: rest)
    else c :: Memory.write rest a b

/-- `n` bytes from an address. -/
def Memory.readN (m : Memory) (a n : Nat) : List Byte := (upto n).map fun i => Memory.read m (a + i)

/-- Write bytes from an address upwards. -/
def Memory.writeN (m : Memory) (a : Nat) (bs : List Byte) : Memory :=
  match bs with
  | [] => m
  | b :: l => Memory.writeN (Memory.write m a b) (a + 1) l

/-- Little-endian value of `n` bytes. -/
def Memory.readLe (m : Memory) (a n : Nat) : Nat := leNat (Memory.readN m a n)

/-- Committed device memory: read and write a value of `n` bytes. -/
def rdMem (s : State) (a n : Nat) : Nat := Memory.readLe s.mem a n
def wrMem (s : State) (a n v : Nat) : State := { s with mem := Memory.writeN s.mem a (leBytes n v) }
def wrMemBytes (s : State) (a : Nat) (bs : List Byte) : State := { s with mem := Memory.writeN s.mem a bs }

/-- Key of a scratchpad byte: core and core address (R127). -/
def scratchKey (core a : Nat) : Nat := core * 262144 + a % 262144

/-- Read and write scratchpad bytes of a core by core address. -/
def rdScratch (s : State) (core a n : Nat) : List Byte := (upto n).map fun i => Memory.read s.scratch (scratchKey core (a + i))
def wrScratch (s : State) (core a : Nat) (bs : List Byte) : State :=
  { s with scratch := Memory.writeN s.scratch (scratchKey core a) bs }

/-! ### Numbers of units (R7, R10) -/

/-- Die of a core. -/
def dieOf (core : Nat) : Nat := core / 256

/-- Cluster of a core. -/
def clusterOf (core : Nat) : Nat := core / 4

/-- Island of a core half (R10). -/
def islandOf (core : Nat) : Nat := 3 * dieOf core + (if (core / 4) % 64 < 32 then 0 else 1)

/-- Present cycle of an island's clock. -/
def islandCycle (s : State) (i : Nat) : Nat := match s.islands[i]? with | some x => x.cycle | none => 0

/-- Present cycle of a core's quadrants. -/
def coreCycle (s : State) (core : Nat) : Nat := islandCycle s (islandOf core)

/-- A fresh number for an object, and the state after it. -/
def freshId (s : State) : Nat × State := (s.nextId, { s with nextId := s.nextId + 1 })

/-! ### Teams, groups and threads -/

def team? (s : State) (id : Nat) : Option Team := s.teams.find? (fun t => t.id == id)
def modTeam (s : State) (id : Nat) (f : Team → Team) : State := { s with teams := updWhere (fun t => t.id == id) f s.teams }
def grid? (s : State) (id : Nat) : Option Grid := s.grids.find? (fun g => g.id == id)
def modGrid (s : State) (id : Nat) (f : Grid → Grid) : State := { s with grids := updWhere (fun g => g.id == id) f s.grids }
def ctx? (s : State) (id : Nat) : Option Context := s.contexts.find? (fun c => c.id == id)
def modCtx (s : State) (id : Nat) (f : Context → Context) : State :=
  { s with contexts := updWhere (fun c => c.id == id) f s.contexts }
def family? (s : State) (id : Nat) : Option Family := s.families.find? (fun f => f.id == id)
def modFamily (s : State) (id : Nat) (f : Family → Family) : State :=
  { s with families := updWhere (fun x => x.id == id) f s.families }
def fork? (s : State) (id : Nat) : Option Fork := s.forks.find? (fun f => f.id == id)
def modFork (s : State) (id : Nat) (f : Fork → Fork) : State := { s with forks := updWhere (fun x => x.id == id) f s.forks }
def part? (s : State) (id : Nat) : Option Partition := s.partitions.find? (fun p => p.id == id)
def pav? (s : State) (id : Nat) : Option Pavilion := s.pavilions.find? (fun p => p.id == id)
def modPav (s : State) (id : Nat) (f : Pavilion → Pavilion) : State :=
  { s with pavilions := updWhere (fun p => p.id == id) f s.pavilions }
def eng? (s : State) (id : Nat) : Option EngOp := s.engines.find? (fun e => e.id == id)
def modEng (s : State) (id : Nat) (f : EngOp → EngOp) : State := { s with engines := updWhere (fun e => e.id == id) f s.engines }

def group? (s : State) (team g : Nat) : Option Group := match team? s team with | some t => t.groups[g]? | none => none
def modGroup (s : State) (team g : Nat) (f : Group → Group) : State :=
  modTeam s team fun t => { t with groups := updAt g f t.groups }

def thread? (s : State) (t : Tid) : Option Thread := match group? s t.team t.group with | some g => g.threads[t.lane]? | none => none
def modThread (s : State) (t : Tid) (f : Thread → Thread) : State :=
  modGroup s t.team t.group fun g => { g with threads := updAt t.lane f g.threads }

/-- Add to a team counter (R243). -/
def bump (s : State) (team n k : Nat) : State := modTeam s team fun t => { t with counters := updAt n (· + k) t.counters }

/-- A team stands on its core. -/
def Team.onCore (t : Team) : Bool := t.state == .resident || t.state == .preempting

/-- A team keeps its scratchpad allocation: it stands on its core, or is bound to it (R179). -/
def Team.keepsAlloc (t : Team) : Bool := t.onCore || t.state == .bound

/-- A team whose save record is written, with or without its scratch ranges (R177, R179). -/
def Team.offCore (t : Team) : Bool := t.state == .saved || t.state == .bound

/-- Every thread of a team, by group and lane. -/
def tidsOf (t : Team) : List Tid :=
  (upto t.groups.length).flatMap fun g => (upto 32).map fun l => ⟨t.id, g, l⟩

/-- Every live thread of a team (R113, R426: a provisionally retired one counts as retired). -/
def liveTids (s : State) (team : Nat) : List Tid :=
  match team? s team with
  | none => []
  | some t => (tidsOf t).filter fun k => match thread? s k with | some th => th.life == .live | none => false

/-- The grid record flag `n` of a team (R75, R78). -/
def recFlag (s : State) (team n : Nat) : Bool :=
  match team? s team with
  | none => false
  | some t => match grid? s t.grid with | some g => g.record.flags.getLsbD n | none => false

/-- Groups whose threads have all retired retire: their register rows are free (R114). -/
def retireGroups (s : State) (team : Nat) : State :=
  modTeam s team fun t => { t with groups := t.groups.map fun g => { g with retired := g.threads.all fun th => th.life == .retired } }

/-- The context of a team. -/
def teamCtx (s : State) (team : Nat) : Option Context := match team? s team with | some t => ctx? s t.ctx | none => none

/-- Whether a thread runs a routine of a kind. -/
def inRoutine (th : Thread) (k : RoutineKind) : Bool := match th.routine with | some r => r.kind == k | none => false

/-- An offset lies in a routine. -/
def Routine.holds (r : Routine) (off : Nat) : Bool := r.start.toNat ≤ off && off < r.start.toNat + r.len

/-- The thread runs a trap handler that was entered from the code of its entry routine: it stands outside the routine until it returns
(R187).  A handler that the thread had entered before it was vectored is left behind by the routine. DEDUCED: log entry 29. -/
def handlerOut (th : Thread) : Bool :=
  match th.handler, th.routine with
  | some h, some r => r.holds h.ret.off.toNat
  | _, _ => false

/-- The thread runs the code of a routine. -/
def inRoutineCode (th : Thread) : Bool := th.routine.isSome && !handlerOut th

/-- A thread as it stands at the start of its team (R100). -/
def Thread.start (entry : Word) : Thread :=
  { life := .live
    pc := { off := entry, inside := false, hdr := entry, hword := 0, guardLeft := 0, guardOk := true, guardPred := 0, guardNeg := false, entry := true }
    jump := none, v := List.replicate 128 0#32, p := 0, poison := 0, pend := [], held := [], due := []
    gmask := 0xFFFFFFFF#32, fctl := 0, fstat := 0, cause := 0, tvalLo := 0, tvalHi := 0, tret := 0, handler := none, stack := []
    dtime := none, routine := none, status := none, fallback := false, checked := false, restored := true
    stoppedEntry := false, wait := none, nap := [], owed := none, fetchFault := none, queue := []
    wctTeam := 0, wctCluster := 0, wctDevice := 0, wctSystem := 0, storesOut := [] }

/-! ### Issue slots -/

/-- Key of a slot of a quadrant. -/
def slotKey (core quad k : Nat) : Nat := core * 16 + quad * 4 + k
def Slot.key (sl : Slot) : Nat := slotKey sl.core sl.quad sl.k
def slot? (s : State) (key : Nat) : Option Slot := s.slots.find? (fun sl => sl.key == key)
def modSlot (s : State) (key : Nat) (f : Slot → Slot) : State := { s with slots := updWhere (fun sl => sl.key == key) f s.slots }

/-- The slot and flock that issue now. -/
def curSlot (s : State) : Option Slot := match s.cur with | some k => slot? s k | none => none

/-- Take a thread out of its flock; a slot without a flock is free (R93). DEDUCED: log entry 12. -/
def leaveFlock (s : State) (t : Tid) : State :=
  { s with slots := updWhere (fun sl => sl.flock.contains t) (fun sl => { sl with flock := sl.flock.filter (fun u => u ≠ t) }) s.slots }

/-! ### Clause positions (R173, R277, R278) -/

/-- COUNT of a header word. -/
def hdrCount (h : Word) : Nat := (h.extractLsb' 22 4).toNat
/-- CLASS of a header word. -/
def hdrClass (h : Word) : Nat := (h.extractLsb' 19 3).toNat
/-- A header word has OP 0x3F (R278). -/
def isHeader (h : Word) : Bool := h.extractLsb' 26 6 == 0x3F#6
/-- A header whose other fields are legal (R277). -/
def headerLegal (h : Word) : Bool := hdrCount h != 0 && hdrClass h != 7 && h.extractLsb' 17 2 == 0#2 && h.extractLsb' 0 10 == 0#10

/-- The position at a header. -/
def Pc.at (off : Word) : Pc := { off := off, inside := false, hdr := off, hword := 0, guardLeft := 0, guardOk := true, guardPred := 0, guardNeg := false, entry := false }

/-- The entry of a role or a routine. -/
def Pc.start (off : Word) : Pc := { Pc.at off with entry := true }

/-- Offset of the header after a clause (R278). -/
def nextHeader (p : Pc) : Word := p.hdr + BitVec.ofNat 32 (4 * (hdrCount p.hword + 1))

/-- Instruction words of the clause from the present one on. -/
def wordsLeft (p : Pc) : Nat := hdrCount p.hword + 1 - (p.off - p.hdr).toNat / 4

/-- The position after the word at `p`, inside the clause or at the next header. -/
def Pc.next (p : Pc) : Pc :=
  if wordsLeft p ≤ 1 then Pc.at (nextHeader p)
  else { p with off := p.off + 4, guardLeft := p.guardLeft - 1, guardOk := if p.guardLeft ≤ 1 then true else p.guardOk }

/-- A wait is over: the waiting instruction is complete, and the thread stands after it (R92, R111). DEDUCED: log entry 12. -/
def finishWait (th : Thread) : Thread := { th with wait := none, pc := Pc.next th.pc }

/-! ### Views (R213, R214, R218) -/

def view? (s : State) (tag : Nat) : Option ViewRec := s.views.find? (fun v => v.tag == tag)

/-- Parent of a view tag; the committed state is its own parent. -/
def viewParent (s : State) (tag : Nat) : Nat := match view? s tag with | some v => v.parent | none => 0

/-- Follow aliases to the tag that governs a tag's versions (R168). -/
def resolveTag (s : State) (fuel tag : Nat) : Nat :=
  match fuel with
  | 0 => tag
  | n + 1 => match view? s tag with
    | some v => if v.state == .aliased then resolveTag s n v.parent else tag
    | none => tag

/-- The view chain of a tag down to the committed state (R156). -/
def viewChain (s : State) (fuel tag : Nat) : List Nat :=
  match fuel with
  | 0 => [0]
  | n + 1 => if tag == 0 then [0] else tag :: viewChain s n (resolveTag s s.views.length (viewParent s tag))

/-- The chain of a team's view, through aliases. -/
def chainOf (s : State) (tag : Nat) : List Nat := viewChain s (s.views.length + 1) (resolveTag s s.views.length tag)

/-- The byte of a version at an offset of the line. -/
def Version.byte? (v : Version) (o : Nat) : Option Byte := match v.bytes.find? (fun x => x.1 == o) with | some x => some x.2 | none => none

/-! ### Reserved memory: the audit log's ring and the dump region (R69, R238) -/

/-- Two ranges overlap. -/
def overlaps (a n b m : Nat) : Bool := a < b + m && b < a + n

/-- Entries of the ring. -/
def ringEntries : Nat := 1048576

/-- The audit log's ring (R69). -/
def inRing (s : State) (pa n : Nat) : Bool := overlaps pa n s.trust.logBase (128 * ringEntries)

/-- The dump region of 2 GiB (R238). -/
def inDump (s : State) (pa n : Nat) : Bool := overlaps pa n s.observe.dumpBase (2 ^ 31)

/-- Bytes 0x00 to 0x3F of an entry. -/
def entryBytes (seq time source code ctx part : Nat) (detail : List Byte) : List Byte :=
  leBytes 8 seq ++ leBytes 8 time ++ leBytes 2 source ++ leBytes 2 code ++ leBytes 4 (ctx % 65536 + 65536 * (part % 65536)) ++
  (detail ++ List.replicate 40 0#8).take 40

/-- The 128 bytes of an entry. -/
def AuditRec.bytes (e : AuditRec) : List Byte :=
  entryBytes e.seq e.time e.source e.code e.ctx e.part e.detail ++ leBytes 64 e.chain.toNat

/-- A byte of the ring: of the entry that stands there. -/
def ringByte (s : State) (o : Nat) : Byte :=
  match s.trust.audit.find? fun e => e.seq % ringEntries == o / 128 with | some e => e.bytes.getD (o % 128) 0#8 | none => unlistedByte

/-- A committed byte: of memory, of an audit entry, or of the dump (R69, R238). -/
def homeByte (s : State) (a : Nat) : Byte :=
  if inRing s a 1 then ringByte s (a - s.trust.logBase)
  else if inDump s a 1 then (match s.observe.dump with | some d => d.bytes.getD (a - s.observe.dumpBase) unlistedByte | none => unlistedByte)
  else Memory.read s.mem a

/-! ### Sealed lines (R59 to R62) -/

/-- The pavilion of a context, 0 for none. -/
def ctxPav (s : State) (ctx : Nat) : Nat := match ctx? s ctx with | some c => c.pav | none => 0

/-- The pavilion's keys are being rotated. -/
def rotating (s : State) (pav : Nat) : Bool := s.rotation.active && s.rotation.pav == pav

/-- A line lies on a pavilion's sealed frame list. -/
def Pavilion.lists (p : Pavilion) (line : Nat) : Bool := p.frames.any fun f => f.1 == line / 1024

/-- The key under which a line of a pavilion is sealed now, by its place against POINTER (R61, R62). -/
def lineKey (s : State) (p : Pavilion) (pa : Nat) : BitVec 256 :=
  if rotating s p.id && p.lists (pa / 64) && ((p.frames.any fun f => f.1 == pa / 65536 && f.2) || pa / 64 * 64 < s.rotation.pointer) then
    s.rotation.newKey
  else p.key

/-- The sweep stands at a line of a pavilion's list (R61). -/
def atPointer (s : State) (pav line : Nat) : Bool := rotating s pav && s.rotation.pointer / 64 == line

/-- What is known of a line's sealing. -/
def sealOf (s : State) (line : Nat) : Option SealRec := s.seals.find? fun r => r.line == line

/-- The 64 bytes of memory at a line. -/
def memLine (s : State) (line : Nat) : List Byte := Memory.readN s.mem (line * 64) 64

/-- A sealed line's bytes as they stand outside the reserved ways: the physical address is the tweak (R59). -/
def SealRec.cipher (s : State) (r : SealRec) : List Byte :=
  (Config.sealBytes r.key (leBytes 8 (r.line * 64)) (memLine s r.line) ++ List.replicate 64 0#8).take 64

/-- A line that a pavilion has written is sealed as it leaves the reserved ways; the model lets it leave at once, but for a line at
POINTER, which is held until the sweep has finished it (R59, R61). DESIGN CHOICE: log entry 68. -/
def reseal (s : State) (pav line : Nat) (changed : Bool) : State :=
  match pav? s pav with
  | none => s
  | some p =>
    let k := lineKey s p (line * 64)
    { s with seals := ⟨line, pav, k, Config.sealCode k line (memLine s line), changed, atPointer s pav line⟩ :: s.seals.filter fun r => r.line ≠ line }

/-- The lines of a span that a pavilion's hardware has written are sealed (R59, R184, R427). -/
def sealSpan (s : State) (pav base n : Nat) : State :=
  if pav == 0 then s else (upto ((base % 64 + n + 63) / 64)).foldl (fun s i => reseal s pav (base / 64 + i) false) s

/-- Hardware writes bytes for a context: its records, spill cells and ring (R59). -/
def wrFor (s : State) (ctx a : Nat) (bs : List Byte) : State := sealSpan (wrMemBytes s a bs) (ctxPav s ctx) a bs.length

/-- The bytes of a line that an agent outside its pavilion finds: sealed ones (R59). -/
def sealedFrom (s : State) (pav line : Nat) : Option (List Byte) :=
  match sealOf s line with
  | some r => if r.pav == pav || r.changed then none else some (r.cipher s)
  | none => none

/-- A line fails its integrity check when its pavilion reads it: it was written from outside, or is sealed under another key, or its
code does not fit (R59). DESIGN CHOICE: log entry 68. -/
def sealBroken (s : State) (pav line : Nat) : Bool :=
  match sealOf s line, pav? s pav with
  | some r, some p => !r.held && (if r.pav == pav then
      r.changed || r.key ≠ lineKey s p (line * 64) || r.code ≠ Config.sealCode r.key line (memLine s line)
    else p.lists line)
  | _, _ => false

/-- A read of a line at POINTER is held until the sweep has finished the line, unless the reserved ways hold it (R61). -/
def sweepHolds (s : State) (pav line : Nat) : Bool :=
  atPointer s pav line && !(match sealOf s line with | some r => r.held | none => false)

/-- The host stores into its own memory, before a step that may read it. DESIGN CHOICE: log entry 41. -/
def hostStores (s : State) (w : HostStores) : State :=
  w.foldl (fun s c => { s with hostMem := Memory.write s.hostMem (c.1 % 2 ^ 64) c.2 }) s

/-! ### Committed writes (R63, R69) -/

/-- A context's committed write: HBM still holds what it held before the context's first write since another's. DESIGN CHOICE: log entry 82. -/
def noteDirty (s : State) (ctx line : Nat) : State :=
  let old := match s.dirty.find? fun d => d.line == line with | some d => if d.ctx == ctx then d.old else memLine s line | none => memLine s line
  { s with dirty := (if ctx == 0 then [] else [⟨line, ctx, old⟩]) ++ s.dirty.filter fun d => d.line ≠ line }

/-- A write into a committed line by a context, 0 for the host or a peer: dropped in the audit log's ring (R69), sealed for the
pavilion whose line it is, and from outside a pavilion laid over the sealed bytes (R59). -/
def commitLine (s : State) (ctx line : Nat) (f : Memory → Memory) : State :=
  if inRing s (line * 64) 64 then s
  else
    let pav := ctxPav s ctx
    let s := noteDirty s ctx line
    match sealOf s line with
    | none =>
      let s := { s with mem := f s.mem }
      if pav == 0 then s else reseal s pav line false
    | some r =>
      if r.pav == pav then reseal { s with mem := f s.mem } pav line r.changed
      else if r.changed then { s with mem := f s.mem }
      else { s with mem := f (Memory.writeN s.mem (line * 64) (r.cipher s))
                    seals := updWhere (fun x => x.line == line) (fun x => { x with changed := true }) s.seals }

/-- The first byte along a chain of tags, and the byte of `base` otherwise (R214). -/
def chainByteOn (base : Nat → Byte) (s : State) (tags : List Nat) (a : Nat) : Byte :=
  match tags with
  | [] => base a
  | t :: rest =>
    match (s.versions.find? (fun v => v.tag == t && v.line == a / 64)).bind (fun v => v.byte? (a % 64)) with
    | some b => b
    | none => chainByteOn base s rest a

/-- The first byte along a chain of tags, and the committed byte otherwise (R214). -/
def chainByte (s : State) (tags : List Nat) (a : Nat) : Byte := chainByteOn (homeByte s) s tags a

/-- Overwrite bytes of a line's list by offset. -/
def putBytes (old new : List (Nat × Byte)) : List (Nat × Byte) :=
  new.foldl (fun acc x => x :: acc.filter (fun y => y.1 ≠ x.1)) old

/-- Merge one aliased version into its parent's on the same line (R218). -/
def mergeVersion (s : State) (v : Version) : State :=
  let p := viewParent s v.tag
  let s' := { s with versions := s.versions.filter (fun w => !(w.tag == v.tag && w.line == v.line)) }
  if p == 0 then commitLine s' v.ctx v.line fun m => v.bytes.foldl (fun m x => Memory.write m (v.line * 64 + x.1) x.2) m
  else if s'.versions.any (fun w => w.tag == p && w.line == v.line) then
    { s' with versions := updWhere (fun w => w.tag == p && w.line == v.line) (fun w => { w with bytes := putBytes w.bytes v.bytes }) s'.versions }
  else { s' with versions := { v with tag := p } :: s'.versions }

/-- Depth of a view (R213). -/
def viewDepth (s : State) (tag : Nat) : Nat := match view? s tag with | some v => v.depth | none => 0

/-- The aliased versions of a line whose views have one depth, in the order of their commits. -/
def aliasedAt (s : State) (line depth : Nat) : List Version :=
  let isAl := fun (v : Version) => v.line == line && (match view? s v.tag with | some r => r.state == .aliased && r.depth == depth | none => false)
  let tickOf := fun (v : Version) => match view? s v.tag with | some r => r.tick | none => 0
  sortBy tickOf (s.versions.filter isAl)

/-- Merge every aliased version of a line, each into its own parent's: the deepest views first, so that a child's bytes overwrite its
parent's before the parent's go on, and each level in the order of the commits (R218). -/
def mergeLine (s : State) (line : Nat) : State :=
  [4, 3, 2, 1].foldl (fun s d => (aliasedAt s line d).foldl mergeVersion s) s

/-- The bytes that a thread of a view sees at the home slice now, within one line (R156); an access merges the line's aliased
versions first (R218). -/
def visible (s : State) (view a n : Nat) : List Byte :=
  let m := mergeLine s (a / 64)
  (upto n).map fun i => chainByte m (chainOf m view) (a + i)

/-- The bytes that a thread of a pavilion, 0 for none, sees there: sealed ones of another's line (R59). -/
def seen (s : State) (pav view a n : Nat) : List Byte :=
  match sealedFrom (mergeLine s (a / 64)) pav (a / 64) with
  | none => visible s view a n
  | some bs =>
    let m := mergeLine s (a / 64)
    (upto n).map fun i => chainByteOn (fun x => bs.getD (x % 64) 0#8) m (chainOf m view) (a + i)

/-- Bytes of any span at the home slices. -/
def homeBytes (s : State) (view a n : Nat) : List Byte := (upto n).flatMap fun i => visible s view (a + i) 1

/-- Little-endian value of `n` bytes at the home slices, committed state. -/
def homeLe (s : State) (a n : Nat) : Nat := leNat (homeBytes s 0 a n)

/-- Write bytes into a view at the home slice: the committed memory for tag 0, else the view's
version (R214).  The bytes lie within one line, whose aliased versions are merged first (R218). -/
def writeView (s : State) (ctx tag a : Nat) (bs : List Byte) : State :=
  let s := mergeLine s (a / 64)
  let tag := resolveTag s s.views.length tag
  if tag == 0 then commitLine s ctx (a / 64) fun m => Memory.writeN m a bs
  else
    let line := a / 64
    let new := (upto bs.length).map fun i => ((a + i) % 64, bs.getD i 0#8)
    if s.versions.any (fun v => v.tag == tag && v.line == line) then
      { s with versions := updWhere (fun v => v.tag == tag && v.line == line) (fun v => { v with bytes := putBytes v.bytes new }) s.versions }
    else { s with versions := ⟨tag, line, putBytes [] new, ctx⟩ :: s.versions }

/-! ### Home slices (R156) -/

/-- DESIGN CHOICE: log entry 8. -/
def lineRec (s : State) (line : Nat) : LineRec := match s.lines.find? (fun l => l.line == line) with | some l => l | none => ⟨line, 0, 0⟩
def setLine (s : State) (r : LineRec) : State := { s with lines := r :: s.lines.filter (fun l => l.line ≠ r.line) }

/-- Completion time of a store or atomic that arrives at tick `a` (R156). -/
def completionTime (s : State) (line a : Nat) : Nat × State :=
  let r := lineRec s line
  let c := max a (max r.lm r.lastC) + 1
  (c, setLine s { r with lastC := c })

/-- Lease length of a class (R141). -/
def leaseTicks (cls : Nat) : Nat :=
  match cls with
  | 1 => 32 | 2 => 64 | 3 => 128 | 4 => 256 | 5 => 512 | 6 => 1024 | 7 => 4096 | _ => 0

/-- Whether a commit of a view that holds a version of the line is requested and not yet in effect (R168). -/
def commitPending (s : State) (line : Nat) : Bool :=
  s.commits.any fun c => s.versions.any fun v => v.line == line && resolveTag s s.views.length v.tag == c.tag

/-- Every thread with its queue. -/
def allQueues (s : State) : List (Tid × Access) :=
  s.teams.flatMap fun t => (tidsOf t).flatMap fun k => match thread? s k with | some th => th.queue.map fun a => (k, a) | none => []

def isAtomic (a : Access) : Bool := match a.op with | .atomic _ _ => true | _ => false

/-- Atomics and reductions that have their completion time at the home slice and are not performed yet (R156, R157). -/
def atomicsDue (s : State) : List (Tid × Access) := (allQueues s).filter fun x => isAtomic x.2 && x.2.space == .home && x.2.c.isSome

/-- Completion times after `t` of the stores, atomics and reductions that wait for them on a line (R156). -/
def waitingTimes (s : State) (line t : Nat) : List Nat :=
  (((s.waiting.filter fun w => w.pa / 64 == line).map Waiting.c) ++
    ((atomicsDue s).filter fun x => x.2.pa.map (· / 64) == some line).filterMap fun x => x.2.c).filter (t < ·)

/-- The lease granted for a load of a line at tick `t` (R156): its expiry. -/
def grantLease (s : State) (line t cls : Nat) : Option Nat × State :=
  if cls == 0 then (none, s)
  else
    let e0 := t + leaseTicks cls
    let e := (waitingTimes s line t).foldl (fun e c => min e (c - 1)) e0
    if commitPending s line || e ≤ t then (none, s)
    else
      let r := lineRec s line
      (some e, setLine s { r with lm := max r.lm e })

/-- Lease store of a core: its own, or the cluster's when fused (R131). -/
def leaseStore (s : State) (core : Nat) : Nat := if s.fused.contains (clusterOf core) then 1024 + clusterOf core else core

/-! ### Vectors and fault records -/

/-- The link of a function: 0 and 1 are the PFs, 0x100 + v the VFs of link 0, 0x200 + v those of link 1 (R24, R32). -/
def linkOf (fn : Nat) : Nat := if fn ≤ 1 then fn else fn / 256 - 1

/-- The link of a function is trained: link 0 always is (R24). -/
def linkUp (s : State) (fn : Nat) : Bool := linkOf fn == 0 || s.host.link1

/-- Vectors of a function: 2,048 of a PF, 64 of a VF (R25). -/
def vectorsOf (fn : Nat) : Nat := if fn ≤ 1 then 2048 else 64

/-- Raise an MSI-X vector of a function (R38): a message, or its pending bit when it is masked or its link is not trained (R24). DESIGN CHOICE: log entry 7. -/
def raiseVector (s : State) (fn vec : Nat) : State :=
  if vectorsOf fn ≤ vec then s
  else if s.host.masked.contains (fn, vec) || !linkUp s fn then
    (if s.host.pending.contains (fn, vec) then s else { s with host := { s.host with pending := (fn, vec) :: s.host.pending } })
  else { s with host := { s.host with msgs := s.host.msgs ++ [(fn, vec)] } }

/-- The cause codes of R192. -/
def Cause.code (c : Cause) : BitVec 8 :=
  match c with
  | .illegalOp => 0x01 | .illegalHeader => 0x02 | .badTarget => 0x03 | .classMismatch => 0x04 | .stallShort => 0x05
  | .poisonRead => 0x06 | .misalign => 0x07 | .pageFault => 0x08 | .stage2Fault => 0x09 | .protection => 0x0A
  | .rangeConflict => 0x0B | .fmtDiverge => 0x0C | .holdOverflow => 0x0D | .viewCapacity => 0x0E | .viewDepth => 0x0F
  | .worldExternal => 0x10 | .deferFull => 0x11 | .rebuildMismatch => 0x12 | .budget => 0x13 | .trapInst => 0x14
  | .brk => 0x15 | .priv => 0x16 | .taskState => 0x17 | .penState => 0x18 | .scratchBounds => 0x19 | .queueState => 0x1A
  | .eccUncorrected => 0x1B | .watchdog => 0x1C | .externalAbort => 0x1D | .routineViolation => 0x1E

/-- The 64 bytes of a fault record (R42). -/
def faultBytes (seq : BitVec 32) (time : Nat) (r : FaultRec) : List Byte :=
  leBytes 4 seq.toNat ++
  leBytes 4 (r.ctx * 65536 + (if r.info then 512 else 0) + (if r.stage2 then 256 else 0) + r.code.toNat) ++
  leBytes 4 (r.lane * 65536 + r.group * 4096 + r.quad * 1024 + r.core) ++
  leBytes 4 r.slot ++ leBytes 8 r.pc ++ leBytes 16 r.va.toNat ++ leBytes 8 r.ipa ++ leBytes 8 time ++ leBytes 8 r.detail.toNat

/-- The next fault sequence number: it never takes 0xFFFF_FFFF (R42). -/
def nextSeq (q : BitVec 32) : BitVec 32 := if q == 0xFFFFFFFE#32 then 0 else q + 1

/-- Write a record into an area with its header at `base` (R40, R41): `none` when the area is full. -/
def putFault (s : State) (base entries head : Nat) (r : FaultRec) : Option State :=
  let tail := Memory.readLe s.hostMem (base + 4) 4
  if (head + 4294967296 - tail) % 4294967296 == entries then none
  else
    let m := Memory.writeN s.hostMem (base + 64 + 64 * (head % entries)) (faultBytes s.host.seq s.time r)
    let m := Memory.writeN m base (leBytes 4 ((head + 1) % 4294967296))
    some { s with hostMem := m, host := { s.host with seq := nextSeq s.host.seq } }

/-- Write a fault record to its context's area, or to the hypervisor's for a second-stage fault (R40 to R44, R151).  Head and lost count
of the hypervisor's area are the words of its own header, which the hypervisor may write (R44).  A lost record is no record: it raises
no fault vector (R39, R41).  The number is the record's SEQ, or none when the record was lost or held. -/
def writeFault (s : State) (r : FaultRec) : Option Nat × State :=
  if r.stage2 then
    if !s.host.hfEn then (none, { s with host := { s.host with hfHeld := s.host.hfHeld + 1 } })
    else
      let base := s.host.hfBase.toNat
      let head := Memory.readLe s.hostMem base 4
      let lost := (Memory.readLe s.hostMem (base + 8) 8 + 1) % 2 ^ 64
      match putFault s base s.host.hfEntries.toNat head r with
      | none => (none, { s with host := { s.host with hfLost := lost }, hostMem := Memory.writeN s.hostMem (base + 8) (leBytes 8 lost) })
      | some s' => (some s.host.seq.toNat, raiseVector { s' with host := { s'.host with hfHead := (head + 1) % 4294967296 } } 0 1)
  else match ctx? s r.ctx with
    | none => (none, s)
    | some c =>
      match putFault s c.faultBase c.faultEntries c.faultHead r with
      | none => (none, modCtx { s with hostMem := Memory.writeN s.hostMem (c.faultBase + 8) (leBytes 8 (c.faultLost + 1)) } r.ctx
                    fun c => { c with faultLost := c.faultLost + 1 })
      | some s' => (some s.host.seq.toNat, modCtx s' r.ctx fun c => { c with faultHead := c.faultHead + 1, faultDue := true })

/-- A fault record that names a thread at its present position. -/
def threadFault (s : State) (t : Tid) (code : BitVec 8) (pc : Word) (va : VAddr) (detail : BitVec 64) : FaultRec :=
  match team? s t.team with
  | none => { ctx := 0, info := false, stage2 := false, code := code, lane := 0, group := 0, quad := 0, core := 0, slot := 0,
              pc := pc.toNat, va := va, ipa := 0, detail := detail }
  | some tm =>
    let g := tm.groups[t.group]?
    { ctx := tm.ctx, info := false, stage2 := false, code := code, lane := t.lane
      group := match g with | some g => g.gslot | none => 0
      quad := match g with | some g => g.quad | none => 0
      core := tm.core, slot := tm.slot, pc := pc.toNat, va := va, ipa := 0, detail := detail }

/-- A fault record that names no thread: PC and place zero (R77, R79, R82). -/
def plainFault (ctx : Nat) (code : BitVec 8) (va : VAddr) (detail : BitVec 64) : FaultRec :=
  { ctx := ctx, info := false, stage2 := false, code := code, lane := 0, group := 0, quad := 0, core := 0, slot := 0, pc := 0,
    va := va, ipa := 0, detail := detail }

/-! ### Pre-emption requests (R172, R173) -/

/-- Drop a thread's wait: its waiting instruction has not been performed (R173). -/
def dropWait (th : Thread) : Thread := { th with wait := none }

/-- Leave every granule queue (R201). -/
def leaveGranules (s : State) (team : Nat) : State := { s with waiters := s.waiters.filter (fun w => w.tid.team ≠ team) }

/-- Drop an access with the fences of its ordering code and its pending marks. -/
def dropAccess (id : Nat) (th : Thread) : Thread :=
  match th.queue.find? (fun x => x.id == id) with
  | some x => { th with queue := th.queue.filter (fun y => y.inst ≠ x.inst), pend := th.pend.filter (fun y => y.tok ≠ id) }
  | none => th

/-- The access of a waiting thread whose granule is still awaited, or of its wait.ext, is not performed: drop it (R173, R201). -/
def dropWaitAccess (th : Thread) : Thread :=
  match th.wait with
  | some (.granule a) => { dropAccess a th with wait := none }
  | some (.waitExt a) => { dropAccess a th with wait := none }
  | some (.adecl _ a) => { dropAccess a th with wait := none }
  | _ => th

/-! ### Operations of a team and its removal (R114, R178, R410) -/

/-- Poison the status register of an operation and clear its pending mark. -/
def poisonStatus (s : State) (ts : List Tid) (tok rd : Nat) : State :=
  ts.foldl (fun s t => modThread s t fun th => { th with
    pend := th.pend.filter fun p => p.tok ≠ tok, queue := th.queue.filter fun a => a.op ≠ .engine tok, poison := setBit th.poison rd true }) s

/-- Destination registers of a matrix operation. -/
def MatOp.dests (m : MatOp) : List Nat := match m.kind with | .clear => [] | .read => (upto 4).map (m.rd + ·) | _ => [m.rd]

/-- Cancel every engine and matrix operation of a team: their locks go, their destinations are poisoned. -/
def cancelEngines (s : State) (team : Nat) : State :=
  let es := s.engines.filter fun e => e.team == team && !e.delivered
  let ms := s.matrix.filter fun m => m.team == team
  let s := es.foldl (fun s e => poisonStatus s e.tids e.id e.rd) s
  let s := ms.foldl (fun s m => m.dests.foldl (fun s r => poisonStatus s m.tids m.tok r) s) s
  { s with engines := s.engines.filter fun e => e.team ≠ team
           matrix := s.matrix.filter fun m => m.team ≠ team
           bulk := s.bulk.filter fun b => !es.any fun e => e.id == b
           locks := s.locks.filter fun k => match k.op with | some o => !es.any (fun e => e.id == o) && !ms.any (fun m => m.id == o) | none => true }

/-- A discarded thread's memory state: nothing of it remains to be performed (R152, R226, R421). -/
def dropMemory (th : Thread) : Thread := { th with queue := [], pend := [], held := [], storesOut := [], owed := none }

/-- Drop the queues and scalar loads of a whole team. -/
def dropTeamMemory (s : State) (team : Nat) : State :=
  modTeam s team fun t => { t with rdv := [], bars := [], groups := t.groups.map fun g => { g with spend := [], rdv := [], threads := g.threads.map fun th => { dropMemory th with wait := none } } }

/-- Remove a team's threads from every flock. -/
def clearFlocks (s : State) (team : Nat) : State :=
  { s with slots := s.slots.map fun sl => { sl with flock := sl.flock.filter fun k => k.team ≠ team } }

/-- A team's place is given up: its flocks, tiles, pins, locks and spilled ranges (R114, R177, R368). -/
def freePlace (s : State) (team : Nat) : State :=
  let s := clearFlocks s team
  let s := match team? s team with
    | some tm => match tm.run with
      | some (a, n) => modCtx s tm.ctx fun c => { c with cellsUsed := c.cellsUsed.filter fun x => x < a / 128 || a / 128 + n ≤ x }
      | none => s
    | none => s
  { s with tiles := s.tiles.filter fun x => x.team ≠ team
           pins := s.pins.filter fun p => p.team ≠ team
           locks := s.locks.filter fun k => k.team ≠ team
           ageing := s.ageing.filter fun a => a.team ≠ team }

/-- A team goes with everything that it has under way. -/
def removeTeam (s : State) (team : Nat) : State :=
  let s := freePlace (leaveGranules (cancelEngines s team) team) team
  { s with teams := s.teams.filter (fun t => t.id ≠ team)
           launches := s.launches.filter fun l => l.deferred || l.tid.team ≠ team
           troughs := s.troughs.filter fun q => q.tid.team ≠ team
           gate := s.gate.filter fun g => g.tid.team ≠ team }

/-! ### Forks met by a pre-emption (R222, R228) -/

/-- Undo a fork whose copies still run: the new teams and their tags go, and the original team waits at its `fork.w` again (R222). -/
def undoFork (s : State) (f : Fork) : State :=
  let others := f.worlds.filter fun w => w.idx ≠ 0
  let tags := f.worlds.map World.tag
  let s := others.foldl (fun s w => removeTeam s w.team) s
  let s := { s with views := updWhere (fun v => tags.contains v.tag) (fun v => { v with state := .dead, tick := s.time }) s.views
                    forks := s.forks.filter fun x => x.id ≠ f.id }
  let back := fun (th : Thread) => if th.wait == some .forkCopy then { th with wait := some .team } else th
  match f.worlds.find? fun w => w.idx == 0 with
  | some w => modTeam s w.team fun t => { t with
      view := f.parentView, world := f.parentWorld, nworld := f.parentNworld, fork := f.parentFork
      groups := t.groups.map fun g => { g with threads := g.threads.map back } }
  | none => s

/-- World `i` of a fork. -/
def Fork.world? (f : Fork) (i : Nat) : Option World := f.worlds.find? fun w => w.idx == i

/-- Team of world `i` of a fork. -/
def Fork.teamOf (f : Fork) (i : Nat) : Nat := match f.world? i with | some w => w.team | none => 0

/-- Destination register of the choice that world `i` of a fork has made (R226, R227). -/
def Fork.rdOf (f : Fork) (i : Nat) : Nat := match f.world? i with | some w => w.rd | none => 0

/-- The threads of a team that wait in their choice stand after it with register `rd` = `val`; the write clears its poison (R188, R228). -/
def passChosen (s : State) (team rd : Nat) (val : Word) : State :=
  let go := fun (th : Thread) =>
    if th.wait == some .choose then { finishWait th with v := updAt rd (fun _ => val) th.v, poison := setBit th.poison rd false } else th
  modTeam s team fun t => { t with rdv := [], groups := t.groups.map fun g => { g with threads := g.threads.map go } }

/-- A continuing team takes what its fork's parent had: view, world numbers and outer fork (R228). -/
def adoptParent (s : State) (f : Fork) (team : Nat) : State :=
  modTeam s team fun t => { t with view := f.parentView, world := f.parentWorld, nworld := f.parentNworld, fork := f.parentFork }

/-- A team stands for another one: as the team of a world of outer forks, and as the anchor of a family (R228). -/
def replaceTeam (s : State) (f : Fork) (old team : Nat) : State :=
  let swap := fun (x : Fork) => if x.id == f.id then x else { x with worlds := updWhere (fun (w : World) => w.team == old) (fun (w : World) => { w with team := team }) x.worlds }
  { s with forks := s.forks.map swap, families := updWhere (fun x => x.anchor == old) (fun x => { x with anchor := team }) s.families }

/-- A choice ends for the team that continues: its waiting threads stand after their choice with `vd` = `val`, and it takes the place
of the fork in its parent; `idx` is the world whose threads it has (R228). DEDUCED: log entry 34. -/
def continueTeam (s : State) (f : Fork) (team idx : Nat) (val : Word) : State :=
  replaceTeam (adoptParent (passChosen s team (f.rdOf idx) val) f team) f (f.teamOf 0) team

/-- A pre-emption ends a choice whose winner has not moved yet: world 0's team goes unless it won, and the winner's team
continues in its own slot, with its world's view until the commit takes effect (R168, R193, R228); the number of that team. -/
def stopChoice (s : State) (f : Fork) (win : Nat) : Nat × State :=
  let s := passChosen s (f.teamOf win) (f.rdOf win) (BitVec.ofNat 32 win)
  let s := if win == 0 then s else removeTeam (replaceTeam s f (f.teamOf 0) (f.teamOf win)) (f.teamOf 0)
  (f.teamOf win, { s with forks := updWhere (fun x => x.id == f.id) (fun x => { x with copying := false, moved := true }) s.forks })

/-- A world that is pre-empted has not arrived at its choice (R227). -/
def leaveChoice (s : State) (t : Team) : State :=
  match t.fork with
  | none => s
  | some f => modFork s f fun x => { x with
      requests := x.requests.filter fun w => w ≠ t.world
      reached := x.reached.filter fun w => w ≠ t.world
      worlds := updWhere (fun (w : World) => w.idx == t.world) (fun (w : World) => { w with score := none, aborted := false }) x.worlds }

/-- A lane whose old record is carried over unchanged (R174, R185). DEDUCED: log entry 28. -/
def carried (th : Thread) : Bool := th.life == .live && th.status.isNone && (inRoutine th .entry || !th.restored)

/-- A lane of a team under pre-emption has ended its part. -/
def laneEnded (th : Thread) : Bool := th.life ≠ .live || th.status.isSome || carried th

/-- Every routine and dump of a team under pre-emption has ended (R177, R178). -/
def teamEnded (t : Team) : Bool := t.state == .preempting && t.groups.all fun g => g.threads.all laneEnded

/-- Every lane of a team that has not retired becomes WOUNDED; the lane keeps its routine, whose captured state its lane block records
(R184, R193). -/
def woundLanes (t : Team) : Team :=
  let mark := fun (th : Thread) => if th.life == .retired then th else { th with status := some .wounded, fallback := false, checked := false }
  { t with groups := t.groups.map fun g => { g with threads := g.threads.map mark } }

/-- The team's family has been wounded and is not rolled back yet, or waits for its restart. -/
def inWound (s : State) (t : Team) : Bool := match t.family.bind (family? s) with | some f => f.state == .wounded | none => false

/-- A pre-emption request takes effect on one team: its flocks are cut before their next instruction, its partial rendezvous and
barriers are dropped, and its waiting threads stand before their waiting instructions (R173); the lanes of a wounded family are WOUNDED at
once (R204, R211). -/
def cutTeam (s : State) (id : Nat) (why : PreemptWhy) : State :=
  match team? s id with
  | none => s
  | some t =>
    let s := { s with slots := s.slots.map fun sl => { sl with flock := sl.flock.filter (fun k => k.team ≠ id) } }
    let s := leaveChoice (leaveGranules s id) t
    let s := { s with launches := s.launches.filter fun l => l.deferred || l.tid.team ≠ id }
    let wounded := inWound s t
    modTeam s id fun t =>
      let t := { t with state := .preempting, why := some why, rdv := [], bars := []
                        groups := t.groups.map fun g =>
                          { g with rdv := [], threads := g.threads.map fun th => dropWait (dropWaitAccess th) } }
      if wounded then woundLanes t else t

/-- World 0's team of a fork that another world has won, kept for the winner's copy (R228). -/
def keptBy (t : Team) (f : Fork) : Bool := t.world == 0 && f.copying && f.winner.isSome && !f.moved

/-- A pre-emption request to one team, with what it does to a fork or a choice in progress (R173, R222, R228). -/
def requestTeam (s : State) (id : Nat) (why : PreemptWhy) : State :=
  match team? s id with
  | none => s
  | some t =>
    if t.state ≠ .resident then s
    else match t.fork.bind (fork? s) with
      | none => if t.discarded then s else cutTeam s id why
      | some f =>
        if t.discarded && !keptBy t f then s
        else match f.winner with
        | some w =>
          if f.moved then cutTeam s id why
          else let r := stopChoice s f w; cutTeam r.2 r.1 why
        | none =>
          if f.copying then (let s := undoFork s f; if t.world == 0 then cutTeam s id why else s)
          else cutTeam s id why

/-- A pre-emption request: a co-resident grid goes whole (R87), and a cluster-launch set goes together (R86). -/
def requestPreempt (s : State) (id : Nat) (why : PreemptWhy) : State :=
  match team? s id with
  | none => s
  | some t =>
    let mates := s.teams.filter fun u => u.grid == t.grid && u.id ≠ id &&
      (recFlag s id 1 || (t.setIdx.isSome && u.setIdx == t.setIdx))
    mates.foldl (fun s u => requestTeam s u.id .coResident) (requestTeam s id why)

/-! ### Ends of routines (R176) -/

/-- A lane's exit routine ends with a status; it issues nothing more until it is resumed (R175, R176). -/
def endRoutine (s : State) (t : Tid) (st : LaneStatus) : State :=
  modThread (leaveFlock s t) t fun th => { th with status := some st, wait := none, fallback := th.fallback || st ≠ .routineOk }

/-! ### Traps (R190, R191) -/

/-- The lane status of a lane that a routine's trap ends, with its fault record (R176). -/
def routineTrap (s : State) (t : Tid) (tr : Trap) (va : VAddr) (detail : BitVec 64) : State :=
  match thread? s t with
  | none => s
  | some th =>
    let (_, s) := writeFault s (threadFault s t tr.cause.code th.pc.off va detail)
    endRoutine s t .faulted

/-- A word that the spec leaves open for a lane: `k` numbers the values of one step (R192 states no `%tval` for some causes). DESIGN CHOICE: log entry 4. DESIGN CHOICE: log entry 15. -/
def openWord (s : State) (t : Tid) (k : Nat) : Word := Config.freeWord (s.fresh * 1048576 + t.group * 4096 + t.lane * 64 + k)

/-- A trap whose `%tval` the spec does not state. -/
def openTrap (s : State) (t : Tid) (c : Cause) : Trap := ⟨c, openWord s t 0, openWord s t 1⟩

/-- Take a stopping trap on one lane (R190, R191).  `ret` is the position that the trap return offset names.  In an exit
routine the routine ends FAULTED.  With a handler, and outside it, the lane vectors there.  Otherwise it stops, its team is
pre-empted and held with the grid's unplaced teams, and a fault record with `va` and `detail` is written. -/
def takeTrapFull (s : State) (t : Tid) (tr : Trap) (ret : Pc) (va : VAddr) (detail : BitVec 64) : State :=
  match thread? s t, teamCtx s t.team with
  | some th, some c =>
    if inRoutine th .exit && th.status.isNone then routineTrap s t tr va detail
    else
      let s := leaveFlock s t
      let s := if tr.cause == .viewCapacity || tr.cause == .deferFull then bump s t.team 9 1 else s
      let s := modThread s t fun th =>
        { th with cause := tr.cause.code, tvalLo := tr.lo, tvalHi := tr.hi, tret := ret.off, wait := none, jump := none }
      if c.handler ≠ 0 && th.handler.isNone then
        modThread s t fun th => { th with handler := some ⟨ret, false⟩, pc := Pc.at c.handler }
      else
        let (_, s) := writeFault s (threadFault s t tr.cause.code th.pc.off va detail)
        let s := modThread s t fun th => { th with status := some .trapped, fallback := true, stoppedEntry := inRoutine th .entry }
        let s := requestPreempt s t.team .trap
        match team? s t.team with
        | some tm => modGrid (modTeam s t.team fun tm => { tm with held := true }) tm.grid fun g => { g with held := true }
        | none => s
  | _, _ => s

/-- Causes whose `%tval` is the faulting address, which their record repeats in its VA field (R42, R192). DEDUCED: log entry 31. -/
def Cause.addressed (c : Cause) : Bool :=
  match c with
  | .misalign | .pageFault | .stage2Fault | .protection | .rangeConflict | .worldExternal | .externalAbort | .eccUncorrected
  | .viewCapacity | .holdOverflow => true
  | _ => false

/-- DETAIL of a record of an EXTERNAL_ABORT: the peer id of the address (R42, R139); of an integrity mismatch: bit 63 (R59). -/
def peerDetail (c : Cause) (va : Nat) : BitVec 64 :=
  if c == .externalAbort then BitVec.ofNat 64 (va / 2 ^ 66 % 1024) else if c == .eccUncorrected then 0x8000000000000000#64 else 0

/-- The same with the record's VA taken from `%tval` where that is an address. -/
def takeTrapAt (s : State) (t : Tid) (tr : Trap) (ret : Pc) : State :=
  takeTrapFull s t tr ret (if tr.cause.addressed then (tr.hi ++ tr.lo).setWidth 80 else 0) 0

/-- Take a stopping trap whose return offset is the trapping instruction's own (R190). -/
def takeTrap (s : State) (t : Tid) (tr : Trap) : State :=
  match thread? s t with
  | some th => takeTrapAt s t tr th.pc
  | none => s

/-- Traps of several lanes, in order. -/
def takeTraps (s : State) (l : List (Tid × Trap)) : State := l.foldl (fun s x => takeTrap s x.1 x.2) s

/-- Return from a trap handler (R366): to the trap return offset, or with `skip` to the word after it; an offset past the
clause's end is the next header; after REBUILD_MISMATCH, to `%resume` in either form (R189). DEDUCED: log entry 29. -/
def trapReturn (th : Thread) (skip : Bool) : Thread :=
  match th.handler with
  | none => th
  | some h => { th with handler := none, jump := none, pc := if skip && !h.rebuild then Pc.next h.ret else h.ret }

end Sys2Proof.Machine
end

