-- ==== Sys2Proof/Machine/Operands.lean ====
section
/-! DEFINITION. Operand forms: reading and writing the register files, results not yet written, pending marks, and the operand
checks of R290 steps 5 to 7 (R106 to R109, R120 to R123, R188). -/

namespace Sys2Proof.Machine

/-! ### Reading registers -/

/-- A vector register, a pair (low word first), and a predicate of a thread. -/
def rdV (th : Thread) (n : Nat) : Word := th.v.getD n 0
def rdV64 (th : Thread) (n : Nat) : BitVec 64 := rdV th (n + 1) ++ rdV th n
def rdP (th : Thread) (n : Nat) : Bool := th.p.getLsbD n

/-- A scalar register of a group, and a pair. -/
def rdS (g : Group) (n : Nat) : Word := g.s.getD n 0
def rdS64 (g : Group) (n : Nat) : BitVec 64 := rdS g (n + 1) ++ rdS g n

/-- A base register as a thread reads it: b15 in a routine is the form of its routine slot (R123, R182). -/
def rdB (tm : Team) (th : Thread) (n : Nat) : VAddr :=
  match th.routine with
  | some r => if n == 15 then BitVec.ofNat 80 (0xF0000000000000000000 + r.slot) else tm.b.getD n 0
  | none => tm.b.getD n 0

/-! ### Results not yet written (R106, R108) -/

/-- Whether a result has reached its cycle. -/
def Due.landed (s : State) (d : Due) : Bool := d.cycle ≤ islandCycle s d.clk

/-- Write a result into a thread. A vector write clears the register's poison (R188); flags are ORed in (R255). -/
def putReg (th : Thread) (r : Reg) (x : BitVec 80) : Thread :=
  match r with
  | .v n => { th with v := updAt n (fun _ => x.setWidth 32) th.v, poison := setBit th.poison n false }
  | .p n => { th with p := setBit th.p n (x.getLsbD 0) }
  | .fctl => { th with fctl := x.setWidth 32 }
  | .fstat => { th with fstat := x.setWidth 32 }
  | .flags => { th with fstat := th.fstat ||| x.setWidth 32 }
  | .gmask => { th with gmask := x.setWidth 32 }
  | .poison n => { th with poison := setBit th.poison n true }
  | .s _ => th
  | .b _ => th

/-- Write every landed result of a thread, in the order of issue. -/
def settleThread (s : State) (th : Thread) : Thread :=
  if th.due.isEmpty then th
  else (th.due.filter (Due.landed s)).foldl (fun th d => putReg th d.reg d.val)
    { th with due := th.due.filter fun d => !d.landed s }

/-- Write every landed scalar result of a group, and settle its threads. -/
def settleGroup (s : State) (g : Group) : Group :=
  let g := { g with threads := g.threads.map (settleThread s) }
  if g.sdue.isEmpty then g
  else { g with
    s := (g.sdue.filter (Due.landed s)).foldl
      (fun l d => match d.reg with | .s n => updAt n (fun _ => d.val.setWidth 32) l | _ => l) g.s
    sdue := g.sdue.filter fun d => !d.landed s }

/-- Write every landed result of a team. -/
def settle (s : State) (t : Team) : Team :=
  { t with
    groups := t.groups.map (settleGroup s)
    b := (t.bdue.filter (Due.landed s)).foldl
      (fun l d => match d.reg with | .b n => updAt n (fun _ => d.val) l | _ => l) t.b
    bdue := t.bdue.filter fun d => !d.landed s }

def settleTeam (s : State) (id : Nat) : State := modTeam s id (settle s)

/-- Everything still to be written is written: the state at a point where all results have landed. -/
def settleAll (t : Team) : Team :=
  let th := fun (x : Thread) => x.due.foldl (fun y d => putReg y d.reg d.val) { x with due := [] }
  { t with
    groups := t.groups.map fun g =>
      { g with threads := g.threads.map th
               s := g.sdue.foldl (fun l d => match d.reg with | .s n => updAt n (fun _ => d.val.setWidth 32) l | _ => l) g.s
               sdue := [] }
    b := t.bdue.foldl (fun l d => match d.reg with | .b n => updAt n (fun _ => d.val) l | _ => l) t.b
    bdue := [] }

/-- Schedule a result of a thread, a group or a team at issue + `lat` (R106). -/
def mkDue (s : State) (core fid lat : Nat) (r : Reg) (x : BitVec 80) : Due :=
  ⟨islandOf core, coreCycle s core + lat, r, x, fid, false, false⟩

/-! ### What an instruction uses -/

/-- The operands and the static rules of one instruction (R279, R280, R290). -/
structure Uses where
  /-- Class of R286; `none` is neutral. -/
  cls : Option Nat
  /-- Must be the last word of its clause (R280). -/
  last : Bool
  /-- Vector registers read and written: first register and count (1, 2 or 4). -/
  rv : List (Nat × Nat)
  wv : List (Nat × Nat)
  rp : List Nat
  wp : List Nat
  rs : List Nat
  ws : List Nat
  rb : List Nat
  wb : List Nat
  /-- Takes `%fstat` as an operand (R255). -/
  fst : Bool
  /-- Privileged: needs record flag [6] (R118, R367). -/
  priv : Bool
  /-- VIOLATION in an exit routine and ILLEGAL_OP in an entry routine (R175, R187). -/
  ban : Bool
  /-- Needs a covering guard (R301), and ignores it. -/
  sel : Bool
  /-- A failing guard span (R284), found at step 4. -/
  bad : Bool
  /-- 0: each admitted lane makes the checks of steps 5 to 7; 1: only the lowest admitted lane of each group (R348); 2: only
  the lowest admitted lane of the team. -/
  lead : Nat
  deriving DecidableEq, Repr

/-- No operand, class `c`. -/
def Uses.none (c : Option Nat) : Uses := ⟨c, false, [], [], [], [], [], [], [], [], false, false, false, false, false, 0⟩

/-- Classes of R277. -/
abbrev cAlu : Option Nat := some 0
abbrev cMem : Option Nat := some 1
abbrev cCtrl : Option Nat := some 2
abbrev cMatrix : Option Nat := some 3
abbrev cEngine : Option Nat := some 4
abbrev cLong : Option Nat := some 5

/-- Registers of a span list. -/
def spanRegs (l : List (Nat × Nat)) : List Nat := l.flatMap fun x => (upto x.2).map (x.1 + ·)

/-- What a lane sees when it issues. -/
structure Lane where
  s : State
  tid : Tid
  tm : Team
  g : Group
  th : Thread
  fid : Nat
  word : Word

/-- The lane of a thread in the present state. -/
def lane? (s : State) (t : Tid) (fid : Nat) (word : Word) : Option Lane :=
  match team? s t.team with
  | none => none
  | some tm => match tm.groups[t.group]? with
    | none => none
    | some g => match g.threads[t.lane]? with
      | none => none
      | some th => some ⟨s, t, tm, g, th, fid, word⟩

/-! ### Pending registers (R108) -/

/-- Whether a register of a thread is marked pending: a variable result, or a marked fixed-latency result. -/
def pendingReg (th : Thread) (r : Reg) : Bool := th.pend.any (fun p => p.reg == r) || th.due.any (fun d => d.reg == r && d.marked)

/-- Whether a register of a thread is pending for an instruction of a flock: a result of another flock belongs to a clause that has ended
for the thread, so its mark stands (R108). -/
def pendingFor (th : Thread) (fid : Nat) (r : Reg) : Bool := pendingReg th r || th.due.any (fun d => d.reg == r && d.fid ≠ fid)

/-- OP, and the FN fields of formats A and E, of a word (R285). -/
def wordOpNo (w : Word) : Nat := (w.extractLsb' 26 6).toNat
def wordFnA (w : Word) : Nat := (w.extractLsb' 23 3).toNat
def wordFnE (w : Word) : Nat := (w.extractLsb' 21 5).toNat

/-- The special register that a move from or to one names (R302). -/
def movesSpecial (w : Word) (n : Nat) : Bool := wordOpNo w == 0x0A && wordFnA w == 2 && (w.extractLsb' 9 7).toNat == n

/-- The word takes `%fctl` as an operand: the arithmetic that rounds by it, and its moves (R251, R302, R315 to R329). -/
def usesFctl (w : Word) : Bool :=
  movesSpecial w 16 ||
  (match wordOpNo w with
   | 0x15 => wordFnA w ≤ 2
   | 0x17 => wordFnA w ≤ 5
   | 0x18 => wordFnA w ≤ 3 || 6 ≤ wordFnA w
   | 0x19 => wordFnA w == 0 || wordFnA w == 2
   | 0x1B => 3 ≤ wordFnA w
   | 0x1C => wordFnA w == 0
   | 0x16 | 0x1A => true
   | _ => false)

/-- The word takes `%gmask` as an operand: the collectives of a group, setgm, and its moves (R110, R302, R373). -/
def usesGmask (w : Word) : Bool :=
  movesSpecial w 18 ||
  (match wordOpNo w with
   | 0x30 | 0x31 => true
   | 0x2F => wordFnE w == 7
   | 0x35 => wordFnE w == 0
   | _ => false)

/-- Whether a scalar of a group is marked pending for a flock. -/
def pendingScalar (g : Group) (fid n : Nat) : Bool :=
  g.spend.any (fun p => p.reg == .s n) || g.sdue.any (fun d => d.reg == .s n && (d.marked || d.fid ≠ fid))

/-- Whether a base register of a team is marked pending for a flock. -/
def pendingBase (tm : Team) (fid n : Nat) : Bool := tm.bdue.any (fun d => d.reg == .b n && (d.marked || d.fid ≠ fid))

/-- Whether an instruction's registers make the lane stall its flock (R108). -/
def stalls (l : Lane) (u : Uses) : Bool :=
  (spanRegs (u.rv ++ u.wv)).any (fun n => pendingFor l.th l.fid (.v n) || (u.wv.length ≠ 0 && pendingFor l.th l.fid (.poison n))) ||
  (u.rp ++ u.wp).any (fun n => pendingFor l.th l.fid (.p n)) ||
  (usesFctl l.word && pendingFor l.th l.fid .fctl) || (usesGmask l.word && pendingFor l.th l.fid .gmask) ||
  (u.rs ++ u.ws).any (pendingScalar l.g l.fid) ||
  (u.rb ++ u.wb).any (pendingBase l.tm l.fid) ||
  (u.fst && (pendingFor l.th l.fid .fstat || pendingFor l.th l.fid .flags))

/-! ### Checks of R290 steps 5 to 7 -/

/-- A register span's failure (R121): misaligned first register, or a register at or beyond the rounded count. -/
def spanBad (regs : Nat) (x : Nat × Nat) : Option Nat :=
  if x.1 % x.2 ≠ 0 then some x.1 else (spanRegs [x]).find? (fun n => regs ≤ n)

/-- Step 5: register bounds (R121), writes of b14, and of b15 in a routine (R123). DEDUCED: log entry 17. -/
def boundsTrap (l : Lane) (u : Uses) : Option Trap :=
  match (u.rv ++ u.wv).findSome? (spanBad l.g.regs) with
  | some n => some ⟨.illegalOp, BitVec.ofNat 32 n, 0⟩
  | none => if u.wb.any (fun n => n == 14 || (n == 15 && l.th.routine.isSome)) then some ⟨.illegalOp, l.word, 0⟩ else none

/-- Step 6: a privileged use without record flag [6] (R118, R367). -/
def privTrap (l : Lane) (u : Uses) : Option Trap :=
  if u.priv && !recFlag l.s l.tid.team 6 then some (openTrap l.s l.tid .priv) else none

/-- Step 7, first: a poisoned source (R188), its lowest-placed operand first. DEDUCED: log entry 17. -/
def poisonTrap (l : Lane) (u : Uses) : Option Trap :=
  match (spanRegs u.rv).find? (fun n => l.th.poison.getLsbD n) with
  | some n => some ⟨.poisonRead, BitVec.ofNat 32 n, 0⟩
  | none => none

/-- Whether the context checks early reads (R32 flag [1], R109). -/
def checksStalls (l : Lane) : Bool := match ctx? l.s l.tm.ctx with | some c => c.flags.getLsbD 1 | none => false

/-- An unwritten result of the same clause and flock. -/
def early (l : Lane) (ds : List Due) (r : Reg) : Bool := ds.any fun d => d.reg == r && d.fid == l.fid && !d.marked

/-- Step 7, second: an early read under the checking scoreboard (R109).  R109 gives no class code for a base register:
its value in `%tval.lo` is free. DESIGN CHOICE: log entry 16. -/
def earlyTrap (l : Lane) (u : Uses) : Option Trap :=
  if !checksStalls l then none
  else match (spanRegs u.rv).find? (fun n => early l l.th.due (.v n)) with
    | some n => some ⟨.stallShort, BitVec.ofNat 32 n, 0⟩
    | none => match u.rp.find? (fun n => early l l.th.due (.p n)) with
      | some n => some ⟨.stallShort, BitVec.ofNat 32 (256 + n), 0⟩
      | none => match u.rs.find? (fun n => early l l.g.sdue (.s n)) with
        | some n => some ⟨.stallShort, BitVec.ofNat 32 (512 + n), 0⟩
        | none => match u.rb.find? (fun n => early l l.tm.bdue (.b n)) with
          | some n => some ⟨.stallShort, Config.freeWord n, 0⟩
          | none => none

/-- The trap of a lane's own registers in steps 5 to 7: bounds, privilege and poison. -/
def ownTrap (l : Lane) (u : Uses) : Option Trap := (boundsTrap l u).or ((privTrap l u).or (poisonTrap l u))

/-- The trap of steps 5 to 7 that a lane takes before the instruction's own conditions. -/
def operandTrap (l : Lane) (u : Uses) : Option Trap := (ownTrap l u).or (earlyTrap l u)

end Sys2Proof.Machine
end

