-- ==== Sys2Proof/Machine/Issue.lean ====
section
/-! DEFINITION. Fetching, the headers of clauses, and the issue of one instruction to the flock of a slot: the order of checks of
R290, the stalls of R107 and R108, guards (R284) and the end of a clause (R93). -/

namespace Sys2Proof.Machine

/-! ### Fetch (R136, R276, R278) -/

/-- Who looks a translation up: a core, or a unit of a die (R145). -/
inductive TransAt where
  | core (n : Nat) | die (n : Nat)
  deriving DecidableEq, Repr

/-- The die whose shared translations and walkers serve a unit. -/
def TransAt.dieNo (p : TransAt) : Nat := match p with | .core n => dieOf n | .die n => n

/-- A cached translation is one of the unit's own. -/
def Tlb.isAt (e : Tlb) (p : TransAt) : Bool := match p with | .core n => e.core == some n | .die n => e.core.isNone && e.die == n

/-- A cached translation covers a virtual address of a context. -/
def Tlb.covers (e : Tlb) (ctx va : Nat) : Bool := e.ctx == ctx && e.page == va / 2 ^ e.sz

/-- The cached translation of a virtual address for a context: of the core, else of its die (R143, R145). -/
def cached (s : State) (p : TransAt) (ctx va : Nat) : Option Tlb :=
  (s.tlb.find? fun e => e.isAt p && e.covers ctx va).or (s.tlb.find? fun e => e.isAt (.die p.dieNo) && e.covers ctx va)

/-- Physical address of a virtual address under a cached translation. -/
def Tlb.addr (e : Tlb) (va : Nat) : Nat := e.pa + va % 2 ^ e.sz

/-- Region of an address (R138). -/
def regionNo (va : Nat) : Nat := va / 2 ^ 76

/-- A frame is scrub-pending at an address (R65). -/
def scrubPending (s : State) (pa : Nat) : Bool :=
  s.frames.queue.any fun r => r.base / 65536 ≤ pa / 65536 && pa / 65536 * 65536 < r.base + r.size

/-- The frame of an address may serve a context: it is not scrub-pending, and a pavilion's context reaches only frames of its sealed list
(R58, R65). -/
def frameServes (s : State) (ctx pa : Nat) : Bool :=
  !scrubPending s pa && (match ctx? s ctx with
    | some c => c.pav == 0 || (match pav? s c.pav with | some p => p.frames.any (fun f => f.1 == pa / 65536) | none => false)
    | none => true)

/-- A cached translation still serves an address of its context: the frame checks of R58 and R65 hold at every use. -/
def Tlb.serves (e : Tlb) (s : State) (va : Nat) : Bool := regionNo va ≠ 0 || frameServes s e.ctx (e.addr va)

/-- Physical address of a code offset, when its page is cached with X (R136). -/
def codePa (s : State) (tm : Team) (off : Word) : Option Nat :=
  let va := (tm.b.getD 14 0).toNat + off.toNat
  if regionNo va ≠ 0 then none
  else match cached s (.core tm.core) tm.ctx va with
    | some e => if e.x && e.serves s va then some (e.addr va) else none
    | none => none

/-- The code word at an offset, when it can be fetched: from the committed line as it stands at its home slice (R136). -/
def fetchWord (s : State) (team : Nat) (off : Word) : Option Word :=
  match team? s team with
  | none => none
  | some tm => (codePa s tm off).map fun pa => BitVec.ofNat 32 (leNat (seen s (ctxPav s tm.ctx) 0 pa 4))

/-! ### WAIT conditions (R105) -/

/-- An access that counts under WAIT S until it has a completion time or, for a fence, finishes (R334, R346). -/
def Access.isStoreLike (a : Access) : Bool :=
  match a.op with
  | .store | .atomic _ _ | .pen _ => a.c.isNone
  | .fence _ code => !code
  | _ => false

def waitL (g : Group) (th : Thread) : Bool := !(th.pend.any fun p => p.why == .load) && g.spend.isEmpty
def waitS (th : Thread) : Bool := !(th.queue.any Access.isStoreLike) && th.storesOut.isEmpty
def waitE (th : Thread) : Bool := !(th.pend.any fun p => p.why == .engine)
def waitX (th : Thread) : Bool := !(th.pend.any fun p => p.why == .sfu) && !(th.due.any fun d => d.coll)

/-- The WAIT conditions of a header hold for a thread. -/
def waitHolds (h : Word) (g : Group) (th : Thread) : Bool :=
  (!h.getLsbD 13 || waitL g th) && (!h.getLsbD 14 || waitS th) && (!h.getLsbD 15 || waitE th) && (!h.getLsbD 16 || waitX th)

/-! ### Ready threads (R92) -/

/-- A thread may issue: resident, not under pre-emption outside its routine, not waiting, not taken by a rollback. -/
def canRun (s : State) (tm : Team) (th : Thread) : Bool :=
  th.life == .live && th.wait.isNone && th.status.isNone && !tm.discarded &&
  (match tm.family with | some f => (match family? s f with | some x => x.state ≠ .wounded | none => true) | none => true) &&
  (match tm.state with | .resident => true | .preempting => inRoutine th .exit | _ => false)

/-- The header that governs a thread's next issue: of its cut clause, or the one it stands at. -/
def governing (s : State) (team : Nat) (th : Thread) : Option Word :=
  if th.pc.inside then some th.pc.hword else fetchWord s team th.pc.off

/-- A thread is ready (R92). -/
def isReady (s : State) (t : Tid) : Bool :=
  match team? s t.team with
  | none => false
  | some tm => match tm.groups[t.group]? with
    | none => false
    | some g => match g.threads[t.lane]? with
      | none => false
      | some th => canRun s tm th && (match governing s t.team th with | some h => isHeader h && headerLegal h && waitHolds h g th | none => false)

/-- The check of a header that a thread's PC reaches (R278): a word of another OP, or an illegal field; at the entry of a role or
routine a word of another OP is BAD_TARGET. DEDUCED: log entry 79. -/
def headerTrap (s : State) (t : Tid) : Option Trap :=
  match thread? s t with
  | none => none
  | some th =>
    if th.pc.inside then none
    else match fetchWord s t.team th.pc.off with
      | none => none
      | some w =>
        if th.pc.entry && !isHeader w then some ⟨.badTarget, th.pc.off, 0⟩
        else if isHeader w && headerLegal w then none else some ⟨.illegalHeader, w, 0⟩

/-- The threads of a list that reach a bad header trap; the others remain. -/
def reachHeaders (s : State) (l : List Tid) : State :=
  takeTraps s (l.filterMap fun t => (headerTrap s t).map fun tr => (t, tr))

/-- A thread enters the clause it stands at: its results of earlier clauses that are not written yet hold every read from here on (R108). -/
def enterClause (s : State) (t : Tid) : State :=
  match thread? s t with
  | none => s
  | some th =>
    if th.pc.inside then s
    else match fetchWord s t.team th.pc.off with
      | none => s
      | some w => modThread s t fun th =>
          { th with due := th.due.map (fun d => { d with marked := true })
                    pc := { off := th.pc.off + 4, inside := true, hdr := th.pc.off, hword := w, guardLeft := 0, guardOk := true, guardPred := 0, guardNeg := false, entry := false } }

/-- A thread begins to wait and leaves its flock (R92). DEDUCED: log entry 12. -/
def startWait (s : State) (t : Tid) (w : Wait) : State := modThread (leaveFlock s t) t fun th => { th with wait := some w }

/-! ### Progress (R96) -/

/-- A progress event of a context: its watchdog window restarts (R96). -/
def progress (s : State) (ctx : Nat) : State := modCtx s ctx fun c => { c with idle := 0, noticed := false }

/-- A progress event of a team's context. -/
def teamProgress (s : State) (team : Nat) : State := match team? s team with | some tm => progress s tm.ctx | none => s

/-- A slot whose flock is due to issue. -/
def slotDue (s : State) (sl : Slot) : Bool := !sl.flock.isEmpty && sl.due ≤ coreCycle s sl.core

/-! ### The end of a clause (R93, R108) -/

/-- Results of a flock not yet written are marked pending at the clause's end (R108). -/
def markDues (fid : Nat) (l : List Due) : List Due := updWhere (fun d => d.fid == fid) (fun d => { d with marked := true }) l

def markFlock (s : State) (team fid : Nat) : State :=
  modTeam s team fun t =>
    { t with bdue := markDues fid t.bdue
             groups := t.groups.map fun g =>
               { g with sdue := markDues fid g.sdue, threads := g.threads.map fun th => { th with due := markDues fid th.due } } }

/-- A thread that performed sleeptk in the clause becomes waiting if one of its registers is still pending (R292). -/
def takeNap (s : State) (t : Tid) : State :=
  match thread? s t with
  | none => s
  | some th =>
    if th.nap.isEmpty then s
    else
      let s := modThread s t fun th => { th with nap := [] }
      if th.nap.any (fun r => pendingReg th (.v r)) then startWait s t (.sleeptk th.nap) else s

/-- The flock of a slot at the end of its clause: it keeps the slot, without its threads that are not ready, or dissolves. -/
def endClause (s : State) (key : Nat) (hword : Word) : State :=
  match slot? s key with
  | none => s
  | some sl =>
    match sl.flock with
    | [] => s
    | t0 :: _ =>
      let s := markFlock s t0.team sl.fid
      let s := sl.flock.foldl takeNap s
      let fl := (match slot? s key with | some x => x.flock | none => [])
      let s := reachHeaders s fl
      let fl := (match slot? s key with | some x => x.flock | none => [])
      let y := (hword.extractLsb' 10 2).toNat
      let pcs := fl.map fun t => (thread? s t).map (·.pc.off)
      let same := match pcs with | [] => false | p :: l => l.all (· == p)
      if !hword.getLsbD 12 && y == 0 && !sl.yielded && same then
        let fl' := fl.filter (isReady s)
        let s := modSlot s key fun x => { x with flock := fl', lastClass := none, yielded := false }
        fl'.foldl enterClause s
      else modSlot s key fun x => { x with flock := [], lastClass := none, yielded := false, low := if sl.yielded || 2 ≤ y then dedup (fl.filterMap fun t => (thread? s t).map fun th => (t.team, th.pc.off)) else [] }

/-! ### Issue -/

/-- A thread that stays in its flock goes on to the next word, or takes its transfer at the clause's end. -/
def advance (th : Thread) : Thread :=
  if wordsLeft th.pc ≤ 1 then { th with pc := Pc.at (th.jump.getD (nextHeader th.pc)), jump := none }
  else { th with pc := Pc.next th.pc }

/-- A lane violates its exit routine, before the instruction has any effect (R175, R176). -/
def violate (s : State) (t : Tid) (word : Word) : State :=
  match thread? s t with
  | none => s
  | some th =>
    let (_, s) := writeFault s (threadFault s t Cause.routineViolation.code th.pc.off 0 (word.setWidth 64))
    endRoutine s t .violation

/-- A lane meets a form that routines forbid: VIOLATION in an exit routine, ILLEGAL_OP in an entry routine (R175, R187). -/
def banned (s : State) (t : Tid) (word : Word) : Option State :=
  match thread? s t with
  | none => none
  | some th =>
    if inRoutine th .exit then some (violate s t word)
    else if inRoutine th .entry && !handlerOut th then some (takeTrap s t (openTrap s t .illegalOp))
    else none

/-- The lanes that meet no failing check, and the state after the failures of the others. -/
def passing (f : State → Tid → Option State) : List Tid → State → List Tid × State
  | [], s => ([], s)
  | t :: l, s =>
    match f s t with
    | some s' => passing f l s'
    | none => let r := passing f l s; (t :: r.1, r.2)

/-- Bounds, privilege and poison for one lane: the state after its trap, if it traps. -/
def operandCheck (fid : Nat) (word : Word) (u : Uses) (s : State) (t : Tid) : Option State :=
  match lane? s t fid word with
  | none => none
  | some l => (ownTrap l u).map fun tr => takeTrap s t tr

/-- The early read of a lane under the checking scoreboard (R109). -/
def earlyOf (fid : Nat) (word : Word) (u : Uses) (s : State) (t : Tid) : Option Trap := (lane? s t fid word).bind fun l => earlyTrap l u

/-- Groups that have an admitted lane of the flock, with their lowest admitted lane (R122, R348). -/
def groupLeaders (l : List Tid) : List Tid :=
  (dedup (l.map fun t => t.group)).filterMap fun g => minBy (fun (t : Tid) => t.lane) (l.filter fun t => t.group == g)

/-- The lanes that make the checks of an instruction. -/
def checkers (u : Uses) (l : List Tid) : List Tid :=
  if u.lead == 0 then l else if u.lead == 1 then groupLeaders l else (minBy (fun (t : Tid) => t.lane) l).toList

/-- The lanes for which an instruction is performed when only the lanes `ok` passed its checks. -/
def performers (u : Uses) (ok l : List Tid) : List Tid :=
  if u.lead == 0 then ok else if u.lead == 1 then l.filter (fun t => ok.any fun x => x.group == t.group) else if ok.isEmpty then [] else l

/-- The checks of all admitted lanes: the routine rule of R175 and R187 first, then steps 5 to 7; the lanes for which the
instruction is performed, and the state after the traps of the others.  An early read of one lane keeps the instruction from issuing:
STALL_SHORT is the trap of every lane that is left (R109). -/
def preChecks (fid : Nat) (word : Word) (u : Uses) (adm : List Tid) (s : State) : List Tid × State :=
  let b := passing (fun s t => if u.ban then banned s t word else none) adm s
  let r := passing (operandCheck fid word u) (checkers u b.1) b.2
  let l := performers u r.1 b.1
  match r.1.findSome? (earlyOf fid word u r.2) with
  | some tr => ([], takeTraps r.2 (l.map fun t => (t, (earlyOf fid word u r.2 t).getD tr)))
  | none => (l, r.2)

/-- Lanes that owe a trap at this boundary take it (R149, R377). -/
def takeOwed (s : State) (l : List Tid) : State :=
  l.foldl (fun s t => match (thread? s t).bind (·.owed) with
    | some tr => takeTrap (modThread s t fun th => { th with owed := none }) t tr
    | none => s) s

/-- The static traps of R290 steps 3 and 4 for a word at a position. -/
def staticTrap (p : Pc) (word : Word) (u : Uses) : Option Trap :=
  if (match u.cls with | some c => hdrClass p.hword ≠ 6 && hdrClass p.hword ≠ c | none => false) then some ⟨.classMismatch, word, 0⟩
  else if (u.last && wordsLeft p ≠ 1) || (u.sel && p.guardLeft == 0) || u.bad then some ⟨.illegalOp, word, 0⟩
  else none

/-- The rotation that a class change costs in a MIXED clause (R279). -/
def rotates (p : Pc) (sl : Slot) (u : Uses) : Bool :=
  hdrClass p.hword == 6 && !sl.paid && (match u.cls, sl.lastClass with | some c, some d => c ≠ d | _, _ => false)

/-- The lanes of a flock for which the instruction is performed (R284). -/
def admitted (s : State) (u : Uses) (l : List Tid) : List Tid :=
  l.filter fun t => u.sel || (match thread? s t with | some th => th.pc.guardOk | none => false)

/-- After the effect: the lanes still in the flock advance, the slot's next issue is set, and the clause ends after its last word. -/
def retire (key : Nat) (p : Pc) (st : BitVec 2) (u : Uses) (n : Nat) (s : State) : State :=
  match slot? s key with
  | none => s
  | some sl =>
    let s := sl.flock.foldl (fun s t => modThread s t advance) s
    let s := modSlot s key fun x =>
      { x with due := x.due + 4 * (1 + st.toNat), paid := false, stalled := false
               lastClass := match u.cls with | some c => some c | none => x.lastClass }
    let s := match sl.flock with | t :: _ => bump (bump s t.team 0 n) t.team 1 1 | [] => s
    if wordsLeft p ≤ 1 then endClause s key p.hword else s

/-- A family of a team has been wounded. -/
def teamWounded (s : State) (team : Nat) : Bool :=
  match (team? s team).bind (·.family) with
  | some f => (match family? s f with | some x => x.state == .wounded | none => false)
  | none => false

/-- The slot stalls with its flock for one turn (R108); a stalled flock of a wounded family is taken (R204). -/
def stallSlot (s : State) (key team : Nat) : State :=
  bump (modSlot s key fun x => { x with due := x.due + 4, stalled := true, flock := if teamWounded s team then [] else x.flock }) team 2 1

/-- Issue one instruction, of word `word`, to the flock of the present slot.  `hold` says that a lane's instruction does not issue yet for a
reason of its own; `eff` is the effect on the lanes that passed every check, with the traps of the instruction's own description. -/
def issueHold (word : Word) (st : BitVec 2) (u : Uses) (hold : Lane → Bool) (eff : Slot → List Tid → State → State) (s : State) : State :=
  match curSlot s with
  | none => s
  | some sl0 =>
    match sl0.flock with
    | [] => s
    | t0 :: _ =>
      let s := takeOwed (settleTeam s t0.team) sl0.flock
      match slot? s sl0.key with
      | none => s
      | some sl =>
        match sl.flock with
        | [] => s
        | t1 :: _ =>
          match thread? s t1 with
          | none => s
          | some th1 =>
            let p := th1.pc
            match staticTrap p word u with
            | some tr => takeTraps s (sl.flock.map fun t => (t, tr))
            | none =>
              if rotates p sl u then modSlot s sl.key fun x => { x with due := x.due + 4, paid := true }
              else
                let adm := admitted s u sl.flock
                if adm.any (fun t => match lane? s t sl.fid word with | some l => stalls l u | none => false) ||
                    (checkers u adm).any (fun t => match lane? s t sl.fid word with | some l => hold l | none => false) then
                  stallSlot s sl.key t1.team
                else
                  let r := preChecks sl.fid word u adm s
                  let s := eff sl r.1 r.2
                  let s := teamProgress s t1.team
                  retire sl.key p st u r.1.length s

/-- Issue with no reason of its own to hold. -/
def issue (word : Word) (st : BitVec 2) (u : Uses) (eff : Slot → List Tid → State → State) (s : State) : State :=
  issueHold word st u (fun _ => false) eff s

/-! ### Effects of register instructions -/

/-- The writes of a lane, or its trap. -/
abbrev LaneRes := Except Trap (List (Reg × BitVec 80))

/-- Schedule a lane's writes at issue + `lat` (R106). -/
def writeLane (s : State) (core fid lat : Nat) (t : Tid) (ws : List (Reg × BitVec 80)) : State :=
  modThread s t fun th => { th with due := th.due ++ ws.map fun x => mkDue s core fid lat x.1 x.2 }

/-- The effect of a register instruction: each lane computes on its own registers. -/
def laneEffect (lat : Nat) (word : Word) (f : Lane → LaneRes) (sl : Slot) (l : List Tid) (s : State) : State :=
  l.foldl (fun s t =>
    match lane? s t sl.fid word with
    | none => s
    | some ln => match f ln with
      | .ok ws => writeLane s sl.core sl.fid lat t ws
      | .error tr => takeTrap s t tr) s

/-- Issue a register instruction of latency `lat` (R106). -/
def laneOp (word : Word) (st : BitVec 2) (u : Uses) (lat : Nat) (f : Lane → LaneRes) (s : State) : State :=
  issue word st u (laneEffect lat word f) s

/-- One vector result. -/
def resV (d : Nat) (x : Word) : LaneRes := .ok [(.v d, x.setWidth 80)]

/-- A pair result, low word first. -/
def resV64 (d : Nat) (x : BitVec 64) : LaneRes := .ok [(.v d, (x.setWidth 32).setWidth 80), (.v (d + 1), ((x >>> 32).setWidth 32).setWidth 80)]

/-- One predicate result. -/
def resP (d : Nat) (x : Bool) : LaneRes := .ok [(.p d, if x then 1 else 0)]

/-- ILLEGAL_OP with the instruction word (R282). -/
def illegal (l : Lane) : LaneRes := .error ⟨.illegalOp, l.word, 0⟩

/-- Schedule a scalar write of a group at issue + 4 (R122). -/
def writeS (s : State) (core fid : Nat) (team g n : Nat) (x : Word) : State :=
  modGroup s team g fun gr => { gr with sdue := gr.sdue ++ [mkDue s core fid 4 (.s n) (x.setWidth 80)] }

/-- Schedule a base write of a team at issue + 4 (R122). -/
def writeB (s : State) (core fid : Nat) (team n : Nat) (x : VAddr) : State :=
  modTeam s team fun t => { t with bdue := t.bdue ++ [mkDue s core fid 4 (.b n) x] }

/-- Run `f` once for each group with an admitted lane, on its lowest admitted lane (R348). -/
def perGroup (f : Lane → State → State) (word : Word) (sl : Slot) (l : List Tid) (s : State) : State :=
  (groupLeaders l).foldl (fun s t => match lane? s t sl.fid word with | some ln => f ln s | none => s) s

/-- Run `f` for each lane in ascending lane order of the flock. -/
def perLane (f : Lane → State → State) (word : Word) (sl : Slot) (l : List Tid) (s : State) : State :=
  (sortBy (fun (t : Tid) => t.lane) l).foldl (fun s t => match lane? s t sl.fid word with | some ln => f ln s | none => s) s

/-- Run `f` once for the team of the flock, on its lowest admitted lane (R314, R394). -/
def perTeam (f : Lane → State → State) (word : Word) (sl : Slot) (l : List Tid) (s : State) : State :=
  match minBy (fun (t : Tid) => t.lane) l with
  | none => s
  | some t => match lane? s t sl.fid word with | some ln => f ln s | none => s

end Sys2Proof.Machine
end

