-- ==== Sys2Proof/Machine/Translate.lean ====
section
/-! DEFINITION. Address formation and translation: page walks through both stages, the checks of the final access, the cached
translations and the fault records of a failed translation (R132, R137 to R151). -/

namespace Sys2Proof.Machine

/-! ### Regions (R138, R139) -/

/-- A base plus an offset, or `none` where the sum leaves its region or bit 80 is set, or the address names no region (R138, R139). -/
def formAddr (base off : Nat) : Option Nat :=
  let sum := base + off
  if 2 ^ 80 ≤ sum || regionNo sum ≠ regionNo base || 3 ≤ regionNo sum then none
  else if regionNo sum == 2 && (sum / 2 ^ 64) % 4096 ≠ 0 then none
  else some sum

/-- Space of a global address: home slice, peer named by bits [75:66], or host (R139). -/
def spaceOf (va : Nat) : Space := if regionNo va == 0 then .home else if regionNo va == 1 then .peer (va / 2 ^ 66 % 1024) else .host

/-! ### Walks (R140 to R143, R145) -/

/-- A leaf: its frame, log2 of its size, permissions and lease class (R141). -/
structure Leaf where
  addr : Nat
  sz : Nat
  w : Bool
  x : Bool
  lease : Nat
  deriving DecidableEq, Repr

/-- A translation fault: reason, level, whether it is a stage-2 fault, whether during a stage-1 walk, and the IPA (R150, R151). -/
structure TFault where
  reason : Nat
  level : Nat
  stage2 : Bool
  during : Bool
  ipa : Nat
  deriving DecidableEq, Repr

/-- log2 of the bytes that an entry of a level maps (R140). -/
def levelShift (level : Nat) : Nat := 16 + 13 * (level - 1)

/-- Index of an address in a level's table: 13 bits, but for the root ranges of R140. -/
def levelIndex (level addr : Nat) : Nat := addr / 2 ^ levelShift level % 8192

/-- Bit field of an entry. DEDUCED: log entry 27. -/
def ent (e : BitVec 64) (lo n : Nat) : Nat := e.toNat / 2 ^ lo % 2 ^ n

/-- A valid entry is malformed (R142). -/
def malformed (level : Nat) (e : BitVec 64) : Bool :=
  let t := ent e 1 1
  let size := ent e 56 2
  let addr := ent e 16 36
  ent e 58 3 ≠ 0 || ent e 52 4 ≠ 0 || ent e 4 12 ≠ 0 || size == 3 ||
  (t == 1 && (level == 1 || size ≠ 0)) ||
  (t == 0 && (3 ≤ level || (level == 2 && size ≠ 2) || (level == 1 && size == 2))) ||
  (t == 0 && ((size == 1 && addr % 512 ≠ 0) || (size == 2 && addr % 262144 ≠ 0)))

/-- The leaf of an entry (R141). -/
def leafOf (e : BitVec 64) : Leaf :=
  ⟨ent e 16 36 * 65536, if ent e 56 2 == 0 then 16 else if ent e 56 2 == 1 then 25 else 34, ent e 2 1 == 1, ent e 3 1 == 1, ent e 61 3⟩

/-- Key of a walk-cache entry: the address bits down to its level. -/
def walkKey (level addr : Nat) : Nat := addr / 2 ^ levelShift level

/-- A walk-cache entry, unless the walk is fresh. -/
def walkCached (s : State) (fresh : Bool) (die ctx stage level addr : Nat) : Option (BitVec 64) :=
  if fresh then none
  else (s.walkCache.find? fun w => w.die == die && w.ctx == ctx && w.stage == stage && w.level == level && w.index == walkKey level addr).map (·.entry)

/-- The result of a walk, with the entries it read that the walk cache keeps. -/
abbrev WalkRes (α : Type) := Except TFault α × List WalkEntry

/-- Whether the walk cache keeps a stage's entries of a level (R145). -/
def keepsLevel (level : Nat) : Bool := 2 ≤ level

/-- The fault of a walk that would read a table line in a scrub-pending granule: reason 6 (R65, R150). DEDUCED: log entry 27. -/
def pendingTable : Nat := 6

/-- Stage 2 from a level's table down; `fault` builds the fault of a bad entry. -/
def walk2From (s : State) (fresh : Bool) (die ctx : Nat) (fault : Nat → TFault) (ipa : Nat) : Nat → Nat → WalkRes Leaf
  | 0, _ => (.error (fault 3), [])
  | n + 1, table =>
    let kept := walkCached s fresh die ctx 2 (n + 1) ipa
    let pa := table + 8 * levelIndex (n + 1) ipa
    let e := kept.getD (BitVec.ofNat 64 (homeLe s pa 8))
    if kept.isNone && scrubPending s pa then (.error (fault pendingTable), [])
    else if ent e 0 1 == 0 then (.error (fault 0), [])
    else if malformed (n + 1) e then (.error (fault 3), [])
    else
      let keep := if keepsLevel (n + 1) then [WalkEntry.mk die ctx 2 (n + 1) (walkKey (n + 1) ipa) e] else []
      if ent e 1 1 == 1 then
        let r := walk2From s fresh die ctx fault ipa n (ent e 16 36 * 65536)
        (r.1, keep ++ r.2)
      else (.ok (leafOf e), keep)

/-- Stage 2 of an IPA, from the stage-2 root at level 3 (R140). -/
def walk2 (s : State) (fresh : Bool) (die : Nat) (c : Context) (fault : Nat → TFault) (ipa : Nat) : WalkRes Leaf :=
  walk2From s fresh die c.id fault ipa 3 c.root2

/-- The context has stage 2 enabled (R32 flag [3]). -/
def hasStage2 (c : Context) : Bool := c.flags.getLsbD 3

/-- The physical address of a stage-1 table entry at an IPA (R140, R151). DEDUCED: log entry 27. -/
def tablePa (s : State) (fresh : Bool) (die : Nat) (c : Context) (level ipa : Nat) : WalkRes Nat :=
  if hasStage2 c then
    let r := walk2 s fresh die c (fun k => ⟨k, level, true, true, ipa / 64 * 64⟩) ipa
    (r.1.map fun l => l.addr + ipa % 2 ^ l.sz, r.2)
  else (.ok ipa, [])

/-- Stage 1 from a level's table down. -/
def walk1From (s : State) (fresh : Bool) (die : Nat) (c : Context) (va : Nat) : Nat → Nat → WalkRes Leaf
  | 0, _ => (.error ⟨3, 0, false, false, 0⟩, [])
  | n + 1, table =>
    let got : WalkRes (BitVec 64) := match walkCached s fresh die c.id 1 (n + 1) va with
      | some e => (.ok e, [])
      | none =>
        let ipa := table + 8 * levelIndex (n + 1) va
        let r := tablePa s fresh die c (n + 1) ipa
        match r.1 with
        | .error f => (.error f, r.2)
        | .ok pa =>
          if scrubPending s pa then (.error ⟨pendingTable, n + 1, true, true, ipa / 64 * 64⟩, r.2) else (.ok (BitVec.ofNat 64 (homeLe s pa 8)), r.2)
    match got.1 with
    | .error f => (.error f, got.2)
    | .ok e =>
      if ent e 0 1 == 0 then (.error ⟨0, n + 1, false, false, 0⟩, got.2)
      else if malformed (n + 1) e then (.error ⟨3, n + 1, false, false, 0⟩, got.2)
      else
        let keep := got.2 ++ (if keepsLevel (n + 1) then [WalkEntry.mk die c.id 1 (n + 1) (walkKey (n + 1) va) e] else [])
        if ent e 1 1 == 1 then
          let r := walk1From s fresh die c va n (ent e 16 36 * 65536)
          (r.1, keep ++ r.2)
        else (.ok (leafOf e), keep)

/-- A whole translation: both leaves and the addresses (R144). -/
structure Trans where
  l1 : Leaf
  l2 : Option Leaf
  ipa : Nat
  pa : Nat
  deriving DecidableEq, Repr

def Trans.w (t : Trans) : Bool := t.l1.w && (match t.l2 with | some l => l.w | none => true)
def Trans.x (t : Trans) : Bool := t.l1.x && (match t.l2 with | some l => l.x | none => true)
/-- log2 of the range in which the translation is one offset. -/
def Trans.sz (t : Trans) : Nat := match t.l2 with | some l => min t.l1.sz l.sz | none => t.l1.sz
/-- Effective lease class (R144). -/
def Trans.lease (t : Trans) : Nat :=
  match t.l2 with
  | some l => if t.l1.lease == 0 || l.lease == 0 then 0 else min t.l1.lease l.lease
  | none => t.l1.lease

/-- Both stages of a virtual address. -/
def walk (s : State) (fresh : Bool) (die : Nat) (c : Context) (va : Nat) : WalkRes Trans :=
  let r1 := walk1From s fresh die c va 5 c.root1
  match r1.1 with
  | .error f => (.error f, r1.2)
  | .ok l1 =>
    let ipa := l1.addr + va % 2 ^ l1.sz
    if hasStage2 c then
      let r2 := walk2 s fresh die c (fun k => ⟨k, 0, true, false, ipa / 64 * 64⟩) ipa
      (r2.1.map fun l2 => ⟨l1, some l2, ipa, l2.addr + ipa % 2 ^ l2.sz⟩, r1.2 ++ r2.2)
    else (.ok ⟨l1, none, ipa, ipa⟩, r1.2)

/-! ### Checks of the final access (R50, R58, R65, R137, R150) -/

/-- A physical address outside device memory or in a hole (R137). -/
def paHole (pa : Nat) : Bool := 2 ^ 39 ≤ pa || 24576 ≤ pa / 2 ^ 24 % 32768

/-- Owned resources of a partition; none for an undefined one. -/
def ownOf (s : State) (part : Nat) : Resources := match part? s part with | some p => p.own | none => Resources.empty

/-- The first failing frame check of a region-0 access, in the order 8, 5, 7, 6 (R150): a frame of 64 KiB lies on one channel, a
larger one on all. DEDUCED: log entry 20. -/
def frameReason (s : State) (c : Context) (t : Trans) : Option Nat :=
  let own := (ownOf s c.part).channels
  let sz := match t.l2 with | some l => l.sz | none => t.l1.sz
  if paHole t.pa then some 8
  else if (if sz == 16 then !own.contains (t.pa / 65536 % 256) else !(upto 256).all own.contains) then some 5
  else if c.pav ≠ 0 && !(match pav? s c.pav with | some p => p.frames.any (fun f => f.1 == t.pa / 65536) | none => false) then some 7
  else if scrubPending s t.pa then some 6
  else none

/-- Access kinds of DETAIL [9:8] (R150). -/
def kindRead : Nat := 0
def kindWrite : Nat := 1
def kindAtomic : Nat := 2
def kindFetch : Nat := 3

/-- A permission fault of reason 1 or 2: the stage whose leaf refuses, and stage 1 when both do. DEDUCED: log entry 20. -/
def permFault (t : Trans) (kind : Nat) : Option TFault :=
  let ok := fun (l : Leaf) => if kind == kindFetch then l.x else if kind == kindRead then true else l.w
  let r := if kind == kindFetch then 2 else 1
  if !ok t.l1 then some ⟨r, 0, false, false, t.ipa / 64 * 64⟩
  else match t.l2 with
    | some l => if ok l then none else some ⟨r, 0, true, false, t.ipa / 64 * 64⟩
    | none => none

/-- The fault of the final access: permissions, then for region 0 the frame. -/
def finalFault (s : State) (c : Context) (va : Nat) (kind : Nat) (t : Trans) : Option TFault :=
  match permFault t kind with
  | some f => some f
  | none => if regionNo va == 0 then (frameReason s c t).map fun r => ⟨r, 0, true, false, t.ipa / 64 * 64⟩ else none

/-- A fresh or cached walk with the checks of the final access. DEDUCED: log entry 20. -/
def translate (s : State) (fresh : Bool) (die : Nat) (c : Context) (va kind : Nat) : WalkRes Trans :=
  let r := walk s fresh die c va
  match r.1 with
  | .error f => (.error f, r.2)
  | .ok t => match finalFault s c va kind t with
    | some f => (.error f, r.2)
    | none => (.ok t, r.2)

/-- The first `n` entries of a list that satisfy `p`, with every entry that does not. -/
def keepFirst {α : Type} (p : α → Bool) : Nat → List α → List α
  | _, [] => []
  | n, a :: l => if p a then (match n with | 0 => keepFirst p 0 l | m + 1 => a :: keepFirst p m l) else a :: keepFirst p n l

/-- Keep the entries that a walk read: a die holds 4,096, and the one kept longest ago goes (R145). DESIGN CHOICE: log entry 88. -/
def keepWalk (s : State) (l : List WalkEntry) : State :=
  l.foldl (fun s w =>
    let rest := s.walkCache.filter fun x => !(x.die == w.die && x.ctx == w.ctx && x.stage == w.stage && x.level == w.level && x.index == w.index)
    { s with walkCache := keepFirst (fun x => x.die == w.die) 4096 (w :: rest) }) s

/-- Enter a translation among a unit's own, in place of those of the same address: a core holds 256 and a die 8,192, and the one entered
longest ago goes (R145). DESIGN CHOICE: log entry 88. -/
def enterTrans (s : State) (p : TransAt) (va : Nat) (e : Tlb) : State :=
  let room := match p with | .core _ => 256 | .die _ => 8192
  let mine : Tlb := match p with | .core n => { e with core := some n, die := dieOf n } | .die n => { e with core := none, die := n }
  { s with tlb := keepFirst (fun x => x.isAt p) room (mine :: s.tlb.filter (fun x => !(x.isAt p && x.covers e.ctx va))) }

/-- Cache a translation for the unit that asked and for its die (R145). DEDUCED: log entry 11. -/
def keepTrans (s : State) (p : TransAt) (ctx va : Nat) (t : Trans) : State :=
  let e : Tlb := ⟨0, none, ctx, t.sz, va / 2 ^ t.sz, t.ipa - t.ipa % 2 ^ t.sz, t.pa - t.pa % 2 ^ t.sz, t.w, t.x, t.lease⟩
  let s := enterTrans s (.die p.dieNo) va e
  match p with | .core _ => enterTrans s p va e | .die _ => s

/-- Whether a cached translation permits an access kind. -/
def Tlb.permits (e : Tlb) (kind : Nat) : Bool := if kind == kindFetch then e.x else if kind == kindRead then true else e.w

/-- Drop the cached translation of an address: the unit's own and its die's. -/
def dropTrans (s : State) (p : TransAt) (ctx va : Nat) : State :=
  { s with tlb := s.tlb.filter fun x => !((x.isAt p || x.isAt (.die p.dieNo)) && x.covers ctx va) }

/-- A core that uses a translation of its die enters it among its own (R145). -/
def useTrans (s : State) (p : TransAt) (va : Nat) (e : Tlb) : State := if e.isAt p then s else enterTrans s p va e

/-- One complete translation of an address: a cached one that permits the access and whose frame still passes, else a walk,
fresh when a cached one refused (R145). DEDUCED: log entry 11. -/
def translateNow (s : State) (fresh : Bool) (p : TransAt) (c : Context) (va kind : Nat) : Except TFault (Nat × Nat × Nat) × State :=
  let go := fun (fresh : Bool) (s : State) =>
    let r := translate s fresh p.dieNo c va kind
    match r.1 with
    | .ok t => ((.ok (t.ipa, t.pa, t.lease), keepTrans (keepWalk s r.2) p c.id va t) : Except TFault (Nat × Nat × Nat) × State)
    | .error f => (.error f, keepWalk s r.2)
  match (if fresh then none else cached s p c.id va) with
  | some e =>
    if e.permits kind && e.serves s va then (.ok (e.ipa + va % 2 ^ e.sz, e.addr va, e.lease), useTrans s p va e) else go true (dropTrans s p c.id va)
  | none => go fresh s

/-- The address that a translation would give now, without any effect: for the line of an untranslated access. -/
def probePa (s : State) (p : TransAt) (c : Context) (va : Nat) : Option Nat :=
  match cached s p c.id va with
  | some e => some (e.addr va)
  | none => match (walk s false p.dieNo c va).1 with | .ok t => some t.pa | .error _ => none

/-! ### Fault records of a translation (R150, R151) -/

/-- DETAIL of a translation fault. -/
def TFault.detail (f : TFault) (kind : Nat) : BitVec 64 :=
  BitVec.ofNat 64 (f.reason + 16 * f.level + (if f.during then 128 else 0) + 256 * kind)

/-- Cause of a translation fault. -/
def TFault.cause (f : TFault) : Cause := if f.stage2 then .stage2Fault else .pageFault

/-- The record of a translation fault of a thread's access. -/
def TFault.record (f : TFault) (s : State) (t : Tid) (pc : Word) (va : Nat) (kind : Nat) : FaultRec :=
  { threadFault s t f.cause.code pc (BitVec.ofNat 80 va) (f.detail kind) with stage2 := f.stage2, ipa := if f.stage2 then f.ipa else 0 }

/-! ### Home slices of addresses (R132) -/

/-- Home slice of a physical address for a partition. -/
def homeSlice (s : State) (part pa : Nat) : Nat :=
  let own := (ownOf s part).slices
  let h := (pa / 2 ^ 6 % 65536) ^^^ (pa / 2 ^ 22 % 65536) ^^^ (pa / 2 ^ 38 % 16384)
  own.getD (h % own.length) 0

end Sys2Proof.Machine
end

