-- ==== Sys2Proof/Machine/Access.lean ====
section
/-! DEFINITION. Issue queues: what holds an access or a fence there, the checks of R333 for one lane, and the joining of an access
to the queue (R148, R154 to R162, R194 to R207, R216, R224, R333 to R341). -/

namespace Sys2Proof.Machine

/-! ### Kinds of access -/

/-- The access is a load for an acquire: a reduction returns nothing and is none (R159, R160, R162). -/
def AccOp.loads (o : AccOp) : Bool :=
  match o with
  | .load _ _ | .atomic _ (some _) | .scalar _ | .penTest _ | .waitExt _ | .adecl => true
  | _ => false

/-- The access is a store for the fences (R162, R345). -/
def AccOp.stores (o : AccOp) : Bool :=
  match o with
  | .store | .atomic _ _ | .pen _ => true
  | _ => false

/-- Later accesses that a fence holds (R162); an engine start counts for both sides (R160, R166). -/
def fenceHolds (f : Fence) (o : AccOp) : Bool :=
  match o with
  | .fence _ _ => false
  | .engine _ => true
  | _ => match f with
    | .rel _ => o.stores
    | .acq => o.loads
    | .full _ | .pfenceLc | .pfenceLt => true

def Access.isFence (a : Access) : Bool := match a.op with | .fence _ _ => true | _ => false

/-- The logged entries of a thread (R148). -/
def loggedOf (th : Thread) : List Access := th.queue.filter fun a => a.logged.isSome

/-! ### Leaving the issue queue (R158, R161, R162) -/

/-- Entries of a queue before the one of a number. -/
def earlierIn (id : Nat) : List Access → List Access
  | [] => []
  | a :: l => if a.id == id then [] else a :: earlierIn id l

/-- The core whose translations serve a thread, and its context. -/
def tidAt (s : State) (t : Tid) : TransAt := match team? s t.team with | some tm => .core tm.core | none => .die 0
def tidCtx (s : State) (t : Tid) : Option Context := teamCtx s t.team

/-- Physical address of an access, or the one a translation would give now. -/
def accPa (s : State) (t : Tid) (a : Access) : Option Nat :=
  match a.pa with
  | some p => some p
  | none => match tidCtx s t with | some c => probePa s (tidAt s t) c a.va.toNat | none => none

/-- Two accesses of a thread touch the same 64-byte line: by physical line, or by virtual line when one has no translation. -/
def sameLine (s : State) (t : Tid) (a b : Access) : Bool :=
  a.space == b.space && (match accPa s t a, accPa s t b with
    | some x, some y => x / 64 == y / 64
    | _, _ => a.va.toNat / 64 == b.va.toNat / 64)

/-- An earlier access of the queue does not hold a later one (R158): a fence by its kind, an access of the same line unless it has
entered the store gate, and for external accesses every earlier external access (R161). -/
def letsPass (s : State) (t : Tid) (a b : Access) : Bool :=
  match b.op with
  | .fence f _ => !fenceHolds f a.op
  | .engine _ => true
  | _ => ((b.sent && b.op == .store && b.space == .home) || !sameLine s t a b) && !(a.ord == 7 && b.ord == 7)

/-- An access may leave its thread's issue queue (R158). DEDUCED: log entry 19. -/
def canLeave (s : State) (t : Tid) (a : Access) : Bool :=
  match thread? s t with
  | none => false
  | some th => (match team? s t.team with | some tm => !tm.discarded | none => false) && a.granted && a.logged.isNone && !a.sent && th.queue.any (fun b => b.id == a.id) &&
      (earlierIn a.id th.queue).all (letsPass s t a)

/-- The completion register of a scope. -/
def wctOf (th : Thread) (sc : Scope) : Nat :=
  match sc with | .team => th.wctTeam | .cluster => th.wctCluster | .device => th.wctDevice | .system => th.wctSystem

/-- The release conditions of a scope, with the entries before the fence (R162): nothing earlier is in the queue, but for stores
that have left for a peer or the host when the scope is narrower than system; the gate holds none of the thread's stores, for
scopes wider than team; T has reached the completion register. -/
def relReady (s : State) (t : Tid) (th : Thread) (sc : Scope) (before : List Access) : Bool :=
  before.all (fun a => a.op == .store && a.sent && (a.space == .home || sc ≠ .system)) &&
  (sc == .team || !s.gate.any (fun g => g.tid == t)) && wctOf th sc ≤ s.time

/-- No queued pop (`loads`) or push (`stores`) of a thread precedes the entry of a number: a pop counts as a scratchpad load and a push as a
scratchpad store (R291, R396). -/
def troughsDone (s : State) (t : Tid) (id : Nat) (loads stores : Bool) : Bool :=
  !s.troughs.any fun q => q.tid == t && q.tok < id && (if q.pop then loads else stores)

/-- The condition of an acquire fence (R162). DEDUCED: log entry 19. -/
def acqReady (before : List Access) : Bool := before.all fun a => !a.op.loads

/-- A fence of the queue may finish (R162). -/
def fenceReady (s : State) (t : Tid) (th : Thread) (id : Nat) (f : Fence) (before : List Access) : Bool :=
  match f with
  | .rel sc => relReady s t th sc before && troughsDone s t id false true
  | .acq => acqReady before && troughsDone s t id true false
  | .full sc => relReady s t th sc before && acqReady before && troughsDone s t id true true
  | .pfenceLc | .pfenceLt => relReady s t th .device before && troughsDone s t id false true

/-! ### Atomic sets (R194, R199) -/

/-- Little-endian field of a byte list. -/
def fieldAt (bs : List Byte) (off n : Nat) : Nat := leNat ((bs.drop off).take n)

/-- A set entry as it would be declared. DEDUCED: log entry 75. -/
def parseSet (ctx : Nat) (bs : List Byte) : SetRec :=
  ⟨ctx, fieldAt bs 24 1, fieldAt bs 0 10, fieldAt bs 16 8, fieldAt bs 25 1, fieldAt bs 26 2 % 2 == 1⟩

/-- The offset of the first failing field of a set entry; `launch` accepts an identical entry of a declared id (R195).  Base and size
are held against the granule only where its size is a legal one. -/
def setBad (sets : List SetRec) (ctx : Nat) (launch : Bool) (bs : List Byte) : Option Nat :=
  let r := parseSet ctx bs
  let mine := sets.filter fun x => x.ctx == ctx
  let g := 2 ^ r.log2
  let legal := 6 ≤ r.log2 && r.log2 ≤ 16
  let l : List (Bool × Nat) :=
    [(fieldAt bs 10 6 ≠ 0 || regionNo r.base ≠ 0 || (legal && r.base % g ≠ 0) ||
        mine.any (fun x => x.id ≠ r.id && x.base < r.base + r.size && r.base < x.base + x.size), 0),
     (r.size == 0 || (legal && (r.size % g ≠ 0 || 2 ^ 32 < r.size / g)), 0x10),
     (63 < r.id || mine.any (fun x => x.id == r.id && (!launch || x ≠ r)), 0x18),
     (!legal, 0x19), (1 < fieldAt bs 26 2, 0x1A), (fieldAt bs 28 4 ≠ 0, 0x1C)]
  (l.find? (·.1)).map (·.2)

/-- Declare a set; one already declared stays as it is. -/
def declareSet (sets : List SetRec) (r : SetRec) : List SetRec := if sets.contains r then sets else sets ++ [r]

/-- The declared set that holds an address, and the granule (R194). -/
def granuleOf (s : State) (ctx va : Nat) : Option (SetRec × Nat) :=
  (s.sets.find? fun x => x.ctx == ctx && x.base ≤ va && va < x.base + x.size).map fun x => (x, (va - x.base) / 2 ^ x.log2)

/-- The family that holds a granule. -/
def holderOf (s : State) (ctx set granule : Nat) : Option Nat :=
  (s.holds.find? fun h => h.ctx == ctx && h.set == set && h.granule == granule).map (·.family)

/-- Home of a granule among the slices of a partition: owned[(64 * i + set) mod n] (R199). -/
def granuleHome (s : State) (part set granule : Nat) : Nat :=
  let owned := sortBy (fun (n : Nat) => n) (ownOf s part).slices
  owned.getD ((64 * granule + set) % owned.length) 0

/-- Home of a held granule: the slices of its context's partition. -/
def Hold.home (s : State) (h : Hold) : Nat := granuleHome s (match ctx? s h.ctx with | some c => c.part | none => 0) h.set h.granule

/-! ### Spill cells (R216, R427) -/

/-- Size of a context's pool in cells. -/
def poolCells (c : Context) : Nat := (c.extents.map fun x => x.2 / 128).sum

/-- Whether a view has a version of a line. -/
def hasVersion (s : State) (tag line : Nat) : Bool :=
  s.versions.any fun v => v.line == line && resolveTag s s.views.length v.tag == resolveTag s s.views.length tag

/-- Lines for which stores under way in views of a context have yet to create a version: each has its cell from its issue on, with the
address that a walk gives now where its own is still to come (R216). -/
def comingCells (s : State) (ctx : Nat) : List (Nat × Nat) :=
  let q := (s.teams.filter fun t => t.ctx == ctx).flatMap fun t => (tidsOf t).flatMap fun k => match thread? s k with
    | some th => th.queue.filterMap fun a => if a.op.stores && a.space == .home && a.view ≠ 0 then (accPa s k a).map fun p => (a.view, p / 64) else none
    | none => []
  let g := s.gate.filterMap fun e => if e.view ≠ 0 && (match team? s e.tid.team with | some t => t.ctx == ctx | none => false) then some (e.view, e.pa / 64) else none
  let w := s.waiting.filterMap fun e => if e.view ≠ 0 && e.ctx == ctx then some (e.view, e.pa / 64) else none
  (dedup (q ++ g ++ w)).filter fun x => !hasVersion s x.1 x.2

/-- Cells in use: versions, versions under way, saved ranges, and the holder entries of the overflow table, four to a cell (R199, R215). -/
def usedCells (s : State) (c : Context) : Nat :=
  (s.versions.filter fun v => v.ctx == c.id).length + (comingCells s c.id).length + c.cellsUsed.length +
  ((s.holds.filter fun h => h.ctx == c.id && h.spilled).length + 3) / 4

/-- No cell is free for a store of a view to a line that has no version there (R216). -/
def noCell (s : State) (c : Context) (view pa : Nat) : Bool :=
  view ≠ 0 && !hasVersion s view (pa / 64) && !(comingCells s c.id).contains (view, pa / 64) && poolCells c ≤ usedCells s c

/-! ### Range locks (R167) -/

/-- A range meets a lock of a core's table: a load a write lock, a store any lock. -/
def lockHit (s : State) (core ctx : Nat) (scratch stores : Bool) (lo size : Nat) : Bool :=
  s.locks.any fun k => k.core == core && k.ctx == ctx && k.scratch == scratch && (k.write || stores) && lo < k.hi && k.lo < lo + size

/-! ### Scratchpad windows (R58, R128, R129) -/

/-- Banks of a core fenced for a pavilion other than `pav`. DEDUCED: log entry 22. -/
def fencedFrom (s : State) (pav core addr : Nat) : Bool :=
  s.pavilions.any fun p => p.id ≠ pav && p.cores.any fun c => c.1 == core && (BitVec.ofNat 32 c.2.2).getLsbD (addr / 8192)

/-- The team at a core position of a team's cluster-launch set; outside a set, only the team itself at its own position (R128). -/
def teamAt (s : State) (tm : Team) (p : Nat) : Option Team :=
  match tm.setIdx with
  | none => if p == tm.core % 4 then some tm else none
  | some k => s.teams.find? fun u => u.grid == tm.grid && u.setIdx == some k && u.core % 4 == p && (u.state == .resident || u.state == .preempting)

/-- The core and core address that a scratch offset of a window reaches, or the trap (R58, R129). DEDUCED: log entry 22. -/
def scratchAddr (s : State) (tm : Team) (wc : Bool) (off size : Nat) : Except Trap (Nat × Nat) :=
  let bounds : Except Trap (Nat × Nat) := .error ⟨.scratchBounds, BitVec.ofNat 32 off, 0⟩
  let pav := match ctx? s tm.ctx with | some c => c.pav | none => 0
  let o := off % 262144
  let at' := fun (u : Team) =>
    let a := u.allocBase + o
    if fencedFrom s pav u.core a then .error ⟨.protection, BitVec.ofNat 32 off, 0⟩
    else if off / 262144 ≥ (if wc then 4 else 1) || u.allocSize < o + size then bounds
    else .ok (u.core, a)
  if wc then (match teamAt s tm (off / 262144 % 4) with | some u => at' u | none => bounds) else at' tm

/-! ### The checks of R333 for one lane -/

/-- A trap with the VA and DETAIL of its record. -/
structure MemTrap where
  trap : Trap
  va : VAddr
  detail : BitVec 64

/-- A trap whose `%tval` is an address. -/
def addrTrap (c : Cause) (a : Nat) : MemTrap := ⟨⟨c, BitVec.ofNat 32 a, BitVec.ofNat 32 (a / 2 ^ 32)⟩, BitVec.ofNat 80 a, peerDetail c a⟩

/-- A trap whose `%tval.lo` is a word. -/
def wordTrap (c : Cause) (x : Nat) : MemTrap := ⟨⟨c, BitVec.ofNat 32 x, 0⟩, BitVec.ofNat 80 x, 0⟩

/-- The final fault of reason 4 (R150). -/
def regionTrap (a kind : Nat) : MemTrap := { addrTrap .pageFault a with detail := BitVec.ofNat 64 (4 + 256 * kind) }

/-- What a memory instruction asks of one lane. -/
structure Req where
  op : AccOp
  space : Space
  va : VAddr
  pa : Option Nat
  size : Nat
  ord : Nat
  data : List Byte
  view : Nat
  lease : Nat
  slot : Bool

/-- The outcome of the checks of a lane. -/
inductive Pre where
  | trap (t : MemTrap)
  /-- Deferred in a world (R224). -/
  | defer (r : Req)
  /-- Joins the issue queue; the granule that it must be granted first (R200, R206). -/
  | go (r : Req) (granule : Option (SetRec × Nat))

/-- A partition owns a port that reaches a device, as the management interface has set it; the device's own id needs none (R23, R50). DEDUCED: log entry 22. -/
def peerReach (s : State) (part dev : Nat) : Bool :=
  dev == s.links.domId.toNat || (s.links.reach.any fun x => x.1 == dev && x.2.any fun p => (ownOf s part).ports.contains p)

/-- The partition of a team's context. -/
def partOf (s : State) (tm : Team) : Nat := match ctx? s tm.ctx with | some c => c.part | none => 0

/-- A team is a world of a fork (R221). -/
def isWorld (tm : Team) : Bool := tm.fork.isSome

/-- The deferred queue of a world, or of a family outside its worlds (R207, R225). -/
def deferKey (tm : Team) : Option (Nat × Nat) × Option Nat :=
  match tm.fork with | some f => (some (f, tm.world), none) | none => (none, tm.family)

def deferCount (s : State) (tm : Team) : Nat :=
  (s.deferred.filter fun d => d.fork == (deferKey tm).1 && d.family == (deferKey tm).2).length

/-- Capacity of that queue (R207, R225). -/
def deferCap (s : State) (tm : Team) : Nat :=
  match tm.fork with
  | some f => match (fork? s f).bind (fun x => x.worlds.find? fun w => w.idx == tm.world) with | some w => w.cap | none => 0
  | none => 32

/-- Step 4 of R333 for a global access: the world rules (R224), the task rules (R207) and the set rules (R200, R206). -/
def taskRules (s : State) (tm : Team) (r : Req) (va : Nat) : Pre :=
  let reg := regionNo va
  let ext := r.ord == 7
  let isStore := r.op == .store
  let isAtomic := match r.op with | .atomic _ _ => true | _ => false
  let const := r.ord == 6
  if isWorld tm && (ext || reg ≠ 0) && !const then
    if isStore then
      if tm.family.isSome then .trap (addrTrap .taskState va)
      else if deferCap s tm ≤ deferCount s tm then .trap (addrTrap .deferFull va) else .defer r
    else .trap (addrTrap .worldExternal va)
  else if tm.family.isSome && (isStore || isAtomic) && (ext || reg ≠ 0) then .trap (addrTrap .taskState va)
  else if reg == 0 && !const then
    match granuleOf s tm.ctx va with
    | none => .go r none
    | some x =>
      match tm.family with
      | some f => .go r (if holderOf s tm.ctx x.1.id x.2 == some f then none else some x)
      | none =>
        if isStore || isAtomic then .trap (addrTrap .taskState va)
        else match holderOf s tm.ctx x.1.id x.2 with
          | none => .go r none
          | some _ => if x.1.free then .go { r with view := 0 } none else .go { r with view := 0 } (some x)
  else .go r none

/-- Steps 2 to 6 of R333 for a global access to `base` + `off`. DEDUCED: log entry 21. DEDUCED: log entry 22. -/
def globalChecks (s : State) (tm : Team) (kind : Nat) (r : Req) (base off : Nat) : Pre :=
  match formAddr base off with
  | none => .trap (regionTrap ((base + off) % 2 ^ 80) kind)
  | some va =>
    let reg := regionNo va
    if (r.ord == 6 && reg ≠ 0) || (kind == kindAtomic && reg == 2) then .trap (addrTrap .protection va)
    else if reg == 1 && !peerReach s (partOf s tm) (va / 2 ^ 66 % 1024) then .trap (addrTrap .externalAbort va)
    else
      match taskRules s tm { r with va := BitVec.ofNat 80 va, space := spaceOf va } va with
      | .go r g =>
        if lockHit s tm.core tm.ctx false r.op.stores va r.size then .trap (addrTrap .rangeConflict va)
        else
          let hit : Option (Nat × Nat) := if reg == 2 then some (va % 2 ^ 64, 0)
            else match cached s (.core tm.core) tm.ctx va with
              | some e => if e.permits kind && e.serves s va then some (e.addr va, e.lease) else none
              | none => none
          let r := { r with pa := hit.map Prod.fst, lease := match hit with | some h => h.2 | none => 0 }
          match ctx? s tm.ctx, (match r.pa with | some p => some p | none => (ctx? s tm.ctx).bind fun c => probePa s (.core tm.core) c va) with
          | some c, some p =>
            if r.op.stores && reg == 0 && g.isNone && noCell s c r.view p then .trap (addrTrap .viewCapacity va) else .go r g
          | _, _ => .go r g
      | x => x

/-- A slot access (R175, R182): untranslated, committed, and within the thread's own slot; in a scrub-pending granule it has no physical
address until its walk faults (R65). -/
def slotChecks (s : State) (slot save addr : Nat) (r : Req) : Pre :=
  let p := addr - 0xF * 2 ^ 76
  let plain := match r.op with | .load _ _ | .store => r.ord ≠ 6 | _ => false
  if plain && slot ≤ p && p + r.size ≤ slot + save then
    .go { r with va := BitVec.ofNat 80 addr, space := .home, pa := if scrubPending s p then none else some p, view := 0, lease := 0, slot := true } none
  else .trap (addrTrap .protection addr)

/-- All checks of a global access of a lane, in the order of R333. -/
def memChecks (l : Lane) (kind : Nat) (r : Req) (baseReg off : Nat) : Pre :=
  let base := (rdB l.tm l.th baseReg).toNat
  let sum := (base + off) % 2 ^ 80
  if sum % r.size ≠ 0 then .trap (addrTrap .misalign sum)
  else
    let r := { r with view := if r.ord == 6 then 0 else l.tm.view }
    match l.th.routine, baseReg == 15 with
    | some x, true => slotChecks l.s x.slot (match ctx? l.s l.tm.ctx with | some c => c.saveBytes | none => 0) sum r
    | _, _ => globalChecks l.s l.tm kind r base off

/-- All checks of a scratchpad access of a lane (R333, R340). -/
def scratchChecks (l : Lane) (r : Req) (wc : Bool) (off : Nat) : Pre :=
  if off % r.size ≠ 0 then .trap (wordTrap .misalign off)
  else match scratchAddr l.s l.tm wc off r.size with
    | .error t => .trap ⟨t, t.lo.setWidth 80, 0⟩
    | .ok (core, a) =>
      if lockHit l.s (if wc then core else l.tm.core) l.tm.ctx true r.op.stores a r.size then .trap (wordTrap .rangeConflict off)
      else .go { r with space := .scratch core, va := BitVec.ofNat 80 off, pa := some a } none

/-! ### Joining the queue (R157 issue) -/

/-- A request as a queue entry. -/
def Req.access (r : Req) (id inst : Nat) (pc : Word) (granted : Bool) : Access :=
  { id := id, op := r.op, space := r.space, va := r.va, pa := r.pa, size := r.size, ord := r.ord, data := r.data, view := r.view
    lease := r.lease, pc := pc, inst := inst, slot := r.slot, logged := none, s2 := false, granted := granted, mark := 0, sent := false, c := none }

/-- A fence as a queue entry. -/
def fenceAccess (f : Fence) (code : Bool) (id inst : Nat) (pc : Word) : Access :=
  { id := id, op := .fence f code, space := .home, va := 0, pa := none, size := 0, ord := 0, data := [], view := 0, lease := 0
    pc := pc, inst := inst, slot := false, logged := none, s2 := false, granted := true, mark := 0, sent := false, c := none }

/-- Scope of an ordering code 1 to 4 (R159). -/
def codeScope (ord : Nat) : Option Scope :=
  match ord with | 1 => some .team | 2 => some .cluster | 3 => some .device | 4 => some .system | _ => none

/-- Destination registers of an access. -/
def AccOp.dests (o : AccOp) (size : Nat) : List Reg :=
  match o with
  | .load rd _ | .penTest rd => (upto ((size + 3) / 4)).map fun i => .v (rd + i)
  | .atomic _ (some rd) => (upto (size / 4)).map fun i => .v (rd + i)
  | .scalar sd => (upto (size / 4)).map fun i => .s (sd + i)
  | _ => []

/-- Put a request at the end of the thread's queue, between the fences of its ordering code, with its destinations pending. -/
def enqueue (s : State) (t : Tid) (r : Req) (inst : Nat) (pc : Word) (granted : Bool) : Nat × State :=
  let id := s.nextId
  let s := { s with nextId := s.nextId + 3 }
  let pre := match codeScope r.ord with | some sc => if r.op.stores then [fenceAccess (.rel sc) true (id + 1) inst pc] else [] | none => []
  let post := match codeScope r.ord with | some _ => if r.op.loads then [fenceAccess .acq true (id + 2) inst pc] else [] | none => []
  let ds := r.op.dests r.size
  let s := modThread s t fun th => { th with queue := th.queue ++ pre ++ [{ r.access id inst pc granted with pos := some th.pc }] ++ post }
  match r.op with
  | .penTest _ => (id, modThread s t fun th => { th with pend := th.pend ++ ds.map fun d => ⟨d, .test, id⟩ })
  | .scalar _ => (id, modGroup s t.team t.group fun g => { g with spend := g.spend ++ ds.map fun d => ⟨d, .load, id⟩ })
  | _ => (id, modThread s t fun th => { th with pend := th.pend ++ ds.map fun d => ⟨d, .load, id⟩ })

/-- Take the trap of a memory check. -/
def takeMemTrap (s : State) (t : Tid) (m : MemTrap) : State :=
  match thread? s t with
  | some th => takeTrapFull s t m.trap th.pc m.va m.detail
  | none => s

/-- Put a waiter into a granule queue (R200); a non-task load has no family. DEDUCED: log entry 21. -/
def addWaiter (s : State) (w : Waiter) : State := { s with waiters := s.waiters ++ [w] }

/-- Act on the outcome of a lane's checks. -/
def actPre (s : State) (t : Tid) (inst : Nat) (p : Pre) : State :=
  match thread? s t, team? s t.team with
  | some th, some tm =>
    match p with
    | .trap m => takeMemTrap s t m
    | .defer r =>
      { s with deferred := s.deferred ++ [⟨t, (deferKey tm).1, (deferKey tm).2, 2, r.va, 0, some (r.access s.nextId inst th.pc.off true), th.pc.off⟩]
               nextId := s.nextId + 1 }
    | .go r none => (enqueue s t r inst th.pc.off true).2
    | .go r (some x) =>
      let e := enqueue s t r inst th.pc.off false
      let s := startWait e.2 t (.granule e.1)
      match tm.family with
      | some _ => s
      | none => addWaiter s ⟨tm.ctx, x.1.id, x.2, t, e.1, none, 0⟩
  | _, _ => s

/-! ### What keeps an instruction from issuing (R148) -/

/-- The accesses of threads of a die that wait for a page walk, first come first served: the 32 walkers of the die serve the first ones,
and the rest are its queue (R145). -/
def walksOf (s : State) (die : Nat) : List (Tid × Access) :=
  sortBy (fun x => x.2.id) ((allQueues s).filter fun x =>
    x.2.pa.isNone && x.2.logged.isNone && !x.2.isFence && x.2.space ≠ .host && (tidAt s x.1).dieNo == die)

/-- A lane's access would need a walk, and with those of its flock the walkers and the queue of 256 of its die cannot take it (R145). -/
def walkersFull (l : Lane) (va : Nat) : Bool :=
  regionNo va ≠ 2 && (cached l.s (.core l.tm.core) l.tm.ctx va).isNone &&
  288 < (walksOf l.s (dieOf l.tm.core)).length + (match l.s.slots.find? (fun sl => sl.fid == l.fid) with | some sl => sl.flock.length | none => 1)

/-- A memory instruction's lane does not issue: all four logged entries are full, an ordering code other than relaxed or stream
with a logged entry, or a line that a logged entry touches (R148), or the queue of the page walkers is full (R145). -/
def memHold (ord : Nat) (addr : Lane → Option Nat) (l : Lane) : Bool :=
  let lg := loggedOf l.th
  4 ≤ lg.length || (!lg.isEmpty && ord ≠ 0 && ord ≠ 5) ||
  (match addr l with | some a => (lg.any fun x => x.va.toNat / 64 == a / 64) || walkersFull l a | none => false)

/-- A pen update of the thread has no answer yet (R377). -/
def penWaits (th : Thread) : Bool := th.queue.any fun a => match a.op with | .pen _ => true | _ => false

/-- A fence does not issue while its thread holds a logged entry (R148) or has a pen update unanswered (R377). -/
def fenceHold (l : Lane) : Bool := !(loggedOf l.th).isEmpty || penWaits l.th

end Sys2Proof.Machine
end

