-- ==== Sys2Proof/Machine/Link.lean ====
section
/-! DEFINITION. The Bascy link: messages and their slots, flits, the choice of a port, sequence numbers and acknowledgements, replays
and the move of a failed port's flits (R17 to R23). -/

namespace Sys2Proof.Machine

/-! ### Messages and flits as bytes (R18, R19) -/

/-- Number of a message kind in a header slot. -/
def MsgKind.code (k : MsgKind) : Nat := match k with | .readReq => 0 | .write => 1 | .atomic => 2 | .response => 3 | .ack => 4

/-- The message asks for something: it is one to a line of the peer (R22). -/
def LinkMsg.isRequest (m : LinkMsg) : Bool := match m.kind with | .readReq | .write | .atomic => true | .response | .ack => false

/-- Slots of a message: its header slot and its data slots (R19). -/
def LinkMsg.slots (m : LinkMsg) : Nat := 1 + (m.data.length + 15) / 16

/-- The bytes of a message's slots. -/
def LinkMsg.bytes (m : LinkMsg) : List Byte :=
  leBytes 16 (Config.headerSlot [m.kind.code, m.num, m.addr, m.size, m.cls, m.expiry]).toNat ++
  m.data ++ List.replicate (16 * ((m.data.length + 15) / 16) - m.data.length) 0#8

/-- Slots that a flit's messages take. -/
def Flit.slots (f : Flit) : Nat := (f.msgs.map LinkMsg.slots).sum

/-- The header word of a flit: sequence number, acknowledgement, credit, type, failed port and original number, and zeros (R18). -/
def Flit.header (f : Flit) : BitVec 64 :=
  BitVec.ofNat 64 (f.seq.toNat + 2 ^ 12 * f.ack.toNat + 2 ^ 24 * f.credit.toNat + 2 ^ 32 * (f.kind % 16) +
    (if f.kind == 3 then 2 ^ 36 * (f.failed % 32) + 2 ^ 41 * f.orig.toNat else 0))

/-- The 256 bytes of a flit: header, 15 slots of which the last ones may be idle, and the CRC over them (R18). -/
def Flit.bytes (f : Flit) : List Byte :=
  let l := ((leBytes 8 f.header.toNat ++ f.msgs.flatMap LinkMsg.bytes) ++ List.replicate 240 0#8).take 248
  l ++ leBytes 8 (Config.crc64 l).toNat

/-- Fields of the header word of a flit that arrives (R18). -/
def hdrSeq (h : BitVec 64) : BitVec 12 := h.extractLsb' 0 12
def hdrAck (h : BitVec 64) : BitVec 12 := h.extractLsb' 12 12
def hdrType (h : BitVec 64) : Nat := (h.extractLsb' 32 4).toNat
def hdrFailed (h : BitVec 64) : Nat := (h.extractLsb' 36 5).toNat
def hdrOrig (h : BitVec 64) : BitVec 12 := h.extractLsb' 41 12

/-! ### Ports (R17, R20, R22, R50) -/

/-- A port is up. -/
def portUp (s : State) (port : Nat) : Bool := match s.links.ports[port]? with | some p => p.up | none => false

/-- Ports that reach a peer (R17). -/
def reachOf (s : State) (dev : Nat) : List Nat := ((s.links.reach.find? fun x => x.1 == dev).map (·.2)).getD []

/-- Ports of a device's traffic that are up and owned by a partition (R17, R50); port 24 stands for the loop back (R23). DESIGN CHOICE: log entry 6. -/
def portsTo (s : State) (part dev : Nat) : List Nat :=
  if dev == s.links.domId.toNat then [24] else (reachOf s dev).filter fun p => (ownOf s part).ports.contains p && portUp s p

/-- The port that still holds unacknowledged requests to a line of a peer: the later ones follow them (R22). -/
def busyPort (s : State) (dev line : Nat) : Option Nat :=
  (upto s.links.ports.length).find? fun p => match s.links.ports[p]? with
    | some x => x.replay.any fun f => f.dev == dev && f.msgs.any fun m => m.isRequest && m.addr / 64 == line
    | none => false

/-- The port that carries a message now: an answer goes back on the port of its request where that is up; a request follows the
unacknowledged ones to its line, else its line picks among the partition's ports.  The spec does not say which of several ports
carries a line (R22). DESIGN CHOICE: log entry 6. -/
def choosePort (s : State) (o : OutMsg) : Option Nat :=
  let dev := o.msg.dev
  let line := o.msg.addr / 64
  match o.via with
  | some p => if p == 24 || portUp s p then some p else (reachOf s dev).find? (portUp s)
  | none =>
    let ps := portsTo s o.part dev
    match busyPort s dev line with
    | some p => if ps.contains p then some p else none
    | none => ps[line % ps.length]?

/-! ### Sending (R18 to R20) -/

/-- A number of a peer in a list of sequence numbers. -/
def seqOf (l : List (Nat × BitVec 12)) (dev : Nat) : Option (BitVec 12) := (l.find? fun x => x.1 == dev).map Prod.snd
def setSeq (l : List (Nat × BitVec 12)) (dev : Nat) (x : BitVec 12) : List (Nat × BitVec 12) := (dev, x) :: l.filter fun y => y.1 ≠ dev

/-- Change a port. -/
def modPort (s : State) (p : Nat) (f : Port → Port) : State := { s with links := { s.links with ports := updAt p f s.links.ports } }

/-- A flit that leaves on a port for a peer, without its messages.  Numbers are kept per port and peer, and an acknowledgement names the
last flit received from that peer on that port: R18 does not say whether they are the port's alone. DESIGN CHOICE: log entry 51. -/
def newFlit (s : State) (p dev kind : Nat) : Flit :=
  let x := (s.links.ports[p]?).getD Port.reset
  { kind := kind, dev := dev, port := p, seq := (seqOf x.txSeq dev).getD 0, ack := (seqOf x.rxSeq dev).getD 4095#12
    credit := Config.linkCredit s.time p, failed := 0, orig := 0, msgs := [], time := s.time, replays := 0 }

/-- Send a flit and keep it in the replay buffer of its port. -/
def sendFlit (s : State) (f : Flit) : State :=
  let s := modPort s f.port fun p => { p with txSeq := setSeq p.txSeq f.dev (f.seq + 1), replay := p.replay ++ [f] }
  { s with links := { s.links with sent := s.links.sent ++ [f] } }

/-- The flit of the present tick for a peer on a port that still has room for a message, which never spans two flits (R19). -/
def roomyFlit (s : State) (p : Nat) (m : LinkMsg) : Option Flit :=
  ((s.links.ports[p]?).getD Port.reset).replay.find? fun f => f.port == p && f.dev == m.dev && f.kind == 1 && f.time == s.time && f.slots + m.slots ≤ 15

/-- Put a message into a flit of its port. -/
def putMsg (s : State) (p : Nat) (m : LinkMsg) : State :=
  match roomyFlit s p m with
  | some f =>
    let is' := fun (x : Flit) => x.port == p && x.dev == f.dev && x.seq == f.seq && x.time == f.time && x.kind == 1
    let add := fun (x : Flit) => { x with msgs := x.msgs ++ [m] }
    let s := modPort s p fun x => { x with replay := updWhere is' add x.replay }
    { s with links := { s.links with sent := updWhere is' add s.links.sent } }
  | none => sendFlit s { newFlit s p m.dev 1 with msgs := [m] }

/-- Two waiting messages go to one line of one peer. -/
def sameTarget (a b : LinkMsg) : Bool := a.isRequest && b.isRequest && a.dev == b.dev && a.addr / 64 == b.addr / 64

/-- One message of the waiting ones leaves, unless an earlier one to its line still waits or no port carries it (R20, R22). -/
def pumpOne (s : State) (o : OutMsg) : State :=
  if s.links.out.any fun x => sameTarget x.msg o.msg then { s with links := { s.links with out := s.links.out ++ [o] } }
  else match choosePort s o with
    | none => { s with links := { s.links with out := s.links.out ++ [o] } }
    | some p => if p == 24 then { s with links := { s.links with loop := s.links.loop ++ [o] } } else putMsg s p o.msg

/-- The waiting messages that a port carries now leave, in their order. -/
def pumpLinks (s : State) : State := s.links.out.foldl pumpOne { s with links := { s.links with out := [] } }

/-- Send a message (R18 to R22). -/
def sendMsg (s : State) (o : OutMsg) : State := pumpLinks { s with links := { s.links with out := s.links.out ++ [o] } }

/-- Send a request to a peer, and note who waits for its answer (R19). -/
def sendRequest (s : State) (src : ReqBy) (part : Nat) (m : LinkMsg) : State :=
  let n := s.links.nextMsg
  sendMsg { s with links := { s.links with reqs := s.links.reqs ++ [⟨n, src, m.dev, part, s.time, false⟩], nextMsg := n + 1 } }
    ⟨part, none, { m with num := n }⟩

/-- A read request of `n` bytes, a write, and an atomic, before they have a number. -/
def readMsg (dev addr n cls : Nat) : LinkMsg := ⟨.readReq, dev, 0, addr, n, cls, none, 0, []⟩
def writeMsg (dev addr : Nat) (bs : List Byte) : LinkMsg := ⟨.write, dev, 0, addr, bs.length, 0, none, 0, bs⟩
def atomicMsg (dev addr n : Nat) (op : AtomOp) (value : Bool) (bs : List Byte) : LinkMsg := ⟨.atomic, dev, 0, addr, n, 0, some (op, value), 0, bs⟩

/-! ### Arrivals and replays (R18, R20, R21) -/

/-- A sequence number is at or below another in 12-bit serial order (R21). -/
def atOrBelow (a b : BitVec 12) : Bool := (b - a).toNat < 2048

/-- A flit of a peer arrives on a port: its sequence number is noted, and the flits to that peer that it acknowledges leave the replay
buffer (R18). DESIGN CHOICE: log entry 51. -/
def arriveFlit (s : State) (port dev : Nat) (h : BitVec 64) : State :=
  pumpLinks (modPort s port fun p => { p with
    rxSeq := setSeq p.rxSeq dev (hdrSeq h)
    replay := p.replay.filter fun f => !(f.dev == dev && atOrBelow f.seq (hdrAck h)) })

/-- The receiver asks for the flit after the last one it received: a flit of type 2, whose acknowledgement says which that is (R18, R20). DESIGN CHOICE: log entry 51. -/
def askReplay (s : State) (port dev : Nat) : State :=
  { s with links := { s.links with sent := s.links.sent ++ [newFlit s port dev 2] } }

/-- The flit that a replay request names is sent again, unless eight replays of it have failed already (R20). -/
def replayFlit (s : State) (port dev : Nat) (seq : BitVec 12) : State :=
  let named := fun (f : Flit) => f.dev == dev && f.seq == seq
  match ((s.links.ports[port]?).getD Port.reset).replay.find? named with
  | none => s
  | some f =>
    let s := modPort s port fun p => { p with replay := updWhere named (fun f => { f with replays := f.replays + 1 }) p.replay }
    if f.replays < 8 then { s with links := { s.links with sent := s.links.sent ++ [{ f with replays := f.replays + 1 }] } } else s

/-- Eight replays of one flit of a port have failed (R20). -/
def portFailed (p : Port) : Bool := p.replay.any fun f => 8 < f.replays

/-- The partition that owns a port. -/
def portOwner (s : State) (port : Nat) : Option Partition := s.partitions.find? fun p => p.own.ports.contains port

/-- The port that takes over a failed port's traffic to a peer: the first other up port that reaches the peer, of the failed port's
partition where a partition owns it.  R21 does not say which. DESIGN CHOICE: log entry 6. -/
def otherPort (s : State) (port dev : Nat) : Option Nat :=
  (reachOf s dev).find? fun p => p ≠ port && portUp s p && (match portOwner s port with | some x => x.own.ports.contains p | none => true)

/-- Send one flit of a failed port again as a flit of type 3 with its slots unchanged; one that was resent before keeps the port and the
number that it carries.  With no other port it waits (R21). -/
def failFlit (port : Nat) (s : State) (f : Flit) : State :=
  match otherPort s port f.dev with
  | none => s
  | some q =>
    let g := if f.kind == 3 then { newFlit s q f.dev 3 with failed := f.failed, orig := f.orig, msgs := f.msgs }
      else { newFlit s q f.dev 3 with failed := port, orig := f.seq, msgs := f.msgs }
    sendFlit (modPort s port fun p => { p with replay := p.replay.filter fun x => !(x.dev == f.dev && x.seq == f.seq) }) g

/-- The flits of a failed port that wait go to other ports, oldest first and ahead of what waits for their lines (R21). -/
def moveFlits (s : State) (port : Nat) : State :=
  match s.links.ports[port]? with
  | some p => if p.up then s else p.replay.foldl (failFlit port) s
  | none => s

/-- What waits for a port goes on: the flits of failed ports, then the messages (R20, R21). -/
def linkTick (s : State) : State := pumpLinks ((upto s.links.ports.length).foldl moveFlits s)

end Sys2Proof.Machine
end

