-- ==== Sys2Proof/Machine/Flags.lean ====
section
/-! DEFINITION. The sticky flags of `%fstat` (R254, R255). -/

namespace Sys2Proof.Machine

/-- Invalid operation. -/
def flagNV : Word := 1
/-- Division by zero. -/
def flagDZ : Word := 2
/-- Overflow. -/
def flagOF : Word := 4
/-- Underflow. -/
def flagUF : Word := 8
/-- Inexact. -/
def flagNX : Word := 16
/-- Saturated. -/
def flagSAT : Word := 32
/-- NaR, or an indeterminate interval. -/
def flagNAR : Word := 64
/-- Bits that a write of `%fstat` can set; the others read 0 and are ignored (R254). -/
def fstatMask : Word := 127

end Sys2Proof.Machine
end

