-- ==== Sys2Proof/Machine/Integer.lean ====
section
/-! DEFINITION. The integer, logic, shift, bit, minimum, compare and predicate-logic families (R293 to R300, R305, R307). -/

namespace Sys2Proof.Machine

/-! ### Forms -/

/-- `op vd, va, vb` at latency `lat`. -/
def alu3 (word : Word) (st : BitVec 2) (d a b : BitVec 7) (lat : Nat) (f : Word → Word → Word) (s : State) : Host.Outcome State Fault Refusal :=
  .next (laneOp word st { Uses.none cAlu with rv := [(a.toNat, 1), (b.toNat, 1)], wv := [(d.toNat, 1)] } lat
    (fun l => resV d.toNat (f (rdV l.th a.toNat) (rdV l.th b.toNat))) s)

/-- `op vd, va, vb` that also reads VD: the accumulator comes last. -/
def alu3d (word : Word) (st : BitVec 2) (d a b : BitVec 7) (lat : Nat) (f : Word → Word → Word → Word) (s : State) : Host.Outcome State Fault Refusal :=
  .next (laneOp word st { Uses.none cAlu with rv := [(a.toNat, 1), (b.toNat, 1), (d.toNat, 1)], wv := [(d.toNat, 1)] } lat
    (fun l => resV d.toNat (f (rdV l.th a.toNat) (rdV l.th b.toNat) (rdV l.th d.toNat))) s)

/-- `op vd, va`. -/
def alu2 (word : Word) (st : BitVec 2) (d a : BitVec 7) (f : Word → Word) (s : State) : Host.Outcome State Fault Refusal :=
  .next (laneOp word st { Uses.none cAlu with rv := [(a.toNat, 1)], wv := [(d.toNat, 1)] } 4 (fun l => resV d.toNat (f (rdV l.th a.toNat))) s)

/-- `op vd, va, vb` that may set SAT (R255): the result and whether it clamped. -/
def aluSat (word : Word) (st : BitVec 2) (d a b : BitVec 7) (f : Word → Word → Word × Bool) (s : State) : Host.Outcome State Fault Refusal :=
  .next (laneOp word st { Uses.none cAlu with rv := [(a.toNat, 1), (b.toNat, 1)], wv := [(d.toNat, 1)] } 4
    (fun l => let r := f (rdV l.th a.toNat) (rdV l.th b.toNat)
              .ok ((.v d.toNat, r.1.setWidth 80) :: if r.2 then [(.flags, flagSAT.setWidth 80)] else [])) s)

/-- `op vd, va, vb` with the carry p47 in and out (R293). -/
def aluCarry (word : Word) (st : BitVec 2) (d a b : BitVec 7) (f : Word → Word → Bool → Word × Bool) (s : State) : Host.Outcome State Fault Refusal :=
  .next (laneOp word st { Uses.none cAlu with rv := [(a.toNat, 1), (b.toNat, 1)], wv := [(d.toNat, 1)], rp := [47], wp := [47] } 4
    (fun l => let r := f (rdV l.th a.toNat) (rdV l.th b.toNat) (rdP l.th 47)
              .ok [(.v d.toNat, r.1.setWidth 80), (.p 47, if r.2 then 1 else 0)]) s)

/-- `cmp pd, va, vb` on 32-bit registers. -/
def cmp32 (word : Word) (st : BitVec 2) (p : BitVec 6) (a b : BitVec 7) (f : Word → Word → Bool) (s : State) : Host.Outcome State Fault Refusal :=
  .next (laneOp word st { Uses.none cAlu with rv := [(a.toNat, 1), (b.toNat, 1)], wp := [p.toNat] } 4
    (fun l => resP p.toNat (f (rdV l.th a.toNat) (rdV l.th b.toNat))) s)

/-- A predicate from two predicates. -/
def plog (word : Word) (st : BitVec 2) (d a b : BitVec 6) (f : Bool → Bool → Bool) (s : State) : Host.Outcome State Fault Refusal :=
  .next (laneOp word st { Uses.none cAlu with rp := [a.toNat, b.toNat], wp := [d.toNat] } 4
    (fun l => resP d.toNat (f (rdP l.th a.toNat) (rdP l.th b.toNat))) s)

/-! ### Values -/

/-- Clamp an exact result into a range, and whether it was outside (R293). -/
def clampTo (lo hi x : Int) : Word × Bool := (BitVec.ofInt 32 (if x < lo then lo else if hi < x then hi else x), x < lo || hi < x)

/-- Mask of `w` low ones. -/
def maskBits (w : Nat) : Word := BitVec.ofNat 32 (2 ^ w - 1)

/-- Number of ones among the low `n` bits. -/
def countOnes (x : Nat) : Nat → Nat
  | 0 => 0
  | n + 1 => (if x.testBit n then 1 else 0) + countOnes x n

/-- Zero bits above the highest one among the low `n` bits. -/
def leadZeros (x : Nat) : Nat → Nat
  | 0 => 0
  | n + 1 => if x.testBit n then 0 else 1 + leadZeros x n

/-- Zero bits below the lowest one, from bit `32 - n` on. -/
def trailZeros (x : Nat) : Nat → Nat
  | 0 => 0
  | n + 1 => if x.testBit (31 - n) then 0 else 1 + trailZeros x n

/-- Reversed order of the low `n` bits (R298). -/
def reverseBits (x : Nat) : Nat → Nat
  | 0 => 0
  | n + 1 => (if x.testBit n then 2 ^ (31 - n) else 0) + reverseBits x n

/-- Byte `i` of a word. -/
def byteOf (x : Word) (i : Nat) : Byte := x.extractLsb' (8 * i) 8

/-- A word from four bytes, byte 0 lowest. -/
def ofBytes4 (b0 b1 b2 b3 : Byte) : Word := b3 ++ b2 ++ b1 ++ b0

/-- One result byte of `perm` (R298). -/
def permByte (va vd vb : Word) (i : Nat) : Byte :=
  let n := (vb.extractLsb' (4 * i) 4).toNat
  if 8 ≤ n then 0 else if n < 4 then byteOf va n else byteOf vd (n - 4)

/-- Position and width of a bit field of R299, cut at bit 31. -/
def fieldOf (vb : Word) : Nat × Nat :=
  let pos := (vb.extractLsb' 0 5).toNat
  (pos, min (vb.extractLsb' 8 6).toNat (32 - pos))

/-- The relation of a condition code between two integers (R287). -/
def relates (cc : Nat) (x y : Int) : Bool :=
  match cc with
  | 0 => x == y
  | 1 => x ≠ y
  | 2 => x < y
  | 3 => x ≤ y
  | 4 => y < x
  | _ => y ≤ x

/-! ### IALU and IALUI -/

/-- vd = lo32(va + vb) (R293). -/
def execAdd (d a b : BitVec 7) (st : BitVec 2) (s : State) : Host.Outcome State Fault Refusal :=
  alu3 (encA 1#6 0#3 d a b st) st d a b 4 (fun x y => x + y) s

/-- vd = lo32(va - vb) (R293). -/
def execSub (d a b : BitVec 7) (st : BitVec 2) (s : State) : Host.Outcome State Fault Refusal :=
  alu3 (encA 1#6 1#3 d a b st) st d a b 4 (fun x y => x - y) s

/-- Sum with carry p47 in and out (R293). -/
def execAddc (d a b : BitVec 7) (st : BitVec 2) (s : State) : Host.Outcome State Fault Refusal :=
  aluCarry (encA 1#6 2#3 d a b st) st d a b (fun x y c => let t := x.toNat + y.toNat + (if c then 1 else 0); (BitVec.ofNat 32 t, 2 ^ 32 ≤ t)) s

/-- Difference with borrow p47 in and out (R293). -/
def execSubb (d a b : BitVec 7) (st : BitVec 2) (s : State) : Host.Outcome State Fault Refusal :=
  aluCarry (encA 1#6 3#3 d a b st) st d a b (fun x y c => let t : Int := (x.toNat : Int) - y.toNat - (if c then 1 else 0); (BitVec.ofInt 32 t, t < 0)) s

/-- Signed saturating sum (R293). -/
def execAddsI32 (d a b : BitVec 7) (st : BitVec 2) (s : State) : Host.Outcome State Fault Refusal :=
  aluSat (encA 1#6 4#3 d a b st) st d a b (fun x y => clampTo (-2147483648) 2147483647 (x.toInt + y.toInt)) s

/-- Signed saturating difference (R293). -/
def execSubsI32 (d a b : BitVec 7) (st : BitVec 2) (s : State) : Host.Outcome State Fault Refusal :=
  aluSat (encA 1#6 5#3 d a b st) st d a b (fun x y => clampTo (-2147483648) 2147483647 (x.toInt - y.toInt)) s

/-- Unsigned saturating sum (R293). -/
def execAddsN32 (d a b : BitVec 7) (st : BitVec 2) (s : State) : Host.Outcome State Fault Refusal :=
  aluSat (encA 1#6 6#3 d a b st) st d a b (fun x y => clampTo 0 4294967295 ((x.toNat : Int) + y.toNat)) s

/-- Unsigned saturating difference (R293). -/
def execSubsN32 (d a b : BitVec 7) (st : BitVec 2) (s : State) : Host.Outcome State Fault Refusal :=
  aluSat (encA 1#6 7#3 d a b st) st d a b (fun x y => clampTo 0 4294967295 ((x.toNat : Int) - y.toNat)) s

/-- vd = lo32(va + sext(imm)) (R294). -/
def execAddi (d a : BitVec 7) (i : BitVec 8) (st : BitVec 2) (s : State) : Host.Outcome State Fault Refusal :=
  alu2 (encI 2#6 0#2 d a i st) st d a (fun x => x + i.signExtend 32) s

/-- vd = va AND zext(imm) (R294). -/
def execAndi (d a : BitVec 7) (i : BitVec 8) (st : BitVec 2) (s : State) : Host.Outcome State Fault Refusal :=
  alu2 (encI 2#6 1#2 d a i st) st d a (fun x => x &&& i.setWidth 32) s

/-- vd = va OR zext(imm) (R294). -/
def execOri (d a : BitVec 7) (i : BitVec 8) (st : BitVec 2) (s : State) : Host.Outcome State Fault Refusal :=
  alu2 (encI 2#6 2#2 d a i st) st d a (fun x => x ||| i.setWidth 32) s

/-- vd = va XOR zext(imm) (R294). -/
def execXori (d a : BitVec 7) (i : BitVec 8) (st : BitVec 2) (s : State) : Host.Outcome State Fault Refusal :=
  alu2 (encI 2#6 3#2 d a i st) st d a (fun x => x ^^^ i.setWidth 32) s

/-! ### IMUL -/

/-- vd = lo32(va * vb) (R295). -/
def execMul (d a b : BitVec 7) (st : BitVec 2) (s : State) : Host.Outcome State Fault Refusal :=
  alu3 (encA 3#6 0#3 d a b st) st d a b 8 (fun x y => x * y) s

/-- High word of the signed product (R295). -/
def execMulhiI32 (d a b : BitVec 7) (st : BitVec 2) (s : State) : Host.Outcome State Fault Refusal :=
  alu3 (encA 3#6 1#3 d a b st) st d a b 8 (fun x y => BitVec.ofInt 32 (x.toInt * y.toInt / 4294967296)) s

/-- High word of the unsigned product (R295). -/
def execMulhiN32 (d a b : BitVec 7) (st : BitVec 2) (s : State) : Host.Outcome State Fault Refusal :=
  alu3 (encA 3#6 2#3 d a b st) st d a b 8 (fun x y => BitVec.ofNat 32 (x.toNat * y.toNat / 4294967296)) s

/-- vd = lo32(va * vb + vd) (R295). -/
def execMad (d a b : BitVec 7) (st : BitVec 2) (s : State) : Host.Outcome State Fault Refusal :=
  alu3d (encA 3#6 3#3 d a b st) st d a b 8 (fun x y z => x * y + z) s

/-- High word of the signed product plus vd (R295). -/
def execMadhiI32 (d a b : BitVec 7) (st : BitVec 2) (s : State) : Host.Outcome State Fault Refusal :=
  alu3d (encA 3#6 4#3 d a b st) st d a b 8 (fun x y z => BitVec.ofInt 32 (x.toInt * y.toInt / 4294967296) + z) s

/-- High word of the unsigned product plus vd (R295). -/
def execMadhiN32 (d a b : BitVec 7) (st : BitVec 2) (s : State) : Host.Outcome State Fault Refusal :=
  alu3d (encA 3#6 5#3 d a b st) st d a b 8 (fun x y z => BitVec.ofNat 32 (x.toNat * y.toNat / 4294967296) + z) s

/-- The signed 64-bit product in a pair (R295). -/
def execMulwI32 (d a b : BitVec 7) (st : BitVec 2) (s : State) : Host.Outcome State Fault Refusal :=
  .next (laneOp (encA 3#6 6#3 d a b st) st { Uses.none cAlu with rv := [(a.toNat, 1), (b.toNat, 1)], wv := [(d.toNat, 2)] } 8
    (fun l => resV64 d.toNat (BitVec.ofInt 64 ((rdV l.th a.toNat).toInt * (rdV l.th b.toNat).toInt))) s)

/-- The unsigned 64-bit product in a pair (R295). -/
def execMulwN32 (d a b : BitVec 7) (st : BitVec 2) (s : State) : Host.Outcome State Fault Refusal :=
  .next (laneOp (encA 3#6 7#3 d a b st) st { Uses.none cAlu with rv := [(a.toNat, 1), (b.toNat, 1)], wv := [(d.toNat, 2)] } 8
    (fun l => resV64 d.toNat (BitVec.ofNat 64 ((rdV l.th a.toNat).toNat * (rdV l.th b.toNat).toNat))) s)

/-! ### LOGIC, SHIFT and SHIFTI -/

/-- Bitwise and (R296). -/
def execAnd (d a b : BitVec 7) (st : BitVec 2) (s : State) : Host.Outcome State Fault Refusal :=
  alu3 (encA 4#6 0#3 d a b st) st d a b 4 (fun x y => x &&& y) s

/-- Bitwise or (R296). -/
def execOr (d a b : BitVec 7) (st : BitVec 2) (s : State) : Host.Outcome State Fault Refusal :=
  alu3 (encA 4#6 1#3 d a b st) st d a b 4 (fun x y => x ||| y) s

/-- Bitwise xor (R296). -/
def execXor (d a b : BitVec 7) (st : BitVec 2) (s : State) : Host.Outcome State Fault Refusal :=
  alu3 (encA 4#6 2#3 d a b st) st d a b 4 (fun x y => x ^^^ y) s

/-- Bitwise andn (R296). -/
def execAndn (d a b : BitVec 7) (st : BitVec 2) (s : State) : Host.Outcome State Fault Refusal :=
  alu3 (encA 4#6 3#3 d a b st) st d a b 4 (fun x y => x &&& ~~~y) s

/-- Bitwise orn (R296). -/
def execOrn (d a b : BitVec 7) (st : BitVec 2) (s : State) : Host.Outcome State Fault Refusal :=
  alu3 (encA 4#6 4#3 d a b st) st d a b 4 (fun x y => x ||| ~~~y) s

/-- Bitwise xnor (R296). -/
def execXnor (d a b : BitVec 7) (st : BitVec 2) (s : State) : Host.Outcome State Fault Refusal :=
  alu3 (encA 4#6 5#3 d a b st) st d a b 4 (fun x y => ~~~(x ^^^ y)) s

/-- vd = NOT va (R296). -/
def execNot (d a : BitVec 7) (st : BitVec 2) (s : State) : Host.Outcome State Fault Refusal :=
  alu2 (encA 4#6 6#3 d a 0#7 st) st d a (fun x => ~~~x) s

/-- Left shift by vb[7:0]; 0 from 32 on (R297). -/
def execShl (d a b : BitVec 7) (st : BitVec 2) (s : State) : Host.Outcome State Fault Refusal :=
  alu3 (encA 5#6 0#3 d a b st) st d a b 4 (fun x y => x <<< (y.extractLsb' 0 8).toNat) s

/-- Right shift by vb[7:0] with zero fill; 0 from 32 on (R297). -/
def execShrN32 (d a b : BitVec 7) (st : BitVec 2) (s : State) : Host.Outcome State Fault Refusal :=
  alu3 (encA 5#6 1#3 d a b st) st d a b 4 (fun x y => x >>> (y.extractLsb' 0 8).toNat) s

/-- Right shift by vb[7:0] with sign fill; copies of the sign from 32 on (R297). -/
def execShrI32 (d a b : BitVec 7) (st : BitVec 2) (s : State) : Host.Outcome State Fault Refusal :=
  alu3 (encA 5#6 2#3 d a b st) st d a b 4 (fun x y => x.sshiftRight (y.extractLsb' 0 8).toNat) s

/-- Left rotation by vb[7:0] mod 32 (R297). -/
def execRotl (d a b : BitVec 7) (st : BitVec 2) (s : State) : Host.Outcome State Fault Refusal :=
  alu3 (encA 5#6 3#3 d a b st) st d a b 4 (fun x y => x.rotateLeft ((y.extractLsb' 0 8).toNat % 32)) s

/-- Right rotation by vb[7:0] mod 32 (R297). -/
def execRotr (d a b : BitVec 7) (st : BitVec 2) (s : State) : Host.Outcome State Fault Refusal :=
  alu3 (encA 5#6 4#3 d a b st) st d a b 4 (fun x y => x.rotateRight ((y.extractLsb' 0 8).toNat % 32)) s

/-- High word of va:vd shifted left by vb[7:0] mod 32 (R297). -/
def execFshl (d a b : BitVec 7) (st : BitVec 2) (s : State) : Host.Outcome State Fault Refusal :=
  alu3d (encA 5#6 5#3 d a b st) st d a b 4 (fun x y z => (((x ++ z : BitVec 64) <<< ((y.extractLsb' 0 8).toNat % 32)).extractLsb' 32 32)) s

/-- Low word of va:vd shifted right by vb[7:0] mod 32 (R297). -/
def execFshr (d a b : BitVec 7) (st : BitVec 2) (s : State) : Host.Outcome State Fault Refusal :=
  alu3d (encA 5#6 6#3 d a b st) st d a b 4 (fun x y z => (((x ++ z : BitVec 64) >>> ((y.extractLsb' 0 8).toNat % 32)).extractLsb' 0 32)) s

/-- Left shift by the immediate (R297). -/
def execShli (d a : BitVec 7) (i : BitVec 5) (st : BitVec 2) (s : State) : Host.Outcome State Fault Refusal :=
  alu2 (encI 6#6 0#2 d a (0#3 ++ i) st) st d a (fun x => x <<< i.toNat) s

/-- Right shift by the immediate with zero fill (R297). -/
def execShriN32 (d a : BitVec 7) (i : BitVec 5) (st : BitVec 2) (s : State) : Host.Outcome State Fault Refusal :=
  alu2 (encI 6#6 1#2 d a (0#3 ++ i) st) st d a (fun x => x >>> i.toNat) s

/-- Right shift by the immediate with sign fill (R297). -/
def execShriI32 (d a : BitVec 7) (i : BitVec 5) (st : BitVec 2) (s : State) : Host.Outcome State Fault Refusal :=
  alu2 (encI 6#6 2#2 d a (0#3 ++ i) st) st d a (fun x => x.sshiftRight i.toNat) s

/-- Left rotation by the immediate (R297). -/
def execRoti (d a : BitVec 7) (i : BitVec 5) (st : BitVec 2) (s : State) : Host.Outcome State Fault Refusal :=
  alu2 (encI 6#6 3#2 d a (0#3 ++ i) st) st d a (fun x => x.rotateLeft i.toNat) s

/-! ### BITS and BFIELD -/

/-- Number of ones (R298). -/
def execPopc (d a : BitVec 7) (st : BitVec 2) (s : State) : Host.Outcome State Fault Refusal :=
  alu2 (encA 7#6 0#3 d a 0#7 st) st d a (fun x => BitVec.ofNat 32 (countOnes x.toNat 32)) s

/-- Leading zeros (R298). -/
def execClz (d a : BitVec 7) (st : BitVec 2) (s : State) : Host.Outcome State Fault Refusal :=
  alu2 (encA 7#6 1#3 d a 0#7 st) st d a (fun x => BitVec.ofNat 32 (leadZeros x.toNat 32)) s

/-- Trailing zeros (R298). -/
def execCtz (d a : BitVec 7) (st : BitVec 2) (s : State) : Host.Outcome State Fault Refusal :=
  alu2 (encA 7#6 2#3 d a 0#7 st) st d a (fun x => BitVec.ofNat 32 (trailZeros x.toNat 32)) s

/-- Reversed bits (R298). -/
def execBrev (d a : BitVec 7) (st : BitVec 2) (s : State) : Host.Outcome State Fault Refusal :=
  alu2 (encA 7#6 3#3 d a 0#7 st) st d a (fun x => BitVec.ofNat 32 (reverseBits x.toNat 32)) s

/-- Reversed bytes (R298). -/
def execBswap (d a : BitVec 7) (st : BitVec 2) (s : State) : Host.Outcome State Fault Refusal :=
  alu2 (encA 7#6 4#3 d a 0#7 st) st d a (fun x => ofBytes4 (byteOf x 3) (byteOf x 2) (byteOf x 1) (byteOf x 0)) s

/-- Bytes of va and vd selected by the nibbles of vb (R298). -/
def execPerm (d a b : BitVec 7) (st : BitVec 2) (s : State) : Host.Outcome State Fault Refusal :=
  alu3d (encA 7#6 5#3 d a b st) st d a b 4 (fun x y z => ofBytes4 (permByte x z y 0) (permByte x z y 1) (permByte x z y 2) (permByte x z y 3)) s

/-- A mask of vb[5:0] ones from bit va[4:0] on (R298). -/
def execBmsk (d a b : BitVec 7) (st : BitVec 2) (s : State) : Host.Outcome State Fault Refusal :=
  alu3 (encA 7#6 6#3 d a b st) st d a b 4 (fun x y => let p := (x.extractLsb' 0 5).toNat; maskBits (min (y.extractLsb' 0 6).toNat (32 - p)) <<< p) s

/-- Unsigned bit field of va (R299). -/
def execBfxN32 (d a b : BitVec 7) (st : BitVec 2) (s : State) : Host.Outcome State Fault Refusal :=
  alu3 (encA 8#6 0#3 d a b st) st d a b 4 (fun x y => let f := fieldOf y; (x >>> f.1) &&& maskBits f.2) s

/-- Signed bit field of va (R299). -/
def execBfxI32 (d a b : BitVec 7) (st : BitVec 2) (s : State) : Host.Outcome State Fault Refusal :=
  alu3 (encA 8#6 1#3 d a b st) st d a b 4 (fun x y => let f := fieldOf y; if f.2 == 0 then 0 else (x <<< (32 - f.1 - f.2)).sshiftRight (32 - f.2)) s

/-- Low bits of va inserted into vd (R299). -/
def execBfi (d a b : BitVec 7) (st : BitVec 2) (s : State) : Host.Outcome State Fault Refusal :=
  alu3d (encA 8#6 2#3 d a b st) st d a b 4 (fun x y z => let f := fieldOf y; (z &&& ~~~(maskBits f.2 <<< f.1)) ||| ((x &&& maskBits f.2) <<< f.1)) s

/-! ### MINMAX -/

/-- Signed minimum (R300). -/
def execMinI32 (d a b : BitVec 7) (st : BitVec 2) (s : State) : Host.Outcome State Fault Refusal :=
  alu3 (encA 9#6 0#3 d a b st) st d a b 4 (fun x y => if x.toInt ≤ y.toInt then x else y) s

/-- Signed maximum (R300). -/
def execMaxI32 (d a b : BitVec 7) (st : BitVec 2) (s : State) : Host.Outcome State Fault Refusal :=
  alu3 (encA 9#6 1#3 d a b st) st d a b 4 (fun x y => if x.toInt ≤ y.toInt then y else x) s

/-- Unsigned minimum (R300). -/
def execMinN32 (d a b : BitVec 7) (st : BitVec 2) (s : State) : Host.Outcome State Fault Refusal :=
  alu3 (encA 9#6 2#3 d a b st) st d a b 4 (fun x y => if x.toNat ≤ y.toNat then x else y) s

/-- Unsigned maximum (R300). -/
def execMaxN32 (d a b : BitVec 7) (st : BitVec 2) (s : State) : Host.Outcome State Fault Refusal :=
  alu3 (encA 9#6 3#3 d a b st) st d a b 4 (fun x y => if x.toNat ≤ y.toNat then y else x) s

/-- Absolute value, wrapping (R300). -/
def execAbsI32 (d a : BitVec 7) (st : BitVec 2) (s : State) : Host.Outcome State Fault Refusal :=
  alu2 (encA 9#6 4#3 d a 0#7 st) st d a (fun x => if x.toInt < 0 then -x else x) s

/-- Negation, wrapping (R300). -/
def execNegI32 (d a : BitVec 7) (st : BitVec 2) (s : State) : Host.Outcome State Fault Refusal :=
  alu2 (encA 9#6 5#3 d a 0#7 st) st d a (fun x => -x) s

/-- Unsigned absolute difference (R300). -/
def execAdiffN32 (d a b : BitVec 7) (st : BitVec 2) (s : State) : Host.Outcome State Fault Refusal :=
  alu3 (encA 9#6 6#3 d a b st) st d a b 4 (fun x y => if x.toNat ≤ y.toNat then y - x else x - y) s

/-! ### Integer compares and predicate logic -/

/-- Signed compare (R305). -/
def execCmpI32 (cc : BitVec 4) (p : BitVec 6) (a b : BitVec 7) (st : BitVec 2) (s : State) : Host.Outcome State Fault Refusal :=
  cmp32 (encC 12#6 cc p a b st) st p a b (fun x y => relates cc.toNat x.toInt y.toInt) s

/-- Unsigned compare (R305). -/
def execCmpN32 (cc : BitVec 4) (p : BitVec 6) (a b : BitVec 7) (st : BitVec 2) (s : State) : Host.Outcome State Fault Refusal :=
  cmp32 (encC 13#6 cc p a b st) st p a b (fun x y => relates cc.toNat x.toNat y.toNat) s

/-- Compare of pairs: signed for CC 0 to 5, unsigned for CC 8 to 13 (R305). -/
def execCmp64 (cc : BitVec 4) (p : BitVec 6) (a b : BitVec 7) (st : BitVec 2) (s : State) : Host.Outcome State Fault Refusal :=
  .next (laneOp (encC 15#6 cc p a b st) st { Uses.none cAlu with rv := [(a.toNat, 2), (b.toNat, 2)], wp := [p.toNat] } 4
    (fun l => let x := rdV64 l.th a.toNat; let y := rdV64 l.th b.toNat
              resP p.toNat (if cc.toNat < 8 then relates cc.toNat x.toInt y.toInt else relates (cc.toNat - 8) x.toNat y.toNat)) s)

/-- pd from two predicates, each inverted as its bit says (R307). -/
def execPand (d a b : BitVec 6) (m n : BitVec 1) (st : BitVec 2) (s : State) : Host.Outcome State Fault Refusal :=
  plog (encP 16#6 0#3 d a b m n 0#1 st) st d a b (fun x y => (x ^^ (m == 1#1)) && (y ^^ (n == 1#1))) s

/-- pd from two predicates, each inverted as its bit says (R307). -/
def execPor (d a b : BitVec 6) (m n : BitVec 1) (st : BitVec 2) (s : State) : Host.Outcome State Fault Refusal :=
  plog (encP 16#6 1#3 d a b m n 0#1 st) st d a b (fun x y => (x ^^ (m == 1#1)) || (y ^^ (n == 1#1))) s

/-- pd from two predicates, each inverted as its bit says (R307). -/
def execPxor (d a b : BitVec 6) (m n : BitVec 1) (st : BitVec 2) (s : State) : Host.Outcome State Fault Refusal :=
  plog (encP 16#6 2#3 d a b m n 0#1 st) st d a b (fun x y => (x ^^ (m == 1#1)) ^^ (y ^^ (n == 1#1))) s

/-- pd = pa, inverted as its bit says (R307). -/
def execPmov (d a : BitVec 6) (m : BitVec 1) (st : BitVec 2) (s : State) : Host.Outcome State Fault Refusal :=
  plog (encP 16#6 3#3 d a 0#6 m 0#1 0#1 st) st d a a (fun x _ => x ^^ (m == 1#1)) s

/-- pd = 1 (R307). -/
def execPset (d : BitVec 6) (st : BitVec 2) (s : State) : Host.Outcome State Fault Refusal :=
  .next (laneOp (encP 16#6 4#3 d 0#6 0#6 0#1 0#1 0#1 st) st { Uses.none cAlu with wp := [d.toNat] } 4 (fun _ => resP d.toNat true) s)

/-- pd = 0 (R307). -/
def execPclr (d : BitVec 6) (st : BitVec 2) (s : State) : Host.Outcome State Fault Refusal :=
  .next (laneOp (encP 16#6 5#3 d 0#6 0#6 0#1 0#1 0#1 st) st { Uses.none cAlu with wp := [d.toNat] } 4 (fun _ => resP d.toNat false) s)

end Sys2Proof.Machine
end

