-- ==== Sys2Proof/Machine/Control.lean ====
section
/-! DEFINITION. The miscellaneous, move, guard, control transfer, scalar and base register families (R292, R301 to R304, R308 to
R314). -/

namespace Sys2Proof.Machine

/-! ### Special registers (R124, R125, R289) -/

/-- Index of the region that holds an offset (R171). -/
def regionIndex (off : Word) (n : Nat) : List Region → Option Nat
  | [] => none
  | r :: l => if r.start.toNat ≤ off.toNat && off.toNat < r.stop.toNat then some n else regionIndex off (n + 1) l

/-- Region of an offset for a team, in the region table read at its placement. -/
def regionOf (tm : Team) (off : Word) : Option Nat := regionIndex off 0 tm.regions

/-- Age stamp and restarts of a team's task; 0 outside a task. -/
def ageOf (s : State) (tm : Team) : Nat := match tm.family.bind (family? s) with | some f => f.age | none => 0
def restartsOf (s : State) (tm : Team) : Nat := match tm.family.bind (family? s) with | some f => f.restarts | none => 0

/-- Value of a special register for a lane; `none` where a read traps (R289, `%resume` outside a routine). -/
def readSpecial (l : Lane) (n : Nat) : Option Word :=
  let w := fun (k : Nat) => some (BitVec.ofNat 32 k)
  match n with
  | 0 => w l.tid.lane
  | 1 => w l.tid.group
  | 2 => w (32 * l.tid.group + l.tid.lane)
  | 3 => w l.tm.x
  | 4 => w l.tm.y
  | 5 => w l.tm.z
  | 6 => w l.g.role
  | 7 => w l.tm.core
  | 8 => w (clusterOf l.tm.core)
  | 9 => w (dieOf l.tm.core)
  | 10 => w l.g.quad
  | 16 => some l.th.fctl
  | 17 => some l.th.fstat
  | 18 => some l.th.gmask
  | 24 => w l.tm.world
  | 25 => w l.tm.nworld
  | 26 => w l.tm.view
  | 27 => w (ageOf l.s l.tm)
  | 28 => w (ageOf l.s l.tm / 4294967296)
  | 29 => w (restartsOf l.s l.tm)
  | 32 => w l.s.time
  | 33 => some (l.th.dtime.getD (BitVec.ofNat 32 (l.s.time / 4294967296)))
  | 40 => match (if inRoutineCode l.th then none else regionOf l.tm l.th.pc.off) with | some r => w r | none => some 0xFFFFFFFF#32
  | 41 => l.th.routine.map fun r => r.resume.off
  | 48 => w l.th.cause.toNat
  | 49 => some l.th.tvalLo
  | 50 => some l.th.tvalHi
  | _ => none

/-- The latch of R125 after a read of special register `n`. -/
def latchTime (s : State) (n : Nat) (th : Thread) : Thread :=
  if n == 32 then { th with dtime := some (BitVec.ofNat 32 (s.time / 4294967296)) }
  else if n == 33 then { th with dtime := none } else th

/-- The write of a special register: the written register and value, or `none` where it traps (R302, R251, R252, R254). -/
def writeSpecial (n : Nat) (x : Word) : Option (Reg × Word) :=
  match n with
  | 16 => if 5 ≤ (x.extractLsb' 0 3).toNat then none else some (.fctl, x &&& 15)
  | 17 => some (.fstat, x &&& fstatMask)
  | 18 => some (.gmask, x)
  | _ => none

/-! ### Guards (R284, R308) -/

/-- A word that may not stand in a guard span: a collective, a team collective, an engine start, or another guard. -/
def spanForbids (w : Word) : Bool :=
  let op := (w.extractLsb' 26 6).toNat
  let fn3 := (w.extractLsb' 23 3).toNat
  let fn5 := (w.extractLsb' 21 5).toNat
  match op with
  | 0x11 => true
  | 0x30 => true
  | 0x31 => fn3 ≠ 7
  | 0x35 => fn5 == 0
  | 0x2F => fn5 == 5 || fn5 == 6 || fn5 == 7
  | 0x2C => fn5 ≤ 2
  | 0x2D => fn5 ≤ 3
  | 0x36 => fn5 == 3
  | 0x32 => fn5 ≤ 3
  | _ => false

/-- The failing spans of R284 for a guard at a position. -/
def spanFails (s : State) (team : Nat) (p : Pc) (len : Nat) : Bool :=
  len == 0 || wordsLeft p < len + 1 || p.guardLeft ≠ 0 ||
  (upto len).any fun i => match fetchWord s team (p.off + BitVec.ofNat 32 (4 * (i + 1))) with | some w => spanForbids w | none => false

/-- Position of the present slot's flock, with its team. -/
def curPos (s : State) : Option (Nat × Pc) :=
  match curSlot s with
  | some sl => match sl.flock with | t :: _ => (thread? s t).map fun th => (t.team, th.pc) | [] => none
  | none => none

/-! ### Control transfers (R309 to R311) -/

/-- Whether an offset lies in a routine named in a region table. -/
def inTableRoutine (rs : List Region) (off : Nat) : Bool :=
  rs.any fun r => (r.exitOff.toNat ≤ off && off < r.exitOff.toNat + r.exitLen) || (r.entryOff.toNat ≤ off && off < r.entryOff.toNat + r.entryLen)

/-- The decision on a taken transfer of a lane to `target` (R309 to R311), after the check of the return stack. -/
def transfer (target : Int) (word : Word) (upd : Thread → Thread) (l : Lane) (s : State) : State :=
  let bad := Trap.mk .badTarget (BitVec.ofInt 32 target) 0
  let off := BitVec.ofInt 32 target
  if target < 0 || target % 4 ≠ 0 then takeTrap s l.tid bad
  else match fetchWord s l.tid.team off with
    | none => startWait s l.tid (.fetch off)
    | some w =>
      if !isHeader w then takeTrap s l.tid bad
      else
        let go := modThread s l.tid fun th => { upd th with jump := some off }
        match (if handlerOut l.th then none else l.th.routine) with
        | some r =>
          if r.holds off.toNat then go
          else if r.kind == .exit then violate s l.tid word
          else takeTrap s l.tid (openTrap s l.tid .illegalOp)
        | none =>
          if inTableRoutine l.tm.regions off.toNat then takeTrap s l.tid bad else go

/-- A call: the check of a full return stack, then the transfer with the next header pushed (R103, R309). -/
def callTo (target : Int) (word : Word) (l : Lane) (s : State) : State :=
  if 8 ≤ l.th.stack.length then takeTrap s l.tid ⟨.protection, 8, 0⟩
  else transfer target word (fun th => { th with stack := th.stack ++ [nextHeader th.pc] }) l s

/-- The condition of format B for a lane (R309). -/
def branchTaken (n : BitVec 1) (g : BitVec 6) (th : Thread) : Bool := g == 63#6 || (rdP th g.toNat ^^ (n == 1#1))

/-- Target of format B: the header of the clause plus 4 times the signed offset (R285). -/
def branchTarget (o : BitVec 17) (th : Thread) : Int := (th.pc.hdr.toNat : Int) + 4 * o.toInt

/-- Uses of a control transfer. -/
def usesCtrl : Uses := { Uses.none cCtrl with last := true }

/-! ### Scalar and base forms (R313, R314) -/

/-- Operand B of format S: a scalar register or the immediate. -/
def scalarB (i : BitVec 1) (b : BitVec 6) (g : Group) : Word := if i == 1#1 then b.setWidth 32 else rdS g b.toNat

/-- Scalar registers that operand B reads. -/
def readsB (i : BitVec 1) (b : BitVec 6) : List Nat := if i == 1#1 then [] else [b.toNat]

/-- A scalar instruction: `f` on the leader of each group gives the value written to `sd`. -/
def scalarOp (word : Word) (st : BitVec 2) (u : Uses) (d : BitVec 6) (f : Lane → Word) (s : State) : Host.Outcome State Fault Refusal :=
  .next (issue word st { u with ws := [d.toNat] } (fun sl => perGroup (fun l s => writeS s sl.core sl.fid l.tid.team l.tid.group d.toNat (f l)) word sl) s)

/-- `op sd, sa, B`. -/
def salu (word : Word) (st : BitVec 2) (d a b : BitVec 6) (i : BitVec 1) (f : Word → Word → Word) (s : State) : Host.Outcome State Fault Refusal :=
  scalarOp word st { Uses.none cAlu with rs := a.toNat :: readsB i b } d (fun l => f (rdS l.g a.toNat) (scalarB i b l.g)) s

/-- A base instruction: `f` on the team's lowest admitted lane gives the value written to `bd`. -/
def baseOp (word : Word) (st : BitVec 2) (u : Uses) (d : BitVec 6) (f : Lane → VAddr) (s : State) : Host.Outcome State Fault Refusal :=
  .next (issue word st { u with wb := [d.toNat] } (fun sl => perTeam (fun l s => writeB s sl.core sl.fid l.tid.team d.toNat (f l)) word sl) s)

/-! ### MISC -/

/-- No effect (R292). -/
def execNop (st : BitVec 2) (s : State) : Host.Outcome State Fault Refusal :=
  .next (issue (encA 0#6 0#3 0#7 0#7 0#7 st) st (Uses.none none) (fun _ _ s => s) s)

/-- The clause ends as if its header had YIELD = 2 (R292). -/
def execYield (st : BitVec 2) (s : State) : Host.Outcome State Fault Refusal :=
  .next (issue (encA 0#6 1#3 0#7 0#7 0#7 st) st (Uses.none none)
    (fun sl ok s => if ok.isEmpty then s else modSlot s sl.key fun x => { x with yielded := true }) s)

/-- The thread waits from the end of the clause while va is pending (R292). -/
def execSleeptk (a : BitVec 7) (st : BitVec 2) (s : State) : Host.Outcome State Fault Refusal :=
  .next (issue (encA 0#6 2#3 0#7 a 0#7 st) st (Uses.none none)
    (fun sl => perLane (fun l s =>
      match spanBad l.g.regs (a.toNat, 1) with
      | some n => takeTrap s l.tid ⟨.illegalOp, BitVec.ofNat 32 n, 0⟩
      | none => if pendingReg l.th (.v a.toNat) then modThread s l.tid fun th => { th with nap := a.toNat :: th.nap } else s) (encA 0#6 2#3 0#7 a 0#7 st) sl) s)

/-! ### MOVE and MOVL -/

/-- vd = va (R301). -/
def execMov (d a : BitVec 7) (st : BitVec 2) (s : State) : Host.Outcome State Fault Refusal :=
  alu2 (encA 10#6 0#3 d a 0#7 st) st d a (fun x => x) s

/-- vd = va where the covering guard holds, else vb (R301). -/
def execSel (d a b : BitVec 7) (st : BitVec 2) (s : State) : Host.Outcome State Fault Refusal :=
  .next (laneOp (encA 10#6 1#3 d a b st) st { Uses.none cAlu with rv := [(a.toNat, 1), (b.toNat, 1)], wv := [(d.toNat, 1)], sel := true } 4
    (fun l => resV d.toNat (if l.th.pc.guardOk then rdV l.th a.toNat else rdV l.th b.toNat)) s)

/-- vd = a special register (R302). -/
def execMovsRead (d a : BitVec 7) (st : BitVec 2) (s : State) : Host.Outcome State Fault Refusal :=
  .next (issue (encA 10#6 2#3 d a 0#7 st) st { Uses.none cAlu with wv := [(d.toNat, 1)], fst := a.toNat == 17 }
    (fun sl => perLane (fun l s =>
      match readSpecial l a.toNat with
      | some x => writeLane (modThread s l.tid (latchTime s a.toNat)) sl.core sl.fid 4 l.tid [(.v d.toNat, x.setWidth 80)]
      | none => takeTrap s l.tid ⟨.illegalOp, l.word, 0⟩) (encA 10#6 2#3 d a 0#7 st) sl) s)

/-- A special register = vd; only %fctl, %fstat and %gmask are written (R302). DEDUCED: log entry 14. -/
def execMovsWrite (d a : BitVec 7) (st : BitVec 2) (s : State) : Host.Outcome State Fault Refusal :=
  .next (laneOp (encA 10#6 2#3 d a 127#7 st) st { Uses.none cAlu with rv := [(d.toNat, 1)], fst := a.toNat == 17 } 4
    (fun l => match writeSpecial a.toNat (rdV l.th d.toNat) with
      | some x => .ok [(x.1, x.2.setWidth 80)]
      | none => illegal l) s)

/-- vd = p0 to p31 (R301). -/
def execMovp (d : BitVec 7) (st : BitVec 2) (s : State) : Host.Outcome State Fault Refusal :=
  .next (laneOp (encA 10#6 5#3 d 0#7 0#7 st) st { Uses.none cAlu with rp := upto 32, wv := [(d.toNat, 1)] } 4
    (fun l => resV d.toNat (l.th.p.setWidth 32)) s)

/-- p0 to p31 = va (R301). -/
def execSetp (a : BitVec 7) (st : BitVec 2) (s : State) : Host.Outcome State Fault Refusal :=
  .next (laneOp (encA 10#6 6#3 0#7 a 0#7 st) st { Uses.none cAlu with rv := [(a.toNat, 1)], wp := upto 32 } 4
    (fun l => .ok ((upto 32).map fun i => (.p i, if (rdV l.th a.toNat).getLsbD i then 1 else 0))) s)

/-- vd = a scalar register of the group (R301). -/
def execMovsv (d a : BitVec 7) (st : BitVec 2) (s : State) : Host.Outcome State Fault Refusal :=
  .next (laneOp (encA 10#6 7#3 d a 0#7 st) st { Uses.none cAlu with rs := [a.toNat], wv := [(d.toNat, 1)] } 4
    (fun l => resV d.toNat (rdS l.g a.toNat)) s)

/-- vd = zext(imm) (R304). -/
def execMovl (d : BitVec 7) (i : BitVec 16) (st : BitVec 2) (s : State) : Host.Outcome State Fault Refusal :=
  .next (laneOp (encL 11#6 0#1 d i st) st { Uses.none cAlu with wv := [(d.toNat, 1)] } 4 (fun _ => resV d.toNat (i.setWidth 32)) s)

/-- The high half of vd = imm (R304). -/
def execMovh (d : BitVec 7) (i : BitVec 16) (st : BitVec 2) (s : State) : Host.Outcome State Fault Refusal :=
  .next (laneOp (encL 11#6 1#1 d i st) st { Uses.none cAlu with rv := [(d.toNat, 1)], wv := [(d.toNat, 1)] } 4
    (fun l => resV d.toNat (i ++ (rdV l.th d.toNat).extractLsb' 0 16)) s)

/-! ### GUARD, BRA, CALL and JUMP -/

/-- Latch a predicate condition over the next `l` words (R308). DEDUCED: log entry 17. -/
def execGuard (n : BitVec 1) (g : BitVec 6) (l : BitVec 3) (st : BitVec 2) (s : State) : Host.Outcome State Fault Refusal :=
  .next (issue (encG 17#6 n g l 0#14 st) st
    { Uses.none none with rp := [g.toNat], bad := match curPos s with | some x => spanFails s x.1 x.2 l.toNat | none => false }
    (fun sl => perLane (fun ln s => modThread s ln.tid fun th =>
      { th with pc := { th.pc with guardLeft := l.toNat + 1, guardOk := rdP ln.th g.toNat ^^ (n == 1#1), guardPred := g, guardNeg := n == 1#1 } }) (encG 17#6 n g l 0#14 st) sl) s)

/-- Conditional branch to a clause header (R309). -/
def execBra (n : BitVec 1) (g : BitVec 6) (o : BitVec 17) (st : BitVec 2) (s : State) : Host.Outcome State Fault Refusal :=
  .next (issue (encB 18#6 n g o st) st { usesCtrl with rp := if g == 63#6 then [] else [g.toNat] }
    (fun sl => perLane (fun l s => if branchTaken n g l.th then transfer (branchTarget o l.th) l.word (fun th => th) l s else s) (encB 18#6 n g o st) sl) s)

/-- Conditional call to a clause header (R309). -/
def execCall (n : BitVec 1) (g : BitVec 6) (o : BitVec 17) (st : BitVec 2) (s : State) : Host.Outcome State Fault Refusal :=
  .next (issue (encB 19#6 n g o st) st { usesCtrl with rp := if g == 63#6 then [] else [g.toNat] }
    (fun sl => perLane (fun l s => if branchTaken n g l.th then callTo (branchTarget o l.th) l.word l s else s) (encB 19#6 n g o st) sl) s)

/-- Jump to a register target (R310). -/
def execJmp (a : BitVec 7) (st : BitVec 2) (s : State) : Host.Outcome State Fault Refusal :=
  .next (issue (encA 20#6 0#3 0#7 a 0#7 st) st { usesCtrl with rv := [(a.toNat, 1)] }
    (fun sl => perLane (fun l s => transfer (rdV l.th a.toNat).toNat l.word (fun th => th) l s) (encA 20#6 0#3 0#7 a 0#7 st) sl) s)

/-- Call a register target (R310). -/
def execCallr (a : BitVec 7) (st : BitVec 2) (s : State) : Host.Outcome State Fault Refusal :=
  .next (issue (encA 20#6 1#3 0#7 a 0#7 st) st { usesCtrl with rv := [(a.toNat, 1)] }
    (fun sl => perLane (fun l s => callTo (rdV l.th a.toNat).toNat l.word l s) (encA 20#6 1#3 0#7 a 0#7 st) sl) s)

/-- Transfer to the popped return offset (R310). -/
def execRet (st : BitVec 2) (s : State) : Host.Outcome State Fault Refusal :=
  .next (issue (encA 20#6 2#3 0#7 0#7 0#7 st) st usesCtrl
    (fun sl => perLane (fun l s =>
      match l.th.stack.getLast? with
      | none => takeTrap s l.tid ⟨.badTarget, 0, 0⟩
      | some x => transfer x.toNat l.word (fun th => { th with stack := th.stack.dropLast }) l s) (encA 20#6 2#3 0#7 0#7 0#7 st) sl) s)

/-! ### SALU -/

/-- sa + B (R313). -/
def execSadd (d a b : BitVec 6) (i : BitVec 1) (st : BitVec 2) (s : State) : Host.Outcome State Fault Refusal :=
  salu (encS 29#6 0#4 d a b i 0#1 st) st d a b i (fun x y => x + y) s

/-- sa - B (R313). -/
def execSsub (d a b : BitVec 6) (i : BitVec 1) (st : BitVec 2) (s : State) : Host.Outcome State Fault Refusal :=
  salu (encS 29#6 1#4 d a b i 0#1 st) st d a b i (fun x y => x - y) s

/-- Low word of sa * B (R313). -/
def execSmul (d a b : BitVec 6) (i : BitVec 1) (st : BitVec 2) (s : State) : Host.Outcome State Fault Refusal :=
  salu (encS 29#6 2#4 d a b i 0#1 st) st d a b i (fun x y => x * y) s

/-- sa AND B (R313). -/
def execSand (d a b : BitVec 6) (i : BitVec 1) (st : BitVec 2) (s : State) : Host.Outcome State Fault Refusal :=
  salu (encS 29#6 3#4 d a b i 0#1 st) st d a b i (fun x y => x &&& y) s

/-- sa OR B (R313). -/
def execSor (d a b : BitVec 6) (i : BitVec 1) (st : BitVec 2) (s : State) : Host.Outcome State Fault Refusal :=
  salu (encS 29#6 4#4 d a b i 0#1 st) st d a b i (fun x y => x ||| y) s

/-- sa XOR B (R313). -/
def execSxor (d a b : BitVec 6) (i : BitVec 1) (st : BitVec 2) (s : State) : Host.Outcome State Fault Refusal :=
  salu (encS 29#6 5#4 d a b i 0#1 st) st d a b i (fun x y => x ^^^ y) s

/-- Left shift; 0 from 32 on (R313). -/
def execSshl (d a b : BitVec 6) (i : BitVec 1) (st : BitVec 2) (s : State) : Host.Outcome State Fault Refusal :=
  salu (encS 29#6 6#4 d a b i 0#1 st) st d a b i (fun x y => x <<< (y.extractLsb' 0 8).toNat) s

/-- Right shift with zero fill; 0 from 32 on (R313). -/
def execSshr (d a b : BitVec 6) (i : BitVec 1) (st : BitVec 2) (s : State) : Host.Outcome State Fault Refusal :=
  salu (encS 29#6 7#4 d a b i 0#1 st) st d a b i (fun x y => x >>> (y.extractLsb' 0 8).toNat) s

/-- Signed minimum (R313). -/
def execSmin (d a b : BitVec 6) (i : BitVec 1) (st : BitVec 2) (s : State) : Host.Outcome State Fault Refusal :=
  salu (encS 29#6 9#4 d a b i 0#1 st) st d a b i (fun x y => if x.toInt ≤ y.toInt then x else y) s

/-- Signed maximum (R313). -/
def execSmax (d a b : BitVec 6) (i : BitVec 1) (st : BitVec 2) (s : State) : Host.Outcome State Fault Refusal :=
  salu (encS 29#6 10#4 d a b i 0#1 st) st d a b i (fun x y => if x.toInt ≤ y.toInt then y else x) s

/-- sd = B (R313). -/
def execSmov (d b : BitVec 6) (i : BitVec 1) (st : BitVec 2) (s : State) : Host.Outcome State Fault Refusal :=
  scalarOp (encS 29#6 8#4 d 0#6 b i 0#1 st) st { Uses.none cAlu with rs := readsB i b } d (fun l => scalarB i b l.g) s

/-- sd = a vector register of the lowest admitted lane (R313). -/
def execSfrom (d a : BitVec 6) (st : BitVec 2) (s : State) : Host.Outcome State Fault Refusal :=
  scalarOp (encS 29#6 11#4 d a 0#6 0#1 0#1 st) st { Uses.none cAlu with rv := [(a.toNat, 1)], lead := 1 } d (fun l => rdV l.th a.toNat) s

/-! ### BASE -/

/-- bd = a scalar pair with B[15:0] above it (R314). -/
def execBset (d a b : BitVec 6) (i : BitVec 1) (st : BitVec 2) (s : State) : Host.Outcome State Fault Refusal :=
  baseOp (encS 31#6 0#4 d a b i 0#1 st) st { Uses.none cAlu with rs := [a.toNat, a.toNat + 1] ++ readsB i b } d
    (fun l => (scalarB i b l.g).extractLsb' 0 16 ++ rdS64 l.g a.toNat) s

/-- bd = (ba + X) mod 2^80 (R314). -/
def execBadd (d a b : BitVec 6) (i : BitVec 1) (st : BitVec 2) (s : State) : Host.Outcome State Fault Refusal :=
  baseOp (encS 31#6 1#4 d a b i 0#1 st) st { Uses.none cAlu with rb := [a.toNat], rs := if i == 1#1 then [] else [b.toNat, b.toNat + 1] } d
    (fun l => rdB l.tm l.th a.toNat + (if i == 1#1 then b.setWidth 80 else (rdS64 l.g b.toNat).signExtend 80)) s

/-- sd:sd+1 = ba[63:0] when k is 0, sd = ba[79:64] when k is 1 (R314). -/
def execBget (d a b : BitVec 6) (st : BitVec 2) (s : State) : Host.Outcome State Fault Refusal :=
  .next (issue (encS 31#6 2#4 d a b 1#1 0#1 st) st { Uses.none cAlu with rb := [a.toNat], ws := if b.toNat == 0 then [d.toNat, d.toNat + 1] else [d.toNat] }
    (fun sl => perGroup (fun l s =>
      let x := rdB l.tm l.th a.toNat
      if b.toNat == 0 then
        writeS (writeS s sl.core sl.fid l.tid.team l.tid.group d.toNat (x.extractLsb' 0 32)) sl.core sl.fid l.tid.team l.tid.group (d.toNat + 1) (x.extractLsb' 32 32)
      else writeS s sl.core sl.fid l.tid.team l.tid.group d.toNat ((x.extractLsb' 64 16).setWidth 32)) (encS 31#6 2#4 d a b 1#1 0#1 st) sl) s)

/-- bd = ba (R314). -/
def execBmov (d a : BitVec 6) (st : BitVec 2) (s : State) : Host.Outcome State Fault Refusal :=
  baseOp (encS 31#6 3#4 d a 0#6 0#1 0#1 st) st { Uses.none cAlu with rb := [a.toNat] } d (fun l => rdB l.tm l.th a.toNat) s

end Sys2Proof.Machine
end

