-- ==== Sys2Proof/Machine/Number.lean ====
section
/-! DEFINITION. The number formats and exact arithmetic of spec/12: decoding to an exact value, rounding once into a format with the
sticky flags (R244 to R253), exact sums (R256), and the correctly rounded functions of R323. -/

namespace Sys2Proof.Machine

/-! ### Formats and values (R244 to R249) -/

/-- A number format: IEEE with its exponent and fraction widths, the eight-bit formats F8A and F8B, L4, the scale E8, integers. -/
inductive Fmt where
  | ieee (eb fb : Nat)
  | f8 (eb fb : Nat)
  | l4
  | e8
  | int (signed : Bool) (w : Nat)
  deriving DecidableEq, Repr

abbrev fF64 : Fmt := .ieee 11 52
abbrev fF32 : Fmt := .ieee 8 23
abbrev fF16 : Fmt := .ieee 5 10
abbrev fBF16 : Fmt := .ieee 8 7
abbrev fF8A : Fmt := .f8 4 3
abbrev fF8B : Fmt := .f8 5 2

/-- Bits of an element of a format. -/
def Fmt.width : Fmt → Nat
  | .ieee eb fb => 1 + eb + fb
  | .f8 eb fb => 1 + eb + fb
  | .l4 => 4
  | .e8 => 8
  | .int _ w => w

/-- An exact value: sign, magnitude `n * 2^e`, infinity, NaN (signalling or not), or NaR. -/
inductive Val where
  | fin (neg : Bool) (n : Nat) (e : Int)
  | inf (neg : Bool)
  | nan (sig : Bool)
  | nar
  deriving DecidableEq, Repr

/-- Exponent bias of a floating format. -/
def biasOf (eb : Nat) : Nat := 2 ^ (eb - 1) - 1

/-- Magnitude of the fields of a floating format, with the exponent field `e` and fraction `f`. -/
def floatVal (neg : Bool) (eb fb e f : Nat) : Val :=
  if e == 0 then .fin neg f (1 - (biasOf eb : Int) - fb) else .fin neg (2 ^ fb + f) ((e : Int) - biasOf eb - fb)

/-- The exact value of an element (R244 to R249). -/
def decodeVal (t : Fmt) (x : Nat) : Val :=
  match t with
  | .ieee eb fb =>
    let neg := x.testBit (eb + fb)
    let e := x / 2 ^ fb % 2 ^ eb
    let f := x % 2 ^ fb
    if e == 2 ^ eb - 1 then (if f == 0 then .inf neg else .nan (!f.testBit (fb - 1))) else floatVal neg eb fb e f
  | .f8 eb fb =>
    if x % 256 == 128 then .nar else floatVal (x.testBit 7) eb fb (x / 2 ^ fb % 2 ^ eb) (x % 2 ^ fb)
  | .l4 =>
    let c := x % 8
    if c == 0 then (if x.testBit 3 then .nar else .fin false 0 0) else .fin (x.testBit 3) 1 ((c : Int) - 4)
  | .e8 => if x == 0 then .fin false 0 0 else if x == 255 then .nar else .fin false 1 ((x : Int) - 128)
  | .int sg w =>
    let y := x % 2 ^ w
    if sg && y.testBit (w - 1) then .fin true (2 ^ w - y) 0 else .fin false y 0

/-! ### Rounding (R247, R251, R253) -/

/-- Rounding modes of R251. -/
inductive Rm where
  | rne | rtz | rdn | rup | rto
  deriving DecidableEq, Repr

/-- The mode of a code. -/
def Rm.ofCode (n : Nat) : Rm := match n with | 1 => .rtz | 2 => .rdn | 3 => .rup | 4 => .rto | _ => .rne

/-- `%fctl`.RM for an instruction that is no narrowing conversion: RTO rounds as RNE (R251). -/
def rmOf (fctl : Word) : Rm := match Rm.ofCode (fctl.extractLsb' 0 3).toNat with | .rto => .rne | m => m

/-- Choose between a lower candidate and the next greater one in magnitude. `below`: the value is inexact; `cmp`: its place
relative to the midpoint; `odd`: the lower candidate is odd. -/
def roundsUp (m : Rm) (neg inexact odd : Bool) (cmp : Ordering) : Bool :=
  inexact && match m with
    | .rne => cmp == .gt || (cmp == .eq && odd)
    | .rtz => false
    | .rdn => neg
    | .rup => !neg
    | .rto => !odd

/-- Position of the highest one of a nonzero number. -/
def msb (n : Nat) : Nat := Nat.log2 n

/-- Round `n * 2^e` (a little more when `sticky`) to a multiple of `2^q`: the multiple and whether it is inexact. -/
def roundAt (m : Rm) (neg : Bool) (q : Int) (n : Nat) (e : Int) (sticky : Bool) : Nat × Bool :=
  if q ≤ e then (n * 2 ^ (e - q).toNat, sticky)
  else
    let sh := (q - e).toNat
    let lo := n / 2 ^ sh
    let r := n % 2 ^ sh
    let inexact := r != 0 || sticky
    let cmp := if r == 2 ^ (sh - 1) then (if sticky then .gt else .eq) else compare r (2 ^ (sh - 1))
    (if roundsUp m neg inexact (lo % 2 == 1) cmp then lo + 1 else lo, inexact)

/-- Round to a logarithmic set of codes: code `c` from 1 on stands for `2^(c - off)`, code 0 for zero (R247, R329). -/
def roundLog (m : Rm) (neg : Bool) (off : Nat) (n : Nat) (e : Int) (sticky : Bool) : Nat × Bool :=
  if n == 0 then (0, sticky)
  else
    let k := (msb n : Int) + e
    let lo := (k + off).toNat
    if k + off < 1 then
      -- below the least nonzero value 2^(1 - off), whose half is 2^(-off)
      let cmp : Ordering := if k + off < 0 then .lt else if n == 2 ^ msb n && !sticky then .eq else .gt
      (if roundsUp m neg true false cmp then 1 else 0, true)
    else
      let inexact := n != 2 ^ msb n || sticky
      let half := 3 * 2 ^ msb n
      let cmp := if 2 * n == half && sticky then .gt else compare (2 * n) half
      (if roundsUp m neg inexact (lo % 2 == 1) cmp then lo + 1 else lo, inexact)

/-- Flags that hold together. -/
def orFlags (l : List (Bool × Word)) : Word := l.foldl (fun a x => if x.1 then a ||| x.2 else a) 0

/-! ### Encoding (R253, R329) -/

/-- Canonical NaN of an IEEE format (R244). -/
def canonNan (eb fb : Nat) : Nat := (2 ^ eb - 1) * 2 ^ fb + 2 ^ (fb - 1)

/-- Sign bit of an element. -/
def signBits (t : Fmt) (neg : Bool) : Nat := if neg then 2 ^ (t.width - 1) else 0

/-- Bits of `m * 2^q`, `m` at most `2^(fb + 1)`, in a floating format. -/
def packFloat (eb fb : Nat) (m : Nat) (q : Int) : Nat :=
  if m < 2 ^ fb then m
  else
    let (m, q) := if m == 2 ^ (fb + 1) then (2 ^ fb, q + 1) else (m, q)
    (q + fb + biasOf eb).toNat * 2 ^ fb + (m - 2 ^ fb)

/-- Greatest exponent field of a floating format. -/
def maxField : Fmt → Nat
  | .ieee eb _ => 2 ^ eb - 2
  | .f8 eb _ => 2 ^ eb - 1
  | _ => 0

/-- Bits of the largest finite magnitude. -/
def maxBits : Fmt → Nat
  | .ieee eb fb => (2 ^ eb - 2) * 2 ^ fb + (2 ^ fb - 1)
  | .f8 eb fb => 2 ^ (eb + fb) - 1
  | .l4 => 7
  | .e8 => 254
  | .int sg w => if sg then 2 ^ (w - 1) - 1 else 2 ^ w - 1

/-- The overflow of R253 for a floating or logarithmic target. -/
def overflowBits (t : Fmt) (m : Rm) (neg narrowing narm : Bool) : Nat × Word :=
  let s := signBits t neg
  match t with
  | .ieee eb fb =>
    let inf := s + (2 ^ eb - 1) * 2 ^ fb
    if narrowing && !narm then (s + maxBits t, flagSAT)
    else (match m with
      | .rne => inf
      | .rtz => s + maxBits t
      | .rto => s + maxBits t
      | .rdn => if neg then inf else s + maxBits t
      | .rup => if neg then s + maxBits t else inf, 0)
  | _ => if narm then (2 ^ (t.width - 1), flagNAR) else (s + maxBits t, flagSAT)

/-- Clamp an integer magnitude: the bits, and whether it was outside the range. -/
def clampInt (sg : Bool) (w : Nat) (neg : Bool) (n : Nat) : Nat × Bool :=
  if neg then
    (if !sg then (0, n != 0) else if 2 ^ (w - 1) < n then (2 ^ (w - 1), true) else ((2 ^ w - n) % 2 ^ w, false))
  else if maxBits (.int sg w) < n then (maxBits (.int sg w), true) else (n, false)

/-- Round a finite magnitude into a floating format and write it (R253). -/
def encodeFloat (t : Fmt) (eb fb : Nat) (m : Rm) (narrowing narm neg : Bool) (n : Nat) (e : Int) (sticky : Bool) : Nat × Word :=
  let qmin : Int := 1 - (biasOf eb : Int) - fb
  let q := max qmin ((msb n : Int) + e - fb)
  let (y, inexact) := roundAt m neg q n e sticky
  let fl := orFlags [(inexact, flagNX), (inexact && y < 2 ^ fb, flagUF)]
  let bits := packFloat eb fb y q
  if maxField t < bits / 2 ^ fb then
    let o := overflowBits t m neg narrowing narm
    (o.1, fl ||| flagOF ||| flagNX ||| o.2)
  else if y == 0 then (match t with | .ieee _ _ => signBits t neg | _ => 0, fl)
  else (signBits t neg + bits, fl)

/-- `encode` of R253 on a value given as a finite magnitude `n * 2^e`, strictly between `n` and `n + 1` when `sticky`. -/
def encodeFin (t : Fmt) (m : Rm) (narrowing narm neg : Bool) (n : Nat) (e : Int) (sticky : Bool) : Nat × Word :=
  if n == 0 && !sticky then (match t with | .ieee _ _ => signBits t neg | _ => 0, 0)
  else match t with
  | .ieee eb fb => encodeFloat t eb fb m narrowing narm neg n e sticky
  | .f8 eb fb => encodeFloat t eb fb m narrowing narm neg n e sticky
  | .l4 =>
    let (c, inexact) := roundLog m neg 4 n e sticky
    if 7 < c then let o := overflowBits t m neg narrowing narm; (o.1, flagOF ||| flagNX ||| o.2)
    else (if c == 0 then 0 else signBits t neg + c, orFlags [(inexact, flagNX), (inexact && c == 0, flagUF)])
  | .e8 =>
    if neg then (255, flagNV ||| flagNAR)
    else
      let (c, inexact) := roundLog m false 128 n e sticky
      if 254 < c then (if narm then (255, flagOF ||| flagNX ||| flagNAR) else (254, flagOF ||| flagNX ||| flagSAT))
      else (c, orFlags [(inexact, flagNX), (inexact && (msb n : Int) + e < -127, flagUF)])
  | .int sg w =>
    let (y, inexact) := roundAt m neg 0 n e sticky
    let r := clampInt sg w neg y
    (r.1, orFlags [(inexact, flagNX), (r.2, flagOF ||| flagNX ||| flagSAT)])

/-- `encode` of R253, and `encode_e8` of R329: the bits and the flags. -/
def encodeVal (t : Fmt) (m : Rm) (narrowing narm : Bool) (x : Val) : Nat × Word :=
  match x with
  | .nan sig =>
    let f := orFlags [(sig, flagNV)]
    (match t with
      | .ieee eb fb => (canonNan eb fb, f)
      | .f8 _ _ => (128, f ||| flagNAR)
      | .l4 => (8, f ||| flagNAR)
      | .e8 => (255, f ||| flagNAR)
      | .int _ _ => (0, f ||| flagNV))
  | .nar =>
    (match t with
      | .ieee eb fb => (canonNan eb fb, flagNAR)
      | .f8 _ _ => (128, flagNAR)
      | .l4 => (8, flagNAR)
      | .e8 => (255, flagNAR)
      | .int _ _ => (0, flagNAR ||| flagNV))
  | .inf neg =>
    (match t with
      | .ieee eb fb => (signBits t neg + (2 ^ eb - 1) * 2 ^ fb, 0)
      | .int sg w => ((clampInt sg w neg (2 ^ (w + 1))).1, flagNV ||| flagSAT)
      | .e8 => if neg then (255, flagNV ||| flagNAR) else if narm then (255, flagNAR) else (254, flagSAT)
      | _ => if narm then (2 ^ (t.width - 1), flagNAR) else (signBits t neg + maxBits t, flagSAT))
  | .fin neg n e => encodeFin t m narrowing narm neg n e false

/-! ### Exact arithmetic (R256, R316, R318) -/

/-- Whether a value is a NaN or a NaR, and whether it is a signalling NaN. -/
def Val.isNan : Val → Bool | .nan _ => true | .nar => true | _ => false
def Val.isSig : Val → Bool | .nan s => s | _ => false

/-- Negation. -/
def Val.negate : Val → Val | .fin s n e => .fin (!s) n e | .inf s => .inf (!s) | x => x

/-- The NaN that stands for the operands' NaNs, with the flags that reading them sets: NV for a signalling one, NAR for a NaR. -/
def nanOf (l : List Val) : Val × Word := (.nan false, orFlags [(l.any Val.isSig, flagNV), (l.contains .nar, flagNAR)])

/-- Exact product of two values that are no NaN; `none` for 0 times infinity. -/
def mulVal (a b : Val) : Option Val :=
  match a, b with
  | .fin s n e, .fin t k f => some (.fin (s ^^ t) (n * k) (e + f))
  | .inf s, .inf t => some (.inf (s ^^ t))
  | .inf s, .fin t k _ => if k == 0 then none else some (.inf (s ^^ t))
  | .fin s n _, .inf t => if n == 0 then none else some (.inf (s ^^ t))
  | _, _ => none

/-- Least exponent of the finite values of a list. -/
def minExp (l : List Val) : Int := l.foldl (fun m x => match x with | .fin _ n e => if n == 0 then m else min m e | _ => m) 0

/-- Exact sum of finite values in units of `2^e`. -/
def sumInt (e : Int) (l : List Val) : Int :=
  l.foldl (fun a x => match x with
    | .fin s n f => let y : Int := (n * 2 ^ (f - e).toNat : Nat); if n == 0 then a else if s then a - y else a + y
    | _ => a) 0

/-- Exact sum of values none of which is a NaN (R256): infinities of one sign win, of both signs are invalid; a zero sum is -0 when
every addend is -0, +0 when every addend is +0, and otherwise as the mode says. -/
def sumVal (m : Rm) (l : List Val) : Val × Word :=
  let p := l.contains (.inf false)
  let q := l.contains (.inf true)
  if p && q then (.nan false, flagNV)
  else if p then (.inf false, 0)
  else if q then (.inf true, 0)
  else
    let e := minExp l
    let s := sumInt e l
    let isZero := fun (neg : Bool) (x : Val) => match x with | .fin s n _ => n == 0 && s == neg | _ => false
    if s == 0 then (.fin (l.all (isZero true) || (!l.all (isZero false) && m == .rdn)) 0 0, 0)
    else (.fin (s < 0) s.natAbs e, 0)

/-- Round a value with flags already set into a format; arithmetic is never narrowing. -/
def finish (t : Fmt) (m : Rm) (r : Val × Word) : Nat × Word :=
  let y := encodeVal t m false false r.1
  (y.1, y.2 ||| r.2)

/-- Sum of two operands (R316). -/
def addOp (t : Fmt) (m : Rm) (a b : Val) : Nat × Word :=
  finish t m (if a.isNan || b.isNan then nanOf [a, b] else sumVal m [a, b])

/-- Product of two operands (R316). -/
def mulOp (t : Fmt) (m : Rm) (a b : Val) : Nat × Word :=
  finish t m (if a.isNan || b.isNan then nanOf [a, b] else match mulVal a b with | some x => (x, 0) | none => (.nan false, flagNV))

/-- Fused product and sum (R318): an invalid product sets NV even when the addend is a quiet NaN. -/
def fmaOp (t : Fmt) (m : Rm) (a b c : Val) : Nat × Word :=
  finish t m (
    if a.isNan || b.isNan then nanOf [a, b, c]
    else match mulVal a b with
      | none => let r := nanOf [c]; (r.1, r.2 ||| flagNV)
      | some x => if c.isNan then nanOf [c] else sumVal m [x, c])

/-- `dot_float` of R256. -/
def dotOp (m : Rm) (acc : Val) (ab : List (Val × Val)) : Nat × Word :=
  let all := acc :: ab.flatMap fun x => [x.1, x.2]
  finish fF32 m (
    if all.any Val.isNan then nanOf all
    else
      let ps := ab.map fun x => mulVal x.1 x.2
      if ps.any Option.isNone then (.nan false, flagNV) else sumVal m (acc :: ps.filterMap id))

/-- Order of R317: -0 below +0. -/
def orderKey (t : Fmt) (x : Nat) : Int :=
  let h := 2 ^ (t.width - 1)
  if h ≤ x then -1 - ((x - h : Nat) : Int) else x

/-- Minimum (`big` false) or maximum of R317 on IEEE bits; `num`: one NaN operand gives the other. -/
def minmaxOp (t : Fmt) (big num : Bool) (x y : Nat) : Nat × Word :=
  let a := decodeVal t x
  let b := decodeVal t y
  let f := orFlags [(a.isSig || b.isSig, flagNV)]
  let c := match t with | .ieee eb fb => canonNan eb fb | _ => 0
  if a.isNan && b.isNan then (c, f)
  else if a.isNan then (if num then y else c, f)
  else if b.isNan then (if num then x else c, f)
  else (if (orderKey t x ≤ orderKey t y) ^^ big then x else y, f)

/-- Quotient of two operands (R320). -/
def divOp (t : Fmt) (m : Rm) (a b : Val) : Nat × Word :=
  if a.isNan || b.isNan then finish t m (nanOf [a, b])
  else match a, b with
    | .inf _, .inf _ => finish t m (.nan false, flagNV)
    | .inf s, .fin u _ _ => finish t m (.inf (s ^^ u), 0)
    | .fin s _ _, .inf u => finish t m (.fin (s ^^ u) 0 0, 0)
    | .fin s n e, .fin u k f =>
      if k == 0 then (if n == 0 then finish t m (.nan false, flagNV) else finish t m (.inf (s ^^ u), flagDZ))
      else
        let sh := 128 + msb k
        let w := n * 2 ^ sh
        encodeFin t m false false (s ^^ u) (w / k) (e - f - sh) (w % k != 0)
    | _, _ => finish t m (nanOf [a, b])

/-- Integer square root by bits: `r` is the root of the bits above `i`. -/
def isqrtFrom (n r : Nat) : Nat → Nat
  | 0 => r
  | i + 1 => let c := r + 2 ^ i; isqrtFrom n (if c * c ≤ n then c else r) i

/-- Integer square root. -/
def isqrt (n : Nat) : Nat := isqrtFrom n 0 (msb n / 2 + 1)

/-- Square root of `n * 2^e` as a magnitude: its integer part in units of `2^f`, `f`, and whether it is inexact. -/
def sqrtMag (n : Nat) (e : Int) : Nat × Int × Bool :=
  let sh : Nat := 256 + (if (e - 256) % 2 == 0 then 0 else 1)
  let w := n * 2 ^ sh
  let r := isqrt w
  (r, (e - sh) / 2, r * r != w)

/-- Square root of an operand (R320, R324). -/
def sqrtOp (t : Fmt) (m : Rm) (a : Val) : Nat × Word :=
  match a with
  | .inf false => finish t m (a, 0)
  | .inf true => finish t m (.nan false, flagNV)
  | .fin s n e =>
    if n == 0 then finish t m (a, 0)
    else if s then finish t m (.nan false, flagNV)
    else let r := sqrtMag n e; encodeFin t m false false false r.1 r.2.1 r.2.2
  | _ => finish t m (nanOf [a])

/-! ### The functions of R323, in fixed point with 480 fraction bits -/

/-- Fraction bits of the fixed-point values. -/
abbrev fxBits : Nat := 480
/-- 1 in fixed point. -/
def fxOne : Nat := 2 ^ fxBits
/-- 2 pi in fixed point, cut below. -/
def fxTwoPi : Nat := 0x6487ED5110B4611A62633145C06E0E68948127044533E63A0105DF531D89CD9128A5043CC71A026EF7CA8CD9E69D218D98158536F92F8A1BA7F09AB6B
/-- ln 2 in fixed point, cut below. -/
def fxLn2 : Nat := 0xB17217F7D1CF79ABC9E3B39803F2F6AF40F343267298B62D8A0D175B8BAAFA2BE7B876206DEBAC98559552FB4AFA1B10ED2EAE35C138214427573B29

/-- Product of fixed-point values, cut below. -/
def fxMul (a b : Nat) : Nat := a * b / fxOne

/-- `n * 2^e` in fixed point, cut below. -/
def fxOf (n : Nat) (e : Int) : Nat := if 0 ≤ e + fxBits then n * 2 ^ (e + fxBits).toNat else n / 2 ^ (-(e + fxBits)).toNat

/-- Sum of the series of exp at `x` from the term `t` of index `k` on. -/
def expSeries (x t k : Nat) : Nat → Nat
  | 0 => 0
  | n + 1 => t + expSeries x (fxMul t x / (k + 1)) (k + 1) n

/-- 2 to the power of a fraction `f` of fixed point, in fixed point. -/
def fxExp2 (f : Nat) : Nat := expSeries (fxMul f fxLn2) fxOne 0 120

/-- Alternating series of sin and cos at `x`: terms `t`, next factors `k + 1` and `k + 2`. -/
def trigSeries (x t k : Nat) (neg : Bool) : Nat → Int
  | 0 => 0
  | n + 1 => (if neg then -(t : Int) else t) + trigSeries x (fxMul (fxMul t x) x / ((k + 1) * (k + 2))) (k + 2) (!neg) n

/-- sin and cos of a fixed-point argument below 2 pi. -/
def fxSin (x : Nat) : Int := trigSeries x x 1 false 80
def fxCos (x : Nat) : Int := trigSeries x fxOne 0 false 80

/-- Series of atanh at `t`: powers `p` over odd `k`. -/
def atanhSeries (t2 p k : Nat) : Nat → Nat
  | 0 => 0
  | n + 1 => p / k + atanhSeries t2 (fxMul p t2) (k + 2) n

/-- log2 of a fixed-point value in [1, 2). -/
def fxLog2 (x : Nat) : Nat :=
  let t := (x - fxOne) * fxOne / (x + fxOne)
  2 * atanhSeries (fxMul t t) t 1 160 * fxOne / fxLn2

/-- An approximate function's result: rounded once to nearest even, always inexact (R323). DEDUCED: log entry 18. -/
def approx (neg : Bool) (n : Nat) (e : Int) : Nat × Word := encodeFin fF32 .rne false false neg n e true

/-- An exact result. -/
def exactRes (neg : Bool) (n : Nat) (e : Int) : Nat × Word := encodeFin fF32 .rne false false neg n e false

/-- NaN and infinity of F32 with a flag. -/
def nanRes (f : Word) : Nat × Word := (canonNan 8 23, f)
def infRes (neg : Bool) (f : Word) : Nat × Word := ((if neg then 2 ^ 31 else 0) + 0x7F800000, f)

/-- The quiet or signalling NaN operand of R324. -/
def nanArg (sig : Bool) : Nat × Word := nanRes (orFlags [(sig, flagNV)])

/-- `rcp` (R323, R324). DEDUCED: log entry 18. -/
def sfuRcp (m : Rm) (x : Nat) : Nat × Word := divOp fF32 m (.fin false 1 0) (decodeVal fF32 x)

/-- `sqrt` (R323, R324). -/
def sfuSqrt (m : Rm) (x : Nat) : Nat × Word := sqrtOp fF32 m (decodeVal fF32 x)

/-- `rsqrt` (R323, R324). -/
def sfuRsqrt (x : Nat) : Nat × Word :=
  match decodeVal fF32 x with
  | .fin s n e =>
    if n == 0 then infRes s flagDZ
    else if s then nanRes flagNV
    else if n == 2 ^ msb n && ((msb n : Int) + e) % 2 == 0 then exactRes false 1 (-(((msb n : Int) + e) / 2))
    else
      -- 1/sqrt(n 2^e) = sqrt(2^512 / n) 2^(-(256 + e/2)) for even e
      let (n, e) := if e % 2 == 0 then (n, e) else (2 * n, e - 1)
      approx false (isqrt (2 ^ 512 / n)) (-(256 + e / 2))
  | .inf s => if s then nanRes flagNV else (0, 0)
  | .nan sig => nanArg sig
  | .nar => nanArg false

/-- `log2` (R323, R324). DEDUCED: log entry 18. -/
def sfuLog2 (x : Nat) : Nat × Word :=
  match decodeVal fF32 x with
  | .fin s n e =>
    if n == 0 then infRes true flagDZ
    else if s then nanRes flagNV
    else
      let k := (msb n : Int) + e
      if n == 2 ^ msb n then exactRes (k < 0) k.natAbs 0
      else
        let y : Int := k * fxOne + fxLog2 (n * fxOne / 2 ^ msb n)
        approx (y < 0) (if y < 0 then y.natAbs - 1 else y.natAbs) (-fxBits)
  | .inf s => if s then nanRes flagNV else infRes false 0
  | .nan sig => nanArg sig
  | .nar => nanArg false

/-- 2 to the power `y`, `y` an integer in fixed point, as a magnitude in fixed point over a power of two: fraction part and exponent. -/
def exp2Parts (y : Int) : Nat × Int := (fxExp2 (y % (fxOne : Int)).toNat, y / (fxOne : Int))

/-- `exp2` (R323, R324). DEDUCED: log entry 18. -/
def sfuExp2 (x : Nat) : Nat × Word :=
  match decodeVal fF32 x with
  | .fin s n e =>
    if n == 0 then exactRes false 1 0
    else if 10 ≤ (msb n : Int) + e then (if s then approx false 1 (-400) else exactRes false 1 400)
    else
      let mag := fxOf n e
      if n * 2 ^ 200 % 2 ^ (200 - e).toNat == 0 && e ≤ 0 || 0 ≤ e then
        exactRes false 1 (if s then -((mag / fxOne : Nat) : Int) else ((mag / fxOne : Nat) : Int))
      else
        let p := exp2Parts (if s then -(mag : Int) else mag)
        approx false p.1 (p.2 - fxBits)
  | .inf s => if s then (0, 0) else infRes false 0
  | .nan sig => nanArg sig
  | .nar => nanArg false

/-- `sin` and `cos` (R323, R324): the argument reduced exactly. DEDUCED: log entry 18. -/
def sfuTrig (isCos : Bool) (x : Nat) : Nat × Word :=
  match decodeVal fF32 x with
  | .fin s n e =>
    if n == 0 then (if isCos then exactRes false 1 0 else (x, 0))
    else
      let r := fxOf n e % fxTwoPi
      let y := if isCos then fxCos r else fxSin r
      let neg := (y < 0) ^^ (s && !isCos)
      approx neg (if y < 0 then y.natAbs - 1 else y.natAbs) (-fxBits)
  | .inf _ => nanRes flagNV
  | .nan sig => nanArg sig
  | .nar => nanArg false

/-- `tanh` (R323, R324). -/
def sfuTanh (x : Nat) : Nat × Word :=
  match decodeVal fF32 x with
  | .fin s n e =>
    if n == 0 then (x, 0)
    else if 6 ≤ (msb n : Int) + e then approx s (fxOne - 1) (-fxBits)
    else
      let y := 2 * fxOf n e * fxOne / fxLn2
      let p := exp2Parts y
      let big := p.1 * 2 ^ p.2.toNat
      approx s ((big - fxOne) * fxOne / (big + fxOne) - 1) (-fxBits)
  | .inf s => (signBits fF32 s + 0x3F800000, 0)
  | .nan sig => nanArg sig
  | .nar => nanArg false

end Sys2Proof.Machine
end

