-- ==== Sys2Proof/Machine/Float.lean ====
section
/-! DEFINITION. The floating-point, packed, conversion, dot product and scale families (R306, R315 to R331). -/

namespace Sys2Proof.Machine

/-! ### Forms -/

/-- The writes of a 32-bit result with its flags (R315). -/
def resF (d : Nat) (r : Nat × Word) : List (Reg × BitVec 80) :=
  (.v d, BitVec.ofNat 80 (r.1 % 2 ^ 32)) :: if r.2 == 0 then [] else [(.flags, r.2.setWidth 80)]

/-- The writes of a result in `k` registers from `d` on, with its flags. -/
def resSpan (d k : Nat) (r : Nat × Word) : List (Reg × BitVec 80) :=
  ((upto k).map fun i => (Reg.v (d + i), BitVec.ofNat 80 (r.1 / 2 ^ (32 * i) % 2 ^ 32))) ++ if r.2 == 0 then [] else [(.flags, r.2.setWidth 80)]

/-- The value of `k` registers from `n` on, the first in the low bits. -/
def rdSpan (th : Thread) (n k : Nat) : Nat := (upto k).foldl (fun a i => a + (rdV th (n + i)).toNat * 2 ^ (32 * i)) 0

/-- `op vd, va, vb` of latency 8 on the register words, under the thread's rounding mode. -/
def flt3 (word : Word) (st : BitVec 2) (d a b : BitVec 7) (f : Rm → Nat → Nat → Nat × Word) (s : State) : Host.Outcome State Fault Refusal :=
  .next (laneOp word st { Uses.none cAlu with rv := [(a.toNat, 1), (b.toNat, 1)], wv := [(d.toNat, 1)] } 8
    (fun l => .ok (resF d.toNat (f (rmOf l.th.fctl) (rdV l.th a.toNat).toNat (rdV l.th b.toNat).toNat))) s)

/-- As `flt3`, with VD read as a third operand. -/
def flt4 (word : Word) (st : BitVec 2) (d a b : BitVec 7) (f : Rm → Nat → Nat → Nat → Nat × Word) (s : State) : Host.Outcome State Fault Refusal :=
  .next (laneOp word st { Uses.none cAlu with rv := [(a.toNat, 1), (b.toNat, 1), (d.toNat, 1)], wv := [(d.toNat, 1)] } 8
    (fun l => .ok (resF d.toNat (f (rmOf l.th.fctl) (rdV l.th a.toNat).toNat (rdV l.th b.toNat).toNat (rdV l.th d.toNat).toNat))) s)

/-- SCALE: latency 4. -/
def scale3 (word : Word) (st : BitVec 2) (d : BitVec 7) (rv : List (Nat × Nat)) (f : Thread → Nat × Word) (s : State) : Host.Outcome State Fault Refusal :=
  .next (laneOp word st { Uses.none cAlu with rv := rv, wv := [(d.toNat, 1)] } 4 (fun l => .ok (resF d.toNat (f l.th))) s)

/-- Mark the destination and `%fstat` of a lane pending, and hold its result until the unit delivers it (R108, R255). -/
def holdResult (tok : Nat) (d k : Nat) (r : Nat × Word) (th : Thread) : Thread :=
  { th with pend := (th.pend ++ (upto k).map fun i => ⟨.v (d + i), .sfu, tok⟩) ++ [⟨.fstat, .sfu, tok⟩]
            held := th.held ++ [⟨tok, resSpan d k r⟩] }

/-- Issue an SFU or F64 instruction: variable latency, class LONG (R315, R321, R322). -/
def longOp (word : Word) (st : BitVec 2) (rv : List (Nat × Nat)) (d k : Nat) (f : Lane → Nat × Word) (s : State) : Host.Outcome State Fault Refusal :=
  .next (issue word st { Uses.none cLong with rv := rv, wv := [(d, k)] }
    (fun sl ok s =>
      let (tok, s) := freshId s
      perLane (fun l s => modThread s l.tid (holdResult tok d k (f l))) word sl ok s) s)

/-- `op vd, va, vb` on F64 pairs. -/
def dbl3 (word : Word) (st : BitVec 2) (d a b : BitVec 7) (f : Rm → Nat → Nat → Nat × Word) (s : State) : Host.Outcome State Fault Refusal :=
  longOp word st [(a.toNat, 2), (b.toNat, 2)] d.toNat 2 (fun l => f (rmOf l.th.fctl) (rdSpan l.th a.toNat 2) (rdSpan l.th b.toNat 2)) s

/-- An SFU function of one F32 operand. -/
def sfu1 (word : Word) (st : BitVec 2) (d a : BitVec 7) (f : Rm → Nat → Nat × Word) (s : State) : Host.Outcome State Fault Refusal :=
  longOp word st [(a.toNat, 1)] d.toNat 1 (fun l => f (rmOf l.th.fctl) (rdV l.th a.toNat).toNat) s

/-- The two 16-bit elements of packed operands, each computed alone; flags are the union (R319). -/
def packed2 (f : Nat → Nat → Nat → Nat × Word) (x y z : Nat) : Nat × Word :=
  let lo := f (x % 65536) (y % 65536) (z % 65536)
  let hi := f (x / 65536) (y / 65536) (z / 65536)
  (hi.1 * 65536 + lo.1, hi.2 ||| lo.2)

/-! ### Values -/

/-- `fcopysign` (R316). -/
def copySign (x y : Nat) : Nat × Word :=
  match decodeVal fF32 x with
  | .nan sig => nanArg sig
  | _ => (x % 2 ^ 31 + y / 2 ^ 31 * 2 ^ 31, 0)

/-- The relation of CMPF (R306): the result and its flag. -/
def cmpFloat (cc x y : Nat) : Bool × Word :=
  let a := decodeVal fF32 x
  let b := decodeVal fF32 y
  let u := a.isNan || b.isNan
  let isZero := fun (v : Val) => match v with | .fin _ n _ => n == 0 | _ => false
  let key := fun (v : Val) (n : Nat) => if isZero v then 0 else orderKey fF32 n
  let rel := relates (cc % 8) (key a x) (key b y)
  (if cc == 14 then !u else if cc == 15 then u else if cc < 8 then !u && rel else u || rel, orFlags [(a.isSig || b.isSig, flagNV)])

/-- Elements of a packed register (R250). -/
def elemsOf (t : Fmt) (n x : Nat) : List Nat := (upto n).map fun i => x / 2 ^ (t.width * i) % 2 ^ t.width

/-- The integer of an element. -/
def intVal (t : Fmt) (x : Nat) : Int := match decodeVal t x with | .fin s n _ => if s then -(n : Int) else n | _ => 0

/-- `dot_int` of R256. -/
def dotInt (t : Fmt) (n : Nat) (saturating : Bool) (acc x y : Nat) : Nat × Word :=
  let s := ((elemsOf t n x).zip (elemsOf t n y)).foldl (fun s p => s + intVal t p.1 * intVal t p.2) (intVal (.int true 32) acc)
  if saturating && (s < -2147483648 || 2147483647 < s) then (if s < 0 then 2 ^ 31 else 2 ^ 31 - 1, flagSAT)
  else ((s % 2 ^ 32).toNat, 0)

/-- `dot_float` of R256 on packed registers. -/
def dotFloat (t : Fmt) (n : Nat) (m : Rm) (acc x y : Nat) : Nat × Word :=
  dotOp m (decodeVal fF32 acc) (((elemsOf t n x).zip (elemsOf t n y)).map fun p => (decodeVal t p.1, decodeVal t p.2))

/-- `scalef` (R331). -/
def scaleF (m : Rm) (x : Nat) (k : Int) : Nat × Word :=
  match decodeVal fF32 x with
  | .fin s n e => if n == 0 then (x, 0) else encodeFin fF32 m false false s n (max (-2000) (min 2000 (e + k))) false
  | .inf _ => (x, 0)
  | .nan sig => nanArg sig
  | .nar => nanArg false

/-- `fexp` (R331). -/
def fexpOf (x : Nat) : Nat × Word :=
  match decodeVal fF32 x with
  | .fin _ n e => if n == 0 then (0x80000000, 0) else ((((msb n : Int) + e) % 2 ^ 32).toNat, 0)
  | _ => (0x7FFFFFFF, flagNV)

/-- `fmant` (R331). -/
def fmantOf (x : Nat) : Nat × Word :=
  match decodeVal fF32 x with
  | .fin s n _ => if n == 0 then (x, 0) else exactRes s n (-(msb n : Int))
  | .inf _ => (x, 0)
  | .nan sig => nanArg sig
  | .nar => nanArg false

/-! ### Conversions (R325 to R329) -/

/-- A conversion code: destination and source formats, element count, and whether it is narrowing (R327). -/
structure CvtCode where
  dst : Fmt
  src : Fmt
  n : Nat
  narrowing : Bool
  deriving DecidableEq, Repr

/-- The conversion codes of R327. -/
def cvtCode (code : Nat) : CvtCode :=
  match code with
  | 0 => ⟨fF32, fF64, 1, true⟩
  | 1 => ⟨fF64, fF32, 1, false⟩
  | 2 => ⟨fF32, fF16, 1, false⟩
  | 3 => ⟨fF16, fF32, 1, true⟩
  | 4 => ⟨fF32, fBF16, 1, false⟩
  | 5 => ⟨fBF16, fF32, 1, true⟩
  | 6 => ⟨fF16, fF64, 1, true⟩
  | 7 => ⟨fF64, fF16, 1, false⟩
  | 8 => ⟨.int true 32, fF32, 1, true⟩
  | 9 => ⟨.int false 32, fF32, 1, true⟩
  | 10 => ⟨fF32, .int true 32, 1, true⟩
  | 11 => ⟨fF32, .int false 32, 1, true⟩
  | 12 => ⟨.int true 32, fF64, 1, true⟩
  | 13 => ⟨.int false 32, fF64, 1, true⟩
  | 14 => ⟨fF64, .int true 32, 1, false⟩
  | 15 => ⟨fF64, .int false 32, 1, false⟩
  | 16 => ⟨.int true 64, fF64, 1, true⟩
  | 17 => ⟨.int false 64, fF64, 1, true⟩
  | 18 => ⟨fF64, .int true 64, 1, true⟩
  | 19 => ⟨fF64, .int false 64, 1, true⟩
  | 20 => ⟨.int true 64, fF32, 1, true⟩
  | 21 => ⟨fF32, .int true 64, 1, true⟩
  | 22 => ⟨fF16, fBF16, 1, true⟩
  | 23 => ⟨fBF16, fF16, 1, true⟩
  | 24 => ⟨fBF16, fF32, 2, true⟩
  | 25 => ⟨fF16, fF32, 2, true⟩
  | 26 => ⟨fF32, fBF16, 2, false⟩
  | 27 => ⟨fF32, fF16, 2, false⟩
  | 28 => ⟨fF8A, fF32, 4, true⟩
  | 29 => ⟨fF8B, fF32, 4, true⟩
  | 30 => ⟨fF32, fF8A, 4, false⟩
  | 31 => ⟨fF32, fF8B, 4, false⟩
  | 32 => ⟨fF8A, fBF16, 4, true⟩
  | 33 => ⟨fF8B, fBF16, 4, true⟩
  | 34 => ⟨fBF16, fF8A, 4, false⟩
  | 35 => ⟨fBF16, fF8B, 4, false⟩
  | 36 => ⟨fF8A, fF16, 4, true⟩
  | 37 => ⟨fF8B, fF16, 4, true⟩
  | 38 => ⟨fF16, fF8A, 4, false⟩
  | 39 => ⟨fF16, fF8B, 4, true⟩
  | 40 => ⟨.int true 8, fF32, 4, true⟩
  | 41 => ⟨fF32, .int true 8, 4, false⟩
  | 42 => ⟨.int true 8, .int true 32, 4, true⟩
  | 43 => ⟨.int true 32, .int true 8, 4, false⟩
  | 44 => ⟨.l4, fBF16, 8, true⟩
  | 45 => ⟨fBF16, .l4, 8, false⟩
  | 46 => ⟨.int true 4, .int true 8, 8, true⟩
  | 47 => ⟨.int true 8, .int true 4, 8, false⟩
  | 48 => ⟨.l4, fF16, 8, true⟩
  | 49 => ⟨fF16, .l4, 8, false⟩
  | 50 => ⟨fF8A, fF8B, 4, true⟩
  | 51 => ⟨fF8B, fF8A, 4, true⟩
  | 52 => ⟨.int true 4, fBF16, 8, true⟩
  | 53 => ⟨fBF16, .int true 4, 8, false⟩
  | 54 => ⟨.e8, fF32, 1, true⟩
  | 55 => ⟨fF32, .e8, 1, false⟩
  | 56 => ⟨fF16, .int true 32, 1, true⟩
  | 57 => ⟨.int true 32, fF16, 1, true⟩
  | 58 => ⟨fBF16, .int true 32, 1, true⟩
  | 59 => ⟨.int true 32, fBF16, 1, true⟩
  | 60 => ⟨fF8A, fF32, 1, true⟩
  | 61 => ⟨fF32, fF8A, 1, false⟩
  | 62 => ⟨fF8B, fF32, 1, true⟩
  | _ => ⟨fF32, fF8B, 1, false⟩

/-- Registers of a span of elements (R326). -/
def spanLen (t : Fmt) (n : Nat) : Nat := (t.width * n + 31) / 32

/-- The mode of a conversion: MODE's, or `%fctl`.RM with RTO kept when MODE[2:0] is 7 (R325). -/
def cvtMode (mode : BitVec 4) (fctl : Word) : Rm :=
  let k := (mode.extractLsb' 0 3).toNat
  Rm.ofCode (if k == 7 then (fctl.extractLsb' 0 3).toNat else k)

/-- The conversion of R328. -/
def convert (c : CvtCode) (m : Rm) (narm : Bool) (x : Nat) : Nat × Word :=
  ((upto c.n).map fun i =>
    let r := encodeVal c.dst m c.narrowing narm (decodeVal c.src (x / 2 ^ (c.src.width * i) % 2 ^ c.src.width))
    (r.1 * 2 ^ (c.dst.width * i), r.2)).foldl (fun a r => (a.1 + r.1, a.2 ||| r.2)) (0, 0)

/-! ### CMPF, FALU32, FFMA32 and FPK16 -/

/-- F32 compare (R306). -/
def execCmpF32 (cc : BitVec 4) (p : BitVec 6) (a b : BitVec 7) (st : BitVec 2) (s : State) : Host.Outcome State Fault Refusal :=
  .next (laneOp (encC 14#6 cc p a b st) st { Uses.none cAlu with rv := [(a.toNat, 1), (b.toNat, 1)], wp := [p.toNat] } 4
    (fun l => let r := cmpFloat cc.toNat (rdV l.th a.toNat).toNat (rdV l.th b.toNat).toNat
              .ok ((.p p.toNat, if r.1 then 1 else 0) :: if r.2 == 0 then [] else [(.flags, r.2.setWidth 80)])) s)

/-- F32 sum (R316). -/
def execFadd (d a b : BitVec 7) (st : BitVec 2) (s : State) : Host.Outcome State Fault Refusal :=
  flt3 (encA 21#6 0#3 d a b st) st d a b (fun m x y => addOp fF32 m (decodeVal fF32 x) (decodeVal fF32 y)) s

/-- F32 difference (R316). -/
def execFsub (d a b : BitVec 7) (st : BitVec 2) (s : State) : Host.Outcome State Fault Refusal :=
  flt3 (encA 21#6 1#3 d a b st) st d a b (fun m x y => addOp fF32 m (decodeVal fF32 x) (decodeVal fF32 y).negate) s

/-- F32 product (R316). -/
def execFmul (d a b : BitVec 7) (st : BitVec 2) (s : State) : Host.Outcome State Fault Refusal :=
  flt3 (encA 21#6 2#3 d a b st) st d a b (fun m x y => mulOp fF32 m (decodeVal fF32 x) (decodeVal fF32 y)) s

/-- Minimum (R317). -/
def execFmin (d a b : BitVec 7) (st : BitVec 2) (s : State) : Host.Outcome State Fault Refusal :=
  flt3 (encA 21#6 3#3 d a b st) st d a b (fun _ x y => minmaxOp fF32 false false x y) s

/-- Maximum (R317). -/
def execFmax (d a b : BitVec 7) (st : BitVec 2) (s : State) : Host.Outcome State Fault Refusal :=
  flt3 (encA 21#6 4#3 d a b st) st d a b (fun _ x y => minmaxOp fF32 true false x y) s

/-- Minimum of the numbers (R317). -/
def execFminnum (d a b : BitVec 7) (st : BitVec 2) (s : State) : Host.Outcome State Fault Refusal :=
  flt3 (encA 21#6 5#3 d a b st) st d a b (fun _ x y => minmaxOp fF32 false true x y) s

/-- Maximum of the numbers (R317). -/
def execFmaxnum (d a b : BitVec 7) (st : BitVec 2) (s : State) : Host.Outcome State Fault Refusal :=
  flt3 (encA 21#6 6#3 d a b st) st d a b (fun _ x y => minmaxOp fF32 true true x y) s

/-- Magnitude of va with the sign of vb (R316). -/
def execFcopysign (d a b : BitVec 7) (st : BitVec 2) (s : State) : Host.Outcome State Fault Refusal :=
  flt3 (encA 21#6 7#3 d a b st) st d a b (fun _ x y => copySign x y) s

/-- va * vb + vd (R318). -/
def execFfma (d a b : BitVec 7) (st : BitVec 2) (s : State) : Host.Outcome State Fault Refusal :=
  flt4 (encA 22#6 0#3 d a b st) st d a b (fun m x y z => fmaOp fF32 m (decodeVal fF32 x) (decodeVal fF32 y) (decodeVal fF32 z)) s

/-- va * vb - vd (R318). -/
def execFfms (d a b : BitVec 7) (st : BitVec 2) (s : State) : Host.Outcome State Fault Refusal :=
  flt4 (encA 22#6 1#3 d a b st) st d a b (fun m x y z => fmaOp fF32 m (decodeVal fF32 x) (decodeVal fF32 y) (decodeVal fF32 z).negate) s

/-- -(va * vb) + vd (R318). -/
def execFfnma (d a b : BitVec 7) (st : BitVec 2) (s : State) : Host.Outcome State Fault Refusal :=
  flt4 (encA 22#6 2#3 d a b st) st d a b (fun m x y z => fmaOp fF32 m (decodeVal fF32 x).negate (decodeVal fF32 y) (decodeVal fF32 z)) s

/-- -(va * vb) - vd (R318). -/
def execFfnms (d a b : BitVec 7) (st : BitVec 2) (s : State) : Host.Outcome State Fault Refusal :=
  flt4 (encA 22#6 3#3 d a b st) st d a b (fun m x y z => fmaOp fF32 m (decodeVal fF32 x).negate (decodeVal fF32 y) (decodeVal fF32 z).negate) s

/-- Packed sum (R319). -/
def execHaddBf16x2 (d a b : BitVec 7) (st : BitVec 2) (s : State) : Host.Outcome State Fault Refusal :=
  flt3 (encA 23#6 0#3 d a b st) st d a b (fun m x y => packed2 (fun p q _ => addOp fBF16 m (decodeVal fBF16 p) (decodeVal fBF16 q)) x y 0) s

/-- Packed product (R319). -/
def execHmulBf16x2 (d a b : BitVec 7) (st : BitVec 2) (s : State) : Host.Outcome State Fault Refusal :=
  flt3 (encA 23#6 1#3 d a b st) st d a b (fun m x y => packed2 (fun p q _ => mulOp fBF16 m (decodeVal fBF16 p) (decodeVal fBF16 q)) x y 0) s

/-- Packed fused product and sum (R319). -/
def execHfmaBf16x2 (d a b : BitVec 7) (st : BitVec 2) (s : State) : Host.Outcome State Fault Refusal :=
  flt4 (encA 23#6 2#3 d a b st) st d a b (fun m x y z => packed2 (fun p q r => fmaOp fBF16 m (decodeVal fBF16 p) (decodeVal fBF16 q) (decodeVal fBF16 r)) x y z) s

/-- Packed sum (R319). -/
def execHaddF16x2 (d a b : BitVec 7) (st : BitVec 2) (s : State) : Host.Outcome State Fault Refusal :=
  flt3 (encA 23#6 3#3 d a b st) st d a b (fun m x y => packed2 (fun p q _ => addOp fF16 m (decodeVal fF16 p) (decodeVal fF16 q)) x y 0) s

/-- Packed product (R319). -/
def execHmulF16x2 (d a b : BitVec 7) (st : BitVec 2) (s : State) : Host.Outcome State Fault Refusal :=
  flt3 (encA 23#6 4#3 d a b st) st d a b (fun m x y => packed2 (fun p q _ => mulOp fF16 m (decodeVal fF16 p) (decodeVal fF16 q)) x y 0) s

/-- Packed fused product and sum (R319). -/
def execHfmaF16x2 (d a b : BitVec 7) (st : BitVec 2) (s : State) : Host.Outcome State Fault Refusal :=
  flt4 (encA 23#6 5#3 d a b st) st d a b (fun m x y z => packed2 (fun p q r => fmaOp fF16 m (decodeVal fF16 p) (decodeVal fF16 q) (decodeVal fF16 r)) x y z) s

/-- Packed minimum or maximum (R319). -/
def execHmaxBf16x2 (d a b : BitVec 7) (st : BitVec 2) (s : State) : Host.Outcome State Fault Refusal :=
  flt3 (encA 23#6 6#3 d a b st) st d a b (fun _ x y => packed2 (fun p q _ => minmaxOp fBF16 true false p q) x y 0) s

/-- Packed minimum or maximum (R319). -/
def execHminBf16x2 (d a b : BitVec 7) (st : BitVec 2) (s : State) : Host.Outcome State Fault Refusal :=
  flt3 (encA 23#6 7#3 d a b st) st d a b (fun _ x y => packed2 (fun p q _ => minmaxOp fBF16 false false p q) x y 0) s

/-! ### F64 and SFU -/

/-- F64 sum (R320). -/
def execDadd (d a b : BitVec 7) (st : BitVec 2) (s : State) : Host.Outcome State Fault Refusal :=
  dbl3 (encA 24#6 0#3 d a b st) st d a b (fun m x y => addOp fF64 m (decodeVal fF64 x) (decodeVal fF64 y)) s

/-- F64 difference (R320). -/
def execDsub (d a b : BitVec 7) (st : BitVec 2) (s : State) : Host.Outcome State Fault Refusal :=
  dbl3 (encA 24#6 1#3 d a b st) st d a b (fun m x y => addOp fF64 m (decodeVal fF64 x) (decodeVal fF64 y).negate) s

/-- F64 product (R320). -/
def execDmul (d a b : BitVec 7) (st : BitVec 2) (s : State) : Host.Outcome State Fault Refusal :=
  dbl3 (encA 24#6 2#3 d a b st) st d a b (fun m x y => mulOp fF64 m (decodeVal fF64 x) (decodeVal fF64 y)) s

/-- F64 fused product and sum (R320). -/
def execDfma (d a b : BitVec 7) (st : BitVec 2) (s : State) : Host.Outcome State Fault Refusal :=
  longOp (encA 24#6 3#3 d a b st) st [(a.toNat, 2), (b.toNat, 2), (d.toNat, 2)] d.toNat 2
    (fun l => fmaOp fF64 (rmOf l.th.fctl) (decodeVal fF64 (rdSpan l.th a.toNat 2)) (decodeVal fF64 (rdSpan l.th b.toNat 2)) (decodeVal fF64 (rdSpan l.th d.toNat 2))) s

/-- F64 minimum (R317). -/
def execDmin (d a b : BitVec 7) (st : BitVec 2) (s : State) : Host.Outcome State Fault Refusal :=
  dbl3 (encA 24#6 4#3 d a b st) st d a b (fun _ x y => minmaxOp fF64 false false x y) s

/-- F64 maximum (R317). -/
def execDmax (d a b : BitVec 7) (st : BitVec 2) (s : State) : Host.Outcome State Fault Refusal :=
  dbl3 (encA 24#6 5#3 d a b st) st d a b (fun _ x y => minmaxOp fF64 true false x y) s

/-- F64 quotient (R320). -/
def execDdiv (d a b : BitVec 7) (st : BitVec 2) (s : State) : Host.Outcome State Fault Refusal :=
  dbl3 (encA 24#6 6#3 d a b st) st d a b (fun m x y => divOp fF64 m (decodeVal fF64 x) (decodeVal fF64 y)) s

/-- F64 square root (R320). -/
def execDsqrt (d a : BitVec 7) (st : BitVec 2) (s : State) : Host.Outcome State Fault Refusal :=
  longOp (encA 24#6 7#3 d a 0#7 st) st [(a.toNat, 2)] d.toNat 2 (fun l => sqrtOp fF64 (rmOf l.th.fctl) (decodeVal fF64 (rdSpan l.th a.toNat 2))) s

/-- The rcp function of R323 (R323). -/
def execRcp (d a : BitVec 7) (st : BitVec 2) (s : State) : Host.Outcome State Fault Refusal :=
  sfu1 (encA 25#6 0#3 d a 0#7 st) st d a (fun m x => sfuRcp m x) s

/-- The rsqrt function of R323 (R323). -/
def execRsqrt (d a : BitVec 7) (st : BitVec 2) (s : State) : Host.Outcome State Fault Refusal :=
  sfu1 (encA 25#6 1#3 d a 0#7 st) st d a (fun _ x => sfuRsqrt x) s

/-- The sqrt function of R323 (R323). -/
def execSqrt (d a : BitVec 7) (st : BitVec 2) (s : State) : Host.Outcome State Fault Refusal :=
  sfu1 (encA 25#6 2#3 d a 0#7 st) st d a (fun m x => sfuSqrt m x) s

/-- The log2 function of R323 (R323). -/
def execLog2 (d a : BitVec 7) (st : BitVec 2) (s : State) : Host.Outcome State Fault Refusal :=
  sfu1 (encA 25#6 3#3 d a 0#7 st) st d a (fun _ x => sfuLog2 x) s

/-- The exp2 function of R323 (R323). -/
def execExp2 (d a : BitVec 7) (st : BitVec 2) (s : State) : Host.Outcome State Fault Refusal :=
  sfu1 (encA 25#6 4#3 d a 0#7 st) st d a (fun _ x => sfuExp2 x) s

/-- The sin function of R323 (R323). -/
def execSin (d a : BitVec 7) (st : BitVec 2) (s : State) : Host.Outcome State Fault Refusal :=
  sfu1 (encA 25#6 5#3 d a 0#7 st) st d a (fun _ x => sfuTrig false x) s

/-- The cos function of R323 (R323). -/
def execCos (d a : BitVec 7) (st : BitVec 2) (s : State) : Host.Outcome State Fault Refusal :=
  sfu1 (encA 25#6 6#3 d a 0#7 st) st d a (fun _ x => sfuTrig true x) s

/-- The tanh function of R323 (R323). -/
def execTanh (d a : BitVec 7) (st : BitVec 2) (s : State) : Host.Outcome State Fault Refusal :=
  sfu1 (encA 25#6 7#3 d a 0#7 st) st d a (fun _ x => sfuTanh x) s

/-! ### CVT, DOT and SCALE -/

/-- Conversion of code `f` (R328). -/
def execCvt (f : BitVec 6) (d a : BitVec 7) (m : BitVec 4) (st : BitVec 2) (s : State) : Host.Outcome State Fault Refusal :=
  let c := cvtCode f.toNat
  .next (laneOp (encV 26#6 f d a m st) st { Uses.none cAlu with rv := [(a.toNat, spanLen c.src c.n)], wv := [(d.toNat, spanLen c.dst c.n)] } 8
    (fun l => .ok (resSpan d.toNat (spanLen c.dst c.n)
      (convert c (cvtMode m l.th.fctl) (m.getLsbD 3 || l.th.fctl.getLsbD 3) (rdSpan l.th a.toNat (spanLen c.src c.n))))) s)

/-- Integer dot product with accumulation (R330). -/
def execDotI8x4 (d a b : BitVec 7) (st : BitVec 2) (s : State) : Host.Outcome State Fault Refusal :=
  flt4 (encA 27#6 0#3 d a b st) st d a b (fun _ x y z => dotInt (.int true 8) 4 false z x y) s

/-- Integer dot product with accumulation (R330). -/
def execDotsI8x4 (d a b : BitVec 7) (st : BitVec 2) (s : State) : Host.Outcome State Fault Refusal :=
  flt4 (encA 27#6 1#3 d a b st) st d a b (fun _ x y z => dotInt (.int true 8) 4 true z x y) s

/-- Integer dot product with accumulation (R330). -/
def execDotI4x8 (d a b : BitVec 7) (st : BitVec 2) (s : State) : Host.Outcome State Fault Refusal :=
  flt4 (encA 27#6 2#3 d a b st) st d a b (fun _ x y z => dotInt (.int true 4) 8 false z x y) s

/-- Float dot product with accumulation (R330). -/
def execDotF8ax4 (d a b : BitVec 7) (st : BitVec 2) (s : State) : Host.Outcome State Fault Refusal :=
  flt4 (encA 27#6 3#3 d a b st) st d a b (fun m x y z => dotFloat fF8A 4 m z x y) s

/-- Float dot product with accumulation (R330). -/
def execDotF8bx4 (d a b : BitVec 7) (st : BitVec 2) (s : State) : Host.Outcome State Fault Refusal :=
  flt4 (encA 27#6 4#3 d a b st) st d a b (fun m x y z => dotFloat fF8B 4 m z x y) s

/-- Float dot product with accumulation (R330). -/
def execDotL4x8 (d a b : BitVec 7) (st : BitVec 2) (s : State) : Host.Outcome State Fault Refusal :=
  flt4 (encA 27#6 5#3 d a b st) st d a b (fun m x y z => dotFloat .l4 8 m z x y) s

/-- Float dot product with accumulation (R330). -/
def execDotBf16x2 (d a b : BitVec 7) (st : BitVec 2) (s : State) : Host.Outcome State Fault Refusal :=
  flt4 (encA 27#6 6#3 d a b st) st d a b (fun m x y z => dotFloat fBF16 2 m z x y) s

/-- va * 2^vb (R331). -/
def execScalef (d a b : BitVec 7) (st : BitVec 2) (s : State) : Host.Outcome State Fault Refusal :=
  scale3 (encA 28#6 0#3 d a b st) st d [(a.toNat, 1), (b.toNat, 1)] (fun th => scaleF (rmOf th.fctl) (rdV th a.toNat).toNat (rdV th b.toNat).toInt) s

/-- Exponent of va (R331). -/
def execFexp (d a : BitVec 7) (st : BitVec 2) (s : State) : Host.Outcome State Fault Refusal :=
  scale3 (encA 28#6 1#3 d a 0#7 st) st d [(a.toNat, 1)] (fun th => fexpOf (rdV th a.toNat).toNat) s

/-- Significand of va (R331). -/
def execFmant (d a : BitVec 7) (st : BitVec 2) (s : State) : Host.Outcome State Fault Refusal :=
  scale3 (encA 28#6 2#3 d a 0#7 st) st d [(a.toNat, 1)] (fun th => fmantOf (rdV th a.toNat).toNat) s

/-! ### Delivery -/

/-- Clear the pending marks of a token and write its held result (R108, R255). -/
def deliverHeld (tok : Nat) (th : Thread) : Thread :=
  (th.held.filter fun h => h.tok == tok).foldl (fun th h => h.vals.foldl (fun th x => putReg th x.1 x.2) th)
    { th with pend := th.pend.filter (fun p => p.tok != tok), held := th.held.filter fun h => h.tok != tok }

/-- The result of operation `tok` of a team is written to every lane that issued it; without one, nothing changes (R321). -/
def execSfuF64Result (team tok : Nat) (s : State) : Host.Outcome State Fault Refusal :=
  .next (match team? s team with
    | none => s
    | some tm =>
      if tm.groups.any (fun g => g.threads.any fun th => th.held.any fun h => h.tok == tok) then
        progress (modTeam s team fun t => { t with groups := t.groups.map fun g => { g with threads := g.threads.map (deliverHeld tok) } }) tm.ctx
      else s)

end Sys2Proof.Machine
end

