-- ==== Sys2Proof/Machine/Pen.lean ====
section
/-! DEFINITION. Pens and their combiner, and writes at scratchpad banks (R127, R376 to R379, R392). -/

namespace Sys2Proof.Machine

/-! ### The words of a pen (R376) -/

/-- A pen as its 16 words. -/
abbrev PenWords := List Word

def penW (p : PenWords) (i : Nat) : Word := p.getD i 0
def penSet (p : PenWords) (i : Nat) (x : Word) : PenWords := updAt i (fun _ => x) p

/-- Put `x` into bits [lo + n - 1 : lo] of a word. -/
def putBits (w : Word) (lo n : Nat) (x : Nat) : Word :=
  BitVec.ofNat 32 (w.toNat - w.toNat / 2 ^ lo % 2 ^ n * 2 ^ lo + x % 2 ^ n * 2 ^ lo)

def penRemain (p : PenWords) : Nat := ((penW p 0).extractLsb' 16 8).toNat
def penExpect (p : PenWords) : Nat := ((penW p 0).extractLsb' 8 8).toNat
def penErr (p : PenWords) : Bool := (penW p 0).getLsbD 2
def penPhase (p : PenWords) : Bool := (penW p 0).getLsbD 0
def penCode (p : PenWords) : Nat := ((penW p 1).extractLsb' 8 8).toNat
def penMask (p : PenWords) : Word := (penW p 1).extractLsb' 0 8 |>.setWidth 32
def penBytes (p : PenWords) (src : Nat) : Word := penW p (2 + src)

/-- The pen carries the stamp of a generation. DEDUCED: log entry 35. -/
def penStamped (gen : BitVec 8) (p : PenWords) : Bool := (penW p 10).getLsbD 8 && (penW p 10).extractLsb' 0 8 == gen

/-- The pen is initialised. -/
def penInitialised (gen : BitVec 8) (p : PenWords) : Bool := (penW p 0).getLsbD 1 && penStamped gen p

/-- `%tval.hi` of PEN_STATE for a pen not initialised or in error (R377). -/
def penBadCode (gen : BitVec 8) (p : PenWords) : Option Nat :=
  if !penInitialised gen p then some 1 else if penErr p then some (penCode p) else none

/-- Record an error (R379). -/
def penFail (code : Nat) (p : PenWords) : PenWords := penSet (penSet p 0 (setBit (penW p 0) 2 true)) 1 (putBits (penW p 1) 8 8 code)

/-- The words that pen.init writes (R376). -/
def penFresh (gen : BitVec 8) (expect : Nat) : PenWords :=
  [BitVec.ofNat 32 (expect * 65536 + expect * 256 + 2), 0, 0, 0, 0, 0, 0, 0, 0, 0, BitVec.ofNat 32 (256 + gen.toNat), 0, 0, 0, 0, 0]

/-- The phase advances when no arrival and no armed byte is missing (R378). -/
def penAdvance (p : PenWords) : PenWords :=
  if penRemain p == 0 && (upto 8).all (fun i => !(penMask p).getLsbD i || penBytes p i == 0) then
    penSet (penSet p 0 (setBit (putBits (penW p 0) 16 8 (penExpect p)) 0 (!penPhase p))) 1 (putBits (penW p 1) 0 8 0)
  else p

/-! ### One update (R377 to R379) -/

/-- An update by a pen instruction, of `k` lanes: the new words, or the ECODE or 1 of the trap. -/
def penUpdate (gen : BitVec 8) (op : PenOp) (k : Nat) (p : PenWords) : Except Nat PenWords :=
  match op with
  | .init e => .ok (if penStamped gen p && penErr p then penSet p 0 (setBit (penW p 0) 1 true) else penFresh gen e)
  | .inval => .ok (List.replicate 16 0)
  | .expect src n =>
    match penBadCode gen p with
    | some c => .error c
    | none => .ok (penSet (penSet p (2 + src) (penBytes p src + BitVec.ofNat 32 n)) 1 (setBit (penW p 1) src true))
  | .arrive =>
    match penBadCode gen p with
    | some c => .error c
    | none => if penRemain p < k then .ok (penFail 2 p) else .ok (penSet p 0 (putBits (penW p 0) 16 8 (penRemain p - k)))

/-- The answer of an engine byte update (R379). -/
inductive PenAnswer where
  | counted | uninit | error
  /-- Dropped at a bank fenced against the operation's context (R58). -/
  | fenced
  deriving DecidableEq, Repr

/-- An update by an engine that wrote `n` bytes of a source (R379, R392). -/
def penEngine (gen : BitVec 8) (src n : Nat) (p : PenWords) : PenWords × PenAnswer :=
  if !penInitialised gen p then
    (if penStamped gen p && penErr p then (p, .error)
     else (penSet (penFail 1 p) 10 (BitVec.ofNat 32 ((penW p 10).toNat / 512 * 512 + 256 + gen.toNat)), .uninit))
  else if penErr p then (p, .error)
  else
    let x := penBytes p src - BitVec.ofNat 32 n
    if (penMask p).getLsbD src && x.toInt < 0 then (penFail 3 p, .error) else (penSet p (2 + src) x, .counted)

/-! ### Pens in the scratchpad -/

/-- The generation of the allocation that holds a core address, or of its bank when no team holds it (R117). -/
def genAt (s : State) (core a : Nat) : BitVec 8 :=
  match s.teams.find? (fun t => t.core == core && t.keepsAlloc && t.allocBase ≤ a && a < t.allocBase + t.allocSize) with
  | some t => t.gen
  | none => match s.banks.find? (fun b => b.1 == 32 * core + a / 8192) with | some b => b.2.1 | none => 0

/-- The pen at a core address. -/
def penAt (s : State) (core a : Nat) : PenWords :=
  (upto 16).map fun i => BitVec.ofNat 32 (leNat (rdScratch s core (a + 4 * i) 4))

/-- Store a pen's words. -/
def putPen (s : State) (core a : Nat) (p : PenWords) : State := wrScratch s core a (p.flatMap fun w => leBytes 4 w.toNat)

/-- The initialised pens of a copied allocation take the generation of the copy, so that each world uses its own (R117, R222). DEDUCED: log entry 35. -/
def restampPens (s : State) (core base size : Nat) (old new : BitVec 8) : State :=
  (upto (size / 64)).foldl (fun s i =>
    let p := penAt s core (base + 64 * i)
    if penInitialised old p then putPen s core (base + 64 * i) (penSet p 10 (BitVec.ofNat 32 ((penW p 10).toNat / 256 * 256 + new.toNat))) else s) s

/-- The threads that wait on the pen at a core address, with their parities. -/
def penWaiters (s : State) (core a : Nat) : List (Tid × Nat × Bool) :=
  (s.teams.filter fun t => t.core == core).flatMap fun t => (tidsOf t).filterMap fun k => match (thread? s k).bind (·.wait) with
    | some (.pen off par) => if t.allocBase + off == a then some (k, off, par) else none
    | _ => none

/-- Put an acquire fence into a thread's queue: it continues as after fence.acq (R375, R377). -/
def acquireAfter (s : State) (t : Tid) : State :=
  let id := s.nextId
  modThread { s with nextId := id + 1 } t fun th => { th with queue := th.queue ++ [fenceAccess .acq true id id th.pc.off] }

/-- A waiter's wait is over, which is progress of its context (R96, R377). -/
def wakeWaiter (s : State) (t : Tid) : State := acquireAfter (teamProgress (modThread s t finishWait) t.team) t

/-- After an update of a pen: the phase advances, waiters whose parity differs wake, and the waiters of a pen not initialised or
in error trap (R377, R378). -/
def settlePen (s : State) (core a : Nat) : State :=
  let gen := genAt s core a
  let p := penAt s core a
  match penBadCode gen p with
  | some c => (penWaiters s core a).foldl (fun s w => takeTrap s w.1 ⟨.penState, BitVec.ofNat 32 w.2.1, BitVec.ofNat 32 c⟩) s
  | none =>
    let p := penAdvance p
    let s := putPen s core a p
    ((penWaiters s core a).filter fun w => w.2.2 ≠ penPhase p).foldl (fun s w => wakeWaiter s w.1) s

/-- An update of the lanes `ts` with the window offset `off`; lanes whose update is refused owe PEN_STATE (R377). DEDUCED: log entry 80. -/
def combine (s : State) (core a : Nat) (op : PenOp) (ts : List Tid) (off : Nat) : State :=
  match penUpdate (genAt s core a) op ts.length (penAt s core a) with
  | .error c => ts.foldl (fun s t => modThread s t fun th => { th with owed := some ⟨.penState, BitVec.ofNat 32 off, BitVec.ofNat 32 c⟩ }) s
  | .ok p =>
    let s := putPen s core a p
    match op with | .init _ => s | _ => settlePen s core a

/-- Bytes written at a bank: a pen that they meet is settled as an update of its combiner (R376, R378). -/
def bankWrite (s : State) (core a : Nat) (bs : List Byte) : State :=
  let pens := (dedup ((upto bs.length).map fun i => (a + i) / 64 * 64)).filter fun x => penInitialised (genAt s core x) (penAt s core x)
  pens.foldl (fun s x => settlePen s core x) (wrScratch s core a bs)

end Sys2Proof.Machine
end

