-- ==== Sys2Proof/Machine/Memory.lean ====
section
/-! DEFINITION. The load, store, atomic, reduction and fence families (R332 to R346). -/

namespace Sys2Proof.Machine

/-! ### Sizes and data (R288, R334) -/

/-- Bytes of a SZ code of a load or store. -/
def szBytes (sz : BitVec 3) : Nat := match sz.toNat with | 0 => 1 | 1 => 1 | 2 => 2 | 3 => 2 | 4 => 4 | 5 => 8 | _ => 16

/-- A SZ code sign-extends. -/
def szSigned (sz : BitVec 3) : Bool := sz == 1#3 || sz == 3#3

/-- Registers that `n` bytes take. -/
def regsOf (n : Nat) : Nat := (n + 3) / 4

/-- The low `n` bytes of the registers from `r`. -/
def regBytes (th : Thread) (r n : Nat) : List Byte :=
  (upto n).map fun i => ((rdV th (r + i / 4)).extractLsb' (8 * (i % 4)) 8)

/-- The register values of loaded bytes, with zero or sign extension (R334). -/
def loadedRegs (rd : Nat) (sx : Bool) (bs : List Byte) : List (Reg × BitVec 80) :=
  if bs.length < 4 then
    let n := leNat bs
    let top := 2 ^ (8 * bs.length)
    [(.v rd, BitVec.ofNat 80 (if sx && top / 2 ≤ n then n + 4294967296 - top else n))]
  else (upto (bs.length / 4)).map fun i => (.v (rd + i), BitVec.ofNat 80 (leNat ((bs.drop (4 * i)).take 4)))

/-! ### The common forms (R332, R333) -/

/-- A request before its checks. -/
def mkReq (op : AccOp) (size : Nat) (ord : BitVec 3) (data : List Byte) : Req :=
  ⟨op, .home, 0, none, size, ord.toNat, data, 0, 0, false⟩

/-- The effect of a memory instruction: each lane, in ascending order, makes its checks and joins its queue. -/
def memEffect (word : Word) (f : Lane → Pre) (sl : Slot) (l : List Tid) (s : State) : State :=
  let inst := s.nextId
  perLane (fun ln s => actPre s ln.tid inst (f ln)) word sl l { s with nextId := inst + 1 }

/-- The unreduced address of a lane: base plus zero-extended offset. -/
def laneAddr (b : Nat) (off : Lane → Nat) (l : Lane) : Option Nat := some (((rdB l.tm l.th b).toNat + off l) % 2 ^ 80)

/-- A global access of format M (R332): `pair` for a 64-bit offset. -/
def globalOp (word : Word) (st : BitVec 2) (u : Uses) (b : BitVec 4) (o : BitVec 7) (pair : Bool) (ord : BitVec 3) (kind : Nat)
    (mk : Lane → Req) (s : State) : Host.Outcome State Fault Refusal :=
  let off := fun (l : Lane) => if pair then (rdV64 l.th o.toNat).toNat else (rdV l.th o.toNat).toNat
  .next (issueHold word st { u with cls := cMem, rv := (o.toNat, if pair then 2 else 1) :: u.rv, rb := [b.toNat] }
    (memHold ord.toNat (laneAddr b.toNat off)) (memEffect word fun l => memChecks l kind (mk l) b.toNat (off l)) s)

/-- A scratchpad access of format M (R340): window w0 or wc. -/
def scratchOp (word : Word) (st : BitVec 2) (u : Uses) (b : BitVec 4) (o : BitVec 7) (ord : BitVec 3) (mk : Lane → Req) (s : State) :
    Host.Outcome State Fault Refusal :=
  .next (issueHold word st { u with cls := cMem, rv := (o.toNat, 1) :: u.rv } (memHold ord.toNat fun _ => none)
    (memEffect word fun l => scratchChecks l (mk l) (b == 1#4) (rdV l.th o.toNat).toNat) s)

/-- Uses of a load into `d` and of a store from `d`. -/
def usesLoad (sz : BitVec 3) (d : BitVec 7) : Uses := { Uses.none cMem with wv := [(d.toNat, regsOf (szBytes sz))] }
def usesStore (sz : BitVec 3) (d : BitVec 7) : Uses := { Uses.none cMem with rv := [(d.toNat, regsOf (szBytes sz))] }

/-- Requests of a load and of a store. -/
def loadReq (sz : BitVec 3) (d : BitVec 7) (ord : BitVec 3) (_ : Lane) : Req :=
  mkReq (.load d.toNat (szSigned sz)) (szBytes sz) ord []
def storeReq (sz : BitVec 3) (d : BitVec 7) (ord : BitVec 3) (l : Lane) : Req :=
  mkReq .store (szBytes sz) ord (regBytes l.th d.toNat (szBytes sz))

/-! ### Atomic operations (R343) -/

/-- The operation of a number: 0 to 7 are SZ of ATOMA, 8 to 15 of ATOMB (R343). -/
def AtomOp.numbered (n : Nat) : AtomOp :=
  [.addI32, .addF32, .minI32, .maxI32, .minN32, .maxN32, .exch, .cas, .and, .or, .xor, .addI64, .casB64, .addBf16x2, .incN32, .decN32].getD (n % 16) .exch

/-- Bytes of an atomic's memory operand. -/
def AtomOp.size (op : AtomOp) : Nat := match op with | .addI64 | .casB64 => 8 | _ => 4

/-- Registers of its operand: a pair for cas and add.i64, a quad for cas.b64. -/
def AtomOp.operands (op : AtomOp) : Nat := match op with | .cas | .addI64 => 2 | .casB64 => 4 | _ => 1

/-- Compare-and-swap forms are not combined (R344). -/
def AtomOp.isCas (op : AtomOp) : Bool := match op with | .cas | .casB64 => true | _ => false

/-- Signed value of a 32-bit number. -/
def sgn32 (n : Nat) : Int := (BitVec.ofNat 32 n).toInt

/-- Sum of two F32 or BF16 encodings, with flags discarded. -/
def addEnc (t : Fmt) (a b : Nat) : Nat := (addOp t .rne (decodeVal t a) (decodeVal t b)).1

/-- New value of memory from the old one and the operand words (R343). -/
def atomNew (op : AtomOp) (old x : Nat) : Nat :=
  match op with
  | .addI32 => (old + x) % 2 ^ 32
  | .addF32 => addEnc fF32 old x
  | .minI32 => if sgn32 x < sgn32 old then x else old
  | .maxI32 => if sgn32 old < sgn32 x then x else old
  | .minN32 => min old x
  | .maxN32 => max old x
  | .exch => x
  | .cas => if old == x % 2 ^ 32 then x / 2 ^ 32 else old
  | .and => old &&& x
  | .or => old ||| x
  | .xor => old ^^^ x
  | .addI64 => (old + x) % 2 ^ 64
  | .casB64 => if old == x % 2 ^ 64 then x / 2 ^ 64 else old
  | .addBf16x2 => addEnc fBF16 (old % 65536) (x % 65536) + 65536 * addEnc fBF16 (old / 65536) (x / 65536)
  | .incN32 => if x ≤ old then 0 else old + 1
  | .decN32 => if old == 0 || x < old then x else old - 1

/-- New bytes of memory. -/
def atomBytes (op : AtomOp) (old x : List Byte) : List Byte := leBytes op.size (atomNew op (leNat old) (leNat x))

/-- Uses of an atomic or reduction with its operand in `d`; `out` when it writes the old value there. -/
def usesAtom (op : AtomOp) (d : BitVec 7) (out : Bool) : Uses :=
  { Uses.none cMem with rv := [(d.toNat, op.operands)], wv := if out then [(d.toNat, regsOf op.size)] else [] }

/-- Request of an atomic or reduction; code 5 is relaxed (R335). -/
def atomReq (op : AtomOp) (d : BitVec 7) (ord : BitVec 3) (out : Bool) (l : Lane) : Req :=
  mkReq (.atomic op (if out then some d.toNat else none)) op.size ord (regBytes l.th d.toNat (4 * op.operands))

/-- `atom` and `red` on global memory. -/
def atomOp (word : Word) (st : BitVec 2) (op : AtomOp) (out : Bool) (d : BitVec 7) (b : BitVec 4) (o : BitVec 7) (ord : BitVec 3) (s : State) :
    Host.Outcome State Fault Refusal :=
  globalOp word st (usesAtom op d out) b o false ord kindAtomic (atomReq op d ord out) s

/-- `atoms` on scratchpad. -/
def atomsOp (word : Word) (st : BitVec 2) (op : AtomOp) (d : BitVec 7) (b : BitVec 4) (o : BitVec 7) (ord : BitVec 3) (s : State) :
    Host.Outcome State Fault Refusal :=
  scratchOp word st (usesAtom op d true) b o ord (atomReq op d ord true) s

/-! ### Scalar constant loads (R341) -/

/-- `sld`: once per group, from the base plus the scalar or 4 * imm. -/
def sldOp (word : Word) (st : BitVec 2) (n : Nat) (d a b : BitVec 6) (i : BitVec 1) (s : State) : Host.Outcome State Fault Refusal :=
  let off := fun (l : Lane) => if i == 1#1 then 4 * b.toNat else (rdS l.g b.toNat).toNat
  .next (issueHold word st { Uses.none cMem with rb := [a.toNat], rs := readsB i b, ws := (upto (n / 4)).map (d.toNat + ·), lead := 1 }
    (memHold 6 (laneAddr a.toNat off))
    (fun sl l => memEffect word (fun ln => memChecks ln kindRead (mkReq (.scalar d.toNat) n 6#3 []) a.toNat (off ln)) sl (groupLeaders l)) s)

/-! ### Fences (R346) -/

/-- A fence joins the queue of each admitted thread. -/
def fenceOp (word : Word) (st : BitVec 2) (f : Fence) (s : State) : Host.Outcome State Fault Refusal :=
  .next (issueHold word st (Uses.none cMem) fenceHold
    (fun sl => perLane (fun l s =>
      modThread { s with nextId := s.nextId + 1 } l.tid fun th => { th with queue := th.queue ++ [fenceAccess f false s.nextId s.nextId l.th.pc.off] })
      word sl) s)

/-! ### The instructions -/

/-- Load from a 32-bit offset (R339). -/
def execLd (sz : BitVec 3) (d : BitVec 7) (b : BitVec 4) (o : BitVec 7) (ord : BitVec 3) (st : BitVec 2) (s : State) : Host.Outcome State Fault Refusal :=
  globalOp (encM 32#6 sz d b o ord st) st (usesLoad sz d) b o false ord kindRead (loadReq sz d ord) s

/-- Store to a 32-bit offset (R339). -/
def execSt (sz : BitVec 3) (d : BitVec 7) (b : BitVec 4) (o : BitVec 7) (ord : BitVec 3) (st : BitVec 2) (s : State) : Host.Outcome State Fault Refusal :=
  globalOp (encM 33#6 sz d b o ord st) st (usesStore sz d) b o false ord kindWrite (storeReq sz d ord) s

/-- Load from a 64-bit offset (R339). -/
def execLdw (sz : BitVec 3) (d : BitVec 7) (b : BitVec 4) (o : BitVec 7) (ord : BitVec 3) (st : BitVec 2) (s : State) : Host.Outcome State Fault Refusal :=
  globalOp (encM 34#6 sz d b o ord st) st (usesLoad sz d) b o true ord kindRead (loadReq sz d ord) s

/-- Store to a 64-bit offset (R339). -/
def execStw (sz : BitVec 3) (d : BitVec 7) (b : BitVec 4) (o : BitVec 7) (ord : BitVec 3) (st : BitVec 2) (s : State) : Host.Outcome State Fault Refusal :=
  globalOp (encM 35#6 sz d b o ord st) st (usesStore sz d) b o true ord kindWrite (storeReq sz d ord) s

/-- Scratchpad load (R340). -/
def execLds (sz : BitVec 3) (d : BitVec 7) (b : BitVec 4) (o : BitVec 7) (ord : BitVec 3) (st : BitVec 2) (s : State) : Host.Outcome State Fault Refusal :=
  scratchOp (encM 36#6 sz d b o ord st) st (usesLoad sz d) b o ord (loadReq sz d ord) s

/-- Scratchpad store (R340). -/
def execSts (sz : BitVec 3) (d : BitVec 7) (b : BitVec 4) (o : BitVec 7) (ord : BitVec 3) (st : BitVec 2) (s : State) : Host.Outcome State Fault Refusal :=
  scratchOp (encM 37#6 sz d b o ord st) st (usesStore sz d) b o ord (storeReq sz d ord) s

/-- Scalar constant load of 4 bytes (R341). -/
def execSldB32 (d a b : BitVec 6) (i : BitVec 1) (st : BitVec 2) (s : State) : Host.Outcome State Fault Refusal :=
  sldOp (encS 30#6 0#4 d a b i 0#1 st) st 4 d a b i s

/-- Scalar constant load of 8 bytes (R341). -/
def execSldB64 (d a b : BitVec 6) (i : BitVec 1) (st : BitVec 2) (s : State) : Host.Outcome State Fault Refusal :=
  sldOp (encS 30#6 1#4 d a b i 0#1 st) st 8 d a b i s

/-- Atomic add.i32 (R343). -/
def execAtomAddI32 (d : BitVec 7) (b : BitVec 4) (o : BitVec 7) (ord : BitVec 3) (st : BitVec 2) (s : State) : Host.Outcome State Fault Refusal :=
  atomOp (encM 38#6 0#3 d b o ord st) st .addI32 true d b o ord s

/-- Atomic add.f32 (R343). -/
def execAtomAddF32 (d : BitVec 7) (b : BitVec 4) (o : BitVec 7) (ord : BitVec 3) (st : BitVec 2) (s : State) : Host.Outcome State Fault Refusal :=
  atomOp (encM 38#6 1#3 d b o ord st) st .addF32 true d b o ord s

/-- Atomic min.i32 (R343). -/
def execAtomMinI32 (d : BitVec 7) (b : BitVec 4) (o : BitVec 7) (ord : BitVec 3) (st : BitVec 2) (s : State) : Host.Outcome State Fault Refusal :=
  atomOp (encM 38#6 2#3 d b o ord st) st .minI32 true d b o ord s

/-- Atomic max.i32 (R343). -/
def execAtomMaxI32 (d : BitVec 7) (b : BitVec 4) (o : BitVec 7) (ord : BitVec 3) (st : BitVec 2) (s : State) : Host.Outcome State Fault Refusal :=
  atomOp (encM 38#6 3#3 d b o ord st) st .maxI32 true d b o ord s

/-- Atomic min.n32 (R343). -/
def execAtomMinN32 (d : BitVec 7) (b : BitVec 4) (o : BitVec 7) (ord : BitVec 3) (st : BitVec 2) (s : State) : Host.Outcome State Fault Refusal :=
  atomOp (encM 38#6 4#3 d b o ord st) st .minN32 true d b o ord s

/-- Atomic max.n32 (R343). -/
def execAtomMaxN32 (d : BitVec 7) (b : BitVec 4) (o : BitVec 7) (ord : BitVec 3) (st : BitVec 2) (s : State) : Host.Outcome State Fault Refusal :=
  atomOp (encM 38#6 5#3 d b o ord st) st .maxN32 true d b o ord s

/-- Atomic exch (R343). -/
def execAtomExch (d : BitVec 7) (b : BitVec 4) (o : BitVec 7) (ord : BitVec 3) (st : BitVec 2) (s : State) : Host.Outcome State Fault Refusal :=
  atomOp (encM 38#6 6#3 d b o ord st) st .exch true d b o ord s

/-- Atomic cas (R343). -/
def execAtomCas (d : BitVec 7) (b : BitVec 4) (o : BitVec 7) (ord : BitVec 3) (st : BitVec 2) (s : State) : Host.Outcome State Fault Refusal :=
  atomOp (encM 38#6 7#3 d b o ord st) st .cas true d b o ord s

/-- Atomic and (R343). -/
def execAtomAnd (d : BitVec 7) (b : BitVec 4) (o : BitVec 7) (ord : BitVec 3) (st : BitVec 2) (s : State) : Host.Outcome State Fault Refusal :=
  atomOp (encM 39#6 0#3 d b o ord st) st .and true d b o ord s

/-- Atomic or (R343). -/
def execAtomOr (d : BitVec 7) (b : BitVec 4) (o : BitVec 7) (ord : BitVec 3) (st : BitVec 2) (s : State) : Host.Outcome State Fault Refusal :=
  atomOp (encM 39#6 1#3 d b o ord st) st .or true d b o ord s

/-- Atomic xor (R343). -/
def execAtomXor (d : BitVec 7) (b : BitVec 4) (o : BitVec 7) (ord : BitVec 3) (st : BitVec 2) (s : State) : Host.Outcome State Fault Refusal :=
  atomOp (encM 39#6 2#3 d b o ord st) st .xor true d b o ord s

/-- Atomic add.i64 (R343). -/
def execAtomAddI64 (d : BitVec 7) (b : BitVec 4) (o : BitVec 7) (ord : BitVec 3) (st : BitVec 2) (s : State) : Host.Outcome State Fault Refusal :=
  atomOp (encM 39#6 3#3 d b o ord st) st .addI64 true d b o ord s

/-- Atomic cas.b64 (R343). -/
def execAtomCasB64 (d : BitVec 7) (b : BitVec 4) (o : BitVec 7) (ord : BitVec 3) (st : BitVec 2) (s : State) : Host.Outcome State Fault Refusal :=
  atomOp (encM 39#6 4#3 d b o ord st) st .casB64 true d b o ord s

/-- Atomic add.bf16x2 (R343). -/
def execAtomAddBf16x2 (d : BitVec 7) (b : BitVec 4) (o : BitVec 7) (ord : BitVec 3) (st : BitVec 2) (s : State) : Host.Outcome State Fault Refusal :=
  atomOp (encM 39#6 5#3 d b o ord st) st .addBf16x2 true d b o ord s

/-- Atomic inc.n32 (R343). -/
def execAtomIncN32 (d : BitVec 7) (b : BitVec 4) (o : BitVec 7) (ord : BitVec 3) (st : BitVec 2) (s : State) : Host.Outcome State Fault Refusal :=
  atomOp (encM 39#6 6#3 d b o ord st) st .incN32 true d b o ord s

/-- Atomic dec.n32 (R343). -/
def execAtomDecN32 (d : BitVec 7) (b : BitVec 4) (o : BitVec 7) (ord : BitVec 3) (st : BitVec 2) (s : State) : Host.Outcome State Fault Refusal :=
  atomOp (encM 39#6 7#3 d b o ord st) st .decN32 true d b o ord s

/-- Reduction add.i32 (R343). -/
def execRedAddI32 (d : BitVec 7) (b : BitVec 4) (o : BitVec 7) (ord : BitVec 3) (st : BitVec 2) (s : State) : Host.Outcome State Fault Refusal :=
  atomOp (encM 40#6 0#3 d b o ord st) st .addI32 false d b o ord s

/-- Reduction add.f32 (R343). -/
def execRedAddF32 (d : BitVec 7) (b : BitVec 4) (o : BitVec 7) (ord : BitVec 3) (st : BitVec 2) (s : State) : Host.Outcome State Fault Refusal :=
  atomOp (encM 40#6 1#3 d b o ord st) st .addF32 false d b o ord s

/-- Reduction min.i32 (R343). -/
def execRedMinI32 (d : BitVec 7) (b : BitVec 4) (o : BitVec 7) (ord : BitVec 3) (st : BitVec 2) (s : State) : Host.Outcome State Fault Refusal :=
  atomOp (encM 40#6 2#3 d b o ord st) st .minI32 false d b o ord s

/-- Reduction max.i32 (R343). -/
def execRedMaxI32 (d : BitVec 7) (b : BitVec 4) (o : BitVec 7) (ord : BitVec 3) (st : BitVec 2) (s : State) : Host.Outcome State Fault Refusal :=
  atomOp (encM 40#6 3#3 d b o ord st) st .maxI32 false d b o ord s

/-- Reduction min.n32 (R343). -/
def execRedMinN32 (d : BitVec 7) (b : BitVec 4) (o : BitVec 7) (ord : BitVec 3) (st : BitVec 2) (s : State) : Host.Outcome State Fault Refusal :=
  atomOp (encM 40#6 4#3 d b o ord st) st .minN32 false d b o ord s

/-- Reduction max.n32 (R343). -/
def execRedMaxN32 (d : BitVec 7) (b : BitVec 4) (o : BitVec 7) (ord : BitVec 3) (st : BitVec 2) (s : State) : Host.Outcome State Fault Refusal :=
  atomOp (encM 40#6 5#3 d b o ord st) st .maxN32 false d b o ord s

/-- Reduction exch (R343). -/
def execRedExch (d : BitVec 7) (b : BitVec 4) (o : BitVec 7) (ord : BitVec 3) (st : BitVec 2) (s : State) : Host.Outcome State Fault Refusal :=
  atomOp (encM 40#6 6#3 d b o ord st) st .exch false d b o ord s

/-- Reduction cas (R343). -/
def execRedCas (d : BitVec 7) (b : BitVec 4) (o : BitVec 7) (ord : BitVec 3) (st : BitVec 2) (s : State) : Host.Outcome State Fault Refusal :=
  atomOp (encM 40#6 7#3 d b o ord st) st .cas false d b o ord s

/-- Reduction and (R343). -/
def execRedAnd (d : BitVec 7) (b : BitVec 4) (o : BitVec 7) (ord : BitVec 3) (st : BitVec 2) (s : State) : Host.Outcome State Fault Refusal :=
  atomOp (encM 41#6 0#3 d b o ord st) st .and false d b o ord s

/-- Reduction or (R343). -/
def execRedOr (d : BitVec 7) (b : BitVec 4) (o : BitVec 7) (ord : BitVec 3) (st : BitVec 2) (s : State) : Host.Outcome State Fault Refusal :=
  atomOp (encM 41#6 1#3 d b o ord st) st .or false d b o ord s

/-- Reduction xor (R343). -/
def execRedXor (d : BitVec 7) (b : BitVec 4) (o : BitVec 7) (ord : BitVec 3) (st : BitVec 2) (s : State) : Host.Outcome State Fault Refusal :=
  atomOp (encM 41#6 2#3 d b o ord st) st .xor false d b o ord s

/-- Reduction add.i64 (R343). -/
def execRedAddI64 (d : BitVec 7) (b : BitVec 4) (o : BitVec 7) (ord : BitVec 3) (st : BitVec 2) (s : State) : Host.Outcome State Fault Refusal :=
  atomOp (encM 41#6 3#3 d b o ord st) st .addI64 false d b o ord s

/-- Reduction cas.b64 (R343). -/
def execRedCasB64 (d : BitVec 7) (b : BitVec 4) (o : BitVec 7) (ord : BitVec 3) (st : BitVec 2) (s : State) : Host.Outcome State Fault Refusal :=
  atomOp (encM 41#6 4#3 d b o ord st) st .casB64 false d b o ord s

/-- Reduction add.bf16x2 (R343). -/
def execRedAddBf16x2 (d : BitVec 7) (b : BitVec 4) (o : BitVec 7) (ord : BitVec 3) (st : BitVec 2) (s : State) : Host.Outcome State Fault Refusal :=
  atomOp (encM 41#6 5#3 d b o ord st) st .addBf16x2 false d b o ord s

/-- Reduction inc.n32 (R343). -/
def execRedIncN32 (d : BitVec 7) (b : BitVec 4) (o : BitVec 7) (ord : BitVec 3) (st : BitVec 2) (s : State) : Host.Outcome State Fault Refusal :=
  atomOp (encM 41#6 6#3 d b o ord st) st .incN32 false d b o ord s

/-- Reduction dec.n32 (R343). -/
def execRedDecN32 (d : BitVec 7) (b : BitVec 4) (o : BitVec 7) (ord : BitVec 3) (st : BitVec 2) (s : State) : Host.Outcome State Fault Refusal :=
  atomOp (encM 41#6 7#3 d b o ord st) st .decN32 false d b o ord s

/-- Scratchpad atomic add.i32 (R343). -/
def execAtomsAddI32 (d : BitVec 7) (b : BitVec 4) (o : BitVec 7) (ord : BitVec 3) (st : BitVec 2) (s : State) : Host.Outcome State Fault Refusal :=
  atomsOp (encM 42#6 0#3 d b o ord st) st .addI32 d b o ord s

/-- Scratchpad atomic add.f32 (R343). -/
def execAtomsAddF32 (d : BitVec 7) (b : BitVec 4) (o : BitVec 7) (ord : BitVec 3) (st : BitVec 2) (s : State) : Host.Outcome State Fault Refusal :=
  atomsOp (encM 42#6 1#3 d b o ord st) st .addF32 d b o ord s

/-- Scratchpad atomic min.i32 (R343). -/
def execAtomsMinI32 (d : BitVec 7) (b : BitVec 4) (o : BitVec 7) (ord : BitVec 3) (st : BitVec 2) (s : State) : Host.Outcome State Fault Refusal :=
  atomsOp (encM 42#6 2#3 d b o ord st) st .minI32 d b o ord s

/-- Scratchpad atomic max.i32 (R343). -/
def execAtomsMaxI32 (d : BitVec 7) (b : BitVec 4) (o : BitVec 7) (ord : BitVec 3) (st : BitVec 2) (s : State) : Host.Outcome State Fault Refusal :=
  atomsOp (encM 42#6 3#3 d b o ord st) st .maxI32 d b o ord s

/-- Scratchpad atomic min.n32 (R343). -/
def execAtomsMinN32 (d : BitVec 7) (b : BitVec 4) (o : BitVec 7) (ord : BitVec 3) (st : BitVec 2) (s : State) : Host.Outcome State Fault Refusal :=
  atomsOp (encM 42#6 4#3 d b o ord st) st .minN32 d b o ord s

/-- Scratchpad atomic max.n32 (R343). -/
def execAtomsMaxN32 (d : BitVec 7) (b : BitVec 4) (o : BitVec 7) (ord : BitVec 3) (st : BitVec 2) (s : State) : Host.Outcome State Fault Refusal :=
  atomsOp (encM 42#6 5#3 d b o ord st) st .maxN32 d b o ord s

/-- Scratchpad atomic exch (R343). -/
def execAtomsExch (d : BitVec 7) (b : BitVec 4) (o : BitVec 7) (ord : BitVec 3) (st : BitVec 2) (s : State) : Host.Outcome State Fault Refusal :=
  atomsOp (encM 42#6 6#3 d b o ord st) st .exch d b o ord s

/-- Scratchpad atomic cas (R343). -/
def execAtomsCas (d : BitVec 7) (b : BitVec 4) (o : BitVec 7) (ord : BitVec 3) (st : BitVec 2) (s : State) : Host.Outcome State Fault Refusal :=
  atomsOp (encM 42#6 7#3 d b o ord st) st .cas d b o ord s

/-- Fence of scope team (R162). -/
def execFenceRelTeam (st : BitVec 2) (s : State) : Host.Outcome State Fault Refusal :=
  fenceOp (encE 43#6 0#5 0#7 0#6 0#6 st) st (.rel .team) s

/-- Fence of scope cluster (R162). -/
def execFenceRelCluster (st : BitVec 2) (s : State) : Host.Outcome State Fault Refusal :=
  fenceOp (encE 43#6 1#5 0#7 0#6 0#6 st) st (.rel .cluster) s

/-- Fence of scope device (R162). -/
def execFenceRelDevice (st : BitVec 2) (s : State) : Host.Outcome State Fault Refusal :=
  fenceOp (encE 43#6 2#5 0#7 0#6 0#6 st) st (.rel .device) s

/-- Fence of scope system (R162). -/
def execFenceRelSystem (st : BitVec 2) (s : State) : Host.Outcome State Fault Refusal :=
  fenceOp (encE 43#6 3#5 0#7 0#6 0#6 st) st (.rel .system) s

/-- Fence of scope team (R162). -/
def execFenceFullTeam (st : BitVec 2) (s : State) : Host.Outcome State Fault Refusal :=
  fenceOp (encE 43#6 5#5 0#7 0#6 0#6 st) st (.full .team) s

/-- Fence of scope cluster (R162). -/
def execFenceFullCluster (st : BitVec 2) (s : State) : Host.Outcome State Fault Refusal :=
  fenceOp (encE 43#6 6#5 0#7 0#6 0#6 st) st (.full .cluster) s

/-- Fence of scope device (R162). -/
def execFenceFullDevice (st : BitVec 2) (s : State) : Host.Outcome State Fault Refusal :=
  fenceOp (encE 43#6 7#5 0#7 0#6 0#6 st) st (.full .device) s

/-- Fence of scope system (R162). -/
def execFenceFullSystem (st : BitVec 2) (s : State) : Host.Outcome State Fault Refusal :=
  fenceOp (encE 43#6 8#5 0#7 0#6 0#6 st) st (.full .system) s

/-- Acquire fence (R162). -/
def execFenceAcq (st : BitVec 2) (s : State) : Host.Outcome State Fault Refusal :=
  fenceOp (encE 43#6 4#5 0#7 0#6 0#6 st) st .acq s

/-- Path fence from the load-store path to the constant path (R162). -/
def execPfenceLc (st : BitVec 2) (s : State) : Host.Outcome State Fault Refusal :=
  fenceOp (encE 43#6 9#5 0#7 0#6 0#6 st) st .pfenceLc s

/-- Path fence from the load-store path to the tile path (R162). -/
def execPfenceLt (st : BitVec 2) (s : State) : Host.Outcome State Fault Refusal :=
  fenceOp (encE 43#6 10#5 0#7 0#6 0#6 st) st .pfenceLt s

end Sys2Proof.Machine
end

