-- ==== Sys2Proof/Machine/Reference.lean ====
section
/-! DEFINITION. The steps of the reference machine: loads, the store gate, drains, atomics, scratchpad accesses, external accesses,
fences and page walks (R130, R135, R145, R148 to R169, R337, R344). -/

namespace Sys2Proof.Machine

/-! ### Entries of issue queues -/

/-- The access of a number in a thread's queue. -/
def acc? (s : State) (t : Tid) (id : Nat) : Option Access := (thread? s t).bind fun th => th.queue.find? fun a => a.id == id

/-- Change or remove an access. -/
def modAcc (s : State) (t : Tid) (id : Nat) (f : Access → Access) : State :=
  modThread s t fun th => { th with queue := updWhere (fun a => a.id == id) f th.queue }
def removeAcc (s : State) (t : Tid) (id : Nat) : State :=
  modThread s t fun th => { th with queue := th.queue.filter fun a => a.id ≠ id }

/-- Write values to registers now and clear the pending marks of a number (R108, R334). -/
def deliverRegs (s : State) (t : Tid) (tok : Nat) (ws : List (Reg × BitVec 80)) : State :=
  modThread s t fun th => ws.foldl (fun th w => putReg th w.1 w.2) { th with pend := th.pend.filter fun p => p.tok ≠ tok }

/-- Write a scalar load's values and clear its marks for the group (R341). -/
def deliverScalars (s : State) (t : Tid) (tok sd : Nat) (bs : List Byte) : State :=
  modGroup s t.team t.group fun g =>
    { g with spend := g.spend.filter fun p => p.tok ≠ tok
             s := (upto (bs.length / 4)).foldl (fun l i => updAt (sd + i) (fun _ => BitVec.ofNat 32 (leNat ((bs.drop (4 * i)).take 4))) l) g.s }

/-- The value of an access arrives: its destinations are written and it is performed. -/
def complete (s : State) (t : Tid) (a : Access) (bs : List Byte) : State :=
  let s := removeAcc s t a.id
  match a.op with
  | .load rd sx => deliverRegs s t a.id (loadedRegs rd sx bs)
  | .atomic _ (some rd) => deliverRegs s t a.id (loadedRegs rd false bs)
  | .penTest rd => deliverRegs s t a.id (loadedRegs rd false bs)
  | .scalar sd => deliverScalars s t a.id sd bs
  | _ => s

/-- Raise completion registers. -/
def raiseWct (s : State) (t : Tid) (team cluster device system : Nat) : State :=
  modThread s t fun th => { th with wctTeam := max th.wctTeam team, wctCluster := max th.wctCluster cluster
                                    wctDevice := max th.wctDevice device, wctSystem := max th.wctSystem system }

/-- Operations match for the coalescer, whatever their destination register. -/
def sameAtomic (a b : Access) : Bool :=
  match a.op, b.op with
  | .atomic x _, .atomic y _ => x == y && !x.isCas
  | _, _ => false

/-- Pavilion id of a thread's context. -/
def pavOf (s : State) (t : Tid) : Nat := match tidCtx s t with | some c => c.pav | none => 0

/-- The context of a thread, 0 when it is gone. -/
def ctxOfTid (s : State) (t : Tid) : Nat := match team? s t.team with | some tm => tm.ctx | none => 0

/-- Byte ranges overlap. -/
def overlap (a n b m : Nat) : Bool := a < b + m && b < a + n

/-- An access may reach bytes that another one names: by physical address, by virtual address while one is logged, and in any case while
one has yet to be translated. -/
def mayMeet (x a : Access) : Bool :=
  match x.pa, a.pa with
  | some p, some q => overlap p x.size q a.size
  | _, _ => (x.logged.isNone && a.logged.isNone) || overlap x.va.toNat x.size a.va.toNat a.size

/-- A lower lane of the same issue has an access to the same bytes still in its queue, or one whose bytes are not known yet (R155, R165). -/
def lowerLaneWaits (s : State) (t : Tid) (a : Access) : Bool :=
  (allQueues s).any fun x => x.2.inst == a.inst && x.2.space == a.space && !x.2.isFence && !x.2.sent && x.1.lane < t.lane && mayMeet x.2 a

/-! ### wait.ext (R362) -/

/-- A write reached a line at home: waiting words that now differ complete their wait.ext. DEDUCED: log entry 45. -/
def wakeExt (s : State) (line : Nat) : State :=
  ((allQueues s).filter fun x => x.2.sent && (match x.2.op, x.2.pa with
    | .waitExt v, some p => p / 64 == line && leNat (seen s (pavOf s x.1) x.2.view p 8) ≠ v.toNat
    | _, _ => false)).foldl (fun s x =>
      teamProgress (modThread (removeAcc s x.1 x.2.id) x.1 finishWait) x.1.team) s

/-! ### Loads (R155 to R157, R130, R135) -/

/-- Core of a thread's team. -/
def coreOf (s : State) (t : Tid) : Nat := match team? s t.team with | some tm => tm.core | none => 0

/-- The nearest tag of a chain that has a version of a line; 0 when none has (R214). -/
def nearestTag (s : State) (line : Nat) : List Nat → Nat
  | [] => 0
  | t :: l => if s.versions.any (fun v => v.tag == t && v.line == line) then t else nearestTag s line l

/-- A lease copy that serves a load of a view chain: unexpired, of the thread's store and pavilion, and tagged with the nearest
version of the chain (R130, R168). DEDUCED: log entry 11. -/
def leaseHit (s : State) (t : Tid) (peer : Option Nat) (view line : Nat) : Option LeaseCopy :=
  let m := mergeLine s line
  let tag := if peer.isSome then 0 else nearestTag m line (chainOf m view)
  s.leases.find? fun c => c.store == leaseStore s (coreOf s t) && c.line == line && c.peer == peer && c.view == tag &&
    c.pav == pavOf s t && s.time < c.expiry

/-- An access ends in an error that its record names: a store or reduction is reported by a record, a load or atomic that expects a value
traps precisely. DEDUCED: log entry 52. -/
def failLane (s : State) (c : Cause) (x : Tid × Nat) : State :=
  match acc? s x.1 x.2 with
  | none => s
  | some a =>
    if (a.op.dests a.size).isEmpty then
      (writeFault (removeAcc s x.1 x.2) (threadFault s x.1 c.code a.pc a.va (peerDetail c a.va.toNat))).2
    else takeMemTrap (modThread s x.1 fun th => { dropAccess a.id th with pc := a.pos.getD th.pc }) x.1 (addrTrap c a.va.toNat)

/-- Stores of the thread's own team that have left the queues, in the order in which they are seen: those that wait for their
completion time, then the store gate, newest last (R102, R157). DEDUCED: log entry 13. -/
def ownStores (s : State) (t : Tid) (view : Nat) : List (Nat × List Byte) :=
  let chain := chainOf s view
  let mine := fun (k : Tid) (v : Nat) => k.team == t.team && chain.contains (resolveTag s s.views.length v)
  ((sortBy (fun (w : Waiting) => w.c) (s.waiting.filter fun w => mine w.tid w.view)).map fun w => (w.pa, w.bytes)) ++
  (s.gate.filter fun g => mine g.tid g.view).map fun g => (g.pa, g.bytes)

/-- Lay stores over bytes read from `pa` on. -/
def overlay (pa : Nat) (stores : List (Nat × List Byte)) (bs : List Byte) : List Byte :=
  stores.foldl (fun bs st => (upto bs.length).map fun i =>
    if st.1 ≤ pa + i && pa + i < st.1 + st.2.length then st.2.getD (pa + i - st.1) 0 else bs.getD i 0) bs

/-- A load served at the home slice: its bytes, and the lease copy that it leaves (R156). DEDUCED: log entry 13. -/
def homeLoad (s : State) (t : Tid) (a : Access) (pa : Nat) : List Byte × State :=
  let line := pa / 64
  let s := mergeLine s line
  let bs := seen s (pavOf s t) a.view pa a.size
  if a.ord == 5 || a.ord == 7 then (bs, s)
  else
    let (e, s) := grantLease s line s.time a.lease
    match e with
    | none => (bs, s)
    | some x =>
      let st := leaseStore s (coreOf s t)
      let tag := nearestTag s line (chainOf s a.view)
      let copy : LeaseCopy := { store := st, line := line, view := tag, expiry := x, bytes := seen s (pavOf s t) a.view (line * 64) 64, peer := none
                                pav := pavOf s t, ctx := ctxOfTid s t }
      (bs, { s with leases := copy :: s.leases.filter fun c => !(c.store == st && c.line == line && c.view == tag && c.peer.isNone && c.pav == pavOf s t) })

/-- Bytes of a line's copy. -/
def lineBytes (bs : List Byte) (pa n : Nat) : List Byte := (bs.drop (pa % 64)).take n

/-- A load of the load-store path binds its value (R157). -/
def loadValue (s : State) (t : Tid) (a : Access) (pa : Nat) : List Byte × State :=
  let own := if a.slot then ownStores s t 0 else ownStores s t a.view
  match (if a.ord == 5 || a.ord == 7 || a.slot then none else leaseHit s t none a.view (pa / 64)) with
  | some c => (overlay pa own (lineBytes c.bytes pa a.size), bump s t.team 3 1)
  | none =>
    let r := homeLoad (bump s t.team 4 1) t a pa
    (overlay pa own r.1, r.2)

/-- A load of the constant path: the core's constant cache, else the committed line, which is then cached (R135, R336). DEDUCED: log entry 11. -/
def constantValue (s : State) (t : Tid) (pa n : Nat) : List Byte × State :=
  let core := coreOf s t
  let ctx := match team? s t.team with | some tm => tm.ctx | none => 0
  match s.constCache.find? fun c => c.core == core && c.ctx == ctx && c.pav == pavOf s t && c.line == pa / 64 with
  | some c => (lineBytes c.bytes pa n, s)
  | none =>
    let s := mergeLine s (pa / 64)
    let line := seen s (pavOf s t) 0 (pa / 64 * 64) 64
    (lineBytes line pa n, { s with constCache := ⟨core, ctx, pavOf s t, pa / 64, line⟩ :: s.constCache })

/-- A non-task load of a declared set whose granule is held, without free loads (R206). -/
def heldFromLoad (s : State) (t : Tid) (a : Access) : Bool :=
  match team? s t.team with
  | some tm => a.mark ≠ 3 && a.ord ≠ 6 && a.space == .home && !a.slot && tm.family.isNone && (match granuleOf s tm.ctx a.va.toNat with
    | some x => !x.1.free && (holderOf s tm.ctx x.1.id x.2).isSome
    | none => false)
  | none => false

/-- The lanes that wait in `adecl` for the entry read by an access go on (R354). DEDUCED: log entry 24. -/
def passAdecl (s : State) (t : Tid) (acc : Nat) : State :=
  let pass := fun (th : Thread) => if th.wait == some (.adecl t acc) then finishWait th else th
  modTeam s t.team fun x => { x with groups := x.groups.map fun g => { g with threads := g.threads.map pass } }

/-- The entry of `adecl` has been read: the set is declared, or the performing lane traps (R195, R354). DEDUCED: log entry 24. -/
def finishAdecl (s : State) (t : Tid) (a : Access) (bs : List Byte) : State :=
  let ctx := match team? s t.team with | some tm => tm.ctx | none => 0
  let s := removeAcc s t a.id
  match setBad s.sets ctx false bs with
  | some off => passAdecl (takeTrap s t ⟨.taskState, BitVec.ofNat 32 off, 0⟩) t a.id
  | none =>
    let s := passAdecl { s with sets := declareSet s.sets (parseSet ctx bs) } t a.id
    progress s ctx

/-- Perform a load at the home slice or in a cache. DEDUCED: log entry 45. -/
def performLoad (s : State) (t : Tid) (a : Access) (pa : Nat) : State :=
  match a.op with
  | .waitExt v =>
    let s := mergeLine s (pa / 64)
    if leNat (seen s (pavOf s t) a.view pa 8) == v.toNat then modAcc s t a.id fun a => { a with sent := true }
    else teamProgress (modThread (removeAcc s t a.id) t finishWait) t.team
  | .adecl =>
    let r := loadValue s t a pa
    finishAdecl r.2 t a r.1
  | _ =>
    let r := if a.ord == 6 then constantValue s t pa a.size else loadValue s t a pa
    complete r.2 t a r.1

/-- Whether an access is a load of a kind that the load step performs. -/
def isLoadStep (a : Access) : Bool := match a.op with | .load _ _ | .scalar _ | .waitExt _ | .adecl => a.space == .home && a.ord ≠ 7 | _ => false

/-- A copy in the core serves a load: in its constant cache or its lease store. -/
def servedInCore (s : State) (t : Tid) (a : Access) (pa : Nat) : Bool :=
  if a.ord == 6 then s.constCache.any fun c => c.core == coreOf s t && c.ctx == ctxOfTid s t && c.pav == pavOf s t && c.line == pa / 64
  else !(a.ord == 5 || a.ord == 7 || a.slot) && (leaseHit s t none a.view (pa / 64)).isSome

/-- A load that reaches its line: held while the sweep stands at it, and trapped by an integrity mismatch (R59, R61). -/
def reachLoad (s : State) (t : Tid) (a : Access) (pa : Nat) : State :=
  if servedInCore s t a pa then performLoad s t a pa
  else if sweepHolds s (pavOf s t) (pa / 64) then s
  else if sealBroken s (pavOf s t) (pa / 64) then failLane s .eccUncorrected (t, a.id)
  else performLoad s t a pa

/-- A load binds its value from the gate, a lease copy or the home slice (R157, R158). -/
def execPerformLoad (t : Tid) (acc : Nat) (s : State) : Host.Outcome State Fault Refusal :=
  .next (match acc? s t acc with
    | some a => match a.pa with
      | some pa => if isLoadStep a && canLeave s t a && !heldFromLoad s t a then reachLoad s t a pa else s
      | none => s
    | none => s)

/-- A lease copy whose expiry T has reached is dropped (R130, R157). -/
def execExpire (store line : Nat) (s : State) : Host.Outcome State Fault Refusal :=
  .next { s with leases := s.leases.filter fun c => !(c.store == store && c.line == line && c.expiry ≤ s.time) }

/-! ### Stores (R156, R157) -/

/-- A region-0 store enters the core's store gate and raises WCT_team (R157, R158). -/
def execEnterGate (t : Tid) (acc : Nat) (s : State) : Host.Outcome State Fault Refusal :=
  .next (match acc? s t acc with
    | some a => match a.pa with
      | some pa =>
        if a.op == .store && a.space == .home && canLeave s t a && !lowerLaneWaits s t a then
          let s := { s with gate := s.gate ++ [⟨t, a.id, coreOf s t, a.view, pa, a.data, s.time, a.inst⟩] }
          let s := raiseWct s t (s.time + 1) 0 0 0
          let s := modThread s t fun th => { th with storesOut := th.storesOut ++ [a.id] }
          if a.ord == 7 then modAcc s t a.id fun a => { a with sent := true } else removeAcc s t a.id
        else s
      | none => s
    | none => s)

/-- An older entry of the same thread to the same line, or of a lower lane of the same issue to the same bytes, is still in the gate. -/
def olderInGate (e : GateEntry) : List GateEntry → Bool
  | [] => false
  | g :: l =>
    if g.tid == e.tid && g.acc == e.acc then
      l.any fun h => h.inst == e.inst && h.tid.lane < e.tid.lane && overlap h.pa h.bytes.length e.pa e.bytes.length
    else (g.tid == e.tid && g.pa / 64 == e.pa / 64) ||
      (g.inst == e.inst && g.tid.lane < e.tid.lane && overlap g.pa g.bytes.length e.pa e.bytes.length) || olderInGate e l

/-- A completion time was given to a store or atomic of a view: a requested commit waits for it (R168). -/
def noteCompletion (s : State) (view c : Nat) : State :=
  { s with commits := updWhere (fun r => r.tag == resolveTag s s.views.length view) (fun r => { r with tc := max r.tc (c + 1) }) s.commits }

/-- A store-gate entry reaches its home slice and gets its completion time (R157). -/
def drainEntry (s : State) (e : GateEntry) : State :=
  let ctx := ctxOfTid s e.tid
  let (c, s) := completionTime s (e.pa / 64) s.time
  let s := { s with gate := s.gate.filter (fun g => !(g.tid == e.tid && g.acc == e.acc))
                    waiting := s.waiting ++ [{ tid := e.tid, ctx := ctx, view := e.view, pa := e.pa, bytes := e.bytes, c := c }]
                    leases := s.leases.filter fun x => !(x.store == leaseStore s e.core && x.line == e.pa / 64 && x.peer.isNone) }
  let s := noteCompletion (raiseWct s e.tid 0 c c c) e.view c
  let s := modThread s e.tid fun th => { th with storesOut := th.storesOut.filter fun x => x ≠ e.acc }
  modAcc s e.tid e.acc fun a => { a with c := some c }

/-- Drain one entry of a store gate (R157). -/
def execDrain (t : Tid) (acc : Nat) (s : State) : Host.Outcome State Fault Refusal :=
  .next (match s.gate.find? fun g => g.tid == t && g.acc == acc with
    | some e => if olderInGate e s.gate then s else drainEntry s e
    | none => s)

/-! ### Atomics (R157, R165, R344) -/

/-- An atomic may reach its home slice: it may leave, and the thread's gate entries to the line have drained. -/
def atomicReady (s : State) (x : Tid × Access) : Bool :=
  canLeave s x.1 x.2 && !(s.gate.any fun g => g.tid == x.1 && some (g.pa / 64) == x.2.pa.map (· / 64))

/-- The accesses that one request combines, lowest lane first: the access alone for a compare-and-swap. DEDUCED: log entry 80. -/
def requestOf (s : State) (t : Tid) (a : Access) : List (Tid × Access) :=
  let l := (allQueues s).filter fun x => x.2.inst == a.inst && x.2.space == a.space && x.2.pa == a.pa && !x.2.sent && sameAtomic x.2 a
  if l.isEmpty then [(t, a)] else sortBy (fun x => x.1.lane) l

/-- Every lane of an access's issue that the coalescer could combine with it has been translated, or is logged (R165). -/
def issueKnown (s : State) (a : Access) : Bool :=
  !(allQueues s).any fun x => x.2.inst == a.inst && x.2.space == a.space && x.2.pa.isNone && x.2.logged.isNone && !x.2.sent && sameAtomic x.2 a

/-- An earlier flock of the same path has an atomic to the same bytes that has not left, or one whose bytes are not known yet (R165). -/
def earlierFlock (s : State) (t : Tid) (a : Access) : Bool :=
  (allQueues s).any fun x => x.1.team == t.team && x.2.pc == a.pc && x.2.inst < a.inst && x.2.space == a.space && !x.2.isFence && !x.2.sent && mayMeet x.2 a

/-- An atomic or reduction reaches its home slice and gets its completion time, one for the lanes that it combines (R157). -/
def execPerformAtomic (t : Tid) (acc : Nat) (s : State) : Host.Outcome State Fault Refusal :=
  .next (match acc? s t acc with
    | some a => match a.pa with
      | some pa =>
        let req := requestOf s t a
        if isAtomic a && a.space == .home && !a.sent && issueKnown s a && req.all (atomicReady s) && !earlierFlock s t a && (sameAtomic a a || !lowerLaneWaits s t a) then
          let (c, s) := completionTime s (pa / 64) s.time
          req.foldl (fun s x => raiseWct (modAcc s x.1 x.2.id fun a => { a with sent := true, c := some c }) x.1 c c c c) (noteCompletion s a.view c)
        else s
      | none => s
    | none => s)

/-- An atomic's turn at its completion time: the old bytes are returned and the new ones written (R343). DEDUCED: log entry 80. -/
def atomicTurn (s : State) (t : Tid) (a : Access) (pa : Nat) : State :=
  match a.op with
  | .atomic op _ =>
    let s := mergeLine s (pa / 64)
    let old := seen s (pavOf s t) a.view pa a.size
    if sealBroken s (pavOf s t) (pa / 64) then failLane s .eccUncorrected (t, a.id)
    else complete (writeView s (ctxOfTid s t) a.view pa (atomBytes op old a.data)) t a old
  | _ => s

/-! ### What happens at a completion time (R156, R161) -/

/-- The bytes that a waiting entry writes at its completion time: an addition, a peer's atomic, or its own bytes. -/
def Waiting.result (w : Waiting) (s : State) : List Byte :=
  if w.add then leBytes 8 (leNat (seen s (ctxPav s w.ctx) w.view w.pa 8) + 1)
  else match w.atom with
    | some op => atomBytes op (seen s (ctxPav s w.ctx) w.view w.pa op.size) w.bytes
    | none => w.bytes

/-- A peer's request has reached its completion time: it is acknowledged, or answered with the old bytes (R19, R161, R165). -/
def answerPeer (s : State) (w : Waiting) (old : List Byte) : State :=
  match w.peer with
  | none => s
  | some p => sendMsg s ⟨0, some p.port, if p.value then ⟨.response, p.dev, p.num, 0, old.length, 0, none, 0, old⟩ else ⟨.ack, p.dev, p.num, 0, 0, 0, none, 0, []⟩⟩

/-- A waiting entry takes effect. -/
def applyWaiting (s : State) (w : Waiting) : State :=
  answerPeer (writeView s w.ctx w.view w.pa (w.result s)) w (match w.atom with | some op => seen s (ctxPav s w.ctx) w.view w.pa op.size | none => [])

/-- At tick T: stores and atomics with completion time T are written into their views, external stores complete, and wait.ext
threads of the written lines are woken. -/
def applyCompletions (s : State) : State :=
  let now := s.waiting.filter fun w => w.c == s.time
  let s := now.foldl applyWaiting { s with waiting := s.waiting.filter fun w => w.c ≠ s.time }
  let q := sortBy (fun x => x.1.lane) ((allQueues s).filter fun x => x.2.sent && x.2.c == some s.time)
  let s := q.foldl (fun s x => match x.2.pa with
    | some pa => if isAtomic x.2 && x.2.space == .home then atomicTurn s x.1 x.2 pa else removeAcc s x.1 x.2.id
    | none => s) s
  (dedup (now.map (fun w => w.pa / 64) ++ (q.filter fun x => isAtomic x.2 && x.2.space == .home).filterMap fun x => x.2.pa.map (· / 64))).foldl wakeExt s

/-! ### Scratchpad accesses (R157, R340) -/

/-- The lanes whose arrivals at a pen are one update (R377). DEDUCED: log entry 80. -/
def arrivalsOf (s : State) (a : Access) : List (Tid × Access) :=
  sortBy (fun x => x.1.lane) ((allQueues s).filter fun x => x.2.inst == a.inst && x.2.space == a.space && x.2.pa == a.pa && x.2.op == .pen .arrive)

/-- One lane's atomic at a bank. -/
def bankAtomic (s : State) (t : Tid) (a : Access) (core pa : Nat) (op : AtomOp) : State :=
  let old := rdScratch s core pa a.size
  complete (bankWrite s core pa (atomBytes op old a.data)) t a old

/-- Word 0 of a pen as pen.test returns it: INIT reads 0 when the pen is not initialised (R377). -/
def penTestWord (s : State) (core pa : Nat) : Word :=
  let p := penAt s core pa
  if penInitialised (genAt s core pa) p then penW p 0 else setBit (penW p 0) 1 false

/-- A scratchpad access of a lane is performed at its bank; arrivals at a pen with those of the other lanes of their instruction. -/
def bankAccess (s : State) (t : Tid) (a : Access) : State :=
  let raise := fun (s : State) (k : Tid) => raiseWct s k (s.time + 1) (s.time + 1) 0 0
  match acc? s t a.id, a.space, a.pa with
  | some _, .scratch core, some pa => match a.op with
    | .load _ _ => complete s t a (rdScratch s core pa a.size)
    | .penTest _ => complete s t a (leBytes 4 (penTestWord s core pa).toNat)
    | .store => raise (removeAcc (bankWrite s core pa a.data) t a.id) t
    | .atomic op _ => raise (bankAtomic s t a core pa op) t
    | .pen .arrive =>
      let l := arrivalsOf s a
      combine (l.foldl (fun s x => raise (removeAcc s x.1 x.2.id) x.1) s) core pa .arrive (l.map (·.1)) a.va.toNat
    | .pen op => combine (raise (removeAcc s t a.id) t) core pa op [t] a.va.toNat
    | _ => s
  | _, _, _ => s

/-- The lanes whose accesses are performed together with a lane's: the whole request of an atomic, the arrivals of one instruction. -/
def bankRequest (s : State) (t : Tid) (a : Access) : List (Tid × Access) :=
  match a.op with | .atomic _ _ => requestOf s t a | .pen .arrive => arrivalsOf s a | _ => [(t, a)]

/-- A store or a compare-and-swap waits for the lower lanes of its instruction at the same bytes (R155, R344). -/
def bankTurn (s : State) (t : Tid) (a : Access) : Bool :=
  match a.op with | .store => !lowerLaneWaits s t a | .atomic op _ => !op.isCas || !lowerLaneWaits s t a | _ => true

/-- A scratchpad access is performed at its bank (R157, R344, R377). -/
def execScratchAccess (t : Tid) (acc : Nat) (s : State) : Host.Outcome State Fault Refusal :=
  .next (match acc? s t acc with
    | some a => match a.space with
      | .scratch _ =>
        let req := bankRequest s t a
        if req.all (fun x => canLeave s x.1 x.2) && bankTurn s t a then req.foldl (fun s x => bankAccess s x.1 x.2) s else s
      | _ => s
    | none => s)

/-! ### Fences (R162) -/

/-- A fence whose preconditions hold leaves the queue; pfence.lc also empties the core's constant cache (R162). -/
def execFinishFence (t : Tid) (acc : Nat) (s : State) : Host.Outcome State Fault Refusal :=
  .next (match thread? s t, acc? s t acc with
    | some th, some a => match a.op with
      | .fence f _ =>
        if fenceReady s t th acc f (earlierIn acc th.queue) then
          let s := removeAcc s t acc
          if f == .pfenceLc then { s with constCache := s.constCache.filter fun c => c.core ≠ coreOf s t } else s
        else s
      | _ => s
    | _, _ => s)

/-! ### External accesses (R139, R161, R337) -/

/-- The operation's operands can be combined into one operand: not so for the wrapping increments and decrements, whose lanes go to a
peer one by one. DEDUCED: log entry 80. -/
def AtomOp.reduces (o : AtomOp) : Bool := match o with | .incN32 | .decN32 | .cas | .casB64 => false | _ => true

/-- The lanes that one request to a peer combines (R165). -/
def peerRequest (s : State) (t : Tid) (a : Access) : List (Tid × Access) :=
  match a.op with
  | .atomic op _ => if op.reduces then requestOf s t a else [(t, a)]
  | _ => [(t, a)]

/-- The message of a request to a peer: an atomic carries the operands of its lanes combined in ascending lane order (R19, R165). -/
def peerMsg (dev pa : Nat) (a : Access) (l : List (Tid × Access)) : LinkMsg :=
  match a.op with
  | .store => writeMsg dev pa a.data
  | .atomic op _ =>
    let x := match l with | [] => a.data | y :: r => r.foldl (fun x z => atomBytes op x z.2.data) y.2.data
    atomicMsg dev pa a.size op (l.any fun y => match y.2.op with | .atomic _ (some _) => true | _ => false) x
  | _ => readMsg dev pa a.size (if a.ord == 5 || a.ord == 7 then 0 else a.lease)

/-- Send the request of an access to a peer: the lanes that it combines have left (R19, R165). -/
def sendRemote (s : State) (t : Tid) (a : Access) (dev pa : Nat) : State :=
  let part := match tidCtx s t with | some c => c.part | none => 0
  let l := peerRequest s t a
  let s := l.foldl (fun s x => modAcc s x.1 x.2.id fun a => { a with sent := true }) s
  sendRequest s (.access (l.map fun x => (x.1, x.2.id))) part (peerMsg dev pa a l)

/-- A request to a peer may leave: all its lanes may, in the order of lanes and of flocks (R155, R158, R165). -/
def peerReady (s : State) (t : Tid) (a : Access) : Bool :=
  if isAtomic a then
    issueKnown s a && (peerRequest s t a).all (fun x => canLeave s x.1 x.2) && !earlierFlock s t a && ((peerRequest s t a).length ≠ 1 || !lowerLaneWaits s t a)
  else !lowerLaneWaits s t a

/-- The answer to a request reaches the lanes that it combines, lowest lane first: each gets the value left by the lanes before it, from
the value `old` on that the peer returned (R165). DEDUCED: log entry 80. -/
def answerLanes (s : State) (l : List (Tid × Nat)) (old : List Byte) : State :=
  (l.foldl (fun (x : List Byte × State) k => match acc? x.2 k.1 k.2 with
    | some a => (match a.op with | .atomic op _ => atomBytes op x.1 a.data | _ => x.1, complete x.2 k.1 a x.1)
    | none => x) (old, s)).2

/-- An access to a peer, to the host, or with the external code leaves the queue (R161, R337). -/
def execExternalAccess (t : Tid) (acc : Nat) (s : State) : Host.Outcome State Fault Refusal :=
  .next (match acc? s t acc with
    | some a => match a.pa with
      | some pa =>
        if a.isFence || !canLeave s t a then s
        else match a.space with
          | .home => if a.ord == 7 && a.op.loads && !isAtomic a && !heldFromLoad s t a then reachLoad s t a pa else s
          | .peer dev =>
            match (if a.op.stores || a.ord == 5 || a.ord == 7 then none else leaseHit s t (some dev) 0 (pa / 64)) with
            | some c => complete s t a (lineBytes c.bytes pa a.size)
            | none => if peerReady s t a then sendRemote s t a dev pa else s
          | .host => if lowerLaneWaits s t a then s else modAcc s t a.id fun a => { a with sent := true }
          | .scratch _ => s
      | none => s
    | none => s)

/-- A PCIe completion returns for a region-2 load and performs it (R337). -/
def execPcieCompletion (t : Tid) (acc : Nat) (s : State) : Host.Outcome State Fault Refusal :=
  .next (match acc? s t acc with
    | some a => match a.pa with
      | some pa => if a.space == .host && a.sent && a.op.loads then complete s t a (Memory.readN s.hostMem pa a.size) else s
      | none => s
    | none => s)

/-- The PCIe link accepts a posted region-2 write, which completes one tick later at system scope (R161). -/
def execPostedWriteAccepted (t : Tid) (acc : Nat) (s : State) : Host.Outcome State Fault Refusal :=
  .next (match acc? s t acc with
    | some a => match a.pa with
      | some pa =>
        if a.space == .host && a.sent && a.op == .store && a.c.isNone then
          let s := { s with hostMem := Memory.writeN s.hostMem pa a.data }
          raiseWct (modAcc s t a.id fun a => { a with c := some (s.time + 1) }) t 0 0 0 (s.time + 1)
        else s
      | none => s
    | none => s)

/-! ### Page walks (R145, R148 to R152) -/

/-- Access kind of an access for DETAIL (R150). -/
def Access.kind (a : Access) : Nat := match a.op with | .store => kindWrite | .atomic _ _ => kindAtomic | _ => kindRead

/-- Keep a record that an access waits under, for INJECT (R149). -/
def keepRecord (s : State) (seq : Option Nat) (r : FaultRec) : State :=
  match seq with | some q => { s with logged := s.logged ++ [⟨q, r.stage2, r⟩] } | none => s

/-- A translation fault of an access: logged with a fault record (R148), or the end of an exit routine (R152). -/
def logFault (s : State) (t : Tid) (a : Access) (f : TFault) : State :=
  match thread? s t with
  | none => s
  | some th =>
    let rec' := f.record s t a.pc a.va.toNat a.kind
    if inRoutine th .exit && th.status.isNone then
      let (_, s) := writeFault s rec'
      endRoutine (modThread s t (dropAccess a.id)) t .faulted
    else if 4 ≤ (loggedOf th).length then s
    else
      let (q, s) := writeFault s rec'
      let s := keepRecord s q rec'
      bump (modAcc s t a.id fun a => { a with logged := some (q.getD 4294967295), s2 := f.stage2 }) t.team 10 1

/-- A translated access: its physical address and lease class.  A store keeps the cell that it had at its issue; one that had none, because
no walk gave its address then, and finds none now, is not performed: its lane traps VIEW_CAPACITY at the store's own position, where it
issues the store again (R216). DEDUCED: log entry 81. -/
def putPa (s : State) (t : Tid) (a : Access) (c : Context) (pa lease : Nat) : State :=
  if a.op.stores && a.space == .home && noCell (removeAcc s t a.id) c a.view pa then
    takeMemTrap (modThread s t fun th => { dropAccess a.id th with pc := a.pos.getD th.pc }) t (addrTrap .viewCapacity a.va.toNat)
  else modAcc s t a.id fun a => { a with pa := some pa, lease := lease, logged := none }

/-- Translate an access; `fresh` walks the tables as they stand (R149).  A slot access is not translated, but its granule may be
scrub-pending (R65, R182). DEDUCED: log entry 81. -/
def walkAccess (s : State) (t : Tid) (a : Access) (fresh : Bool) : State :=
  match tidCtx s t with
  | none => s
  | some c =>
    let p := a.va.toNat - 0xF * 2 ^ 76
    let (r, s) := if a.slot then ((if scrubPending s p then .error ⟨6, 0, true, false, p / 64 * 64⟩ else .ok (p, p, 0)), s)
      else translateNow s fresh (tidAt s t) c a.va.toNat a.kind
    match r with
    | .ok (_, pa, lease) => putPa s t a c pa lease
    | .error f => logFault (modAcc s t a.id fun a => { a with logged := none }) t a f

/-- Wake the threads of a team that wait for the fetch of a page, and forget their fetch faults there (R148). DEDUCED: log entry 23. -/
def wakeFetch (s : State) (team : Nat) (page : Nat → Bool) : State :=
  modTeam s team fun tm => { tm with groups := tm.groups.map fun g => { g with threads := g.threads.map fun th =>
    let th := match th.wait with | some (.fetch off) => if page off.toNat then { th with wait := none } else th | _ => th
    match th.fetchFault with | some off => if page off.toNat then { th with fetchFault := none } else th | none => th } }

/-- Translate the fetch of a code offset (R136, R148, R150). DEDUCED: log entry 23. -/
def walkFetch (s : State) (t : Tid) (off : Word) (fresh : Bool) : State :=
  match team? s t.team, tidCtx s t, thread? s t with
  | some tm, some c, some th =>
    let base := (tm.b.getD 14 0).toNat
    match formAddr base off.toNat with
    | none => takeMemTrap s t (regionTrap ((base + off.toNat) % 2 ^ 80) kindFetch)
    | some va =>
      if regionNo va ≠ 0 || (th.fetchFault == some off && !fresh) then s
      else
        let (r, s) := translateNow s fresh (.core tm.core) c va kindFetch
        match r with
        | .ok _ => wakeFetch s t.team fun o => (base + o) / 65536 == va / 65536
        | .error f =>
          let rec' := f.record s t th.pc.off va kindFetch
          let (q, s) := writeFault s rec'
          modThread (keepRecord s q rec') t fun th => { th with fetchFault := some off, fetchS2 := f.stage2, fetchSeq := q.getD 4294967295 }
  | _, _, _ => s

/-- A walker of the die serves an access: it is among the first 32 that wait (R145). -/
def walkerServes (s : State) (t : Tid) (acc : Nat) : Bool := ((walksOf s (tidAt s t).dieNo).take 32).any fun x => x.1 == t && x.2.id == acc

/-- A page walk completes a translation or takes a fault: of an access, or with `acc` 0 of the fetch of `off` (R145). DEDUCED: log entry 81. -/
def execPageWalk (t : Tid) (acc : Nat) (off : Word) (s : State) : Host.Outcome State Fault Refusal :=
  .next (if acc == 0 then walkFetch s t off false
    else match acc? s t acc with
      | some a => if a.pa.isNone && a.logged.isNone && !a.isFence && a.space ≠ .host && walkerServes s t acc then walkAccess s t a false else s
      | none => s)

end Sys2Proof.Machine
end

