-- ==== Sys2Proof/Machine/Meeting.lean ====
section
/-! DEFINITION. Rendezvous of groups and teams, the results of collectives, and barriers (R110 to R112, R349, R370 to R375). -/

namespace Sys2Proof.Machine

/-! ### Arrivals (R110 to R112) -/

/-- The position of the flock that issues lies in a guard span. -/
def inSpan (s : State) : Bool := match curPos s with | some x => x.2.guardLeft ≠ 0 | none => false

/-- Rendezvous of a group at an offset. -/
def groupRdv (g : Group) (off : Word) : Option Rdv := g.rdv.find? fun r => r.off == off

/-- Remove a group's rendezvous. -/
def dropGroupRdv (s : State) (team g : Nat) (off : Word) : State :=
  modGroup s team g fun x => { x with rdv := x.rdv.filter fun r => r.off ≠ off }

/-- Put an arrival into a list of rendezvous. -/
def joinRdv (off word : Word) (a : Arrival) (l : List Rdv) : List Rdv :=
  if l.any (fun r => r.off == off) then updWhere (fun r => r.off == off) (fun r => { r with arrivals := r.arrivals ++ [a] }) l
  else l ++ [⟨off, word, [a]⟩]

/-- A member arrives at a collective of its group with the values it supplies; the traps of R112. DEDUCED: log entry 44. -/
def arriveGroup (vals : Lane → List Word) (l : Lane) (s : State) : State :=
  let off := l.th.pc.off
  if !l.th.gmask.getLsbD l.tid.lane then takeTrap s l.tid ⟨.illegalOp, l.th.gmask, 0⟩
  else
    let first := (groupRdv l.g off).bind fun r => r.arrivals.head?
    match first with
    | some a =>
      if a.mask ≠ l.th.gmask then
        let all := ((groupRdv l.g off).map (·.arrivals)).getD [] ++ [⟨l.tid, l.th.gmask, [], l.fid⟩]
        all.foldl (fun s x => takeTrap s x.tid ⟨.illegalOp, x.mask, a.mask⟩) (dropGroupRdv s l.tid.team l.tid.group off)
      else modGroup s l.tid.team l.tid.group fun g => { g with rdv := joinRdv off l.word ⟨l.tid, l.th.gmask, vals l, l.fid⟩ g.rdv }
    | none => modGroup s l.tid.team l.tid.group fun g => { g with rdv := joinRdv off l.word ⟨l.tid, l.th.gmask, vals l, l.fid⟩ g.rdv }

/-- A rendezvous of a group is complete: every named thread has arrived or retired (R110, R426). -/
def groupMet (g : Group) (r : Rdv) : Bool :=
  match r.arrivals with
  | [] => false
  | a :: _ => (upto 32).all fun c => !a.mask.getLsbD c || r.arrivals.any (fun x => x.tid.lane == c) ||
      (match g.threads[c]? with | some th => th.life ≠ .live | none => true)

/-- The members of the slot's flock that have arrived at an incomplete rendezvous begin to wait (R111); those that already wait for
what follows it leave the flock. -/
def waitMembers (s : State) (l : List Tid) (w : Wait) (arrived : State → Tid → Bool) : State :=
  l.foldl (fun s t => match (thread? s t).bind (·.wait) with
    | some _ => leaveFlock s t
    | none => if arrived s t then startWait s t w else s) s

/-! ### Results of collectives (R370 to R372) -/

/-- Value `i` that a member supplied. -/
def Arrival.val (a : Arrival) (i : Nat) : Word := a.vals.getD i 0

/-- Value of a column, when it contributes. -/
def colVal (l : List Arrival) (c : Nat) : Option Word := (l.find? fun a => a.tid.lane == c).map (·.val 0)

/-- A word with bit `c` set for each contributing column that satisfies `p`. -/
def colMask (l : List Arrival) (p : Arrival → Bool) : Word :=
  (l.filter p).foldl (fun w a => setBit w a.tid.lane true) 0

/-- A shuffle: the value of source `src`, or the reader's own (R370). -/
def shuffle (l : List Arrival) (me : Arrival) (src : Int) : Word :=
  if src < 0 || 31 < src || !me.mask.getLsbD src.toNat then me.val 0 else (colVal l src.toNat).getD (me.val 0)

/-- One level of the pairwise tree of R372, with the flags of its additions. -/
def addPairs : List (Option Nat) → List (Option Nat) × Word
  | a :: b :: l =>
    let r := addPairs l
    match a, b with
    | none, y => (y :: r.1, r.2)
    | x, none => (x :: r.1, r.2)
    | some x, some y =>
      let z := addOp fF32 .rne (decodeVal fF32 x) (decodeVal fF32 y)
      (some z.1 :: r.1, z.2 ||| r.2)
  | l => (l, 0)

/-- The whole tree, five levels. -/
def addTree : Nat → List (Option Nat) → List (Option Nat) × Word
  | 0, l => (l, 0)
  | n + 1, l =>
    let r := addPairs l
    let q := addTree n r.1
    (q.1, r.2 ||| q.2)

/-- Flags of R372 that a result may set. -/
def treeFlags : Word := flagNV ||| flagOF ||| flagUF ||| flagNX

/-- redadd.f32 over the contributing members (R372). -/
def redAddF32 (l : List Arrival) : Nat × Word :=
  let cols := (upto 32).map fun c => (colVal l c).map (·.toNat)
  let r := addTree 5 cols
  let sig := l.any fun a => (decodeVal fF32 (a.val 0).toNat).isSig
  ((r.1.headD none).getD 0, (r.2 ||| (if sig then flagNV else 0)) &&& treeFlags)

/-- Sum of the values of members whose column satisfies `p`. -/
def colSum (l : List Arrival) (p : Nat → Bool) : Word := (l.filter fun a => p a.tid.lane).foldl (fun x a => x + a.val 0) 0

/-- The member chosen by a signed comparison. -/
def colBest (l : List Arrival) (better : Int → Int → Bool) : Word :=
  match l with
  | [] => 0
  | a :: r => r.foldl (fun x b => if better (b.val 0).toInt x.toInt then b.val 0 else x) (a.val 0)

/-- The writes of a member when the rendezvous of a COLL or COLL2 word completes; none for other words (R370). -/
def collWrites (w : Word) (l : List Arrival) (me : Arrival) : List (Reg × BitVec 80) :=
  let d := (w.extractLsb' 16 7).toNat
  let v := fun (x : Word) => [(Reg.v d, x.setWidth 80)]
  let p := fun (x : Bool) => [(Reg.p d, if x then (1 : BitVec 80) else 0)]
  let k := me.tid.lane
  let n := ((me.val 1).extractLsb' 0 5).toNat
  match (w.extractLsb' 26 6).toNat, (w.extractLsb' 23 3).toNat with
  | 0x30, 0 => v (colMask l fun a => a.val 0 == 1)
  | 0x30, 1 => p (l.all fun a => a.val 0 == 1)
  | 0x30, 2 => p (l.any fun a => a.val 0 == 1)
  | 0x30, 3 => v (colMask l fun a => a.val 0 == me.val 0)
  | 0x30, 4 => v (shuffle l me n)
  | 0x30, 5 => v (shuffle l me (k - n : Int))
  | 0x30, 6 => v (shuffle l me (k + n : Int))
  | 0x30, 7 => v (shuffle l me (k ^^^ n : Nat))
  | 0x31, 0 => v (colSum l fun _ => true)
  | 0x31, 1 => v (colSum l fun c => c ≤ k)
  | 0x31, 2 => v (colSum l fun c => c < k)
  | 0x31, 3 => v (colBest l fun x y => y < x)
  | 0x31, 4 => v (colBest l fun x y => x < y)
  | 0x31, 5 => let r := redAddF32 l; (Reg.v d, BitVec.ofNat 80 r.1) :: (if r.2 == 0 then [] else [(Reg.flags, r.2.setWidth 80)])
  | 0x31, 6 => p (l.all fun a => k ≤ a.tid.lane)
  | _, _ => []

/-- Results of a collective or at a decision are written at `lat` cycles, pending until then, under WAIT X (R371, R347). -/
def collDues (s : State) (core lat : Nat) (ws : List (Reg × BitVec 80)) : List Due :=
  ws.map fun x => ⟨islandOf core, coreCycle s core + lat, x.1, x.2, 0, true, true⟩

/-- A member's rendezvous is complete: it stands after the instruction, with its results on the way (R111); a wait that ends so is
progress of its context (R96). -/
def passMember (s : State) (t : Tid) (ws : List (Reg × BitVec 80)) : State :=
  let core := coreOf s t
  let s := if ((thread? s t).bind (·.wait)).isSome then teamProgress s t.team else s
  modThread s t fun th =>
    let th := { th with due := th.due ++ collDues s core 8 ws }
    match th.wait with | some .coll => finishWait th | some .team => finishWait th | some .choose => finishWait th | some .forkCopy => finishWait th | _ => th

/-- Complete a collective of a group: each arrived member receives its result at one cycle (R371). -/
def completeGroup (s : State) (team g : Nat) (r : Rdv) : State :=
  let s := dropGroupRdv s team g r.off
  r.arrivals.foldl (fun s a => passMember s a.tid (collWrites r.word r.arrivals a)) s

/-! ### Team rendezvous (R349) -/

/-- A thread arrives at a team-scope instruction with its group's scalar operands. -/
def arriveTeam (vals : Lane → List Word) (l : Lane) (s : State) : State :=
  modTeam s l.tid.team fun t => { t with rdv := joinRdv l.th.pc.off l.word ⟨l.tid, 0, vals l, l.fid⟩ t.rdv }

/-- Every live thread of a team has arrived. -/
def teamMet (s : State) (team : Nat) (r : Rdv) : Bool := (liveTids s team).all fun t => r.arrivals.any fun a => a.tid == t

/-- Remove a team's rendezvous. -/
def dropTeamRdv (s : State) (team : Nat) (off : Word) : State :=
  modTeam s team fun t => { t with rdv := t.rdv.filter fun r => r.off ≠ off }

/-- The arrivals supply the same operands (R349). -/
def agree (r : Rdv) : Bool := match r.arrivals with | [] => true | a :: l => l.all fun b => b.vals == a.vals

/-- The rendezvous ends with a trap on every arrived thread. -/
def trapArrived (s : State) (team : Nat) (r : Rdv) (tr : Trap) : State :=
  takeTraps (dropTeamRdv s team r.off) (r.arrivals.map fun a => (a.tid, tr))

/-- Let every arrived thread go on, with results. -/
def passArrived (s : State) (team : Nat) (r : Rdv) (ws : Tid → List (Reg × BitVec 80)) : State :=
  r.arrivals.foldl (fun s a => passMember s a.tid (ws a.tid)) (dropTeamRdv s team r.off)

/-! ### Barriers (R375) -/

/-- The live threads that a barrier awaits. -/
def barAwaits (s : State) (team : Nat) (b : Bar) : List Tid :=
  (liveTids s team).filter fun t => match b.roles with
    | none => true
    | some m => match group? s team t.group with | some g => m.getLsbD g.role | none => false

/-- Arrivals whose fence.rel.team preconditions hold are performed. -/
def performArrivals (s : State) (b : Bar) : State :=
  b.members.foldl (fun s t => match thread? s t with
    | some th => match th.wait with
      | some (.barrier id false) => if relReady s t th .team th.queue && troughsDone s t s.nextId false true then modThread s t fun th => { th with wait := some (.barrier id true) } else s
      | _ => s
    | none => s) s

/-- A thread's arrival at a barrier id has been performed. -/
def hasArrived (s : State) (id : Nat) (t : Tid) : Bool := match (thread? s t).bind (·.wait) with | some (.barrier k true) => k == id | _ => false

/-- Perform arrivals, and complete a barrier whose awaited threads have all arrived: each continues as after fence.acq. -/
def meetBar (s : State) (team : Nat) (b : Bar) : State :=
  let s := performArrivals s b
  if (barAwaits s team b).all (fun t => b.members.contains t && hasArrived s b.id t) then
    let s := modTeam s team fun t => { t with bars := t.bars.filter fun x => x.id ≠ b.id }
    b.members.foldl (fun s t => wakeWaiter s t) s
  else s

/-- All barriers of a team. -/
def meetBars (s : State) (team : Nat) : State :=
  match team? s team with
  | some tm => if tm.state == .resident then tm.bars.foldl (fun s b => meetBar s team b) s else s
  | none => s

/-- A thread arrives at a barrier id; a partial barrier of another kind or mask traps every arrived thread. -/
def arriveBar (id : Nat) (roles : Option Word) (l : Lane) (s : State) : State :=
  match l.tm.bars.find? (fun b => b.id == id) with
  | some b =>
    if b.roles ≠ roles then
      takeTraps (modTeam s l.tid.team fun t => { t with bars := t.bars.filter fun x => x.id ≠ id })
        ((b.members ++ [l.tid]).map fun t => (t, ⟨.illegalOp, BitVec.ofNat 32 id, 0⟩))
    else startWait (modTeam s l.tid.team fun t => { t with bars := updWhere (fun x => x.id == id) (fun x => { x with members := x.members ++ [l.tid] }) t.bars })
      l.tid (.barrier id false)
  | none => startWait (modTeam s l.tid.team fun t => { t with bars := t.bars ++ [⟨id, roles, [l.tid]⟩] }) l.tid (.barrier id false)

/-- The effect of a barrier instruction. DEDUCED: log entry 14. DEDUCED: log entry 44. -/
def barEffect (id : Nat) (roles : Option Word) (word : Word) (sl : Slot) (l : List Tid) (s : State) : State :=
  let s := perLane (fun ln s => arriveBar id roles ln s) word sl l s
  match l with | t :: _ => meetBars s t.team | [] => s

end Sys2Proof.Machine
end

