-- ==== Sys2Proof/Machine/Views.lean ====
section
/-! DEFINITION. View tags, commits and discards, granules and their release, deferred operations, cancelled engine operations, and
the rollback and restart of a family (R164, R168, R178, R193 to R230, R421, R426). -/

namespace Sys2Proof.Machine

/-! ### View tags (R212, R213, R218, R219) -/

/-- Free tags of a context's quota. -/
def quotaLeft (s : State) (c : Context) : Nat := c.quota - (s.views.filter fun v => v.ctx == c.id).length

/-- The lowest-numbered free tag from `n` on. -/
def lowestTag (s : State) : Nat → Nat → Option Nat
  | 0, _ => none
  | k + 1, n => if n < 8192 then (if s.views.any (fun v => v.tag == n) then lowestTag s k (n + 1) else some n) else none

/-- Allot a tag as a child of a view. -/
def allotTag (s : State) (c : Context) (parent : Nat) : Option (Nat × State) :=
  if quotaLeft s c == 0 then none
  else (lowestTag s (s.views.length + 1) 1).map fun n => (n, { s with views := s.views ++ [⟨n, parent, viewDepth s parent + 1, c.id, .live, 0⟩] })

/-! ### Commits (R168, R218, R219) -/

/-- Lines of which a view holds a version. -/
def linesOf (s : State) (tag : Nat) : List Nat :=
  dedup ((s.versions.filter fun v => resolveTag s s.views.length v.tag == tag).map (·.line))

/-- Request the commit of a view: tc by R168, raised later by stores that still get their completion time. -/
def requestCommit (s : State) (tag : Nat) (family fork : Option Nat) : State :=
  let lms := (linesOf s tag).map fun l => (lineRec s l).lm
  let is := fun (v : Nat) => resolveTag s s.views.length v == tag
  let cs := (s.waiting.filter fun w => is w.view).map (·.c) ++ ((atomicsDue s).filter fun x => is x.2.view).filterMap fun x => x.2.c
  { s with commits := s.commits ++ [⟨tag, 1 + (lms ++ cs).foldl max s.time, family, fork⟩] }

/-- A store or atomic of a view has no completion time yet. -/
def viewBusy (s : State) (tag : Nat) : Bool :=
  let is := fun (v : Nat) => resolveTag s s.views.length v == tag
  s.gate.any (fun g => is g.view) || (allQueues s).any fun x => x.2.op.stores && x.2.space == .home && !x.2.slot && x.2.c.isNone && is x.2.view

/-- The view becomes an alias of its parent (R168, R219). DEDUCED: log entry 37. -/
def aliasView (s : State) (tag : Nat) : State :=
  { s with views := updWhere (fun v => v.tag == tag) (fun v => { v with state := .aliased, tick := s.time }) s.views }

/-! ### Discards (R164, R168, R219) -/

/-- A tag and its live descendants: `n` bounds the depth. -/
def descendants (s : State) : Nat → List Nat → List Nat
  | 0, l => l
  | n + 1, l => descendants s n (dedup (l ++ (s.views.filter fun v => l.contains v.parent && v.state ≠ .dead).map (·.tag)))

/-- Discard a view at this tick: it and its descendants are dead, their gate entries and waiting stores are dropped. -/
def discardView (s : State) (tag : Nat) : State :=
  let ds := descendants s 8 [tag]
  { s with views := updWhere (fun v => ds.contains v.tag && v.state ≠ .dead) (fun v => { v with state := .dead, tick := s.time }) s.views
           gate := s.gate.filter fun g => !ds.contains g.view
           waiting := s.waiting.filter fun w => !ds.contains w.view
           commits := s.commits.filter fun c => !ds.contains c.tag
           leases := s.leases.filter fun c => !ds.contains c.view || c.peer.isSome }

/-! ### Granules (R199 to R201, R210) -/

/-- Age of a family. -/
def ageOfFamily (s : State) (f : Nat) : Nat := match family? s f with | some x => x.age | none => 0

/-- A thread that waits for its granule goes on, which is progress of its context (R96); a lane of `adecl` waits on for its set (R354). -/
def passGranule (s : State) (w : Waiter) : State :=
  if (thread? s w.tid).bind (·.wait) == some (.granule w.acc) then teamProgress (modThread s w.tid finishWait) w.tid.team else s

/-- The access of a waiter goes ahead: its granule is granted, or its non-task load is let through (`mark` 3). -/
def grantAccess (s : State) (w : Waiter) : State :=
  let s := modAcc s w.tid w.acc fun a => { a with granted := true, mark := if w.family.isNone then 3 else a.mark }
  match acc? s w.tid w.acc, tidCtx s w.tid with
  | some a, some c =>
    if a.op.stores && (match a.pa with | some p => noCell (removeAcc s w.tid a.id) c a.view p | none => false) then
      takeTrap (modThread s w.tid (dropAccess a.id)) w.tid (addrTrap .viewCapacity a.va.toNat).trap
    else passGranule s w
  | _, _ => passGranule s w

/-- A non-task load that waited is performed against the committed state if it is translated and may leave (R201). -/
def performWaited (s : State) (w : Waiter) : State :=
  let s := grantAccess s w
  match acc? s w.tid w.acc with
  | some a => match a.pa with
    | some pa => if isLoadStep a && canLeave s w.tid a then performLoad s w.tid a pa else s
    | none => s
  | none => s

/-- The oldest waiting family of a granule. -/
def oldestWaiter (s : State) (h : Hold) : Option Nat :=
  (minBy (fun (w : Waiter) => w.age) (s.waiters.filter fun w => w.ctx == h.ctx && w.set == h.set && w.granule == h.granule && w.family.isSome)).bind (·.family)

/-- Non-task loads that have reached a held granule from their queues: issued while it was free, they wait for its release (R206, R210). -/
def blockedLoads (s : State) (h : Hold) : List (Tid × Access) :=
  (allQueues s).filter fun x => x.2.space == .home && x.2.op.loads && !isAtomic x.2 && x.2.pa.isSome && canLeave s x.1 x.2 && heldFromLoad s x.1 x.2 &&
    (match team? s x.1.team with
      | some tm => tm.ctx == h.ctx && (match granuleOf s tm.ctx x.2.va.toNat with | some y => y.1.id == h.set && y.2 == h.granule | none => false)
      | none => false)

/-- Drop a waiting access and trap its thread at its instruction. -/
def refuseAccess (s : State) (t : Tid) (acc : Nat) (tr : Trap) : State := takeTrap (modThread s t (dropAccess acc)) t tr

/-- Holds of a family. -/
def holdCount (s : State) (f : Nat) : Nat := (s.holds.filter fun h => h.family == f).length

/-- Grant a free granule to its oldest waiting family; a family that holds 512 already is refused at each of its lanes, and the next one
follows (R200, R201). The first argument bounds the families. -/
def grantNext (h : Hold) : Nat → State → State
  | 0, s => s
  | n + 1, s =>
    match oldestWaiter s h with
    | none => s
    | some f =>
      let is := fun (w : Waiter) => w.ctx == h.ctx && w.set == h.set && w.granule == h.granule && w.family == some f
      let mine := s.waiters.filter is
      let s := { s with waiters := s.waiters.filter fun w => !is w }
      if 512 ≤ holdCount s f then
        grantNext h n (mine.foldl (fun s w => match acc? s w.tid w.acc with
          | some a => refuseAccess s w.tid w.acc (addrTrap .holdOverflow a.va.toNat).trap
          | none => s) s)
      else mine.foldl grantAccess { s with holds := s.holds ++ [{ h with family := f }] }

/-- Release one hold: the loads that wait are performed first, then the oldest waiting family is granted (R201, R210). -/
def releaseHold (s : State) (h : Hold) : State :=
  let here := fun (w : Waiter) => w.ctx == h.ctx && w.set == h.set && w.granule == h.granule
  let blocked := blockedLoads s h
  let s := { s with holds := s.holds.filter fun x => x ≠ h }
  let s := blocked.foldl (fun s x => match acc? s x.1 x.2.id, x.2.pa with | some a, some pa => performLoad s x.1 a pa | _, _ => s) s
  let loads := s.waiters.filter fun w => here w && w.family.isNone
  let s := loads.foldl performWaited { s with waiters := s.waiters.filter fun w => !(here w && w.family.isNone) }
  grantNext h (s.waiters.length + 1) s

/-- Release every hold of a family (R201, R208). -/
def releaseHolds (s : State) (f : Nat) : State := (s.holds.filter fun h => h.family == f).foldl releaseHold s

/-! ### Deferred operations (R207, R224, R225) -/

/-- The translation of a completion word: a failed one leaves its record (R37, R116). -/
def completionPa (s : State) (c : Context) (va : Nat) : Option Nat × State :=
  let (r, s) := translateNow s false (.die 0) c va kindAtomic
  match r with
  | .error f =>
    let rec' := { plainFault c.id f.cause.code (BitVec.ofNat 80 va) (f.detail kindAtomic) with stage2 := f.stage2, ipa := if f.stage2 then f.ipa else 0 }
    (none, (writeFault s rec').2)
  | .ok (_, pa, _) => (some pa, s)

/-- A signal word's completion write: an atomic add of 1 to 8 bytes, as a system-scope release (R37, R116).  In host memory it is done at
once; at a peer a request carries it (R139). DESIGN CHOICE: log entry 76. -/
def completeAt (s : State) (c : Context) (va : Nat) : State :=
  match spaceOf va with
  | .host =>
    let a := va % 2 ^ 64
    { s with hostMem := Memory.writeN s.hostMem a (leBytes 8 (Memory.readLe s.hostMem a 8 + 1)) }
  | .peer dev =>
    if !peerReach s c.part dev then (writeFault s (plainFault c.id Cause.externalAbort.code (BitVec.ofNat 80 va) (BitVec.ofNat 64 dev))).2
    else match completionPa s c va with
      | (some pa, s) => sendRequest s (.signal c.id) c.part (atomicMsg dev pa 8 .addI64 false (leBytes 8 1))
      | (none, s) => s
  | _ => match completionPa s c va with
    | (some pa, s) =>
      let (t, s) := completionTime s (pa / 64) s.time
      { s with waiting := s.waiting ++ [{ tid := ⟨0, 0, 0⟩, ctx := c.id, view := 0, pa := pa, bytes := [], c := t, add := true }] }
    | (none, s) => s

/-- Release one deferred operation (R225): a store joins its thread's queue, a signal waits for the thread's earlier stores, a
launch goes to the queue controller, a completion write is performed. -/
def releaseDeferred (s : State) (d : Deferred) : State :=
  match d.kind with
  | 2 => match d.acc with
    | some a =>
      let pre := match codeScope a.ord with | some sc => [fenceAccess (.rel sc) true s.nextId a.inst a.pc] | none => []
      let a := { a with view := 0, pa := if a.space == .host then some (a.va.toNat % 2 ^ 64) else a.pa }
      modThread { s with nextId := s.nextId + 1 } d.tid fun th => { th with queue := th.queue ++ pre ++ [a] }
    | none => s
  | 0 => match teamCtx s d.tid.team with
    | some c => if d.value.toNat < c.vecCount then { s with host := { s.host with sigs := s.host.sigs ++ [([d.tid], c.msix, c.vecBase + d.value.toNat)] } }
        else (writeFault s (threadFault s d.tid Cause.protection.code d.pc 0 0)).2
    | none => s
  | 1 => match teamCtx s d.tid.team with
    | some c => { s with launches := s.launches ++ [⟨d.tid, c.id, d.addr, s.nextId, none, true, d.pc⟩], nextId := s.nextId + 1 }
    | none => s
  | _ => match ctx? s d.value.toNat with
    | some c => completeAt s c d.addr.toNat
    | none => s

/-- Release a queue in order (R225). -/
def releaseQueue (s : State) (p : Deferred → Bool) : State :=
  let ds := s.deferred.filter p
  ds.foldl releaseDeferred { s with deferred := s.deferred.filter fun d => !p d }

/-! ### Snapshots of tasks (R198, R351) -/

/-- Bytes of a lane's part: 16 * ceil((4n + 20) / 16). -/
def laneBytes (n : Nat) : Nat := 16 * ((4 * n + 20 + 15) / 16)

/-- Masked registers in ascending order. -/
def maskRegs (m : BitVec 128) : List Nat := (upto 128).filter fun i => m.getLsbD i

/-- Size of a shadow area. -/
def shadowSize (groups : Nat) (m : BitVec 128) : Nat := groups * (256 + 32 * laneBytes (maskRegs m).length)

/-- The snapshot bytes of a lane. -/
def laneSnapshot (regs : Nat) (m : BitVec 128) (th : Thread) : List Byte :=
  let ms := maskRegs m
  ms.flatMap (fun r => leBytes 4 (if r < regs then (rdV th r).toNat else 0)) ++ leBytes 8 th.p.toNat ++
  leBytes 4 th.gmask.toNat ++ leBytes 4 th.fctl.toNat ++ leBytes 4 th.fstat.toNat

/-- Write the shadow area of a team (R198). -/
def writeShadow (s : State) (tm : Team) (m : BitVec 128) (off : Nat) : State :=
  let L := laneBytes (maskRegs m).length
  (upto tm.groups.length).foldl (fun s i => match tm.groups[i]? with
    | none => s
    | some g =>
      let base := tm.allocBase + off + i * (256 + 32 * L)
      let s := wrScratch s tm.core base (g.s.flatMap fun w => leBytes 4 w.toNat)
      (upto 32).foldl (fun s c => match g.threads[c]? with
        | some th => if th.life == .retired then s else wrScratch s tm.core (base + 256 + c * L) (laneSnapshot g.regs m th)
        | none => s) s) s

/-- The shadow lock of a team's task (R197, R198). -/
def shadowLock (tm : Team) (m : BitVec 128) (off : Nat) : RangeLock :=
  ⟨tm.core, none, tm.id, tm.ctx, true, true, tm.allocBase + off, tm.allocBase + off + shadowSize tm.groups.length m⟩

/-- Restore a lane from its snapshot (R193): masked registers, predicates and controls; other vector registers are poisoned. -/
def restoreLane (regs : Nat) (m : BitVec 128) (off : Word) (bs : List Byte) (th : Thread) : Thread :=
  let ms := (maskRegs m).filter (· < regs)
  let all := maskRegs m
  let word := fun (k : Nat) => BitVec.ofNat 32 (leNat ((bs.drop k).take 4))
  let n := 4 * all.length
  let v := (upto all.length).foldl (fun v i => let r := all.getD i 0; if ms.contains r then updAt r (fun _ => word (4 * i)) v else v) th.v
  { dropMemory th with
    life := .live, pc := Pc.at off, jump := none, v := v
    p := BitVec.ofNat 48 (leNat ((bs.drop n).take 8))
    poison := (upto 128).foldl (fun x r => if r < regs && !ms.contains r then setBit x r true else setBit x r false) th.poison
    due := [], gmask := word (n + 8), fctl := word (n + 12), fstat := word (n + 16)
    handler := none, routine := none, status := none, wait := none, nap := [] }

/-- Restart a resident team at the header after tbegin's clause, from its shadow area (R193, R204). -/
def restartTeam (s : State) (tm : Team) (f : Family) : State :=
  let L := laneBytes (maskRegs f.mask).length
  let gs := (upto tm.groups.length).filterMap fun i => (tm.groups[i]?).map fun g =>
    let base := tm.allocBase + f.shadow + i * (256 + 32 * L)
    let sb := rdScratch s tm.core base 256
    { g with s := (upto 64).map (fun k => BitVec.ofNat 32 (leNat ((sb.drop (4 * k)).take 4))), sdue := [], spend := [], scapt := none, bcapt := none, rdv := []
             threads := (upto 32).filterMap fun c => (g.threads[c]?).map fun th =>
               if f.lanes.any (fun t => t.group == i && t.lane == c) then
                 restoreLane g.regs f.mask f.restartOff (rdScratch s tm.core (base + 256 + c * L) L) th
               else th }
  modTeam s tm.id fun t => { t with groups := gs, bdue := [], rdv := [], bars := [] }

/-! ### Save records off their cores (R183, R184, R193) -/

/-- Address of a lane block, from its group's header (R180). -/
def laneBlockAt (h gslot c : Nat) : Nat := h - gslot * 1024 + 16384 + gslot * 8192 + c * 256

/-- Lanes named by the live mask of a record's header (R183, R414). -/
def recordLanes (s : State) (h : Nat) : List Nat := (upto 32).filter fun c => (BitVec.ofNat 32 (rdMem s (h + 4) 4)).getLsbD c

/-- Rewrite the status of a lane block (R193). -/
def setStatus (s : State) (ctx a code : Nat) : State := wrFor s ctx (a + 8) (leBytes 4 (putBits (BitVec.ofNat 32 (rdMem s (a + 8) 4)) 11 3 code).toNat)

/-- Rewrite every lane of a saved team to WOUNDED. -/
def markRecords (s : State) (tm : Team) : State :=
  tm.groups.foldl (fun s g => match g.record with
    | some h => (recordLanes s h).foldl (fun s c => setStatus s tm.ctx (laneBlockAt h g.gslot c) 4) s
    | none => s) s

/-- The header word with view tag, `%world` and `%nworld` (R183). -/
def viewWord (view world nworld : Nat) : Nat := view % 8192 + world % 16 * 8192 + nworld % 16 * 131072

/-- Rewrite view tag, `%world`, `%nworld` and `%restart` in a saved team's headers (R193). -/
def rewriteHeaders (s : State) (tm : Team) (view world nworld restarts : Nat) : State :=
  tm.groups.foldl (fun s g => match g.record with
    | some h => wrFor s tm.ctx (h + 40) (leBytes 4 (viewWord view world nworld) ++ leBytes 4 restarts)
    | none => s) s

/-! ### Rollback (R203, R204, R421) -/

/-- Teams of a family. -/
def familyTeams (s : State) (f : Nat) : List Team := s.teams.filter fun t => t.family == some f

/-- A wound is accepted at the anchor (R203, R193): the family is wounded; its threads that wait, or stand stalled, are taken, and
teams under pre-emption abandon their routines at once with every lane WOUNDED. -/
def acceptWound (s : State) (f : Nat) : State :=
  let s := modFamily s f fun x => { x with state := .wounded, woundSent := false }
  let ts := familyTeams s f
  let out := fun (sl : Slot) (k : Tid) => ts.any fun (t : Team) => t.id == k.team && (sl.stalled || t.state == .preempting)
  let s := { s with slots := s.slots.map fun (sl : Slot) => { sl with flock := sl.flock.filter fun k => !out sl k }
                    waiters := s.waiters.filter fun w => w.family ≠ some f }
  let s := ts.foldl (fun s t => if t.offCore then markRecords s t else s) s
  { s with teams := updWhere (fun (t : Team) => t.family == some f && t.state ≠ .resident) woundLanes s.teams }

/-- Every thread of the family's resident teams has been taken: none stands in a flock. -/
def allTaken (s : State) (f : Nat) : Bool :=
  (familyTeams s f).all fun t => t.state ≠ .resident || s.slots.all fun sl => sl.flock.all fun k => k.team ≠ t.id

/-- Enter the shadow lock of a team's open task, unless it stands already (R197, R198). -/
def enterShadow (s : State) (tm : Team) (x : Family) : State :=
  let k := shadowLock tm x.mask x.shadow
  if s.locks.contains k then s else { s with locks := s.locks ++ [k] }

/-- Restart the anchor team of a rolled-back family with a new draft tag, if one is free (R204, the row TASK_RESTART).  A task is never
opened in a task or a world (R196), so that its draft is a child of view 0.  A team off its core restarts at its resume, as its lanes
are WOUNDED (R193). -/
def restartFamily (s : State) (f : Nat) : State :=
  match family? s f with
  | none => s
  | some x =>
    match team? s x.anchor, ctx? s x.ctx with
    | some tm, some c =>
      match allotTag s c 0 with
      | none => s
      | some (tag, s) =>
        let s := modFamily s f fun x => { x with state := .opened, draft := tag, restarts := x.restarts + 1, waitingTag := false, woundSent := false }
        let s := modTeam s tm.id fun t => { t with view := tag }
        if tm.state == .resident then restartTeam (enterShadow s tm x) tm x
        else if tm.state == .preempting then s else rewriteHeaders s tm tag 0 1 (x.restarts + 1)
    | _, _ => s

/-- The team that executed `tbegin` leaves the discarded draft: it stands outside every view and fork until its restart (R193, R230). -/
def leaveDraft (s : State) (x : Family) : State :=
  let s := modTeam s x.anchor fun t => { t with view := 0, world := 0, nworld := 1, fork := none, discarded := false }
  match team? s x.anchor with
  | some tm => if tm.offCore then rewriteHeaders s tm 0 0 1 x.restarts else s
  | none => s

/-- The rollback of a family in one step (R204). -/
def rollback (s : State) (f : Nat) : State :=
  match family? s f with
  | none => s
  | some x =>
    let ids := (familyTeams s f).map (·.id)
    let s := discardView s x.draft
    let s := ids.foldl (fun s i => dropTeamMemory (cancelEngines s i) i) s
    let s := { s with deferred := s.deferred.filter fun d => !(d.family == some f || ids.contains d.tid.team)
                      locks := s.locks.filter fun k => !(k.op.isNone && ids.contains k.team)
                      troughs := s.troughs.filter fun q => !ids.contains q.tid.team
                      forks := s.forks.filter fun k => !(k.worlds.any fun w => ids.contains w.team) }
    let s := releaseHolds s f
    let s := (ids.filter fun i => i ≠ x.anchor).foldl removeTeam s
    restartFamily (modFamily (leaveDraft s x) f fun x => { x with waitingTag := true }) f

/-! ### Commits of tasks (R208, R426) -/

/-- A task's commit takes effect: holds are released, provisional threads retire, the deferred queue is released. -/
def finishTask (s : State) (f : Nat) : State :=
  match family? s f with
  | none => s
  | some x =>
    let s := releaseHolds s f
    let s := { s with locks := s.locks.filter fun k => !(k.op.isNone && k.team == x.anchor) }
    let s := modTeam s x.anchor fun t => { t with
      family := none, view := viewParent s x.draft
      groups := t.groups.map fun g => { g with threads := g.threads.map fun th => if th.life == .provisional then { th with life := .retired } else th } }
    let s := retireGroups s x.anchor
    let s := { s with families := s.families.filter fun y => y.id ≠ f }
    releaseQueue s fun d => d.family == some f

end Sys2Proof.Machine
end

