-- ==== Sys2Proof/Machine/Records.lean ====
section
/-! DEFINITION. Task records, region tables and set tables as a queue controller reads and validates them (R33, R75 to R77, R170,
R171, R194, R195). -/

namespace Sys2Proof.Machine

/-! ### Reads by a queue controller (R77, R359) -/

/-- The die of a partition's home controller: that of its lowest-numbered owned cluster. DEDUCED: log entry 27. -/
def homeDie (s : State) (part : Nat) : Nat := match minBy id (ownOf s part).clusters with | some c => c / 64 | none => 0

/-- A controller's read of `n` bytes of a context's memory by lines; the address of the line that faults. -/
def ctxLines (s : State) (c : Context) : Nat → Nat → Except (TFault × Nat) (List Byte) × State
  | 0, _ => (.ok [], s)
  | k + 1, va =>
    if regionNo va ≠ 0 then (.error (⟨4, 0, false, false, 0⟩, va), s)
    else
      let (r, s) := translateNow s false (.die (homeDie s c.part)) c va kindRead
      match r with
      | .error f => (.error (f, va), s)
      | .ok (_, pa, _) =>
        let s := mergeLine s (pa / 64)
        let bs := visible s 0 (pa / 64 * 64) 64
        let q := ctxLines s c k (va / 64 * 64 + 64)
        (q.1.map (bs ++ ·), q.2)

/-- `n` bytes from an address aligned within its line so that they fill whole lines or lie in one. DEDUCED: log entry 27. -/
def ctxRead (s : State) (c : Context) (va n : Nat) : Except (TFault × Nat) (List Byte) × State :=
  let q := ctxLines s c ((va % 64 + n + 63) / 64) va
  (q.1.map fun bs => (bs.drop (va % 64)).take n, q.2)

/-! ### Parsing (R75, R76, R170) -/

/-- A role entry (R76). -/
def parseRole (bs : List Byte) (i : Nat) : Word × Nat × Nat × Nat :=
  let o := 0x40 + 16 * i
  (BitVec.ofNat 32 (fieldAt bs o 4), fieldAt bs (o + 4) 2, fieldAt bs (o + 6) 2, fieldAt bs (o + 8) 1)

/-- A task record. DEDUCED: log entry 25. -/
def parseRecord (bs : List Byte) : TaskRec :=
  { magic := BitVec.ofNat 32 (fieldAt bs 0 4), flags := BitVec.ofNat 32 (fieldAt bs 4 4), code := BitVec.ofNat 80 (fieldAt bs 8 10)
    regions := BitVec.ofNat 80 (fieldAt bs 0x18 10), regionCount := fieldAt bs 0x22 2
    x := fieldAt bs 0x28 4, y := fieldAt bs 0x2C 4, z := fieldAt bs 0x30 4, period := fieldAt bs 0x34 4
    roleCount := fieldAt bs 0x38 4, scratch := fieldAt bs 0x3C 4
    roles := (upto (min 4 (fieldAt bs 0x38 4))).map (parseRole bs)
    b := (upto 4).map fun i => BitVec.ofNat 80 (fieldAt bs (0x80 + 16 * i) 10)
    setTable := BitVec.ofNat 80 (fieldAt bs 0xC0 10), setCount := fieldAt bs 0xCA 1
    deadline := fieldAt bs 0xD0 8, budget := fieldAt bs 0xD8 8, waitOn := BitVec.ofNat 80 (fieldAt bs 0xE0 10)
    expected := fieldAt bs 0xF0 8, completion := fieldAt bs 0xF8 8 }

/-- A region table entry. -/
def parseRegion (bs : List Byte) : Region :=
  { start := BitVec.ofNat 32 (fieldAt bs 0 4), stop := BitVec.ofNat 32 (fieldAt bs 4 4)
    exitOff := BitVec.ofNat 32 (fieldAt bs 8 4), entryOff := BitVec.ofNat 32 (fieldAt bs 12 4)
    budget := fieldAt bs 16 4, save := fieldAt bs 20 4, flags := BitVec.ofNat 32 (fieldAt bs 24 4)
    scratchOff := fieldAt bs 28 4, scratchLen := fieldAt bs 32 4, exitLen := fieldAt bs 36 2, entryLen := fieldAt bs 38 2
    live := BitVec.ofNat 128 (fieldAt bs 48 16) }

/-! ### Checks of the record (R75 to R77) -/

/-- A check: the trap that its failure takes, and whether it fails. -/
abbrev Check := Bool × Trap

/-- A check from its failing condition and its trap. -/
def bad (b : Bool) (t : Trap) : Check := (b, t)

/-- TASK_STATE with a field's offset. -/
def badField (off : Nat) : Trap := ⟨.taskState, BitVec.ofNat 32 off, 0⟩

/-- The first failing check. -/
def firstBad (l : List Check) : Option Trap := (l.find? (·.1)).map (·.2)

/-- The checks of role entry `i`: unused entries are zero; the groups of the roles so far number at most 32. -/
def roleChecks (bs : List Byte) (count i : Nat) : List Check :=
  let o := 0x40 + 16 * i
  let total := ((upto (i + 1)).map fun k => fieldAt bs (0x40 + 16 * k + 6) 2).sum
  if i < count then
    [bad (fieldAt bs o 4 % 4 ≠ 0) (badField o),
     bad (fieldAt bs (o + 4) 2 == 0 || 128 < fieldAt bs (o + 4) 2) (badField (o + 4)),
     bad (fieldAt bs (o + 6) 2 == 0 || 32 < fieldAt bs (o + 6) 2 || 32 < total) (badField (o + 6)),
     bad (3 < fieldAt bs (o + 8) 1 && fieldAt bs (o + 8) 1 ≠ 0xFF) (badField (o + 8)),
     bad (fieldAt bs (o + 9) 7 ≠ 0) (badField (o + 9))]
  else
    [bad (fieldAt bs o 4 ≠ 0) (badField o), bad (fieldAt bs (o + 4) 2 ≠ 0) (badField (o + 4)), bad (fieldAt bs (o + 6) 2 ≠ 0) (badField (o + 6)),
     bad (fieldAt bs (o + 8) 1 ≠ 0) (badField (o + 8)), bad (fieldAt bs (o + 9) 7 ≠ 0) (badField (o + 9))]

/-- The context may run start-up records (R32 flag [2]). -/
def privileged (c : Context) : Bool := c.flags.getLsbD 2

/-- The checks of order 1 of R77. DEDUCED: log entry 25. -/
def recordChecks (c : Context) (bs : List Byte) : List Check :=
  let fl := BitVec.ofNat 32 (fieldAt bs 4 4)
  let wo := fieldAt bs 0xE0 10
  [bad (fieldAt bs 0 4 ≠ 0x14B56) (badField 0),
   bad (fl &&& 0xFFFFE080#32 ≠ 0) (badField 4),
   bad (fl.getLsbD 6 && !privileged c) (⟨.priv, 4, 0⟩),
   bad (fieldAt bs 8 10 % 256 ≠ 0 || fieldAt bs 0x12 6 ≠ 0) (badField 8),
   bad (fieldAt bs 0x18 10 % 64 ≠ 0) (badField 0x18),
   bad (1024 < fieldAt bs 0x22 2) (badField 0x22),
   bad (fieldAt bs 0x24 4 ≠ 0) (badField 0x24),
   bad (fieldAt bs 0x28 4 == 0 || 2 ^ 20 < fieldAt bs 0x28 4) (badField 0x28),
   bad (fieldAt bs 0x2C 4 == 0 || 2 ^ 16 < fieldAt bs 0x2C 4) (badField 0x2C),
   bad (fieldAt bs 0x30 4 == 0 || 2 ^ 16 < fieldAt bs 0x30 4) (badField 0x30),
   bad (fl.getLsbD 12 == (fieldAt bs 0x34 4 == 0)) (badField 0x34),
   bad (fieldAt bs 0x38 4 == 0 || 4 < fieldAt bs 0x38 4) (badField 0x38),
   bad (fieldAt bs 0x3C 4 % 1024 ≠ 0 || 262144 < fieldAt bs 0x3C 4) (badField 0x3C)] ++
  (upto 4).flatMap (roleChecks bs (fieldAt bs 0x38 4)) ++
  ((upto 4).map fun i => bad (fieldAt bs (0x8A + 16 * i) 6 ≠ 0) (badField (0x80 + 16 * i))) ++
  [bad (fieldAt bs 0xC0 10 % 64 ≠ 0) (badField 0xC0),
   bad (64 < fieldAt bs 0xCA 1) (badField 0xCA),
   bad (fieldAt bs 0xCB 5 ≠ 0) (badField 0xCB),
   bad (wo % 8 ≠ 0 || fieldAt bs 0xEA 6 ≠ 0) (badField 0xE0),
   bad (regionNo wo ≠ 0) (⟨.protection, BitVec.ofNat 32 wo, BitVec.ofNat 32 (wo / 2 ^ 32)⟩),
   bad (fieldAt bs 0xF8 8 ≠ 2 ^ 64 - 1 && fieldAt bs 0xF8 8 % 8 ≠ 0) (badField 0xF8)]

/-- An offset lies in a region's range. -/
def inRegions (rs : List Region) (off : Word) : Bool := rs.any fun r => r.start.toNat ≤ off.toNat && off.toNat < r.stop.toNat

/-- The checks of entry `i` of a region table (R33, R170, R171). -/
def regionChecks (c : Context) (scratch : Nat) (rs : List Region) (i : Nat) (bs : List Byte) : List Check :=
  let r := parseRegion bs
  let o := fun k => badField (0x10000 + 64 * i + k)
  let lenBad := fun n => n < 4 || 65532 < n || n % 4 ≠ 0
  [bad (r.start.toNat % 4 ≠ 0 || (rs.take i).any (fun q => q.start.toNat < r.stop.toNat && r.start.toNat < q.stop.toNat)) (o 0),
   bad (r.stop.toNat ≤ r.start.toNat) (o 4), bad (inRegions rs r.exitOff) (o 8), bad (inRegions rs r.entryOff) (o 12),
   bad (r.budget == 0 || 8192 < r.budget) (o 16), bad (r.save % 16 ≠ 0) (o 20),
   bad (c.saveBytes < r.save) (⟨.protection, BitVec.ofNat 32 (0x10000 + 64 * i + 20), 0⟩),
   bad (r.flags &&& 0xFFFFFFFC#32 ≠ 0) (o 24), bad (r.scratchOff % 64 ≠ 0) (o 28),
   bad (r.scratchLen % 64 ≠ 0 || scratch < r.scratchOff + r.scratchLen) (o 32), bad (lenBad r.exitLen) (o 36), bad (lenBad r.entryLen) (o 38),
   bad (fieldAt bs 40 8 ≠ 0) (o 40)]

/-! ### Set tables (R194, R195) -/

/-- The set table of a record, entry by entry: the sets with its entries declared, or the first failure (order 3 of R77). -/
def declareAll (ctx : Nat) : List SetRec → Nat → List (List Byte) → Except Trap (List SetRec)
  | sets, _, [] => .ok sets
  | sets, i, bs :: l => match setBad sets ctx true bs with
    | some o => .error (badField (0x20000 + 32 * i + o))
    | none => declareAll ctx (declareSet sets (parseSet ctx bs)) (i + 1) l

/-- A list cut into pieces of `n` bytes. -/
def pieces (n : Nat) : Nat → List Byte → List (List Byte)
  | 0, _ => []
  | k + 1, l => l.take n :: pieces n k (l.drop n)

/-! ### The whole read (R77, orders 1 to 4) -/

/-- Why a record cannot be launched. -/
inductive RecordFail where
  | trap (t : Trap)
  | fault (f : TFault) (va : Nat)

/-- What a good read gives: the record, its regions, and the sets of the context with its set table declared. -/
structure Loaded where
  record : TaskRec
  regions : List Region
  sets : List SetRec

/-- Read and validate a record, up to the team count of a cluster launch. DEDUCED: log entry 25. -/
def readRecord (s : State) (c : Context) (va : Nat) : Except RecordFail Loaded × State :=
  let (r, s) := ctxRead s c va 256
  match r with
  | .error (f, a) => (.error (.fault f a), s)
  | .ok bs =>
    match firstBad (recordChecks c bs) with
    | some t => (.error (.trap t), s)
    | none =>
      let rec' := parseRecord bs
      let (r, s) := ctxRead s c rec'.regions.toNat (64 * rec'.regionCount)
      match r with
      | .error (f, a) => (.error (.fault f a), s)
      | .ok rb =>
        let rbs := pieces 64 rec'.regionCount rb
        let rs := rbs.map parseRegion
        match firstBad ((upto rec'.regionCount).flatMap fun i => regionChecks c rec'.scratch rs i (rbs.getD i [])) with
        | some t => (.error (.trap t), s)
        | none =>
          let (r, s) := if rec'.setTable == 0 then (.ok [], s) else ctxRead s c rec'.setTable.toNat (32 * rec'.setCount)
          match r with
          | .error (f, a) => (.error (.fault f a), s)
          | .ok sb =>
            match declareAll c.id s.sets 0 (pieces 32 (if rec'.setTable == 0 then 0 else rec'.setCount) sb) with
            | .error t => (.error (.trap t), s)
            | .ok sets =>
              if rec'.flags.getLsbD 0 && (rec'.x * rec'.y * rec'.z) % 4 ≠ 0 then (.error (.trap (badField 0x28)), s)
              else (.ok ⟨rec', rs, sets⟩, s)

end Sys2Proof.Machine
end

