-- ==== Sys2Proof/Machine/Save.lean ====
section
/-! DEFINITION. Save records: the save arena, group headers, lane blocks, the register image, saved scratch ranges, their writing
at pre-emption and their reading at resume; replay and abort of logged accesses (R149, R152, R164, R173 to R189, R193, R312,
R414, R427). -/

namespace Sys2Proof.Machine

/-! ### Replay and abort of a logged access (R149, R152) -/

/-- An access is discarded: its destinations are poisoned, and its thread owes the trap of its fault; a thread that waits for the
access takes the trap at once. -/
def abortAccess (s : State) (t : Tid) (a : Access) : State :=
  match thread? s t with
  | none => s
  | some th =>
    let tr : Trap := ⟨if a.s2 then .stage2Fault else .pageFault, BitVec.ofNat 32 a.va.toNat, BitVec.ofNat 32 (a.va.toNat / 2 ^ 32)⟩
    let rs := th.pend.filterMap fun p => if p.tok == a.id then (match p.reg with | .v n => some n | _ => none) else none
    let s := modThread s t fun th => { dropAccess a.id th with poison := rs.foldl (fun x n => setBit x n true) th.poison }
    let s := modGroup s t.team t.group fun g => { g with spend := g.spend.filter fun p => p.tok ≠ a.id }
    if th.wait.isSome && (th.wait == some (.waitExt a.id) || th.wait == some (.granule a.id) ||
        th.wait == some (.adecl t a.id)) then passAdecl (takeTrap s t tr) t a.id
    else modThread s t fun th => { th with owed := some tr }

/-- A logged access is retried by a fresh walk. -/
def replayAccess (s : State) (t : Tid) (a : Access) : State := walkAccess s t a true

/-- Act on the marks of a team's logged accesses at its resume (R152). -/
def actMarks (s : State) (team : Nat) : State :=
  ((allQueues s).filter fun x => x.1.team == team && x.2.logged.isSome && (x.2.mark == 1 || x.2.mark == 2)).foldl (fun s x =>
    let s := modAcc s x.1 x.2.id fun a => { a with mark := 0 }
    if x.2.mark == 1 then replayAccess s x.1 { x.2 with mark := 0 } else abortAccess s x.1 x.2) s

/-! ### The save arena (R180, R181) -/

/-- Bytes of a core area. -/
def areaBytes (c : Context) : Nat := 64 * (17408 + 32 * c.saveBytes)

/-- The core area bound to a core. -/
def areaOf (c : Context) (core : Nat) : Option Nat := (c.areas.find? fun x => x.2 == core).map (·.1)

/-- Address of a group header. -/
def headerAt (c : Context) (area quad gslot : Nat) : Nat := c.arenaBase + area * areaBytes c + quad * 278528 + gslot * 1024

/-- Area, quadrant and group slot of a header's address. -/
def headerPlace (c : Context) (h : Nat) : Nat × Nat × Nat :=
  let o := h - c.arenaBase
  (o / areaBytes c, o % areaBytes c / 278528, o % areaBytes c % 278528 / 1024)

/-- Address of a register of a lane column in the register image. -/
def imageAt (h gslot row c : Nat) : Nat := h - gslot * 1024 + 147456 + row * 128 + c * 4

/-- Address of a thread's routine slot. -/
def slotAddr (c : Context) (area quad gslot lane : Nat) : Nat :=
  c.arenaBase + area * areaBytes c + 1114112 + ((quad * 16 + gslot) * 32 + lane) * c.saveBytes

/-! ### Vectoring (R173, R174, R312) -/

/-- Capture a group's scalars and its team's bases at the vectoring of its first thread. -/
def captureGroup (s : State) (t : Tid) : State :=
  match team? s t.team with
  | some tm =>
    let b := (settleAll tm).b
    modGroup s t.team t.group fun g =>
      if g.scapt.isSome then g
      else { g with scapt := some (g.sdue.foldl (fun l d => match d.reg with | .s n => updAt n (fun _ => d.val.setWidth 32) l | _ => l) g.s), bcapt := some b }
  | none => s

/-- Every result of a thread that is on its way is written: the boundary of R173. -/
def landAll (th : Thread) : Thread := th.due.foldl (fun x d => putReg x d.reg d.val) { th with due := [] }

/-- A live thread of a team under pre-emption has neither been vectored nor ended. -/
def toVector (tm : Team) (th : Thread) : Bool :=
  tm.state == .preempting && th.life == .live && th.status.isNone && !inRoutine th .exit && !inRoutine th .entry && th.restored

/-- A thread at its boundary takes a trap that it owes, and is then vectored to its region's exit routine; in the default region
it takes its dump at once (R174). -/
def vectorThread (s : State) (t : Tid) : State :=
  let s := takeOwed s [t]
  match team? s t.team, thread? s t with
  | some tm, some th =>
    if !toVector tm th then s
    else
      let s := captureGroup s t
      match regionOf tm th.pc.off, ctx? s tm.ctx with
      | some r, some c => match tm.regions[r]?, tm.groups[t.group]? with
        | some rg, some gr =>
          modThread s t fun th =>
            let th := landAll th
            { th with
              routine := some { kind := .exit, region := r, start := rg.exitOff, len := rg.exitLen, budgetEnd := s.time + rg.budget
                                resume := th.pc, stack := th.stack, preds := th.p, gmask := th.gmask, fctl := th.fctl, fstat := th.fstat
                                slot := slotAddr c ((areaOf c tm.core).getD 0) gr.quad gr.gslot t.lane }
              pc := Pc.start rg.exitOff, stack := [], jump := none, dtime := none, nap := [] }
        | _, _ => s
      | _, _ => modThread s t fun th => { landAll th with status := some .routineOk, dtime := none, jump := none, nap := [] }
  | _, _ => s

/-- A thread of a team under pre-emption reaches its instruction boundary and is vectored (R173). -/
def execThreadVectoring (t : Tid) (s : State) : Host.Outcome State Fault Refusal := .next (vectorThread s t)

/-- The budget of a routine is over at this tick; a word of the thread that is due at the last tick comes first, as it may end the
routine in another way (R176). -/
def overBudget (s : State) (t : Tid) (r : Routine) : Bool :=
  decide (r.budgetEnd < s.time) || (r.budgetEnd == s.time && !s.slots.any fun sl => sl.flock.contains t && slotDue s sl)

/-- The budget of an exit routine runs out before `exit.save` (R176). DEDUCED: log entry 47. -/
def execRoutineOverrun (t : Tid) (s : State) : Host.Outcome State Fault Refusal :=
  .next (match thread? s t with
    | some th => match th.routine with
      | some r => if r.kind == .exit && th.status.isNone && overBudget s t r then endRoutine s t .overrun else s
      | none => s
    | none => s)

/-! ### Contents of a save record (R183, R184) -/

/-- Code of a lane status (R176). -/
def LaneStatus.code (x : LaneStatus) : Nat :=
  match x with | .routineOk => 0 | .overrun => 1 | .violation => 2 | .faulted => 3 | .wounded => 4 | .trapped => 5

/-- Live lanes, or those of another life, as a mask. -/
def lifeMask (g : Group) (l : Life) : Word :=
  (upto 32).foldl (fun m c => match g.threads[c]? with | some th => if th.life == l then setBit m c true else m | none => m) 0

/-- The 1,024 bytes of a group header (R183). DEDUCED: log entry 28. -/
def headerBytes (s : State) (tm : Team) (i : Nat) (g : Group) (time run : Nat) : List Byte :=
  let a := match grid? s tm.grid with | some x => x.addr.toNat | none => 0
  let b := (g.bcapt.getD tm.b).flatMap fun x => leBytes 16 x.toNat
  let ss := (g.scapt.getD g.s).flatMap fun x => leBytes 4 x.toNat
  leBytes 4 (0x5356 + 65536) ++ leBytes 4 (lifeMask g .live).toNat ++ leBytes 16 a ++ leBytes 4 tm.x ++ leBytes 4 tm.y ++ leBytes 4 tm.z ++
  leBytes 4 (g.role % 4 + i % 32 * 4 + g.row % 1024 * 128 + g.regs % 256 * 131072) ++ leBytes 4 (viewWord tm.view tm.world tm.nworld) ++
  leBytes 4 (restartsOf s tm) ++ leBytes 8 (ageOf s tm) ++ leBytes 8 time ++ ss ++ b ++ (tm.q.flatMap fun x => leBytes 8 x.toNat) ++
  leBytes 16 run ++ leBytes 4 (lifeMask g .provisional).toNat ++ List.replicate 364 0#8

/-- The position, region, stack and captured state that a lane block records. -/
def laneResume (tm : Team) (th : Thread) : Pc × Option Nat × List Word :=
  match th.routine with
  | some r => (r.resume, some r.region, r.stack)
  | none => (th.pc, regionOf tm th.pc.off, th.stack)

/-- Predicates, `%gmask`, `%fctl` and `%fstat` that a lane block records: captured for an exit routine (R312). -/
def laneControls (th : Thread) : BitVec 48 × Word × Word × Word :=
  match th.routine with
  | some r => if r.kind == .exit then (r.preds, r.gmask, r.fctl, r.fstat) else (th.p, th.gmask, th.fctl, th.fstat)
  | none => (th.p, th.gmask, th.fctl, th.fstat)

/-- The state word at offset 0x08 of a lane block, without status and dump bits. -/
def laneWord (tm : Team) (th : Thread) : Nat :=
  let r := laneResume tm th
  let p := r.1
  (r.2.1.getD 2047) % 2048 + p.guardLeft % 8 * 65536 + p.guardPred.toNat * 524288 + (if p.guardNeg then 33554432 else 0) +
  (loggedOf th).length % 8 * 67108864 + (if th.handler.isSome then 536870912 else 0) +
  (if p.guardLeft ≠ 0 && p.guardOk then 1073741824 else 0) + (if th.stoppedEntry then 2147483648 else 0)

/-- Operand-log bytes: their layout is not stated, so the bytes of a used entry are free (R184). DEDUCED: log entry 28. -/
def logBytes (s : State) (t : Tid) (n : Nat) : List Byte :=
  (upto 144).map fun i => if i < 36 * n then Config.freeByte (s.fresh * 1048576 + t.group * 8192 + t.lane * 256 + i) else 0

/-- The 256 bytes of a lane block (R184), with `st` in its status and dump bits. DEDUCED: log entry 28. -/
def laneBlock (s : State) (tm : Team) (t : Tid) (th : Thread) (st : Nat) : List Byte :=
  let r := laneResume tm th
  let c := laneControls th
  let w := fun (x : Word) => leBytes 4 x.toNat
  w r.1.off ++ w (if r.1.inside then r.1.hdr else r.1.off) ++ leBytes 4 (laneWord tm th + st) ++ leBytes 4 r.2.2.length ++ leBytes 8 c.1.toNat ++
  w c.2.1 ++ w c.2.2.1 ++ w c.2.2.2 ++ leBytes 4 th.cause.toNat ++ w th.tvalLo ++ w th.tvalHi ++ w th.tret ++ List.replicate 12 0#8 ++
  ((r.2.2 ++ List.replicate 8 0).take 8).flatMap w ++ leBytes 16 th.poison.toNat ++ logBytes s t (loggedOf th).length

/-! ### Saved scratch ranges (R179, R427) -/

/-- The scratch ranges of a team to save when threads of it stand in the regions `rs`, by offset in its allocation and length: once per
region with flag [1], in ascending index, and then the shadow area of an open task (R427). -/
def savedRanges (s : State) (tm : Team) (rs : List Nat) : List (Nat × Nat) :=
  let regs := (sortBy (fun (n : Nat) => n) (dedup rs)).filterMap fun r => match tm.regions[r]? with
    | some x => if x.flags.getLsbD 1 && x.scratchLen ≠ 0 then some (x.scratchOff, x.scratchLen) else none
    | none => none
  regs ++ (match tm.family.bind (family? s) with
    | some f => if f.anchor == tm.id then [(f.shadow, shadowSize tm.groups.length f.mask)] else []
    | none => [])

/-- Regions in which live threads of a team stand. -/
def regionsStood (tm : Team) : List Nat :=
  tm.groups.flatMap fun g => g.threads.filterMap fun th => if th.life == .live then (laneResume tm th).2.1 else none

/-- Regions that the lane blocks of a team's save record name. -/
def regionsRecorded (s : State) (tm : Team) : List Nat :=
  tm.groups.flatMap fun g => match g.record with
    | some h => match teamCtx s tm.id with
      | some c => (recordLanes s h).map fun l => rdMem s (laneBlockAt h (headerPlace c h).2.2 l + 8) 4 % 2048
      | none => []
    | none => []

/-- Cells of a range. -/
def rangeCells (n : Nat) : Nat := (n + 127) / 128

/-- Whether `n` cells from a cell on are free. -/
def cellsFree (c : Context) (a n : Nat) : Bool := !c.cellsUsed.any fun x => a ≤ x && x < a + n

/-- The first free run of `n` cells of an extent, from a cell on: `k` bounds the search. -/
def runFrom (c : Context) (n : Nat) : Nat → Nat → Nat → Option Nat
  | 0, _, _ => none
  | k + 1, a, stop => if stop < a + n then none else if cellsFree c a n then some a else runFrom c n k (a + 1) stop

/-- The cell of the run for `n` cells: the extents in the order they were added (R427). -/
def findRun (c : Context) (n : Nat) : Option Nat :=
  c.extents.findSome? fun e => runFrom c n (e.2 / 128 + 1) (e.1 / 128) (e.1 / 128 + e.2 / 128)

/-- Copy ranges of a core into a run of cells from an address on, the last cell of each padded with zeros, sealed for a pavilion (R427). -/
def spillRanges (s : State) (ctx core base : Nat) : List (Nat × Nat) → Nat → State
  | [], _ => s
  | r :: l, a =>
    let bs := rdScratch s core (base + r.1) r.2
    spillRanges (wrFor s ctx a (bs ++ List.replicate (128 * rangeCells r.2 - r.2) 0#8)) ctx core base l (a + 128 * rangeCells r.2)

/-- Copy ranges back into an allocation. -/
def unspillRanges (s : State) (core base : Nat) : List (Nat × Nat) → Nat → State
  | [], _ => s
  | r :: l, a => unspillRanges (wrScratch s core (base + r.1) (Memory.readN s.mem a r.2)) core base l (a + 128 * rangeCells r.2)

/-- Total cells of ranges. -/
def totalCells (l : List (Nat × Nat)) : Nat := (l.map fun r => rangeCells r.2).sum

/-- Spill a team's ranges: the state, the run's address (0 = none), and whether the pool lacks room (R179). -/
def spillTeam (s : State) (tm : Team) (c : Context) : State × Nat × Bool :=
  let rs := savedRanges s tm (regionsStood tm)
  let n := totalCells rs
  if n == 0 then (s, 0, false)
  else match (if poolCells c < usedCells s c + n then none else findRun c n) with
    | none => (s, 0, true)
    | some a =>
      let s := modCtx s c.id fun c => { c with cellsUsed := c.cellsUsed ++ (upto n).map (a + ·) }
      let s := modTeam s tm.id fun t => { t with run := some (a * 128, n) }
      (spillRanges s c.id tm.core tm.allocBase rs (a * 128), a * 128, false)

/-! ### Writing the record (R177, R185) -/

/-- A lane's registers go to the register image: a fallback dump, a checked dump, or a dump taken in the default region. -/
def dumps (tm : Team) (th : Thread) : Bool :=
  th.status ≠ some .wounded && (th.fallback || th.checked || (laneResume tm th).2.1.isNone)

/-- Status and dump bits of a lane block. -/
def statusBits (th : Thread) : Nat :=
  (match th.status with | some x => x.code | none => 0) * 2048 + (if th.fallback then 16384 else 0) + (if th.checked then 32768 else 0)

/-- The contents of a lane's slot in its group's old record, as written to its slot in the new one (R185, R191). -/
def slotCarried (s0 : State) (c : Context) (old h lane : Nat) : Nat × List Byte :=
  let p := headerPlace c old
  let q := headerPlace c h
  (slotAddr c q.1 q.2.1 q.2.2 lane, Memory.readN s0.mem (slotAddr c p.1 p.2.1 p.2.2 lane) c.saveBytes)

/-- Bytes that a lane writes into memory: address and bytes. -/
def laneRecord (s0 : State) (tm : Team) (c : Context) (h : Nat) (g : Group) (t : Tid) (th : Thread) : List (Nat × List Byte) :=
  let blk := laneBlockAt h g.gslot t.lane
  if th.life ≠ .live then [(blk, List.replicate 256 0#8)]
  else if carried th then
    match g.record with
    | none => []
    | some old =>
      let p := headerPlace c old
      let orow := rdMem s0 (old + 0x24) 4 / 128 % 1024
      (blk, Memory.readN s0.mem (laneBlockAt old p.2.2 t.lane) 256) ::
      slotCarried s0 c old h t.lane ::
      (upto g.regs).map fun r => (imageAt h g.gslot (g.row + r) t.lane, Memory.readN s0.mem (imageAt old p.2.2 (orow + r) t.lane) 4)
  else
    (blk, laneBlock s0 tm t th (statusBits th)) ::
    ((if th.stoppedEntry then (match g.record with | some old => [slotCarried s0 c old h t.lane] | none => []) else []) ++
      (if dumps tm th then (upto g.regs).map fun r => (imageAt h g.gslot (g.row + r) t.lane, leBytes 4 (rdV th r).toNat) else []))

/-- Bytes of a group's whole save record. -/
def groupRecord (s : State) (tm : Team) (c : Context) (run i : Nat) (g : Group) : List (Nat × List Byte) :=
  let h := headerAt c ((areaOf c tm.core).getD 0) g.quad g.gslot
  (h, headerBytes s tm i g s.time run) ::
  (upto 32).flatMap fun l => match g.threads[l]? with | some th => laneRecord s tm c h g ⟨tm.id, i, l⟩ th | none => []

/-- An access keeps its place in the queue across a save: it is logged, or it waits behind a logged one. DEDUCED: log entry 30. -/
def staysQueued (s : State) (t : Tid) (th : Thread) (a : Access) : Bool :=
  a.logged.isSome || (!a.sent && !canLeave s t a && (earlierIn a.id th.queue).any fun b => b.logged.isSome)

/-- A thread's memory accesses and results are done, but for logged accesses and engine operations, and T has passed its completion
registers (R164, R173). -/
def threadQuiet (s : State) (t : Tid) (th : Thread) : Bool :=
  th.queue.all (staysQueued s t th) && th.storesOut.isEmpty && th.held.isEmpty &&
  th.pend.all (fun p => p.why == .engine || (th.queue.any fun a => a.id == p.tok) || s.troughs.any fun q => q.tok == p.tok) && !(th.pend.any fun p => p.why == .sfu) &&
  max (max th.wctTeam th.wctCluster) (max th.wctDevice th.wctSystem) ≤ s.time

/-- A scalar register of a team awaits an access that stays queued across a save: it is still pending at the resume (R152). -/
def stillLogged (s : State) (tm : Team) (p : Pend) : Bool :=
  (tidsOf tm).any fun t => match thread? s t with | some th => th.queue.any fun a => a.id == p.tok && staysQueued s t th a | none => false

/-- A team under pre-emption can be saved: every routine or dump has ended, and its stores have drained. DEDUCED: log entry 30. -/
def saveReady (s : State) (tm : Team) : Bool :=
  teamEnded tm && ((tidsOf tm).all fun t => match thread? s t with | some th => threadQuiet s t th | none => true) &&
  (tm.groups.all fun g => g.spend.all (stillLogged s tm)) && !(s.gate.any fun e => e.tid.team == tm.id)

/-- Pops still queued poison their destinations; pushes are lost (R396). -/
def dropTroughs (s : State) (team : Nat) : State :=
  let l := s.troughs.filter fun q => q.tid.team == team
  let s := { s with troughs := s.troughs.filter fun q => q.tid.team ≠ team }
  l.foldl (fun s q => if q.pop then poisonStatus s [q.tid] q.tok q.rd else s) s

/-- The state of a team after its record is written: its place is given up. -/
def parkTeam (s : State) (team : Nat) (bound : Bool) (c : Context) : State :=
  let s := clearFlocks s team
  let s := { s with tiles := s.tiles.filter fun x => x.team ≠ team
                    pins := s.pins.filter fun p => p.team ≠ team
                    ageing := s.ageing.filter fun a => a.team ≠ team
                    locks := s.locks.filter fun k => k.team ≠ team || (bound && k.op.isNone) }
  modTeam s team fun t => { t with
    state := if bound then .bound else .saved
    groups := t.groups.map fun g => { g with
      record := if g.retired then none else some (headerAt c ((areaOf c t.core).getD 0) g.quad g.gslot)
      threads := g.threads.map fun th => { th with wctTeam := 0, wctCluster := 0, wctDevice := 0, wctSystem := 0 } } }

/-- Write a team's save record and free its resources (R164, R177 to R185). -/
def saveTeam (s : State) (team : Nat) : State :=
  let s := modTeam (dropTroughs (cancelEngines s team) team) team settleAll
  match team? s team, teamCtx s team with
  | some tm, some c =>
    let (s, run, lacks) := spillTeam s tm c
    let s := if lacks then (writeFault s { plainFault c.id Cause.viewCapacity.code 0 0 with core := tm.core, slot := tm.slot }).2 else s
    let ws := (upto tm.groups.length).flatMap fun i => match tm.groups[i]? with
      | some g => if g.retired then [] else groupRecord s tm c run i g
      | none => []
    parkTeam (ws.foldl (fun s w => wrFor s c.id w.1 w.2) s) team lacks c
  | _, _ => s

/-! ### Reading the record (R186, R189, R191, R193) -/

/-- The clause position of a resume offset and its header; the header word is the one that the lane kept, or it is fetched. DEDUCED: log entry 29. -/
def resumePc (s : State) (team : Nat) (kept : Pc) (off hdr : Word) (w : Nat) : Pc :=
  let left := w / 65536 % 8
  { off := off, inside := off ≠ hdr, hdr := hdr, hword := if kept.hdr == hdr && kept.inside then kept.hword else (fetchWord s team hdr).getD 0
    guardLeft := left, guardOk := left == 0 || w / 1073741824 % 2 == 1, guardPred := BitVec.ofNat 6 (w / 524288)
    guardNeg := w / 33554432 % 2 == 1, entry := kept.entry && kept.off == off }

/-- The clause position that a trap return offset names. -/
def retPc (kept : Pc) (off : Word) : Pc := if kept.off == off then kept else Pc.at off

/-- Restore one lane from its lane block and register image; in a routine its slot is that of the record. -/
def readLane (s : State) (tm : Team) (c : Context) (g : Group) (h row : Nat) (t : Tid) (th : Thread) : Thread :=
  let place := headerPlace c h
  let gslot := place.2.2
  let bs := Memory.readN s.mem (laneBlockAt h gslot t.lane) 256
  let wd := fun (o : Nat) => BitVec.ofNat 32 (fieldAt bs o 4)
  let st := fieldAt bs 8 4
  let status := st / 2048 % 8
  let region := st % 2048
  let kept := (laneResume tm th).1
  let pc := resumePc s tm.id kept (wd 0) (wd 4) st
  let stack := (upto (min 8 (fieldAt bs 12 4))).map fun i => wd (0x40 + 4 * i)
  let image := (upto 128).map fun r => if r < g.regs then BitVec.ofNat 32 (rdMem s (imageAt h gslot (row + r) t.lane) 4) else 0
  let poison : BitVec 128 := BitVec.ofNat 128 (fieldAt bs 0x60 16)
  let th := { th with
    p := BitVec.ofNat 48 (fieldAt bs 0x10 8), gmask := wd 0x18, fctl := wd 0x1C, fstat := wd 0x20
    cause := BitVec.ofNat 8 (fieldAt bs 0x24 4), tvalLo := wd 0x28, tvalHi := wd 0x2C, tret := wd 0x30
    handler := if st / 536870912 % 2 == 1 then some ⟨retPc (match th.handler with | some x => x.ret | none => kept) (wd 0x30), wd 0x24 == 0x12#32⟩ else none
    jump := none, due := [], dtime := none, wait := none, nap := [], owed := none, fetchFault := none, status := none, fallback := false
    checked := st / 32768 % 2 == 1, restored := false, stoppedEntry := false }
  let slot := slotAddr c place.1 place.2.1 gslot t.lane
  let entry := fun (rg : Region) => { kind := RoutineKind.entry, region := region, start := rg.entryOff, len := rg.entryLen, budgetEnd := 0
                                      resume := pc, stack := stack, preds := th.p, gmask := th.gmask, fctl := th.fctl, fstat := th.fstat, slot := slot : Routine }
  match tm.regions[region]? with
  | some rg =>
    if st / 2147483648 % 2 == 1 then
      { th with v := image, poison := poison, routine := some (entry rg), pc := retPc th.pc (wd 0x30), stoppedEntry := true }
    else if st / 16384 % 2 == 1 || status == 4 then { th with v := image, poison := poison, routine := none, pc := pc, stack := stack }
    else { th with poison := (upto 128).foldl (fun x r => setBit x r (decide (r < g.regs))) 0
                   routine := some (entry rg), pc := Pc.start rg.entryOff, stack := [] }
  | none => { th with v := image, poison := poison, routine := none, pc := pc, stack := stack }

/-- Restore a group from its header and lane blocks: role, lanes and scalars.  Only the lanes of the live mask are read; a lane of the
provisional mask has retired in an open task, any other lane has retired (R183, R414, R426). DEDUCED: log entry 28. -/
def readGroup (s : State) (tm : Team) (c : Context) (i : Nat) (g : Group) : Group :=
  match g.record with
  | none => g
  | some h =>
    let word := rdMem s (h + 0x24) 4
    let live := BitVec.ofNat 32 (rdMem s (h + 4) 4)
    let prov := BitVec.ofNat 32 (rdMem s (h + 0x290) 4)
    { g with
      role := word % 4
      s := (upto 64).map fun k => BitVec.ofNat 32 (rdMem s (h + 0x40 + 4 * k) 4)
      scapt := none, bcapt := none, rdv := []
      threads := (upto 32).filterMap fun l => (g.threads[l]?).map fun th =>
        if live.getLsbD l then { readLane s tm c g h (word / 128 % 1024) ⟨tm.id, i, l⟩ th with life := .live }
        else { th with life := if prov.getLsbD l then .provisional else .retired } }

/-- A queue binding at resume: contents and counters are gone (R395). -/
def resetTrough (q : BitVec 64) : BitVec 64 := q &&& 0x02000000FE03FFFF#64

/-- Restore a team from its save record once it has been placed: headers, lane blocks, saved ranges and registers; wounded lanes
restart from the snapshot (R186, R193). -/
def restoreTeam (s : State) (team : Nat) (wasBound : Bool) : State :=
  match team? s team, teamCtx s team with
  | some tm, some c =>
    let h0 := (tm.groups.findSome? (·.record)).getD 0
    let wounded := tm.groups.any fun g => match g.record with
      | some h => (recordLanes s h).any fun l => rdMem s (laneBlockAt h (headerPlace c h).2.2 l + 8) 4 / 2048 % 8 == 4
      | none => false
    let ranges := savedRanges s tm (regionsRecorded s tm)
    let gs := (upto tm.groups.length).filterMap fun i => (tm.groups[i]?).map fun g => if g.retired then g else readGroup s tm c i g
    let vw := rdMem s (h0 + 0x28) 4
    let spilled := rdMem s (h0 + 0x280) 16
    let s := modTeam s team fun t => { t with
      x := rdMem s (h0 + 0x18) 4, y := rdMem s (h0 + 0x1C) 4, z := rdMem s (h0 + 0x20) 4
      groups := gs, bdue := [], rdv := [], bars := []
      b := (upto 16).map fun k => BitVec.ofNat 80 (rdMem s (h0 + 0x140 + 16 * k) 10)
      q := (upto 8).map fun k => resetTrough (BitVec.ofNat 64 (rdMem s (h0 + 0x240 + 8 * k) 8))
      view := vw % 8192, world := vw / 8192 % 16, nworld := vw / 131072 % 16, run := none, state := .resident, why := none }
    let s := match tm.run with
      | some (a, n) =>
        let s := if wasBound || spilled == 0 then s else unspillRanges s tm.core tm.allocBase ranges spilled
        modCtx s c.id fun c => { c with cellsUsed := c.cellsUsed.filter fun x => x < a / 128 || a / 128 + n ≤ x }
      | none => s
    let s := match tm.family with
      | some f => modFamily s f fun x => { x with restarts := rdMem s (h0 + 0x2C) 4, age := rdMem s (h0 + 0x30) 8 }
      | none => s
    let s := if wounded then
        (match tm.family.bind (family? s), team? s team with
          | some f, some tm => restartTeam s tm f
          | _, _ => s)
      else s
    let s := match tm.family.bind (family? s) with
      | some f => if f.anchor == team then enterShadow s tm f else s
      | none => s
    actMarks s team
  | _, _ => s

/-- Lanes first ready after a placement count as restored, but for those in entry routines (R186); a team whose lanes are all
restored gives up its old save record (R185). -/
def markRestored (s : State) (team : Nat) : State :=
  match team? s team with
  | none => s
  | some tm =>
    let s := (tidsOf tm).foldl (fun s t => match thread? s t with
      | some th => if !th.restored && !inRoutine th .entry && !th.stoppedEntry && isReady s t then modThread s t fun th => { th with restored := true } else s
      | none => s) s
    modTeam s team fun t =>
      if t.groups.all fun g => g.threads.all fun th => th.restored || th.life ≠ .live then { t with groups := t.groups.map fun g => { g with record := none } } else t

end Sys2Proof.Machine
end

