-- ==== Sys2Proof/Machine/Place.lean ====
section
/-! DEFINITION. Placement: which core a team gets, the start and the resumption of teams, whole grids and cluster sets, pre-emption by
the dispatcher, and the retirement of teams (R78, R79, R83 to R88, R100, R114 to R118, R181, R186). -/

namespace Sys2Proof.Machine

/-! ### Clusters and areas (R50, R53, R181) -/

/-- Clusters that an unfinished operation takes away. -/
def leavingClusters (s : State) : List Nat :=
  let i := s.partIf
  let lent : List Nat := match part? s i.psel with | some p => p.lent.map Prod.fst | none => []
  if !i.busy then [] else if i.op == 6 then i.staged.clusters.filter lent.contains else i.staged.clusters

/-- Owned and borrowed clusters on which a partition's dispatcher places teams. -/
def usableClusters (s : State) (part : Nat) : List Nat :=
  let own := match part? s part with | some p => p.own.clusters.filter fun c => !p.lent.any fun x => x.1 == c | none => []
  let lent := s.partitions.flatMap fun p => (p.lent.filter fun x => x.2 == part).map (·.1)
  (sortBy (fun (n : Nat) => n) (own ++ lent)).filter fun c => !(leavingClusters s).contains c

/-- A core half is not gated (R13). DEDUCED: log entry 78. -/
def coreOn (s : State) (core : Nat) : Bool := match s.islands[islandOf core]? with | some i => i.step ≠ 3 | none => true

/-- Teams that stand on a core. -/
def coreTeams (s : State) (core : Nat) : List Team := s.teams.filter fun t => t.core == core && t.onCore

/-- A spare core area is in use: a team of the context stands on the core, or the save record of a team that is pending or under
pre-emption lies in it (R181). -/
def areaUsed (s : State) (c : Context) (x : Nat × Nat) : Bool :=
  s.teams.any fun t => t.ctx == c.id && ((t.core == x.2 && t.onCore) ||
    (t.state ≠ .resident && t.groups.any fun g => match g.record with | some h => (headerPlace c h).1 == x.1 | none => false))

/-- Core areas that are bound now. -/
def boundAreas (s : State) (c : Context) : List (Nat × Nat) := c.areas.take c.fixedAreas ++ (c.areas.drop c.fixedAreas).filter (areaUsed s c)

/-- The lowest free spare area. -/
def spareArea (s : State) (c : Context) : Option Nat :=
  (upto (c.arenaSize / areaBytes c)).find? fun n => c.fixedAreas ≤ n && !(boundAreas s c).any fun x => x.1 == n

/-- The area for a core: bound already, or the spare area that a placement there would bind. -/
def areaFor (s : State) (c : Context) (core : Nat) : Option Nat :=
  match (boundAreas s c).find? fun x => x.2 == core with
  | some x => some x.1
  | none => spareArea s c

/-- Bind an area to a core; spare areas no longer in use are free. -/
def bindArea (s : State) (c : Context) (core area : Nat) : State :=
  let b := boundAreas s c
  modCtx s c.id fun c => { c with areas := if b.contains (area, core) then b else b ++ [(area, core)] }

/-! ### One team on one core (R85) -/

/-- What one group needs: role, entry offset, rounded registers and quadrant hint. -/
structure Need where
  role : Nat
  entry : Word
  regs : Nat
  hint : Nat

/-- What a team needs. -/
structure Want where
  ctx : Context
  scratch : Nat
  fused : Bool
  needs : List Need
  /-- The team's own number, whose save records do not stand in its way (R185). -/
  me : Nat
  /-- The core and allocation it is bound to (R179), or the place it takes over (R118). -/
  fixed : Option (Nat × Nat)
  /-- The only register rows that a successor may take, by quadrant: first row and end (R118). -/
  within : Option (List (Nat × Nat × Nat)) := none

/-- Where a group goes. -/
structure Spot where
  quad : Nat
  gslot : Nat
  row : Nat
  regs : Nat

/-- Where a team goes. -/
structure Plan where
  core : Nat
  slot : Nat
  base : Nat
  area : Nat
  spots : List Spot

/-- Register rows rounded up to a multiple of 8 (R76). -/
def roundRegs (n : Nat) : Nat := (n + 7) / 8 * 8

/-- The groups of a record in role order, then group order. -/
def recordNeeds (r : TaskRec) : List Need :=
  (upto r.roles.length).flatMap fun i => match r.roles[i]? with
    | some (e, regs, n, hint) => List.replicate n ⟨i, e, roundRegs regs, hint⟩
    | none => []

/-- A pavilion's quadrant and bank masks on a core. -/
def pavMasks (s : State) (pav core : Nat) : Nat × Nat :=
  match (pav? s pav).bind fun p => p.cores.find? fun x => x.1 == core with | some x => x.2 | none => (0, 0)

/-- Quadrants of a core for a context: its pavilion's, or those of no pavilion (R58). -/
def quadOk (s : State) (pav core q : Nat) : Bool :=
  if pav ≠ 0 then (BitVec.ofNat 4 (pavMasks s pav core).1).getLsbD q
  else !s.pavilions.any fun p => p.cores.any fun x => x.1 == core && (BitVec.ofNat 4 x.2.1).getLsbD q

/-- A bank of a core for a context. -/
def bankOk (s : State) (pav core b : Nat) : Bool :=
  if pav ≠ 0 then (BitVec.ofNat 32 (pavMasks s pav core).2).getLsbD b
  else !s.pavilions.any fun p => p.cores.any fun x => x.1 == core && (BitVec.ofNat 32 x.2.2).getLsbD b

/-- Banks that a range of core addresses covers. -/
def banksOf (base size : Nat) : List Nat := if size == 0 then [] else (upto 32).filter fun b => base < (b + 1) * 8192 && b * 8192 < base + size

/-- Allocations on a core: of the teams there and of teams bound to it. -/
def coreAllocs (s : State) (core : Nat) : List (Nat × Nat) :=
  (s.teams.filter fun t => t.core == core && t.keepsAlloc && t.allocSize ≠ 0).map fun t => (t.allocBase, t.allocBase + t.allocSize)

/-- The lowest start of a free contiguous allocation. DESIGN CHOICE: log entry 26. -/
def findAlloc (s : State) (pav core size : Nat) : Option Nat :=
  let al := coreAllocs s core
  let starts := sortBy (fun (n : Nat) => n) (dedup ((upto 32).map (8192 * ·) ++ al.map (·.2)))
  if size == 0 then some 0
  else starts.find? fun p => p + size ≤ 262144 && !al.any (fun x => p < x.2 && x.1 < p + size) && (banksOf p size).all (bankOk s pav core)

/-- Register rows in use in a quadrant: first row and end. -/
def usedRows (s : State) (core q : Nat) : List (Nat × Nat) :=
  (coreTeams s core).flatMap fun t => (t.groups.filter fun g => g.quad == q && !g.retired).map fun g => (g.row, g.row + g.regs)

/-- The rows of a bank outside ascending runs, from a row on. -/
def rowGaps : Nat → List (Nat × Nat) → List (Nat × Nat)
  | a, [] => if a < 1024 then [(a, 1024)] else []
  | a, x :: l => (if a < x.1 then [(a, x.1)] else []) ++ rowGaps (max a x.2) l

/-- Rows of a quadrant that a team cannot take. -/
def shutRows (s : State) (w : Want) (core q : Nat) : List (Nat × Nat) :=
  usedRows s core q ++ (match w.within with
    | some l => rowGaps 0 (sortBy Prod.fst ((l.filter fun x => x.1 == q).map (·.2)))
    | none => [])

/-- The lowest first row of a free run of `n` rows. DESIGN CHOICE: log entry 26. -/
def findRow (used : List (Nat × Nat)) (n : Nat) : Option Nat :=
  (sortBy (fun (x : Nat) => x) (dedup (0 :: used.map (·.2)))).find? fun p => p + n ≤ 1024 && !used.any fun x => p < x.2 && x.1 < p + n

/-- Group slots of a quadrant that are taken: by groups there, or by save records of other teams of the context (R185). -/
def takenSlots (s : State) (w : Want) (core area q : Nat) : List Nat :=
  ((coreTeams s core).flatMap fun t => (t.groups.filter fun g => g.quad == q && !g.retired).map (·.gslot)) ++
  (s.teams.filter fun t => t.ctx == w.ctx.id && t.id ≠ w.me).flatMap fun t => t.groups.filterMap fun g => match g.record with
    | some h => let p := headerPlace w.ctx h; if p.1 == area && p.2.1 == q then some p.2.2 else none
    | none => none

/-- The spot of one group in a quadrant that has room. -/
def spotIn (s : State) (w : Want) (core area : Nat) (got : List Spot) (n : Need) (q : Nat) : Option Spot :=
  let mine := got.filter fun (x : Spot) => x.quad == q
  let gs := takenSlots s w core area q ++ mine.map Spot.gslot
  let rows := shutRows s w core q ++ mine.map fun (x : Spot) => (x.row, x.row + x.regs)
  if !quadOk s w.ctx.pav core q then none
  else match (upto 16).find? fun g => !gs.contains g, findRow rows n.regs with
    | some g, some r => some ⟨q, g, r, n.regs⟩
    | _, _ => none

/-- Free register rows of a quadrant. -/
def freeRows (s : State) (w : Want) (core : Nat) (got : List Spot) (q : Nat) : Nat :=
  let mine := ((got.filter fun (x : Spot) => x.quad == q).map Spot.regs).sum
  match w.within with
  | some _ => ((upto 1024).filter fun r => !(shutRows s w core q).any fun x => x.1 ≤ r && r < x.2).length - mine
  | none => 1024 - ((usedRows s core q).map fun x => x.2 - x.1).sum - mine

/-- The groups in order: each to its hinted quadrant if that has room, else to the one with the most free rows, the lowest first. -/
def placeGroups (s : State) (w : Want) (core area : Nat) : List Spot → List Need → Option (List Spot)
  | got, [] => some got
  | got, n :: l =>
    let fit := (upto 4).filterMap (spotIn s w core area got n)
    let pick := match fit.find? fun (x : Spot) => x.quad == n.hint with
      | some x => some x
      | none => minBy (fun (x : Spot) => 1024 - freeRows s w core got x.quad) fit
    match pick with
    | some x => placeGroups s w core area (got ++ [x]) l
    | none => none

/-- A core's cluster may take a team with or without the fused L1 (R78): it is empty, or it is so already. -/
def fusedOk (s : State) (fused : Bool) (core : Nat) : Bool :=
  ((upto 4).all fun i => (coreTeams s (clusterOf core * 4 + i)).isEmpty) || s.fused.contains (clusterOf core) == fused

/-- The plan for a team on a core. DESIGN CHOICE: log entry 26. -/
def planCore (s : State) (w : Want) (core : Nat) : Option Plan :=
  if !coreOn s core || !fusedOk s w.fused core then none
  else match areaFor s w.ctx core, (upto 16).find? (fun k => !(coreTeams s core).any fun t => t.slot == k),
      (match w.fixed with | some x => if x.1 == core then some x.2 else none | none => findAlloc s w.ctx.pav core w.scratch) with
    | some area, some slot, some base => (placeGroups s w core area [] w.needs).map fun sp => ⟨core, slot, base, area, sp⟩
    | _, _, _ => none

/-- The core chosen: the fewest resident teams, then the lowest number (R85). DESIGN CHOICE: log entry 26. -/
def chooseCore (s : State) (w : Want) (cores : List Nat) : Option Plan :=
  minBy (fun (p : Plan) => 1024 * (coreTeams s p.core).length + p.core) (cores.filterMap (planCore s w))

/-! ### Starting a team (R100, R117) -/

/-- Generation and contents of a new allocation (R117). -/
def takeBanks (s : State) (ctx core base size : Nat) : BitVec 8 × State :=
  let bs := banksOf base size
  let find := fun (b : Nat) => s.banks.find? fun x => x.1 == 32 * core + b
  let gen : BitVec 8 := BitVec.ofNat 8 (1 + (bs.map fun b => match find b with | some x => x.2.1.toNat | none => 0).foldl max 0)
  let other := bs.filter fun b => match find b with | some x => x.2.2 ≠ ctx | none => true
  let s := other.foldl (fun s b =>
    let lo := max base (b * 8192)
    let hi := min (base + size) ((b + 1) * 8192)
    { s with scratch := s.scratch.filter fun x => !(scratchKey core lo ≤ x.1 && x.1 < scratchKey core lo + (hi - lo)) }) s
  (gen, { s with banks := s.banks.filter (fun x => !bs.any fun b => x.1 == 32 * core + b) ++ bs.map fun b => (32 * core + b, gen, ctx) })

/-- The groups of a team as it starts. -/
def startGroups (needs : List Need) (spots : List Spot) : List Group :=
  (needs.zip spots).map fun x =>
    { quad := x.2.quad, gslot := x.2.gslot, row := x.2.row, regs := x.2.regs, role := x.1.role, s := List.replicate 64 0
      sdue := [], spend := [], scapt := none, bcapt := none, rdv := [], threads := List.replicate 32 (Thread.start x.1.entry)
      retired := false, record := none }

/-- Bases at start. -/
def startBases (r : TaskRec) : List VAddr :=
  (upto 16).map fun i => if i < 4 then r.b.getD i 0 else if i == 14 then r.code else 0

/-- Set the fused state of a core's cluster. -/
def setFused (s : State) (fused : Bool) (core : Nat) : State :=
  { s with fused := if fused then (if s.fused.contains (clusterOf core) then s.fused else clusterOf core :: s.fused)
                    else s.fused.filter fun c => c ≠ clusterOf core }

/-- Quadrant hints of a record's roles. -/
def roleHints (r : TaskRec) : List Nat := r.roles.map fun x => x.2.2.2

/-- A new team of a grid, with the contents read for it (R79, R83, R100). -/
def startTeam (s : State) (g : Grid) (rd : Loaded) (idx : Nat) (p : Plan) (gen : BitVec 8) : State :=
  let id := s.nextId
  let r := rd.record
  let t : Team :=
    { id := id, grid := g.id, ctx := g.ctx, index := idx, x := idx % r.x, y := idx / r.x % r.y, z := idx / r.x / r.y
      core := p.core, slot := p.slot, groups := startGroups (recordNeeds r) p.spots, b := startBases r, bdue := [], q := List.replicate 8 0
      allocBase := p.base, allocSize := r.scratch, gen := gen, view := 0, world := 0, nworld := 1, fork := none, family := none
      placed := s.time, order := id, state := .resident, why := none, held := false, rdv := [], bars := []
      counters := List.replicate 12 0, succ := none, setIdx := if r.flags.getLsbD 0 then some (idx / 4) else none, run := none, discarded := false
      regions := rd.regions, hints := roleHints r }
  { s with nextId := id + 1, teams := s.teams ++ [t] }

/-- A team of the grid is placed: a slice begins when none stood on a core (R89). -/
def openSlice (s : State) (grid : Nat) : State :=
  if s.teams.any fun t => t.grid == grid && t.onCore then s else modGrid s grid fun g => { g with slice := true, sliceTicks := 0 }

/-- Place a new team by a plan. -/
def placeNew (s : State) (g : Grid) (c : Context) (rd : Loaded) (idx : Nat) (p : Plan) : State :=
  let s := setFused (bindArea (openSlice s g.id) c p.core p.area) (rd.record.flags.getLsbD 5) p.core
  let (gen, s) := takeBanks s c.id p.core p.base rd.record.scratch
  let s := startTeam { s with sets := rd.sets } g rd idx p gen
  modGrid s g.id fun g => { g with next := max g.next (idx + 1) }

/-- Place a saved or bound team by a plan and restore it, with the region table and hints read for it (R79, R186). -/
def placeSaved (s : State) (g : Grid) (c : Context) (rd : Loaded) (t : Team) (p : Plan) : State :=
  let s := setFused (bindArea (openSlice s g.id) c p.core p.area) (g.record.flags.getLsbD 5) p.core
  let bound := t.state == .bound
  let (gen, s) := if bound then (t.gen, s) else takeBanks s c.id p.core p.base t.allocSize
  let live := (upto t.groups.length).filter fun i => match t.groups[i]? with | some x => !x.retired | none => false
  let s := modTeam { s with sets := rd.sets } t.id fun t => { t with
    core := p.core, slot := p.slot, allocBase := p.base, gen := gen, placed := s.time, order := s.nextId, counters := List.replicate 12 0
    regions := rd.regions, hints := roleHints rd.record
    groups := (upto t.groups.length).filterMap fun i => (t.groups[i]?).map fun x =>
      match (live.zip p.spots).find? (fun y => y.1 == i) with
      | some y => { x with quad := y.2.quad, gslot := y.2.gslot, row := y.2.row }
      | none => x }
  markRestored (restoreTeam { s with nextId := s.nextId + 1 } t.id bound) t.id

/-! ### Pending teams of a grid (R79, R84, R86, R87) -/

/-- A team not on a core: saved, or not placed yet. -/
inductive Pending where
  | saved (t : Team)
  | fresh (idx : Nat)

/-- Index of a pending team. -/
def Pending.index (p : Pending) : Nat := match p with | .saved t => t.index | .fresh i => i

/-- A choice's winner that a pre-emption took off its core before its commit waits for it (R168, R228). -/
def movedAway (s : State) (t : Team) : Bool := match t.fork.bind (fork? s) with | some f => f.moved | none => false

/-- A grid's pending teams, pre-empted ones first, in ascending index. -/
def pendingTeams (s : State) (g : Grid) : List Pending :=
  ((sortBy (fun (t : Team) => t.index) (s.teams.filter fun t => t.grid == g.id && t.offCore && !t.held && !movedAway s t)).map Pending.saved) ++
  (if g.dropped then [] else ((upto (g.total - g.next)).map fun i => Pending.fresh (g.next + i)))

/-- What a pending team needs, by the contents read for it; a team that has run keeps its allocation's size and its registers. -/
def wantOf (g : Grid) (c : Context) (rd : Loaded) (p : Pending) : Want :=
  match p with
  | .fresh _ => ⟨c, rd.record.scratch, g.record.flags.getLsbD 5, recordNeeds rd.record, 0, none, none⟩
  | .saved t => ⟨c, t.allocSize, g.record.flags.getLsbD 5,
      (t.groups.filter fun x => !x.retired).map fun x => ⟨x.role, 0, x.regs, (roleHints rd.record).getD x.role 255⟩, t.id,
      if t.state == .bound then some (t.core, t.allocBase) else none, none⟩

/-- Place a pending team by a plan. -/
def placeOne (s : State) (g : Grid) (c : Context) (rd : Loaded) (p : Pending) (pl : Plan) : State :=
  match p with
  | .fresh i => placeNew s g c rd i pl
  | .saved t => placeSaved s g c rd t pl

/-- Cores of clusters. -/
def coresOf (cl : List Nat) : List Nat := cl.flatMap fun c => (upto 4).map (4 * c + ·)

/-- Place the teams of a set on the core positions of one cluster, in order; none when one does not fit. -/
def placeSetOn (g : Grid) (c : Context) (rd : Loaded) (cluster : Nat) : List Pending → State → Option State
  | [], s => some s
  | p :: l, s => match planCore s (wantOf g c rd p) (4 * cluster + p.index % 4) with
    | some pl => placeSetOn g c rd cluster l (placeOne s g c rd p pl)
    | none => none

/-- Place a set on the cluster with the fewest resident teams that takes all of it (R86). -/
def placeSet (g : Grid) (c : Context) (rd : Loaded) (cl : List Nat) (l : List Pending) (s : State) : Option State :=
  (sortBy (fun (k : Nat) => 256 * ((coresOf [k]).map fun x => (coreTeams s x).length).sum + k) cl).findSome? fun k => placeSetOn g c rd k l s

/-- Place one unit: a team, or the teams of a cluster set. -/
def placeUnit (g : Grid) (c : Context) (rd : Loaded) (cl : List Nat) (l : List Pending) (s : State) : Option State :=
  if g.record.flags.getLsbD 0 then placeSet g c rd cl l s
  else match l with
    | [p] => (chooseCore s (wantOf g c rd p) (coresOf cl)).map fun pl => placeOne s g c rd p pl
    | _ => none

/-- The units of a list of pending teams: single teams, or cluster sets in the order of their first team. -/
def unitsOf (cluster : Bool) (l : List Pending) : List (List Pending) :=
  if cluster then (dedup (l.map fun p => p.index / 4)).map fun k => sortBy Pending.index (l.filter fun p => p.index / 4 == k)
  else l.map fun p => [p]

/-- Place units one after the other, all or none. -/
def placeAll (g : Grid) (c : Context) (rd : Loaded) (cl : List Nat) : List (List Pending) → State → Option State
  | [], s => some s
  | u :: l, s => match placeUnit g c rd cl u s with
    | some s => placeAll g c rd cl l s
    | none => none

/-- The first `n` units that a grid has to place: every pending team of a co-resident grid as one, which must all be off their cores,
else single teams or sets. -/
def nextUnits (s : State) (g : Grid) (n : Nat) : List (List Pending) :=
  let us := unitsOf (g.record.flags.getLsbD 0) (pendingTeams s g)
  if g.record.flags.getLsbD 1 then (if s.teams.any fun t => t.grid == g.id && t.onCore then [] else us)
  else us.take n

/-- A set can be placed only when all its teams that still live are off their cores (R86). -/
def unitFree (s : State) (g : Grid) (u : List Pending) : Bool :=
  !g.record.flags.getLsbD 0 || !s.teams.any fun t => t.grid == g.id && t.onCore && u.any fun p => t.setIdx == some (p.index / 4)

/-- Try to place the first `n` units of a grid with the contents read. -/
def placeGrid (s : State) (g : Grid) (c : Context) (rd : Loaded) (n : Nat) : Option State :=
  match nextUnits s g n with
  | [] => none
  | us => if us.all (unitFree s g) then placeAll g c rd (usableClusters s g.part) us s else none

/-- What a grid keeps of its record from its launch to its end: the fields of R79, the wait-on word that is checked at each write to its
line (R82), and the completion word with its base (R37, R116).  Every other field reads 0. DEDUCED: log entry 25. -/
def TaskRec.kept (r : TaskRec) : TaskRec :=
  { r with magic := 0, code := 0, regions := 0, regionCount := 0, roleCount := 0, scratch := 0, roles := [], b := r.b.take 1, setTable := 0, setCount := 0 }

/-- A grid for a record (R79). -/
def gridOf (id : Nat) (c : Context) (addr : VAddr) (l : Loaded) (seq : Nat) (ready : Bool) : Grid :=
  { id := id, ctx := c.id, part := c.part, addr := addr, record := l.record.kept, seq := seq
    deadline := if l.record.deadline == 0 then 2 ^ 64 - 1 else l.record.deadline, ready := ready, held := false, next := 0
    total := l.record.x * l.record.y * l.record.z, slice := false, sliceTicks := 0, waitFault := none, placeFault := none
    dropped := false, ended := false, flush := 0 }

/-- A co-resident grid fits whole on the empty owned clusters of its partition (R77). -/
def fitsWhole (s : State) (c : Context) (rd : Loaded) (addr : VAddr) : Bool :=
  let g := gridOf 0 c addr rd 0 true
  let e := { s with teams := [], fused := [], islands := s.islands.map fun i => { i with step := 0 } }
  -- a grid of more teams than the partition's cores have team slots never fits
  let cl := (ownOf s c.part).clusters
  decide (g.total ≤ 64 * cl.length) &&
  (placeAll g c rd cl (unitsOf (rd.record.flags.getLsbD 0) ((upto g.total).map Pending.fresh)) e).isSome

/-- Read and validate a record whole, the placement of a co-resident grid included (R77). -/
def validate (s : State) (c : Context) (addr : VAddr) : Except RecordFail Loaded × State :=
  let (r, s) := readRecord s c addr.toNat
  match r with
  | .ok l => if l.record.flags.getLsbD 1 && !fitsWhole s c l addr then (.error (.trap (badField 4)), s) else (.ok l, s)
  | .error e => (.error e, s)

/-- A read merged with the fields that the grid keeps from its launch (R79). -/
def Loaded.keep (rd : Loaded) (old : TaskRec) : Loaded :=
  let new := rd.record
  { rd with record := { new with flags := old.flags, x := old.x, y := old.y, z := old.z, period := old.period, deadline := old.deadline, budget := old.budget } }

/-- What a placement of the grid would read now; none when the read fails (R79). -/
def peekRecord (s : State) (g : Grid) (c : Context) : Option Loaded :=
  match (validate s c g.addr).1 with | .ok l => some (l.keep g.record) | .error _ => none

/-! ### Precedence and pre-emption by the dispatcher (R83, R84, R361) -/

/-- Precedence of a grid: class, deadline, launch sequence. -/
def Grid.precedes (a b : Grid) : Bool :=
  let ca := (a.record.flags.extractLsb' 8 4).toNat
  let cb := (b.record.flags.extractLsb' 8 4).toNat
  decide (ca < cb) || (ca == cb && (decide (a.deadline < b.deadline) || (a.deadline == b.deadline && decide (a.seq < b.seq))))

/-- The grid may have teams placed. -/
def canPlace (s : State) (g : Grid) : Bool :=
  g.ready && !g.held && !g.ended && g.placeFault.isNone && !(pendingTeams s g).isEmpty &&
  (match ctx? s g.ctx with | some c => !c.suspended && !c.destroying | none => false)

/-- The placeable grids of a partition in precedence order. -/
def placeOrder (s : State) (part : Nat) : List Grid :=
  let l := s.grids.filter fun g => g.part == part && canPlace s g
  sortBy (fun (g : Grid) => (l.filter fun h => h.precedes g).length) l

/-- A team as it stands once it is pre-empted, for the trial of R84. -/
def asSaved (s : State) (t : Team) : Team :=
  let c := ctx? s t.ctx
  { t with state := .saved, groups := t.groups.map fun g => { g with record := if g.retired then none else c.map fun c => headerAt c ((areaOf c t.core).getD 0) g.quad g.gslot } }

/-- The trial state in which a list of teams has left its cores. -/
def withoutTeams (s : State) (ids : List Nat) : State := { s with teams := s.teams.map fun t => if ids.contains t.id then asSaved s t else t }

/-- Teams that leave together with a team (R86, R87). -/
def matesOf (s : State) (t : Team) : List Nat :=
  (s.teams.filter fun u => u.onCore && u.grid == t.grid && (u.id == t.id || recFlag s t.id 1 || (t.setIdx.isSome && u.setIdx == t.setIdx))).map (·.id)

/-- The dispatcher may pre-empt a team for a grid: of lower precedence, and resident for 4,096 ticks, or offered by `tyield`. -/
def mayPreempt (s : State) (g : Grid) (offered : Option Nat) (t : Team) : Bool :=
  t.state == .resident &&
  (match grid? s t.grid with
   | some h => h.part == g.part && h.id ≠ g.id && (g.precedes h || offered == some t.id) &&
       (matesOf s t).all fun i => match team? s i with | some u => u.state == .resident && (decide (u.placed + 4096 ≤ s.time) || offered == some u.id) | none => false
   | none => false)

/-- Teams to offer, in the order of R84: grids of the lowest precedence first, and within a grid the highest index. -/
def victims (s : State) (g : Grid) (offered : Option Nat) : List Team :=
  let l := s.teams.filter (mayPreempt s g offered)
  let rank := fun (t : Team) => (l.filter fun u => match grid? s u.grid, grid? s t.grid with
    | some a, some b => b.precedes a || (a.id == b.id && decide (t.index < u.index))
    | _, _ => false).length
  match l.find? fun t => offered == some t.id with
  | some t => t :: sortBy rank (l.filter fun u => u.id ≠ t.id)
  | none => sortBy rank l

/-- Take victims until the first `n` units of the grid fit; `gone` are the teams taken so far. -/
def takeVictims (s : State) (g : Grid) (c : Context) (rd : Loaded) (n : Nat) : List Nat → List Team → Option (List Nat)
  | gone, [] => if (placeGrid (withoutTeams s gone) g c rd n).isSome then some gone else none
  | gone, t :: l =>
    if (placeGrid (withoutTeams s gone) g c rd n).isSome then some gone
    else takeVictims s g c rd n (if gone.contains t.id then gone else gone ++ matesOf s t) l

/-- Take victims for one more unit of the grid after another, from `n` units on, until no more room can be made; the first argument bounds
the units. -/
def takeUnits (s : State) (g : Grid) (c : Context) (rd : Loaded) (vs : List Team) : Nat → Nat → List Nat → List Nat
  | 0, _, gone => gone
  | k + 1, n, gone => match takeVictims s g c rd n gone vs with
    | some l => takeUnits s g c rd vs k (n + 1) l
    | none => gone

/-- Teams of the partition that are leaving their cores already. -/
def leavingTeams (s : State) (part : Nat) : List Nat :=
  (s.teams.filter fun t => t.state == .preempting && (match grid? s t.grid with | some h => h.part == part | none => false)).map (·.id)

/-- Pre-empt resident teams for the grid of highest precedence: for each of its teams in turn that the room made so far does not hold,
as long as room for it can be made (R84). -/
def dispatchPreempt (s : State) (g : Grid) (c : Context) (rd : Loaded) (offered : Option Nat) : State :=
  let gone := leavingTeams s g.part
  let units := if g.record.flags.getLsbD 1 then 1 else (pendingTeams s g).length
  let ids := takeUnits s g c rd (victims s g offered) units 1 gone
  (ids.filter fun i => !gone.contains i).foldl (fun s i => requestTeam s i (if offered == some i then .tyield else .dispatch)) s

/-- Every team that the dispatcher of a partition pre-empts has ended its routines or dumps: what they free counts as free (R84). -/
def roomSettled (s : State) (part : Nat) : Bool :=
  s.teams.all fun t => !(t.state == .preempting && t.why == some .dispatch && (match grid? s t.grid with | some h => h.part == part | none => false)) || teamEnded t

/-! ### The read at placement (R79, R81) -/

/-- Drop a grid's unplaced teams: its completion signal is not written. -/
def dropGrid (s : State) (g : Nat) : State := modGrid s g fun g => { g with dropped := true }

/-- Read a grid's record for the placement of a team: the contents to place with, or none when the grid is held or dropped.  Teams of a
dropped grid that have run are placed with what was read for them before. DEDUCED: log entry 25. -/
def readAtPlace (s : State) (g : Grid) (c : Context) : Option Loaded × State :=
  if g.dropped then
    (match s.teams.find? fun t => t.grid == g.id && t.offCore with
      | some t => (some ⟨{ g.record with roles := t.hints.map fun h => (0, 0, 0, h) }, t.regions, s.sets⟩, s)
      | none => (none, s))
  else
    let (r, s) := validate s c g.addr
    match r with
    | .ok l => (some (l.keep g.record), s)
    | .error (.trap _) => (none, dropGrid (writeFault s (plainFault c.id Cause.taskState.code g.addr 0)).2 g.id)
    | .error (.fault f a) =>
      let rec' := { plainFault c.id f.cause.code (BitVec.ofNat 80 a) (f.detail kindRead) with stage2 := f.stage2, ipa := if f.stage2 then f.ipa else 0 }
      let (q, s) := writeFault s rec'
      (none, modGrid (keepRecord s q rec') g.id fun g => { g with placeFault := some (q.getD 4294967295) })

/-- Serve the grids of a partition in precedence order: the first that can be placed is placed; the first of all, when it cannot,
has room made for it (R83, R84).  The record is read at each placement (R79). -/
def serveGrids (s : State) (first : Bool) : List Grid → State
  | [] => s
  | g :: l =>
    match grid? s g.id, ctx? s g.ctx with
    | some g, some c =>
      if (nextUnits s g 1).isEmpty then serveGrids s first l
      else
        let (r, s) := readAtPlace s g c
        match r, grid? s g.id with
        | some rd, some g => match (if roomSettled s g.part then placeGrid s g c rd 1 else none) with
          | some s => s
          | none => serveGrids (if first then dispatchPreempt s g c rd none else s) false l
        | _, _ => serveGrids s first l
    | _, _ => serveGrids s first l

/-- One placement by a partition's dispatcher. -/
def placePart (s : State) (part : Nat) : State := serveGrids s true (placeOrder s part)

/-- The dispatcher of a partition places the next team, or makes room for it (R83 to R88). -/
def execTeamPlace (part : Nat) (s : State) : Host.Outcome State Fault Refusal := .next (placePart s part)

/-- A protected team reaches 4,096 ticks of residency, and its dispatcher tries again (R84). -/
def execResidencyExpiry (team : Nat) (s : State) : Host.Outcome State Fault Refusal :=
  .next (match team? s team with
    | some t => if t.state == .resident && t.placed + 4096 ≤ s.time then (match grid? s t.grid with | some g => placePart s g.part | none => s) else s
    | none => s)

/-! ### Records completed and teams retired (R114, R116, R118, R177) -/

/-- Zero a range of a core's scratchpad. -/
def zeroScratch (s : State) (core base size : Nat) : State :=
  { s with scratch := s.scratch.filter fun x => !(scratchKey core base ≤ x.1 && x.1 < scratchKey core base + size) }

/-- A team of a context that is going away gives up its place, and its allocation is cleared (R63). DEDUCED: log entry 61. -/
def wipeTeam (s : State) (t : Team) : State :=
  removeTeam (if t.keepsAlloc then zeroScratch s t.core t.allocBase t.allocSize else s) t.id

/-- The save record of a team is completed, its resources are freed, and the dispatcher tries again (R177). -/
def execSaveRecordComplete (team : Nat) (s : State) : Host.Outcome State Fault Refusal :=
  .next (match team? s team with
    | some t => if saveReady s t && !t.discarded then
        (let s := saveTeam s team
         match ctx? s t.ctx with | some c => if c.destroying then wipeTeam s t else s | none => s) else s
    | none => s)

/-- The greatest device-scope completion time of a team's threads (R116). DEDUCED: log entry 78. -/
def teamFlush (t : Team) : Nat := (t.groups.flatMap fun g => g.threads.map (·.wctDevice)).foldl max 0

/-- A team can retire: all threads are retired, and every operation that it started has delivered its status and released its locks (R114). -/
def retireReady (s : State) (t : Team) : Bool :=
  t.state == .resident && (t.groups.all fun g => g.threads.all fun th => th.life == .retired) &&
  !(s.engines.any fun e => e.team == t.id && !e.delivered) && !(s.matrix.any fun m => m.team == t.id) && !(s.locks.any fun k => k.op.isSome && k.team == t.id)

/-- Nothing that a team's retired threads issued is under way any more. -/
def teamDrained (s : State) (t : Team) : Bool :=
  (t.groups.all fun g => g.threads.all fun th => th.queue.isEmpty && th.storesOut.isEmpty) && !(s.gate.any fun e => e.tid.team == t.id)

/-- A grid ends when its last team has retired and none is pending: its completion waits for its writes (R116). -/
def endGrid (s : State) (g : Nat) : State :=
  match grid? s g with
  | some x =>
    if (s.teams.any fun t => t.grid == g && t.state ≠ .retired) || (x.next < x.total && !x.dropped) then s
    else modGrid s g fun x => { x with ended := true, slice := false }
  | none => s

/-- The spots of a successor's groups in the rows that a team frees, on the same quadrants (R118). -/
def succSpots (s : State) (t : Team) (c : Context) (r : TaskRec) : Option (List Spot) :=
  let e := { s with teams := s.teams.map fun u => if u.id == t.id then { u with groups := [] } else u }
  let w : Want := ⟨c, r.scratch, r.flags.getLsbD 5, recordNeeds r, t.id, some (t.core, t.allocBase), some (t.groups.map fun g => (g.quad, g.row, g.row + g.regs))⟩
  placeGroups e w t.core ((areaOf c t.core).getD 0) [] (recordNeeds r)

/-- The offset of the first failing check of R118 beyond those of R77. DEDUCED: log entry 48. -/
def succBad (s : State) (t : Team) (c : Context) (r : TaskRec) : Option Nat :=
  if r.flags.getLsbD 0 || r.flags.getLsbD 1 then some 4
  else if r.x ≠ 1 then some 0x28 else if r.y ≠ 1 then some 0x2C else if r.z ≠ 1 then some 0x30
  else if r.scratch ≠ t.allocSize then some 0x3C
  else if (succSpots s t c r).isNone then some 0x40 else none

/-- Start a successor in place of a retired team (R118). -/
def startSuccessor (s : State) (t : Team) (addr : VAddr) : State :=
  match ctx? s t.ctx with
  | none => s
  | some c =>
    let (r, s) := readRecord s c addr.toNat
    match r with
    | .error _ => s
    | .ok l =>
      match succBad s t c l.record, succSpots s t c l.record with
      | none, some sp =>
        let g := gridOf s.nextId c addr l s.launchSeq true
        let s := { s with nextId := s.nextId + 1, grids := s.grids ++ [{ g with next := 1, slice := true }], sets := l.sets, launchSeq := s.launchSeq + 1 }
        let id := s.nextId
        let s := startTeam s g l 0 ⟨t.core, t.slot, t.allocBase, 0, sp⟩ t.gen
        { s with tiles := s.tiles.map fun x => if x.team == t.id then { x with team := id } else x }
      | _, _ => s

/-- A grid that ended with a team in a world defers its completion write to the world's queue (R37, R224). DESIGN CHOICE: log entry 76. -/
def deferEnd (s : State) (t : Team) : State :=
  match grid? s t.grid with
  | some g =>
    if g.ended && !g.dropped && isWorld t && g.record.completion ≠ 2 ^ 64 - 1 then
      let va := (g.record.b.getD 0 0) + BitVec.ofNat 80 g.record.completion
      let d : Deferred := ⟨⟨t.id, 0, 0⟩, (deferKey t).1, (deferKey t).2, 3, va, BitVec.ofNat 32 t.ctx, none, 0⟩
      modGrid { s with deferred := s.deferred ++ [d] } g.id fun g => { g with dropped := true }
    else s
  | none => s

/-- The accesses that a retiring team's threads still have in their queues to its scratchpad are performed at their banks, in the order of
the queues, before the allocation is free (R114). DEDUCED: log entry 78. -/
def settleBanks (s : State) (team : Nat) : State :=
  ((allQueues s).filter fun x => x.1.team == team && (match x.2.space with | .scratch _ => true | _ => false)).foldl (fun s x => bankAccess s x.1 x.2) s

/-- A team's last stores have been performed: nothing remains of it, and its grid's writes wait for its completion registers (R116). -/
def dropRetired (s : State) (t : Team) : State := removeTeam (modGrid s t.grid fun g => { g with flush := max g.flush (teamFlush t) }) t.id

/-- A team retires: its slot and allocation are freed, a successor starts in its place, and its grid may end (R114, R116, R118).  Stores
that its threads issued go on until they are performed. -/
def retireTeam (s : State) (t : Team) : State :=
  let s := settleBanks s t.id
  let s := match t.succ with | some a => startSuccessor s t a | none => s
  let s := modTeam (freePlace s t.id) t.id fun t => { t with state := .retired }
  let s := match team? s t.id with | some t => if teamDrained s t then dropRetired s t else s | none => s
  deferEnd (endGrid s t.grid) t

/-- A team whose threads and operations are all done retires. -/
def execTeamRetire (team : Nat) (s : State) : Host.Outcome State Fault Refusal :=
  .next (match team? s team with
    | some t => if retireReady s t then retireTeam s t else s
    | none => s)

end Sys2Proof.Machine
end

