-- ==== Sys2Proof/Machine/Launch.lean ====
section
/-! DEFINITION. The queue controller's steps, the picker, budgets, the watchdog, the sampler and the trace ring (R39, R79 to R82,
R89 to R97, R239 to R241, R359, R364). -/

namespace Sys2Proof.Machine

/-! ### Ready grids (R82) -/

/-- The value of a wait-on word, read as an access of the context. -/
def readWaitOn (s : State) (c : Context) (va : Nat) : Except TFault Nat × State :=
  let (r, s) := translateNow s false (.die (homeDie s c.part)) c va kindRead
  match r with
  | .error f => (.error f, s)
  | .ok (_, pa, _) => let s := mergeLine s (pa / 64); (.ok (leNat (visible s 0 pa 8)), s)

/-- A grid's wait-on word is checked: it becomes ready, or its read faults with a record. -/
def checkReady (s : State) (g : Grid) (c : Context) : State :=
  if g.ready then s
  else if g.record.waitOn == 0 then modGrid s g.id fun g => { g with ready := true }
  else
    let (r, s) := readWaitOn s c g.record.waitOn.toNat
    match r with
    | .ok v => if g.record.expected ≤ v then modGrid s g.id fun g => { g with ready := true, waitFault := none } else s
    | .error f =>
      let rec' := { plainFault c.id f.cause.code g.record.waitOn (f.detail kindRead) with stage2 := f.stage2, ipa := if f.stage2 then f.ipa else 0 }
      let (q, s) := writeFault s rec'
      modGrid (keepRecord s q rec') g.id fun g => { g with waitFault := some (q.getD 4294967295) }

/-- After a write to a wait-on word's line, its grid is checked (R82). -/
def execGridReady (grid : Nat) (s : State) : Host.Outcome State Fault Refusal :=
  .next (match grid? s grid with
    | some g => match ctx? s g.ctx with
      | some c => if g.waitFault.isNone && !c.suspended then checkReady s g c else s
      | none => s
    | none => s)

/-! ### Launches (R77, R80, R359) -/

/-- The pending grids of a home controller number 4,096 (R80). -/
def controllerFull (s : State) (die : Nat) : Bool :=
  4096 ≤ (s.grids.filter fun g => g.next < g.total && !g.dropped && !g.ended && homeDie s g.part == die).length

/-- Queue a grid: it gets the next launch sequence number, and its wait-on word is checked. -/
def queueGrid (s : State) (c : Context) (addr : VAddr) (l : Loaded) : State :=
  let g := gridOf s.nextId c addr l s.launchSeq false
  let s := { s with nextId := s.nextId + 1, launchSeq := s.launchSeq + 1, grids := s.grids ++ [g], sets := l.sets }
  checkReady s g c

/-- A launch leaves the controller's queue. -/
def dropLaunch (s : State) (seq : Nat) : State := { s with launches := s.launches.filter fun l => l.seq ≠ seq }

/-- A failed check of a launch: the lane traps at its launch; a deferred one writes a fault record (R359). DEDUCED: log entry 31. -/
def failLaunch (s : State) (l : LaunchWait) (tr : Trap) (detail : BitVec 64) : State :=
  let s := dropLaunch s l.seq
  let va : VAddr := if tr.cause.addressed then (tr.hi ++ tr.lo).setWidth 80 else 0
  if l.deferred then (writeFault s { threadFault s l.tid tr.cause.code l.pc va detail with ctx := l.ctx }).2
  else match thread? s l.tid with
    | some th => takeTrapFull s l.tid tr th.pc va detail
    | none => s

/-- The controller takes a launch: its record is read and validated, and its grid becomes pending. -/
def takeLaunch (s : State) (l : LaunchWait) (c : Context) : State :=
  let (r, s) := validate s c l.addr
  match r with
  | .ok x =>
    let s := queueGrid (dropLaunch s l.seq) c l.addr x
    if l.deferred then s
    else teamProgress (modThread s l.tid fun th => match th.wait with | some (.launch _) => finishWait th | _ => th) l.tid.team
  | .error (.trap t) => failLaunch s l t 0
  | .error (.fault f a) =>
    let tr : Trap := ⟨f.cause, BitVec.ofNat 32 a, BitVec.ofNat 32 (a / 2 ^ 32)⟩
    if f.reason == 4 then failLaunch s l tr (f.detail kindRead)
    else
      let rec' := { f.record s l.tid l.pc a kindRead with ctx := l.ctx }
      let (q, s) := writeFault s rec'
      if l.deferred then dropLaunch s l.seq
      else
        let s := keepRecord s q rec'
        { s with launches := updWhere (fun (x : LaunchWait) => x.seq == l.seq) (fun x => { x with fault := some (q.getD 4294967295) }) s.launches }

/-- An earlier launch waits on the same controller (R80); one that waits for a fault's resolution does not hold others. -/
def earlierLaunch (s : State) (l : LaunchWait) (die : Nat) : Bool :=
  s.launches.any fun x => x.seq < l.seq && x.fault.isNone && (match ctx? s x.ctx with | some c => homeDie s c.part == die | none => false)

/-- A launch can be taken: the controller has room, earlier launches are done, and the lane's release of R359 holds. -/
def launchReady (s : State) (l : LaunchWait) (c : Context) : Bool :=
  let die := homeDie s c.part
  !controllerFull s die && !earlierLaunch s l die &&
  (l.deferred || (match thread? s l.tid with | some th => relReady s l.tid th .device th.queue && troughsDone s l.tid s.nextId false true | none => false))

/-- A waiting or deferred launch completes once the controller can take it (R80, R225). -/
def execLaunchComplete (seq : Nat) (s : State) : Host.Outcome State Fault Refusal :=
  .next (match s.launches.find? (fun l => l.seq == seq) with
    | some l => match ctx? s l.ctx with
      | some c => if l.fault.isNone && launchReady s l c then takeLaunch s l c else s
      | none => s
    | none => s)

/-! ### The trace and sample ring (R239, R240) -/

/-- Write a 64-byte record into a context's ring, or count it lost. -/
def ringWrite (s : State) (ctx : Nat) (bs : List Byte) : State :=
  match ctx? s ctx with
  | none => s
  | some c =>
    if c.ringHead - c.ringTail < c.ringSize then
      modCtx (wrFor s ctx (c.ringBase + 64 * (c.ringHead % c.ringSize)) bs) ctx fun c => { c with ringHead := c.ringHead + 1 }
    else modCtx s ctx fun c => { c with ringLost := c.ringLost + 1 }

/-- The 64 bytes of a trace or sample record. DESIGN CHOICE: log entry 49. -/
def ringBytes (kind core quad slot team time pc mask word upc uword : Nat) : List Byte :=
  leBytes 4 kind ++ leBytes 4 (core + quad * 1024 + slot * 4096 + team * 16384) ++ leBytes 8 time ++ leBytes 8 pc ++ leBytes 4 mask ++ leBytes 4 word ++
  leBytes 8 upc ++ leBytes 4 uword ++ List.replicate 20 0#8

/-! ### The picker (R92 to R95) -/

/-- A path that could be picked: its team, offset, and its ready threads that stand in no flock, one per column. -/
structure Path where
  team : Team
  off : Word
  lanes : List Tid

/-- Threads of a quadrant that stand in no flock. -/
def idleTids (s : State) (core quad : Nat) : List Tid :=
  (s.teams.filter fun t => t.core == core && t.onCore).flatMap fun t =>
    (tidsOf t).filter fun k => (match t.groups[k.group]? with | some g => g.quad == quad | none => false) && !s.slots.any fun sl => sl.flock.contains k

/-- One thread per column, of the lowest group index. -/
def oneperColumn (l : List Tid) : List Tid :=
  (upto 32).filterMap fun c => minBy (fun (t : Tid) => t.group) (l.filter fun t => t.lane == c)

/-- The paths of a quadrant with ready threads. -/
def readyPaths (s : State) (core quad : Nat) : List Path :=
  let ready := (idleTids s core quad).filter (isReady s)
  let keys := dedup (ready.filterMap fun t => (thread? s t).map fun th => (t.team, th.pc.off))
  keys.filterMap fun k => (team? s k.1).map fun tm =>
    ⟨tm, k.2, ready.filter fun t => t.team == k.1 && (match thread? s t with | some th => th.pc.off == k.2 | none => false)⟩

/-- Ageing counter of a path. -/
def ageCount (s : State) (core quad : Nat) (p : Path) : Nat :=
  match s.ageing.find? fun a => a.core == core && a.quad == quad && a.team == p.team.id && a.off == p.off with | some a => a.count | none => 0

/-- Set the ageing counter of a path. -/
def setAge (s : State) (core quad : Nat) (p : Path) (n : Nat) : State :=
  { s with ageing := (if n == 0 then [] else [⟨core, quad, p.team.id, p.off, n⟩]) ++
      s.ageing.filter fun a => !(a.core == core && a.quad == quad && a.team == p.team.id && a.off == p.off) }

/-- Order of R94 among paths, the first coming first: columns, then the team's placement, then the lowest group; the order of placement
within one tick decides among paths that are equal in all of these. DESIGN CHOICE: log entry 84. -/
def pathMeasure (p : Path) : Nat :=
  (32 - (oneperColumn p.lanes).length) * 2 ^ 180 + p.team.placed * 2 ^ 80 + ((p.lanes.map fun t => t.group).foldl min 32) * 2 ^ 70 + p.team.order

/-- The path that comes first in the order of R94; paths that YIELD 2 put last come only after the others. -/
def pickPath (s : State) (core quad : Nat) (low : List (Nat × Word)) (l : List Path) : Option Path :=
  let aged := l.filter fun p => ageCount s core quad p == 64
  let high := l.filter fun p => !low.contains (p.team.id, p.off)
  if !aged.isEmpty then minBy pathMeasure aged
  else if !high.isEmpty then minBy pathMeasure high
  else minBy pathMeasure l

/-- Cycle of slot `k`'s next turn from a cycle on (R91). -/
def turnFrom (c k : Nat) : Nat := c + (k + 4 - c % 4) % 4

/-- The slot entry of a quadrant, an empty one at first. -/
def slotOf (s : State) (core quad k : Nat) : Slot :=
  (slot? s (slotKey core quad k)).getD { core := core, quad := quad, k := k, flock := [], fid := 0, due := 0, lastClass := none, paid := false
                                         stalled := false, yielded := false, low := [] }

/-- Put a slot entry. -/
def putSlot (s : State) (sl : Slot) : State := { s with slots := sl :: s.slots.filter fun x => x.key ≠ sl.key }

/-! ### Eligibility histograms (R241) -/

/-- The stall reason of a lane, as the number of its counter; none when no reason of R241 applies. -/
def stallReason (s : State) (t : Tid) (g : Group) (th : Thread) (state : TeamState) : Option Nat :=
  let h := (governing s t.team th).getD 0
  let pendingNow := th.pend.any (fun p => p.why ≠ .engine) && s.slots.any fun sl => sl.stalled && sl.flock.contains t
  let l : List (Bool × Nat) :=
    [(h.getLsbD 13 && !waitL g th, 10), (h.getLsbD 14 && !waitS th, 11), (h.getLsbD 15 && !waitE th, 12), (h.getLsbD 16 && !waitX th, 13),
     (pendingNow, 14),
     (match th.wait with | some (.barrier _ _) => true | some (.pen _ _) => true | some .coll => true | some .team => true | _ => false, 15),
     (match th.wait with | some (.granule _) => true | _ => false, 16),
     ((match th.wait with | some (.trough _ _) => true | _ => false) || s.troughs.any (fun q => q.tid == t), 17),
     (match th.wait with | some (.sleep _) => true | some (.sleeptk _) => true | _ => false, 18),
     (match th.wait with | some (.waitExt _) => true | _ => false, 19),
     ((governing s t.team th).isNone || (match th.wait with | some (.fetch _) => true | _ => false), 20),
     (!(loggedOf th).isEmpty, 21),
     (match th.wait with | some (.launch _) => true | _ => false, 22),
     (th.routine.isSome || state == .preempting, 23)]
  (l.find? (·.1)).map (·.2)

/-- The counter that a slot turn with no eligible path charges. -/
def turnReason (s : State) (core quad : Nat) : Option Nat :=
  let gs := (s.teams.filter fun t => t.core == core && t.onCore).flatMap fun t => (upto t.groups.length).filterMap fun i => match t.groups[i]? with
    | some g => if g.quad == quad && !g.retired then some (t, i, g) else none
    | none => none
  match minBy (fun (x : Team × Nat × Group) => x.1.placed * 2 ^ 70 + x.1.order * 64 + x.2.1) gs with
  | none => some 9
  | some (t, i, g) => match (upto 32).find? fun c => match g.threads[c]? with | some th => th.life == .live | none => false with
    | none => none
    | some c => match g.threads[c]? with
      | some th => stallReason s ⟨t.id, i, c⟩ g th t.state
      | none => none

/-- Add 1 to a counter of a quadrant's histogram. DESIGN CHOICE: log entry 8. -/
def bumpHist (s : State) (core quad n : Nat) : State :=
  let h := (s.observe.hists.find? fun h => h.core == core && h.quad == quad).getD ⟨core, quad, List.replicate 24 0⟩
  let h := { h with vals := updAt n (· + 1) h.vals }
  { s with observe := { s.observe with hists := h :: s.observe.hists.filter fun x => !(x.core == core && x.quad == quad) } }

/-- Count a slot turn with `n` eligible paths. DEDUCED: log entry 77. -/
def countTurn (s : State) (core quad n : Nat) : State :=
  let s := bumpHist s core quad (min n 8)
  if n == 0 then (match turnReason s core quad with | some r => bumpHist s core quad r | none => s) else s

/-- At a turn of a free slot, the picker forms a flock (R93, R94). -/
def pickFlock (s : State) (core quad k : Nat) : State :=
  let sl := slotOf s core quad k
  if !sl.flock.isEmpty then s
  else
    let s := reachHeaders s ((idleTids s core quad).filter fun t => match team? s t.team, thread? s t with | some tm, some th => canRun s tm th | _, _ => false)
    let s := (dedup ((idleTids s core quad).map fun t => t.team)).foldl markRestored s
    let ps := readyPaths s core quad
    let s := countTurn s core quad ps.length
    let due := max sl.due (turnFrom (coreCycle s core) k)
    match pickPath s core quad sl.low ps with
    | none => putSlot s { sl with low := [] }
    | some p =>
      let s := (ps.filter fun q => !(q.team.id == p.team.id && q.off == p.off)).foldl (fun s q => setAge s core quad q (min 64 (ageCount s core quad q + 1))) s
      let s := setAge s core quad p 0
      let fl := oneperColumn p.lanes
      let s := putSlot { s with nextId := s.nextId + 1 }
        { sl with flock := fl, fid := s.nextId, due := due, lastClass := none, paid := false, stalled := false, yielded := false, low := [] }
      fl.foldl enterClause s

/-- The picker fills a free slot. -/
def execFlockPick (core quad k : Nat) (s : State) : Host.Outcome State Fault Refusal := .next (pickFlock s core quad k)

/-! ### Samples (R239) -/

/-- The next state of the 16-bit LFSR with taps 16, 14, 13 and 11. DEDUCED: log entry 33. -/
def lfsrNext (x : BitVec 16) : BitVec 16 :=
  let b := x.getLsbD 0 ^^ x.getLsbD 2 ^^ x.getLsbD 3 ^^ x.getLsbD 5
  (x >>> 1) ||| (if b then 0x8000 else 0)

/-- A sampler's interval has passed: the flock next to issue in the quadrant and one unpicked path are recorded. -/
def execSample (core quad : Nat) (s : State) : Host.Outcome State Fault Refusal :=
  .next (match s.observe.samplers.find? fun x => x.core == core && x.quad == quad && x.next ≤ s.time with
    | none => s
    | some x =>
      let base := match ctx? s x.ctx with | some c => c.sample.toNat | none => 0
      let y := lfsrNext x.lfsr
      let ss := updWhere (fun (z : Sampler) => z.core == core && z.quad == quad && z.ctx == x.ctx)
        (fun z => { z with lfsr := y, next := z.next + base + y.toNat % base }) s.observe.samplers
      let s := { s with observe := { s.observe with samplers := ss } }
      let mine := s.slots.filter fun sl => sl.core == core && sl.quad == quad && (match sl.flock with
        | t :: _ => (match team? s t.team with | some tm => tm.ctx == x.ctx | none => false)
        | [] => false)
      match minBy (fun (sl : Slot) => sl.due) mine with
      | none => s
      | some sl =>
        match minBy (fun (t : Tid) => t.lane) sl.flock with
        | none => s
        | some t =>
          let ps := (readyPaths s core quad).filter fun p => p.team.ctx == x.ctx
          let un := minBy (fun (p : Path) => (64 - ageCount s core quad p) * 64 + ((p.lanes.map fun t => t.group).foldl min 32)) ps
          let mask := (sl.flock.map fun t => 2 ^ t.lane).sum
          let groups := ((dedup (sl.flock.map fun t => t.group)).map fun g => 2 ^ g).sum
          let pc := match thread? s t with | some th => th.pc.off.toNat | none => 0
          let slot := match team? s t.team with | some tm => tm.slot | none => 0
          ringWrite s x.ctx (match un with
            | some p => ringBytes 1 core quad sl.k slot s.time pc mask groups p.off.toNat (p.lanes.length % 64 + ageCount s core quad p * 256 + p.team.slot * 65536)
            | none => ringBytes 1 core quad sl.k slot s.time pc mask groups (2 ^ 64 - 1) 0))

/-! ### Suspension (R34) -/

/-- Suspend a context: every team is pre-empted and its records are held. `who`: 0 the driver, 1 the watchdog, 2 a checkpoint, 3 a handover. -/
def suspendCtx (s : State) (ctx who : Nat) : State :=
  let s := modCtx s ctx fun c => { c with suspended := true, suspendedBy := if c.suspendedBy.contains who then c.suspendedBy else c.suspendedBy ++ [who] }
  (s.teams.filter fun t => t.ctx == ctx).foldl (fun s t => requestTeam s t.id .suspend) s

/-! ### Slice budgets (R89, R90) -/

/-- A slice budget is spent: the grid's teams are pre-empted, and the grid is advanced or held. DEDUCED: log entry 31. -/
def execBudgetEvent (grid : Nat) (s : State) : Host.Outcome State Fault Refusal :=
  .next (match grid? s grid with
    | some g =>
      if g.slice && s.teams.any (fun t => t.grid == grid && t.onCore) && g.record.budget ≠ 0 && g.record.budget ≤ g.sliceTicks then
        let s := (s.teams.filter fun t => t.grid == grid).foldl (fun s t => requestTeam s t.id .budget) s
        let s := modGrid s grid fun g => { g with sliceTicks := 0 }
        if g.record.flags.getLsbD 12 then modGrid s grid fun g => { g with deadline := g.deadline + g.record.period }
        else modGrid (writeFault s (plainFault g.ctx Cause.budget.code 0 0)).2 grid fun g => { g with held := true }
      else s
    | none => s)

/-! ### The watchdog (R96, R97) -/

/-- Waiting threads of a context, in the order of R97. DEDUCED: log entry 32. -/
def waitingTids (s : State) (ctx : Nat) : List Tid :=
  let ts := sortBy (fun (t : Team) => t.placed * 2 ^ 80 + t.core * 2 ^ 70 + t.order) (s.teams.filter fun t => t.ctx == ctx && t.state == .resident)
  ts.flatMap fun t => (tidsOf t).filter fun k => match thread? s k with
    | some th => th.life == .live && (th.wait.isSome || (s.troughs.any (fun q => q.tid == k && q.pop) && s.slots.any fun sl => sl.stalled && sl.flock.contains k))
    | none => false

/-- One round of the classification: a waiting thread is externally rooted, given those known so far (R97). -/
def rootedBy (s : State) (known : List Tid) (t : Tid) : Bool :=
  let sameTeam := known.any fun k => k.team == t.team
  match thread? s t with
  | none => false
  | some th => match th.wait with
    | some (.waitExt _) => true
    | some (.barrier id _) => match team? s t.team with
      | some tm => match tm.bars.find? fun b => b.id == id with
        | some b => (barAwaits s t.team b).any fun k => !b.members.contains k && known.contains k
        | none => false
      | none => false
    | some .coll => match group? s t.team t.group with
      | some g => match g.rdv.find? fun r => r.arrivals.any fun a => a.tid == t with
        | some r => known.any fun k => k.team == t.team && k.group == t.group && th.gmask.getLsbD k.lane && !r.arrivals.any fun a => a.tid == k
        | none => false
      | none => false
    | some (.granule acc) => match s.waiters.find? fun w => w.tid == t && w.acc == acc with
      | some w => match holderOf s w.ctx w.set w.granule with
        | some f => known.any fun k => match team? s k.team with | some tm => tm.family == some f | none => false
        | none => false
      | none => false
    | some (.pen _ _) => sameTeam
    | some (.trough _ _) => sameTeam
    | some (.launch _) => sameTeam
    | some _ => false
    | none => sameTeam

/-- The externally rooted threads: rounds until no further thread is added; `n` bounds them. DEDUCED: log entry 32. -/
def rooted (s : State) (all : List Tid) : Nat → List Tid → List Tid
  | 0, known => known
  | n + 1, known => rooted s all n (all.filter fun t => known.contains t || rootedBy s known t)

/-- A thread of the context is in a timed sleep. -/
def anySleeps (s : State) (ctx : Nat) : Bool :=
  (waitingTids s ctx).any fun t => match (thread? s t).bind (·.wait) with | some (.sleep _) => true | _ => false

/-- W ticks without progress: a quiescent notice, or the watchdog fires and suspends the context. DEDUCED: log entry 32. -/
def execWatchdogExpiry (ctx : Nat) (s : State) : Host.Outcome State Fault Refusal :=
  .next (match ctx? s ctx with
    | none => s
    | some c =>
      if c.idle < c.window || anySleeps s ctx then s
      else
        let all := waitingTids s ctx
        let ext := rooted s all (all.length + 1) []
        match all.find? fun t => !ext.contains t with
        | none =>
          let s := modCtx s ctx fun c => { c with idle := 0, noticed := true }
          if c.noticed then s else (writeFault s { plainFault ctx 1 0 0 with info := true }).2
        | some t =>
          let pc := match thread? s t with | some th => th.pc.off | none => 0
          let s := (writeFault s (threadFault s t Cause.watchdog.code pc 0 0)).2
          suspendCtx (modCtx s ctx fun c => { c with idle := 0 }) ctx 1)

/-! ### Timed sleeps (R364) -/

/-- A timed sleep ends after its count of device ticks. -/
def execSleepEnd (t : Tid) (s : State) : Host.Outcome State Fault Refusal :=
  .next (match thread? s t with
    | some th => match th.wait with
      | some (.sleep till) =>
        if till ≤ s.time then
          let s := modThread s t finishWait
          teamProgress s t.team
        else s
      | _ => s
    | none => s)

end Sys2Proof.Machine
end

