-- ==== Sys2Proof/Machine/World.lean ====
section
/-! DEFINITION. Tasks and worlds: opening, committing and rolling back a task, granule requests, forks and choices, commits and
discards of views, and the sweeper (R168, R196 to R230, R352, R355, R421 to R426). -/

namespace Sys2Proof.Machine

/-! ### Opening a task (R196 to R198, R351) -/

/-- A trap on every arrived thread with an unstated `%tval`. -/
def trapOpen (s : State) (team : Nat) (r : Rdv) (c : Cause) : State :=
  takeTraps (dropTeamRdv s team r.off) (r.arrivals.map fun a => (a.tid, openTrap s a.tid c))

/-- Snapshot mask and shadow offset that the arrivals of tbegin supply. -/
def rdvMask (r : Rdv) : BitVec 128 :=
  match r.arrivals with
  | a :: _ => a.val 3 ++ a.val 2 ++ a.val 1 ++ a.val 0
  | [] => 0
def rdvShadow (r : Rdv) : Nat := match r.arrivals with | a :: _ => (a.val 4).toNat | [] => 0

/-- An arrived thread of tbegin has a pending bit on a masked register or on `%fstat`. -/
def snapshotPending (s : State) (r : Rdv) : Bool :=
  let m := rdvMask r
  r.arrivals.any fun a => match thread? s a.tid with
    | some th => pendingReg th .fstat || th.due.any (fun d => d.reg == .flags && d.marked) ||
        th.pend.any (fun p => p.reg == .fstat || p.reg == .flags) || (maskRegs m).any fun n => pendingReg th (.v n)
    | none => false

/-- Time part of an age stamp. -/
def agePart (s : State) : Nat := s.time / 256 % 2 ^ 50

/-- Last time part of a core and slot; none before the first stamp. -/
def lastStamp (s : State) (core slot : Nat) : Option Nat := (s.stamps.find? fun x => x.core == core && x.slot == slot).map (·.part)

/-- The traps of tbegin at its rendezvous, in the order of R351. DEDUCED: log entry 36. -/
def tbeginTrap (s : State) (tm : Team) (r : Rdv) : Option Trap :=
  let sh := rdvShadow r
  if !recFlag s tm.id 2 || tm.family.isSome || isWorld tm then some (openTrap s ⟨tm.id, 0, 0⟩ .taskState)
  else if 2 ^ 58 ≤ s.time then some ⟨.taskState, 0xFFFFFFFF, 0⟩
  else if sh % 64 ≠ 0 then some ⟨.misalign, BitVec.ofNat 32 sh, 0⟩
  else if tm.allocSize < sh + shadowSize tm.groups.length (rdvMask r) then some ⟨.scratchBounds, BitVec.ofNat 32 sh, 0⟩
  else match ctx? s tm.ctx with
    | some c => if quotaLeft s c == 0 then some (openTrap s ⟨tm.id, 0, 0⟩ .viewCapacity) else none
    | none => none

/-- Open the task (R197). -/
def openTask (s : State) (tm : Team) (c : Context) (r : Rdv) : State :=
  match allotTag s c tm.view with
  | none => s
  | some (tag, s) =>
    let m := rdvMask r
    let id := s.nextId
    let part := agePart s
    let off := match r.arrivals with
      | a :: _ => (match thread? s a.tid with | some th => nextHeader th.pc | none => r.off)
      | [] => r.off
    let f : Family := { id := id, ctx := tm.ctx, age := part * 16384 + tm.core * 16 + tm.slot, anchor := tm.id, state := .opened, draft := tag, mask := m
                        shadow := rdvShadow r, restartOff := off, restarts := 0, lanes := liveTids s tm.id, woundSent := false, waitingTag := false }
    let s := writeShadow s tm m (rdvShadow r)
    let s := { s with nextId := id + 1, families := s.families ++ [f], locks := s.locks ++ [shadowLock tm m (rdvShadow r)]
                      stamps := ⟨tm.core, tm.slot, part⟩ :: s.stamps.filter fun x => !(x.core == tm.core && x.slot == tm.slot) }
    passArrived (progress (modTeam s tm.id fun t => { t with family := some id, view := tag }) tm.ctx) tm.id r fun _ => []

/-- The rendezvous of tbegin: it waits for pending registers and for its age stamp, and then traps or opens the task. -/
def tbeginMet (s : State) (team : Nat) (r : Rdv) : State :=
  let s := settleTeam s team
  match team? s team with
  | none => s
  | some tm =>
    if !agree r then trapOpen s team r .taskState
    else if snapshotPending s r || lastStamp s tm.core tm.slot == some (agePart s) then s
    else match tbeginTrap s tm r, ctx? s tm.ctx with
      | some tr, _ => trapArrived s team r tr
      | none, some c => openTask s tm c r
      | none, none => s

/-! ### Committing and aborting a task (R203, R205, R208) -/

/-- The rendezvous of a team's tend is complete and its stores have completion times. -/
def tendReady (s : State) (team : Nat) (r : Rdv) : Bool :=
  teamMet s team r && (liveTids s team).all fun t => match thread? s t with | some th => waitS th | none => true

/-- OP and FN of a word of format E. -/
def wordOp (w : Word) : Nat × Nat := ((w.extractLsb' 26 6).toNat, (w.extractLsb' 21 5).toNat)

/-- A team's rendezvous of an instruction. -/
def rdvOf (s : State) (team op fn : Nat) : Option Rdv := (team? s team).bind fun t => t.rdv.find? fun r => wordOp r.word == (op, fn)

/-- A tend's commit reaches the anchor: it is accepted unless a wound came first, and the threads wait for its effect (R203, R208). -/
def execCommitRequest (team : Nat) (s : State) : Host.Outcome State Fault Refusal :=
  .next (match rdvOf s team 0x2C 1, (team? s team).bind (·.family) with
    | some r, some f => match family? s f with
      | some x =>
        if tendReady s team r && x.state == .opened then
          let s := modFamily s f fun x => { x with state := .committing }
          let s := r.arrivals.foldl (fun s a => modThread s a.tid fun th => { finishWait th with wait := some .commit }) (dropTeamRdv s team r.off)
          requestCommit s x.draft (some f) none
        else s
      | none => s
    | _, _ => s)

/-- The rendezvous of tabort: the family is wounded at its own anchor (R205). -/
def tabortMet (s : State) (team : Nat) (r : Rdv) : State :=
  match (team? s team).bind (·.family) with
  | some f => match family? s f with
    | some x => if x.state == .opened then acceptWound (bump (dropTeamRdv s team r.off) x.anchor 8 1) f else s
    | none => s
  | none => trapOpen s team r .taskState

/-! ### Granule requests and wounds (R200, R203, R209) -/

/-- The hold of a granule that a family acquires: its entry is in the directory of the granule's home, or in the overflow table when the
4,096 entries there are taken (R199). -/
def newHold (s : State) (c : Context) (set granule family : Nat) : Hold :=
  let home := granuleHome s c.part set granule
  ⟨c.id, set, granule, family, decide (4096 ≤ (s.holds.filter fun h => !h.spilled && h.home s == home).length)⟩

/-- The pool of the context has no room for the entry of a hold in its overflow table (R199). -/
def poolFull (s : State) (c : Context) (h : Hold) : Bool :=
  h.spilled && decide (poolCells c < usedCells { s with holds := s.holds ++ [h] } c)

/-- A granule request is decided at its home (R200, R210). DEDUCED: log entry 21. -/
def decideRequest (s : State) (t : Tid) (a : Access) (tm : Team) (c : Context) (f : Family) : State :=
  let w : Waiter := ⟨tm.ctx, 0, 0, t, a.id, some f.id, f.age⟩
  match granuleOf s tm.ctx a.va.toNat with
  | none => grantAccess s w
  | some (x, g) =>
    let w := { w with set := x.id, granule := g }
    match holderOf s tm.ctx x.id g with
    | some h =>
      if h == f.id then grantAccess s w
      else
        let s := bump (addWaiter s w) t.team 7 1
        match family? s h with
        | some y => if f.age < y.age && y.state == .opened && !y.woundSent then modFamily s h fun y => { y with woundSent := true } else s
        | none => s
    | none =>
      if 512 ≤ holdCount s f.id then refuseAccess s t a.id (addrTrap .holdOverflow a.va.toNat).trap
      else
        let h := newHold s c x.id g f.id
        if poolFull s c h then refuseAccess s t a.id (addrTrap .viewCapacity a.va.toNat).trap
        else grantAccess { s with holds := s.holds ++ [h] } w

/-- A task's request for a granule arrives at the granule home; a wounded family's thread no longer asks (R201, R204). -/
def execGranuleRequest (t : Tid) (acc : Nat) (s : State) : Host.Outcome State Fault Refusal :=
  .next (match (thread? s t).bind (·.wait), acc? s t acc, team? s t.team with
    | some (.granule k), some a, some tm => match ctx? s tm.ctx, tm.family.bind (family? s) with
      | some c, some f =>
        if k == acc && !a.granted && f.state ≠ .wounded && !(s.waiters.any fun w => w.tid == t && w.acc == acc) then decideRequest s t a tm c f else s
      | _, _ => s
    | _, _, _ => s)

/-- A world view of the task took effect in its parent at this tick: a wound that reaches the anchor now was applied before it, at an
earlier step, or is applied later (R193, R230). -/
def worldCommitted (s : State) (f : Family) : Bool :=
  let ds := descendants s 8 [f.draft]
  s.views.any fun v => v.tag ≠ f.draft && ds.contains v.tag && v.state == .aliased && v.tick == s.time

/-- A wound reaches a family's anchor: it is ignored after an accepted commit (R203). -/
def execWound (family : Nat) (s : State) : Host.Outcome State Fault Refusal :=
  .next (match family? s family with
    | some f =>
      if f.woundSent then
        (if worldCommitted s f then s else if f.state == .opened then acceptWound (bump s f.anchor 8 1) family
          else modFamily s family fun f => { f with woundSent := false })
      else s
    | none => s)

/-- The last thread of a wounded family has been taken: the family is rolled back (R204). -/
def execRollback (family : Nat) (s : State) : Host.Outcome State Fault Refusal :=
  .next (match family? s family with
    | some f => if f.state == .wounded && !f.waitingTag && allTaken s family then rollback s family else s
    | none => s)

/-- A rolled-back task that waited for a tag restarts (R421). -/
def execTaskRestart (family : Nat) (s : State) : Host.Outcome State Fault Refusal :=
  .next (match family? s family with
    | some f => if f.waitingTag then restartFamily s family else s
    | none => s)

/-! ### Forks (R220 to R222, R423) -/

/-- The team's engine operations, pending registers and logged entries keep a fork waiting. -/
def forkWaits (s : State) (tm : Team) : Bool :=
  s.engines.any (fun e => e.team == tm.id && !e.delivered) || s.matrix.any (fun m => m.team == tm.id) ||
  tm.groups.any fun g => !g.spend.isEmpty || g.threads.any fun th =>
    th.life == .live && (!th.pend.isEmpty || !th.held.isEmpty || th.due.any (·.marked) || !(loggedOf th).isEmpty)

/-- What a copy of a team needs. -/
def copyWant (s : State) (tm : Team) (c : Context) : Want :=
  ⟨c, tm.allocSize, recFlag s tm.id 5, (tm.groups.filter fun g => !g.retired).map fun g => ⟨g.role, 0, g.regs, tm.hints.getD g.role 255⟩, tm.id, none, none⟩

/-- Groups of a copy: its own spots, and waiting threads. -/
def copyGroups (tm : Team) (spots : List Spot) : List Group :=
  let live := (upto tm.groups.length).filter fun i => match tm.groups[i]? with | some g => !g.retired | none => false
  (upto tm.groups.length).filterMap fun i => (tm.groups[i]?).map fun g =>
    let g := { g with rdv := [], record := none, scapt := none, bcapt := none
                      threads := g.threads.map fun th => { th with wait := if th.life == .live then some .forkCopy else none, queue := [], storesOut := []
                                                                   wctTeam := 0, wctCluster := 0, wctDevice := 0, wctSystem := 0 } }
    match (live.zip spots).find? (fun y => y.1 == i) with
    | some y => { g with quad := y.2.quad, gslot := y.2.gslot, row := y.2.row }
    | none => g

/-- Place copies of a team one after another in its cluster, at most `n`: their numbers, in order. -/
def placeCopies (tm : Team) (c : Context) : Nat → State → List Nat × State
  | 0, s => ([], s)
  | n + 1, s =>
    match chooseCore s (copyWant s tm c) (coresOf [clusterOf tm.core]) with
    | none => ([], s)
    | some p =>
      let s := bindArea s c p.core p.area
      let (gen, s) := takeBanks s c.id p.core p.base tm.allocSize
      let id := s.nextId
      let t := { tm with id := id, core := p.core, slot := p.slot, allocBase := p.base, gen := gen, groups := copyGroups tm p.spots, placed := s.time, order := id
                         rdv := [], bars := [], counters := List.replicate 12 0, succ := none, setIdx := none, run := none }
      let r := placeCopies tm c n { s with nextId := id + 1, teams := s.teams ++ [t] }
      (id :: r.1, r.2)

/-- Allot the tags of a fork's worlds, in order. -/
def allotTags (c : Context) (parent : Nat) : Nat → State → List Nat × State
  | 0, s => ([], s)
  | n + 1, s => match allotTag s c parent with
    | some (tag, s) => let r := allotTags c parent n s; (tag :: r.1, r.2)
    | none => ([], s)

/-- Entries that a team's deferred queue can still take. -/
def deferLeft (s : State) (tm : Team) : Nat := (if isWorld tm then deferCap s tm else 32) - deferCount s tm

/-- Grant the worlds of a fork; their copies then run (R221, R222). -/
def grantFork (s : State) (tm : Team) (c : Context) (r : Rdv) (n : Nat) : State :=
  let cap := deferLeft s tm
  let copies := placeCopies tm c (min n (quotaLeft s c) - 1) s
  let k := 1 + copies.1.length
  let tags := allotTags c tm.view k copies.2
  let s := tags.2
  let id := s.nextId
  let ws := (upto k).map fun i => ({ idx := i, team := if i == 0 then tm.id else copies.1.getD (i - 1) 0, tag := tags.1.getD i 0, score := none, aborted := false
                                     discarded := false, cap := cap, rd := 0 } : World)
  let rd := (r.word.extractLsb' 14 7).toNat
  let f : Fork := { id := id, ctx := tm.ctx, worlds := ws, parentView := tm.view, parentWorld := tm.world, parentNworld := tm.nworld, parentFork := tm.fork
                    copying := true, rd := rd, moved := false, winner := none, requests := [], reached := [] }
  let s := { s with nextId := id + 1, forks := s.forks ++ [f] }
  let s := ws.foldl (fun s w => modTeam s w.team fun t => { t with view := w.tag, world := w.idx, nworld := k, fork := some id }) s
  r.arrivals.foldl (fun s a => modThread s a.tid fun th => { th with wait := some .forkCopy }) s

/-- The rendezvous of fork.w (R220). -/
def forkMet (s : State) (team : Nat) (r : Rdv) : State :=
  let s := settleTeam s team
  match team? s team with
  | none => s
  | some tm =>
    if r.arrivals.any (fun a => (match thread? s a.tid with | some th => th.wait == some .forkCopy | none => false)) then s
    else if !agree r then trapOpen s team r .taskState
    else if forkWaits s tm then s
    else match ctx? s tm.ctx, r.arrivals with
      | some c, a :: _ =>
        if 4 ≤ viewDepth s tm.view then trapOpen s team r .viewDepth
        else if quotaLeft s c == 0 then trapOpen s team r .viewCapacity
        else grantFork s tm c r (a.val 0).toNat
      | _, _ => s

/-- Copy registers of a team's groups into the groups of another, and its threads as they stand. DEDUCED: log entry 34. -/
def copyThreads (src dst : List Group) : List Group :=
  (upto dst.length).filterMap fun i => match src[i]?, dst[i]? with
    | some a, some b => some { b with s := a.s, threads := a.threads }
    | _, some b => some b
    | _, none => none

/-- Copy a whole scratchpad allocation; its pens take the generation of the copy. DEDUCED: log entry 35. -/
def copyAlloc (s : State) (src dst : Team) : State :=
  restampPens (wrScratch s dst.core dst.allocBase (rdScratch s src.core src.allocBase src.allocSize)) dst.core dst.allocBase dst.allocSize src.gen dst.gen

/-- A world's threads pass its fork with `vd` = k. -/
def passFork (s : State) (team rd k : Nat) : State :=
  (liveTids s team).foldl (fun s t => match (thread? s t).bind (·.wait) with
    | some .forkCopy => passMember s t [(.v rd, BitVec.ofNat 80 k)]
    | _ => s) s

/-- The copies of fork.w end: every world gets its registers, bindings and scratchpad, and goes on (R222). -/
def execForkCopyDone (fork : Nat) (s : State) : Host.Outcome State Fault Refusal :=
  .next (match fork? s fork with
    | some f =>
      if !f.copying || f.winner.isSome then s
      else match (f.worlds.find? fun w => w.idx == 0).bind fun w => team? s w.team with
        | none => s
        | some t0 =>
          let s := modTeam s t0.id settleAll
          let src := settleAll t0
          let clean := src.groups.map fun g => { g with threads := g.threads.map fun th => { th with queue := [], storesOut := [], wctTeam := 0, wctCluster := 0, wctDevice := 0, wctSystem := 0 } }
          let s := (f.worlds.filter fun w => w.idx ≠ 0).foldl (fun s w => match team? s w.team with
            | some t => copyAlloc (modTeam s t.id fun t => { t with groups := copyThreads clean t.groups, b := src.b, q := src.q }) t0 t
            | none => s) s
          let s := modTeam s t0.id fun t => { t with rdv := [] }
          let s := f.worlds.foldl (fun s w => passFork s w.team f.rd f.worlds.length) s
          progress (modFork s fork fun f => { f with copying := false }) f.ctx
    | none => s)

/-! ### Choices (R226 to R228, R424, R425) -/

/-- Teams whose view is one of the tags or descends from them. -/
def teamsIn (s : State) (tags : List Nat) : List Team := s.teams.filter fun t => tags.contains (resolveTag s s.views.length t.view)

/-- A team of a discarded world: it stops at its next clause boundary, or at once when it is off its slots (R193, R226). -/
def dropWorldTeam (s : State) (t : Team) : State :=
  if t.state ≠ .resident then removeTeam s t.id
  else modTeam (dropTeamMemory (leaveGranules (cancelEngines s t.id) t.id) t.id) t.id fun t => { t with discarded := true }

/-- Discard every world of a fork but the winner; world 0's team is kept when it continues without having won (R226, R227). -/
def discardLosers (s : State) (f : Fork) (win : Option Nat) : State :=
  let losers := f.worlds.filter fun w => some w.idx ≠ win
  let tags := losers.map World.tag
  let ds := descendants s 8 tags
  let first := match f.worlds.find? fun w => w.idx == 0 with | some w => w.team | none => 0
  let ts := (teamsIn s ds).filter fun t => !(win.isNone && t.id == first)
  let s := { s with deferred := s.deferred.filter fun d => match d.fork with
                      | some (k, i) => !((k == f.id && losers.any fun w => w.idx == i) || s.forks.any fun x => x.id == k && ds.contains x.parentView)
                      | none => true
                    forks := s.forks.filter fun x => !(x.id ≠ f.id && ds.contains x.parentView) }
  let s := tags.foldl discardView s
  let s := ts.foldl dropWorldTeam s
  modFork s f.id fun f => { f with worlds := updWhere (fun (w : World) => some w.idx ≠ win) (fun (w : World) => { w with discarded := true }) f.worlds }

/-- The choice falls on a world: its view's commit is requested, and its copy into world 0's slot follows when both teams are
resident; otherwise world 0's team goes, and the winner's continues in its own slot (R226, R228). -/
def chooseWinner (s : State) (f : Fork) (w : World) : State :=
  let both := w.idx ≠ 0 && (match team? s (f.teamOf 0), team? s w.team with | some a, some b => a.state == .resident && b.state == .resident | _, _ => false)
  let s := modFork s f.id fun f => { f with winner := some w.idx, copying := both, requests := [], reached := [] }
  let s := discardLosers s f (some w.idx)
  let s := if w.idx ≠ 0 && !both then removeTeam (replaceTeam s f (f.teamOf 0) w.team) (f.teamOf 0) else s
  requestCommit s w.tag none (some f.id)

/-- The threads of a team that wait in their choice pass it with a value. -/
def passWaiting (s : State) (team rd : Nat) (val : BitVec 80) : State :=
  (liveTids s team).foldl (fun s t => match (thread? s t).bind (·.wait) with
    | some .choose => passMember s t [(.v rd, val)]
    | _ => s) s

/-- Every world aborted: world 0 continues in the parent's view (R227, R228). -/
def chooseNone (s : State) (f : Fork) : State :=
  let s := discardLosers s f none
  let s := { s with forks := s.forks.filter fun x => x.id ≠ f.id }
  adoptParent (passWaiting s (f.teamOf 0) (f.rdOf 0) 0xFFFFFFFF) f (f.teamOf 0)

/-- The threads of a world's choice wait for the decision; the world keeps the register of its choice. -/
def waitChoice (s : State) (team : Nat) (f : Nat) (world : Nat) (r : Rdv) : State :=
  let s := r.arrivals.foldl (fun s a => modThread s a.tid fun th => { th with wait := some .choose }) (dropTeamRdv s team r.off)
  modFork s f fun f => { f with worlds := updWhere (fun (w : World) => w.idx == world) (fun (w : World) => { w with rd := (r.word.extractLsb' 14 7).toNat }) f.worlds }

/-- The rendezvous of choose.first: a request goes to the fork anchor (R226). -/
def chooseFirstMet (s : State) (team : Nat) (r : Rdv) : State :=
  match team? s team with
  | some t => match t.fork with
    | some f => modFork (waitChoice s team f t.world r) f fun f => { f with requests := f.requests ++ [t.world] }
    | none => trapOpen s team r .taskState
  | none => s

/-- A choose.first request reaches the fork anchor, which takes the requests of one tick at its end, the lowest world first (R226, R425). -/
def execChooseFirstRequest (fork world : Nat) (s : State) : Host.Outcome State Fault Refusal :=
  .next (match fork? s fork with
    | some f => if f.winner.isNone && f.requests.contains world && !f.reached.contains world then modFork s fork fun f => { f with reached := f.reached ++ [world] } else s
    | none => s)

/-- The rendezvous of choose.best or wabort of a team is complete. -/
def bestRdv (s : State) (team : Nat) : Option Rdv :=
  match rdvOf s team 0x2D 2, rdvOf s team 0x2D 3 with
  | some r, _ => if teamMet s team r then some r else none
  | none, some r => if teamMet s team r then some r else none
  | none, none => none

/-- The decision of choose.best once every world has arrived or aborted (R227). -/
def decideBest (s : State) (f : Fork) : State :=
  if !f.worlds.all fun w => w.score.isSome || w.aborted then s
  else
    let arrived := f.worlds.filter fun w => w.score.isSome
    match minBy (fun (w : World) => ((2 ^ 31 - (w.score.getD 0)).toNat) * 16 + w.idx) arrived with
    | some w => chooseWinner s f w
    | none => chooseNone s f

/-- The end of a tick at a fork anchor: the lowest world whose choose.first request has come wins, and only then is choose.best decided,
if the last world has arrived or aborted (R425). -/
def decideFork (s : State) (fork : Nat) : State :=
  match fork? s fork with
  | none => s
  | some f =>
    if f.winner.isSome || f.copying then s
    else match (minBy (fun (i : Nat) => i) f.reached).bind f.world? with
      | some w => chooseWinner s f w
      | none => decideBest s f

/-- The decisions of a tick. A wound that came in the tick was accepted before them (R193, R230). -/
def choiceTick (s : State) : State := (s.forks.map Fork.id).foldl decideFork s

/-- A choose.best arrival or a wabort reaches the fork anchor (R227). -/
def execChooseBestArrival (team : Nat) (s : State) : Host.Outcome State Fault Refusal :=
  .next (match team? s team, bestRdv s team with
    | some t, some r => match t.fork.bind (fork? s) with
      | some f =>
        if f.winner.isSome then s
        else if !agree r then trapOpen s team r .taskState
        else
          let best := wordOp r.word == (0x2D, 2)
          let v := match r.arrivals with | a :: _ => (a.val 0).toInt | [] => 0
          modFork (waitChoice s team f.id t.world r) f.id fun f => { f with
            worlds := updWhere (fun (w : World) => w.idx == t.world) (fun (w : World) => if best then { w with score := some v } else { w with aborted := true }) f.worlds }
      | none => s
    | _, _ => s)

/-- Where a winner's deferred queue goes: released in the committed state outside a task, else appended to the parent's (R225). -/
def passQueue (s : State) (f : Fork) (w : World) : State :=
  let mine := fun (d : Deferred) => d.fork == some (f.id, w.idx)
  let moved := fun (g : Deferred → Deferred) => { s with deferred := (s.deferred.filter fun d => !mine d) ++ (s.deferred.filter mine).map g }
  match f.parentFork, (team? s w.team).bind (·.family) with
  | none, none => releaseQueue s mine
  | some p, _ => moved fun d => { d with fork := some (p, f.parentWorld), family := none }
  | none, some x => moved fun d => { d with fork := none, family := some x }

/-- Threads of a continuing team, which has those of world `idx`, pass their choice. -/
def passChoice (s : State) (f : Fork) (team idx : Nat) : State :=
  progress (continueTeam (passWaiting s team (f.rdOf idx) (BitVec.ofNat 80 idx)) f team idx (BitVec.ofNat 32 idx)) f.ctx

/-- The continuing team of a choice that a pre-emption ended takes its parent's view at the commit; a saved team's headers follow
(R193, R228). -/
def adoptLate (s : State) (f : Fork) (team : Nat) : State :=
  let s := adoptParent s f team
  match team? s team with
  | some t => if t.offCore then rewriteHeaders s t t.view t.world t.nworld (restartsOf s t) else s
  | none => s

/-- A winner's commit takes effect: its queue is passed on, and it continues unless its copy is still to come. DEDUCED: log entry 34. -/
def finishChoice (s : State) (f : Fork) : State :=
  match f.winner.bind f.world? with
  | none => s
  | some w =>
    let s := passQueue s f w
    if f.copying then s
    else
      let s := if f.moved then adoptLate s f w.team else passChoice s f w.team w.idx
      { s with forks := s.forks.filter fun x => x.id ≠ f.id }

/-- A thread of team `old` as the same thread of team `new`. -/
def Tid.moveTo (old new : Nat) (t : Tid) : Tid := if t.team == old then { t with team := new } else t

/-- What is under way for the threads of one team goes on for those of another (R424). -/
def moveThreads (s : State) (old new : Nat) : State :=
  let r := Tid.moveTo old new
  let req := fun (q : RemoteReq) => { q with src := match q.src with | .access l => .access (l.map fun x => (r x.1, x.2)) | x => x }
  { s with gate := s.gate.map fun x => { x with tid := r x.tid }
           waiting := s.waiting.map fun x => { x with tid := r x.tid }
           waiters := s.waiters.map fun x => { x with tid := r x.tid }
           deferred := s.deferred.map fun x => { x with tid := r x.tid }
           launches := s.launches.map fun x => { x with tid := r x.tid }
           troughs := s.troughs.map fun x => { x with tid := r x.tid }
           links := { s.links with reqs := s.links.reqs.map req }
           host := { s.host with sigs := s.host.sigs.map fun x => (x.1.map r, x.2) } }

/-- The copy of a winner may end: its commit and the release of its queue are over, world 0's threads stand in no flock, and the winner's
operations are done (R228, R424). -/
def copyReady (s : State) (f : Fork) (tj t0 : Team) : Bool :=
  f.copying && tj.id ≠ t0.id && !(s.commits.any fun c => c.fork == some f.id) && !(s.slots.any fun sl => sl.flock.any fun k => k.team == t0.id) &&
  !(s.engines.any fun e => e.team == tj.id && !e.delivered) && !(s.matrix.any fun m => m.team == tj.id)

/-- The winner's state is copied into world 0's slot, under a new generation (R228, R424). DEDUCED: log entry 38. -/
def copyWinner (s : State) (f : Fork) (idx : Nat) (tj t0 : Team) : State :=
  let src := settleAll tj
  let s := moveThreads (modTeam s tj.id settleAll) tj.id t0.id
  let s := { s with tiles := s.tiles.filter fun x => x.team ≠ t0.id }
  let s := modTeam s t0.id fun t => { t with groups := copyThreads src.groups t.groups, b := src.b, q := src.q, discarded := false, rdv := [], bars := [] }
  let bytes := rdScratch s tj.core tj.allocBase tj.allocSize
  let (gen, s) := takeBanks s t0.ctx t0.core t0.allocBase t0.allocSize
  let s := restampPens (wrScratch s t0.core t0.allocBase bytes) t0.core t0.allocBase t0.allocSize tj.gen gen
  let s := removeTeam (modTeam s t0.id fun t => { t with gen := gen }) tj.id
  let s := passChoice s f t0.id idx
  { s with forks := s.forks.filter fun x => x.id ≠ f.id }

/-- The copy of a choice's winner ends. -/
def execChooseCopyDone (fork : Nat) (s : State) : Host.Outcome State Fault Refusal :=
  .next (match fork? s fork with
    | some f => match f.winner.bind f.world? with
      | some w => match team? s w.team, team? s (f.teamOf 0) with
        | some tj, some t0 => if copyReady s f tj t0 then copyWinner s f w.idx tj t0 else s
        | _, _ => s
      | none => s
    | none => s)

/-! ### Commits, discards, sweeping and free tags (R168, R218, R219) -/

/-- A requested commit can take effect: T has reached tc and no store of the view is still without effect. -/
def commitDue (s : State) (c : CommitRec) : Bool :=
  c.tc ≤ s.time && !viewBusy s c.tag && !s.waiting.any fun w => resolveTag s s.views.length w.view == c.tag

/-- The anchor team after a task's commit: its waiting threads go on, and saved headers carry the parent's tag (R193, R208). -/
def afterTask (s : State) (anchor : Nat) : State :=
  match team? s anchor with
  | none => s
  | some tm =>
    let s := modTeam s anchor fun t => { t with groups := t.groups.map fun g => { g with threads := g.threads.map fun th => if th.wait == some .commit then { th with wait := none } else th } }
    let s := if tm.offCore then rewriteHeaders s tm tm.view tm.world tm.nworld 0 else s
    progress s tm.ctx

/-- A view's commit takes effect (R168): it becomes an alias of its parent, and its task or choice ends. -/
def commitView (s : State) (c : CommitRec) : State :=
  let s := aliasView { s with commits := s.commits.filter fun x => x.tag ≠ c.tag } c.tag
  match c.family, c.fork with
  | some f, _ => match family? s f with | some x => afterTask (finishTask s f) x.anchor | none => s
  | none, some k => match fork? s k with | some f => finishChoice s f | none => s
  | none, none => s

/-- At tc, a view becomes an alias of its parent at every slice. -/
def execCommit (tag : Nat) (s : State) : Host.Outcome State Fault Refusal :=
  .next (match s.commits.find? fun c => c.tag == tag with
    | some c => if commitDue s c then commitView s c else s
    | none => s)

/-- A view may be discarded: its world has lost, or its context is going away. -/
def discardable (s : State) (tag : Nat) : Bool :=
  (s.forks.any fun f => f.worlds.any fun w => w.tag == tag && w.discarded) ||
  (match view? s tag with | some v => (match ctx? s v.ctx with | some c => c.destroying | none => true) | none => false)

/-- A view is discarded at one tick. -/
def execDiscard (tag : Nat) (s : State) : Host.Outcome State Fault Refusal := .next (if discardable s tag then discardView s tag else s)

/-- The sweeper reaches a line of a tag: aliased versions are merged, dead ones invalidated, and copies of the tag dropped (R218). -/
def execSweeper (tag line : Nat) (s : State) : Host.Outcome State Fault Refusal :=
  .next (match view? s tag with
    | some v =>
      if v.state == .live then s
      else
        let s := if v.state == .aliased then mergeLine s line
          else { s with versions := s.versions.filter fun x => !(x.tag == tag && x.line == line) }
        { s with leases := s.leases.filter fun c => !(c.view == tag && c.line == line && c.peer.isNone) }
    | none => s)

/-- A tag is free once no line carries it and 4,096 ticks have passed (R218). DEDUCED: log entry 37. -/
def execTagFree (tag : Nat) (s : State) : Host.Outcome State Fault Refusal :=
  .next (match view? s tag with
    | some v =>
      if v.state ≠ .live && v.tick + 4096 ≤ s.time && !(s.versions.any fun x => x.tag == tag) && !(s.leases.any fun c => c.view == tag && c.peer.isNone) then
        { s with views := (s.views.filter fun x => x.tag ≠ tag).map fun x => if x.parent == tag then { x with parent := v.parent } else x }
      else s
    | none => s)

end Sys2Proof.Machine
end

