-- ==== Sys2Proof/Machine/Engine.lean ====
section
/-! DEFINITION. Copy, bulk and gather engines and troughs: descriptors and their checks, range locks, the movement of bytes,
status words, pen updates and the service of troughs (R47, R166, R178, R380 to R397, R411, R418). -/

namespace Sys2Proof.Machine

/-! ### Descriptors (R385, R391, R393) -/

/-- Word `i` of a descriptor, and a bit field. -/
def dscW (d : List Word) (i : Nat) : Nat := (d.getD i 0).toNat
def fld (w lo n : Nat) : Nat := w / 2 ^ lo % 2 ^ n
/-- A 64-bit field, low word first. -/
def dscQ (d : List Word) (i : Nat) : Nat := dscW d i + 4294967296 * dscW d (i + 1)

/-- A slice descriptor of a copy form (R385). -/
structure Slice where
  group : Nat
  rows : Nat
  rowb : Nat
  spitch : Nat
  gpitch : Nat
  gbase : Nat
  goff : Nat
  soff : Nat
  esize : Nat
  cmask : Nat
  pv : Bool
  pen : Nat
  psrc : Nat
  deriving DecidableEq, Repr

/-- The slice of a group's descriptor; a pitch of 0 is the row length. -/
def sliceOf (g : Nat) (d : List Word) : Slice :=
  let rowb := dscW d 4
  { group := g, rows := fld (dscW d 5) 0 16, rowb := rowb
    spitch := if fld (dscW d 5) 16 16 == 0 then rowb else fld (dscW d 5) 16 16
    gpitch := if dscW d 6 == 0 then rowb else dscW d 6
    gbase := fld (dscW d 0) 0 4, goff := dscQ d 1, soff := dscW d 3, esize := 2 ^ fld (dscW d 0) 10 2, cmask := fld (dscW d 0) 4 4
    pv := fld (dscW d 7) 18 1 == 1, pen := fld (dscW d 7) 0 18, psrc := fld (dscW d 7) 19 3 }

/-- Bytes of a slice. -/
def Slice.bytes (x : Slice) : Nat := x.rows * x.rowb

/-- Elements of a row of `copy.sp` (R388). -/
def Slice.elems (x : Slice) : Nat := x.rowb / x.esize

/-- Bytes of the bitmap of `copy.sp`, padded to 64. -/
def Slice.mapBytes (x : Slice) : Nat := (x.rows * x.elems + 511) / 512 * 64

/-- Core positions that a slice writes, of the core `core` and the form. -/
def Slice.places (x : Slice) (k : EngKind) (core : Nat) : List Nat :=
  if k == .multicast then (upto 4).filter fun p => x.cmask.testBit p else [core % 4]

/-- The first register whose fields break the limits of R385 and R388. DEDUCED: log entry 42. -/
def sliceLimits (k : EngKind) (d : List Word) : Option Nat :=
  let x := sliceOf 0 d
  let a := dscW d 0
  let sp := fld (dscW d 5) 16 16
  ([(0, a / 2 ^ 14 ≠ 0 || fld a 8 2 ≠ 0 || (k ≠ .out && fld a 12 2 ≠ 0) || (k ≠ .sparse && fld a 10 2 ≠ 0) || fld a 10 2 == 3 ||
        (k ≠ .multicast && x.cmask ≠ 0) || (k == .multicast && x.cmask == 0)),
    (3, x.soff / 2 ^ 18 ≠ 0),
    (4, x.rowb % 4 ≠ 0 || x.rowb < 4 || 262144 < x.rowb || (k == .sparse && (x.elems % 8 ≠ 0 || x.elems < 8 || 512 < x.elems))),
    (5, sp % 4 ≠ 0 || (sp ≠ 0 && sp < x.rowb) || 4096 < x.rows),
    (7, dscW d 7 / 2 ^ 22 ≠ 0 || (k == .out && dscW d 7 ≠ 0))].find? fun c => c.2).map Prod.fst

/-- The trap of R386 for register `i`. -/
def regTrap (c : Cause) (i : Nat) (d : List Word) : Trap := ⟨c, BitVec.ofNat 32 i, d.getD i 0⟩

/-- A lane's base for the global side of an engine range. -/
def engBase (tm : Team) (n : Nat) : Nat := (tm.b.getD n 0).toNat

/-- An engine range whose base is b15 in a routine traps PROTECTION with its address, before any rule on the address itself (R182). -/
def slotBaseTrap (s : State) (t : Tid) (tm : Team) (base off : Nat) : Option Trap :=
  match thread? s t with
  | some th => if base == 15 && th.routine.isSome then some (addrTrap .protection (((rdB tm th 15).toNat + off) % 2 ^ 80)).trap else none
  | none => none

/-- The checks of R386 on one group's slice, in the order of its table. -/
def sliceTrap (s : State) (t : Tid) (tm : Team) (k : EngKind) (d : List Word) : Option Trap :=
  let x := sliceOf 0 d
  let base := engBase tm x.gbase
  match (sliceLimits k d).map (fun i => regTrap .illegalOp i d), (if x.rows == 0 then none else slotBaseTrap s t tm x.gbase x.goff) with
  | some tr, _ => some tr
  | none, some tr => some tr
  | none, none =>
    if x.rows ≠ 0 && ((base + x.goff) % 4 ≠ 0 || (k ≠ .sparse && 1 < x.rows && x.gpitch % 4 ≠ 0)) then some (regTrap .misalign 0 d)
    else if x.rows ≠ 0 && x.soff % 4 ≠ 0 then some (regTrap .misalign 3 d)
    else if x.pv && x.pen % 64 ≠ 0 then some (regTrap .misalign 7 d)
    else if x.rows ≠ 0 && tm.allocSize < x.soff + (x.rows - 1) * x.spitch + x.rowb then some (regTrap .scratchBounds 3 d)
    else if x.pv && tm.allocSize < x.pen + 64 then some (regTrap .scratchBounds 7 d)
    else if k == .multicast && !((x.places k tm.core).all fun p => (teamAt s tm p).isSome) then some (regTrap .protection 0 d)
    else if k == .multicast && isWorld tm && !((x.places k tm.core).all fun p => p == tm.core % 4) then some (regTrap .worldExternal 0 d)
    else none

/-! ### Ranges and their rules at issue (R167, R182, R198, R202, R207, R381) -/

/-- A lock of an operation on a range of a core's table. -/
def engLock (op team ctx core : Nat) (write scratch : Bool) (lo n : Nat) : RangeLock := ⟨core, some op, team, ctx, write, scratch, lo, lo + n⟩

/-- Ranges of one slice: its global rows and its scratch rows at each destination. -/
def sliceRanges (s : State) (op : Nat) (tm : Team) (k : EngKind) (x : Slice) : List RangeLock :=
  let ga := engBase tm x.gbase + x.goff
  if x.rows == 0 then []
  else
    let glob := if k == .sparse then [engLock op tm.id tm.ctx tm.core false false ga (x.mapBytes + x.bytes)]
      else (upto x.rows).map fun r => engLock op tm.id tm.ctx tm.core (k == .out) false (ga + r * x.gpitch) x.rowb
    let dest := (x.places k tm.core).filterMap fun p => if p == tm.core % 4 then some tm else teamAt s tm p
    let scr := dest.flatMap fun u => (upto x.rows).map fun r =>
      engLock op tm.id tm.ctx u.core (k ≠ .out) true (u.allocBase + x.soff + r * x.spitch) x.rowb
    glob ++ scr

/-- Two entries of one table and kind. -/
def sameTable (a b : RangeLock) : Bool := a.core == b.core && a.write == b.write && a.scratch == b.scratch

/-- Add a range to a list, one entry with those that it touches or overlaps (R381). -/
def joinLock (l : List RangeLock) (k : RangeLock) : List RangeLock :=
  let near := fun (x : RangeLock) => sameTable x k && x.lo ≤ k.hi && k.lo ≤ x.hi
  (l.filter near).foldl (fun m x => { m with lo := min m.lo x.lo, hi := max m.hi x.hi }) k :: l.filter fun x => !near x

def mergeLocks (l : List RangeLock) : List RangeLock := l.foldl joinLock []

/-- A global range meets a declared set of the context. -/
def meetsSet (s : State) (ctx lo hi : Nat) : Bool := s.sets.any fun x => x.ctx == ctx && x.base < hi && lo < x.base + x.size

/-- A global range of an operation is in region 1 or 2. -/
def isRemote (a : Nat) : Bool := regionNo a == 1 || regionNo a == 2

/-- The trap of an engine's global range [lo, hi) at issue: a world (R224, R381), a task (R202, R207). DEDUCED: log entry 42. -/
def spanTrap (s : State) (t : Tid) (tm : Team) (dest : Bool) (r : Nat × Nat) : Option Trap :=
  if isWorld tm && isRemote r.1 then some (addrTrap .worldExternal (r.1 % 2 ^ 80)).trap
  else if tm.family.isSome && meetsSet s tm.ctx r.1 r.2 then some (openTrap s t .taskState)
  else if tm.family.isSome && !isWorld tm && dest && isRemote r.1 then some (openTrap s t .taskState)
  else none

/-- A scratch destination meets the shadow area of an open task, of the issuer's team or of another of its set (R198). -/
def meetsShadow (s : State) (l : List RangeLock) : Bool :=
  l.any fun k => k.scratch && k.write && s.locks.any fun x => x.op.isNone && x.core == k.core && k.lo < x.hi && x.lo < k.hi

/-- Global ranges of a slice: one for each row, as R381 enters them, or the bitmap and data of `copy.sp`. -/
def sliceSpans (tm : Team) (k : EngKind) (x : Slice) : List (Nat × Nat) :=
  let lo := engBase tm x.gbase + x.goff
  if k == .sparse then [(lo, lo + x.mapBytes + x.bytes)] else (upto x.rows).map fun r => (lo + r * x.gpitch, lo + r * x.gpitch + x.rowb)

/-- The rules at issue for a group's slice. DEDUCED: log entry 42. -/
def sliceRules (s : State) (t : Tid) (tm : Team) (k : EngKind) (x : Slice) : Option Trap :=
  if x.rows == 0 then none
  else ((sliceSpans tm k x).findSome? (spanTrap s t tm (k == .out))).or
    (if meetsShadow s (sliceRanges s 0 tm k x) then some (openTrap s t .rangeConflict) else none)

/-! ### Operations (R380, R381, R383) -/

/-- A status word (R380). -/
def statusWord (code : Nat) (more : Bool) (count : Nat) : Word :=
  BitVec.ofNat 32 (code * 268435456 + (if more then 134217728 else 0) + min count 16777215)

def stFault : Nat := 1
def stStale : Nat := 2
def stPenUninit : Nat := 3
def stPenError : Nat := 4
def stProtection : Nat := 5
def stNoLease : Nat := 6
def stAbort : Nat := 7
def stRefused : Nat := 8

/-- The queue entry of an engine start, which leaves when the operation starts (R166). -/
def engineEntry (op : Nat) (pc : Word) : Access := { fenceAccess .acq true op op pc with op := .engine op, pa := some 0 }

/-- An operation as it is issued, of its kind, issuers, destination and descriptors. -/
def newOp (s : State) (k : EngKind) (tm : Team) (tids : List Tid) (rd : Nat) (descs : List (Nat × List Word)) (pc : Word) : EngOp :=
  { id := s.nextId, kind := k, team := tm.id, ctx := tm.ctx, core := tm.core, view := tm.view, tids := tids, rd := rd, descs := descs
    bases := tm.b, pc := pc, started := false, order := 0, done := 0, written := 0, codes := [], gens := [], perCore := [], latest := 0
    prog := [], acks := [], fetched := [], paused := none, faultVa := 0, faultKind := 0, ended := false, cancelled := false, delivered := false }

/-- Issue an operation: its status register is pending in every thread that takes part, and the start joins their queues. -/
def addEngine (s : State) (op : EngOp) : State :=
  op.tids.foldl (fun s t => modThread s t fun th =>
      { th with queue := th.queue ++ [engineEntry op.id op.pc], pend := th.pend ++ [⟨.v op.rd, .engine, op.id⟩] })
    { s with engines := s.engines ++ [op], nextId := s.nextId + 1 }

/-- Operations of one engine: the copy engine or the gather engine of a core; bulk operations have engines of their own. -/
def EngOp.unit (e : EngOp) : Nat := match e.kind with | .gather => 2 * e.core + 1 | .bulk => 1000000 + fld (dscW ((e.descs.map Prod.snd).headD []) 0) 8 6 | _ => 2 * e.core

/-- Slices of a copy operation, in ascending group order. -/
def EngOp.slices (e : EngOp) : List Slice := e.descs.map fun d => sliceOf d.1 d.2

/-- Bytes that a copy operation moves; elements of a gather, bytes of a bulk transfer. -/
def EngOp.total (e : EngOp) : Nat :=
  match e.kind with
  | .bulk => dscQ ((e.descs.map Prod.snd).headD []) 5
  | .gather => dscW ((e.descs.map Prod.snd).headD []) 3
  | .multicast => ((e.slices).map fun x => x.bytes * (x.places .multicast e.core).length).sum
  | _ => ((e.slices).map Slice.bytes).sum

/-- Count bytes under a status code. -/
def addCode (c n : Nat) (e : EngOp) : EngOp :=
  if n == 0 then e
  else if e.codes.any (fun x => x.1 == c) then { e with codes := updWhere (fun x => x.1 == c) (fun x => (x.1, x.2 + n)) e.codes }
  else { e with codes := e.codes ++ [(c, n)] }

/-- Count bytes in a keyed list. -/
def addKey (k n : Nat) (l : List (Nat × Nat)) : List (Nat × Nat) :=
  if l.any (fun x => x.1 == k) then updWhere (fun x => x.1 == k) (fun x => (x.1, x.2 + n)) l else l ++ [(k, n)]
def atKey (k : Nat) (l : List (Nat × Nat)) : Nat := match l.find? fun x => x.1 == k with | some x => x.2 | none => 0

/-! ### Troughs (R394 to R396) -/

def qBound (x : BitVec 64) : Bool := x.getLsbD 57
def qClosed (x : BitVec 64) : Bool := x.getLsbD 58
def qFilled (x : BitVec 64) : Nat := (x.extractLsb' 44 13).toNat
def qHead (x : BitVec 64) : Nat := (x.extractLsb' 32 12).toNat
def qSlots (x : BitVec 64) : Nat := 2 ^ (x.extractLsb' 28 4).toNat
def qSlotBytes (x : BitVec 64) : Nat := 4 * 2 ^ (x.extractLsb' 25 3).toNat
def qBase (x : BitVec 64) : Nat := (x.extractLsb' 0 18).toNat

/-- A binding from its fields. -/
def qMake (closed : Bool) (filled head logn slot base : Nat) : BitVec 64 :=
  BitVec.ofNat 64 ((if closed then 2 ^ 58 else 0) + 2 ^ 57 + filled * 2 ^ 44 + head * 2 ^ 32 + logn * 2 ^ 28 + slot * 2 ^ 25 + base)

/-- A binding with other counts. -/
def qCounts (x : BitVec 64) (closed : Bool) (filled head : Nat) : BitVec 64 :=
  qMake closed filled head (x.extractLsb' 28 4).toNat (x.extractLsb' 25 3).toNat (qBase x)

def qOf (tm : Team) (q : Nat) : BitVec 64 := tm.q.getD q 0
def setQ (s : State) (team q : Nat) (x : BitVec 64) : State := modTeam s team fun t => { t with q := updAt q (fun _ => x) t.q }

/-- Core address of a slot of a trough. -/
def slotAt (tm : Team) (x : BitVec 64) (i : Nat) : Nat := tm.allocBase + qBase x + i % qSlots x * qSlotBytes x

/-- Fill the next free slot with bytes, zeros behind them. -/
def pushSlot (s : State) (tm : Team) (q : Nat) (bs : List Byte) : State :=
  let x := qOf tm q
  let full := bs ++ List.replicate (qSlotBytes x - bs.length) 0#8
  setQ (bankWrite s tm.core (slotAt tm x (qHead x + qFilled x)) full) tm.id q (qCounts x (qClosed x) (qFilled x + 1) (qHead x))

/-- A started gather that still pushes into a trough. -/
def pushesInto (team q : Nat) (e : EngOp) : Bool :=
  e.team == team && e.kind == .gather && e.started && !e.ended && fld (dscW ((e.descs.map Prod.snd).headD []) 0) 11 3 == q

/-- A started gather still pushes into a trough (R394, R397). -/
def gathering (s : State) (team q : Nat) : Bool := s.engines.any (pushesInto team q)

/-- The effect of tr.unbind (0), tr.reset (1) and gath.close (2). -/
def troughEffect (s : State) (team op q : Nat) : State :=
  match team? s team with
  | none => s
  | some tm =>
    let x := qOf tm q
    setQ s team q (if op == 0 then 0 else if op == 1 then qCounts x false 0 0 else qCounts x true (qFilled x) (qHead x))

/-- CLOSED is set once every gather already started into the trough has pushed its last element: at once where none runs, else
by the last of them in the order of starts, when it ends (R397). -/
def closeTrough (s : State) (team q : Nat) : State :=
  match minBy (fun e => s.nextId - e.order) (s.engines.filter (pushesInto team q)) with
  | none => troughEffect s team 2 q
  | some e => { s with engines := updWhere (fun x => x.id == e.id) (fun x => { x with closes := true }) s.engines }

/-- Threads that wait until no engine pushes into a trough go on when none does. -/
def settleTrough (s : State) (team q : Nat) : State :=
  if gathering s team q then s
  else match team? s team with
    | none => s
    | some tm => (tidsOf tm).foldl (fun s t => match (thread? s t).bind (·.wait) with
      | some (.trough op k) => if k == q then modThread (troughEffect s team op q) t finishWait else s
      | _ => s) s

/-! ### Locks and starts (R381, R383) -/

/-- Ranges of an operation. -/
def opRanges (s : State) (e : EngOp) (tm : Team) : List RangeLock :=
  let d := (e.descs.map Prod.snd).headD []
  match e.kind with
  | .bulk =>
    let n := dscQ d 5
    [engLock e.id e.team e.ctx e.core false false (engBase tm (fld (dscW d 0) 0 4) + dscQ d 1) n,
     engLock e.id e.team e.ctx e.core true false (engBase tm (fld (dscW d 0) 4 4) + dscQ d 3) n]
  | .gather =>
    let x := qOf tm (fld (dscW d 0) 11 3)
    let idx := if fld (dscW d 0) 8 1 == 1 then []
      else [engLock e.id e.team e.ctx e.core false true (tm.allocBase + dscW d 1) (4 * dscW d 3)]
    idx ++ [engLock e.id e.team e.ctx e.core true true (tm.allocBase + qBase x) (qSlots x * qSlotBytes x)]
  | k => e.slices.flatMap (sliceRanges s e.id tm k)

/-- Entries needed in a core's table, entries that the team holds there, and all entries held. -/
def needLocks (l : List RangeLock) (core : Nat) : Nat := (l.filter fun k => k.core == core).length
def teamLocks (s : State) (team core : Nat) : Nat := (s.locks.filter fun k => k.core == core && k.team == team).length
def heldLocks (s : State) (core : Nat) : Nat := (s.locks.filter fun k => k.core == core).length

/-- Every issuer's start may leave its queue: no earlier fence, scratchpad access, pen update, pop or push is left (R162, R381). -/
def startFree (s : State) (e : EngOp) : Bool :=
  e.tids.all fun t => match thread? s t with
    | none => true
    | some th => ((earlierIn e.id th.queue).all fun a => !a.isFence && (match a.space with | .scratch _ => false | _ => true)) &&
        troughsDone s t e.id true true

/-- Remove the start from the issuers' queues. -/
def leaveQueues (s : State) (e : EngOp) : State :=
  e.tids.foldl (fun s t => modThread s t fun th => { th with queue := th.queue.filter fun a => a.op ≠ .engine e.id }) s

/-- Deliver a word to the status register of threads. -/
def deliverStatus (s : State) (ts : List Tid) (tok rd : Nat) (w : Word) : State :=
  ts.foldl (fun s t => deliverRegs s t tok [(.v rd, w.setWidth 80)]) s

/-- The operation needs more entries than it can ever get: the lowest lane of the lowest group owes RANGE_CONFLICT, the others read
REFUSED (R381). DEDUCED: log entry 40. -/
def refuseOp (s : State) (e : EngOp) (need : Nat) : State :=
  let s := leaveQueues { s with engines := s.engines.filter fun x => x.id ≠ e.id } e
  match minBy (fun (t : Tid) => t.group * 32 + t.lane) e.tids with
  | none => s
  | some t0 =>
    let s := deliverStatus s (e.tids.filter fun t => t ≠ t0) e.id e.rd (statusWord stRefused false 0)
    modThread s t0 fun th => { th with pend := th.pend.filter (fun p => p.tok ≠ e.id), owed := some ⟨.rangeConflict, BitVec.ofNat 32 need, 0⟩ }

/-- Start an operation once its queue entries, its engine and the lock tables allow (R381, R383); `copy.mc` captures the
generations of its destinations (R387), a bulk operation joins its engine's queue (R391). -/
def startOp (s : State) (e : EngOp) : State :=
  match team? s e.team with
  | none => s
  | some tm =>
    let l := mergeLocks (opRanges s e tm)
    let cores := dedup (l.map RangeLock.core)
    match cores.find? fun c => 64 - teamLocks s e.team c < needLocks l c with
    | some c => refuseOp s e (needLocks l c)
    | none =>
      if cores.any (fun c => 64 < heldLocks s c + needLocks l c) ||
          (e.kind ≠ .bulk && 4 ≤ (s.engines.filter fun x => x.unit == e.unit && x.started && !x.delivered).length) then s
      else
        let gens := if e.kind == .multicast then (upto 4).filterMap (fun p => (teamAt s tm p).map fun u => (p, u.gen)) else []
        let s := leaveQueues { s with locks := s.locks ++ l, bulk := if e.kind == .bulk then s.bulk ++ [e.id] else s.bulk } e
        modEng { s with nextId := s.nextId + 1 } e.id fun x => { x with started := true, order := s.nextId, gens := gens, ended := x.total == 0 }

/-- The last routine or dump of the operation's team has ended: what still runs is cancelled, and moves and delivers nothing more (R178). -/
def stopped (s : State) (e : EngOp) : Bool := match team? s e.team with | some tm => teamEnded tm | none => false

/-- An engine operation enters its range locks and starts (R381). DEDUCED: log entry 40. -/
def execEngineStart (op : Nat) (s : State) : Host.Outcome State Fault Refusal :=
  .next (match eng? s op with
    | some e => if !e.started && !stopped s e && startFree s e then startOp s e else s
    | none => s)

/-! ### Reads and writes of an engine (R135, R166, R381, R382) -/

/-- What keeps an engine access from being performed: a translation fault, an address outside its region, an unreachable peer, or
nothing but time. -/
inductive EngErr where
  | fault (f : TFault) (va kind : Nat)
  | region (va kind : Nat)
  | unreachable
  /-- A scratch source in a bank fenced against the context (R58). -/
  | fenced
  /-- A line whose integrity code does not fit (R59). -/
  | broken (va : Nat)
  | wait

/-- Translate an engine address. -/
def engAddr (s : State) (e : EngOp) (base off kind : Nat) (fresh : Bool) : Except EngErr (Nat × Nat) × State :=
  match formAddr base off, ctx? s e.ctx with
  | none, _ => (.error (.region ((base + off) % 2 ^ 80) kind), s)
  | some _, none => (.error .wait, s)
  | some va, some c =>
    if regionNo va == 2 then (.ok (va, va % 2 ^ 64), s)
    else if regionNo va == 1 && (portsTo s c.part (va / 2 ^ 66 % 1024)).isEmpty then (.error .unreachable, s)
    else
      let r := translateNow s fresh (.core e.core) c va kind
      match r.1 with
      | .ok x => (.ok (va, x.2.1), r.2)
      | .error f => (.error (.fault f va kind), r.2)

/-- A peer's line for an operation: its bytes when they have come; else the request is sent, once, and the operation waits (R19, R135, R381). -/
def peerLine (s : State) (e : EngOp) (c : Context) (dev pa : Nat) : Except EngErr (List Byte) × State :=
  let key := dev * 2 ^ 52 + pa / 64
  match (eng? s e.id).bind fun x => x.fetched.find? fun y => y.2.1 == key with
  | some (_, _, .got bs) => (.ok bs, s)
  | some (n, _, .failed) => (.error .unreachable, modEng s e.id fun x => { x with fetched := x.fetched.filter fun y => y.1 ≠ n })
  | some (_, _, .waits) => (.error .wait, s)
  | none =>
    let n := s.links.nextMsg
    let s := modEng s e.id fun x => { x with fetched := x.fetched ++ [(n, key, .waits)] }
    (.error .wait, sendRequest s (.engine e.id) c.part (readMsg dev (pa / 64 * 64) 64 0))

/-- A read within one line through the tile path, at the home slice without a lease. DESIGN CHOICE: log entry 41. -/
def engRead (s : State) (e : EngOp) (base off n : Nat) : Except EngErr (List Byte) × State :=
  let r := engAddr s e base off kindRead false
  match r.1, ctx? r.2 e.ctx with
  | .error x, _ => (.error x, r.2)
  | .ok _, none => (.error .wait, r.2)
  | .ok (va, pa), some c =>
    if regionNo va == 2 then (.ok (Memory.readN r.2.hostMem pa n), r.2)
    else if regionNo va == 1 then
      let q := peerLine r.2 e c (va / 2 ^ 66 % 1024) pa
      (q.1.map fun bs => (bs.drop (pa % 64)).take n, q.2)
    else if sweepHolds r.2 c.pav (pa / 64) then (.error .wait, r.2)
    else if sealBroken r.2 c.pav (pa / 64) then (.error (.broken va), r.2)
    else (.ok (seen r.2 c.pav e.view pa n), mergeLine r.2 (pa / 64))

/-- A global write within one line: at the home slice with a completion time, to a peer as a message, or to the host (R166, R381).
A write that finds no spill cell for its version waits. DESIGN CHOICE: log entry 41. -/
def engWrite (s : State) (e : EngOp) (base off : Nat) (bs : List Byte) : Except EngErr Unit × State :=
  let r := engAddr s e base off kindWrite false
  let s := r.2
  match r.1, ctx? s e.ctx with
  | .error x, _ => (.error x, s)
  | .ok _, none => (.error .wait, s)
  | .ok (va, pa), some c =>
    if regionNo va == 2 then
      (.ok (), modEng { s with hostMem := Memory.writeN s.hostMem pa bs } e.id fun x => { x with latest := max x.latest (s.time + 1) })
    else if regionNo va == 1 then
      let s := modEng s e.id fun x => { x with acks := x.acks ++ [s.links.nextMsg] }
      (.ok (), sendRequest s (.engine e.id) c.part (writeMsg (va / 2 ^ 66 % 1024) pa bs))
    else if noCell s c e.view pa then (.error .wait, s)
    else
      let q := completionTime s (pa / 64) s.time
      let s := { q.2 with waiting := q.2.waiting ++ [{ tid := ⟨0, 0, 0⟩, ctx := e.ctx, view := e.view, pa := pa, bytes := bs, c := q.1 }] }
      (.ok (), modEng (noteCompletion s e.view q.1) e.id fun x => { x with latest := max x.latest q.1 })

/-- The thread that a fault record of an operation names: the lowest live lane of the group. -/
def engLane (s : State) (e : EngOp) (g : Nat) : Tid :=
  ((liveTids s e.team).find? fun t => t.group == g).getD ⟨e.team, g, 0⟩

/-- End an operation with the bytes not moved counted under a code. -/
def endOp (s : State) (id code left : Nat) : State :=
  match eng? s id with
  | none => s
  | some e =>
    let s := modEng { s with bulk := s.bulk.filter fun x => x ≠ id } id fun x => addCode code left { x with ended := true, paused := none }
    let q := fld (dscW ((e.descs.map Prod.snd).headD []) 0) 11 3
    if e.kind == .gather then settleTrough (if e.closes then troughEffect s e.team 2 q else s) e.team q else s

/-- Bytes of an operation not yet moved. -/
def EngOp.left (e : EngOp) : Nat :=
  match e.kind with
  | .gather => (e.total - e.done) * (4 * 2 ^ fld (dscW ((e.descs.map Prod.snd).headD []) 0) 9 2)
  | .multicast => e.total - ((e.prog.map Prod.snd).sum)
  | _ => e.total - e.done

/-- A fault of an operation: it pauses with a fault record (R382), or ends where the fault is final; `skip` counts the bytes of
a piece whose peer cannot be reached. -/
def engFail (s : State) (e : EngOp) (g : Nat) (err : EngErr) (skip : State → State) : State :=
  match err with
  | .wait => s
  | .unreachable => skip s
  | .fenced => endOp s e.id stProtection e.left
  | .broken va =>
    let r := threadFault s (engLane s e g) Cause.eccUncorrected.code e.pc (BitVec.ofNat 80 va) (peerDetail .eccUncorrected va)
    endOp (writeFault s r).2 e.id stFault e.left
  | .region va kind =>
    let r := threadFault s (engLane s e g) Cause.pageFault.code e.pc (BitVec.ofNat 80 va) (BitVec.ofNat 64 (4 + 256 * kind))
    endOp (writeFault s r).2 e.id stFault e.left
  | .fault f va kind =>
    let r := f.record s (engLane s e g) e.pc va kind
    let q := writeFault s r
    let s := keepRecord q.2 q.1 r
    modEng s e.id fun x => { x with paused := some (q.1.getD 4294967295), faultVa := va, faultKind := kind, pausedS2 := f.stage2 }

/-- The next operation of an engine is this one: it runs, and no earlier one still does (R383). -/
def runsNow (s : State) (e : EngOp) : Bool :=
  e.started && !e.ended && e.paused.isNone && !stopped s e &&
  !(s.engines.any fun x => x.unit == e.unit && x.id ≠ e.id && x.started && !x.ended && x.order < e.order)

/-- Account for bytes moved into a core's scratchpad, or to memory: progress, the counter of R243, and the end of the operation; lines that
came from peers for this step are used up. -/
def moved (s : State) (e : EngOp) (n : Nat) (f : EngOp → EngOp) : State :=
  let s := modEng s e.id fun x => f { x with fetched := x.fetched.filter fun y => y.2.2 == .waits }
  let s := bump (progress s e.ctx) e.team 5 n
  match eng? s e.id with
  | some x => if x.left == 0 then endOp s e.id 0 0 else s
  | none => s

/-! ### Copies (R385 to R389) -/

/-- Slice, row and byte of a position in a list of slices. -/
def locate : List Slice → Nat → Option (Slice × Nat × Nat)
  | [], _ => none
  | x :: l, n => if n < x.bytes then some (x, n / x.rowb, n % x.rowb) else locate l (n - x.bytes)

/-- Pavilion of an operation's context. -/
def EngOp.pav (s : State) (e : EngOp) : Nat := match ctx? s e.ctx with | some c => c.pav | none => 0

/-- A delivery into a scratchpad of a core: dropped with PROTECTION where the bank is fenced against the context (R58). -/
def deliverScratch (s : State) (e : EngOp) (g core addr : Nat) (bs : List Byte) (f : EngOp → EngOp) : State :=
  let n := bs.length
  if fencedFrom s (e.pav s) core addr then moved s e 0 fun x => addCode stProtection n (f x)
  else moved (bankWrite s core addr bs) e n fun x =>
    f { x with written := x.written + n, perCore := addKey (256 * core + g) n x.perCore, latest := max x.latest s.time }

/-- The bit of an element in the bitmap of `copy.sp`, and the number of ones before it, from the bitmap's bytes. -/
def bitsBefore (bs : List Byte) (i : Nat) : Bool × Nat :=
  let bit := fun k => (bs.getD (k / 8) 0).getLsbD (k % 8)
  (bit i, ((upto i).filter bit).length)

/-- Read bytes one at a time through the tile path. -/
def engReads (e : EngOp) (base off : Nat) : Nat → State → Except EngErr (List Byte) × State
  | 0, s => (.ok [], s)
  | n + 1, s =>
    let r := engReads e base off n s
    match r.1 with
    | .error x => (.error x, r.2)
    | .ok l =>
      let q := engRead r.2 e base (off + n) 1
      match q.1 with
      | .error x => (.error x, q.2)
      | .ok b => (.ok (l ++ b), q.2)

/-- The bytes that a copy writes at a position of a scratch row: the next piece of the global row, or one element of a compressed
tile (R388). -/
def copySource (s : State) (e : EngOp) (x : Slice) (r c n : Nat) : Except EngErr (List Byte) × State :=
  let base := (e.bases.getD x.gbase 0).toNat
  if e.kind == .sparse then
    let i := r * x.elems + c / x.esize
    let m := engReads e base x.goff (i / 8 + 1) s
    match m.1 with
    | .error y => (.error y, m.2)
    | .ok bs =>
      let b := bitsBefore bs i
      if b.1 then engReads e base (x.goff + x.mapBytes + b.2 * x.esize) x.esize m.2
      else (.ok (List.replicate x.esize 0#8), m.2)
  else engRead s e base (x.goff + r * x.gpitch + c) n

/-- Length of the next piece of a row: to the end of the row, of the 64-byte line on either side. -/
def pieceLen (e : EngOp) (x : Slice) (ga sa c : Nat) : Nat :=
  if e.kind == .sparse then x.esize else min (x.rowb - c) (min (64 - ga % 64) (64 - sa % 64))

/-- Global and scratch address of a position. -/
def rowAddrs (e : EngOp) (x : Slice) (alloc r c : Nat) : Nat × Nat :=
  ((e.bases.getD x.gbase 0).toNat + x.goff + r * x.gpitch + c, alloc + x.soff + r * x.spitch + c)

/-- One write of `copy.team`, `copy.sp` or `copy.out` (R384). -/
def copyStep (s : State) (e : EngOp) : State :=
  match team? s e.team, locate e.slices e.done with
  | some tm, some (x, r, c) =>
    let a := rowAddrs e x tm.allocBase r c
    let n := pieceLen e x a.1 a.2 c
    let step := fun (y : EngOp) => { y with done := y.done + n }
    let skip := fun (s : State) => moved s e 0 fun y => addCode stAbort n (step y)
    if e.kind == .out && fencedFrom s (e.pav s) tm.core a.2 then engFail s e x.group .fenced skip
    else if e.kind == .out then
      let q := engWrite s e (e.bases.getD x.gbase 0).toNat (x.goff + r * x.gpitch + c) (rdScratch s tm.core a.2 n)
      match q.1 with
      | .error y => engFail q.2 e x.group y skip
      | .ok _ => moved q.2 e n fun y => step { y with written := y.written + n }
    else
      let q := copySource s e x r c n
      match q.1 with
      | .error y => engFail q.2 e x.group y skip
      | .ok bs => deliverScratch q.2 e x.group tm.core a.2 bs step
  | _, _ => s

/-- An engine write is performed at its bank or home slice (R166). -/
def execEngineWrite (op : Nat) (host : HostStores) (s : State) : Host.Outcome State Fault Refusal :=
  let s := hostStores s host
  .next (match eng? s op with
    | some e => if runsNow s e && (e.kind == .team || e.kind == .sparse || e.kind == .out) then copyStep s e else s
    | none => s)

/-- One beat to the destination at position `p`: written when its generation matches, else dropped as STALE_TARGET (R387). DEDUCED: log entry 42. -/
def beatStep (s : State) (e : EngOp) (p : Nat) : State :=
  match team? s e.team, locate (e.slices.filter fun x => x.cmask.testBit p) (atKey p e.prog) with
  | some tm, some (x, r, c) =>
    let dest := (teamAt s tm p).filter fun u => e.gens.any fun g => g.1 == p && g.2 == u.gen
    let a := rowAddrs e x (match dest with | some u => u.allocBase | none => 0) r c
    let n := pieceLen e x a.1 a.2 c
    let step := fun (y : EngOp) => { y with prog := addKey p n y.prog }
    match dest with
    | none => moved s e 0 fun y => addCode stStale n (step y)
    | some u =>
      let q := copySource s e x r c n
      match q.1 with
      | .error y => engFail q.2 e x.group y fun s => moved s e 0 fun y => addCode stAbort n (step y)
      | .ok bs => deliverScratch q.2 e x.group u.core a.2 bs step
  | _, _ => s

/-- A multicast beat arrives at its destination (R387). -/
def execMulticastBeat (op p : Nat) (host : HostStores) (s : State) : Host.Outcome State Fault Refusal :=
  let s := hostStores s host
  .next (match eng? s op with
    | some e => if runsNow s e && e.kind == .multicast then beatStep s e p else s
    | none => s)

/-! ### Status words and pens (R166, R380, R392, R418) -/

/-- Pen updates of an operation: one for each destination core, pen and source, of the bytes written there. -/
def penUpdatesOf (s : State) (e : EngOp) : List PenUpdate :=
  let one := fun (k : Nat × Nat) => match e.slices.find? fun x => x.group == k.1 % 256 with
    | some x =>
      if !x.pv then none
      else match (team? s e.team).bind fun tm => if k.1 / 256 == tm.core then some tm else teamAt s tm (k.1 / 256 % 4) with
        | some u => some (PenUpdate.mk (k.1 / 256) (u.allocBase + x.pen) x.psrc k.2 e.id)
        | none => none
    | none => none
  (e.perCore.filterMap one).foldl (fun l u =>
    if l.any (fun v => v.core == u.core && v.addr == u.addr && v.src == u.src) then
      updWhere (fun v => v.core == u.core && v.addr == u.addr && v.src == u.src) (fun v => { v with bytes := v.bytes + u.bytes }) l
    else l ++ [u]) []

/-- The pen of an update lies in a bank that is fenced against the operation's context: the update is dropped (R58). -/
def penFenced (s : State) (u : PenUpdate) : Bool := match eng? s u.op with | some e => fencedFrom s (e.pav s) u.core u.addr | none => false

/-- One engine update at a pen's combiner. -/
def enginePen (s : State) (u : PenUpdate) : PenAnswer × State :=
  if penFenced s u then (.fenced, s) else
  let r := penEngine (genAt s u.core u.addr) u.src u.bytes (penAt s u.core u.addr)
  (r.2, settlePen (putPen s u.core u.addr r.1) u.core u.addr)

/-- The codes that the pens of an operation answer as they stand at `d` (R379). DEDUCED: log entry 39. -/
def penCodes (s : State) (us : List PenUpdate) (e : EngOp) : EngOp :=
  (us.foldl (fun (x : EngOp × State) u =>
    let r := enginePen x.2 u
    (match r.1 with
      | .counted => x.1
      | .uninit => addCode stPenUninit u.bytes x.1
      | .error => addCode stPenError u.bytes x.1
      | .fenced => addCode stProtection u.bytes x.1, r.2)) (e, s)).1

/-- The status word of an operation: the lowest code, and whether another occurred (R380). -/
def opStatus (e : EngOp) : Word :=
  match minBy Prod.fst e.codes with
  | none => statusWord 0 false e.written
  | some c => statusWord c.1 (1 < e.codes.length) c.2

/-- An operation's status word may be delivered: every write has been performed and completed before this tick, and every earlier
operation of its engine has delivered its word and its pen updates (R166, R383, R392). -/
def statusReady (s : State) (e : EngOp) : Bool :=
  e.ended && !e.delivered && !stopped s e && e.latest < s.time && e.acks.isEmpty &&
  (e.kind == .bulk || !(s.engines.any fun x => x.unit == e.unit && x.id ≠ e.id && x.started && x.order < e.order))

/-- An engine operation's status word is delivered at `d` and its locks are removed (R166). -/
def execEngineStatus (op : Nat) (s : State) : Host.Outcome State Fault Refusal :=
  .next (match eng? s op with
    | some e =>
      if !statusReady s e then s
      else
        let us := penUpdatesOf s e
        let s := { s with locks := s.locks.filter fun k => k.op ≠ some op }
        let s := deliverStatus s e.tids op e.rd (opStatus (penCodes s us e))
        if us.isEmpty then { s with engines := s.engines.filter fun x => x.id ≠ op }
        else modEng { s with penUpdates := s.penUpdates ++ us } op fun x => { x with delivered := true }
    | none => s)

/-- An engine's byte count reaches a pen's combiner, those of an operation in ascending source index (R378, R392). DEDUCED: log entry 39. -/
def execEnginePenUpdate (op : Nat) (s : State) : Host.Outcome State Fault Refusal :=
  .next (match minBy PenUpdate.src (s.penUpdates.filter fun u => u.op == op) with
    | none => s
    | some u =>
      let s := (enginePen { s with penUpdates := s.penUpdates.erase u } u).2
      if s.penUpdates.any (fun v => v.op == op) then s else { s with engines := s.engines.filter fun x => x.id ≠ op })

/-! ### Gathers (R393, R411) -/

/-- Fields of a gather's descriptor. -/
def gthQ (d : List Word) : Nat := fld (dscW d 0) 11 3
def gthSize (d : List Word) : Nat := 4 * 2 ^ fld (dscW d 0) 9 2
def gthGlobal (d : List Word) : Bool := fld (dscW d 0) 8 1 == 1
def gthIbase (d : List Word) : Nat := fld (dscW d 0) 4 4
def gthEbase (d : List Word) : Nat := fld (dscW d 0) 0 4

/-- The next index, from the scratchpad or through the tile path. -/
def gthIndex (s : State) (e : EngOp) (tm : Team) (d : List Word) : Except EngErr Nat × State :=
  if gthGlobal d then
    let r := engReads e (e.bases.getD (gthIbase d) 0).toNat (dscQ d 1 + 4 * e.done) 4 s
    (r.1.map leNat, r.2)
  else
    let a := tm.allocBase + dscW d 1 + 4 * e.done
    (if fencedFrom s (e.pav s) tm.core a then .error .fenced else .ok (leNat (rdScratch s tm.core a 4)), s)

/-- An element in a declared set ends the gather of a task (R393). -/
def gthStop (s : State) (e : EngOp) (g va : Nat) : State :=
  endOp (writeFault s (threadFault s (engLane s e g) Cause.taskState.code e.pc (BitVec.ofNat 80 va) 0)).2 e.id stFault e.left

/-- Read the next element and push it into the trough, unless the trough is full (R393); the host may store `between` the reads of index
and element. DEDUCED: log entry 42. -/
def gatherStep (s : State) (e : EngOp) (between : HostStores) : State :=
  match team? s e.team, e.descs with
  | some tm, (g, d) :: _ =>
    let x := qOf tm (gthQ d)
    if !qBound x || qSlots x ≤ qFilled x then s
    else
      let skip := fun (s : State) => endOp s e.id stAbort e.left
      let i := gthIndex s e tm d
      match i.1 with
      | .error y => engFail i.2 e g y skip
      | .ok n =>
        let base := (e.bases.getD (gthEbase d) 0).toNat
        let off := dscQ d 5 + n * dscW d 4
        if tm.family.isSome && meetsSet i.2 tm.ctx (base + off) (base + off + gthSize d) then gthStop i.2 e g (base + off)
        else
          let r := engReads e base off (gthSize d) (hostStores i.2 between)
          match r.1 with
          | .error y => engFail r.2 e g y skip
          | .ok bs =>
            let step := fun (y : EngOp) => { y with done := y.done + 1 }
            if fencedFrom r.2 (e.pav r.2) tm.core (slotAt tm x (qHead x + qFilled x)) then moved r.2 e 0 fun y => addCode stProtection (gthSize d) (step y)
            else moved (pushSlot r.2 tm (gthQ d) bs) e (gthSize d) fun y =>
              step { y with written := y.written + gthSize d, latest := max y.latest s.time }
  | _, _ => s

/-- The gather engine reads the next element and pushes it (R393). -/
def execGatherPush (op : Nat) (host between : HostStores) (s : State) : Host.Outcome State Fault Refusal :=
  let s := hostStores s host
  .next (match eng? s op with
    | some e => if runsNow s e && e.kind == .gather then gatherStep s e between else s
    | none => s)

/-! ### The service of troughs (R396, R397) -/

/-- No fence of the thread before a pop or push holds it (R162, R396). -/
def reqFree (s : State) (q : TroughReq) : Bool :=
  match thread? s q.tid with
  | none => true
  | some th => th.queue.all fun a => match a.op with
    | .fence f _ => q.tok < a.id || (match f with | .rel _ => q.pop | .acq => !q.pop | _ => false)
    | _ => true

/-- A pop or push at a slot in a bank fenced against the thread's context: the thread owes PROTECTION at the slot's offset (R58). -/
def fencedReq (s : State) (tm : Team) (r : TroughReq) (a : Nat) : State :=
  let s := { s with troughs := s.troughs.erase r }
  modThread s r.tid fun th => { th with pend := th.pend.filter (fun p => p.tok ≠ r.tok), storesOut := th.storesOut.filter fun k => k ≠ r.tok
                                        owed := some ⟨.protection, BitVec.ofNat 32 (a - tm.allocBase), 0⟩ }

/-- Pavilion of a team's context. -/
def teamPav (s : State) (tm : Team) : Nat := match ctx? s tm.ctx with | some c => c.pav | none => 0

/-- Serve a pop: the head slot, or all ones when the trough is empty and closed. -/
def servePop (s : State) (tm : Team) (r : TroughReq) : State :=
  let x := qOf tm r.q
  let s' := { s with troughs := s.troughs.erase r }
  if qFilled x ≠ 0 && fencedFrom s (teamPav s tm) tm.core (slotAt tm x (qHead x)) then fencedReq s tm r (slotAt tm x (qHead x))
  else if qFilled x ≠ 0 then
    let w := BitVec.ofNat 80 (leNat (rdScratch s tm.core (slotAt tm x (qHead x)) 4))
    deliverRegs (setQ s' tm.id r.q (qCounts x (qClosed x) (qFilled x - 1) ((qHead x + 1) % qSlots x))) r.tid r.tok [(.v r.rd, w)]
  else if qClosed x then deliverRegs s' r.tid r.tok [(.v r.rd, 0xFFFFFFFF)]
  else s

/-- Serve a push into a free slot. -/
def servePush (s : State) (tm : Team) (r : TroughReq) : State :=
  let x := qOf tm r.q
  let a := slotAt tm x (qHead x + qFilled x)
  if qSlots x ≤ qFilled x then s
  else if fencedFrom s (teamPav s tm) tm.core a then fencedReq s tm r a
  else
    let s := pushSlot { s with troughs := s.troughs.erase r } tm r.q (leBytes 4 r.val.toNat)
    raiseWct (modThread s r.tid fun th => { th with storesOut := th.storesOut.filter fun k => k ≠ r.tok }) r.tid (s.time + 1) (s.time + 1) 0 0

/-- The first queued pop (`pop` 1) or push of a trough is served when it can be (R396). -/
def execTroughServe (team q pop : Nat) (s : State) : Host.Outcome State Fault Refusal :=
  .next (match team? s team, s.troughs.find? fun r => r.tid.team == team && r.q == q && r.pop == (pop == 1) with
    | some tm, some r =>
      if qBound (qOf tm q) && reqFree s r then (if r.pop then servePop s tm r else servePush s tm r) else s
    | _, _ => s)

/-! ### Bulk engines (R47, R55, R391) -/

/-- A context holds a lease on an engine that its partition owns. -/
def hasLease (s : State) (ctx eng : Nat) : Bool :=
  s.engLeases.any (fun l => l.eng == eng && l.ctx == ctx && decide (s.time < l.expiry)) &&
  (match ctx? s ctx with | some c => (ownOf s c.part).engines.contains eng | none => false)

/-- Source and destination of the next bytes of a bulk operation, and their number. DESIGN CHOICE: log entry 41. -/
def bulkPiece (e : EngOp) : Nat × Nat × Nat × Nat × Nat :=
  let d := (e.descs.map Prod.snd).headD []
  let sb := (e.bases.getD (fld (dscW d 0) 0 4) 0).toNat
  let db := (e.bases.getD (fld (dscW d 0) 4 4) 0).toNat
  let so := dscQ d 1 + e.done
  let dO := dscQ d 3 + e.done
  (sb, so, db, dO, min (e.total - e.done) (min (64 - (sb + so) % 64) (64 - (db + dO) % 64)))

/-- Page requests outstanding on the function of a context (R25). -/
def priOf (s : State) (ctx : Nat) : Nat :=
  let fn := fun (c : Nat) => (ctx? s c).map Context.msix
  (s.host.pri.filter fun p => match eng? s p.1 with | some x => fn x.ctx == fn ctx | none => false).length

/-- Move the next bytes; `ats` says that the host's translation of a region-2 page is there, else a PRI request is made (R47). -/
def bulkStep (s : State) (e : EngOp) (ats : Bool) : State :=
  let (sb, so, db, dO, n) := bulkPiece e
  let g := (e.descs.map Prod.fst).headD 0
  let step := fun (y : EngOp) => { y with done := y.done + n }
  let skip := fun (s : State) => moved s e 0 fun y => addCode stAbort n (step y)
  let host := if regionNo (sb + so) == 2 then some (sb + so) else if regionNo (db + dO) == 2 then some (db + dO) else none
  match host, ats with
  | some a, false => if priOf s e.ctx < 256 then { s with host := { s.host with pri := s.host.pri ++ [(e.id, a)] } } else s
  | _, _ =>
    let r := engRead s e sb so n
    match r.1 with
    | .error y => engFail r.2 e g y skip
    | .ok bs =>
      let q := engWrite r.2 e db dO bs
      match q.1 with
      | .error y => engFail q.2 e g y skip
      | .ok _ => moved q.2 e n fun y => step { y with written := y.written + n }

/-- A bulk engine performs the operation at the head of its queue, or reports NO_LEASE (R391); one that it has taken up runs to its end
when the lease ends (R55). -/
def execBulkTransfer (eng : Nat) (ats : Bool) (host : HostStores) (s : State) : Host.Outcome State Fault Refusal :=
  let s := hostStores s host
  .next (match (s.bulk.filterMap (eng? s)).find? fun e => e.unit == 1000000 + eng with
    | some e =>
      if e.ended || e.paused.isSome || stopped s e || s.host.pri.any (fun p => p.1 == e.id) then s
      else if !e.begun && !hasLease s e.ctx eng then endOp s e.id stNoLease e.total
      else bulkStep (modEng s e.id fun x => { x with begun := true }) e ats
    | none => s)

/-- The host answers a PRI request: the transfer goes on, or ends with the refusal and a PAGE_FAULT record (R47). DESIGN CHOICE: log entry 41. -/
def execPriResponse (op : Nat) (granted : Bool) (s : State) : Host.Outcome State Fault Refusal :=
  .next (match s.host.pri.find? fun p => p.1 == op, eng? s op with
    | some p, some e =>
      let s := { s with host := { s.host with pri := s.host.pri.filter fun x => x.1 ≠ op } }
      if granted then s
      else
        let g := (e.descs.map Prod.fst).headD 0
        endOp (writeFault s (threadFault s (engLane s e g) Cause.pageFault.code e.pc (BitVec.ofNat 80 p.2) 0)).2 op stFault e.left
    | some _, none => { s with host := { s.host with pri := s.host.pri.filter fun x => x.1 ≠ op } }
    | none, _ => s)

/-! ### REPLAY and ABORT of an engine (R149, R382) -/

/-- Retry the byte at which an operation pauses, by a fresh walk. -/
def replayEngine (s : State) (id : Nat) : State :=
  match eng? s id with
  | none => s
  | some e =>
    if e.paused.isNone then s
    else match ctx? s e.ctx with
      | none => s
      | some c =>
        let r := translateNow s true (.core e.core) c e.faultVa e.faultKind
        match r.1 with
        | .ok _ => modEng r.2 id fun x => { x with paused := none }
        | .error f => engFail r.2 e ((e.descs.map Prod.fst).headD 0) (.fault f e.faultVa e.faultKind) fun s => s

/-- End a paused operation with FAULT. -/
def abortEngine (s : State) (id : Nat) : State :=
  match eng? s id with
  | some e => if e.paused.isSome then endOp s id stFault e.left else s
  | none => s

end Sys2Proof.Machine
end

