-- ==== Sys2Proof/Machine/Trough.lean ====
section
/-! DEFINITION. The bulk copy, gather, trough and lock-query families (R303, R390, R391, R393 to R397). -/

namespace Sys2Proof.Machine

/-! ### Operands and results of group and team forms (R348, R394) -/

/-- The eight scalar registers of a descriptor. -/
def descOf (g : Group) (a : Nat) : List Word := (upto 8).map fun i => rdS g (a + i)

/-- Run `f` for each group with admitted lanes: its lowest admitted lane, and the admitted lanes of the group. -/
def perGroupAll (f : Lane → List Tid → State → State) (word : Word) (sl : Slot) (l : List Tid) (s : State) : State :=
  (groupLeaders l).foldl (fun s t => match lane? s t sl.fid word with
    | some ln => f ln (l.filter fun u => u.group == t.group) s
    | none => s) s

/-- Write one vector result in several threads at issue + `lat`. -/
def writeAllV (s : State) (sl : Slot) (lat : Nat) (ts : List Tid) (d : Nat) (x : Word) : State :=
  ts.foldl (fun s t => writeLane s sl.core sl.fid lat t [(.v d, x.setWidth 80)]) s

/-- Uses of an engine form with a descriptor at `a`. -/
def usesEngine (d : BitVec 7) (a : BitVec 6) : Uses := { Uses.none cEngine with wv := [(d.toNat, 1)], rs := (upto 8).map (a.toNat + ·), lead := 1 }

/-! ### copy.bulk (R391) -/

/-- The checks of a bulk descriptor by the performing lane. -/
def bulkTrap (s : State) (t : Tid) (tm : Team) (d : List Word) : Option MemTrap :=
  let w := fun (t : Trap) => some (MemTrap.mk t 0 0)
  let sb := engBase tm (fld (dscW d 0) 0 4)
  let db := engBase tm (fld (dscW d 0) 4 4)
  let so := dscQ d 1
  let dO := dscQ d 3
  let n := dscQ d 5
  match ([(0, dscW d 0 / 65536 ≠ 0), (1, so % 64 ≠ 0), (3, dO % 64 ≠ 0), (5, n == 0 || n % 64 ≠ 0 || 2 ^ 40 < n), (7, dscW d 7 ≠ 0)] :
      List (Nat × Bool)).find? fun c => c.2 with
  | some c => w (regTrap .illegalOp c.1 d)
  | none =>
    match (slotBaseTrap s t tm (fld (dscW d 0) 0 4) so).or (slotBaseTrap s t tm (fld (dscW d 0) 4 4) dO) with
    | some x => some (MemTrap.mk x ((x.hi ++ x.lo).setWidth 80) 0)
    | none =>
    if (sb + so) % 4 ≠ 0 || (db + dO) % 4 ≠ 0 then w (regTrap .misalign 0 d)
    else if overlap (sb + so) n (db + dO) n then w (regTrap .illegalOp 3 d)
    else if (formAddr sb so).isNone || (formAddr sb (so + n - 1)).isNone then some (regionTrap ((sb + so) % 2 ^ 80) kindRead)
    else if (formAddr db dO).isNone || (formAddr db (dO + n - 1)).isNone then some (regionTrap ((db + dO) % 2 ^ 80) kindWrite)
    else ((spanTrap s t tm false (sb + so, sb + so + n)).or (spanTrap s t tm true (db + dO, db + dO + n))).map fun x => MemTrap.mk x ((x.hi ++ x.lo).setWidth 80) 0

/-- Issue one group's bulk operation. -/
def bulkEffect (d a : Nat) (l : Lane) (ts : List Tid) (s : State) : State :=
  let x := descOf l.g a
  match bulkTrap s l.tid l.tm x with
  | some m => takeMemTrap s l.tid m
  | none => addEngine s (newOp s .bulk l.tm ts d [(l.tid.group, x)] l.th.pc.off)

/-! ### gath (R393) -/

/-- The checks of a gather's descriptor by the performing lane. -/
def gathTrap (s : State) (t : Tid) (tm : Team) (d : List Word) : Option Trap :=
  let ib := engBase tm (gthIbase d)
  let eb := engBase tm (gthEbase d)
  let n := dscW d 3
  let x := qOf tm (gthQ d)
  match ([(0, dscW d 0 / 16384 ≠ 0 || fld (dscW d 0) 9 2 == 3), (1, dscW d 1 % 4 ≠ 0), (2, !gthGlobal d && dscW d 2 ≠ 0),
      (3, n == 0 || 65536 < n), (4, dscW d 4 % gthSize d ≠ 0), (5, dscQ d 5 % gthSize d ≠ 0), (7, dscW d 7 ≠ 0)] :
      List (Nat × Bool)).find? fun c => c.2 with
  | some c => some (regTrap .illegalOp c.1 d)
  | none =>
    match (if gthGlobal d then slotBaseTrap s t tm (gthIbase d) (dscQ d 1) else none).or (slotBaseTrap s t tm (gthEbase d) (dscQ d 5)) with
    | some tr => some tr
    | none =>
    if (gthGlobal d && (ib + dscQ d 1) % 4 ≠ 0) || (eb + dscQ d 5) % 4 ≠ 0 then some (regTrap .misalign 0 d)
    else if !gthGlobal d && tm.allocSize < dscW d 1 + 4 * n then some (regTrap .scratchBounds 1 d)
    else if !qBound x then some (regTrap .queueState 0 d)
    else if qSlotBytes x < gthSize d then some (regTrap .illegalOp 0 d)
    else if qClosed x then some (regTrap .queueState 0 d)
    else
      let idx := if gthGlobal d then spanTrap s t tm false (ib + dscQ d 1, ib + dscQ d 1 + 4 * n) else none
      let el := if isWorld tm && isRemote eb then some (addrTrap .worldExternal ((eb + dscQ d 5) % 2 ^ 80)).trap else none
      idx.or (el.or (if meetsShadow s [engLock 0 tm.id tm.ctx tm.core true true (tm.allocBase + qBase x) (qSlots x * qSlotBytes x)]
        then some (openTrap s t .rangeConflict) else none))

/-- Issue one group's gather. -/
def gathEffect (d a : Nat) (l : Lane) (ts : List Tid) (s : State) : State :=
  let x := descOf l.g a
  match gathTrap s l.tid l.tm x with
  | some tr => takeTrap s l.tid tr
  | none => addEngine s (newOp s .gather l.tm ts d [(l.tid.group, x)] l.th.pc.off)

/-! ### Troughs (R394, R397) -/

/-- Uses of a trough form, made once for the team. -/
def usesTrough : Uses := { Uses.none cEngine with lead := 2 }

/-- The fields of tr.bind's operand, checked; the binding. DEDUCED: log entry 42. -/
def bindTrap (s : State) (t : Tid) (tm : Team) (q : Nat) (x : Word) : Except Trap (BitVec 64) :=
  let logn := (x.extractLsb' 21 4).toNat
  let code := (x.extractLsb' 18 3).toNat
  let base := (x.extractLsb' 0 18).toNat
  if x.extractLsb' 25 7 ≠ 0#7 || 12 < logn || 4 < code then .error (openTrap s t .illegalOp)
  else if base % (4 * 2 ^ code) ≠ 0 then .error ⟨.misalign, x, 0⟩
  else if tm.allocSize < base + 2 ^ logn * (4 * 2 ^ code) then .error ⟨.scratchBounds, BitVec.ofNat 32 base, 0⟩
  else if qBound (qOf tm q) then .error (openTrap s t .queueState)
  else .ok (qMake false 0 0 logn code base)

/-- A form that waits until no engine pushes into the trough: unbind (0) and reset (1) (R394). -/
def troughWait (op q : Nat) (l : Lane) (s : State) : State :=
  if !qBound (qOf l.tm q) then takeTrap s l.tid (openTrap s l.tid .queueState)
  else if gathering s l.tid.team q then startWait s l.tid (.trough op q)
  else troughEffect s l.tid.team op q

/-- gath.close: the thread goes on; CLOSED follows the gathers already started (R397). -/
def closeEffect (q : Nat) (l : Lane) (s : State) : State :=
  if !qBound (qOf l.tm q) then takeTrap s l.tid (openTrap s l.tid .queueState) else closeTrough s l.tid.team q

/-- Write a count of a bound trough to vd of every admitted thread. -/
def troughRead (d q : Nat) (f : BitVec 64 → Nat) (word : Word) (sl : Slot) (l : List Tid) (s : State) : State :=
  perTeam (fun ln s =>
    let x := qOf ln.tm q
    if !qBound x then takeTrap s ln.tid (openTrap s ln.tid .queueState)
    else writeAllV s sl 4 l d (BitVec.ofNat 32 (f x))) word sl l s

/-! ### pop and push (R303, R396) -/

/-- A pop joins the trough's queue, its destination pending. -/
def popEffect (d q : Nat) (l : Lane) (s : State) : State :=
  if !qBound (qOf l.tm q) then takeTrap s l.tid (openTrap s l.tid .queueState)
  else
    let id := s.nextId
    modThread { s with nextId := id + 1, troughs := s.troughs ++ [⟨l.tid, q, true, d, 0, id⟩] } l.tid fun th =>
      { th with pend := th.pend ++ [⟨.v d, .load, id⟩] }

/-- A push joins the trough's queue and counts under WAIT S; a closed trough traps. -/
def pushEffect (q a : Nat) (l : Lane) (s : State) : State :=
  if !qBound (qOf l.tm q) || qClosed (qOf l.tm q) then takeTrap s l.tid (openTrap s l.tid .queueState)
  else
    let id := s.nextId
    modThread { s with nextId := id + 1, troughs := s.troughs ++ [⟨l.tid, q, false, 0, rdV l.th a, id⟩] } l.tid fun th =>
      { th with storesOut := th.storesOut ++ [id] }

/-! ### rlk.q (R390) -/

/-- The word of rlk.q for a range of window w0. -/
def lockWord (s : State) (tm : Team) (a n : Nat) : Word :=
  let lo := tm.allocBase + a
  let meets := fun (w : Bool) => n ≠ 0 && s.locks.any fun k => k.core == tm.core && k.scratch && k.write == w && lo < k.hi && k.lo < lo + n
  BitVec.ofNat 32 (256 * (64 - heldLocks s tm.core) + (if meets false then 2 else 0) + if meets true then 1 else 0)

/-- One group's lock query (R284, R390). -/
def lockQuery (d a b : Nat) (sl : Slot) (l : Lane) (ts : List Tid) (s : State) : State :=
  let x := (rdS l.g a).toNat
  let n := (rdS l.g b).toNat
  if 2 ^ 18 ≤ x || (n ≠ 0 && l.tm.allocSize < x + n) then takeTrap s l.tid ⟨.scratchBounds, rdS l.g a, 0⟩
  else writeAllV s sl 4 ts d (lockWord s l.tm x n)

/-! ### The instructions -/

/-- Pop a trough slot into vd (R303). -/
def execPop (d a : BitVec 7) (st : BitVec 2) (s : State) : Host.Outcome State Fault Refusal :=
  .next (issue (encA 10#6 3#3 d a 0#7 st) st { Uses.none cAlu with wv := [(d.toNat, 1)] } (fun sl l s => perLane (popEffect d.toNat a.toNat) (encA 10#6 3#3 d a 0#7 st) sl l s) s)

/-- Push va into a trough (R303). -/
def execPush (d a : BitVec 7) (st : BitVec 2) (s : State) : Host.Outcome State Fault Refusal :=
  .next (issue (encA 10#6 4#3 d a 0#7 st) st { Uses.none cAlu with rv := [(a.toNat, 1)] } (fun sl l s => perLane (pushEffect d.toNat a.toNat) (encA 10#6 4#3 d a 0#7 st) sl l s) s)

/-- Query the range-lock table (R390). -/
def execRlkQ (d : BitVec 7) (a b : BitVec 6) (st : BitVec 2) (s : State) : Host.Outcome State Fault Refusal :=
  .next (issue (encE 50#6 4#5 d a b st) st { Uses.none cEngine with wv := [(d.toNat, 1)], rs := [a.toNat, b.toNat], lead := 1 } (fun sl l s => perGroupAll (lockQuery d.toNat a.toNat b.toNat sl) (encE 50#6 4#5 d a b st) sl l s) s)

/-- Start a transfer between two global ranges on a bulk engine (R391). -/
def execCopyBulk (d : BitVec 7) (a : BitVec 6) (st : BitVec 2) (s : State) : Host.Outcome State Fault Refusal :=
  .next (issue (encE 50#6 5#5 d a 0#6 st) st (usesEngine d a) (fun sl l s => perGroupAll (bulkEffect d.toNat a.toNat) (encE 50#6 5#5 d a 0#6 st) sl l s) s)

/-- Start a gather into a trough (R393). -/
def execGath (d : BitVec 7) (a : BitVec 6) (st : BitVec 2) (s : State) : Host.Outcome State Fault Refusal :=
  .next (issue (encE 51#6 0#5 d a 0#6 st) st (usesEngine d a) (fun sl l s => perGroupAll (gathEffect d.toNat a.toNat) (encE 51#6 0#5 d a 0#6 st) sl l s) s)

/-- Close a trough once its gathers have pushed (R397). -/
def execGathClose (a : BitVec 6) (st : BitVec 2) (s : State) : Host.Outcome State Fault Refusal :=
  .next (issue (encE 51#6 1#5 0#7 a 0#6 st) st usesTrough (fun sl l s => perTeam (closeEffect a.toNat) (encE 51#6 1#5 0#7 a 0#6 st) sl l s) s)

/-- Bind a queue register to a trough (R394). -/
def execTrBind (a b : BitVec 6) (st : BitVec 2) (s : State) : Host.Outcome State Fault Refusal :=
  .next (issue (encE 52#6 0#5 0#7 a b st) st { usesTrough with rs := [b.toNat] } (fun sl l s => perTeam (fun ln s => match bindTrap s ln.tid ln.tm a.toNat (rdS ln.g b.toNat) with | .error tr => takeTrap s ln.tid tr | .ok x => setQ s ln.tid.team a.toNat x) (encE 52#6 0#5 0#7 a b st) sl l s) s)

/-- Unbind a queue register (R394). -/
def execTrUnbind (a : BitVec 6) (st : BitVec 2) (s : State) : Host.Outcome State Fault Refusal :=
  .next (issue (encE 52#6 1#5 0#7 a 0#6 st) st usesTrough (fun sl l s => perTeam (troughWait 0 a.toNat) (encE 52#6 1#5 0#7 a 0#6 st) sl l s) s)

/-- Read the filled slots of a trough (R394). -/
def execTrFilled (d : BitVec 7) (a : BitVec 6) (st : BitVec 2) (s : State) : Host.Outcome State Fault Refusal :=
  .next (issue (encE 52#6 2#5 d a 0#6 st) st { usesTrough with wv := [(d.toNat, 1)], lead := 0 } (fun sl l s => troughRead d.toNat a.toNat qFilled (encE 52#6 2#5 d a 0#6 st) sl l s) s)

/-- Read the free slots of a trough (R394). -/
def execTrFree (d : BitVec 7) (a : BitVec 6) (st : BitVec 2) (s : State) : Host.Outcome State Fault Refusal :=
  .next (issue (encE 52#6 3#5 d a 0#6 st) st { usesTrough with wv := [(d.toNat, 1)], lead := 0 } (fun sl l s => troughRead d.toNat a.toNat (fun x => qSlots x - qFilled x) (encE 52#6 3#5 d a 0#6 st) sl l s) s)

/-- Empty and reopen a trough (R394). -/
def execTrReset (a : BitVec 6) (st : BitVec 2) (s : State) : Host.Outcome State Fault Refusal :=
  .next (issue (encE 52#6 4#5 0#7 a 0#6 st) st usesTrough (fun sl l s => perTeam (troughWait 1 a.toNat) (encE 52#6 4#5 0#7 a 0#6 st) sl l s) s)

end Sys2Proof.Machine
end

