-- ==== Sys2Proof/Machine/Matrix.lean ====
section
/-! DEFINITION. The matrix units: tiles, the format word and the parameter block, the queue and the chunk arithmetic
(R257 to R259, R398 to R410). -/

namespace Sys2Proof.Machine

/-! ### Tiles (R399) -/

/-- Elements of a tile in row order, all +0.0. -/
def tileZero : List Word := List.replicate 1024 0#32

/-- A tile of a quadrant, when it is claimed. -/
def tile? (s : State) (core quad n : Nat) : Option Tile := s.tiles.find? fun t => t.core == core && t.quad == quad && t.tile == n

/-- Another team has claimed a tile. -/
def tileTaken (s : State) (core quad team n : Nat) : Bool := match tile? s core quad n with | some t => t.team ≠ team | none => false

/-- Claim a tile that is unclaimed: every element is +0.0. -/
def claimTile (s : State) (core quad team n : Nat) : State :=
  if (tile? s core quad n).isSome then s else { s with tiles := s.tiles ++ [⟨core, quad, n, team, tileZero⟩] }

/-- Elements of a tile, and writing them. -/
def tileVals (s : State) (core quad n : Nat) : List Word := match tile? s core quad n with | some t => t.vals | none => tileZero
def setTile (s : State) (core quad n : Nat) (v : List Word) : State :=
  { s with tiles := updWhere (fun t => t.core == core && t.quad == quad && t.tile == n) (fun t => { t with vals := v }) s.tiles }

/-! ### The format word (R402) -/

/-- Element format of a code. -/
def elemFmt (c : Nat) : Fmt :=
  match c with | 0 => fBF16 | 1 => fF16 | 2 => fF8A | 3 => fF8B | 4 => .int true 8 | 5 => .int true 4 | _ => .l4

def fmtA (w : Word) : Nat := fld w.toNat 0 4
def fmtB (w : Word) : Nat := fld w.toNat 4 4
def fmtABL (w : Word) : Nat := fld w.toNat 8 4
def fmtBBL (w : Word) : Nat := fld w.toNat 12 4
def fmtB16 (w : Word) : Bool := fld w.toNat 16 4 == 1

/-- No reserved value. -/
def fmtLegal (w : Word) : Bool := fmtA w < 7 && fmtB w < 7 && fmtABL w < 6 && fmtBBL w < 6 && fld w.toNat 16 4 < 2 && w.toNat / 2 ^ 20 == 0

/-- Widths of the elements, and the chunk depth. -/
def widthA (w : Word) : Nat := (elemFmt (fmtA w)).width
def widthB (w : Word) : Nat := (elemFmt (fmtB w)).width
def depthK (w : Word) : Nat := if max (widthA w) (widthB w) == 16 then 32 else if max (widthA w) (widthB w) == 8 then 64 else 128

/-- Block length of a code: 0 for none. -/
def blockLen (c : Nat) : Nat := if c == 0 then 0 else 4 * 2 ^ c

/-- Bytes of a scale. -/
def scaleBytes (w : Word) : Nat := if fmtB16 w then 2 else 1

/-! ### The parameter block (R404, R405) -/

/-- Whether operand `b` (false: A) comes from registers or is transposed. -/
def isReg (p : List Word) (b : Bool) : Bool := (p.getD 7 0).getLsbD (if b then 7 else 6)
def isTrans (p : List Word) (b : Bool) : Bool := (p.getD 7 0).getLsbD (if b then 5 else 4)
/-- Offset, rotation code, tile pitch and row pitch field of an operand. -/
def opOff (p : List Word) (b : Bool) : Nat := dscW p (if b then 2 else 0)
def opRot (p : List Word) (b : Bool) : Nat := fld (dscW p (if b then 3 else 1)) 28 4
def opTp (p : List Word) (b : Bool) : Nat := fld (dscW p (if b then 3 else 1)) 16 12
def opPf (p : List Word) (b : Bool) : Nat := fld (dscW p (if b then 3 else 1)) 0 16
/-- Element width, and whether stored rows run over `k`. -/
def opWidth (w : Word) (b : Bool) : Nat := if b then widthB w else widthA w
def alongK (p : List Word) (b : Bool) : Bool := isTrans p b == b
/-- Stored rows per chunk and the length of one. -/
def opRows (w : Word) (p : List Word) (b : Bool) : Nat := if alongK p b then 32 else depthK w
def rowLen (w : Word) (p : List Word) (b : Bool) : Nat := (if alongK p b then depthK w else 32) * opWidth w b / 8
/-- Row pitch: 0 is the row length. -/
def opPitch (w : Word) (p : List Word) (b : Bool) : Nat := if opPf p b == 0 then rowLen w p b else opPf p b
/-- Skew of a stored row. -/
def skew (p : List Word) (b : Bool) (r : Nat) : Nat := r % 2 ^ opRot p b * 64
/-- Number of chunks, and tile. -/
def chunkCount (p : List Word) : Nat := dscW p 6
def tileOf (p : List Word) : Nat := fld (dscW p 7) 0 3
/-- Block-length code of an operand. -/
def opBl (w : Word) (b : Bool) : Nat := if b then fmtBBL w else fmtABL w
/-- Registers per lane of a register operand. -/
def regSpan (w : Word) (b : Bool) : Nat := depthK w * opWidth w b / 32

/-- Lowest byte and length of the scratch range of an operand over all chunks. DEDUCED: log entry 43. -/
def operandSpan (w : Word) (p : List Word) (b : Bool) : Nat × Nat :=
  let top := (upto (opRows w p b)).foldl (fun m r => max m (opPitch w p b * r + skew p b r)) 0
  (opOff p b, 64 * opTp p b * (chunkCount p - 1) + top + rowLen w p b)

/-- The same for the scales of an operand. -/
def scaleSpan (w : Word) (p : List Word) (b : Bool) : Nat × Nat :=
  (dscW p (if b then 5 else 4), 32 * ((chunkCount p * depthK w - 1) / blockLen (opBl w b) + 1) * scaleBytes w)

/-- Scratch ranges of an operation with the register that names each: A, B, A scales, B scales. -/
def mmaSpans (w : Word) (p : List Word) : List (Nat × Nat × Nat) :=
  (if isReg p false then [] else [(0, operandSpan w p false)]) ++ (if isReg p true then [] else [(2, operandSpan w p true)]) ++
  (if opBl w false == 0 then [] else [(4, scaleSpan w p false)]) ++ (if opBl w true == 0 then [] else [(5, scaleSpan w p true)])

/-- ILLEGAL_OP conditions of R404 step 1, per register. -/
def mmaIllegal (regs : Nat) (w : Word) (p : List Word) : List (Nat × Bool) :=
  let one : Bool → List (Nat × Bool) := fun b => [((if b then 2 else 0), isReg p b && regs < opOff p b + regSpan w b),
    ((if b then 3 else 1), if isReg p b then dscW p (if b then 3 else 1) ≠ 0 else 4 < opRot p b || (opPf p b ≠ 0 && opPf p b < rowLen w p b))]
  one false ++ one true ++
  [(6, chunkCount p == 0 || 65535 < chunkCount p || ((isReg p false || isReg p true) && chunkCount p ≠ 1)),
   (7, dscW p 7 / 256 ≠ 0 || (isReg p false && isTrans p false) || (isReg p true && isTrans p true))]

/-- MISALIGN conditions of step 2. -/
def mmaMisaligned (w : Word) (p : List Word) : List (Nat × Bool) :=
  let one : Bool → List (Nat × Bool) := fun b => [((if b then 2 else 0), opOff p b % (if isReg p b then 4 else 16) ≠ 0),
    ((if b then 3 else 1), !isReg p b && opPf p b % 16 ≠ 0)]
  one false ++ one true ++ [(4, opBl w false ≠ 0 && dscW p 4 % scaleBytes w ≠ 0), (5, opBl w true ≠ 0 && dscW p 5 % scaleBytes w ≠ 0)]

/-- A scratch range of a team touches a bank fenced against it. -/
def spanFenced (s : State) (tm : Team) (lo n : Nat) : Bool :=
  let pav := match ctx? s tm.ctx with | some c => c.pav | none => 0
  (upto 32).any fun b => (tm.allocBase + lo) / 8192 ≤ b && b * 8192 < tm.allocBase + lo + n && fencedFrom s pav tm.core (b * 8192)

/-- The first failing condition of a list. -/
def firstReg (l : List (Nat × Bool)) : Option Nat := (l.find? fun c => c.2).map Prod.fst

/-- Checks 3 to 6 of R403 for a group. DEDUCED: log entry 43. -/
def mmaTrap (s : State) (tm : Team) (g : Group) (w : Word) (p : List Word) : Option Trap :=
  if !fmtLegal w then some ⟨.illegalOp, w, 0⟩
  else match firstReg (mmaIllegal g.regs w p) with
    | some i => some (regTrap .illegalOp i p)
    | none => match firstReg (mmaMisaligned w p) with
      | some i => some (regTrap .misalign i p)
      | none =>
        let sp := mmaSpans w p
        match sp.find? fun x => spanFenced s tm x.2.1 x.2.2 with
        | some x => some (regTrap .protection x.1 p)
        | none => match sp.find? fun x => tm.allocSize < x.2.1 + x.2.2 with
          | some x => some (regTrap .scratchBounds x.1 p)
          | none =>
            if tileTaken s tm.core g.quad tm.id (tileOf p) then some ⟨.protection, BitVec.ofNat 32 (tileOf p), 0⟩
            else match sp.find? fun x => lockHit s tm.core tm.ctx true false (tm.allocBase + x.2.1) x.2.2 with
              | some x => some ⟨.rangeConflict, BitVec.ofNat 32 x.2.1, 0⟩
              | none => none

/-! ### The queue (R400, R401) -/

/-- Operations of a quadrant's matrix queue. -/
def matQueue (s : State) (core quad : Nat) : List MatOp := s.matrix.filter fun m => m.core == core && m.quad == quad

/-- The queue is full. -/
def matFull (s : State) (core quad : Nat) : Bool := 8 ≤ (matQueue s core quad).length

/-- All chunks of an mma have run: only its status word is to come. -/
def MatOp.chunksDone (m : MatOp) : Bool := m.kind == .mma && m.started && chunkCount m.params ≤ m.chunk

/-- The operation at the head: the first that still has work. -/
def matHead (s : State) (core quad : Nat) : Option MatOp := (matQueue s core quad).find? fun m => !m.chunksDone

/-- Tiles that an operation names. -/
def MatOp.tilesNamed (m : MatOp) : List Nat :=
  match m.kind with
  | .mma => [tileOf m.params]
  | .clear => (upto 8).filter fun i => (m.params.getD 0 0).getLsbD i
  | _ => [fld (dscW m.params 0) 0 3]

/-- Enter an operation: it claims its tiles, and its destinations are pending in the threads that receive them. -/
def enterMatrix (s : State) (m : MatOp) : State :=
  let s := m.tilesNamed.foldl (fun s n => claimTile s m.core m.quad m.team n) { s with matrix := s.matrix ++ [m], nextId := s.nextId + 1 }
  m.tids.foldl (fun s t => modThread s t fun th => { th with pend := th.pend ++ m.dests.map fun d => ⟨.v d, .engine, m.tok⟩ }) s

/-- A new operation of a group. -/
def newMat (s : State) (k : MatKind) (tm : Team) (g : Nat) (quad : Nat) (tids : List Tid) (rd : Nat) (w : Word) (p : List Word) : MatOp :=
  { id := s.nextId, kind := k, core := tm.core, quad := quad, team := tm.id, group := g, tids := tids, rd := rd, word := w, params := p
    regsA := [], regsB := [], started := false, chunk := 0, flags := 0, tok := s.nextId }

/-! ### mx.mma (R403) -/

/-- Values of an arrival: va, the parameter block, and 16 registers of A and of B where they come from registers. -/
def mmaVals (va k : Nat) (l : Lane) : List Word :=
  let p := descOf l.g k
  let regs := fun (b : Bool) => (upto 16).map fun i => if isReg p b then rdV l.th (opOff p b + i) else 0#32
  rdV l.th va :: (p ++ regs false ++ regs true)

/-- Row and column registers that a member reads on arrival (R405). -/
def mmaRegs (va k : Nat) (l : Lane) : List Nat :=
  let p := descOf l.g k
  let w := rdV l.th va
  let one := fun (b : Bool) => if isReg p b && opOff p b < 128 then ((upto (regSpan w b)).map (opOff p b + ·)).filter (· < l.g.regs) else []
  one false ++ one true

/-- The rendezvous of an mx.mma completes: the checks of R403, then the operation enters the queue unless that is full. DEDUCED: log entry 43. -/
def completeMma (s : State) (team g : Nat) (r : Rdv) : State :=
  match team? s team, group? s team g, minBy (fun (a : Arrival) => a.tid.lane) r.arrivals, r.arrivals.getLast? with
  | some tm, some gr, some low, some last =>
    let trapAll := fun (f : Arrival → Trap) => takeTraps (dropGroupRdv s team g r.off) (r.arrivals.map fun a => (a.tid, f a))
    let w := low.val 0
    if r.arrivals.any fun a => a.val 0 ≠ w then trapAll fun a => ⟨.fmtDiverge, a.val 0, w⟩
    else
      let p := (last.vals.drop 1).take 8
      match mmaTrap s tm gr w p with
      | some tr => trapAll fun _ => tr
      | none =>
        if matFull s tm.core gr.quad then s
        else
          let part := fun (from' : Nat) => r.arrivals.map fun a => (a.tid.lane, (a.vals.drop from').take 16)
          let m := { newMat s .mma tm g gr.quad (r.arrivals.map Arrival.tid) (r.word.extractLsb' 14 7).toNat w p with
            regsA := if isReg p false then part 9 else [], regsB := if isReg p true then part 25 else [] }
          let s := enterMatrix (dropGroupRdv s team g r.off) m
          r.arrivals.foldl (fun s a => passMember s a.tid []) s
  | _, _, _, _ => s

/-! ### Chunks (R257 to R259, R405, R406) -/

/-- An element in scratchpad: bytes from an offset, element `i` of a row of width `w`; the low nibble comes first (R250). -/
def scratchElem (s : State) (tm : Team) (off w i : Nat) : Nat :=
  if w == 4 then leNat (rdScratch s tm.core (tm.allocBase + off + i / 2) 1) / 16 ^ (i % 2) % 16
  else leNat (rdScratch s tm.core (tm.allocBase + off + i * (w / 8)) (w / 8))

/-- Element (`x`, `k`) of A or B in chunk `j`, where `x` is the row of A or the column of B. -/
def mmaElem (s : State) (tm : Team) (m : MatOp) (b : Bool) (x k j : Nat) : Nat :=
  let w := opWidth m.word b
  if isReg m.params b then
    match (if b then m.regsB else m.regsA).find? fun r => r.1 == x with
    | some r => (r.2.getD (k * w / 32) 0).toNat / 2 ^ (k * w % 32) % 2 ^ w
    | none => 0
  else
    let p := m.params
    let row := if alongK p b then x else k
    let i := if alongK p b then k else x
    scratchElem s tm (opOff p b + 64 * opTp p b * j + opPitch m.word p b * row + skew p b row) w i

/-- The scale of A or B that applies to `k` of chunk `j` for row or column `x`: exactly 1 without blocks (R258). -/
def mmaScale (s : State) (tm : Team) (m : MatOp) (b : Bool) (x k j : Nat) : Val :=
  let l := blockLen (opBl m.word b)
  if l == 0 then .fin false 1 0
  else
    let z := scaleBytes m.word
    let raw := leNat (rdScratch s tm.core (tm.allocBase + dscW m.params (if b then 5 else 4) + (32 * ((j * depthK m.word + k) / l) + x) * z) z)
    decodeVal (if fmtB16 m.word then fBF16 else .e8) raw

/-- The product of the four factors of a term; `none` when it is a NaN (R259). -/
def termVal (a b sa sb : Val) : Option Val :=
  if a.isNan || b.isNan || sa.isNan || sb.isNan then none
  else (mulVal a b).bind fun x => (mulVal sa sb).bind fun y => mulVal x y

/-- One element of a chunk: the exact sum of the terms and the accumulator, rounded once to nearest even (R257, R259). -/
def chunkElem (acc : Word) (terms : List (Option Val)) : Word :=
  let a := decodeVal fF32 acc.toNat
  if a.isNan || terms.any Option.isNone then BitVec.ofNat 32 (canonNan 8 23)
  else BitVec.ofNat 32 (finish fF32 .rne (sumVal .rne (a :: terms.filterMap id))).1

/-- Chunk `j` on every element of the tile. -/
def runChunk (s : State) (tm : Team) (m : MatOp) : State :=
  let j := m.chunk
  let old := if j == 0 && (m.params.getD 7 0).getLsbD 3 then tileZero else tileVals s m.core m.quad (tileOf m.params)
  let ta := elemFmt (fmtA m.word)
  let tb := elemFmt (fmtB m.word)
  let elem := fun (r c : Nat) => chunkElem (old.getD (32 * r + c) 0) ((upto (depthK m.word)).map fun k =>
    termVal (decodeVal ta (mmaElem s tm m false r k j)) (decodeVal tb (mmaElem s tm m true c k j)) (mmaScale s tm m false r k j) (mmaScale s tm m true c k j))
  setTile s m.core m.quad (tileOf m.params) ((upto 1024).map fun i => elem (i / 32) (i % 32))

/-! ### Steps of the unit -/

/-- Pitch, transposition and offset of `mx.st` and `mx.ld` (R408). -/
def stPitch (p : List Word) : Nat := if fld (dscW p 0) 16 16 == 0 then 128 else fld (dscW p 0) 16 16
def stTrans (p : List Word) : Bool := (p.getD 0 0).getLsbD 3
def stOff (p : List Word) : Nat := dscW p 1
/-- Length of its scratch range. -/
def stSpan (p : List Word) : Nat := 31 * stPitch p + 128
/-- Offset of the element of index `i` in row order. -/
def stElem (p : List Word) (i : Nat) : Nat :=
  let m := i / 32
  let n := i % 32
  if stTrans p then stOff p + stPitch p * n + 4 * m else stOff p + stPitch p * m + 4 * n

/-- Locks that an operation enters when it starts (R406, R408). -/
def matLocks (m : MatOp) (tm : Team) : List RangeLock :=
  let lk := fun (w : Bool) (x : Nat × Nat) => engLock m.id m.team tm.ctx m.core w true (tm.allocBase + x.1) x.2
  match m.kind with
  | .mma => (mmaSpans m.word m.params).map fun x => lk false x.2
  | .store => [lk true (stOff m.params, stSpan m.params)]
  | .load => [lk false (stOff m.params, stSpan m.params)]
  | _ => []

def modMat (s : State) (id : Nat) (f : MatOp → MatOp) : State := { s with matrix := updWhere (fun m => m.id == id) f s.matrix }

/-- Every earlier scratchpad access, pen update, pop and push of the issuing threads has been performed (R401). -/
def matFree (s : State) (m : MatOp) : Bool :=
  m.tids.all fun t => match thread? s t with
    | none => true
    | some th => (th.queue.all fun a => m.tok < a.id || (match a.space with | .scratch _ => false | _ => true)) && troughsDone s t m.tok true true

/-- An operation that needs more lock entries than it can ever get is refused as R381 states. DEDUCED: log entry 40. DEDUCED: log entry 43. -/
def refuseMat (s : State) (m : MatOp) (need : Nat) : State :=
  let s := { s with matrix := s.matrix.filter fun x => x.id ≠ m.id }
  match minBy (fun (t : Tid) => t.lane) m.tids with
  | none => s
  | some t0 =>
    let s := deliverStatus s (m.tids.filter fun t => t ≠ t0) m.tok m.rd (statusWord stRefused false 0)
    modThread s t0 fun th => { th with pend := th.pend.filter (fun p => p.tok ≠ m.tok), owed := some ⟨.rangeConflict, BitVec.ofNat 32 need, 0⟩ }

/-- A matrix queue operation starts at the head of the queue (R401). -/
def execMatrixOpStart (core quad : Nat) (s : State) : Host.Outcome State Fault Refusal :=
  .next (match matHead s core quad with
    | some m => match team? s m.team with
      | some tm =>
        let l := matLocks m tm
        if m.started || teamEnded tm || !matFree s m then s
        else if 64 - teamLocks s m.team core < l.length then refuseMat s m l.length
        else if 64 < heldLocks s core + l.length then s
        else modMat { s with locks := s.locks ++ l } m.id fun x => { x with started := true }
      | none => s
    | none => s)

/-- One K-chunk of an mx.mma is applied to every tile element (R257). -/
def execMatrixChunk (core quad : Nat) (s : State) : Host.Outcome State Fault Refusal :=
  .next (match matHead s core quad with
    | some m => match team? s m.team with
      | some tm =>
        if m.kind == .mma && m.started && !teamEnded tm then
          bump (progress (modMat (runChunk s tm m) m.id fun x => { x with chunk := x.chunk + 1 }) tm.ctx) m.team 6 1
        else s
      | none => s
    | none => s)

/-- The effect of an operation other than mx.mma when it finishes: values or tiles or scratchpad (R407 to R409). -/
def matEffect (s : State) (tm : Team) (m : MatOp) : State :=
  let t := fld (dscW m.params 0) 0 3
  let vals := tileVals s m.core m.quad t
  match m.kind with
  | .read =>
    let n0 := fld (dscW m.params 0) 3 5
    m.tids.foldl (fun s k => deliverRegs s k m.tok ((upto 4).map fun i => (.v (m.rd + i), (vals.getD (32 * k.lane + n0 + i) 0).setWidth 80))) s
  | .store =>
    let s := (upto 1024).foldl (fun s i => bankWrite s m.core (tm.allocBase + stElem m.params i) (leBytes 4 (vals.getD i 0).toNat)) s
    deliverStatus s m.tids m.tok m.rd (statusWord 0 false 4096)
  | .load =>
    let s := setTile s m.core m.quad t ((upto 1024).map fun i => BitVec.ofNat 32 (leNat (rdScratch s m.core (tm.allocBase + stElem m.params i) 4)))
    deliverStatus s m.tids m.tok m.rd (statusWord 0 false 4096)
  | .clear => m.tilesNamed.foldl (fun s n => setTile s m.core m.quad n tileZero) s
  | .mma => deliverStatus s m.tids m.tok m.rd (statusWord 0 false (chunkCount m.params))

/-- The operation of a quadrant that finishes next: an mma whose chunks are done, else the started head. -/
def matEnding (s : State) (core quad : Nat) : Option MatOp :=
  match (matQueue s core quad).find? MatOp.chunksDone with
  | some m => some m
  | none => (matHead s core quad).filter fun m => m.started && m.kind ≠ .mma

/-- The rendezvous of mx.mma that wait for a place in a quadrant's queue. -/
def retryMma (s : State) (core quad : Nat) : State :=
  (s.teams.filter fun t => t.core == core && t.keepsAlloc).foldl (fun s t =>
    (upto t.groups.length).foldl (fun s g => match group? s t.id g with
      | some gr => if gr.quad ≠ quad then s else (gr.rdv.filter fun r => r.word.extractLsb' 26 6 == 0x35#6 && groupMet gr r).foldl (fun s r => completeMma s t.id g r) s
      | none => s) s) s

/-- A matrix queue operation finishes: its values or its status word are delivered, its locks go, and its place is free (R401, R406). -/
def execMatrixOpFinish (core quad : Nat) (s : State) : Host.Outcome State Fault Refusal :=
  .next (match matEnding s core quad with
    | some m => match team? s m.team with
      | some tm =>
        if teamEnded tm then s
        else
        let s := matEffect s tm m
        let s := { s with matrix := s.matrix.filter (fun x => x.id ≠ m.id), locks := s.locks.filter fun k => k.op ≠ some m.id }
        retryMma (progress s tm.ctx) core quad
      | none => s
    | none => s)

end Sys2Proof.Machine
end

