-- ==== Sys2Proof/Machine/Hub.lean ====
section
/-! DEFINITION. Where rendezvous complete: collectives, barriers, pens, team-collective copies and the matrix forms
(R110 to R112, R349, R361, R370 to R379, R384 to R389, R398 to R409). -/

namespace Sys2Proof.Machine

/-! ### Group rendezvous (R110, R375) -/

/-- gsync completes once every arrival has met the preconditions of fence.rel.team; its members go on as after fence.acq (R375). -/
def completeGsync (s : State) (team g : Nat) (r : Rdv) : State :=
  let ready := fun (a : Arrival) => match thread? s a.tid with
    | some th => relReady s a.tid th .team th.queue && troughsDone s a.tid s.nextId false true
    | none => true
  if r.arrivals.all ready then
    r.arrivals.foldl (fun s a => acquireAfter (passMember s a.tid []) a.tid) (dropGroupRdv s team g r.off)
  else s

/-- Complete a rendezvous of a group whose members have all arrived. -/
def completeRdv (s : State) (team g : Nat) (r : Rdv) : State :=
  match (r.word.extractLsb' 26 6).toNat with
  | 0x2F => completeGsync s team g r
  | 0x35 => completeMma s team g r
  | _ => completeGroup s team g r

/-- Complete every rendezvous of a group that can complete. -/
def meetGroup (s : State) (team g : Nat) : State :=
  match group? s team g with
  | some gr => (gr.rdv.filter (groupMet gr)).foldl (fun s r => completeRdv s team g r) s
  | none => s

/-! ### Team copies (R384 to R389) -/

/-- The engine form of a COPY word. DEDUCED: log entry 38. -/
def copyKind (fn : Nat) : EngKind := match fn with | 1 => .multicast | 2 => .sparse | 3 => .out | _ => .team

/-- The rendezvous of a team copy: every group's descriptor is checked by its lowest live lane; when one fails, nothing moves (R386). -/
def completeCopy (s : State) (team : Nat) (r : Rdv) : State :=
  match team? s team with
  | none => s
  | some tm =>
    let k := copyKind (wordOp r.word).2
    let rd := (r.word.extractLsb' 14 7).toNat
    let gs := sortBy id (dedup (r.arrivals.map fun a => a.tid.group))
    let leads := gs.filterMap fun g => minBy (fun (a : Arrival) => a.tid.lane) (r.arrivals.filter fun a => a.tid.group == g)
    let fails := leads.filterMap fun a => ((sliceTrap s a.tid tm k a.vals).or (sliceRules s a.tid tm k (sliceOf a.tid.group a.vals))).map fun tr => (a.tid, tr)
    let s := dropTeamRdv s team r.off
    if fails.isEmpty then
      let s := r.arrivals.foldl (fun s a => passMember s a.tid []) s
      addEngine s (newOp s k tm (r.arrivals.map Arrival.tid) rd (leads.map fun a => (a.tid.group, a.vals)) r.off)
    else
      let s := r.arrivals.foldl (fun s a => if fails.any (fun f => f.1 == a.tid) then s
        else modThread (passMember s a.tid []) a.tid fun th => putReg th (.v rd) ((statusWord stRefused false 0).setWidth 80)) s
      takeTraps s fails

/-! ### tyield (R361) -/

/-- A ready grid of equal or higher precedence than a team's with a team that cannot be placed. -/
def yieldsTo (s : State) (tm : Team) : Option (Grid × Context × Loaded) :=
  match grid? s tm.grid with
  | none => none
  | some own =>
    ((placeOrder s own.part).filterMap fun g => (ctx? s g.ctx).bind fun c => (peekRecord s g c).map fun rd => (g, c, rd)).find? fun x =>
      (x.1.id == own.id || x.1.precedes own) && !(nextUnits s x.1 1).isEmpty && (placeGrid s x.1 x.2.1 x.2.2 1).isNone

/-- The rendezvous of tyield: every thread's boundary is the word after it; the dispatcher pre-empts the team, or the flock yields. -/
def completeYield (s : State) (team : Nat) (r : Rdv) : State :=
  match team? s team with
  | none => s
  | some tm =>
    let waiting := fun (s : State) (t : Tid) => (match thread? s t with | some th => th.wait.isSome | none => false)
    let moved := r.arrivals.filter fun a => !waiting s a.tid
    let s := passArrived s team r fun _ => []
    match yieldsTo s tm with
    | some (g, c, rd) =>
      let s := moved.foldl (fun s a => modThread s a.tid advance) s
      dispatchPreempt (requestPreempt s team .tyield) g c rd none
    | none => match s.cur with | some k => modSlot s k fun x => { x with yielded := true } | none => s

/-! ### Team rendezvous (R349) -/

/-- Complete a rendezvous of a team, where its instruction lets it; tend, choose.best and wabort go on by events of their own. -/
def completeTeam (s : State) (team : Nat) (r : Rdv) : State :=
  match wordOp r.word with
  | (0x2C, 0) => tbeginMet s team r
  | (0x2C, 2) => tabortMet s team r
  | (0x2D, 0) => forkMet s team r
  | (0x2D, 1) => chooseFirstMet s team r
  | (0x32, _) => completeCopy s team r
  | (0x36, _) => completeYield s team r
  | _ => s

/-- Complete every rendezvous of a team that can complete. -/
def meetTeam (s : State) (team : Nat) : State :=
  match team? s team with
  | some tm => (tm.rdv.filter (teamMet s team)).foldl (fun s r => completeTeam s team r) s
  | none => s

/-- Everything that waits for threads of a team: rendezvous of its groups and of the team, and barriers. -/
def meetAll (s : State) (team : Nat) : State :=
  match team? s team with
  | some tm => meetBars (meetTeam ((upto tm.groups.length).foldl (fun s g => meetGroup s team g) s) team) team
  | none => s

/-- A tbegin held because T[57:8] equals the last stamp of its core and slot completes once T[57:8] advances (R197). -/
def execTbeginStampAdvance (team : Nat) (s : State) : Host.Outcome State Fault Refusal :=
  .next (match rdvOf s team 0x2C 0 with
    | some r => if teamMet s team r then tbeginMet s team r else s
    | none => s)

/-! ### Issue of rendezvous instructions -/

/-- A thread has arrived at a rendezvous of its group, or of its team. -/
def inGroupRdv (s : State) (t : Tid) : Bool := match group? s t.team t.group with | some g => g.rdv.any (fun r => r.arrivals.any fun a => a.tid == t) | none => false
def inTeamRdv (s : State) (t : Tid) : Bool := match team? s t.team with | some tm => tm.rdv.any (fun r => r.arrivals.any fun a => a.tid == t) | none => false

/-- The effect of a collective: lanes arrive, the rendezvous completes or they wait (R111). -/
def collEffect (arrive : Lane → State → State) (word : Word) (sl : Slot) (l : List Tid) (s : State) : State :=
  let s := perLane arrive word sl l s
  let s := (dedup (l.map fun t => (t.team, t.group))).foldl (fun s x => meetGroup s x.1 x.2) s
  waitMembers s l .coll inGroupRdv

/-- Issue a collective of class LONG (R370). -/
def collOp (word : Word) (st : BitVec 2) (u : Uses) (vals : Lane → List Word) (s : State) : Host.Outcome State Fault Refusal :=
  .next (issue word st { u with bad := inSpan s } (collEffect (arriveGroup vals) word) s)

/-- The effect of a team-scope instruction: lanes that pass `chk` arrive, the rendezvous completes or they wait (R349). -/
def teamEffect (chk : Lane → Option Trap) (vals : Lane → List Word) (word : Word) (sl : Slot) (l : List Tid) (s : State) : State :=
  let s := perLane (fun ln s => match chk ln with | some tr => takeTrap s ln.tid tr | none => arriveTeam vals ln s) word sl l s
  let s := match l with | t :: _ => meetTeam s t.team | [] => s
  waitMembers s l .team inTeamRdv

/-- Issue a team-scope instruction. -/
def teamOp (word : Word) (st : BitVec 2) (u : Uses) (chk : Lane → Option Trap) (vals : Lane → List Word) (s : State) : Host.Outcome State Fault Refusal :=
  .next (issue word st { u with bad := inSpan s } (teamEffect chk vals word) s)

/-! ### Pens (R376, R377) -/

/-- The checks of a pen's offset, and its core address. -/
def penCheck (l : Lane) (a : Nat) : Except Trap Nat :=
  let off := (rdS l.g a).toNat
  if off % 64 ≠ 0 then .error ⟨.misalign, rdS l.g a, 0⟩
  else match scratchAddr l.s l.tm false off 64 with
    | .error tr => .error { tr with lo := rdS l.g a }
    | .ok x => .ok x.2

/-- Put a pen access into the thread's queue. -/
def penAccess (s : State) (l : Lane) (op : AccOp) (ca off size ord inst : Nat) : State :=
  (enqueue s l.tid { mkReq op size 0#3 [] with space := .scratch l.tm.core, va := BitVec.ofNat 80 off, pa := some ca, ord := ord } inst l.th.pc.off true).2

/-- A pen update of one lane. -/
def penUpdateBy (op : PenOp) (a ord inst : Nat) (l : Lane) (s : State) : State :=
  match penCheck l a with
  | .error tr => takeTrap s l.tid tr
  | .ok ca => penAccess s l (.pen op) ca (rdS l.g a).toNat 64 ord inst

/-- pen.init's count (R377). -/
def penInitBy (a b inst : Nat) (l : Lane) (s : State) : State :=
  match penCheck l a with
  | .error tr => takeTrap s l.tid tr
  | .ok _ =>
    let x := (rdS l.g b).toNat
    if x == 0 || 255 < x then takeTrap s l.tid ⟨.illegalOp, rdS l.g b, 0⟩ else penUpdateBy (.init x) a 0 inst l s

/-- pen.wait: PEN_STATE on a bad pen, at once past a phase that differs, else a wait (R377). -/
def penWaitBy (a b : Nat) (l : Lane) (s : State) : State :=
  match penCheck l a with
  | .error tr => takeTrap s l.tid tr
  | .ok ca =>
    let p := penAt s l.tm.core ca
    match penBadCode (genAt s l.tm.core ca) p with
    | some c => takeTrap s l.tid ⟨.penState, rdS l.g a, BitVec.ofNat 32 c⟩
    | none => if penPhase p ≠ (rdS l.g b).getLsbD 0 then acquireAfter s l.tid
        else startWait s l.tid (.pen (rdS l.g a).toNat ((rdS l.g b).getLsbD 0))

/-- Earlier accesses of the thread to the pen's line keep pen.wait from issuing (R158). DEDUCED: log entry 44. -/
def penLineBusy (a : Nat) (l : Lane) : Bool :=
  l.th.queue.any fun x => x.space == .scratch l.tm.core && x.pa.map (· / 64) == some ((l.tm.allocBase + (rdS l.g a).toNat) / 64)

/-- Issue with a number for the lanes of the instruction. -/
def withInst (f : Nat → Lane → State → State) (run : (Lane → State → State) → State → State) (s : State) : State :=
  run (f s.nextId) { s with nextId := s.nextId + 1 }

/-! ### The matrix forms (R398) -/

/-- A poisoned row or column register of a member of mx.mma (R188). DEDUCED: log entry 43. -/
def mmaPoison (va k : Nat) (l : Lane) : Option Trap :=
  ((mmaRegs va k l).find? fun n => l.th.poison.getLsbD n).map fun n => ⟨.poisonRead, BitVec.ofNat 32 n, 0⟩

/-- An early read of a row or column register under the checking scoreboard (R109). -/
def mmaEarly (va k : Nat) (l : Lane) : Option Trap :=
  if !checksStalls l then none
  else ((mmaRegs va k l).find? fun n => early l l.th.due (.v n)).map fun n => ⟨.stallShort, BitVec.ofNat 32 n, 0⟩

/-- Arrivals at mx.mma: lanes with a poisoned register trap; an early read of one lane keeps the others from arriving too (R109, R188). -/
def mmaEffect (va k : Nat) (word : Word) (sl : Slot) (l : List Tid) (s : State) : State :=
  let on := fun (f : Lane → Option Trap) (s : State) (t : Tid) => (lane? s t sl.fid word).bind f
  let p := passing (fun s t => (on (mmaPoison va k) s t).map (takeTrap s t)) l s
  match p.1.findSome? (on (mmaEarly va k) p.2) with
  | some tr => takeTraps p.2 (p.1.map fun t => (t, (on (mmaEarly va k) p.2 t).getD tr))
  | none => collEffect (arriveGroup (mmaVals va k)) word sl p.1 p.2

/-- A form that enters the queue does not issue while the places left do not suffice for the flock's groups (R400). -/
def matHold (l : Lane) : Bool :=
  let n := match curSlot l.s with | some sl => (groupLeaders sl.flock).length | none => 1
  8 < (matQueue l.s l.tm.core l.g.quad).length + min n 8

/-- Issue a group's matrix form, with its own checks. -/
def matForm (k : MatKind) (rd : Nat) (p : Lane → List Word) (chk : List Word → Lane → Option Trap) (l : Lane) (ts : List Tid) (s : State) : State :=
  let x := p l
  let m := newMat s k l.tm l.tid.group l.g.quad ts rd 0 x
  match (chk x l).or ((m.tilesNamed.find? fun n => tileTaken s l.tm.core l.g.quad l.tm.id n).map fun n => ⟨.protection, BitVec.ofNat 32 n, 0⟩) with
  | some tr => takeTrap s l.tid tr
  | none => if k == .clear && m.tilesNamed.isEmpty then s else enterMatrix s m

/-- The operand of mx.rd (R407). -/
def mxRdTrap (p : List Word) (_ : Lane) : Option Trap :=
  if dscW p 0 / 256 ≠ 0 || fld (dscW p 0) 3 5 % 4 ≠ 0 then some ⟨.illegalOp, p.getD 0 0, 0⟩ else none

/-- The operands of mx.st and mx.ld (R404, R408). -/
def mxStTrap (p : List Word) (l : Lane) : Option Trap :=
  let a := p.getD 0 0
  let b := p.getD 1 0
  let pf := fld (dscW p 0) 16 16
  if fld (dscW p 0) 4 12 ≠ 0 || (pf ≠ 0 && pf < 128) then some ⟨.illegalOp, a, 0⟩
  else if pf % 4 ≠ 0 then some ⟨.misalign, a, 0⟩
  else if stOff p % 16 ≠ 0 then some ⟨.misalign, b, 0⟩
  else if spanFenced l.s l.tm (stOff p) (stSpan p) then some ⟨.protection, b, 0⟩
  else if l.tm.allocSize < stOff p + stSpan p then some ⟨.scratchBounds, b, 0⟩
  else none

/-- The mask of mx.clr (R409). -/
def mxClrTrap (p : List Word) (_ : Lane) : Option Trap := if dscW p 0 / 256 ≠ 0 then some ⟨.illegalOp, p.getD 0 0, 0⟩ else none

/-- The word of mx.stat (R409). -/
def mxStatWord (l : Lane) : Word :=
  let q := matQueue l.s l.tm.core l.g.quad
  let busy := (upto 8).filter fun n => q.any fun m => m.team == l.tm.id && m.tilesNamed.contains n
  let mine := (upto 8).filter fun n => match tile? l.s l.tm.core l.g.quad n with | some t => t.team == l.tm.id | none => false
  BitVec.ofNat 32 (65536 * q.length + 256 * (busy.map (2 ^ ·)).sum + (mine.map (2 ^ ·)).sum)

/-! ### The instructions -/

/-- Mask of the members whose predicate holds (R370). -/
def execBallot (d a : BitVec 7) (st : BitVec 2) (s : State) : Host.Outcome State Fault Refusal :=
  collOp (encA 48#6 0#3 d a 0#7 st) st { Uses.none cLong with rp := [a.toNat], wv := [(d.toNat, 1)] } (fun l => [if rdP l.th a.toNat then 1 else 0]) s

/-- Whether the predicate holds in every member (R370). -/
def execVall (d a : BitVec 7) (st : BitVec 2) (s : State) : Host.Outcome State Fault Refusal :=
  collOp (encA 48#6 1#3 d a 0#7 st) st { Uses.none cLong with rp := [a.toNat], wp := [d.toNat] } (fun l => [if rdP l.th a.toNat then 1 else 0]) s

/-- Whether the predicate holds in some member (R370). -/
def execVany (d a : BitVec 7) (st : BitVec 2) (s : State) : Host.Outcome State Fault Refusal :=
  collOp (encA 48#6 2#3 d a 0#7 st) st { Uses.none cLong with rp := [a.toNat], wp := [d.toNat] } (fun l => [if rdP l.th a.toNat then 1 else 0]) s

/-- Mask of the members with the same value (R370). -/
def execMatchLanes (d a : BitVec 7) (st : BitVec 2) (s : State) : Host.Outcome State Fault Refusal :=
  collOp (encA 48#6 3#3 d a 0#7 st) st { Uses.none cLong with rv := [(a.toNat, 1)], wv := [(d.toNat, 1)] } (fun l => [rdV l.th a.toNat]) s

/-- Shuffle by index (R370). -/
def execShflIdx (d a b : BitVec 7) (st : BitVec 2) (s : State) : Host.Outcome State Fault Refusal :=
  collOp (encA 48#6 4#3 d a b st) st { Uses.none cLong with rv := [(a.toNat, 1), (b.toNat, 1)], wv := [(d.toNat, 1)] } (fun l => [rdV l.th a.toNat, rdV l.th b.toNat]) s

/-- Shuffle from below (R370). -/
def execShflUp (d a b : BitVec 7) (st : BitVec 2) (s : State) : Host.Outcome State Fault Refusal :=
  collOp (encA 48#6 5#3 d a b st) st { Uses.none cLong with rv := [(a.toNat, 1), (b.toNat, 1)], wv := [(d.toNat, 1)] } (fun l => [rdV l.th a.toNat, rdV l.th b.toNat]) s

/-- Shuffle from above (R370). -/
def execShflDown (d a b : BitVec 7) (st : BitVec 2) (s : State) : Host.Outcome State Fault Refusal :=
  collOp (encA 48#6 6#3 d a b st) st { Uses.none cLong with rv := [(a.toNat, 1), (b.toNat, 1)], wv := [(d.toNat, 1)] } (fun l => [rdV l.th a.toNat, rdV l.th b.toNat]) s

/-- Shuffle by exclusive or (R370). -/
def execShflXor (d a b : BitVec 7) (st : BitVec 2) (s : State) : Host.Outcome State Fault Refusal :=
  collOp (encA 48#6 7#3 d a b st) st { Uses.none cLong with rv := [(a.toNat, 1), (b.toNat, 1)], wv := [(d.toNat, 1)] } (fun l => [rdV l.th a.toNat, rdV l.th b.toNat]) s

/-- Sum of the members (R370). -/
def execRedaddI32 (d a : BitVec 7) (st : BitVec 2) (s : State) : Host.Outcome State Fault Refusal :=
  collOp (encA 49#6 0#3 d a 0#7 st) st { Uses.none cLong with rv := [(a.toNat, 1)], wv := [(d.toNat, 1)] } (fun l => [rdV l.th a.toNat]) s

/-- Inclusive sum by column (R370). -/
def execScanaddI32 (d a : BitVec 7) (st : BitVec 2) (s : State) : Host.Outcome State Fault Refusal :=
  collOp (encA 49#6 1#3 d a 0#7 st) st { Uses.none cLong with rv := [(a.toNat, 1)], wv := [(d.toNat, 1)] } (fun l => [rdV l.th a.toNat]) s

/-- Exclusive sum by column (R370). -/
def execExscanI32 (d a : BitVec 7) (st : BitVec 2) (s : State) : Host.Outcome State Fault Refusal :=
  collOp (encA 49#6 2#3 d a 0#7 st) st { Uses.none cLong with rv := [(a.toNat, 1)], wv := [(d.toNat, 1)] } (fun l => [rdV l.th a.toNat]) s

/-- Maximum of the members (R370). -/
def execRedmaxI32 (d a : BitVec 7) (st : BitVec 2) (s : State) : Host.Outcome State Fault Refusal :=
  collOp (encA 49#6 3#3 d a 0#7 st) st { Uses.none cLong with rv := [(a.toNat, 1)], wv := [(d.toNat, 1)] } (fun l => [rdV l.th a.toNat]) s

/-- Minimum of the members (R370). -/
def execRedminI32 (d a : BitVec 7) (st : BitVec 2) (s : State) : Host.Outcome State Fault Refusal :=
  collOp (encA 49#6 4#3 d a 0#7 st) st { Uses.none cLong with rv := [(a.toNat, 1)], wv := [(d.toNat, 1)] } (fun l => [rdV l.th a.toNat]) s

/-- Sum of the members in F32, by the tree (R372). -/
def execRedaddF32 (d a : BitVec 7) (st : BitVec 2) (s : State) : Host.Outcome State Fault Refusal :=
  collOp (encA 49#6 5#3 d a 0#7 st) st { Uses.none cLong with rv := [(a.toNat, 1)], wv := [(d.toNat, 1)] } (fun l => [rdV l.th a.toNat]) s

/-- True in the lowest member (R370). -/
def execElect (d : BitVec 7) (st : BitVec 2) (s : State) : Host.Outcome State Fault Refusal :=
  collOp (encA 49#6 6#3 d 0#7 0#7 st) st { Uses.none cLong with wp := [d.toNat] } (fun _ => [0]) s

/-- Write the group mask (R373). -/
def execSetgm (a : BitVec 7) (st : BitVec 2) (s : State) : Host.Outcome State Fault Refusal :=
  .next (laneOp (encA 49#6 7#3 0#7 a 0#7 st) st { Uses.none cLong with rv := [(a.toNat, 1)] } 4 (fun l => if (rdV l.th a.toNat).getLsbD l.tid.lane then .ok [(.gmask, (rdV l.th a.toNat).setWidth 80)] else .error ⟨.illegalOp, rdV l.th a.toNat, 0⟩) s)

/-- Barrier of a group (R375). -/
def execGsync (st : BitVec 2) (s : State) : Host.Outcome State Fault Refusal :=
  .next (issue (encE 47#6 7#5 0#7 0#6 0#6 st) st { Uses.none cCtrl with bad := inSpan s, ban := true } (collEffect (arriveGroup fun _ => []) (encE 47#6 7#5 0#7 0#6 0#6 st)) s)

/-- Barrier of a team (R375). -/
def execBarTeam (a : BitVec 6) (st : BitVec 2) (s : State) : Host.Outcome State Fault Refusal :=
  .next (issue (encE 47#6 5#5 0#7 a 0#6 st) st { Uses.none cCtrl with bad := inSpan s, ban := true } (fun sl l s => if a.toNat < 16 then barEffect a.toNat none (encE 47#6 5#5 0#7 a 0#6 st) sl l s else perLane (fun ln s => takeTrap s ln.tid (openTrap s ln.tid .illegalOp)) (encE 47#6 5#5 0#7 a 0#6 st) sl l s) s)

/-- Barrier of the roles of a mask (R375). -/
def execBarRole (a b : BitVec 6) (st : BitVec 2) (s : State) : Host.Outcome State Fault Refusal :=
  let bad := fun (l : Lane) => a == 0#6 || 2 ^ l.tm.hints.length ≤ a.toNat || !a.getLsbD l.g.role
  let chk := fun (l : Lane) (s : State) => if 16 ≤ b.toNat then takeTrap s l.tid (openTrap s l.tid .illegalOp)
    else if bad l then takeTrap s l.tid ⟨.illegalOp, a.setWidth 32, 0⟩ else s
  .next (issue (encE 47#6 6#5 0#7 a b st) st { Uses.none cCtrl with bad := inSpan s, ban := true } (fun sl l s =>
    let s := perLane chk (encE 47#6 6#5 0#7 a b st) sl l s
    barEffect b.toNat (some (a.setWidth 32)) (encE 47#6 6#5 0#7 a b st) sl (l.filter fun t => match slot? s sl.key with | some x => x.flock.contains t | none => false) s) s)

/-- Initialise a pen (R377). -/
def execPenInit (a b : BitVec 6) (st : BitVec 2) (s : State) : Host.Outcome State Fault Refusal :=
  .next (issue (encE 47#6 0#5 0#7 a b st) st { Uses.none cCtrl with rs := [a.toNat, b.toNat], lead := 1 } (fun sl l s => withInst (fun n l s => penInitBy a.toNat b.toNat n l s) (fun f => perGroup f (encE 47#6 0#5 0#7 a b st) sl l) s) s)

/-- Arm a source of a pen (R377). -/
def execPenExpect (a b : BitVec 6) (st : BitVec 2) (s : State) : Host.Outcome State Fault Refusal :=
  .next (issue (encE 47#6 1#5 0#7 a b st) st { Uses.none cCtrl with rs := [a.toNat, b.toNat], lead := 1 } (fun sl l s => withInst (fun n l s => penUpdateBy (.expect ((rdS l.g b.toNat).extractLsb' 29 3).toNat ((rdS l.g b.toNat).extractLsb' 0 29).toNat) a.toNat 0 n l s) (fun f => perGroup f (encE 47#6 1#5 0#7 a b st) sl l) s) s)

/-- Arrive at a pen (R377). -/
def execPenArrive (a : BitVec 6) (st : BitVec 2) (s : State) : Host.Outcome State Fault Refusal :=
  .next (issue (encE 47#6 2#5 0#7 a 0#6 st) st { Uses.none cCtrl with rs := [a.toNat] } (fun sl l s => withInst (fun n l s => penUpdateBy .arrive a.toNat 2 n l s) (fun f => perLane f (encE 47#6 2#5 0#7 a 0#6 st) sl l) s) s)

/-- Wait for a phase of a pen (R377). -/
def execPenWait (a b : BitVec 6) (st : BitVec 2) (s : State) : Host.Outcome State Fault Refusal :=
  .next (issueHold (encE 47#6 3#5 0#7 a b st) st { Uses.none cCtrl with rs := [a.toNat, b.toNat], ban := true } (penLineBusy a.toNat) (fun sl l s => perLane (penWaitBy a.toNat b.toNat) (encE 47#6 3#5 0#7 a b st) sl l s) s)

/-- Read word 0 of a pen (R377). -/
def execPenTest (d : BitVec 7) (a : BitVec 6) (st : BitVec 2) (s : State) : Host.Outcome State Fault Refusal :=
  .next (issue (encE 47#6 4#5 d a 0#6 st) st { Uses.none cCtrl with rs := [a.toNat], wv := [(d.toNat, 1)] } (fun sl l s => withInst (fun n l s => match penCheck l a.toNat with | .error tr => takeTrap s l.tid tr | .ok ca => penAccess s l (.penTest d.toNat) ca (rdS l.g a.toNat).toNat 4 0 n) (fun f => perLane f (encE 47#6 4#5 d a 0#6 st) sl l) s) s)

/-- Zero a pen (R377). -/
def execPenInval (a : BitVec 6) (st : BitVec 2) (s : State) : Host.Outcome State Fault Refusal :=
  .next (issue (encE 47#6 8#5 0#7 a 0#6 st) st { Uses.none cCtrl with rs := [a.toNat], lead := 1 } (fun sl l s => withInst (fun n l s => penUpdateBy .inval a.toNat 0 n l s) (fun f => perGroup f (encE 47#6 8#5 0#7 a 0#6 st) sl l) s) s)

/-- Copy global rows into own scratchpad (R384). -/
def execCopyTeam (d : BitVec 7) (a : BitVec 6) (st : BitVec 2) (s : State) : Host.Outcome State Fault Refusal :=
  teamOp (encE 50#6 0#5 d a 0#6 st) st { usesEngine d a with lead := 0 } (fun _ => none) (fun l => descOf l.g a.toNat) s

/-- Copy global rows into the scratchpads of a set (R387). -/
def execCopyMc (d : BitVec 7) (a : BitVec 6) (st : BitVec 2) (s : State) : Host.Outcome State Fault Refusal :=
  teamOp (encE 50#6 1#5 d a 0#6 st) st { usesEngine d a with lead := 0 } (fun _ => none) (fun l => descOf l.g a.toNat) s

/-- Copy a compressed tile into own scratchpad (R388). -/
def execCopySp (d : BitVec 7) (a : BitVec 6) (st : BitVec 2) (s : State) : Host.Outcome State Fault Refusal :=
  teamOp (encE 50#6 2#5 d a 0#6 st) st { usesEngine d a with lead := 0 } (fun _ => none) (fun l => descOf l.g a.toNat) s

/-- Copy scratchpad rows into global memory (R389). -/
def execCopyOut (d : BitVec 7) (a : BitVec 6) (st : BitVec 2) (s : State) : Host.Outcome State Fault Refusal :=
  teamOp (encE 50#6 3#5 d a 0#6 st) st { usesEngine d a with lead := 0 } (fun _ => none) (fun l => descOf l.g a.toNat) s

/-- Matrix multiply-accumulate over chunks (R406). -/
def execMxMma (d : BitVec 7) (a b : BitVec 6) (st : BitVec 2) (s : State) : Host.Outcome State Fault Refusal :=
  .next (issueHold (encE 53#6 0#5 d a b st) st { Uses.none cMatrix with rv := [(a.toNat, 1)], wv := [(d.toNat, 1)], rs := (upto 8).map (b.toNat + ·), bad := inSpan s }
    (fun l => (mmaRegs a.toNat b.toNat l).any fun n => pendingReg l.th (.v n)) (mmaEffect a.toNat b.toNat (encE 53#6 0#5 d a b st)) s)

/-- Read four columns of a tile (R407). -/
def execMxRd (d : BitVec 7) (a : BitVec 6) (st : BitVec 2) (s : State) : Host.Outcome State Fault Refusal :=
  .next (issueHold (encE 53#6 1#5 d a 0#6 st) st { Uses.none cMatrix with wv := [(d.toNat, 4)], rs := [a.toNat], lead := 1 } matHold (perGroupAll (matForm .read d.toNat (fun l => [rdS l.g a.toNat]) mxRdTrap) (encE 53#6 1#5 d a 0#6 st)) s)

/-- Store a tile to scratchpad (R408). -/
def execMxSt (d : BitVec 7) (a b : BitVec 6) (st : BitVec 2) (s : State) : Host.Outcome State Fault Refusal :=
  .next (issueHold (encE 53#6 2#5 d a b st) st { Uses.none cMatrix with wv := [(d.toNat, 1)], rs := [a.toNat, b.toNat], lead := 1 } matHold (perGroupAll (matForm .store d.toNat (fun l => [rdS l.g a.toNat, rdS l.g b.toNat]) mxStTrap) (encE 53#6 2#5 d a b st)) s)

/-- Load a tile from scratchpad (R408). -/
def execMxLd (d : BitVec 7) (a b : BitVec 6) (st : BitVec 2) (s : State) : Host.Outcome State Fault Refusal :=
  .next (issueHold (encE 53#6 3#5 d a b st) st { Uses.none cMatrix with wv := [(d.toNat, 1)], rs := [a.toNat, b.toNat], lead := 1 } matHold (perGroupAll (matForm .load d.toNat (fun l => [rdS l.g a.toNat, rdS l.g b.toNat]) mxStTrap) (encE 53#6 3#5 d a b st)) s)

/-- Clear tiles (R409). -/
def execMxClr (a : BitVec 6) (st : BitVec 2) (s : State) : Host.Outcome State Fault Refusal :=
  .next (issueHold (encE 53#6 4#5 0#7 a 0#6 st) st { Uses.none cMatrix with rs := [a.toNat], lead := 1 } matHold (perGroupAll (matForm .clear 0 (fun l => [rdS l.g a.toNat]) mxClrTrap) (encE 53#6 4#5 0#7 a 0#6 st)) s)

/-- State of the matrix queue and tiles (R409). -/
def execMxStat (d : BitVec 7) (st : BitVec 2) (s : State) : Host.Outcome State Fault Refusal :=
  .next (laneOp (encE 53#6 5#5 d 0#6 0#6 st) st { Uses.none cMatrix with wv := [(d.toNat, 1)] } 4 (fun l => resV d.toNat (mxStatWord l)) s)

end Sys2Proof.Machine
end

