-- ==== Sys2Proof/Machine/Task.lean ====
section
/-! DEFINITION. The task, atomic-set and world families (R194 to R230, R351 to R355). -/

namespace Sys2Proof.Machine

/-! ### Words (R229, R353) -/

/-- The word of tprobe. -/
def probeWord (l : Lane) : Word :=
  let f := l.tm.family.bind (family? l.s)
  let wound : Bool := match f with | some x => x.state == .wounded | none => false
  BitVec.ofNat 32 ((match f with | some x => holdCount l.s x.id | none => 0) % 1024 * 4096 + deferCount l.s l.tm % 64 * 64 + viewDepth l.s l.tm.view % 8 * 8 +
    (if isWorld l.tm then 4 else 0) + (if wound then 2 else 0) + (if f.isSome then 1 else 0))

/-- A mask of the worlds that satisfy `p`. -/
def worldMask (f : Fork) (p : World → Bool) : Nat := ((f.worlds.filter p).map fun w => 2 ^ (w.idx % 8)).sum

/-- The word of wquery. -/
def queryWord (l : Lane) : Word :=
  let m := match l.tm.fork.bind (fork? l.s) with
    | some f => worldMask f (fun w => !w.discarded) * 2 ^ 24 + worldMask f (fun w => w.score.isSome || w.aborted) * 2 ^ 16
    | none => 0
  BitVec.ofNat 32 (m + viewDepth l.s l.tm.view % 8 * 1024 + l.tm.nworld % 16 * 16 + l.tm.world % 16)

/-! ### Addresses of records and entries (R354, R359, R362) -/

/-- The address of an aligned object of `n` bytes in region 0, or the trap. -/
def objectAt (n a off : Nat) (l : Lane) : Except MemTrap Nat :=
  let base := (rdB l.tm l.th a).toNat
  let sum := (base + off) % 2 ^ 80
  if sum % n ≠ 0 then .error (addrTrap .misalign sum)
  else if regionNo sum ≠ 0 then .error (addrTrap .protection sum)
  else if 2 ^ 80 ≤ base + off then .error (regionTrap sum kindRead)
  else .ok sum

/-- Outside routines, worlds and tasks; the trap elsewhere (R195, R350). -/
def plainTrap (l : Lane) : Option Trap :=
  if inRoutineCode l.th then some (openTrap l.s l.tid .illegalOp)
  else if isWorld l.tm || l.tm.family.isSome then some (openTrap l.s l.tid .taskState)
  else none

/-- adecl: the performing lane reads the entry, and the admitted lanes of its group wait until the set is in force (R354). DEDUCED: log entry 24. -/
def adeclBy (a b : Nat) (l : Lane) (ts : List Tid) (s : State) : State :=
  let off := (rdS l.g b).toNat
  if inRoutineCode l.th then takeTrap s l.tid (openTrap l.s l.tid .illegalOp)
  else match objectAt 32 a off l with
    | .error m => takeMemTrap s l.tid m
    | .ok _ => match plainTrap l with
      | some tr => takeTrap s l.tid tr
      | none => match memChecks l kindRead (mkReq .adecl 32 0#3 []) a off with
        | .trap m => takeMemTrap s l.tid m
        | .defer _ => s
        | .go r g =>
          let e := enqueue { s with nextId := s.nextId + 1 } l.tid r s.nextId l.th.pc.off g.isNone
          let s := match g with | some x => addWaiter e.2 ⟨l.tm.ctx, x.1.id, x.2, l.tid, e.1, none, 0⟩ | none => e.2
          ts.foldl (fun s t => startWait s t (.adecl l.tid e.1)) s

/-- adrop: a set of which no granule is held or awaited is freed (R195). -/
def adropBy (a : Nat) (l : Lane) (s : State) : State :=
  let n := (rdS l.g a).toNat
  match plainTrap l with
  | some tr => takeTrap s l.tid tr
  | none =>
    if 63 < n then takeTrap s l.tid ⟨.taskState, 0x18, 0⟩
    else if s.holds.any (fun h => h.ctx == l.tm.ctx && h.set == n) || s.waiters.any (fun w => w.ctx == l.tm.ctx && w.set == n) then
      takeTrap s l.tid (openTrap l.s l.tid .taskState)
    else { s with sets := s.sets.filter fun x => !(x.ctx == l.tm.ctx && x.id == n) }

/-! ### Checks of team-scope forms at their arrival -/

/-- tend is legal only in a task outside every world (R208). DEDUCED: log entry 36. -/
def tendTrap (l : Lane) : Option Trap := if l.tm.family.isNone || isWorld l.tm then some (openTrap l.s l.tid .taskState) else none

/-- tabort is legal only in a task (R205). -/
def tabortTrap (l : Lane) : Option Trap := if l.tm.family.isNone then some (openTrap l.s l.tid .taskState) else none

/-- fork.w needs record flag [3] and a count of 1 to 8 (R220). -/
def forkTrap (a : Nat) (l : Lane) : Option Trap :=
  let n := rdS l.g a
  if !recFlag l.s l.tm.id 3 then some (openTrap l.s l.tid .taskState)
  else if n.toNat == 0 || 8 < n.toNat then some ⟨.illegalOp, n, 0⟩ else none

/-- A choice is legal only in a world (R350). DEDUCED: log entry 36. -/
def choiceTrap (l : Lane) : Option Trap := if isWorld l.tm then none else some (openTrap l.s l.tid .taskState)

/-! ### The instructions -/

/-- Open a task (R351). -/
def execTbegin (a b : BitVec 6) (st : BitVec 2) (s : State) : Host.Outcome State Fault Refusal :=
  teamOp (encE 44#6 0#5 0#7 a b st) st { Uses.none cCtrl with rs := b.toNat :: (upto 4).map (a.toNat + ·), ban := true } (fun _ => none) (fun l => (upto 4).map (fun i => rdS l.g (a.toNat + i)) ++ [rdS l.g b.toNat]) s

/-- Commit the task (R352). -/
def execTend (st : BitVec 2) (s : State) : Host.Outcome State Fault Refusal :=
  teamOp (encE 44#6 1#5 0#7 0#6 0#6 st) st { Uses.none cCtrl with ban := true } tendTrap (fun _ => []) s

/-- Wound and roll back the own family (R205). -/
def execTabort (st : BitVec 2) (s : State) : Host.Outcome State Fault Refusal :=
  teamOp (encE 44#6 2#5 0#7 0#6 0#6 st) st { Uses.none cCtrl with last := true, ban := true } tabortTrap (fun _ => []) s

/-- Read the task state (R353). -/
def execTprobe (d : BitVec 7) (st : BitVec 2) (s : State) : Host.Outcome State Fault Refusal :=
  .next (laneOp (encE 44#6 3#5 d 0#6 0#6 st) st { Uses.none cCtrl with wv := [(d.toNat, 1)] } 4 (fun l => resV d.toNat (probeWord l)) s)

/-- Declare an atomic set (R354). -/
def execAdecl (a b : BitVec 6) (st : BitVec 2) (s : State) : Host.Outcome State Fault Refusal :=
  .next (issueHold (encE 44#6 4#5 0#7 a b st) st { Uses.none cCtrl with rb := [a.toNat], rs := [b.toNat], lead := 1 }
    (memHold 0 (laneAddr a.toNat fun l => (rdS l.g b.toNat).toNat)) (fun sl l s => perGroupAll (adeclBy a.toNat b.toNat) (encE 44#6 4#5 0#7 a b st) sl l s) s)

/-- Free a set id (R354). -/
def execAdrop (a : BitVec 6) (st : BitVec 2) (s : State) : Host.Outcome State Fault Refusal :=
  .next (issue (encE 44#6 5#5 0#7 a 0#6 st) st { Uses.none cCtrl with rs := [a.toNat], lead := 1 } (fun sl l s => perGroup (adropBy a.toNat) (encE 44#6 5#5 0#7 a 0#6 st) sl l s) s)

/-- Fork the team into worlds (R220). -/
def execForkW (d : BitVec 7) (a : BitVec 6) (st : BitVec 2) (s : State) : Host.Outcome State Fault Refusal :=
  teamOp (encE 45#6 0#5 d a 0#6 st) st { Uses.none cCtrl with wv := [(d.toNat, 1)], rs := [a.toNat], ban := true } (forkTrap a.toNat) (fun l => [rdS l.g a.toNat]) s

/-- Request that this world wins (R226). -/
def execChooseFirst (d : BitVec 7) (st : BitVec 2) (s : State) : Host.Outcome State Fault Refusal :=
  teamOp (encE 45#6 1#5 d 0#6 0#6 st) st { Uses.none cCtrl with wv := [(d.toNat, 1)], ban := true } choiceTrap (fun _ => []) s

/-- Arrive at the choice with a score (R227). -/
def execChooseBest (d : BitVec 7) (a : BitVec 6) (st : BitVec 2) (s : State) : Host.Outcome State Fault Refusal :=
  teamOp (encE 45#6 2#5 d a 0#6 st) st { Uses.none cCtrl with wv := [(d.toNat, 1)], rs := [a.toNat], ban := true } choiceTrap (fun l => [rdS l.g a.toNat]) s

/-- Withdraw from the choice (R227). -/
def execWabort (d : BitVec 7) (st : BitVec 2) (s : State) : Host.Outcome State Fault Refusal :=
  teamOp (encE 45#6 3#5 d 0#6 0#6 st) st { Uses.none cCtrl with wv := [(d.toNat, 1)], ban := true } choiceTrap (fun _ => []) s

/-- Read the world state (R229). -/
def execWquery (d : BitVec 7) (st : BitVec 2) (s : State) : Host.Outcome State Fault Refusal :=
  .next (laneOp (encE 45#6 4#5 d 0#6 0#6 st) st { Uses.none cCtrl with wv := [(d.toNat, 1)] } 4 (fun l => resV d.toNat (queryWord l)) s)

end Sys2Proof.Machine
end

