-- ==== Sys2Proof/Machine/Routine.lean ====
section
/-! DEFINITION. The region family: the ends of routines, reads of the save record, and poison (R186, R189, R356 to R358, R417). -/

namespace Sys2Proof.Machine

/-! ### exit.save (R175, R356) -/

/-- The release of exit.save has finished: the routine's stores are performed at device scope (R175). DEDUCED: log entry 47. -/
def saveReleased (s : State) (t : Tid) (th : Thread) : Bool :=
  relReady s t th .device (th.queue.filter fun a => !staysQueued s t th a) && troughsDone s t s.nextId false true

/-- The lane's region, or the whole grid, is in checked mode (R78, R189). -/
def checkedMode (s : State) (tm : Team) (r : Routine) : Bool :=
  recFlag s tm.id 4 || (match tm.regions[r.region]? with | some x => x.flags.getLsbD 0 | none => false)

/-- A lane waiting in exit.save ends its routine once its release has finished within the budget (R176). DEDUCED: log entry 47. -/
def finishSave (s : State) (t : Tid) : State :=
  match thread? s t, team? s t.team with
  | some th, some tm => match th.routine with
    | some r =>
      if th.wait == some .exitSave && th.status.isNone && s.time < r.budgetEnd && saveReleased s t th then
        endRoutine (modThread s t fun th => { th with checked := checkedMode s tm r }) t .routineOk
      else s
    | none => s
  | _, _ => s

/-- exit.save of one lane. -/
def exitSaveBy (l : Lane) (s : State) : State :=
  if inRoutine l.th .exit then finishSave (startWait s l.tid .exitSave) l.tid else takeTrap s l.tid (openTrap l.s l.tid .illegalOp)

/-! ### entry.done (R186, R189, R417) -/

/-- A register or a result of the thread is pending (R113). -/
def anyPending (l : Lane) : Bool :=
  !l.th.pend.isEmpty || !l.th.held.isEmpty || l.th.due.any (·.marked) || !l.g.spend.isEmpty

/-- The dump of a lane in the register image of its group's record. -/
def laneDump (s : State) (c : Context) (g : Group) (lane : Nat) : List Word :=
  match g.record with
  | none => []
  | some h => (upto g.regs).map fun r => BitVec.ofNat 32 (rdMem s (imageAt h (headerPlace c h).2.2 (rdMem s (h + 0x24) 4 / 128 % 1024 + r) lane) 4)

/-- Live-mask registers that differ from the dump; a poisoned one counts as differing. -/
def rebuildDiff (live : BitVec 128) (dump : List Word) (th : Thread) : List Nat :=
  (upto dump.length).filter fun r => live.getLsbD r && (th.poison.getLsbD r || rdV th r ≠ dump.getD r 0)

/-- The lane stands at `%resume` with its return stack, restored. -/
def resumeLane (r : Routine) (th : Thread) : Thread :=
  { th with routine := none, stack := r.stack, pc := r.resume, jump := none, restored := true, stoppedEntry := false, checked := false }

/-- The reporting trap REBUILD_MISMATCH: registers come from the dump, a record is written, and a handler runs if there is one. DEDUCED: log entry 31. -/
def rebuildTrap (s : State) (t : Tid) (handler : Word) (dump : List Word) (diff : List Nat) : State :=
  let put := fun (v : List Word) => (upto v.length).map fun i => if i < dump.length then dump.getD i 0 else v.getD i 0
  let s := modThread s t fun th =>
    { th with v := put th.v, poison := 0, cause := Cause.rebuildMismatch.code, tvalLo := BitVec.ofNat 32 (diff.headD 0), tvalHi := BitVec.ofNat 32 diff.length
              tret := th.pc.off }
  if handler ≠ 0 then
    modThread s t fun th => if th.handler.isNone then { th with handler := some ⟨th.pc, true⟩, pc := Pc.at handler } else th
  else s

/-- entry.done of one lane. -/
def entryDoneBy (l : Lane) (s : State) : State :=
  match l.th.routine, ctx? s l.tm.ctx with
  | some r, some c =>
    if r.kind ≠ .entry then takeTrap s l.tid (openTrap l.s l.tid .illegalOp)
    else
      let live := match l.tm.regions[r.region]? with | some x => x.live | none => 0
      let dump := if l.th.checked then laneDump s c l.g l.tid.lane else []
      let diff := rebuildDiff live dump l.th
      let s := modThread (leaveFlock s l.tid) l.tid (resumeLane r)
      let s := if diff.isEmpty then s
        else rebuildTrap (writeFault s (threadFault s l.tid Cause.rebuildMismatch.code l.th.pc.off 0 0)).2 l.tid c.handler dump diff
      markRestored s l.tid.team
  | _, _ => takeTrap s l.tid (openTrap l.s l.tid .illegalOp)

/-! ### rrec (R357) -/

/-- Word of a byte list. -/
def wordAt (bs : List Byte) (off : Nat) : Word := BitVec.ofNat 32 (fieldAt bs off 4)

/-- The word of the thread's save record that rrec reads: captured in an exit routine, as restored in an entry routine. -/
def recWord (l : Lane) (off : Nat) : Word :=
  let old := if inRoutine l.th .entry then l.g.record else none
  match old, ctx? l.s l.tm.ctx with
  | some h, some c =>
    BitVec.ofNat 32 (rdMem l.s (if off < 0x400 then h + off else laneBlockAt h (headerPlace c h).2.2 l.tid.lane + (off - 0x400)) 4)
  | _, _ =>
    if off < 0x400 then wordAt (headerBytes l.s l.tm l.tid.group l.g 0 0) off
    else wordAt (laneBlock l.s l.tm l.tid l.th 0) (off - 0x400)

/-- rrec of one lane: the word arrives later, under WAIT L. DESIGN CHOICE: log entry 46. -/
def rrecBy (d a : Nat) (l : Lane) (s : State) : State :=
  let x := rdS l.g a
  if l.th.routine.isNone then takeTrap s l.tid (openTrap l.s l.tid .illegalOp)
  else if x.toNat % 4 ≠ 0 then takeTrap s l.tid ⟨.misalign, x, 0⟩
  else if 0x500 ≤ x.toNat then takeTrap s l.tid ⟨.illegalOp, x, 0⟩
  else modThread { s with nextId := s.nextId + 1 } l.tid fun th => { th with
    pend := th.pend ++ [⟨.v d, .load, s.nextId⟩], held := th.held ++ [⟨s.nextId, [(.v d, (recWord l x.toNat).setWidth 80)]⟩] }

/-- Words of save records that are on their way arrive (R357). -/
def deliverRecords (th : Thread) : Thread :=
  let ts := (th.pend.filter fun p => p.why == .load).map (·.tok)
  let now := th.held.filter fun h => ts.contains h.tok
  now.foldl (fun th h => h.vals.foldl (fun th w => putReg th w.1 w.2)
    { th with held := th.held.filter (fun x => x.tok ≠ h.tok), pend := th.pend.filter fun p => p.tok ≠ h.tok }) th

/-! ### rpoison (R358) -/

/-- The mask in four scalar registers. -/
def scalarMask (g : Group) (a : Nat) : BitVec 128 := rdS g (a + 3) ++ rdS g (a + 2) ++ rdS g (a + 1) ++ rdS g a

/-- Registers below the rounded count that a mask names. -/
def poisonRegs (g : Group) (a : Nat) : List Nat := (maskRegs (scalarMask g a)).filter (· < g.regs)

/-! ### The instructions -/

/-- End the exit routine after a release (R356). -/
def execExitSave (st : BitVec 2) (s : State) : Host.Outcome State Fault Refusal :=
  .next (issue (encE 46#6 0#5 0#7 0#6 0#6 st) st { Uses.none cCtrl with last := true } (fun sl l s => perLane exitSaveBy (encE 46#6 0#5 0#7 0#6 0#6 st) sl l s) s)

/-- End the entry routine (R356). -/
def execEntryDone (st : BitVec 2) (s : State) : Host.Outcome State Fault Refusal :=
  .next (issueHold (encE 46#6 1#5 0#7 0#6 0#6 st) st { Uses.none cCtrl with last := true } anyPending (fun sl l s =>
    let x := l.filter fun t => match thread? s t with | some th => inRoutine th .exit | none => false
    let s := x.foldl (fun s t => violate s t (encE 46#6 1#5 0#7 0#6 0#6 st)) s
    perLane entryDoneBy (encE 46#6 1#5 0#7 0#6 0#6 st) sl (l.filter fun t => !x.contains t) s) s)

/-- Read a word of the save record (R357). -/
def execRrec (d : BitVec 7) (a : BitVec 6) (st : BitVec 2) (s : State) : Host.Outcome State Fault Refusal :=
  .next (issue (encE 46#6 2#5 d a 0#6 st) st { Uses.none cCtrl with wv := [(d.toNat, 1)], rs := [a.toNat] } (fun sl l s => perLane (rrecBy d.toNat a.toNat) (encE 46#6 2#5 d a 0#6 st) sl l s) s)

/-- Poison the registers of a mask (R358). -/
def execRpoison (a : BitVec 6) (st : BitVec 2) (s : State) : Host.Outcome State Fault Refusal :=
  .next (issueHold (encE 46#6 3#5 0#7 a 0#6 st) st { Uses.none cCtrl with rs := (upto 4).map (a.toNat + ·) }
    (fun l => (poisonRegs l.g a.toNat).any fun n => pendingReg l.th (.v n))
    (laneEffect 4 (encE 46#6 3#5 0#7 a 0#6 st) fun l => .ok ((poisonRegs l.g a.toNat).map fun n => (.poison n, 0))) s)

end Sys2Proof.Machine
end

