-- ==== Sys2Proof/Machine/Work.lean ====
section
/-! DEFINITION. The work family: launches, exits, tyield, wait.ext, host signals and sleeps (R38, R113 to R119, R359 to R364, R426). -/

namespace Sys2Proof.Machine

/-- An operation of a world or a task is deferred (R207, R224). -/
def defers (tm : Team) : Bool := isWorld tm || tm.family.isSome

/-- Put an operation into the lane's deferred queue, or trap DEFER_FULL (R225). -/
def deferOp (kind : Nat) (addr : VAddr) (value : Word) (l : Lane) (s : State) : State :=
  if deferCap s l.tm ≤ deferCount s l.tm then takeTrap s l.tid (openTrap l.s l.tid .deferFull)
  else { s with deferred := s.deferred ++ [⟨l.tid, (deferKey l.tm).1, (deferKey l.tm).2, kind, addr, value, none, l.th.pc.off⟩] }

/-- launch of a group by its performing lane (R359). DEDUCED: log entry 48. -/
def launchBy (a b : Nat) (l : Lane) (s : State) : State :=
  match objectAt 256 a (rdS l.g b).toNat l with
  | .error m => takeMemTrap s l.tid m
  | .ok va =>
    if defers l.tm then deferOp 1 (BitVec.ofNat 80 va) 0 l s
    else
      let w : LaunchWait := ⟨l.tid, l.tm.ctx, BitVec.ofNat 80 va, s.nextId, none, false, l.th.pc.off⟩
      let s := { s with nextId := s.nextId + 1, launches := s.launches ++ [w] }
      let s := match ctx? s l.tm.ctx with | some c => if launchReady s w c then takeLaunch s w c else s | none => s
      if s.launches.any fun x => x.seq == w.seq then startWait s l.tid (.launch w.addr) else s

/-- An exit does not issue: a register is pending, a logged entry is held (R148), or a pen update is unanswered (R377). -/
def exitHold (l : Lane) : Bool := anyPending l || fenceHold l

/-- A lane retires, for good or provisionally inside an open task (R113, R426). -/
def retireLane (l : Lane) (s : State) : State :=
  retireGroups (modThread (leaveFlock s l.tid) l.tid fun th => { th with life := if l.tm.family.isSome then .provisional else .retired, jump := none }) l.tid.team

/-- exit of one lane: not by the last live thread of a team in a task or a world (R115, R223). -/
def exitBy (l : Lane) (s : State) : State :=
  if defers l.tm && (liveTids s l.tid.team).all (· == l.tid) then takeTrap s l.tid (openTrap l.s l.tid .taskState) else retireLane l s

/-- The offset that a failed check of R77 names for a successor record (R119). -/
def succField (s : State) (c : Context) (addr : Nat) (t : Trap) : Word :=
  match (ctxRead s c addr 256).1 with
  | .ok bs =>
    let wo := fieldAt bs 0xE0 10
    if t == ⟨.protection, BitVec.ofNat 32 wo, BitVec.ofNat 32 (wo / 2 ^ 32)⟩ then 0xE0 else t.lo
  | .error _ => t.lo

/-- exit.succ of one lane (R118, R119, R360). DEDUCED: log entry 48. -/
def exitSuccBy (a b : Nat) (l : Lane) (s : State) : State :=
  let va := ((rdB l.tm l.th a).toNat + (rdS l.g b).toNat) % 2 ^ 80
  let addr : VAddr := BitVec.ofNat 80 va
  if va % 256 ≠ 0 then takeMemTrap s l.tid (addrTrap .misalign va)
  else if defers l.tm || (l.tm.succ.isSome && l.tm.succ ≠ some addr) then takeTrap s l.tid (openTrap l.s l.tid .taskState)
  else match ctx? s l.tm.ctx with
    | none => s
    | some c =>
      let r := readRecord s c va
      match r.1 with
      | .error (.trap t) => takeTrap r.2 l.tid ⟨.taskState, succField s c va t, 0⟩
      | .error (.fault f x) => takeMemTrap r.2 l.tid { addrTrap f.cause x with detail := f.detail kindRead }
      | .ok x => match succBad r.2 l.tm c x.record with
        | some o => takeTrap r.2 l.tid ⟨.taskState, BitVec.ofNat 32 o, 0⟩
        | none => retireLane l (modTeam r.2 l.tid.team fun t => { t with succ := some addr })

/-- Threads that no longer count let rendezvous and barriers of their team complete (R110, R113). -/
def exitEffect (f : Lane → State → State) (word : Word) (sl : Slot) (l : List Tid) (s : State) : State :=
  let s := perLane f word sl l s
  match l with | t :: _ => meetAll s t.team | [] => s

/-- tyield in a routine only yields the slot; elsewhere it is a rendezvous of the team (R361). -/
def yieldEffect (word : Word) (sl : Slot) (l : List Tid) (s : State) : State :=
  let inR := l.filter fun t => match thread? s t with | some th => inRoutineCode th | none => false
  let s := if inR.isEmpty then s else modSlot s sl.key fun x => { x with yielded := true }
  teamEffect (fun _ => none) (fun _ => []) word sl (l.filter fun t => !inR.contains t) s

/-- wait.ext of one lane: its read joins the queue, and the lane waits (R362). DEDUCED: log entry 45. -/
def waitExtBy (d a b : Nat) (l : Lane) (s : State) : State :=
  let off := (rdS l.g b).toNat
  match objectAt 8 a off l with
  | .error m => takeMemTrap s l.tid m
  | .ok _ =>
    if isWorld l.tm then takeTrap s l.tid ⟨.worldExternal, 0, 0⟩
    else match memChecks l kindRead (mkReq (.waitExt (rdV64 l.th d)) 8 0#3 []) a off with
      | .trap m => takeMemTrap s l.tid m
      | .defer _ => s
      | .go r _ =>
        let e := enqueue { s with nextId := s.nextId + 1 } l.tid r s.nextId l.th.pc.off true
        startWait e.2 l.tid (.waitExt e.1)

/-- sig.host of a group: its signal waits for the earlier stores of the group's admitted threads (R38, R363). DEDUCED: log entry 48. -/
def sigBy (a : Nat) (l : Lane) (ts : List Tid) (s : State) : State :=
  let i := rdS l.g a
  if defers l.tm then deferOp 0 0 i l s
  else match ctx? s l.tm.ctx with
    | none => s
    | some c =>
      if c.vecCount ≤ i.toNat then takeTrapFull s l.tid ⟨.protection, i, 0⟩ l.th.pc 0 0
      else { s with host := { s.host with sigs := s.host.sigs ++ [(ts, c.msix, c.vecBase + i.toNat)] } }

/-- sleep of one lane (R364). -/
def sleepBy (a : Nat) (l : Lane) (s : State) : State :=
  let n := (rdS l.g a).toNat
  if n == 0 then s else startWait s l.tid (.sleep (s.time + n))

/-! ### The instructions -/

/-- Hand a task record to the queue controller (R359). -/
def execLaunch (a b : BitVec 6) (st : BitVec 2) (s : State) : Host.Outcome State Fault Refusal :=
  .next (issueHold (encE 54#6 0#5 0#7 a b st) st { Uses.none cCtrl with rb := [a.toNat], rs := [b.toNat], lead := 1, ban := true } fenceHold
    (fun sl l s => perGroup (launchBy a.toNat b.toNat) (encE 54#6 0#5 0#7 a b st) sl l s) s)

/-- Retire the thread (R113). -/
def execExit (st : BitVec 2) (s : State) : Host.Outcome State Fault Refusal :=
  .next (issueHold (encE 54#6 1#5 0#7 0#6 0#6 st) st { Uses.none cCtrl with last := true, ban := true } exitHold (exitEffect exitBy (encE 54#6 1#5 0#7 0#6 0#6 st)) s)

/-- Retire the thread and name a successor record (R360). -/
def execExitSucc (a b : BitVec 6) (st : BitVec 2) (s : State) : Host.Outcome State Fault Refusal :=
  .next (issueHold (encE 54#6 2#5 0#7 a b st) st { Uses.none cCtrl with last := true, rb := [a.toNat], rs := [b.toNat], priv := true, ban := true } exitHold
    (exitEffect (exitSuccBy a.toNat b.toNat) (encE 54#6 2#5 0#7 a b st)) s)

/-- Offer the team to its dispatcher (R361). -/
def execTyield (st : BitVec 2) (s : State) : Host.Outcome State Fault Refusal :=
  .next (issue (encE 54#6 3#5 0#7 0#6 0#6 st) st { Uses.none cCtrl with bad := inSpan s } (yieldEffect (encE 54#6 3#5 0#7 0#6 0#6 st)) s)

/-- Wait while a signal word equals a value (R362). -/
def execWaitExt (d : BitVec 7) (a b : BitVec 6) (st : BitVec 2) (s : State) : Host.Outcome State Fault Refusal :=
  .next (issueHold (encE 54#6 4#5 d a b st) st { Uses.none cCtrl with rv := [(d.toNat, 2)], rb := [a.toNat], rs := [b.toNat], ban := true }
    (memHold 0 (laneAddr a.toNat fun l => (rdS l.g b.toNat).toNat)) (fun sl l s => perLane (waitExtBy d.toNat a.toNat b.toNat) (encE 54#6 4#5 d a b st) sl l s) s)

/-- Raise a vector of the context (R363). -/
def execSigHost (a : BitVec 6) (st : BitVec 2) (s : State) : Host.Outcome State Fault Refusal :=
  .next (issue (encE 54#6 5#5 0#7 a 0#6 st) st { Uses.none cCtrl with rs := [a.toNat], lead := 1 } (fun sl l s => perGroupAll (sigBy a.toNat) (encE 54#6 5#5 0#7 a 0#6 st) sl l s) s)

/-- Wait for a count of device ticks (R364). -/
def execSleep (a : BitVec 6) (st : BitVec 2) (s : State) : Host.Outcome State Fault Refusal :=
  .next (issue (encE 54#6 6#5 0#7 a 0#6 st) st { Uses.none cCtrl with rs := [a.toNat], ban := true } (fun sl l s => perLane (sleepBy a.toNat) (encE 54#6 6#5 0#7 a 0#6 st) sl l s) s)

end Sys2Proof.Machine
end

