-- ==== Sys2Proof/Machine/System.lean ====
section
/-! DEFINITION. The system family: traps and returns, privileged registers, code-line pins, trace and counters (R365 to R369). -/

namespace Sys2Proof.Machine

/-! ### Traps and returns (R365, R366) -/

/-- trap of one lane: the return offset is the word after it. -/
def trapBy (a : Nat) (l : Lane) (s : State) : State := takeTrapAt s l.tid ⟨.trapInst, rdS l.g a, 0⟩ (Pc.next l.th.pc)

/-- tret or tret.skip of one lane.  A return that would leave the code of a routine is one: a lane whose exit routine was entered from its
handler violates the routine, and one whose entry routine was is not in its handler yet (R175, R187). DEDUCED: log entry 29. -/
def tretBy (skip : Bool) (l : Lane) (s : State) : State :=
  if l.th.handler.isNone then takeTrap s l.tid (openTrap l.s l.tid .illegalOp)
  else if inRoutine l.th .exit then violate s l.tid l.word
  else if inRoutineCode l.th then takeTrap s l.tid (openTrap l.s l.tid .illegalOp)
  else modThread (leaveFlock s l.tid) l.tid fun th => trapReturn th skip

/-! ### Privileged registers (R367, R239) -/

/-- Value of a privileged register. -/
def privRead (c : Context) (n : Nat) : Option Word :=
  match n with
  | 0 => some (BitVec.ofNat 32 c.id)
  | 1 => some (BitVec.ofNat 32 (c.pav * 65536 + c.part % 65536))
  | 2 => some (BitVec.ofNat 32 c.window)
  | 3 => some (BitVec.ofNat 32 (c.window / 2 ^ 32))
  | 4 => some c.sample
  | 5 => some c.seed
  | 6 => some (BitVec.ofNat 32 c.faultHead)
  | 7 => some (BitVec.ofNat 32 c.faultLost)
  | _ => none

/-- A watchdog window of 0 counts as 2^24 ticks (R32). DEDUCED: log entry 50. -/
def windowOf (n : Nat) : Nat := if n == 0 then 2 ^ 24 else n

/-- Samplers of a context as its configuration starts: one for each quadrant of the partition's clusters (R239). DEDUCED: log entry 33. -/
def configSamplers (s : State) (c : Context) : State :=
  let rest := s.observe.samplers.filter fun x => x.ctx ≠ c.id
  let seed : BitVec 16 := if c.seed.extractLsb' 0 16 == 0#16 then 0xACE1#16 else c.seed.extractLsb' 0 16
  let y := lfsrNext seed
  let b := c.sample.toNat
  let new := if b == 0 then [] else (coresOf (usableClusters s c.part)).flatMap fun k => (upto 4).map fun q => (⟨k, q, c.id, y, s.time + b + y.toNat % b⟩ : Sampler)
  { s with observe := { s.observe with samplers := rest ++ new } }

/-- Change a context and restart its samplers. -/
def reconfigure (s : State) (ctx : Nat) (f : Context → Context) : State :=
  let s := modCtx s ctx f
  match ctx? s ctx with | some c => configSamplers s c | none => s

/-- Write a privileged register; `none` where the write traps. DEDUCED: log entry 50. -/
def privWrite (s : State) (ctx n : Nat) (x : Word) : Option State :=
  match n with
  | 2 => some (modCtx s ctx fun c => { c with wdLo := x })
  | 3 => some (modCtx s ctx fun c => { c with window := windowOf (x ++ c.wdLo).toNat, idle := 0, noticed := false })
  | 4 => if (x.toNat ≠ 0 && x.toNat < 256) || 65536 < x.toNat then none else some (reconfigure s ctx fun c => { c with sample := x })
  | 5 => some (reconfigure s ctx fun c => { c with seed := x })
  | _ => none

/-- wrpriv of a group by its performing lane. -/
def wrprivBy (d n : Nat) (l : Lane) (s : State) : State :=
  match privWrite s l.tm.ctx n (rdV l.th d) with
  | some s => s
  | none => takeTrap s l.tid (openTrap l.s l.tid .illegalOp)

/-! ### Code lines (R136, R368) -/

/-- First addresses in the 64-byte lines that meet a range of `n` bytes from an address. -/
def codeLines (a n : Nat) : List Nat := if n == 0 then [] else (upto ((a % 64 + n + 63) / 64)).map fun i => (a / 64 + i) * 64

/-- Fetch code lines; the lines whose fetch translates. -/
def fetchLines (s : State) (tm : Team) (c : Context) : List Nat → List Nat × State
  | [] => ([], s)
  | x :: l =>
    if regionNo x ≠ 0 then fetchLines s tm c l
    else
      let r := translateNow s false (.core tm.core) c x kindFetch
      let q := fetchLines r.2 tm c l
      match r.1 with | .ok _ => (x / 64 :: q.1, q.2) | .error _ => q

/-- Pin lines in ascending order while the core has room at the level; the number of lines newly pinned. -/
def pinLines (tm : Team) (level : Nat) : List Nat → State → Nat × State
  | [], s => (0, s)
  | x :: l, s =>
    let mine := s.pins.any fun p => p.core == tm.core && p.team == tm.id && p.level == level && p.line == x
    if mine || 64 ≤ (s.pins.filter fun p => p.core == tm.core && p.level == level).length then pinLines tm level l s
    else
      let q := pinLines tm level l { s with pins := s.pins ++ [⟨tm.core, tm.id, level, x⟩] }
      (q.1 + 1, q.2)

/-- What a code-line instruction does to the lines of its range: the result and the state. -/
abbrev LineOp := Team → Context → Nat → List Nat → State → Nat × State

/-- ipref, ipin and iunpin of a group. -/
def codeLineBy (f : LineOp) (rd : Option Nat) (a b : Nat) (sl : Slot) (l : Lane) (ts : List Tid) (s : State) : State :=
  let x := rdS l.g b
  if x.extractLsb' 24 7 ≠ 0#7 then takeTrap s l.tid (openTrap l.s l.tid .illegalOp)
  else match ctx? s l.tm.ctx with
    | none => s
    | some c =>
      let r := f l.tm c (x.extractLsb' 31 1).toNat (codeLines ((l.tm.b.getD 14 0).toNat + (rdS l.g a).toNat) (x.extractLsb' 0 24).toNat) s
      match rd with | some d => writeAllV r.2 sl 4 ts d (BitVec.ofNat 32 r.1) | none => r.2

/-- Fetch without pinning. -/
def lineFetch : LineOp := fun tm c _ ls s => (0, (fetchLines s tm c ls).2)

/-- Fetch and pin. -/
def linePin : LineOp := fun tm c level ls s => let q := fetchLines s tm c ls; pinLines tm level q.1 q.2

/-- Release the team's pins. -/
def lineUnpin : LineOp := fun tm _ level ls s =>
  let hit := fun (p : Pin) => p.core == tm.core && p.team == tm.id && p.level == level && ls.contains (p.line * 64)
  ((s.pins.filter hit).length, { s with pins := s.pins.filter fun p => !hit p })

/-! ### Trace records and counters (R240, R243, R369) -/

/-- tmark of one lane; a trace record names no unpicked path. DESIGN CHOICE: log entry 49. -/
def tmarkBy (d : Nat) (sl : Slot) (l : Lane) (s : State) : State :=
  ringWrite s l.tm.ctx (ringBytes 2 l.tm.core l.g.quad sl.k l.tm.slot s.time l.th.pc.off.toNat (2 ^ l.tid.lane) (rdV l.th d).toNat (2 ^ 64 - 1) 0)

/-- The counter that perf.rd reads. -/
def perfRes (d a : Nat) (l : Lane) : LaneRes :=
  let n := (rdS l.g a).toNat
  if 12 ≤ n then .error (openTrap l.s l.tid .illegalOp) else resV64 d (BitVec.ofNat 64 (l.tm.counters.getD n 0))

/-! ### The instructions -/

/-- Take TRAP_INST (R365). -/
def execTrap (a : BitVec 6) (st : BitVec 2) (s : State) : Host.Outcome State Fault Refusal :=
  .next (issue (encE 55#6 0#5 0#7 a 0#6 st) st { Uses.none cCtrl with rs := [a.toNat] } (fun sl l s => perLane (trapBy a.toNat) (encE 55#6 0#5 0#7 a 0#6 st) sl l s) s)

/-- Take BREAK (R365). -/
def execBrk (st : BitVec 2) (s : State) : Host.Outcome State Fault Refusal :=
  .next (issue (encE 55#6 1#5 0#7 0#6 0#6 st) st (Uses.none cCtrl) (fun sl l s => perLane (fun l s => takeTrap s l.tid ⟨.brk, 0, 0⟩) (encE 55#6 1#5 0#7 0#6 0#6 st) sl l s) s)

/-- Read a privileged register (R367). DEDUCED: log entry 14. -/
def execRdpriv (d : BitVec 7) (a : BitVec 6) (st : BitVec 2) (s : State) : Host.Outcome State Fault Refusal :=
  .next (laneOp (encE 55#6 2#5 d a 0#6 st) st { Uses.none cCtrl with wv := [(d.toNat, 1)], priv := true } 4
    (fun l => match (ctx? l.s l.tm.ctx).bind fun c => privRead c a.toNat with | some x => resV d.toNat x | none => .error (openTrap l.s l.tid .illegalOp)) s)

/-- Write a privileged register (R367). -/
def execWrpriv (d : BitVec 7) (a : BitVec 6) (st : BitVec 2) (s : State) : Host.Outcome State Fault Refusal :=
  .next (issue (encE 55#6 3#5 d a 0#6 st) st { Uses.none cCtrl with rv := [(d.toNat, 1)], priv := true, lead := 1 } (fun sl l s => perGroup (wrprivBy d.toNat a.toNat) (encE 55#6 3#5 d a 0#6 st) sl l s) s)

/-- Return from the trap handler (R366). -/
def execTret (st : BitVec 2) (s : State) : Host.Outcome State Fault Refusal :=
  .next (issue (encE 55#6 4#5 0#7 0#6 0#6 st) st { Uses.none cCtrl with last := true } (fun sl l s => perLane (tretBy false) (encE 55#6 4#5 0#7 0#6 0#6 st) sl l s) s)

/-- Return to the word after the trapping one (R366). -/
def execTretSkip (st : BitVec 2) (s : State) : Host.Outcome State Fault Refusal :=
  .next (issue (encE 55#6 4#5 0#7 0#6 1#6 st) st { Uses.none cCtrl with last := true } (fun sl l s => perLane (tretBy true) (encE 55#6 4#5 0#7 0#6 1#6 st) sl l s) s)

/-- Fetch code lines (R368). -/
def execIpref (a b : BitVec 6) (st : BitVec 2) (s : State) : Host.Outcome State Fault Refusal :=
  .next (issue (encE 55#6 5#5 0#7 a b st) st { Uses.none cCtrl with rs := [a.toNat, b.toNat], lead := 1 } (fun sl l s => perGroupAll (codeLineBy lineFetch none a.toNat b.toNat sl) (encE 55#6 5#5 0#7 a b st) sl l s) s)

/-- Fetch and pin code lines (R368). -/
def execIpin (d : BitVec 7) (a b : BitVec 6) (st : BitVec 2) (s : State) : Host.Outcome State Fault Refusal :=
  .next (issue (encE 55#6 6#5 d a b st) st { Uses.none cCtrl with wv := [(d.toNat, 1)], rs := [a.toNat, b.toNat], lead := 1 } (fun sl l s => perGroupAll (codeLineBy linePin (some d.toNat) a.toNat b.toNat sl) (encE 55#6 6#5 d a b st) sl l s) s)

/-- Release pins of code lines (R368). -/
def execIunpin (d : BitVec 7) (a b : BitVec 6) (st : BitVec 2) (s : State) : Host.Outcome State Fault Refusal :=
  .next (issue (encE 55#6 7#5 d a b st) st { Uses.none cCtrl with wv := [(d.toNat, 1)], rs := [a.toNat, b.toNat], lead := 1 } (fun sl l s => perGroupAll (codeLineBy lineUnpin (some d.toNat) a.toNat b.toNat sl) (encE 55#6 7#5 d a b st) sl l s) s)

/-- Write a trace record (R369). -/
def execTmark (d : BitVec 7) (st : BitVec 2) (s : State) : Host.Outcome State Fault Refusal :=
  .next (issue (encE 55#6 8#5 d 0#6 0#6 st) st { Uses.none cCtrl with rv := [(d.toNat, 1)] } (fun sl l s => perLane (tmarkBy d.toNat sl) (encE 55#6 8#5 d 0#6 0#6 st) sl l s) s)

/-- Read a team counter (R369). -/
def execPerfRd (d : BitVec 7) (a : BitVec 6) (st : BitVec 2) (s : State) : Host.Outcome State Fault Refusal :=
  .next (laneOp (encE 55#6 9#5 d a 0#6 st) st { Uses.none cCtrl with wv := [(d.toNat, 2)], rs := [a.toNat] } 4 (perfRes d.toNat a.toNat) s)

/-- Read device time (R369). -/
def execClk (d : BitVec 7) (st : BitVec 2) (s : State) : Host.Outcome State Fault Refusal :=
  .next (laneOp (encE 55#6 10#5 d 0#6 0#6 st) st { Uses.none cCtrl with wv := [(d.toNat, 2)] } 4 (fun l => resV64 d.toNat (BitVec.ofNat 64 l.s.time)) s)

end Sys2Proof.Machine
end

