-- ==== Sys2Proof/Machine/Power.lean ====
section
/-! DEFINITION. Power islands, corrected errors and the Bascy link (R9 to R23, R233). -/

namespace Sys2Proof.Machine

/-! ### Islands (R10 to R16) -/

/-- An island is a core half. -/
def isCoreHalf (i : Nat) : Bool := i < 12 && i % 3 ≠ 2

/-- The lowest non-gated step of an island (R10). -/
def lowestStep (i : Nat) : Nat := if i < 12 then 2 else if i == 13 then 0 else 1

/-- Cores of an island: of a core half, or of the die for its L2 and fabric. DEDUCED: log entry 55. -/
def islandCores (i : Nat) : List Nat :=
  if isCoreHalf i then (upto 1024).filter fun c => islandOf c == i
  else if i < 12 then (upto 1024).filter fun c => dieOf c == i / 3
  else []

/-- A pre-emption of a team of the island is in progress. -/
def islandPreempting (s : State) (i : Nat) : Bool := s.teams.any fun t => t.state == .preempting && (islandCores i).contains t.core

/-- A team stands on a core of the island. -/
def islandBusy (s : State) (i : Nat) : Bool := s.teams.any fun t => t.onCore && (islandCores i).contains t.core

/-- Change an island. -/
def modIsland (s : State) (i : Nat) (f : Island → Island) : State := { s with islands := updAt i f s.islands }

/-- Set an island's step at once. -/
def setStep (s : State) (i step : Nat) : State := modIsland s i fun x => { x with step := step, deferred := none, phase := 0 }

/-- Set or clear a cause that holds the step below 0 (R16). -/
def setLimit (s : State) (i bit : Nat) (b : Bool) : State := modIsland s i fun x => { x with limit := setBit x.limit bit b }

/-- A change of step takes effect: at step 0 neither the power limit nor a management request holds the island (R16). -/
def takeStep (s : State) (i step : Nat) : State :=
  let s := setStep s i step
  if step == 0 then setLimit (setLimit s i 0 false) i 2 false else s

/-- Change an island's step, or defer the change until no team of the island is under pre-emption (R13). -/
def changeStep (s : State) (i step : Nat) : State :=
  if islandPreempting s i then modIsland s i fun x => { x with deferred := some step } else takeStep s i step

/-- The management interface sets the power limit (R14): a value outside 1,200 W to 2,800 W or no multiple of 10 W changes nothing, of
which the spec says nothing. DESIGN CHOICE: log entry 5. -/
def execPowerLimitSet (watts : Nat) (s : State) : Host.Outcome State Fault Refusal :=
  .next (if 1200 ≤ watts && watts ≤ 2800 && watts % 10 == 0 then { s with powerLimit := watts } else s)

/-- Islands in the order in which firmware lowers their steps: core halves, L2 and fabric, HBM PHY (R14). -/
def powerOrder : List Nat := [0, 1, 3, 4, 6, 7, 9, 10, 2, 5, 8, 11, 14, 15]

/-- Step of an island. -/
def stepOf (s : State) (i : Nat) : Nat := match s.islands[i]? with | some x => x.step | none => 0

/-- Group of an island in the order of R14. -/
def powerGroup (i : Nat) : Nat := if isCoreHalf i then 0 else if i < 12 then 1 else 2

/-- The island that firmware lowers next: of the first group with room, the highest clock, then the lowest number. DESIGN CHOICE: log entry 53. -/
def nextLower (s : State) : Option Nat :=
  minBy (fun (i : Nat) => powerGroup i * 8 + stepOf s i) (powerOrder.filter fun i => stepOf s i < lowestStep i && (match s.islands[i]? with | some x => x.deferred.isNone | none => false))

/-- The island that firmware raises next: the reverse order, among islands that only the power limit holds. -/
def nextRaise (s : State) : Option Nat :=
  minBy (fun (i : Nat) => (2 - powerGroup i) * 8 + (2 - stepOf s i)) (powerOrder.reverse.filter fun i => match s.islands[i]? with
    | some x => x.limit == 1#4 && 0 < x.step && x.step ≤ lowestStep i && x.deferred.isNone | none => false)

/-- The end of a 10 ms window with an average of `watts`: one step is lowered, or raised (R14). DESIGN CHOICE: log entry 53. -/
def execPowerWindow (watts : Nat) (s : State) : Host.Outcome State Fault Refusal :=
  .next (if s.powerLimit < watts then
      (match nextLower s with | some i => changeStep (setLimit s i 0 true) i (stepOf s i + 1) | none => s)
    else if watts * 100 < s.powerLimit * 95 then
      (match nextRaise s with | some i => changeStep s i (stepOf s i - 1) | none => s)
    else s)

/-- Gate a core half that holds no team; the refusal of one that holds teams is answered with status BUSY and changes nothing else (R13). -/
def gateHalf (s : State) (i : Nat) : State :=
  if !isCoreHalf i then s
  else if islandBusy s i then { s with gateStatus := .busy }
  else { setStep (setLimit s i 2 true) i 3 with gateStatus := .ok }

/-- A request to gate a core half (R13). DESIGN CHOICE: log entry 53. -/
def execIslandGateRequest (island : Nat) (s : State) : Host.Outcome State Fault Refusal := .next (gateHalf s island)

/-- A deferred change of step takes effect once no team of the island is under pre-emption (R13). -/
def execIslandStepChange (island : Nat) (s : State) : Host.Outcome State Fault Refusal :=
  .next (match s.islands[island]? with
    | some x => match x.deferred with
      | some k => if islandPreempting s island then s else takeStep s island k
      | none => s
    | none => s)

/-- The management interface requests a step: a lower clock at once or deferred, a higher clock unless another cause holds it (R13, R16). DESIGN CHOICE: log entry 53. -/
def execManagementStepRequest (island step : Nat) (s : State) : Host.Outcome State Fault Refusal :=
  .next (if 16 ≤ island then s
    else if step == 3 then gateHalf s island
    else if lowestStep island < step then s
    else
      let cur := stepOf s island
      let s := if 0 < step then setLimit s island 2 true else s
      if cur < step || (step < cur && (match s.islands[island]? with | some x => x.limit &&& 11#4 == 0#4 | none => false)) then changeStep s island step
      else if step == 0 then setLimit s island 2 false
      else s)

/-! ### Warnings (R9, R233) -/

/-- Contexts with an armed checkpoint, ascending. -/
def armedCtxs (s : State) : List Nat := sortBy (fun (n : Nat) => n) ((s.contexts.filter fun c => c.armed.isSome).map fun c => c.id)

/-- A warning: each armed context is to be checkpointed, in ascending id (R233). -/
def postWarning (s : State) : State :=
  let new := (armedCtxs s).filter fun c => !s.observe.warned.contains c
  { s with observe := { s.observe with warned := s.observe.warned ++ new } }

/-- A corrected error of a channel (0 to 255), or with `link` of a die-to-die link (0 to 3), is counted; a count within one second that
reaches CKWARN is a warning (R9, R233). DEDUCED: log entry 54. -/
def execCorrectedError (link : Bool) (index : Nat) (s : State) : Host.Outcome State Fault Refusal :=
  .next (if (if link then 4 else 256) ≤ index then s
    else
      let sec := s.time / 800000000
      let o := s.observe
      let old := (o.errors.find? fun x => x.1 == link && x.2.1 == index).getD (link, index, 0, 0, sec)
      let n := if old.2.2.2.2 == sec then old.2.2.2.1 + 1 else 1
      let s := { s with observe := { o with errors := (link, index, old.2.2.1 + 1, n, sec) :: o.errors.filter fun x => !(x.1 == link && x.2.1 == index) } }
      if n == o.ckWarn.toNat then postWarning s else s)

/-! ### Requests that are served (R19, R22, R23, R139) -/

/-- A peer's address lies on a channel of the partition that owns the receiving port (R139). -/
def portAllows (s : State) (port pa : Nat) : Bool :=
  !paHole pa && s.partitions.any fun p => p.own.ports.contains port && p.own.channels.contains (pa / 65536 % 256)

/-- An address that the device names by its own id lies on a channel of the partition that asks: no port receives it, and the spec says
only that it follows every rule of a peer access (R23, R139). DESIGN CHOICE: log entry 51. -/
def loopAllows (s : State) (part pa : Nat) : Bool := !paHole pa && (ownOf s part).channels.contains (pa / 65536 % 256)

/-- Serve a read of a line at its home slice: the response carries the lease that the home slice grants (R19, R139, R156). -/
def serveRead (s : State) (port : Nat) (m : LinkMsg) : State :=
  let line := m.addr / 64
  let s := mergeLine s line
  let r := grantLease s line s.time m.cls
  sendMsg r.2 ⟨0, some port, ⟨.response, m.dev, m.num, 0, 64, 0, none, r.1.getD 0, seen s 0 0 (line * 64) 64⟩⟩

/-- Perform a write or an atomic of a peer within a line: it is answered at its completion time (R19, R22, R161, R165). DESIGN CHOICE: log entry 51. -/
def serveWrite (s : State) (port : Nat) (m : LinkMsg) : State :=
  if 64 < m.addr % 64 + m.data.length then s
  else
    let r := completionTime s (m.addr / 64) s.time
    { r.2 with waiting := r.2.waiting ++ [{ tid := ⟨0, 0, 0⟩, ctx := 0, view := 0, pa := m.addr, bytes := m.data, c := r.1, atom := m.atom.map Prod.fst
                                            peer := some ⟨m.dev, port, m.num, (m.atom.map Prod.snd).getD false⟩ }] }

/-! ### Answers (R19, R139, R161, R165, R381) -/

/-- The outstanding request of a number to a device. -/
def req? (s : State) (num : Nat) : Option RemoteReq := s.links.reqs.find? fun r => r.msg == num

/-- An outstanding request is answered. -/
def dropReq (s : State) (num : Nat) : State := { s with links := { s.links with reqs := s.links.reqs.filter fun r => r.msg ≠ num } }

/-- Keep a lease copy of a peer's line under the lease that its home slice granted (R139). -/
def keepPeerLine (s : State) (t : Tid) (dev line expiry : Nat) (bs : List Byte) : State :=
  let st := leaseStore s (coreOf s t)
  let pav := pavOf s t
  { s with leases := { store := st, line := line, view := 0, expiry := expiry, bytes := bs, peer := some dev, pav := pav, ctx := ctxOfTid s t } :: s.leases.filter fun c => !(c.store == st && c.line == line && c.peer == some dev && c.pav == pav) }

/-- A load of a peer's line gets its bytes, and a lease that came with them is kept (R139). -/
def takeLine (s : State) (t : Tid) (a : Access) (m : LinkMsg) : State :=
  let pa := a.pa.getD 0
  let s := if s.time < m.expiry && a.ord ≠ 5 && a.ord ≠ 7 then keepPeerLine s t m.dev (pa / 64) m.expiry m.data else s
  complete s t a (lineBytes m.data pa a.size)

/-- The bytes of a response reach those who asked for them. -/
def takeResponse (s : State) (r : RemoteReq) (m : LinkMsg) : State :=
  match r.src with
  | .engine op => modEng s op fun e => { e with fetched := e.fetched.map fun x => if x.1 == r.msg then (x.1, x.2.1, .got m.data) else x }
  | .signal _ => s
  | .access l =>
    match l with
    | [] => s
    | x :: _ => match acc? s x.1 x.2 with
      | some a => if isAtomic a then answerLanes s l m.data else takeLine s x.1 a m
      | none => s

/-- An acknowledgement: a store or reduction completes at system scope one tick later, and an engine's write is done (R161, R166, R381). -/
def takeAck (s : State) (r : RemoteReq) : State :=
  match r.src with
  | .engine op => modEng s op fun e => { e with acks := e.acks.filter (· ≠ r.msg), latest := max e.latest (s.time + 1) }
  | .signal _ => s
  | .access l => l.foldl (fun s x => raiseWct (modAcc s x.1 x.2 fun a => { a with c := some (s.time + 1) }) x.1 0 0 0 (s.time + 1)) s

/-- An answer meets the request that it names, which must have gone to its sender. -/
def answered (s : State) (m : LinkMsg) (f : State → RemoteReq → State) : State :=
  match req? s m.num with
  | some r => if r.dev == m.dev then f (dropReq s m.num) r else s
  | none => s

/-- A message is performed; a request whose address is refused is not, and nothing answers it (R139). -/
def receive (s : State) (allowed : Bool) (port : Nat) (m : LinkMsg) : State :=
  match m.kind with
  | .readReq => if allowed then serveRead s port m else s
  | .write | .atomic => if allowed then serveWrite s port m else s
  | .response => answered s m fun s r => takeResponse s r m
  | .ack => answered s m takeAck

/-- A message from a slot of a flit on is performed: it must end within the flit's fifteen slots (R18, R19). -/
def receiveAt (s : State) (slot port : Nat) (m : LinkMsg) : State := if slot + m.slots ≤ 15 then receive s (portAllows s port m.addr) port m else s

/-- A message of a peer arrives on a port from a slot of a flit on, whose header is noted; a flit of another type does not carry it (R18). -/
def arrive (s : State) (port : Nat) (hdr : BitVec 64) (slot : Nat) (m : LinkMsg) : State :=
  if portUp s port && hdrType hdr == 1 then
    receiveAt (arriveFlit s port m.dev hdr) slot port m
  else s

/-- The messages to the device's own id that are on their way through the base die arrive, in their order (R22, R23); a refused one ends
as an unanswered request does (R139). DESIGN CHOICE: log entry 51. -/
def loopTick (s : State) : State :=
  s.links.loop.foldl (fun s o =>
    if o.msg.isRequest && !loopAllows s o.part o.msg.addr then
      { s with links := { s.links with reqs := updWhere (fun (r : RemoteReq) => r.msg == o.msg.num) (fun r => { r with refused := true }) s.links.reqs } }
    else receive s true 24 o.msg) { s with links := { s.links with loop := [] } }

/-- A read request of a peer arrives (R19). -/
def execLinkReadRequest (port dev : Nat) (hdr : BitVec 64) (slot num addr cls : Nat) (s : State) : Host.Outcome State Fault Refusal :=
  .next (arrive s port hdr slot { readMsg dev addr 64 cls with num := num })

/-- A write or an atomic of a peer arrives (R19). -/
def execLinkWrite (port dev : Nat) (hdr : BitVec 64) (slot num addr : Nat) (form : WriteForm) (data : BitVec 512) (s : State) :
    Host.Outcome State Fault Refusal :=
  let bs := leBytes (min form.n 64) data.toNat
  .next (arrive s port hdr slot { (match form.atom with
    | some (k, value) => atomicMsg dev addr form.n (AtomOp.numbered k) value bs
    | none => writeMsg dev addr bs) with num := num })

/-- A response arrives: the waiting load, atomic or engine gets its bytes, and a lease that came with it is kept (R19, R139). -/
def execLinkReadResponse (port dev : Nat) (hdr : BitVec 64) (slot num expiry : Nat) (data : BitVec 512) (s : State) : Host.Outcome State Fault Refusal :=
  .next (arrive s port hdr slot ⟨.response, dev, num, 0, 64, 0, none, expiry, leBytes 64 data.toNat⟩)

/-- An acknowledgement arrives (R19, R161). -/
def execLinkAcknowledgement (port dev : Nat) (hdr : BitVec 64) (slot num : Nat) (s : State) : Host.Outcome State Fault Refusal :=
  .next (arrive s port hdr slot ⟨.ack, dev, num, 0, 0, 0, none, 0, []⟩)

/-! ### Failures of a port (R20, R21) -/

/-- A received flit fails its CRC: the receiver asks for the flit after the last one it received (R20). -/
def execCrcFailure (port dev : Nat) (s : State) : Host.Outcome State Fault Refusal :=
  .next (if portUp s port then askReplay s port dev else s)

/-- A replay request arrives: its acknowledgement frees what the peer has received, and the flit after that is sent again from the replay
buffer (R20). DESIGN CHOICE: log entry 51. -/
def execLinkReplayRequest (port dev : Nat) (hdr : BitVec 64) (s : State) : Host.Outcome State Fault Refusal :=
  .next (if portUp s port && hdrType hdr == 2 then
      let s := modPort s port fun p => { p with replay := p.replay.filter fun f => !(f.dev == dev && atOrBelow f.seq (hdrAck hdr)) }
      replayFlit s port dev (hdrAck hdr + 1)
    else s)

/-- After eight failed replays of a flit its port goes down, and its unacknowledged flits move to other ports (R20, R21). -/
def execPortDown (port : Nat) (s : State) : Host.Outcome State Fault Refusal :=
  .next (match s.links.ports[port]? with
    | some p => if p.up && portFailed p then moveFlits (modPort s port fun p => { p with up := false }) port else s
    | none => s)

/-- The message of an event's fields. -/
def eventMsg (kind dev num addr : Nat) (form : WriteForm) (cls expiry : Nat) (data : BitVec 512) : LinkMsg :=
  let bs := leBytes (min form.n 64) data.toNat
  match kind with
  | 0 => { readMsg dev addr 64 cls with num := num }
  | 1 => { writeMsg dev addr bs with num := num }
  | 2 => { atomicMsg dev addr form.n (AtomOp.numbered ((form.atom.map Prod.fst).getD 0)) ((form.atom.map Prod.snd).getD false) bs with num := num }
  | 3 => ⟨.response, dev, num, 0, form.n, 0, none, expiry, bs⟩
  | _ => ⟨.ack, dev, num, 0, 0, 0, none, 0, []⟩

/-- A message of a flit of type 3 arrives.  The flit is dropped if its original sequence number is at or below the last one received on
the failed port; otherwise each of its messages is performed, and the number is noted for that port (R21).  The messages of one flit
follow each other: `resent` names the flit whose messages are being performed. -/
def execFailoverMessage (port dev : Nat) (hdr : BitVec 64) (slot kind num addr : Nat) (form : WriteForm) (cls expiry : Nat) (data : BitVec 512)
    (s : State) : Host.Outcome State Fault Refusal :=
  .next (if !(portUp s port && hdrType hdr == 3) then s
    else
      let s := arriveFlit s port dev hdr
      let m := eventMsg kind dev num addr form cls expiry data
      let flit := some (dev, hdrFailed hdr, hdrOrig hdr)
      let go := fun (s : State) => receiveAt s slot port m
      if s.links.resent == flit then go s
      else match s.links.ports[hdrFailed hdr]? with
        | none => s
        | some p =>
          if (match seqOf p.rxSeq dev with | some x => atOrBelow (hdrOrig hdr) x | none => false) then s
          else
            let s := modPort s (hdrFailed hdr) fun p => { p with rxSeq := setSeq p.rxSeq dev (hdrOrig hdr) }
            go { s with links := { s.links with resent := flit } })

/-! ### The end of a request without an answer (R20) -/

/-- The end of a request for whoever waits for its answer. -/
def abortRemote (s : State) (r : RemoteReq) : State :=
  let report := fun (s : State) (ctx : Nat) => (writeFault s (plainFault ctx Cause.externalAbort.code 0 (BitVec.ofNat 64 r.dev))).2
  match r.src with
  | .access l => l.foldl (fun s x => failLane s .externalAbort x) s
  | .signal ctx => report s ctx
  | .engine op => match eng? s op with
    | none => s
    | some e =>
      if e.acks.contains r.msg then report (modEng s op fun e => { e with acks := e.acks.filter (· ≠ r.msg) }) e.ctx
      else modEng s op fun e => { e with fetched := e.fetched.map fun x => if x.1 == r.msg then (x.1, x.2.1, .failed) else x }

/-- The message of a request that ends is sent no more. -/
def dropMsg (s : State) (r : RemoteReq) : State :=
  let is := fun (m : LinkMsg) => m.isRequest && m.dev == r.dev && m.num == r.msg
  { s with links := { s.links with
    out := s.links.out.filter fun o => !is o.msg
    ports := s.links.ports.map fun p => if p.up then p else { p with replay := p.replay.map fun f => { f with msgs := f.msgs.filter fun m => !is m } } } }

/-- No answer can come: no port carries the request, or the device itself refused it. -/
def hopeless (s : State) (r : RemoteReq) : Bool := r.refused || (portsTo s r.part r.dev).isEmpty

/-- A request ends 80,000 ticks (100 µs) after its issue when no port reaches its peer, or when the peer refused it, which shows at this
device as no answer (R20, R139). DEDUCED: log entry 52. -/
def execPeerTimeout (num : Nat) (s : State) : Host.Outcome State Fault Refusal :=
  .next (match req? s num with
    | some r => if r.issued + 80000 ≤ s.time then abortRemote (dropMsg (dropReq s num) r) r else s
    | none => s)

end Sys2Proof.Machine
end

