-- ==== Sys2Proof/Machine/Audit.lean ====
section
/-! DEFINITION. The audit log (R69 to R71), measurement extension (R66, R67), and facts about physical ranges that the register
blocks check. -/

namespace Sys2Proof.Machine

/-! ### The audit log (R69, R70) -/

/-- Chain value before the next entry: 64 zero bytes before entry 0. -/
def chainHead (s : State) : BitVec 512 := match s.trust.audit with | e :: _ => e.chain | [] => 0

/-- Sign the newest entry (R70): the device identity key is key 0. -/
def signHead (s : State) : State :=
  match s.trust.audit with
  | [] => s
  | e :: _ => { s with trust := { s.trust with
      headSeq := BitVec.ofNat 64 e.seq, headSig := Config.ed25519Sign 0 (leBytes 8 e.seq ++ leBytes 64 e.chain.toNat) } }

/-- Append one entry: an entry that overwrites one not yet read counts as lost, and each 1,024th is signed. DESIGN CHOICE: log entry 56. -/
def appendEntry (s : State) (source code ctx part : Nat) (detail : List Byte) : State :=
  let n := s.trust.nextSeq
  let d := (detail ++ List.replicate 40 0#8).take 40
  let chain := Config.sha512 (leBytes 64 (chainHead s).toNat ++ entryBytes n s.time source code ctx part d)
  let lostOne := ringEntries ≤ n && s.trust.readSeq.toNat ≤ n - ringEntries
  let t := s.trust
  let s := { s with trust := { t with
    audit := (⟨n, s.time, source, code, ctx, part, d, chain⟩ :: t.audit).take ringEntries, nextSeq := n + 1
    lost := if lostOne then t.lost + 1 else t.lost
    overwritten := if lostOne then some (t.overwritten.getD (n - ringEntries)) else t.overwritten } }
  if n % 1024 == 1023 then signHead s else s

/-- Append an event's entry, after the note of entries overwritten unread (R70). DESIGN CHOICE: log entry 56. -/
def audit (s : State) (source code ctx part : Nat) (detail : List Byte) : State :=
  let s := match s.trust.overwritten with
    | none => s
    | some a => appendEntry { s with trust := { s.trust with overwritten := none } } 0 2 0 0
        (leBytes 8 a ++ leBytes 8 (s.trust.nextSeq - 1 - ringEntries))
  appendEntry s source code ctx part detail

/-! ### Measurements (R66, R67) -/

/-- Extend a measurement register with a component's digest. -/
def extend (s : State) (n : Nat) (digest : BitVec 512) : State :=
  audit { s with trust := { s.trust with
    meas := updAt n (fun old => Config.sha512 (leBytes 64 old.toNat ++ leBytes 64 digest.toNat)) s.trust.meas } } 2 0x50 0 0 (leBytes 1 n)

/-- Extend a measurement register with a component's image. -/
def measure (s : State) (n : Nat) (image : List Byte) : State := extend s n (Config.sha512 image)

/-- The boot ROM measures the components of MEAS0 to MEAS4, once after every reset and before anything else runs (R66). DEDUCED: log entry 71. -/
def bootRom (s : State) : State :=
  if s.trust.booted then s
  else (upto 5).foldl (fun s n => measure s n (Config.bootImage n)) { s with trust := { s.trust with booted := true } }

/-! ### Physical ranges (R49, R137) -/

/-- Bytes of device memory. -/
def deviceBytes : Nat := 24576 * 2 ^ 24

/-- Channels on which a range lies. -/
def rangeChannels (base len : Nat) : List Nat :=
  let first := base / 65536
  let n := (base + len + 65535) / 65536 - first
  if len == 0 then [] else if 256 ≤ n then upto 256 else (upto n).map fun i => (first + i) % 256

/-- A range meets memory that lies outside every partition: the audit log's ring or the dump region (R69, R238). -/
def meetsReserved (s : State) (base len : Nat) : Bool := inRing s base len || inDump s base len

/-- A range lies in device memory, on channels of a partition. -/
def ownsRange (s : State) (part base len : Nat) : Bool :=
  base + len ≤ deviceBytes && !meetsReserved s base len && (rangeChannels base len).all (ownOf s part).channels.contains

/-- Every frame that a range meets is on a pavilion's sealed frame list. -/
def sealedRange (p : Pavilion) (base len : Nat) : Bool :=
  (upto ((base + len + 65535) / 65536 - base / 65536)).all fun i => p.frames.any fun f => f.1 == base / 65536 + i

/-- The pavilion on whose sealed frame list an address lies, 0 for none. -/
def pavOfPa (s : State) (pa : Nat) : Nat := match s.pavilions.find? fun p => p.frames.any fun f => f.1 == pa / 65536 with | some p => p.id | none => 0

/-- Zeros in a range of memory. -/
def zeroMem (m : Memory) (base size : Nat) : Memory := m.filter fun x => !(base ≤ x.1 && x.1 < base + size)

/-- A context of a partition exists. -/
def partBusy (s : State) (part : Nat) : Bool := s.contexts.any fun c => c.part == part

end Sys2Proof.Machine
end

