-- ==== Sys2Proof/Machine/Host.lean ====
section
/-! DEFINITION. The host interface: MSI-X vectors, windows, untrusted accesses, TDISP states, the hypervisor fault area's enable and
the mailbox commands (R25, R29 to R39, R44 to R48, R63, R66, R96). -/

namespace Sys2Proof.Machine

/-! ### Vectors (R38, R39) -/

/-- Every store of a thread has completed at system scope; a thread that is gone holds nothing back. DEDUCED: log entry 63. -/
def storesDone (s : State) (t : Tid) : Bool :=
  match thread? s t with
  | none => true
  | some th => !(th.queue.any fun a => a.op.stores) && th.storesOut.isEmpty && !(s.gate.any fun g => g.tid == t) && decide (th.wctSystem ≤ s.time)

/-- The signals whose stores are done are sent, in order. -/
def sendSignals (s : State) : List (List Tid × Nat × Nat) → State
  | [] => s
  | x :: l => if x.1.all (storesDone s) then sendSignals (raiseVector s x.2.1 x.2.2) l
      else sendSignals { s with host := { s.host with sigs := s.host.sigs ++ [x] } } l

/-- Messages of `sig.host` whose earlier stores have completed are sent (R38). -/
def execMsiMessage (s : State) : Host.Outcome State Fault Refusal :=
  .next (sendSignals { s with host := { s.host with sigs := [] } } s.host.sigs)

/-- A vector is masked. -/
def mask (s : State) (fn vec : Nat) : State :=
  if s.host.masked.contains (fn, vec) || vectorsOf fn ≤ vec then s else { s with host := { s.host with masked := (fn, vec) :: s.host.masked } }

/-- A vector is unmasked: a pending bit sends one message (R38). -/
def unmask (s : State) (fn vec : Nat) : State :=
  let s := { s with host := { s.host with masked := s.host.masked.filter fun x => x ≠ (fn, vec) } }
  if s.host.pending.contains (fn, vec) then
    raiseVector { s with host := { s.host with pending := s.host.pending.filter fun x => x ≠ (fn, vec) } } fn vec
  else s

/-- The host unmasks a vector of a function. -/
def execVectorUnmask (fn vec : Nat) (s : State) : Host.Outcome State Fault Refusal := .next (unmask s fn vec)

/-- The fault vector of a context after new records, at most once per microsecond (R39). -/
def execFaultVector (ctx : Nat) (s : State) : Host.Outcome State Fault Refusal :=
  .next (match ctx? s ctx with
    | some c =>
      if c.faultDue && (match c.faultTick with | some t => decide (t + 800 ≤ s.time) | none => true) then
        modCtx (raiseVector s c.msix c.vecBase) ctx fun c => { c with faultDue := false, faultTick := some s.time }
      else s
    | none => s)

/-! ### Windows (R36, R45, R46) -/

/-- The virtual function of a function code: 0x100 + v or 0x200 + v (R32). -/
def vf? (s : State) (fn : Nat) : Option VirtFn := s.host.vfs.find? fun v => v.fn == fn

/-- The segment table of a function: the PFs share table 0. -/
def tableOf (fn : Nat) : Nat := if fn ≤ 1 then 0 else fn

/-- The entry of a segment table. -/
def segEntry (s : State) (table idx : Nat) : BitVec 64 := match s.host.segs.find? fun x => x.1 == table && x.2.1 == idx with | some x => x.2.2 | none => 0

/-- The size of a function's window in GiB, that of its BAR2: 1 to 512 for a PF, 1 to 64 for a VF (R26). DESIGN CHOICE: log entry 7. -/
def windowGib (s : State) (fn : Nat) : Nat :=
  let most := if fn ≤ 1 then 512 else 64
  match s.host.bar2.find? fun x => x.1 == fn with | some x => min x.2 most | none => most

/-- The segment entry of a window offset; entries beyond the window are ignored (R45). DESIGN CHOICE: log entry 7. -/
def segOf (s : State) (fn off : Nat) : BitVec 64 := if windowGib s fn ≤ off / 2 ^ 30 then 0 else segEntry s (tableOf fn) (off / 2 ^ 30)

/-- The frames of 64 KiB that a span meets. -/
def framesOf (pa n : Nat) : List Nat := (upto ((pa % 65536 + n + 65535) / 65536)).map (pa / 65536 + ·)

/-- A function may reach a frame through its window: a VF on channels of its partition, and memory of a pavilion only through a VF that is
bound to it, over the IDE stream of its interface (R45, R46). -/
def windowMay (s : State) (fn : Nat) (ide : Option Nat) (frame : Nat) : Bool :=
  let pv := pavOfPa s (frame * 65536)
  !scrubPending s (frame * 65536) &&
  (match vf? s fn with
   | some v => (ownOf s v.part).channels.contains (frame % 256) && (pv == 0 || (v.pav == pv && v.tdisp == .run && ide.isSome && ide == v.ide))
   | none => decide (fn ≤ 1) && pv == 0)

/-- A VF that is bound to a pavilion takes window traffic only in RUN (R25). -/
def vfRuns (s : State) (fn : Nat) : Bool := match vf? s fn with | some v => v.pav == 0 || v.tdisp == .run | none => true

/-- The physical address of a window access, or none where it fails: an invalid segment, one with a reserved bit set, a read-only one for a
write, or a span that the segment or the function may not reach (R45, R46). DEDUCED: log entry 62. -/
def windowPa (s : State) (fn off n : Nat) (ide : Option Nat) (write : Bool) : Option Nat :=
  let e := segOf s fn off
  let pa := e.toNat / 2 ^ 30 % 2 ^ 22 * 2 ^ 30 + off % 2 ^ 30
  let ok := e.getLsbD 0 && (!write || (e.getLsbD 1 && !inRing s pa n && !inDump s pa n)) && decide (off % 2 ^ 30 + n ≤ 2 ^ 30) &&
    decide (e.toNat / 4 % 2 ^ 28 = 0) && decide (e.toNat / 2 ^ 52 = 0) && decide (pa + n ≤ deviceBytes) && vfRuns s fn &&
    (framesOf pa n).all (windowMay s fn ide)
  if ok then some pa else none

/-- A failed window access is counted (R28). DEDUCED: log entry 62. -/
def winFail (s : State) : State :=
  { s with host := { s.host with winFail := if s.host.winFail == 0xFFFFFFFF#32 then s.host.winFail else s.host.winFail + 1 } }

/-- A window access to a scrub-pending granule is reported to the hypervisor's area (R65). DEDUCED: log entry 62. -/
def windowFault (s : State) (fn off : Nat) (write : Bool) : State :=
  let pa := (segOf s fn off).toNat / 2 ^ 30 % 2 ^ 22 * 2 ^ 30 + off % 2 ^ 30
  if (segOf s fn off).getLsbD 0 && scrubPending s pa then
    (writeFault s { plainFault 0 Cause.stage2Fault.code 0 (BitVec.ofNat 64 (6 + (if write then 256 else 0))) with stage2 := true, ipa := pa }).2
  else s

/-- A window read of `n` bytes; a failed one returns all ones (R46).  Nothing arrives on a link that is not trained (R24). -/
def execWindowRead (via : WindowVia) (off n : Nat) (s : State) : Host.Outcome State Fault Refusal :=
  .next (if !linkUp s via.fn then s
    else match windowPa s via.fn off n via.ide false with
    | some pa => { s with host := { s.host with readData := homeBytes s 0 pa n } }
    | none => let s := winFail (windowFault s via.fn off false); { s with host := { s.host with readData := List.replicate n 0xFF#8 } })

/-- Completion time of the last window write of a link, 0 before the first. -/
def lastWindow (s : State) (link : Nat) : Nat := match s.host.lastWin.find? fun x => x.1 == link with | some x => x.2 | none => 0

/-- A window write within a line becomes a system-scope store at its home slice, performed after the earlier ones of its link (R36). -/
def windowStore (s : State) (link pa : Nat) (bs : List Byte) : State :=
  let r := completionTime s (pa / 64) (max s.time (lastWindow s link))
  { r.2 with waiting := r.2.waiting ++ [{ tid := ⟨0, 0, 0⟩, ctx := 0, view := 0, pa := pa, bytes := bs, c := r.1 }]
             host := { r.2.host with lastWin := (link, r.1) :: r.2.host.lastWin.filter fun x => x.1 ≠ link } }

/-- A window write is performed line by line, ascending. -/
def windowStores (s : State) (link pa : Nat) (bs : List Byte) : State :=
  (upto ((pa % 64 + bs.length + 63) / 64)).foldl (fun s i =>
    let lo := max pa (64 * (pa / 64 + i))
    windowStore s link lo ((bs.drop (lo - pa)).take (64 * (pa / 64 + i + 1) - lo))) s

/-- A window write of `n` bytes, at most 64 (R36); a failed one is dropped and counted (R46).  Nothing arrives on a link that is not
trained (R24). -/
def execWindowWrite (via : WindowVia) (off n : Nat) (data : BitVec 512) (s : State) : Host.Outcome State Fault Refusal :=
  .next (if !linkUp s via.fn then s
    else match windowPa s via.fn off n via.ide true with
    | some pa => windowStores s (linkOf via.fn) pa (leBytes (min n 64) data.toNat)
    | none => winFail (windowFault s via.fn off true))

/-! ### Untrusted accesses and interfaces (R25, R44, R48) -/

/-- An access to a private page without the trusted bit: it has no other effect (R48). -/
def execUntrustedAccess (s : State) : Host.Outcome State Fault Refusal :=
  .next (audit { s with trust := { s.trust with untrusted := s.trust.untrusted + 1 } } 0 1 0 0 [])

/-- The state of a TDISP interface changes (R25). -/
def execTdispStateChange (fn code : Nat) (s : State) : Host.Outcome State Fault Refusal :=
  .next (let st : Tdisp := match code with | 0 => .configUnlocked | 1 => .configLocked | 2 => .run | _ => .error
    { s with host := { s.host with vfs := updWhere (fun (v : VirtFn) => v.fn == fn) (fun v => { v with tdisp := st }) s.host.vfs } })

/-- A number of fault entries is a power of two from 64 to 65,536 (R32, R44). -/
def entriesOk (n : Nat) : Bool := (upto 11).any fun i => n == 2 ^ (6 + i)

/-- A write of HFEN takes effect as 1 only with a legal base and entry count (R44). -/
def writeHfen (s : State) (en : Bool) : State :=
  { s with host := { s.host with hfEn := en && decide (s.host.hfBase.toNat % 64 = 0) && entriesOk s.host.hfEntries.toNat } }

/-- The hypervisor writes HFEN. -/
def execHfenWrite (en : Bool) (s : State) : Host.Outcome State Fault Refusal := .next (writeHfen s en)

/-! ### The mailbox (R29 to R31) -/

/-- A command word. -/
def cmdWord (s : State) (i : Nat) : Nat := (s.mailbox.cmd.getD i 0).toNat

/-- The code of the command in progress that has not yet run. -/
def cmdIs (s : State) (code : Nat) : Bool :=
  s.mailbox.busy && s.mailbox.running && s.mailbox.pendResult.isNone && decide (cmdWord s 0 % 256 = code)

/-- A reserved field of a command's first word, or of the address in words 1 and 2, is nonzero. DESIGN CHOICE: log entry 58. -/
def cmdReserved (s : State) (addr : Bool) : Bool := cmdWord s 0 / 256 % 256 ≠ 0 || (addr && cmdWord s 2 / 2 ^ 20 ≠ 0)

/-- Address in words 1 and 2. -/
def cmdAddr (s : State) : Nat := cmdWord s 1 + 2 ^ 32 * cmdWord s 2

/-- The command has run with a result. -/
def endCmd (s : State) (r : BitVec 8) (out : List Word) : State := { s with mailbox := { s.mailbox with pendResult := some r, pendOut := out } }

/-- Pre-empted teams of a context are still on their cores (R34). -/
def cmdWaits (s : State) : Bool :=
  s.mailbox.pendResult == some 0 &&
  match cmdWord s 0 % 256 with
  | 2 => (ctx? s (cmdWord s 1)).isSome
  | 3 => s.teams.any fun t => t.ctx == cmdWord s 1 && t.state == .preempting
  | _ => false

/-- A command ends: OUT, TAG and RESULT are written, BUSY clears and vector 0 is raised; OUT words without a result are open (R30). DESIGN CHOICE: log entry 58. -/
def endMailbox (s : State) : State :=
  match s.mailbox.pendResult with
  | none => s
  | some r =>
    let out := (upto 6).map fun i => s.mailbox.pendOut.getD i (Config.freeWord (s.fresh * 1048576 + 1044480 + i))
    raiseVector { s with mailbox := { s.mailbox with
      out := out, tag := BitVec.ofNat 16 (cmdWord s 0 / 65536), result := r, busy := false, running := false, pendResult := none, pendOut := [] } } 0 0

/-- The end of the mailbox command in progress. -/
def execCommandEnd (s : State) : Host.Outcome State Fault Refusal :=
  .next (if s.mailbox.busy && s.mailbox.running && !cmdWaits s then endMailbox s else s)

/-- An unknown command code (R30). DESIGN CHOICE: log entry 58. -/
def execBadCommand (s : State) : Host.Outcome State Fault Refusal :=
  .next (if (upto 256).any (fun c => (c == 0 || 6 < c) && cmdIs s c) then endCmd s 1 [] else s)

/-! ### CREATE_CONTEXT (R32 to R34) -/

/-- The function of a descriptor is one of R32's. -/
def fnOk (fn : Nat) : Bool := fn ≤ 1 || (0x101 ≤ fn && fn ≤ 0x13F) || (0x201 ≤ fn && fn ≤ 0x23F)

/-- The vector range of a descriptor keeps the rules of R32. -/
def vectorsOk (s : State) (fn part base count : Nat) : Bool :=
  1 ≤ count && count ≤ 256 &&
  (if fn ≤ 1 then 8 ≤ base && base + count ≤ 2048
   else 1 ≤ base && base + count ≤ 64 && (match vf? s fn with | some v => v.part == part | none => false)) &&
  !s.contexts.any fun c => c.msix == fn && overlaps base count c.vecBase c.vecCount

/-- A descriptor is bad: magic or version, misalignment, a value outside its limits, or a reserved field (R31, R32); one whose address
lies outside device memory counts as misaligned, of which the spec says nothing. DESIGN CHOICE: log entry 83. -/
def descBad (s : State) (addr : Nat) (bs : List Byte) : Bool :=
  let w := fieldAt bs
  let fl := BitVec.ofNat 32 (w 4 4)
  addr % 256 ≠ 0 || deviceBytes < addr + 256 || w 0 4 ≠ 0x14358 || fl &&& 0xFFFFFFF0#32 ≠ 0 || !fnOk (w 0x0C 4) ||
  w 0x10 8 % 65536 ≠ 0 || (fl.getLsbD 3 && w 0x18 8 % 65536 ≠ 0) || w 0x2A 6 ≠ 0 || !entriesOk (w 0x58 4) ||
  !vectorsOk s (w 0x0C 4) (w 8 2) (w 0x68 2) (w 0x6A 2) || 8191 < w 0x6C 4 || w 0x74 140 ≠ 0 || fl.getLsbD 0 == (w 0x0A 2 == 0)

/-- Cores of a partition's owned clusters, ascending. -/
def ownedCores (s : State) (part : Nat) : List Nat := coresOf (sortBy (fun (n : Nat) => n) (ownOf s part).clusters)

/-- The lowest free context id. -/
def freeCtx (s : State) : Option Nat := (upto 1024).find? fun i => i ≠ 0 && (ctx? s i).isNone

/-- The context of a descriptor (R32, R181).  Head and lost count of its fault area start with what the area's header holds in host memory;
the spec gives them no first value. DESIGN CHOICE: log entry 83. -/
def ctxOf (s : State) (id : Nat) (bs : List Byte) : Context :=
  let w := fieldAt bs
  let cores := ownedCores s (w 8 2)
  { id := id, flags := BitVec.ofNat 32 (w 4 4), part := w 8 2, pav := w 0x0A 2, msix := w 0x0C 2, root1 := w 0x10 8, root2 := w 0x18 8
    rootRec := BitVec.ofNat 80 (w 0x20 10), arenaBase := w 0x30 8, arenaSize := w 0x38 8, faultBase := w 0x50 8, faultEntries := w 0x58 4
    handler := BitVec.ofNat 32 (w 0x5C 4), vecBase := w 0x68 2, vecCount := w 0x6A 2, quota := w 0x6C 4, saveBytes := w 0x70 4
    suspended := false, suspendedBy := [], window := windowOf (w 0x60 8), idle := 0, noticed := false, wdLo := 0, sample := 0, seed := 0xACE1
    extents := if w 0x48 8 == 0 then [] else [(w 0x40 8, w 0x48 8)], cellsUsed := [], areas := (upto cores.length).zip cores
    fixedAreas := cores.length, ringBase := 0, ringSize := 0, ringHead := 0, ringTail := 0, ringLost := 0
    faultHead := Memory.readLe s.hostMem (w 0x50 8) 4, faultLost := Memory.readLe s.hostMem (w 0x50 8 + 8) 8
    faultDue := false, faultTick := none, armed := none, destroying := false }

/-- The result of CREATE_CONTEXT other than OK, in the order of the codes (R31). DEDUCED: log entry 59. -/
def createFails (s : State) (addr : Nat) (bs : List Byte) : Option (BitVec 8) :=
  let w := fieldAt bs
  let part := w 8 2
  let pv := w 0x0A 2
  if cmdReserved s true then some 1
  else if descBad s addr bs then some 2
  else if (freeCtx s).isNone then some 3
  else if w 0x38 8 < (ownedCores s part).length * 64 * (17408 + 32 * w 0x70 4) then some 4
  else if (part? s part).isNone || deviceBytes < w 0x30 8 + w 0x38 8 || deviceBytes < w 0x40 8 + w 0x48 8 ||
      meetsReserved s (w 0x30 8) (w 0x38 8) || meetsReserved s (w 0x40 8) (w 0x48 8) ||
      (pv ≠ 0 && !(match pav? s pv with | some p => p.part == part | none => false)) then some 5
  else if 8191 < (s.contexts.map (·.quota)).sum + w 0x6C 4 then some 6
  else none

/-- The root record's grid is started as `launch` would; a failure is reported with PC 0 (R34, R77). -/
def startRoot (s : State) (c : Context) : State :=
  let w : LaunchWait := ⟨⟨0, 0, 0⟩, c.id, c.rootRec, s.nextId, none, true, 0⟩
  let s := { s with nextId := s.nextId + 1 }
  if c.rootRec.toNat % 256 ≠ 0 then failLaunch s w (addrTrap .misalign c.rootRec.toNat).trap 0
  else
    let s := { s with launches := s.launches ++ [w] }
    if launchReady s w c then takeLaunch s w c else s

/-- Create a context from its descriptor. -/
def createContext (s : State) : State :=
  let addr := cmdAddr s
  let bs := homeBytes s 0 addr 256
  match createFails s addr bs, freeCtx s with
  | some r, _ => endCmd s r []
  | none, none => endCmd s 3 []
  | none, some id =>
    let c := ctxOf s id bs
    let s := { s with contexts := s.contexts ++ [c], trust := { s.trust with contextCreated := true } }
    endCmd (startRoot s c) 0 [BitVec.ofNat 32 id]

/-- CREATE_CONTEXT (R34). -/
def execCreateContext (s : State) : Host.Outcome State Fault Refusal := .next (if cmdIs s 1 then createContext s else s)

/-! ### DESTROY_CONTEXT (R34, R63) -/

/-- Every team of a context is pre-empted; those off their cores go at once. -/
def startDestroy (s : State) (ctx : Nat) : State :=
  let s := modCtx s ctx fun c => { c with destroying := true }
  let s := (s.teams.filter fun t => t.ctx == ctx).foldl (fun s t => requestTeam s t.id .destroy) s
  (s.teams.filter fun t => t.ctx == ctx && !t.onCore).foldl wipeTeam s

/-- A line that the context has written and that stood in L2 or L3 only is dropped with the cache, and HBM keeps what it held (R63). DESIGN CHOICE: log entry 82. -/
def dropDirty (s : State) (d : DirtyLine) : State :=
  if Config.writtenBack s.fresh d.line then s
  else
    let s' := { s with mem := Memory.writeN s.mem (d.line * 64) d.old }
    match sealOf s' d.line with | some r => if r.changed then s' else reseal s' r.pav d.line false | none => s'

/-- The context's state is cleared before its resources serve another (R63). DEDUCED: log entry 61. -/
def finishDestroy (s : State) (c : Context) : State :=
  let s := (s.views.filter fun v => v.ctx == c.id).foldl (fun s v => discardView s v.tag) s
  let s := (s.dirty.filter fun d => d.ctx == c.id).foldl dropDirty { s with waiting := s.waiting.filter fun w => w.ctx ≠ c.id }
  let stores := (coresOf (usableClusters s c.part)).map fun k => leaseStore s k
  let mine := fun (g : Nat) => s.grids.any fun x => x.id == g && x.ctx == c.id
  let fams := (s.families.filter fun f => f.ctx == c.id).map (·.id)
  let engs := (s.engines.filter fun e => e.ctx == c.id).map (·.id)
  { s with
    contexts := s.contexts.filter fun x => x.id ≠ c.id
    versions := s.versions.filter fun v => v.ctx ≠ c.id
    leases := s.leases.filter fun l => l.ctx ≠ c.id && !(stores.contains l.store && l.pav == c.pav)
    dirty := s.dirty.filter fun d => d.ctx ≠ c.id
    gate := s.gate.filter fun g => (team? s g.tid.team).isSome
    penUpdates := s.penUpdates.filter fun u => !engs.contains u.op
    constCache := s.constCache.filter fun l => l.ctx ≠ c.id
    tlb := s.tlb.filter fun e => e.ctx ≠ c.id
    walkCache := s.walkCache.filter fun e => e.ctx ≠ c.id
    grids := s.grids.filter fun g => !mine g.id
    launches := s.launches.filter fun l => l.ctx ≠ c.id
    sets := s.sets.filter fun x => x.ctx ≠ c.id
    holds := s.holds.filter fun x => x.ctx ≠ c.id
    waiters := s.waiters.filter fun x => x.ctx ≠ c.id
    families := s.families.filter fun f => f.ctx ≠ c.id
    forks := s.forks.filter fun f => f.ctx ≠ c.id
    deferred := s.deferred.filter fun d => !(match d.family, d.fork with
      | some f, _ => fams.contains f
      | none, some x => s.forks.any fun f => f.id == x.1 && f.ctx == c.id
      | none, none => (team? s d.tid.team).isNone)
    engines := s.engines.filter fun e => e.ctx ≠ c.id
    bulk := s.bulk.filter fun b => !engs.contains b
    locks := s.locks.filter fun k => k.ctx ≠ c.id
    logged := s.logged.filter fun l => l.record.ctx ≠ c.id
    engLeases := s.engLeases.filter fun l => l.ctx ≠ c.id
    observe := { s.observe with samplers := s.observe.samplers.filter (fun x => x.ctx ≠ c.id), warned := s.observe.warned.filter (· ≠ c.id) } }

/-- The DESTROY_CONTEXT in progress goes on: it waits for a checkpoint of the context, then for the context's teams (R34, R235). -/
def driveDestroy (s : State) : State :=
  if s.mailbox.busy && s.mailbox.pendResult == some 0 && cmdWord s 0 % 256 == 2 then
    match ctx? s (cmdWord s 1) with
    | none => s
    | some c =>
      if (match s.observe.ckRun with | some r => r.ctx == c.id | none => false) then s
      else
        let s := if c.destroying then s else startDestroy s c.id
        let s := (s.teams.filter fun t => t.ctx == c.id && (t.discarded || !t.onCore)).foldl wipeTeam s
        if s.teams.any fun t => t.ctx == c.id then s else finishDestroy s c
  else s

/-- DESTROY_CONTEXT (R34). -/
def execDestroyContext (s : State) : Host.Outcome State Fault Refusal :=
  .next (if !cmdIs s 2 then s
    else if cmdReserved s false then endCmd s 1 []
    else if (ctx? s (cmdWord s 1)).isNone then endCmd s 3 []
    else driveDestroy (endCmd s 0 []))

/-! ### SUSPEND, RESUME, the watchdog window and the steward (R34, R66, R96) -/

/-- SUSPEND_CONTEXT: every team is pre-empted and its records are held. -/
def execSuspendContext (s : State) : Host.Outcome State Fault Refusal :=
  .next (if !cmdIs s 3 then s
    else if cmdReserved s false then endCmd s 1 []
    else if (ctx? s (cmdWord s 1)).isNone then endCmd s 3 []
    else suspendCtx (endCmd s 0 []) (cmdWord s 1) 0)

/-- A suspension by `who` ends; the context runs when no other holds it. DEDUCED: log entry 70. -/
def unsuspend (s : State) (ctx : Nat) (who : List Nat) : State :=
  modCtx s ctx fun c =>
    let l := c.suspendedBy.filter fun w => !who.contains w
    { c with suspendedBy := l, suspended := !l.isEmpty }

/-- RESUME_CONTEXT releases held teams and grids and makes the records eligible; a checkpoint or a handover in progress holds the
context still (R34, R89, R191, R235). DEDUCED: log entry 70. -/
def resumeCtx (s : State) (ctx : Nat) : State :=
  match ctx? s ctx with
  | none => s
  | some c =>
    if !c.suspended then s
    else
      let s := unsuspend s ctx [0, 1]
      { s with teams := updWhere (fun (t : Team) => t.ctx == ctx) (fun t => { t with held := false }) s.teams
               grids := updWhere (fun (g : Grid) => g.ctx == ctx) (fun g => { g with held := false }) s.grids }

/-- RESUME_CONTEXT. -/
def execResumeContext (s : State) : Host.Outcome State Fault Refusal :=
  .next (if !cmdIs s 4 then s
    else if cmdReserved s false then endCmd s 1 []
    else if (ctx? s (cmdWord s 1)).isNone then endCmd s 3 []
    else resumeCtx (endCmd s 0 []) (cmdWord s 1))

/-- SET_WATCHDOG: the window in words 2 and 3; 0 counts as 2^24 (R32, R96). -/
def execSetWatchdog (s : State) : Host.Outcome State Fault Refusal :=
  .next (if !cmdIs s 5 then s
    else if cmdReserved s false then endCmd s 1 []
    else if (ctx? s (cmdWord s 1)).isNone then endCmd s 3 []
    else modCtx (endCmd s 0 []) (cmdWord s 1) fun c =>
      { c with window := windowOf (cmdWord s 2 + 2 ^ 32 * cmdWord s 3), idle := 0, noticed := false })

/-- MEASURE_STEWARD: once per boot and before the first CREATE_CONTEXT, MEAS5 is extended with the staged image (R31, R66). DEDUCED: log entry 60. -/
def execMeasureSteward (s : State) : Host.Outcome State Fault Refusal :=
  .next (let len := cmdWord s 3 + 2 ^ 32 * cmdWord s 4
    if !cmdIs s 6 then s
    else if cmdReserved s true || s.trust.stewardDone || s.trust.contextCreated || len == 0 || 2 ^ 32 < len || deviceBytes < cmdAddr s + len then
      endCmd s 1 []
    else
      let s' := endCmd { s with trust := { s.trust with stewardDone := true } } 0 []
      measure s' 5 (homeBytes s 0 (cmdAddr s) len))

end Sys2Proof.Machine
end

