-- ==== Sys2Proof/Machine/Partition.lean ====
section
/-! DEFINITION. Partition operations, lending and reclaiming of clusters, and bulk-engine leases (R49 to R55, R88, R179). -/

namespace Sys2Proof.Machine

/-! ### Sets of resources (R49, R50) -/

/-- A set of unit numbers in ascending order without repeats. -/
def unitSet (l : List Nat) : List Nat := sortBy (fun (n : Nat) => n) (dedup l)

/-- The resources of both sets. -/
def Resources.plus (a b : Resources) : Resources :=
  ⟨unitSet (a.clusters ++ b.clusters), unitSet (a.slices ++ b.slices), unitSet (a.channels ++ b.channels), unitSet (a.engines ++ b.engines),
   unitSet (a.ports ++ b.ports)⟩

/-- The resources of the first set that are not in the second. -/
def Resources.minus (a b : Resources) : Resources :=
  ⟨a.clusters.filter fun n => !b.clusters.contains n, a.slices.filter fun n => !b.slices.contains n, a.channels.filter fun n => !b.channels.contains n,
   a.engines.filter fun n => !b.engines.contains n, a.ports.filter fun n => !b.ports.contains n⟩

/-- Two sets share a resource. -/
def Resources.meets (a b : Resources) : Bool :=
  a.clusters.any b.clusters.contains || a.slices.any b.slices.contains || a.channels.any b.channels.contains ||
  a.engines.any b.engines.contains || a.ports.any b.ports.contains

/-- A legal partition owns a cluster, a slice and a channel (R50). -/
def Resources.legal (a : Resources) : Bool := !a.clusters.isEmpty && !a.slices.isEmpty && !a.channels.isEmpty

/-- Change a partition. -/
def modPart (s : State) (id : Nat) (f : Partition → Partition) : State :=
  { s with partitions := updWhere (fun p => p.id == id) f s.partitions }

/-! ### The end of an operation and its checks (R52) -/

/-- An operation ends: RESULT, BUSY clear, vector 2 and its audit entry, of a reserved OP 8 to 15 too. DESIGN CHOICE: log entry 56. -/
def endPart (s : State) (op : Nat) (r : BitVec 8) : State :=
  let s := raiseVector { s with partIf := { s.partIf with result := r, busy := false, op := 0 } } 0 2
  if 1 ≤ op && op ≤ 15 then audit s 0 (0x10 + op) 0 s.partIf.psel (leBytes 1 r.toNat) else s

/-- Result codes of R52. -/
def rBadOp : BitVec 8 := 1
def rConflict : BitVec 8 := 2
def rEmpty : BitVec 8 := 3
def rBusy : BitVec 8 := 4
def rNoPart : BitVec 8 := 5
def rLent : BitVec 8 := 6

/-- The first failing check's code. -/
def firstCode (l : List (Bool × BitVec 8)) : Option (BitVec 8) := (l.find? (·.1)).map (·.2)

/-- An operation runs its checks, then its effect; a failed one changes nothing else. DEDUCED: log entry 64. -/
def runPart (s : State) (op : Nat) (checks : List (Bool × BitVec 8)) (eff : State → State) : State :=
  if s.partIf.busy then s
  else match firstCode checks with
    | some r => endPart s op r
    | none => eff s

/-- PSEL is above 64; 0 is no partition id, so no partition has it. -/
def pselBad (s : State) : Bool := 64 < s.partIf.psel

/-- Another partition owns a staged resource. -/
def othersOwn (s : State) : Bool := s.partitions.any fun p => p.id ≠ s.partIf.psel && p.own.meets s.partIf.staged

/-- Clusters of PSEL that are lent out. -/
def lentOut (s : State) (part : Nat) : List Nat := match part? s part with | some p => p.lent.map (·.1) | none => []

/-! ### Grids that a SHRINK affects (R88) -/

/-- The clusters of a team's core. -/
def onClusters (cl : List Nat) (t : Team) : Bool := cl.contains (clusterOf t.core)

/-- A co-resident grid that the staged removal affects. -/
def affects (s : State) (g : Grid) : Bool :=
  g.part == s.partIf.psel && !g.ended && g.record.flags.getLsbD 1 &&
  ((s.teams.any fun t => t.grid == g.id && t.onCore && onClusters s.partIf.staged.clusters t) ||
   (match ctx? s g.ctx with
    | some c => !s.partIf.staged.clusters.isEmpty && (match (readRecord s c g.addr.toNat).1 with
        | .ok rd => !fitsWhole (modPart s g.part fun p => { p with own := p.own.minus s.partIf.staged }) c (rd.keep g.record) g.addr
        | .error _ => false)
    | none => false))

/-! ### Pre-emption, scrub and completion (R53, R54, R179) -/

/-- Copy the ranges of a bound team once the pool has room, so that it is bound to no core (R179). -/
def spillBound (s : State) (team : Nat) : State :=
  match team? s team, teamCtx s team with
  | some tm, some c =>
    let r := spillTeam s tm c
    if r.2.2 then s
    else
      let hs := tm.groups.filterMap (·.record)
      let s := hs.foldl (fun s h => wrFor s c.id (h + 0x280) (leBytes 16 r.2.1)) r.1
      { modTeam s team fun t => { t with state := .saved } with locks := s.locks.filter fun k => k.team ≠ team }
  | _, _ => s

/-- Registers, scratchpad and L1 of clusters are cleared. -/
def scrubClusters (s : State) (cl : List Nat) : State :=
  let cores := coresOf cl
  { s with scratch := s.scratch.filter fun x => !cores.contains (x.1 / 262144)
           leases := s.leases.filter fun l => !(cores.contains l.store || cl.any fun c => l.store == 1024 + c)
           constCache := s.constCache.filter fun l => !cores.contains l.core
           fused := s.fused.filter fun c => !cl.contains c }

/-- Teams that an operation still waits for: on the staged clusters, or pre-empted with them. -/
def partWaits (s : State) : Bool :=
  s.teams.any fun t => (t.keepsAlloc && onClusters (leavingClusters s) t) ||
    (t.state == .preempting && (t.why == some .reclaim || t.why == some .coResident))

/-- The effect of SHRINK, LEND and RECLAIM once the clusters are free of teams. -/
def finishPart (s : State) : State :=
  let i := s.partIf
  match i.op with
  | 4 =>
    let s := modPart s i.psel fun p => { p with own := p.own.minus i.staged }
    endPart { s with engLeases := s.engLeases.filter fun l => !i.staged.engines.contains l.eng } 4 0
  | 5 => endPart (modPart (scrubClusters s i.staged.clusters) i.psel fun p => { p with lent := p.lent ++ i.staged.clusters.map fun c => (c, i.peer) }) 5 0
  | 6 =>
    let back := i.staged.clusters.filter (lentOut s i.psel).contains
    endPart (modPart (scrubClusters s back) i.psel fun p => { p with lent := p.lent.filter fun x => !back.contains x.1 }) 6 0
  | _ => s

/-- A SHRINK, LEND or RECLAIM in progress completes when every pre-empted team's record is written. -/
def settlePart (s : State) : State :=
  if !s.partIf.busy then s
  else
    let s := (s.teams.filter fun t => t.state == .bound && onClusters (leavingClusters s) t).foldl (fun s t => spillBound s t.id) s
    if partWaits s then s else finishPart s

/-- Start an operation that takes clusters from teams: those teams are pre-empted, with `more` grids whole. -/
def takeClusters (s : State) (op : Nat) (cl : List Nat) (more : List Nat) : State :=
  let s := { s with partIf := { s.partIf with busy := true, op := op } }
  let ts := s.teams.filter fun t => onClusters cl t || more.contains t.grid
  settlePart (ts.foldl (fun s t => requestPreempt s t.id .reclaim) s)

/-! ### The operations (R52 to R54) -/

/-- DEFINE: the staged bitmaps become the ownership of PSEL. DEDUCED: log entry 64. -/
def partDefine (s : State) : State :=
  runPart s 1 [(pselBad s, rBadOp), (s.partIf.psel == 0 || (part? s s.partIf.psel).isSome, rNoPart), (othersOwn s, rConflict), (!s.partIf.staged.legal, rEmpty)] fun s =>
    endPart { s with partitions := s.partitions ++ [⟨s.partIf.psel, s.partIf.staged, []⟩] } 1 0

/-- DELETE: PSEL's resources return to no owner; of a pavilion of PSEL the spec says nothing, and it stays as it is. DESIGN CHOICE: log entry 86. -/
def partDelete (s : State) : State :=
  let p := s.partIf.psel
  runPart s 2 [(pselBad s, rBadOp), ((part? s p).isNone, rNoPart), (!(lentOut s p).isEmpty, rLent), (partBusy s p, rBusy)] fun s =>
    endPart { s with partitions := s.partitions.filter fun x => x.id ≠ p } 2 0

/-- Slices or channels are staged while PSEL has a context. -/
def rehomes (s : State) : Bool := (!s.partIf.staged.slices.isEmpty || !s.partIf.staged.channels.isEmpty) && partBusy s s.partIf.psel

/-- GROW: the staged resources are added to PSEL. -/
def partGrow (s : State) : State :=
  let p := s.partIf.psel
  runPart s 3 [(pselBad s, rBadOp), ((part? s p).isNone, rNoPart), (othersOwn s, rConflict), (rehomes s, rBusy)] fun s =>
    endPart (modPart s p fun x => { x with own := x.own.plus s.partIf.staged }) 3 0

/-- SHRINK: the staged resources are removed from PSEL (R88); of a cluster that holds a pavilion's quadrants the spec says nothing, and the
pavilion stays as it is. DESIGN CHOICE: log entry 86. -/
def partShrink (s : State) : State :=
  let p := s.partIf.psel
  let gs := s.grids.filter (affects s)
  runPart s 4 [(pselBad s, rBadOp), ((part? s p).isNone, rNoPart), (othersOwn s, rConflict), (s.partIf.staged.clusters.any (lentOut s p).contains, rLent),
      (!((ownOf s p).minus s.partIf.staged).legal, rEmpty), (rehomes s || (!s.partIf.force && !gs.isEmpty), rBusy)] fun s =>
    takeClusters s 4 s.partIf.staged.clusters (gs.map (·.id))

/-- Resources other than clusters are staged. -/
def stagesOthers (s : State) : Bool :=
  let r := s.partIf.staged
  !r.slices.isEmpty || !r.channels.isEmpty || !r.engines.isEmpty || !r.ports.isEmpty

/-- A cluster holds a quadrant of a pavilion. -/
def pavCluster (s : State) (c : Nat) : Bool := s.pavilions.any fun p => p.cores.any fun x => clusterOf x.1 == c && x.2.1 ≠ 0

/-- LEND: the staged clusters are lent to PEER (R53). DEDUCED: log entry 64. -/
def partLend (s : State) : State :=
  let p := s.partIf.psel
  let cl := s.partIf.staged.clusters
  let borrowed := fun (c : Nat) => s.partitions.any fun x => x.lent.any fun y => y.1 == c && y.2 == p
  runPart s 5 [(pselBad s || 64 < s.partIf.peer || stagesOthers s || cl.any borrowed, rBadOp),
      ((part? s p).isNone || (part? s s.partIf.peer).isNone, rNoPart), (cl.any fun c => !(ownOf s p).clusters.contains c, rConflict),
      (cl.any (pavCluster s), rConflict), (cl.any (lentOut s p).contains, rLent)] fun s =>
    takeClusters s 5 cl []

/-- RECLAIM: the staged clusters return from their borrower (R54). -/
def partReclaim (s : State) : State :=
  let p := s.partIf.psel
  let cl := s.partIf.staged.clusters
  runPart s 6 [(pselBad s || stagesOthers s, rBadOp), ((part? s p).isNone, rNoPart), (cl.any fun c => !(ownOf s p).clusters.contains c, rConflict)] fun s =>
    takeClusters s 6 (cl.filter (lentOut s p).contains) []

/-- READ: PSEL's owned resources are written to page 0x006. -/
def partRead (s : State) : State :=
  let p := s.partIf.psel
  runPart s 7 [(pselBad s, rBadOp), ((part? s p).isNone, rNoPart)] fun s =>
    endPart { s with partIf := { s.partIf with staged := ownOf s p } } 7 0

/-- A reserved operation ends with BAD_OP. -/
def partReserved (s : State) (op : Nat) : State := runPart s op [(true, rBadOp)] id

/-- DEFINE (R52). -/
def execDefine (s : State) : Host.Outcome State Fault Refusal := .next (partDefine s)
/-- DELETE (R52). -/
def execDelete (s : State) : Host.Outcome State Fault Refusal := .next (partDelete s)
/-- GROW (R52). -/
def execGrow (s : State) : Host.Outcome State Fault Refusal := .next (partGrow s)
/-- SHRINK (R88). -/
def execShrink (s : State) : Host.Outcome State Fault Refusal := .next (partShrink s)
/-- LEND (R53). -/
def execLend (s : State) : Host.Outcome State Fault Refusal := .next (partLend s)
/-- RECLAIM (R54). -/
def execReclaim (s : State) : Host.Outcome State Fault Refusal := .next (partReclaim s)
/-- The completion of an operation in progress (R54). -/
def execReclaimComplete (s : State) : Host.Outcome State Fault Refusal := .next (settlePart s)
/-- READ (R52). -/
def execPartitionRead (s : State) : Host.Outcome State Fault Refusal := .next (partRead s)

/-! ### Bulk-engine leases (R55) -/

/-- The lease that holds an engine now. -/
def leaseOf (s : State) (eng : Nat) : Option EngLease := s.engLeases.find? fun l => l.eng == eng && s.time < l.expiry

/-- Set the result of a lease operation. -/
def endLease (s : State) (r : BitVec 8) : State := { s with partIf := { s.partIf with eresult := r } }

/-- BIND: a free engine, or one that CTX holds already, is leased to CTX. -/
def bindEngine (s : State) : State :=
  let e := s.partIf.eng
  let x := s.partIf.ectx
  if 64 ≤ e || 1024 ≤ x then endLease s rBadOp
  else if !(match ctx? s x with | some c => (ownOf s c.part).engines.contains e | none => false) then endLease s rConflict
  else if (leaseOf s e).any fun l => l.ctx ≠ x then endLease s rBusy
  else endLease { s with engLeases := ⟨e, x, s.time + s.partIf.lease.toNat⟩ :: s.engLeases.filter fun l => l.eng ≠ e } 0

/-- RELEASE: the lease ends at once. -/
def releaseEngine (s : State) : State :=
  let e := s.partIf.eng
  if 64 ≤ e || 1024 ≤ s.partIf.ectx then endLease s rBadOp
  else endLease { s with engLeases := s.engLeases.filter fun l => l.eng ≠ e } 0

/-- BIND (R55). -/
def execBind (s : State) : Host.Outcome State Fault Refusal := .next (bindEngine s)
/-- RELEASE (R55). -/
def execLeaseRelease (s : State) : Host.Outcome State Fault Refusal := .next (releaseEngine s)
/-- A lease ends at its expiry (R55). -/
def execLeaseExpiry (eng : Nat) (s : State) : Host.Outcome State Fault Refusal :=
  .next { s with engLeases := s.engLeases.filter fun l => !(l.eng == eng && l.expiry ≤ s.time) }

end Sys2Proof.Machine
end

