-- ==== Sys2Proof/Machine/Pavilion.lean ====
section
/-! DEFINITION. Pavilions, key rotation, and the frame queue with its scrub (R56 to R65). -/

namespace Sys2Proof.Machine

/-! ### The frame queue (R64, R65) -/

/-- Accesses that were translated into a range and have not left their queues are translated again. DEDUCED: log entry 69. -/
def unmapRange (s : State) (base size : Nat) : State :=
  let f := fun (a : Access) => match a.pa with
    | some p => if a.space == .home && !a.sent && overlaps p a.size base size then { a with pa := none } else a
    | none => a
  { s with teams := s.teams.map fun t => { t with groups := t.groups.map fun g => { g with threads := g.threads.map fun th => { th with queue := th.queue.map f } } } }

/-- Queue a frame for scrub: its granules are scrub-pending at once. -/
def queueScrub (s : State) (base size : Nat) : State :=
  let s := { s with frames := { s.frames with queue := s.frames.queue ++ [⟨base, size, s.frames.nextSeq⟩], nextSeq := s.frames.nextSeq + 1 } }
  unmapRange s base size

/-- Size of a frame code: 64 KiB, 32 MiB or 16 GiB; code 3 is ignored. -/
def frameSize (code : Nat) : Option Nat := match code % 4 with | 0 => some 65536 | 1 => some (2 ^ 25) | 2 => some (2 ^ 34) | _ => none

/-- FRGO: the named frame is queued. -/
def frameGo (s : State) : State :=
  match frameSize s.frames.size with
  | some n => if deviceBytes < s.frames.base + n then s else queueScrub s s.frames.base n
  | none => s

/-- The hypervisor queues a frame (R64). -/
def execFrameQueue (s : State) : Host.Outcome State Fault Refusal := .next (frameGo s)

/-- The ranges of a checkpoint's list: base and length (R232). -/
def rangeList (s : State) (list count : Nat) : List (Nat × Nat) :=
  (upto count).map fun i => (homeLe s (list + 16 * i) 8, homeLe s (list + 16 * i + 8) 8)

/-- A scrub waits for a checkpoint that has yet to copy the range (R235). -/
def scrubWaits (s : State) (r : ScrubRec) : Bool :=
  match s.observe.ckRun with
  | some k => k.ranges.any fun x => overlaps x.1 x.2 r.base r.size
  | none => false

/-- Zeros in a range of memory: none of its lines is sealed, and HBM holds them. -/
def zeroSpan (s : State) (base size : Nat) : State :=
  let hit := fun (line : Nat) => overlaps (line * 64) 64 base size
  { s with mem := zeroMem s.mem base size, seals := s.seals.filter fun r => !hit r.line, dirty := s.dirty.filter fun d => !hit d.line }

/-- Zeros in a frame, and no cached copy of it anywhere. DEDUCED: log entry 69. -/
def scrubRange (s : State) (base size : Nat) : State :=
  let hit := fun (line : Nat) => overlaps (line * 64) 64 base size
  { zeroSpan s base size with
           versions := s.versions.filter fun v => !hit v.line
           leases := s.leases.filter fun l => l.peer.isSome || !hit l.line
           constCache := s.constCache.filter fun l => !hit l.line
           waiting := s.waiting.filter fun w => !overlaps w.pa w.bytes.length base size
           gate := s.gate.filter fun g => !overlaps g.pa g.bytes.length base size }

/-- The scrub of a queued frame ends: pending marks clear, TOKEN, vector 4 and the audit entry. DESIGN CHOICE: log entry 56. -/
def scrubFrame (s : State) (r : ScrubRec) : State :=
  let s := scrubRange s r.base r.size
  let s := { s with frames := { s.frames with queue := s.frames.queue.filter fun x => x.seq ≠ r.seq, token := BitVec.ofNat 64 r.seq } }
  audit (raiseVector s 0 4) 0 0x40 0 0 (leBytes 8 r.base ++ leBytes 8 r.size)

/-! ### Operations on pavilions (R57) -/

/-- A pavilion operation ends: RESULT, BUSY clear and its audit entry. DESIGN CHOICE: log entry 56. DEDUCED: log entry 67. -/
def endPav (s : State) (op : Nat) (r : BitVec 8) : State :=
  let part := match pav? s s.pavIf.sel with | some p => p.part | none => s.pavIf.part
  audit { s with pavIf := { s.pavIf with result := r, busy := false, op := 0 } } 0 (0x20 + op) 0 part (leBytes 1 s.pavIf.sel)

/-- An operation runs its checks, then its effect. -/
def runPav (s : State) (op : Nat) (checks : List (Bool × BitVec 8)) (eff : State → State) : State :=
  if s.pavIf.busy then s
  else match firstCode checks with
    | some r => endPav s op r
    | none => eff s

/-- Ways reserved by the pavilions of a partition and `w`. -/
def reservedWays (s : State) (part : Nat) (w : BitVec 16) : BitVec 16 := (s.pavilions.filter fun p => p.part == part).foldl (fun x p => x ||| p.ways) w

/-- Set bits of a mask. -/
def bitCount {w : Nat} (x : BitVec w) : Nat := ((upto w).filter fun i => x.getLsbD i).length

/-- PVSEL is no pavilion id. -/
def pvselBad (s : State) : Bool := s.pavIf.sel == 0 || 64 ≤ s.pavIf.sel

/-- CREATE: a fresh key, the reserved ways, no cores and no frames; PVSEL 0 is BAD_OP and an existing pavilion CONFLICT, of which the spec
says nothing. DESIGN CHOICE: log entry 85. -/
def pavCreate (s : State) : State :=
  let i := s.pavIf
  runPav s 1 [(pvselBad s || 65536 ≤ i.part || i.waysBad, rBadOp), ((part? s i.part).isNone, rNoPart), ((pav? s i.sel).isSome, rConflict),
      (i.ways == 0 || 12 < bitCount (reservedWays s i.part i.ways), rConflict)] fun s =>
    endPav { s with pavilions := s.pavilions ++ [{ id := i.sel, part := i.part, ways := i.ways, cores := [], frames := [], key := Config.freshKey s.fresh
                                                   secret := none, src := .live, dst := .none, transfer := none, digest := 0, copyKind := false
                                                   epoch := 0, copyPrepared := false }] } 1 0

/-- Partition of the selected pavilion. -/
def pavPart (s : State) : Nat := match pav? s s.pavIf.sel with | some p => p.part | none => 0

/-- The named core is owned, not borrowed and not lent out. -/
def coreOwned (s : State) : Bool :=
  let c := clusterOf s.pavIf.core
  (ownOf s (pavPart s)).clusters.contains c && !(lentOut s (pavPart s)).contains c

/-- Another pavilion has one of the named quadrants or banks. -/
def unitsTaken (s : State) : Bool :=
  s.pavilions.any fun p => p.id ≠ s.pavIf.sel && p.cores.any fun x => x.1 == s.pavIf.core &&
    (BitVec.ofNat 4 x.2.1 &&& BitVec.ofNat 4 s.pavIf.quad ≠ 0 || BitVec.ofNat 32 x.2.2 &&& BitVec.ofNat 32 s.pavIf.bank ≠ 0)

/-- A team of a context outside the pavilion is resident on a named quadrant. -/
def outsiders (s : State) : Bool :=
  (coreTeams s s.pavIf.core).any fun t => (match ctx? s t.ctx with | some c => c.pav ≠ s.pavIf.sel | none => true) &&
    t.groups.any fun g => !g.retired && (BitVec.ofNat 4 s.pavIf.quad).getLsbD g.quad

/-- The masks of a pavilion on the named core become `f` of the old ones. -/
def setMasks (s : State) (f : BitVec 4 → BitVec 32 → BitVec 4 × BitVec 32) : State :=
  modPav s s.pavIf.sel fun p =>
    let o := ((p.cores.find? fun x => x.1 == s.pavIf.core).map Prod.snd).getD (0, 0)
    let n := f (BitVec.ofNat 4 o.1) (BitVec.ofNat 32 o.2)
    { p with cores := p.cores.filter (fun x => x.1 ≠ s.pavIf.core) ++ (if n.1 == 0 && n.2 == 0 then [] else [(s.pavIf.core, n.1.toNat, n.2.toNat)]) }

/-- ASSIGN and UNASSIGN name a core, quadrants and banks. -/
def unitsBad (s : State) : Bool := pvselBad s || 1024 ≤ s.pavIf.core || 16 ≤ s.pavIf.quad

/-- ASSIGN: quadrants and banks of a core are added. -/
def pavAssign (s : State) : State :=
  runPav s 2 [(unitsBad s, rBadOp), ((pav? s s.pavIf.sel).isNone, rNoPart), (!coreOwned s || unitsTaken s, rConflict), (outsiders s, rBusy)] fun s =>
    endPav (setMasks s fun q b => (q ||| BitVec.ofNat 4 s.pavIf.quad, b ||| BitVec.ofNat 32 s.pavIf.bank)) 2 0

/-- UNASSIGN: quadrants and banks of a core are removed. -/
def pavUnassign (s : State) : State :=
  runPav s 3 [(unitsBad s, rBadOp), ((pav? s s.pavIf.sel).isNone, rNoPart)] fun s =>
    endPav (setMasks s fun q b => (q &&& ~~~(BitVec.ofNat 4 s.pavIf.quad), b &&& ~~~(BitVec.ofNat 32 s.pavIf.bank))) 3 0

/-- The named frames. -/
def namedFrames (s : State) : List Nat := (upto s.pavIf.count).map (s.pavIf.frame + ·)

/-- ADDFRAME: frames on the partition's channels join the list; during a rotation they are fresh and read as zeros (R62). DEDUCED: log entry 67. -/
def pavAddframe (s : State) : State :=
  let i := s.pavIf
  let fs := namedFrames s
  let own := (ownOf s (pavPart s)).channels
  runPav s 4 [(pvselBad s || i.frameLoBad || i.frameHiBad, rBadOp), ((pav? s i.sel).isNone, rNoPart),
      (fs.any fun f => deviceBytes ≤ f * 65536 || meetsReserved s (f * 65536) 65536 || !own.contains (f % 256) || s.pavilions.any fun p => p.frames.any fun x => x.1 == f, rConflict)] fun s =>
    let fresh := rotating s i.sel
    let s := if fresh then zeroSpan s (i.frame * 65536) (i.count * 65536) else s
    endPav (modPav s i.sel fun p => { p with frames := sortBy Prod.fst (p.frames ++ fs.map fun f => (f, fresh)) }) 4 0

/-- One of the frames is queued for scrub. -/
def anyQueued (s : State) (fs : List Nat) : Bool := s.frames.queue.any fun r => fs.contains (r.base / 65536) && r.size == 65536

/-- A pavilion goes: its key last, and with it a rotation of it (R57, R61).  One that a MOVE has taken elsewhere is no pavilion whose
destruction releases a copy (R73). -/
def dropPav (s : State) (p : Pavilion) : State :=
  let s := if rotating s p.id then { s with rotation := { s.rotation with active := false, pointer := 0, newKey := 0 } } else s
  { s with pavilions := s.pavilions.filter fun x => x.id ≠ p.id
           trust := { s.trust with destroyedCopies := if p.copyPrepared && p.src ≠ .gone && !s.trust.destroyedCopies.contains p.id then p.id :: s.trust.destroyedCopies else s.trust.destroyedCopies } }

/-- A DELFRAME or DESTROY in progress goes on: it waits for the sweep (R62) and for the scrub of its frames. -/
def settlePav (s : State) : State :=
  if !s.pavIf.busy then s
  else
    let fs := namedFrames s
    let s :=
      if s.pavIf.op == 5 && !(rotating s s.pavIf.sel && fs.contains (s.rotation.pointer / 65536)) then
        fs.foldl (fun s f => queueScrub s (f * 65536) 65536) { s with pavIf := { s.pavIf with op := 7 } }
      else s
    if s.pavIf.op == 7 && !anyQueued s fs then
      endPav (modPav s s.pavIf.sel fun p => { p with frames := p.frames.filter fun f => !fs.contains f.1 }) 5 0
    else if s.pavIf.op == 8 then
      match pav? s s.pavIf.sel with
      | some p => if anyQueued s (p.frames.map Prod.fst) then s else dropPav (endPav s 6 0) p
      | none => endPav s 6 0
    else s

/-- DELFRAME: each named frame passes through the scrub before it leaves the list. DEDUCED: log entry 67. -/
def pavDelframe (s : State) : State :=
  runPav s 5 [(pvselBad s || s.pavIf.frameLoBad || s.pavIf.frameHiBad, rBadOp), ((pav? s s.pavIf.sel).isNone, rNoPart),
      ((namedFrames s).any fun f => !(match pav? s s.pavIf.sel with | some p => p.frames.any fun x => x.1 == f | none => false), rConflict)] fun s =>
    settlePav { s with pavIf := { s.pavIf with busy := true, op := 5 } }

/-- DESTROY: every frame is scrubbed, and the key is destroyed last. -/
def pavDestroy (s : State) : State :=
  runPav s 6 [(pvselBad s, rBadOp), ((pav? s s.pavIf.sel).isNone, rNoPart), (s.contexts.any fun c => c.pav == s.pavIf.sel, rBusy)] fun s =>
    let fs := match pav? s s.pavIf.sel with | some p => p.frames.map Prod.fst | none => []
    settlePav (fs.foldl (fun s f => queueScrub s (f * 65536) 65536) { s with pavIf := { s.pavIf with busy := true, op := 8 } })

/-- A reserved PVOP. -/
def pavReserved (s : State) : State := if s.pavIf.busy then s else { s with pavIf := { s.pavIf with result := rBadOp } }

/-- CREATE (R57). -/
def execPavilionCreate (s : State) : Host.Outcome State Fault Refusal := .next (pavCreate s)
/-- ASSIGN (R57). -/
def execAssign (s : State) : Host.Outcome State Fault Refusal := .next (pavAssign s)
/-- UNASSIGN (R57). -/
def execUnassign (s : State) : Host.Outcome State Fault Refusal := .next (pavUnassign s)
/-- ADDFRAME (R62). -/
def execAddframe (s : State) : Host.Outcome State Fault Refusal := .next (pavAddframe s)
/-- DELFRAME (R62). -/
def execDelframe (s : State) : Host.Outcome State Fault Refusal := .next (pavDelframe s)
/-- DESTROY (R57). -/
def execPavilionDestroy (s : State) : Host.Outcome State Fault Refusal := .next (pavDestroy s)

/-- The engines that may scrub a frame: those of the partition that owns its first channel, else those that no partition owns, else the
one of lowest number (R65). -/
def scrubEngines (s : State) (r : ScrubRec) : List Nat :=
  let own := s.partitions.flatMap fun p => if p.own.channels.contains (r.base / 65536 % 256) then p.own.engines else []
  let free := (upto 64).filter fun e => !s.partitions.any fun p => p.own.engines.contains e
  if !own.isEmpty then sortBy (fun (n : Nat) => n) own else if !free.isEmpty then free else [0]

/-- An engine is within an operation of its lessee (R55). -/
def engineBusy (s : State) (eng : Nat) : Bool := s.engines.any fun e => e.kind == .bulk && e.unit == 1000000 + eng && e.begun && !e.ended

/-- The engine that scrubs a frame now: the lowest of those that may and that stands between two operations (R55, R65). DESIGN CHOICE: log entry 87. -/
def scrubEngine (s : State) (r : ScrubRec) : Option Nat := (scrubEngines s r).find? fun e => !engineBusy s e

/-- A bulk engine scrubs the first queued frame that need not wait, for a checkpoint or for an engine (R55, R65, R235). -/
def execFrameScrub (s : State) : Host.Outcome State Fault Refusal :=
  .next (match s.frames.queue.find? fun r => !scrubWaits s r && (scrubEngine s r).isSome with
    | some r => settlePav (scrubFrame s r)
    | none => s)

/-! ### Key rotation (R60 to R62) -/

/-- Frames that a sweep passes through, ascending. -/
def sweptFrames (p : Pavilion) : List Nat := (p.frames.filter fun f => !f.2).map Prod.fst

/-- The line that the sweep takes after an address. -/
def nextLine (p : Pavilion) (a : Nat) : Option Nat :=
  if (a + 64) / 65536 == a / 65536 && (sweptFrames p).contains (a / 65536) then some (a + 64)
  else (minBy (fun (f : Nat) => f) ((sweptFrames p).filter fun f => a / 65536 < f)).map (65536 * ·)

/-- A rotation ends: the old key is gone, DONE, vector 3 and the audit entry. -/
def endRotation (s : State) : State :=
  let r := s.rotation
  let part := match pav? s r.pav with | some p => p.part | none => 0
  let s := modPav s r.pav fun p => { p with key := r.newKey, frames := p.frames.map fun f => (f.1, false) }
  let s := raiseVector { s with rotation := { r with active := false, pointer := 0, done := true, newKey := 0 } } 0 3
  settlePav (audit s 0 0x30 0 part (leBytes 1 r.pav))

/-- GO: a rotation of KRPV to a fresh key starts. -/
def rotateGo (s : State) : State :=
  let r := s.rotation
  if r.active then { s with rotation := { r with result := rBusy } }
  else if r.sel == 0 || 64 ≤ r.sel then { s with rotation := { r with result := rBadOp } }
  else match pav? s r.sel with
    | none => { s with rotation := { r with result := rNoPart } }
    | some p =>
      let first := minBy (fun (f : Nat) => f) (sweptFrames p)
      let s := { s with rotation := { r with pav := r.sel, active := true, result := 0, newKey := Config.freshKey s.fresh, pointer := 65536 * first.getD 0 } }
      if first.isNone then endRotation s else s

/-- A trusted write of GO (R60). -/
def execKeyRotationGo (s : State) : Host.Outcome State Fault Refusal := .next (rotateGo s)

/-- The line at POINTER is read, unsealed and sealed again under the new key, with the write that was held at it (R60, R61); a line that the
pavilion has never written is not sealed. DESIGN CHOICE: log entry 68. -/
def resealLine (s : State) : State :=
  let line := s.rotation.pointer / 64
  let code := Config.sealCode s.rotation.newKey line (memLine s line)
  let put := fun (r : SealRec) => if r.line == line && r.pav == s.rotation.pav then { r with key := s.rotation.newKey, code := code, held := false } else r
  { s with seals := s.seals.map put }

/-- The sweep finishes the line at POINTER and goes on to the next, or ends the rotation (R60, R61). -/
def execSweepLine (s : State) : Host.Outcome State Fault Refusal :=
  .next (if !s.rotation.active then s
    else
      let s := resealLine s
      match (pav? s s.rotation.pav).bind fun p => nextLine p s.rotation.pointer with
      | some a => settlePav { s with rotation := { s.rotation with pointer := a } }
      | none => endRotation s)

end Sys2Proof.Machine
end

