-- ==== Sys2Proof/Machine/Trust.lean ====
section
/-! DEFINITION. The root of trust: host measurements, the SPDM responder, the audit log's port and signature, and the handover of
pavilions (R66 to R74). -/

namespace Sys2Proof.Machine

/-! ### Measurements by the host, and the log's registers (R67, R70, R71) -/

/-- EXTGO: MEAS6 or MEAS7 is extended with the staged digest. -/
def extendGo (s : State) : State :=
  if s.trust.extSel == 6 || s.trust.extSel == 7 then extend s s.trust.extSel s.trust.extDigest else s

/-- The trusted host extends a measurement register. -/
def execMeasExtend (s : State) : Host.Outcome State Fault Refusal := .next (extendGo s)

/-- SIGREQ: the head of the log is signed now. -/
def execSigreq (s : State) : Host.Outcome State Fault Refusal := .next (signHead s)

/-- Firmware writes LPCODE: one entry with the staged detail; a code below 0x0100 appends nothing (R71). -/
def logPort (s : State) (code : Nat) : State :=
  if code % 65536 < 0x100 then s
  else
    let s := audit s 1 (code % 65536) 0 0 s.trust.lpDetail
    { s with trust := { s.trust with lpDetail := List.replicate 40 0#8 } }

/-- A firmware write of LPCODE. -/
def execLpcode (code : Word) (s : State) : Host.Outcome State Fault Refusal := .next (logPort s code.toNat)

/-! ### The SPDM responder (R68); the message codes are those of SPDM 1.3 -/

/-- Give an answer. -/
def answer (s : State) (code : Nat) (content : List Byte) : State := { s with trust := { s.trust with spdm := s.trust.spdm ++ [(code, content)] } }

/-- ERROR with a code: 0x01 InvalidRequest, 0x07 UnsupportedRequest. PRESUMED: log entry 57. -/
def spdmError (s : State) (code : Nat) : State := answer s 0x7F (leBytes 1 code)

/-- Bytes of the measurement registers. -/
def measBytes (s : State) : List Byte := s.trust.meas.flatMap fun m => leBytes 64 m.toNat

/-- GET_VERSION: version 1.3. PRESUMED: log entry 57. -/
def execGetVersion (s : State) : Host.Outcome State Fault Refusal := .next (answer s 0x04 [0x13#8])

/-- GET_CAPABILITIES. -/
def execGetCapabilities (s : State) : Host.Outcome State Fault Refusal := .next (answer s 0x61 Config.spdmCaps)

/-- NEGOTIATE_ALGORITHMS: Ed25519 and SHA-512, and nothing else. -/
def execNegotiateAlgorithms (s : State) : Host.Outcome State Fault Refusal := .next (answer s 0x63 (leBytes 4 0x400 ++ leBytes 4 0x4))

/-- GET_CERTIFICATE: slot 0 holds the identity chain, slots 1 to 7 are empty. -/
def execGetCertificate (slot : Nat) (s : State) : Host.Outcome State Fault Refusal :=
  .next (if slot == 0 then answer s 0x02 Config.certChain else if slot ≤ 7 then answer s 0x02 [] else spdmError s 1)

/-- CHALLENGE: the nonce and the measurements, signed by the device identity key. PRESUMED: log entry 57. -/
def execChallenge (slot : Nat) (nonce : BitVec 512) (s : State) : Host.Outcome State Fault Refusal :=
  .next (if slot == 0 then answer s 0x03 (leBytes 64 (Config.ed25519Sign 0 (leBytes 64 nonce.toNat ++ measBytes s)).toNat) else spdmError s 1)

/-- GET_MEASUREMENTS: block 1 to 8 carries MEAS0 to MEAS7, index 0xFF all eight, signed. -/
def execGetMeasurements (index : Nat) (s : State) : Host.Outcome State Fault Refusal :=
  .next (let sign := fun (l : List Byte) => l ++ leBytes 64 (Config.ed25519Sign 0 l).toNat
    if index == 0xFF then answer s 0x60 (sign (measBytes s))
    else if 1 ≤ index && index ≤ 8 then answer s 0x60 (sign (leBytes 64 (s.trust.meas.getD (index - 1) 0).toNat))
    else spdmError s 1)

/-- Any other request. PRESUMED: log entry 57. -/
def execUnsupportedRequest (code : Nat) (s : State) : Host.Outcome State Fault Refusal :=
  .next (if [0x84, 0xE1, 0xE3, 0x82, 0x83, 0xE0].contains code then s else spdmError s 7)

/-! ### Handover images (R72 to R74); the layout of the body is no part of the spec -/

/-- What an image carries beside frames and pools: the numbers of its frames, contexts, their grids and their teams with save records. -/
structure Cargo where
  frames : List Nat
  contexts : List Context
  grids : List Grid
  teams : List Team
  views : List ViewRec
  versions : List Version
  families : List Family
  holds : List Hold
  sets : List SetRec
  forks : List Fork
  deferred : List Deferred
  deriving Inhabited

/-- The bytes of a cargo in an image's body, and their reading: the spec gives no layout (log entry 9). DESIGN CHOICE: log entry 9. -/
opaque packCargo : Cargo → List Byte
opaque unpackCargo : List Byte → Cargo

/-- The header of an image: HOPV, kind, HOEPOCH and the body's digest. -/
def imageHeader (pv : Nat) (copy : Bool) (epoch : Nat) (digest : BitVec 512) : List Byte :=
  leBytes 4 pv ++ leBytes 4 (if copy then 1 else 0) ++ leBytes 8 epoch ++ leBytes 64 digest.toNat

/-- The contexts of a pavilion. -/
def pavCtxs (s : State) (pv : Nat) : List Context := s.contexts.filter fun c => c.pav == pv

/-- The numbers of the contexts of a pavilion. -/
def pavIds (s : State) (pv : Nat) : List Nat := (pavCtxs s pv).map (·.id)

/-- What leaves the device with a pavilion. -/
def cargoOf (s : State) (p : Pavilion) : Cargo :=
  let ids := pavIds s p.id
  { frames := p.frames.map Prod.fst
    contexts := pavCtxs s p.id, grids := s.grids.filter fun g => ids.contains g.ctx, teams := s.teams.filter fun t => ids.contains t.ctx && !t.onCore
    views := s.views.filter fun v => ids.contains v.ctx, versions := s.versions.filter fun v => ids.contains v.ctx
    families := s.families.filter fun f => ids.contains f.ctx, holds := s.holds.filter fun h => ids.contains h.ctx, sets := s.sets.filter fun x => ids.contains x.ctx
    forks := s.forks.filter fun f => ids.contains f.ctx, deferred := s.deferred.filter fun d => s.teams.any fun t => t.id == d.tid.team && ids.contains t.ctx }

/-- The arenas and spill extents of contexts: address and size. -/
def poolSpans (cs : List Context) : List (Nat × Nat) := cs.flatMap fun c => (c.arenaBase, c.arenaSize) :: c.extents

/-- The bytes of a pavilion's arenas and spill pools. -/
def poolBytes (s : State) (pv : Nat) : List Byte := (poolSpans (pavCtxs s pv)).flatMap fun e => homeBytes s 0 e.1 e.2

/-- The bytes of a pavilion's frames, ascending. -/
def frameBytes (s : State) (p : Pavilion) : List Byte := p.frames.flatMap fun f => homeBytes s 0 (f.1 * 65536) 65536

/-- The body of an image: lengths, cargo, arenas and spill pools, frames. DESIGN CHOICE: log entry 9. -/
def imageBody (s : State) (p : Pavilion) : List Byte :=
  let a := packCargo (cargoOf s p)
  let b := poolBytes s p.id
  leBytes 8 a.length ++ leBytes 8 b.length ++ leBytes 8 p.frames.length ++ a ++ b ++ frameBytes s p

/-! A consistent image of contexts that run on (R72): their stores and scratchpad accesses that have left are in it, their teams stand as
a pre-emption would save them at this tick, and accesses that have not been performed are still to be performed. DESIGN CHOICE: log entry 89. -/

/-- A queued access as an image holds it: not performed yet, and to be translated where it resumes. -/
def againAccess (a : Access) : Access :=
  if a.isFence || a.logged.isSome then a else { a with sent := false, c := none, pa := if a.space == .host then a.pa else none }

/-- A thread as an image holds it: its results have landed, and its registers go to the register image. -/
def freezeThread (th : Thread) : Thread :=
  let th := { th with queue := (th.queue.filter fun a => !(a.sent && !a.op.loads)).map againAccess, storesOut := [], held := [] }
  if th.life ≠ .live || th.status.isSome || carried th then th
  else
    let th := landAll (dropWait (dropWaitAccess th))
    { th with status := some .overrun, fallback := true, queue := th.queue.filter fun a => !a.slot
              pend := th.pend.filter fun p => !th.queue.any fun a => a.slot && a.id == p.tok }

/-- A team as an image holds it. -/
def freezeTeam (t : Team) : Team := { t with rdv := [], bars := [], groups := t.groups.map fun g => { g with rdv := [], threads := g.threads.map freezeThread } }

/-- The device as an image of a pavilion holds it. -/
def snapshot (s : State) (p : Pavilion) : State :=
  let ids := pavIds s p.id
  let mine := fun (t : Tid) => match team? s t.team with | some tm => ids.contains tm.ctx | none => false
  let s := (s.gate.filter fun e => mine e.tid).foldl drainEntry s
  let s := (s.waiting.filter fun w => ids.contains w.ctx).foldl applyWaiting { s with waiting := s.waiting.filter fun w => !ids.contains w.ctx }
  let near := fun (x : Tid × Access) => mine x.1 && match x.2.space with | .scratch _ => true | _ => false
  let s := (sortBy (fun x => x.2.id) ((allQueues s).filter near)).foldl (fun s x => bankAccess s x.1 x.2) s
  (s.teams.filter fun t => t.onCore && ids.contains t.ctx).foldl (fun s t => saveTeam (modTeam s t.id freezeTeam) t.id) s

/-- Change the trust registers. -/
def modTrust (s : State) (f : Trust → Trust) : State := { s with trust := f s.trust }

/-- A handover operation ends: RESULT, BUSY clear, vector 6, and for an accepted one the audit entry. -/
def endHo (s : State) (op : Nat) (r : BitVec 8) : State :=
  let s := raiseVector (modTrust s fun t => { t with hoResult := r, hoBusy := false }) 0 6
  if r == 0 then audit s 2 (0x60 + op - 1) 0 (match pav? s s.trust.hoPv with | some p => p.part | none => 0) (leBytes 1 s.trust.hoPv) else s

/-- An operation of page 0x00D runs its checks, then its effect. -/
def runHo (s : State) (op : Nat) (eff : State → State) : State :=
  if s.trust.hoBusy then s
  else if s.trust.hoBad || s.trust.hoImg % 64 ≠ 0 || 2 ^ 52 ≤ s.trust.hoImg then endHo s op rBadOp else eff s

/-- The transfer key with the peer: the source's public key comes first (R74). -/
def transferKey (s : State) (secret srcPub dstPub : BitVec 256) : BitVec 256 :=
  (Config.sha512 (leBytes 32 (Config.x25519Shared secret s.trust.peerX).toNat ++ leBytes 32 srcPub.toNat ++ leBytes 32 dstPub.toNat ++
    leBytes 1 s.trust.hoPv)).setWidth 256

/-- HOPEERSIG verifies under HOPEERID. -/
def peerSigned (s : State) : Bool :=
  Config.ed25519Verify s.trust.peerId (leBytes 32 s.trust.peerX.toNat ++ leBytes 8 s.trust.peerEpoch.toNat) s.trust.peerSig

/-- KEYX: a fresh key pair for HOPV. -/
def keyx (s : State) : State :=
  runHo s 5 fun s => match pav? s s.trust.hoPv with
    | none => endHo s 5 rConflict
    | some p =>
      let k := Config.x25519Fresh s.fresh
      let pub := Config.x25519Public k
      let s := modPav s p.id fun p => { p with secret := some k }
      endHo (modTrust s fun t => { t with ownX := pub, ownSig := Config.ed25519Sign 0 (leBytes 32 pub.toNat ++ leBytes 8 t.epoch.toNat) }) 5 0

/-- A buffer lies in device memory of no partition or of the pavilion's, on no sealed frame list. -/
def bufferOk (s : State) (p : Pavilion) (base len : Nat) : Bool :=
  base + len ≤ deviceBytes &&
  ((rangeChannels base len).all fun c => !s.partitions.any fun q => q.id ≠ p.part && q.own.channels.contains c) &&
  !s.pavilions.any fun q => q.frames.any fun f => overlaps base len (f.1 * 65536) 65536

/-- The digest of the body and the bytes of an image of a pavilion as it stands, sealed under a transfer key (R74). -/
def imageOf (s : State) (p : Pavilion) (key : BitVec 256) : BitVec 512 × List Byte :=
  let body := imageBody (snapshot s p) p
  let digest := Config.sha512 body
  let hd := imageHeader p.id s.trust.hoCopy s.trust.epoch.toNat digest
  (digest, hd ++ Config.sealBytes key hd body)

/-- HOLEN after a PREPARE: the length of the image, or the length that is needed (R74). -/
def setHoLen (s : State) (n : Nat) : State := modTrust s fun t => { t with hoLen := BitVec.ofNat 64 n }

/-- Write the image of a pavilion, or the length that it needs (R74).  A new COPY image: the pavilion has not been destroyed since it was
prepared, so that no release statement stands for it (R73, R74). -/
def sealImage (s : State) (p : Pavilion) : State :=
  match p.secret with
  | none => endHo s 1 rConflict
  | some k =>
    let key := transferKey s k (Config.x25519Public k) s.trust.peerX
    let copy := s.trust.hoCopy
    let (digest, img) := imageOf s p key
    if !bufferOk s p s.trust.hoImg s.trust.hoLen.toNat then endHo s 1 rConflict
    else if s.trust.hoLen.toNat < img.length then endHo (setHoLen s img.length) 1 rConflict
    else
      let s := wrMemBytes s s.trust.hoImg img
      let s := modPav s p.id fun p => { p with
        digest := digest, copyKind := copy, epoch := s.trust.epoch, copyPrepared := p.copyPrepared || copy
        transfer := some key, src := if copy then p.src else .sealed }
      let s := if copy then modTrust s fun t => { t with destroyedCopies := t.destroyedCopies.filter fun x => x ≠ p.id } else s
      endHo (setHoLen s img.length) 1 0

/-- Undo the suspension of a pavilion's contexts for a handover. -/
def runCtxs (s : State) (pv : Nat) : State := (pavCtxs s pv).foldl (fun s c => unsuspend s c.id [3]) s

/-- A MOVE image is sealed once every context is suspended and its teams are off their cores. -/
def settlePrepare (s : State) : State :=
  if !s.trust.hoBusy then s
  else match pav? s s.trust.hoPv with
    | none => endHo s 1 rConflict
    | some p =>
      if s.teams.any fun t => t.onCore && (pavCtxs s p.id).any fun c => c.id == t.ctx then s
      else
        let s := sealImage s p
        if (pav? s p.id).any fun q => q.src == .sealed then s else runCtxs s p.id

/-- PREPARE: a MOVE suspends every context and seals the image; a COPY seals it while they run on (R72).  A buffer in the wrong place, or
too small for the pavilion as it stands, ends it before a context is suspended, as an operation with CONFLICT changes nothing (R74). -/
def prepare (s : State) : State :=
  runHo s 1 fun s => match pav? s s.trust.hoPv with
    | none => endHo s 1 rConflict
    | some p =>
      if p.src ≠ .live || p.dst == .accepted || p.secret.isNone || !peerSigned s then endHo s 1 rConflict
      else if s.trust.hoCopy || !bufferOk s p s.trust.hoImg s.trust.hoLen.toNat then sealImage s p
      else if s.trust.hoLen.toNat < (imageOf s p 0).2.length then endHo (setHoLen s (imageOf s p 0).2.length) 1 rConflict
      else
        let s := (pavCtxs s p.id).foldl (fun s c => suspendCtx s c.id 3) s
        settlePrepare (modTrust s fun t => { t with hoBusy := true })

/-- What a receipt signs: digest, HOPV, kind and the source's epoch. -/
def receiptText (p : Pavilion) : List Byte :=
  leBytes 64 p.digest.toNat ++ leBytes 1 p.id ++ leBytes 1 (if p.copyKind then 1 else 0) ++ leBytes 8 p.epoch.toNat

/-- What a commit proof signs: digest, HOPV and the word COMMIT. -/
def commitText (p : Pavilion) : List Byte := leBytes 64 p.digest.toNat ++ leBytes 1 p.id ++ [0x43#8, 0x4F#8, 0x4D#8, 0x4D#8, 0x49#8, 0x54#8]

/-- What a statement signs: 1 for a release of HOPV or 2 for a reset, HOPV and the epoch. -/
def statementText (kind pv : Nat) (epoch : Nat) : List Byte := leBytes 1 kind ++ leBytes 1 pv ++ leBytes 8 epoch

/-- A signature, then the text it signs, in 128 bytes. -/
def signed (text : List Byte) : List Byte := ((leBytes 64 (Config.ed25519Sign 0 text).toNat ++ text) ++ List.replicate 128 0#8).take 128

/-- HOIN holds a signature of the peer over a text. -/
def inSigns (s : State) (text : List Byte) : Bool :=
  Config.ed25519Verify s.trust.peerId text (BitVec.ofNat 512 (leNat (s.trust.hoIn.take 64)))

/-- COMMIT: with a valid receipt the key goes, the frames are scrubbed, and a commit proof is signed (R72). -/
def commitHo (s : State) : State :=
  runHo s 2 fun s => match pav? s s.trust.hoPv with
    | none => endHo s 2 rConflict
    | some p =>
      if p.src ≠ .sealed || !inSigns s (receiptText p) then endHo s 2 rConflict
      else
        let ctxs := pavCtxs s p.id
        let s := (s.teams.filter fun t => ctxs.any fun c => c.id == t.ctx).foldl wipeTeam s
        let s := ctxs.foldl finishDestroy s
        let s := p.frames.foldl (fun s f => queueScrub s (f.1 * 65536) 65536) s
        let s := if rotating s p.id then { s with rotation := { s.rotation with active := false, pointer := 0, newKey := 0 } } else s
        let s := modPav s p.id fun p => { p with src := .gone, key := 0, transfer := none }
        endHo (modTrust s fun t => { t with hoOut := signed (commitText p) }) 2 0

/-- ABORT: a sealed pavilion is live again, and the transfer key goes; elsewhere no effect (R72). DEDUCED: log entry 70. -/
def abortHo (s : State) : State :=
  runHo s 3 fun s => match pav? s s.trust.hoPv with
    | none => endHo s 3 rConflict
    | some p => match p.src with
      | .live => endHo s 3 0
      | .sealed => endHo (runCtxs (modPav s p.id fun p => { p with src := .live, transfer := none }) p.id) 3 0
      | .gone => endHo s 3 rConflict

/-- Free context ids of this device, ascending. -/
def freeCtxs (s : State) : List Nat := (upto 1024).filter fun i => i ≠ 0 && (ctx? s i).isNone

/-- The value that a list of pairs gives to a number, else the number itself. -/
def mapped (l : List (Nat × Nat)) (n : Nat) : Nat := match l.find? fun x => x.1 == n with | some x => x.2 | none => n

/-- How an image's numbers become this device's: context ids, view tags, frames, and the shift of every other number. DESIGN CHOICE: log entry 9. -/
structure Renum where
  ctxs : List (Nat × Nat)
  tags : List (Nat × Nat)
  frames : List (Nat × Nat)
  shift : Nat

/-- A physical address of the image here: in the frame that has taken its frame's place. -/
def Renum.addr (r : Renum) (a : Nat) : Nat := mapped r.frames (a / 65536) * 65536 + a % 65536
def Renum.tid (r : Renum) (t : Tid) : Tid := { t with team := t.team + r.shift }
def Renum.access (r : Renum) (a : Access) : Access :=
  { a with id := a.id + r.shift, inst := a.inst + r.shift, view := mapped r.tags a.view, pa := if a.space == .host then a.pa else none }
def Renum.thread (r : Renum) (th : Thread) : Thread :=
  { th with queue := th.queue.map r.access, pend := th.pend.map fun p => { p with tok := p.tok + r.shift }
            routine := th.routine.map fun x => { x with slot := r.addr x.slot } }
def Renum.team (r : Renum) (t : Team) : Team :=
  { t with id := t.id + r.shift, grid := t.grid + r.shift, ctx := mapped r.ctxs t.ctx, state := .saved, family := t.family.map (· + r.shift)
           fork := t.fork.map (· + r.shift), view := mapped r.tags t.view, run := t.run.map fun x => (r.addr x.1, x.2)
           groups := t.groups.map fun g => { g with record := g.record.map r.addr, threads := g.threads.map r.thread
                                                    spend := g.spend.map fun p => { p with tok := p.tok + r.shift } } }

/-- A context of an image here: held, its core areas bound to the cores of its new partition in order. -/
def Renum.context (r : Renum) (s : State) (pv part : Nat) (x : Context) : Context :=
  let cores := ownedCores s part
  { x with
    id := mapped r.ctxs x.id, part := part, pav := pv, suspended := true, suspendedBy := [3]
    root1 := r.addr x.root1, arenaBase := r.addr x.arenaBase, extents := x.extents.map fun e => (r.addr e.1, e.2)
    cellsUsed := x.cellsUsed.map fun c => r.addr (c * 128) / 128
    areas := (upto x.areas.length).filterMap fun i => (x.areas[i]?).map fun a => (a.1, if i < x.fixedAreas then cores.getD i (1024 + i) else 1024 + i) }

/-- Allot free tags for an image's views. -/
def freshTags (s : State) : List ViewRec → List (Nat × Nat)
  | [] => []
  | v :: l => match lowestTag s (s.views.length + 1) 1 with
    | some n => (v.tag, n) :: freshTags { s with views := { v with tag := n } :: s.views } l
    | none => freshTags s l

/-- Cargo with the numbers of this device. DESIGN CHOICE: log entry 9. -/
def renumber (s : State) (p : Pavilion) (c : Cargo) : Cargo :=
  let r : Renum := ⟨(c.contexts.map (·.id)).zip (freeCtxs s), freshTags s c.views, c.frames.zip (p.frames.map Prod.fst), s.nextId⟩
  let cx := mapped r.ctxs
  { frames := p.frames.map Prod.fst
    contexts := c.contexts.map (r.context s p.id p.part)
    grids := c.grids.map fun g => { g with id := g.id + r.shift, ctx := cx g.ctx, part := p.part }
    teams := c.teams.map r.team
    views := c.views.map fun v => { v with tag := mapped r.tags v.tag, parent := mapped r.tags v.parent, ctx := cx v.ctx }
    versions := c.versions.map fun v => { v with tag := mapped r.tags v.tag, line := r.addr (v.line * 64) / 64, ctx := cx v.ctx }
    families := c.families.map fun f => { f with
      id := f.id + r.shift, ctx := cx f.ctx, anchor := f.anchor + r.shift, draft := mapped r.tags f.draft, lanes := f.lanes.map r.tid }
    holds := c.holds.map fun h => { h with ctx := cx h.ctx, family := h.family + r.shift }
    sets := c.sets.map fun x => { x with ctx := cx x.ctx }
    forks := c.forks.map fun f => { f with
      id := f.id + r.shift, ctx := cx f.ctx, parentView := mapped r.tags f.parentView, parentFork := f.parentFork.map (· + r.shift)
      worlds := f.worlds.map fun w => { w with team := w.team + r.shift, tag := mapped r.tags w.tag } }
    deferred := c.deferred.map fun d => { d with
      tid := r.tid d.tid, fork := d.fork.map fun x => (x.1 + r.shift, x.2), family := d.family.map (· + r.shift), acc := d.acc.map r.access } }

/-- Numbers up to which a cargo's lie, once they are shifted. -/
def cargoTop (s : State) (c : Cargo) : Nat :=
  let toks := c.teams.flatMap fun t => t.groups.flatMap fun g => g.threads.flatMap fun th => th.queue.map fun a => max a.id a.inst
  ((c.grids.map (·.id)) ++ (c.teams.map (·.id)) ++ (c.families.map (·.id)) ++ (c.forks.map (·.id)) ++ toks).foldl max s.nextId + 3

/-- Fill spans with bytes, one span after another, for a pavilion (R59). -/
def fillSpans (s : State) (pav : Nat) : List (Nat × Nat) → List Byte → State
  | [], _ => s
  | e :: l, bs => fillSpans (sealSpan (wrMemBytes s e.1 (bs.take e.2)) pav e.1 e.2) pav l (bs.drop e.2)

/-- The view tags in the group headers of an image's teams become this device's (R183). -/
def retagRecords (s : State) (ts : List Team) : State :=
  ts.foldl (fun s t => t.groups.foldl (fun s g => match g.record with
    | some h => wrFor s t.ctx (h + 40) (leBytes 4 (viewWord t.view t.world t.nworld))
    | none => s) s) s

/-- ACCEPT: the image is opened and checked; frames, records and held contexts are filled, and a receipt is signed (R74). -/
def accept (s : State) : State :=
  runHo s 4 fun s => match pav? s s.trust.hoPv with
    | none => endHo s 4 rConflict
    | some p => match p.secret with
      | none => endHo s 4 rConflict
      | some k =>
        let img := homeBytes s 0 s.trust.hoImg s.trust.hoLen.toNat
        let hd := img.take 80
        let key := transferKey s k s.trust.peerX (Config.x25519Public k)
        match Config.openBytes key hd (img.drop 80) with
        | none => endHo s 4 rConflict
        | some body =>
          let n := fieldAt body 16 8
          let a := fieldAt body 0 8
          let digest := BitVec.ofNat 512 (fieldAt hd 16 64)
          if p.dst ≠ .none || !peerSigned s || fieldAt hd 0 4 ≠ p.id || Config.sha512 body ≠ digest || p.frames.length < n then endHo s 4 rConflict
          else
            let c := renumber s p (unpackCargo ((body.drop 24).take a))
            let s := fillSpans s p.id (((p.frames.map Prod.fst).take n).map fun f => (f * 65536, 65536)) (body.drop (24 + a + fieldAt body 8 8))
            let s := fillSpans s p.id (poolSpans c.contexts) ((body.drop (24 + a)).take (fieldAt body 8 8))
            let s := { s with contexts := s.contexts ++ c.contexts, grids := s.grids ++ c.grids, teams := s.teams ++ c.teams, views := s.views ++ c.views
                              versions := s.versions ++ c.versions, families := s.families ++ c.families, holds := s.holds ++ c.holds
                              sets := s.sets ++ c.sets, forks := s.forks ++ c.forks, deferred := s.deferred ++ c.deferred, nextId := cargoTop s c }
            let s := retagRecords s c.teams
            let p' := { p with dst := HandDst.accepted, digest := digest, copyKind := fieldAt hd 4 4 == 1, epoch := BitVec.ofNat 64 (fieldAt hd 8 8), transfer := some key }
            let s := modPav s p.id fun _ => p'
            endHo (modTrust s fun t => { t with hoOut := signed (receiptText p') }) 4 0

/-- RELEASE: with the proof or statement that the image's kind needs, the held contexts may run (R73, R74). -/
def releaseHo (s : State) : State :=
  runHo s 6 fun s => match pav? s s.trust.hoPv with
    | none => endHo s 6 rConflict
    | some p =>
      let e := fieldAt s.trust.hoIn 66 8
      let ok := if p.copyKind then
          (fieldAt s.trust.hoIn 64 1 == 1 && inSigns s (statementText 1 p.id e)) ||
          (fieldAt s.trust.hoIn 64 1 == 2 && decide (p.epoch.toNat < e) && inSigns s (statementText 2 p.id e))
        else inSigns s (commitText p)
      if p.dst ≠ .accepted || !ok then endHo s 6 rConflict
      else endHo (runCtxs (modPav s p.id fun p => { p with dst := .released, transfer := none }) p.id) 6 0

/-- STATEMENT: a release statement if HOPV was destroyed since a COPY image of it, else a reset statement (R74). -/
def statement (s : State) : State :=
  runHo s 7 fun s =>
    let pv := s.trust.hoPv
    let kind := if s.trust.destroyedCopies.contains pv then 1 else 2
    endHo (modTrust s fun t => { t with hoOut := signed (statementText kind pv t.epoch.toNat) }) 7 0

/-- A reserved HOOP. -/
def hoReserved (s : State) : State := if s.trust.hoBusy then s else modTrust s fun t => { t with hoResult := rBadOp }

/-- KEYX (R74). -/
def execKeyx (s : State) : Host.Outcome State Fault Refusal := .next (keyx s)
/-- PREPARE (R72). -/
def execPrepare (s : State) : Host.Outcome State Fault Refusal := .next (prepare s)
/-- COMMIT (R72). -/
def execHandoverCommit (s : State) : Host.Outcome State Fault Refusal := .next (commitHo s)
/-- ABORT (R72). -/
def execHandoverAbort (s : State) : Host.Outcome State Fault Refusal := .next (abortHo s)
/-- ACCEPT (R74). -/
def execAccept (s : State) : Host.Outcome State Fault Refusal := .next (accept s)
/-- RELEASE (R74). -/
def execHandoverRelease (s : State) : Host.Outcome State Fault Refusal := .next (releaseHo s)
/-- STATEMENT (R74). -/
def execStatement (s : State) : Host.Outcome State Fault Refusal := .next (statement s)

end Sys2Proof.Machine
end

