-- ==== Sys2Proof/Machine/Replay.lean ====
section
/-! DEFINITION. Translation control and the spill pool block: INVALIDATE, REPLAY, ABORT, INJECT, ADD and QUERY (R79, R82, R146 to R149,
R152, R217, R359, R382). -/

namespace Sys2Proof.Machine

/-! ### The translation blocks (R146) -/

/-- The block of a function: 0 is the PF's, else a VF's. -/
def transBlock (s : State) (fn : Nat) : TransBlock :=
  (s.host.trans.find? fun b => b.fn == fn).getD
    { fn := fn, ctx := 0, stage := 0, va := 0, pages := 0, seq := 0, result := 0, busy := false, started := false, waits := [] }

/-- No operation is in progress in a block. -/
def TransBlock.idle (b : TransBlock) : TransBlock := { b with busy := false, started := false, waits := [], engs := [], after := 0, ending := 0 }

/-- Put a block. -/
def putBlock (s : State) (b : TransBlock) : State :=
  { s with host := { s.host with trans := b :: s.host.trans.filter fun x => x.fn ≠ b.fn } }

/-- An operation ends: RESULT, BUSY clear, and vector 0 of the block's function. -/
def endTrans (s : State) (fn : Nat) (r : BitVec 8) : State :=
  raiseVector (putBlock s { (transBlock s fn).idle with result := r }) fn 0

/-- The result of an operation's checks: `inject` for INJECT. DEDUCED: log entry 65. -/
def transFails (s : State) (b : TransBlock) (inject : Bool) : Option (BitVec 8) :=
  firstCode
    [(1024 ≤ b.ctx || 3 ≤ b.stage || b.va.toNat % 65536 ≠ 0, 1), (b.fn ≠ 0 && (inject || b.stage ≠ 0), 5), ((ctx? s b.ctx).isNone, 3),
     (b.fn ≠ 0 && !(match vf? s b.fn, ctx? s b.ctx with | some v, some c => v.part == c.part | _, _ => false), 5)]

/-- An operation of a block runs its checks, then its effect. -/
def runTrans (s : State) (fn : Nat) (inject : Bool) (eff : TransBlock → State → State) : State :=
  let b := transBlock s fn
  if b.busy then s
  else match transFails s b inject with
    | some r => endTrans s fn r
    | none => eff b s

/-! ### INVALIDATE (R147) -/

/-- A page of 2^`sz` bytes at `a` meets the pages that a block names. -/
def TransBlock.names (b : TransBlock) (a n : Nat) : Bool := b.pages == 0 || overlaps a n b.va.toNat (b.pages * 65536)

/-- A cached translation is removed: by its VA at stage 1, with any stage-2 use at stage 2. DEDUCED: log entry 65. -/
def TransBlock.hitsTlb (b : TransBlock) (e : Tlb) : Bool :=
  e.ctx == b.ctx && ((b.stage ≠ 1 && b.names (e.page * 2 ^ e.sz) (2 ^ e.sz)) || b.stage ≠ 0)

/-- A walk-cache entry is removed. -/
def TransBlock.hitsWalk (b : TransBlock) (e : WalkEntry) : Bool :=
  e.ctx == b.ctx && ((b.stage ≠ 1 && e.stage == 1) || (b.stage ≠ 0 && e.stage == 2)) &&
  b.names (e.index * 2 ^ levelShift e.level) (2 ^ levelShift e.level)

/-- An access that was translated, to memory here or at a peer, and is not logged. -/
def usesTrans (a : Access) : Bool :=
  a.pa.isSome && a.logged.isNone && !a.slot && match a.space with | .home | .peer _ => true | _ => false

/-- Accesses of the context that may hold a translation of a named page and are not performed yet: those of the queues, and those of the
store gates. -/
def usersOf (s : State) (b : TransBlock) : List (Tid × Nat) :=
  ((allQueues s).filterMap fun x =>
    if usesTrans x.2 && x.2.c.isNone && ctxOfTid s x.1 == b.ctx && (b.stage ≠ 0 || b.names x.2.va.toNat x.2.size) then some (x.1, x.2.id) else none) ++
  (s.gate.filter fun g => ctxOfTid s g.tid == b.ctx).map fun g => (g.tid, g.acc)

/-- An access that used a removed translation has its completion time at its home slice, has been answered by its peer, or is logged. -/
def accDone (s : State) (x : Tid × Nat) : Bool :=
  match acc? s x.1 x.2 with
  | some a => !usesTrans a || a.c.isSome
  | none => !s.gate.any fun g => g.tid == x.1 && g.acc == x.2

/-- An operation of an engine waits for an answer of a peer. -/
def engAway (e : EngOp) : Bool := !e.ended && (e.fetched.any (fun x => x.2.2 == .waits) || !e.acks.isEmpty)

/-- Operations of engines whose present line uses a translation of the context. -/
def engUsers (s : State) (b : TransBlock) : List Nat := (s.engines.filter fun e => e.ctx == b.ctx && engAway e).map (·.id)

/-- The last completion time that an access of a context, an engine's among them, has now. -/
def lastDue (s : State) (ctx : Nat) : Nat :=
  (((s.waiting.filter fun w => w.ctx == ctx).map Waiting.c) ++
    ((atomicsDue s).filter fun x => ctxOfTid s x.1 == ctx).filterMap fun x => x.2.c).foldl max s.time

/-- The tick after which no window write that has arrived on the link of a block's function waits (R36, R147). DEDUCED: log entry 65. -/
def windowsDone (s : State) (fn : Nat) : Nat := if fn == 0 then max (lastWindow s 0) (lastWindow s 1) else lastWindow s (linkOf fn)

/-- An INVALIDATE in progress: after earlier window writes it removes the translations, and it ends once each of their users has its
completion time and the last of these times has come (R147). -/
def settleTrans (s : State) (fn : Nat) : State :=
  let b := transBlock s fn
  if !b.busy then s
  else
    let s := if b.started || s.time < b.after then s
      else putBlock { s with tlb := s.tlb.filter fun e => !b.hitsTlb e, walkCache := s.walkCache.filter fun e => !b.hitsWalk e }
        { b with started := true, waits := usersOf s b, engs := engUsers s b }
    let b := transBlock s fn
    let done := b.started && b.waits.all (accDone s) && b.engs.all fun i => !s.engines.any fun e => e.id == i && engAway e
    let s := if done && b.ending == 0 then putBlock s { b with ending := max 1 (lastDue s b.ctx) } else s
    let b := transBlock s fn
    if b.ending ≠ 0 && b.ending ≤ s.time then endTrans s fn 0 else s

/-- INVALIDATE of a block. -/
def invalidate (s : State) (fn : Nat) : State :=
  runTrans s fn false fun b s => settleTrans (putBlock s { b.idle with busy := true, after := windowsDone s fn }) fn

/-- INVALIDATE (R147). -/
def execInvalidate (fn : Nat) (s : State) : Host.Outcome State Fault Refusal := .next (invalidate s fn)

/-! ### REPLAY and ABORT (R149, R152) -/

/-- A record number is named: itself, or every one of the context. -/
def TransBlock.namesSeq (b : TransBlock) (q : Nat) : Bool := b.seq == 4294967295 || b.seq == q

/-- Logged accesses that a block names, in program order for each thread; a VF's block acts on first-stage faults only. DEDUCED: log entry 65. -/
def namedAccs (s : State) (b : TransBlock) : List (Tid × Access) :=
  (allQueues s).filter fun x =>
    (match x.2.logged with | some q => b.namesSeq q | none => false) && (b.fn == 0 || !x.2.s2) &&
    (match team? s x.1.team with | some t => t.ctx == b.ctx | none => false)

/-- Mark a logged access of a team that is pending or under pre-emption. -/
def markAcc (s : State) (t : Tid) (a : Access) (m : Nat) : State := modAcc s t a.id fun a => { a with mark := m }

/-- A team is resident and not under pre-emption. -/
def isResident (s : State) (team : Nat) : Bool := match team? s team with | some t => t.state == .resident | none => false

/-- Threads whose fetch fault a block names, by the number of its record; a VF's block acts on first-stage faults only. DEDUCED: log entry 23. -/
def namedFetches (s : State) (b : TransBlock) : List (Tid × Word) :=
  (s.teams.filter fun t => t.ctx == b.ctx).flatMap fun t => (tidsOf t).filterMap fun k => match thread? s k with
    | some th => th.fetchFault.bind fun off => if b.namesSeq th.fetchSeq && (b.fn == 0 || !th.fetchS2) then some (k, off) else none
    | none => none

/-- Operations of engines that a block names; a VF's block acts on first-stage faults only. -/
def namedEngines (s : State) (b : TransBlock) : List Nat :=
  (s.engines.filter fun e => e.ctx == b.ctx && (b.fn == 0 || !e.pausedS2) && (match e.paused with | some q => b.namesSeq q | none => false)).map (·.id)

/-- A block may act on the record of a number: a VF's block on first-stage faults only. -/
def mayAct (s : State) (b : TransBlock) (q : Nat) : Bool := b.fn == 0 || !s.logged.any fun l => l.seq == q && l.record.ctx == b.ctx && l.record.stage2

/-- Forget the kept records that a block names. -/
def forgetRecords (s : State) (b : TransBlock) : State :=
  { s with logged := s.logged.filter fun l => !(l.record.ctx == b.ctx && b.namesSeq l.seq && (b.fn == 0 || !l.record.stage2)) }

/-- A grid's faulted reads that a block names. -/
def namedGrid (s : State) (b : TransBlock) (g : Grid) (q : Option Nat) : Bool :=
  g.ctx == b.ctx && (match q with | some n => b.namesSeq n && mayAct s b n | none => false)

/-- The launches whose faulted reads a block names. -/
def namedLaunches (s : State) (b : TransBlock) : List LaunchWait :=
  s.launches.filter fun l => l.ctx == b.ctx && (match l.fault with | some q => b.namesSeq q && mayAct s b q | none => false)

/-- Retry the reads of grids and launches (R79, R82, R359). -/
def replayGrids (s : State) (b : TransBlock) : State :=
  let s := (s.grids.filter fun g => namedGrid s b g g.waitFault).foldl (fun s g => match ctx? s g.ctx with
    | some c => let g := { g with waitFault := none }; checkReady (modGrid s g.id fun _ => g) g c
    | none => s) s
  let s := { s with grids := s.grids.map fun g => if namedGrid s b g g.placeFault then { g with placeFault := none } else g }
  (namedLaunches s b).foldl (fun s l =>
    let l := { l with fault := none }
    let s := { s with launches := updWhere (fun (x : LaunchWait) => x.seq == l.seq) (fun _ => l) s.launches }
    match ctx? s l.ctx with | some c => if launchReady s l c then takeLaunch s l c else s | none => s) s

/-- REPLAY: every named access, fetch, engine byte and controller read is tried again. -/
def replay (s : State) (fn : Nat) : State :=
  runTrans s fn false fun b s =>
    let accs := namedAccs s b
    let fetches := namedFetches s b
    let engs := namedEngines s b
    let s := accs.foldl (fun s x => if isResident s x.1.team then replayAccess s x.1 x.2 else markAcc s x.1 x.2 1) (replayGrids (forgetRecords s b) b)
    let s := fetches.foldl (fun s x => if isResident s x.1.team then walkFetch s x.1 x.2 true else s) s
    endTrans (engs.foldl replayEngine s) fn 0

/-- REPLAY (R149). -/
def execReplay (fn : Nat) (s : State) : Host.Outcome State Fault Refusal := .next (replay s fn)

/-- End the faulted reads of grids and launches: a grid that waits on its word is dropped with a record, one that is placed drops
its unplaced teams, a launch traps (R79, R82, R359). -/
def abortGrids (s : State) (b : TransBlock) (recs : List LoggedRec) : State :=
  let s := (s.grids.filter fun g => namedGrid s b g g.waitFault).foldl (fun s g =>
    let s := (writeFault s (plainFault g.ctx Cause.taskState.code 0 0)).2
    endGrid (modGrid s g.id fun g => { g with waitFault := none, dropped := true }) g.id) s
  let s := (s.grids.filter fun g => namedGrid s b g g.placeFault).foldl (fun s g =>
    endGrid (modGrid s g.id fun g => { g with placeFault := none, dropped := true }) g.id) s
  (namedLaunches s b).foldl (fun s l =>
    let r := (recs.find? fun x => some x.seq == l.fault).map (·.record)
    let va := match r with | some x => x.va | none => l.addr
    let c := match r with | some x => if x.stage2 then Cause.stage2Fault else .pageFault | none => .pageFault
    failLaunch s l (addrTrap c va.toNat).trap 0) s

/-- ABORT: every named access is discarded, and named engines and controller reads end. -/
def abort (s : State) (fn : Nat) : State :=
  runTrans s fn false fun b s =>
    let accs := namedAccs s b
    let engs := namedEngines s b
    let recs := s.logged
    let s := forgetRecords s b
    let s := accs.foldl (fun s x => if isResident s x.1.team then abortAccess s x.1 x.2 else markAcc s x.1 x.2 2) s
    let s := engs.foldl abortEngine s
    endTrans (abortGrids s b recs) fn 0

/-- ABORT (R149). -/
def execAbort (fn : Nat) (s : State) : Host.Outcome State Fault Refusal := .next (abort s fn)

/-! ### INJECT (R149) -/

/-- Whatever waits under a record number waits under another, as a first-stage fault. DEDUCED: log entry 66. -/
def renameFault (s : State) (ctx old new : Nat) : State :=
  let f := fun (a : Access) => if a.logged == some old then { a with logged := some new, s2 := false } else a
  let q := fun (x : Option Nat) => if x == some old then some new else x
  let h := fun (th : Thread) =>
    let th := { th with queue := th.queue.map f }
    if th.fetchFault.isSome && th.fetchSeq == old then { th with fetchSeq := new, fetchS2 := false } else th
  { s with
    teams := s.teams.map fun t => if t.ctx == ctx then { t with groups := t.groups.map fun g => { g with threads := g.threads.map h } } else t
    engines := s.engines.map fun e => if e.ctx == ctx && e.paused == some old then { e with paused := some new, pausedS2 := false } else e
    grids := s.grids.map fun g => if g.ctx == ctx then { g with waitFault := q g.waitFault, placeFault := q g.placeFault } else g
    launches := s.launches.map fun l => if l.ctx == ctx then { l with fault := q l.fault } else l }

/-- INJECT: a record of the hypervisor's area is written again into the context's own area. DEDUCED: log entry 66. -/
def inject (s : State) (fn : Nat) : State :=
  runTrans s fn true fun b s =>
    match s.logged.find? fun l => l.hyper && l.seq == b.seq && l.record.ctx == b.ctx with
    | none => endTrans s fn 1
    | some l =>
      let r : FaultRec := { l.record with code := Cause.pageFault.code, stage2 := false, ipa := 0 }
      let w := writeFault { s with logged := s.logged.filter fun x => x.seq ≠ l.seq } r
      endTrans (renameFault (keepRecord w.2 w.1 r) b.ctx l.seq (w.1.getD 4294967295)) fn 0

/-- INJECT (R149). -/
def execInject (fn : Nat) (s : State) : Host.Outcome State Fault Refusal := .next (inject s fn)

/-! ### The spill pool block (R217) -/

/-- SPTOTAL and SPUSED of a context, RESULT and vector 0. -/
def endSpill (s : State) (r : BitVec 8) : State :=
  let s := match ctx? s s.host.spCtx with
    | some c => { s with host := { s.host with spTotal := BitVec.ofNat 64 ((c.extents.map Prod.snd).sum), spUsed := BitVec.ofNat 64 (128 * usedCells s c) } }
    | none => s
  raiseVector { s with host := { s.host with spResult := r } } 0 0

/-- ADD: a new extent of SPCTX's pool. -/
def spillAdd (s : State) : State :=
  let h := s.host
  let base := h.spBase.toNat
  let len := h.spLen.toNat
  let ext := s.contexts.flatMap fun c => c.extents
  match firstCode [(1024 ≤ h.spCtx || base % 4096 ≠ 0 || 2 ^ 52 ≤ base, 1), ((ctx? s h.spCtx).isNone, 3),
      ((match ctx? s h.spCtx with | some c => decide (8 ≤ c.extents.length) | none => false) || len == 0 || len % 4096 ≠ 0 || ext.any fun e => overlaps base len e.1 e.2, 1)] with
  | some r => endSpill s r
  | none => endSpill (modCtx s h.spCtx fun c => { c with extents := c.extents ++ [(base, len)] }) 0

/-- QUERY: only SPTOTAL and SPUSED are updated. -/
def spillQuery (s : State) : State :=
  endSpill s ((firstCode [(1024 ≤ s.host.spCtx, 1), ((ctx? s s.host.spCtx).isNone, 3)]).getD 0)

/-- ADD (R217). -/
def execSpillAdd (s : State) : Host.Outcome State Fault Refusal := .next (spillAdd s)
/-- QUERY (R217). -/
def execSpillQuery (s : State) : Host.Outcome State Fault Refusal := .next (spillQuery s)

end Sys2Proof.Machine
end

