-- ==== Sys2Proof/Machine/Checkpoint.lean ====
section
/-! DEFINITION. Checkpoints and the observation block (R231 to R236, R240 to R242). -/

namespace Sys2Proof.Machine

/-! ### The checks of START and ARM (R232) -/

/-- Set RESULT of the checkpoint block. -/
def ckEnd (s : State) (r : BitVec 8) : State := { s with observe := { s.observe with ckResult := r } }

/-- The lengths of ranges. -/
def rangesLen (l : List (Nat × Nat)) : Nat := (l.map Prod.snd).sum

/-- A range list entry is bad: a reserved bit, a misaligned or zero length, or memory that the partition does not own. -/
def rangeBad (s : State) (part : Nat) (r : Nat × Nat) : Bool :=
  r.1 % 65536 ≠ 0 || 2 ^ 52 ≤ r.1 || r.2 == 0 || r.2 % 65536 ≠ 0 || !ownsRange s part r.1 r.2

/-- A physical address field keeps its reserved bits zero. -/
def fieldOk (x : BitVec 64) (lowBits : Nat) : Bool := decide (x.toNat % 2 ^ lowBits = 0) && decide (x.toNat < 2 ^ 52)

/-- The code that START or ARM ends with, other than OK. -/
def ckFails (s : State) : Option (BitVec 8) :=
  let o := s.observe
  let list := o.ckList.toNat
  let n := o.ckCount.toNat
  if 1024 ≤ o.ckCtx || !fieldOk o.ckList 4 || n == 0 || 4096 < n || !fieldOk o.ckSlot0 16 || !fieldOk o.ckSlot1 16 || deviceBytes < list + 16 * n then some 1
  else match ctx? s o.ckCtx with
    | none => some 3
    | some c =>
      let rs := rangeList s list n
      let need := 4096 + rangesLen rs
      let a := o.ckSlot0.toNat
      let b := o.ckSlot1.toNat
      if c.pav ≠ 0 then some 5
      else if rs.any (rangeBad s c.part) || overlaps a need b need || rs.any (fun r => overlaps r.1 r.2 a need || overlaps r.1 r.2 b need) ||
          deviceBytes < a + need || deviceBytes < b + need then some 1
      else none

/-! ### A checkpoint (R234) -/

/-- The staged commit record of a slot: valid, and its sequence number. -/
def stagedSeq (s : State) (slot : Nat) : Option Nat :=
  if homeLe s (slot + 4032) 2 == 0x434B then some (homeLe s (slot + 4040) 8) else none

/-- The slot that does not hold the newer valid image is slot 1. -/
def takesSlot1 (s : State) (a b : Nat) : Bool :=
  match stagedSeq s a, stagedSeq s b with
  | some x, some y => decide (y < x)
  | some _, none => true
  | none, _ => false

/-- Steps 1 and 2: the chosen slot's commit record is cleared and the context is suspended. -/
def beginCkpt (s : State) (ctx list count a b : Nat) : State :=
  let one := takesSlot1 s a b
  let slot := if one then b else a
  let s := wrMemBytes s (slot + 4032) (List.replicate 64 0#8)
  let run : CkptRun := { ctx := ctx, list := list, count := count, slot0 := a, slot1 := b, useSlot1 := one, tick := none, ranges := rangeList s list count }
  suspendCtx { s with observe := { s.observe with ckRun := some run } } ctx 2

/-- START takes a checkpoint at once. -/
def ckStart (s : State) : State :=
  if s.observe.ckRun.isSome then s
  else match ckFails s with
    | some r => ckEnd s r
    | none =>
      let o := s.observe
      beginCkpt (ckEnd s 0) o.ckCtx o.ckList.toNat o.ckCount.toNat o.ckSlot0.toNat o.ckSlot1.toNat

/-- ARM stores the list and the slots for CKCTX. -/
def ckArm (s : State) : State :=
  if s.observe.ckRun.isSome then s
  else match ckFails s with
    | some r => ckEnd s r
    | none =>
      let o := s.observe
      modCtx (ckEnd s 0) o.ckCtx fun c => { c with armed := some (o.ckList.toNat, o.ckCount.toNat, o.ckSlot0.toNat, o.ckSlot1.toNat) }

/-- DISARM clears ARMED. -/
def ckDisarm (s : State) : State :=
  if s.observe.ckRun.isSome then s
  else match firstCode [(1024 ≤ s.observe.ckCtx, 1), ((ctx? s s.observe.ckCtx).isNone, 3)] with
    | some r => ckEnd s r
    | none => modCtx (ckEnd s 0) s.observe.ckCtx fun c => { c with armed := none }

/-- START (R234). -/
def execCheckpointStart (s : State) : Host.Outcome State Fault Refusal := .next (ckStart s)
/-- ARM (R233). -/
def execArm (s : State) : Host.Outcome State Fault Refusal := .next (ckArm s)
/-- DISARM (R233). -/
def execDisarm (s : State) : Host.Outcome State Fault Refusal := .next (ckDisarm s)

/-- After a warning, firmware takes the checkpoint of the next armed context, which is disarmed (R233, R235). -/
def execCheckpointWarning (s : State) : Host.Outcome State Fault Refusal :=
  .next (if s.observe.ckRun.isSome then s
    else match s.observe.warned with
      | [] => s
      | c :: l =>
        let s := { s with observe := { s.observe with warned := l } }
        match (ctx? s c).bind (·.armed) with
        | some (list, n, a, b) => beginCkpt (modCtx s c fun c => { c with armed := none }) c list n a b
        | none => s)

/-- Every thread of the context has ended its routine or dump: this tick is the checkpoint tick, and the image holds what its ranges
hold in the committed state now (R231, R234). -/
def execCheckpointTick (s : State) : Host.Outcome State Fault Refusal :=
  .next (match s.observe.ckRun with
    | some k =>
      if k.tick.isSome || s.teams.any (fun t => t.ctx == k.ctx && t.onCore) then s
      else { s with observe := { s.observe with ckRun := some { k with tick := some s.time, image := k.ranges.map fun r => homeBytes s 0 r.1 r.2 } } }
    | none => s)

/-- Copy the ranges' images to a slot, in list order. DEDUCED: log entry 74. -/
def copyRanges (s : State) : List (List Byte) → Nat → State
  | [], _ => s
  | bs :: l, a => copyRanges (wrMemBytes s a bs) l (a + bs.length)

/-- The header of a staged image: magic, context, checkpoint tick and as much of the range list as it holds. DEDUCED: log entry 74. -/
def ckHeader (k : CkptRun) (tick : Nat) : List Byte :=
  let l := leBytes 4 0x4350 ++ leBytes 4 k.ctx ++ leBytes 8 tick ++ k.ranges.flatMap fun r => leBytes 8 r.1 ++ leBytes 8 r.2
  (l ++ List.replicate 4032 0#8).take 4032

/-- Every dirty committed line of the listed ranges stands in HBM (R234 step 3). -/
def cleanRanges (s : State) (rs : List (Nat × Nat)) : State :=
  { s with dirty := s.dirty.filter fun d => !rs.any fun r => overlaps (d.line * 64) 64 r.1 r.2 }

/-- Steps 3 to 7: header, ranges, commit record, CKSEQ, vector 5, the audit entry, and the context resumes unless something else
suspends it. -/
def stageCommit (s : State) (k : CkptRun) (tick : Nat) : State :=
  let slot := if k.useSlot1 then k.slot1 else k.slot0
  let seq := s.observe.ckSeq + 1
  let s := wrMemBytes (cleanRanges s k.ranges) slot (ckHeader k tick)
  let s := copyRanges s k.image (slot + 4096)
  let s := wrMemBytes s (slot + 4032) ((leBytes 8 0x434B ++ leBytes 8 seq.toNat ++ leBytes 8 (rangesLen k.ranges) ++ leBytes 8 tick ++ List.replicate 32 0#8))
  let s := raiseVector { s with observe := { s.observe with ckSeq := seq, ckRun := none } } 0 5
  unsuspend (audit s 1 0x100 k.ctx 0 []) k.ctx [2]

/-- The staged commit record is written and the checkpoint ends; a DESTROY that waited goes on (R234, R235). -/
def execStagedCommit (s : State) : Host.Outcome State Fault Refusal :=
  .next (match s.observe.ckRun with
    | some k => match k.tick with
      | some t => driveDestroy (stageCommit s k t)
      | none => s
    | none => s)

/-! ### Rings and histograms (R241, R242) -/

/-- An operation of the observation block ends: RESULT and vector 0. -/
def endObs (s : State) (r : BitVec 8) : State := raiseVector { s with observe := { s.observe with obResult := r } } 0 0

/-- The common checks of a context's ring. -/
def obCtxCheck (s : State) : List (Bool × BitVec 8) := [(1024 ≤ s.observe.obCtx, 1), ((ctx? s s.observe.obCtx).isNone, 3)]

/-- A ring size is 0 or a power of two from 64 to 2^20. -/
def ringSizeOk (n : Nat) : Bool := n == 0 || (upto 15).any fun i => n == 2 ^ (6 + i)

/-- SET: the ring of OBCTX, empty. -/
def obSet (s : State) : State :=
  let o := s.observe
  let base := o.obBase.toNat
  let n := o.obSize.toNat
  let owned := match ctx? s o.obCtx with
    | some c => n == 0 || (ownsRange s c.part base (64 * n) &&
        (c.pav == 0 || (match pav? s c.pav with | some p => sealedRange p base (64 * n) | none => false)))
    | none => false
  match firstCode (obCtxCheck s ++ [(!ringSizeOk n, 1), (base % 64 ≠ 0 || !owned, 5)]) with
  | some r => endObs s r
  | none => endObs (modCtx s o.obCtx fun c => { c with ringBase := base, ringSize := n, ringHead := 0, ringTail := 0, ringLost := 0 }) 0

/-- READ: OBHEAD, OBTAIL and OBLOST of OBCTX. -/
def obRead (s : State) : State :=
  match firstCode (obCtxCheck s), ctx? s s.observe.obCtx with
  | none, some c => endObs { s with observe := { s.observe with
      obHead := BitVec.ofNat 64 c.ringHead, obTail := BitVec.ofNat 64 c.ringTail, obLost := BitVec.ofNat 64 c.ringLost } } 0
  | some r, _ => endObs s r
  | none, none => s

/-- TAIL: OBCTX's tail becomes OBTAIL. -/
def obSetTail (s : State) : State :=
  match firstCode (obCtxCheck s) with
  | some r => endObs s r
  | none => endObs (modCtx s s.observe.obCtx fun c => { c with ringTail := s.observe.obTail.toNat }) 0

/-- HIST: the counters of a quadrant, cleared when HGCLR is 1. -/
def obHist (s : State) : State :=
  let o := s.observe
  let vals := match o.hists.find? fun h => h.core == o.hgCore && h.quad == o.hgQuad with | some h => h.vals | none => List.replicate 24 0
  let hs := if o.hgClr then o.hists.filter fun h => !(h.core == o.hgCore && h.quad == o.hgQuad) else o.hists
  endObs { s with observe := { o with hgVal := vals.map fun v => v.setWidth 64, hists := hs } } 0

/-- SET (R242). -/
def execObSet (s : State) : Host.Outcome State Fault Refusal := .next (obSet s)
/-- READ (R242). -/
def execObRead (s : State) : Host.Outcome State Fault Refusal := .next (obRead s)
/-- HIST (R242). -/
def execHist (s : State) : Host.Outcome State Fault Refusal := .next (obHist s)
/-- TAIL (R242). -/
def execObTail (s : State) : Host.Outcome State Fault Refusal := .next (obSetTail s)

end Sys2Proof.Machine
end

