-- ==== Sys2Proof/Machine/Reset.lean ====
section
/-! DEFINITION. Thermal warnings, fatal errors with their dump, and the device's reset (R15, R66, R237, R238). -/

namespace Sys2Proof.Machine

/-! ### Status words (R16) -/

/-- The status word of an island: at step 0 nothing holds its step below 0. -/
def Island.word (i : Island) : Word := BitVec.ofNat 32 (i.temp % 256 * 65536 + (if i.step == 0 then 0 else i.limit.toNat * 256) + i.step % 16)

/-! ### Reset and the measured boot (R66) -/

/-- The memory with every sealed line as it stands in HBM: under a key that the reset destroys, unless it was written from outside its
pavilion (R59). DESIGN CHOICE: log entry 68. DEDUCED: log entry 71. -/
def sealedMem (s : State) : Memory :=
  s.seals.foldl (fun m r => if r.changed then m else Memory.writeN m (r.line * 64) (r.cipher s)) s.mem

/-- The machine after a reset: memories, the audit log and the dump region keep their contents, the boot epoch is one greater, and
the boot ROM has measured the components of MEAS0 to MEAS4. -/
def resetDevice (s : State) : State :=
  let t := State.reset
  bootRom { t with
    agenda := s.agenda, fresh := s.fresh, nextId := s.nextId, mem := sealedMem s, hostMem := s.hostMem
    trust := { t.trust with audit := s.trust.audit, nextSeq := s.trust.nextSeq, overwritten := s.trust.overwritten, epoch := s.trust.epoch + 1 }
    observe := { t.observe with dump := s.observe.dump } }

/-- The device is reset (R66). -/
def execDeviceReset (s : State) : Host.Outcome State Fault Refusal := .next (resetDevice s)

/-! ### Fatal errors (R237, R238) -/

/-- The 4 KiB header of a dump. DESIGN CHOICE: log entry 72. -/
def dumpHeader (s : State) (cause : Nat) : List Byte :=
  let l := leBytes 4 0x4644 ++ leBytes 4 cause ++ leBytes 8 s.time ++ s.islands.flatMap (fun i => leBytes 4 i.word.toNat) ++ leBytes 8 s.trust.nextSeq
  (l ++ List.replicate 4096 0#8).take 4096

/-- A pavilion's state as the dump holds it: sealed under its key. -/
def sealedState (s : State) (p : Pavilion) : List Byte :=
  let c := { cargoOf s p with teams := s.teams.filter fun t => (pavCtxs s p.id).any fun x => x.id == t.ctx }
  let banks := p.cores.flatMap fun x => ((upto 32).filter (BitVec.ofNat 32 x.2.2).getLsbD).flatMap fun b => rdScratch s x.1 (8192 * b) 8192
  Config.sealBytes p.key [] (packCargo c ++ banks)

/-! ### The dump region (R238): register banks and scratchpads as they stand, the tables in a form that the spec does not give. DESIGN CHOICE: log entry 72. -/

/-- Bytes of the tables of a core: its teams with their return stacks and operand logs, and its range locks. -/
opaque packCore : List Team → List RangeLock → List Byte
/-- Bytes of the tables of a slice: dirty versions and committed lines, its holds, and the view map. -/
opaque packSlice : List Version → List (Nat × List Byte) → List Hold → List ViewRec → List Byte
/-- Bytes of the controllers' state: pending grids, leases of engines, and pavilions with their partitions. -/
opaque packControllers : List Grid → List EngLease → List (Nat × Nat) → List Byte

/-- A group's register in a row of a quadrant's bank; a row that no group holds is dumped as 0. -/
def bankReg (gs : List Group) (quad row lane : Nat) : Word :=
  match gs.find? fun g => g.quad == quad && !g.retired && g.row ≤ row && row < g.row + g.regs with
  | some g => match g.threads[lane]? with | some th => rdV th (row - g.row) | none => 0
  | none => 0

/-- Bytes sealed under a pavilion's key, in the open for none. -/
def sealedFor (s : State) (pav : Nat) (bs : List Byte) : List Byte :=
  match pav? s pav with | some p => (Config.sealBytes p.key [] bs ++ List.replicate bs.length 0#8).take bs.length | none => bs

/-- The pavilion of a quadrant of a core, and that of a bank, 0 for none. -/
def quadPav (s : State) (core quad : Nat) : Nat :=
  match s.pavilions.find? fun p => p.cores.any fun x => x.1 == core && x.2.1.testBit quad with | some p => p.id | none => 0
def bankPav (s : State) (core bank : Nat) : Nat :=
  match s.pavilions.find? fun p => p.cores.any fun x => x.1 == core && x.2.2.testBit bank with | some p => p.id | none => 0

/-- One part of a section for each pavilion and for no pavilion, each sealed under its key. -/
def perPav (s : State) (f : Nat → List Byte) : List Byte := (0 :: s.pavilions.map (·.id)).flatMap fun v => sealedFor s v (f v)

/-- The section of a core. -/
def coreSection (s : State) (core : Nat) : List Byte :=
  let ts := s.teams.filter fun t => t.onCore && t.core == core
  let gs := ts.flatMap (·.groups)
  ((upto 4).flatMap fun q => sealedFor s (quadPav s core q)
    ((upto 1024).flatMap fun r => (upto 32).flatMap fun c => leBytes 4 (bankReg gs q r c).toNat)) ++
  ((upto 32).flatMap fun b => sealedFor s (bankPav s core b) (rdScratch s core (8192 * b) 8192)) ++
  perPav s fun v => packCore (ts.filter fun t => ctxPav s t.ctx == v) (s.locks.filter fun k => k.core == core && ctxPav s k.ctx == v)

/-- The home slice of a line for a context. -/
def lineHome (s : State) (ctx line : Nat) : Nat := homeSlice s (match ctx? s ctx with | some c => c.part | none => 0) (line * 64)

/-- The section of a slice. -/
def sliceSection (s : State) (k : Nat) : List Byte :=
  perPav s fun v => packSlice (s.versions.filter fun x => ctxPav s x.ctx == v && lineHome s x.ctx x.line == k)
    ((s.dirty.filter fun d => ctxPav s d.ctx == v && lineHome s d.ctx d.line == k).map fun d => (d.line, memLine s d.line))
    (s.holds.filter fun h => ctxPav s h.ctx == v && h.home s == k) (s.views.filter fun x => ctxPav s x.ctx == v)

/-- The section of the controllers. -/
def controllerSection (s : State) : List Byte :=
  perPav s fun v => packControllers (s.grids.filter fun g => ctxPav s g.ctx == v) (s.engLeases.filter fun l => ctxPav s l.ctx == v)
    (if v == 0 then s.pavilions.map fun p => (p.id, p.part) else [])

/-- A part of the dump, or all ones when it cannot be read. -/
def readSection (s : State) (i : Nat) (bs : List Byte) : List Byte := if Config.unreadable s.fresh i then List.replicate bs.length 0xFF#8 else bs

/-- The header with one bit for each part that cannot be read, after its other fields. -/
def markHeader (s : State) (h : List Byte) : List Byte :=
  let bit := fun (i : Nat) => if Config.unreadable s.fresh i then 1 else 0
  h.take 96 ++ ((upto 257).map fun j => BitVec.ofNat 8 (((upto 8).map fun k => bit (8 * j + k) * 2 ^ k).sum)) ++ h.drop 353

/-- The bytes of the dump region: header, cores and slices ascending, controllers. -/
def dumpBytes (s : State) (h : List Byte) : List Byte :=
  markHeader s h ++ ((upto 1024).flatMap fun c => readSection s c (coreSection s c)) ++
  ((upto 1024).flatMap fun k => readSection s (1024 + k) (sliceSection s k)) ++ readSection s 2048 (controllerSection s)

/-- The dump: what belongs to no pavilion in the open, each pavilion's state sealed. DESIGN CHOICE: log entry 72. -/
def dumpOf (s : State) (cause : Nat) : Dump :=
  let plain := fun (ctx : Nat) => ctxPav s ctx == 0
  { header := dumpHeader s cause
    teams := s.teams.filter fun t => plain t.ctx
    scratch := s.scratch.filter fun x => !fencedFrom s 0 (x.1 / 262144) (x.1 % 262144)
    locks := s.locks.filter fun k => plain k.ctx
    versions := s.versions.filter fun v => plain v.ctx
    holds := s.holds.filter fun h => plain h.ctx
    views := s.views.filter fun v => plain v.ctx
    grids := s.grids.filter fun g => plain g.ctx
    engLeases := s.engLeases.filter fun l => plain l.ctx
    pavilions := s.pavilions.map fun p => (p.id, p.part)
    sealed := s.pavilions.map fun p => (p.id, sealedState s p)
    bytes := dumpBytes s (dumpHeader s cause) }

/-- A fatal error: everything stops, firmware writes the dump, appends event 0x0101 and takes the device to reset; a supply fault is a
cause that holds its island's step below 0 (R16, R237). -/
def fatalError (s : State) (cause island : Nat) : State :=
  let s := if cause == 1 then setLimit s island 3 true else s
  let s := (upto 16).foldl (fun s i => setStep s i (lowestStep i)) s
  let s := { s with observe := { s.observe with dump := some (dumpOf s cause), ckRun := none } }
  resetDevice (audit s 1 0x101 0 0 (leBytes 4 cause))

/-- The number of a cause in a dump, and the island that it concerns. -/
def causeCode (c : FatalCause) : Nat := match c with | .temperature _ => 0 | .supply _ => 1 | .stateError => 2 | .selfTest => 3
def causeIsland (c : FatalCause) : Nat := match c with | .temperature i | .supply i => i | .stateError | .selfTest => 0

/-- A fatal error (R237). -/
def execFatalError (cause : FatalCause) (s : State) : Host.Outcome State Fault Refusal := .next (fatalError s (causeCode cause) (causeIsland cause))

/-- An island's sensor reports a temperature: at 100 °C the lowest non-gated step at once and a warning, at 110 °C the fatal path (R15). -/
def thermal (s : State) (i temp : Nat) : State :=
  if 16 ≤ i then s
  else
    let s := modIsland s i fun x => { x with temp := temp % 256 }
    if temp < 100 then s
    else
      let s := if stepOf s i < lowestStep i then setStep s i (lowestStep i) else s
      let s := setLimit s i 1 true
      let s := { s with observe := { s.observe with thermal := s.observe.thermal ++ [(i, s.time)] } }
      if temp < 110 then postWarning s else fatalError s 0 i

/-- A temperature of an island. -/
def execThermalWarning (island temp : Nat) (s : State) : Host.Outcome State Fault Refusal := .next (thermal s island temp)

end Sys2Proof.Machine
end

