-- ==== Sys2Proof/Machine/Pages.lean ====
section
/-! DEFINITION. The register pages: what a trusted write to a field does, and what a read returns (R4, R16, R27 to R29, R44 to R46, R51, R55,
R57, R60, R64, R67, R70, R71, R74, R146, R217, R232, R242).  A register of more than four bytes is written word by word. -/

namespace Sys2Proof.Machine

/-! ### Pieces of registers -/

/-- Replace the low or the high word of a 64-bit register. DESIGN CHOICE: log entry 73. -/
def putHalf (x : BitVec 64) (hi : Bool) (v : Word) : BitVec 64 := if hi then v ++ x.setWidth 32 else (x >>> 32).setWidth 32 ++ v

/-- A half of a 64-bit register. -/
def half (x : BitVec 64) (hi : Bool) : Word := if hi then (x >>> 32).setWidth 32 else x.setWidth 32

/-- Replace word `i` of a wide register. -/
def putWordAt {w : Nat} (x : BitVec w) (i : Nat) (v : Word) : BitVec w :=
  (x &&& ~~~(BitVec.ofNat w (0xFFFFFFFF * 2 ^ (32 * i)))) ||| BitVec.ofNat w (v.toNat * 2 ^ (32 * i))

/-- Word `i` of a wide register. -/
def wideWord {w : Nat} (x : BitVec w) (i : Nat) : Word := BitVec.ofNat 32 (x.toNat / 2 ^ (32 * i))

/-- Replace four bytes of a list. -/
def putBytes4 (l : List Byte) (o : Nat) (v : Word) : List Byte := l.take o ++ leBytes 4 v.toNat ++ l.drop (o + 4)

/-- Replace the bits of word `i` of a bitmap that is held as a set. -/
def putMap (l : List Nat) (i : Nat) (v : Word) : List Nat :=
  unitSet (l.filter (fun n => n / 32 ≠ i) ++ ((upto 32).filter v.getLsbD).map (32 * i + ·))

/-- Word `i` of a bitmap. -/
def bitsWord (l : List Nat) (i : Nat) : Word := l.foldl (fun x n => if n / 32 == i then setBit x (n % 32) true else x) 0

/-- RESULT at [15:8] with BUSY at [0]. -/
def resultWord (r : BitVec 8) (busy : Bool) : Word := BitVec.ofNat 32 (r.toNat * 256 + if busy then 1 else 0)

/-! ### Writes (R4) -/

/-- Page 0x002, the mailbox (R29, R30). -/
def writeMailbox (s : State) (off : Nat) (v : Word) : State :=
  let m := s.mailbox
  if off < 0x40 then (if m.busy then s else { s with mailbox := { m with cmd := updAt (off / 4) (fun _ => v) m.cmd } })
  else if off == 0x40 then
    if !v.getLsbD 0 then s
    else if m.busy then { s with mailbox := { m with reject := true } }
    else { s with mailbox := { m with busy := true, running := true, pendResult := none, pendOut := [] } }
  else if off == 0x44 && v.getLsbD 1 then { s with mailbox := { m with reject := false } }
  else s

/-- A segment table entry (R45). -/
def writeSeg (s : State) (table idx : Nat) (hi : Bool) (v : Word) : State :=
  let old := match s.host.segs.find? fun x => x.1 == table && x.2.1 == idx with | some x => x.2.2 | none => 0
  { s with host := { s.host with segs := (table, idx, putHalf old hi v) :: s.host.segs.filter fun x => !(x.1 == table && x.2.1 == idx) } }

/-- The hypervisor fault area (R44): its base and entry count are fixed while HFEN is 1. -/
def writeHf (s : State) (off : Nat) (v : Word) : State :=
  let h := s.host
  match off with
  | 0 => if h.hfEn then s else { s with host := { h with hfBase := putHalf h.hfBase false v } }
  | 4 => if h.hfEn then s else { s with host := { h with hfBase := putHalf h.hfBase true v } }
  | 8 => if h.hfEn then s else { s with host := { h with hfEntries := v } }
  | 12 => writeHfen s (v.getLsbD 0)
  | _ => s

/-- A translation block (R146). -/
def writeTrans (s : State) (fn off : Nat) (v : Word) : State :=
  let b := transBlock s fn
  if b.busy then s
  else match off with
    | 0 => putBlock s { b with ctx := v.toNat }
    | 4 => putBlock s { b with stage := v.toNat }
    | 0x10 => putBlock s { b with va := putWordAt b.va 0 v }
    | 0x14 => putBlock s { b with va := putWordAt b.va 1 v }
    | 0x18 => putBlock s { b with va := putWordAt b.va 2 v }
    | 0x20 => putBlock s { b with pages := v.toNat }
    | 0x28 => putBlock s { b with seq := v.toNat }
    | 0x24 =>
      let s := putBlock s { b with op := v.toNat % 8 }
      (match v.toNat with
      | 1 => invalidate s fn
      | 2 => replay s fn
      | 3 => abort s fn
      | 4 => inject s fn
      | _ => endTrans s fn 1)
    | _ => s

/-- The spill pool block (R217). -/
def writeSpill (s : State) (off : Nat) (v : Word) : State :=
  let h := s.host
  match off with
  | 0 => { s with host := { h with spCtx := v.toNat } }
  | 8 => { s with host := { h with spBase := putHalf h.spBase false v } }
  | 12 => { s with host := { h with spBase := putHalf h.spBase true v } }
  | 16 => { s with host := { h with spLen := putHalf h.spLen false v } }
  | 20 => { s with host := { h with spLen := putHalf h.spLen true v } }
  | 24 =>
    let s := { s with host := { h with spOp := v.toNat % 4 } }
    (match v.toNat with | 1 => spillAdd s | 2 => spillQuery s | _ => endSpill s 1)
  | _ => s

/-- The checkpoint block (R232); CKSEQ is what the hardware says, and a write of it is dropped. DESIGN CHOICE: log entry 73. -/
def writeCkpt (s : State) (off : Nat) (v : Word) : State :=
  let o := s.observe
  if o.ckRun.isSome then s
  else match off with
    | 0 => { s with observe := { o with ckCtx := v.toNat } }
    | 8 => { s with observe := { o with ckList := putHalf o.ckList false v } }
    | 12 => { s with observe := { o with ckList := putHalf o.ckList true v } }
    | 16 => { s with observe := { o with ckCount := v } }
    | 24 => { s with observe := { o with ckSlot0 := putHalf o.ckSlot0 false v } }
    | 28 => { s with observe := { o with ckSlot0 := putHalf o.ckSlot0 true v } }
    | 32 => { s with observe := { o with ckSlot1 := putHalf o.ckSlot1 false v } }
    | 36 => { s with observe := { o with ckSlot1 := putHalf o.ckSlot1 true v } }
    | 40 =>
      let s := { s with observe := { o with ckOp := v.toNat % 8 } }
      (match v.toNat with | 1 => ckStart s | 2 => ckArm s | 3 => ckDisarm s | _ => ckEnd s 1)
    | 56 => { s with observe := { o with ckWarn := v } }
    | _ => s

/-- The observation block (R242). -/
def writeObs (s : State) (off : Nat) (v : Word) : State :=
  let o := s.observe
  match off with
  | 0 => { s with observe := { o with obCtx := v.toNat } }
  | 8 => { s with observe := { o with obBase := putHalf o.obBase false v } }
  | 12 => { s with observe := { o with obBase := putHalf o.obBase true v } }
  | 16 => { s with observe := { o with obSize := v } }
  | 32 => { s with observe := { o with obTail := putHalf o.obTail false v } }
  | 36 => { s with observe := { o with obTail := putHalf o.obTail true v } }
  | 48 => { s with observe := { o with hgClr := v.getLsbD 12, hgQuad := v.toNat / 1024 % 4, hgCore := v.toNat % 1024 } }
  | 52 =>
    let s := { s with observe := { o with obOp := v.toNat % 8 } }
    (match v.toNat with | 1 => obSet s | 2 => obRead s | 3 => obHist s | 4 => obSetTail s | _ => endObs s 1)
  | _ => s

/-- A partition operation by its code (R52); a nonzero reserved bit beside it is BAD_OP. DEDUCED: log entry 64. -/
def startPart (s : State) (v : Word) : State :=
  let s := { s with partIf := { s.partIf with force := v.getLsbD 8, lastOp := v.toNat % 16 } }
  let op := v.toNat % 16
  if op == 0 then s
  else if v &&& 0xFFFFFEF0#32 ≠ 0 then partReserved s op
  else match op with
    | 1 => partDefine s | 2 => partDelete s | 3 => partGrow s | 4 => partShrink s | 5 => partLend s | 6 => partReclaim s | 7 => partRead s
    | _ => partReserved s op

/-- Page 0x005 (R51). -/
def writePart (s : State) (off : Nat) (v : Word) : State :=
  if s.partIf.busy then s
  else match off with
    | 0 => { s with partIf := { s.partIf with psel := v.toNat } }
    | 4 => startPart s v
    | 8 => { s with partIf := { s.partIf with peer := v.toNat } }
    | _ => s

/-- Page 0x006, the staged bitmaps (R51). -/
def writeStaged (s : State) (off : Nat) (v : Word) : State :=
  let r := s.partIf.staged
  let put := fun (r : Resources) => { s with partIf := { s.partIf with staged := r } }
  if s.partIf.busy then s
  else if off < 0x20 then put { r with clusters := putMap r.clusters (off / 4) v }
  else if off < 0xA0 then put { r with slices := putMap r.slices ((off - 0x20) / 4) v }
  else if off < 0xC0 then put { r with channels := putMap r.channels ((off - 0xA0) / 4) v }
  else if off < 0xC8 then put { r with engines := putMap r.engines ((off - 0xC0) / 4) v }
  else if off < 0xCC then put { r with ports := putMap r.ports 0 (v &&& 0xFFFFFF#32) }
  else s

/-- Page 0x007, engine leases (R55). -/
def writeLease (s : State) (off : Nat) (v : Word) : State :=
  let i := s.partIf
  match off with
  | 0 => { s with partIf := { i with eng := v.toNat } }
  | 4 => { s with partIf := { i with ectx := v.toNat } }
  | 8 => { s with partIf := { i with lease := putHalf i.lease false v } }
  | 12 => { s with partIf := { i with lease := putHalf i.lease true v } }
  | 16 =>
    let s := { s with partIf := { i with eop := v.toNat % 4 } }
    (match v.toNat with | 1 => bindEngine s | 2 => releaseEngine s | _ => endLease s rBadOp)
  | _ => s

/-- Page 0x008, pavilions (R57).  A write while BUSY is 1 is dropped, as on pages 0x005, 0x006 and 0x00D; the spec does not say so of
this page. DESIGN CHOICE: log entry 85. -/
def writePav (s : State) (off : Nat) (v : Word) : State :=
  let i := s.pavIf
  if i.busy then s
  else match off with
    | 0 => { s with pavIf := { i with sel := v.toNat } }
    | 4 => { s with pavIf := { i with part := v.toNat } }
    | 8 => { s with pavIf := { i with core := v.toNat } }
    | 12 => { s with pavIf := { i with quad := v.toNat } }
    | 16 => { s with pavIf := { i with bank := v.toNat } }
    | 20 => { s with pavIf := { i with ways := v.setWidth 16, waysBad := decide (65536 ≤ v.toNat) } }
    | 24 => { s with pavIf := { i with frame := i.frame / 65536 * 65536 + v.toNat / 65536, frameLoBad := v.toNat % 65536 ≠ 0 } }
    | 28 => { s with pavIf := { i with frame := v.toNat % 2 ^ 20 * 65536 + i.frame % 65536, frameHiBad := decide (2 ^ 20 ≤ v.toNat) } }
    | 32 => { s with pavIf := { i with count := v.toNat } }
    | 36 =>
      let s := { s with pavIf := { i with lastOp := v.toNat % 8 } }
      (match v.toNat with
      | 1 => pavCreate s | 2 => pavAssign s | 3 => pavUnassign s | 4 => pavAddframe s | 5 => pavDelframe s | 6 => pavDestroy s
      | _ => pavReserved s)
    | _ => s

/-- Page 0x009, key rotation (R60): DONE is cleared by writing 1. -/
def writeRotation (s : State) (off : Nat) (v : Word) : State :=
  match off with
  | 0 => { s with rotation := { s.rotation with sel := v.toNat } }
  | 4 => if v.getLsbD 0 then rotateGo s else s
  | 16 => if v.getLsbD 1 then { s with rotation := { s.rotation with done := false } } else s
  | _ => s

/-- Page 0x00A, measurements (R67). -/
def writeMeas (s : State) (off : Nat) (v : Word) : State :=
  if off == 0x200 then modTrust s fun t => { t with extSel := v.toNat % 8 }
  else if 0x240 ≤ off && off < 0x280 then modTrust s fun t => { t with extDigest := putWordAt t.extDigest ((off - 0x240) / 4) v }
  else if off == 0x280 && v.getLsbD 0 then extendGo s
  else s

/-- Page 0x00B, the audit log's registers (R70). -/
def writeAudit (s : State) (off : Nat) (v : Word) : State :=
  match off with
  | 16 => modTrust s fun t => { t with readSeq := putHalf t.readSeq false v }
  | 20 => modTrust s fun t => { t with readSeq := putHalf t.readSeq true v }
  | 40 => if v.getLsbD 0 then signHead s else s
  | _ => s

/-- Page 0x00C, the frame queue (R64); TOKEN is what the hardware says, and a write of it is dropped. DESIGN CHOICE: log entry 73. -/
def writeFrames (s : State) (off : Nat) (v : Word) : State :=
  let f := s.frames
  match off with
  | 0 => { s with frames := { f with base := f.base / 2 ^ 32 * 2 ^ 32 + v.toNat / 65536 * 65536 } }
  | 4 => { s with frames := { f with base := v.toNat % 2 ^ 20 * 2 ^ 32 + f.base % 2 ^ 32 } }
  | 8 => { s with frames := { f with size := v.toNat % 4 } }
  | 12 => if v.getLsbD 0 then frameGo s else s
  | _ => s

/-- A handover operation by its code (R74). DEDUCED: log entry 70. -/
def startHo (s : State) (v : Word) : State :=
  let s := modTrust s fun t => { t with hoCopy := v.getLsbD 3, hoOp := v.toNat % 8 }
  let op := v.toNat % 8
  if op == 0 then s
  else if 16 ≤ v.toNat then endHo s op rBadOp
  else match op with
    | 1 => prepare s | 2 => commitHo s | 3 => abortHo s | 4 => accept s | 5 => keyx s | 6 => releaseHo s | _ => statement s

/-- Page 0x00D, handover (R74). -/
def writeHo (s : State) (off : Nat) (v : Word) : State :=
  if s.trust.hoBusy then s
  else if off == 0 then modTrust s fun t => { t with hoPv := v.toNat % 64, hoBad := 64 ≤ v.toNat }
  else if off == 4 then startHo s v
  else if off == 8 then modTrust s fun t => { t with hoImg := t.hoImg / 2 ^ 32 * 2 ^ 32 + v.toNat }
  else if off == 12 then modTrust s fun t => { t with hoImg := v.toNat * 2 ^ 32 + t.hoImg % 2 ^ 32 }
  else if off == 16 then modTrust s fun t => { t with hoLen := putHalf t.hoLen false v }
  else if off == 20 then modTrust s fun t => { t with hoLen := putHalf t.hoLen true v }
  else if 0x40 ≤ off && off < 0x60 then modTrust s fun t => { t with peerX := putWordAt t.peerX ((off - 0x40) / 4) v }
  else if 0x60 ≤ off && off < 0x80 then modTrust s fun t => { t with peerId := putWordAt t.peerId ((off - 0x60) / 4) v }
  else if 0x80 ≤ off && off < 0xC0 then modTrust s fun t => { t with peerSig := putWordAt t.peerSig ((off - 0x80) / 4) v }
  else if off == 0xC0 then modTrust s fun t => { t with peerEpoch := putHalf t.peerEpoch false v }
  else if off == 0xC4 then modTrust s fun t => { t with peerEpoch := putHalf t.peerEpoch true v }
  else if 0x180 ≤ off && off < 0x200 then modTrust s fun t => { t with hoIn := putBytes4 t.hoIn (off - 0x180) v }
  else s

/-- Page 0x004: its blocks. -/
def writeBlocks (s : State) (off : Nat) (v : Word) : State :=
  if off < 0x100 then writeHf s off v
  else if off < 0x200 then writeTrans s 0 (off - 0x100) v
  else if off < 0x300 then writeSpill s (off - 0x200) v
  else if off < 0x400 then writeCkpt s (off - 0x300) v
  else writeObs s (off - 0x400) v

/-- The VF whose segment table lies at an offset of pages 0x010 to 0x01F (R45). -/
def vfTable (page off : Nat) : Nat := 256 * (1 + (page - 0x10) / 8) + (page - 0x10) % 8 * 8 + off / 0x200 + 1

/-- Bind one of the 63 virtual functions of a link to a partition and a pavilion, and its interface to one of the link's eight IDE
streams, as the host creates it (R25, R46): the partition in [15:0], the pavilion in [21:16], the stream in [26:24] when [31] is 1.
DESIGN CHOICE: log entry 10. -/
def bindVf (s : State) (fn : Nat) (v : Word) : State :=
  if fn ≤ 1 || !fnOk fn then s
  else
    let f : VirtFn := { fn := fn, part := v.toNat % 65536, pav := v.toNat / 65536 % 64, tdisp := .configUnlocked
                        ide := if v.getLsbD 31 then some (v.toNat / 2 ^ 24 % 8) else none }
    { s with host := { s.host with vfs := f :: s.host.vfs.filter fun v => v.fn ≠ fn } }

/-- A word of a function's MSI-X table: address, data and vector control of 16 bytes each (R26, R38). -/
def writeMsix (s : State) (fn off : Nat) (v : Word) : State :=
  let vec := off / 16
  if vectorsOf fn ≤ vec then s
  else if off / 4 % 4 == 3 then (if v.getLsbD 0 then mask s fn vec else unmask s fn vec)
  else { s with host := { s.host with msix := (fn, vec, off / 4 % 4, v) :: s.host.msix.filter fun x => !(x.1 == fn && x.2.1 == vec && x.2.2.1 == off / 4 % 4) } }

/-- Link 1 is trained or not: once it is, the messages that its functions hold back are sent (R24). -/
def trainLink (s : State) (up : Bool) : State :=
  let s := { s with host := { s.host with link1 := up } }
  if up then (s.host.pending.filter fun x => linkOf x.1 == 1 && !s.host.masked.contains x).foldl (fun s x => unmask s x.1 x.2) s else s

/-- The size of a function's BAR2 in GiB, a power of two (R26). -/
def sizeBar2 (s : State) (fn gib : Nat) : State :=
  if fnOk fn && (upto 10).any fun i => gib == 2 ^ i then { s with host := { s.host with bar2 := (fn, gib) :: s.host.bar2.filter fun x => x.1 ≠ fn } } else s

/-- A write outside the PF's BAR0 (log entry 10): BAR4 of a function, a VF's translation block, the management interface, the
binding of VFs, the firmware logger port, the clearing of the dump region, the training of link 1 and the size of a function's BAR2;
and from page 0x100000 on the host's own memory, in which the host stores.
DESIGN CHOICE: log entry 10. -/
def writeOther (s : State) (page off : Nat) (v : Word) : State :=
  if 0x1000 ≤ page && page < 0x1400 then (if off < 0x8000 then writeMsix s (page - 0x1000) off v else s)
  else if 0x2000 < page && page < 0x2400 then writeTrans s (page - 0x2000) off v
  else if page == 0x3000 then
    if off == 0 then { s with links := { s.links with domId := v.setWidth 10 } }
    else
      let dev := off / 4 - 1
      { s with links := { s.links with reach := (if v == 0 then [] else [(dev, (upto 24).filter v.getLsbD)]) ++ s.links.reach.filter fun x => x.1 ≠ dev } }
  else if page == 0x3001 then bindVf s off v
  else if page == 0x3002 then
    if off < 40 then modTrust s fun t => { t with lpDetail := putBytes4 t.lpDetail off v } else if off == 40 then logPort s v.toNat else s
  else if page == 0x3003 then { s with observe := { s.observe with dump := none } }
  else if page == 0x3004 then trainLink s (v.getLsbD 0)
  else if page == 0x3005 then sizeBar2 s off v.toNat
  else if 0x100000 ≤ page then hostStores s ((upto 4).map fun i => ((page - 0x100000) * 4096 + off + i, v.extractLsb' (8 * i) 8))
  else s

/-- A trusted write of a word to a register page; pages without such a register drop it (R4, R27). -/
def writeReg (s : State) (page off : Nat) (v : Word) : State :=
  match page with
  | 2 => writeMailbox s off v
  | 3 => writeSeg s 0 (off / 8) (off / 4 % 2 == 1) v
  | 4 => writeBlocks s off v
  | 5 => writePart s off v
  | 6 => writeStaged s off v
  | 7 => writeLease s off v
  | 8 => writePav s off v
  | 9 => writeRotation s off v
  | 10 => writeMeas s off v
  | 11 => writeAudit s off v
  | 12 => writeFrames s off v
  | 13 => writeHo s off v
  | _ =>
    if 0x10 ≤ page && page < 0x20 then
      (if vfTable page off % 256 ≤ 63 then writeSeg s (vfTable page off) (off % 0x200 / 8) (off / 4 % 2 == 1) v else s)
    else writeOther s page off v

/-- A write to a register field (R4). -/
def execRegisterWrite (page off : Nat) (val : Word) (s : State) : Host.Outcome State Fault Refusal := .next (writeReg s page off val)

/-! ### Reads (R4, R48): a view of the state, which they leave as it is -/

/-- A translation block (R146). -/
def readTrans (s : State) (fn off : Nat) : Word :=
  let b := transBlock s fn
  match off with
  | 0 => BitVec.ofNat 32 b.ctx | 4 => BitVec.ofNat 32 b.stage | 0x10 => wideWord b.va 0 | 0x14 => wideWord b.va 1 | 0x18 => wideWord b.va 2
  | 0x20 => BitVec.ofNat 32 b.pages | 0x24 => BitVec.ofNat 32 b.op | 0x28 => BitVec.ofNat 32 b.seq | 0x2C => resultWord b.result b.busy
  | _ => 0

/-- Page 0x004's blocks.  A trusted read of an operation field returns the code that was last written: the spec says that a write starts the
operation and nothing of a read. DESIGN CHOICE: log entry 73. -/
def readBlocks (s : State) (off : Nat) : Word :=
  let h := s.host
  let o := s.observe
  match off with
  | 0x000 => half h.hfBase false | 0x004 => half h.hfBase true | 0x008 => h.hfEntries | 0x00C => if h.hfEn then 1 else 0
  | 0x010 => half h.hfHeld false | 0x014 => half h.hfHeld true
  | 0x200 => BitVec.ofNat 32 h.spCtx | 0x208 => half h.spBase false | 0x20C => half h.spBase true | 0x210 => half h.spLen false
  | 0x214 => half h.spLen true | 0x218 => BitVec.ofNat 32 h.spOp | 0x21C => resultWord h.spResult false | 0x220 => half h.spTotal false | 0x224 => half h.spTotal true
  | 0x228 => half h.spUsed false | 0x22C => half h.spUsed true
  | 0x300 => BitVec.ofNat 32 o.ckCtx | 0x308 => half o.ckList false | 0x30C => half o.ckList true | 0x310 => o.ckCount
  | 0x318 => half o.ckSlot0 false | 0x31C => half o.ckSlot0 true | 0x320 => half o.ckSlot1 false | 0x324 => half o.ckSlot1 true
  | 0x328 => BitVec.ofNat 32 o.ckOp | 0x32C => resultWord o.ckResult o.ckRun.isSome ||| (if (match ctx? s o.ckCtx with | some c => c.armed.isSome | none => false) then 2 else 0)
  | 0x330 => half o.ckSeq false | 0x334 => half o.ckSeq true | 0x338 => o.ckWarn
  | 0x400 => BitVec.ofNat 32 o.obCtx | 0x408 => half o.obBase false | 0x40C => half o.obBase true | 0x410 => o.obSize
  | 0x418 => half o.obHead false | 0x41C => half o.obHead true | 0x420 => half o.obTail false | 0x424 => half o.obTail true
  | 0x428 => half o.obLost false | 0x42C => half o.obLost true
  | 0x430 => BitVec.ofNat 32 (o.hgCore + 1024 * o.hgQuad + if o.hgClr then 4096 else 0) | 0x434 => BitVec.ofNat 32 o.obOp
  | 0x438 => resultWord o.obResult false
  | _ =>
    if 0x440 ≤ off && off < 0x500 then half (o.hgVal.getD ((off - 0x440) / 8) 0) (off / 4 % 2 == 1)
    else if 0x100 ≤ off && off < 0x200 then readTrans s 0 (off - 0x100) else 0

/-- Pages 0x005 to 0x00D.  A trusted read of an operation field returns the code that was last written (OP, EOP, PVOP, HOOP): the spec says
that a write starts the operation and nothing of a read. DESIGN CHOICE: log entry 73. -/
def readTrusted (s : State) (page off : Nat) : Word :=
  let i := s.partIf
  let p := s.pavIf
  let r := s.rotation
  let t := s.trust
  let f := s.frames
  let n := fun (x : Nat) => BitVec.ofNat 32 x
  match page, off with
  | 5, 0 => n i.psel | 5, 4 => n ((if i.force then 0x100 else 0) + i.lastOp) | 5, 8 => n i.peer | 5, 12 => resultWord i.result i.busy
  | 6, _ =>
    if off < 0x20 then bitsWord i.staged.clusters (off / 4) else if off < 0xA0 then bitsWord i.staged.slices ((off - 0x20) / 4)
    else if off < 0xC0 then bitsWord i.staged.channels ((off - 0xA0) / 4) else if off < 0xC8 then bitsWord i.staged.engines ((off - 0xC0) / 4)
    else if off < 0xCC then bitsWord i.staged.ports 0 else 0
  | 7, 0 => n i.eng | 7, 4 => n i.ectx | 7, 8 => half i.lease false | 7, 12 => half i.lease true | 7, 16 => n i.eop | 7, 20 => resultWord i.eresult false
  | 7, 24 => n (match leaseOf s i.eng with | some l => l.ctx | none => 0)
  | 7, 32 => n (match leaseOf s i.eng with | some l => l.expiry | none => 0)
  | 7, 36 => n ((match leaseOf s i.eng with | some l => l.expiry | none => 0) / 2 ^ 32)
  | 8, 0 => n p.sel | 8, 4 => n p.part | 8, 8 => n p.core | 8, 12 => n p.quad | 8, 16 => n p.bank | 8, 20 => p.ways.setWidth 32
  | 8, 24 => n (p.frame * 65536) | 8, 28 => n (p.frame / 65536) | 8, 32 => n p.count
  | 8, 36 => n p.lastOp | 8, 40 => resultWord p.result p.busy
  | 9, 0 => n r.sel | 9, 8 => n r.pointer | 9, 12 => n (r.pointer / 2 ^ 32) | 9, 16 => n ((if r.done then 2 else 0) + if r.active then 1 else 0)
  | 9, 20 => resultWord r.result false
  | 10, _ => if off < 0x200 then wideWord (t.meas.getD (off / 64) 0) (off % 64 / 4) else if off == 0x200 then n t.extSel else 0
  | 11, 0 => n t.logBase | 11, 4 => n (t.logBase / 2 ^ 32) | 11, 8 => n t.nextSeq | 11, 12 => n (t.nextSeq / 2 ^ 32)
  | 11, 16 => half t.readSeq false | 11, 20 => half t.readSeq true | 11, 24 => half t.lost false | 11, 28 => half t.lost true | 11, 32 => t.untrusted
  | 11, 48 => half t.headSeq false | 11, 52 => half t.headSeq true
  | 11, _ => if 0x40 ≤ off && off < 0x80 then wideWord t.headSig ((off - 0x40) / 4) else 0
  | 12, 0 => n f.base | 12, 4 => n (f.base / 2 ^ 32) | 12, 8 => n f.size | 12, 16 => half f.token false | 12, 20 => half f.token true | 12, 24 => n f.queue.length
  | 13, 0 => n t.hoPv | 13, 4 => n ((if t.hoCopy then 8 else 0) + t.hoOp) | 13, 8 => n t.hoImg | 13, 12 => n (t.hoImg / 2 ^ 32)
  | 13, 16 => half t.hoLen false | 13, 20 => half t.hoLen true | 13, 24 => resultWord t.hoResult t.hoBusy
  | 13, 28 => (match pav? s t.hoPv with
    | some q => n ((match q.dst with | .none => 0 | .accepted => 16 | .released => 32) + match q.src with | .live => 0 | .sealed => 1 | .gone => 2)
    | none => 0)
  | 13, 32 => half t.epoch false | 13, 36 => half t.epoch true
  | 13, _ =>
    if 0x100 ≤ off && off < 0x120 then wideWord t.ownX ((off - 0x100) / 4) else if 0x140 ≤ off && off < 0x180 then wideWord t.ownSig ((off - 0x140) / 4)
    else if 0x200 ≤ off && off < 0x280 then n (fieldAt t.hoOut (off - 0x200) 4) else 0
  | _, _ => 0

/-- A word of a function's MSI-X table, or of its pending-bit array from 0x8000 (R26, R38). -/
def readMsix (s : State) (fn off : Nat) : Word :=
  let h := s.host
  if off < 0x8000 then
    let w := off / 4 % 4
    if w == 3 then (if h.masked.contains (fn, off / 16) then 1 else 0)
    else match h.msix.find? fun x => x.1 == fn && x.2.1 == off / 16 && x.2.2.1 == w with | some x => x.2.2.2 | none => 0
  else (upto 32).foldl (fun x i => if h.pending.contains (fn, (off - 0x8000) / 4 * 32 + i) then setBit x i true else x) 0

/-- What a read of a word outside the PF's BAR0 returns: BAR4 of a function, a VF's translation block (R26, R146). DESIGN CHOICE: log entry 10. -/
def readOther (s : State) (page off : Nat) : Word :=
  if 0x1000 ≤ page && page < 0x1400 then readMsix s (page - 0x1000) off
  else if 0x2000 < page && page < 0x2400 then readTrans s (page - 0x2000) off else 0

/-- What a read of a register word returns: an untrusted read of a guarded page, and a reserved page, read zero (R4, R27, R48). -/
def readReg (s : State) (trusted : Bool) (page off : Nat) : Word :=
  let m := s.mailbox
  match page with
  | 0 =>
    if off == 0 then 0x4812#16 ++ Config.vendor else if off == 4 then 0#8 ++ Config.fwMinor ++ Config.fwMajor ++ Config.silicon
    else if off == 8 then s.links.domId.setWidth 32 else if off == 16 then s.host.winFail else 0
  | 1 => if 0x100 ≤ off && off < 0x140 then (match s.islands[(off - 0x100) / 4]? with | some i => i.word | none => 0) else 0
  | _ =>
    if 0x1000 ≤ page then readOther s page off
    else if !trusted then 0
    else if page == 2 then
      if off < 0x40 then m.cmd.getD (off / 4) 0
      else if off == 0x44 then m.tag ++ m.result ++ BitVec.ofNat 8 ((if m.reject then 2 else 0) + if m.busy then 1 else 0)
      else if 0x48 ≤ off && off < 0x60 then m.out.getD ((off - 0x48) / 4) 0 else 0
    else if page == 3 then half (segEntry s 0 (off / 8)) (off / 4 % 2 == 1)
    else if page == 4 then readBlocks s off
    else if page < 0x10 then readTrusted s page off
    else if page < 0x20 then half (segEntry s (vfTable page off) (off % 0x200 / 8)) (off / 4 % 2 == 1)
    else 0

end Sys2Proof.Machine
end

