-- ==== Sys2Proof/Machine/Dispatch.lean ====
section
/-! DEFINITION. The dispatch of a decoded instruction or device step to its meaning, one arm per constructor. -/

namespace Sys2Proof.Machine

/-- One step of the machine: the meaning of `i` at `s`. -/
def exec (i : Instr) (s : State) : Host.Outcome State Fault Refusal :=
  match i with
  | .deviceReset => Sys2Proof.Machine.execDeviceReset s
  | .powerLimitSet watts => Sys2Proof.Machine.execPowerLimitSet watts s
  | .powerWindow watts => Sys2Proof.Machine.execPowerWindow watts s
  | .islandGateRequest island => Sys2Proof.Machine.execIslandGateRequest island s
  | .islandStepChange island => Sys2Proof.Machine.execIslandStepChange island s
  | .thermalWarning island temp => Sys2Proof.Machine.execThermalWarning island temp s
  | .fatalError cause => Sys2Proof.Machine.execFatalError cause s
  | .correctedError link index => Sys2Proof.Machine.execCorrectedError link index s
  | .linkReadRequest port dev hdr slot num addr cls => Sys2Proof.Machine.execLinkReadRequest port dev hdr slot num addr cls s
  | .linkWrite port dev hdr slot num addr form data => Sys2Proof.Machine.execLinkWrite port dev hdr slot num addr form data s
  | .linkReadResponse port dev hdr slot num expiry data => Sys2Proof.Machine.execLinkReadResponse port dev hdr slot num expiry data s
  | .linkAcknowledgement port dev hdr slot num => Sys2Proof.Machine.execLinkAcknowledgement port dev hdr slot num s
  | .linkReplayRequest port dev hdr => Sys2Proof.Machine.execLinkReplayRequest port dev hdr s
  | .portDown port => Sys2Proof.Machine.execPortDown port s
  | .failoverMessage port dev hdr slot kind num addr form cls expiry data => Sys2Proof.Machine.execFailoverMessage port dev hdr slot kind num addr form cls expiry data s
  | .peerTimeout num => Sys2Proof.Machine.execPeerTimeout num s
  | .createContext => Sys2Proof.Machine.execCreateContext s
  | .destroyContext => Sys2Proof.Machine.execDestroyContext s
  | .suspendContext => Sys2Proof.Machine.execSuspendContext s
  | .resumeContext => Sys2Proof.Machine.execResumeContext s
  | .setWatchdog => Sys2Proof.Machine.execSetWatchdog s
  | .measureSteward => Sys2Proof.Machine.execMeasureSteward s
  | .badCommand => Sys2Proof.Machine.execBadCommand s
  | .commandEnd => Sys2Proof.Machine.execCommandEnd s
  | .windowRead via off n => Sys2Proof.Machine.execWindowRead via off n s
  | .windowWrite via off n data => Sys2Proof.Machine.execWindowWrite via off n data s
  | .vectorUnmask fn vec => Sys2Proof.Machine.execVectorUnmask fn vec s
  | .msiMessage => Sys2Proof.Machine.execMsiMessage s
  | .faultVector ctx => Sys2Proof.Machine.execFaultVector ctx s
  | .untrustedAccess => Sys2Proof.Machine.execUntrustedAccess s
  | .registerWrite page off val => Sys2Proof.Machine.execRegisterWrite page off val s
  | .hfenWrite en => Sys2Proof.Machine.execHfenWrite en s
  | .define => Sys2Proof.Machine.execDefine s
  | .delete => Sys2Proof.Machine.execDelete s
  | .grow => Sys2Proof.Machine.execGrow s
  | .shrink => Sys2Proof.Machine.execShrink s
  | .lend => Sys2Proof.Machine.execLend s
  | .reclaim => Sys2Proof.Machine.execReclaim s
  | .reclaimComplete => Sys2Proof.Machine.execReclaimComplete s
  | .partitionRead => Sys2Proof.Machine.execPartitionRead s
  | .bind => Sys2Proof.Machine.execBind s
  | .leaseRelease => Sys2Proof.Machine.execLeaseRelease s
  | .leaseExpiry eng => Sys2Proof.Machine.execLeaseExpiry eng s
  | .pavilionCreate => Sys2Proof.Machine.execPavilionCreate s
  | .assign => Sys2Proof.Machine.execAssign s
  | .unassign => Sys2Proof.Machine.execUnassign s
  | .addframe => Sys2Proof.Machine.execAddframe s
  | .delframe => Sys2Proof.Machine.execDelframe s
  | .pavilionDestroy => Sys2Proof.Machine.execPavilionDestroy s
  | .keyRotationGo => Sys2Proof.Machine.execKeyRotationGo s
  | .sweepLine => Sys2Proof.Machine.execSweepLine s
  | .frameQueue => Sys2Proof.Machine.execFrameQueue s
  | .frameScrub => Sys2Proof.Machine.execFrameScrub s
  | .measExtend => Sys2Proof.Machine.execMeasExtend s
  | .getVersion => Sys2Proof.Machine.execGetVersion s
  | .getCapabilities => Sys2Proof.Machine.execGetCapabilities s
  | .negotiateAlgorithms => Sys2Proof.Machine.execNegotiateAlgorithms s
  | .getCertificate slot => Sys2Proof.Machine.execGetCertificate slot s
  | .challenge slot nonce => Sys2Proof.Machine.execChallenge slot nonce s
  | .getMeasurements index => Sys2Proof.Machine.execGetMeasurements index s
  | .unsupportedRequest code => Sys2Proof.Machine.execUnsupportedRequest code s
  | .sigreq => Sys2Proof.Machine.execSigreq s
  | .lpcode code => Sys2Proof.Machine.execLpcode code s
  | .keyx => Sys2Proof.Machine.execKeyx s
  | .prepare => Sys2Proof.Machine.execPrepare s
  | .handoverCommit => Sys2Proof.Machine.execHandoverCommit s
  | .handoverAbort => Sys2Proof.Machine.execHandoverAbort s
  | .accept => Sys2Proof.Machine.execAccept s
  | .handoverRelease => Sys2Proof.Machine.execHandoverRelease s
  | .statement => Sys2Proof.Machine.execStatement s
  | .invalidate fn => Sys2Proof.Machine.execInvalidate fn s
  | .replay fn => Sys2Proof.Machine.execReplay fn s
  | .abort fn => Sys2Proof.Machine.execAbort fn s
  | .inject fn => Sys2Proof.Machine.execInject fn s
  | .spillAdd => Sys2Proof.Machine.execSpillAdd s
  | .spillQuery => Sys2Proof.Machine.execSpillQuery s
  | .checkpointStart => Sys2Proof.Machine.execCheckpointStart s
  | .arm => Sys2Proof.Machine.execArm s
  | .disarm => Sys2Proof.Machine.execDisarm s
  | .checkpointWarning => Sys2Proof.Machine.execCheckpointWarning s
  | .checkpointTick => Sys2Proof.Machine.execCheckpointTick s
  | .stagedCommit => Sys2Proof.Machine.execStagedCommit s
  | .obSet => Sys2Proof.Machine.execObSet s
  | .obRead => Sys2Proof.Machine.execObRead s
  | .hist => Sys2Proof.Machine.execHist s
  | .obTail => Sys2Proof.Machine.execObTail s
  | .sample core quad => Sys2Proof.Machine.execSample core quad s
  | .launchComplete seq => Sys2Proof.Machine.execLaunchComplete seq s
  | .gridReady grid => Sys2Proof.Machine.execGridReady grid s
  | .teamPlace part => Sys2Proof.Machine.execTeamPlace part s
  | .residencyExpiry team => Sys2Proof.Machine.execResidencyExpiry team s
  | .threadVectoring t => Sys2Proof.Machine.execThreadVectoring t s
  | .routineOverrun t => Sys2Proof.Machine.execRoutineOverrun t s
  | .saveRecordComplete team => Sys2Proof.Machine.execSaveRecordComplete team s
  | .budgetEvent grid => Sys2Proof.Machine.execBudgetEvent grid s
  | .watchdogExpiry ctx => Sys2Proof.Machine.execWatchdogExpiry ctx s
  | .teamRetire team => Sys2Proof.Machine.execTeamRetire team s
  | .flockPick core quad k => Sys2Proof.Machine.execFlockPick core quad k s
  | .performLoad t acc => Sys2Proof.Machine.execPerformLoad t acc s
  | .enterGate t acc => Sys2Proof.Machine.execEnterGate t acc s
  | .drain t acc => Sys2Proof.Machine.execDrain t acc s
  | .expire store line => Sys2Proof.Machine.execExpire store line s
  | .performAtomic t acc => Sys2Proof.Machine.execPerformAtomic t acc s
  | .scratchAccess t acc => Sys2Proof.Machine.execScratchAccess t acc s
  | .externalAccess t acc => Sys2Proof.Machine.execExternalAccess t acc s
  | .finishFence t acc => Sys2Proof.Machine.execFinishFence t acc s
  | .engineWrite op host => Sys2Proof.Machine.execEngineWrite op host s
  | .engineStatus op => Sys2Proof.Machine.execEngineStatus op s
  | .commit tag => Sys2Proof.Machine.execCommit tag s
  | .discard tag => Sys2Proof.Machine.execDiscard tag s
  | .pageWalk t acc off => Sys2Proof.Machine.execPageWalk t acc off s
  | .granuleRequest t acc => Sys2Proof.Machine.execGranuleRequest t acc s
  | .wound family => Sys2Proof.Machine.execWound family s
  | .commitRequest team => Sys2Proof.Machine.execCommitRequest team s
  | .rollback family => Sys2Proof.Machine.execRollback family s
  | .taskRestart family => Sys2Proof.Machine.execTaskRestart family s
  | .sweeper tag line => Sys2Proof.Machine.execSweeper tag line s
  | .tagFree tag => Sys2Proof.Machine.execTagFree tag s
  | .forkCopyDone fork => Sys2Proof.Machine.execForkCopyDone fork s
  | .chooseFirstRequest fork world => Sys2Proof.Machine.execChooseFirstRequest fork world s
  | .chooseBestArrival team => Sys2Proof.Machine.execChooseBestArrival team s
  | .chooseCopyDone fork => Sys2Proof.Machine.execChooseCopyDone fork s
  | .sleepEnd t => Sys2Proof.Machine.execSleepEnd t s
  | .engineStart op => Sys2Proof.Machine.execEngineStart op s
  | .multicastBeat op p host => Sys2Proof.Machine.execMulticastBeat op p host s
  | .enginePenUpdate op => Sys2Proof.Machine.execEnginePenUpdate op s
  | .gatherPush op host between => Sys2Proof.Machine.execGatherPush op host between s
  | .troughServe team q pop => Sys2Proof.Machine.execTroughServe team q pop s
  | .bulkTransfer eng ats host => Sys2Proof.Machine.execBulkTransfer eng ats host s
  | .matrixOpStart core quad => Sys2Proof.Machine.execMatrixOpStart core quad s
  | .matrixChunk core quad => Sys2Proof.Machine.execMatrixChunk core quad s
  | .nop st => Sys2Proof.Machine.execNop st s
  | .yield st => Sys2Proof.Machine.execYield st s
  | .sleeptk a st => Sys2Proof.Machine.execSleeptk a st s
  | .add d a b st => Sys2Proof.Machine.execAdd d a b st s
  | .sub d a b st => Sys2Proof.Machine.execSub d a b st s
  | .addc d a b st => Sys2Proof.Machine.execAddc d a b st s
  | .subb d a b st => Sys2Proof.Machine.execSubb d a b st s
  | .addsI32 d a b st => Sys2Proof.Machine.execAddsI32 d a b st s
  | .subsI32 d a b st => Sys2Proof.Machine.execSubsI32 d a b st s
  | .addsN32 d a b st => Sys2Proof.Machine.execAddsN32 d a b st s
  | .subsN32 d a b st => Sys2Proof.Machine.execSubsN32 d a b st s
  | .addi d a im st => Sys2Proof.Machine.execAddi d a im st s
  | .andi d a im st => Sys2Proof.Machine.execAndi d a im st s
  | .ori d a im st => Sys2Proof.Machine.execOri d a im st s
  | .xori d a im st => Sys2Proof.Machine.execXori d a im st s
  | .mul d a b st => Sys2Proof.Machine.execMul d a b st s
  | .mulhiI32 d a b st => Sys2Proof.Machine.execMulhiI32 d a b st s
  | .mulhiN32 d a b st => Sys2Proof.Machine.execMulhiN32 d a b st s
  | .mad d a b st => Sys2Proof.Machine.execMad d a b st s
  | .madhiI32 d a b st => Sys2Proof.Machine.execMadhiI32 d a b st s
  | .madhiN32 d a b st => Sys2Proof.Machine.execMadhiN32 d a b st s
  | .mulwI32 d a b st => Sys2Proof.Machine.execMulwI32 d a b st s
  | .mulwN32 d a b st => Sys2Proof.Machine.execMulwN32 d a b st s
  | .and d a b st => Sys2Proof.Machine.execAnd d a b st s
  | .or d a b st => Sys2Proof.Machine.execOr d a b st s
  | .xor d a b st => Sys2Proof.Machine.execXor d a b st s
  | .andn d a b st => Sys2Proof.Machine.execAndn d a b st s
  | .orn d a b st => Sys2Proof.Machine.execOrn d a b st s
  | .xnor d a b st => Sys2Proof.Machine.execXnor d a b st s
  | .not d a st => Sys2Proof.Machine.execNot d a st s
  | .shl d a b st => Sys2Proof.Machine.execShl d a b st s
  | .shrN32 d a b st => Sys2Proof.Machine.execShrN32 d a b st s
  | .shrI32 d a b st => Sys2Proof.Machine.execShrI32 d a b st s
  | .rotl d a b st => Sys2Proof.Machine.execRotl d a b st s
  | .rotr d a b st => Sys2Proof.Machine.execRotr d a b st s
  | .fshl d a b st => Sys2Proof.Machine.execFshl d a b st s
  | .fshr d a b st => Sys2Proof.Machine.execFshr d a b st s
  | .shli d a im st => Sys2Proof.Machine.execShli d a im st s
  | .shriN32 d a im st => Sys2Proof.Machine.execShriN32 d a im st s
  | .shriI32 d a im st => Sys2Proof.Machine.execShriI32 d a im st s
  | .roti d a im st => Sys2Proof.Machine.execRoti d a im st s
  | .popc d a st => Sys2Proof.Machine.execPopc d a st s
  | .clz d a st => Sys2Proof.Machine.execClz d a st s
  | .ctz d a st => Sys2Proof.Machine.execCtz d a st s
  | .brev d a st => Sys2Proof.Machine.execBrev d a st s
  | .bswap d a st => Sys2Proof.Machine.execBswap d a st s
  | .perm d a b st => Sys2Proof.Machine.execPerm d a b st s
  | .bmsk d a b st => Sys2Proof.Machine.execBmsk d a b st s
  | .bfxN32 d a b st => Sys2Proof.Machine.execBfxN32 d a b st s
  | .bfxI32 d a b st => Sys2Proof.Machine.execBfxI32 d a b st s
  | .bfi d a b st => Sys2Proof.Machine.execBfi d a b st s
  | .minI32 d a b st => Sys2Proof.Machine.execMinI32 d a b st s
  | .maxI32 d a b st => Sys2Proof.Machine.execMaxI32 d a b st s
  | .minN32 d a b st => Sys2Proof.Machine.execMinN32 d a b st s
  | .maxN32 d a b st => Sys2Proof.Machine.execMaxN32 d a b st s
  | .absI32 d a st => Sys2Proof.Machine.execAbsI32 d a st s
  | .negI32 d a st => Sys2Proof.Machine.execNegI32 d a st s
  | .adiffN32 d a b st => Sys2Proof.Machine.execAdiffN32 d a b st s
  | .mov d a st => Sys2Proof.Machine.execMov d a st s
  | .sel d a b st => Sys2Proof.Machine.execSel d a b st s
  | .movsRead d a st => Sys2Proof.Machine.execMovsRead d a st s
  | .movsWrite d a st => Sys2Proof.Machine.execMovsWrite d a st s
  | .pop d a st => Sys2Proof.Machine.execPop d a st s
  | .push d a st => Sys2Proof.Machine.execPush d a st s
  | .movp d st => Sys2Proof.Machine.execMovp d st s
  | .setp a st => Sys2Proof.Machine.execSetp a st s
  | .movsv d a st => Sys2Proof.Machine.execMovsv d a st s
  | .movl d im st => Sys2Proof.Machine.execMovl d im st s
  | .movh d im st => Sys2Proof.Machine.execMovh d im st s
  | .cmpI32 cc p a b st => Sys2Proof.Machine.execCmpI32 cc p a b st s
  | .cmpN32 cc p a b st => Sys2Proof.Machine.execCmpN32 cc p a b st s
  | .cmpF32 cc p a b st => Sys2Proof.Machine.execCmpF32 cc p a b st s
  | .cmp64 cc p a b st => Sys2Proof.Machine.execCmp64 cc p a b st s
  | .pand d a b m n st => Sys2Proof.Machine.execPand d a b m n st s
  | .por d a b m n st => Sys2Proof.Machine.execPor d a b m n st s
  | .pxor d a b m n st => Sys2Proof.Machine.execPxor d a b m n st s
  | .pmov d a m st => Sys2Proof.Machine.execPmov d a m st s
  | .pset d st => Sys2Proof.Machine.execPset d st s
  | .pclr d st => Sys2Proof.Machine.execPclr d st s
  | .guard n g l st => Sys2Proof.Machine.execGuard n g l st s
  | .bra n g o st => Sys2Proof.Machine.execBra n g o st s
  | .call n g o st => Sys2Proof.Machine.execCall n g o st s
  | .jmp a st => Sys2Proof.Machine.execJmp a st s
  | .callr a st => Sys2Proof.Machine.execCallr a st s
  | .ret st => Sys2Proof.Machine.execRet st s
  | .fadd d a b st => Sys2Proof.Machine.execFadd d a b st s
  | .fsub d a b st => Sys2Proof.Machine.execFsub d a b st s
  | .fmul d a b st => Sys2Proof.Machine.execFmul d a b st s
  | .fmin d a b st => Sys2Proof.Machine.execFmin d a b st s
  | .fmax d a b st => Sys2Proof.Machine.execFmax d a b st s
  | .fminnum d a b st => Sys2Proof.Machine.execFminnum d a b st s
  | .fmaxnum d a b st => Sys2Proof.Machine.execFmaxnum d a b st s
  | .fcopysign d a b st => Sys2Proof.Machine.execFcopysign d a b st s
  | .ffma d a b st => Sys2Proof.Machine.execFfma d a b st s
  | .ffms d a b st => Sys2Proof.Machine.execFfms d a b st s
  | .ffnma d a b st => Sys2Proof.Machine.execFfnma d a b st s
  | .ffnms d a b st => Sys2Proof.Machine.execFfnms d a b st s
  | .haddBf16x2 d a b st => Sys2Proof.Machine.execHaddBf16x2 d a b st s
  | .hmulBf16x2 d a b st => Sys2Proof.Machine.execHmulBf16x2 d a b st s
  | .hfmaBf16x2 d a b st => Sys2Proof.Machine.execHfmaBf16x2 d a b st s
  | .haddF16x2 d a b st => Sys2Proof.Machine.execHaddF16x2 d a b st s
  | .hmulF16x2 d a b st => Sys2Proof.Machine.execHmulF16x2 d a b st s
  | .hfmaF16x2 d a b st => Sys2Proof.Machine.execHfmaF16x2 d a b st s
  | .hmaxBf16x2 d a b st => Sys2Proof.Machine.execHmaxBf16x2 d a b st s
  | .hminBf16x2 d a b st => Sys2Proof.Machine.execHminBf16x2 d a b st s
  | .dadd d a b st => Sys2Proof.Machine.execDadd d a b st s
  | .dsub d a b st => Sys2Proof.Machine.execDsub d a b st s
  | .dmul d a b st => Sys2Proof.Machine.execDmul d a b st s
  | .dfma d a b st => Sys2Proof.Machine.execDfma d a b st s
  | .dmin d a b st => Sys2Proof.Machine.execDmin d a b st s
  | .dmax d a b st => Sys2Proof.Machine.execDmax d a b st s
  | .ddiv d a b st => Sys2Proof.Machine.execDdiv d a b st s
  | .dsqrt d a st => Sys2Proof.Machine.execDsqrt d a st s
  | .rcp d a st => Sys2Proof.Machine.execRcp d a st s
  | .rsqrt d a st => Sys2Proof.Machine.execRsqrt d a st s
  | .sqrt d a st => Sys2Proof.Machine.execSqrt d a st s
  | .log2 d a st => Sys2Proof.Machine.execLog2 d a st s
  | .exp2 d a st => Sys2Proof.Machine.execExp2 d a st s
  | .sin d a st => Sys2Proof.Machine.execSin d a st s
  | .cos d a st => Sys2Proof.Machine.execCos d a st s
  | .tanh d a st => Sys2Proof.Machine.execTanh d a st s
  | .cvt f d a m st => Sys2Proof.Machine.execCvt f d a m st s
  | .dotI8x4 d a b st => Sys2Proof.Machine.execDotI8x4 d a b st s
  | .dotsI8x4 d a b st => Sys2Proof.Machine.execDotsI8x4 d a b st s
  | .dotI4x8 d a b st => Sys2Proof.Machine.execDotI4x8 d a b st s
  | .dotF8ax4 d a b st => Sys2Proof.Machine.execDotF8ax4 d a b st s
  | .dotF8bx4 d a b st => Sys2Proof.Machine.execDotF8bx4 d a b st s
  | .dotL4x8 d a b st => Sys2Proof.Machine.execDotL4x8 d a b st s
  | .dotBf16x2 d a b st => Sys2Proof.Machine.execDotBf16x2 d a b st s
  | .scalef d a b st => Sys2Proof.Machine.execScalef d a b st s
  | .fexp d a st => Sys2Proof.Machine.execFexp d a st s
  | .fmant d a st => Sys2Proof.Machine.execFmant d a st s
  | .sadd d a b im st => Sys2Proof.Machine.execSadd d a b im st s
  | .ssub d a b im st => Sys2Proof.Machine.execSsub d a b im st s
  | .smul d a b im st => Sys2Proof.Machine.execSmul d a b im st s
  | .sand d a b im st => Sys2Proof.Machine.execSand d a b im st s
  | .sor d a b im st => Sys2Proof.Machine.execSor d a b im st s
  | .sxor d a b im st => Sys2Proof.Machine.execSxor d a b im st s
  | .sshl d a b im st => Sys2Proof.Machine.execSshl d a b im st s
  | .sshr d a b im st => Sys2Proof.Machine.execSshr d a b im st s
  | .smov d b im st => Sys2Proof.Machine.execSmov d b im st s
  | .smin d a b im st => Sys2Proof.Machine.execSmin d a b im st s
  | .smax d a b im st => Sys2Proof.Machine.execSmax d a b im st s
  | .sfrom d a st => Sys2Proof.Machine.execSfrom d a st s
  | .sldB32 d a b im st => Sys2Proof.Machine.execSldB32 d a b im st s
  | .sldB64 d a b im st => Sys2Proof.Machine.execSldB64 d a b im st s
  | .bset d a b im st => Sys2Proof.Machine.execBset d a b im st s
  | .badd d a b im st => Sys2Proof.Machine.execBadd d a b im st s
  | .bget d a b st => Sys2Proof.Machine.execBget d a b st s
  | .bmov d a st => Sys2Proof.Machine.execBmov d a st s
  | .ld sz d b o ord st => Sys2Proof.Machine.execLd sz d b o ord st s
  | .st sz d b o ord st => Sys2Proof.Machine.execSt sz d b o ord st s
  | .ldw sz d b o ord st => Sys2Proof.Machine.execLdw sz d b o ord st s
  | .stw sz d b o ord st => Sys2Proof.Machine.execStw sz d b o ord st s
  | .lds sz d b o ord st => Sys2Proof.Machine.execLds sz d b o ord st s
  | .sts sz d b o ord st => Sys2Proof.Machine.execSts sz d b o ord st s
  | .atomAddI32 d b o ord st => Sys2Proof.Machine.execAtomAddI32 d b o ord st s
  | .atomAddF32 d b o ord st => Sys2Proof.Machine.execAtomAddF32 d b o ord st s
  | .atomMinI32 d b o ord st => Sys2Proof.Machine.execAtomMinI32 d b o ord st s
  | .atomMaxI32 d b o ord st => Sys2Proof.Machine.execAtomMaxI32 d b o ord st s
  | .atomMinN32 d b o ord st => Sys2Proof.Machine.execAtomMinN32 d b o ord st s
  | .atomMaxN32 d b o ord st => Sys2Proof.Machine.execAtomMaxN32 d b o ord st s
  | .atomExch d b o ord st => Sys2Proof.Machine.execAtomExch d b o ord st s
  | .atomCas d b o ord st => Sys2Proof.Machine.execAtomCas d b o ord st s
  | .atomAnd d b o ord st => Sys2Proof.Machine.execAtomAnd d b o ord st s
  | .atomOr d b o ord st => Sys2Proof.Machine.execAtomOr d b o ord st s
  | .atomXor d b o ord st => Sys2Proof.Machine.execAtomXor d b o ord st s
  | .atomAddI64 d b o ord st => Sys2Proof.Machine.execAtomAddI64 d b o ord st s
  | .atomCasB64 d b o ord st => Sys2Proof.Machine.execAtomCasB64 d b o ord st s
  | .atomAddBf16x2 d b o ord st => Sys2Proof.Machine.execAtomAddBf16x2 d b o ord st s
  | .atomIncN32 d b o ord st => Sys2Proof.Machine.execAtomIncN32 d b o ord st s
  | .atomDecN32 d b o ord st => Sys2Proof.Machine.execAtomDecN32 d b o ord st s
  | .redAddI32 d b o ord st => Sys2Proof.Machine.execRedAddI32 d b o ord st s
  | .redAddF32 d b o ord st => Sys2Proof.Machine.execRedAddF32 d b o ord st s
  | .redMinI32 d b o ord st => Sys2Proof.Machine.execRedMinI32 d b o ord st s
  | .redMaxI32 d b o ord st => Sys2Proof.Machine.execRedMaxI32 d b o ord st s
  | .redMinN32 d b o ord st => Sys2Proof.Machine.execRedMinN32 d b o ord st s
  | .redMaxN32 d b o ord st => Sys2Proof.Machine.execRedMaxN32 d b o ord st s
  | .redExch d b o ord st => Sys2Proof.Machine.execRedExch d b o ord st s
  | .redCas d b o ord st => Sys2Proof.Machine.execRedCas d b o ord st s
  | .redAnd d b o ord st => Sys2Proof.Machine.execRedAnd d b o ord st s
  | .redOr d b o ord st => Sys2Proof.Machine.execRedOr d b o ord st s
  | .redXor d b o ord st => Sys2Proof.Machine.execRedXor d b o ord st s
  | .redAddI64 d b o ord st => Sys2Proof.Machine.execRedAddI64 d b o ord st s
  | .redCasB64 d b o ord st => Sys2Proof.Machine.execRedCasB64 d b o ord st s
  | .redAddBf16x2 d b o ord st => Sys2Proof.Machine.execRedAddBf16x2 d b o ord st s
  | .redIncN32 d b o ord st => Sys2Proof.Machine.execRedIncN32 d b o ord st s
  | .redDecN32 d b o ord st => Sys2Proof.Machine.execRedDecN32 d b o ord st s
  | .atomsAddI32 d b o ord st => Sys2Proof.Machine.execAtomsAddI32 d b o ord st s
  | .atomsAddF32 d b o ord st => Sys2Proof.Machine.execAtomsAddF32 d b o ord st s
  | .atomsMinI32 d b o ord st => Sys2Proof.Machine.execAtomsMinI32 d b o ord st s
  | .atomsMaxI32 d b o ord st => Sys2Proof.Machine.execAtomsMaxI32 d b o ord st s
  | .atomsMinN32 d b o ord st => Sys2Proof.Machine.execAtomsMinN32 d b o ord st s
  | .atomsMaxN32 d b o ord st => Sys2Proof.Machine.execAtomsMaxN32 d b o ord st s
  | .atomsExch d b o ord st => Sys2Proof.Machine.execAtomsExch d b o ord st s
  | .atomsCas d b o ord st => Sys2Proof.Machine.execAtomsCas d b o ord st s
  | .fenceRelTeam st => Sys2Proof.Machine.execFenceRelTeam st s
  | .fenceRelCluster st => Sys2Proof.Machine.execFenceRelCluster st s
  | .fenceRelDevice st => Sys2Proof.Machine.execFenceRelDevice st s
  | .fenceRelSystem st => Sys2Proof.Machine.execFenceRelSystem st s
  | .fenceAcq st => Sys2Proof.Machine.execFenceAcq st s
  | .fenceFullTeam st => Sys2Proof.Machine.execFenceFullTeam st s
  | .fenceFullCluster st => Sys2Proof.Machine.execFenceFullCluster st s
  | .fenceFullDevice st => Sys2Proof.Machine.execFenceFullDevice st s
  | .fenceFullSystem st => Sys2Proof.Machine.execFenceFullSystem st s
  | .pfenceLc st => Sys2Proof.Machine.execPfenceLc st s
  | .pfenceLt st => Sys2Proof.Machine.execPfenceLt st s
  | .tbegin a b st => Sys2Proof.Machine.execTbegin a b st s
  | .tend st => Sys2Proof.Machine.execTend st s
  | .tabort st => Sys2Proof.Machine.execTabort st s
  | .tprobe d st => Sys2Proof.Machine.execTprobe d st s
  | .adecl a b st => Sys2Proof.Machine.execAdecl a b st s
  | .adrop a st => Sys2Proof.Machine.execAdrop a st s
  | .forkW d a st => Sys2Proof.Machine.execForkW d a st s
  | .chooseFirst d st => Sys2Proof.Machine.execChooseFirst d st s
  | .chooseBest d a st => Sys2Proof.Machine.execChooseBest d a st s
  | .wabort d st => Sys2Proof.Machine.execWabort d st s
  | .wquery d st => Sys2Proof.Machine.execWquery d st s
  | .exitSave st => Sys2Proof.Machine.execExitSave st s
  | .entryDone st => Sys2Proof.Machine.execEntryDone st s
  | .rrec d a st => Sys2Proof.Machine.execRrec d a st s
  | .rpoison a st => Sys2Proof.Machine.execRpoison a st s
  | .penInit a b st => Sys2Proof.Machine.execPenInit a b st s
  | .penExpect a b st => Sys2Proof.Machine.execPenExpect a b st s
  | .penArrive a st => Sys2Proof.Machine.execPenArrive a st s
  | .penWait a b st => Sys2Proof.Machine.execPenWait a b st s
  | .penTest d a st => Sys2Proof.Machine.execPenTest d a st s
  | .barTeam a st => Sys2Proof.Machine.execBarTeam a st s
  | .barRole a b st => Sys2Proof.Machine.execBarRole a b st s
  | .gsync st => Sys2Proof.Machine.execGsync st s
  | .penInval a st => Sys2Proof.Machine.execPenInval a st s
  | .ballot d a st => Sys2Proof.Machine.execBallot d a st s
  | .vall d a st => Sys2Proof.Machine.execVall d a st s
  | .vany d a st => Sys2Proof.Machine.execVany d a st s
  | .matchLanes d a st => Sys2Proof.Machine.execMatchLanes d a st s
  | .shflIdx d a b st => Sys2Proof.Machine.execShflIdx d a b st s
  | .shflUp d a b st => Sys2Proof.Machine.execShflUp d a b st s
  | .shflDown d a b st => Sys2Proof.Machine.execShflDown d a b st s
  | .shflXor d a b st => Sys2Proof.Machine.execShflXor d a b st s
  | .redaddI32 d a st => Sys2Proof.Machine.execRedaddI32 d a st s
  | .scanaddI32 d a st => Sys2Proof.Machine.execScanaddI32 d a st s
  | .exscanI32 d a st => Sys2Proof.Machine.execExscanI32 d a st s
  | .redmaxI32 d a st => Sys2Proof.Machine.execRedmaxI32 d a st s
  | .redminI32 d a st => Sys2Proof.Machine.execRedminI32 d a st s
  | .redaddF32 d a st => Sys2Proof.Machine.execRedaddF32 d a st s
  | .elect d st => Sys2Proof.Machine.execElect d st s
  | .setgm a st => Sys2Proof.Machine.execSetgm a st s
  | .copyTeam d a st => Sys2Proof.Machine.execCopyTeam d a st s
  | .copyMc d a st => Sys2Proof.Machine.execCopyMc d a st s
  | .copySp d a st => Sys2Proof.Machine.execCopySp d a st s
  | .copyOut d a st => Sys2Proof.Machine.execCopyOut d a st s
  | .rlkQ d a b st => Sys2Proof.Machine.execRlkQ d a b st s
  | .copyBulk d a st => Sys2Proof.Machine.execCopyBulk d a st s
  | .gath d a st => Sys2Proof.Machine.execGath d a st s
  | .gathClose a st => Sys2Proof.Machine.execGathClose a st s
  | .trBind a b st => Sys2Proof.Machine.execTrBind a b st s
  | .trUnbind a st => Sys2Proof.Machine.execTrUnbind a st s
  | .trFilled d a st => Sys2Proof.Machine.execTrFilled d a st s
  | .trFree d a st => Sys2Proof.Machine.execTrFree d a st s
  | .trReset a st => Sys2Proof.Machine.execTrReset a st s
  | .mxMma d a b st => Sys2Proof.Machine.execMxMma d a b st s
  | .mxRd d a st => Sys2Proof.Machine.execMxRd d a st s
  | .mxSt d a b st => Sys2Proof.Machine.execMxSt d a b st s
  | .mxLd d a b st => Sys2Proof.Machine.execMxLd d a b st s
  | .mxClr a st => Sys2Proof.Machine.execMxClr a st s
  | .mxStat d st => Sys2Proof.Machine.execMxStat d st s
  | .launch a b st => Sys2Proof.Machine.execLaunch a b st s
  | .exit st => Sys2Proof.Machine.execExit st s
  | .exitSucc a b st => Sys2Proof.Machine.execExitSucc a b st s
  | .tyield st => Sys2Proof.Machine.execTyield st s
  | .waitExt d a b st => Sys2Proof.Machine.execWaitExt d a b st s
  | .sigHost a st => Sys2Proof.Machine.execSigHost a st s
  | .sleep a st => Sys2Proof.Machine.execSleep a st s
  | .trap a st => Sys2Proof.Machine.execTrap a st s
  | .brk st => Sys2Proof.Machine.execBrk st s
  | .rdpriv d a st => Sys2Proof.Machine.execRdpriv d a st s
  | .wrpriv d a st => Sys2Proof.Machine.execWrpriv d a st s
  | .tret st => Sys2Proof.Machine.execTret st s
  | .tretSkip st => Sys2Proof.Machine.execTretSkip st s
  | .ipref a b st => Sys2Proof.Machine.execIpref a b st s
  | .ipin d a b st => Sys2Proof.Machine.execIpin d a b st s
  | .iunpin d a b st => Sys2Proof.Machine.execIunpin d a b st s
  | .tmark d st => Sys2Proof.Machine.execTmark d st s
  | .perfRd d a st => Sys2Proof.Machine.execPerfRd d a st s
  | .clk d st => Sys2Proof.Machine.execClk d st s
  | .sfuF64Result team tok => Sys2Proof.Machine.execSfuF64Result team tok s
  | .matrixOpFinish core quad => Sys2Proof.Machine.execMatrixOpFinish core quad s
  | .tbeginStampAdvance team => Sys2Proof.Machine.execTbeginStampAdvance team s
  | .pcieCompletion t acc => Sys2Proof.Machine.execPcieCompletion t acc s
  | .postedWriteAccepted t acc => Sys2Proof.Machine.execPostedWriteAccepted t acc s
  | .priResponse op granted => Sys2Proof.Machine.execPriResponse op granted s
  | .crcFailure port dev => Sys2Proof.Machine.execCrcFailure port dev s
  | .tdispStateChange fn code => Sys2Proof.Machine.execTdispStateChange fn code s
  | .managementStepRequest island step => Sys2Proof.Machine.execManagementStepRequest island step s

end Sys2Proof.Machine
end

