-- ==== Sys2Proof/Machine/Tick.lean ====
section
/-! DEFINITION. One tick of device time: what comes about by itself when T advances, with no step of its own in the opcode table
(R10, R11, R89, R96, R116, R156, R161, R168, R175, R241, R243, R292, R357, R394). -/

namespace Sys2Proof.Machine

/-! ### Clocks (R10, R11) -/

/-- Cycles that an island's clock makes in a tick at a phase: all four of four ticks at step 0, three at step 1, two at step 2 and
none when gated (log entry 5 for which of them). DESIGN CHOICE: log entry 5. -/
def islandRuns (step phase : Nat) : Bool := step == 0 || (step == 1 && phase % 4 ≠ 3) || (step == 2 && phase % 2 == 0)

/-- Cycles of an island's clock in one tick of 800 MHz (R10): a core half makes 1, 3 in 4, 1 in 2 or none; L2 and fabric, and the base
die's L3 and memory controllers, make 2 (1.6 GHz), 3 in 2 (1.2 GHz) or 1 (800 MHz); an HBM PHY moves 15 or 12 bits on each pin (12 or
9.6 Gb/s); the nominal clock of island 13 is not stated and counts 1. DESIGN CHOICE: log entry 5. -/
def islandCycles (i step phase : Nat) : Nat :=
  if i == 14 || i == 15 then (if step == 0 then 15 else 12)
  else if i == 12 || (i < 12 && i % 3 == 2) then (if step == 0 then 2 else if step == 1 then 2 - phase % 2 else 1)
  else if islandRuns step phase then 1 else 0

/-- The clock of island `i` over one tick. -/
def Island.tick (i : Nat) (x : Island) : Island := { x with cycle := x.cycle + islandCycles i x.step x.phase, phase := (x.phase + 1) % 4 }

/-- The clocks of the islands from number `i` on, over one tick. -/
def tickIslands (i : Nat) : List Island → List Island
  | [] => []
  | x :: l => x.tick i :: tickIslands (i + 1) l

/-- Device time advances by one tick, and every island's clock with it. -/
def advanceTime (s : State) : State := { s with time := s.time + 1, islands := tickIslands 0 s.islands }

/-! ### Threads and teams -/

/-- A thread whose sleeptk registers have all arrived is ready again (R292). -/
def wakeNap (th : Thread) : Thread :=
  match th.wait with
  | some (.sleeptk rs) => if rs.any fun r => pendingReg th (.v r) then th else { th with wait := none }
  | _ => th

/-- Results of a team's threads that have landed are written, and words of save records arrive (R106, R357). DESIGN CHOICE: log entry 46. -/
def settleTick (s : State) (team : Nat) : State :=
  modTeam (settleTeam s team) team fun t => { t with groups := t.groups.map fun g => { g with threads := g.threads.map fun th => wakeNap (deliverRecords th) } }

/-- Threads of a team that sleep on a register. -/
def nappers (s : State) (team : Nat) : Nat :=
  match team? s team with
  | some t => (t.groups.flatMap fun g => g.threads.filter fun th => match th.wait with | some (.sleeptk _) => true | _ => false).length
  | none => 0

/-- The waits of one team that can end: sleeptk, rendezvous, barriers, exit.save, troughs (R111, R292, R349, R356, R375, R394). -/
def meetTick (s : State) (team : Nat) : State :=
  let n := nappers s team
  let s := settleTick s team
  let s := if nappers s team < n then (match team? s team with | some t => progress s t.ctx | none => s) else s
  let s := meetAll s team
  let s := match team? s team with | some t => (tidsOf t).foldl finishSave s | none => s
  -- what runs when the last routine of a team ends is cancelled (R178)
  let s := match team? s team with | some t => if teamEnded t then cancelEngines s team else s | none => s
  (upto 8).foldl (fun s q => settleTrough s team q) s

/-- A fork keeps world 0's team of a losing world for the winner's copy (R228). DEDUCED: log entry 34. -/
def keptForCopy (s : State) (team : Nat) : Bool :=
  s.forks.any fun f => f.copying && f.winner.isSome && f.worlds.any fun w => w.idx == 0 && w.team == team

/-- A discarded world's team whose clauses have ended is taken from its core (R193, R226). -/
def sweepTeams (s : State) : State :=
  (s.teams.filter fun t => t.discarded && !keptForCopy s t.id && !s.slots.any fun sl => sl.flock.any fun k => k.team == t.id).foldl
    (fun s t => removeTeam s t.id) s

/-- Teams that can retire do so in the tick of their last thread (R114). -/
def retireTick (s : State) : State :=
  s.teams.foldl (fun s t => match team? s t.id with | some t => if retireReady s t then retireTeam s t else s | none => s) s

/-- Retired teams whose last stores have been performed. -/
def drainedTick (s : State) : State := (s.teams.filter fun t => t.state == .retired && teamDrained s t).foldl dropRetired s

/-! ### Commits and grids (R116, R168) -/

/-- Views whose commit takes effect at this tick (R168). -/
def commitTick (s : State) : State := s.commits.foldl (fun s c => if s.commits.contains c && commitDue s c then commitView s c else s) s

/-- Pending grids whose wait-on word meets the expected value become ready; a failed read is left to the step of R82. -/
def readyTick (s : State) : State :=
  (s.grids.filter fun g => !g.ready && g.waitFault.isNone).foldl (fun s g => match ctx? s g.ctx with
    | some c => match (readWaitOn s c g.record.waitOn.toNat).1 with
      | .ok v => if !c.suspended && g.record.expected ≤ v then modGrid s g.id fun g => { g with ready := true } else s
      | .error _ => s
    | none => s) s

/-- The completion signal of an ended grid: 1 is added at b0 + its offset; an offset of all ones names none (R37, R116). DESIGN CHOICE: log entry 76. -/
def signalEnd (s : State) (g : Grid) : State :=
  match ctx? s g.ctx with
  | none => s
  | some c =>
    if g.dropped || g.record.completion == 2 ^ 64 - 1 then s
    else match formAddr (g.record.b.getD 0 0).toNat g.record.completion with
      | some va => completeAt s c va
      | none => (writeFault s (plainFault c.id Cause.pageFault.code (BitVec.ofNat 80 ((g.record.b.getD 0 0).toNat + g.record.completion))
          (regionTrap 0 kindAtomic).detail)).2

/-- Ended grids whose last stores are performed, at device scope, signal their end and leave the queue (R116). -/
def gridTick (s : State) : State :=
  (s.grids.filter fun g => g.ended && g.flush ≤ s.time && !s.teams.any fun t => t.grid == g.id).foldl (fun s g =>
    signalEnd { s with grids := s.grids.filter fun x => x.id ≠ g.id } g) s

/-! ### Counts (R89, R96, R241, R243) -/

/-- A context has a resident team and none under pre-emption (R96). -/
def ctxActive (s : State) (ctx : Nat) : Bool :=
  s.teams.any (fun t => t.ctx == ctx && t.state == .resident) && !s.teams.any fun t => t.ctx == ctx && t.state == .preempting

/-- The watchdog windows of the contexts advance (R96). -/
def watchTick (s : State) : State := { s with contexts := updWhere (fun (c : Context) => ctxActive s c.id) (fun c => { c with idle := c.idle + 1 }) s.contexts }

/-- The slice budgets of the grids count; a slice ends when no team of its grid stands on a core (R89). -/
def sliceTick (s : State) : State :=
  let s := { s with grids := s.grids.map fun (g : Grid) => { g with slice := g.slice && s.teams.any fun t => t.grid == g.id && t.onCore } }
  { s with grids := updWhere (fun (g : Grid) => g.slice && s.teams.any fun t => t.grid == g.id && t.state == .resident) (fun g => { g with sliceTicks := g.sliceTicks + 1 }) s.grids }

/-- Ticks resident, of every team on its core (R243). -/
def residentTick (s : State) : State :=
  { s with teams := updWhere (fun (t : Team) => t.onCore) (fun t => { t with counters := updAt 11 (· + 1) t.counters }) s.teams }

/-- Slot turns that pass without an issue, because the flock's instruction still waits for its stall field, are counted (R241). DEDUCED: log entry 77. -/
def turnTick (s : State) : State :=
  (s.slots.filter fun sl => !sl.flock.isEmpty && coreCycle s sl.core < sl.due && coreCycle s sl.core % 4 == sl.k).foldl
    (fun s sl => countTurn s sl.core sl.quad (readyPaths s sl.core sl.quad).length) s

/-! ### The store gates (R157) -/

/-- The entries of the store gates that have stood there for 2,048 ticks drain, the older ones first (R157). -/
def drainOld (s : State) : State := (s.gate.filter fun g => g.entered + 2048 ≤ s.time).foldl drainEntry s

/-! ### The tick -/

/-- Commands and operations in progress that can go on or end. -/
def commandTick (s : State) : State :=
  let s := settlePrepare (settlePav (settlePart (driveDestroy s)))
  (s.host.trans.map TransBlock.fn).foldl settleTrans s

/-- The end of a tick: the choices of its requests are decided, and teams whose last thread has retired in it retire (R114, R425). -/
def endTick (s : State) : State := retireTick (choiceTick s)

/-- One tick of device time. -/
def tick (s : State) : State :=
  let s := endTick (bootRom s)
  let s := readyTick (commitTick (linkTick (loopTick (applyCompletions (drainOld (advanceTime s))))))
  let s := (s.teams.filter Team.onCore).foldl (fun s t => meetTick s t.id) s
  let s := commandTick (gridTick (drainedTick (sweepTeams s)))
  turnTick (residentTick (sliceTick (watchTick s)))

end Sys2Proof.Machine
end

