-- ==== Sys2Proof/Machine/Own.lean ====
section
/-! DEFINITION. The machine's own schedule: with an empty agenda, each tick is followed by one attempt of every internal step of
the opcode table that is enabled, in one fixed order (log entry 3).  The spec leaves the order and the delays of these steps
open; each step checks its own conditions, so what happens here is one run that the spec allows. -/

namespace Sys2Proof.Machine

/-- The state after a step that answers a next state. -/
def after (o : Host.Outcome State Fault Refusal) (s : State) : State := match o with | .next t => t | _ => s

/-- Attempt a step for each entry of a list, in order. -/
def each {α : Type} (l : List α) (f : α → State → Host.Outcome State Fault Refusal) (s : State) : State :=
  l.foldl (fun s x => after (f x s) s) s

/-- Threads whose code word is not in the translation caches. -/
def fetchMissing (s : State) : List (Tid × Word) :=
  (s.teams.filter Team.onCore).flatMap fun t => (tidsOf t).filterMap fun k => match thread? s k with
    | some th => if th.life == .live && (fetchWord s t.id th.pc.off).isNone then some (k, th.pc.off)
        else (match th.wait with | some (.fetch off) => some (k, off) | _ => none)
    | none => none

/-- The steps of the reference machine: walks, loads, gates, drains, atomics, scratchpad and external accesses, fences. -/
def ownMemory (s : State) : State :=
  let s := each (fetchMissing s) (fun x s => execPageWalk x.1 0 x.2 s) s
  let q := (allQueues s).map fun x => (x.1, x.2.id)
  let s := each q (fun x s => execPageWalk x.1 x.2 0 s) s
  let s := each q (fun x s => execGranuleRequest x.1 x.2 s) s
  let s := each q (fun x s => execPerformLoad x.1 x.2 s) s
  let s := each q (fun x s => execEnterGate x.1 x.2 s) s
  let s := each q (fun x s => execPerformAtomic x.1 x.2 s) s
  let s := each q (fun x s => execScratchAccess x.1 x.2 s) s
  let s := each q (fun x s => execPostedWriteAccepted x.1 x.2 s) s
  let s := each q (fun x s => execPcieCompletion x.1 x.2 s) s
  let s := each q (fun x s => execExternalAccess x.1 x.2 s) s
  let s := each q (fun x s => execFinishFence x.1 x.2 s) s
  let s := each (s.gate.map fun g => (g.tid, g.acc)) (fun x s => execDrain x.1 x.2 s) s
  each (s.leases.map fun c => (c.store, c.line)) (fun x s => execExpire x.1 x.2 s) s

/-- The steps of the engines, troughs, matrix units and long units. -/
def ownUnits (s : State) : State :=
  let ops := (sortBy EngOp.id s.engines).map EngOp.id
  let s := each ops (fun n s => execEngineStatus n s) s
  let s := each (s.penUpdates.map PenUpdate.op) (fun n s => execEnginePenUpdate n s) s
  let s := each (upto 8) (fun n s => execBulkTransfer n true [] s) s
  let s := each (ops.flatMap fun n => (upto 16).map fun p => (n, p)) (fun x s => execMulticastBeat x.1 x.2 [] s) s
  let s := each ops (fun n s => execGatherPush n [] [] s) s
  let s := each ops (fun n s => execEngineWrite n [] s) s
  let s := each ops (fun n s => execEngineStart n s) s
  let s := each (s.troughs.map fun r => (r.tid.team, r.q, if r.pop then 1 else 0)) (fun x s => execTroughServe x.1 x.2.1 x.2.2 s) s
  let quads := dedup (s.matrix.map fun m => (m.core, m.quad))
  let s := each quads (fun x s => execMatrixOpFinish x.1 x.2 s) s
  let s := each quads (fun x s => execMatrixChunk x.1 x.2 s) s
  let s := each quads (fun x s => execMatrixOpStart x.1 x.2 s) s
  let toks := s.teams.flatMap fun t => dedup (t.groups.flatMap fun g => g.threads.flatMap fun th => th.held.map fun h => (t.id, h.tok))
  each toks (fun x s => execSfuF64Result x.1 x.2 s) s

/-- The steps of tasks and worlds. -/
def ownWorlds (s : State) : State :=
  let ts := s.teams.map Team.id
  let s := each ts (fun n s => execTbeginStampAdvance n s) s
  let s := each ts (fun n s => execCommitRequest n s) s
  let s := each ts (fun n s => execChooseBestArrival n s) s
  let fs := s.forks.map Fork.id
  let s := each fs (fun n s => execForkCopyDone n s) s
  let s := each (s.forks.flatMap fun f => f.requests.map fun w => (f.id, w)) (fun x s => execChooseFirstRequest x.1 x.2 s) s
  let s := each fs (fun n s => execChooseCopyDone n s) s
  let fams := s.families.map Family.id
  let s := each fams (fun n s => execWound n s) s
  let s := each fams (fun n s => execRollback n s) s
  let s := each fams (fun n s => execTaskRestart n s) s
  let s := each (s.versions.map fun v => (v.tag, v.line)) (fun x s => execSweeper x.1 x.2 s) s
  let s := each (s.leases.map fun c => (c.view, c.line)) (fun x s => execSweeper x.1 x.2 s) s
  each (s.views.map ViewRec.tag) (fun n s => execTagFree n s) s

/-- The mailbox command that GO has started. -/
def ownMailbox (s : State) : State :=
  let s := after (execCreateContext s) s
  let s := after (execDestroyContext s) s
  let s := after (execSuspendContext s) s
  let s := after (execResumeContext s) s
  let s := after (execSetWatchdog s) s
  let s := after (execMeasureSteward s) s
  after (execBadCommand s) s

/-- The steps of the dispatcher, of pre-emption and of the host interface. -/
def ownControl (s : State) : State :=
  let ts := s.teams.map Team.id
  let tids := (s.teams.filter Team.onCore).flatMap tidsOf
  let s := each tids (fun t s => execSleepEnd t s) s
  let s := each tids (fun t s => execThreadVectoring t s) s
  let s := each tids (fun t s => execRoutineOverrun t s) s
  let s := each ts (fun n s => execSaveRecordComplete n s) s
  let s := each ts (fun n s => execTeamRetire n s) s
  let s := each (s.grids.map Grid.id) (fun n s => execBudgetEvent n s) s
  let s := each (s.contexts.map Context.id) (fun n s => execWatchdogExpiry n s) s
  let s := each (s.contexts.map Context.id) (fun n s => execFaultVector n s) s
  let s := each (s.launches.map LaunchWait.seq) (fun n s => execLaunchComplete n s) s
  let s := each (s.grids.map Grid.id) (fun n s => execGridReady n s) s
  let s := after (execMsiMessage s) s
  let s := after (execCommandEnd s) s
  let s := ownMailbox s
  let s := after (execReclaimComplete s) s
  let s := after (execFrameScrub s) s
  let s := after (execSweepLine s) s
  let s := after (execCheckpointTick s) s
  let s := after (execStagedCommit s) s
  let s := after (execCheckpointWarning s) s
  let s := each (upto 16) (fun n s => execIslandStepChange n s) s
  let s := each (upto 24) (fun n s => execPortDown n s) s
  let s := each ((s.links.reqs.filter (hopeless s)).map RemoteReq.msg) (fun n s => execPeerTimeout n s) s
  let s := each (s.engLeases.map EngLease.eng) (fun n s => execLeaseExpiry n s) s
  each (s.partitions.map Partition.id) (fun n s => execTeamPlace n s) s

/-- The picker of every quadrant that holds groups, for the slot whose turn it is. -/
def ownPicks (s : State) : State :=
  let qs := dedup ((s.teams.filter Team.onCore).flatMap fun t => t.groups.map fun g => (t.core, g.quad))
  each qs (fun x s => execFlockPick x.1 x.2 (coreCycle s x.1 % 4) s) s

/-- Every internal step once, in the order of the machine's own schedule. DESIGN CHOICE: log entry 3. -/
def background (s : State) : State := ownPicks (ownControl (ownWorlds (ownUnits (ownMemory s))))

/-! ### The next move -/

/-- The slot that issues before time goes on: the due one of lowest key. -/
def firstDue (s : State) : Option Slot := minBy Slot.key (s.slots.filter (slotDue s))

/-- The next move: the head of the agenda, but a due flock issues before a tick; with an empty agenda, a due flock or a tick. DESIGN CHOICE: log entry 3. -/
def nextMove (s : State) : Move :=
  match s.agenda with
  | .event i :: _ => .event i
  | .issue c q k :: _ => .issue c q k
  | _ => match firstDue s with | some sl => .issue sl.core sl.quad sl.k | none => .tick

/-- The agenda after a move: a due flock that issues before a tick of the agenda leaves the tick there. -/
def popMove (s : State) : List Move :=
  match s.agenda with
  | .tick :: l => if (firstDue s).isSome then s.agenda else l
  | _ :: l => l
  | [] => []

/-- A tick, with the machine's own steps after it when nothing is scheduled. -/
def tickMove (s : State) : State := if s.agenda.isEmpty then background (tick s) else tick s

/-! ### An issue -/

/-- What a slot's turn finds. -/
inductive Turn where
  /-- No flock, or not yet its cycle. -/
  | idle
  /-- The word of the flock's position. -/
  | word (w : Word)
  /-- Its code page has no cached translation: the flock waits (R136). -/
  | missing
  deriving DecidableEq, Repr

/-- What the turn of a slot finds. -/
def turnOf (s : State) (key : Nat) : Turn :=
  match slot? s key with
  | some sl =>
    if !slotDue s sl then .idle
    else match sl.flock with
      | [] => .idle
      | t :: _ => match thread? s t with
        | some th => match fetchWord s t.team th.pc.off with
          | some w => .word w
          | none => .missing
        | none => .idle
  | none => .idle

/-- The turn of a slot opens: it is the present slot, and the turn is counted (R91, R241). DEDUCED: log entry 77. -/
def openTurn (s : State) (key : Nat) : State :=
  let s := { s with cur := some key }
  match slot? s key with
  | some sl => countTurn s sl.core sl.quad (readyPaths s sl.core sl.quad).length
  | none => s

/-- A word that is no instruction: every thread of the flock traps ILLEGAL_OP with the word (R282, R290 step 2). -/
def illegalWord (w : Word) (s : State) : State :=
  match curSlot s with
  | none => s
  | some sl =>
    match sl.flock with
    | [] => s
    | t :: _ =>
      let s := takeOwed (settleTeam s t.team) sl.flock
      match slot? s sl.key with
      | some sl => takeTraps s (sl.flock.map fun t => (t, ⟨.illegalOp, w, 0⟩))
      | none => s

/-- A flock whose next word cannot be fetched waits one turn (R136, R148). -/
def missTurn (s : State) (key : Nat) : State :=
  match slot? s key with
  | some sl => match sl.flock with | t :: _ => stallSlot s key t.team | [] => s
  | none => s

/-- One more step has begun: the count of free values (log entry 4). DESIGN CHOICE: log entry 4. -/
def beginStep (s : State) (m : List Move) : State := { s with fresh := s.fresh + 1, agenda := m, cur := none }

end Sys2Proof.Machine
end

