-- ==== Sys2Proof/Machine/Load.lean ====
section
/-! DEFINITION. A small running machine around one code word: a partition, a context, a grid and a team of one group whose lane 0
stands before the word.  It stands for the load of a program from outside (log entry 1). -/

namespace Sys2Proof.Machine

/-- Physical address of the code page of the loaded word. -/
def loadPa : Nat := 0x10000

/-- A context with no handler, no checks and no areas in use. DESIGN CHOICE: log entry 1. -/
def loadContext (id : Nat) : Context :=
  { id := id, flags := 0, part := 1, pav := 0, msix := 0, root1 := 0, root2 := 0, rootRec := 0, arenaBase := 0, arenaSize := 0, faultBase := 0
    faultEntries := 1, handler := 0, vecBase := 0, vecCount := 0, quota := 0, saveBytes := 0, suspended := false, suspendedBy := [], window := 16777216
    idle := 0, noticed := false, wdLo := 0, sample := 0, seed := 0xACE1, extents := [], cellsUsed := [], areas := [(0, 0)], fixedAreas := 1, ringBase := 0
    ringSize := 0, ringHead := 0, ringTail := 0, ringLost := 0, faultHead := 0, faultLost := 0, faultDue := false, faultTick := none, armed := none
    destroying := false }

/-- A record of one team with one group of 128 registers. -/
def loadRecord : TaskRec :=
  { magic := 0, flags := 0, code := 0, regions := 0, regionCount := 0, x := 1, y := 1, z := 1, period := 0, roleCount := 1, scratch := 1024
    roles := [(0, 128, 1, 255)], b := [0, 0, 0, 0], setTable := 0, setCount := 0, deadline := 0, budget := 0, waitOn := 0, expected := 0
    completion := 2 ^ 64 - 1 }

/-- The grid of that team, placed. -/
def loadGrid (id ctx : Nat) : Grid :=
  { id := id, ctx := ctx, part := 1, addr := 0, record := loadRecord.kept, seq := 0, deadline := 2 ^ 64 - 1, ready := true, held := false
    next := 1, total := 1, slice := true, sliceTicks := 0, waitFault := none, placeFault := none, dropped := false, ended := false, flush := 0 }

/-- The position before the word: inside a MIXED clause of one instruction, whose header stands at offset 0. -/
def loadPc : Pc :=
  { off := 4, inside := true, hdr := 0, hword := 0xFC700000, guardLeft := 0, guardOk := true, guardPred := 0, guardNeg := false, entry := false }

/-- Lane 0 stands before the word; the other lanes have retired. -/
def loadThreads : List Thread :=
  { Thread.start 0 with pc := loadPc, gmask := 1 } :: List.replicate 31 { Thread.start 0 with life := .retired }

/-- The group of the team. -/
def loadGroup : Group :=
  { quad := 0, gslot := 0, row := 0, regs := 128, role := 0, s := List.replicate 64 0, sdue := [], spend := [], scapt := none, bcapt := none, rdv := []
    threads := loadThreads, retired := false, record := none }

/-- The team. DESIGN CHOICE: log entry 1. -/
def loadTeam (id grid ctx time : Nat) : Team :=
  { id := id, grid := grid, ctx := ctx, index := 0, x := 0, y := 0, z := 0, core := 0, slot := 0, groups := [loadGroup], b := List.replicate 16 0, bdue := []
    q := List.replicate 8 0, allocBase := 0, allocSize := 1024, gen := 1, view := 0, world := 0, nworld := 1, fork := none, family := none, placed := time
    order := id, state := .resident, why := none, held := false, rdv := [], bars := [], counters := List.replicate 12 0, succ := none, setIdx := none
    run := none, discarded := false, hints := [255] }

/-- The state with a code word where the next step fetches it. DESIGN CHOICE: log entry 1. -/
def loadWord (s : State) (w : Word) : State :=
  let id := s.nextId
  { s with
    nextId := id + 2
    agenda := .issue 0 0 0 :: s.agenda
    partitions := ⟨1, ⟨upto 256, upto 256, upto 256, upto 8, upto 24⟩, []⟩ :: s.partitions
    contexts := loadContext 1 :: s.contexts
    grids := loadGrid id 1 :: s.grids
    teams := loadTeam (id + 1) id 1 s.time :: s.teams
    slots := { core := 0, quad := 0, k := 0, flock := [⟨id + 1, 0, 0⟩], fid := id, due := 0, lastClass := none, paid := false, stalled := false
               yielded := false, low := [] } :: s.slots
    tlb := { die := 0, core := none, ctx := 1, sz := 16, page := 0, ipa := loadPa, pa := loadPa, w := true, x := true, lease := 0 } :: s.tlb
    mem := Memory.writeN s.mem (loadPa + 4) (leBytes 4 w.toNat) }

end Sys2Proof.Machine
end

