-- ==== Sys2Proof/Machine/Step.lean ====
section
/-! DEFINITION. One step of the machine: a flock issues one instruction, device time ticks, or a device step of the agenda happens. -/

namespace Sys2Proof.Machine

/-- The issue of the slot of a key: its word is decoded and executed (R91, R276, R290). -/
noncomputable def issueStep (key : Nat) (s : State) : Host.Outcome State Fault Refusal :=
  match turnOf s key with
  | .idle => .next s
  | .missing => .next (missTurn (openTurn s key) key)
  | .word w => match decode w with
    | .ok i => exec i (openTurn s key)
    | .error _ => .next (illegalWord w (openTurn s key))

/-- One step. -/
noncomputable def step (s : State) : Host.Outcome State Fault Refusal :=
  match nextMove s with
  | .event i => exec i (beginStep s (popMove s))
  | .issue core quad k => issueStep (slotKey core quad k) (beginStep s (popMove s))
  | .tick => .next (tickMove (beginStep s (popMove s)))

/-- The state with an instruction of `nbits` bits stored where the next step fetches it. -/
def State.withFetchWord (s : State) (nbits w : Nat) : State := loadWord s (BitVec.ofNat 32 (w % 2 ^ min nbits 32))

end Sys2Proof.Machine
end

