-- ==== Sys2Proof/Safety.lean ====
section
/-! DEFINITION. What counts as a safe run, and the terms in which the claims about single instructions speak: a flock that stands
ready before an instruction, what each lane, group or team of it receives, and the invariant of every step. -/

namespace Sys2Proof

open Machine

/-- A step goes on: it is neither a fault nor a refusal. -/
def Goes (o : Host.Outcome State Fault Refusal) : Prop := ∃ t, o = .next t

/-- The machine takes `n` steps from a state without a fault or a refusal. -/
def SafeRun : Nat → State → Prop
  | 0, _ => True
  | n + 1, s => ∃ t, Machine.step s = .next t ∧ SafeRun n t

/-! ### A flock ready to issue (R92, R107, R108, R284, R290) -/

/-- The team of a slot's flock. -/
def headTeam (sl : Slot) : Nat := match sl.flock with | t :: _ => t.team | [] => 0

/-- The state in which the present slot's flock issues: the results that have reached their cycle are written (R106). -/
def atIssue (s : State) (sl : Slot) : State := settleTeam s (headTeam sl)

/-- The position of a slot's flock. -/
def posOf (s : State) (sl : Slot) : Pc :=
  match sl.flock with
  | t :: _ => (match thread? (atIssue s sl) t with | some th => th.pc | none => Pc.at 0)
  | [] => Pc.at 0

/-- The lanes for which an instruction that uses `u` is performed (R284). -/
def lanesOf (s : State) (sl : Slot) (u : Uses) : List Tid := admitted (atIssue s sl) u sl.flock

/-- The flock of the present slot issues `word`: it is one of R92 (live threads of one team at one position that wait for nothing, one per
lane column) and owes no trap, no check of R290 fails, no register is pending, no class change costs a rotation, and no lane holds the
instruction for a reason of its own. -/
structure Ready (s : State) (sl : Slot) (word : Word) (u : Uses) (hold : Lane → Bool) : Prop where
  slot : curSlot s = some sl
  nonempty : sl.flock ≠ []
  nodup : sl.flock.Nodup
  live : ∀ t ∈ sl.flock, ∃ th, thread? (atIssue s sl) t = some th ∧ th.owed = none ∧ th.wait = none ∧ th.life = .live
  static : staticTrap (posOf s sl) word u = none
  rotation : rotates (posOf s sl) sl u = false
  free : ∀ t ∈ lanesOf s sl u, ∀ l, lane? (atIssue s sl) t sl.fid word = some l → stalls l u = false
  unheld : ∀ t ∈ checkers u (lanesOf s sl u), ∀ l, lane? (atIssue s sl) t sl.fid word = some l → hold l = false
  routine : u.ban = true → ∀ t ∈ lanesOf s sl u, ∀ th, thread? (atIssue s sl) t = some th → th.routine = none
  oneTeam : ∀ t ∈ sl.flock, t.team = headTeam sl
  together : ∀ t ∈ sl.flock, ∀ th, thread? (atIssue s sl) t = some th → th.pc.off = (posOf s sl).off
  columns : (sl.flock.map fun t => t.lane).Nodup
  checks : ∀ t ∈ checkers u (lanesOf s sl u), ∀ l, lane? (atIssue s sl) t sl.fid word = some l → operandTrap l u = none

/-- Nothing holds an instruction for a reason of its own. -/
def noHold (_ : Lane) : Bool := false

/-- After the effect `mid` of an issue: a progress event of the context (R96), and the flock goes on (R93, R278). -/
def issued (s : State) (sl : Slot) (st : BitVec 2) (u : Uses) (mid : State) : State :=
  retire sl.key (posOf s sl) st u (lanesOf s sl u).length
    (teamProgress mid (headTeam sl))

/-! ### What the effect of an instruction changes -/

/-- Only the teams and the count of object numbers differ. -/
def OnlyTeams (a b : State) : Prop := b = { a with teams := b.teams, nextId := b.nextId }

/-- A team without what its threads hold. -/
def teamShape (t : Team) : Team :=
  { t with groups := t.groups.map fun (g : Group) => { g with threads := g.threads.map fun _ => Thread.start 0 } }

/-- The teams differ only inside their threads: bases, scalars, bindings, views and every count stay. -/
def SameTeams (a b : State) : Prop := b.teams.map teamShape = a.teams.map teamShape

/-- Every performing lane's thread turns into one that `R` relates to what the lane saw, every other thread stays, and nothing
outside the threads changes. -/
def LanesTurn (a b : State) (lanes : List Tid) (fid : Nat) (word : Word) (R : Lane → Thread → Prop) : Prop :=
  OnlyTeams a b ∧
  (∀ t ∈ lanes, ∀ l, lane? a t fid word = some l → ∃ th, thread? b t = some th ∧ R l th) ∧
  (∀ t, t ∉ lanes → thread? b t = thread? a t) ∧
  SameTeams a b

/-- Every performing lane's thread becomes `f` of what the lane saw. -/
def LanesBecome (a b : State) (lanes : List Tid) (fid : Nat) (word : Word) (f : Lane → Thread) : Prop :=
  LanesTurn a b lanes fid word fun l th => th = f l

/-- Every performing lane receives the writes `val` at issue + `lat` (R106), and nothing else changes. -/
def LanesWrite (a b : State) (sl : Slot) (lanes : List Tid) (word : Word) (lat : Nat) (val : Lane → List (Reg × BitVec 80)) : Prop :=
  LanesBecome a b lanes sl.fid word fun l => { l.th with due := l.th.due ++ (val l).map fun x => mkDue a sl.core sl.fid lat x.1 x.2 }

/-! ### The invariants of every step -/

/-- Device memory, host memory and scratchpad keep their canonical form: equal contents are equal data. -/
def MemoryCanonical (s : State) : Prop := Memory.wf s.mem = true ∧ Memory.wf s.hostMem = true ∧ Memory.wf s.scratch = true

/-- Every execution slot has one entry, and its flock is one of R92 and R93: threads of one team, at most one for each lane column. -/
def FlocksWellFormed (s : State) : Prop :=
  (s.slots.map Slot.key).Nodup ∧ ∀ sl ∈ s.slots, (sl.flock.map fun t => t.lane).Nodup ∧ ∀ t ∈ sl.flock, t.team = headTeam sl

end Sys2Proof
end

