-- ==== Sys2Proof/Certificates/Slice0/Obligations.lean ====
section
/-! DEFINITION. The statements of the model, each formalising or resting on rules of spec/, with the tables they speak in. -/

namespace Sys2Proof.Claims

open Machine

/-! ### Register instructions: what each performing lane receives -/

/-- A register instruction: its ST field, what it uses, its latency, and the writes of a lane. -/
structure RegOp where
  st : BitVec 2
  uses : Uses
  lat : Nat
  val : Lane → List (Reg × BitVec 80)

/-- `vd` from `va` and `vb`. -/
def tri (st : BitVec 2) (d a b : BitVec 7) (lat : Nat) (f : Word → Word → Word) : RegOp :=
  ⟨st, { Uses.none cAlu with rv := [(a.toNat, 1), (b.toNat, 1)], wv := [(d.toNat, 1)] }, lat,
    fun l => [(.v d.toNat, (f (rdV l.th a.toNat) (rdV l.th b.toNat)).setWidth 80)]⟩

/-- `vd` from `va`, `vb` and `vd`. -/
def tri3 (st : BitVec 2) (d a b : BitVec 7) (lat : Nat) (f : Word → Word → Word → Word) : RegOp :=
  ⟨st, { Uses.none cAlu with rv := [(a.toNat, 1), (b.toNat, 1), (d.toNat, 1)], wv := [(d.toNat, 1)] }, lat,
    fun l => [(.v d.toNat, (f (rdV l.th a.toNat) (rdV l.th b.toNat) (rdV l.th d.toNat)).setWidth 80)]⟩

/-- `vd` from `va`. -/
def duo (st : BitVec 2) (d a : BitVec 7) (f : Word → Word) : RegOp :=
  ⟨st, { Uses.none cAlu with rv := [(a.toNat, 1)], wv := [(d.toNat, 1)] }, 4, fun l => [(.v d.toNat, (f (rdV l.th a.toNat)).setWidth 80)]⟩

/-- `vd` from `va` and `vb`, and SAT where the result was clamped (R255). -/
def sat (st : BitVec 2) (d a b : BitVec 7) (f : Word → Word → Word × Bool) : RegOp :=
  ⟨st, { Uses.none cAlu with rv := [(a.toNat, 1), (b.toNat, 1)], wv := [(d.toNat, 1)] }, 4,
    fun l => (.v d.toNat, (f (rdV l.th a.toNat) (rdV l.th b.toNat)).1.setWidth 80) ::
      if (f (rdV l.th a.toNat) (rdV l.th b.toNat)).2 then [(.flags, flagSAT.setWidth 80)] else []⟩

/-- `vd` and p47 from `va`, `vb` and p47. -/
def carry (st : BitVec 2) (d a b : BitVec 7) (f : Word → Word → Bool → Word × Bool) : RegOp :=
  ⟨st, { Uses.none cAlu with rv := [(a.toNat, 1), (b.toNat, 1)], wv := [(d.toNat, 1)], rp := [47], wp := [47] }, 4,
    fun l => [(.v d.toNat, (f (rdV l.th a.toNat) (rdV l.th b.toNat) (rdP l.th 47)).1.setWidth 80),
              (.p 47, if (f (rdV l.th a.toNat) (rdV l.th b.toNat) (rdP l.th 47)).2 then 1 else 0)]⟩

/-- The signed or unsigned product of `va` and `vb` in the pair from `vd`. -/
def wide (st : BitVec 2) (d a b : BitVec 7) (f : Word → Word → BitVec 64) : RegOp :=
  ⟨st, { Uses.none cAlu with rv := [(a.toNat, 1), (b.toNat, 1)], wv := [(d.toNat, 2)] }, 8,
    fun l => [(.v d.toNat, ((f (rdV l.th a.toNat) (rdV l.th b.toNat)).setWidth 32).setWidth 80),
              (.v (d.toNat + 1), ((f (rdV l.th a.toNat) (rdV l.th b.toNat) >>> 32).setWidth 32).setWidth 80)]⟩

/-- `vd` from what the lane sees; `u` gives the other operands. -/
def one (st : BitVec 2) (d : BitVec 7) (u : Uses) (f : Lane → Word) : RegOp :=
  ⟨st, { u with wv := [(d.toNat, 1)] }, 4, fun l => [(.v d.toNat, (f l).setWidth 80)]⟩

/-- A predicate from what the lane sees. -/
def pred (st : BitVec 2) (p : BitVec 6) (u : Uses) (f : Lane → Bool) : RegOp :=
  ⟨st, { u with wp := [p.toNat] }, 4, fun l => [(.p p.toNat, if f l then 1 else 0)]⟩

/-- A predicate from `va` and `vb`. -/
def cmp (st : BitVec 2) (p : BitVec 6) (a b : BitVec 7) (f : Word → Word → Bool) : RegOp :=
  pred st p { Uses.none cAlu with rv := [(a.toNat, 1), (b.toNat, 1)] } fun l => f (rdV l.th a.toNat) (rdV l.th b.toNat)

/-- A predicate from two predicates. -/
def plg (st : BitVec 2) (d a b : BitVec 6) (f : Bool → Bool → Bool) : RegOp :=
  pred st d { Uses.none cAlu with rp := [a.toNat, b.toNat] } fun l => f (rdP l.th a.toNat) (rdP l.th b.toNat)

/-- A float result in `vd` with the flags it raises (R255, R315), from the lane's rounding mode and registers. -/
def flt (st : BitVec 2) (d : BitVec 7) (rv : List (Nat × Nat)) (lat : Nat) (f : Thread → Nat × Word) : RegOp :=
  ⟨st, { Uses.none cAlu with rv := rv, wv := [(d.toNat, 1)] }, lat, fun l => resF d.toNat (f l.th)⟩

def ftri (st : BitVec 2) (d a b : BitVec 7) (f : Rm → Nat → Nat → Nat × Word) : RegOp :=
  flt st d [(a.toNat, 1), (b.toNat, 1)] 8 fun th => f (rmOf th.fctl) (rdV th a.toNat).toNat (rdV th b.toNat).toNat

def ffour (st : BitVec 2) (d a b : BitVec 7) (f : Rm → Nat → Nat → Nat → Nat × Word) : RegOp :=
  flt st d [(a.toNat, 1), (b.toNat, 1), (d.toNat, 1)] 8
    fun th => f (rmOf th.fctl) (rdV th a.toNat).toNat (rdV th b.toNat).toNat (rdV th d.toNat).toNat

def fscale (st : BitVec 2) (d : BitVec 7) (rv : List (Nat × Nat)) (f : Thread → Nat × Word) : RegOp := flt st d rv 4 f

/-- Results of the integer sums and products (R293 to R295). -/
def integerOp (i : Instr) : Option RegOp :=
  match i with
  | .add d a b st => some (tri st d a b 4 (fun x y => x + y))
  | .sub d a b st => some (tri st d a b 4 (fun x y => x - y))
  | .addc d a b st => some (carry st d a b (fun x y c => let t := x.toNat + y.toNat + (if c then 1 else 0); (BitVec.ofNat 32 t, 2 ^ 32 ≤ t)))
  | .subb d a b st => some (carry st d a b (fun x y c => let t : Int := (x.toNat : Int) - y.toNat - (if c then 1 else 0); (BitVec.ofInt 32 t, t < 0)))
  | .addsI32 d a b st => some (sat st d a b (fun x y => clampTo (-2147483648) 2147483647 (x.toInt + y.toInt)))
  | .subsI32 d a b st => some (sat st d a b (fun x y => clampTo (-2147483648) 2147483647 (x.toInt - y.toInt)))
  | .addsN32 d a b st => some (sat st d a b (fun x y => clampTo 0 4294967295 ((x.toNat : Int) + y.toNat)))
  | .subsN32 d a b st => some (sat st d a b (fun x y => clampTo 0 4294967295 ((x.toNat : Int) - y.toNat)))
  | .addi d a i st => some (duo st d a (fun x => x + i.signExtend 32))
  | .andi d a i st => some (duo st d a (fun x => x &&& i.setWidth 32))
  | .ori d a i st => some (duo st d a (fun x => x ||| i.setWidth 32))
  | .xori d a i st => some (duo st d a (fun x => x ^^^ i.setWidth 32))
  | .mul d a b st => some (tri st d a b 8 (fun x y => x * y))
  | .mulhiI32 d a b st => some (tri st d a b 8 (fun x y => BitVec.ofInt 32 (x.toInt * y.toInt / 4294967296)))
  | .mulhiN32 d a b st => some (tri st d a b 8 (fun x y => BitVec.ofNat 32 (x.toNat * y.toNat / 4294967296)))
  | .mad d a b st => some (tri3 st d a b 8 (fun x y z => x * y + z))
  | .madhiI32 d a b st => some (tri3 st d a b 8 (fun x y z => BitVec.ofInt 32 (x.toInt * y.toInt / 4294967296) + z))
  | .madhiN32 d a b st => some (tri3 st d a b 8 (fun x y z => BitVec.ofNat 32 (x.toNat * y.toNat / 4294967296) + z))
  | .mulwI32 d a b st => some (wide st d a b (fun x y => BitVec.ofInt 64 (x.toInt * y.toInt)))
  | .mulwN32 d a b st => some (wide st d a b (fun x y => BitVec.ofNat 64 (x.toNat * y.toNat)))
  | _ => none

/-- Results of the logic and shift families (R296, R297). -/
def logicOp (i : Instr) : Option RegOp :=
  match i with
  | .and d a b st => some (tri st d a b 4 (fun x y => x &&& y))
  | .or d a b st => some (tri st d a b 4 (fun x y => x ||| y))
  | .xor d a b st => some (tri st d a b 4 (fun x y => x ^^^ y))
  | .andn d a b st => some (tri st d a b 4 (fun x y => x &&& ~~~y))
  | .orn d a b st => some (tri st d a b 4 (fun x y => x ||| ~~~y))
  | .xnor d a b st => some (tri st d a b 4 (fun x y => ~~~(x ^^^ y)))
  | .not d a st => some (duo st d a (fun x => ~~~x))
  | .shl d a b st => some (tri st d a b 4 (fun x y => x <<< (y.extractLsb' 0 8).toNat))
  | .shrN32 d a b st => some (tri st d a b 4 (fun x y => x >>> (y.extractLsb' 0 8).toNat))
  | .shrI32 d a b st => some (tri st d a b 4 (fun x y => x.sshiftRight (y.extractLsb' 0 8).toNat))
  | .rotl d a b st => some (tri st d a b 4 (fun x y => x.rotateLeft ((y.extractLsb' 0 8).toNat % 32)))
  | .rotr d a b st => some (tri st d a b 4 (fun x y => x.rotateRight ((y.extractLsb' 0 8).toNat % 32)))
  | .fshl d a b st => some (tri3 st d a b 4 (fun x y z => (((x ++ z : BitVec 64) <<< ((y.extractLsb' 0 8).toNat % 32)).extractLsb' 32 32)))
  | .fshr d a b st => some (tri3 st d a b 4 (fun x y z => (((x ++ z : BitVec 64) >>> ((y.extractLsb' 0 8).toNat % 32)).extractLsb' 0 32)))
  | .shli d a i st => some (duo st d a (fun x => x <<< i.toNat))
  | .shriN32 d a i st => some (duo st d a (fun x => x >>> i.toNat))
  | .shriI32 d a i st => some (duo st d a (fun x => x.sshiftRight i.toNat))
  | .roti d a i st => some (duo st d a (fun x => x.rotateLeft i.toNat))
  | _ => none

/-- Results of the bit, field and minimum families (R298 to R300). -/
def bitOp (i : Instr) : Option RegOp :=
  match i with
  | .popc d a st => some (duo st d a (fun x => BitVec.ofNat 32 (countOnes x.toNat 32)))
  | .clz d a st => some (duo st d a (fun x => BitVec.ofNat 32 (leadZeros x.toNat 32)))
  | .ctz d a st => some (duo st d a (fun x => BitVec.ofNat 32 (trailZeros x.toNat 32)))
  | .brev d a st => some (duo st d a (fun x => BitVec.ofNat 32 (reverseBits x.toNat 32)))
  | .bswap d a st => some (duo st d a (fun x => ofBytes4 (byteOf x 3) (byteOf x 2) (byteOf x 1) (byteOf x 0)))
  | .perm d a b st => some (tri3 st d a b 4 (fun x y z => ofBytes4 (permByte x z y 0) (permByte x z y 1) (permByte x z y 2) (permByte x z y 3)))
  | .bmsk d a b st => some (tri st d a b 4 (fun x y => let p := (x.extractLsb' 0 5).toNat; maskBits (min (y.extractLsb' 0 6).toNat (32 - p)) <<< p))
  | .bfxN32 d a b st => some (tri st d a b 4 (fun x y => let f := fieldOf y; (x >>> f.1) &&& maskBits f.2))
  | .bfxI32 d a b st => some (tri st d a b 4 (fun x y => let f := fieldOf y; if f.2 == 0 then 0 else (x <<< (32 - f.1 - f.2)).sshiftRight (32 - f.2)))
  | .bfi d a b st => some (tri3 st d a b 4 (fun x y z => let f := fieldOf y; (z &&& ~~~(maskBits f.2 <<< f.1)) ||| ((x &&& maskBits f.2) <<< f.1)))
  | .minI32 d a b st => some (tri st d a b 4 (fun x y => if x.toInt ≤ y.toInt then x else y))
  | .maxI32 d a b st => some (tri st d a b 4 (fun x y => if x.toInt ≤ y.toInt then y else x))
  | .minN32 d a b st => some (tri st d a b 4 (fun x y => if x.toNat ≤ y.toNat then x else y))
  | .maxN32 d a b st => some (tri st d a b 4 (fun x y => if x.toNat ≤ y.toNat then y else x))
  | .absI32 d a st => some (duo st d a (fun x => if x.toInt < 0 then -x else x))
  | .negI32 d a st => some (duo st d a (fun x => -x))
  | .adiffN32 d a b st => some (tri st d a b 4 (fun x y => if x.toNat ≤ y.toNat then y - x else x - y))
  | _ => none

/-- Results of the moves, compares and predicate logic (R301, R304 to R307). -/
def moveOp (i : Instr) : Option RegOp :=
  match i with
  | .mov d a st => some (duo st d a (fun x => x))
  | .sel d a b st => some (one st d { Uses.none cAlu with rv := [(a.toNat, 1), (b.toNat, 1)], sel := true } (fun l => if l.th.pc.guardOk then rdV l.th a.toNat else rdV l.th b.toNat))
  | .movp d st => some (one st d { Uses.none cAlu with rp := upto 32 } (fun l => l.th.p.setWidth 32))
  | .setp a st => some (⟨st, { Uses.none cAlu with rv := [(a.toNat, 1)], wp := upto 32 }, 4, fun l => (upto 32).map fun i => (.p i, if (rdV l.th a.toNat).getLsbD i then 1 else 0)⟩)
  | .movsv d a st => some (one st d { Uses.none cAlu with rs := [a.toNat] } (fun l => rdS l.g a.toNat))
  | .movl d i st => some (one st d (Uses.none cAlu) (fun _ => i.setWidth 32))
  | .movh d i st => some (one st d { Uses.none cAlu with rv := [(d.toNat, 1)] } (fun l => i ++ (rdV l.th d.toNat).extractLsb' 0 16))
  | .cmpI32 cc p a b st => some (cmp st p a b (fun x y => relates cc.toNat x.toInt y.toInt))
  | .cmpN32 cc p a b st => some (cmp st p a b (fun x y => relates cc.toNat x.toNat y.toNat))
  | .cmpF32 cc p a b st => some (⟨st, { Uses.none cAlu with rv := [(a.toNat, 1), (b.toNat, 1)], wp := [p.toNat] }, 4, fun l => (.p p.toNat, if (cmpFloat cc.toNat (rdV l.th a.toNat).toNat (rdV l.th b.toNat).toNat).1 then 1 else 0) :: if (cmpFloat cc.toNat (rdV l.th a.toNat).toNat (rdV l.th b.toNat).toNat).2 == 0 then [] else [(.flags, (cmpFloat cc.toNat (rdV l.th a.toNat).toNat (rdV l.th b.toNat).toNat).2.setWidth 80)]⟩)
  | .cmp64 cc p a b st => some (pred st p { Uses.none cAlu with rv := [(a.toNat, 2), (b.toNat, 2)] } (fun l => if cc.toNat < 8 then relates cc.toNat (rdV64 l.th a.toNat).toInt (rdV64 l.th b.toNat).toInt else relates (cc.toNat - 8) (rdV64 l.th a.toNat).toNat (rdV64 l.th b.toNat).toNat))
  | .pand d a b m n st => some (plg st d a b (fun x y => (x ^^ (m == 1#1)) && (y ^^ (n == 1#1))))
  | .por d a b m n st => some (plg st d a b (fun x y => (x ^^ (m == 1#1)) || (y ^^ (n == 1#1))))
  | .pxor d a b m n st => some (plg st d a b (fun x y => (x ^^ (m == 1#1)) ^^ (y ^^ (n == 1#1))))
  | .pmov d a m st => some (plg st d a a (fun x _ => x ^^ (m == 1#1)))
  | .pset d st => some (pred st d (Uses.none cAlu) (fun _ => true))
  | .pclr d st => some (pred st d (Uses.none cAlu) (fun _ => false))
  | _ => none

/-- Results of F32 and packed arithmetic (R316 to R319). -/
def floatOp (i : Instr) : Option RegOp :=
  match i with
  | .fadd d a b st => some (ftri st d a b (fun m x y => addOp fF32 m (decodeVal fF32 x) (decodeVal fF32 y)))
  | .fsub d a b st => some (ftri st d a b (fun m x y => addOp fF32 m (decodeVal fF32 x) (decodeVal fF32 y).negate))
  | .fmul d a b st => some (ftri st d a b (fun m x y => mulOp fF32 m (decodeVal fF32 x) (decodeVal fF32 y)))
  | .fmin d a b st => some (ftri st d a b (fun _ x y => minmaxOp fF32 false false x y))
  | .fmax d a b st => some (ftri st d a b (fun _ x y => minmaxOp fF32 true false x y))
  | .fminnum d a b st => some (ftri st d a b (fun _ x y => minmaxOp fF32 false true x y))
  | .fmaxnum d a b st => some (ftri st d a b (fun _ x y => minmaxOp fF32 true true x y))
  | .fcopysign d a b st => some (ftri st d a b (fun _ x y => copySign x y))
  | .ffma d a b st => some (ffour st d a b (fun m x y z => fmaOp fF32 m (decodeVal fF32 x) (decodeVal fF32 y) (decodeVal fF32 z)))
  | .ffms d a b st => some (ffour st d a b (fun m x y z => fmaOp fF32 m (decodeVal fF32 x) (decodeVal fF32 y) (decodeVal fF32 z).negate))
  | .ffnma d a b st => some (ffour st d a b (fun m x y z => fmaOp fF32 m (decodeVal fF32 x).negate (decodeVal fF32 y) (decodeVal fF32 z)))
  | .ffnms d a b st => some (ffour st d a b (fun m x y z => fmaOp fF32 m (decodeVal fF32 x).negate (decodeVal fF32 y) (decodeVal fF32 z).negate))
  | .haddBf16x2 d a b st => some (ftri st d a b (fun m x y => packed2 (fun p q _ => addOp fBF16 m (decodeVal fBF16 p) (decodeVal fBF16 q)) x y 0))
  | .hmulBf16x2 d a b st => some (ftri st d a b (fun m x y => packed2 (fun p q _ => mulOp fBF16 m (decodeVal fBF16 p) (decodeVal fBF16 q)) x y 0))
  | .hfmaBf16x2 d a b st => some (ffour st d a b (fun m x y z => packed2 (fun p q r => fmaOp fBF16 m (decodeVal fBF16 p) (decodeVal fBF16 q) (decodeVal fBF16 r)) x y z))
  | .haddF16x2 d a b st => some (ftri st d a b (fun m x y => packed2 (fun p q _ => addOp fF16 m (decodeVal fF16 p) (decodeVal fF16 q)) x y 0))
  | .hmulF16x2 d a b st => some (ftri st d a b (fun m x y => packed2 (fun p q _ => mulOp fF16 m (decodeVal fF16 p) (decodeVal fF16 q)) x y 0))
  | .hfmaF16x2 d a b st => some (ffour st d a b (fun m x y z => packed2 (fun p q r => fmaOp fF16 m (decodeVal fF16 p) (decodeVal fF16 q) (decodeVal fF16 r)) x y z))
  | .hmaxBf16x2 d a b st => some (ftri st d a b (fun _ x y => packed2 (fun p q _ => minmaxOp fBF16 true false p q) x y 0))
  | .hminBf16x2 d a b st => some (ftri st d a b (fun _ x y => packed2 (fun p q _ => minmaxOp fBF16 false false p q) x y 0))
  | _ => none

/-- Results of conversions, dot products and scaling (R325 to R331). -/
def convertOp (i : Instr) : Option RegOp :=
  match i with
  | .cvt f d a m st => some (⟨st, { Uses.none cAlu with rv := [(a.toNat, spanLen (cvtCode f.toNat).src (cvtCode f.toNat).n)], wv := [(d.toNat, spanLen (cvtCode f.toNat).dst (cvtCode f.toNat).n)] }, 8, fun l => resSpan d.toNat (spanLen (cvtCode f.toNat).dst (cvtCode f.toNat).n) (convert (cvtCode f.toNat) (cvtMode m l.th.fctl) (m.getLsbD 3 || l.th.fctl.getLsbD 3) (rdSpan l.th a.toNat (spanLen (cvtCode f.toNat).src (cvtCode f.toNat).n)))⟩)
  | .dotI8x4 d a b st => some (ffour st d a b (fun _ x y z => dotInt (.int true 8) 4 false z x y))
  | .dotsI8x4 d a b st => some (ffour st d a b (fun _ x y z => dotInt (.int true 8) 4 true z x y))
  | .dotI4x8 d a b st => some (ffour st d a b (fun _ x y z => dotInt (.int true 4) 8 false z x y))
  | .dotF8ax4 d a b st => some (ffour st d a b (fun m x y z => dotFloat fF8A 4 m z x y))
  | .dotF8bx4 d a b st => some (ffour st d a b (fun m x y z => dotFloat fF8B 4 m z x y))
  | .dotL4x8 d a b st => some (ffour st d a b (fun m x y z => dotFloat .l4 8 m z x y))
  | .dotBf16x2 d a b st => some (ffour st d a b (fun m x y z => dotFloat fBF16 2 m z x y))
  | .scalef d a b st => some (fscale st d [(a.toNat, 1), (b.toNat, 1)] (fun th => scaleF (rmOf th.fctl) (rdV th a.toNat).toNat (rdV th b.toNat).toInt))
  | .fexp d a st => some (fscale st d [(a.toNat, 1)] (fun th => fexpOf (rdV th a.toNat).toNat))
  | .fmant d a st => some (fscale st d [(a.toNat, 1)] (fun th => fmantOf (rdV th a.toNat).toNat))
  | _ => none


/-- On a ready flock, `exec` answers the state in which every performing lane has its writes due at issue + latency, and nothing else has changed. -/
def RegResult (table : Instr → Option RegOp) : Prop :=
  ∀ i word e, encode i = some word → table i = some e → ∀ s sl, Ready s sl word e.uses noHold →
    ∃ mid, exec i s = .next (issued s sl e.st e.uses mid) ∧ LanesWrite (atIssue s sl) mid sl (lanesOf s sl e.uses) word e.lat e.val
/-! ### Instructions that change each performing lane's own thread -/

/-- Such an instruction: its ST field, what it uses, what holds it back, where it may stand, which performing lanes act (all of them, or
the lowest of each group), the operands for which none of its own checks fails, and how an acting lane's thread comes out. -/
structure TurnOp where
  st : BitVec 2
  uses : Uses
  hold : Lane → Bool
  fit : State → Slot → Prop
  who : List Tid → List Tid
  cond : Lane → Prop
  rel : Slot → Lane → Thread → Prop

/-- On a ready flock whose acting lanes meet the instruction's conditions, `exec` answers the state in which each of them has its new
thread, and nothing else has changed. -/
def Turns (tbl : Instr → Option TurnOp) : Prop :=
  ∀ i word e, encode i = some word → tbl i = some e → ∀ s sl, Ready s sl word e.uses e.hold → e.fit s sl →
    (∀ t ∈ e.who (lanesOf s sl e.uses), ∀ l, lane? (atIssue s sl) t sl.fid word = some l → e.cond l) →
    ∃ mid, exec i s = .next (issued s sl e.st e.uses mid) ∧
      LanesTurn (atIssue s sl) mid (e.who (lanesOf s sl e.uses)) sl.fid word (e.rel sl)

/-- An instruction that nothing holds and that may stand anywhere. -/
def turn (st : BitVec 2) (u : Uses) (cond : Lane → Prop) (rel : Slot → Lane → Thread → Prop) : TurnOp :=
  ⟨st, u, noHold, fun _ _ => True, id, cond, rel⟩

/-- A register result that some operands do not have. -/
def partly (st : BitVec 2) (u : Uses) (lat : Nat) (val : Lane → Option (List (Reg × BitVec 80))) : TurnOp :=
  turn st u (fun l => val l ≠ none) fun sl l th => ∃ ws, val l = some ws ∧
    th = { l.th with due := l.th.due ++ ws.map fun x => mkDue l.s sl.core sl.fid lat x.1 x.2 }

/-- A pair result, low word first. -/
def pairOf (d : Nat) (x : BitVec 64) : List (Reg × BitVec 80) :=
  [(.v d, (x.setWidth 32).setWidth 80), (.v (d + 1), ((x >>> 32).setWidth 32).setWidth 80)]

/-- An SFU or F64 result: the destinations and `%fstat` are pending, and the result is held until the unit delivers it (R255, R321). -/
def longResult (st : BitVec 2) (rv : List (Nat × Nat)) (d k : Nat) (f : Lane → Nat × Word) : TurnOp :=
  turn st { Uses.none cLong with rv := rv, wv := [(d, k)] } (fun _ => True) fun _ l th => ∃ tok,
    th = { l.th with pend := (l.th.pend ++ (upto k).map fun i => ⟨.v (d + i), .sfu, tok⟩) ++ [⟨.fstat, .sfu, tok⟩]
                     held := l.th.held ++ [⟨tok, resSpan d k (f l)⟩] }

/-- Two F64 pairs into a pair. -/
def dbl (st : BitVec 2) (d a b : BitVec 7) (f : Rm → Nat → Nat → Nat × Word) : TurnOp :=
  longResult st [(a.toNat, 2), (b.toNat, 2)] d.toNat 2 fun l => f (rmOf l.th.fctl) (rdSpan l.th a.toNat 2) (rdSpan l.th b.toNat 2)

/-- One F32 operand of the SFU. -/
def sfu (st : BitVec 2) (d a : BitVec 7) (f : Rm → Nat → Nat × Word) : TurnOp :=
  longResult st [(a.toNat, 1)] d.toNat 1 fun l => f (rmOf l.th.fctl) (rdV l.th a.toNat).toNat

/-- F64 arithmetic and the SFU functions (R320 to R324). -/
def longUnitOp (i : Instr) : Option TurnOp :=
  match i with
  | .dadd d a b st => some (dbl st d a b fun m x y => addOp fF64 m (decodeVal fF64 x) (decodeVal fF64 y))
  | .dsub d a b st => some (dbl st d a b fun m x y => addOp fF64 m (decodeVal fF64 x) (decodeVal fF64 y).negate)
  | .dmul d a b st => some (dbl st d a b fun m x y => mulOp fF64 m (decodeVal fF64 x) (decodeVal fF64 y))
  | .dfma d a b st => some (longResult st [(a.toNat, 2), (b.toNat, 2), (d.toNat, 2)] d.toNat 2 fun l =>
      fmaOp fF64 (rmOf l.th.fctl) (decodeVal fF64 (rdSpan l.th a.toNat 2)) (decodeVal fF64 (rdSpan l.th b.toNat 2)) (decodeVal fF64 (rdSpan l.th d.toNat 2)))
  | .dmin d a b st => some (dbl st d a b fun _ x y => minmaxOp fF64 false false x y)
  | .dmax d a b st => some (dbl st d a b fun _ x y => minmaxOp fF64 true false x y)
  | .ddiv d a b st => some (dbl st d a b fun m x y => divOp fF64 m (decodeVal fF64 x) (decodeVal fF64 y))
  | .dsqrt d a st => some (longResult st [(a.toNat, 2)] d.toNat 2 fun l => sqrtOp fF64 (rmOf l.th.fctl) (decodeVal fF64 (rdSpan l.th a.toNat 2)))
  | .rcp d a st => some (sfu st d a fun m x => sfuRcp m x)
  | .rsqrt d a st => some (sfu st d a fun _ x => sfuRsqrt x)
  | .sqrt d a st => some (sfu st d a fun m x => sfuSqrt m x)
  | .log2 d a st => some (sfu st d a fun _ x => sfuLog2 x)
  | .exp2 d a st => some (sfu st d a fun _ x => sfuExp2 x)
  | .sin d a st => some (sfu st d a fun _ x => sfuTrig false x)
  | .cos d a st => some (sfu st d a fun _ x => sfuTrig true x)
  | .tanh d a st => some (sfu st d a fun _ x => sfuTanh x)
  | _ => none
/-- The special registers that a lane reads by number, outside those that read as nothing (R124, R125, R289). -/
def specialValue (l : Lane) (n : Nat) : Option Word :=
  match n with
  | 0 => some (BitVec.ofNat 32 l.tid.lane)
  | 1 => some (BitVec.ofNat 32 l.tid.group)
  | 2 => some (BitVec.ofNat 32 (32 * l.tid.group + l.tid.lane))
  | 3 => some (BitVec.ofNat 32 l.tm.x)
  | 4 => some (BitVec.ofNat 32 l.tm.y)
  | 5 => some (BitVec.ofNat 32 l.tm.z)
  | 6 => some (BitVec.ofNat 32 l.g.role)
  | 7 => some (BitVec.ofNat 32 l.tm.core)
  | 8 => some (BitVec.ofNat 32 (l.tm.core / 4))
  | 9 => some (BitVec.ofNat 32 (l.tm.core / 256))
  | 10 => some (BitVec.ofNat 32 l.g.quad)
  | 16 => some l.th.fctl
  | 17 => some l.th.fstat
  | 18 => some l.th.gmask
  | 24 => some (BitVec.ofNat 32 l.tm.world)
  | 25 => some (BitVec.ofNat 32 l.tm.nworld)
  | 26 => some (BitVec.ofNat 32 l.tm.view)
  | 27 => some (BitVec.ofNat 32 (match l.tm.family.bind (family? l.s) with | some f => f.age | none => 0))
  | 28 => some (BitVec.ofNat 32 ((match l.tm.family.bind (family? l.s) with | some f => f.age | none => 0) / 2 ^ 32))
  | 29 => some (BitVec.ofNat 32 (match l.tm.family.bind (family? l.s) with | some f => f.restarts | none => 0))
  | 32 => some (BitVec.ofNat 32 l.s.time)
  | 33 => some (match l.th.dtime with | some x => x | none => BitVec.ofNat 32 (l.s.time / 2 ^ 32))
  | 40 => some (match (if inRoutineCode l.th then none else regionOf l.tm l.th.pc.off) with | some r => BitVec.ofNat 32 r | none => 0xFFFFFFFF#32)
  | 41 => match l.th.routine with | some r => some r.resume.off | none => none
  | 48 => some (l.th.cause.setWidth 32)
  | 49 => some l.th.tvalLo
  | 50 => some l.th.tvalHi
  | _ => none

/-- The latch of R125: a read of the low half of device time keeps the high half for the next read of it. -/
def timeLatched (n : Nat) (l : Lane) : Option Word :=
  if n = 32 then some (BitVec.ofNat 32 (l.s.time / 2 ^ 32)) else if n = 33 then none else l.th.dtime

/-- Reads and writes of special registers and the registers that report state (R229, R302, R353, R367, R369, R373, R409). -/
def specialOp (i : Instr) : Option TurnOp :=
  match i with
  | .movsRead d a st => some (turn st { Uses.none cAlu with wv := [(d.toNat, 1)], fst := a.toNat == 17 } (fun l => specialValue l a.toNat ≠ none)
      fun sl l th => ∃ x, specialValue l a.toNat = some x ∧
        th = { l.th with dtime := timeLatched a.toNat l, due := l.th.due ++ [mkDue l.s sl.core sl.fid 4 (.v d.toNat) (x.setWidth 80)] })
  | .movsWrite d a st => some (partly st { Uses.none cAlu with rv := [(d.toNat, 1)], fst := a.toNat == 17 } 4 fun l =>
      if a.toNat = 16 then (if (rdV l.th d.toNat).toNat % 8 < 5 then some [(.fctl, (rdV l.th d.toNat &&& 15).setWidth 80)] else none)
      else if a.toNat = 17 then some [(.fstat, (rdV l.th d.toNat &&& 127).setWidth 80)]
      else if a.toNat = 18 then some [(.gmask, (rdV l.th d.toNat).setWidth 80)] else none)
  | .setgm a st => some (partly st { Uses.none cLong with rv := [(a.toNat, 1)] } 4 fun l =>
      if (rdV l.th a.toNat).getLsbD l.tid.lane then some [(.gmask, (rdV l.th a.toNat).setWidth 80)] else none)
  | .rdpriv d a st => some (partly st { Uses.none cCtrl with wv := [(d.toNat, 1)], priv := true } 4 fun l =>
      match ctx? l.s l.tm.ctx with
      | none => none
      | some c =>
        let v := fun (x : Word) => some [(Reg.v d.toNat, x.setWidth 80)]
        match a.toNat with
        | 0 => v (BitVec.ofNat 32 c.id)
        | 1 => v (BitVec.ofNat 32 (c.pav * 65536 + c.part % 65536))
        | 2 => v (BitVec.ofNat 32 c.window)
        | 3 => v (BitVec.ofNat 32 (c.window / 2 ^ 32))
        | 4 => v c.sample
        | 5 => v c.seed
        | 6 => v (BitVec.ofNat 32 c.faultHead)
        | 7 => v (BitVec.ofNat 32 c.faultLost)
        | _ => none)
  | .perfRd d a st => some (partly st { Uses.none cCtrl with wv := [(d.toNat, 2)], rs := [a.toNat] } 4 fun l =>
      if (rdS l.g a.toNat).toNat < 12 then some (pairOf d.toNat (BitVec.ofNat 64 (l.tm.counters.getD (rdS l.g a.toNat).toNat 0))) else none)
  | .clk d st => some (partly st { Uses.none cCtrl with wv := [(d.toNat, 2)] } 4 fun l => some (pairOf d.toNat (BitVec.ofNat 64 l.s.time)))
  | .tprobe d st => some (partly st { Uses.none cCtrl with wv := [(d.toNat, 1)] } 4 fun l =>
      let f := l.tm.family.bind (family? l.s)
      some [(.v d.toNat, (BitVec.ofNat 32
        ((match f with | some x => holdCount l.s x.id | none => 0) % 1024 * 2 ^ 12 + deferCount l.s l.tm % 64 * 2 ^ 6 + viewDepth l.s l.tm.view % 8 * 2 ^ 3 +
          (if l.tm.fork.isSome then 4 else 0) + (match f with | some x => if x.state = .wounded then 2 else 0 | none => 0) + (if f.isSome then 1 else 0)) : Word).setWidth 80)])
  | .wquery d st => some (partly st { Uses.none cCtrl with wv := [(d.toNat, 1)] } 4 fun l =>
      some [(.v d.toNat, (BitVec.ofNat 32
        ((match l.tm.fork.bind (fork? l.s) with
          | some f => worldMask f (fun w => !w.discarded) * 2 ^ 24 + worldMask f (fun w => w.score.isSome || w.aborted) * 2 ^ 16
          | none => 0) + viewDepth l.s l.tm.view % 8 * 2 ^ 10 + l.tm.nworld % 16 * 2 ^ 4 + l.tm.world % 16) : Word).setWidth 80)])
  | .mxStat d st => some (partly st { Uses.none cMatrix with wv := [(d.toNat, 1)] } 4 fun l =>
      let q := l.s.matrix.filter fun m => m.core == l.tm.core && m.quad == l.g.quad
      some [(.v d.toNat, (BitVec.ofNat 32 (2 ^ 16 * q.length +
        2 ^ 8 * (((upto 8).filter fun n => q.any fun m => m.team == l.tm.id && m.tilesNamed.contains n).map (2 ^ ·)).sum +
        (((upto 8).filter fun n => match tile? l.s l.tm.core l.g.quad n with | some t => t.team == l.tm.id | none => false).map (2 ^ ·)).sum) : Word).setWidth 80)])
  | _ => none

/-- What the other forms without an effect outside the thread do: sleeptk, guard, the save record and poison (R292, R308, R357,
R358). -/
def threadOp (i : Instr) : Option TurnOp :=
  match i with
  | .sleeptk a st => some (turn st (Uses.none none) (fun l => a.toNat < l.g.regs) fun _ l th =>
      th = { l.th with nap := if pendingReg l.th (.v a.toNat) then a.toNat :: l.th.nap else l.th.nap })
  | .guard n g k st => some ⟨st, { Uses.none none with rp := [g.toNat] }, noHold, fun s sl => 0 < k.toNat ∧ k.toNat + 1 ≤ wordsLeft (posOf s sl) ∧ (posOf s sl).guardLeft = 0 ∧
        ∀ j < k.toNat, ∀ w, fetchWord s (headTeam sl) ((posOf s sl).off + BitVec.ofNat 32 (4 * (j + 1))) = some w → spanForbids w = false,
      id, fun _ => True, fun _ l th =>
      th = { l.th with pc := { l.th.pc with guardLeft := k.toNat + 1, guardOk := rdP l.th g.toNat ^^ (n == 1#1), guardPred := g, guardNeg := n == 1#1 } }⟩
  | .sleep a st => some (turn st { Uses.none cCtrl with rs := [a.toNat], ban := true } (fun l => rdS l.g a.toNat = 0) fun _ l th => th = l.th)
  | .rrec d a st => some (turn st { Uses.none cCtrl with wv := [(d.toNat, 1)], rs := [a.toNat] }
      (fun l => l.th.routine.isSome ∧ (rdS l.g a.toNat).toNat % 4 = 0 ∧ (rdS l.g a.toNat).toNat < 0x500) fun _ l th => ∃ tok x,
        th = { l.th with pend := l.th.pend ++ [⟨.v d.toNat, .load, tok⟩], held := l.th.held ++ [⟨tok, [(.v d.toNat, x)]⟩] } ∧
        (0x400 ≤ (rdS l.g a.toNat).toNat ∨ (inRoutine l.th .entry ∧ l.g.record.isSome) → x = (recWord l (rdS l.g a.toNat).toNat).setWidth 80))
  | .rpoison a st => some ⟨st, { Uses.none cCtrl with rs := (upto 4).map (a.toNat + ·) },
      fun l => ((maskRegs (rdS l.g (a.toNat + 3) ++ rdS l.g (a.toNat + 2) ++ rdS l.g (a.toNat + 1) ++ rdS l.g a.toNat)).filter (· < l.g.regs)).any fun n => pendingReg l.th (.v n), fun _ _ => True, id,
      fun _ => True, fun sl l th =>
        th = { l.th with due := l.th.due ++ ((maskRegs (rdS l.g (a.toNat + 3) ++ rdS l.g (a.toNat + 2) ++ rdS l.g (a.toNat + 1) ++ rdS l.g a.toNat)).filter (· < l.g.regs)).map (fun n => mkDue l.s sl.core sl.fid 4 (.poison n) 0) }⟩
  | _ => none
/-- A taken transfer of a lane lands: a header at a word boundary, inside its routine in the code of a routine, and outside the routines of
the region table otherwise, in a trap handler too (R187, R309, R311). -/
def Lands (target : Int) (l : Lane) : Prop :=
  0 ≤ target ∧ target % 4 = 0 ∧ (∃ w, fetchWord l.s l.tid.team (BitVec.ofInt 32 target) = some w ∧ w.extractLsb' 26 6 = 0x3F#6) ∧
  match (if handlerOut l.th then none else l.th.routine) with
  | some r => r.start.toNat ≤ (BitVec.ofInt 32 target).toNat ∧ (BitVec.ofInt 32 target).toNat < r.start.toNat + r.len
  | none => ∀ r ∈ l.tm.regions,
      ¬((r.exitOff.toNat ≤ (BitVec.ofInt 32 target).toNat ∧ (BitVec.ofInt 32 target).toNat < r.exitOff.toNat + r.exitLen) ∨
        (r.entryOff.toNat ≤ (BitVec.ofInt 32 target).toNat ∧ (BitVec.ofInt 32 target).toNat < r.entryOff.toNat + r.entryLen))

/-- A lane takes the branch of format B: on p63 always, else where the predicate differs from `n` (R309). -/
def Takes (n : BitVec 1) (g : BitVec 6) (l : Lane) : Prop := g = 63#6 ∨ l.th.p.getLsbD g.toNat ≠ (n == 1#1)

/-- The target of format B (R285). -/
def aimB (o : BitVec 17) (l : Lane) : Int := (l.th.pc.hdr.toNat : Int) + 4 * o.toInt

/-- Branches, calls, jumps and returns: where they go from the clause's end, and what they do to the return stack (R309 to R311). -/
def transferOp (i : Instr) : Option TurnOp :=
  let u : Uses := { Uses.none cCtrl with last := true }
  match i with
  | .bra n g o st => some (turn st { u with rp := if g == 63#6 then [] else [g.toNat] } (fun l => Takes n g l → Lands (aimB o l) l)
      fun _ l th => (Takes n g l → th = { l.th with jump := some (BitVec.ofInt 32 (aimB o l)) }) ∧ (¬Takes n g l → th = l.th))
  | .call n g o st => some (turn st { u with rp := if g == 63#6 then [] else [g.toNat] }
      (fun l => Takes n g l → l.th.stack.length < 8 ∧ Lands (aimB o l) l)
      fun _ l th => (Takes n g l → th = { l.th with stack := l.th.stack ++ [nextHeader l.th.pc], jump := some (BitVec.ofInt 32 (aimB o l)) }) ∧
        (¬Takes n g l → th = l.th))
  | .jmp a st => some (turn st { u with rv := [(a.toNat, 1)] } (fun l => Lands (rdV l.th a.toNat).toNat l)
      fun _ l th => th = { l.th with jump := some (rdV l.th a.toNat) })
  | .callr a st => some (turn st { u with rv := [(a.toNat, 1)] } (fun l => l.th.stack.length < 8 ∧ Lands (rdV l.th a.toNat).toNat l)
      fun _ l th => th = { l.th with stack := l.th.stack ++ [nextHeader l.th.pc], jump := some (rdV l.th a.toNat) })
  | .ret st => some (turn st u (fun l => ∃ x, l.th.stack.getLast? = some x ∧ Lands x.toNat l)
      fun _ l th => ∃ x, l.th.stack.getLast? = some x ∧ th = { l.th with stack := l.th.stack.dropLast, jump := some x })
  | _ => none
/-- The fences of an ordering code (R159, R162): a release before a store or atomic, an acquire after a load or atomic. -/
def before (a : Access) : List Access :=
  match codeScope a.ord with | some sc => if a.op.stores then [fenceAccess (.rel sc) true (a.id + 1) a.inst a.pc] else [] | none => []
def behind (a : Access) : List Access :=
  match codeScope a.ord with | some _ => if a.op.loads then [fenceAccess .acq true (a.id + 2) a.inst a.pc] else [] | none => []

/-- An access as it joins an issue queue: nothing of it has happened yet (R157). -/
structure Fresh (l : Lane) (a : Access) : Prop where
  logged : a.logged = none
  granted : a.granted = true
  unsent : a.sent = false
  undone : a.c = none
  unmarked : a.mark = 0
  place : a.pc = l.th.pc.off
  pos : a.pos = some l.th.pc

/-- An access joins a thread's queue between the fences of its code, with its destinations pending (R108, R157). -/
def joined (th : Thread) (a : Access) (why : PendWhy) (ds : List Reg) : Thread :=
  { th with queue := th.queue ++ before a ++ [a] ++ behind a, pend := th.pend ++ ds.map fun d => ⟨d, why, a.id⟩ }

/-- Bytes of the SZ codes (R288). -/
def sizeOfSz (sz : BitVec 3) : Nat := if sz.toNat < 2 then 1 else if sz.toNat < 4 then 2 else if sz.toNat = 4 then 4 else if sz.toNat = 5 then 8 else 16

/-- The bytes of `n` registers-worth of data from register `r`, little-endian. -/
def dataOf (th : Thread) (r n : Nat) : List Byte := (upto n).map fun i => (rdV th (r + i / 4)).extractLsb' (8 * (i % 4)) 8

/-- A global access of `n` bytes at base register `b` plus `off` passes the checks of R333, is not deferred and awaits no granule. -/
structure Reaches (l : Lane) (b off n : Nat) (op : AccOp) (ord : Nat) : Prop where
  own : b = 15 → l.th.routine = none
  forms : formAddr (rdB l.tm l.th b).toNat off = some ((rdB l.tm l.th b).toNat + off)
  aligned : ((rdB l.tm l.th b).toNat + off) % n = 0
  const : ord = 6 → regionNo ((rdB l.tm l.th b).toNat + off) = 0
  host : regionNo ((rdB l.tm l.th b).toNat + off) = 2 → ∀ o d, op ≠ .atomic o d
  peer : regionNo ((rdB l.tm l.th b).toNat + off) = 1 → peerReach l.s (partOf l.s l.tm) (((rdB l.tm l.th b).toNat + off) / 2 ^ 66 % 1024) = true
  unlocked : lockHit l.s l.tm.core l.tm.ctx false op.stores ((rdB l.tm l.th b).toNat + off) n = false
  world : l.tm.fork ≠ none → regionNo ((rdB l.tm l.th b).toNat + off) = 0 ∧ ord ≠ 7
  loads : op.stores = false → regionNo ((rdB l.tm l.th b).toNat + off) = 0 → ∀ x, granuleOf l.s l.tm.ctx ((rdB l.tm l.th b).toNat + off) = some x →
    ord = 6 ∨ holderOf l.s l.tm.ctx x.1.id x.2 = l.tm.family
  stores : op.stores = true → l.tm.family = none ∧ l.tm.fork = none ∧ l.tm.view = 0 ∧
    granuleOf l.s l.tm.ctx ((rdB l.tm l.th b).toNat + off) = none

/-- How a lane's thread comes out of a global access. -/
def globalRel (b off n : Nat) (op : AccOp) (ord : Nat) (data : List Byte) (ds : List Reg) (l : Lane) (th : Thread) : Prop :=
  ∃ a, th = joined l.th a .load ds ∧ Fresh l a ∧ a.op = op ∧ a.va.toNat = (rdB l.tm l.th b).toNat + off ∧ a.size = n ∧ a.ord = ord ∧
    a.data = data ∧ a.view = (if ord = 6 then 0 else l.tm.view) ∧ a.space = spaceOf ((rdB l.tm l.th b).toNat + off) ∧ a.slot = false

/-- A load, store or atomic of format M on global memory: offset register `o`, a pair when `wide` (R332). -/
def globalForm (st : BitVec 2) (rv wv : List (Nat × Nat)) (b : BitVec 4) (o : BitVec 7) (wide : Bool) (n : Nat) (ord : BitVec 3)
    (op : AccOp) (data : Lane → List Byte) (ds : List Reg) : TurnOp :=
  let off := fun (l : Lane) => if wide then (rdV64 l.th o.toNat).toNat else (rdV l.th o.toNat).toNat
  ⟨st, { Uses.none cMem with rv := (o.toNat, if wide then 2 else 1) :: rv, wv := wv, rb := [b.toNat] },
    memHold ord.toNat (fun l => some (((rdB l.tm l.th b.toNat).toNat + off l) % 2 ^ 80)), fun _ _ => True, id,
    fun l => Reaches l b.toNat (off l) n op ord.toNat, fun _ l th => globalRel b.toNat (off l) n op ord.toNat (data l) ds l th⟩

/-- A load, store or atomic of format M on scratchpad: window w0, or wc when `b` is 1 (R340). -/
def scratchForm (st : BitVec 2) (rv wv : List (Nat × Nat)) (b : BitVec 4) (o : BitVec 7) (n : Nat) (ord : BitVec 3)
    (op : AccOp) (data : Lane → List Byte) (ds : List Reg) : TurnOp :=
  ⟨st, { Uses.none cMem with rv := (o.toNat, 1) :: rv, wv := wv }, memHold ord.toNat (fun _ => none), fun _ _ => True, id,
    fun l => (rdV l.th o.toNat).toNat % n = 0 ∧ ∃ core x, scratchAddr l.s l.tm (b == 1#4) (rdV l.th o.toNat).toNat n = .ok (core, x) ∧
      lockHit l.s (if b == 1#4 then core else l.tm.core) l.tm.ctx true op.stores x n = false,
    fun _ l th => ∃ a core x, scratchAddr l.s l.tm (b == 1#4) (rdV l.th o.toNat).toNat n = .ok (core, x) ∧
      th = joined l.th a .load ds ∧ Fresh l a ∧ a.op = op ∧ a.space = .scratch core ∧ a.pa = some x ∧ a.va.toNat = (rdV l.th o.toNat).toNat ∧
      a.size = n ∧ a.ord = ord.toNat ∧ a.data = data l ∧ a.slot = false⟩

/-- Registers that `n` bytes take from `d` on. -/
def regsFrom (d n : Nat) : List Reg := (upto ((n + 3) / 4)).map fun i => .v (d + i)

/-- Loads and stores (R339, R340). -/
def accessOp (i : Instr) : Option TurnOp :=
  match i with
  | .ld sz d b o ord st => some (globalForm st [] [(d.toNat, (sizeOfSz sz + 3) / 4)] b o false (sizeOfSz sz) ord
      (.load d.toNat (sz == 1#3 || sz == 3#3)) (fun _ => []) (regsFrom d.toNat (sizeOfSz sz)))
  | .ldw sz d b o ord st => some (globalForm st [] [(d.toNat, (sizeOfSz sz + 3) / 4)] b o true (sizeOfSz sz) ord
      (.load d.toNat (sz == 1#3 || sz == 3#3)) (fun _ => []) (regsFrom d.toNat (sizeOfSz sz)))
  | .st sz d b o ord st => some (globalForm st [(d.toNat, (sizeOfSz sz + 3) / 4)] [] b o false (sizeOfSz sz) ord
      .store (fun l => dataOf l.th d.toNat (sizeOfSz sz)) [])
  | .stw sz d b o ord st => some (globalForm st [(d.toNat, (sizeOfSz sz + 3) / 4)] [] b o true (sizeOfSz sz) ord
      .store (fun l => dataOf l.th d.toNat (sizeOfSz sz)) [])
  | .lds sz d b o ord st => some (scratchForm st [] [(d.toNat, (sizeOfSz sz + 3) / 4)] b o (sizeOfSz sz) ord
      (.load d.toNat (sz == 1#3 || sz == 3#3)) (fun _ => []) (regsFrom d.toNat (sizeOfSz sz)))
  | .sts sz d b o ord st => some (scratchForm st [(d.toNat, (sizeOfSz sz + 3) / 4)] [] b o (sizeOfSz sz) ord
      .store (fun l => dataOf l.th d.toNat (sizeOfSz sz)) [])
  | _ => none

/-- Bytes of an atomic's memory operand, and registers of its operand (R343). -/
def atomSize (op : AtomOp) : Nat := if op = .addI64 ∨ op = .casB64 then 8 else 4
def atomRegs (op : AtomOp) : Nat := if op = .casB64 then 4 else if op = .cas ∨ op = .addI64 then 2 else 1

/-- An atomic (with its old value returned), a reduction, and a scratchpad atomic (R343 to R345). -/
def atomGlobal (st : BitVec 2) (op : AtomOp) (out : Bool) (d : BitVec 7) (b : BitVec 4) (o : BitVec 7) (ord : BitVec 3) : TurnOp :=
  globalForm st [(d.toNat, atomRegs op)] (if out then [(d.toNat, atomSize op / 4)] else []) b o false (atomSize op) ord
    (.atomic op (if out then some d.toNat else none)) (fun l => dataOf l.th d.toNat (4 * atomRegs op)) (if out then regsFrom d.toNat (atomSize op) else [])
def atomScratch (st : BitVec 2) (op : AtomOp) (d : BitVec 7) (b : BitVec 4) (o : BitVec 7) (ord : BitVec 3) : TurnOp :=
  scratchForm st [(d.toNat, atomRegs op)] [(d.toNat, atomSize op / 4)] b o (atomSize op) ord
    (.atomic op (some d.toNat)) (fun l => dataOf l.th d.toNat (4 * atomRegs op)) (regsFrom d.toNat (atomSize op))

/-- The atomics, reductions and scratchpad atomics. -/
def atomicOp (i : Instr) : Option TurnOp :=
  match i with
  | .atomAddI32 d b o ord st => some (atomGlobal st .addI32 true d b o ord)
  | .atomAddF32 d b o ord st => some (atomGlobal st .addF32 true d b o ord)
  | .atomMinI32 d b o ord st => some (atomGlobal st .minI32 true d b o ord)
  | .atomMaxI32 d b o ord st => some (atomGlobal st .maxI32 true d b o ord)
  | .atomMinN32 d b o ord st => some (atomGlobal st .minN32 true d b o ord)
  | .atomMaxN32 d b o ord st => some (atomGlobal st .maxN32 true d b o ord)
  | .atomExch d b o ord st => some (atomGlobal st .exch true d b o ord)
  | .atomCas d b o ord st => some (atomGlobal st .cas true d b o ord)
  | .atomAnd d b o ord st => some (atomGlobal st .and true d b o ord)
  | .atomOr d b o ord st => some (atomGlobal st .or true d b o ord)
  | .atomXor d b o ord st => some (atomGlobal st .xor true d b o ord)
  | .atomAddI64 d b o ord st => some (atomGlobal st .addI64 true d b o ord)
  | .atomCasB64 d b o ord st => some (atomGlobal st .casB64 true d b o ord)
  | .atomAddBf16x2 d b o ord st => some (atomGlobal st .addBf16x2 true d b o ord)
  | .atomIncN32 d b o ord st => some (atomGlobal st .incN32 true d b o ord)
  | .atomDecN32 d b o ord st => some (atomGlobal st .decN32 true d b o ord)
  | .redAddI32 d b o ord st => some (atomGlobal st .addI32 false d b o ord)
  | .redAddF32 d b o ord st => some (atomGlobal st .addF32 false d b o ord)
  | .redMinI32 d b o ord st => some (atomGlobal st .minI32 false d b o ord)
  | .redMaxI32 d b o ord st => some (atomGlobal st .maxI32 false d b o ord)
  | .redMinN32 d b o ord st => some (atomGlobal st .minN32 false d b o ord)
  | .redMaxN32 d b o ord st => some (atomGlobal st .maxN32 false d b o ord)
  | .redExch d b o ord st => some (atomGlobal st .exch false d b o ord)
  | .redCas d b o ord st => some (atomGlobal st .cas false d b o ord)
  | .redAnd d b o ord st => some (atomGlobal st .and false d b o ord)
  | .redOr d b o ord st => some (atomGlobal st .or false d b o ord)
  | .redXor d b o ord st => some (atomGlobal st .xor false d b o ord)
  | .redAddI64 d b o ord st => some (atomGlobal st .addI64 false d b o ord)
  | .redCasB64 d b o ord st => some (atomGlobal st .casB64 false d b o ord)
  | .redAddBf16x2 d b o ord st => some (atomGlobal st .addBf16x2 false d b o ord)
  | .redIncN32 d b o ord st => some (atomGlobal st .incN32 false d b o ord)
  | .redDecN32 d b o ord st => some (atomGlobal st .decN32 false d b o ord)
  | .atomsAddI32 d b o ord st => some (atomScratch st .addI32 d b o ord)
  | .atomsAddF32 d b o ord st => some (atomScratch st .addF32 d b o ord)
  | .atomsMinI32 d b o ord st => some (atomScratch st .minI32 d b o ord)
  | .atomsMaxI32 d b o ord st => some (atomScratch st .maxI32 d b o ord)
  | .atomsMinN32 d b o ord st => some (atomScratch st .minN32 d b o ord)
  | .atomsMaxN32 d b o ord st => some (atomScratch st .maxN32 d b o ord)
  | .atomsExch d b o ord st => some (atomScratch st .exch d b o ord)
  | .atomsCas d b o ord st => some (atomScratch st .cas d b o ord)
  | _ => none

/-- A fence joins the queue of each performing thread (R162, R346). -/
def fenceForm (st : BitVec 2) (f : Fence) : TurnOp :=
  ⟨st, Uses.none cMem, fenceHold, fun _ _ => True, id, fun _ => True, fun _ l th => ∃ n,
    th = { l.th with queue := l.th.queue ++ [fenceAccess f false n n l.th.pc.off] }⟩

/-- The fences. -/
def orderOp (i : Instr) : Option TurnOp :=
  match i with
  | .fenceRelTeam st => some (fenceForm st (.rel .team))
  | .fenceRelCluster st => some (fenceForm st (.rel .cluster))
  | .fenceRelDevice st => some (fenceForm st (.rel .device))
  | .fenceRelSystem st => some (fenceForm st (.rel .system))
  | .fenceAcq st => some (fenceForm st (.acq))
  | .fenceFullTeam st => some (fenceForm st (.full .team))
  | .fenceFullCluster st => some (fenceForm st (.full .cluster))
  | .fenceFullDevice st => some (fenceForm st (.full .device))
  | .fenceFullSystem st => some (fenceForm st (.full .system))
  | .pfenceLc st => some (fenceForm st .pfenceLc)
  | .pfenceLt st => some (fenceForm st .pfenceLt)
  | _ => none
/-! ### Scalar and base registers (R122, R313, R314) -/

/-- A scalar instruction: its ST field, what it uses, and the scalar writes of a group as its lowest performing lane sees them. -/
structure ScalarOp where
  st : BitVec 2
  uses : Uses
  val : Lane → List (Nat × Word)

/-- The groups of the leading lanes receive scalar writes at issue + 4; every other group, and everything else, stays. -/
def ScalarsWrite (a b : State) (sl : Slot) (leaders : List Tid) (word : Word) (val : Lane → List (Nat × Word)) : Prop :=
  OnlyTeams a b ∧
  (∀ t ∈ leaders, ∀ l, lane? a t sl.fid word = some l → group? b t.team t.group = some { l.g with
    sdue := l.g.sdue ++ (val l).map fun x => mkDue a sl.core sl.fid 4 (.s x.1) (x.2.setWidth 80) }) ∧
  (∀ team g, (∀ t ∈ leaders, t.team ≠ team ∨ t.group ≠ g) → group? b team g = group? a team g) ∧
  b.teams.map (fun t => { t with groups := [] }) = a.teams.map (fun t => { t with groups := [] })

/-- On a ready flock, `exec` answers the state in which each group with a performing lane has its scalar writes on the way. -/
def ScalarResult (tbl : Instr → Option ScalarOp) : Prop :=
  ∀ i word e, encode i = some word → tbl i = some e → ∀ s sl, Ready s sl word e.uses noHold →
    ∃ mid, exec i s = .next (issued s sl e.st e.uses mid) ∧ ScalarsWrite (atIssue s sl) mid sl (groupLeaders (lanesOf s sl e.uses)) word e.val

/-- Operand B of format S: a scalar register or the immediate (R285). -/
def opB (i : BitVec 1) (b : BitVec 6) (l : Lane) : Word := if i = 1#1 then b.setWidth 32 else rdS l.g b.toNat

/-- `op sd, sa, B`. -/
def sform (st : BitVec 2) (d a b : BitVec 6) (i : BitVec 1) (f : Word → Word → Word) : ScalarOp :=
  ⟨st, { Uses.none cAlu with rs := a.toNat :: (if i == 1#1 then [] else [b.toNat]), ws := [d.toNat] }, fun l => [(d.toNat, f (rdS l.g a.toNat) (opB i b l))]⟩

/-- The scalar instructions (R313). -/
def scalarTable (i : Instr) : Option ScalarOp :=
  match i with
  | .sadd d a b i st => some (sform st d a b i fun x y => x + y)
  | .ssub d a b i st => some (sform st d a b i fun x y => x - y)
  | .smul d a b i st => some (sform st d a b i fun x y => x * y)
  | .sand d a b i st => some (sform st d a b i fun x y => x &&& y)
  | .sor d a b i st => some (sform st d a b i fun x y => x ||| y)
  | .sxor d a b i st => some (sform st d a b i fun x y => x ^^^ y)
  | .sshl d a b i st => some (sform st d a b i fun x y => x <<< (y.extractLsb' 0 8).toNat)
  | .sshr d a b i st => some (sform st d a b i fun x y => x >>> (y.extractLsb' 0 8).toNat)
  | .smin d a b i st => some (sform st d a b i fun x y => if x.toInt ≤ y.toInt then x else y)
  | .smax d a b i st => some (sform st d a b i fun x y => if x.toInt ≤ y.toInt then y else x)
  | .smov d b i st => some ⟨st, { Uses.none cAlu with rs := if i == 1#1 then [] else [b.toNat], ws := [d.toNat] }, fun l => [(d.toNat, opB i b l)]⟩
  | .sfrom d a st => some ⟨st, { Uses.none cAlu with rv := [(a.toNat, 1)], lead := 1, ws := [d.toNat] }, fun l => [(d.toNat, rdV l.th a.toNat)]⟩
  | _ => none

/-- The lowest performing lane of a flock, which stands for its team (R314). -/
def leader (s : State) (sl : Slot) (u : Uses) (word : Word) : Option Lane :=
  match minBy (fun (t : Tid) => t.lane) (lanesOf s sl u) with
  | some t => lane? (atIssue s sl) t sl.fid word
  | none => none

/-- A base instruction: what it uses, and the base written from what the leader sees. -/
structure BaseOp where
  st : BitVec 2
  uses : Uses
  dst : Nat
  val : Lane → VAddr

/-- The base instructions that write a base register (R314). -/
def baseTable (i : Instr) : Option BaseOp :=
  match i with
  | .bset d a b i st => some ⟨st, { Uses.none cAlu with rs := [a.toNat, a.toNat + 1] ++ (if i == 1#1 then [] else [b.toNat]), wb := [d.toNat] }, d.toNat,
      fun l => (opB i b l).extractLsb' 0 16 ++ rdS64 l.g a.toNat⟩
  | .badd d a b i st => some ⟨st, { Uses.none cAlu with rb := [a.toNat], rs := if i == 1#1 then [] else [b.toNat, b.toNat + 1], wb := [d.toNat] }, d.toNat,
      fun l => rdB l.tm l.th a.toNat + (if i = 1#1 then b.setWidth 80 else (rdS64 l.g b.toNat).signExtend 80)⟩
  | .bmov d a st => some ⟨st, { Uses.none cAlu with rb := [a.toNat], wb := [d.toNat] }, d.toNat, fun l => rdB l.tm l.th a.toNat⟩
  | _ => none

/-- On a ready flock, `exec` answers the state in which the team's base is on the way, at issue + 4, and nothing else differs. -/
def BaseResult : Prop :=
  ∀ i word e, encode i = some word → baseTable i = some e → ∀ s sl l, Ready s sl word e.uses noHold → leader s sl e.uses word = some l →
    exec i s = .next (issued s sl e.st e.uses (modTeam (atIssue s sl) l.tid.team fun t =>
      { t with bdue := t.bdue ++ [mkDue (atIssue s sl) sl.core sl.fid 4 (.b e.dst) (e.val l)] }))

/-- `bget` (R122, R314): in each group with a performing lane, with k = 0 the low 64 bits of the base in a scalar pair, with k = 1 its high
16 bits. -/
def BaseRead : Prop :=
  ∀ d a b st word, encode (.bget d a b st) = some word → ∀ s sl,
    let u : Uses := { Uses.none cAlu with rb := [a.toNat], ws := if b.toNat == 0 then [d.toNat, d.toNat + 1] else [d.toNat] }
    let val := fun (l : Lane) =>
      let x := rdB l.tm l.th a.toNat
      if b = 0#6 then [(d.toNat, x.extractLsb' 0 32), (d.toNat + 1, x.extractLsb' 32 32)] else [(d.toNat, (x.extractLsb' 64 16).setWidth 32)]
    Ready s sl word u noHold → ∃ mid, exec (.bget d a b st) s = .next (issued s sl st u mid) ∧
      ScalarsWrite (atIssue s sl) mid sl (groupLeaders (lanesOf s sl u)) word val

/-- `sld` (R341): the group's scalar destinations are pending, and the constant load stands in the queue of its lowest performing
lane. -/
def ScalarLoads : Prop :=
  ∀ (wide : Bool) d a b i st word, encode (if wide then .sldB64 d a b i st else .sldB32 d a b i st) = some word → ∀ s sl t l,
    let n := if wide then 8 else 4
    let off := fun (l : Lane) => if i = 1#1 then 4 * b.toNat else (rdS l.g b.toNat).toNat
    let u : Uses := { Uses.none cMem with rb := [a.toNat], rs := if i == 1#1 then [] else [b.toNat], ws := (upto (n / 4)).map (d.toNat + ·), lead := 1 }
    Ready s sl word u (memHold 6 fun l => some (((rdB l.tm l.th a.toNat).toNat + off l) % 2 ^ 80)) →
    groupLeaders (lanesOf s sl u) = [t] → lane? (atIssue s sl) t sl.fid word = some l → Reaches l a.toNat (off l) n (.scalar d.toNat) 6 →
    ∃ mid acc, exec (if wide then .sldB64 d a b i st else .sldB32 d a b i st) s = .next (issued s sl st u mid) ∧ OnlyTeams (atIssue s sl) mid ∧
      Fresh l acc ∧ acc.op = .scalar d.toNat ∧ acc.va.toNat = (rdB l.tm l.th a.toNat).toNat + off l ∧ acc.size = n ∧ acc.ord = 6 ∧ acc.view = 0 ∧
      (∃ g, group? mid t.team t.group = some g ∧ g.spend = l.g.spend ++ (upto (n / 4)).map (fun k => ⟨.s (d.toNat + k), .load, acc.id⟩) ∧ g.s = l.g.s) ∧
      thread? mid t = some { l.th with queue := l.th.queue ++ [acc] } ∧
      ∀ k, k ≠ t → thread? mid k = thread? (atIssue s sl) k

/-! ### Instructions that take their lanes out of the flock (R92, R190, R362 to R366) -/

/-- As `LanesTurn`, for lanes that also leave their flocks. -/
def LanesLeave (a b : State) (lanes : List Tid) (fid : Nat) (word : Word) (R : Lane → Thread → Prop) : Prop :=
  b = { a with teams := b.teams, nextId := b.nextId, slots := b.slots } ∧
  b.slots = a.slots.map (fun x => { x with flock := x.flock.filter fun t => !lanes.contains t }) ∧
  (∀ t ∈ lanes, ∀ l, lane? a t fid word = some l → ∃ th, thread? b t = some th ∧ R l th) ∧
  (∀ t, t ∉ lanes → thread? b t = thread? a t) ∧
  SameTeams a b

/-- As `Turns`, for instructions whose acting lanes leave the flock. -/
def Leaves (tbl : Instr → Option TurnOp) : Prop :=
  ∀ i word e, encode i = some word → tbl i = some e → ∀ s sl, Ready s sl word e.uses e.hold → e.fit s sl →
    (∀ t ∈ e.who (lanesOf s sl e.uses), ∀ l, lane? (atIssue s sl) t sl.fid word = some l → e.cond l) →
    ∃ mid, exec i s = .next (issued s sl e.st e.uses mid) ∧
      LanesLeave (atIssue s sl) mid (e.who (lanesOf s sl e.uses)) sl.fid word (e.rel sl)

/-- The context of a lane has a trap handler that the lane is outside of, and no exit routine of the lane still runs (R190). -/
def Vectors (l : Lane) : Prop :=
  (∃ c, ctx? l.s l.tm.ctx = some c ∧ c.handler ≠ 0) ∧ l.th.handler = none ∧ (inRoutine l.th .exit = false ∨ l.th.status.isSome)

/-- The lane stands at its context's handler, with the cause, `%tval` and return position saved (R190). -/
def vectored (l : Lane) (code : BitVec 8) (lo hi : Word) (ret : Pc) (th : Thread) : Prop :=
  ∃ c, ctx? l.s l.tm.ctx = some c ∧ th = { l.th with cause := code, tvalLo := lo, tvalHi := hi, tret := ret.off, wait := none, jump := none
                                                     handler := some ⟨ret, false⟩, pc := Pc.at c.handler }

/-- A pen that an offset names: aligned, in the team's allocation, and its core address (R376, R377). -/
def PenAt (l : Lane) (a : BitVec 6) (x : Nat) : Prop :=
  (rdS l.g a.toNat).toNat % 64 = 0 ∧ ∃ core, scratchAddr l.s l.tm false (rdS l.g a.toNat).toNat 64 = .ok (core, x)

/-- Nothing of a thread's stores is outstanding: its queue is empty, no store of it waits in the gate, its completion registers are
reached, and none of its pushes is queued (R162). -/
def Quiet (s : State) (t : Tid) (th : Thread) : Prop :=
  th.queue = [] ∧ (∀ e ∈ s.gate, e.tid ≠ t) ∧ (∀ q ∈ s.troughs, q.tid ≠ t) ∧ th.wctTeam ≤ s.time ∧ th.wctDevice ≤ s.time

/-- Traps, trap returns, sleeps, signal waits, pen waits and the end of an exit routine. -/
def leaveOp (i : Instr) : Option TurnOp :=
  match i with
  | .trap a st => some (turn st { Uses.none cCtrl with rs := [a.toNat] } Vectors
      fun _ l th => vectored l 20 (rdS l.g a.toNat) 0 (Pc.next l.th.pc) th)
  | .brk st => some (turn st (Uses.none cCtrl) Vectors fun _ l th => vectored l 21 0 0 l.th.pc th)
  | .tret st => some (turn st { Uses.none cCtrl with last := true } (fun l => l.th.handler.isSome ∧ inRoutine l.th .exit = false ∧ inRoutineCode l.th = false)
      fun _ l th => ∃ h, l.th.handler = some h ∧ th = { l.th with handler := none, jump := none, pc := h.ret })
  | .tretSkip st => some (turn st { Uses.none cCtrl with last := true } (fun l => l.th.handler.isSome ∧ inRoutine l.th .exit = false ∧ inRoutineCode l.th = false)
      fun _ l th => ∃ h, l.th.handler = some h ∧ th = { l.th with handler := none, jump := none, pc := if h.rebuild then h.ret else Pc.next h.ret })
  | .sleep a st => some (turn st { Uses.none cCtrl with rs := [a.toNat], ban := true } (fun l => rdS l.g a.toNat ≠ 0)
      fun _ l th => th = { l.th with wait := some (.sleep (l.s.time + (rdS l.g a.toNat).toNat)) })
  | .waitExt d a b st => some ⟨st, { Uses.none cCtrl with rv := [(d.toNat, 2)], rb := [a.toNat], rs := [b.toNat], ban := true },
      memHold 0 (fun l => some (((rdB l.tm l.th a.toNat).toNat + (rdS l.g b.toNat).toNat) % 2 ^ 80)), fun _ _ => True, id,
      fun l => l.tm.fork = none ∧ regionNo ((rdB l.tm l.th a.toNat).toNat + (rdS l.g b.toNat).toNat) = 0 ∧
        Reaches l a.toNat (rdS l.g b.toNat).toNat 8 (.waitExt (rdV64 l.th d.toNat)) 0,
      fun _ l th => ∃ acc, Fresh l acc ∧ acc.op = .waitExt (rdV64 l.th d.toNat) ∧ acc.size = 8 ∧
        acc.va.toNat = (rdB l.tm l.th a.toNat).toNat + (rdS l.g b.toNat).toNat ∧
        th = { l.th with queue := l.th.queue ++ [acc], wait := some (.waitExt acc.id) }⟩
  | .penWait a b st => some ⟨st, { Uses.none cCtrl with rs := [a.toNat, b.toNat], ban := true }, penLineBusy a.toNat, fun _ _ => True, id,
      fun l => ∃ x, PenAt l a x ∧ penBadCode (genAt l.s l.tm.core x) (penAt l.s l.tm.core x) = none ∧
        penPhase (penAt l.s l.tm.core x) = (rdS l.g b.toNat).getLsbD 0,
      fun _ l th => th = { l.th with wait := some (.pen (rdS l.g a.toNat).toNat ((rdS l.g b.toNat).getLsbD 0)) }⟩
  | .exitSave st => some (turn st { Uses.none cCtrl with last := true }
      (fun l => ∃ r, l.th.routine = some r ∧ r.kind = .exit ∧ l.th.status = none ∧ l.s.time < r.budgetEnd ∧ Quiet l.s l.tid l.th)
      fun _ l th => ∃ r, l.th.routine = some r ∧ th = { l.th with checked := checkedMode l.s l.tm r, status := some .routineOk, wait := none })
  | _ => none

/-- A pen access of a lane joins its queue (R377). -/
def penRel (a : BitVec 6) (op : AccOp) (size ord : Nat) (why : PendWhy) (ds : List Reg) (l : Lane) (th : Thread) : Prop :=
  ∃ acc x, PenAt l a x ∧ th = joined l.th acc why ds ∧ Fresh l acc ∧ acc.op = op ∧ acc.space = .scratch l.tm.core ∧ acc.pa = some x ∧
    acc.va.toNat = (rdS l.g a.toNat).toNat ∧ acc.size = size ∧ acc.ord = ord

/-- Pen updates, made once per group or by each lane, pen.test, and pen.wait on a pen whose phase differs (R376, R377). -/
def penTable (i : Instr) : Option TurnOp :=
  match i with
  | .penInit a b st => some ⟨st, { Uses.none cCtrl with rs := [a.toNat, b.toNat], lead := 1 }, noHold, fun _ _ => True, groupLeaders,
      fun l => (∃ x, PenAt l a x) ∧ 1 ≤ (rdS l.g b.toNat).toNat ∧ (rdS l.g b.toNat).toNat ≤ 255,
      fun _ l th => penRel a (.pen (.init (rdS l.g b.toNat).toNat)) 64 0 .load [] l th⟩
  | .penExpect a b st => some ⟨st, { Uses.none cCtrl with rs := [a.toNat, b.toNat], lead := 1 }, noHold, fun _ _ => True, groupLeaders,
      fun l => ∃ x, PenAt l a x,
      fun _ l th => penRel a (.pen (.expect ((rdS l.g b.toNat).extractLsb' 29 3).toNat ((rdS l.g b.toNat).extractLsb' 0 29).toNat)) 64 0 .load [] l th⟩
  | .penInval a st => some ⟨st, { Uses.none cCtrl with rs := [a.toNat], lead := 1 }, noHold, fun _ _ => True, groupLeaders,
      fun l => ∃ x, PenAt l a x, fun _ l th => penRel a (.pen .inval) 64 0 .load [] l th⟩
  | .penArrive a st => some (turn st { Uses.none cCtrl with rs := [a.toNat] } (fun l => ∃ x, PenAt l a x)
      fun _ l th => penRel a (.pen .arrive) 64 2 .load [] l th)
  | .penTest d a st => some (turn st { Uses.none cCtrl with rs := [a.toNat], wv := [(d.toNat, 1)] } (fun l => ∃ x, PenAt l a x)
      fun _ l th => penRel a (.penTest d.toNat) 4 0 .test [.v d.toNat] l th)
  | .penWait a b st => some ⟨st, { Uses.none cCtrl with rs := [a.toNat, b.toNat], ban := true }, penLineBusy a.toNat, fun _ _ => True, id,
      fun l => ∃ x, PenAt l a x ∧ penBadCode (genAt l.s l.tm.core x) (penAt l.s l.tm.core x) = none ∧
        penPhase (penAt l.s l.tm.core x) ≠ (rdS l.g b.toNat).getLsbD 0,
      fun _ l th => ∃ n, th = { l.th with queue := l.th.queue ++ [fenceAccess .acq true n n l.th.pc.off] }⟩
  | _ => none

/-- The counts and lock words that engine forms write in every performing lane (R390, R394). -/
def countTable (i : Instr) : Option TurnOp :=
  match i with
  | .rlkQ d a b st => some (partly st { Uses.none cEngine with wv := [(d.toNat, 1)], rs := [a.toNat, b.toNat], lead := 1 } 4 fun l =>
      let x := (rdS l.g a.toNat).toNat
      let n := (rdS l.g b.toNat).toNat
      if 2 ^ 18 ≤ x ∨ (n ≠ 0 ∧ l.tm.allocSize < x + n) then none
      else some [(.v d.toNat, (lockWord l.s l.tm x n).setWidth 80)])
  | .trFilled d a st => some (partly st { Uses.none cEngine with wv := [(d.toNat, 1)] } 4 fun l =>
      if qBound (qOf l.tm a.toNat) then some [(.v d.toNat, (BitVec.ofNat 32 (qFilled (qOf l.tm a.toNat)) : Word).setWidth 80)] else none)
  | .trFree d a st => some (partly st { Uses.none cEngine with wv := [(d.toNat, 1)] } 4 fun l =>
      if qBound (qOf l.tm a.toNat) then some [(.v d.toNat, (BitVec.ofNat 32 (qSlots (qOf l.tm a.toNat) - qFilled (qOf l.tm a.toNat)) : Word).setWidth 80)] else none)
  | _ => none


/-- `entry.done` (R311, R356): an unchecked thread in its entry routine with nothing pending continues at `%resume` with its return stack restored, out of its flock; its registers stay. -/
def EntriesEnd : Prop :=
  ∀ st word, encode (.entryDone st) = some word → ∀ s sl, Ready s sl word { Uses.none cCtrl with last := true } anyPending →
    (∀ t ∈ lanesOf s sl { Uses.none cCtrl with last := true }, ∀ l, lane? (atIssue s sl) t sl.fid word = some l →
      l.th.checked = false ∧ (∃ c, ctx? (atIssue s sl) l.tm.ctx = some c) ∧ ∃ r, l.th.routine = some r ∧ r.kind = .entry) →
    ∃ mid, exec (.entryDone st) s = .next (issued s sl st { Uses.none cCtrl with last := true } mid) ∧
      mid = { atIssue s sl with teams := mid.teams, slots := mid.slots, nextId := mid.nextId } ∧
      ∀ t ∈ lanesOf s sl { Uses.none cCtrl with last := true }, (∀ x ∈ mid.slots, t ∉ x.flock) ∧ ∀ l, lane? (atIssue s sl) t sl.fid word = some l →
        ∃ r th, l.th.routine = some r ∧ thread? mid t = some th ∧ th.routine = none ∧ th.pc = r.resume ∧ th.stack = r.stack ∧ th.restored = true ∧
          th.v = l.th.v ∧ th.p = l.th.p ∧ th.gmask = l.th.gmask ∧ th.handler = l.th.handler
/-! ### Collectives (R110 to R112, R370 to R375) -/

/-- The performing lanes of a flock in ascending lane order, as they see the state at issue. -/
def ordered (s : State) (sl : Slot) (u : Uses) (word : Word) : List Lane :=
  (sortBy (fun (t : Tid) => t.lane) (lanesOf s sl u)).filterMap fun t => lane? (atIssue s sl) t sl.fid word

/-- The performing lanes are the whole rendezvous of one group: one group mask names exactly them and columns without a live thread,
and no rendezvous of the group is under way; the word stands in no guard span. -/
structure WholeGroup (s : State) (sl : Slot) (u : Uses) : Prop where
  noSpan : (posOf s sl).guardLeft = 0
  some' : lanesOf s sl u ≠ []
  one : ∃ g gr m, group? (atIssue s sl) (headTeam sl) g = some gr ∧ gr.rdv = [] ∧
    (∀ t ∈ lanesOf s sl u, t.group = g ∧ m.getLsbD t.lane = true ∧ ∀ th, thread? (atIssue s sl) t = some th → th.gmask = m) ∧
    ∀ c < 32, m.getLsbD c = true → (∃ t ∈ lanesOf s sl u, t.lane = c) ∨ ∀ th, gr.threads[c]? = some th → th.life ≠ .live

/-- A collective: its ST field, what it uses, and the writes of a member from the members in lane order. -/
structure CollOp where
  st : BitVec 2
  uses : Uses
  val : List Lane → Lane → List (Reg × BitVec 80)

/-- When a whole group arrives together, `exec` answers the state in which each member receives its result 8 cycles later, pending
under WAIT X until then, and nothing else differs. -/
def Collects (tbl : Instr → Option CollOp) : Prop :=
  ∀ i word e, encode i = some word → tbl i = some e → ∀ s sl, Ready s sl word e.uses noHold → WholeGroup s sl e.uses →
    ∃ mid, exec i s = .next (issued s sl e.st e.uses mid) ∧
      LanesBecome (atIssue s sl) mid (lanesOf s sl e.uses) sl.fid word fun l =>
        { l.th with due := l.th.due ++ (e.val (ordered s sl e.uses word) l).map fun x =>
          ⟨islandOf l.tm.core, islandCycle l.s (islandOf l.tm.core) + 8, x.1, x.2, 0, true, true⟩ }

/-- Bits of the columns of the members that satisfy `p`. -/
def colBits (ms : List Lane) (p : Lane → Bool) : Word := ((ms.filter p).map fun l => l.tid.lane).foldl (fun w c => w ||| BitVec.twoPow 32 c) 0

/-- The value of the member in a column. -/
def inColumn (ms : List Lane) (f : Lane → Word) (c : Nat) : Option Word := (ms.find? fun l => l.tid.lane == c).map f

/-- A shuffle: the value of column `src`, or the own one where no member stands there. -/
def fromColumn (ms : List Lane) (f : Lane → Word) (l : Lane) (src : Int) : Word :=
  if 0 ≤ src ∧ src ≤ 31 then (inColumn ms f src.toNat).getD (f l) else f l

/-- The sum over the members that satisfy `p`. -/
def sumOf (ms : List Lane) (f : Lane → Word) (p : Lane → Bool) : Word := (ms.filter p).foldl (fun x l => x + f l) 0

/-- The first of the members' values that no other beats. -/
def bestOf (ms : List Lane) (f : Lane → Word) (beats : Int → Int → Bool) : Word :=
  match ms with
  | [] => 0
  | l :: r => r.foldl (fun x k => if beats (f k).toInt x.toInt then f k else x) (f l)

/-- The F32 sum by the pairwise tree of R372, with its flags. -/
def treeSum (ms : List Lane) (f : Lane → Word) : Nat × Word :=
  let r := addTree 5 ((upto 32).map fun c => (inColumn ms f c).map (·.toNat))
  ((r.1.headD none).getD 0, (r.2 ||| (if ms.any fun l => (decodeVal fF32 (f l).toNat).isSig then flagNV else 0)) &&& (flagNV ||| flagOF ||| flagUF ||| flagNX))

/-- Collectives that read predicate `a`, and vector registers. -/
def collP (st : BitVec 2) (a : BitVec 7) (wv : List (Nat × Nat)) (wp : List Nat) (val : List Lane → Lane → List (Reg × BitVec 80)) : CollOp :=
  ⟨st, { Uses.none cLong with rp := [a.toNat], wv := wv, wp := wp }, val⟩
def collV (st : BitVec 2) (d : BitVec 7) (rv : List (BitVec 7)) (val : List Lane → Lane → Word) : CollOp :=
  ⟨st, { Uses.none cLong with rv := rv.map fun a => (a.toNat, 1), wv := [(d.toNat, 1)] }, fun ms l => [(.v d.toNat, (val ms l).setWidth 80)]⟩

/-- The collectives (R370 to R372). -/
def collTable (i : Instr) : Option CollOp :=
  let bit := fun (b : Bool) => if b then (1 : BitVec 80) else 0
  let own := fun (a : BitVec 7) (l : Lane) => rdV l.th a.toNat
  let n := fun (b : BitVec 7) (l : Lane) => ((rdV l.th b.toNat).toNat % 32 : Int)
  match i with
  | .ballot d a st => some (collP st a [(d.toNat, 1)] [] fun ms _ => [(.v d.toNat, (colBits ms fun l => rdP l.th a.toNat).setWidth 80)])
  | .vall d a st => some (collP st a [] [d.toNat] fun ms _ => [(.p d.toNat, bit (ms.all fun l => rdP l.th a.toNat))])
  | .vany d a st => some (collP st a [] [d.toNat] fun ms _ => [(.p d.toNat, bit (ms.any fun l => rdP l.th a.toNat))])
  | .matchLanes d a st => some (collV st d [a] fun ms l => colBits ms fun k => own a k == own a l)
  | .shflIdx d a b st => some (collV st d [a, b] fun ms l => fromColumn ms (own a) l (n b l))
  | .shflUp d a b st => some (collV st d [a, b] fun ms l => fromColumn ms (own a) l (l.tid.lane - n b l))
  | .shflDown d a b st => some (collV st d [a, b] fun ms l => fromColumn ms (own a) l (l.tid.lane + n b l))
  | .shflXor d a b st => some (collV st d [a, b] fun ms l => fromColumn ms (own a) l (l.tid.lane ^^^ (n b l).toNat : Nat))
  | .redaddI32 d a st => some (collV st d [a] fun ms _ => sumOf ms (own a) fun _ => true)
  | .scanaddI32 d a st => some (collV st d [a] fun ms l => sumOf ms (own a) fun k => k.tid.lane ≤ l.tid.lane)
  | .exscanI32 d a st => some (collV st d [a] fun ms l => sumOf ms (own a) fun k => k.tid.lane < l.tid.lane)
  | .redmaxI32 d a st => some (collV st d [a] fun ms _ => bestOf ms (own a) fun x y => y < x)
  | .redminI32 d a st => some (collV st d [a] fun ms _ => bestOf ms (own a) fun x y => x < y)
  | .redaddF32 d a st => some ⟨st, { Uses.none cLong with rv := [(a.toNat, 1)], wv := [(d.toNat, 1)] }, fun ms _ =>
      (.v d.toNat, BitVec.ofNat 80 (treeSum ms (own a)).1) :: if (treeSum ms (own a)).2 == 0 then [] else [(.flags, (treeSum ms (own a)).2.setWidth 80)]⟩
  | .elect d st => some ⟨st, { Uses.none cLong with wp := [d.toNat] }, fun ms l => [(.p d.toNat, bit (ms.all fun k => l.tid.lane ≤ k.tid.lane))]⟩
  | _ => none

/-- `gsync` (R375): a whole group whose stores are all done passes at once, each thread as after an acquire fence. -/
def GroupSync : Prop :=
  ∀ st word, encode (.gsync st) = some word → ∀ s sl,
    let u : Uses := { Uses.none cCtrl with ban := true }
    Ready s sl word u noHold → WholeGroup s sl u →
    (∀ t ∈ lanesOf s sl u, ∀ th, thread? (atIssue s sl) t = some th → Quiet (atIssue s sl) t th) →
    ∃ mid, exec (.gsync st) s = .next (issued s sl st u mid) ∧
      LanesTurn (atIssue s sl) mid (lanesOf s sl u) sl.fid word fun l th => ∃ n,
        th = { l.th with queue := [fenceAccess .acq true n n l.th.pc.off] }

/-- The performing lanes are every live thread of their resident team that `mem` names, and no barrier of the team is in use. -/
def WholeTeam (s : State) (sl : Slot) (u : Uses) (mem : Tid → Group → Prop) : Prop :=
  (posOf s sl).guardLeft = 0 ∧ lanesOf s sl u ≠ [] ∧ ∃ tm, team? (atIssue s sl) (headTeam sl) = some tm ∧ tm.state = .resident ∧ tm.bars = [] ∧ tm.rdv = [] ∧
    (∀ t ∈ lanesOf s sl u, ∀ g, tm.groups[t.group]? = some g → mem t g) ∧
    ∀ t ∈ liveTids (atIssue s sl) tm.id, ∀ g, tm.groups[t.group]? = some g → mem t g → t ∈ lanesOf s sl u

/-- A barrier (R375): when every thread that it awaits arrives at once with its stores done, each passes it, past the instruction
and as after an acquire fence; `mem` says which threads it awaits. -/
def Passes (i : Instr) (word : Word) (st : BitVec 2) (mem : Tid → Group → Prop) : Prop :=
  ∀ s sl, let u : Uses := { Uses.none cCtrl with ban := true }
    Ready s sl word u noHold → WholeTeam s sl u mem →
    (∀ t ∈ lanesOf s sl u, ∀ th, thread? (atIssue s sl) t = some th → Quiet (atIssue s sl) t th) →
    ∃ mid, exec i s = .next (issued s sl st u mid) ∧
      LanesLeave (atIssue s sl) mid (lanesOf s sl u) sl.fid word fun l th => ∃ n,
        th = { l.th with pc := Pc.next l.th.pc, queue := [fenceAccess .acq true n n (Pc.next l.th.pc).off] }

/-- `bar.team` on every barrier id, and `bar.role` on every mask that holds the roles of its members. -/
def Barriers : Prop :=
  (∀ (a : BitVec 6) st word, a.toNat < 16 → encode (.barTeam a st) = some word → Passes (.barTeam a st) word st fun _ _ => True) ∧
  (∀ (a b : BitVec 6) st word s sl, b.toNat < 16 → encode (.barRole a b st) = some word → a ≠ 0 →
    (∀ tm, team? (atIssue s sl) (headTeam sl) = some tm → a.toNat < 2 ^ tm.hints.length) →
    let u : Uses := { Uses.none cCtrl with ban := true }
    Ready s sl word u noHold → WholeTeam s sl u (fun _ g => a.getLsbD g.role = true) →
    (∀ t ∈ lanesOf s sl u, ∀ th, thread? (atIssue s sl) t = some th → Quiet (atIssue s sl) t th) →
    ∃ mid, exec (.barRole a b st) s = .next (issued s sl st u mid) ∧
      LanesLeave (atIssue s sl) mid (lanesOf s sl u) sl.fid word fun l th => ∃ n,
        th = { l.th with pc := Pc.next l.th.pc, queue := [fenceAccess .acq true n n (Pc.next l.th.pc).off] })


/-! ### Clauses, troughs, tasks and worlds (R92, R196 to R229, R292, R303, R351 to R355, R361, R396) -/

/-- A clause that ends early, and the word that does nothing (R292). -/
def PlainWords : Prop :=
  (∀ st word, encode (.nop st) = some word → ∀ s sl, Ready s sl word (Uses.none none) noHold →
    exec (.nop st) s = .next (issued s sl st (Uses.none none) (atIssue s sl))) ∧
  (∀ st word, encode (.yield st) = some word → ∀ s sl, Ready s sl word (Uses.none none) noHold → lanesOf s sl (Uses.none none) ≠ [] →
    exec (.yield st) s = .next (issued s sl st (Uses.none none)
      { atIssue s sl with slots := (atIssue s sl).slots.map fun x => if x.key = sl.key then { x with yielded := true } else x }))

/-- The lanes of a list join the queue of trough `q` in ascending lane order, `val` being what a lane pushes, and their threads
come out by `R` of the number of their entry (R395, R396). -/
def Queues (a b : State) (lanes : List Tid) (fid : Nat) (word : Word) (q : Nat) (pop : Bool) (d : Nat) (val : Lane → Word)
    (R : Lane → Nat → Thread → Prop) : Prop :=
  b.troughs.take a.troughs.length = a.troughs ∧
  (b.troughs.drop a.troughs.length).map (fun x => x.tid) = sortBy (fun (t : Tid) => t.lane) lanes ∧
  LanesTurn a { b with troughs := a.troughs } lanes fid word fun l th => ∃ k, ⟨l.tid, q, pop, d, val l, k⟩ ∈ b.troughs ∧ R l k th

/-- `pop` and `push` on a bound trough (for `push`, one that is not closed): a pop's register is pending under WAIT L, a push counts
under WAIT S (R303). -/
def TroughAccess : Prop :=
  (∀ d a st word, encode (.pop d a st) = some word → ∀ s sl,
    let u : Uses := { Uses.none cAlu with wv := [(d.toNat, 1)] }
    Ready s sl word u noHold →
    (∀ t ∈ lanesOf s sl u, ∀ l, lane? (atIssue s sl) t sl.fid word = some l → qBound (qOf l.tm a.toNat) = true) →
    ∃ mid, exec (.pop d a st) s = .next (issued s sl st u mid) ∧
      Queues (atIssue s sl) mid (lanesOf s sl u) sl.fid word a.toNat true d.toNat (fun _ => 0)
        fun l k th => th = { l.th with pend := l.th.pend ++ [⟨.v d.toNat, .load, k⟩] }) ∧
  (∀ d a st word, encode (.push d a st) = some word → ∀ s sl,
    let u : Uses := { Uses.none cAlu with rv := [(a.toNat, 1)] }
    Ready s sl word u noHold →
    (∀ t ∈ lanesOf s sl u, ∀ l, lane? (atIssue s sl) t sl.fid word = some l → qBound (qOf l.tm d.toNat) = true ∧ qClosed (qOf l.tm d.toNat) = false) →
    ∃ mid, exec (.push d a st) s = .next (issued s sl st u mid) ∧
      Queues (atIssue s sl) mid (lanesOf s sl u) sl.fid word d.toNat false 0 (fun l => rdV l.th a.toNat)
        fun l k th => th = { l.th with storesOut := l.th.storesOut ++ [k] })

/-- Threads of the team have arrived at this word as `pre` says, and wait; the performing lanes arrive now. -/
structure Arriving (s : State) (sl : Slot) (u : Uses) (word : Word) (pre : List Arrival) (tm : Team) : Prop where
  noSpan : (posOf s sl).guardLeft = 0
  some' : lanesOf s sl u ≠ []
  team : team? (atIssue s sl) (headTeam sl) = some tm
  rdv : tm.rdv = if pre.isEmpty then [] else [⟨(posOf s sl).off, word, pre⟩]
  others : (pre.map fun a => a.tid).Nodup ∧ ∀ a ∈ pre, a.tid.team = tm.id ∧ a.tid ∉ lanesOf s sl u
  waiting : ∀ a ∈ pre, ∃ th, thread? (atIssue s sl) a.tid = some th ∧ th.wait = some .team ∧ th.life = .live

/-- What the lanes of a flock add to a rendezvous, in ascending lane order. -/
def arrivals (s : State) (sl : Slot) (u : Uses) (word : Word) (vals : Lane → List Word) : List Arrival :=
  (ordered s sl u word).map fun l => ⟨l.tid, 0, vals l, l.fid⟩

/-- The rendezvous once the lanes have arrived. -/
def rdvNow (s : State) (sl : Slot) (u : Uses) (word : Word) (pre : List Arrival) (vals : Lane → List Word) : Rdv :=
  ⟨(posOf s sl).off, word, pre ++ arrivals s sl u word vals⟩

/-- Every live thread of the team has arrived (R349). -/
def Assembled (s : State) (sl : Slot) (u : Uses) (word : Word) (pre : List Arrival) (tm : Team) : Prop :=
  Arriving s sl u word pre tm ∧ ∀ t ∈ liveTids (atIssue s sl) tm.id, t ∈ lanesOf s sl u ∨ ∃ a ∈ pre, a.tid = t

/-- All have arrived, with the same operands `vs`. -/
def AllHere (s : State) (sl : Slot) (u : Uses) (word : Word) (pre : List Arrival) (tm : Team) (vals : Lane → List Word) (vs : List Word) : Prop :=
  Assembled s sl u word pre tm ∧ ∀ a ∈ (rdvNow s sl u word pre vals).arrivals, a.vals = vs

/-- The threads of a rendezvous. -/
def comers (r : Rdv) : List Tid := r.arrivals.map fun a => a.tid

/-- Every thread of the list has a wait that is `w`. -/
def AllWait (s : State) (ts : List Tid) (w : Option Wait) : Prop := ∀ t ∈ ts, ∃ th, thread? s t = some th ∧ th.wait = w

/-- `tend`, `choose.best` and `wabort` before the machine's own step: each lane waits at its team's rendezvous with its operands, and
nothing else differs (R208, R227, R349). -/
def Attends (i : Instr) (word : Word) (st : BitVec 2) (u : Uses) (vals : Lane → List Word) (fit : Team → Prop) : Prop :=
  ∀ s sl pre tm, Ready s sl word u noHold → Arriving s sl u word pre tm → fit tm →
    ∃ mid, exec i s = .next (issued s sl st u mid) ∧ AllWait mid (lanesOf s sl u) (some .team) ∧
      (∃ tm', team? mid tm.id = some tm' ∧ tm'.rdv = [rdvNow s sl u word pre vals] ∧
        teamShape { tm' with rdv := [] } = teamShape { tm with rdv := [] }) ∧
      (∀ t, t ∉ lanesOf s sl u → thread? mid t = thread? (atIssue s sl) t) ∧
      mid = { atIssue s sl with teams := mid.teams, slots := (atIssue s sl).slots.map fun (x : Slot) => { x with flock := x.flock.filter fun t => !(lanesOf s sl u).contains t } }

/-- What the words of this kind use: nothing in an exit routine (R175), and scalar or vector registers. -/
def usesTeam (wv rs : List Nat) : Uses := { Uses.none cCtrl with wv := wv.map fun d => (d, 1), rs := rs, ban := true }

/-- The three arrivals that an event of the machine completes. -/
def Attending : Prop :=
  (∀ st word, encode (.tend st) = some word → Attends (.tend st) word st (usesTeam [] []) (fun _ => []) fun tm => tm.family.isSome ∧ tm.fork = none) ∧
  (∀ d a st word, encode (.chooseBest d a st) = some word → Attends (.chooseBest d a st) word st (usesTeam [d.toNat] [a.toNat])
    (fun l => [rdS l.g a.toNat]) fun tm => tm.fork.isSome) ∧
  (∀ d st word, encode (.wabort d st) = some word → Attends (.wabort d st) word st (usesTeam [d.toNat] []) (fun _ => []) fun tm => tm.fork.isSome)

/-- The record flag of a team's grid (R75). -/
def flagOfGrid (s : State) (tm : Team) (n : Nat) : Prop := ∃ g, grid? s tm.grid = some g ∧ g.record.flags.getLsbD n = true

/-- A view tag of a context, just allotted as a child of `parent` (R212). -/
def NewTag (a b : State) (tag parent ctx : Nat) : Prop :=
  (∀ v ∈ a.views, v.tag ≠ tag) ∧ tag < 8192 ∧ b.views = a.views ++ [⟨tag, parent, viewDepth a parent + 1, ctx, .live, 0⟩]

/-- `tbegin`: a family opens with its age, its anchor, its draft view and its shadow lock, and every thread goes on (R196 to R198, R351). -/
def TaskOpens : Prop :=
  ∀ a b st word, encode (.tbegin a b st) = some word → ∀ s sl pre tm c tag s1 vs,
    let u := usesTeam [] (b.toNat :: (upto 4).map (a.toNat + ·))
    let vals := fun (l : Lane) => (upto 4).map (fun i => rdS l.g (a.toNat + i)) ++ [rdS l.g b.toNat]
    let r := rdvNow s sl u word pre vals
    let x := atIssue s sl
    let m := vs.getD 3 0 ++ vs.getD 2 0 ++ vs.getD 1 0 ++ vs.getD 0 0
    let sh := (vs.getD 4 0).toNat
    Ready s sl word u noHold → AllHere s sl u word pre tm vals vs →
    flagOfGrid x tm 2 → tm.family = none → tm.fork = none → x.time < 2 ^ 58 → sh % 64 = 0 →
    sh + shadowSize tm.groups.length m ≤ tm.allocSize → ctx? x tm.ctx = some c → allotTag x c tm.view = some (tag, s1) →
    snapshotPending x r = false → lastStamp x tm.core tm.slot ≠ some (x.time / 256 % 2 ^ 50) →
    ∃ mid f, exec (.tbegin a b st) s = .next (issued s sl st u mid) ∧ mid.families = x.families ++ [f] ∧
      f.ctx = tm.ctx ∧ f.age = x.time / 256 % 2 ^ 50 * 16384 + tm.core * 16 + tm.slot ∧ f.anchor = tm.id ∧ f.state = .opened ∧ f.draft = tag ∧
      f.mask = m ∧ f.shadow = sh ∧ f.restarts = 0 ∧ f.lanes = liveTids x tm.id ∧
      NewTag x mid tag tm.view tm.ctx ∧ mid.locks = x.locks ++ [shadowLock tm m sh] ∧
      (∃ tm', team? mid tm.id = some tm' ∧ tm'.family = some f.id ∧ tm'.view = tag ∧ tm'.rdv = []) ∧
      AllWait mid (comers r) none ∧ mid.mem = x.mem

/-- `tabort`: the family of the task is wounded (R205). -/
def TaskAborts : Prop :=
  ∀ st word, encode (.tabort st) = some word → ∀ s sl pre tm f,
    let u : Uses := { usesTeam [] [] with last := true }
    Ready s sl word u noHold → AllHere s sl u word pre tm (fun _ => []) [] →
    tm.family.bind (family? (atIssue s sl)) = some f → f.state = .opened →
    ∃ mid, exec (.tabort st) s = .next (issued s sl st u mid) ∧ family? mid f.id = some { f with state := .wounded, woundSent := false } ∧
      ∀ w ∈ mid.waiters, w.family ≠ some f.id

/-- `adecl` in plain code: in each group the lowest lane reads the entry, and every performing lane waits until the set is in force
(R354); `adrop` frees a set of which no granule is held or awaited (R195, R354). -/
def SetWords : Prop :=
  (∀ a b st word, encode (.adecl a b st) = some word → ∀ s sl,
    let u : Uses := { Uses.none cCtrl with rb := [a.toNat], rs := [b.toNat], lead := 1 }
    let ts := lanesOf s sl u
    Ready s sl word u (memHold 0 (fun l => some (((rdB l.tm l.th a.toNat).toNat + (rdS l.g b.toNat).toNat) % 2 ^ 80))) →
    (∀ t ∈ ts, ∀ l, lane? (atIssue s sl) t sl.fid word = some l → l.th.routine = none ∧ l.tm.family = none ∧ l.tm.fork = none) →
    (∀ t ∈ groupLeaders ts, ∀ l, lane? (atIssue s sl) t sl.fid word = some l →
      ((rdB l.tm l.th a.toNat).toNat + (rdS l.g b.toNat).toNat) % 32 = 0 ∧ Reaches l a.toNat (rdS l.g b.toNat).toNat 32 .adecl 0 ∧
      regionNo ((rdB l.tm l.th a.toNat).toNat + (rdS l.g b.toNat).toNat) = 0) →
    ∃ mid, exec (.adecl a b st) s = .next (issued s sl st u mid) ∧
      mid = { atIssue s sl with teams := mid.teams, slots := mid.slots, nextId := mid.nextId } ∧
      ∀ t ∈ ts, ∀ l, lane? (atIssue s sl) t sl.fid word = some l → ∃ lead ∈ groupLeaders ts, ∃ acc th, lead.group = t.group ∧
        thread? mid t = some th ∧ th.wait = some (.adecl lead acc.id) ∧ acc.op = .adecl ∧ acc.size = 32 ∧
        acc.va.toNat = (rdB l.tm l.th a.toNat).toNat + (rdS l.g b.toNat).toNat ∧ th.queue = l.th.queue ++ if lead = t then [acc] else []) ∧
  (∀ a st word, encode (.adrop a st) = some word → ∀ s sl,
    let u : Uses := { Uses.none cCtrl with rs := [a.toNat], lead := 1 }
    Ready s sl word u noHold →
    (∀ t ∈ groupLeaders (lanesOf s sl u), ∀ l, lane? (atIssue s sl) t sl.fid word = some l → l.th.routine = none ∧ l.tm.family = none ∧ l.tm.fork = none ∧
      (rdS l.g a.toNat).toNat < 64 ∧ (∀ h ∈ l.s.holds, ¬(h.ctx = l.tm.ctx ∧ h.set = (rdS l.g a.toNat).toNat)) ∧
      ∀ w ∈ l.s.waiters, ¬(w.ctx = l.tm.ctx ∧ w.set = (rdS l.g a.toNat).toNat)) →
    ∃ mid, exec (.adrop a st) s = .next (issued s sl st u mid) ∧ mid = { atIssue s sl with sets := mid.sets } ∧
      ∀ x, x ∈ mid.sets ↔ x ∈ (atIssue s sl).sets ∧ ∀ t ∈ groupLeaders (lanesOf s sl u), ∀ l, lane? (atIssue s sl) t sl.fid word = some l →
        ¬(x.ctx = l.tm.ctx ∧ x.id = (rdS l.g a.toNat).toNat))

/-- `fork.w`: a fork with `k` worlds, world 0 the team itself, each with a tag of its own below the team's view; the threads wait for the
copies (R220 to R222). -/
def WorldsFork : Prop :=
  ∀ d a st word, encode (.forkW d a st) = some word → ∀ s sl pre tm c n,
    let u := usesTeam [d.toNat] [a.toNat]
    let vals := fun (l : Lane) => [rdS l.g a.toNat]
    let r := rdvNow s sl u word pre vals
    let x := atIssue s sl
    Ready s sl word u noHold → AllHere s sl u word pre tm vals [n] → (∀ t ∈ lanesOf s sl u, ∀ l, lane? x t sl.fid word = some l → rdS l.g a.toNat = n) →
    flagOfGrid x tm 3 → 1 ≤ n.toNat → n.toNat ≤ 8 → forkWaits x tm = false → viewDepth x tm.view < 4 →
    ctx? x tm.ctx = some c → (allotTag x c tm.view).isSome → viewDepth x tm.view + 1 ≤ 4 →
    ∃ mid f k, exec (.forkW d a st) s = .next (issued s sl st u mid) ∧ mid.forks = x.forks ++ [f] ∧ 1 ≤ k ∧ k ≤ n.toNat ∧
      f.worlds.map (fun w => w.idx) = upto k ∧ f.parentView = tm.view ∧ f.parentFork = tm.fork ∧ f.parentWorld = tm.world ∧ f.parentNworld = tm.nworld ∧
      f.rd = d.toNat ∧ f.copying = true ∧ f.winner = none ∧ (∃ w ∈ f.worlds, w.idx = 0 ∧ w.team = tm.id) ∧
      (∀ w ∈ f.worlds, ∃ tm', team? mid w.team = some tm' ∧ tm'.view = w.tag ∧ tm'.world = w.idx ∧ tm'.nworld = k ∧ tm'.fork = some f.id ∧
        clusterOf tm'.core = clusterOf tm.core ∧ (∃ v ∈ mid.views, v.tag = w.tag ∧ v.parent = tm.view ∧ v.state = .live)) ∧
      AllWait mid (comers r) (some .forkCopy) ∧ mid.mem = x.mem

/-- `choose.first`: the world's request stands at its fork, and its threads wait for the decision (R226). -/
def WorldAsks : Prop :=
  ∀ d st word, encode (.chooseFirst d st) = some word → ∀ s sl pre tm k f,
    let u := usesTeam [d.toNat] []
    let r := rdvNow s sl u word pre fun _ => []
    Ready s sl word u noHold → AllHere s sl u word pre tm (fun _ => []) [] → tm.fork = some k → fork? (atIssue s sl) k = some f →
    ∃ mid, exec (.chooseFirst d st) s = .next (issued s sl st u mid) ∧
      fork? mid k = some { f with
        requests := f.requests ++ [tm.world]
        worlds := f.worlds.map fun w => if w.idx = tm.world then { w with rd := d.toNat } else w } ∧ AllWait mid (comers r) (some .choose) ∧
      (∃ tm', team? mid tm.id = some tm' ∧ tm'.rdv = []) ∧
      mid = { atIssue s sl with teams := mid.teams, slots := mid.slots, forks := mid.forks }

/-- `tyield` (R361): in routines, and as a rendezvous of the team when no grid of its partition that precedes its own, or is its own, has
teams to place, the flock yields its slot at the end of the clause, and every thread goes on. -/
def TeamYields : Prop :=
  (∀ st word, encode (.tyield st) = some word → ∀ s sl,
    Ready s sl word (Uses.none cCtrl) noHold → (posOf s sl).guardLeft = 0 → lanesOf s sl (Uses.none cCtrl) ≠ [] →
    (∀ t ∈ lanesOf s sl (Uses.none cCtrl), ∀ l, lane? (atIssue s sl) t sl.fid word = some l → inRoutineCode l.th = true) →
    exec (.tyield st) s = .next (issued s sl st (Uses.none cCtrl)
      { atIssue s sl with slots := (atIssue s sl).slots.map fun x => if x.key = sl.key then { x with yielded := true } else x })) ∧
  (∀ st word, encode (.tyield st) = some word → ∀ s sl pre tm,
    let r := rdvNow s sl (Uses.none cCtrl) word pre fun _ => []
    Ready s sl word (Uses.none cCtrl) noHold → AllHere s sl (Uses.none cCtrl) word pre tm (fun _ => []) [] →
    (∀ t ∈ lanesOf s sl (Uses.none cCtrl), ∀ l, lane? (atIssue s sl) t sl.fid word = some l → l.th.routine = none) →
    (∀ own g, grid? (atIssue s sl) tm.grid = some own → g ∈ (atIssue s sl).grids → g.part = own.part → (g.id = own.id ∨ g.precedes own = true) →
      nextUnits (atIssue s sl) g 1 = []) →
    ∃ mid, exec (.tyield st) s = .next (issued s sl st (Uses.none cCtrl) mid) ∧ AllWait mid (comers r) none ∧
      (∃ x, slot? mid sl.key = some x ∧ x.yielded = true ∧ x.flock = sl.flock) ∧
      mid = { atIssue s sl with teams := mid.teams, slots := mid.slots })

/-! ### Copies, gathers and troughs (R380 to R394, R397) -/

/-- An operation as it is issued: nothing of it has moved. -/
structure Issued (op : EngOp) (k : EngKind) (tm : Team) (d : Nat) (pc : Word) : Prop where
  kind : op.kind = k
  team : op.team = tm.id
  ctx : op.ctx = tm.ctx
  core : op.core = tm.core
  view : op.view = tm.view
  rd : op.rd = d
  bases : op.bases = tm.b
  pc : op.pc = pc
  idle : op.started = false ∧ op.done = 0 ∧ op.written = 0 ∧ op.codes = [] ∧ op.ended = false ∧ op.delivered = false

/-- A thread after it has issued an operation: the status register is pending under WAIT E, and the start stands in the queue (R383). -/
def withOp (th : Thread) (op : EngOp) : Thread :=
  { th with queue := th.queue ++ [engineEntry op.id op.pc], pend := th.pend ++ [⟨.v op.rd, .engine, op.id⟩] }

/-- The four team copies. -/
def copyTable (i : Instr) : Option (EngKind × BitVec 7 × BitVec 6 × BitVec 2) :=
  match i with
  | .copyTeam d a st => some (.team, d, a, st)
  | .copyMc d a st => some (.multicast, d, a, st)
  | .copySp d a st => some (.sparse, d, a, st)
  | .copyOut d a st => some (.out, d, a, st)
  | _ => none

/-- A team copy whose groups' descriptors all pass (R385, R386): one operation with a slice per group in ascending order, pending in every
thread of the team, which goes on. -/
def CopyStarts : Prop :=
  ∀ i word k d a st, encode i = some word → copyTable i = some (k, d, a, st) → ∀ s sl pre tm,
    let u : Uses := { Uses.none cEngine with wv := [(d.toNat, 1)], rs := (upto 8).map (a.toNat + ·) }
    let r := rdvNow s sl u word pre fun l => (upto 8).map fun n => rdS l.g (a.toNat + n)
    Ready s sl word u noHold → Assembled s sl u word pre tm →
    (∀ y ∈ r.arrivals, sliceTrap (atIssue s sl) y.tid tm k y.vals = none ∧ sliceRules (atIssue s sl) y.tid tm k (sliceOf y.tid.group y.vals) = none) →
    ∃ mid op, exec i s = .next (issued s sl st u mid) ∧ mid.engines = (atIssue s sl).engines ++ [op] ∧
      Issued op k tm d.toNat (posOf s sl).off ∧ op.tids = comers r ∧
      op.descs.map Prod.fst = sortBy id (dedup ((comers r).map fun t => t.group)) ∧ (∀ x ∈ op.descs, ∃ y ∈ r.arrivals, y.tid.group = x.1 ∧ y.vals = x.2) ∧
      (∀ t ∈ lanesOf s sl u, ∀ th, thread? (atIssue s sl) t = some th → thread? mid t = some (withOp th op)) ∧ AllWait mid (comers r) none ∧
      (∃ tm', team? mid tm.id = some tm' ∧ tm'.rdv = []) ∧
      mid = { atIssue s sl with teams := mid.teams, engines := mid.engines, nextId := mid.nextId }

/-- The operations that the groups of a flock issue, one each, in the order of the groups. -/
def GroupOps (x b : State) (ts : List Tid) (word : Word) (fid : Nat) (k : EngKind) (d a : Nat) : Prop :=
  ∃ ops, b.engines = x.engines ++ ops ∧ ops.length = (groupLeaders ts).length ∧
    (∀ (n : Nat) (op : EngOp) (t : Tid), ops[n]? = some op → (groupLeaders ts)[n]? = some t → ∀ l, lane? x t fid word = some l →
      Issued op k l.tm d l.th.pc.off ∧ op.descs = [(t.group, (upto 8).map fun j => rdS l.g (a + j))] ∧ op.tids = ts.filter fun y => y.group == t.group) ∧
    (∀ t ∈ ts, ∀ th, thread? x t = some th → ∃ op ∈ ops, t ∈ op.tids ∧ thread? b t = some (withOp th op)) ∧
    (∀ t, t ∉ ts → thread? b t = thread? x t) ∧ SameTeams x b ∧
    b = { x with teams := b.teams, engines := b.engines, nextId := b.nextId }

/-- `copy.bulk` and `gath` (R391, R393): each group's lowest lane supplies the descriptor; those whose checks pass start one operation. -/
def GroupStarts : Prop :=
  (∀ d a st word, encode (.copyBulk d a st) = some word → ∀ s sl,
    let u : Uses := { Uses.none cEngine with wv := [(d.toNat, 1)], rs := (upto 8).map (a.toNat + ·), lead := 1 }
    Ready s sl word u noHold →
    (∀ t ∈ groupLeaders (lanesOf s sl u), ∀ l, lane? (atIssue s sl) t sl.fid word = some l →
      bulkTrap (atIssue s sl) t l.tm ((upto 8).map fun j => rdS l.g (a.toNat + j)) = none) →
    ∃ mid, exec (.copyBulk d a st) s = .next (issued s sl st u mid) ∧ GroupOps (atIssue s sl) mid (lanesOf s sl u) word sl.fid .bulk d.toNat a.toNat) ∧
  (∀ d a st word, encode (.gath d a st) = some word → ∀ s sl,
    let u : Uses := { Uses.none cEngine with wv := [(d.toNat, 1)], rs := (upto 8).map (a.toNat + ·), lead := 1 }
    Ready s sl word u noHold →
    (∀ t ∈ groupLeaders (lanesOf s sl u), ∀ l, lane? (atIssue s sl) t sl.fid word = some l →
      gathTrap (atIssue s sl) t l.tm ((upto 8).map fun j => rdS l.g (a.toNat + j)) = none) →
    ∃ mid, exec (.gath d a st) s = .next (issued s sl st u mid) ∧ GroupOps (atIssue s sl) mid (lanesOf s sl u) word sl.fid .gather d.toNat a.toNat)

/-- A word that one lane performs for its team (R394): on a team `tm` that meets `fit`, queue register `q` becomes `val tm`, and nothing
else differs. -/
def TeamQueue (i : Instr) (word : Word) (st : BitVec 2) (rs : List Nat) (q : Nat) (fit : Lane → Prop) (val : Lane → BitVec 64) : Prop :=
  ∀ s sl t l, let u : Uses := { Uses.none cEngine with rs := rs, lead := 2 }
    Ready s sl word u noHold → minBy (fun (x : Tid) => x.lane) (lanesOf s sl u) = some t → lane? (atIssue s sl) t sl.fid word = some l → fit l →
    exec i s = .next (issued s sl st u { atIssue s sl with
      teams := (atIssue s sl).teams.map fun (x : Team) => if x.id = t.team then { x with q := updAt q (fun _ => val l) x.q } else x })

/-- Started gathers of a team that have not ended push into queue register `q`. -/
def NoneGathers (l : Lane) (q : Nat) : Prop :=
  ∀ e ∈ l.s.engines, e.team = l.tid.team → e.kind = .gather → e.started = true → e.ended = false → gthQ ((e.descs.map Prod.snd).headD []) ≠ q

/-- `tr.bind`, `tr.unbind`, `tr.reset` and `gath.close` (R394, R397); where gathers still push, `gath.close` goes on and leaves the closing
to the last started of them. -/
def TroughWords : Prop :=
  (∀ a b st word, encode (.trBind a b st) = some word → TeamQueue (.trBind a b st) word st [b.toNat] a.toNat
    (fun l => (rdS l.g b.toNat).extractLsb' 25 7 = 0 ∧ ((rdS l.g b.toNat).extractLsb' 21 4).toNat ≤ 12 ∧ ((rdS l.g b.toNat).extractLsb' 18 3).toNat ≤ 4 ∧
      ((rdS l.g b.toNat).extractLsb' 0 18).toNat % (4 * 2 ^ ((rdS l.g b.toNat).extractLsb' 18 3).toNat) = 0 ∧
      ((rdS l.g b.toNat).extractLsb' 0 18).toNat + 2 ^ ((rdS l.g b.toNat).extractLsb' 21 4).toNat * (4 * 2 ^ ((rdS l.g b.toNat).extractLsb' 18 3).toNat) ≤ l.tm.allocSize ∧
      qBound (qOf l.tm a.toNat) = false)
    (fun l => qMake false 0 0 ((rdS l.g b.toNat).extractLsb' 21 4).toNat ((rdS l.g b.toNat).extractLsb' 18 3).toNat ((rdS l.g b.toNat).extractLsb' 0 18).toNat)) ∧
  (∀ a st word, encode (.trUnbind a st) = some word → TeamQueue (.trUnbind a st) word st [] a.toNat
    (fun l => qBound (qOf l.tm a.toNat) = true ∧ NoneGathers l a.toNat) fun _ => 0) ∧
  (∀ a st word, encode (.trReset a st) = some word → TeamQueue (.trReset a st) word st [] a.toNat
    (fun l => qBound (qOf l.tm a.toNat) = true ∧ NoneGathers l a.toNat) fun l => qCounts (qOf l.tm a.toNat) false 0 0) ∧
  (∀ a st word, encode (.gathClose a st) = some word → TeamQueue (.gathClose a st) word st [] a.toNat
    (fun l => qBound (qOf l.tm a.toNat) = true ∧ NoneGathers l a.toNat) fun l => qCounts (qOf l.tm a.toNat) true (qFilled (qOf l.tm a.toNat)) (qHead (qOf l.tm a.toNat))) ∧
  (∀ a st word, encode (.gathClose a st) = some word → ∀ s sl t l e,
    let u : Uses := { Uses.none cEngine with rs := [], lead := 2 }
    Ready s sl word u noHold → minBy (fun (x : Tid) => x.lane) (lanesOf s sl u) = some t → lane? (atIssue s sl) t sl.fid word = some l →
    qBound (qOf l.tm a.toNat) = true →
    minBy (fun (x : EngOp) => (atIssue s sl).nextId - x.order) ((atIssue s sl).engines.filter (pushesInto t.team a.toNat)) = some e →
    exec (.gathClose a st) s = .next (issued s sl st u { atIssue s sl with
      engines := (atIssue s sl).engines.map fun x => if x.id = e.id then { x with closes := true } else x }))

/-! ### Matrix forms (R398 to R409) -/

/-- A form as it enters the queue of its quadrant. -/
structure Entered (m : MatOp) (k : MatKind) (l : Lane) (d : Nat) (ps : List Word) : Prop where
  kind : m.kind = k
  unit : m.core = l.tm.core ∧ m.quad = l.g.quad
  team : m.team = l.tm.id ∧ m.group = l.tid.group
  rd : m.rd = d
  params : m.params = ps
  idle : m.started = false ∧ m.chunk = 0

/-- Its tiles are claimed for the team: those that were unclaimed at +0.0 (R399), the others as they were. -/
def ClaimsTiles (a b : State) (m : MatOp) : Prop :=
  ∀ n ∈ m.tilesNamed, ∃ t, tile? b m.core m.quad n = some t ∧ t.team = m.team ∧
    (tile? a m.core m.quad n = some t ∨ tile? a m.core m.quad n = none ∧ t.vals = List.replicate 1024 0)

/-- A thread that takes part in a form: its destinations are pending under WAIT E. -/
def withMat (th : Thread) (m : MatOp) : Thread := { th with pend := th.pend ++ m.dests.map fun d => ⟨.v d, .engine, m.tok⟩ }

/-- The forms of one quadrant: ST, destination, what they use and their scalar operands. -/
def matTable (i : Instr) : Option (MatKind × BitVec 2 × Nat × Uses × (Lane → List Word) × (List Word → Lane → Option Trap)) :=
  match i with
  | .mxRd d a st => some (.read, st, d.toNat, { Uses.none cMatrix with wv := [(d.toNat, 4)], rs := [a.toNat], lead := 1 }, fun l => [rdS l.g a.toNat], mxRdTrap)
  | .mxSt d a b st => some (.store, st, d.toNat, { Uses.none cMatrix with wv := [(d.toNat, 1)], rs := [a.toNat, b.toNat], lead := 1 },
      fun l => [rdS l.g a.toNat, rdS l.g b.toNat], mxStTrap)
  | .mxLd d a b st => some (.load, st, d.toNat, { Uses.none cMatrix with wv := [(d.toNat, 1)], rs := [a.toNat, b.toNat], lead := 1 },
      fun l => [rdS l.g a.toNat, rdS l.g b.toNat], mxStTrap)
  | .mxClr a st => some (.clear, st, 0, { Uses.none cMatrix with rs := [a.toNat], lead := 1 }, fun l => [rdS l.g a.toNat], mxClrTrap)
  | _ => none

/-- A form of one group enters the queue of its quadrant when its operands are legal, its tiles are its team's or unclaimed, and, for
`mx.clr`, its mask names a tile: one entry per group, in the order of the groups (R399, R400). -/
def MatForms : Prop :=
  ∀ i word k st d u ps chk, encode i = some word → matTable i = some (k, st, d, u, ps, chk) → ∀ s sl,
    Ready s sl word u matHold →
    (∀ t ∈ groupLeaders (lanesOf s sl u), ∀ l, lane? (atIssue s sl) t sl.fid word = some l → chk (ps l) l = none ∧
      (∀ m, Entered m k l d (ps l) → (k = .clear → m.tilesNamed ≠ []) ∧ ∀ n ∈ m.tilesNamed, tileTaken (atIssue s sl) l.tm.core l.g.quad l.tm.id n = false)) →
    ∃ mid ms, exec i s = .next (issued s sl st u mid) ∧ mid.matrix = (atIssue s sl).matrix ++ ms ∧ ms.length = (groupLeaders (lanesOf s sl u)).length ∧
      (∀ (n : Nat) (m : MatOp) (t : Tid), ms[n]? = some m → (groupLeaders (lanesOf s sl u))[n]? = some t → ∀ l, lane? (atIssue s sl) t sl.fid word = some l →
        Entered m k l d (ps l) ∧ m.tids = (lanesOf s sl u).filter (fun y => y.group == t.group) ∧ ClaimsTiles (atIssue s sl) mid m) ∧
      (∀ t ∈ lanesOf s sl u, ∀ th, thread? (atIssue s sl) t = some th → ∃ m ∈ ms, t ∈ m.tids ∧ thread? mid t = some (withMat th m)) ∧
      (∀ t, t ∉ lanesOf s sl u → thread? mid t = thread? (atIssue s sl) t) ∧ SameTeams (atIssue s sl) mid ∧
      mid = { atIssue s sl with teams := mid.teams, matrix := mid.matrix, tiles := mid.tiles, nextId := mid.nextId }

/-- `mx.mma` (R403 to R406): when a whole group arrives with one format word and a parameter block that passes, one operation enters the
queue with the group's register operands, its tile is claimed, its destination is pending in every member, and the group goes on. -/
def MatMultiplies : Prop :=
  ∀ d a b st word, encode (.mxMma d a b st) = some word → ∀ s sl w ps l0,
    let u : Uses := { Uses.none cMatrix with rv := [(a.toNat, 1)], wv := [(d.toNat, 1)], rs := (upto 8).map (b.toNat + ·) }
    Ready s sl word u (fun l => (mmaRegs a.toNat b.toNat l).any fun n => pendingReg l.th (.v n)) → WholeGroup s sl u →
    l0 ∈ ordered s sl u word → ps = ((upto 8).map fun n => rdS l0.g (b.toNat + n)) →
    (∀ t ∈ lanesOf s sl u, ∀ l, lane? (atIssue s sl) t sl.fid word = some l → rdV l.th a.toNat = w ∧
      mmaEarly a.toNat b.toNat l = none ∧ ∀ n ∈ mmaRegs a.toNat b.toNat l, l.th.poison.getLsbD n = false) →
    mmaTrap (atIssue s sl) l0.tm l0.g w ps = none → (matQueue (atIssue s sl) l0.tm.core l0.g.quad).length < 8 →
    ∃ mid m, exec (.mxMma d a b st) s = .next (issued s sl st u mid) ∧ mid.matrix = (atIssue s sl).matrix ++ [m] ∧
      m.kind = .mma ∧ m.core = l0.tm.core ∧ m.quad = l0.g.quad ∧ m.team = l0.tm.id ∧ m.group = l0.tid.group ∧ m.rd = d.toNat ∧ m.word = w ∧ m.params = ps ∧
      m.started = false ∧ m.tids = sortBy (fun (t : Tid) => t.lane) (lanesOf s sl u) ∧ ClaimsTiles (atIssue s sl) mid m ∧
      (isReg ps false = true → m.regsA = (ordered s sl u word).map fun l => (l.tid.lane, (upto 16).map fun n => rdV l.th (opOff ps false + n))) ∧
      (isReg ps true = true → m.regsB = (ordered s sl u word).map fun l => (l.tid.lane, (upto 16).map fun n => rdV l.th (opOff ps true + n))) ∧
      LanesTurn (atIssue s sl) { mid with matrix := (atIssue s sl).matrix, tiles := (atIssue s sl).tiles } (lanesOf s sl u) sl.fid word fun l th => th = withMat l.th m

/-! ### Work and system words (R38, R113, R118, R136, R240, R359, R360, R363, R367 to R369) -/

/-- `launch` (R225, R359): deferred in a world or a task with room; elsewhere queued at the controller, which takes it at once when it
can and the record passes, and for which the lane else waits. -/
def Launches : Prop :=
  ∀ a b st word, encode (.launch a b st) = some word → ∀ s sl t l,
    let u : Uses := { Uses.none cCtrl with rb := [a.toNat], rs := [b.toNat], lead := 1, ban := true }
    let x := atIssue s sl
    let va := (rdB l.tm l.th a.toNat).toNat + (rdS l.g b.toNat).toNat
    let w : LaunchWait := ⟨t, l.tm.ctx, BitVec.ofNat 80 va, x.nextId, none, false, l.th.pc.off⟩
    let y := { x with nextId := x.nextId + 1, launches := x.launches ++ [w] }
    Ready s sl word u fenceHold → groupLeaders (lanesOf s sl u) = [t] → lane? x t sl.fid word = some l →
    va % 256 = 0 → va < 2 ^ 76 →
    (defers l.tm = true → deferCount x l.tm < deferCap x l.tm →
      exec (.launch a b st) s = .next (issued s sl st u
        { x with deferred := x.deferred ++ [⟨t, (deferKey l.tm).1, (deferKey l.tm).2, 1, BitVec.ofNat 80 va, 0, none, l.th.pc.off⟩] })) ∧
    (defers l.tm = false → ∀ c, ctx? x l.tm.ctx = some c → launchReady y w c = false →
      ∃ mid, exec (.launch a b st) s = .next (issued s sl st u mid) ∧
        LanesLeave x { mid with launches := x.launches } [t] sl.fid word (fun k th => th = { k.th with wait := some (.launch w.addr) }) ∧
        mid.launches = x.launches ++ [w]) ∧
    (defers l.tm = false → ∀ c r z, ctx? x l.tm.ctx = some c → launchReady y w c = true → (∀ k ∈ x.launches, k.seq < x.nextId) →
      validate y c w.addr = (.ok r, z) → r.record.waitOn = 0 →
      ∃ mid g, exec (.launch a b st) s = .next (issued s sl st u mid) ∧ mid.grids.map (fun k => k.id) = z.grids.map (fun k => k.id) ++ [g.id] ∧
        (g.id ∉ z.grids.map (fun k => k.id) → grid? mid g.id = some g) ∧ g.ctx = c.id ∧ g.addr = w.addr ∧ g.record = r.record.kept ∧ g.seq = z.launchSeq ∧
        g.ready = true ∧ g.next = 0 ∧ g.total = r.record.x * r.record.y * r.record.z ∧ mid.launchSeq = z.launchSeq + 1 ∧ mid.sets = r.sets ∧
        (∀ k ∈ mid.launches, k.seq ≠ w.seq))

/-- `exit` (R113, R114, R426): the performing lanes retire (provisionally in an open task) and leave their flocks; a group whose threads
have all retired frees its registers.  In a world or a task some thread of the team goes on (R115). -/
def ThreadsExit : Prop :=
  ∀ st word, encode (.exit st) = some word → ∀ s sl tm,
    let u : Uses := { Uses.none cCtrl with last := true, ban := true }
    let x := atIssue s sl
    let ts := lanesOf s sl u
    Ready s sl word u exitHold → team? x (headTeam sl) = some tm → ts ≠ [] → tm.rdv = [] → tm.bars = [] → (∀ g ∈ tm.groups, g.rdv = []) →
    (defers tm = true → ∃ t ∈ liveTids x tm.id, t ∉ ts) →
    ∃ mid tm', exec (.exit st) s = .next (issued s sl st u mid) ∧ team? mid tm.id = some tm' ∧
      (∀ t ∈ ts, ∀ th, thread? x t = some th → thread? mid t = some { th with life := if tm.family.isSome then .provisional else .retired, jump := none }) ∧
      (∀ t, t ∉ ts → thread? mid t = thread? x t) ∧
      (∀ g ∈ tm'.groups, g.retired = g.threads.all fun th => th.life == .retired) ∧
      mid = { x with teams := mid.teams, slots := x.slots.map fun (k : Slot) => { k with flock := k.flock.filter fun t => !ts.contains t } }

/-- `exit.succ` (R118, R119, R360) of one lane outside tasks and worlds: the record passes, the team names it, and the lane retires. -/
def ThreadExitsTo : Prop :=
  ∀ a b st word, encode (.exitSucc a b st) = some word → ∀ s sl t l c r z,
    let u : Uses := { Uses.none cCtrl with last := true, rb := [a.toNat], rs := [b.toNat], priv := true, ban := true }
    let x := atIssue s sl
    let va := (rdB l.tm l.th a.toNat).toNat + (rdS l.g b.toNat).toNat
    Ready s sl word u exitHold → lanesOf s sl u = [t] → lane? x t sl.fid word = some l → l.tm.rdv = [] → l.tm.bars = [] → (∀ g ∈ l.tm.groups, g.rdv = []) →
    va % 256 = 0 → va < 2 ^ 80 → l.tm.family = none → l.tm.fork = none → (l.tm.succ = none ∨ l.tm.succ = some (BitVec.ofNat 80 va)) →
    ctx? x l.tm.ctx = some c → readRecord x c va = (.ok r, z) → succBad z l.tm c r.record = none → z.teams = x.teams → z.slots = x.slots →
    ∃ mid tm', exec (.exitSucc a b st) s = .next (issued s sl st u mid) ∧ team? mid t.team = some tm' ∧ tm'.succ = some (BitVec.ofNat 80 va) ∧
      thread? mid t = some { l.th with life := .retired, jump := none } ∧ (∀ k, k ≠ t → thread? mid k = thread? x k) ∧
      mid = { z with teams := mid.teams, slots := z.slots.map fun (k : Slot) => { k with flock := k.flock.filter fun y => y ≠ t } }

/-- `sig.host` (R38, R225, R363) by the lowest lane of a group: deferred in a world or a task with room, else a signal of the context's vector that waits
for the earlier stores of the group's performing lanes. -/
def Signals : Prop :=
  ∀ a st word, encode (.sigHost a st) = some word → ∀ s sl t l,
    let u : Uses := { Uses.none cCtrl with rs := [a.toNat], lead := 1 }
    let x := atIssue s sl
    let i := rdS l.g a.toNat
    Ready s sl word u noHold → groupLeaders (lanesOf s sl u) = [t] → lane? x t sl.fid word = some l →
    (defers l.tm = true → deferCount x l.tm < deferCap x l.tm →
      exec (.sigHost a st) s = .next (issued s sl st u
        { x with deferred := x.deferred ++ [⟨t, (deferKey l.tm).1, (deferKey l.tm).2, 0, 0, i, none, l.th.pc.off⟩] })) ∧
    (defers l.tm = false → ∀ c, ctx? x l.tm.ctx = some c → i.toNat < c.vecCount →
      exec (.sigHost a st) s = .next (issued s sl st u { x with host := { x.host with sigs := x.host.sigs ++ [(lanesOf s sl u, c.msix, c.vecBase + i.toNat)] } }))

/-- `wrpriv` (R367) by the lowest lane of a group, of every register that may be written: the two halves of the watchdog window (a window of 0 counts as
2^24, R32), the sampling period and the sampling seed, with which the context's samplers start again (R239). -/
def PrivWrites : Prop :=
  ∀ d a st word, encode (.wrpriv d a st) = some word → ∀ s sl t l c,
    let u : Uses := { Uses.none cCtrl with rv := [(d.toNat, 1)], priv := true, lead := 1 }
    let x := atIssue s sl
    let v := rdV l.th d.toNat
    let others := x.observe.samplers.filter fun k => k.ctx ≠ c.id
    Ready s sl word u noHold → groupLeaders (lanesOf s sl u) = [t] → lane? x t sl.fid word = some l → ctx? x l.tm.ctx = some c →
    (a = 2 → ∃ mid, exec (.wrpriv d a st) s = .next (issued s sl st u mid) ∧ ctx? mid c.id = some { c with wdLo := v } ∧
      mid = { x with contexts := mid.contexts }) ∧
    (a = 3 → ∃ mid, exec (.wrpriv d a st) s = .next (issued s sl st u mid) ∧
      ctx? mid c.id = some { c with window := if v = 0 ∧ c.wdLo = 0 then 2 ^ 24 else v.toNat * 2 ^ 32 + c.wdLo.toNat, idle := 0, noticed := false } ∧
      mid = { x with contexts := mid.contexts }) ∧
    (a = 4 → (v = 0 ∨ 256 ≤ v.toNat ∧ v.toNat ≤ 65536) → ∃ mid new, exec (.wrpriv d a st) s = .next (issued s sl st u mid) ∧
      ctx? mid c.id = some { c with sample := v } ∧ mid.observe = { x.observe with samplers := others ++ new } ∧ (v = 0 → new = []) ∧
      (v ≠ 0 → new.map (fun k => (k.core, k.quad)) = (coresOf (usableClusters mid c.part)).flatMap fun k => (upto 4).map fun q => (k, q)) ∧
      (∀ k ∈ new, k.ctx = c.id ∧ k.lfsr = lfsrNext (if c.seed.extractLsb' 0 16 = 0 then 0xACE1 else c.seed.extractLsb' 0 16) ∧
        k.next = x.time + v.toNat + k.lfsr.toNat % v.toNat) ∧ mid = { x with contexts := mid.contexts, observe := mid.observe }) ∧
    (a = 5 → ∃ mid new, exec (.wrpriv d a st) s = .next (issued s sl st u mid) ∧
      ctx? mid c.id = some { c with seed := v } ∧ mid.observe = { x.observe with samplers := others ++ new } ∧ (c.sample = 0 → new = []) ∧
      (∀ k ∈ new, k.ctx = c.id ∧ k.lfsr = lfsrNext (if v.extractLsb' 0 16 = 0 then 0xACE1 else v.extractLsb' 0 16) ∧
        k.next = x.time + c.sample.toNat + k.lfsr.toNat % c.sample.toNat) ∧ mid = { x with contexts := mid.contexts, observe := mid.observe })

/-- The lines of `ipref`, `ipin` and `iunpin` of a lane: those that meet its range of code (R368). -/
def lineRange (l : Lane) (a b : BitVec 6) : List Nat :=
  codeLines ((l.tm.b.getD 14 0).toNat + (rdS l.g a.toNat).toNat) ((rdS l.g b.toNat).extractLsb' 0 24).toNat

/-- Every lane of the list receives `v` in `vd` at issue + 4. -/
def CountsTo (x mid : State) (ts : List Tid) (sl : Slot) (d v : Nat) : Prop :=
  ∀ t ∈ ts, ∀ th, thread? x t = some th →
    thread? mid t = some { th with due := th.due ++ [mkDue x sl.core sl.fid 4 (.v d) ((BitVec.ofNat 32 v : Word).setWidth 80)] }

/-- Code lines (R136, R368) of one group: `ipref` fetches them; `ipin` also pins those that translate while the core holds fewer than 64
pins of the level, and counts the new pins; `iunpin` releases the team's pins among them and counts those. -/
def CodeLineWords : Prop :=
  (∀ a b st word, encode (.ipref a b st) = some word → ∀ s sl t l c,
    let u : Uses := { Uses.none cCtrl with rs := [a.toNat, b.toNat], lead := 1 }
    Ready s sl word u noHold → groupLeaders (lanesOf s sl u) = [t] → lane? (atIssue s sl) t sl.fid word = some l →
    (rdS l.g b.toNat).extractLsb' 24 7 = 0 → ctx? (atIssue s sl) l.tm.ctx = some c →
    exec (.ipref a b st) s = .next (issued s sl st u (fetchLines (atIssue s sl) l.tm c (lineRange l a b)).2)) ∧
  (∀ d a b st word, encode (.ipin d a b st) = some word → ∀ s sl t l c,
    let u : Uses := { Uses.none cCtrl with wv := [(d.toNat, 1)], rs := [a.toNat, b.toNat], lead := 1 }
    let f := fetchLines (atIssue s sl) l.tm c (lineRange l a b)
    let level := ((rdS l.g b.toNat).extractLsb' 31 1).toNat
    let used := fun (p : Pin) => p.core == l.tm.core && p.level == level
    Ready s sl word u noHold → groupLeaders (lanesOf s sl u) = [t] → lane? (atIssue s sl) t sl.fid word = some l →
    (rdS l.g b.toNat).extractLsb' 24 7 = 0 → ctx? (atIssue s sl) l.tm.ctx = some c → f.2.teams = (atIssue s sl).teams → (f.2.pins.filter used).length ≤ 64 →
    ∃ mid new, exec (.ipin d a b st) s = .next (issued s sl st u mid) ∧ mid.pins = f.2.pins ++ new ∧
      (∀ p ∈ new, p.core = l.tm.core ∧ p.team = l.tm.id ∧ p.level = level ∧ p.line ∈ f.1) ∧ (mid.pins.filter used).length ≤ 64 ∧
      (∀ n ∈ f.1, (∃ p ∈ mid.pins, p.core = l.tm.core ∧ p.team = l.tm.id ∧ p.level = level ∧ p.line = n) ∨ (mid.pins.filter used).length = 64) ∧
      CountsTo (atIssue s sl) mid (lanesOf s sl u) sl d.toNat new.length ∧ mid = { f.2 with teams := mid.teams, pins := mid.pins }) ∧
  (∀ d a b st word, encode (.iunpin d a b st) = some word → ∀ s sl t l c,
    let u : Uses := { Uses.none cCtrl with wv := [(d.toNat, 1)], rs := [a.toNat, b.toNat], lead := 1 }
    let x := atIssue s sl
    let hit := fun (p : Pin) => p.core == l.tm.core && p.team == l.tm.id && p.level == ((rdS l.g b.toNat).extractLsb' 31 1).toNat &&
      (lineRange l a b).contains (p.line * 64)
    Ready s sl word u noHold → groupLeaders (lanesOf s sl u) = [t] → lane? x t sl.fid word = some l →
    (rdS l.g b.toNat).extractLsb' 24 7 = 0 → ctx? x l.tm.ctx = some c →
    ∃ mid, exec (.iunpin d a b st) s = .next (issued s sl st u mid) ∧ mid.pins = x.pins.filter (fun p => !hit p) ∧
      CountsTo x mid (lanesOf s sl u) sl d.toNat (x.pins.filter hit).length ∧ mid = { x with teams := mid.teams, pins := mid.pins })

/-- `tmark` of one lane (R240, R369): a 64-byte record of kind 2 at the head of the context's ring, or one more lost record. -/
def TraceWord : Prop :=
  ∀ d st word, encode (.tmark d st) = some word → ∀ s sl t l c,
    let u : Uses := { Uses.none cCtrl with rv := [(d.toNat, 1)] }
    let x := atIssue s sl
    Ready s sl word u noHold → lanesOf s sl u = [t] → lane? x t sl.fid word = some l → ctx? x l.tm.ctx = some c →
    (c.ringHead - c.ringTail < c.ringSize → ∃ mid, exec (.tmark d st) s = .next (issued s sl st u mid) ∧
      ctx? mid c.id = some { c with ringHead := c.ringHead + 1 } ∧
      mid.mem = Memory.writeN x.mem (c.ringBase + 64 * (c.ringHead % c.ringSize)) (leBytes 4 2 ++
        leBytes 4 (l.tm.core + l.g.quad * 1024 + sl.k * 4096 + l.tm.slot * 16384) ++ leBytes 8 x.time ++ leBytes 8 l.th.pc.off.toNat ++
        leBytes 4 (2 ^ t.lane) ++ leBytes 4 (rdV l.th d.toNat).toNat ++ leBytes 8 (2 ^ 64 - 1) ++ leBytes 4 0 ++ List.replicate 20 0) ∧
      (c.pav = 0 → mid.seals = x.seals) ∧ mid = { x with mem := mid.mem, seals := mid.seals, contexts := mid.contexts }) ∧
    (c.ringSize ≤ c.ringHead - c.ringTail → ∃ mid, exec (.tmark d st) s = .next (issued s sl st u mid) ∧
      ctx? mid c.id = some { c with ringLost := c.ringLost + 1 } ∧ mid = { x with contexts := mid.contexts })

/-! ### Steps of the machine: tasks, worlds and views (R168, R196 to R228, R421 to R426) -/

/-- `tbegin` held back by its age stamp opens its task once the stamp has moved on (R197). -/
def StampMoves : Prop :=
  ∀ s tm c tag s1 r, team? s tm.id = some tm → rdvOf s tm.id 0x2C 0 = some r → teamMet s tm.id r = true → settleTeam s tm.id = s → agree r = true →
    snapshotPending s r = false → lastStamp s tm.core tm.slot ≠ some (s.time / 256 % 2 ^ 50) → tbeginTrap s tm r = none →
    ctx? s tm.ctx = some c → allotTag s c tm.view = some (tag, s1) →
    ∃ t, exec (.tbeginStampAdvance tm.id) s = .next t ∧ ∃ f, t.families = s.families ++ [f] ∧ f.anchor = tm.id ∧ f.state = .opened ∧ f.draft = tag ∧
      f.age = s.time / 256 % 2 ^ 50 * 16384 + tm.core * 16 + tm.slot ∧ NewTag s t tag tm.view tm.ctx ∧
      lastStamp t tm.core tm.slot = some (s.time / 256 % 2 ^ 50) ∧ ∃ tm', team? t tm.id = some tm' ∧ tm'.family = some f.id ∧ tm'.view = tag

/-- A commit request of a task (R203, R208): the family is committing, its threads wait, and the commit of the draft is set for a time after
now and after every completion time of the view's stores. -/
def CommitAsked : Prop :=
  ∀ s team f x r, rdvOf s team 0x2C 1 = some r → (team? s team).bind (fun t => t.family) = some f → family? s f = some x →
    tendReady s team r = true → x.state = .opened →
    ∃ t, exec (.commitRequest team) s = .next t ∧ family? t f = some { x with state := .committing } ∧
      (∀ a ∈ r.arrivals, ∀ th, thread? s a.tid = some th → ∃ th', thread? t a.tid = some th' ∧ th'.wait = some .commit) ∧
      (∃ k, t.commits = s.commits ++ [k] ∧ k.tag = x.draft ∧ k.family = some f ∧ k.fork = none ∧ s.time < k.tc ∧
        (∀ l ∈ linesOf s x.draft, (lineRec s l).lm < k.tc) ∧ (∀ w ∈ s.waiting, resolveTag s s.views.length w.view = x.draft → w.c < k.tc) ∧
        ∀ y ∈ atomicsDue s, ∀ n, resolveTag s s.views.length y.2.view = x.draft → y.2.c = some n → n < k.tc) ∧
      t.mem = s.mem ∧ t.versions = s.versions

/-- A task's access asks for its granule (R199, R200, R203): an address in no granule and a free granule are granted, the free one to the family, with an entry
in the overflow table of the pool once 4,096 stand in the directory of the granule's home; one that another family holds makes the access wait, and wounds a
younger holder. -/
def GranuleAsked : Prop :=
  ∀ s t th a tm c f, thread? s t = some th → th.wait = some (.granule a.id) → acc? s t a.id = some a → a.granted = false →
    (∀ w ∈ s.waiters, ¬(w.tid = t ∧ w.acc = a.id)) → team? s t.team = some tm → ctx? s tm.ctx = some c → tm.family.bind (family? s) = some f →
    f.state ≠ .wounded →
    (granuleOf s tm.ctx a.va.toNat = none → a.op.stores = false →
      ∃ r, exec (.granuleRequest t a.id) s = .next r ∧ r.holds = s.holds ∧ r.waiters = s.waiters ∧ (∃ th', thread? r t = some th' ∧ th'.wait = none) ∧
        ∃ b, acc? r t a.id = some b ∧ b.granted = true) ∧
    (∀ x g, granuleOf s tm.ctx a.va.toNat = some (x, g) → holderOf s tm.ctx x.id g = none → holdCount s f.id < 512 →
      poolFull s c (newHold s c x.id g f.id) = false → a.op.stores = false →
      ∃ r, exec (.granuleRequest t a.id) s = .next r ∧ (∃ h, r.holds = s.holds ++ [h] ∧ h.ctx = tm.ctx ∧ h.set = x.id ∧ h.granule = g ∧ h.family = f.id ∧
          (h.spilled = true ↔ 4096 ≤ (s.holds.filter fun k => !k.spilled && k.home s == granuleHome s c.part x.id g).length)) ∧ (∃ th', thread? r t = some th' ∧ th'.wait = none) ∧
        ∃ b, acc? r t a.id = some b ∧ b.granted = true) ∧
    (∀ x g h y, granuleOf s tm.ctx a.va.toNat = some (x, g) → holderOf s tm.ctx x.id g = some h → h ≠ f.id → family? s h = some y →
      ∃ r, exec (.granuleRequest t a.id) s = .next r ∧ r.holds = s.holds ∧ r.waiters = s.waiters ++ [⟨tm.ctx, x.id, g, t, a.id, some f.id, f.age⟩] ∧
        family? r h = some (if f.age < y.age ∧ y.state = .opened then { y with woundSent := true } else y))

/-- A wound (R203, R205): an open family is wounded; after an accepted commit it has no effect. In the tick in which a commit inside the task took effect it waits
(R193, R230). -/
def WoundArrives : Prop :=
  ∀ s x, family? s x.id = some x → x.woundSent = true →
    (worldCommitted s x = true → exec (.wound x.id) s = .next s) ∧
    (worldCommitted s x = false → ∃ t, exec (.wound x.id) s = .next t ∧ family? t x.id = some { x with state := if x.state = .opened then .wounded else x.state, woundSent := false } ∧
      (x.state = .opened → ∀ w ∈ t.waiters, w.family ≠ some x.id))

/-- No access waits for a granule that the family holds. -/
def NoneAwaits (s : State) (f : Nat) : Prop :=
  ∀ w ∈ s.waiters, ∀ h ∈ s.holds, h.family = f → ¬(w.ctx = h.ctx ∧ w.set = h.set ∧ w.granule = h.granule)

/-- The rollback of a wounded family whose threads are all taken (R204): its draft and everything below it is dead, its holds are free, its deferred operations and
forks are gone, the other teams of the family are removed, its anchor stands outside every fork, and the family starts again with a new draft or waits for one. -/
def RollsBack : Prop :=
  ∀ s x v, family? s x.id = some x → x.state = .wounded → x.waitingTag = false → allTaken s x.id = true → view? s x.draft = some v → v.state = .live → NoneAwaits s x.id →
    ∃ t, exec (.rollback x.id) s = .next t ∧ (∀ h ∈ t.holds, h.family ≠ x.id) ∧ (∀ d ∈ t.deferred, d.family ≠ some x.id) ∧
      (∃ w, view? t x.draft = some w ∧ w.state = .dead) ∧ (∀ w ∈ t.waiting, w.view ≠ x.draft) ∧ (∀ g ∈ t.gate, g.view ≠ x.draft) ∧
      (∀ u ∈ familyTeams s x.id, u.id ≠ x.anchor → team? t u.id = none) ∧
      ((team? s x.anchor).isSome → ∃ tm, team? t x.anchor = some tm ∧ tm.world = 0 ∧ tm.nworld = 1 ∧ tm.fork = none ∧ tm.discarded = false) ∧
      ∃ y, family? t x.id = some y ∧ (y.waitingTag = true ∧ y.restarts = x.restarts ∨ y.state = .opened ∧ y.restarts = x.restarts + 1 ∧ y.draft ≠ x.draft)

/-- A rolled-back task that waited for a tag starts again from its snapshot position in a new draft view (R421). -/
def TaskStartsAgain : Prop :=
  ∀ s x tm c tag s1, family? s x.id = some x → x.waitingTag = true → team? s x.anchor = some tm → ctx? s x.ctx = some c →
    allotTag s c 0 = some (tag, s1) →
    ∃ t, exec (.taskRestart x.id) s = .next t ∧
      family? t x.id = some { x with state := .opened, draft := tag, restarts := x.restarts + 1, waitingTag := false, woundSent := false } ∧
      (∃ tm', team? t x.anchor = some tm' ∧ tm'.view = tag ∧ tm'.world = tm.world ∧ tm'.nworld = tm.nworld ∧ tm'.fork = tm.fork) ∧ NewTag s t tag 0 c.id ∧
      (tm.state = .resident → ∀ k ∈ x.lanes, k.team = tm.id → k.lane < 32 → ∀ th, thread? t k = some th →
        th.pc = Pc.at x.restartOff ∧ th.life = .live ∧ th.wait = none)

/-- The copies of a fork end (R222): every world's waiting threads receive `vd` = k, and every copy has the team's bases and queues. -/
def ForkCopied : Prop :=
  ∀ s f t0, fork? s f.id = some f → f.copying = true → f.winner = none → team? s t0.id = some t0 →
    (f.worlds.find? fun w => w.idx == 0).map (fun w => w.team) = some t0.id → (f.worlds.map fun w => w.team).Nodup → (f.worlds.map fun w => w.idx).Nodup → (∀ w ∈ f.worlds, (team? s w.team).isSome) →
    (∀ w ∈ f.worlds, w.idx ≠ 0 → w.team ≠ t0.id) →
    ∃ t, exec (.forkCopyDone f.id) s = .next t ∧ fork? t f.id = some { f with copying := false } ∧
      (∀ w ∈ f.worlds, ∃ tm, team? t w.team = some tm ∧ tm.b = (settleAll t0).b ∧ tm.q = (settleAll t0).q) ∧
      (∀ w ∈ f.worlds, ∀ k : Tid, k.lane < 32 → ∀ th, thread? t ⟨w.team, k.group, k.lane⟩ = some th → th.wait ≠ some .forkCopy ∨ th.life ≠ .live) ∧
      (∀ k th, k ∈ liveTids s t0.id → thread? s k = some th → th.wait = some .forkCopy → ∃ th', thread? t k = some th' ∧ th'.wait = none ∧
        ∃ d ∈ th'.due, d.reg = .v f.rd ∧ d.val = BitVec.ofNat 80 f.worlds.length)

/-- A request of `choose.first` reaches its fork anchor and stands there to the end of the tick; the first tick with one decides the fork (R226, R425): of several,
the lowest index; its view's commit is asked, and every other world is discarded. -/
def FirstChosen : Prop :=
  (∀ s f w, fork? s f.id = some f → f.winner = none → w ∈ f.requests → w ∉ f.reached →
    ∃ t, exec (.chooseFirstRequest f.id w) s = .next t ∧ fork? t f.id = some { f with reached := f.reached ++ [w] } ∧ t = { s with forks := t.forks }) ∧
  (∀ s f w, fork? s f.id = some f → f.worlds.find? (fun x => x.idx == w.idx) = some w → f.winner = none → f.copying = false → w.idx ∈ f.reached →
    (∀ i ∈ f.reached, w.idx ≤ i) → (f.worlds.map fun x => x.idx).Nodup →
    ∃ g, fork? (decideFork s f.id) f.id = some g ∧ g.winner = some w.idx ∧ g.requests = [] ∧
      (∀ x ∈ g.worlds, x.idx ≠ w.idx → x.discarded = true) ∧ (∃ k ∈ (decideFork s f.id).commits, k.tag = w.tag ∧ k.fork = some f.id ∧ s.time < k.tc)) ∧
  ∀ s, choiceTick s = (s.forks.map fun f => f.id).foldl decideFork s

/-- An arrival at `choose.best` or `wabort` (R227): the fork notes the score or the abort, with the register of the choice, and the threads wait; at the end of the
tick of the last world the greatest score wins, the lowest index among equals, and with every world aborted world 0's team goes on in the parent's view. -/
def BestArrives : Prop :=
  (∀ s tm f r w, team? s tm.id = some tm → bestRdv s tm.id = some r → tm.fork = some f.id → fork? s f.id = some f → f.winner = none → agree r = true →
    f.worlds.find? (fun x => x.idx == tm.world) = some w → (f.worlds.map fun x => x.idx).Nodup → r.arrivals ≠ [] →
    let best := wordOp r.word == (0x2D, 2)
    let score := match r.arrivals with | a :: _ => (a.val 0).toInt | [] => 0
    let w := { w with rd := (r.word.extractLsb' 14 7).toNat }
    let w' := if best then { w with score := some score } else { w with aborted := true }
    ∃ t, exec (.chooseBestArrival tm.id) s = .next t ∧ ∃ g, fork? t f.id = some g ∧ g.worlds = (f.worlds.map fun x => if x.idx = tm.world then w' else x) ∧ g.winner = none ∧
      ∀ a ∈ r.arrivals, ∀ th, thread? s a.tid = some th → ∃ th', thread? t a.tid = some th' ∧ th'.wait = some .choose) ∧
  ∀ s f, fork? s f.id = some f → f.winner = none → f.copying = false → f.reached = [] → (f.worlds.map fun x => x.idx).Nodup →
    (∀ x ∈ f.worlds, x.score ≠ none ∨ x.aborted = true) →
    ((∃ x ∈ f.worlds, x.score ≠ none) → (∀ x ∈ f.worlds, x.idx < 8 ∧ ∀ n, x.score = some n → n < 2 ^ 31) →
      ∃ g k x sc, fork? (decideFork s f.id) f.id = some g ∧ g.winner = some k ∧ x ∈ f.worlds ∧ x.idx = k ∧ x.score = some sc ∧
        (∀ y ∈ f.worlds, ∀ n, y.score = some n → n < sc ∨ n = sc ∧ k ≤ y.idx) ∧ ∃ q ∈ (decideFork s f.id).commits, q.tag = x.tag ∧ q.fork = some f.id) ∧
    ((∀ x ∈ f.worlds, x.score = none) → fork? (decideFork s f.id) f.id = none ∧
      ∀ tm, team? s (f.teamOf 0) = some tm → ∃ tm', team? (decideFork s f.id) (f.teamOf 0) = some tm' ∧ tm'.view = f.parentView ∧ tm'.world = f.parentWorld ∧
        tm'.nworld = f.parentNworld ∧ tm'.fork = f.parentFork)

/-- The winner's state in world 0's place (R228, R424): world 0's team has the winner's groups, bases and queues under a new generation and the parent's view and
world, the winner's own team is gone, and so is the fork. -/
def ChoiceCopied : Prop :=
  ∀ s f w z tj t0, fork? s f.id = some f → f.copying = true → f.winner = some w.idx → f.worlds.find? (fun x => x.idx == w.idx) = some w → w.idx ≠ 0 →
    f.worlds.find? (fun x => x.idx == 0) = some z → team? s w.team = some tj → team? s z.team = some t0 → tj.id ≠ t0.id →
    (∀ c ∈ s.commits, c.fork ≠ some f.id) → (∀ sl ∈ s.slots, ∀ k ∈ sl.flock, k.team ≠ t0.id) → (∀ e ∈ s.engines, e.team = tj.id → e.delivered = true) →
    (∀ m ∈ s.matrix, m.team ≠ tj.id) →
    ∃ t, exec (.chooseCopyDone f.id) s = .next t ∧ fork? t f.id = none ∧ team? t tj.id = none ∧ ∃ tm, team? t t0.id = some tm ∧ tm.b = (settleAll tj).b ∧
      tm.q = (settleAll tj).q ∧ tm.view = f.parentView ∧ tm.world = f.parentWorld ∧ tm.nworld = f.parentNworld ∧ tm.fork = f.parentFork ∧ tm.discarded = false ∧
      tm.groups.map (fun g => g.s) = ((settleAll tj).groups.take t0.groups.length).map (fun g => g.s) ++ (t0.groups.drop tj.groups.length).map (fun g => g.s)

/-- A commit at its time (R168): the view is an alias of its parent at once. -/
def ViewCommits : Prop :=
  ∀ s c v, c ∈ s.commits → s.commits.find? (fun x => x.tag == c.tag) = some c → c.tc ≤ s.time → viewBusy s c.tag = false →
    (∀ w ∈ s.waiting, resolveTag s s.views.length w.view ≠ c.tag) → view? s c.tag = some v → c.family = none → c.fork = none →
    ∃ t, exec (.commit c.tag) s = .next t ∧ view? t c.tag = some { v with state := .aliased, tick := s.time } ∧ (∀ x ∈ t.commits, x.tag ≠ c.tag) ∧
      t.mem = s.mem ∧ t.versions = s.versions

/-- A task's commit (R208): the draft is an alias of its parent, the holds are free, the family is gone, and the team goes on in the parent view. -/
def TaskCommits : Prop :=
  ∀ s c v f x tm, s.commits.find? (fun x => x.tag == c.tag) = some c → c.tc ≤ s.time → viewBusy s c.tag = false →
    (∀ w ∈ s.waiting, resolveTag s s.views.length w.view ≠ c.tag) → view? s c.tag = some v → c.family = some f → family? s f = some x → x.draft = c.tag →
    team? s x.anchor = some tm → tm.state = .resident → (∀ d ∈ s.deferred, d.family ≠ some f) → NoneAwaits s f →
    ∃ t, exec (.commit c.tag) s = .next t ∧ (∃ w, view? t c.tag = some w ∧ w.state = .aliased) ∧ (∀ h ∈ t.holds, h.family ≠ f) ∧ family? t f = none ∧
      ∃ tm', team? t x.anchor = some tm' ∧ tm'.family = none ∧ tm'.view = v.parent ∧
        ∀ g ∈ tm'.groups, ∀ th ∈ g.threads, th.life ≠ .provisional ∧ th.wait ≠ some .commit

/-- A discard (R164, R219): at one tick the view of a lost world, or of a context that goes away, and every view below it are dead, and what of them waits for
memory is dropped. -/
def ViewDies : Prop :=
  ∀ s v, view? s v.tag = some v → v.state ≠ .dead → discardable s v.tag = true →
    ∃ t, exec (.discard v.tag) s = .next t ∧ (∃ w, view? t v.tag = some w ∧ w.state = .dead ∧ w.tick = s.time) ∧
      (∀ u ∈ s.views, u.parent = v.tag → u.state ≠ .dead → ∃ w ∈ t.views, w.tag = u.tag ∧ w.state = .dead) ∧
      (∀ g ∈ t.gate, g.view ≠ v.tag) ∧ (∀ w ∈ t.waiting, w.view ≠ v.tag) ∧ (∀ c ∈ t.commits, c.tag ≠ v.tag) ∧ t.mem = s.mem

/-- The sweeper at a line (R218): versions of a dead view go; those of an aliased view go to the view that governs them, into memory when that is the committed state; no
lease of the tag on the line stays. -/
def SweeperPasses : Prop :=
  ∀ s v line, view? s v.tag = some v →
    (v.state = .dead → ∃ t, exec (.sweeper v.tag line) s = .next t ∧ (∀ x ∈ t.versions, ¬(x.tag = v.tag ∧ x.line = line)) ∧
      (∀ x ∈ s.versions, ¬(x.tag = v.tag ∧ x.line = line) → x ∈ t.versions) ∧ t.mem = s.mem ∧ ∀ c ∈ t.leases, ¬(c.view = v.tag ∧ c.line = line ∧ c.peer = none)) ∧
    (v.state = .aliased → v.parent = 0 → (∀ x ∈ s.versions, x.line = line → x.tag = v.tag) → ∀ x, s.versions.filter (fun y => y.line == line) = [x] → (x.bytes.map Prod.fst).Nodup → view? s 0 = none → Memory.wf s.mem = true →
      1 ≤ v.depth → v.depth ≤ 4 → inRing s (line * 64) 64 = false → (∀ k, sealOf s line = some k → k.pav = ctxPav s x.ctx) →
      ∃ t, exec (.sweeper v.tag line) s = .next t ∧ (∀ y ∈ t.versions, y.line ≠ line) ∧ (∀ p ∈ x.bytes, p.1 < 64 → Memory.read t.mem (line * 64 + p.1) = p.2) ∧
        ∀ n, (∀ p ∈ x.bytes, n ≠ line * 64 + p.1) → Memory.read t.mem n = Memory.read s.mem n)

/-- A tag is free again (R218) once no line or lease carries it and 4,096 ticks have passed; its children hang on its parent. -/
def TagFrees : Prop :=
  ∀ s v, view? s v.tag = some v → v.state ≠ .live → v.tick + 4096 ≤ s.time → (∀ x ∈ s.versions, x.tag ≠ v.tag) →
    (∀ c ∈ s.leases, c.view = v.tag → c.peer ≠ none) →
    exec (.tagFree v.tag) s = .next { s with views := (s.views.filter fun x => x.tag ≠ v.tag).map fun x => if x.parent = v.tag then { x with parent := v.parent } else x }

/-! ### Steps of the machine: memory (R130, R135, R145 to R152, R155 to R162, R337, R340, R343, R344) -/

/-- An access of a thread's queue with its physical address. -/
structure Queued (s : State) (t : Tid) (th : Thread) (a : Access) (pa : Nat) : Prop where
  thread : thread? s t = some th
  acc : acc? s t a.id = some a
  pa : a.pa = some pa

/-- The access is gone, its registers hold `bs`, and they are no longer pending: nothing else of the thread differs (R108, R334). -/
def Delivered (r : State) (t : Tid) (th : Thread) (a : Access) (rd : Nat) (sx : Bool) (bs : List Byte) : Prop :=
  thread? r t = some ((loadedRegs rd sx bs).foldl (fun th w => putReg th w.1 w.2)
    { th with queue := th.queue.filter (fun b => b.id ≠ a.id), pend := th.pend.filter fun p => p.tok ≠ a.id })

/-- A load of the load-store path may bind its value. -/
def MayLoad (s : State) (t : Tid) (a : Access) : Prop :=
  a.space = .home ∧ a.ord ≠ 7 ∧ canLeave s t a = true ∧ heldFromLoad s t a = false

/-- The sweep of a key rotation does not stand at a line, and the line's integrity code fits for the thread's pavilion (R59, R61). -/
def LineSound (s : State) (t : Tid) (line : Nat) : Prop := sweepHolds s (pavOf s t) line = false ∧ sealBroken s (pavOf s t) line = false

/-- Loads (R59, R61, R102, R130, R135, R156, R157): a lease copy serves a load, else the home slice, the stores of the own team laid over; the constant path reads
the core's constant cache, else the committed line. A read of a line at which the key sweep stands waits, and one of a line whose integrity code does not fit fails. -/
def LoadsBind : Prop :=
  ∀ s t th a pa rd sx, Queued s t th a pa → MayLoad s t a → a.op = .load rd sx →
    let own := if a.slot then ownStores s t 0 else ownStores s t a.view
    (∀ c, a.ord ≠ 5 → a.ord ≠ 6 → a.slot = false → leaseHit s t none a.view (pa / 64) = some c →
      ∃ r, exec (.performLoad t a.id) s = .next r ∧ Delivered r t th a rd sx (overlay pa own ((c.bytes.drop (pa % 64)).take a.size)) ∧ r.mem = s.mem ∧ r.leases = s.leases) ∧
    (a.ord ≠ 6 → (a.ord = 5 ∨ a.slot = true ∨ leaseHit s t none a.view (pa / 64) = none) → LineSound s t (pa / 64) →
      ∃ r, exec (.performLoad t a.id) s = .next r ∧ Delivered r t th a rd sx (overlay pa own (seen (mergeLine s (pa / 64)) (pavOf s t) a.view pa a.size))) ∧
    (∀ tm c, a.ord = 6 → team? s t.team = some tm →
      s.constCache.find? (fun c => c.core == tm.core && c.ctx == tm.ctx && c.pav == pavOf s t && c.line == pa / 64) = some c →
      ∃ r, exec (.performLoad t a.id) s = .next r ∧ Delivered r t th a rd sx ((c.bytes.drop (pa % 64)).take a.size) ∧ r.mem = s.mem) ∧
    (∀ tm, a.ord = 6 → team? s t.team = some tm →
      s.constCache.find? (fun c => c.core == tm.core && c.ctx == tm.ctx && c.pav == pavOf s t && c.line == pa / 64) = none → LineSound s t (pa / 64) →
      ∃ r, exec (.performLoad t a.id) s = .next r ∧
        Delivered r t th a rd sx (((seen (mergeLine s (pa / 64)) (pavOf s t) 0 (pa / 64 * 64) 64).drop (pa % 64)).take a.size) ∧
        r.constCache = ⟨tm.core, tm.ctx, pavOf s t, pa / 64, seen (mergeLine s (pa / 64)) (pavOf s t) 0 (pa / 64 * 64) 64⟩ :: s.constCache) ∧
    (servedInCore s t a pa = false → sweepHolds s (pavOf s t) (pa / 64) = true → exec (.performLoad t a.id) s = .next s) ∧
    (servedInCore s t a pa = false → sweepHolds s (pavOf s t) (pa / 64) = false → sealBroken s (pavOf s t) (pa / 64) = true →
      exec (.performLoad t a.id) s = .next (failLane s .eccUncorrected (t, a.id)))

/-- The read of `wait.ext` (R362): while the word is equal the access stays, sent; on another value the thread goes on. -/
def SignalRead : Prop :=
  ∀ s t th a pa v, Queued s t th a pa → MayLoad s t a → LineSound s t (pa / 64) → a.op = .waitExt v →
    (leNat (seen (mergeLine s (pa / 64)) (pavOf s t) a.view pa 8) = v.toNat → ∃ r, exec (.performLoad t a.id) s = .next r ∧ ∃ b, acc? r t a.id = some b ∧ b.sent = true) ∧
    (leNat (seen (mergeLine s (pa / 64)) (pavOf s t) a.view pa 8) ≠ v.toNat → ∃ r, exec (.performLoad t a.id) s = .next r ∧
      thread? r t = some { th with queue := th.queue.filter (fun b => b.id ≠ a.id), wait := none, pc := Pc.next th.pc })

/-- A lease copy that T has reached is dropped, and no other (R130). -/
def LeaseExpires : Prop :=
  ∀ s store line, exec (.expire store line) s = .next { s with leases := s.leases.filter fun c => !(c.store == store && c.line == line && decide (c.expiry ≤ s.time)) }

/-- A store enters its core's gate (R157): the gate holds it last, WCT_team is raised to now + 1, and it counts under WAIT S until it drains. -/
def StoreEnters : Prop :=
  ∀ s t th a pa tm, Queued s t th a pa → team? s t.team = some tm → a.op = .store → a.space = .home → canLeave s t a = true → lowerLaneWaits s t a = false →
    ∃ r, exec (.enterGate t a.id) s = .next r ∧ r.gate = s.gate ++ [⟨t, a.id, tm.core, a.view, pa, a.data, s.time, a.inst⟩] ∧
      (∃ th', thread? r t = some th' ∧ th'.wctTeam = max th.wctTeam (s.time + 1) ∧ th'.storesOut = th.storesOut ++ [a.id] ∧
        (a.ord ≠ 7 → th'.queue = th.queue.filter fun b => b.id ≠ a.id)) ∧ r.mem = s.mem ∧ r.waiting = s.waiting

/-- A gate entry drains (R154, R156, R157): its completion time is later than now, than every lease on the line and than the line's last completion time; the store waits
for it there, and the core's own lease on the line is gone. -/
def StoreDrains : Prop :=
  ∀ s e th, s.gate.find? (fun g => g.tid == e.tid && g.acc == e.acc) = some e → olderInGate e s.gate = false → thread? s e.tid = some th →
    let line := lineRec s (e.pa / 64)
    let c := max s.time (max line.lm line.lastC) + 1
    ∃ r, exec (.drain e.tid e.acc) s = .next r ∧ r.gate = s.gate.filter (fun g => !(g.tid == e.tid && g.acc == e.acc)) ∧
      (∃ ctx, r.waiting = s.waiting ++ [⟨e.tid, ctx, e.view, e.pa, e.bytes, c, false, none, none⟩]) ∧ lineRec r (e.pa / 64) = { line with lastC := c } ∧
      (∃ th', thread? r e.tid = some th' ∧ th'.wctCluster = max th.wctCluster c ∧ th'.wctDevice = max th.wctDevice c ∧ th'.wctSystem = max th.wctSystem c ∧
        th'.storesOut = th.storesOut.filter fun x => x ≠ e.acc) ∧
      (∀ x ∈ r.leases, ¬(x.store = leaseStore s e.core ∧ x.line = e.pa / 64 ∧ x.peer = none)) ∧
      (∀ k ∈ r.commits, k.tag = resolveTag s s.views.length e.view → c < k.tc) ∧ r.mem = s.mem

/-- An atomic reaches its home slice (R157, R165): one completion time for all the lanes that it combines. -/
def AtomicReaches : Prop :=
  ∀ s t th a pa, Queued s t th a pa → isAtomic a = true → a.space = .home → a.sent = false → issueKnown s a = true → (∀ x ∈ requestOf s t a, atomicReady s x = true) →
    earlierFlock s t a = false → (sameAtomic a a = true ∨ lowerLaneWaits s t a = false) →
    let line := lineRec s (pa / 64)
    let c := max s.time (max line.lm line.lastC) + 1
    ∃ r, exec (.performAtomic t a.id) s = .next r ∧ lineRec r (pa / 64) = { line with lastC := c } ∧
      (∀ x ∈ requestOf s t a, ∃ b th', acc? r x.1 x.2.id = some b ∧ b.sent = true ∧ b.c = some c ∧ thread? r x.1 = some th' ∧ c ≤ th'.wctTeam ∧ c ≤ th'.wctDevice ∧ c ≤ th'.wctSystem) ∧
      r.mem = s.mem ∧ r.gate = s.gate

/-- Scratchpad accesses at their bank (R157, R340, R344, R376, R377): a load reads it; a store writes it, and nothing but its bytes when no pen stands there, and raises the
thread's team and cluster times; an atomic returns the old bytes; `pen.test` reads word 0 with INIT 0 where the pen is not initialised. -/
def BankAccess : Prop :=
  ∀ s t th a pa core, Queued s t th a pa → a.space = .scratch core → canLeave s t a = true →
    (∀ rd sx, a.op = .load rd sx → ∃ r, exec (.scratchAccess t a.id) s = .next r ∧ Delivered r t th a rd sx (rdScratch s core pa a.size) ∧ r.scratch = s.scratch) ∧
    (∀ rd, a.op = .penTest rd → ∃ r, exec (.scratchAccess t a.id) s = .next r ∧ Delivered r t th a rd false (leBytes 4 (penTestWord s core pa).toNat) ∧ r.scratch = s.scratch) ∧
    (a.op = .store → lowerLaneWaits s t a = false → (∀ n < a.data.length, penInitialised (genAt s core ((pa + n) / 64 * 64)) (penAt s core ((pa + n) / 64 * 64)) = false) →
      ∃ r, exec (.scratchAccess t a.id) s = .next r ∧ r.scratch = Memory.writeN s.scratch (scratchKey core pa) a.data ∧
        ∃ th', thread? r t = some th' ∧ th'.queue = th.queue.filter (fun b => b.id ≠ a.id) ∧ th'.wctTeam = max th.wctTeam (s.time + 1) ∧ th'.wctCluster = max th.wctCluster (s.time + 1)) ∧
    (∀ op rd, a.op = .atomic op (some rd) → requestOf s t a = [(t, a)] → lowerLaneWaits s t a = false →
      (∀ n < (atomBytes op (rdScratch s core pa a.size) a.data).length, penInitialised (genAt s core ((pa + n) / 64 * 64)) (penAt s core ((pa + n) / 64 * 64)) = false) →
      ∃ r, exec (.scratchAccess t a.id) s = .next r ∧ r.scratch = Memory.writeN s.scratch (scratchKey core pa) (atomBytes op (rdScratch s core pa a.size) a.data) ∧
        thread? r t = some { (loadedRegs rd false (rdScratch s core pa a.size)).foldl (fun th w => putReg th w.1 w.2)
            { th with queue := th.queue.filter (fun b => b.id ≠ a.id), pend := th.pend.filter fun p => p.tok ≠ a.id } with
          wctTeam := max th.wctTeam (s.time + 1), wctCluster := max th.wctCluster (s.time + 1) })

/-- A fence leaves the queue once its preconditions hold; `pfence.lc` also empties the core's constant cache (R162). -/
def FenceFinishes : Prop :=
  ∀ s t th a f b tm, thread? s t = some th → acc? s t a.id = some a → a.op = .fence f b → team? s t.team = some tm →
    fenceReady s t th a.id f (earlierIn a.id th.queue) = true →
    ∃ r, exec (.finishFence t a.id) s = .next r ∧ thread? r t = some { th with queue := th.queue.filter fun b => b.id ≠ a.id } ∧
      r.constCache = (if f = .pfenceLc then s.constCache.filter fun c => c.core ≠ tm.core else s.constCache) ∧ r.mem = s.mem

/-- External accesses (R19 to R23, R139, R161, R165, R337): a load with the external code reads its home slice; a host access is sent; a peer access is served by a lease
copy or sent as one message for the lanes that it combines: in a flit of a port that the partition owns, through the base die for the device's own id, or it waits
while no port carries it. -/
def ExternalLeaves : Prop :=
  ∀ s t th a pa, Queued s t th a pa → a.isFence = false → canLeave s t a = true → lowerLaneWaits s t a = false →
    (∀ rd sx, a.space = .home → a.ord = 7 → a.op = .load rd sx → heldFromLoad s t a = false → LineSound s t (pa / 64) → ∃ r, exec (.externalAccess t a.id) s = .next r ∧
      Delivered r t th a rd sx (overlay pa (if a.slot then ownStores s t 0 else ownStores s t a.view) (seen (mergeLine s (pa / 64)) (pavOf s t) a.view pa a.size))) ∧
    (a.space = .host → ∃ r, exec (.externalAccess t a.id) s = .next r ∧ (∃ b, acc? r t a.id = some b ∧ b.sent = true) ∧ r.hostMem = s.hostMem ∧ r.mem = s.mem) ∧
    (∀ dev c rd sx, a.space = .peer dev → a.op = .load rd sx → a.ord ≠ 5 → a.ord ≠ 7 → leaseHit s t (some dev) 0 (pa / 64) = some c →
      ∃ r, exec (.externalAccess t a.id) s = .next r ∧ Delivered r t th a rd sx ((c.bytes.drop (pa % 64)).take a.size)) ∧
    (∀ dev c, a.space = .peer dev → (a.op.stores = true ∨ a.ord = 5 ∨ a.ord = 7 ∨ leaseHit s t (some dev) 0 (pa / 64) = none) → tidCtx s t = some c →
      peerReady s t a = true → s.links.out = [] →
      let l := peerRequest s t a
      let m := { peerMsg dev pa a l with num := s.links.nextMsg }
      ∃ r, exec (.externalAccess t a.id) s = .next r ∧ (∀ x ∈ l, ∃ b, acc? r x.1 x.2.id = some b ∧ b.sent = true) ∧
        r.links.reqs = s.links.reqs ++ [⟨s.links.nextMsg, .access (l.map fun x => (x.1, x.2.id)), dev, c.part, s.time, false⟩] ∧
        r.links.nextMsg = s.links.nextMsg + 1 ∧ m.dev = dev ∧ m.addr = pa ∧
        (dev = s.links.domId.toNat → busyPort s dev (pa / 64) = none → r.links.loop = s.links.loop ++ [⟨c.part, none, m⟩]) ∧
        (dev ≠ s.links.domId.toNat → portsTo s c.part dev = [] → r.links.out = [⟨c.part, none, m⟩]) ∧
        (∀ p, dev ≠ s.links.domId.toNat → choosePort s ⟨c.part, none, m⟩ = some p → p ∈ portsTo s c.part dev ∧
          ∃ x f, r.links.ports[p]? = some x ∧ f ∈ x.replay ∧ f.kind = 1 ∧ f.dev = dev ∧ m ∈ f.msgs))

/-- Answers of the host (R161, R337): a completion performs a load of region 2; an accepted posted write stands in host memory and completes a tick later at system scope. -/
def HostAnswers : Prop :=
  ∀ s t th a pa, Queued s t th a pa → a.space = .host → a.sent = true →
    (∀ rd sx, a.op = .load rd sx → ∃ r, exec (.pcieCompletion t a.id) s = .next r ∧ Delivered r t th a rd sx (Memory.readN s.hostMem pa a.size) ∧ r.hostMem = s.hostMem) ∧
    (a.op = .store → a.c = none → ∃ r, exec (.postedWriteAccepted t a.id) s = .next r ∧ r.hostMem = Memory.writeN s.hostMem pa a.data ∧
      (∃ b, acc? r t a.id = some b ∧ b.c = some (s.time + 1)) ∧ ∃ th', thread? r t = some th' ∧ th'.wctSystem = max th.wctSystem (s.time + 1))

/-- Page walks (R145, R148, R149): a translation gives the access its physical address and lease class; a fault writes a record, under whose number the access is logged
while the thread holds fewer than four logged entries and runs no exit routine; a fetch that translates wakes the threads of the page. -/
def WalkEnds : Prop :=
  (∀ s t th a tm c x pa lease z, thread? s t = some th → acc? s t a.id = some a → a.id ≠ 0 → a.pa = none → a.logged = none → a.isFence = false → a.space ≠ .host → a.slot = false →
    walkerServes s t a.id = true →
    team? s t.team = some tm → ctx? s tm.ctx = some c → translateNow s false (.core tm.core) c a.va.toNat a.kind = (.ok (x, pa, lease), z) → z.teams = s.teams →
    (a.op.stores = true → a.space = .home → noCell (removeAcc z t a.id) c a.view pa = false) →
    ∃ r, exec (.pageWalk t a.id 0) s = .next r ∧ acc? r t a.id = some { a with pa := some pa, lease := lease } ∧ r.tlb = z.tlb ∧ r.mem = z.mem) ∧
  (∀ s t th a tm c f z, thread? s t = some th → acc? s t a.id = some a → a.id ≠ 0 → a.pa = none → a.logged = none → a.isFence = false → a.space ≠ .host → a.slot = false →
    walkerServes s t a.id = true →
    team? s t.team = some tm → ctx? s tm.ctx = some c → translateNow s false (.core tm.core) c a.va.toNat a.kind = (.error f, z) → z.teams = s.teams →
    (inRoutine th .exit = false ∨ th.status ≠ none) → (loggedOf th).length < 4 →
    ∃ r, exec (.pageWalk t a.id 0) s = .next r ∧ ∃ b n, acc? r t a.id = some b ∧ b.logged = some n ∧ b.s2 = f.stage2 ∧ b.pa = none ∧
      ((∃ k, k ∈ r.logged ∧ k.seq = n ∧ k.record.va = a.va ∧ k.record.code = f.cause.code) ∨ n = 4294967295)) ∧
  (∀ s t th tm c off va x z, thread? s t = some th → team? s t.team = some tm → ctx? s tm.ctx = some c → formAddr (tm.b.getD 14 0).toNat off.toNat = some va → regionNo va = 0 →
    th.fetchFault ≠ some off → translateNow s false (.core tm.core) c va kindFetch = (.ok x, z) → z.teams = s.teams → th.wait = some (.fetch off) →
    ∃ r, exec (.pageWalk t 0 off) s = .next r ∧ r.tlb = z.tlb ∧ ∃ th', thread? r t = some th' ∧ th'.wait = none)

/-! ### Steps of the machine: engines and troughs (R47, R166, R378, R380 to R397) -/

/-- No pen that is initialised meets `n` bytes of a core's scratchpad from `a` on: writing them has no effect beyond the bytes (R376). -/
def NoPens (s : State) (core a n : Nat) : Prop :=
  ∀ k < n, penInitialised (genAt s core ((a + k) / 64 * 64)) (penAt s core ((a + k) / 64 * 64)) = false

/-- An operation starts when its queue entries, its engine and the lock tables allow (R381, R383): its ranges are locked, it takes the next place in the order, and its
start leaves its threads' queues; one that needs more entries than a table can ever give is refused, and its threads but the lowest read REFUSED. -/
def OperationStarts : Prop :=
  ∀ s e tm, eng? s e.id = some e → e.started = false → stopped s e = false → startFree s e = true → team? s e.team = some tm →
    let l := mergeLocks (opRanges s e tm)
    ((∀ k ∈ l, heldLocks s k.core + needLocks l k.core ≤ 64 ∧ needLocks l k.core + teamLocks s e.team k.core ≤ 64) →
      (e.kind ≠ .bulk → (s.engines.filter fun x => x.unit == e.unit && x.started && !x.delivered).length < 4) →
      ∃ r, exec (.engineStart e.id) s = .next r ∧ r.locks = s.locks ++ l ∧ (∃ g, eng? r e.id = some { e with started := true, order := s.nextId, gens := g, ended := e.total == 0 }) ∧
        r.bulk = (if e.kind = .bulk then s.bulk ++ [e.id] else s.bulk) ∧ r.nextId = s.nextId + 1 ∧
        ∀ t ∈ e.tids, ∀ th, thread? s t = some th → thread? r t = some { th with queue := th.queue.filter fun a => a.op ≠ .engine e.id }) ∧
    (∀ k t0 th0, k ∈ l → 64 < needLocks l k.core + teamLocks s e.team k.core → minBy (fun (t : Tid) => t.group * 32 + t.lane) e.tids = some t0 → e.tids.Nodup →
      thread? s t0 = some th0 → ∃ r, exec (.engineStart e.id) s = .next r ∧ eng? r e.id = none ∧ r.locks = s.locks ∧
        ∃ th n, thread? r t0 = some th ∧ th.owed = some ⟨.rangeConflict, n, 0⟩ ∧ ∀ p ∈ th.pend, p.tok ≠ e.id)

/-- After a piece of `n` bytes an operation has moved them, and ends with its last byte. -/
def Moves (r : State) (e : EngOp) (n : Nat) : Prop :=
  ∃ e', eng? r e.id = some e' ∧ e'.done = e.done + n ∧ e'.written = e.written + n ∧ e'.codes = e.codes ∧ e'.ended = (e'.left == 0)

/-- One write of a copy (R166, R384), after what the host has stored in its own memory: bytes of the global row reach the team's scratchpad at their place, or bytes of the scratchpad the home slice of the row. -/
def CopyMoves : Prop :=
  ∀ s0 hs, let s := hostStores s0 hs
  ∀ e tm x row c, eng? s e.id = some e → runsNow s e = true → team? s e.team = some tm → locate e.slices e.done = some (x, row, c) →
    let base := (e.bases.getD x.gbase 0).toNat
    let off := x.goff + row * x.gpitch + c
    let place := tm.allocBase + x.soff + row * x.spitch + c
    let n := min (x.rowb - c) (min (64 - (base + off) % 64) (64 - place % 64))
    (∀ bs z, e.kind = .team → engRead s e base off n = (.ok bs, z) → bs.length = n → z.teams = s.teams → z.engines = s.engines →
      fencedFrom z (e.pav z) tm.core place = false → NoPens z tm.core place n →
      ∃ r, exec (.engineWrite e.id hs) s0 = .next r ∧ r.scratch = Memory.writeN z.scratch (scratchKey tm.core place) bs ∧ Moves r e n) ∧
    (∀ k va pa w lz z, e.kind = .out → fencedFrom s (e.pav s) tm.core place = false → ctx? s e.ctx = some k → formAddr base off = some va → regionNo va = 0 →
      translateNow s false (.core e.core) k va kindWrite = (.ok (w, pa, lz), z) → ctx? z e.ctx = some k → noCell z k e.view pa = false → z.teams = s.teams → z.engines = s.engines →
      ∃ r, exec (.engineWrite e.id hs) s0 = .next r ∧
        r.waiting = z.waiting ++ [⟨⟨0, 0, 0⟩, e.ctx, e.view, pa, rdScratch s tm.core place n, max z.time (max (lineRec z (pa / 64)).lm (lineRec z (pa / 64)).lastC) + 1, false, none, none⟩] ∧
        r.scratch = z.scratch ∧ Moves r e n)

/-- A multicast beat (R387): written at a destination whose generation is the captured one, dropped and counted as STALE_TARGET at another. -/
def BeatArrives : Prop :=
  ∀ s0 hs, let s := hostStores s0 hs
  ∀ e tm x row c p, eng? s e.id = some e → runsNow s e = true → e.kind = .multicast → team? s e.team = some tm →
    locate (e.slices.filter fun x => x.cmask.testBit p) (atKey p e.prog) = some (x, row, c) →
    let base := (e.bases.getD x.gbase 0).toNat
    let off := x.goff + row * x.gpitch + c
    (∀ u bs z, teamAt s tm p = some u → (p, u.gen) ∈ e.gens →
      let place := u.allocBase + x.soff + row * x.spitch + c
      let n := min (x.rowb - c) (min (64 - (base + off) % 64) (64 - place % 64))
      engRead s e base off n = (.ok bs, z) → bs.length = n → z.teams = s.teams → z.engines = s.engines →
      fencedFrom z (e.pav z) u.core place = false → NoPens z u.core place n →
      ∃ r, exec (.multicastBeat e.id p hs) s0 = .next r ∧ r.scratch = Memory.writeN z.scratch (scratchKey u.core place) bs ∧
        ∃ e', eng? r e.id = some e' ∧ atKey p e'.prog = atKey p e.prog + n ∧ e'.written = e.written + n) ∧
    ((∀ u, teamAt s tm p = some u → (p, u.gen) ∉ e.gens) →
      let place := x.soff + row * x.spitch + c
      let n := min (x.rowb - c) (min (64 - (base + off) % 64) (64 - place % 64))
      0 < n → ∃ r, exec (.multicastBeat e.id p hs) s0 = .next r ∧ r.scratch = s.scratch ∧
        ∃ e', eng? r e.id = some e' ∧ atKey p e'.prog = atKey p e.prog + n ∧ e'.written = e.written ∧ ∃ m, (stStale, m) ∈ e'.codes ∧ n ≤ m)

/-- The status word (R166, R380, R392): every thread of the operation reads it, its range locks are gone, and its pen updates are on their way, or it is over. -/
def StatusDelivered : Prop :=
  ∀ s e, eng? s e.id = some e → statusReady s e = true → e.tids.Nodup →
    ∃ r, exec (.engineStatus e.id) s = .next r ∧ r.locks = s.locks.filter (fun k => k.op ≠ some e.id) ∧ r.penUpdates = s.penUpdates ++ penUpdatesOf s e ∧
      (∀ t ∈ e.tids, ∀ th, thread? s t = some th → ∃ w, thread? r t = some (putReg { th with pend := th.pend.filter fun p => p.tok ≠ e.id } (.v e.rd) (BitVec.setWidth 80 (w : Word))) ∧
        (penUpdatesOf s e = [] → w = opStatus e)) ∧
      (penUpdatesOf s e = [] → eng? r e.id = none) ∧ (penUpdatesOf s e ≠ [] → eng? r e.id = some { e with delivered := true })

/-- A pen update of an engine at its combiner (R378, R392): of those of an operation the one of the lowest source; the pen, where it is initialised and not in error, counts
its bytes. One whose bank is fenced against the context is dropped (R58). -/
def PenCounts : Prop :=
  ∀ s op u, minBy PenUpdate.src (s.penUpdates.filter fun x => x.op == op) = some u →
    ∃ r, exec (.enginePenUpdate op) s = .next r ∧ r.penUpdates = s.penUpdates.erase u ∧ (penFenced s u = true → r.scratch = s.scratch) ∧
      (penFenced s u = false → r.scratch = (settlePen (putPen { s with penUpdates := s.penUpdates.erase u } u.core u.addr (penEngine (genAt s u.core u.addr) u.src u.bytes (penAt s u.core u.addr)).1) u.core u.addr).scratch) ∧
      ((∀ v ∈ s.penUpdates.erase u, v.op ≠ op) → eng? r op = none)

/-- A gather pushes the element that the next index names into the next free slot of its trough (R393); its last element closes a trough
that gath.close named while it ran (R397). -/
def GatherPushes : Prop :=
  ∀ s0 hs hs', let s := hostStores s0 hs
  ∀ e tm g d bs z, eng? s e.id = some e → runsNow s e = true → e.kind = .gather → team? s e.team = some tm → e.descs = [(g, d)] → gthGlobal d = false →
    let x := qOf tm (gthQ d)
    let i := leNat (rdScratch s tm.core (tm.allocBase + dscW d 1 + 4 * e.done) 4)
    let place := slotAt tm x (qHead x + qFilled x)
    qBound x = true → qFilled x < qSlots x → tm.family = none →
    fencedFrom s (e.pav s) tm.core (tm.allocBase + dscW d 1 + 4 * e.done) = false → fencedFrom z (e.pav z) tm.core place = false →
    engReads e (e.bases.getD (gthEbase d) 0).toNat (dscQ d 5 + i * dscW d 4) (gthSize d) (hostStores s hs') = (.ok bs, z) → bs.length = gthSize d → gthSize d ≤ qSlotBytes x →
    z.teams = s.teams → z.engines = s.engines → NoPens z tm.core place (qSlotBytes x) → (∀ t th op, thread? s t = some th → th.wait ≠ some (.trough op (gthQ d))) →
    ∃ r, exec (.gatherPush e.id hs hs') s0 = .next r ∧
      r.scratch = Memory.writeN z.scratch (scratchKey tm.core place) (bs ++ List.replicate (qSlotBytes x - gthSize d) 0) ∧
      (∃ tm', team? r tm.id = some tm' ∧ tm'.q = updAt (gthQ d) (fun _ =>
        let y := qCounts x (qClosed x) (qFilled x + 1) (qHead x)
        if e.closes = true ∧ e.total ≤ e.done + 1 then qCounts y true (qFilled y) (qHead y) else y) tm.q) ∧
      ∃ e', eng? r e.id = some e' ∧ e'.done = e.done + 1 ∧ e'.written = e.written + gthSize d

/-- The service of a trough (R396, R397): the first queued pop takes the head slot, or all ones when the trough is closed and empty; the first queued push fills a free slot. -/
def TroughServes : Prop :=
  ∀ s tm q r th, team? s tm.id = some tm → r.tid.team = tm.id → thread? s r.tid = some th → qBound (qOf tm q) = true → reqFree s r = true →
    let x := qOf tm q
    let rest := s.troughs.erase r
    (s.troughs.find? (fun k => k.tid.team == tm.id && k.q == q && k.pop) = some r → r.q = q → r.pop = true →
      (qFilled x ≠ 0 → fencedFrom s (teamPav s tm) tm.core (slotAt tm x (qHead x)) = false → ∃ t, exec (.troughServe tm.id q 1) s = .next t ∧ t.troughs = rest ∧
        thread? t r.tid = some (putReg { th with pend := th.pend.filter fun p => p.tok ≠ r.tok } (.v r.rd) (BitVec.ofNat 80 (leNat (rdScratch s tm.core (slotAt tm x (qHead x)) 4)))) ∧
        ∃ tm', team? t tm.id = some tm' ∧ tm'.q = updAt q (fun _ => qCounts x (qClosed x) (qFilled x - 1) ((qHead x + 1) % qSlots x)) tm.q) ∧
      (qFilled x = 0 → qClosed x = true → ∃ t, exec (.troughServe tm.id q 1) s = .next t ∧ t.troughs = rest ∧
        thread? t r.tid = some (putReg { th with pend := th.pend.filter fun p => p.tok ≠ r.tok } (.v r.rd) 0xFFFFFFFF))) ∧
    (s.troughs.find? (fun k => k.tid.team == tm.id && k.q == q && !k.pop) = some r → r.q = q → r.pop = false → qFilled x < qSlots x →
      fencedFrom s (teamPav s tm) tm.core (slotAt tm x (qHead x + qFilled x)) = false →
      NoPens s tm.core (slotAt tm x (qHead x + qFilled x)) (qSlotBytes x) →
      ∃ t, exec (.troughServe tm.id q 0) s = .next t ∧ t.troughs = rest ∧
        t.scratch = Memory.writeN s.scratch (scratchKey tm.core (slotAt tm x (qHead x + qFilled x))) (leBytes 4 r.val.toNat ++ List.replicate (qSlotBytes x - 4) 0) ∧
        (∃ tm', team? t tm.id = some tm' ∧ tm'.q = updAt q (fun _ => qCounts x (qClosed x) (qFilled x + 1) (qHead x)) tm.q) ∧
        ∃ th', thread? t r.tid = some th' ∧ th'.storesOut = th.storesOut.filter (fun k => k ≠ r.tok) ∧ th'.wctTeam = max th.wctTeam (s.time + 1))

/-- Bulk engines (R25, R47, R55, R391): an operation that an engine takes up without a lease ends with NO_LEASE, and one taken up goes on without it; a range of region 2
whose translation is missing asks the host, unless 256 requests of the function are outstanding; a piece of another moves. -/
def BulkWorks : Prop :=
  ∀ s0 hs, let s := hostStores s0 hs
  ∀ e eng, (s.bulk.filterMap (eng? s)).find? (fun x => x.unit == 1000000 + eng) = some e → eng? s e.id = some e → e.kind = .bulk →
    e.ended = false → e.paused = none → stopped s e = false → (∀ p ∈ s.host.pri, p.1 ≠ e.id) →
    let s1 := modEng s e.id fun x => { x with begun := true }
    (e.begun = false → hasLease s e.ctx eng = false → 0 < e.total →
      ∀ ats, ∃ r, exec (.bulkTransfer eng ats hs) s0 = .next r ∧ (∃ e', eng? r e.id = some e' ∧ e'.ended = true ∧ ∃ m, (stNoLease, m) ∈ e'.codes ∧ e.total ≤ m) ∧
        e.id ∉ r.bulk ∧ r.mem = s.mem) ∧
    ((e.begun = true ∨ hasLease s e.ctx eng = true) →
      ∀ a, a = (bulkPiece e).1 + (bulkPiece e).2.1 → regionNo a = 2 →
        exec (.bulkTransfer eng false hs) s0 = .next (if priOf s e.ctx < 256 then { s1 with host := { s.host with pri := s.host.pri ++ [(e.id, a)] } } else s1)) ∧
    ((e.begun = true ∨ hasLease s e.ctx eng = true) →
      ∀ bs z y sb so db dO n, bulkPiece e = (sb, so, db, dO, n) → regionNo (sb + so) ≠ 2 → regionNo (db + dO) ≠ 2 →
        engRead s1 e sb so n = (.ok bs, z) → engWrite z e db dO bs = (.ok (), y) → (∃ e1, eng? y e.id = some e1 ∧ e1.done = e.done ∧ e1.written = e.written ∧ e1.codes = e.codes ∧
          e1.kind = .bulk ∧ e1.descs = e.descs ∧ e1.ended = false) →
        ∃ r, exec (.bulkTransfer eng false hs) s0 = .next r ∧ Moves r e n)

/-- Answers of the host to a request for a page (R47). -/
def HostPages : Prop :=
  ∀ s e p, eng? s e.id = some e → s.host.pri.find? (fun x => x.1 == e.id) = some p →
    (exec (.priResponse e.id true) s = .next { s with host := { s.host with pri := s.host.pri.filter fun x => x.1 ≠ e.id } }) ∧
    (e.kind ≠ .gather → 0 < e.left → ∃ r, exec (.priResponse e.id false) s = .next r ∧ (∀ x ∈ r.host.pri, x.1 ≠ e.id) ∧
      (∃ e', eng? r e.id = some e' ∧ e'.ended = true ∧ ∃ m, (stFault, m) ∈ e'.codes ∧ e.left ≤ m) ∧ e.id ∉ r.bulk)

/-! ### Steps of the machine: matrix units, work and schedules (R82 to R97, R114, R116, R173 to R177, R239, R257, R321, R364, R401 to R409) -/

/-- An operation at the head of its quadrant's queue starts once its lanes' earlier accesses are done and the lock table has room (R401). -/
def MatStarts : Prop :=
  ∀ s m tm, matHead s m.core m.quad = some m → team? s m.team = some tm → teamEnded tm = false → m.started = false → matFree s m = true →
    (matLocks m tm).length + teamLocks s m.team m.core ≤ 64 → heldLocks s m.core + (matLocks m tm).length ≤ 64 →
    exec (.matrixOpStart m.core m.quad) s = .next { s with
      locks := s.locks ++ matLocks m tm, matrix := s.matrix.map fun x => if x.id = m.id then { x with started := true } else x }

/-- A chunk of `mx.mma` (R257 to R259): every element of the tile becomes the exact sum of itself (of zero at a first chunk that clears) and the chunk's terms, rounded once. -/
def MatChunks : Prop :=
  ∀ s m tm t, matHead s m.core m.quad = some m → team? s m.team = some tm → teamEnded tm = false → m.kind = .mma → m.started = true → tile? s m.core m.quad (tileOf m.params) = some t →
    ∃ r, exec (.matrixChunk m.core m.quad) s = .next r ∧ (∃ x ∈ r.matrix, x = { m with chunk := m.chunk + 1 }) ∧
      (∃ t', tile? r m.core m.quad (tileOf m.params) = some t' ∧ t'.team = t.team ∧ t'.vals.length = 1024 ∧ ∀ row < 32, ∀ col < 32, t'.vals[32 * row + col]? =
        some (chunkElem (if m.chunk = 0 ∧ (m.params.getD 7 0).getLsbD 3 = true then 0 else t.vals.getD (32 * row + col) 0) ((upto (depthK m.word)).map fun k =>
          termVal (decodeVal (elemFmt (fmtA m.word)) (mmaElem s tm m false row k m.chunk)) (decodeVal (elemFmt (fmtB m.word)) (mmaElem s tm m true col k m.chunk))
            (mmaScale s tm m false row k m.chunk) (mmaScale s tm m true col k m.chunk)))) ∧ r.scratch = s.scratch

/-- An operation that finishes leaves the queue, its locks go, and its values are delivered (R401, R406 to R409): `mx.mma` its status word, `mx.rd` four columns of each lane's
row, `mx.ld` the tile from scratchpad, `mx.clr` zeros. -/
def MatFinishes : Prop :=
  ∀ s m tm core quad, matEnding s core quad = some m → team? s m.team = some tm → teamEnded tm = false → (∀ t ∈ s.teams, ∀ g ∈ t.groups, g.rdv = []) → m.tids.Nodup →
    let n := Machine.fld (dscW m.params 0) 0 3
    ∃ r, exec (.matrixOpFinish core quad) s = .next r ∧ r.matrix = s.matrix.filter (fun x => x.id ≠ m.id) ∧ r.locks = s.locks.filter (fun k => k.op ≠ some m.id) ∧
      (m.kind = .mma → ∀ t ∈ m.tids, ∀ th, thread? s t = some th → thread? r t =
        some (putReg { th with pend := th.pend.filter fun p => p.tok ≠ m.tok } (.v m.rd) ((statusWord 0 false (chunkCount m.params)).setWidth 80))) ∧
      (m.kind = .read → ∀ t ∈ m.tids, ∀ th, thread? s t = some th → thread? r t = some (((upto 4).map fun i => (Reg.v (m.rd + i),
        (((tileVals s m.core m.quad n).getD (32 * t.lane + Machine.fld (dscW m.params 0) 3 5 + i) 0).setWidth 80 : BitVec 80))).foldl (fun th w => putReg th w.1 w.2)
          { th with pend := th.pend.filter fun p => p.tok ≠ m.tok })) ∧
      (m.kind = .load → ∀ t, tile? s m.core m.quad n = some t → ∃ t', tile? r m.core m.quad n = some t' ∧
        t'.vals = (upto 1024).map fun i => BitVec.ofNat 32 (leNat (rdScratch s m.core (tm.allocBase + stElem m.params i) 4))) ∧
      (m.kind = .clear → ∀ k ∈ m.tilesNamed, ∀ t, tile? s m.core m.quad k = some t → ∃ t', tile? r m.core m.quad k = some t' ∧ t'.vals = List.replicate 1024 0)

/-- A result of the SFU or F64 unit (R321): every lane of the team that holds it receives its values, and they are no longer pending. -/
def UnitDelivers : Prop :=
  ∀ s team tm tok, team? s team = some tm → (∃ g ∈ tm.groups, ∃ th ∈ g.threads, ∃ h ∈ th.held, h.tok = tok) →
    ∃ r, exec (.sfuF64Result team tok) s = .next r ∧ r.mem = s.mem ∧ ∀ t th h, t.team = team → thread? s t = some th → th.held.filter (fun h => h.tok == tok) = [h] →
      thread? r t = some (h.vals.foldl (fun th x => putReg th x.1 x.2)
        { th with pend := th.pend.filter (fun p => p.tok ≠ tok), held := th.held.filter fun h => h.tok ≠ tok })

/-- A timed sleep ends at its tick (R364). -/
def SleepEnds : Prop :=
  ∀ s t th tm till, thread? s t = some th → team? s t.team = some tm → th.wait = some (.sleep till) → till ≤ s.time →
    ∃ r, exec (.sleepEnd t) s = .next r ∧ thread? r t = some { th with wait := none, pc := Pc.next th.pc } ∧
      ∀ c, ctx? s tm.ctx = some c → ctx? r tm.ctx = some { c with idle := 0, noticed := false }

/-- A grid is ready (R82) at once without a wait-on word, and once the word has reached the expected value. -/
def GridsReady : Prop :=
  ∀ s g c, grid? s g.id = some g → ctx? s g.ctx = some c → c.suspended = false → g.waitFault = none → g.ready = false →
    (g.record.waitOn = 0 → exec (.gridReady g.id) s = .next (modGrid s g.id fun g => { g with ready := true })) ∧
    (∀ v z, g.record.waitOn ≠ 0 → readWaitOn s c g.record.waitOn.toNat = (.ok v, z) → z.grids = s.grids →
      ∃ r, exec (.gridReady g.id) s = .next r ∧ grid? r g.id = some { g with ready := decide (g.record.expected ≤ v) })

/-- A launch at its controller (R80, R359): a record that passes is a new pending grid with the next sequence number, and the lane goes on. -/
def LaunchTaken : Prop :=
  ∀ s l c r z th, s.launches.find? (fun k => k.seq == l.seq) = some l → ctx? s l.ctx = some c → l.fault = none → launchReady s l c = true → validate s c l.addr = (.ok r, z) →
    z.teams = s.teams → r.record.waitOn = 0 → l.deferred = false → thread? s l.tid = some th → th.wait = some (.launch l.addr) → (∀ k ∈ z.grids, k.id ≠ z.nextId) →
    ∃ t, exec (.launchComplete l.seq) s = .next t ∧ (∀ k ∈ t.launches, k.seq ≠ l.seq) ∧ thread? t l.tid = some { th with wait := none, pc := Pc.next th.pc } ∧
      t.launchSeq = z.launchSeq + 1 ∧ ∃ g, grid? t z.nextId = some g ∧ g.seq = z.launchSeq ∧ g.ctx = c.id ∧ g.addr = l.addr ∧ g.record = r.record.kept ∧ g.ready = true

/-- The picker at a free slot (R93 to R95): the flock is one ready thread per column of the path that comes first, under a new number. -/
def FlockPicked : Prop :=
  ∀ s core quad k p, (slotOf s core quad k).flock = [] → (∀ t ∈ idleTids s core quad, headerTrap s t = none) →
    (dedup ((idleTids s core quad).map fun t => t.team)).foldl markRestored s = s →
    pickPath (countTurn s core quad (readyPaths s core quad).length) core quad (slotOf s core quad k).low (readyPaths s core quad) = some p →
    ∃ r, exec (.flockPick core quad k) s = .next r ∧ ∃ sl, slot? r (slotKey core quad k) = some sl ∧ sl.flock = oneperColumn p.lanes ∧ sl.fid = s.nextId ∧ sl.lastClass = none ∧
      sl.due = max (slotOf s core quad k).due (turnFrom (coreCycle s core) k)

/-- A sample (R239): the sampler's next interval is drawn, and a record of the flock that issues next in the quadrant joins the context's ring while it has room. -/
def Samples : Prop :=
  ∀ s x c, s.observe.samplers.find? (fun y => y.core == x.core && y.quad == x.quad && decide (y.next ≤ s.time)) = some x → ctx? s x.ctx = some c →
    s.observe.samplers.filter (fun y => y.core == x.core && y.quad == x.quad && y.ctx == x.ctx) = [x] →
    ∃ r, exec (.sample x.core x.quad) s = .next r ∧
      (∃ y ∈ r.observe.samplers, y = { x with lfsr := lfsrNext x.lfsr, next := x.next + c.sample.toNat + (lfsrNext x.lfsr).toNat % c.sample.toNat }) ∧
      (∀ sl t tm, sl ∈ s.slots → sl.core = x.core → sl.quad = x.quad → sl.flock.head? = some t → team? s t.team = some tm → tm.ctx = x.ctx → c.ringHead - c.ringTail < c.ringSize →
        ∃ c', ctx? r x.ctx = some c' ∧ c'.ringHead = c.ringHead + 1)

/-- A spent slice budget (R89, R90): the grid's resident teams are pre-empted, and the grid is advanced by its period, or held with a BUDGET record. -/
def BudgetSpent : Prop :=
  ∀ s g, grid? s g.id = some g → g.slice = true → g.record.budget ≠ 0 → g.record.budget ≤ g.sliceTicks → (∃ t ∈ s.teams, t.grid = g.id ∧ t.onCore = true) →
    (∀ t ∈ s.teams, t.fork = none) →
    ∃ r, exec (.budgetEvent g.id) s = .next r ∧
      (∀ t, team? s t.id = some t → t.grid = g.id → t.state = .resident → t.discarded = false → ∃ t', team? r t.id = some t' ∧ t'.state = .preempting ∧ t'.why = some .budget) ∧
      ∃ g', grid? r g.id = some g' ∧ g'.sliceTicks = 0 ∧
        (g.record.flags.getLsbD 12 = true → g'.deadline = g.deadline + g.record.period ∧ g'.held = g.held) ∧ (g.record.flags.getLsbD 12 = false → g'.held = true ∧ g'.deadline = g.deadline)

/-- The watchdog (R96, R97): a window without progress suspends a context of which some waiting thread is not externally rooted; where all are, a quiescent notice is posted once. -/
def WatchdogFires : Prop :=
  ∀ s c, ctx? s c.id = some c → c.window ≤ c.idle → anySleeps s c.id = false →
    let all := waitingTids s c.id
    let ext := rooted s all (all.length + 1) []
    ((∃ t ∈ all, t ∉ ext) → ∃ r, exec (.watchdogExpiry c.id) s = .next r ∧ ∃ c', ctx? r c.id = some c' ∧ c'.suspended = true ∧ 1 ∈ c'.suspendedBy ∧ c'.idle = 0) ∧
    ((∀ t ∈ all, t ∈ ext) → ∃ r, exec (.watchdogExpiry c.id) s = .next r ∧ ∃ c', ctx? r c.id = some c' ∧ c'.idle = 0 ∧ c'.noticed = true ∧ c'.suspended = c.suspended ∧
      (c.noticed = true → c'.faultHead = c.faultHead))

/-- The dispatcher places the next new team of the first grid (R79, R83, R100): its record is read again, and the team stands resident on the chosen core with
every group at its role's entry. -/
def TeamPlaced : Prop :=
  ∀ s g l c n rest rd z p, placeOrder s g.part = g :: l → grid? s g.id = some g → ctx? s g.ctx = some c → g.record.flags.getLsbD 0 = false → g.record.flags.getLsbD 1 = false →
    g.dropped = false → pendingTeams s g = .fresh n :: rest → validate s c g.addr = (.ok rd, z) → z.grids = s.grids → z.teams = s.teams → pendingTeams z g = .fresh n :: rest →
    roomSettled z g.part = true →
    let m := (rd.keep g.record).record
    chooseCore z (wantOf g c (rd.keep g.record) (.fresh n)) (coresOf (usableClusters z g.part)) = some p →
    ∃ r, exec (.teamPlace g.part) s = .next r ∧ ∃ tm, r.teams = s.teams ++ [tm] ∧ tm.grid = g.id ∧ tm.ctx = g.ctx ∧ tm.index = n ∧ tm.core = p.core ∧ tm.slot = p.slot ∧
      tm.allocBase = p.base ∧ tm.allocSize = m.scratch ∧ tm.state = .resident ∧ tm.placed = z.time ∧ tm.view = 0 ∧ tm.family = none ∧ tm.b = startBases m ∧ tm.regions = rd.regions ∧
      (∀ gr ∈ tm.groups, ∃ e, gr.threads = List.replicate 32 (Thread.start e) ∧ ∃ q ∈ recordNeeds m, e = q.entry) ∧
      ∃ g2, grid? r g.id = some g2 ∧ g2.next = max g.next (n + 1) ∧ g2.record = g.record ∧
        ((∀ t ∈ s.teams, t.grid = g.id → t.onCore = false) → g2.slice = true ∧ g2.sliceTicks = 0)

/-- At the end of a team's protection (R84) its dispatcher tries again, as for a placement. -/
def ResidencyEnds : Prop :=
  ∀ s t g, team? s t.id = some t → t.state = .resident → t.placed + 4096 ≤ s.time → grid? s t.grid = some g →
    ∃ r, exec (.residencyExpiry t.id) s = .next r ∧ exec (.teamPlace g.part) s = .next r

/-- The save of a team whose routines have ended (R177 to R180): the team stands saved (bound to its place when its memory could not be spilled), each live group names its record, and
the team holds no tile, pin or slot. -/
def TeamSaved : Prop :=
  ∀ s t c, team? s t.id = some t → saveReady s t = true → t.discarded = false → ctx? s t.ctx = some c → c.destroying = false →
    ∃ r, exec (.saveRecordComplete t.id) s = .next r ∧ (∃ t', team? r t.id = some t' ∧ (t'.state = .saved ∨ t'.state = .bound) ∧
        ∀ g ∈ t'.groups, g.record.isSome = !g.retired) ∧
      (∀ x ∈ r.tiles, x.team ≠ t.id) ∧ (∀ p ∈ r.pins, p.team ≠ t.id) ∧ ∀ sl ∈ r.slots, ∀ k ∈ sl.flock, k.team ≠ t.id

/-- A thread at its boundary (R173, R174): vectored to the exit routine of its region, with what the routine's end restores; in the default region it is done. -/
def ThreadVectored : Prop :=
  ∀ s t th tm, thread? s t = some th → th.owed = none → team? s t.team = some tm → toVector tm th = true →
    (∀ n c rg gr, regionOf tm th.pc.off = some n → ctx? s tm.ctx = some c → tm.regions[n]? = some rg → tm.groups[t.group]? = some gr →
      ∃ r, exec (.threadVectoring t) s = .next r ∧ ∃ th' ro, thread? r t = some th' ∧ th'.routine = some ro ∧ ro.kind = .exit ∧ ro.region = n ∧ ro.start = rg.exitOff ∧ ro.len = rg.exitLen ∧
        ro.budgetEnd = s.time + rg.budget ∧ ro.resume = th.pc ∧ ro.stack = th.stack ∧ ro.slot = slotAddr c ((areaOf c tm.core).getD 0) gr.quad gr.gslot t.lane ∧
        th'.pc = Pc.start rg.exitOff ∧ th'.stack = [] ∧ th'.due = [] ∧ th'.jump = none) ∧
    (regionOf tm th.pc.off = none →
      ∃ r, exec (.threadVectoring t) s = .next r ∧ ∃ th', thread? r t = some th' ∧ th'.status = some .routineOk ∧ th'.due = [] ∧ th'.pc = th.pc)

/-- An exit routine that overruns its budget ends, with the fallback; a word of the lane that is due at the last tick comes first (R176). -/
def RoutineOverruns : Prop :=
  ∀ s t th ro, thread? s t = some th → th.routine = some ro → ro.kind = .exit → th.status = none →
    (ro.budgetEnd < s.time ∨ ro.budgetEnd = s.time ∧ ∀ sl ∈ s.slots, t ∈ sl.flock → slotDue s sl = false) →
    ∃ r, exec (.routineOverrun t) s = .next r ∧ thread? r t = some { th with status := some .overrun, wait := none, fallback := true } ∧
      r.slots = s.slots.map fun x => { x with flock := x.flock.filter fun k => k ≠ t }

/-- A team whose threads and operations are all done retires (R114, R116): its place is free at once; when its stores are done too it is gone, and with the last
team the grid ends. -/
def TeamRetires : Prop :=
  (∀ s t, team? s t.id = some t → retireReady s t = true → t.succ = none →
    ∃ r, exec (.teamRetire t.id) s = .next r ∧ (∀ t', team? r t.id = some t' → t'.state = .retired) ∧ (∀ x ∈ r.tiles, x.team ≠ t.id) ∧ (∀ p ∈ r.pins, p.team ≠ t.id) ∧
      (∀ k ∈ r.locks, k.team ≠ t.id) ∧ ∀ sl ∈ r.slots, ∀ k ∈ sl.flock, k.team ≠ t.id) ∧
  ∀ s t g, team? s t.id = some t → retireReady s t = true → teamDrained s t = true → t.succ = none → t.fork = none → grid? s t.grid = some g →
    ∃ r, exec (.teamRetire t.id) s = .next r ∧ team? r t.id = none ∧ (∀ x ∈ r.tiles, x.team ≠ t.id) ∧ (∀ p ∈ r.pins, p.team ≠ t.id) ∧ (∀ k ∈ r.locks, k.team ≠ t.id) ∧
      ∃ g', grid? r t.grid = some g' ∧ g'.flush = max g.flush (teamFlush t) ∧
        ((∀ u ∈ s.teams, u.id ≠ t.id → u.grid ≠ t.grid) → (g.total ≤ g.next ∨ g.dropped = true) → g'.ended = true)

/-! ### Steps of the machine: power, errors and links (R9 to R23, R66, R233, R237) -/

/-- An island after a change. -/
def IslandIs (r : State) (i : Nat) (x : Island) : Prop := r.islands[i]? = some x

/-- Power (R13 to R16): the limit is set in its range; a window above it lowers the next island by one step, holding it there; a window below 95% of it raises the next, but
either change waits while a team of the island is under pre-emption; a core half without teams is gated, another is answered BUSY; a deferred step comes once no team of the
island is under pre-emption; management lowers a clock. At step 0 neither the limit nor management holds an island. -/
def PowerSteps : Prop :=
  (∀ s w, 1200 ≤ w → w ≤ 2800 → w % 10 = 0 → exec (.powerLimitSet w) s = .next { s with powerLimit := w }) ∧
  (∀ s w i x, s.powerLimit < w → nextLower s = some i → s.islands[i]? = some x →
    ∃ r, exec (.powerWindow w) s = .next r ∧ (∀ j ≠ i, r.islands[j]? = s.islands[j]?) ∧
      IslandIs r i (if islandPreempting s i then { x with limit := setBit x.limit 0 true, deferred := some (x.step + 1) }
        else { x with step := x.step + 1, limit := setBit x.limit 0 true, deferred := none, phase := 0 })) ∧
  (∀ s w i x, w ≤ s.powerLimit → w * 100 < s.powerLimit * 95 → nextRaise s = some i → s.islands[i]? = some x →
    ∃ r, exec (.powerWindow w) s = .next r ∧ (∀ j ≠ i, r.islands[j]? = s.islands[j]?) ∧
      IslandIs r i (if islandPreempting s i then { x with deferred := some (x.step - 1) }
        else { x with step := x.step - 1, limit := if x.step - 1 = 0 then 0 else x.limit, deferred := none, phase := 0 })) ∧
  (∀ s i x, isCoreHalf i = true → islandBusy s i = false → s.islands[i]? = some x →
    ∃ r, exec (.islandGateRequest i) s = .next r ∧ IslandIs r i { x with step := 3, limit := setBit x.limit 2 true, deferred := none, phase := 0 } ∧ r.gateStatus = .ok) ∧
  (∀ s i, isCoreHalf i = true → islandBusy s i = true → exec (.islandGateRequest i) s = .next { s with gateStatus := .busy }) ∧
  (∀ s i x k, s.islands[i]? = some x → x.deferred = some k → islandPreempting s i = false →
    ∃ r, exec (.islandStepChange i) s = .next r ∧ (∀ j ≠ i, r.islands[j]? = s.islands[j]?) ∧
      IslandIs r i { x with step := k, limit := if k = 0 then setBit (setBit x.limit 0 false) 2 false else x.limit, deferred := none, phase := 0 }) ∧
  (∀ s i x k, i < 16 → k ≠ 3 → k ≤ lowestStep i → s.islands[i]? = some x → x.step < k →
    ∃ r, exec (.managementStepRequest i k) s = .next r ∧
      IslandIs r i (if islandPreempting s i then { x with limit := setBit x.limit 2 true, deferred := some k }
        else { x with step := k, limit := setBit x.limit 2 true, deferred := none, phase := 0 }))

/-- Corrected errors (R9, R233): the channel's or link's count and its count within the second grow by one; reaching CKWARN warns every armed context. -/
def ErrorCounted : Prop :=
  ∀ s link index total within, index < (if link then 4 else 256) →
    s.observe.errors.find? (fun x => x.1 == link && x.2.1 == index) = some (link, index, total, within, s.time / 800000000) →
    ∃ r, exec (.correctedError link index) s = .next r ∧
      r.observe.errors.head? = some (link, index, total + 1, within + 1, s.time / 800000000) ∧
      (within + 1 = s.observe.ckWarn.toNat → ∀ c ∈ s.contexts, c.armed.isSome → c.id ∈ r.observe.warned) ∧
      (within + 1 ≠ s.observe.ckWarn.toNat → r.observe.warned = s.observe.warned)

/-- A temperature (R15): at 100 °C and more, below 110 °C, the island goes to its lowest step that is not gated, firmware is warned, and every armed context is to be
checkpointed (R233); below, only the reading is kept. -/
def Warms : Prop :=
  ∀ s i t x, i < 16 → s.islands[i]? = some x →
    (t < 100 → ∃ r, exec (.thermalWarning i t) s = .next r ∧ IslandIs r i { x with temp := t } ∧ r.observe = s.observe) ∧
    (100 ≤ t → t < 110 → ∃ r, exec (.thermalWarning i t) s = .next r ∧ (∃ y, IslandIs r i y ∧ y.temp = t ∧ y.step = max x.step (lowestStep i) ∧ y.limit = setBit x.limit 1 true) ∧
      r.observe.thermal = s.observe.thermal ++ [(i, s.time)] ∧ ∀ c ∈ s.contexts, c.armed.isSome → c.id ∈ r.observe.warned)

/-- A reset (R66): the machine of `State.reset`, but that memories, the audit log and the dump region keep their contents, lines of pavilions as they are sealed (R59), the boot
epoch is one greater, and the boot ROM has measured again; a fatal error (R237, R238) writes its dump, of what belongs to no pavilion in the open, and takes the device to reset. -/
def DeviceResets : Prop :=
  (∀ s, ∃ r, exec .deviceReset s = .next r ∧ r.mem = sealedMem s ∧ (s.seals = [] → r.mem = s.mem) ∧ r.hostMem = s.hostMem ∧ r.trust.epoch = s.trust.epoch + 1 ∧
    s.trust.nextSeq + 5 ≤ r.trust.nextSeq ∧ r.trust.booted = true ∧ r.contexts = [] ∧ r.teams = [] ∧ r.grids = [] ∧ r.partitions = State.reset.partitions ∧ r.pavilions = [] ∧
    r.islands = State.reset.islands ∧ r.time = 0 ∧ r.scratch = [] ∧ r.observe.dump = s.observe.dump) ∧
  (∀ s cause, ∃ r, exec (.fatalError cause) s = .next r ∧ r.mem = sealedMem s ∧ r.trust.epoch = s.trust.epoch + 1 ∧ r.contexts = [] ∧ r.teams = [] ∧
    ∃ d, r.observe.dump = some d ∧ d.header.length = 4096 ∧ d.header.take 8 = leBytes 4 0x4644 ++ leBytes 4 (causeCode cause) ∧
      d.grids = s.grids.filter (fun g => ctxPav s g.ctx == 0) ∧ d.views = s.views.filter (fun v => ctxPav s v.ctx == 0) ∧ d.holds = s.holds.filter (fun h => ctxPav s h.ctx == 0))

/-- A port is ready for a flit of a type from a peer (R18). The message of a flit stands from one of its fifteen slots on (R19). -/
def Receives (s : State) (port : Nat) (hdr : BitVec 64) (type : Nat) : Prop := portUp s port = true ∧ hdrType hdr = type

/-- A write's or an atomic's bytes wait at their home slice for their completion time, after which the peer is answered (R19, R161, R165). -/
def PeerWaits (s r : State) (port dev num addr : Nat) (bs : List Byte) (atom : Option (AtomOp × Bool)) : Prop :=
  r.mem = s.mem ∧ r.waiting = s.waiting ++
    [{ tid := ⟨0, 0, 0⟩, ctx := 0, view := 0, pa := addr, bytes := bs, c := max s.time (max (lineRec s (addr / 64)).lm (lineRec s (addr / 64)).lastC) + 1, add := false
       atom := atom.map Prod.fst, peer := some ⟨dev, port, num, (atom.map Prod.snd).getD false⟩ }]

/-- Requests of peers (R19, R22, R139, R161, R165) on a port that is up, to memory whose channel the port's partition owns: a read is answered on that port with the line and
the lease that its home slice grants; a write or an atomic waits for its completion time. -/
def PeerServed : Prop :=
  (∀ s port dev hdr slot num addr cls, Receives s port hdr 1 → slot < 15 → portAllows s port addr = true → port < 24 → s.links.out = [] →
    let y := mergeLine (arriveFlit s port dev hdr) (addr / 64)
    let m : LinkMsg := ⟨.response, dev, num, 0, 64, 0, none, (grantLease y (addr / 64) y.time cls).1.getD 0, seen y 0 0 (addr / 64 * 64) 64⟩
    ∃ r, exec (.linkReadRequest port dev hdr slot num addr cls) s = .next r ∧
      ∃ x f, r.links.ports[port]? = some x ∧ f ∈ x.replay ∧ f.kind = 1 ∧ f.dev = dev ∧ m ∈ f.msgs) ∧
  (∀ s port dev hdr slot num addr n atom data, Receives s port hdr 1 → slot + 1 + (min n 64 + 15) / 16 ≤ 15 → portAllows s port addr = true → addr % 64 + min n 64 ≤ 64 →
    ∃ r, exec (.linkWrite port dev hdr slot num addr ⟨n, atom⟩ data) s = .next r ∧
      PeerWaits s r port dev num addr (leBytes (min n 64) data.toNat) (atom.map fun x => (AtomOp.numbered x.1, x.2)))

/-- Answers of peers (R19, R139, R161): a response performs the load that asked; an acknowledgement completes a store at system scope one tick later. -/
def PeerAnswers : Prop :=
  ∀ s port dev hdr slot num q t acc th a, Receives s port hdr 1 → req? s num = some q → q.dev = dev → q.src = .access [(t, acc)] → thread? s t = some th →
    acc? s t acc = some a → a.id = acc →
    (∀ expiry data rd sx, slot ≤ 10 → a.op = .load rd sx → ∃ r, exec (.linkReadResponse port dev hdr slot num expiry data) s = .next r ∧
      Delivered r t th a rd sx (((leBytes 64 data.toNat).drop (a.pa.getD 0 % 64)).take a.size) ∧ req? r num = none) ∧
    (slot < 15 → ∃ r, exec (.linkAcknowledgement port dev hdr slot num) s = .next r ∧ (∃ b, acc? r t acc = some b ∧ b.c = some (s.time + 1)) ∧ req? r num = none ∧
      ∃ th', thread? r t = some th' ∧ th'.wctSystem = max th.wctSystem (s.time + 1))

/-- Failures of a link (R20, R21): a bad CRC asks for the flit after the last one received; a replay request frees what it acknowledges and sends the flit after that again,
counting; eight failed replays of one flit take the port down, and the flit goes on as one of type 3 on another port; a flit of type 3 whose number the failed port has received is
dropped, another is performed; a request without an answer ends 80,000 ticks after its issue. -/
def LinkFails : Prop :=
  (∀ s port dev p, s.links.ports[port]? = some p → p.up = true → ∃ f : Flit, f.kind = 2 ∧ f.dev = dev ∧ f.port = port ∧ f.ack = (seqOf p.rxSeq dev).getD 4095#12 ∧ f.msgs = [] ∧
    exec (.crcFailure port dev) s = .next { s with links := { s.links with sent := s.links.sent ++ [f] } }) ∧
  (∀ s port dev hdr p f, s.links.ports[port]? = some p → p.up = true → hdrType hdr = 2 →
    (p.replay.filter fun f => !(f.dev == dev && atOrBelow f.seq (hdrAck hdr))).find? (fun f => f.dev == dev && f.seq == hdrAck hdr + 1) = some f → f.replays < 8 →
    ∃ r, exec (.linkReplayRequest port dev hdr) s = .next r ∧ r.links.sent = s.links.sent ++ [{ f with replays := f.replays + 1 }] ∧
      ∃ q, r.links.ports[port]? = some q ∧ { f with replays := f.replays + 1 } ∈ q.replay) ∧
  (∀ s port p f q, s.links.ports[port]? = some p → p.up = true → p.replay = [f] → 8 < f.replays → f.kind = 1 → otherPort s port f.dev = some q →
    ∃ r, exec (.portDown port) s = .next r ∧ r.links.reqs = s.links.reqs ∧ (∃ y, r.links.ports[port]? = some y ∧ y.up = false ∧ y.replay = [] ∧ y.rxSeq = p.rxSeq) ∧
      ∃ x g, r.links.ports[q]? = some x ∧ g ∈ x.replay ∧ g.kind = 3 ∧ g.dev = f.dev ∧ g.failed = port ∧ g.orig = f.seq ∧ g.msgs = f.msgs) ∧
  (∀ s port dev hdr slot kind num addr n cls atom expiry data p, Receives s port hdr 3 → port ≠ hdrFailed hdr → s.links.ports[hdrFailed hdr]? = some p →
    s.links.resent ≠ some (dev, hdrFailed hdr, hdrOrig hdr) →
    ((∃ x, seqOf p.rxSeq dev = some x ∧ atOrBelow (hdrOrig hdr) x = true) →
      exec (.failoverMessage port dev hdr slot kind num addr ⟨n, atom⟩ cls expiry data) s = .next (arriveFlit s port dev hdr)) ∧
    ((∀ x, seqOf p.rxSeq dev = some x → atOrBelow (hdrOrig hdr) x = false) → kind = 1 → slot + 1 + (min n 64 + 15) / 16 ≤ 15 → portAllows s port addr = true → addr % 64 + min n 64 ≤ 64 →
      ∃ r, exec (.failoverMessage port dev hdr slot kind num addr ⟨n, atom⟩ cls expiry data) s = .next r ∧
        PeerWaits s r port dev num addr (leBytes (min n 64) data.toNat) none ∧
        ∃ q, r.links.ports[hdrFailed hdr]? = some q ∧ seqOf q.rxSeq dev = some (hdrOrig hdr))) ∧
  (∀ s num q t acc c a th, req? s num = some q → q.src = .access [(t, acc)] → tidCtx s t = some c → q.issued + 80000 ≤ s.time → acc? s t acc = some a →
    a.op = .store → thread? s t = some th → ∃ r, exec (.peerTimeout num) s = .next r ∧ req? r num = none ∧
      (thread? r t = some { th with queue := th.queue.filter fun b => b.id ≠ acc }) ∧
      ∃ k, ctx? r c.id = some k ∧ (k.faultHead = c.faultHead + 1 ∨ k.faultLost = c.faultLost + 1))

/-! ### Steps of the machine: the host interface (R25, R29 to R48, R66, R96) -/

/-- Vector `vec` of function `fn` is raised: a message, or its pending bit where the host masks the vector or the function's link is not trained; a function has no vectors
beyond its own (R24, R25, R38). -/
def Rings (s r : State) (fn vec : Nat) : Prop :=
  (vec < vectorsOf fn → (fn, vec) ∉ s.host.masked → linkUp s fn = true → r.host.msgs = s.host.msgs ++ [(fn, vec)] ∧ r.host.pending = s.host.pending) ∧
  (vec < vectorsOf fn → (fn, vec) ∈ s.host.masked ∨ linkUp s fn = false → r.host.msgs = s.host.msgs ∧ (fn, vec) ∈ r.host.pending) ∧
  (vectorsOf fn ≤ vec → r.host.msgs = s.host.msgs ∧ r.host.pending = s.host.pending)

/-- The newest audit entry is this event's: numbered, timed, chained to the entry before, with `detail` and zeros (R69, R70). -/
def Logs (s r : State) (source code ctx part : Nat) (detail : List Byte) : Prop :=
  s.trust.overwritten = none → ∃ e l, r.trust.audit = e :: l ∧ e.seq = s.trust.nextSeq ∧ e.time = s.time ∧ e.source = source ∧ e.code = code ∧ e.ctx = ctx ∧
    e.part = part ∧ e.detail = (detail ++ List.replicate 40 0#8).take 40 ∧ r.trust.nextSeq = s.trust.nextSeq + 1 ∧
    e.chain = Config.sha512 (leBytes 64 (chainHead s).toNat ++ entryBytes e.seq e.time source code ctx part e.detail)

/-- Vectors (R38, R39): a signal whose threads' stores have completed is sent, another stays; unmasking sends a pending one; the fault vector of a
context comes after new records, at most once in 800 ticks. -/
def VectorsSent : Prop :=
  (∀ s ts fn vec, s.host.sigs = [(ts, fn, vec)] → (∀ t ∈ ts, storesDone s t = true) → ∃ r, exec .msiMessage s = .next r ∧ Rings s r fn vec ∧ r.host.sigs = []) ∧
  (∀ s ts fn vec, s.host.sigs = [(ts, fn, vec)] → (∃ t ∈ ts, storesDone s t = false) → exec .msiMessage s = .next s) ∧
  (∀ s fn vec, (fn, vec) ∈ s.host.pending → vec < vectorsOf fn → linkUp s fn = true → ∃ r, exec (.vectorUnmask fn vec) s = .next r ∧
    r.host.msgs = s.host.msgs ++ [(fn, vec)] ∧ (fn, vec) ∉ r.host.pending ∧ (fn, vec) ∉ r.host.masked) ∧
  (∀ s fn vec, (fn, vec) ∉ s.host.pending → ∃ r, exec (.vectorUnmask fn vec) s = .next r ∧
    r.host.msgs = s.host.msgs ∧ ∀ x, x ∈ r.host.masked ↔ x ∈ s.host.masked ∧ x ≠ (fn, vec)) ∧
  (∀ s c, ctx? s c.id = some c → c.faultDue = true → (∀ t, c.faultTick = some t → t + 800 ≤ s.time) →
    ∃ r, exec (.faultVector c.id) s = .next r ∧ Rings s r c.msix c.vecBase ∧ ctx? r c.id = some { c with faultDue := false, faultTick := some s.time }) ∧
  (∀ s c, ctx? s c.id = some c → (c.faultDue = false ∨ ∃ t, c.faultTick = some t ∧ s.time < t + 800) → exec (.faultVector c.id) s = .next s)

/-- A window access of a physical function that passes (R24, R26, R45, R46): its link is trained, the offset lies in the window, its segment entry is valid with its reserved
bits 0, and the bytes lie in one segment, in device memory, on no sealed frame and in no scrub-pending granule. -/
structure InWindow (s : State) (fn off n pa : Nat) (e : BitVec 64) : Prop where
  pf : fn ≤ 1 ∧ vf? s fn = none ∧ linkUp s fn = true
  inside : off / 2 ^ 30 < windowGib s fn ∧ off % 2 ^ 30 + n ≤ 2 ^ 30
  entry : segEntry s 0 (off / 2 ^ 30) = e
  valid : e.getLsbD 0 = true ∧ e.toNat / 4 % 2 ^ 28 = 0 ∧ e.toNat / 2 ^ 52 = 0
  place : pa = e.toNat / 2 ^ 30 % 2 ^ 22 * 2 ^ 30 + off % 2 ^ 30
  memory : pa + n ≤ deviceBytes ∧ ∀ f ∈ framesOf pa n, pavOfPa s (f * 65536) = 0 ∧ scrubPending s (f * 65536) = false

/-- Window accesses (R24, R36, R45, R46, R69, R238): a read returns the bytes of the committed state; a write with bit 1 of its entry, outside the audit log and the dump, arrives
at its home slice and waits for its completion time, after the earlier writes of its link; an access through an invalid entry or across the end of a segment reads all ones, writes
nothing and is counted; nothing arrives on a link that is not trained. -/
def WindowWorks : Prop :=
  (∀ s fn off n pa e ide, InWindow s fn off n pa e →
    exec (.windowRead ⟨fn, ide⟩ off n) s = .next { s with host := { s.host with readData := homeBytes s 0 pa n } }) ∧
  (∀ s fn off n pa e data ide, InWindow s fn off n pa e → inRing s pa n = false → inDump s pa n = false → e.getLsbD 1 = true → 1 ≤ n → off % 64 + n ≤ 64 →
    let c := max (max s.time (lastWindow s fn)) (max (lineRec s (pa / 64)).lm (lineRec s (pa / 64)).lastC) + 1
    ∃ r, exec (.windowWrite ⟨fn, ide⟩ off n data) s = .next r ∧ r.mem = s.mem ∧ lastWindow r fn = c ∧
      r.waiting = s.waiting ++ [{ tid := ⟨0, 0, 0⟩, ctx := 0, view := 0, pa := pa, bytes := leBytes n data.toNat, c := c }]) ∧
  (∀ s fn off n data ide, linkUp s fn = true → s.host.winFail ≠ 0xFFFFFFFF#32 →
    ((segOf s fn off).getLsbD 0 = false ∨ (2 ^ 30 < off % 2 ^ 30 + n ∧ ∀ pa, scrubPending s pa = false)) →
    exec (.windowRead ⟨fn, ide⟩ off n) s = .next { s with host := { s.host with winFail := s.host.winFail + 1, readData := List.replicate n 0xFF#8 } } ∧
    exec (.windowWrite ⟨fn, ide⟩ off n data) s = .next { s with host := { s.host with winFail := s.host.winFail + 1 } }) ∧
  (∀ s fn off n data ide, linkUp s fn = false → exec (.windowRead ⟨fn, ide⟩ off n) s = .next s ∧ exec (.windowWrite ⟨fn, ide⟩ off n data) s = .next s)

/-- Untrusted accesses and interfaces (R25, R44, R48): an untrusted access is logged and counted and has no other effect; a TDISP state changes; HFEN
becomes 1 only over an aligned base and a legal number of entries. -/
def InterfacesGuard : Prop :=
  (∀ s, ∃ r, exec .untrustedAccess s = .next r ∧ Logs s r 0 1 0 0 [] ∧ r.trust.untrusted = s.trust.untrusted + 1 ∧ r = { s with trust := r.trust }) ∧
  (∀ s fn v code, vf? s fn = some v → ∃ r, exec (.tdispStateChange fn code) s = .next r ∧
    vf? r fn = some { v with tdisp := if code = 0 then .configUnlocked else if code = 1 then .configLocked else if code = 2 then .run else .error } ∧ r = { s with host := r.host }) ∧
  (∀ s, exec (.hfenWrite false) s = .next { s with host := { s.host with hfEn := false } }) ∧
  (∀ s k, s.host.hfBase.toNat % 64 = 0 → 6 ≤ k → k ≤ 16 → s.host.hfEntries = BitVec.ofNat 32 (2 ^ k) →
    exec (.hfenWrite true) s = .next { s with host := { s.host with hfEn := true } }) ∧
  (∀ s, s.host.hfBase.toNat % 64 ≠ 0 ∨ (∀ k, 6 ≤ k → k ≤ 16 → s.host.hfEntries ≠ BitVec.ofNat 32 (2 ^ k)) →
    exec (.hfenWrite true) s = .next { s with host := { s.host with hfEn := false } })

/-- The command in the mailbox is taken and has not run. -/
structure Command (s : State) (code : Nat) : Prop where
  busy : s.mailbox.busy = true ∧ s.mailbox.running = true ∧ s.mailbox.pendResult = none
  code : cmdWord s 0 % 256 = code

/-- The command ran with a result and OUT words; publishing them is `command_end`'s. -/
def Ran (r : State) (res : BitVec 8) (out : List Word) : Prop := r.mailbox.pendResult = some res ∧ r.mailbox.pendOut = out ∧ r.mailbox.busy = true

/-- The mailbox (R30): at the end of a command TAG, RESULT and the OUT words stand, BUSY clears and vector 0 is raised; an unknown code ends with BAD_COMMAND. -/
def CommandEnds : Prop :=
  (∀ s res, s.mailbox.busy = true → s.mailbox.running = true → s.mailbox.pendResult = some res → cmdWaits s = false → s.mailbox.pendOut.length ≤ 6 →
    ∃ r, exec .commandEnd s = .next r ∧ r.mailbox.busy = false ∧ r.mailbox.result = res ∧ r.mailbox.tag = BitVec.ofNat 16 (cmdWord s 0 / 65536) ∧
      r.mailbox.out.length = 6 ∧ r.mailbox.out.take s.mailbox.pendOut.length = s.mailbox.pendOut ∧ r.mailbox.cmd = s.mailbox.cmd ∧ Rings s r 0 0) ∧
  (∀ s code, Command s code → code = 0 ∨ 6 < code → ∃ r, exec .badCommand s = .next r ∧ Ran r 1 [] ∧ r = { s with mailbox := r.mailbox })

/-- A context as a descriptor names it (R32): what the bytes give stands in the context's fields. -/
structure FromDescriptor (s : State) (c : Context) (id : Nat) (bs : List Byte) : Prop where
  id : c.id = id
  owner : c.part = fieldAt bs 8 2 ∧ c.pav = fieldAt bs 0x0A 2 ∧ c.msix = fieldAt bs 0x0C 2
  roots : c.root1 = fieldAt bs 0x10 8 ∧ c.root2 = fieldAt bs 0x18 8 ∧ c.rootRec.toNat = fieldAt bs 0x20 10
  arena : c.arenaBase = fieldAt bs 0x30 8 ∧ c.arenaSize = fieldAt bs 0x38 8
  pool : c.extents = if fieldAt bs 0x48 8 = 0 then [] else [(fieldAt bs 0x40 8, fieldAt bs 0x48 8)]
  faults : c.faultBase = fieldAt bs 0x50 8 ∧ c.faultEntries = fieldAt bs 0x58 4
  handler : c.handler.toNat = fieldAt bs 0x5C 4
  window : c.window = if fieldAt bs 0x60 8 = 0 then 2 ^ 24 else fieldAt bs 0x60 8
  vectors : c.vecBase = fieldAt bs 0x68 2 ∧ c.vecCount = fieldAt bs 0x6A 2
  quota : c.quota = fieldAt bs 0x6C 4 ∧ c.saveBytes = fieldAt bs 0x70 4
  fresh : c.suspended = false ∧ c.ringSize = 0 ∧ c.armed = none

/-- CREATE_CONTEXT (R31, R32, R34): a descriptor that passes gives the lowest free id a context with the descriptor's fields, its root record starts a grid as `launch`
would, and OUT word 0 is the id; one that fails creates nothing. -/
def ContextCreated : Prop :=
  (∀ s id, Command s 1 → createFails s (cmdAddr s) (homeBytes s 0 (cmdAddr s) 256) = none → freeCtx s = some id →
    ∃ c, FromDescriptor s c id (homeBytes s 0 (cmdAddr s) 256) ∧
      ∃ r, exec .createContext s = .next r ∧ Ran r 0 [BitVec.ofNat 32 id] ∧
        r = endCmd (startRoot { s with contexts := s.contexts ++ [c], trust := { s.trust with contextCreated := true } } c) 0 [BitVec.ofNat 32 id]) ∧
  (∀ s code, Command s 1 → createFails s (cmdAddr s) (homeBytes s 0 (cmdAddr s) 256) = some code →
    ∃ r, exec .createContext s = .next r ∧ Ran r code [] ∧ r = { s with mailbox := r.mailbox })

/-- DESTROY_CONTEXT of a context without teams (R34, R63): the context and every translation, grid, lease, hold, family, lock, version and
dirty line of it are gone; HBM keeps what the context's lines that were dropped with the caches do not cover. An unknown id is NO_CONTEXT. -/
def ContextDestroyed : Prop :=
  (∀ s c, Command s 2 → cmdWord s 0 / 256 % 256 = 0 → cmdWord s 1 = c.id → ctx? s c.id = some c → (∀ t ∈ s.teams, t.ctx ≠ c.id) →
    (∀ k, s.observe.ckRun = some k → k.ctx ≠ c.id) →
    ∃ r, exec .destroyContext s = .next r ∧ r.mailbox.pendResult = some 0 ∧ ctx? r c.id = none ∧ (∀ d ∈ r.dirty, d.ctx ≠ c.id) ∧
      (∀ a, (∀ d ∈ s.dirty, d.ctx = c.id → a < d.line * 64 ∨ d.line * 64 + d.old.length ≤ a) → Memory.read r.mem a = Memory.read s.mem a) ∧ (∀ e ∈ r.tlb, e.ctx ≠ c.id) ∧ (∀ g ∈ r.grids, g.ctx ≠ c.id) ∧
      (∀ l ∈ r.engLeases, l.ctx ≠ c.id) ∧ (∀ h ∈ r.holds, h.ctx ≠ c.id) ∧ (∀ f ∈ r.families, f.ctx ≠ c.id) ∧ (∀ k ∈ r.locks, k.ctx ≠ c.id) ∧
      (∀ v ∈ r.versions, v.ctx ≠ c.id) ∧ (∀ l ∈ r.constCache, l.ctx ≠ c.id)) ∧
  (∀ s, Command s 2 → cmdWord s 0 / 256 % 256 = 0 → ctx? s (cmdWord s 1) = none → ∃ r, exec .destroyContext s = .next r ∧ Ran r 3 [] ∧ r = { s with mailbox := r.mailbox })

/-- SUSPEND, RESUME and SET_WATCHDOG of an existing context (R34, R96): suspended, its teams are pre-empted; resumed, nothing of the hypervisor holds it, its teams or its grids;
the window is set (0 counts as 2^24) and counts from 0. -/
def ContextHeld : Prop :=
  (∀ s c, Command s 3 → cmdWord s 0 / 256 % 256 = 0 → cmdWord s 1 = c.id → ctx? s c.id = some c → s.forks = [] → (∀ t ∈ s.teams, t.ctx = c.id → t.discarded = false) → (s.teams.map Team.id).Nodup →
    ∃ r, exec .suspendContext s = .next r ∧ r.mailbox.pendResult = some 0 ∧ (∃ k, ctx? r c.id = some k ∧ k.suspended = true ∧ 0 ∈ k.suspendedBy) ∧
      ∀ t ∈ r.teams, t.ctx = c.id → t.state ≠ .resident) ∧
  (∀ s c, Command s 4 → cmdWord s 0 / 256 % 256 = 0 → cmdWord s 1 = c.id → ctx? s c.id = some c → c.suspended = true → (∀ w ∈ c.suspendedBy, w ≤ 1) →
    ∃ r, exec .resumeContext s = .next r ∧ r.mailbox.pendResult = some 0 ∧ ctx? r c.id = some { c with suspended := false, suspendedBy := [] } ∧
      (∀ t ∈ r.teams, t.ctx = c.id → t.held = false) ∧ (∀ g ∈ r.grids, g.ctx = c.id → g.held = false)) ∧
  (∀ s c, Command s 5 → cmdWord s 0 / 256 % 256 = 0 → cmdWord s 1 = c.id → ctx? s c.id = some c →
    let n := cmdWord s 2 + 2 ^ 32 * cmdWord s 3
    ∃ r, exec .setWatchdog s = .next r ∧ r.mailbox.pendResult = some 0 ∧ ctx? r c.id = some { c with window := if n = 0 then 2 ^ 24 else n, idle := 0, noticed := false })

/-- MEASURE_STEWARD (R31, R66): once in a boot and before the first CREATE_CONTEXT, MEAS5 is extended with the digest of the staged image; later it is BAD_COMMAND. -/
def StewardMeasured : Prop :=
  (∀ s old, Command s 6 → cmdWord s 0 / 256 % 256 = 0 → cmdWord s 2 / 2 ^ 20 = 0 → s.trust.stewardDone = false → s.trust.contextCreated = false → s.trust.meas[5]? = some old →
    let n := cmdWord s 3 + 2 ^ 32 * cmdWord s 4
    n ≠ 0 → n ≤ 2 ^ 32 → cmdAddr s + n ≤ deviceBytes →
    ∃ r, exec .measureSteward s = .next r ∧ r.mailbox.pendResult = some 0 ∧ r.trust.stewardDone = true ∧
      r.trust.meas[5]? = some (Config.sha512 (leBytes 64 old.toNat ++ leBytes 64 (Config.sha512 (homeBytes s 0 (cmdAddr s) n)).toNat)) ∧ Logs s r 2 0x50 0 0 [5#8]) ∧
  (∀ s, Command s 6 → s.trust.stewardDone = true ∨ s.trust.contextCreated = true → ∃ r, exec .measureSteward s = .next r ∧ Ran r 1 [] ∧ r = { s with mailbox := r.mailbox })

/-! ### Steps of the machine: partitions, leases of engines and pavilions (R49 to R65, R88) -/

/-- A partition operation ends (R52): RESULT, BUSY clear, vector 2, and the audit entry 0x10 + the operation's code. -/
def PartEnds (s r : State) (op : Nat) (code : BitVec 8) : Prop :=
  r.partIf.result = code ∧ r.partIf.busy = false ∧ Rings s r 0 2 ∧ Logs s r 0 (0x10 + op) 0 s.partIf.psel [code]

/-- The operations of page 0x005 can start: none is in progress, and PSEL is a partition id. -/
def PselOk (s : State) : Prop := s.partIf.busy = false ∧ 1 ≤ s.partIf.psel ∧ s.partIf.psel ≤ 64

/-- No other partition owns a staged resource. -/
def StagedFree (s : State) : Prop := ∀ q ∈ s.partitions, q.id ≠ s.partIf.psel → q.own.meets s.partIf.staged = false

/-- No team stands on a staged cluster, and none is under pre-emption. -/
def NoTeamOn (s : State) : Prop := ∀ t ∈ s.teams, onClusters s.partIf.staged.clusters t = false ∧ t.state ≠ .preempting

/-- Nothing but clusters is staged. -/
def OnlyClusters (s : State) : Prop := s.partIf.staged.slices = [] ∧ s.partIf.staged.channels = [] ∧ s.partIf.staged.engines = [] ∧ s.partIf.staged.ports = []

/-- Partitions (R50 to R54, R88): DEFINE makes PSEL of the staged resources; DELETE returns them; GROW adds and SHRINK removes the staged ones; LEND gives clusters to PEER's
dispatcher and RECLAIM takes them back, with registers, scratchpad and L1 cleared; READ writes the owned ones to page 0x006. These are the ends of operations that wait for no team. -/
def PartitionsChange : Prop :=
  (∀ s, PselOk s → part? s s.partIf.psel = none → StagedFree s → s.partIf.staged.clusters ≠ [] → s.partIf.staged.slices ≠ [] → s.partIf.staged.channels ≠ [] →
    ∃ r, exec .define s = .next r ∧ r.partitions = s.partitions ++ [⟨s.partIf.psel, s.partIf.staged, []⟩] ∧ PartEnds s r 1 0) ∧
  (∀ s p, PselOk s → part? s s.partIf.psel = some p → p.lent = [] → (∀ c ∈ s.contexts, c.part ≠ s.partIf.psel) →
    ∃ r, exec .delete s = .next r ∧ r.partitions = s.partitions.filter (fun x => x.id ≠ s.partIf.psel) ∧ PartEnds s r 2 0) ∧
  (∀ s p, PselOk s → part? s s.partIf.psel = some p → StagedFree s → rehomes s = false →
    ∃ r, exec .grow s = .next r ∧ part? r s.partIf.psel = some { p with own := p.own.plus s.partIf.staged } ∧ PartEnds s r 3 0) ∧
  (∀ s p, PselOk s → part? s s.partIf.psel = some p → StagedFree s → p.lent = [] → (p.own.minus s.partIf.staged).legal = true → rehomes s = false → s.grids = [] → NoTeamOn s →
    ∃ r, exec .shrink s = .next r ∧ part? r s.partIf.psel = some { p with own := p.own.minus s.partIf.staged } ∧ PartEnds s r 4 0) ∧
  (∀ s p q, PselOk s → 1 ≤ s.partIf.peer → s.partIf.peer ≤ 64 → OnlyClusters s → part? s s.partIf.psel = some p → part? s s.partIf.peer = some q →
    (∀ c ∈ s.partIf.staged.clusters, c ∈ p.own.clusters ∧ pavCluster s c = false ∧ (∀ b, (c, b) ∉ p.lent) ∧ ∀ x ∈ s.partitions, (c, s.partIf.psel) ∉ x.lent) → NoTeamOn s →
    ∃ r, exec .lend s = .next r ∧ part? r s.partIf.psel = some { p with lent := p.lent ++ s.partIf.staged.clusters.map fun c => (c, s.partIf.peer) } ∧ PartEnds s r 5 0 ∧
      ∀ x ∈ r.scratch, clusterOf (x.1 / 262144) ∉ s.partIf.staged.clusters) ∧
  (∀ s p, PselOk s → OnlyClusters s → part? s s.partIf.psel = some p → (∀ c ∈ s.partIf.staged.clusters, c ∈ p.own.clusters) → NoTeamOn s →
    ∃ r, exec .reclaim s = .next r ∧ part? r s.partIf.psel = some { p with lent := p.lent.filter fun x => !s.partIf.staged.clusters.contains x.1 } ∧ PartEnds s r 6 0) ∧
  (∀ s p, PselOk s → part? s s.partIf.psel = some p → ∃ r, exec .partitionRead s = .next r ∧ r.partIf.staged = p.own ∧ PartEnds s r 7 0)

/-- Operations that end with another code change no partition (R52): a bad id, a partition that is missing or defined already, a resource of another partition, an empty set, a
context in the way, a lent cluster. -/
def PartitionRefused : Prop :=
  ∀ s, s.partIf.busy = false → ∀ i op code, ((i, op, code) : Instr × Nat × BitVec 8) ∈ [(.define, 1, 1), (.delete, 2, 1), (.grow, 3, 1), (.shrink, 4, 1), (.lend, 5, 1), (.reclaim, 6, 1),
      (.partitionRead, 7, 1), (.define, 1, 5), (.define, 1, 2), (.grow, 3, 2), (.shrink, 4, 2), (.define, 1, 3), (.delete, 2, 4), (.delete, 2, 6), (.delete, 2, 5), (.grow, 3, 5), (.shrink, 4, 5),
      (.reclaim, 6, 5), (.partitionRead, 7, 5)] →
    (if code = 1 then 64 < s.partIf.psel
     else 1 ≤ s.partIf.psel ∧ s.partIf.psel ≤ 64 ∧
      (if op = 1 ∧ code = 5 then ∃ p, part? s s.partIf.psel = some p
       else if code = 5 then part? s s.partIf.psel = none ∧ (op = 6 → OnlyClusters s)
       else if code = 2 then ((op = 1 ∧ part? s s.partIf.psel = none) ∨ (op ≠ 1 ∧ ∃ p, part? s s.partIf.psel = some p)) ∧ ¬StagedFree s
       else if code = 3 then part? s s.partIf.psel = none ∧ StagedFree s ∧ s.partIf.staged.clusters = []
       else if code = 4 then (∃ p, part? s s.partIf.psel = some p ∧ p.lent = []) ∧ ∃ c ∈ s.contexts, c.part = s.partIf.psel
       else ∃ p, part? s s.partIf.psel = some p ∧ p.lent ≠ [])) →
    ∃ r, exec i s = .next r ∧ r.partitions = s.partitions ∧ PartEnds s r op code

/-- A RECLAIM, LEND or SHRINK in progress waits while a team on the staged clusters is not saved, and then completes (R54, R88). -/
def OperationWaits : Prop :=
  (∀ s t, s.partIf.busy = true → t ∈ s.teams → t.state = .preempting → t.why = some .reclaim → (∀ u ∈ s.teams, u.state ≠ .bound) → exec .reclaimComplete s = .next s) ∧
  (∀ s p, s.partIf.busy = true → s.partIf.op = 6 → part? s s.partIf.psel = some p → (∀ t ∈ s.teams, t.state = .saved) →
    ∃ r, exec .reclaimComplete s = .next r ∧ part? r s.partIf.psel = some { p with lent := p.lent.filter fun x => !s.partIf.staged.clusters.contains x.1 } ∧ PartEnds s r 6 0)

/-- Bulk engines (R55): BIND leases an owned engine that no other context holds until LEASE ticks from now; RELEASE ends a lease at once; an engine in another lease is BUSY; a lease
ends at its expiry. -/
def EnginesLeased : Prop :=
  (∀ s c, s.partIf.eng < 64 → s.partIf.ectx < 1024 → ctx? s s.partIf.ectx = some c → s.partIf.eng ∈ (ownOf s c.part).engines →
    ((∀ l, leaseOf s s.partIf.eng = some l → l.ctx = s.partIf.ectx) →
      ∃ r, exec .bind s = .next r ∧ r.partIf.eresult = 0 ∧ (0 < s.partIf.lease.toNat → leaseOf r s.partIf.eng = some ⟨s.partIf.eng, s.partIf.ectx, s.time + s.partIf.lease.toNat⟩) ∧
        ∀ l, l.eng ≠ s.partIf.eng → (l ∈ r.engLeases ↔ l ∈ s.engLeases)) ∧
    (∀ l, leaseOf s s.partIf.eng = some l → l.ctx ≠ s.partIf.ectx → exec .bind s = .next { s with partIf := { s.partIf with eresult := 4 } })) ∧
  (∀ s, s.partIf.eng < 64 → s.partIf.ectx < 1024 → ∃ r, exec .leaseRelease s = .next r ∧ r.partIf.eresult = 0 ∧ leaseOf r s.partIf.eng = none ∧
    ∀ l, l.eng ≠ s.partIf.eng → (l ∈ r.engLeases ↔ l ∈ s.engLeases)) ∧
  (∀ s eng, ∃ r, exec (.leaseExpiry eng) s = .next r ∧ ∀ l, l ∈ r.engLeases ↔ l ∈ s.engLeases ∧ ¬(l.eng = eng ∧ l.expiry ≤ s.time))

/-- A pavilion operation ends (R57): RESULT, BUSY clear, and the audit entry 0x20 + the operation's code. -/
def PavEnds (s r : State) (op part : Nat) (code : BitVec 8) : Prop :=
  r.pavIf.result = code ∧ r.pavIf.busy = false ∧ Logs s r 0 (0x20 + op) 0 part (leBytes 1 s.pavIf.sel)

/-- The named quadrants and banks of a pavilion on a core. -/
def masksOf (p : Pavilion) (core : Nat) : Nat × Nat := ((p.cores.find? fun x => x.1 == core).map Prod.snd).getD (0, 0)

/-- Pavilions (R57, R62): CREATE makes one with a fresh key and reserved ways, no cores and no frames; ASSIGN and UNASSIGN add and remove quadrants and banks of an owned core; ADDFRAME
lists frames on the partition's channels; DELFRAME and DESTROY queue the frames for scrub and wait, or end at once where there is none. -/
def PavilionsChange : Prop :=
  (∀ s q, s.pavIf.busy = false → 1 ≤ s.pavIf.sel → s.pavIf.sel < 64 → s.pavIf.part < 65536 → part? s s.pavIf.part = some q → pav? s s.pavIf.sel = none → s.pavIf.ways ≠ 0 → s.pavIf.waysBad = false →
    bitCount (reservedWays s s.pavIf.part s.pavIf.ways) ≤ 12 →
    ∃ r, exec .pavilionCreate s = .next r ∧ PavEnds s r 1 s.pavIf.part 0 ∧ ∃ p, r.pavilions = s.pavilions ++ [p] ∧ p.id = s.pavIf.sel ∧ p.part = s.pavIf.part ∧ p.ways = s.pavIf.ways ∧
      p.cores = [] ∧ p.frames = [] ∧ p.src = .live ∧ p.dst = .none ∧ p.key = Config.freshKey s.fresh) ∧
  (∀ s p, s.pavIf.busy = false → 1 ≤ s.pavIf.sel → s.pavIf.sel < 64 → s.pavIf.core < 1024 → s.pavIf.quad < 16 → pav? s s.pavIf.sel = some p →
    (coreOwned s = true → unitsTaken s = false → outsiders s = false → s.pavIf.bank < 2 ^ 32 → s.pavIf.quad ≠ 0 → (masksOf p s.pavIf.core).1 < 16 → (masksOf p s.pavIf.core).2 < 2 ^ 32 →
      ∃ r, exec .assign s = .next r ∧ PavEnds s r 2 p.part 0 ∧ ∃ p', pav? r s.pavIf.sel = some p' ∧
        masksOf p' s.pavIf.core = ((masksOf p s.pavIf.core).1 ||| s.pavIf.quad, (masksOf p s.pavIf.core).2 ||| s.pavIf.bank) ∧
        ∀ k, k ≠ s.pavIf.core → masksOf p' k = masksOf p k) ∧
    (coreOwned s = false ∨ unitsTaken s = true → ∃ r, exec .assign s = .next r ∧ PavEnds s r 2 p.part 2 ∧ r.pavilions = s.pavilions) ∧
    (coreOwned s = true → unitsTaken s = false → outsiders s = true → ∃ r, exec .assign s = .next r ∧ PavEnds s r 2 p.part 4 ∧ r.pavilions = s.pavilions) ∧
    ∃ r, exec .unassign s = .next r ∧ PavEnds s r 3 p.part 0 ∧ ∃ p', pav? r s.pavIf.sel = some p' ∧
      masksOf p' s.pavIf.core = ((BitVec.ofNat 4 (masksOf p s.pavIf.core).1 &&& ~~~BitVec.ofNat 4 s.pavIf.quad).toNat,
        (BitVec.ofNat 32 (masksOf p s.pavIf.core).2 &&& ~~~BitVec.ofNat 32 s.pavIf.bank).toNat) ∧ ∀ k, k ≠ s.pavIf.core → masksOf p' k = masksOf p k) ∧
  (∀ s p, s.pavIf.busy = false → 1 ≤ s.pavIf.sel → s.pavIf.sel < 64 → s.pavIf.frameLoBad = false → s.pavIf.frameHiBad = false → pav? s s.pavIf.sel = some p →
    ((∀ f ∈ namedFrames s, f * 65536 < deviceBytes ∧ meetsReserved s (f * 65536) 65536 = false ∧ f % 256 ∈ (ownOf s p.part).channels ∧ pavOfPa s (f * 65536) = 0 ∧ ∀ q ∈ s.pavilions, q.id ≠ 0) → s.rotation.active = false →
      ∃ r, exec .addframe s = .next r ∧ PavEnds s r 4 p.part 0 ∧ r.mem = s.mem ∧ ∃ p', pav? r s.pavIf.sel = some p' ∧ ∀ f, f ∈ p'.frames.map Prod.fst ↔ f ∈ p.frames.map Prod.fst ∨ f ∈ namedFrames s) ∧
    ((∀ f ∈ namedFrames s, f * 65536 < deviceBytes ∧ meetsReserved s (f * 65536) 65536 = false ∧ f % 256 ∈ (ownOf s p.part).channels ∧ pavOfPa s (f * 65536) = 0 ∧ ∀ q ∈ s.pavilions, q.id ≠ 0) →
      rotating s s.pavIf.sel = true → Memory.wf s.mem = true →
      ∃ r, exec .addframe s = .next r ∧ PavEnds s r 4 p.part 0 ∧ (∃ p', pav? r s.pavIf.sel = some p' ∧ ∀ x, x ∈ p'.frames ↔ x ∈ p.frames ∨ x.1 ∈ namedFrames s ∧ x.2 = true) ∧
        (∀ a, s.pavIf.frame * 65536 ≤ a → a < (s.pavIf.frame + s.pavIf.count) * 65536 → Memory.read r.mem a = 0)) ∧
    ((∀ f ∈ namedFrames s, f ∈ p.frames.map Prod.fst) → rotating s s.pavIf.sel = false → 1 ≤ s.pavIf.count →
      ∃ r, exec .delframe s = .next r ∧ r.pavIf.busy = true ∧ pav? r s.pavIf.sel = some p ∧ ∀ f ∈ namedFrames s, ∃ q ∈ r.frames.queue, q.base = f * 65536 ∧ q.size = 65536) ∧
    ((∀ c ∈ s.contexts, c.pav ≠ s.pavIf.sel) → p.frames ≠ [] →
      ∃ r, exec .pavilionDestroy s = .next r ∧ r.pavIf.busy = true ∧ r.pavilions = s.pavilions ∧ ∀ f ∈ p.frames, ∃ q ∈ r.frames.queue, q.base = f.1 * 65536 ∧ q.size = 65536) ∧
    (s.rotation.active = false → s.pavIf.count = 1 → s.pavIf.frame ∈ p.frames.map Prod.fst →
      ∃ r, exec .delframe s = .next r ∧ r.pavIf.busy = true ∧ pav? r s.pavIf.sel = some p ∧ r.frames.queue = s.frames.queue ++ [⟨s.pavIf.frame * 65536, 65536, s.frames.nextSeq⟩]) ∧
    ((∀ c ∈ s.contexts, c.pav ≠ s.pavIf.sel) → p.frames = [] → s.rotation.active = false →
      ∃ r, exec .pavilionDestroy s = .next r ∧ PavEnds s r 6 p.part 0 ∧ r.pavilions = s.pavilions.filter fun x => x.id ≠ p.id))

/-- The frame queue (R64, R65): a queued frame is scrub-pending at once; its scrub, by an engine that stands between two operations, writes zeros, drops every cached copy, writes TOKEN, raises vector 4 and is logged. -/
def FramesScrubbed : Prop :=
  (∀ s n, frameSize s.frames.size = some n → s.frames.base + n ≤ deviceBytes → ∃ r, exec .frameQueue s = .next r ∧
    r.frames.queue = s.frames.queue ++ [⟨s.frames.base, n, s.frames.nextSeq⟩] ∧ r.frames.nextSeq = s.frames.nextSeq + 1 ∧ r.mem = s.mem ∧
    ∀ a, s.frames.base ≤ a → a < s.frames.base + n → scrubPending r a = true) ∧
  (∀ s q l, s.frames.queue = q :: l → s.observe.ckRun = none → s.pavIf.busy = false → (∃ e ∈ scrubEngines s q, engineBusy s e = false) → (∀ x ∈ l, x.seq ≠ q.seq) → q.seq < 2 ^ 64 → Memory.wf s.mem = true →
    ∃ r, exec .frameScrub s = .next r ∧ r.frames.queue = l ∧ r.frames.token.toNat = q.seq ∧ Rings s r 0 4 ∧ Logs s r 0 0x40 0 0 (leBytes 8 q.base ++ leBytes 8 q.size) ∧
      (∀ a, q.base ≤ a → a < q.base + q.size → Memory.read r.mem a = 0) ∧ (∀ a, ¬(q.base ≤ a ∧ a < q.base + q.size) → Memory.read r.mem a = Memory.read s.mem a) ∧
      ∀ v ∈ r.versions, ¬(v.line * 64 < q.base + q.size ∧ q.base < v.line * 64 + 64))

/-- Key rotation (R60 to R62): GO gives the pavilion's lines, from the first, a new key line by line: the line at POINTER is sealed under it, with its write that was held; behind POINTER a line is under it; past the last line the old key is gone, DONE
stands, vector 3 is raised and the rotation is logged. A second GO is BUSY. -/
def KeysRotate : Prop :=
  (∀ s p, s.rotation.active = false → 1 ≤ s.rotation.sel → s.rotation.sel < 64 → pav? s s.rotation.sel = some p → p.id = s.rotation.sel →
    (∀ f, minBy (fun (f : Nat) => f) (sweptFrames p) = some f → ∃ r, exec .keyRotationGo s = .next r ∧ r.rotation.active = true ∧ r.rotation.pav = p.id ∧ r.rotation.pointer = f * 65536 ∧
      r.rotation.newKey = Config.freshKey s.fresh ∧ r.rotation.result = 0 ∧ r.pavilions = s.pavilions) ∧
    (p.frames = [] → s.pavIf.busy = false → ∃ r, exec .keyRotationGo s = .next r ∧ r.rotation.active = false ∧ r.rotation.done = true ∧ Rings s r 0 3 ∧ Logs s r 0 0x30 0 p.part (leBytes 1 p.id) ∧
      ∃ p', pav? r p.id = some p' ∧ p'.key = Config.freshKey s.fresh)) ∧
  (∀ s, s.rotation.active = true → exec .keyRotationGo s = .next { s with rotation := { s.rotation with result := 4 } }) ∧
  (∀ s p, s.rotation.active = true → s.pavIf.busy = false → pav? s s.rotation.pav = some p → p.id = s.rotation.pav →
    (∀ a, nextLine p s.rotation.pointer = some a → ∃ r, exec .sweepLine s = .next r ∧ r.rotation = { s.rotation with pointer := a } ∧ r.pavilions = s.pavilions ∧ r.mem = s.mem ∧
      ∀ x ∈ s.seals, (x.line = s.rotation.pointer / 64 → x.pav = p.id →
          { x with key := s.rotation.newKey, code := Config.sealCode s.rotation.newKey x.line (memLine s x.line), held := false } ∈ r.seals) ∧
        (x.line ≠ s.rotation.pointer / 64 ∨ x.pav ≠ p.id → x ∈ r.seals)) ∧
    (nextLine p s.rotation.pointer = none → ∃ r, exec .sweepLine s = .next r ∧ r.rotation.active = false ∧ r.rotation.done = true ∧ Rings s r 0 3 ∧ Logs s r 0 0x30 0 p.part (leBytes 1 p.id) ∧
      ∃ p', pav? r p.id = some p' ∧ p'.key = s.rotation.newKey ∧ p'.frames.map Prod.fst = p.frames.map Prod.fst ∧ ∀ f ∈ p'.frames, f.2 = false)) ∧
  (∀ s p pa, s.rotation.active = true → s.rotation.pav = p.id → p.lists (pa / 64) = true → pa / 64 * 64 < s.rotation.pointer → lineKey s p pa = s.rotation.newKey) ∧
  (∀ s p pa, (p.frames.any fun f => f.1 == pa / 65536 && f.2) = false → s.rotation.pointer ≤ pa / 64 * 64 → lineKey s p pa = p.key)

/-! ### Steps of the machine: the root of trust and handover (R66 to R74) -/

/-- Measurements, signatures and firmware's log port (R67, R70, R71): EXTGO extends MEAS6 or MEAS7 with the staged digest; SIGREQ signs the newest entry; a code of 0x0100 or more appends an
entry with the staged detail. -/
def TrustRegisters : Prop :=
  (∀ s old, s.trust.extSel = 6 ∨ s.trust.extSel = 7 → s.trust.meas[s.trust.extSel]? = some old → ∃ r, exec .measExtend s = .next r ∧
    r.trust.meas[s.trust.extSel]? = some (Config.sha512 (leBytes 64 old.toNat ++ leBytes 64 s.trust.extDigest.toNat)) ∧ (∀ n, n ≠ s.trust.extSel → r.trust.meas[n]? = s.trust.meas[n]?) ∧
    Logs s r 2 0x50 0 0 (leBytes 1 s.trust.extSel)) ∧
  (∀ s, s.trust.extSel < 6 → exec .measExtend s = .next s) ∧
  (∀ s e l, s.trust.audit = e :: l → exec .sigreq s = .next { s with trust := { s.trust with
    headSeq := BitVec.ofNat 64 e.seq, headSig := Config.ed25519Sign 0 (leBytes 8 e.seq ++ leBytes 64 e.chain.toNat) } }) ∧
  (∀ s (code : Word), 0x100 ≤ code.toNat % 65536 → ∃ r, exec (.lpcode code) s = .next r ∧ Logs s r 1 (code.toNat % 65536) 0 0 s.trust.lpDetail ∧ r.trust.lpDetail = List.replicate 40 0#8) ∧
  (∀ s (code : Word), code.toNat % 65536 < 0x100 → exec (.lpcode code) s = .next s)

/-- One answer of the SPDM responder, and nothing else. -/
def Answers (i : Instr) (s : State) (code : Nat) (content : List Byte) : Prop :=
  exec i s = .next { s with trust := { s.trust with spdm := s.trust.spdm ++ [(code, content)] } }

/-- The SPDM responder (R68): version 1.3; Ed25519 and SHA-512; the chain of slot 0, and empty slots 1 to 7; a challenge signed over the nonce and the measurements; one measurement block or all
eight, signed; an error for an empty slot's challenge, an index of no block, and any other request. The codes of the messages are the model's (SPDM 1.3, presumed), as is the text a challenge signs. -/
def SpdmAnswers : Prop :=
  ∀ s, Answers .getVersion s 0x04 [0x13#8] ∧ Answers .getCapabilities s 0x61 Config.spdmCaps ∧ Answers .negotiateAlgorithms s 0x63 (leBytes 4 0x400 ++ leBytes 4 0x4) ∧
    Answers (.getCertificate 0) s 0x02 Config.certChain ∧ (∀ n, 1 ≤ n → n ≤ 7 → Answers (.getCertificate n) s 0x02 []) ∧ (∀ n, 7 < n → Answers (.getCertificate n) s 0x7F [1#8]) ∧
    (∀ nonce, Answers (.challenge 0 nonce) s 0x03 (leBytes 64 (Config.ed25519Sign 0 (leBytes 64 nonce.toNat ++ s.trust.meas.flatMap fun m => leBytes 64 m.toNat)).toNat)) ∧
    (∀ n nonce, 0 < n → Answers (.challenge n nonce) s 0x7F [1#8]) ∧
    (∀ n m, 1 ≤ n → n ≤ 8 → s.trust.meas[n - 1]? = some m → Answers (.getMeasurements n) s 0x60 (leBytes 64 m.toNat ++ leBytes 64 (Config.ed25519Sign 0 (leBytes 64 m.toNat)).toNat)) ∧
    (let all := s.trust.meas.flatMap fun m => leBytes 64 m.toNat
     Answers (.getMeasurements 255) s 0x60 (all ++ leBytes 64 (Config.ed25519Sign 0 all).toNat)) ∧
    (∀ n, n = 0 ∨ 8 < n → n ≠ 255 → Answers (.getMeasurements n) s 0x7F [1#8]) ∧
    ∀ code, code ∉ ([0x84, 0xE1, 0xE3, 0x82, 0x83, 0xE0] : List Nat) → Answers (.unsupportedRequest code) s 0x7F [7#8]

/-- A handover operation ends (R74): RESULT, BUSY clear, vector 6, and, when it was accepted, the audit entry 0x60 + its code less one. -/
def HoEnds (s r : State) (op part : Nat) (code : BitVec 8) : Prop :=
  r.trust.hoResult = code ∧ r.trust.hoBusy = false ∧ Rings s r 0 6 ∧ (code = 0 → Logs s r 2 (0x60 + op - 1) 0 part (leBytes 1 s.trust.hoPv))

/-- The page of handover is idle and its fields are legal. -/
def HoLegal (s : State) : Prop := s.trust.hoBusy = false ∧ s.trust.hoBad = false ∧ s.trust.hoImg % 64 = 0 ∧ s.trust.hoImg < 2 ^ 52

/-- The page of handover is idle and its fields are legal, and HOPV is a pavilion. -/
def HoReady (s : State) (p : Pavilion) : Prop := HoLegal s ∧ pav? s s.trust.hoPv = some p

/-- The key pair, statements, abort and release (R72 to R74): KEYX gives HOPV a fresh secret and publishes its key, signed with the epoch; ABORT makes a sealed pavilion live again and has no
effect on a live one; RELEASE of an accepted MOVE image takes the commit proof, and of a COPY image a statement; STATEMENT signs what the boot knows. -/
def HandoverSteps : Prop :=
  (∀ s p, HoReady s p → ∃ r, exec .keyx s = .next r ∧ HoEnds s r 5 p.part 0 ∧ (∃ p', pav? r s.trust.hoPv = some p' ∧ p'.secret = some (Config.x25519Fresh s.fresh)) ∧
    r.trust.ownX = Config.x25519Public (Config.x25519Fresh s.fresh) ∧
    r.trust.ownSig = Config.ed25519Sign 0 (leBytes 32 (Config.x25519Public (Config.x25519Fresh s.fresh)).toNat ++ leBytes 8 s.trust.epoch.toNat)) ∧
  (∀ s p, HoReady s p → p.src = .live → ∃ r, exec .handoverAbort s = .next r ∧ HoEnds s r 3 p.part 0 ∧ r.pavilions = s.pavilions ∧ r.contexts = s.contexts) ∧
  (∀ s p, HoReady s p → p.src = .sealed → ∃ r, exec .handoverAbort s = .next r ∧ HoEnds s r 3 p.part 0 ∧ pav? r s.trust.hoPv = some { p with src := .live, transfer := none } ∧
    ∀ c ∈ r.contexts, c.pav = p.id → 3 ∉ c.suspendedBy) ∧
  (∀ s p, HoReady s p → p.src = .gone → ∃ r, exec .handoverAbort s = .next r ∧ HoEnds s r 3 p.part 2 ∧ r.pavilions = s.pavilions) ∧
  (∀ s p, HoReady s p → p.dst = .accepted → p.copyKind = false → Config.ed25519Verify s.trust.peerId (commitText p) (BitVec.ofNat 512 (leNat (s.trust.hoIn.take 64))) = true →
    ∃ r, exec .handoverRelease s = .next r ∧ HoEnds s r 6 p.part 0 ∧ pav? r s.trust.hoPv = some { p with dst := .released, transfer := none } ∧ ∀ c ∈ r.contexts, c.pav = p.id → 3 ∉ c.suspendedBy) ∧
  (∀ s p, HoReady s p → p.dst ≠ .accepted → ∃ r, exec .handoverRelease s = .next r ∧ HoEnds s r 6 p.part 2 ∧ r.pavilions = s.pavilions ∧ r.contexts = s.contexts) ∧
  (∀ s, HoLegal s → ∃ r, exec .statement s = .next r ∧ r.trust.hoResult = 0 ∧ Rings s r 0 6 ∧
    r.trust.hoOut = signed (statementText (if s.trust.destroyedCopies.contains s.trust.hoPv then 1 else 2) s.trust.hoPv s.trust.epoch.toNat)) ∧
  (∀ s i op, ((i, op) : Instr × Nat) ∈ [(.prepare, 1), (.handoverCommit, 2), (.handoverAbort, 3), (.accept, 4), (.keyx, 5), (.handoverRelease, 6)] → HoLegal s →
    pav? s s.trust.hoPv = none → ∃ r, exec i s = .next r ∧ r.trust.hoResult = 2 ∧ Rings s r 0 6 ∧ r.pavilions = s.pavilions ∧ r.contexts = s.contexts ∧ r.mem = s.mem)

/-- PREPARE of a COPY image (R72, R74): with a live pavilion, a key pair, a signed peer key and a buffer that holds it, the image is header and sealed body at HOIMG, of the
pavilion as it stands at this tick (`snapshot`, the model's choice, log entry 89), HOLEN is its length, and
the pavilion lives on; a shorter buffer gets the length only. -/
def CopyPrepared : Prop :=
  ∀ s p k, HoReady s p → p.src = .live → p.dst ≠ .accepted → p.secret = some k → peerSigned s = true → s.trust.hoCopy = true → bufferOk s p s.trust.hoImg s.trust.hoLen.toNat = true →
    let body := imageBody (snapshot s p) p
    let hd := imageHeader p.id true s.trust.epoch.toNat (Config.sha512 body)
    let key := transferKey s k (Config.x25519Public k) s.trust.peerX
    let img := hd ++ Config.sealBytes key hd body
    (img.length ≤ s.trust.hoLen.toNat → ∃ r, exec .prepare s = .next r ∧ HoEnds s r 1 p.part 0 ∧ r.trust.hoLen = BitVec.ofNat 64 img.length ∧ r.mem = (wrMemBytes s s.trust.hoImg img).mem ∧
      pav? r s.trust.hoPv = some { p with digest := Config.sha512 body, copyKind := true, epoch := s.trust.epoch, copyPrepared := true, transfer := some key }) ∧
    (s.trust.hoLen.toNat < img.length → ∃ r, exec .prepare s = .next r ∧ HoEnds s r 1 p.part 2 ∧ r.trust.hoLen = BitVec.ofNat 64 img.length ∧ r.mem = s.mem ∧ r.pavilions = s.pavilions)

/-- A MOVE (R72): PREPARE suspends every context of the pavilion and waits for its teams to leave their cores; COMMIT with the peer's receipt destroys contexts and key, queues the frames for
scrub and signs a commit proof; without a receipt nothing changes. -/
def MoveCommits : Prop :=
  (∀ s p k, HoReady s p → p.src = .live → p.dst ≠ .accepted → p.secret = some k → peerSigned s = true → s.trust.hoCopy = false →
    bufferOk s p s.trust.hoImg s.trust.hoLen.toNat = true → (imageOf s p 0).2.length ≤ s.trust.hoLen.toNat → s.forks = [] →
    (∃ t ∈ s.teams, t.onCore = true ∧ ∃ c ∈ s.contexts, c.pav = p.id ∧ t.ctx = c.id) →
    ∃ r, exec .prepare s = .next r ∧ r.trust.hoBusy = true ∧ r.pavilions = s.pavilions ∧ ∀ c ∈ r.contexts, c.pav = p.id → c.suspended = true) ∧
  (∀ s p, HoReady s p → p.src = .sealed → p.frames = [] → s.rotation.active = false → (∀ t ∈ s.teams, ∀ c ∈ s.contexts, c.pav = p.id → t.ctx ≠ c.id) →
    (∀ d ∈ s.dirty, ∀ c ∈ s.contexts, c.pav = p.id → d.ctx ≠ c.id) →
    Config.ed25519Verify s.trust.peerId (receiptText p) (BitVec.ofNat 512 (leNat (s.trust.hoIn.take 64))) = true →
    ∃ r, exec .handoverCommit s = .next r ∧ HoEnds s r 2 p.part 0 ∧ (∀ c ∈ r.contexts, c.pav ≠ p.id) ∧ pav? r s.trust.hoPv = some { p with src := .gone, key := 0, transfer := none } ∧
      r.trust.hoOut = signed (commitText p) ∧ r.mem = s.mem) ∧
  (∀ s p, HoReady s p → p.src = .sealed → Config.ed25519Verify s.trust.peerId (receiptText p) (BitVec.ofNat 512 (leNat (s.trust.hoIn.take 64))) = true →
    ∃ r, exec .handoverCommit s = .next r ∧ r.trust.hoResult = 0 ∧ r.trust.hoBusy = false ∧ pav? r s.trust.hoPv = some { p with src := .gone, key := 0, transfer := none } ∧
      r.trust.hoOut = signed (commitText p)) ∧
  (∀ s p, HoReady s p → p.src ≠ .sealed ∨ Config.ed25519Verify s.trust.peerId (receiptText p) (BitVec.ofNat 512 (leNat (s.trust.hoIn.take 64))) = false →
    ∃ r, exec .handoverCommit s = .next r ∧ HoEnds s r 2 p.part 2 ∧ r.pavilions = s.pavilions ∧ r.contexts = s.contexts)

/-- ACCEPT (R74): an image that opens under the transfer key, names HOPV, matches its digest and fits the frame list of a fresh pavilion is taken in: its frames, save
records and spill pools are filled, and its contexts stand suspended beside the
others, the pavilion is accepted, and a receipt is signed; an image that does not open changes nothing. The layout of the body is the model's. -/
def ImageAccepted : Prop :=
  ∀ s p k, HoReady s p → p.secret = some k →
    let img := homeBytes s 0 s.trust.hoImg s.trust.hoLen.toNat
    let key := transferKey s k s.trust.peerX (Config.x25519Public k)
    (∀ body, Config.openBytes key (img.take 80) (img.drop 80) = some body → p.dst = .none → peerSigned s = true →
      Config.sha512 body = BitVec.ofNat 512 (fieldAt (img.take 80) 16 64) → fieldAt (img.take 80) 0 4 = p.id → fieldAt body 16 8 ≤ p.frames.length →
      let c := renumber s p (unpackCargo ((body.drop 24).take (fieldAt body 0 8)))
      let f := fillSpans (fillSpans s p.id (((p.frames.map Prod.fst).take (fieldAt body 16 8)).map fun f => (f * 65536, 65536)) (body.drop (24 + fieldAt body 0 8 + fieldAt body 8 8)))
        p.id (poolSpans c.contexts) ((body.drop (24 + fieldAt body 0 8)).take (fieldAt body 8 8))
      let g := { f with contexts := f.contexts ++ c.contexts, grids := f.grids ++ c.grids, teams := f.teams ++ c.teams, views := f.views ++ c.views
                        versions := f.versions ++ c.versions, families := f.families ++ c.families, holds := f.holds ++ c.holds
                        sets := f.sets ++ c.sets, forks := f.forks ++ c.forks, deferred := f.deferred ++ c.deferred, nextId := cargoTop f c }
      ∃ r, exec .accept s = .next r ∧ HoEnds s r 4 p.part 0 ∧ r.contexts = s.contexts ++ c.contexts ∧ r.teams = s.teams ++ c.teams ∧ r.grids = s.grids ++ c.grids ∧
        (∀ x ∈ c.contexts, x.suspended = true ∧ x.part = p.part ∧ x.pav = p.id) ∧
        r.mem = (retagRecords g c.teams).mem ∧
        ∃ p', pav? r s.trust.hoPv = some p' ∧ p'.dst = .accepted ∧ p'.transfer = some key ∧ r.trust.hoOut = signed (receiptText p')) ∧
    (Config.openBytes key (img.take 80) (img.drop 80) = none → ∃ r, exec .accept s = .next r ∧ HoEnds s r 4 p.part 2 ∧ r.pavilions = s.pavilions ∧ r.contexts = s.contexts ∧ r.mem = s.mem)

/-! ### Steps of the machine: translation control, spill pools, checkpoints and observation (R146 to R152, R217, R231 to R242) -/

/-- A translation block may start an operation (R146): idle, its fields legal, the context there, and for a virtual function's block of its partition and first stage. -/
structure BlockOk (s : State) (fn : Nat) (c : Context) : Prop where
  idle : (transBlock s fn).busy = false
  legal : (transBlock s fn).ctx < 1024 ∧ (transBlock s fn).stage < 3 ∧ (transBlock s fn).va.toNat % 65536 = 0
  ctx : ctx? s (transBlock s fn).ctx = some c
  own : fn = 0 ∨ ((transBlock s fn).stage = 0 ∧ ∃ v, vf? s fn = some v ∧ v.part = c.part)

/-- A block's operation ends: RESULT, BUSY clear, and vector 0 of its function. -/
def BlockEnds (s r : State) (fn : Nat) (code : BitVec 8) : Prop := (transBlock r fn).result = code ∧ (transBlock r fn).busy = false ∧ Rings s r fn 0

/-- A range of `n` bytes from `a` meets the pages that a block names; 0 pages name all. -/
def Named (b : TransBlock) (a n : Nat) : Prop := b.pages = 0 ∨ a < b.va.toNat + b.pages * 65536 ∧ b.va.toNat < a + n

/-- INVALIDATE (R147): once no earlier window write waits, every cached translation of the context that meets the named pages at the named stage is gone; it ends when no access that may have used
one is still to be performed, else stays busy. A block with an illegal field or no context is refused. -/
def TranslationsDropped : Prop :=
  (∀ s fn c, BlockOk s fn c → windowsDone s fn ≤ s.time →
    let b := transBlock s fn
    let kept := fun (r : State) => (∀ e, e ∈ r.tlb ↔ e ∈ s.tlb ∧ ¬(e.ctx = b.ctx ∧ (b.stage ≠ 0 ∨ Named b (e.page * 2 ^ e.sz) (2 ^ e.sz)))) ∧ r.mem = s.mem ∧ r.leases = s.leases
    (usersOf s b = [] → engUsers s b = [] → 1 ≤ s.time → lastDue s b.ctx ≤ s.time → ∃ r, exec (.invalidate fn) s = .next r ∧ BlockEnds s r fn 0 ∧ kept r) ∧
    ((∃ x ∈ usersOf s b, accDone s x = false) → ∃ r, exec (.invalidate fn) s = .next r ∧ (transBlock r fn).busy = true ∧ kept r)) ∧
  (∀ s fn, (transBlock s fn).busy = false → ∀ i, i ∈ ([.invalidate fn, .replay fn, .abort fn] : List Instr) →
    (1024 ≤ (transBlock s fn).ctx ∨ 3 ≤ (transBlock s fn).stage ∨ (transBlock s fn).va.toNat % 65536 ≠ 0 → ∃ r, exec i s = .next r ∧ BlockEnds s r fn 1 ∧ r.tlb = s.tlb ∧ r.teams = s.teams) ∧
    ((transBlock s fn).ctx < 1024 → (transBlock s fn).stage < 3 → (transBlock s fn).va.toNat % 65536 = 0 → ctx? s (transBlock s fn).ctx = none → fn = 0 →
      ∃ r, exec i s = .next r ∧ BlockEnds s r fn 3 ∧ r.tlb = s.tlb ∧ r.teams = s.teams))

/-- Only one logged access is named: no fetch, engine, grid or launch. -/
structure OneNamed (s : State) (fn : Nat) (t : Tid) (a : Access) : Prop where
  acc : namedAccs s (transBlock s fn) = [(t, a)] ∧ acc? s t a.id = some a
  alone : namedFetches s (transBlock s fn) = [] ∧ namedEngines s (transBlock s fn) = [] ∧ s.grids = [] ∧ s.launches = []

/-- REPLAY and ABORT (R149, R152): the named logged access of a resident team is walked afresh and goes on, or is discarded with its destinations poisoned and its thread owing the trap; of a
team that is pending or under pre-emption it is marked; INJECT writes a hypervisor record again as the context's own PAGE_FAULT. -/
def FaultsServed : Prop :=
  (∀ s fn c t a x pa lease z, BlockOk s fn c → OneNamed s fn t a → isResident s t.team = true → tidCtx s t = some c → a.op.stores = false → a.slot = false →
    translateNow (forgetRecords s (transBlock s fn)) true (tidAt s t) c a.va.toNat a.kind = (.ok (x, pa, lease), z) → z.teams = s.teams → z.host = s.host →
    ∃ r, exec (.replay fn) s = .next r ∧ BlockEnds s r fn 0 ∧ acc? r t a.id = some { a with pa := some pa, lease := lease, logged := none } ∧ r.tlb = z.tlb) ∧
  (∀ s fn c t a, BlockOk s fn c → OneNamed s fn t a → isResident s t.team = false →
    (∃ r, exec (.replay fn) s = .next r ∧ BlockEnds s r fn 0 ∧ acc? r t a.id = some { a with mark := 1 }) ∧
    ∃ r, exec (.abort fn) s = .next r ∧ BlockEnds s r fn 0 ∧ acc? r t a.id = some { a with mark := 2 }) ∧
  (∀ s fn c t a th, BlockOk s fn c → OneNamed s fn t a → isResident s t.team = true → thread? s t = some th → th.wait = none → (∀ b ∈ th.queue, b.id = a.id → b = a) →
    ∃ r, exec (.abort fn) s = .next r ∧ BlockEnds s r fn 0 ∧ acc? r t a.id = none ∧ ∃ th', thread? r t = some th' ∧
      th'.owed = some ⟨if a.s2 then .stage2Fault else .pageFault, BitVec.ofNat 32 a.va.toNat, BitVec.ofNat 32 (a.va.toNat / 2 ^ 32)⟩ ∧
      (∀ p ∈ th.pend, p.tok = a.id → ∀ n, p.reg = .v n → n < 128 → th'.poison.getLsbD n = true) ∧ ∀ p ∈ th'.pend, p.tok ≠ a.id) ∧
  (∀ s c l, BlockOk s 0 c → s.logged = [l] → l.hyper = true → l.seq = (transBlock s 0).seq → l.record.ctx = c.id → (transBlock s 0).ctx = c.id →
    ∃ r, exec (.inject 0) s = .next r ∧ BlockEnds s r 0 0 ∧ (∀ k ∈ r.logged, k.record = { l.record with code := 8, stage2 := false, ipa := 0 } ∧ k.hyper = false) ∧
      ∃ k, ctx? r c.id = some k ∧ (k.faultHead = c.faultHead + 1 ∨ k.faultLost = c.faultLost + 1)) ∧
  (∀ s fn v, (transBlock s fn).busy = false → fn ≠ 0 → vf? s fn = some v → (transBlock s fn).ctx < 1024 → (transBlock s fn).stage < 3 → (transBlock s fn).va.toNat % 65536 = 0 →
    ∃ r, exec (.inject fn) s = .next r ∧ BlockEnds s r fn 5 ∧ r.logged = s.logged ∧ r.hostMem = s.hostMem)

/-- The spill pool block (R217): ADD appends an aligned nonzero extent that meets no other, up to eight; each operation writes SPTOTAL and SPUSED and raises vector 0. -/
def PoolGrows : Prop :=
  (∀ s c, s.host.spCtx = c.id → c.id < 1024 → ctx? s c.id = some c → s.host.spBase.toNat % 4096 = 0 → s.host.spBase.toNat < 2 ^ 52 → c.extents.length < 8 → s.host.spLen ≠ 0 →
    s.host.spLen.toNat % 4096 = 0 → (∀ k ∈ s.contexts, ∀ e ∈ k.extents, ¬(s.host.spBase.toNat < e.1 + e.2 ∧ e.1 < s.host.spBase.toNat + s.host.spLen.toNat)) →
    ∃ r, exec .spillAdd s = .next r ∧ ctx? r c.id = some { c with extents := c.extents ++ [(s.host.spBase.toNat, s.host.spLen.toNat)] } ∧ r.host.spResult = 0 ∧ Rings s r 0 0 ∧
      r.host.spTotal = BitVec.ofNat 64 ((c.extents.map Prod.snd).sum + s.host.spLen.toNat)) ∧
  (∀ s c, s.host.spCtx = c.id → c.id < 1024 → ctx? s c.id = some c → 8 ≤ c.extents.length ∨ s.host.spLen = 0 ∨ s.host.spLen.toNat % 4096 ≠ 0 →
    ∃ r, exec .spillAdd s = .next r ∧ r.contexts = s.contexts ∧ r.host.spResult = 1 ∧ Rings s r 0 0) ∧
  (∀ s c, s.host.spCtx = c.id → c.id < 1024 → ctx? s c.id = some c → ∃ r, exec .spillQuery s = .next r ∧ r.contexts = s.contexts ∧ r.host.spResult = 0 ∧ Rings s r 0 0 ∧
    r.host.spTotal = BitVec.ofNat 64 (c.extents.map Prod.snd).sum ∧ r.host.spUsed = BitVec.ofNat 64 (128 * usedCells s c))

/-- A checkpoint of a context has begun (R234): the chosen slot's commit record is zeros, the context is suspended, and no tick is chosen. -/
def Begins (s r : State) (ctx list count a b : Nat) : Prop :=
  let one := takesSlot1 s a b
  let slot := if one then b else a
  (∃ run, r.observe.ckRun = some run ∧ run.ctx = ctx ∧ run.list = list ∧ run.count = count ∧ run.slot0 = a ∧ run.slot1 = b ∧ run.useSlot1 = one ∧ run.tick = none ∧
    run.ranges.length = count) ∧ r.mem = Memory.writeN s.mem (slot + 4032) (List.replicate 64 0#8) ∧
    ∃ k, ctx? r ctx = some k ∧ k.suspended = true ∧ 2 ∈ k.suspendedBy

/-- Checkpoints (R232 to R235): START begins one, ARM keeps its list and slots, DISARM clears them, a warning takes the first warned context's; the tick is chosen once no team of the context is on
a core, and the image holds what the ranges hold then. While one is in progress START, ARM, DISARM and a warning change nothing. -/
def CheckpointsTaken : Prop :=
  (∀ s, s.observe.ckRun = none → ckFails s = none → s.forks = [] →
    (∃ r, exec .checkpointStart s = .next r ∧ r.observe.ckResult = 0 ∧
      Begins s r s.observe.ckCtx s.observe.ckList.toNat s.observe.ckCount.toNat s.observe.ckSlot0.toNat s.observe.ckSlot1.toNat) ∧
    ∃ r, exec .arm s = .next r ∧ r.observe.ckResult = 0 ∧ r.mem = s.mem ∧ ∃ k, ctx? r s.observe.ckCtx = some k ∧
      k.armed = some (s.observe.ckList.toNat, s.observe.ckCount.toNat, s.observe.ckSlot0.toNat, s.observe.ckSlot1.toNat)) ∧
  (∀ s code, s.observe.ckRun = none → ckFails s = some code → ∀ i, i ∈ ([.checkpointStart, .arm] : List Instr) →
    exec i s = .next { s with observe := { s.observe with ckResult := code } }) ∧
  (∀ s c, s.observe.ckRun = none → s.observe.ckCtx = c.id → c.id < 1024 → ctx? s c.id = some c → ∃ r, exec .disarm s = .next r ∧ r.observe.ckResult = 0 ∧ ctx? r c.id = some { c with armed := none }) ∧
  (∀ s c l list n a b, s.observe.ckRun = none → s.observe.warned = c.id :: l → ctx? s c.id = some c → c.armed = some (list, n, a, b) → s.forks = [] →
    ∃ r, exec .checkpointWarning s = .next r ∧ r.observe.warned = l ∧ Begins s r c.id list n a b ∧ ∃ k, ctx? r c.id = some k ∧ k.armed = none) ∧
  (∀ s k, s.observe.ckRun = some k → ∀ i, i ∈ ([.checkpointStart, .arm, .disarm, .checkpointWarning] : List Instr) → exec i s = .next s) ∧
  (∀ s k, s.observe.ckRun = some k → k.tick = none → (∀ t ∈ s.teams, t.ctx = k.ctx → t.onCore = false) →
    exec .checkpointTick s = .next { s with observe := { s.observe with ckRun := some { k with tick := some s.time, image := k.ranges.map fun x => homeBytes s 0 x.1 x.2 } } }) ∧
  (∀ s k t, s.observe.ckRun = some k → k.tick = none → t ∈ s.teams → t.ctx = k.ctx → t.onCore = true → exec .checkpointTick s = .next s)

/-- The fields of a refused START or ARM (R232, R236): BAD_COMMAND for a reserved bit or a count out of range, NO_CONTEXT, and NOT_OWNER for a pavilion's context. -/
def CheckpointsRefused : Prop :=
  (∀ s, 1024 ≤ s.observe.ckCtx ∨ s.observe.ckList.toNat % 16 ≠ 0 ∨ 2 ^ 52 ≤ s.observe.ckList.toNat ∨ s.observe.ckCount.toNat = 0 ∨ 4096 < s.observe.ckCount.toNat ∨ s.observe.ckSlot0.toNat % 65536 ≠ 0 ∨
    s.observe.ckSlot1.toNat % 65536 ≠ 0 → ckFails s = some 1) ∧
  (∀ s code, ckFails s = some code → code = 1 ∨ code = 3 ∨ code = 5) ∧
  (∀ s c, ckFails s = none → ctx? s s.observe.ckCtx = some c → c.pav = 0)

/-- The end of a checkpoint with a tick (R234): the header, the ranges in list order as they stood at the tick and the commit record stand in the slot, CKSEQ grows by one, vector 5 is raised, event 0x0100 is logged, and the
context runs unless another suspension holds it. -/
def CheckpointCommits : Prop :=
  ∀ s k t c, s.observe.ckRun = some k → k.tick = some t → ctx? s k.ctx = some c → (∀ w ∈ c.suspendedBy, w = 2) → s.mailbox.busy = false →
    let slot := if k.useSlot1 then k.slot1 else k.slot0
    ∃ r, exec .stagedCommit s = .next r ∧ r.observe.ckRun = none ∧ r.observe.ckSeq = s.observe.ckSeq + 1 ∧ Rings s r 0 5 ∧ Logs s r 1 0x100 k.ctx 0 [] ∧
      (∃ c', ctx? r k.ctx = some c' ∧ c'.suspended = false) ∧
      (Memory.wf s.mem = true → Memory.readLe r.mem (slot + 4032) 2 = 0x434B ∧ Memory.readLe r.mem (slot + 4040) 8 = (s.observe.ckSeq + 1).toNat ∧
        Memory.readLe r.mem (slot + 4056) 8 = t % 2 ^ 64 ∧ ∀ bs, k.image = [bs] → Memory.readN r.mem (slot + 4096) bs.length = bs)

/-- Rings and histograms (R242): SET gives a context its ring, empty; READ and TAIL move its counts to and from the registers; HIST copies a quadrant's 24 counters and clears them when
HGCLR is 1. -/
def RingsObserved : Prop :=
  (∀ s c, s.observe.obCtx = c.id → c.id < 1024 → ctx? s c.id = some c →
    (∀ k, 6 ≤ k → k ≤ 20 → s.observe.obSize.toNat = 2 ^ k → s.observe.obBase.toNat % 64 = 0 → ownsRange s c.part s.observe.obBase.toNat (64 * 2 ^ k) = true → c.pav = 0 →
      ∃ r, exec .obSet s = .next r ∧ r.observe.obResult = 0 ∧ Rings s r 0 0 ∧
        ctx? r c.id = some { c with ringBase := s.observe.obBase.toNat, ringSize := 2 ^ k, ringHead := 0, ringTail := 0, ringLost := 0 }) ∧
    (s.observe.obSize.toNat ≠ 0 → (∀ k, 6 ≤ k → k ≤ 20 → s.observe.obSize.toNat ≠ 2 ^ k) → ∃ r, exec .obSet s = .next r ∧ r.observe.obResult = 1 ∧ Rings s r 0 0 ∧ r.contexts = s.contexts) ∧
    (∀ k, 6 ≤ k → k ≤ 20 → s.observe.obSize.toNat = 2 ^ k → s.observe.obBase.toNat % 64 ≠ 0 → ∃ r, exec .obSet s = .next r ∧ r.observe.obResult = 5 ∧ Rings s r 0 0 ∧ r.contexts = s.contexts) ∧
    (∃ r, exec .obRead s = .next r ∧ r.observe.obResult = 0 ∧ Rings s r 0 0 ∧ r.contexts = s.contexts ∧
      r.observe.obHead = BitVec.ofNat 64 c.ringHead ∧ r.observe.obTail = BitVec.ofNat 64 c.ringTail ∧ r.observe.obLost = BitVec.ofNat 64 c.ringLost) ∧
    ∃ r, exec .obTail s = .next r ∧ r.observe.obResult = 0 ∧ Rings s r 0 0 ∧ ctx? r c.id = some { c with ringTail := s.observe.obTail.toNat }) ∧
  (∀ s, ctx? s s.observe.obCtx = none → s.observe.obCtx < 1024 → ∀ i, i ∈ ([.obSet, .obRead, .obTail] : List Instr) →
    ∃ r, exec i s = .next r ∧ r.observe.obResult = 3 ∧ Rings s r 0 0 ∧ r.contexts = s.contexts) ∧
  (∀ s h, s.observe.hists.find? (fun h => h.core == s.observe.hgCore && h.quad == s.observe.hgQuad) = some h → ∃ r, exec .hist s = .next r ∧ r.observe.obResult = 0 ∧ Rings s r 0 0 ∧
    r.observe.hgVal = h.vals.map (fun v => v.setWidth 64) ∧
    (s.observe.hgClr = false → r.observe.hists = s.observe.hists) ∧
    (s.observe.hgClr = true → ∀ x, x ∈ r.observe.hists ↔ x ∈ s.observe.hists ∧ ¬(x.core = s.observe.hgCore ∧ x.quad = s.observe.hgQuad)))

/-- The registers that a trusted host writes and reads as words, each wholly its field (R29, R44, R45, R51, R55, R57, R60, R70, R146, R217, R232, R242): page and offset. -/
def plainRegisters : List (Nat × Nat) :=
  ((upto 16).map fun i => (2, 4 * i)) ++ ((upto 1024).map fun i => (3, 4 * i)) ++
  ([0, 4, 8, 0x100, 0x104, 0x110, 0x114, 0x120, 0x128, 0x200, 0x208, 0x20C, 0x210, 0x214, 0x300, 0x308, 0x30C, 0x310, 0x318, 0x31C, 0x320, 0x324, 0x338,
    0x400, 0x408, 0x40C, 0x410, 0x420, 0x424].map fun o => (4, o)) ++
  [(5, 0), (5, 8)] ++ ((upto 50).map fun i => (6, 4 * i)) ++ [(7, 0), (7, 4), (7, 8), (7, 12), (8, 0), (8, 4), (8, 8), (8, 12), (8, 16), (8, 32), (9, 0), (11, 16), (11, 20), (13, 16), (13, 20)]

/-- A register write (R4): a plain register of an interface that is not busy reads back as written to a trusted reader and as 0 to another (R48); a write to a busy interface is dropped; memory, teams,
contexts and the other pieces of the machine stay. -/
def RegistersHold : Prop :=
  (∀ s v p, p ∈ plainRegisters → s.mailbox.cmd.length = 16 → s.mailbox.busy = false → s.host.hfEn = false → (transBlock s 0).busy = false → s.observe.ckRun = none → s.partIf.busy = false → s.pavIf.busy = false →
    s.trust.hoBusy = false →
    ∃ r, exec (.registerWrite p.1 p.2 v) s = .next r ∧ readReg r true p.1 p.2 = v ∧ readReg r false p.1 p.2 = 0 ∧
      r = { s with mailbox := r.mailbox, host := r.host, partIf := r.partIf, pavIf := r.pavIf, rotation := r.rotation, trust := r.trust, frames := r.frames, observe := r.observe }) ∧
  (∀ s v off, s.partIf.busy = true → exec (.registerWrite 5 off v) s = .next s ∧ exec (.registerWrite 6 off v) s = .next s) ∧
  (∀ s v off, s.pavIf.busy = true → exec (.registerWrite 8 off v) s = .next s) ∧
  (∀ s v off, s.trust.hoBusy = true → exec (.registerWrite 13 off v) s = .next s) ∧
  (∀ s v off, s.mailbox.busy = true → off < 0x40 → exec (.registerWrite 2 off v) s = .next s) ∧
  (∀ s v, s.mailbox.busy = false → v.getLsbD 0 = true → ∃ r, exec (.registerWrite 2 0x40 v) s = .next r ∧ r.mailbox.busy = true ∧ r.mailbox.cmd = s.mailbox.cmd ∧ r.mailbox.pendResult = none)

/-- The register words that start an operation: page, offset, word, and the operation (R51, R55, R57, R60, R64, R67, R70, R146, R217, R232, R242). -/
def startWords : List (Nat × Nat × Word × Instr) :=
  [(5, 4, 1, .define), (5, 4, 2, .delete), (5, 4, 3, .grow), (5, 4, 4, .shrink), (5, 4, 5, .lend), (5, 4, 6, .reclaim), (5, 4, 7, .partitionRead), (7, 16, 1, .bind), (7, 16, 2, .leaseRelease),
   (8, 36, 1, .pavilionCreate), (8, 36, 2, .assign), (8, 36, 3, .unassign), (8, 36, 4, .addframe), (8, 36, 5, .delframe), (8, 36, 6, .pavilionDestroy), (9, 4, 1, .keyRotationGo),
   (10, 0x280, 1, .measExtend), (11, 40, 1, .sigreq), (12, 12, 1, .frameQueue), (4, 0x124, 1, .invalidate 0), (4, 0x124, 2, .replay 0), (4, 0x124, 3, .abort 0), (4, 0x124, 4, .inject 0),
   (4, 0x218, 1, .spillAdd), (4, 0x218, 2, .spillQuery), (4, 0x328, 1, .checkpointStart), (4, 0x328, 2, .arm), (4, 0x328, 3, .disarm), (4, 0x434, 1, .obSet), (4, 0x434, 2, .obRead), (4, 0x434, 3, .hist),
   (4, 0x434, 4, .obTail), (13, 4, 1, .prepare), (13, 4, 2, .handoverCommit), (13, 4, 3, .handoverAbort), (13, 4, 4, .accept), (13, 4, 5, .keyx), (13, 4, 6, .handoverRelease), (13, 4, 7, .statement)]

/-- The state with the operation field of a block as a word leaves it. -/
def opNoted (s : State) (page off v : Nat) : State :=
  match page with
  | 5 => { s with partIf := { s.partIf with force := false, lastOp := v } }
  | 7 => { s with partIf := { s.partIf with eop := v } }
  | 8 => { s with pavIf := { s.pavIf with lastOp := v } }
  | 13 => { s with trust := { s.trust with hoCopy := false, hoOp := v } }
  | 4 =>
    if off = 0x124 then putBlock s { transBlock s 0 with op := v }
    else if off = 0x218 then { s with host := { s.host with spOp := v } }
    else if off = 0x328 then { s with observe := { s.observe with ckOp := v } }
    else { s with observe := { s.observe with obOp := v } }
  | _ => s

/-- A register word that starts an operation is that operation (R4), over the state that holds the word in the operation field. -/
def WordsStart : Prop :=
  ∀ s x, x ∈ startWords → s.pavIf.busy = false → s.partIf.busy = false → s.trust.hoBusy = false → s.observe.ckRun = none →
    (transBlock s 0).busy = false → exec (.registerWrite x.1 x.2.1 x.2.2.1) s = exec x.2.2.2 (opNoted s x.1 x.2.1 x.2.2.1.toNat)

/-! ### The step, decoding, reset and traps (R66, R91, R109, R121, R188, R190, R191, R276, R282, R290) -/

/-- One step (R91, R276): a slot's turn that finds a word runs what the word decodes to, at the state in which that turn is open; a scheduled event runs its own meaning; a turn without a
flock that is due does nothing. -/
def StepRuns : Prop :=
  (∀ s core quad k w i, nextMove s = .issue core quad k → turnOf (beginStep s (popMove s)) (slotKey core quad k) = .word w → decode w = .ok i →
    Machine.step s = exec i (openTurn (beginStep s (popMove s)) (slotKey core quad k))) ∧
  (∀ s i, nextMove s = .event i → Machine.step s = exec i (beginStep s (popMove s))) ∧
  (∀ s core quad k, nextMove s = .issue core quad k → turnOf (beginStep s (popMove s)) (slotKey core quad k) = .idle → Machine.step s = .next (beginStep s (popMove s))) ∧
  (∀ s, nextMove s = .tick → Goes (Machine.step s))

/-- Words written out from the encodings of the spec, one or two of each format, decode to their instructions (R281 to R285, and the example clause of R290). -/
def WordsDecode : Prop :=
  decode 0x30830814 = .ok (.cmpI32 2 3 4 5 0) ∧ decode 0x441A0000 = .ok (.guard 0 3 2 0) ∧ decode 0x82062080 = .ok (.ld 4 6 2 4 0 0) ∧ decode 0x08081010 = .ok (.addi 4 4 4 0) ∧
  decode 0x48180000 = .ok (.bra 0 3 0 0)

/-- What reset leaves (R4, R10, R24, R66, R69): device time 0 and empty agenda, no context, grid, team, view or lease, memory with nothing listed, islands at step 0, register pages at their reset values,
`CKWARN` 64, every port and both host links up, no message waiting on a link, and no line sealed. -/
def ResetLeaves : Prop :=
  State.reset.time = 0 ∧ State.reset.contexts = [] ∧ State.reset.grids = [] ∧ State.reset.teams = [] ∧ State.reset.slots = [] ∧ State.reset.views = [] ∧ State.reset.leases = [] ∧
  State.reset.tlb = [] ∧ State.reset.pavilions = [] ∧ State.reset.mem = [] ∧ State.reset.hostMem = [] ∧ State.reset.scratch = [] ∧ State.reset.islands.length = 16 ∧
  (∀ i ∈ State.reset.islands, i.step = 0) ∧ State.reset.links.ports.length = 24 ∧ (∀ p ∈ State.reset.links.ports, p.up = true) ∧ State.reset.mailbox.busy = false ∧
  State.reset.mailbox.result = 0 ∧ State.reset.host.winFail = 0 ∧ State.reset.host.hfEn = false ∧ State.reset.observe.ckWarn = 64 ∧ State.reset.observe.ckRun = none ∧ State.reset.powerLimit = 2800 ∧ State.reset.host.link1 = true ∧ State.reset.links.out = [] ∧ State.reset.links.loop = [] ∧ State.reset.seals = [] ∧
  State.reset.trust.booted = false

/-- A flock stands in the present slot: live threads that owe no trap. -/
structure Stands (s : State) (sl : Slot) : Prop where
  slot : curSlot s = some sl
  nonempty : sl.flock ≠ []
  nodup : sl.flock.Nodup
  live : ∀ t ∈ sl.flock, ∃ th, thread? (atIssue s sl) t = some th ∧ th.owed = none ∧ th.wait = none ∧ th.life = .live

/-- A trap on the thread vectors: its context has a handler, it is outside it, and it runs no exit routine (R190). -/
def CanVector (s : State) (t : Tid) : Prop :=
  ∃ th tm c, thread? s t = some th ∧ team? s t.team = some tm ∧ ctx? s tm.ctx = some c ∧ c.handler ≠ 0 ∧ th.handler = none ∧ (inRoutine th .exit = false ∨ th.status.isSome)

/-- The trap is taken: `%cause`, `%tval` and the return offset are saved, the thread stands at its context's handler, and nothing else of it differs (R190). -/
def AtHandler (a b : State) (t : Tid) (tr : Trap) : Prop :=
  ∀ th tm c, thread? a t = some th → team? a t.team = some tm → ctx? a tm.ctx = some c →
    thread? b t = some { th with cause := tr.cause.code, tvalLo := tr.lo, tvalHi := tr.hi, tret := th.pc.off, wait := none, jump := none
                                 handler := some ⟨th.pc, false⟩, pc := Pc.at c.handler }

/-- A word that decodes to no instruction traps ILLEGAL_OP on every thread of the flock, with the word in `%tval.lo` and 0 in `%tval.hi`, and has no other effect (R282). -/
def IllegalWordTraps : Prop :=
  ∀ s core quad k w e, nextMove s = .issue core quad k → turnOf (beginStep s (popMove s)) (slotKey core quad k) = .word w → decode w = .error e →
    let x := openTurn (beginStep s (popMove s)) (slotKey core quad k)
    ∀ sl, Stands x sl → (∀ t ∈ sl.flock, CanVector (atIssue x sl) t) →
      ∃ r, Machine.step s = .next r ∧ (∀ t ∈ sl.flock, AtHandler (atIssue x sl) r t ⟨.illegalOp, w, 0⟩ ∧ ∀ y ∈ r.slots, t ∉ y.flock) ∧
        (∀ t, t ∉ sl.flock → thread? r t = thread? (atIssue x sl) t) ∧ r = { atIssue x sl with teams := r.teams, slots := r.slots }

/-- The register instructions, by their tables. -/
def registerOp (i : Instr) : Option RegOp :=
  (integerOp i).or ((logicOp i).or ((bitOp i).or ((moveOp i).or ((floatOp i).or (convertOp i)))))

/-- A register instruction in a clause of another class traps CLASS_MISMATCH on every thread of the flock, whatever its guard, with the word in `%tval.lo` (R279, R290). -/
def ClassMismatchTraps : Prop :=
  ∀ i word e k, encode i = some word → registerOp i = some e → e.uses.cls = some k → ∀ s sl, Stands s sl → hdrClass (posOf s sl).hword ≠ 6 → hdrClass (posOf s sl).hword ≠ k →
    (∀ t ∈ sl.flock, CanVector (atIssue s sl) t) →
    ∃ r, exec i s = .next r ∧ (∀ t ∈ sl.flock, AtHandler (atIssue s sl) r t ⟨.classMismatch, word, 0⟩ ∧ ∀ y ∈ r.slots, t ∉ y.flock) ∧
      (∀ t, t ∉ sl.flock → thread? r t = thread? (atIssue s sl) t) ∧ r = { atIssue s sl with teams := r.teams, slots := r.slots }

/-- A register instruction whose operands fail a check of R290's steps 5 to 7 traps before any effect on each performing lane (R121, R188, R190): a register at or above the rounded count, or a pair or
quad that starts wrong, ILLEGAL_OP with its index; a poisoned source POISON_READ with its index. -/
def OperandTraps : Prop :=
  (∀ i word e, encode i = some word → registerOp i = some e → ∀ s sl (tr : Tid → Trap), Stands s sl → staticTrap (posOf s sl) word e.uses = none →
    rotates (posOf s sl) sl e.uses = false →
    (∀ t ∈ lanesOf s sl e.uses, CanVector (atIssue s sl) t ∧ ∀ l, lane? (atIssue s sl) t sl.fid word = some l → stalls l e.uses = false ∧ operandTrap l e.uses = some (tr t)) →
    e.uses.ban = false → e.uses.lead = 0 → lanesOf s sl e.uses = sl.flock →
    ∃ r, exec i s = .next r ∧ ∀ t ∈ lanesOf s sl e.uses, AtHandler (atIssue s sl) r t (tr t)) ∧
  (∀ l u, ∀ p ∈ u.rv ++ u.wv, ((u.rv ++ u.wv).findSome? (spanBad l.g.regs) = spanBad l.g.regs p) →
    (p.1 % p.2 ≠ 0 → operandTrap l u = some ⟨.illegalOp, BitVec.ofNat 32 p.1, 0⟩) ∧
    (p.2 = 1 → l.g.regs ≤ p.1 → operandTrap l u = some ⟨.illegalOp, BitVec.ofNat 32 p.1, 0⟩)) ∧
  (∀ l u n, boundsTrap l u = none → u.priv = false → u.rv = [(n, 1)] → l.th.poison.getLsbD n = true → operandTrap l u = some ⟨.poisonRead, BitVec.ofNat 32 n, 0⟩)

/-- `rdpriv` and `wrpriv` of a grid without flag [6] trap PRIV (R118, R367). -/
def PrivilegeTraps : Prop :=
  ∀ d a st word i u, (i = .rdpriv d a st ∧ u = { Uses.none cCtrl with wv := [(d.toNat, 1)], priv := true }) ∨
      (i = .wrpriv d a st ∧ u = { Uses.none cCtrl with rv := [(d.toNat, 1)], priv := true, lead := 1 }) → encode i = some word → ∀ s sl t, Stands s sl →
    staticTrap (posOf s sl) word u = none → rotates (posOf s sl) sl u = false → checkers u (lanesOf s sl u) = [t] → CanVector (atIssue s sl) t → recFlag (atIssue s sl) t.team 6 = false →
    (∀ k ∈ lanesOf s sl u, ∀ l, lane? (atIssue s sl) k sl.fid word = some l → stalls l u = false ∧ boundsTrap l u = none) →
    ∃ r th, exec i s = .next r ∧ thread? r t = some th ∧ th.cause = 0x16 ∧ th.handler.isSome = true ∧ r.contexts.map (fun c => (c.id, c.window, c.wdLo, c.sample, c.seed)) =
      s.contexts.map (fun c => (c.id, c.window, c.wdLo, c.sample, c.seed))

/-- A stopping trap without a handler (R191): the lane stops TRAPPED with its cause and return offset, its team is pre-empted, team and grid are held, and a fault record is written or counted lost. -/
def TrapStops : Prop :=
  ∀ st word, encode (.brk st) = some word → ∀ s sl t l c g, Ready s sl word (Uses.none cCtrl) noHold → sl.flock = [t] → lanesOf s sl (Uses.none cCtrl) = [t] →
    lane? (atIssue s sl) t sl.fid word = some l → ctx? s l.tm.ctx = some c → c.handler = 0 → l.th.routine = none → l.tm.state = .resident → l.tm.discarded = false → l.tm.fork = none →
    l.tm.setIdx = none → recFlag (atIssue s sl) t.team 1 = false → grid? s l.tm.grid = some g →
    ∃ r th tm, exec (.brk st) s = .next r ∧ thread? r t = some th ∧ th.status = some .trapped ∧ th.fallback = true ∧ th.cause = 0x15 ∧ th.tret = l.th.pc.off ∧ th.v = l.th.v ∧
      team? r t.team = some tm ∧ tm.state = .preempting ∧ tm.held = true ∧ grid? r g.id = some { g with held := true } ∧
      ∃ k, ctx? r c.id = some k ∧ (k.faultHead = c.faultHead + 1 ∨ k.faultLost = c.faultLost + 1)

/-- An instruction that a flock issues leaves device time, islands, partitions, pavilions, keys, frames, measurements, the audit log and the host's interfaces of command as they are: only steps of the
device change those (R24, R49, R56, R60, R67, R69). -/
def IssueKeepsDevice : Prop :=
  ∀ i w, encode i = some w → ∀ s r, exec i s = .next r → r.time = s.time ∧ r.islands = s.islands ∧ r.partitions = s.partitions ∧ r.pavilions = s.pavilions ∧ r.rotation = s.rotation ∧
    r.frames = s.frames ∧ r.trust = s.trust ∧ r.mailbox = s.mailbox ∧ r.partIf = s.partIf ∧ r.pavIf = s.pavIf ∧ r.powerLimit = s.powerLimit

/-! ### Single rules -/

/-- `trap` and `brk` alone, of the table of instructions that leave the flock. -/
def trapWords (i : Instr) : Option TurnOp :=
  match i with
  | .trap _ _ => leaveOp i
  | .brk _ => leaveOp i
  | _ => none

/-- The fault vector of a context (R39): a record that the area takes makes it due, a lost one does not; due, and 800 ticks after the last, vector `base + 0` is raised; earlier it is not. -/
def FaultVectorRises : Prop :=
  (∀ s r c, r.stage2 = false → ctx? s r.ctx = some c → ∃ k, ctx? (writeFault s r).2 r.ctx = some k ∧
    k.faultDue = (c.faultDue || (writeFault s r).1.isSome)) ∧
  (∀ s c, ctx? s c.id = some c → c.faultDue = true → (∀ t, c.faultTick = some t → t + 800 ≤ s.time) →
    ∃ r, exec (.faultVector c.id) s = .next r ∧ Rings s r c.msix c.vecBase ∧ ctx? r c.id = some { c with faultDue := false, faultTick := some s.time }) ∧
  (∀ s c t, ctx? s c.id = some c → c.faultTick = some t → s.time < t + 800 → exec (.faultVector c.id) s = .next s)

/-- A full area (R41): no record is written, the lost-record count grows by one in the context and in its host word, no sequence number is taken, and every team stays as it is. -/
def LostRecordCounts : Prop :=
  ∀ s r c, r.stage2 = false → ctx? s r.ctx = some c → (c.faultHead + 2 ^ 32 - Memory.readLe s.hostMem (c.faultBase + 4) 4) % 2 ^ 32 = c.faultEntries →
    (writeFault s r).1 = none ∧ (writeFault s r).2.hostMem = Memory.writeN s.hostMem (c.faultBase + 8) (leBytes 8 (c.faultLost + 1)) ∧ (writeFault s r).2.host.seq = s.host.seq ∧
    (writeFault s r).2.teams = s.teams ∧ ∃ k, ctx? (writeFault s r).2 r.ctx = some k ∧ k.faultLost = c.faultLost + 1 ∧ k.faultHead = c.faultHead

/-- `wait.ext` on an aligned address outside region 0 traps PROTECTION with the address in `%tval` (R35). -/
def SignalWordRegion : Prop :=
  ∀ d a b st word, encode (.waitExt d a b st) = some word → ∀ s sl,
    let u : Uses := { Uses.none cCtrl with rv := [(d.toNat, 2)], rb := [a.toNat], rs := [b.toNat], ban := true }
    Ready s sl word u (memHold 0 fun l => some (((rdB l.tm l.th a.toNat).toNat + (rdS l.g b.toNat).toNat) % 2 ^ 80)) → lanesOf s sl u = sl.flock →
    (∀ t ∈ sl.flock, CanVector (atIssue s sl) t ∧ ∀ l, lane? (atIssue s sl) t sl.fid word = some l →
      let va := ((rdB l.tm l.th a.toNat).toNat + (rdS l.g b.toNat).toNat) % 2 ^ 80
      va % 8 = 0 ∧ regionNo va ≠ 0) →
    ∃ r, exec (.waitExt d a b st) s = .next r ∧ ∀ t ∈ sl.flock, ∀ l, lane? (atIssue s sl) t sl.fid word = some l →
      let va := ((rdB l.tm l.th a.toNat).toNat + (rdS l.g b.toNat).toNat) % 2 ^ 80
      AtHandler (atIssue s sl) r t ⟨.protection, BitVec.ofNat 32 va, BitVec.ofNat 32 (va / 2 ^ 32)⟩

/-- `setgm` (R373): a performing thread whose own column is in va receives `%gmask` = va at issue + 4; where the column is missing the thread traps ILLEGAL_OP with va, and its mask stays. -/
def GroupMaskSet : Prop :=
  Turns (fun i => match i with | .setgm _ _ => specialOp i | _ => none) ∧
  ∀ a st word, encode (.setgm a st) = some word → ∀ s sl,
    let u : Uses := { Uses.none cLong with rv := [(a.toNat, 1)] }
    Ready s sl word u noHold → lanesOf s sl u = sl.flock →
    (∀ t ∈ sl.flock, CanVector (atIssue s sl) t ∧ ∀ l, lane? (atIssue s sl) t sl.fid word = some l → (rdV l.th a.toNat).getLsbD t.lane = false) →
    ∃ r, exec (.setgm a st) s = .next r ∧ ∀ t ∈ sl.flock, ∀ l, lane? (atIssue s sl) t sl.fid word = some l →
      AtHandler (atIssue s sl) r t ⟨.illegalOp, rdV l.th a.toNat, 0⟩

end Sys2Proof.Claims

/-! ### The statements -/

open Sys2Proof Machine Claims

/-- For every instruction i that is well formed and every word w that the encoder gives it, decoding w answers i, with every operand at every value the encoding admits. (R281, R282, R283, R286) -/
def Obligations.EncodingRoundTrips : Prop := ∀ i : Instr, i.wf = true → ∀ w, encode i = some w → decode w = .ok i

/-- For every state whose three memories are in canonical form (addresses rising, nothing listed that an unlisted byte reads as), every state that a step answers has them so too. The form is the model's own (log entry 2). (R137, R155) -/
def Obligations.StepKeepsMemory : Prop := ∀ s r : State, MemoryCanonical s → Sys2Proof.Machine.step s = .next r → MemoryCanonical r

/-- For every state in which the execution slots have one entry each and every flock holds threads of one team with at most one in each lane column, every state that a step answers is such a state. (R92, R93) -/
def Obligations.StepKeepsFlocks : Prop := ∀ s r : State, FlocksWellFormed s → Sys2Proof.Machine.step s = .next r → FlocksWellFormed r

/-- The memories of the reset state are canonical and its execution slots are well formed. -/
def Obligations.ResetMeetsInvariants : Prop := MemoryCanonical Sys2Proof.Machine.State.reset ∧ FlocksWellFormed Sys2Proof.Machine.State.reset

/-- Whatever instruction word a flock issues, device time, the islands, the partitions, pavilions and keys, the frame queue, measurements and audit log, the mailbox and the command blocks are as before. (R10, R49, R56, R60) -/
def Obligations.IssueKeepsTheDevice : Prop := IssueKeepsDevice

/-- When the schedule gives a slot its turn, the flock is due and the word at its position decodes to i, the step is exec of i at the state in which that turn is open (the count of free values advanced, the move taken off the agenda, the turn counted). A scheduled event is exec of the event. A turn without a due flock changes only those, and a tick answers a next state. (R91, R276) -/
def Obligations.StepRunsTheDecodedInstruction : Prop := StepRuns

/-- The five instruction words of the worked example of spec/14, written out there field by field, decode to cmp.lt.i32, guard, ld.b32, addi and bra with the operands of its source lines. (R290) -/
def Obligations.WordsOfTheExampleDecode : Prop := WordsDecode

/-- Device time 0, no context, grid, team, view or lease, empty memories, sixteen islands at step 0, the mailbox idle with RESULT 0, WINFAIL 0, HFEN 0, CKWARN 64. No message waits on a link and no line is sealed. That ports and the host's link 1 are up and that the power limit is 2800 W are the model's choices (log entries 5, 6 and 7). -/
def Obligations.ResetLeavesTheDevice : Prop := ResetLeaves

/-- When the word at a due flock's position does not decode and every thread can vector, the step leaves each thread at its context's handler with cause ILLEGAL_OP, the word in %tval.lo, 0 in %tval.hi and its own offset as return offset, out of its flock; other threads and all else stay. (R282, R190) -/
def Obligations.UndecodableWordsTrap : Prop := IllegalWordTraps

/-- For every register instruction, in a clause whose class is neither MIXED nor the instruction's, every thread of the flock takes CLASS_MISMATCH with the word in %tval.lo, whatever its guard, and nothing else changes. (R279, R290, R190) -/
def Obligations.ClassMismatchTrapsTheFlock : Prop := ClassMismatchTraps

/-- A register instruction all of whose lanes fail a check of steps 5 to 7 leaves each at its handler with that trap and its registers unchanged. The checks: a misaligned pair or quad and a register at or above the rounded count give ILLEGAL_OP with the index, a poisoned source POISON_READ with its index. (R121, R188, R190, R290) -/
def Obligations.OperandChecksTrap : Prop := OperandTraps

/-- Where the grid's record lacks flag [6], the checking lane of rdpriv or wrpriv takes PRIV at its handler and no privileged register changes. (R118, R367, R290) -/
def Obligations.PrivilegeIsChecked : Prop := PrivilegeTraps

/-- brk of a lane whose context has no handler: the lane is TRAPPED with its cause and return offset, its registers stay, its team goes under pre-emption, team and grid are held, and a record is written or counted lost. (R191, R365, R172) -/
def Obligations.TrapWithoutHandlerStops : Prop := TrapStops

/-- On a ready flock whose lanes can vector, trap sA leaves each performing lane at its handler with cause TRAP_INST, %tval.lo = sA, %tval.hi = 0 and the word after it as return offset; brk with cause BREAK, %tval 0 and its own offset. Nothing else changes. (R365) -/
def Obligations.TrapInstructionsDeliver : Prop := Leaves trapWords

/-- A record that a context's area takes makes its fault vector due, a lost one does not; when 800 ticks have passed since the last, the step raises vector base + 0 of its function; within 800 ticks it changes nothing. (R39) -/
def Obligations.FaultVectorOfAContext : Prop := FaultVectorRises

/-- When the area is full no record is written, the lost-record count grows by one in the area's word, no sequence number is taken, and every team stays as it is. (R41) -/
def Obligations.LostFaultRecords : Prop := LostRecordCounts

/-- On aligned addresses of another region every lane of wait.ext takes PROTECTION at its handler with the address in %tval. (R35) -/
def Obligations.SignalWordsLieInRegionZero : Prop := SignalWordRegion

/-- A performing thread whose own column is in va gets %gmask = va at issue + 4; where it is missing the thread takes ILLEGAL_OP with va in %tval.lo and its mask is unchanged. (R373) -/
def Obligations.SetgmWritesTheMask : Prop := GroupMaskSet

/-- For each instruction of the table (add to mad, carries, saturating and packed forms), on a ready flock exec answers the state in which every performing lane has the result (and flag or carry) due at issue + latency, the flock has gone on, and no other thread, register, special register, base, or byte of memory has changed. (R106, R291) -/
def Obligations.IntegerResults : Prop := RegResult integerOp

/-- As for integer arithmetic, for the logic, shift and comparison instructions, whose predicates are written likewise. (R106) -/
def Obligations.LogicAndShiftResults : Prop := RegResult logicOp

/-- As for integer arithmetic, for the bit-field, count and permute instructions. (R106) -/
def Obligations.BitFieldResults : Prop := RegResult bitOp

/-- As for integer arithmetic, for moves, selects and the predicate instructions. (R106) -/
def Obligations.MoveResults : Prop := RegResult moveOp

/-- As for integer arithmetic, for the F32 and narrow float instructions, with the %fstat flags they raise. (R106, R315) -/
def Obligations.FloatResults : Prop := RegResult floatOp

/-- As for integer arithmetic, for the conversions between formats, with the %fstat flags they raise. (R106) -/
def Obligations.ConversionResults : Prop := RegResult convertOp

/-- On a ready flock the destinations and %fstat of the F64 and SFU instructions become pending with the result held; the unit's event writes them and ends the pending marks. (R255, R320, R321, R324) -/
def Obligations.LongUnitResults : Prop := Turns longUnitOp ∧ UnitDelivers

/-- MOVS reads and writes, rdpriv, perf.rd, world and member masks: every performing lane receives the value the register holds, or the register its value at issue + 4. (R119, R367) -/
def Obligations.SpecialRegisterResults : Prop := Turns specialOp

/-- guard latches its condition and length in every thread, sleeptk names the registers to sleep on, nop and yield only let the flock go on. (R284, R292) -/
def Obligations.ThreadInstructions : Prop := Turns threadOp ∧ PlainWords

/-- Each performing lane whose predicate holds takes its target at the clause's end; call pushes and ret pops the return stack; other lanes go on. (R280, R285, R311) -/
def Obligations.ControlTransfers : Prop := Turns transferOp

/-- The lowest performing lane of each group computes, and the group's scalar register is due at issue + 4; sld queues one load per group. (R122, R348) -/
def Obligations.ScalarResults : Prop := ScalarResult scalarTable ∧ ScalarLoads

/-- The lowest performing lane of the team computes the base value, due at issue + 4; the reading forms deliver 80 bits to a lane's registers. (R122, R123) -/
def Obligations.BaseRegisterResults : Prop := BaseResult ∧ BaseRead

/-- On a ready flock whose lanes reach their address, each performing lane's access stands at the end of its queue with operation, address, size, order and data, the destinations of a load are pending, and no byte of memory changes: for a store the bytes change only when the access drains to the address it carries. (R332, R334, R335) -/
def Obligations.MemoryAccessesQueue : Prop := Turns accessOp

/-- Every form of atom and red on global memory and scratchpad queues its operation, operands and pending destinations; memory stays until it is performed. (R338, R340, R343) -/
def Obligations.AtomicsQueue : Prop := Turns atomicOp

/-- Each fence form queues its fence; the fence leaves the queue once its preconditions hold, pfence.lc empties the core's constant cache, and nothing else changes. (R162, R344) -/
def Obligations.FencesAndOrders : Prop := Turns orderOp ∧ FenceFinishes

/-- Votes, shuffles, reductions and elect: with one member mask that names exactly the arriving lanes and dead columns, each member's result comes 8 cycles later, pending until then; gsync lets the group go on. (R110, R111, R370, R372, R375) -/
def Obligations.CollectiveResults : Prop := Collects collTable ∧ GroupSync

/-- Pen updates queue once per group or lane and change the pen at its bank; pen.test reads it; barriers let the team go on when the named count arrives; scratchpad loads, stores and atomics are performed at their bank. (R374, R376, R377) -/
def Obligations.BarriersAndPens : Prop := Turns penTable ∧ Barriers ∧ PenCounts ∧ BankAccess

/-- tret, tret.skip, sleep, wait.ext, pen.wait, exit.save and entry.done take their lanes out of the flock with the state the rules give; a sleep ends when its tick comes. (R356, R362, R364, R365, R366) -/
def Obligations.ThreadsLeaveTheirFlock : Prop := Leaves leaveOp ∧ EntriesEnd ∧ SleepEnds

/-- rlk.q, tr.filled and tr.free deliver their counts; bind, unbind, reset and gath.close act on the team's queue; push and pop queue and are served in order. (R390, R391, R392, R394, R396) -/
def Obligations.CountsAndTroughWords : Prop := Turns countTable ∧ TroughWords ∧ TroughAccess ∧ TroughServes

/-- A whole team that meets opens a task with a new draft view and age; held back by its stamp it opens later; tend asks for the commit; tabort rolls the family back. (R196, R197, R203, R205, R208, R351) -/
def Obligations.TasksOpenAndClose : Prop := TaskOpens ∧ TaskAborts ∧ Attending ∧ StampMoves ∧ CommitAsked

/-- adecl and adrop keep the set tables; a granule is granted, or waited for with a wound to a younger holder; a wounded family rolls back and starts again. (R198, R199, R200, R203, R204, R353, R354) -/
def Obligations.AtomicSets : Prop := SetWords ∧ GranuleAsked ∧ WoundArrives ∧ RollsBack ∧ TaskStartsAgain

/-- fork.w starts its copies, each world gets a view and a number; choose.first and choose.best pick a winner; the winner's copy continues with the chosen number in its register. (R221, R222, R225, R226, R227, R228) -/
def Obligations.WorldsForkAndChoose : Prop := WorldsFork ∧ WorldAsks ∧ ForkCopied ∧ FirstChosen ∧ BestArrives ∧ ChoiceCopied

/-- At its tick a commit moves every version of the view to its parent or to memory; a task's commit frees its holds; a discarded view's versions are swept and its tag is freed. (R168, R213, R218, R219) -/
def Obligations.ViewsCommitAndDie : Prop := ViewCommits ∧ TaskCommits ∧ ViewDies ∧ SweeperPasses ∧ TagFrees

/-- mx.rd, mx.st, mx.ld, mx.clr and mx.mma enter the quadrant's queue with their parameters; each chunk computes its elements; the finish delivers values or status. (R399, R400, R401, R403, R406, R407, R409) -/
def Obligations.MatrixForms : Prop := MatForms ∧ MatMultiplies ∧ MatStarts ∧ MatChunks ∧ MatFinishes

/-- The engine forms issue operations; an operation starts when queues and locks allow, moves its bytes to the place that its descriptor gives, and delivers its status word; PRI answers resume host transfers. (R47, R166, R378, R381, R383, R384, R393) -/
def Obligations.EnginesMoveBytes : Prop := CopyStarts ∧ GroupStarts ∧ OperationStarts ∧ CopyMoves ∧ BeatArrives ∧ StatusDelivered ∧ GatherPushes ∧ BulkWorks ∧ HostPages

/-- A record is handed to the queue controller and the lane waits; an exiting thread is retired; exit.succ names a successor; tyield offers the team; a signal waits for earlier stores. (R113, R118, R359, R360, R361, R363) -/
def Obligations.WorkLeavesTheFlock : Prop := Launches ∧ ThreadsExit ∧ ThreadExitsTo ∧ TeamYields ∧ Signals

/-- wrpriv writes the watchdog window, the sampling period and the seed; ipref, ipin and iunpin act on the lines of code they name; tmark writes a trace record. (R239, R240, R367, R368, R369) -/
def Obligations.SystemWords : Prop := PrivWrites ∧ CodeLineWords ∧ TraceWord

/-- A load takes its value from a lease copy, the constant cache or the home slice, under the own team's stores; a store passes the gate and gets a completion time later than every lease of its line; an atomic reads and writes at its home; a lease ends at its expiry. (R130, R154, R156, R157, R158, R160) -/
def Obligations.AccessesArePerformed : Prop := LoadsBind ∧ SignalRead ∧ LeaseExpires ∧ StoreEnters ∧ StoreDrains ∧ AtomicReaches

/-- Accesses outside the device are sent and answered; a walk gives the access its physical address and lease class, or logs it with a fault record. (R139, R145, R148, R149, R161, R337) -/
def Obligations.ExternalAccessesAndWalks : Prop := ExternalLeaves ∧ HostAnswers ∧ WalkEnds

/-- The queue controller takes a launch, a grid becomes ready, a team is placed at the lowest place that fits, the picker forms a flock, budgets and residency bounds pre-empt, and a team whose threads and operations have ended gives up its place at once and is gone when its stores are done. (R79, R82, R83, R85, R89, R93, R94, R113) -/
def Obligations.GridsAndTeamsRun : Prop := GridsReady ∧ LaunchTaken ∧ TeamPlaced ∧ FlockPicked ∧ TeamRetires ∧ BudgetSpent ∧ ResidencyEnds

/-- Threads of a team under pre-emption vector to their exit routines or dump; a routine past its budget ends OVERRUN; when all have ended the record is written and the team is saved. (R172, R174, R175, R176, R180, R184) -/
def Obligations.TeamsAreSaved : Prop := TeamSaved ∧ ThreadVectored ∧ RoutineOverruns

/-- A window without progress posts its notice; a sampler writes its record; a power window steps islands; corrected errors count; a warm island goes to its lowest step. Each event named answers a next state under the conditions that it states on the state alone. (R9, R13, R14, R15, R96, R239) -/
def Obligations.DeviceTimers : Prop := WatchdogFires ∧ Samples ∧ PowerSteps ∧ ErrorCounted ∧ Warms

/-- In every state deviceReset answers a next state: the reset machine, but memories, audit log and dump stay (lines of pavilions as they are sealed), the boot epoch grows by one and five components are measured; and for every cause and island fatalError answers a next state: its dump written, event 0x0101 logged, the device reset. (R66, R237, R238) -/
def Obligations.ResetAndFatalErrors : Prop := DeviceResets

/-- A peer's read is answered with line and lease, its write or atomic waits for its completion time; answers perform the accesses that asked; replays, failover and timeouts. (R19, R20, R21, R22, R161) -/
def Obligations.LinksAndPeers : Prop := PeerServed ∧ PeerAnswers ∧ LinkFails

/-- Signals are sent after their stores; windows read committed bytes and write as system-scope stores in the order of their link; a failed access reads ones and is counted; nothing arrives on an untrained link; untrusted accesses are logged; HFEN takes a legal area only. (R25, R36, R38, R39, R44, R45, R46, R48) -/
def Obligations.HostVectorsAndWindows : Prop := VectorsSent ∧ WindowWorks ∧ InterfacesGuard

/-- CREATE_CONTEXT makes the context of its descriptor, DESTROY clears it, SUSPEND, RESUME and SET_WATCHDOG act on it, MEASURE_STEWARD measures once; each ends with its result, tag and vector 0. (R30, R31, R32, R34, R63, R66, R96) -/
def Obligations.MailboxCommands : Prop := CommandEnds ∧ ContextCreated ∧ ContextDestroyed ∧ ContextHeld ∧ StewardMeasured

/-- DEFINE, DELETE, GROW, SHRINK, LEND, RECLAIM and READ change ownership as their rules say or end with their code and change nothing; an operation waits for the teams it pre-empted; engines are leased, released and expire. (R50, R51, R52, R53, R54, R55, R88) -/
def Obligations.PartitionsAndLeases : Prop := PartitionsChange ∧ PartitionRefused ∧ OperationWaits ∧ EnginesLeased

/-- With the interface idle and its fields legal, pavilionCreate, assign, unassign, addframe, delframe and pavilionDestroy each answer a next state with the effect that R57 gives it, and end or wait for the scrub; frameQueue makes a frame pending and frameScrub zeros it; keyRotationGo and sweepLine seal line by line under the new key and end with the old one gone. (R57, R60, R61, R62, R64, R65) -/
def Obligations.PavilionsAndFrames : Prop := PavilionsChange ∧ FramesScrubbed ∧ KeysRotate

/-- measExtend, sigreq and lpcode answer a next state with their effect on the trust registers; getVersion, getCapabilities, negotiateAlgorithms, getCertificate, challenge, getMeasurements and unsupportedRequest each answer the next state with one answer more. Message codes and signed texts are the model's (presumed, SPDM 1.3). (R67, R68, R70, R71) -/
def Obligations.RootOfTrust : Prop := TrustRegisters ∧ SpdmAnswers

/-- keyx, prepare, handoverCommit, handoverAbort, accept, handoverRelease and statement each answer a next state with the effect that R74 gives it when its conditions hold, and with CONFLICT and no change out of their order. What of running contexts an image holds is the model's (log entry 89). The layout of the image's body is the model's (log entry 9). (R72, R73, R74) -/
def Obligations.Handover : Prop := HandoverSteps ∧ CopyPrepared ∧ MoveCommits ∧ ImageAccepted

/-- Cached translations are dropped and their users awaited; a logged access is walked again, or discarded with poison and trap; a record is injected; a pool grows by an extent. (R146, R147, R149, R152, R217) -/
def Obligations.TranslationControl : Prop := TranslationsDropped ∧ FaultsServed ∧ PoolGrows

/-- START, ARM, DISARM, warnings, the tick and the staged commit; rings and histograms; plain registers read back as written to a trusted reader, and the words of operation registers start their operations. (R4, R48, R232, R233, R234, R235, R242) -/
def Obligations.CheckpointsAndRegisters : Prop := CheckpointsTaken ∧ CheckpointsRefused ∧ CheckpointCommits ∧ RingsObserved ∧ RegistersHold ∧ WordsStart
end

