-- ==== Sys2Proof/Laws/Encoding.lean ====
section
/-! SUPPORT. The fields of an encoded word, format by format (R281). -/

namespace Sys2Proof.Laws

@[simp] theorem fld_encA_op (op : BitVec 6) (fn : BitVec 3) (d : BitVec 7) (a : BitVec 7) (b : BitVec 7) (st : BitVec 2) :
    fld (encA op fn d a b st) 26 6 = op := by
  apply BitVec.eq_of_getLsbD_eq
  intro k hk
  simp only [fld, encA, BitVec.getLsbD_extractLsb', BitVec.getLsbD_append]
  repeat (rw [if_neg (by omega)])
  rw [decide_eq_true hk, Bool.true_and]
  congr 1
  omega

@[simp] theorem fld_encA_fn (op : BitVec 6) (fn : BitVec 3) (d : BitVec 7) (a : BitVec 7) (b : BitVec 7) (st : BitVec 2) :
    fld (encA op fn d a b st) 23 3 = fn := by
  apply BitVec.eq_of_getLsbD_eq
  intro k hk
  simp only [fld, encA, BitVec.getLsbD_extractLsb', BitVec.getLsbD_append]
  repeat (rw [if_neg (by omega)])
  rw [if_pos (by omega)]
  rw [decide_eq_true hk, Bool.true_and]
  congr 1
  omega

@[simp] theorem fld_encA_d (op : BitVec 6) (fn : BitVec 3) (d : BitVec 7) (a : BitVec 7) (b : BitVec 7) (st : BitVec 2) :
    fld (encA op fn d a b st) 16 7 = d := by
  apply BitVec.eq_of_getLsbD_eq
  intro k hk
  simp only [fld, encA, BitVec.getLsbD_extractLsb', BitVec.getLsbD_append]
  repeat (rw [if_neg (by omega)])
  rw [if_pos (by omega)]
  rw [decide_eq_true hk, Bool.true_and]
  congr 1
  omega

@[simp] theorem fld_encA_a (op : BitVec 6) (fn : BitVec 3) (d : BitVec 7) (a : BitVec 7) (b : BitVec 7) (st : BitVec 2) :
    fld (encA op fn d a b st) 9 7 = a := by
  apply BitVec.eq_of_getLsbD_eq
  intro k hk
  simp only [fld, encA, BitVec.getLsbD_extractLsb', BitVec.getLsbD_append]
  repeat (rw [if_neg (by omega)])
  rw [if_pos (by omega)]
  rw [decide_eq_true hk, Bool.true_and]
  congr 1
  omega

@[simp] theorem fld_encA_b (op : BitVec 6) (fn : BitVec 3) (d : BitVec 7) (a : BitVec 7) (b : BitVec 7) (st : BitVec 2) :
    fld (encA op fn d a b st) 2 7 = b := by
  apply BitVec.eq_of_getLsbD_eq
  intro k hk
  simp only [fld, encA, BitVec.getLsbD_extractLsb', BitVec.getLsbD_append]
  repeat (rw [if_neg (by omega)])
  rw [if_pos (by omega)]
  rw [decide_eq_true hk, Bool.true_and]
  congr 1
  omega

@[simp] theorem fld_encA_st (op : BitVec 6) (fn : BitVec 3) (d : BitVec 7) (a : BitVec 7) (b : BitVec 7) (st : BitVec 2) :
    fld (encA op fn d a b st) 0 2 = st := by
  apply BitVec.eq_of_getLsbD_eq
  intro k hk
  simp only [fld, encA, BitVec.getLsbD_extractLsb', BitVec.getLsbD_append]
  rw [if_pos (by omega)]
  rw [decide_eq_true hk, Bool.true_and]
  congr 1
  omega

@[simp] theorem fld_encI_op (op : BitVec 6) (fn : BitVec 2) (d : BitVec 7) (a : BitVec 7) (i : BitVec 8) (st : BitVec 2) :
    fld (encI op fn d a i st) 26 6 = op := by
  apply BitVec.eq_of_getLsbD_eq
  intro k hk
  simp only [fld, encI, BitVec.getLsbD_extractLsb', BitVec.getLsbD_append]
  repeat (rw [if_neg (by omega)])
  rw [decide_eq_true hk, Bool.true_and]
  congr 1
  omega

@[simp] theorem fld_encI_fn (op : BitVec 6) (fn : BitVec 2) (d : BitVec 7) (a : BitVec 7) (i : BitVec 8) (st : BitVec 2) :
    fld (encI op fn d a i st) 24 2 = fn := by
  apply BitVec.eq_of_getLsbD_eq
  intro k hk
  simp only [fld, encI, BitVec.getLsbD_extractLsb', BitVec.getLsbD_append]
  repeat (rw [if_neg (by omega)])
  rw [if_pos (by omega)]
  rw [decide_eq_true hk, Bool.true_and]
  congr 1
  omega

@[simp] theorem fld_encI_d (op : BitVec 6) (fn : BitVec 2) (d : BitVec 7) (a : BitVec 7) (i : BitVec 8) (st : BitVec 2) :
    fld (encI op fn d a i st) 17 7 = d := by
  apply BitVec.eq_of_getLsbD_eq
  intro k hk
  simp only [fld, encI, BitVec.getLsbD_extractLsb', BitVec.getLsbD_append]
  repeat (rw [if_neg (by omega)])
  rw [if_pos (by omega)]
  rw [decide_eq_true hk, Bool.true_and]
  congr 1
  omega

@[simp] theorem fld_encI_a (op : BitVec 6) (fn : BitVec 2) (d : BitVec 7) (a : BitVec 7) (i : BitVec 8) (st : BitVec 2) :
    fld (encI op fn d a i st) 10 7 = a := by
  apply BitVec.eq_of_getLsbD_eq
  intro k hk
  simp only [fld, encI, BitVec.getLsbD_extractLsb', BitVec.getLsbD_append]
  repeat (rw [if_neg (by omega)])
  rw [if_pos (by omega)]
  rw [decide_eq_true hk, Bool.true_and]
  congr 1
  omega

@[simp] theorem fld_encI_i (op : BitVec 6) (fn : BitVec 2) (d : BitVec 7) (a : BitVec 7) (i : BitVec 8) (st : BitVec 2) :
    fld (encI op fn d a i st) 2 8 = i := by
  apply BitVec.eq_of_getLsbD_eq
  intro k hk
  simp only [fld, encI, BitVec.getLsbD_extractLsb', BitVec.getLsbD_append]
  repeat (rw [if_neg (by omega)])
  rw [if_pos (by omega)]
  rw [decide_eq_true hk, Bool.true_and]
  congr 1
  omega

@[simp] theorem fld_encI_st (op : BitVec 6) (fn : BitVec 2) (d : BitVec 7) (a : BitVec 7) (i : BitVec 8) (st : BitVec 2) :
    fld (encI op fn d a i st) 0 2 = st := by
  apply BitVec.eq_of_getLsbD_eq
  intro k hk
  simp only [fld, encI, BitVec.getLsbD_extractLsb', BitVec.getLsbD_append]
  rw [if_pos (by omega)]
  rw [decide_eq_true hk, Bool.true_and]
  congr 1
  omega

@[simp] theorem fld_encL_op (op : BitVec 6) (fn : BitVec 1) (d : BitVec 7) (i : BitVec 16) (st : BitVec 2) :
    fld (encL op fn d i st) 26 6 = op := by
  apply BitVec.eq_of_getLsbD_eq
  intro k hk
  simp only [fld, encL, BitVec.getLsbD_extractLsb', BitVec.getLsbD_append]
  repeat (rw [if_neg (by omega)])
  rw [decide_eq_true hk, Bool.true_and]
  congr 1
  omega

@[simp] theorem fld_encL_fn (op : BitVec 6) (fn : BitVec 1) (d : BitVec 7) (i : BitVec 16) (st : BitVec 2) :
    fld (encL op fn d i st) 25 1 = fn := by
  apply BitVec.eq_of_getLsbD_eq
  intro k hk
  simp only [fld, encL, BitVec.getLsbD_extractLsb', BitVec.getLsbD_append]
  repeat (rw [if_neg (by omega)])
  rw [if_pos (by omega)]
  rw [decide_eq_true hk, Bool.true_and]
  congr 1
  omega

@[simp] theorem fld_encL_d (op : BitVec 6) (fn : BitVec 1) (d : BitVec 7) (i : BitVec 16) (st : BitVec 2) :
    fld (encL op fn d i st) 18 7 = d := by
  apply BitVec.eq_of_getLsbD_eq
  intro k hk
  simp only [fld, encL, BitVec.getLsbD_extractLsb', BitVec.getLsbD_append]
  repeat (rw [if_neg (by omega)])
  rw [if_pos (by omega)]
  rw [decide_eq_true hk, Bool.true_and]
  congr 1
  omega

@[simp] theorem fld_encL_i (op : BitVec 6) (fn : BitVec 1) (d : BitVec 7) (i : BitVec 16) (st : BitVec 2) :
    fld (encL op fn d i st) 2 16 = i := by
  apply BitVec.eq_of_getLsbD_eq
  intro k hk
  simp only [fld, encL, BitVec.getLsbD_extractLsb', BitVec.getLsbD_append]
  repeat (rw [if_neg (by omega)])
  rw [if_pos (by omega)]
  rw [decide_eq_true hk, Bool.true_and]
  congr 1
  omega

@[simp] theorem fld_encL_st (op : BitVec 6) (fn : BitVec 1) (d : BitVec 7) (i : BitVec 16) (st : BitVec 2) :
    fld (encL op fn d i st) 0 2 = st := by
  apply BitVec.eq_of_getLsbD_eq
  intro k hk
  simp only [fld, encL, BitVec.getLsbD_extractLsb', BitVec.getLsbD_append]
  rw [if_pos (by omega)]
  rw [decide_eq_true hk, Bool.true_and]
  congr 1
  omega

@[simp] theorem fld_encC_op (op : BitVec 6) (cc : BitVec 4) (p : BitVec 6) (a : BitVec 7) (b : BitVec 7) (st : BitVec 2) :
    fld (encC op cc p a b st) 26 6 = op := by
  apply BitVec.eq_of_getLsbD_eq
  intro k hk
  simp only [fld, encC, BitVec.getLsbD_extractLsb', BitVec.getLsbD_append]
  repeat (rw [if_neg (by omega)])
  rw [decide_eq_true hk, Bool.true_and]
  congr 1
  omega

@[simp] theorem fld_encC_cc (op : BitVec 6) (cc : BitVec 4) (p : BitVec 6) (a : BitVec 7) (b : BitVec 7) (st : BitVec 2) :
    fld (encC op cc p a b st) 22 4 = cc := by
  apply BitVec.eq_of_getLsbD_eq
  intro k hk
  simp only [fld, encC, BitVec.getLsbD_extractLsb', BitVec.getLsbD_append]
  repeat (rw [if_neg (by omega)])
  rw [if_pos (by omega)]
  rw [decide_eq_true hk, Bool.true_and]
  congr 1
  omega

@[simp] theorem fld_encC_p (op : BitVec 6) (cc : BitVec 4) (p : BitVec 6) (a : BitVec 7) (b : BitVec 7) (st : BitVec 2) :
    fld (encC op cc p a b st) 16 6 = p := by
  apply BitVec.eq_of_getLsbD_eq
  intro k hk
  simp only [fld, encC, BitVec.getLsbD_extractLsb', BitVec.getLsbD_append]
  repeat (rw [if_neg (by omega)])
  rw [if_pos (by omega)]
  rw [decide_eq_true hk, Bool.true_and]
  congr 1
  omega

@[simp] theorem fld_encC_a (op : BitVec 6) (cc : BitVec 4) (p : BitVec 6) (a : BitVec 7) (b : BitVec 7) (st : BitVec 2) :
    fld (encC op cc p a b st) 9 7 = a := by
  apply BitVec.eq_of_getLsbD_eq
  intro k hk
  simp only [fld, encC, BitVec.getLsbD_extractLsb', BitVec.getLsbD_append]
  repeat (rw [if_neg (by omega)])
  rw [if_pos (by omega)]
  rw [decide_eq_true hk, Bool.true_and]
  congr 1
  omega

@[simp] theorem fld_encC_b (op : BitVec 6) (cc : BitVec 4) (p : BitVec 6) (a : BitVec 7) (b : BitVec 7) (st : BitVec 2) :
    fld (encC op cc p a b st) 2 7 = b := by
  apply BitVec.eq_of_getLsbD_eq
  intro k hk
  simp only [fld, encC, BitVec.getLsbD_extractLsb', BitVec.getLsbD_append]
  repeat (rw [if_neg (by omega)])
  rw [if_pos (by omega)]
  rw [decide_eq_true hk, Bool.true_and]
  congr 1
  omega

@[simp] theorem fld_encC_st (op : BitVec 6) (cc : BitVec 4) (p : BitVec 6) (a : BitVec 7) (b : BitVec 7) (st : BitVec 2) :
    fld (encC op cc p a b st) 0 2 = st := by
  apply BitVec.eq_of_getLsbD_eq
  intro k hk
  simp only [fld, encC, BitVec.getLsbD_extractLsb', BitVec.getLsbD_append]
  rw [if_pos (by omega)]
  rw [decide_eq_true hk, Bool.true_and]
  congr 1
  omega

@[simp] theorem fld_encP_op (op : BitVec 6) (fn : BitVec 3) (d : BitVec 6) (a : BitVec 6) (b : BitVec 6) (m : BitVec 1) (n : BitVec 1) (z : BitVec 1) (st : BitVec 2) :
    fld (encP op fn d a b m n z st) 26 6 = op := by
  apply BitVec.eq_of_getLsbD_eq
  intro k hk
  simp only [fld, encP, BitVec.getLsbD_extractLsb', BitVec.getLsbD_append]
  repeat (rw [if_neg (by omega)])
  rw [decide_eq_true hk, Bool.true_and]
  congr 1
  omega

@[simp] theorem fld_encP_fn (op : BitVec 6) (fn : BitVec 3) (d : BitVec 6) (a : BitVec 6) (b : BitVec 6) (m : BitVec 1) (n : BitVec 1) (z : BitVec 1) (st : BitVec 2) :
    fld (encP op fn d a b m n z st) 23 3 = fn := by
  apply BitVec.eq_of_getLsbD_eq
  intro k hk
  simp only [fld, encP, BitVec.getLsbD_extractLsb', BitVec.getLsbD_append]
  repeat (rw [if_neg (by omega)])
  rw [if_pos (by omega)]
  rw [decide_eq_true hk, Bool.true_and]
  congr 1
  omega

@[simp] theorem fld_encP_d (op : BitVec 6) (fn : BitVec 3) (d : BitVec 6) (a : BitVec 6) (b : BitVec 6) (m : BitVec 1) (n : BitVec 1) (z : BitVec 1) (st : BitVec 2) :
    fld (encP op fn d a b m n z st) 17 6 = d := by
  apply BitVec.eq_of_getLsbD_eq
  intro k hk
  simp only [fld, encP, BitVec.getLsbD_extractLsb', BitVec.getLsbD_append]
  repeat (rw [if_neg (by omega)])
  rw [if_pos (by omega)]
  rw [decide_eq_true hk, Bool.true_and]
  congr 1
  omega

@[simp] theorem fld_encP_a (op : BitVec 6) (fn : BitVec 3) (d : BitVec 6) (a : BitVec 6) (b : BitVec 6) (m : BitVec 1) (n : BitVec 1) (z : BitVec 1) (st : BitVec 2) :
    fld (encP op fn d a b m n z st) 11 6 = a := by
  apply BitVec.eq_of_getLsbD_eq
  intro k hk
  simp only [fld, encP, BitVec.getLsbD_extractLsb', BitVec.getLsbD_append]
  repeat (rw [if_neg (by omega)])
  rw [if_pos (by omega)]
  rw [decide_eq_true hk, Bool.true_and]
  congr 1
  omega

@[simp] theorem fld_encP_b (op : BitVec 6) (fn : BitVec 3) (d : BitVec 6) (a : BitVec 6) (b : BitVec 6) (m : BitVec 1) (n : BitVec 1) (z : BitVec 1) (st : BitVec 2) :
    fld (encP op fn d a b m n z st) 5 6 = b := by
  apply BitVec.eq_of_getLsbD_eq
  intro k hk
  simp only [fld, encP, BitVec.getLsbD_extractLsb', BitVec.getLsbD_append]
  repeat (rw [if_neg (by omega)])
  rw [if_pos (by omega)]
  rw [decide_eq_true hk, Bool.true_and]
  congr 1
  omega

@[simp] theorem fld_encP_m (op : BitVec 6) (fn : BitVec 3) (d : BitVec 6) (a : BitVec 6) (b : BitVec 6) (m : BitVec 1) (n : BitVec 1) (z : BitVec 1) (st : BitVec 2) :
    fld (encP op fn d a b m n z st) 4 1 = m := by
  apply BitVec.eq_of_getLsbD_eq
  intro k hk
  simp only [fld, encP, BitVec.getLsbD_extractLsb', BitVec.getLsbD_append]
  repeat (rw [if_neg (by omega)])
  rw [if_pos (by omega)]
  rw [decide_eq_true hk, Bool.true_and]
  congr 1
  omega

@[simp] theorem fld_encP_n (op : BitVec 6) (fn : BitVec 3) (d : BitVec 6) (a : BitVec 6) (b : BitVec 6) (m : BitVec 1) (n : BitVec 1) (z : BitVec 1) (st : BitVec 2) :
    fld (encP op fn d a b m n z st) 3 1 = n := by
  apply BitVec.eq_of_getLsbD_eq
  intro k hk
  simp only [fld, encP, BitVec.getLsbD_extractLsb', BitVec.getLsbD_append]
  repeat (rw [if_neg (by omega)])
  rw [if_pos (by omega)]
  rw [decide_eq_true hk, Bool.true_and]
  congr 1
  omega

@[simp] theorem fld_encP_z (op : BitVec 6) (fn : BitVec 3) (d : BitVec 6) (a : BitVec 6) (b : BitVec 6) (m : BitVec 1) (n : BitVec 1) (z : BitVec 1) (st : BitVec 2) :
    fld (encP op fn d a b m n z st) 2 1 = z := by
  apply BitVec.eq_of_getLsbD_eq
  intro k hk
  simp only [fld, encP, BitVec.getLsbD_extractLsb', BitVec.getLsbD_append]
  repeat (rw [if_neg (by omega)])
  rw [if_pos (by omega)]
  rw [decide_eq_true hk, Bool.true_and]
  congr 1
  omega

@[simp] theorem fld_encP_st (op : BitVec 6) (fn : BitVec 3) (d : BitVec 6) (a : BitVec 6) (b : BitVec 6) (m : BitVec 1) (n : BitVec 1) (z : BitVec 1) (st : BitVec 2) :
    fld (encP op fn d a b m n z st) 0 2 = st := by
  apply BitVec.eq_of_getLsbD_eq
  intro k hk
  simp only [fld, encP, BitVec.getLsbD_extractLsb', BitVec.getLsbD_append]
  rw [if_pos (by omega)]
  rw [decide_eq_true hk, Bool.true_and]
  congr 1
  omega

@[simp] theorem fld_encG_op (op : BitVec 6) (n : BitVec 1) (g : BitVec 6) (l : BitVec 3) (z : BitVec 14) (st : BitVec 2) :
    fld (encG op n g l z st) 26 6 = op := by
  apply BitVec.eq_of_getLsbD_eq
  intro k hk
  simp only [fld, encG, BitVec.getLsbD_extractLsb', BitVec.getLsbD_append]
  repeat (rw [if_neg (by omega)])
  rw [decide_eq_true hk, Bool.true_and]
  congr 1
  omega

@[simp] theorem fld_encG_n (op : BitVec 6) (n : BitVec 1) (g : BitVec 6) (l : BitVec 3) (z : BitVec 14) (st : BitVec 2) :
    fld (encG op n g l z st) 25 1 = n := by
  apply BitVec.eq_of_getLsbD_eq
  intro k hk
  simp only [fld, encG, BitVec.getLsbD_extractLsb', BitVec.getLsbD_append]
  repeat (rw [if_neg (by omega)])
  rw [if_pos (by omega)]
  rw [decide_eq_true hk, Bool.true_and]
  congr 1
  omega

@[simp] theorem fld_encG_g (op : BitVec 6) (n : BitVec 1) (g : BitVec 6) (l : BitVec 3) (z : BitVec 14) (st : BitVec 2) :
    fld (encG op n g l z st) 19 6 = g := by
  apply BitVec.eq_of_getLsbD_eq
  intro k hk
  simp only [fld, encG, BitVec.getLsbD_extractLsb', BitVec.getLsbD_append]
  repeat (rw [if_neg (by omega)])
  rw [if_pos (by omega)]
  rw [decide_eq_true hk, Bool.true_and]
  congr 1
  omega

@[simp] theorem fld_encG_l (op : BitVec 6) (n : BitVec 1) (g : BitVec 6) (l : BitVec 3) (z : BitVec 14) (st : BitVec 2) :
    fld (encG op n g l z st) 16 3 = l := by
  apply BitVec.eq_of_getLsbD_eq
  intro k hk
  simp only [fld, encG, BitVec.getLsbD_extractLsb', BitVec.getLsbD_append]
  repeat (rw [if_neg (by omega)])
  rw [if_pos (by omega)]
  rw [decide_eq_true hk, Bool.true_and]
  congr 1
  omega

@[simp] theorem fld_encG_z (op : BitVec 6) (n : BitVec 1) (g : BitVec 6) (l : BitVec 3) (z : BitVec 14) (st : BitVec 2) :
    fld (encG op n g l z st) 2 14 = z := by
  apply BitVec.eq_of_getLsbD_eq
  intro k hk
  simp only [fld, encG, BitVec.getLsbD_extractLsb', BitVec.getLsbD_append]
  repeat (rw [if_neg (by omega)])
  rw [if_pos (by omega)]
  rw [decide_eq_true hk, Bool.true_and]
  congr 1
  omega

@[simp] theorem fld_encG_st (op : BitVec 6) (n : BitVec 1) (g : BitVec 6) (l : BitVec 3) (z : BitVec 14) (st : BitVec 2) :
    fld (encG op n g l z st) 0 2 = st := by
  apply BitVec.eq_of_getLsbD_eq
  intro k hk
  simp only [fld, encG, BitVec.getLsbD_extractLsb', BitVec.getLsbD_append]
  rw [if_pos (by omega)]
  rw [decide_eq_true hk, Bool.true_and]
  congr 1
  omega

@[simp] theorem fld_encB_op (op : BitVec 6) (n : BitVec 1) (g : BitVec 6) (o : BitVec 17) (st : BitVec 2) :
    fld (encB op n g o st) 26 6 = op := by
  apply BitVec.eq_of_getLsbD_eq
  intro k hk
  simp only [fld, encB, BitVec.getLsbD_extractLsb', BitVec.getLsbD_append]
  repeat (rw [if_neg (by omega)])
  rw [decide_eq_true hk, Bool.true_and]
  congr 1
  omega

@[simp] theorem fld_encB_n (op : BitVec 6) (n : BitVec 1) (g : BitVec 6) (o : BitVec 17) (st : BitVec 2) :
    fld (encB op n g o st) 25 1 = n := by
  apply BitVec.eq_of_getLsbD_eq
  intro k hk
  simp only [fld, encB, BitVec.getLsbD_extractLsb', BitVec.getLsbD_append]
  repeat (rw [if_neg (by omega)])
  rw [if_pos (by omega)]
  rw [decide_eq_true hk, Bool.true_and]
  congr 1
  omega

@[simp] theorem fld_encB_g (op : BitVec 6) (n : BitVec 1) (g : BitVec 6) (o : BitVec 17) (st : BitVec 2) :
    fld (encB op n g o st) 19 6 = g := by
  apply BitVec.eq_of_getLsbD_eq
  intro k hk
  simp only [fld, encB, BitVec.getLsbD_extractLsb', BitVec.getLsbD_append]
  repeat (rw [if_neg (by omega)])
  rw [if_pos (by omega)]
  rw [decide_eq_true hk, Bool.true_and]
  congr 1
  omega

@[simp] theorem fld_encB_o (op : BitVec 6) (n : BitVec 1) (g : BitVec 6) (o : BitVec 17) (st : BitVec 2) :
    fld (encB op n g o st) 2 17 = o := by
  apply BitVec.eq_of_getLsbD_eq
  intro k hk
  simp only [fld, encB, BitVec.getLsbD_extractLsb', BitVec.getLsbD_append]
  repeat (rw [if_neg (by omega)])
  rw [if_pos (by omega)]
  rw [decide_eq_true hk, Bool.true_and]
  congr 1
  omega

@[simp] theorem fld_encB_st (op : BitVec 6) (n : BitVec 1) (g : BitVec 6) (o : BitVec 17) (st : BitVec 2) :
    fld (encB op n g o st) 0 2 = st := by
  apply BitVec.eq_of_getLsbD_eq
  intro k hk
  simp only [fld, encB, BitVec.getLsbD_extractLsb', BitVec.getLsbD_append]
  rw [if_pos (by omega)]
  rw [decide_eq_true hk, Bool.true_and]
  congr 1
  omega

@[simp] theorem fld_encM_op (op : BitVec 6) (sz : BitVec 3) (d : BitVec 7) (b : BitVec 4) (o : BitVec 7) (ord : BitVec 3) (st : BitVec 2) :
    fld (encM op sz d b o ord st) 26 6 = op := by
  apply BitVec.eq_of_getLsbD_eq
  intro k hk
  simp only [fld, encM, BitVec.getLsbD_extractLsb', BitVec.getLsbD_append]
  repeat (rw [if_neg (by omega)])
  rw [decide_eq_true hk, Bool.true_and]
  congr 1
  omega

@[simp] theorem fld_encM_sz (op : BitVec 6) (sz : BitVec 3) (d : BitVec 7) (b : BitVec 4) (o : BitVec 7) (ord : BitVec 3) (st : BitVec 2) :
    fld (encM op sz d b o ord st) 23 3 = sz := by
  apply BitVec.eq_of_getLsbD_eq
  intro k hk
  simp only [fld, encM, BitVec.getLsbD_extractLsb', BitVec.getLsbD_append]
  repeat (rw [if_neg (by omega)])
  rw [if_pos (by omega)]
  rw [decide_eq_true hk, Bool.true_and]
  congr 1
  omega

@[simp] theorem fld_encM_d (op : BitVec 6) (sz : BitVec 3) (d : BitVec 7) (b : BitVec 4) (o : BitVec 7) (ord : BitVec 3) (st : BitVec 2) :
    fld (encM op sz d b o ord st) 16 7 = d := by
  apply BitVec.eq_of_getLsbD_eq
  intro k hk
  simp only [fld, encM, BitVec.getLsbD_extractLsb', BitVec.getLsbD_append]
  repeat (rw [if_neg (by omega)])
  rw [if_pos (by omega)]
  rw [decide_eq_true hk, Bool.true_and]
  congr 1
  omega

@[simp] theorem fld_encM_b (op : BitVec 6) (sz : BitVec 3) (d : BitVec 7) (b : BitVec 4) (o : BitVec 7) (ord : BitVec 3) (st : BitVec 2) :
    fld (encM op sz d b o ord st) 12 4 = b := by
  apply BitVec.eq_of_getLsbD_eq
  intro k hk
  simp only [fld, encM, BitVec.getLsbD_extractLsb', BitVec.getLsbD_append]
  repeat (rw [if_neg (by omega)])
  rw [if_pos (by omega)]
  rw [decide_eq_true hk, Bool.true_and]
  congr 1
  omega

@[simp] theorem fld_encM_o (op : BitVec 6) (sz : BitVec 3) (d : BitVec 7) (b : BitVec 4) (o : BitVec 7) (ord : BitVec 3) (st : BitVec 2) :
    fld (encM op sz d b o ord st) 5 7 = o := by
  apply BitVec.eq_of_getLsbD_eq
  intro k hk
  simp only [fld, encM, BitVec.getLsbD_extractLsb', BitVec.getLsbD_append]
  repeat (rw [if_neg (by omega)])
  rw [if_pos (by omega)]
  rw [decide_eq_true hk, Bool.true_and]
  congr 1
  omega

@[simp] theorem fld_encM_ord (op : BitVec 6) (sz : BitVec 3) (d : BitVec 7) (b : BitVec 4) (o : BitVec 7) (ord : BitVec 3) (st : BitVec 2) :
    fld (encM op sz d b o ord st) 2 3 = ord := by
  apply BitVec.eq_of_getLsbD_eq
  intro k hk
  simp only [fld, encM, BitVec.getLsbD_extractLsb', BitVec.getLsbD_append]
  repeat (rw [if_neg (by omega)])
  rw [if_pos (by omega)]
  rw [decide_eq_true hk, Bool.true_and]
  congr 1
  omega

@[simp] theorem fld_encM_st (op : BitVec 6) (sz : BitVec 3) (d : BitVec 7) (b : BitVec 4) (o : BitVec 7) (ord : BitVec 3) (st : BitVec 2) :
    fld (encM op sz d b o ord st) 0 2 = st := by
  apply BitVec.eq_of_getLsbD_eq
  intro k hk
  simp only [fld, encM, BitVec.getLsbD_extractLsb', BitVec.getLsbD_append]
  rw [if_pos (by omega)]
  rw [decide_eq_true hk, Bool.true_and]
  congr 1
  omega

@[simp] theorem fld_encS_op (op : BitVec 6) (fn : BitVec 4) (d : BitVec 6) (a : BitVec 6) (b : BitVec 6) (i : BitVec 1) (z : BitVec 1) (st : BitVec 2) :
    fld (encS op fn d a b i z st) 26 6 = op := by
  apply BitVec.eq_of_getLsbD_eq
  intro k hk
  simp only [fld, encS, BitVec.getLsbD_extractLsb', BitVec.getLsbD_append]
  repeat (rw [if_neg (by omega)])
  rw [decide_eq_true hk, Bool.true_and]
  congr 1
  omega

@[simp] theorem fld_encS_fn (op : BitVec 6) (fn : BitVec 4) (d : BitVec 6) (a : BitVec 6) (b : BitVec 6) (i : BitVec 1) (z : BitVec 1) (st : BitVec 2) :
    fld (encS op fn d a b i z st) 22 4 = fn := by
  apply BitVec.eq_of_getLsbD_eq
  intro k hk
  simp only [fld, encS, BitVec.getLsbD_extractLsb', BitVec.getLsbD_append]
  repeat (rw [if_neg (by omega)])
  rw [if_pos (by omega)]
  rw [decide_eq_true hk, Bool.true_and]
  congr 1
  omega

@[simp] theorem fld_encS_d (op : BitVec 6) (fn : BitVec 4) (d : BitVec 6) (a : BitVec 6) (b : BitVec 6) (i : BitVec 1) (z : BitVec 1) (st : BitVec 2) :
    fld (encS op fn d a b i z st) 16 6 = d := by
  apply BitVec.eq_of_getLsbD_eq
  intro k hk
  simp only [fld, encS, BitVec.getLsbD_extractLsb', BitVec.getLsbD_append]
  repeat (rw [if_neg (by omega)])
  rw [if_pos (by omega)]
  rw [decide_eq_true hk, Bool.true_and]
  congr 1
  omega

@[simp] theorem fld_encS_a (op : BitVec 6) (fn : BitVec 4) (d : BitVec 6) (a : BitVec 6) (b : BitVec 6) (i : BitVec 1) (z : BitVec 1) (st : BitVec 2) :
    fld (encS op fn d a b i z st) 10 6 = a := by
  apply BitVec.eq_of_getLsbD_eq
  intro k hk
  simp only [fld, encS, BitVec.getLsbD_extractLsb', BitVec.getLsbD_append]
  repeat (rw [if_neg (by omega)])
  rw [if_pos (by omega)]
  rw [decide_eq_true hk, Bool.true_and]
  congr 1
  omega

@[simp] theorem fld_encS_b (op : BitVec 6) (fn : BitVec 4) (d : BitVec 6) (a : BitVec 6) (b : BitVec 6) (i : BitVec 1) (z : BitVec 1) (st : BitVec 2) :
    fld (encS op fn d a b i z st) 4 6 = b := by
  apply BitVec.eq_of_getLsbD_eq
  intro k hk
  simp only [fld, encS, BitVec.getLsbD_extractLsb', BitVec.getLsbD_append]
  repeat (rw [if_neg (by omega)])
  rw [if_pos (by omega)]
  rw [decide_eq_true hk, Bool.true_and]
  congr 1
  omega

@[simp] theorem fld_encS_i (op : BitVec 6) (fn : BitVec 4) (d : BitVec 6) (a : BitVec 6) (b : BitVec 6) (i : BitVec 1) (z : BitVec 1) (st : BitVec 2) :
    fld (encS op fn d a b i z st) 3 1 = i := by
  apply BitVec.eq_of_getLsbD_eq
  intro k hk
  simp only [fld, encS, BitVec.getLsbD_extractLsb', BitVec.getLsbD_append]
  repeat (rw [if_neg (by omega)])
  rw [if_pos (by omega)]
  rw [decide_eq_true hk, Bool.true_and]
  congr 1
  omega

@[simp] theorem fld_encS_z (op : BitVec 6) (fn : BitVec 4) (d : BitVec 6) (a : BitVec 6) (b : BitVec 6) (i : BitVec 1) (z : BitVec 1) (st : BitVec 2) :
    fld (encS op fn d a b i z st) 2 1 = z := by
  apply BitVec.eq_of_getLsbD_eq
  intro k hk
  simp only [fld, encS, BitVec.getLsbD_extractLsb', BitVec.getLsbD_append]
  repeat (rw [if_neg (by omega)])
  rw [if_pos (by omega)]
  rw [decide_eq_true hk, Bool.true_and]
  congr 1
  omega

@[simp] theorem fld_encS_st (op : BitVec 6) (fn : BitVec 4) (d : BitVec 6) (a : BitVec 6) (b : BitVec 6) (i : BitVec 1) (z : BitVec 1) (st : BitVec 2) :
    fld (encS op fn d a b i z st) 0 2 = st := by
  apply BitVec.eq_of_getLsbD_eq
  intro k hk
  simp only [fld, encS, BitVec.getLsbD_extractLsb', BitVec.getLsbD_append]
  rw [if_pos (by omega)]
  rw [decide_eq_true hk, Bool.true_and]
  congr 1
  omega

@[simp] theorem fld_encE_op (op : BitVec 6) (fn : BitVec 5) (d : BitVec 7) (a : BitVec 6) (b : BitVec 6) (st : BitVec 2) :
    fld (encE op fn d a b st) 26 6 = op := by
  apply BitVec.eq_of_getLsbD_eq
  intro k hk
  simp only [fld, encE, BitVec.getLsbD_extractLsb', BitVec.getLsbD_append]
  repeat (rw [if_neg (by omega)])
  rw [decide_eq_true hk, Bool.true_and]
  congr 1
  omega

@[simp] theorem fld_encE_fn (op : BitVec 6) (fn : BitVec 5) (d : BitVec 7) (a : BitVec 6) (b : BitVec 6) (st : BitVec 2) :
    fld (encE op fn d a b st) 21 5 = fn := by
  apply BitVec.eq_of_getLsbD_eq
  intro k hk
  simp only [fld, encE, BitVec.getLsbD_extractLsb', BitVec.getLsbD_append]
  repeat (rw [if_neg (by omega)])
  rw [if_pos (by omega)]
  rw [decide_eq_true hk, Bool.true_and]
  congr 1
  omega

@[simp] theorem fld_encE_d (op : BitVec 6) (fn : BitVec 5) (d : BitVec 7) (a : BitVec 6) (b : BitVec 6) (st : BitVec 2) :
    fld (encE op fn d a b st) 14 7 = d := by
  apply BitVec.eq_of_getLsbD_eq
  intro k hk
  simp only [fld, encE, BitVec.getLsbD_extractLsb', BitVec.getLsbD_append]
  repeat (rw [if_neg (by omega)])
  rw [if_pos (by omega)]
  rw [decide_eq_true hk, Bool.true_and]
  congr 1
  omega

@[simp] theorem fld_encE_a (op : BitVec 6) (fn : BitVec 5) (d : BitVec 7) (a : BitVec 6) (b : BitVec 6) (st : BitVec 2) :
    fld (encE op fn d a b st) 8 6 = a := by
  apply BitVec.eq_of_getLsbD_eq
  intro k hk
  simp only [fld, encE, BitVec.getLsbD_extractLsb', BitVec.getLsbD_append]
  repeat (rw [if_neg (by omega)])
  rw [if_pos (by omega)]
  rw [decide_eq_true hk, Bool.true_and]
  congr 1
  omega

@[simp] theorem fld_encE_b (op : BitVec 6) (fn : BitVec 5) (d : BitVec 7) (a : BitVec 6) (b : BitVec 6) (st : BitVec 2) :
    fld (encE op fn d a b st) 2 6 = b := by
  apply BitVec.eq_of_getLsbD_eq
  intro k hk
  simp only [fld, encE, BitVec.getLsbD_extractLsb', BitVec.getLsbD_append]
  repeat (rw [if_neg (by omega)])
  rw [if_pos (by omega)]
  rw [decide_eq_true hk, Bool.true_and]
  congr 1
  omega

@[simp] theorem fld_encE_st (op : BitVec 6) (fn : BitVec 5) (d : BitVec 7) (a : BitVec 6) (b : BitVec 6) (st : BitVec 2) :
    fld (encE op fn d a b st) 0 2 = st := by
  apply BitVec.eq_of_getLsbD_eq
  intro k hk
  simp only [fld, encE, BitVec.getLsbD_extractLsb', BitVec.getLsbD_append]
  rw [if_pos (by omega)]
  rw [decide_eq_true hk, Bool.true_and]
  congr 1
  omega

@[simp] theorem fld_encV_op (op : BitVec 6) (f : BitVec 6) (d : BitVec 7) (a : BitVec 7) (m : BitVec 4) (st : BitVec 2) :
    fld (encV op f d a m st) 26 6 = op := by
  apply BitVec.eq_of_getLsbD_eq
  intro k hk
  simp only [fld, encV, BitVec.getLsbD_extractLsb', BitVec.getLsbD_append]
  repeat (rw [if_neg (by omega)])
  rw [decide_eq_true hk, Bool.true_and]
  congr 1
  omega

@[simp] theorem fld_encV_f (op : BitVec 6) (f : BitVec 6) (d : BitVec 7) (a : BitVec 7) (m : BitVec 4) (st : BitVec 2) :
    fld (encV op f d a m st) 20 6 = f := by
  apply BitVec.eq_of_getLsbD_eq
  intro k hk
  simp only [fld, encV, BitVec.getLsbD_extractLsb', BitVec.getLsbD_append]
  repeat (rw [if_neg (by omega)])
  rw [if_pos (by omega)]
  rw [decide_eq_true hk, Bool.true_and]
  congr 1
  omega

@[simp] theorem fld_encV_d (op : BitVec 6) (f : BitVec 6) (d : BitVec 7) (a : BitVec 7) (m : BitVec 4) (st : BitVec 2) :
    fld (encV op f d a m st) 13 7 = d := by
  apply BitVec.eq_of_getLsbD_eq
  intro k hk
  simp only [fld, encV, BitVec.getLsbD_extractLsb', BitVec.getLsbD_append]
  repeat (rw [if_neg (by omega)])
  rw [if_pos (by omega)]
  rw [decide_eq_true hk, Bool.true_and]
  congr 1
  omega

@[simp] theorem fld_encV_a (op : BitVec 6) (f : BitVec 6) (d : BitVec 7) (a : BitVec 7) (m : BitVec 4) (st : BitVec 2) :
    fld (encV op f d a m st) 6 7 = a := by
  apply BitVec.eq_of_getLsbD_eq
  intro k hk
  simp only [fld, encV, BitVec.getLsbD_extractLsb', BitVec.getLsbD_append]
  repeat (rw [if_neg (by omega)])
  rw [if_pos (by omega)]
  rw [decide_eq_true hk, Bool.true_and]
  congr 1
  omega

@[simp] theorem fld_encV_m (op : BitVec 6) (f : BitVec 6) (d : BitVec 7) (a : BitVec 7) (m : BitVec 4) (st : BitVec 2) :
    fld (encV op f d a m st) 2 4 = m := by
  apply BitVec.eq_of_getLsbD_eq
  intro k hk
  simp only [fld, encV, BitVec.getLsbD_extractLsb', BitVec.getLsbD_append]
  repeat (rw [if_neg (by omega)])
  rw [if_pos (by omega)]
  rw [decide_eq_true hk, Bool.true_and]
  congr 1
  omega

@[simp] theorem fld_encV_st (op : BitVec 6) (f : BitVec 6) (d : BitVec 7) (a : BitVec 7) (m : BitVec 4) (st : BitVec 2) :
    fld (encV op f d a m st) 0 2 = st := by
  apply BitVec.eq_of_getLsbD_eq
  intro k hk
  simp only [fld, encV, BitVec.getLsbD_extractLsb', BitVec.getLsbD_append]
  rw [if_pos (by omega)]
  rw [decide_eq_true hk, Bool.true_and]
  congr 1
  omega

@[simp] theorem fld_shift_z (op : BitVec 6) (fn : BitVec 2) (d a : BitVec 7) (z : BitVec 3) (i : BitVec 5) (st : BitVec 2) :
    fld (encI op fn d a (z ++ i) st) 7 3 = z := by
  apply BitVec.eq_of_getLsbD_eq
  intro k hk
  simp only [fld, encI, BitVec.getLsbD_extractLsb', BitVec.getLsbD_append]
  rw [if_neg (by omega), if_pos (by omega), if_neg (by omega), decide_eq_true hk, Bool.true_and]
  congr 1
  omega

@[simp] theorem fld_shift_i (op : BitVec 6) (fn : BitVec 2) (d a : BitVec 7) (z : BitVec 3) (i : BitVec 5) (st : BitVec 2) :
    fld (encI op fn d a (z ++ i) st) 2 5 = i := by
  apply BitVec.eq_of_getLsbD_eq
  intro k hk
  simp only [fld, encI, BitVec.getLsbD_extractLsb', BitVec.getLsbD_append]
  rw [if_neg (by omega), if_pos (by omega), if_pos (by omega), decide_eq_true hk, Bool.true_and]
  congr 1
  omega

end Sys2Proof.Laws
end

