-- ==== Sys2Proof/Laws/Issue.lean ====
section
/-! SUPPORT. What the issue of an instruction does to a ready flock, said once for every instruction. -/

namespace Sys2Proof.Laws

open Machine

/-! ### Lists -/

theorem updAt_get {α : Type} (f : α → α) : ∀ (l : List α) (i j : Nat), (updAt i f l)[j]? = if i = j then l[j]?.map f else l[j]?
  | [], i, j => by simp [updAt]
  | a :: l, 0, 0 => by simp [updAt]
  | a :: l, 0, j + 1 => by simp [updAt]
  | a :: l, i + 1, 0 => by simp [updAt]
  | a :: l, i + 1, j + 1 => by simp [updAt, updAt_get f l i j]

theorem updAt_map {α β : Type} (g : α → β) (f : α → α) (h : ∀ a, g (f a) = g a) : ∀ (l : List α) (i : Nat), (updAt i f l).map g = l.map g
  | [], i => by simp [updAt]
  | a :: l, 0 => by simp [updAt, h]
  | a :: l, i + 1 => by simp [updAt, updAt_map g f h l i]

theorem find_updWhere {α : Type} (p q : α → Bool) (f : α → α) (hq : ∀ a, q (f a) = q a) :
    ∀ l : List α, (updWhere p f l).find? q = (l.find? q).map fun a => if p a then f a else a
  | [] => by simp [updWhere]
  | a :: l => by
    have ih := find_updWhere p q f hq l
    simp only [updWhere] at ih
    have h1 : q (if p a = true then f a else a) = q a := by split <;> simp [hq]
    simp only [updWhere, List.map_cons, List.find?_cons, h1]
    cases q a <;> simp [ih]

/-! ### Teams and threads after an update -/

theorem team_modTeam (s : State) (id k : Nat) (f : Team → Team) (hf : ∀ t, (f t).id = t.id) :
    team? (modTeam s id f) k = if k = id then (team? s k).map f else team? s k := by
  simp only [team?, modTeam]
  rw [find_updWhere _ _ _ (by intro a; simp [hf])]
  by_cases h : k = id
  · subst h
    simp only [if_true]
    cases hx : s.teams.find? (fun t => t.id == k) with
    | none => rfl
    | some t => have := List.find?_some hx; simp at this; simp [this]
  · simp only [h, if_false]
    cases hx : s.teams.find? (fun t => t.id == k) with
    | none => rfl
    | some t => have := List.find?_some hx; simp at this; simp [this, h]

theorem thread_modThread (s : State) (t u : Tid) (f : Thread → Thread) :
    thread? (modThread s t f) u = if u = t then (thread? s u).map f else thread? s u := by
  simp only [thread?, group?, modThread, modGroup]
  rw [team_modTeam _ _ _ _ (by intro; rfl)]
  by_cases h1 : u.team = t.team
  · simp only [h1, if_true]
    cases hx : team? s t.team with
    | none => simp
    | some tm =>
      simp only [Option.map_some, updAt_get]
      by_cases h2 : t.group = u.group
      · simp only [h2, if_true]
        cases hg : tm.groups[u.group]? with
        | none => simp
        | some g =>
          simp only [Option.map_some, updAt_get]
          by_cases h3 : t.lane = u.lane
          · have : u = t := by cases u; cases t; simp_all
            simp [h3, this]
          · have : u ≠ t := by intro e; simp [e] at h3
            simp [h3, this]
      · have : u ≠ t := by intro e; simp [e] at h2
        simp [h2, this]
  · have : u ≠ t := by intro e; simp [e] at h1
    simp [h1, this]

theorem modThread_onlyTeams (s : State) (t : Tid) (f : Thread → Thread) : OnlyTeams s (modThread s t f) := rfl

theorem modThread_sameTeams (s : State) (t : Tid) (f : Thread → Thread) : SameTeams s (modThread s t f) := by
  simp only [SameTeams, modThread, modGroup, modTeam, updWhere, List.map_map]
  apply List.map_congr_left
  intro tm _
  simp only [Function.comp]
  split
  · simp only [teamShape]
    congr 1
    apply updAt_map
    intro g
    congr 1
    exact updAt_map _ _ (by intro _; rfl) _ _
  · rfl

/-! ### Lanes -/

theorem onlyTeams_trans {a b c : State} (h : OnlyTeams a b) (k : OnlyTeams b c) : OnlyTeams a c := by
  simp only [OnlyTeams] at *; rw [k, h]

theorem sameTeams_trans {a b c : State} (h : SameTeams a b) (k : SameTeams b c) : SameTeams a c := by
  simp only [SameTeams] at *; rw [k, h]

/-- Two views of one lane that differ only in what other threads hold. -/
structure Alike (l k : Lane) : Prop where
  tid : k.tid = l.tid
  th : k.th = l.th
  fid : k.fid = l.fid
  word : k.word = l.word
  tm : teamShape k.tm = teamShape l.tm
  g : { k.g with threads := k.g.threads.map fun _ => Thread.start 0 } = { l.g with threads := l.g.threads.map fun _ => Thread.start 0 }
  only : OnlyTeams l.s k.s
  same : SameTeams l.s k.s

theorem alike_scalars {l k : Lane} (h : Alike l k) : k.g.s = l.g.s := by
  have := congrArg Group.s h.g; exact this
theorem alike_regs {l k : Lane} (h : Alike l k) : k.g.regs = l.g.regs := by
  have := congrArg Group.regs h.g; exact this
theorem alike_bases {l k : Lane} (h : Alike l k) : k.tm.b = l.tm.b := by
  have := congrArg Team.b h.tm; exact this

theorem team_shape {a b : State} (h : SameTeams a b) (k : Nat) : (team? b k).map teamShape = (team? a k).map teamShape := by
  have key : ∀ l : List Team, (l.find? (fun t => t.id == k)).map teamShape = (l.map teamShape).find? (fun t => t.id == k) := by
    intro l
    induction l with
    | nil => rfl
    | cons t l ih =>
      have : (teamShape t).id = t.id := rfl
      simp only [List.map_cons, List.find?_cons, this]
      cases t.id == k <;> simp [ih]
  simp only [team?, key]
  rw [h]

theorem lane_some {s : State} {t : Tid} {fid : Nat} {word : Word} {l : Lane} (h : lane? s t fid word = some l) :
    team? s t.team = some l.tm ∧ l.tm.groups[t.group]? = some l.g ∧ l.g.threads[t.lane]? = some l.th ∧ l.s = s ∧ l.tid = t ∧ l.fid = fid ∧ l.word = word := by
  simp only [lane?] at h
  split at h
  · cases h
  · split at h
    · cases h
    · split at h
      · cases h
      · cases h; simp_all

theorem lane_thread {s : State} {t : Tid} {fid : Nat} {word : Word} {l : Lane} (h : lane? s t fid word = some l) : thread? s t = some l.th := by
  obtain ⟨h1, h2, h3, -⟩ := lane_some h
  simp [thread?, group?, h1, h2, h3]

theorem lane_of_thread {s : State} {t : Tid} {th : Thread} (h : thread? s t = some th) (fid : Nat) (word : Word) :
    ∃ l, lane? s t fid word = some l ∧ l.th = th := by
  simp only [thread?, group?] at h
  split at h
  · next g hg =>
    split at hg
    · next tm ht => exact ⟨⟨s, t, tm, g, th, fid, word⟩, by simp [lane?, ht, hg, h], rfl⟩
    · cases hg
  · cases h

theorem lane_alike {a b : State} (ho : OnlyTeams a b) (hs : SameTeams a b) {t : Tid} (hth : thread? b t = thread? a t) {fid : Nat} {word : Word}
    {l : Lane} (h : lane? a t fid word = some l) : ∃ k, lane? b t fid word = some k ∧ Alike l k := by
  have h1 := lane_thread h
  obtain ⟨e1, e2, e3, e4, e5, e6, e7⟩ := lane_some h
  obtain ⟨k, hk, ek⟩ := lane_of_thread (hth.trans h1) fid word
  obtain ⟨f1, f2, f3, f4, f5, f6, f7⟩ := lane_some hk
  refine ⟨k, hk, ?_⟩
  have hsh := team_shape hs t.team
  rw [e1, f1] at hsh
  simp only [Option.map_some, Option.some.injEq] at hsh
  refine ⟨by rw [f5, e5], ek, by rw [f6, e6], by rw [f7, e7], hsh, ?_, by rw [e4, f4]; exact ho, by rw [e4, f4]; exact hs⟩
  have hg := congrArg (fun (x : Team) => x.groups[t.group]?) hsh
  simp only [teamShape, List.getElem?_map, e2, f2, Option.map_some, Option.some.injEq] at hg
  exact hg

/-- One step of a fold over lanes: only the thread of `t` changes, into one that `R` relates to its lane. -/
def LaneStep (R : Lane → Thread → Prop) (b c : State) (t : Tid) (l : Lane) : Prop :=
  OnlyTeams b c ∧ SameTeams b c ∧ (∀ u, u ≠ t → thread? c u = thread? b u) ∧ ∃ th, thread? c t = some th ∧ R l th

theorem laneStep_modThread {b : State} {t : Tid} {l : Lane} {f : Thread → Thread} {R : Lane → Thread → Prop} {th : Thread}
    (h : thread? b t = some th) (hR : R l (f th)) : LaneStep R b (modThread b t f) t l := by
  refine ⟨modThread_onlyTeams _ _ _, modThread_sameTeams _ _ _, ?_, f th, ?_, hR⟩
  · intro u hu; rw [thread_modThread]; simp [hu]
  · rw [thread_modThread]; simp [h]

/-- A fold over distinct lanes, each step of which changes only its own thread by what its lane showed at first. -/
theorem foldl_lanes (a : State) (fid : Nat) (word : Word) (g : State → Tid → State) (R : Lane → Thread → Prop) :
    ∀ (ts : List Tid), ts.Nodup → (∀ t ∈ ts, ∃ l, lane? a t fid word = some l) →
      (∀ b t l, t ∈ ts → OnlyTeams a b → SameTeams a b → thread? b t = thread? a t → lane? a t fid word = some l → LaneStep R b (g b t) t l) →
      ∀ b : State, OnlyTeams a b → SameTeams a b → (∀ t ∈ ts, thread? b t = thread? a t) →
      OnlyTeams a (ts.foldl g b) ∧ (∀ t ∈ ts, ∀ l, lane? a t fid word = some l → ∃ th, thread? (ts.foldl g b) t = some th ∧ R l th) ∧
        (∀ t, t ∉ ts → thread? (ts.foldl g b) t = thread? b t) ∧ SameTeams a (ts.foldl g b)
  | [], _, _, _, b, ho, hs, _ => ⟨ho, by simp, by simp, hs⟩
  | t :: ts, hn, hex, hg, b, ho, hs, hth => by
    obtain ⟨hn1, hn2⟩ := List.nodup_cons.mp hn
    obtain ⟨l, hl⟩ := hex t (by simp)
    obtain ⟨s1, s2, s3, th, s4, s5⟩ := hg b t l (by simp) ho hs (hth t (by simp)) hl
    obtain ⟨i1, i2, i3, i4⟩ := foldl_lanes a fid word g R ts hn2 (fun u hu => hex u (by simp [hu]))
      (fun b u l hu => hg b u l (by simp [hu])) (g b t) (onlyTeams_trans ho s1) (sameTeams_trans hs s2)
      (by intro u hu; rw [s3 u (by rintro rfl; exact hn1 hu)]; exact hth u (by simp [hu]))
    refine ⟨i1, ?_, ?_, i4⟩
    · intro u hu k hk
      rcases List.mem_cons.mp hu with rfl | hu
      · rw [hl] at hk; cases hk
        exact ⟨th, by rw [List.foldl_cons, i3 u hn1, s4], s5⟩
      · exact i2 u hu k hk
    · intro u hu
      simp only [List.mem_cons, not_or] at hu
      rw [List.foldl_cons, i3 u hu.2, s3 u hu.1]

/-! ### The issue of a ready flock -/

theorem minBy_mem {α : Type} (m : α → Nat) : ∀ (l : List α) (a : α), minBy m l = some a → a ∈ l
  | [], a, h => by simp [minBy] at h
  | b :: l, a, h => by
    simp only [minBy] at h
    split at h
    · cases h; simp
    · next c hc =>
      split at h
      · cases h; exact List.mem_cons_of_mem _ (minBy_mem m l _ hc)
      · cases h; simp

theorem minBy_some {α : Type} (m : α → Nat) {l : List α} (h : l ≠ []) : ∃ a, minBy m l = some a := by
  cases l with
  | nil => exact absurd rfl h
  | cons b l =>
    simp only [minBy]
    split
    · exact ⟨_, rfl⟩
    · split <;> exact ⟨_, rfl⟩

theorem mem_dedup {α : Type} [DecidableEq α] (a : α) : ∀ l : List α, a ∈ dedup l ↔ a ∈ l
  | [] => by simp [dedup]
  | b :: l => by
    simp only [dedup, List.mem_cons, List.mem_filter, mem_dedup a l]
    by_cases h : a = b <;> simp [h]

theorem performers_all (u : Uses) (l : List Tid) : performers u (checkers u l) l = l := by
  unfold performers checkers
  by_cases h0 : u.lead = 0
  · simp [h0]
  · by_cases h1 : u.lead = 1
    · simp only [h1, show ((1 : Nat) == 0) = false from rfl, show ((1 : Nat) == 1) = true from rfl, Bool.false_eq_true, if_false, if_true]
      rw [List.filter_eq_self]
      intro t ht
      have hne : l.filter (fun u => u.group == t.group) ≠ [] := by
        intro e
        have : t ∈ l.filter (fun u => u.group == t.group) := by simp [ht]
        simp [e] at this
      obtain ⟨a, ha⟩ := minBy_some (fun (t : Tid) => t.lane) hne
      have hm := minBy_mem _ _ _ ha
      simp only [List.mem_filter, beq_iff_eq] at hm
      have : a ∈ groupLeaders l := by
        simp only [groupLeaders, List.mem_filterMap, mem_dedup, List.mem_map]
        exact ⟨t.group, ⟨t, ht, rfl⟩, ha⟩
      simp
      exact ⟨a, this, hm.2⟩
    · have e0 : (u.lead == 0) = false := by simp [h0]
      have e1 : (u.lead == 1) = false := by simp [h1]
      simp only [e0, e1, Bool.false_eq_true, if_false]
      cases l with
      | nil => simp [minBy]
      | cons b l =>
        obtain ⟨a, ha⟩ := minBy_some (fun (t : Tid) => t.lane) (l := b :: l) (by simp)
        simp [ha]

theorem passing_all (f : State → Tid → Option State) (s : State) : ∀ l : List Tid, (∀ t ∈ l, f s t = none) → passing f l s = (l, s)
  | [], _ => rfl
  | t :: l, h => by
    simp only [passing, h t (by simp)]
    rw [passing_all f s l (fun u hu => h u (by simp [hu]))]

theorem takeOwed_none (s : State) : ∀ l : List Tid, (∀ t ∈ l, ∃ th, thread? s t = some th ∧ th.owed = none) → takeOwed s l = s
  | [], _ => rfl
  | t :: l, h => by
    obtain ⟨th, h1, h2⟩ := h t (by simp)
    have ih := takeOwed_none s l (fun u hu => h u (by simp [hu]))
    simp only [takeOwed, List.foldl_cons, h1, Option.bind_some, h2] at *
    exact ih

theorem curSlot_slot {s : State} {sl : Slot} (h : curSlot s = some sl) : slot? s sl.key = some sl := by
  unfold curSlot at h
  split at h
  · next k hk =>
    have := List.find?_some h
    simp at this
    rw [this]; exact h
  · cases h

theorem settleTeam_slots (s : State) (id : Nat) : (settleTeam s id).slots = s.slots := rfl

/-- A ready flock issues: the effect happens on its performing lanes, and the flock goes on. -/
theorem issueHold_ready {s : State} {sl : Slot} {word : Word} {u : Uses} {hold : Lane → Bool} (h : Ready s sl word u hold)
    (st : BitVec 2) (eff : Slot → List Tid → State → State) :
    issueHold word st u hold eff s = issued s sl st u (eff sl (lanesOf s sl u) (atIssue s sl)) := by
  obtain ⟨hslot, hne, hnd, hlive, hstat, hrot, hfree, hheld, hrou, -, -, -, hchk⟩ := h
  obtain ⟨t0, l0, hfl⟩ : ∃ t l, sl.flock = t :: l := by
    cases hx : sl.flock with
    | nil => exact absurd hx hne
    | cons t l => exact ⟨t, l, rfl⟩
  have hkey := curSlot_slot hslot
  have hA : atIssue s sl = settleTeam s t0.team := by simp [atIssue, headTeam, hfl]
  obtain ⟨th0, hth0, -⟩ := hlive t0 (by simp [hfl])
  have hpos : posOf s sl = th0.pc := by simp [posOf, hfl, hth0]
  unfold issueHold
  simp only [hslot]
  split
  · next hx => rw [hx] at hfl; cases hfl
  next t l hx =>
  have e : t = t0 := by rw [hx] at hfl; cases hfl; rfl
  subst e
  simp only [← hA]
  rw [takeOwed_none _ _ (fun t ht => (hlive t ht).imp fun th h => ⟨h.1, h.2.1⟩)]
  have hk2 : slot? (atIssue s sl) sl.key = some sl := by rw [hA]; exact hkey
  simp only [hk2]
  split
  · next hy => rw [hy] at hfl; cases hfl
  next t1 l1 hy =>
  have e1 : t1 = t := by rw [hy] at hx; cases hx; rfl
  subst e1
  simp only [hth0, ← hpos, hstat, hrot]
  have hstall : ((admitted (atIssue s sl) u sl.flock).any fun t => match lane? (atIssue s sl) t sl.fid word with | some l => stalls l u | none => false) = false := by
    rw [List.any_eq_false]
    intro t ht
    cases hl : lane? (atIssue s sl) t sl.fid word with
    | none => simp
    | some l => simp [hfree t ht l hl]
  have hhold : ((checkers u (admitted (atIssue s sl) u sl.flock)).any fun t => match lane? (atIssue s sl) t sl.fid word with | some l => hold l | none => false) = false := by
    rw [List.any_eq_false]
    intro t ht
    cases hl : lane? (atIssue s sl) t sl.fid word with
    | none => simp
    | some l => simp [hheld t ht l hl]
  have hpre : preChecks sl.fid word u (admitted (atIssue s sl) u sl.flock) (atIssue s sl) = (lanesOf s sl u, atIssue s sl) := by
    unfold preChecks
    have hb : ∀ t ∈ admitted (atIssue s sl) u sl.flock, (fun s t => if u.ban then banned s t word else none) (atIssue s sl) t = none := by
      intro t ht
      by_cases hu : u.ban = true
      · have hmem : t ∈ sl.flock := List.mem_of_mem_filter ht
        obtain ⟨th, hth, -⟩ := hlive t hmem
        have := hrou hu t ht th hth
        simp [hu, banned, hth, inRoutine, this]
      · simp [hu]
    rw [passing_all _ _ _ hb]
    simp only
    have hc : ∀ t ∈ checkers u (admitted (atIssue s sl) u sl.flock), operandCheck sl.fid word u (atIssue s sl) t = none := by
      intro t ht
      unfold operandCheck
      cases hl : lane? (atIssue s sl) t sl.fid word with
      | none => rfl
      | some l => simp [(Option.or_eq_none_iff.mp (hchk t ht l hl)).1]
    rw [passing_all _ _ _ hc]
    have he : (checkers u (admitted (atIssue s sl) u sl.flock)).findSome? (earlyOf sl.fid word u (atIssue s sl)) = none := by
      rw [List.findSome?_eq_none_iff]
      intro t ht
      unfold earlyOf
      cases hl : lane? (atIssue s sl) t sl.fid word with
      | none => rfl
      | some l => exact (Option.or_eq_none_iff.mp (hchk t ht l hl)).2
    simp only [he, performers_all]
    rfl
  simp only [Bool.false_eq_true, if_false]
  split
  · next hc =>
    rw [Bool.or_eq_true] at hc
    rcases hc with hc | hc
    · exact Bool.noConfusion (hstall.symm.trans hc)
    · exact Bool.noConfusion (hhold.symm.trans hc)
  · rw [hpre]
    simp only [issued, headTeam, hfl, lanesOf]

/-! ### Effects on lanes -/

theorem lanesOf_nodup {s : State} {sl : Slot} {word : Word} {u : Uses} {hold : Lane → Bool} (h : Ready s sl word u hold) : (lanesOf s sl u).Nodup :=
  h.nodup.filter _

theorem lanesOf_lane {s : State} {sl : Slot} {word : Word} {u : Uses} {hold : Lane → Bool} (h : Ready s sl word u hold) :
    ∀ t ∈ lanesOf s sl u, ∃ l, lane? (atIssue s sl) t sl.fid word = some l := by
  intro t ht
  obtain ⟨th, hth, -⟩ := h.live t (List.mem_of_mem_filter ht)
  obtain ⟨l, hl, -⟩ := lane_of_thread hth sl.fid word
  exact ⟨l, hl⟩

/-- What holds of the fold over the performing lanes of a ready flock, from the state at issue or one with another object count. -/
theorem lanes_turn {s : State} {sl : Slot} {word : Word} {u : Uses} {hold : Lane → Bool} (h : Ready s sl word u hold)
    (g : State → Tid → State) (R : Lane → Thread → Prop) (ts : List Tid) (hp : ts.Perm (lanesOf s sl u))
    (hg : ∀ b t l, t ∈ lanesOf s sl u → OnlyTeams (atIssue s sl) b → SameTeams (atIssue s sl) b → thread? b t = thread? (atIssue s sl) t →
      lane? (atIssue s sl) t sl.fid word = some l → LaneStep R b (g b t) t l)
    (b : State) (ho : OnlyTeams (atIssue s sl) b) (hs : b.teams = (atIssue s sl).teams) :
    LanesTurn (atIssue s sl) (ts.foldl g b) (lanesOf s sl u) sl.fid word R := by
  have hth : ∀ t, thread? b t = thread? (atIssue s sl) t := by intro t; simp only [thread?, group?, team?, hs]
  obtain ⟨i1, i2, i3, i4⟩ := foldl_lanes (atIssue s sl) sl.fid word g R ts (hp.nodup_iff.mpr (lanesOf_nodup h))
    (fun t ht => lanesOf_lane h t (hp.mem_iff.mp ht)) (fun b t l ht => hg b t l (hp.mem_iff.mp ht)) b ho
    (by simp only [SameTeams, hs]) (fun t _ => hth t)
  exact ⟨i1, fun t ht => i2 t (hp.mem_iff.mpr ht), fun t ht => by rw [i3 t (fun hm => ht (hp.mem_iff.mp hm)), hth t], i4⟩

theorem mkDue_only {a b : State} (h : OnlyTeams a b) (core fid lat : Nat) (r : Reg) (x : BitVec 80) : mkDue b core fid lat r x = mkDue a core fid lat r x := by
  simp only [OnlyTeams] at h; rw [h]; rfl

/-- A register instruction whose lanes all answer writes them at its latency. -/
theorem laneOp_ready {s : State} {sl : Slot} {word : Word} {u : Uses} (h : Ready s sl word u noHold) (st : BitVec 2) (lat : Nat)
    (f : Lane → LaneRes) (val : Lane → List (Reg × BitVec 80))
    (hf : ∀ t ∈ lanesOf s sl u, ∀ l k, lane? (atIssue s sl) t sl.fid word = some l → Alike l k → f k = .ok (val l)) :
    ∃ mid, laneOp word st u lat f s = issued s sl st u mid ∧ LanesWrite (atIssue s sl) mid sl (lanesOf s sl u) word lat val := by
  refine ⟨laneEffect lat word f sl (lanesOf s sl u) (atIssue s sl), issueHold_ready h st _, ?_⟩
  refine lanes_turn h _ _ _ (List.Perm.refl _) ?_ _ rfl rfl
  intro b t l ht ho hs hth hl
  obtain ⟨k, hk, hal⟩ := lane_alike ho hs hth hl
  simp only [hk, hf t ht l k hl hal, writeLane, mkDue_only ho]
  exact laneStep_modThread (lane_thread hk) (by rw [hal.th])

/-- The same for an instruction whose meaning is such a register instruction. -/
theorem reg_result {i : Instr} {s : State} {sl : Slot} {word : Word} {u : Uses} (h : Ready s sl word u noHold) {st : BitVec 2} {lat : Nat}
    {f : Lane → LaneRes} {val : Lane → List (Reg × BitVec 80)} (he : exec i s = .next (laneOp word st u lat f s))
    (hf : ∀ t ∈ lanesOf s sl u, ∀ l k, lane? (atIssue s sl) t sl.fid word = some l → Alike l k → f k = .ok (val l)) :
    ∃ mid, exec i s = .next (issued s sl st u mid) ∧ LanesWrite (atIssue s sl) mid sl (lanesOf s sl u) word lat val := by
  obtain ⟨mid, h1, h2⟩ := laneOp_ready h st lat f val hf
  exact ⟨mid, by rw [he, h1], h2⟩

theorem insertBy_perm {α : Type} (m : α → Nat) (a : α) : ∀ l : List α, (insertBy m a l).Perm (a :: l)
  | [] => .refl _
  | b :: l => by
    simp only [insertBy]
    split
    · exact .refl _
    · exact ((insertBy_perm m a l).cons b).trans (.swap a b l)

theorem sortBy_perm {α : Type} (m : α → Nat) : ∀ l : List α, (sortBy m l).Perm l
  | [] => .refl _
  | a :: l => (insertBy_perm m a _).trans ((sortBy_perm m l).cons a)

/-- An instruction that changes each performing lane's own thread by what the lane sees. -/
theorem perLane_ready {s : State} {sl : Slot} {word : Word} {u : Uses} {hold : Lane → Bool} (h : Ready s sl word u hold) (st : BitVec 2)
    (f : Lane → State → State) (R : Lane → Thread → Prop)
    (hf : ∀ t ∈ lanesOf s sl u, ∀ l k b, lane? (atIssue s sl) t sl.fid word = some l → OnlyTeams (atIssue s sl) b → SameTeams (atIssue s sl) b →
      lane? b t sl.fid word = some k → Alike l k → LaneStep R b (f k b) t l) :
    ∃ mid, issueHold word st u hold (fun sl => perLane f word sl) s = issued s sl st u mid ∧
      LanesTurn (atIssue s sl) mid (lanesOf s sl u) sl.fid word R := by
  refine ⟨perLane f word sl (lanesOf s sl u) (atIssue s sl), issueHold_ready h st _, ?_⟩
  refine lanes_turn h _ R _ (sortBy_perm _ _) ?_ _ rfl rfl
  intro b t l ht ho hs hth hl
  obtain ⟨k, hk, hal⟩ := lane_alike ho hs hth hl
  simp only [hk]
  exact hf t ht l k b hl ho hs hk hal

/-- An instruction that runs `f` on each performing lane, from the state `g` makes of the one at issue. -/
theorem turn_exec {i : Instr} {s : State} {sl : Slot} {word : Word} {u : Uses} {hold : Lane → Bool} (h : Ready s sl word u hold) {st : BitVec 2}
    (f : State → Lane → State → State) (g : State → State)
    (he : exec i s = .next (issueHold word st u hold (fun sl ok s => perLane (f s) word sl ok (g s)) s))
    (hgo : ∀ s, OnlyTeams s (g s)) (hgt : ∀ s, (g s).teams = s.teams) (R : Lane → Thread → Prop)
    (hf : ∀ t ∈ lanesOf s sl u, ∀ l k b, lane? (atIssue s sl) t sl.fid word = some l → OnlyTeams (atIssue s sl) b → SameTeams (atIssue s sl) b →
      lane? b t sl.fid word = some k → k.tid = t → Alike l k → LaneStep R b (f (atIssue s sl) k b) t l) :
    ∃ mid, exec i s = .next (issued s sl st u mid) ∧ LanesTurn (atIssue s sl) mid (lanesOf s sl u) sl.fid word R := by
  refine ⟨perLane (f (atIssue s sl)) word sl (lanesOf s sl u) (g (atIssue s sl)), by rw [he, issueHold_ready h], ?_⟩
  refine lanes_turn h _ R _ (sortBy_perm _ _) ?_ _ (hgo _) (hgt _)
  intro b t l ht ho hs hth hl
  obtain ⟨k, hk, hal⟩ := lane_alike ho hs hth hl
  simp only [hk]
  exact hf t ht l k b hl ho hs hk (lane_some hk).2.2.2.2.1 hal

/-- An instruction whose lanes schedule register writes. -/
theorem effect_exec {i : Instr} {s : State} {sl : Slot} {word : Word} {u : Uses} {hold : Lane → Bool} (h : Ready s sl word u hold) {st : BitVec 2} {lat : Nat}
    (f : Lane → LaneRes) (he : exec i s = .next (issueHold word st u hold (laneEffect lat word f) s)) (R : Lane → Thread → Prop)
    (hf : ∀ t ∈ lanesOf s sl u, ∀ l k, lane? (atIssue s sl) t sl.fid word = some l → Alike l k → ∃ ws, f k = .ok ws ∧
      R l { l.th with due := l.th.due ++ ws.map fun x => mkDue (atIssue s sl) sl.core sl.fid lat x.1 x.2 }) :
    ∃ mid, exec i s = .next (issued s sl st u mid) ∧ LanesTurn (atIssue s sl) mid (lanesOf s sl u) sl.fid word R := by
  refine ⟨laneEffect lat word f sl (lanesOf s sl u) (atIssue s sl), by rw [he, issueHold_ready h], ?_⟩
  refine lanes_turn h _ R _ (List.Perm.refl _) ?_ _ rfl rfl
  intro b t l ht ho hs hth hl
  obtain ⟨k, hk, hal⟩ := lane_alike ho hs hth hl
  obtain ⟨ws, h1, h2⟩ := hf t ht l k hl hal
  simp only [hk, h1, writeLane, mkDue_only ho]
  exact laneStep_modThread (lane_thread hk) (by rw [hal.th]; exact h2)

/-! ### What two alike views share -/

theorem alike_world {l k : Lane} (h : Alike l k) : k.tm.world = l.tm.world := by simpa [teamShape] using congrArg Team.world h.tm
theorem alike_nworld {l k : Lane} (h : Alike l k) : k.tm.nworld = l.tm.nworld := by simpa [teamShape] using congrArg Team.nworld h.tm
theorem alike_view {l k : Lane} (h : Alike l k) : k.tm.view = l.tm.view := by simpa [teamShape] using congrArg Team.view h.tm
theorem alike_family {l k : Lane} (h : Alike l k) : k.tm.family = l.tm.family := by simpa [teamShape] using congrArg Team.family h.tm
theorem alike_fork {l k : Lane} (h : Alike l k) : k.tm.fork = l.tm.fork := by simpa [teamShape] using congrArg Team.fork h.tm
theorem alike_grid {l k : Lane} (h : Alike l k) : k.tm.grid = l.tm.grid := by simpa [teamShape] using congrArg Team.grid h.tm
theorem alike_ctx {l k : Lane} (h : Alike l k) : k.tm.ctx = l.tm.ctx := by simpa [teamShape] using congrArg Team.ctx h.tm
theorem alike_core {l k : Lane} (h : Alike l k) : k.tm.core = l.tm.core := by simpa [teamShape] using congrArg Team.core h.tm
theorem alike_id {l k : Lane} (h : Alike l k) : k.tm.id = l.tm.id := by simpa [teamShape] using congrArg Team.id h.tm
theorem alike_x {l k : Lane} (h : Alike l k) : k.tm.x = l.tm.x := by simpa [teamShape] using congrArg Team.x h.tm
theorem alike_y {l k : Lane} (h : Alike l k) : k.tm.y = l.tm.y := by simpa [teamShape] using congrArg Team.y h.tm
theorem alike_z {l k : Lane} (h : Alike l k) : k.tm.z = l.tm.z := by simpa [teamShape] using congrArg Team.z h.tm
theorem alike_counters {l k : Lane} (h : Alike l k) : k.tm.counters = l.tm.counters := by simpa [teamShape] using congrArg Team.counters h.tm
theorem alike_allocBase {l k : Lane} (h : Alike l k) : k.tm.allocBase = l.tm.allocBase := by simpa [teamShape] using congrArg Team.allocBase h.tm
theorem alike_allocSize {l k : Lane} (h : Alike l k) : k.tm.allocSize = l.tm.allocSize := by simpa [teamShape] using congrArg Team.allocSize h.tm
theorem alike_setIdx {l k : Lane} (h : Alike l k) : k.tm.setIdx = l.tm.setIdx := by simpa [teamShape] using congrArg Team.setIdx h.tm
theorem alike_b {l k : Lane} (h : Alike l k) : k.tm.b = l.tm.b := by simpa [teamShape] using congrArg Team.b h.tm
theorem alike_state {l k : Lane} (h : Alike l k) : k.tm.state = l.tm.state := by simpa [teamShape] using congrArg Team.state h.tm
theorem alike_q {l k : Lane} (h : Alike l k) : k.tm.q = l.tm.q := by simpa [teamShape] using congrArg Team.q h.tm
theorem alike_run {l k : Lane} (h : Alike l k) : k.tm.run = l.tm.run := by simpa [teamShape] using congrArg Team.run h.tm
theorem alike_g_quad {l k : Lane} (h : Alike l k) : k.g.quad = l.g.quad := by simpa using congrArg Group.quad h.g
theorem alike_g_role {l k : Lane} (h : Alike l k) : k.g.role = l.g.role := by simpa using congrArg Group.role h.g
theorem alike_g_regs {l k : Lane} (h : Alike l k) : k.g.regs = l.g.regs := by simpa using congrArg Group.regs h.g
theorem alike_g_s {l k : Lane} (h : Alike l k) : k.g.s = l.g.s := by simpa using congrArg Group.s h.g
theorem alike_g_record {l k : Lane} (h : Alike l k) : k.g.record = l.g.record := by simpa using congrArg Group.record h.g
theorem alike_g_row {l k : Lane} (h : Alike l k) : k.g.row = l.g.row := by simpa using congrArg Group.row h.g
theorem alike_g_gslot {l k : Lane} (h : Alike l k) : k.g.gslot = l.g.gslot := by simpa using congrArg Group.gslot h.g
theorem alike_s_time {l k : Lane} (h : Alike l k) : k.s.time = l.s.time := by rw [show k.s = _ from h.only]
theorem alike_s_families {l k : Lane} (h : Alike l k) : k.s.families = l.s.families := by rw [show k.s = _ from h.only]
theorem alike_s_forks {l k : Lane} (h : Alike l k) : k.s.forks = l.s.forks := by rw [show k.s = _ from h.only]
theorem alike_s_deferred {l k : Lane} (h : Alike l k) : k.s.deferred = l.s.deferred := by rw [show k.s = _ from h.only]
theorem alike_s_views {l k : Lane} (h : Alike l k) : k.s.views = l.s.views := by rw [show k.s = _ from h.only]
theorem alike_s_holds {l k : Lane} (h : Alike l k) : k.s.holds = l.s.holds := by rw [show k.s = _ from h.only]
theorem alike_s_sets {l k : Lane} (h : Alike l k) : k.s.sets = l.s.sets := by rw [show k.s = _ from h.only]
theorem alike_s_locks {l k : Lane} (h : Alike l k) : k.s.locks = l.s.locks := by rw [show k.s = _ from h.only]
theorem alike_s_links {l k : Lane} (h : Alike l k) : k.s.links = l.s.links := by rw [show k.s = _ from h.only]
theorem alike_s_tlb {l k : Lane} (h : Alike l k) : k.s.tlb = l.s.tlb := by rw [show k.s = _ from h.only]
theorem alike_s_contexts {l k : Lane} (h : Alike l k) : k.s.contexts = l.s.contexts := by rw [show k.s = _ from h.only]
theorem alike_s_grids {l k : Lane} (h : Alike l k) : k.s.grids = l.s.grids := by rw [show k.s = _ from h.only]
theorem alike_s_matrix {l k : Lane} (h : Alike l k) : k.s.matrix = l.s.matrix := by rw [show k.s = _ from h.only]
theorem alike_s_tiles {l k : Lane} (h : Alike l k) : k.s.tiles = l.s.tiles := by rw [show k.s = _ from h.only]
theorem alike_s_mem {l k : Lane} (h : Alike l k) : k.s.mem = l.s.mem := by rw [show k.s = _ from h.only]
theorem alike_s_fresh {l k : Lane} (h : Alike l k) : k.s.fresh = l.s.fresh := by rw [show k.s = _ from h.only]
theorem alike_s_versions {l k : Lane} (h : Alike l k) : k.s.versions = l.s.versions := by rw [show k.s = _ from h.only]
theorem alike_s_pavilions {l k : Lane} (h : Alike l k) : k.s.pavilions = l.s.pavilions := by rw [show k.s = _ from h.only]
theorem alike_s_islands {l k : Lane} (h : Alike l k) : k.s.islands = l.s.islands := by rw [show k.s = _ from h.only]
theorem alike_s_walkCache {l k : Lane} (h : Alike l k) : k.s.walkCache = l.s.walkCache := by rw [show k.s = _ from h.only]

theorem alike_fn_family {l k : Lane} (h : Alike l k) : family? k.s = family? l.s := by funext x; simp only [family?, alike_s_families h]
theorem alike_fn_fork {l k : Lane} (h : Alike l k) : fork? k.s = fork? l.s := by funext x; simp only [fork?, alike_s_forks h]
theorem alike_fn_ctx {l k : Lane} (h : Alike l k) : ctx? k.s = ctx? l.s := by funext x; simp only [ctx?, alike_s_contexts h]
theorem alike_fn_grid {l k : Lane} (h : Alike l k) : grid? k.s = grid? l.s := by funext x; simp only [grid?, alike_s_grids h]
theorem alike_fn_view {l k : Lane} (h : Alike l k) : view? k.s = view? l.s := by funext x; simp only [view?, alike_s_views h]

end Sys2Proof.Laws
end

