-- ==== Sys2Proof/Laws/Memory.lean ====
section
/-! SUPPORT. The laws of memory: every operation keeps the canonical form, a read after a write, and equal reads mean equal
memories (log entry 2). -/

namespace Sys2Proof.Laws

open Machine

/-- The canonical form of a memory with a first cell. -/
theorem wf_cons (c : Host.Cell) (m : Memory) :
    Memory.wf (c :: m) = true ↔ c.2 ≠ unlistedByte ∧ (∀ d ∈ m.head?, c.1 < d.1) ∧ Memory.wf m = true := by
  cases m with
  | nil => simp [Memory.wf]
  | cons d m => simp [Memory.wf, and_assoc]

/-- Every listed address of a canonical memory lies above its first one. -/
theorem wf_above {c : Host.Cell} {m : Memory} (h : Memory.wf (c :: m) = true) : ∀ d ∈ m, c.1 < d.1 := by
  induction m generalizing c with
  | nil => simp
  | cons e m ih =>
    obtain ⟨-, h2, h3⟩ := (wf_cons c _).mp h
    have hce : c.1 < e.1 := h2 e (by simp)
    intro d hd
    rcases List.mem_cons.mp hd with rfl | hd
    · exact hce
    · exact Nat.lt_trans hce (ih h3 d hd)

theorem wf_of_above {c : Host.Cell} {m : Memory} (h1 : c.2 ≠ unlistedByte) (h2 : ∀ d ∈ m, c.1 < d.1) (h3 : Memory.wf m = true) :
    Memory.wf (c :: m) = true :=
  (wf_cons c m).mpr ⟨h1, fun d hd => h2 d (List.mem_of_mem_head? hd), h3⟩

/-- Addresses of a memory after a write: the old ones and the written one. -/
theorem mem_write (m : Memory) (a : Nat) (b : Byte) : ∀ d ∈ Memory.write m a b, d ∈ m ∨ d.1 = a := by
  induction m with
  | nil =>
    intro d hd
    simp only [Memory.write] at hd
    split at hd <;> simp_all
  | cons c m ih =>
    intro d hd
    simp only [Memory.write] at hd
    split at hd
    · split at hd
      · exact .inl hd
      · rcases List.mem_cons.mp hd with rfl | hd
        · exact .inr rfl
        · exact .inl hd
    · split at hd
      · split at hd
        · exact .inl (List.mem_cons_of_mem _ hd)
        · rcases List.mem_cons.mp hd with rfl | hd
          · exact .inr rfl
          · exact .inl (List.mem_cons_of_mem _ hd)
      · rcases List.mem_cons.mp hd with rfl | hd
        · exact .inl (by simp)
        · rcases ih d hd with h | h
          · exact .inl (List.mem_cons_of_mem _ h)
          · exact .inr h

/-- A write keeps the canonical form. -/
theorem write_wf (m : Memory) (a : Nat) (b : Byte) (h : Memory.wf m = true) : Memory.wf (Memory.write m a b) = true := by
  induction m with
  | nil =>
    simp only [Memory.write]
    split
    · rfl
    · next hb => simpa [Memory.wf] using hb
  | cons c m ih =>
    obtain ⟨h1, -, h3⟩ := (wf_cons c m).mp h
    have hab := wf_above h
    simp only [Memory.write]
    split
    · next hlt =>
      split
      · exact h
      · next hb =>
        refine wf_of_above (by simpa using hb) ?_ h
        intro d hd
        rcases List.mem_cons.mp hd with rfl | hd
        · exact hlt
        · exact Nat.lt_trans hlt (hab d hd)
    · next hge =>
      split
      · next heq =>
        have heq : c.1 = a := by simpa using heq
        split
        · exact h3
        · next hb => exact wf_of_above (by simpa using hb) (fun d hd => heq ▸ hab d hd) h3
      · next hne =>
        have hne : c.1 ≠ a := by simpa using hne
        refine wf_of_above h1 ?_ (ih h3)
        intro d hd
        rcases mem_write m a b d hd with h | h
        · exact hab d h
        · rw [h]; omega

theorem writeN_wf (bs : List Byte) : ∀ (m : Memory) (a : Nat), Memory.wf m = true → Memory.wf (Memory.writeN m a bs) = true := by
  induction bs with
  | nil => intro m a h; exact h
  | cons b bs ih => intro m a h; exact ih _ _ (write_wf m a b h)

/-- What the host stores keeps the canonical form of its memory. -/
theorem hostStores_wf (s : State) (w : HostStores) (h : Memory.wf s.hostMem = true) : Memory.wf (hostStores s w).hostMem = true := by
  induction w generalizing s with
  | nil => exact h
  | cons c w ih => exact ih _ (write_wf _ _ _ h)

/-- Removing cells keeps the canonical form. -/
theorem filter_wf (p : Host.Cell → Bool) (m : Memory) (h : Memory.wf m = true) : Memory.wf (m.filter p) = true := by
  induction m with
  | nil => rfl
  | cons c m ih =>
    obtain ⟨h1, -, h3⟩ := (wf_cons c m).mp h
    have hab := wf_above h
    simp only [List.filter_cons]
    split
    · exact wf_of_above h1 (fun d hd => hab d (List.mem_of_mem_filter hd)) (ih h3)
    · exact ih h3

theorem read_below {m : Memory} {a : Nat} (h : ∀ d ∈ m, a < d.1) : Memory.read m a = unlistedByte := by
  cases m with
  | nil => rfl
  | cons c m =>
    have := h c (by simp)
    have hne : (c.1 == a) = false := by simp; omega
    simp [Memory.read, hne, this]

/-- A read after a write to the same address. -/
theorem read_write_same (m : Memory) (a : Nat) (b : Byte) (h : Memory.wf m = true) : Memory.read (Memory.write m a b) a = b := by
  induction m with
  | nil =>
    simp only [Memory.write]
    split
    · next hb => simp at hb; simp [Memory.read, hb]
    · simp [Memory.read]
  | cons c m ih =>
    obtain ⟨-, -, h3⟩ := (wf_cons c m).mp h
    have hab := wf_above h
    simp only [Memory.write]
    split
    · next hlt =>
      split
      · next hb =>
        simp at hb
        rw [hb]
        refine read_below ?_
        intro d hd
        rcases List.mem_cons.mp hd with rfl | hd
        · exact hlt
        · exact Nat.lt_trans hlt (hab d hd)
      · simp [Memory.read]
    · next hge =>
      split
      · next heq =>
        have heq : c.1 = a := by simpa using heq
        split
        · next hb =>
          simp at hb
          rw [hb]
          exact read_below (fun d hd => heq ▸ hab d hd)
        · simp [Memory.read]
      · next hne =>
        have hne : (c.1 == a) = false := by simpa using hne
        have hlt : ¬ a < c.1 := hge
        simp [Memory.read, hne, hlt, ih h3]

/-- A write leaves every other address alone. -/
theorem read_write_other (m : Memory) (a a' : Nat) (b : Byte) (h : Memory.wf m = true) (hne : a' ≠ a) :
    Memory.read (Memory.write m a b) a' = Memory.read m a' := by
  induction m with
  | nil =>
    simp only [Memory.write]
    split
    · rfl
    · have : (a == a') = false := by simpa using fun e => hne e.symm
      simp [Memory.read, this]
  | cons c m ih =>
    obtain ⟨-, -, h3⟩ := (wf_cons c m).mp h
    have hab := wf_above h
    have ha : (a == a') = false := by simpa using fun e => hne e.symm
    simp only [Memory.write]
    split
    · next hlt =>
      split
      · rfl
      · simp only [Memory.read, ha, Bool.false_eq_true, if_false]
        split
        · next h2 =>
          have hc : (c.1 == a') = false := by simp; omega
          have hl : a' < c.1 := by omega
          simp [hc, hl]
        · rfl
    · next hge =>
      split
      · next heq =>
        have heq : c.1 = a := by simpa using heq
        have hc : (c.1 == a') = false := by rw [heq]; exact ha
        split
        · simp only [Memory.read, hc, Bool.false_eq_true, if_false]
          split
          · next hl => exact read_below (fun d hd => Nat.lt_trans hl (hab d hd))
          · rfl
        · simp only [Memory.read, ha, Bool.false_eq_true, if_false, heq]
      · simp only [Memory.read, ih h3]

/-- Two canonical memories with the same bytes are the same list. -/
theorem read_ext : ∀ (m n : Memory), Memory.wf m = true → Memory.wf n = true → (∀ a, Memory.read m a = Memory.read n a) → m = n
  | [], [], _, _, _ => rfl
  | [], d :: n, _, hn, h => by
    have := h d.1
    simp only [Memory.read, beq_self_eq_true, if_true] at this
    exact absurd this.symm ((wf_cons d n).mp hn).1
  | c :: m, [], hm, _, h => by
    have := h c.1
    simp only [Memory.read, beq_self_eq_true, if_true] at this
    exact absurd this ((wf_cons c m).mp hm).1
  | c :: m, d :: n, hm, hn, h => by
    obtain ⟨c1, -, c3⟩ := (wf_cons c m).mp hm
    obtain ⟨d1, -, d3⟩ := (wf_cons d n).mp hn
    have hcd : c.1 = d.1 := by
      rcases Nat.lt_trichotomy c.1 d.1 with hl | he | hl
      · have e := h c.1
        rw [read_below (m := d :: n) (a := c.1)] at e
        · simp [Memory.read] at e; exact absurd e c1
        · intro x hx
          rcases List.mem_cons.mp hx with rfl | hx
          · exact hl
          · exact Nat.lt_trans hl (wf_above hn x hx)
      · exact he
      · have e := h d.1
        rw [read_below (m := c :: m) (a := d.1)] at e
        · simp [Memory.read] at e; exact absurd e.symm d1
        · intro x hx
          rcases List.mem_cons.mp hx with rfl | hx
          · exact hl
          · exact Nat.lt_trans hl (wf_above hm x hx)
    have hb : c.2 = d.2 := by
      have e := h c.1
      simpa [Memory.read, hcd] using e
    have hrest : m = n := by
      apply read_ext m n c3 d3
      intro a
      by_cases ha : c.1 < a
      · have e := h a
        have x1 : (c.1 == a) = false := by simp; omega
        have x2 : (d.1 == a) = false := by rw [← hcd]; exact x1
        have x3 : ¬ a < c.1 := by omega
        have x4 : ¬ a < d.1 := by omega
        simpa [Memory.read, x1, x2, x3, x4] using e
      · rw [read_below, read_below]
        · intro x hx; have := wf_above hn x hx; omega
        · intro x hx; have := wf_above hm x hx; omega
    rw [hrest, show c = d from Prod.ext hcd hb]

end Sys2Proof.Laws
end

