-- ==== Sys2Proof/Laws/PerInstr.lean ====
section
/-! SUPPORT. Claims made instruction by instruction: a family is a statement about one instruction, with a lemma per constructor. -/

set_option Elab.async false

namespace Sys2Proof.Laws

/-- Decoding gives back every well-formed instruction from its word, with every operand (R281, R286). -/
def RoundTrip.Statement (i : Instr) : Prop := i.wf = true → ∀ w, encode i = some w → decode w = .ok i

theorem RoundTrip.deviceReset : RoundTrip.Statement (.deviceReset) := by intro _ w h; cases h
theorem RoundTrip.powerLimitSet (watts : Nat) : RoundTrip.Statement (.powerLimitSet watts) := by intro _ w h; cases h
theorem RoundTrip.powerWindow (watts : Nat) : RoundTrip.Statement (.powerWindow watts) := by intro _ w h; cases h
theorem RoundTrip.islandGateRequest (island : Nat) : RoundTrip.Statement (.islandGateRequest island) := by intro _ w h; cases h
theorem RoundTrip.islandStepChange (island : Nat) : RoundTrip.Statement (.islandStepChange island) := by intro _ w h; cases h
theorem RoundTrip.thermalWarning (island : Nat) (temp : Nat) : RoundTrip.Statement (.thermalWarning island temp) := by intro _ w h; cases h
theorem RoundTrip.fatalError (cause : FatalCause) : RoundTrip.Statement (.fatalError cause) := by intro _ w h; cases h
theorem RoundTrip.correctedError (link : Bool) (index : Nat) : RoundTrip.Statement (.correctedError link index) := by intro _ w h; cases h
theorem RoundTrip.linkReadRequest (port : Nat) (dev : Nat) (hdr : BitVec 64) (slot : Nat) (num : Nat) (addr : Nat) (cls : Nat) : RoundTrip.Statement (.linkReadRequest port dev hdr slot num addr cls) := by intro _ w h; cases h
theorem RoundTrip.linkWrite (port : Nat) (dev : Nat) (hdr : BitVec 64) (slot : Nat) (num : Nat) (addr : Nat) (form : WriteForm) (data : BitVec 512) : RoundTrip.Statement (.linkWrite port dev hdr slot num addr form data) := by intro _ w h; cases h
theorem RoundTrip.linkReadResponse (port : Nat) (dev : Nat) (hdr : BitVec 64) (slot : Nat) (num : Nat) (expiry : Nat) (data : BitVec 512) : RoundTrip.Statement (.linkReadResponse port dev hdr slot num expiry data) := by intro _ w h; cases h
theorem RoundTrip.linkAcknowledgement (port : Nat) (dev : Nat) (hdr : BitVec 64) (slot : Nat) (num : Nat) : RoundTrip.Statement (.linkAcknowledgement port dev hdr slot num) := by intro _ w h; cases h
theorem RoundTrip.linkReplayRequest (port : Nat) (dev : Nat) (hdr : BitVec 64) : RoundTrip.Statement (.linkReplayRequest port dev hdr) := by intro _ w h; cases h
theorem RoundTrip.portDown (port : Nat) : RoundTrip.Statement (.portDown port) := by intro _ w h; cases h
theorem RoundTrip.failoverMessage (port : Nat) (dev : Nat) (hdr : BitVec 64) (slot : Nat) (kind : Nat) (num : Nat) (addr : Nat) (form : WriteForm) (cls : Nat) (expiry : Nat) (data : BitVec 512) : RoundTrip.Statement (.failoverMessage port dev hdr slot kind num addr form cls expiry data) := by intro _ w h; cases h
theorem RoundTrip.peerTimeout (num : Nat) : RoundTrip.Statement (.peerTimeout num) := by intro _ w h; cases h
theorem RoundTrip.createContext : RoundTrip.Statement (.createContext) := by intro _ w h; cases h
theorem RoundTrip.destroyContext : RoundTrip.Statement (.destroyContext) := by intro _ w h; cases h
theorem RoundTrip.suspendContext : RoundTrip.Statement (.suspendContext) := by intro _ w h; cases h
theorem RoundTrip.resumeContext : RoundTrip.Statement (.resumeContext) := by intro _ w h; cases h
theorem RoundTrip.setWatchdog : RoundTrip.Statement (.setWatchdog) := by intro _ w h; cases h
theorem RoundTrip.measureSteward : RoundTrip.Statement (.measureSteward) := by intro _ w h; cases h
theorem RoundTrip.badCommand : RoundTrip.Statement (.badCommand) := by intro _ w h; cases h
theorem RoundTrip.commandEnd : RoundTrip.Statement (.commandEnd) := by intro _ w h; cases h
theorem RoundTrip.windowRead (via : WindowVia) (off : Nat) (n : Nat) : RoundTrip.Statement (.windowRead via off n) := by intro _ w h; cases h
theorem RoundTrip.windowWrite (via : WindowVia) (off : Nat) (n : Nat) (data : BitVec 512) : RoundTrip.Statement (.windowWrite via off n data) := by intro _ w h; cases h
theorem RoundTrip.vectorUnmask (fn : Nat) (vec : Nat) : RoundTrip.Statement (.vectorUnmask fn vec) := by intro _ w h; cases h
theorem RoundTrip.msiMessage : RoundTrip.Statement (.msiMessage) := by intro _ w h; cases h
theorem RoundTrip.faultVector (ctx : Nat) : RoundTrip.Statement (.faultVector ctx) := by intro _ w h; cases h
theorem RoundTrip.untrustedAccess : RoundTrip.Statement (.untrustedAccess) := by intro _ w h; cases h
theorem RoundTrip.registerWrite (page : Nat) (off : Nat) (val : Word) : RoundTrip.Statement (.registerWrite page off val) := by intro _ w h; cases h
theorem RoundTrip.hfenWrite (en : Bool) : RoundTrip.Statement (.hfenWrite en) := by intro _ w h; cases h
theorem RoundTrip.define : RoundTrip.Statement (.define) := by intro _ w h; cases h
theorem RoundTrip.delete : RoundTrip.Statement (.delete) := by intro _ w h; cases h
theorem RoundTrip.grow : RoundTrip.Statement (.grow) := by intro _ w h; cases h
theorem RoundTrip.shrink : RoundTrip.Statement (.shrink) := by intro _ w h; cases h
theorem RoundTrip.lend : RoundTrip.Statement (.lend) := by intro _ w h; cases h
theorem RoundTrip.reclaim : RoundTrip.Statement (.reclaim) := by intro _ w h; cases h
theorem RoundTrip.reclaimComplete : RoundTrip.Statement (.reclaimComplete) := by intro _ w h; cases h
theorem RoundTrip.partitionRead : RoundTrip.Statement (.partitionRead) := by intro _ w h; cases h
theorem RoundTrip.bind : RoundTrip.Statement (.bind) := by intro _ w h; cases h
theorem RoundTrip.leaseRelease : RoundTrip.Statement (.leaseRelease) := by intro _ w h; cases h
theorem RoundTrip.leaseExpiry (eng : Nat) : RoundTrip.Statement (.leaseExpiry eng) := by intro _ w h; cases h
theorem RoundTrip.pavilionCreate : RoundTrip.Statement (.pavilionCreate) := by intro _ w h; cases h
theorem RoundTrip.assign : RoundTrip.Statement (.assign) := by intro _ w h; cases h
theorem RoundTrip.unassign : RoundTrip.Statement (.unassign) := by intro _ w h; cases h
theorem RoundTrip.addframe : RoundTrip.Statement (.addframe) := by intro _ w h; cases h
theorem RoundTrip.delframe : RoundTrip.Statement (.delframe) := by intro _ w h; cases h
theorem RoundTrip.pavilionDestroy : RoundTrip.Statement (.pavilionDestroy) := by intro _ w h; cases h
theorem RoundTrip.keyRotationGo : RoundTrip.Statement (.keyRotationGo) := by intro _ w h; cases h
theorem RoundTrip.sweepLine : RoundTrip.Statement (.sweepLine) := by intro _ w h; cases h
theorem RoundTrip.frameQueue : RoundTrip.Statement (.frameQueue) := by intro _ w h; cases h
theorem RoundTrip.frameScrub : RoundTrip.Statement (.frameScrub) := by intro _ w h; cases h
theorem RoundTrip.measExtend : RoundTrip.Statement (.measExtend) := by intro _ w h; cases h
theorem RoundTrip.getVersion : RoundTrip.Statement (.getVersion) := by intro _ w h; cases h
theorem RoundTrip.getCapabilities : RoundTrip.Statement (.getCapabilities) := by intro _ w h; cases h
theorem RoundTrip.negotiateAlgorithms : RoundTrip.Statement (.negotiateAlgorithms) := by intro _ w h; cases h
theorem RoundTrip.getCertificate (slot : Nat) : RoundTrip.Statement (.getCertificate slot) := by intro _ w h; cases h
theorem RoundTrip.challenge (slot : Nat) (nonce : BitVec 512) : RoundTrip.Statement (.challenge slot nonce) := by intro _ w h; cases h
theorem RoundTrip.getMeasurements (index : Nat) : RoundTrip.Statement (.getMeasurements index) := by intro _ w h; cases h
theorem RoundTrip.unsupportedRequest (code : Nat) : RoundTrip.Statement (.unsupportedRequest code) := by intro _ w h; cases h
theorem RoundTrip.sigreq : RoundTrip.Statement (.sigreq) := by intro _ w h; cases h
theorem RoundTrip.lpcode (code : Word) : RoundTrip.Statement (.lpcode code) := by intro _ w h; cases h
theorem RoundTrip.keyx : RoundTrip.Statement (.keyx) := by intro _ w h; cases h
theorem RoundTrip.prepare : RoundTrip.Statement (.prepare) := by intro _ w h; cases h
theorem RoundTrip.handoverCommit : RoundTrip.Statement (.handoverCommit) := by intro _ w h; cases h
theorem RoundTrip.handoverAbort : RoundTrip.Statement (.handoverAbort) := by intro _ w h; cases h
theorem RoundTrip.accept : RoundTrip.Statement (.accept) := by intro _ w h; cases h
theorem RoundTrip.handoverRelease : RoundTrip.Statement (.handoverRelease) := by intro _ w h; cases h
theorem RoundTrip.statement : RoundTrip.Statement (.statement) := by intro _ w h; cases h
theorem RoundTrip.invalidate (fn : Nat) : RoundTrip.Statement (.invalidate fn) := by intro _ w h; cases h
theorem RoundTrip.replay (fn : Nat) : RoundTrip.Statement (.replay fn) := by intro _ w h; cases h
theorem RoundTrip.abort (fn : Nat) : RoundTrip.Statement (.abort fn) := by intro _ w h; cases h
theorem RoundTrip.inject (fn : Nat) : RoundTrip.Statement (.inject fn) := by intro _ w h; cases h
theorem RoundTrip.spillAdd : RoundTrip.Statement (.spillAdd) := by intro _ w h; cases h
theorem RoundTrip.spillQuery : RoundTrip.Statement (.spillQuery) := by intro _ w h; cases h
theorem RoundTrip.checkpointStart : RoundTrip.Statement (.checkpointStart) := by intro _ w h; cases h
theorem RoundTrip.arm : RoundTrip.Statement (.arm) := by intro _ w h; cases h
theorem RoundTrip.disarm : RoundTrip.Statement (.disarm) := by intro _ w h; cases h
theorem RoundTrip.checkpointWarning : RoundTrip.Statement (.checkpointWarning) := by intro _ w h; cases h
theorem RoundTrip.checkpointTick : RoundTrip.Statement (.checkpointTick) := by intro _ w h; cases h
theorem RoundTrip.stagedCommit : RoundTrip.Statement (.stagedCommit) := by intro _ w h; cases h
theorem RoundTrip.obSet : RoundTrip.Statement (.obSet) := by intro _ w h; cases h
theorem RoundTrip.obRead : RoundTrip.Statement (.obRead) := by intro _ w h; cases h
theorem RoundTrip.hist : RoundTrip.Statement (.hist) := by intro _ w h; cases h
theorem RoundTrip.obTail : RoundTrip.Statement (.obTail) := by intro _ w h; cases h
theorem RoundTrip.sample (core : Nat) (quad : Nat) : RoundTrip.Statement (.sample core quad) := by intro _ w h; cases h
theorem RoundTrip.launchComplete (seq : Nat) : RoundTrip.Statement (.launchComplete seq) := by intro _ w h; cases h
theorem RoundTrip.gridReady (grid : Nat) : RoundTrip.Statement (.gridReady grid) := by intro _ w h; cases h
theorem RoundTrip.teamPlace (part : Nat) : RoundTrip.Statement (.teamPlace part) := by intro _ w h; cases h
theorem RoundTrip.residencyExpiry (team : Nat) : RoundTrip.Statement (.residencyExpiry team) := by intro _ w h; cases h
theorem RoundTrip.threadVectoring (t : Tid) : RoundTrip.Statement (.threadVectoring t) := by intro _ w h; cases h
theorem RoundTrip.routineOverrun (t : Tid) : RoundTrip.Statement (.routineOverrun t) := by intro _ w h; cases h
theorem RoundTrip.saveRecordComplete (team : Nat) : RoundTrip.Statement (.saveRecordComplete team) := by intro _ w h; cases h
theorem RoundTrip.budgetEvent (grid : Nat) : RoundTrip.Statement (.budgetEvent grid) := by intro _ w h; cases h
theorem RoundTrip.watchdogExpiry (ctx : Nat) : RoundTrip.Statement (.watchdogExpiry ctx) := by intro _ w h; cases h
theorem RoundTrip.teamRetire (team : Nat) : RoundTrip.Statement (.teamRetire team) := by intro _ w h; cases h
theorem RoundTrip.flockPick (core : Nat) (quad : Nat) (k : Nat) : RoundTrip.Statement (.flockPick core quad k) := by intro _ w h; cases h
theorem RoundTrip.performLoad (t : Tid) (acc : Nat) : RoundTrip.Statement (.performLoad t acc) := by intro _ w h; cases h
theorem RoundTrip.enterGate (t : Tid) (acc : Nat) : RoundTrip.Statement (.enterGate t acc) := by intro _ w h; cases h
theorem RoundTrip.drain (t : Tid) (acc : Nat) : RoundTrip.Statement (.drain t acc) := by intro _ w h; cases h
theorem RoundTrip.expire (store : Nat) (line : Nat) : RoundTrip.Statement (.expire store line) := by intro _ w h; cases h
theorem RoundTrip.performAtomic (t : Tid) (acc : Nat) : RoundTrip.Statement (.performAtomic t acc) := by intro _ w h; cases h
theorem RoundTrip.scratchAccess (t : Tid) (acc : Nat) : RoundTrip.Statement (.scratchAccess t acc) := by intro _ w h; cases h
theorem RoundTrip.externalAccess (t : Tid) (acc : Nat) : RoundTrip.Statement (.externalAccess t acc) := by intro _ w h; cases h
theorem RoundTrip.finishFence (t : Tid) (acc : Nat) : RoundTrip.Statement (.finishFence t acc) := by intro _ w h; cases h
theorem RoundTrip.engineWrite (op : Nat) (host : HostStores) : RoundTrip.Statement (.engineWrite op host) := by intro _ w h; cases h
theorem RoundTrip.engineStatus (op : Nat) : RoundTrip.Statement (.engineStatus op) := by intro _ w h; cases h
theorem RoundTrip.commit (tag : Nat) : RoundTrip.Statement (.commit tag) := by intro _ w h; cases h
theorem RoundTrip.discard (tag : Nat) : RoundTrip.Statement (.discard tag) := by intro _ w h; cases h
theorem RoundTrip.pageWalk (t : Tid) (acc : Nat) (off : Word) : RoundTrip.Statement (.pageWalk t acc off) := by intro _ w h; cases h
theorem RoundTrip.granuleRequest (t : Tid) (acc : Nat) : RoundTrip.Statement (.granuleRequest t acc) := by intro _ w h; cases h
theorem RoundTrip.wound (family : Nat) : RoundTrip.Statement (.wound family) := by intro _ w h; cases h
theorem RoundTrip.commitRequest (team : Nat) : RoundTrip.Statement (.commitRequest team) := by intro _ w h; cases h
theorem RoundTrip.rollback (family : Nat) : RoundTrip.Statement (.rollback family) := by intro _ w h; cases h
theorem RoundTrip.taskRestart (family : Nat) : RoundTrip.Statement (.taskRestart family) := by intro _ w h; cases h
theorem RoundTrip.sweeper (tag : Nat) (line : Nat) : RoundTrip.Statement (.sweeper tag line) := by intro _ w h; cases h
theorem RoundTrip.tagFree (tag : Nat) : RoundTrip.Statement (.tagFree tag) := by intro _ w h; cases h
theorem RoundTrip.forkCopyDone (fork : Nat) : RoundTrip.Statement (.forkCopyDone fork) := by intro _ w h; cases h
theorem RoundTrip.chooseFirstRequest (fork : Nat) (world : Nat) : RoundTrip.Statement (.chooseFirstRequest fork world) := by intro _ w h; cases h
theorem RoundTrip.chooseBestArrival (team : Nat) : RoundTrip.Statement (.chooseBestArrival team) := by intro _ w h; cases h
theorem RoundTrip.chooseCopyDone (fork : Nat) : RoundTrip.Statement (.chooseCopyDone fork) := by intro _ w h; cases h
theorem RoundTrip.sleepEnd (t : Tid) : RoundTrip.Statement (.sleepEnd t) := by intro _ w h; cases h
theorem RoundTrip.engineStart (op : Nat) : RoundTrip.Statement (.engineStart op) := by intro _ w h; cases h
theorem RoundTrip.multicastBeat (op : Nat) (p : Nat) (host : HostStores) : RoundTrip.Statement (.multicastBeat op p host) := by intro _ w h; cases h
theorem RoundTrip.enginePenUpdate (op : Nat) : RoundTrip.Statement (.enginePenUpdate op) := by intro _ w h; cases h
theorem RoundTrip.gatherPush (op : Nat) (host : HostStores) (between : HostStores) : RoundTrip.Statement (.gatherPush op host between) := by intro _ w h; cases h
theorem RoundTrip.troughServe (team : Nat) (q : Nat) (pop : Nat) : RoundTrip.Statement (.troughServe team q pop) := by intro _ w h; cases h
theorem RoundTrip.bulkTransfer (eng : Nat) (ats : Bool) (host : HostStores) : RoundTrip.Statement (.bulkTransfer eng ats host) := by intro _ w h; cases h
theorem RoundTrip.matrixOpStart (core : Nat) (quad : Nat) : RoundTrip.Statement (.matrixOpStart core quad) := by intro _ w h; cases h
theorem RoundTrip.matrixChunk (core : Nat) (quad : Nat) : RoundTrip.Statement (.matrixChunk core quad) := by intro _ w h; cases h
theorem RoundTrip.nop (st : BitVec 2) : RoundTrip.Statement (.nop st) := by
  intro hw w h; simp only [encode, Option.some.injEq] at h; subst h
  simp [decode, decodeRaw, decOp00, hw]
theorem RoundTrip.yield (st : BitVec 2) : RoundTrip.Statement (.yield st) := by
  intro hw w h; simp only [encode, Option.some.injEq] at h; subst h
  simp [decode, decodeRaw, decOp00, hw]
theorem RoundTrip.sleeptk (a : BitVec 7) (st : BitVec 2) : RoundTrip.Statement (.sleeptk a st) := by
  intro hw w h; simp only [encode, Option.some.injEq] at h; subst h
  simp [decode, decodeRaw, decOp00, hw]
theorem RoundTrip.add (d : BitVec 7) (a : BitVec 7) (b : BitVec 7) (st : BitVec 2) : RoundTrip.Statement (.add d a b st) := by
  intro hw w h; simp only [encode, Option.some.injEq] at h; subst h
  simp [decode, decodeRaw, decOp01, hw]
theorem RoundTrip.sub (d : BitVec 7) (a : BitVec 7) (b : BitVec 7) (st : BitVec 2) : RoundTrip.Statement (.sub d a b st) := by
  intro hw w h; simp only [encode, Option.some.injEq] at h; subst h
  simp [decode, decodeRaw, decOp01, hw]
theorem RoundTrip.addc (d : BitVec 7) (a : BitVec 7) (b : BitVec 7) (st : BitVec 2) : RoundTrip.Statement (.addc d a b st) := by
  intro hw w h; simp only [encode, Option.some.injEq] at h; subst h
  simp [decode, decodeRaw, decOp01, hw]
theorem RoundTrip.subb (d : BitVec 7) (a : BitVec 7) (b : BitVec 7) (st : BitVec 2) : RoundTrip.Statement (.subb d a b st) := by
  intro hw w h; simp only [encode, Option.some.injEq] at h; subst h
  simp [decode, decodeRaw, decOp01, hw]
theorem RoundTrip.addsI32 (d : BitVec 7) (a : BitVec 7) (b : BitVec 7) (st : BitVec 2) : RoundTrip.Statement (.addsI32 d a b st) := by
  intro hw w h; simp only [encode, Option.some.injEq] at h; subst h
  simp [decode, decodeRaw, decOp01, hw]
theorem RoundTrip.subsI32 (d : BitVec 7) (a : BitVec 7) (b : BitVec 7) (st : BitVec 2) : RoundTrip.Statement (.subsI32 d a b st) := by
  intro hw w h; simp only [encode, Option.some.injEq] at h; subst h
  simp [decode, decodeRaw, decOp01, hw]
theorem RoundTrip.addsN32 (d : BitVec 7) (a : BitVec 7) (b : BitVec 7) (st : BitVec 2) : RoundTrip.Statement (.addsN32 d a b st) := by
  intro hw w h; simp only [encode, Option.some.injEq] at h; subst h
  simp [decode, decodeRaw, decOp01, hw]
theorem RoundTrip.subsN32 (d : BitVec 7) (a : BitVec 7) (b : BitVec 7) (st : BitVec 2) : RoundTrip.Statement (.subsN32 d a b st) := by
  intro hw w h; simp only [encode, Option.some.injEq] at h; subst h
  simp [decode, decodeRaw, decOp01, hw]
theorem RoundTrip.addi (d : BitVec 7) (a : BitVec 7) (i : BitVec 8) (st : BitVec 2) : RoundTrip.Statement (.addi d a i st) := by
  intro hw w h; simp only [encode, Option.some.injEq] at h; subst h
  simp [decode, decodeRaw, decOp02, hw]
theorem RoundTrip.andi (d : BitVec 7) (a : BitVec 7) (i : BitVec 8) (st : BitVec 2) : RoundTrip.Statement (.andi d a i st) := by
  intro hw w h; simp only [encode, Option.some.injEq] at h; subst h
  simp [decode, decodeRaw, decOp02, hw]
theorem RoundTrip.ori (d : BitVec 7) (a : BitVec 7) (i : BitVec 8) (st : BitVec 2) : RoundTrip.Statement (.ori d a i st) := by
  intro hw w h; simp only [encode, Option.some.injEq] at h; subst h
  simp [decode, decodeRaw, decOp02, hw]
theorem RoundTrip.xori (d : BitVec 7) (a : BitVec 7) (i : BitVec 8) (st : BitVec 2) : RoundTrip.Statement (.xori d a i st) := by
  intro hw w h; simp only [encode, Option.some.injEq] at h; subst h
  simp [decode, decodeRaw, decOp02, hw]
theorem RoundTrip.mul (d : BitVec 7) (a : BitVec 7) (b : BitVec 7) (st : BitVec 2) : RoundTrip.Statement (.mul d a b st) := by
  intro hw w h; simp only [encode, Option.some.injEq] at h; subst h
  simp [decode, decodeRaw, decOp03, hw]
theorem RoundTrip.mulhiI32 (d : BitVec 7) (a : BitVec 7) (b : BitVec 7) (st : BitVec 2) : RoundTrip.Statement (.mulhiI32 d a b st) := by
  intro hw w h; simp only [encode, Option.some.injEq] at h; subst h
  simp [decode, decodeRaw, decOp03, hw]
theorem RoundTrip.mulhiN32 (d : BitVec 7) (a : BitVec 7) (b : BitVec 7) (st : BitVec 2) : RoundTrip.Statement (.mulhiN32 d a b st) := by
  intro hw w h; simp only [encode, Option.some.injEq] at h; subst h
  simp [decode, decodeRaw, decOp03, hw]
theorem RoundTrip.mad (d : BitVec 7) (a : BitVec 7) (b : BitVec 7) (st : BitVec 2) : RoundTrip.Statement (.mad d a b st) := by
  intro hw w h; simp only [encode, Option.some.injEq] at h; subst h
  simp [decode, decodeRaw, decOp03, hw]
theorem RoundTrip.madhiI32 (d : BitVec 7) (a : BitVec 7) (b : BitVec 7) (st : BitVec 2) : RoundTrip.Statement (.madhiI32 d a b st) := by
  intro hw w h; simp only [encode, Option.some.injEq] at h; subst h
  simp [decode, decodeRaw, decOp03, hw]
theorem RoundTrip.madhiN32 (d : BitVec 7) (a : BitVec 7) (b : BitVec 7) (st : BitVec 2) : RoundTrip.Statement (.madhiN32 d a b st) := by
  intro hw w h; simp only [encode, Option.some.injEq] at h; subst h
  simp [decode, decodeRaw, decOp03, hw]
theorem RoundTrip.mulwI32 (d : BitVec 7) (a : BitVec 7) (b : BitVec 7) (st : BitVec 2) : RoundTrip.Statement (.mulwI32 d a b st) := by
  intro hw w h; simp only [encode, Option.some.injEq] at h; subst h
  simp [decode, decodeRaw, decOp03, hw]
theorem RoundTrip.mulwN32 (d : BitVec 7) (a : BitVec 7) (b : BitVec 7) (st : BitVec 2) : RoundTrip.Statement (.mulwN32 d a b st) := by
  intro hw w h; simp only [encode, Option.some.injEq] at h; subst h
  simp [decode, decodeRaw, decOp03, hw]
theorem RoundTrip.and (d : BitVec 7) (a : BitVec 7) (b : BitVec 7) (st : BitVec 2) : RoundTrip.Statement (.and d a b st) := by
  intro hw w h; simp only [encode, Option.some.injEq] at h; subst h
  simp [decode, decodeRaw, decOp04, hw]
theorem RoundTrip.or (d : BitVec 7) (a : BitVec 7) (b : BitVec 7) (st : BitVec 2) : RoundTrip.Statement (.or d a b st) := by
  intro hw w h; simp only [encode, Option.some.injEq] at h; subst h
  simp [decode, decodeRaw, decOp04, hw]
theorem RoundTrip.xor (d : BitVec 7) (a : BitVec 7) (b : BitVec 7) (st : BitVec 2) : RoundTrip.Statement (.xor d a b st) := by
  intro hw w h; simp only [encode, Option.some.injEq] at h; subst h
  simp [decode, decodeRaw, decOp04, hw]
theorem RoundTrip.andn (d : BitVec 7) (a : BitVec 7) (b : BitVec 7) (st : BitVec 2) : RoundTrip.Statement (.andn d a b st) := by
  intro hw w h; simp only [encode, Option.some.injEq] at h; subst h
  simp [decode, decodeRaw, decOp04, hw]
theorem RoundTrip.orn (d : BitVec 7) (a : BitVec 7) (b : BitVec 7) (st : BitVec 2) : RoundTrip.Statement (.orn d a b st) := by
  intro hw w h; simp only [encode, Option.some.injEq] at h; subst h
  simp [decode, decodeRaw, decOp04, hw]
theorem RoundTrip.xnor (d : BitVec 7) (a : BitVec 7) (b : BitVec 7) (st : BitVec 2) : RoundTrip.Statement (.xnor d a b st) := by
  intro hw w h; simp only [encode, Option.some.injEq] at h; subst h
  simp [decode, decodeRaw, decOp04, hw]
theorem RoundTrip.not (d : BitVec 7) (a : BitVec 7) (st : BitVec 2) : RoundTrip.Statement (.not d a st) := by
  intro hw w h; simp only [encode, Option.some.injEq] at h; subst h
  simp [decode, decodeRaw, decOp04, hw]
theorem RoundTrip.shl (d : BitVec 7) (a : BitVec 7) (b : BitVec 7) (st : BitVec 2) : RoundTrip.Statement (.shl d a b st) := by
  intro hw w h; simp only [encode, Option.some.injEq] at h; subst h
  simp [decode, decodeRaw, decOp05, hw]
theorem RoundTrip.shrN32 (d : BitVec 7) (a : BitVec 7) (b : BitVec 7) (st : BitVec 2) : RoundTrip.Statement (.shrN32 d a b st) := by
  intro hw w h; simp only [encode, Option.some.injEq] at h; subst h
  simp [decode, decodeRaw, decOp05, hw]
theorem RoundTrip.shrI32 (d : BitVec 7) (a : BitVec 7) (b : BitVec 7) (st : BitVec 2) : RoundTrip.Statement (.shrI32 d a b st) := by
  intro hw w h; simp only [encode, Option.some.injEq] at h; subst h
  simp [decode, decodeRaw, decOp05, hw]
theorem RoundTrip.rotl (d : BitVec 7) (a : BitVec 7) (b : BitVec 7) (st : BitVec 2) : RoundTrip.Statement (.rotl d a b st) := by
  intro hw w h; simp only [encode, Option.some.injEq] at h; subst h
  simp [decode, decodeRaw, decOp05, hw]
theorem RoundTrip.rotr (d : BitVec 7) (a : BitVec 7) (b : BitVec 7) (st : BitVec 2) : RoundTrip.Statement (.rotr d a b st) := by
  intro hw w h; simp only [encode, Option.some.injEq] at h; subst h
  simp [decode, decodeRaw, decOp05, hw]
theorem RoundTrip.fshl (d : BitVec 7) (a : BitVec 7) (b : BitVec 7) (st : BitVec 2) : RoundTrip.Statement (.fshl d a b st) := by
  intro hw w h; simp only [encode, Option.some.injEq] at h; subst h
  simp [decode, decodeRaw, decOp05, hw]
theorem RoundTrip.fshr (d : BitVec 7) (a : BitVec 7) (b : BitVec 7) (st : BitVec 2) : RoundTrip.Statement (.fshr d a b st) := by
  intro hw w h; simp only [encode, Option.some.injEq] at h; subst h
  simp [decode, decodeRaw, decOp05, hw]
theorem RoundTrip.shli (d : BitVec 7) (a : BitVec 7) (i : BitVec 5) (st : BitVec 2) : RoundTrip.Statement (.shli d a i st) := by
  intro hw w h; simp only [encode, Option.some.injEq] at h; subst h
  simp [decode, decodeRaw, decOp06, hw]
theorem RoundTrip.shriN32 (d : BitVec 7) (a : BitVec 7) (i : BitVec 5) (st : BitVec 2) : RoundTrip.Statement (.shriN32 d a i st) := by
  intro hw w h; simp only [encode, Option.some.injEq] at h; subst h
  simp [decode, decodeRaw, decOp06, hw]
theorem RoundTrip.shriI32 (d : BitVec 7) (a : BitVec 7) (i : BitVec 5) (st : BitVec 2) : RoundTrip.Statement (.shriI32 d a i st) := by
  intro hw w h; simp only [encode, Option.some.injEq] at h; subst h
  simp [decode, decodeRaw, decOp06, hw]
theorem RoundTrip.roti (d : BitVec 7) (a : BitVec 7) (i : BitVec 5) (st : BitVec 2) : RoundTrip.Statement (.roti d a i st) := by
  intro hw w h; simp only [encode, Option.some.injEq] at h; subst h
  simp [decode, decodeRaw, decOp06, hw]
theorem RoundTrip.popc (d : BitVec 7) (a : BitVec 7) (st : BitVec 2) : RoundTrip.Statement (.popc d a st) := by
  intro hw w h; simp only [encode, Option.some.injEq] at h; subst h
  simp [decode, decodeRaw, decOp07, hw]
theorem RoundTrip.clz (d : BitVec 7) (a : BitVec 7) (st : BitVec 2) : RoundTrip.Statement (.clz d a st) := by
  intro hw w h; simp only [encode, Option.some.injEq] at h; subst h
  simp [decode, decodeRaw, decOp07, hw]
theorem RoundTrip.ctz (d : BitVec 7) (a : BitVec 7) (st : BitVec 2) : RoundTrip.Statement (.ctz d a st) := by
  intro hw w h; simp only [encode, Option.some.injEq] at h; subst h
  simp [decode, decodeRaw, decOp07, hw]
theorem RoundTrip.brev (d : BitVec 7) (a : BitVec 7) (st : BitVec 2) : RoundTrip.Statement (.brev d a st) := by
  intro hw w h; simp only [encode, Option.some.injEq] at h; subst h
  simp [decode, decodeRaw, decOp07, hw]
theorem RoundTrip.bswap (d : BitVec 7) (a : BitVec 7) (st : BitVec 2) : RoundTrip.Statement (.bswap d a st) := by
  intro hw w h; simp only [encode, Option.some.injEq] at h; subst h
  simp [decode, decodeRaw, decOp07, hw]
theorem RoundTrip.perm (d : BitVec 7) (a : BitVec 7) (b : BitVec 7) (st : BitVec 2) : RoundTrip.Statement (.perm d a b st) := by
  intro hw w h; simp only [encode, Option.some.injEq] at h; subst h
  simp [decode, decodeRaw, decOp07, hw]
theorem RoundTrip.bmsk (d : BitVec 7) (a : BitVec 7) (b : BitVec 7) (st : BitVec 2) : RoundTrip.Statement (.bmsk d a b st) := by
  intro hw w h; simp only [encode, Option.some.injEq] at h; subst h
  simp [decode, decodeRaw, decOp07, hw]
theorem RoundTrip.bfxN32 (d : BitVec 7) (a : BitVec 7) (b : BitVec 7) (st : BitVec 2) : RoundTrip.Statement (.bfxN32 d a b st) := by
  intro hw w h; simp only [encode, Option.some.injEq] at h; subst h
  simp [decode, decodeRaw, decOp08, hw]
theorem RoundTrip.bfxI32 (d : BitVec 7) (a : BitVec 7) (b : BitVec 7) (st : BitVec 2) : RoundTrip.Statement (.bfxI32 d a b st) := by
  intro hw w h; simp only [encode, Option.some.injEq] at h; subst h
  simp [decode, decodeRaw, decOp08, hw]
theorem RoundTrip.bfi (d : BitVec 7) (a : BitVec 7) (b : BitVec 7) (st : BitVec 2) : RoundTrip.Statement (.bfi d a b st) := by
  intro hw w h; simp only [encode, Option.some.injEq] at h; subst h
  simp [decode, decodeRaw, decOp08, hw]
theorem RoundTrip.minI32 (d : BitVec 7) (a : BitVec 7) (b : BitVec 7) (st : BitVec 2) : RoundTrip.Statement (.minI32 d a b st) := by
  intro hw w h; simp only [encode, Option.some.injEq] at h; subst h
  simp [decode, decodeRaw, decOp09, hw]
theorem RoundTrip.maxI32 (d : BitVec 7) (a : BitVec 7) (b : BitVec 7) (st : BitVec 2) : RoundTrip.Statement (.maxI32 d a b st) := by
  intro hw w h; simp only [encode, Option.some.injEq] at h; subst h
  simp [decode, decodeRaw, decOp09, hw]
theorem RoundTrip.minN32 (d : BitVec 7) (a : BitVec 7) (b : BitVec 7) (st : BitVec 2) : RoundTrip.Statement (.minN32 d a b st) := by
  intro hw w h; simp only [encode, Option.some.injEq] at h; subst h
  simp [decode, decodeRaw, decOp09, hw]
theorem RoundTrip.maxN32 (d : BitVec 7) (a : BitVec 7) (b : BitVec 7) (st : BitVec 2) : RoundTrip.Statement (.maxN32 d a b st) := by
  intro hw w h; simp only [encode, Option.some.injEq] at h; subst h
  simp [decode, decodeRaw, decOp09, hw]
theorem RoundTrip.absI32 (d : BitVec 7) (a : BitVec 7) (st : BitVec 2) : RoundTrip.Statement (.absI32 d a st) := by
  intro hw w h; simp only [encode, Option.some.injEq] at h; subst h
  simp [decode, decodeRaw, decOp09, hw]
theorem RoundTrip.negI32 (d : BitVec 7) (a : BitVec 7) (st : BitVec 2) : RoundTrip.Statement (.negI32 d a st) := by
  intro hw w h; simp only [encode, Option.some.injEq] at h; subst h
  simp [decode, decodeRaw, decOp09, hw]
theorem RoundTrip.adiffN32 (d : BitVec 7) (a : BitVec 7) (b : BitVec 7) (st : BitVec 2) : RoundTrip.Statement (.adiffN32 d a b st) := by
  intro hw w h; simp only [encode, Option.some.injEq] at h; subst h
  simp [decode, decodeRaw, decOp09, hw]
theorem RoundTrip.mov (d : BitVec 7) (a : BitVec 7) (st : BitVec 2) : RoundTrip.Statement (.mov d a st) := by
  intro hw w h; simp only [encode, Option.some.injEq] at h; subst h
  simp [decode, decodeRaw, decOp0A, hw]
theorem RoundTrip.sel (d : BitVec 7) (a : BitVec 7) (b : BitVec 7) (st : BitVec 2) : RoundTrip.Statement (.sel d a b st) := by
  intro hw w h; simp only [encode, Option.some.injEq] at h; subst h
  simp [decode, decodeRaw, decOp0A, hw]
theorem RoundTrip.movsRead (d : BitVec 7) (a : BitVec 7) (st : BitVec 2) : RoundTrip.Statement (.movsRead d a st) := by
  intro hw w h; simp only [encode, Option.some.injEq] at h; subst h
  simp [decode, decodeRaw, decOp0A, hw]
theorem RoundTrip.movsWrite (d : BitVec 7) (a : BitVec 7) (st : BitVec 2) : RoundTrip.Statement (.movsWrite d a st) := by
  intro hw w h; simp only [encode, Option.some.injEq] at h; subst h
  simp [decode, decodeRaw, decOp0A, hw]
theorem RoundTrip.pop (d : BitVec 7) (a : BitVec 7) (st : BitVec 2) : RoundTrip.Statement (.pop d a st) := by
  intro hw w h; simp only [encode, Option.some.injEq] at h; subst h
  simp [decode, decodeRaw, decOp0A, hw]
theorem RoundTrip.push (d : BitVec 7) (a : BitVec 7) (st : BitVec 2) : RoundTrip.Statement (.push d a st) := by
  intro hw w h; simp only [encode, Option.some.injEq] at h; subst h
  simp [decode, decodeRaw, decOp0A, hw]
theorem RoundTrip.movp (d : BitVec 7) (st : BitVec 2) : RoundTrip.Statement (.movp d st) := by
  intro hw w h; simp only [encode, Option.some.injEq] at h; subst h
  simp [decode, decodeRaw, decOp0A, hw]
theorem RoundTrip.setp (a : BitVec 7) (st : BitVec 2) : RoundTrip.Statement (.setp a st) := by
  intro hw w h; simp only [encode, Option.some.injEq] at h; subst h
  simp [decode, decodeRaw, decOp0A, hw]
theorem RoundTrip.movsv (d : BitVec 7) (a : BitVec 7) (st : BitVec 2) : RoundTrip.Statement (.movsv d a st) := by
  intro hw w h; simp only [encode, Option.some.injEq] at h; subst h
  simp [decode, decodeRaw, decOp0A, hw]
theorem RoundTrip.movl (d : BitVec 7) (i : BitVec 16) (st : BitVec 2) : RoundTrip.Statement (.movl d i st) := by
  intro hw w h; simp only [encode, Option.some.injEq] at h; subst h
  simp [decode, decodeRaw, decOp0B, hw]
theorem RoundTrip.movh (d : BitVec 7) (i : BitVec 16) (st : BitVec 2) : RoundTrip.Statement (.movh d i st) := by
  intro hw w h; simp only [encode, Option.some.injEq] at h; subst h
  simp [decode, decodeRaw, decOp0B, hw]
theorem RoundTrip.cmpI32 (cc : BitVec 4) (p : BitVec 6) (a : BitVec 7) (b : BitVec 7) (st : BitVec 2) : RoundTrip.Statement (.cmpI32 cc p a b st) := by
  intro hw w h; simp only [encode, Option.some.injEq] at h; subst h
  simp [decode, decodeRaw, decOp0C, hw]
theorem RoundTrip.cmpN32 (cc : BitVec 4) (p : BitVec 6) (a : BitVec 7) (b : BitVec 7) (st : BitVec 2) : RoundTrip.Statement (.cmpN32 cc p a b st) := by
  intro hw w h; simp only [encode, Option.some.injEq] at h; subst h
  simp [decode, decodeRaw, decOp0D, hw]
theorem RoundTrip.cmpF32 (cc : BitVec 4) (p : BitVec 6) (a : BitVec 7) (b : BitVec 7) (st : BitVec 2) : RoundTrip.Statement (.cmpF32 cc p a b st) := by
  intro hw w h; simp only [encode, Option.some.injEq] at h; subst h
  simp [decode, decodeRaw, decOp0E, hw]
theorem RoundTrip.cmp64 (cc : BitVec 4) (p : BitVec 6) (a : BitVec 7) (b : BitVec 7) (st : BitVec 2) : RoundTrip.Statement (.cmp64 cc p a b st) := by
  intro hw w h; simp only [encode, Option.some.injEq] at h; subst h
  simp [decode, decodeRaw, decOp0F, hw]
theorem RoundTrip.pand (d : BitVec 6) (a : BitVec 6) (b : BitVec 6) (m : BitVec 1) (n : BitVec 1) (st : BitVec 2) : RoundTrip.Statement (.pand d a b m n st) := by
  intro hw w h; simp only [encode, Option.some.injEq] at h; subst h
  simp [decode, decodeRaw, decOp10, hw]
theorem RoundTrip.por (d : BitVec 6) (a : BitVec 6) (b : BitVec 6) (m : BitVec 1) (n : BitVec 1) (st : BitVec 2) : RoundTrip.Statement (.por d a b m n st) := by
  intro hw w h; simp only [encode, Option.some.injEq] at h; subst h
  simp [decode, decodeRaw, decOp10, hw]
theorem RoundTrip.pxor (d : BitVec 6) (a : BitVec 6) (b : BitVec 6) (m : BitVec 1) (n : BitVec 1) (st : BitVec 2) : RoundTrip.Statement (.pxor d a b m n st) := by
  intro hw w h; simp only [encode, Option.some.injEq] at h; subst h
  simp [decode, decodeRaw, decOp10, hw]
theorem RoundTrip.pmov (d : BitVec 6) (a : BitVec 6) (m : BitVec 1) (st : BitVec 2) : RoundTrip.Statement (.pmov d a m st) := by
  intro hw w h; simp only [encode, Option.some.injEq] at h; subst h
  simp [decode, decodeRaw, decOp10, hw]
theorem RoundTrip.pset (d : BitVec 6) (st : BitVec 2) : RoundTrip.Statement (.pset d st) := by
  intro hw w h; simp only [encode, Option.some.injEq] at h; subst h
  simp [decode, decodeRaw, decOp10, hw]
theorem RoundTrip.pclr (d : BitVec 6) (st : BitVec 2) : RoundTrip.Statement (.pclr d st) := by
  intro hw w h; simp only [encode, Option.some.injEq] at h; subst h
  simp [decode, decodeRaw, decOp10, hw]
theorem RoundTrip.guard (n : BitVec 1) (g : BitVec 6) (l : BitVec 3) (st : BitVec 2) : RoundTrip.Statement (.guard n g l st) := by
  intro hw w h; simp only [encode, Option.some.injEq] at h; subst h
  simp [decode, decodeRaw, decOp11, hw]
theorem RoundTrip.bra (n : BitVec 1) (g : BitVec 6) (o : BitVec 17) (st : BitVec 2) : RoundTrip.Statement (.bra n g o st) := by
  intro hw w h; simp only [encode, Option.some.injEq] at h; subst h
  simp [decode, decodeRaw, decOp12, hw]
theorem RoundTrip.call (n : BitVec 1) (g : BitVec 6) (o : BitVec 17) (st : BitVec 2) : RoundTrip.Statement (.call n g o st) := by
  intro hw w h; simp only [encode, Option.some.injEq] at h; subst h
  simp [decode, decodeRaw, decOp13, hw]
theorem RoundTrip.jmp (a : BitVec 7) (st : BitVec 2) : RoundTrip.Statement (.jmp a st) := by
  intro hw w h; simp only [encode, Option.some.injEq] at h; subst h
  simp [decode, decodeRaw, decOp14, hw]
theorem RoundTrip.callr (a : BitVec 7) (st : BitVec 2) : RoundTrip.Statement (.callr a st) := by
  intro hw w h; simp only [encode, Option.some.injEq] at h; subst h
  simp [decode, decodeRaw, decOp14, hw]
theorem RoundTrip.ret (st : BitVec 2) : RoundTrip.Statement (.ret st) := by
  intro hw w h; simp only [encode, Option.some.injEq] at h; subst h
  simp [decode, decodeRaw, decOp14, hw]
theorem RoundTrip.fadd (d : BitVec 7) (a : BitVec 7) (b : BitVec 7) (st : BitVec 2) : RoundTrip.Statement (.fadd d a b st) := by
  intro hw w h; simp only [encode, Option.some.injEq] at h; subst h
  simp [decode, decodeRaw, decOp15, hw]
theorem RoundTrip.fsub (d : BitVec 7) (a : BitVec 7) (b : BitVec 7) (st : BitVec 2) : RoundTrip.Statement (.fsub d a b st) := by
  intro hw w h; simp only [encode, Option.some.injEq] at h; subst h
  simp [decode, decodeRaw, decOp15, hw]
theorem RoundTrip.fmul (d : BitVec 7) (a : BitVec 7) (b : BitVec 7) (st : BitVec 2) : RoundTrip.Statement (.fmul d a b st) := by
  intro hw w h; simp only [encode, Option.some.injEq] at h; subst h
  simp [decode, decodeRaw, decOp15, hw]
theorem RoundTrip.fmin (d : BitVec 7) (a : BitVec 7) (b : BitVec 7) (st : BitVec 2) : RoundTrip.Statement (.fmin d a b st) := by
  intro hw w h; simp only [encode, Option.some.injEq] at h; subst h
  simp [decode, decodeRaw, decOp15, hw]
theorem RoundTrip.fmax (d : BitVec 7) (a : BitVec 7) (b : BitVec 7) (st : BitVec 2) : RoundTrip.Statement (.fmax d a b st) := by
  intro hw w h; simp only [encode, Option.some.injEq] at h; subst h
  simp [decode, decodeRaw, decOp15, hw]
theorem RoundTrip.fminnum (d : BitVec 7) (a : BitVec 7) (b : BitVec 7) (st : BitVec 2) : RoundTrip.Statement (.fminnum d a b st) := by
  intro hw w h; simp only [encode, Option.some.injEq] at h; subst h
  simp [decode, decodeRaw, decOp15, hw]
theorem RoundTrip.fmaxnum (d : BitVec 7) (a : BitVec 7) (b : BitVec 7) (st : BitVec 2) : RoundTrip.Statement (.fmaxnum d a b st) := by
  intro hw w h; simp only [encode, Option.some.injEq] at h; subst h
  simp [decode, decodeRaw, decOp15, hw]
theorem RoundTrip.fcopysign (d : BitVec 7) (a : BitVec 7) (b : BitVec 7) (st : BitVec 2) : RoundTrip.Statement (.fcopysign d a b st) := by
  intro hw w h; simp only [encode, Option.some.injEq] at h; subst h
  simp [decode, decodeRaw, decOp15, hw]
theorem RoundTrip.ffma (d : BitVec 7) (a : BitVec 7) (b : BitVec 7) (st : BitVec 2) : RoundTrip.Statement (.ffma d a b st) := by
  intro hw w h; simp only [encode, Option.some.injEq] at h; subst h
  simp [decode, decodeRaw, decOp16, hw]
theorem RoundTrip.ffms (d : BitVec 7) (a : BitVec 7) (b : BitVec 7) (st : BitVec 2) : RoundTrip.Statement (.ffms d a b st) := by
  intro hw w h; simp only [encode, Option.some.injEq] at h; subst h
  simp [decode, decodeRaw, decOp16, hw]
theorem RoundTrip.ffnma (d : BitVec 7) (a : BitVec 7) (b : BitVec 7) (st : BitVec 2) : RoundTrip.Statement (.ffnma d a b st) := by
  intro hw w h; simp only [encode, Option.some.injEq] at h; subst h
  simp [decode, decodeRaw, decOp16, hw]
theorem RoundTrip.ffnms (d : BitVec 7) (a : BitVec 7) (b : BitVec 7) (st : BitVec 2) : RoundTrip.Statement (.ffnms d a b st) := by
  intro hw w h; simp only [encode, Option.some.injEq] at h; subst h
  simp [decode, decodeRaw, decOp16, hw]
theorem RoundTrip.haddBf16x2 (d : BitVec 7) (a : BitVec 7) (b : BitVec 7) (st : BitVec 2) : RoundTrip.Statement (.haddBf16x2 d a b st) := by
  intro hw w h; simp only [encode, Option.some.injEq] at h; subst h
  simp [decode, decodeRaw, decOp17, hw]
theorem RoundTrip.hmulBf16x2 (d : BitVec 7) (a : BitVec 7) (b : BitVec 7) (st : BitVec 2) : RoundTrip.Statement (.hmulBf16x2 d a b st) := by
  intro hw w h; simp only [encode, Option.some.injEq] at h; subst h
  simp [decode, decodeRaw, decOp17, hw]
theorem RoundTrip.hfmaBf16x2 (d : BitVec 7) (a : BitVec 7) (b : BitVec 7) (st : BitVec 2) : RoundTrip.Statement (.hfmaBf16x2 d a b st) := by
  intro hw w h; simp only [encode, Option.some.injEq] at h; subst h
  simp [decode, decodeRaw, decOp17, hw]
theorem RoundTrip.haddF16x2 (d : BitVec 7) (a : BitVec 7) (b : BitVec 7) (st : BitVec 2) : RoundTrip.Statement (.haddF16x2 d a b st) := by
  intro hw w h; simp only [encode, Option.some.injEq] at h; subst h
  simp [decode, decodeRaw, decOp17, hw]
theorem RoundTrip.hmulF16x2 (d : BitVec 7) (a : BitVec 7) (b : BitVec 7) (st : BitVec 2) : RoundTrip.Statement (.hmulF16x2 d a b st) := by
  intro hw w h; simp only [encode, Option.some.injEq] at h; subst h
  simp [decode, decodeRaw, decOp17, hw]
theorem RoundTrip.hfmaF16x2 (d : BitVec 7) (a : BitVec 7) (b : BitVec 7) (st : BitVec 2) : RoundTrip.Statement (.hfmaF16x2 d a b st) := by
  intro hw w h; simp only [encode, Option.some.injEq] at h; subst h
  simp [decode, decodeRaw, decOp17, hw]
theorem RoundTrip.hmaxBf16x2 (d : BitVec 7) (a : BitVec 7) (b : BitVec 7) (st : BitVec 2) : RoundTrip.Statement (.hmaxBf16x2 d a b st) := by
  intro hw w h; simp only [encode, Option.some.injEq] at h; subst h
  simp [decode, decodeRaw, decOp17, hw]
theorem RoundTrip.hminBf16x2 (d : BitVec 7) (a : BitVec 7) (b : BitVec 7) (st : BitVec 2) : RoundTrip.Statement (.hminBf16x2 d a b st) := by
  intro hw w h; simp only [encode, Option.some.injEq] at h; subst h
  simp [decode, decodeRaw, decOp17, hw]
theorem RoundTrip.dadd (d : BitVec 7) (a : BitVec 7) (b : BitVec 7) (st : BitVec 2) : RoundTrip.Statement (.dadd d a b st) := by
  intro hw w h; simp only [encode, Option.some.injEq] at h; subst h
  simp [decode, decodeRaw, decOp18, hw]
theorem RoundTrip.dsub (d : BitVec 7) (a : BitVec 7) (b : BitVec 7) (st : BitVec 2) : RoundTrip.Statement (.dsub d a b st) := by
  intro hw w h; simp only [encode, Option.some.injEq] at h; subst h
  simp [decode, decodeRaw, decOp18, hw]
theorem RoundTrip.dmul (d : BitVec 7) (a : BitVec 7) (b : BitVec 7) (st : BitVec 2) : RoundTrip.Statement (.dmul d a b st) := by
  intro hw w h; simp only [encode, Option.some.injEq] at h; subst h
  simp [decode, decodeRaw, decOp18, hw]
theorem RoundTrip.dfma (d : BitVec 7) (a : BitVec 7) (b : BitVec 7) (st : BitVec 2) : RoundTrip.Statement (.dfma d a b st) := by
  intro hw w h; simp only [encode, Option.some.injEq] at h; subst h
  simp [decode, decodeRaw, decOp18, hw]
theorem RoundTrip.dmin (d : BitVec 7) (a : BitVec 7) (b : BitVec 7) (st : BitVec 2) : RoundTrip.Statement (.dmin d a b st) := by
  intro hw w h; simp only [encode, Option.some.injEq] at h; subst h
  simp [decode, decodeRaw, decOp18, hw]
theorem RoundTrip.dmax (d : BitVec 7) (a : BitVec 7) (b : BitVec 7) (st : BitVec 2) : RoundTrip.Statement (.dmax d a b st) := by
  intro hw w h; simp only [encode, Option.some.injEq] at h; subst h
  simp [decode, decodeRaw, decOp18, hw]
theorem RoundTrip.ddiv (d : BitVec 7) (a : BitVec 7) (b : BitVec 7) (st : BitVec 2) : RoundTrip.Statement (.ddiv d a b st) := by
  intro hw w h; simp only [encode, Option.some.injEq] at h; subst h
  simp [decode, decodeRaw, decOp18, hw]
theorem RoundTrip.dsqrt (d : BitVec 7) (a : BitVec 7) (st : BitVec 2) : RoundTrip.Statement (.dsqrt d a st) := by
  intro hw w h; simp only [encode, Option.some.injEq] at h; subst h
  simp [decode, decodeRaw, decOp18, hw]
theorem RoundTrip.rcp (d : BitVec 7) (a : BitVec 7) (st : BitVec 2) : RoundTrip.Statement (.rcp d a st) := by
  intro hw w h; simp only [encode, Option.some.injEq] at h; subst h
  simp [decode, decodeRaw, decOp19, hw]
theorem RoundTrip.rsqrt (d : BitVec 7) (a : BitVec 7) (st : BitVec 2) : RoundTrip.Statement (.rsqrt d a st) := by
  intro hw w h; simp only [encode, Option.some.injEq] at h; subst h
  simp [decode, decodeRaw, decOp19, hw]
theorem RoundTrip.sqrt (d : BitVec 7) (a : BitVec 7) (st : BitVec 2) : RoundTrip.Statement (.sqrt d a st) := by
  intro hw w h; simp only [encode, Option.some.injEq] at h; subst h
  simp [decode, decodeRaw, decOp19, hw]
theorem RoundTrip.log2 (d : BitVec 7) (a : BitVec 7) (st : BitVec 2) : RoundTrip.Statement (.log2 d a st) := by
  intro hw w h; simp only [encode, Option.some.injEq] at h; subst h
  simp [decode, decodeRaw, decOp19, hw]
theorem RoundTrip.exp2 (d : BitVec 7) (a : BitVec 7) (st : BitVec 2) : RoundTrip.Statement (.exp2 d a st) := by
  intro hw w h; simp only [encode, Option.some.injEq] at h; subst h
  simp [decode, decodeRaw, decOp19, hw]
theorem RoundTrip.sin (d : BitVec 7) (a : BitVec 7) (st : BitVec 2) : RoundTrip.Statement (.sin d a st) := by
  intro hw w h; simp only [encode, Option.some.injEq] at h; subst h
  simp [decode, decodeRaw, decOp19, hw]
theorem RoundTrip.cos (d : BitVec 7) (a : BitVec 7) (st : BitVec 2) : RoundTrip.Statement (.cos d a st) := by
  intro hw w h; simp only [encode, Option.some.injEq] at h; subst h
  simp [decode, decodeRaw, decOp19, hw]
theorem RoundTrip.tanh (d : BitVec 7) (a : BitVec 7) (st : BitVec 2) : RoundTrip.Statement (.tanh d a st) := by
  intro hw w h; simp only [encode, Option.some.injEq] at h; subst h
  simp [decode, decodeRaw, decOp19, hw]
theorem RoundTrip.cvt (f : BitVec 6) (d : BitVec 7) (a : BitVec 7) (m : BitVec 4) (st : BitVec 2) : RoundTrip.Statement (.cvt f d a m st) := by
  intro hw w h; simp only [encode, Option.some.injEq] at h; subst h
  simp [decode, decodeRaw, decOp1A, hw]
theorem RoundTrip.dotI8x4 (d : BitVec 7) (a : BitVec 7) (b : BitVec 7) (st : BitVec 2) : RoundTrip.Statement (.dotI8x4 d a b st) := by
  intro hw w h; simp only [encode, Option.some.injEq] at h; subst h
  simp [decode, decodeRaw, decOp1B, hw]
theorem RoundTrip.dotsI8x4 (d : BitVec 7) (a : BitVec 7) (b : BitVec 7) (st : BitVec 2) : RoundTrip.Statement (.dotsI8x4 d a b st) := by
  intro hw w h; simp only [encode, Option.some.injEq] at h; subst h
  simp [decode, decodeRaw, decOp1B, hw]
theorem RoundTrip.dotI4x8 (d : BitVec 7) (a : BitVec 7) (b : BitVec 7) (st : BitVec 2) : RoundTrip.Statement (.dotI4x8 d a b st) := by
  intro hw w h; simp only [encode, Option.some.injEq] at h; subst h
  simp [decode, decodeRaw, decOp1B, hw]
theorem RoundTrip.dotF8ax4 (d : BitVec 7) (a : BitVec 7) (b : BitVec 7) (st : BitVec 2) : RoundTrip.Statement (.dotF8ax4 d a b st) := by
  intro hw w h; simp only [encode, Option.some.injEq] at h; subst h
  simp [decode, decodeRaw, decOp1B, hw]
theorem RoundTrip.dotF8bx4 (d : BitVec 7) (a : BitVec 7) (b : BitVec 7) (st : BitVec 2) : RoundTrip.Statement (.dotF8bx4 d a b st) := by
  intro hw w h; simp only [encode, Option.some.injEq] at h; subst h
  simp [decode, decodeRaw, decOp1B, hw]
theorem RoundTrip.dotL4x8 (d : BitVec 7) (a : BitVec 7) (b : BitVec 7) (st : BitVec 2) : RoundTrip.Statement (.dotL4x8 d a b st) := by
  intro hw w h; simp only [encode, Option.some.injEq] at h; subst h
  simp [decode, decodeRaw, decOp1B, hw]
theorem RoundTrip.dotBf16x2 (d : BitVec 7) (a : BitVec 7) (b : BitVec 7) (st : BitVec 2) : RoundTrip.Statement (.dotBf16x2 d a b st) := by
  intro hw w h; simp only [encode, Option.some.injEq] at h; subst h
  simp [decode, decodeRaw, decOp1B, hw]
theorem RoundTrip.scalef (d : BitVec 7) (a : BitVec 7) (b : BitVec 7) (st : BitVec 2) : RoundTrip.Statement (.scalef d a b st) := by
  intro hw w h; simp only [encode, Option.some.injEq] at h; subst h
  simp [decode, decodeRaw, decOp1C, hw]
theorem RoundTrip.fexp (d : BitVec 7) (a : BitVec 7) (st : BitVec 2) : RoundTrip.Statement (.fexp d a st) := by
  intro hw w h; simp only [encode, Option.some.injEq] at h; subst h
  simp [decode, decodeRaw, decOp1C, hw]
theorem RoundTrip.fmant (d : BitVec 7) (a : BitVec 7) (st : BitVec 2) : RoundTrip.Statement (.fmant d a st) := by
  intro hw w h; simp only [encode, Option.some.injEq] at h; subst h
  simp [decode, decodeRaw, decOp1C, hw]
theorem RoundTrip.sadd (d : BitVec 6) (a : BitVec 6) (b : BitVec 6) (i : BitVec 1) (st : BitVec 2) : RoundTrip.Statement (.sadd d a b i st) := by
  intro hw w h; simp only [encode, Option.some.injEq] at h; subst h
  simp [decode, decodeRaw, decOp1D, hw]
theorem RoundTrip.ssub (d : BitVec 6) (a : BitVec 6) (b : BitVec 6) (i : BitVec 1) (st : BitVec 2) : RoundTrip.Statement (.ssub d a b i st) := by
  intro hw w h; simp only [encode, Option.some.injEq] at h; subst h
  simp [decode, decodeRaw, decOp1D, hw]
theorem RoundTrip.smul (d : BitVec 6) (a : BitVec 6) (b : BitVec 6) (i : BitVec 1) (st : BitVec 2) : RoundTrip.Statement (.smul d a b i st) := by
  intro hw w h; simp only [encode, Option.some.injEq] at h; subst h
  simp [decode, decodeRaw, decOp1D, hw]
theorem RoundTrip.sand (d : BitVec 6) (a : BitVec 6) (b : BitVec 6) (i : BitVec 1) (st : BitVec 2) : RoundTrip.Statement (.sand d a b i st) := by
  intro hw w h; simp only [encode, Option.some.injEq] at h; subst h
  simp [decode, decodeRaw, decOp1D, hw]
theorem RoundTrip.sor (d : BitVec 6) (a : BitVec 6) (b : BitVec 6) (i : BitVec 1) (st : BitVec 2) : RoundTrip.Statement (.sor d a b i st) := by
  intro hw w h; simp only [encode, Option.some.injEq] at h; subst h
  simp [decode, decodeRaw, decOp1D, hw]
theorem RoundTrip.sxor (d : BitVec 6) (a : BitVec 6) (b : BitVec 6) (i : BitVec 1) (st : BitVec 2) : RoundTrip.Statement (.sxor d a b i st) := by
  intro hw w h; simp only [encode, Option.some.injEq] at h; subst h
  simp [decode, decodeRaw, decOp1D, hw]
theorem RoundTrip.sshl (d : BitVec 6) (a : BitVec 6) (b : BitVec 6) (i : BitVec 1) (st : BitVec 2) : RoundTrip.Statement (.sshl d a b i st) := by
  intro hw w h; simp only [encode, Option.some.injEq] at h; subst h
  simp [decode, decodeRaw, decOp1D, hw]
theorem RoundTrip.sshr (d : BitVec 6) (a : BitVec 6) (b : BitVec 6) (i : BitVec 1) (st : BitVec 2) : RoundTrip.Statement (.sshr d a b i st) := by
  intro hw w h; simp only [encode, Option.some.injEq] at h; subst h
  simp [decode, decodeRaw, decOp1D, hw]
theorem RoundTrip.smov (d : BitVec 6) (b : BitVec 6) (i : BitVec 1) (st : BitVec 2) : RoundTrip.Statement (.smov d b i st) := by
  intro hw w h; simp only [encode, Option.some.injEq] at h; subst h
  simp [decode, decodeRaw, decOp1D, hw]
theorem RoundTrip.smin (d : BitVec 6) (a : BitVec 6) (b : BitVec 6) (i : BitVec 1) (st : BitVec 2) : RoundTrip.Statement (.smin d a b i st) := by
  intro hw w h; simp only [encode, Option.some.injEq] at h; subst h
  simp [decode, decodeRaw, decOp1D, hw]
theorem RoundTrip.smax (d : BitVec 6) (a : BitVec 6) (b : BitVec 6) (i : BitVec 1) (st : BitVec 2) : RoundTrip.Statement (.smax d a b i st) := by
  intro hw w h; simp only [encode, Option.some.injEq] at h; subst h
  simp [decode, decodeRaw, decOp1D, hw]
theorem RoundTrip.sfrom (d : BitVec 6) (a : BitVec 6) (st : BitVec 2) : RoundTrip.Statement (.sfrom d a st) := by
  intro hw w h; simp only [encode, Option.some.injEq] at h; subst h
  simp [decode, decodeRaw, decOp1D, hw]
theorem RoundTrip.sldB32 (d : BitVec 6) (a : BitVec 6) (b : BitVec 6) (i : BitVec 1) (st : BitVec 2) : RoundTrip.Statement (.sldB32 d a b i st) := by
  intro hw w h; simp only [encode, Option.some.injEq] at h; subst h
  simp [decode, decodeRaw, decOp1E, hw]
theorem RoundTrip.sldB64 (d : BitVec 6) (a : BitVec 6) (b : BitVec 6) (i : BitVec 1) (st : BitVec 2) : RoundTrip.Statement (.sldB64 d a b i st) := by
  intro hw w h; simp only [encode, Option.some.injEq] at h; subst h
  simp [decode, decodeRaw, decOp1E, hw]
theorem RoundTrip.bset (d : BitVec 6) (a : BitVec 6) (b : BitVec 6) (i : BitVec 1) (st : BitVec 2) : RoundTrip.Statement (.bset d a b i st) := by
  intro hw w h; simp only [encode, Option.some.injEq] at h; subst h
  simp [decode, decodeRaw, decOp1F, hw]
theorem RoundTrip.badd (d : BitVec 6) (a : BitVec 6) (b : BitVec 6) (i : BitVec 1) (st : BitVec 2) : RoundTrip.Statement (.badd d a b i st) := by
  intro hw w h; simp only [encode, Option.some.injEq] at h; subst h
  simp [decode, decodeRaw, decOp1F, hw]
theorem RoundTrip.bget (d : BitVec 6) (a : BitVec 6) (b : BitVec 6) (st : BitVec 2) : RoundTrip.Statement (.bget d a b st) := by
  intro hw w h; simp only [encode, Option.some.injEq] at h; subst h
  simp [decode, decodeRaw, decOp1F, hw]
theorem RoundTrip.bmov (d : BitVec 6) (a : BitVec 6) (st : BitVec 2) : RoundTrip.Statement (.bmov d a st) := by
  intro hw w h; simp only [encode, Option.some.injEq] at h; subst h
  simp [decode, decodeRaw, decOp1F, hw]
theorem RoundTrip.ld (sz : BitVec 3) (d : BitVec 7) (b : BitVec 4) (o : BitVec 7) (ord : BitVec 3) (st : BitVec 2) : RoundTrip.Statement (.ld sz d b o ord st) := by
  intro hw w h; simp only [encode, Option.some.injEq] at h; subst h
  simp [decode, decodeRaw, decOp20, hw]
theorem RoundTrip.st (sz : BitVec 3) (d : BitVec 7) (b : BitVec 4) (o : BitVec 7) (ord : BitVec 3) (st : BitVec 2) : RoundTrip.Statement (.st sz d b o ord st) := by
  intro hw w h; simp only [encode, Option.some.injEq] at h; subst h
  simp [decode, decodeRaw, decOp21, hw]
theorem RoundTrip.ldw (sz : BitVec 3) (d : BitVec 7) (b : BitVec 4) (o : BitVec 7) (ord : BitVec 3) (st : BitVec 2) : RoundTrip.Statement (.ldw sz d b o ord st) := by
  intro hw w h; simp only [encode, Option.some.injEq] at h; subst h
  simp [decode, decodeRaw, decOp22, hw]
theorem RoundTrip.stw (sz : BitVec 3) (d : BitVec 7) (b : BitVec 4) (o : BitVec 7) (ord : BitVec 3) (st : BitVec 2) : RoundTrip.Statement (.stw sz d b o ord st) := by
  intro hw w h; simp only [encode, Option.some.injEq] at h; subst h
  simp [decode, decodeRaw, decOp23, hw]
theorem RoundTrip.lds (sz : BitVec 3) (d : BitVec 7) (b : BitVec 4) (o : BitVec 7) (ord : BitVec 3) (st : BitVec 2) : RoundTrip.Statement (.lds sz d b o ord st) := by
  intro hw w h; simp only [encode, Option.some.injEq] at h; subst h
  simp [decode, decodeRaw, decOp24, hw]
theorem RoundTrip.sts (sz : BitVec 3) (d : BitVec 7) (b : BitVec 4) (o : BitVec 7) (ord : BitVec 3) (st : BitVec 2) : RoundTrip.Statement (.sts sz d b o ord st) := by
  intro hw w h; simp only [encode, Option.some.injEq] at h; subst h
  simp [decode, decodeRaw, decOp25, hw]
theorem RoundTrip.atomAddI32 (d : BitVec 7) (b : BitVec 4) (o : BitVec 7) (ord : BitVec 3) (st : BitVec 2) : RoundTrip.Statement (.atomAddI32 d b o ord st) := by
  intro hw w h; simp only [encode, Option.some.injEq] at h; subst h
  simp [decode, decodeRaw, decOp26, hw]
theorem RoundTrip.atomAddF32 (d : BitVec 7) (b : BitVec 4) (o : BitVec 7) (ord : BitVec 3) (st : BitVec 2) : RoundTrip.Statement (.atomAddF32 d b o ord st) := by
  intro hw w h; simp only [encode, Option.some.injEq] at h; subst h
  simp [decode, decodeRaw, decOp26, hw]
theorem RoundTrip.atomMinI32 (d : BitVec 7) (b : BitVec 4) (o : BitVec 7) (ord : BitVec 3) (st : BitVec 2) : RoundTrip.Statement (.atomMinI32 d b o ord st) := by
  intro hw w h; simp only [encode, Option.some.injEq] at h; subst h
  simp [decode, decodeRaw, decOp26, hw]
theorem RoundTrip.atomMaxI32 (d : BitVec 7) (b : BitVec 4) (o : BitVec 7) (ord : BitVec 3) (st : BitVec 2) : RoundTrip.Statement (.atomMaxI32 d b o ord st) := by
  intro hw w h; simp only [encode, Option.some.injEq] at h; subst h
  simp [decode, decodeRaw, decOp26, hw]
theorem RoundTrip.atomMinN32 (d : BitVec 7) (b : BitVec 4) (o : BitVec 7) (ord : BitVec 3) (st : BitVec 2) : RoundTrip.Statement (.atomMinN32 d b o ord st) := by
  intro hw w h; simp only [encode, Option.some.injEq] at h; subst h
  simp [decode, decodeRaw, decOp26, hw]
theorem RoundTrip.atomMaxN32 (d : BitVec 7) (b : BitVec 4) (o : BitVec 7) (ord : BitVec 3) (st : BitVec 2) : RoundTrip.Statement (.atomMaxN32 d b o ord st) := by
  intro hw w h; simp only [encode, Option.some.injEq] at h; subst h
  simp [decode, decodeRaw, decOp26, hw]
theorem RoundTrip.atomExch (d : BitVec 7) (b : BitVec 4) (o : BitVec 7) (ord : BitVec 3) (st : BitVec 2) : RoundTrip.Statement (.atomExch d b o ord st) := by
  intro hw w h; simp only [encode, Option.some.injEq] at h; subst h
  simp [decode, decodeRaw, decOp26, hw]
theorem RoundTrip.atomCas (d : BitVec 7) (b : BitVec 4) (o : BitVec 7) (ord : BitVec 3) (st : BitVec 2) : RoundTrip.Statement (.atomCas d b o ord st) := by
  intro hw w h; simp only [encode, Option.some.injEq] at h; subst h
  simp [decode, decodeRaw, decOp26, hw]
theorem RoundTrip.atomAnd (d : BitVec 7) (b : BitVec 4) (o : BitVec 7) (ord : BitVec 3) (st : BitVec 2) : RoundTrip.Statement (.atomAnd d b o ord st) := by
  intro hw w h; simp only [encode, Option.some.injEq] at h; subst h
  simp [decode, decodeRaw, decOp27, hw]
theorem RoundTrip.atomOr (d : BitVec 7) (b : BitVec 4) (o : BitVec 7) (ord : BitVec 3) (st : BitVec 2) : RoundTrip.Statement (.atomOr d b o ord st) := by
  intro hw w h; simp only [encode, Option.some.injEq] at h; subst h
  simp [decode, decodeRaw, decOp27, hw]
theorem RoundTrip.atomXor (d : BitVec 7) (b : BitVec 4) (o : BitVec 7) (ord : BitVec 3) (st : BitVec 2) : RoundTrip.Statement (.atomXor d b o ord st) := by
  intro hw w h; simp only [encode, Option.some.injEq] at h; subst h
  simp [decode, decodeRaw, decOp27, hw]
theorem RoundTrip.atomAddI64 (d : BitVec 7) (b : BitVec 4) (o : BitVec 7) (ord : BitVec 3) (st : BitVec 2) : RoundTrip.Statement (.atomAddI64 d b o ord st) := by
  intro hw w h; simp only [encode, Option.some.injEq] at h; subst h
  simp [decode, decodeRaw, decOp27, hw]
theorem RoundTrip.atomCasB64 (d : BitVec 7) (b : BitVec 4) (o : BitVec 7) (ord : BitVec 3) (st : BitVec 2) : RoundTrip.Statement (.atomCasB64 d b o ord st) := by
  intro hw w h; simp only [encode, Option.some.injEq] at h; subst h
  simp [decode, decodeRaw, decOp27, hw]
theorem RoundTrip.atomAddBf16x2 (d : BitVec 7) (b : BitVec 4) (o : BitVec 7) (ord : BitVec 3) (st : BitVec 2) : RoundTrip.Statement (.atomAddBf16x2 d b o ord st) := by
  intro hw w h; simp only [encode, Option.some.injEq] at h; subst h
  simp [decode, decodeRaw, decOp27, hw]
theorem RoundTrip.atomIncN32 (d : BitVec 7) (b : BitVec 4) (o : BitVec 7) (ord : BitVec 3) (st : BitVec 2) : RoundTrip.Statement (.atomIncN32 d b o ord st) := by
  intro hw w h; simp only [encode, Option.some.injEq] at h; subst h
  simp [decode, decodeRaw, decOp27, hw]
theorem RoundTrip.atomDecN32 (d : BitVec 7) (b : BitVec 4) (o : BitVec 7) (ord : BitVec 3) (st : BitVec 2) : RoundTrip.Statement (.atomDecN32 d b o ord st) := by
  intro hw w h; simp only [encode, Option.some.injEq] at h; subst h
  simp [decode, decodeRaw, decOp27, hw]
theorem RoundTrip.redAddI32 (d : BitVec 7) (b : BitVec 4) (o : BitVec 7) (ord : BitVec 3) (st : BitVec 2) : RoundTrip.Statement (.redAddI32 d b o ord st) := by
  intro hw w h; simp only [encode, Option.some.injEq] at h; subst h
  simp [decode, decodeRaw, decOp28, hw]
theorem RoundTrip.redAddF32 (d : BitVec 7) (b : BitVec 4) (o : BitVec 7) (ord : BitVec 3) (st : BitVec 2) : RoundTrip.Statement (.redAddF32 d b o ord st) := by
  intro hw w h; simp only [encode, Option.some.injEq] at h; subst h
  simp [decode, decodeRaw, decOp28, hw]
theorem RoundTrip.redMinI32 (d : BitVec 7) (b : BitVec 4) (o : BitVec 7) (ord : BitVec 3) (st : BitVec 2) : RoundTrip.Statement (.redMinI32 d b o ord st) := by
  intro hw w h; simp only [encode, Option.some.injEq] at h; subst h
  simp [decode, decodeRaw, decOp28, hw]
theorem RoundTrip.redMaxI32 (d : BitVec 7) (b : BitVec 4) (o : BitVec 7) (ord : BitVec 3) (st : BitVec 2) : RoundTrip.Statement (.redMaxI32 d b o ord st) := by
  intro hw w h; simp only [encode, Option.some.injEq] at h; subst h
  simp [decode, decodeRaw, decOp28, hw]
theorem RoundTrip.redMinN32 (d : BitVec 7) (b : BitVec 4) (o : BitVec 7) (ord : BitVec 3) (st : BitVec 2) : RoundTrip.Statement (.redMinN32 d b o ord st) := by
  intro hw w h; simp only [encode, Option.some.injEq] at h; subst h
  simp [decode, decodeRaw, decOp28, hw]
theorem RoundTrip.redMaxN32 (d : BitVec 7) (b : BitVec 4) (o : BitVec 7) (ord : BitVec 3) (st : BitVec 2) : RoundTrip.Statement (.redMaxN32 d b o ord st) := by
  intro hw w h; simp only [encode, Option.some.injEq] at h; subst h
  simp [decode, decodeRaw, decOp28, hw]
theorem RoundTrip.redExch (d : BitVec 7) (b : BitVec 4) (o : BitVec 7) (ord : BitVec 3) (st : BitVec 2) : RoundTrip.Statement (.redExch d b o ord st) := by
  intro hw w h; simp only [encode, Option.some.injEq] at h; subst h
  simp [decode, decodeRaw, decOp28, hw]
theorem RoundTrip.redCas (d : BitVec 7) (b : BitVec 4) (o : BitVec 7) (ord : BitVec 3) (st : BitVec 2) : RoundTrip.Statement (.redCas d b o ord st) := by
  intro hw w h; simp only [encode, Option.some.injEq] at h; subst h
  simp [decode, decodeRaw, decOp28, hw]
theorem RoundTrip.redAnd (d : BitVec 7) (b : BitVec 4) (o : BitVec 7) (ord : BitVec 3) (st : BitVec 2) : RoundTrip.Statement (.redAnd d b o ord st) := by
  intro hw w h; simp only [encode, Option.some.injEq] at h; subst h
  simp [decode, decodeRaw, decOp29, hw]
theorem RoundTrip.redOr (d : BitVec 7) (b : BitVec 4) (o : BitVec 7) (ord : BitVec 3) (st : BitVec 2) : RoundTrip.Statement (.redOr d b o ord st) := by
  intro hw w h; simp only [encode, Option.some.injEq] at h; subst h
  simp [decode, decodeRaw, decOp29, hw]
theorem RoundTrip.redXor (d : BitVec 7) (b : BitVec 4) (o : BitVec 7) (ord : BitVec 3) (st : BitVec 2) : RoundTrip.Statement (.redXor d b o ord st) := by
  intro hw w h; simp only [encode, Option.some.injEq] at h; subst h
  simp [decode, decodeRaw, decOp29, hw]
theorem RoundTrip.redAddI64 (d : BitVec 7) (b : BitVec 4) (o : BitVec 7) (ord : BitVec 3) (st : BitVec 2) : RoundTrip.Statement (.redAddI64 d b o ord st) := by
  intro hw w h; simp only [encode, Option.some.injEq] at h; subst h
  simp [decode, decodeRaw, decOp29, hw]
theorem RoundTrip.redCasB64 (d : BitVec 7) (b : BitVec 4) (o : BitVec 7) (ord : BitVec 3) (st : BitVec 2) : RoundTrip.Statement (.redCasB64 d b o ord st) := by
  intro hw w h; simp only [encode, Option.some.injEq] at h; subst h
  simp [decode, decodeRaw, decOp29, hw]
theorem RoundTrip.redAddBf16x2 (d : BitVec 7) (b : BitVec 4) (o : BitVec 7) (ord : BitVec 3) (st : BitVec 2) : RoundTrip.Statement (.redAddBf16x2 d b o ord st) := by
  intro hw w h; simp only [encode, Option.some.injEq] at h; subst h
  simp [decode, decodeRaw, decOp29, hw]
theorem RoundTrip.redIncN32 (d : BitVec 7) (b : BitVec 4) (o : BitVec 7) (ord : BitVec 3) (st : BitVec 2) : RoundTrip.Statement (.redIncN32 d b o ord st) := by
  intro hw w h; simp only [encode, Option.some.injEq] at h; subst h
  simp [decode, decodeRaw, decOp29, hw]
theorem RoundTrip.redDecN32 (d : BitVec 7) (b : BitVec 4) (o : BitVec 7) (ord : BitVec 3) (st : BitVec 2) : RoundTrip.Statement (.redDecN32 d b o ord st) := by
  intro hw w h; simp only [encode, Option.some.injEq] at h; subst h
  simp [decode, decodeRaw, decOp29, hw]
theorem RoundTrip.atomsAddI32 (d : BitVec 7) (b : BitVec 4) (o : BitVec 7) (ord : BitVec 3) (st : BitVec 2) : RoundTrip.Statement (.atomsAddI32 d b o ord st) := by
  intro hw w h; simp only [encode, Option.some.injEq] at h; subst h
  simp [decode, decodeRaw, decOp2A, hw]
theorem RoundTrip.atomsAddF32 (d : BitVec 7) (b : BitVec 4) (o : BitVec 7) (ord : BitVec 3) (st : BitVec 2) : RoundTrip.Statement (.atomsAddF32 d b o ord st) := by
  intro hw w h; simp only [encode, Option.some.injEq] at h; subst h
  simp [decode, decodeRaw, decOp2A, hw]
theorem RoundTrip.atomsMinI32 (d : BitVec 7) (b : BitVec 4) (o : BitVec 7) (ord : BitVec 3) (st : BitVec 2) : RoundTrip.Statement (.atomsMinI32 d b o ord st) := by
  intro hw w h; simp only [encode, Option.some.injEq] at h; subst h
  simp [decode, decodeRaw, decOp2A, hw]
theorem RoundTrip.atomsMaxI32 (d : BitVec 7) (b : BitVec 4) (o : BitVec 7) (ord : BitVec 3) (st : BitVec 2) : RoundTrip.Statement (.atomsMaxI32 d b o ord st) := by
  intro hw w h; simp only [encode, Option.some.injEq] at h; subst h
  simp [decode, decodeRaw, decOp2A, hw]
theorem RoundTrip.atomsMinN32 (d : BitVec 7) (b : BitVec 4) (o : BitVec 7) (ord : BitVec 3) (st : BitVec 2) : RoundTrip.Statement (.atomsMinN32 d b o ord st) := by
  intro hw w h; simp only [encode, Option.some.injEq] at h; subst h
  simp [decode, decodeRaw, decOp2A, hw]
theorem RoundTrip.atomsMaxN32 (d : BitVec 7) (b : BitVec 4) (o : BitVec 7) (ord : BitVec 3) (st : BitVec 2) : RoundTrip.Statement (.atomsMaxN32 d b o ord st) := by
  intro hw w h; simp only [encode, Option.some.injEq] at h; subst h
  simp [decode, decodeRaw, decOp2A, hw]
theorem RoundTrip.atomsExch (d : BitVec 7) (b : BitVec 4) (o : BitVec 7) (ord : BitVec 3) (st : BitVec 2) : RoundTrip.Statement (.atomsExch d b o ord st) := by
  intro hw w h; simp only [encode, Option.some.injEq] at h; subst h
  simp [decode, decodeRaw, decOp2A, hw]
theorem RoundTrip.atomsCas (d : BitVec 7) (b : BitVec 4) (o : BitVec 7) (ord : BitVec 3) (st : BitVec 2) : RoundTrip.Statement (.atomsCas d b o ord st) := by
  intro hw w h; simp only [encode, Option.some.injEq] at h; subst h
  simp [decode, decodeRaw, decOp2A, hw]
theorem RoundTrip.fenceRelTeam (st : BitVec 2) : RoundTrip.Statement (.fenceRelTeam st) := by
  intro hw w h; simp only [encode, Option.some.injEq] at h; subst h
  simp [decode, decodeRaw, decOp2B, hw]
theorem RoundTrip.fenceRelCluster (st : BitVec 2) : RoundTrip.Statement (.fenceRelCluster st) := by
  intro hw w h; simp only [encode, Option.some.injEq] at h; subst h
  simp [decode, decodeRaw, decOp2B, hw]
theorem RoundTrip.fenceRelDevice (st : BitVec 2) : RoundTrip.Statement (.fenceRelDevice st) := by
  intro hw w h; simp only [encode, Option.some.injEq] at h; subst h
  simp [decode, decodeRaw, decOp2B, hw]
theorem RoundTrip.fenceRelSystem (st : BitVec 2) : RoundTrip.Statement (.fenceRelSystem st) := by
  intro hw w h; simp only [encode, Option.some.injEq] at h; subst h
  simp [decode, decodeRaw, decOp2B, hw]
theorem RoundTrip.fenceAcq (st : BitVec 2) : RoundTrip.Statement (.fenceAcq st) := by
  intro hw w h; simp only [encode, Option.some.injEq] at h; subst h
  simp [decode, decodeRaw, decOp2B, hw]
theorem RoundTrip.fenceFullTeam (st : BitVec 2) : RoundTrip.Statement (.fenceFullTeam st) := by
  intro hw w h; simp only [encode, Option.some.injEq] at h; subst h
  simp [decode, decodeRaw, decOp2B, hw]
theorem RoundTrip.fenceFullCluster (st : BitVec 2) : RoundTrip.Statement (.fenceFullCluster st) := by
  intro hw w h; simp only [encode, Option.some.injEq] at h; subst h
  simp [decode, decodeRaw, decOp2B, hw]
theorem RoundTrip.fenceFullDevice (st : BitVec 2) : RoundTrip.Statement (.fenceFullDevice st) := by
  intro hw w h; simp only [encode, Option.some.injEq] at h; subst h
  simp [decode, decodeRaw, decOp2B, hw]
theorem RoundTrip.fenceFullSystem (st : BitVec 2) : RoundTrip.Statement (.fenceFullSystem st) := by
  intro hw w h; simp only [encode, Option.some.injEq] at h; subst h
  simp [decode, decodeRaw, decOp2B, hw]
theorem RoundTrip.pfenceLc (st : BitVec 2) : RoundTrip.Statement (.pfenceLc st) := by
  intro hw w h; simp only [encode, Option.some.injEq] at h; subst h
  simp [decode, decodeRaw, decOp2B, hw]
theorem RoundTrip.pfenceLt (st : BitVec 2) : RoundTrip.Statement (.pfenceLt st) := by
  intro hw w h; simp only [encode, Option.some.injEq] at h; subst h
  simp [decode, decodeRaw, decOp2B, hw]
theorem RoundTrip.tbegin (a : BitVec 6) (b : BitVec 6) (st : BitVec 2) : RoundTrip.Statement (.tbegin a b st) := by
  intro hw w h; simp only [encode, Option.some.injEq] at h; subst h
  simp [decode, decodeRaw, decOp2C, hw]
theorem RoundTrip.tend (st : BitVec 2) : RoundTrip.Statement (.tend st) := by
  intro hw w h; simp only [encode, Option.some.injEq] at h; subst h
  simp [decode, decodeRaw, decOp2C, hw]
theorem RoundTrip.tabort (st : BitVec 2) : RoundTrip.Statement (.tabort st) := by
  intro hw w h; simp only [encode, Option.some.injEq] at h; subst h
  simp [decode, decodeRaw, decOp2C, hw]
theorem RoundTrip.tprobe (d : BitVec 7) (st : BitVec 2) : RoundTrip.Statement (.tprobe d st) := by
  intro hw w h; simp only [encode, Option.some.injEq] at h; subst h
  simp [decode, decodeRaw, decOp2C, hw]
theorem RoundTrip.adecl (a : BitVec 6) (b : BitVec 6) (st : BitVec 2) : RoundTrip.Statement (.adecl a b st) := by
  intro hw w h; simp only [encode, Option.some.injEq] at h; subst h
  simp [decode, decodeRaw, decOp2C, hw]
theorem RoundTrip.adrop (a : BitVec 6) (st : BitVec 2) : RoundTrip.Statement (.adrop a st) := by
  intro hw w h; simp only [encode, Option.some.injEq] at h; subst h
  simp [decode, decodeRaw, decOp2C, hw]
theorem RoundTrip.forkW (d : BitVec 7) (a : BitVec 6) (st : BitVec 2) : RoundTrip.Statement (.forkW d a st) := by
  intro hw w h; simp only [encode, Option.some.injEq] at h; subst h
  simp [decode, decodeRaw, decOp2D, hw]
theorem RoundTrip.chooseFirst (d : BitVec 7) (st : BitVec 2) : RoundTrip.Statement (.chooseFirst d st) := by
  intro hw w h; simp only [encode, Option.some.injEq] at h; subst h
  simp [decode, decodeRaw, decOp2D, hw]
theorem RoundTrip.chooseBest (d : BitVec 7) (a : BitVec 6) (st : BitVec 2) : RoundTrip.Statement (.chooseBest d a st) := by
  intro hw w h; simp only [encode, Option.some.injEq] at h; subst h
  simp [decode, decodeRaw, decOp2D, hw]
theorem RoundTrip.wabort (d : BitVec 7) (st : BitVec 2) : RoundTrip.Statement (.wabort d st) := by
  intro hw w h; simp only [encode, Option.some.injEq] at h; subst h
  simp [decode, decodeRaw, decOp2D, hw]
theorem RoundTrip.wquery (d : BitVec 7) (st : BitVec 2) : RoundTrip.Statement (.wquery d st) := by
  intro hw w h; simp only [encode, Option.some.injEq] at h; subst h
  simp [decode, decodeRaw, decOp2D, hw]
theorem RoundTrip.exitSave (st : BitVec 2) : RoundTrip.Statement (.exitSave st) := by
  intro hw w h; simp only [encode, Option.some.injEq] at h; subst h
  simp [decode, decodeRaw, decOp2E, hw]
theorem RoundTrip.entryDone (st : BitVec 2) : RoundTrip.Statement (.entryDone st) := by
  intro hw w h; simp only [encode, Option.some.injEq] at h; subst h
  simp [decode, decodeRaw, decOp2E, hw]
theorem RoundTrip.rrec (d : BitVec 7) (a : BitVec 6) (st : BitVec 2) : RoundTrip.Statement (.rrec d a st) := by
  intro hw w h; simp only [encode, Option.some.injEq] at h; subst h
  simp [decode, decodeRaw, decOp2E, hw]
theorem RoundTrip.rpoison (a : BitVec 6) (st : BitVec 2) : RoundTrip.Statement (.rpoison a st) := by
  intro hw w h; simp only [encode, Option.some.injEq] at h; subst h
  simp [decode, decodeRaw, decOp2E, hw]
theorem RoundTrip.penInit (a : BitVec 6) (b : BitVec 6) (st : BitVec 2) : RoundTrip.Statement (.penInit a b st) := by
  intro hw w h; simp only [encode, Option.some.injEq] at h; subst h
  simp [decode, decodeRaw, decOp2F, hw]
theorem RoundTrip.penExpect (a : BitVec 6) (b : BitVec 6) (st : BitVec 2) : RoundTrip.Statement (.penExpect a b st) := by
  intro hw w h; simp only [encode, Option.some.injEq] at h; subst h
  simp [decode, decodeRaw, decOp2F, hw]
theorem RoundTrip.penArrive (a : BitVec 6) (st : BitVec 2) : RoundTrip.Statement (.penArrive a st) := by
  intro hw w h; simp only [encode, Option.some.injEq] at h; subst h
  simp [decode, decodeRaw, decOp2F, hw]
theorem RoundTrip.penWait (a : BitVec 6) (b : BitVec 6) (st : BitVec 2) : RoundTrip.Statement (.penWait a b st) := by
  intro hw w h; simp only [encode, Option.some.injEq] at h; subst h
  simp [decode, decodeRaw, decOp2F, hw]
theorem RoundTrip.penTest (d : BitVec 7) (a : BitVec 6) (st : BitVec 2) : RoundTrip.Statement (.penTest d a st) := by
  intro hw w h; simp only [encode, Option.some.injEq] at h; subst h
  simp [decode, decodeRaw, decOp2F, hw]
theorem RoundTrip.barTeam (a : BitVec 6) (st : BitVec 2) : RoundTrip.Statement (.barTeam a st) := by
  intro hw w h; simp only [encode, Option.some.injEq] at h; subst h
  simp [decode, decodeRaw, decOp2F, hw]
theorem RoundTrip.barRole (a : BitVec 6) (b : BitVec 6) (st : BitVec 2) : RoundTrip.Statement (.barRole a b st) := by
  intro hw w h; simp only [encode, Option.some.injEq] at h; subst h
  simp [decode, decodeRaw, decOp2F, hw]
theorem RoundTrip.gsync (st : BitVec 2) : RoundTrip.Statement (.gsync st) := by
  intro hw w h; simp only [encode, Option.some.injEq] at h; subst h
  simp [decode, decodeRaw, decOp2F, hw]
theorem RoundTrip.penInval (a : BitVec 6) (st : BitVec 2) : RoundTrip.Statement (.penInval a st) := by
  intro hw w h; simp only [encode, Option.some.injEq] at h; subst h
  simp [decode, decodeRaw, decOp2F, hw]
theorem RoundTrip.ballot (d : BitVec 7) (a : BitVec 7) (st : BitVec 2) : RoundTrip.Statement (.ballot d a st) := by
  intro hw w h; simp only [encode, Option.some.injEq] at h; subst h
  simp [decode, decodeRaw, decOp30, hw]
theorem RoundTrip.vall (d : BitVec 7) (a : BitVec 7) (st : BitVec 2) : RoundTrip.Statement (.vall d a st) := by
  intro hw w h; simp only [encode, Option.some.injEq] at h; subst h
  simp [decode, decodeRaw, decOp30, hw]
theorem RoundTrip.vany (d : BitVec 7) (a : BitVec 7) (st : BitVec 2) : RoundTrip.Statement (.vany d a st) := by
  intro hw w h; simp only [encode, Option.some.injEq] at h; subst h
  simp [decode, decodeRaw, decOp30, hw]
theorem RoundTrip.matchLanes (d : BitVec 7) (a : BitVec 7) (st : BitVec 2) : RoundTrip.Statement (.matchLanes d a st) := by
  intro hw w h; simp only [encode, Option.some.injEq] at h; subst h
  simp [decode, decodeRaw, decOp30, hw]
theorem RoundTrip.shflIdx (d : BitVec 7) (a : BitVec 7) (b : BitVec 7) (st : BitVec 2) : RoundTrip.Statement (.shflIdx d a b st) := by
  intro hw w h; simp only [encode, Option.some.injEq] at h; subst h
  simp [decode, decodeRaw, decOp30, hw]
theorem RoundTrip.shflUp (d : BitVec 7) (a : BitVec 7) (b : BitVec 7) (st : BitVec 2) : RoundTrip.Statement (.shflUp d a b st) := by
  intro hw w h; simp only [encode, Option.some.injEq] at h; subst h
  simp [decode, decodeRaw, decOp30, hw]
theorem RoundTrip.shflDown (d : BitVec 7) (a : BitVec 7) (b : BitVec 7) (st : BitVec 2) : RoundTrip.Statement (.shflDown d a b st) := by
  intro hw w h; simp only [encode, Option.some.injEq] at h; subst h
  simp [decode, decodeRaw, decOp30, hw]
theorem RoundTrip.shflXor (d : BitVec 7) (a : BitVec 7) (b : BitVec 7) (st : BitVec 2) : RoundTrip.Statement (.shflXor d a b st) := by
  intro hw w h; simp only [encode, Option.some.injEq] at h; subst h
  simp [decode, decodeRaw, decOp30, hw]
theorem RoundTrip.redaddI32 (d : BitVec 7) (a : BitVec 7) (st : BitVec 2) : RoundTrip.Statement (.redaddI32 d a st) := by
  intro hw w h; simp only [encode, Option.some.injEq] at h; subst h
  simp [decode, decodeRaw, decOp31, hw]
theorem RoundTrip.scanaddI32 (d : BitVec 7) (a : BitVec 7) (st : BitVec 2) : RoundTrip.Statement (.scanaddI32 d a st) := by
  intro hw w h; simp only [encode, Option.some.injEq] at h; subst h
  simp [decode, decodeRaw, decOp31, hw]
theorem RoundTrip.exscanI32 (d : BitVec 7) (a : BitVec 7) (st : BitVec 2) : RoundTrip.Statement (.exscanI32 d a st) := by
  intro hw w h; simp only [encode, Option.some.injEq] at h; subst h
  simp [decode, decodeRaw, decOp31, hw]
theorem RoundTrip.redmaxI32 (d : BitVec 7) (a : BitVec 7) (st : BitVec 2) : RoundTrip.Statement (.redmaxI32 d a st) := by
  intro hw w h; simp only [encode, Option.some.injEq] at h; subst h
  simp [decode, decodeRaw, decOp31, hw]
theorem RoundTrip.redminI32 (d : BitVec 7) (a : BitVec 7) (st : BitVec 2) : RoundTrip.Statement (.redminI32 d a st) := by
  intro hw w h; simp only [encode, Option.some.injEq] at h; subst h
  simp [decode, decodeRaw, decOp31, hw]
theorem RoundTrip.redaddF32 (d : BitVec 7) (a : BitVec 7) (st : BitVec 2) : RoundTrip.Statement (.redaddF32 d a st) := by
  intro hw w h; simp only [encode, Option.some.injEq] at h; subst h
  simp [decode, decodeRaw, decOp31, hw]
theorem RoundTrip.elect (d : BitVec 7) (st : BitVec 2) : RoundTrip.Statement (.elect d st) := by
  intro hw w h; simp only [encode, Option.some.injEq] at h; subst h
  simp [decode, decodeRaw, decOp31, hw]
theorem RoundTrip.setgm (a : BitVec 7) (st : BitVec 2) : RoundTrip.Statement (.setgm a st) := by
  intro hw w h; simp only [encode, Option.some.injEq] at h; subst h
  simp [decode, decodeRaw, decOp31, hw]
theorem RoundTrip.copyTeam (d : BitVec 7) (a : BitVec 6) (st : BitVec 2) : RoundTrip.Statement (.copyTeam d a st) := by
  intro hw w h; simp only [encode, Option.some.injEq] at h; subst h
  simp [decode, decodeRaw, decOp32, hw]
theorem RoundTrip.copyMc (d : BitVec 7) (a : BitVec 6) (st : BitVec 2) : RoundTrip.Statement (.copyMc d a st) := by
  intro hw w h; simp only [encode, Option.some.injEq] at h; subst h
  simp [decode, decodeRaw, decOp32, hw]
theorem RoundTrip.copySp (d : BitVec 7) (a : BitVec 6) (st : BitVec 2) : RoundTrip.Statement (.copySp d a st) := by
  intro hw w h; simp only [encode, Option.some.injEq] at h; subst h
  simp [decode, decodeRaw, decOp32, hw]
theorem RoundTrip.copyOut (d : BitVec 7) (a : BitVec 6) (st : BitVec 2) : RoundTrip.Statement (.copyOut d a st) := by
  intro hw w h; simp only [encode, Option.some.injEq] at h; subst h
  simp [decode, decodeRaw, decOp32, hw]
theorem RoundTrip.rlkQ (d : BitVec 7) (a : BitVec 6) (b : BitVec 6) (st : BitVec 2) : RoundTrip.Statement (.rlkQ d a b st) := by
  intro hw w h; simp only [encode, Option.some.injEq] at h; subst h
  simp [decode, decodeRaw, decOp32, hw]
theorem RoundTrip.copyBulk (d : BitVec 7) (a : BitVec 6) (st : BitVec 2) : RoundTrip.Statement (.copyBulk d a st) := by
  intro hw w h; simp only [encode, Option.some.injEq] at h; subst h
  simp [decode, decodeRaw, decOp32, hw]
theorem RoundTrip.gath (d : BitVec 7) (a : BitVec 6) (st : BitVec 2) : RoundTrip.Statement (.gath d a st) := by
  intro hw w h; simp only [encode, Option.some.injEq] at h; subst h
  simp [decode, decodeRaw, decOp33, hw]
theorem RoundTrip.gathClose (a : BitVec 6) (st : BitVec 2) : RoundTrip.Statement (.gathClose a st) := by
  intro hw w h; simp only [encode, Option.some.injEq] at h; subst h
  simp [decode, decodeRaw, decOp33, hw]
theorem RoundTrip.trBind (a : BitVec 6) (b : BitVec 6) (st : BitVec 2) : RoundTrip.Statement (.trBind a b st) := by
  intro hw w h; simp only [encode, Option.some.injEq] at h; subst h
  simp [decode, decodeRaw, decOp34, hw]
theorem RoundTrip.trUnbind (a : BitVec 6) (st : BitVec 2) : RoundTrip.Statement (.trUnbind a st) := by
  intro hw w h; simp only [encode, Option.some.injEq] at h; subst h
  simp [decode, decodeRaw, decOp34, hw]
theorem RoundTrip.trFilled (d : BitVec 7) (a : BitVec 6) (st : BitVec 2) : RoundTrip.Statement (.trFilled d a st) := by
  intro hw w h; simp only [encode, Option.some.injEq] at h; subst h
  simp [decode, decodeRaw, decOp34, hw]
theorem RoundTrip.trFree (d : BitVec 7) (a : BitVec 6) (st : BitVec 2) : RoundTrip.Statement (.trFree d a st) := by
  intro hw w h; simp only [encode, Option.some.injEq] at h; subst h
  simp [decode, decodeRaw, decOp34, hw]
theorem RoundTrip.trReset (a : BitVec 6) (st : BitVec 2) : RoundTrip.Statement (.trReset a st) := by
  intro hw w h; simp only [encode, Option.some.injEq] at h; subst h
  simp [decode, decodeRaw, decOp34, hw]
theorem RoundTrip.mxMma (d : BitVec 7) (a : BitVec 6) (b : BitVec 6) (st : BitVec 2) : RoundTrip.Statement (.mxMma d a b st) := by
  intro hw w h; simp only [encode, Option.some.injEq] at h; subst h
  simp [decode, decodeRaw, decOp35, hw]
theorem RoundTrip.mxRd (d : BitVec 7) (a : BitVec 6) (st : BitVec 2) : RoundTrip.Statement (.mxRd d a st) := by
  intro hw w h; simp only [encode, Option.some.injEq] at h; subst h
  simp [decode, decodeRaw, decOp35, hw]
theorem RoundTrip.mxSt (d : BitVec 7) (a : BitVec 6) (b : BitVec 6) (st : BitVec 2) : RoundTrip.Statement (.mxSt d a b st) := by
  intro hw w h; simp only [encode, Option.some.injEq] at h; subst h
  simp [decode, decodeRaw, decOp35, hw]
theorem RoundTrip.mxLd (d : BitVec 7) (a : BitVec 6) (b : BitVec 6) (st : BitVec 2) : RoundTrip.Statement (.mxLd d a b st) := by
  intro hw w h; simp only [encode, Option.some.injEq] at h; subst h
  simp [decode, decodeRaw, decOp35, hw]
theorem RoundTrip.mxClr (a : BitVec 6) (st : BitVec 2) : RoundTrip.Statement (.mxClr a st) := by
  intro hw w h; simp only [encode, Option.some.injEq] at h; subst h
  simp [decode, decodeRaw, decOp35, hw]
theorem RoundTrip.mxStat (d : BitVec 7) (st : BitVec 2) : RoundTrip.Statement (.mxStat d st) := by
  intro hw w h; simp only [encode, Option.some.injEq] at h; subst h
  simp [decode, decodeRaw, decOp35, hw]
theorem RoundTrip.launch (a : BitVec 6) (b : BitVec 6) (st : BitVec 2) : RoundTrip.Statement (.launch a b st) := by
  intro hw w h; simp only [encode, Option.some.injEq] at h; subst h
  simp [decode, decodeRaw, decOp36, hw]
theorem RoundTrip.exit (st : BitVec 2) : RoundTrip.Statement (.exit st) := by
  intro hw w h; simp only [encode, Option.some.injEq] at h; subst h
  simp [decode, decodeRaw, decOp36, hw]
theorem RoundTrip.exitSucc (a : BitVec 6) (b : BitVec 6) (st : BitVec 2) : RoundTrip.Statement (.exitSucc a b st) := by
  intro hw w h; simp only [encode, Option.some.injEq] at h; subst h
  simp [decode, decodeRaw, decOp36, hw]
theorem RoundTrip.tyield (st : BitVec 2) : RoundTrip.Statement (.tyield st) := by
  intro hw w h; simp only [encode, Option.some.injEq] at h; subst h
  simp [decode, decodeRaw, decOp36, hw]
theorem RoundTrip.waitExt (d : BitVec 7) (a : BitVec 6) (b : BitVec 6) (st : BitVec 2) : RoundTrip.Statement (.waitExt d a b st) := by
  intro hw w h; simp only [encode, Option.some.injEq] at h; subst h
  simp [decode, decodeRaw, decOp36, hw]
theorem RoundTrip.sigHost (a : BitVec 6) (st : BitVec 2) : RoundTrip.Statement (.sigHost a st) := by
  intro hw w h; simp only [encode, Option.some.injEq] at h; subst h
  simp [decode, decodeRaw, decOp36, hw]
theorem RoundTrip.sleep (a : BitVec 6) (st : BitVec 2) : RoundTrip.Statement (.sleep a st) := by
  intro hw w h; simp only [encode, Option.some.injEq] at h; subst h
  simp [decode, decodeRaw, decOp36, hw]
theorem RoundTrip.trap (a : BitVec 6) (st : BitVec 2) : RoundTrip.Statement (.trap a st) := by
  intro hw w h; simp only [encode, Option.some.injEq] at h; subst h
  simp [decode, decodeRaw, decOp37, hw]
theorem RoundTrip.brk (st : BitVec 2) : RoundTrip.Statement (.brk st) := by
  intro hw w h; simp only [encode, Option.some.injEq] at h; subst h
  simp [decode, decodeRaw, decOp37, hw]
theorem RoundTrip.rdpriv (d : BitVec 7) (a : BitVec 6) (st : BitVec 2) : RoundTrip.Statement (.rdpriv d a st) := by
  intro hw w h; simp only [encode, Option.some.injEq] at h; subst h
  simp [decode, decodeRaw, decOp37, hw]
theorem RoundTrip.wrpriv (d : BitVec 7) (a : BitVec 6) (st : BitVec 2) : RoundTrip.Statement (.wrpriv d a st) := by
  intro hw w h; simp only [encode, Option.some.injEq] at h; subst h
  simp [decode, decodeRaw, decOp37, hw]
theorem RoundTrip.tret (st : BitVec 2) : RoundTrip.Statement (.tret st) := by
  intro hw w h; simp only [encode, Option.some.injEq] at h; subst h
  simp [decode, decodeRaw, decOp37, hw]
theorem RoundTrip.tretSkip (st : BitVec 2) : RoundTrip.Statement (.tretSkip st) := by
  intro hw w h; simp only [encode, Option.some.injEq] at h; subst h
  simp [decode, decodeRaw, decOp37, hw]
theorem RoundTrip.ipref (a : BitVec 6) (b : BitVec 6) (st : BitVec 2) : RoundTrip.Statement (.ipref a b st) := by
  intro hw w h; simp only [encode, Option.some.injEq] at h; subst h
  simp [decode, decodeRaw, decOp37, hw]
theorem RoundTrip.ipin (d : BitVec 7) (a : BitVec 6) (b : BitVec 6) (st : BitVec 2) : RoundTrip.Statement (.ipin d a b st) := by
  intro hw w h; simp only [encode, Option.some.injEq] at h; subst h
  simp [decode, decodeRaw, decOp37, hw]
theorem RoundTrip.iunpin (d : BitVec 7) (a : BitVec 6) (b : BitVec 6) (st : BitVec 2) : RoundTrip.Statement (.iunpin d a b st) := by
  intro hw w h; simp only [encode, Option.some.injEq] at h; subst h
  simp [decode, decodeRaw, decOp37, hw]
theorem RoundTrip.tmark (d : BitVec 7) (st : BitVec 2) : RoundTrip.Statement (.tmark d st) := by
  intro hw w h; simp only [encode, Option.some.injEq] at h; subst h
  simp [decode, decodeRaw, decOp37, hw]
theorem RoundTrip.perfRd (d : BitVec 7) (a : BitVec 6) (st : BitVec 2) : RoundTrip.Statement (.perfRd d a st) := by
  intro hw w h; simp only [encode, Option.some.injEq] at h; subst h
  simp [decode, decodeRaw, decOp37, hw]
theorem RoundTrip.clk (d : BitVec 7) (st : BitVec 2) : RoundTrip.Statement (.clk d st) := by
  intro hw w h; simp only [encode, Option.some.injEq] at h; subst h
  simp [decode, decodeRaw, decOp37, hw]
theorem RoundTrip.sfuF64Result (team : Nat) (tok : Nat) : RoundTrip.Statement (.sfuF64Result team tok) := by intro _ w h; cases h
theorem RoundTrip.matrixOpFinish (core : Nat) (quad : Nat) : RoundTrip.Statement (.matrixOpFinish core quad) := by intro _ w h; cases h
theorem RoundTrip.tbeginStampAdvance (team : Nat) : RoundTrip.Statement (.tbeginStampAdvance team) := by intro _ w h; cases h
theorem RoundTrip.pcieCompletion (t : Tid) (acc : Nat) : RoundTrip.Statement (.pcieCompletion t acc) := by intro _ w h; cases h
theorem RoundTrip.postedWriteAccepted (t : Tid) (acc : Nat) : RoundTrip.Statement (.postedWriteAccepted t acc) := by intro _ w h; cases h
theorem RoundTrip.priResponse (op : Nat) (granted : Bool) : RoundTrip.Statement (.priResponse op granted) := by intro _ w h; cases h
theorem RoundTrip.crcFailure (port : Nat) (dev : Nat) : RoundTrip.Statement (.crcFailure port dev) := by intro _ w h; cases h
theorem RoundTrip.tdispStateChange (fn : Nat) (code : Nat) : RoundTrip.Statement (.tdispStateChange fn code) := by intro _ w h; cases h
theorem RoundTrip.managementStepRequest (island : Nat) (step : Nat) : RoundTrip.Statement (.managementStepRequest island step) := by intro _ w h; cases h

end Sys2Proof.Laws
end

