-- ==== Sys2Proof/Laws/Ready.lean ====
section
/-! SUPPORT. A check that decides whether a flock stands ready, with its soundness: the way to show that a concrete state meets the
hypotheses of the claims about single instructions. -/

namespace Sys2Proof.Laws

open Machine

/-- What `Ready` asks of the lanes that `ts` names, as a check of what each of them sees. -/
def seen (s : State) (ts : List Tid) (fid : Nat) (word : Word) (p : Lane → Bool) : Bool :=
  ts.all fun t => match lane? s t fid word with | some l => p l | none => true

/-- What holds of the lanes of a list by the check. -/
theorem of_seen {s : State} {ts : List Tid} {fid : Nat} {word : Word} {p : Lane → Bool} (h : seen s ts fid word p = true) {P : Lane → Prop}
    (hp : ∀ l, p l = true → P l) : ∀ t ∈ ts, ∀ l, lane? s t fid word = some l → P l := by
  intro t ht l hl
  have := List.all_eq_true.mp h t ht
  rw [hl] at this
  exact hp l this

/-- A condition of a lane that can be decided. -/
theorem of_seen_decide {s : State} {ts : List Tid} {fid : Nat} {word : Word} {P : Lane → Prop} [∀ l, Decidable (P l)]
    (h : seen s ts fid word (fun l => decide (P l)) = true) : ∀ t ∈ ts, ∀ l, lane? s t fid word = some l → P l :=
  of_seen h fun _ => of_decide_eq_true

/-- What `Ready` asks of the threads that `ts` names. -/
def threadsOk (s : State) (ts : List Tid) (p : Thread → Bool) : Bool :=
  ts.all fun t => match thread? s t with | some th => p th | none => false

theorem of_threadsOk {s : State} {ts : List Tid} {p : Thread → Bool} (h : threadsOk s ts p = true) {P : Thread → Prop} (hp : ∀ th, p th = true → P th) :
    ∀ t ∈ ts, ∃ th, thread? s t = some th ∧ P th := by
  intro t ht
  have := List.all_eq_true.mp h t ht
  revert this
  cases thread? s t with
  | none => intro h; cases h
  | some th => intro h; exact ⟨th, rfl, hp th h⟩

theorem forall_threadsOk {s : State} {ts : List Tid} {p : Thread → Bool} (h : threadsOk s ts p = true) {P : Thread → Prop} (hp : ∀ th, p th = true → P th) :
    ∀ t ∈ ts, ∀ th, thread? s t = some th → P th := by
  intro t ht th hth
  obtain ⟨th', h1, h2⟩ := of_threadsOk h hp t ht
  rw [hth] at h1
  cases h1
  exact h2

/-- The parts of `Stands`. -/
def standsB (s : State) (sl : Slot) : Bool :=
  decide (curSlot s = some sl) && !sl.flock.isEmpty && decide sl.flock.Nodup &&
    threadsOk (atIssue s sl) sl.flock fun th => decide (th.owed = none) && decide (th.wait = none) && decide (th.life = .live)

/-- Every part of `Ready`, checked. -/
def readyB (s : State) (sl : Slot) (word : Word) (u : Uses) (hold : Lane → Bool) : Bool :=
  standsB s sl && decide (staticTrap (posOf s sl) word u = none) && !rotates (posOf s sl) sl u &&
    seen (atIssue s sl) (lanesOf s sl u) sl.fid word (fun l => !stalls l u) &&
    seen (atIssue s sl) (checkers u (lanesOf s sl u)) sl.fid word (fun l => !hold l) &&
    (!u.ban || threadsOk (atIssue s sl) (lanesOf s sl u) fun th => decide (th.routine = none)) &&
    sl.flock.all (fun t => t.team == headTeam sl) &&
    threadsOk (atIssue s sl) sl.flock (fun th => th.pc.off == (posOf s sl).off) &&
    decide ((sl.flock.map fun t => t.lane).Nodup) &&
    seen (atIssue s sl) (checkers u (lanesOf s sl u)) sl.fid word fun l => decide (operandTrap l u = none)

theorem stands_live {s : State} {sl : Slot} (h : standsB s sl = true) :
    curSlot s = some sl ∧ sl.flock ≠ [] ∧ sl.flock.Nodup ∧
      ∀ t ∈ sl.flock, ∃ th, thread? (atIssue s sl) t = some th ∧ th.owed = none ∧ th.wait = none ∧ th.life = .live := by
  simp only [standsB, and_assoc, Bool.and_eq_true, Bool.not_eq_true', decide_eq_true_eq] at h
  obtain ⟨h1, h2, h3, h4⟩ := h
  refine ⟨h1, ?_, h3, of_threadsOk h4 fun th h => ?_⟩
  · intro e; rw [e] at h2; cases h2
  · simp only [Bool.and_eq_true, decide_eq_true_eq] at h; exact ⟨h.1.1, h.1.2, h.2⟩

/-- A flock that passes the check is ready. -/
theorem ready_of {s : State} {sl : Slot} {word : Word} {u : Uses} {hold : Lane → Bool} (h : readyB s sl word u hold = true) : Ready s sl word u hold := by
  simp only [readyB, and_assoc, Bool.and_eq_true, Bool.not_eq_true', decide_eq_true_eq, Bool.or_eq_true] at h
  obtain ⟨hs, h2, h3, h4, h5, h⟩ := h
  obtain ⟨h6, h7, h8, h9, h10⟩ := h
  obtain ⟨s1, s2, s3, s4⟩ := stands_live hs
  refine ⟨s1, s2, s3, s4, h2, h3, of_seen h4 fun l h => ?_, of_seen h5 fun l h => ?_, ?_, fun t ht => ?_, forall_threadsOk h8 fun th h => ?_, h9, of_seen h10 fun l h => ?_⟩
  · rwa [Bool.not_eq_true'] at h
  · rwa [Bool.not_eq_true'] at h
  · intro hb
    rcases h6 with h6 | h6
    · rw [hb] at h6; cases h6
    · exact forall_threadsOk h6 fun th h => of_decide_eq_true h
  · exact eq_of_beq (List.all_eq_true.mp h7 t ht)
  · exact eq_of_beq h
  · exact of_decide_eq_true h

end Sys2Proof.Laws
end

