-- ==== Sys2Proof/Laws/State.lean ====
section
/-! SUPPORT. What each update of the state leaves alone, field by field. -/

set_option Elab.async false

namespace Sys2Proof.Laws

open Machine

/-! ### modTeam -/

@[simp] theorem modTeam_time (s : State) (id : Nat) (f : Team → Team) : (modTeam s id f).time = s.time := rfl
@[simp] theorem modTeam_agenda (s : State) (id : Nat) (f : Team → Team) : (modTeam s id f).agenda = s.agenda := rfl
@[simp] theorem modTeam_cur (s : State) (id : Nat) (f : Team → Team) : (modTeam s id f).cur = s.cur := rfl
@[simp] theorem modTeam_fresh (s : State) (id : Nat) (f : Team → Team) : (modTeam s id f).fresh = s.fresh := rfl
@[simp] theorem modTeam_nextId (s : State) (id : Nat) (f : Team → Team) : (modTeam s id f).nextId = s.nextId := rfl
@[simp] theorem modTeam_islands (s : State) (id : Nat) (f : Team → Team) : (modTeam s id f).islands = s.islands := rfl
@[simp] theorem modTeam_powerLimit (s : State) (id : Nat) (f : Team → Team) : (modTeam s id f).powerLimit = s.powerLimit := rfl
@[simp] theorem modTeam_gateStatus (s : State) (id : Nat) (f : Team → Team) : (modTeam s id f).gateStatus = s.gateStatus := rfl
@[simp] theorem modTeam_links (s : State) (id : Nat) (f : Team → Team) : (modTeam s id f).links = s.links := rfl
@[simp] theorem modTeam_mailbox (s : State) (id : Nat) (f : Team → Team) : (modTeam s id f).mailbox = s.mailbox := rfl
@[simp] theorem modTeam_host (s : State) (id : Nat) (f : Team → Team) : (modTeam s id f).host = s.host := rfl
@[simp] theorem modTeam_contexts (s : State) (id : Nat) (f : Team → Team) : (modTeam s id f).contexts = s.contexts := rfl
@[simp] theorem modTeam_launchSeq (s : State) (id : Nat) (f : Team → Team) : (modTeam s id f).launchSeq = s.launchSeq := rfl
@[simp] theorem modTeam_grids (s : State) (id : Nat) (f : Team → Team) : (modTeam s id f).grids = s.grids := rfl
@[simp] theorem modTeam_launches (s : State) (id : Nat) (f : Team → Team) : (modTeam s id f).launches = s.launches := rfl
@[simp] theorem modTeam_slots (s : State) (id : Nat) (f : Team → Team) : (modTeam s id f).slots = s.slots := rfl
@[simp] theorem modTeam_ageing (s : State) (id : Nat) (f : Team → Team) : (modTeam s id f).ageing = s.ageing := rfl
@[simp] theorem modTeam_fused (s : State) (id : Nat) (f : Team → Team) : (modTeam s id f).fused = s.fused := rfl
@[simp] theorem modTeam_stamps (s : State) (id : Nat) (f : Team → Team) : (modTeam s id f).stamps = s.stamps := rfl
@[simp] theorem modTeam_mem (s : State) (id : Nat) (f : Team → Team) : (modTeam s id f).mem = s.mem := rfl
@[simp] theorem modTeam_hostMem (s : State) (id : Nat) (f : Team → Team) : (modTeam s id f).hostMem = s.hostMem := rfl
@[simp] theorem modTeam_scratch (s : State) (id : Nat) (f : Team → Team) : (modTeam s id f).scratch = s.scratch := rfl
@[simp] theorem modTeam_banks (s : State) (id : Nat) (f : Team → Team) : (modTeam s id f).banks = s.banks := rfl
@[simp] theorem modTeam_lines (s : State) (id : Nat) (f : Team → Team) : (modTeam s id f).lines = s.lines := rfl
@[simp] theorem modTeam_seals (s : State) (id : Nat) (f : Team → Team) : (modTeam s id f).seals = s.seals := rfl
@[simp] theorem modTeam_dirty (s : State) (id : Nat) (f : Team → Team) : (modTeam s id f).dirty = s.dirty := rfl
@[simp] theorem modTeam_waiting (s : State) (id : Nat) (f : Team → Team) : (modTeam s id f).waiting = s.waiting := rfl
@[simp] theorem modTeam_gate (s : State) (id : Nat) (f : Team → Team) : (modTeam s id f).gate = s.gate := rfl
@[simp] theorem modTeam_leases (s : State) (id : Nat) (f : Team → Team) : (modTeam s id f).leases = s.leases := rfl
@[simp] theorem modTeam_constCache (s : State) (id : Nat) (f : Team → Team) : (modTeam s id f).constCache = s.constCache := rfl
@[simp] theorem modTeam_tlb (s : State) (id : Nat) (f : Team → Team) : (modTeam s id f).tlb = s.tlb := rfl
@[simp] theorem modTeam_walkCache (s : State) (id : Nat) (f : Team → Team) : (modTeam s id f).walkCache = s.walkCache := rfl
@[simp] theorem modTeam_locks (s : State) (id : Nat) (f : Team → Team) : (modTeam s id f).locks = s.locks := rfl
@[simp] theorem modTeam_pins (s : State) (id : Nat) (f : Team → Team) : (modTeam s id f).pins = s.pins := rfl
@[simp] theorem modTeam_versions (s : State) (id : Nat) (f : Team → Team) : (modTeam s id f).versions = s.versions := rfl
@[simp] theorem modTeam_views (s : State) (id : Nat) (f : Team → Team) : (modTeam s id f).views = s.views := rfl
@[simp] theorem modTeam_commits (s : State) (id : Nat) (f : Team → Team) : (modTeam s id f).commits = s.commits := rfl
@[simp] theorem modTeam_sets (s : State) (id : Nat) (f : Team → Team) : (modTeam s id f).sets = s.sets := rfl
@[simp] theorem modTeam_holds (s : State) (id : Nat) (f : Team → Team) : (modTeam s id f).holds = s.holds := rfl
@[simp] theorem modTeam_waiters (s : State) (id : Nat) (f : Team → Team) : (modTeam s id f).waiters = s.waiters := rfl
@[simp] theorem modTeam_families (s : State) (id : Nat) (f : Team → Team) : (modTeam s id f).families = s.families := rfl
@[simp] theorem modTeam_forks (s : State) (id : Nat) (f : Team → Team) : (modTeam s id f).forks = s.forks := rfl
@[simp] theorem modTeam_deferred (s : State) (id : Nat) (f : Team → Team) : (modTeam s id f).deferred = s.deferred := rfl
@[simp] theorem modTeam_engines (s : State) (id : Nat) (f : Team → Team) : (modTeam s id f).engines = s.engines := rfl
@[simp] theorem modTeam_penUpdates (s : State) (id : Nat) (f : Team → Team) : (modTeam s id f).penUpdates = s.penUpdates := rfl
@[simp] theorem modTeam_bulk (s : State) (id : Nat) (f : Team → Team) : (modTeam s id f).bulk = s.bulk := rfl
@[simp] theorem modTeam_troughs (s : State) (id : Nat) (f : Team → Team) : (modTeam s id f).troughs = s.troughs := rfl
@[simp] theorem modTeam_matrix (s : State) (id : Nat) (f : Team → Team) : (modTeam s id f).matrix = s.matrix := rfl
@[simp] theorem modTeam_tiles (s : State) (id : Nat) (f : Team → Team) : (modTeam s id f).tiles = s.tiles := rfl
@[simp] theorem modTeam_logged (s : State) (id : Nat) (f : Team → Team) : (modTeam s id f).logged = s.logged := rfl
@[simp] theorem modTeam_partIf (s : State) (id : Nat) (f : Team → Team) : (modTeam s id f).partIf = s.partIf := rfl
@[simp] theorem modTeam_partitions (s : State) (id : Nat) (f : Team → Team) : (modTeam s id f).partitions = s.partitions := rfl
@[simp] theorem modTeam_engLeases (s : State) (id : Nat) (f : Team → Team) : (modTeam s id f).engLeases = s.engLeases := rfl
@[simp] theorem modTeam_pavIf (s : State) (id : Nat) (f : Team → Team) : (modTeam s id f).pavIf = s.pavIf := rfl
@[simp] theorem modTeam_pavilions (s : State) (id : Nat) (f : Team → Team) : (modTeam s id f).pavilions = s.pavilions := rfl
@[simp] theorem modTeam_rotation (s : State) (id : Nat) (f : Team → Team) : (modTeam s id f).rotation = s.rotation := rfl
@[simp] theorem modTeam_frames (s : State) (id : Nat) (f : Team → Team) : (modTeam s id f).frames = s.frames := rfl
@[simp] theorem modTeam_trust (s : State) (id : Nat) (f : Team → Team) : (modTeam s id f).trust = s.trust := rfl
@[simp] theorem modTeam_observe (s : State) (id : Nat) (f : Team → Team) : (modTeam s id f).observe = s.observe := rfl

/-! ### modGroup -/

@[simp] theorem modGroup_time (s : State) (t g : Nat) (f : Group → Group) : (modGroup s t g f).time = s.time := rfl
@[simp] theorem modGroup_agenda (s : State) (t g : Nat) (f : Group → Group) : (modGroup s t g f).agenda = s.agenda := rfl
@[simp] theorem modGroup_cur (s : State) (t g : Nat) (f : Group → Group) : (modGroup s t g f).cur = s.cur := rfl
@[simp] theorem modGroup_fresh (s : State) (t g : Nat) (f : Group → Group) : (modGroup s t g f).fresh = s.fresh := rfl
@[simp] theorem modGroup_nextId (s : State) (t g : Nat) (f : Group → Group) : (modGroup s t g f).nextId = s.nextId := rfl
@[simp] theorem modGroup_islands (s : State) (t g : Nat) (f : Group → Group) : (modGroup s t g f).islands = s.islands := rfl
@[simp] theorem modGroup_powerLimit (s : State) (t g : Nat) (f : Group → Group) : (modGroup s t g f).powerLimit = s.powerLimit := rfl
@[simp] theorem modGroup_gateStatus (s : State) (t g : Nat) (f : Group → Group) : (modGroup s t g f).gateStatus = s.gateStatus := rfl
@[simp] theorem modGroup_links (s : State) (t g : Nat) (f : Group → Group) : (modGroup s t g f).links = s.links := rfl
@[simp] theorem modGroup_mailbox (s : State) (t g : Nat) (f : Group → Group) : (modGroup s t g f).mailbox = s.mailbox := rfl
@[simp] theorem modGroup_host (s : State) (t g : Nat) (f : Group → Group) : (modGroup s t g f).host = s.host := rfl
@[simp] theorem modGroup_contexts (s : State) (t g : Nat) (f : Group → Group) : (modGroup s t g f).contexts = s.contexts := rfl
@[simp] theorem modGroup_launchSeq (s : State) (t g : Nat) (f : Group → Group) : (modGroup s t g f).launchSeq = s.launchSeq := rfl
@[simp] theorem modGroup_grids (s : State) (t g : Nat) (f : Group → Group) : (modGroup s t g f).grids = s.grids := rfl
@[simp] theorem modGroup_launches (s : State) (t g : Nat) (f : Group → Group) : (modGroup s t g f).launches = s.launches := rfl
@[simp] theorem modGroup_slots (s : State) (t g : Nat) (f : Group → Group) : (modGroup s t g f).slots = s.slots := rfl
@[simp] theorem modGroup_ageing (s : State) (t g : Nat) (f : Group → Group) : (modGroup s t g f).ageing = s.ageing := rfl
@[simp] theorem modGroup_fused (s : State) (t g : Nat) (f : Group → Group) : (modGroup s t g f).fused = s.fused := rfl
@[simp] theorem modGroup_stamps (s : State) (t g : Nat) (f : Group → Group) : (modGroup s t g f).stamps = s.stamps := rfl
@[simp] theorem modGroup_mem (s : State) (t g : Nat) (f : Group → Group) : (modGroup s t g f).mem = s.mem := rfl
@[simp] theorem modGroup_hostMem (s : State) (t g : Nat) (f : Group → Group) : (modGroup s t g f).hostMem = s.hostMem := rfl
@[simp] theorem modGroup_scratch (s : State) (t g : Nat) (f : Group → Group) : (modGroup s t g f).scratch = s.scratch := rfl
@[simp] theorem modGroup_banks (s : State) (t g : Nat) (f : Group → Group) : (modGroup s t g f).banks = s.banks := rfl
@[simp] theorem modGroup_lines (s : State) (t g : Nat) (f : Group → Group) : (modGroup s t g f).lines = s.lines := rfl
@[simp] theorem modGroup_seals (s : State) (t g : Nat) (f : Group → Group) : (modGroup s t g f).seals = s.seals := rfl
@[simp] theorem modGroup_dirty (s : State) (t g : Nat) (f : Group → Group) : (modGroup s t g f).dirty = s.dirty := rfl
@[simp] theorem modGroup_waiting (s : State) (t g : Nat) (f : Group → Group) : (modGroup s t g f).waiting = s.waiting := rfl
@[simp] theorem modGroup_gate (s : State) (t g : Nat) (f : Group → Group) : (modGroup s t g f).gate = s.gate := rfl
@[simp] theorem modGroup_leases (s : State) (t g : Nat) (f : Group → Group) : (modGroup s t g f).leases = s.leases := rfl
@[simp] theorem modGroup_constCache (s : State) (t g : Nat) (f : Group → Group) : (modGroup s t g f).constCache = s.constCache := rfl
@[simp] theorem modGroup_tlb (s : State) (t g : Nat) (f : Group → Group) : (modGroup s t g f).tlb = s.tlb := rfl
@[simp] theorem modGroup_walkCache (s : State) (t g : Nat) (f : Group → Group) : (modGroup s t g f).walkCache = s.walkCache := rfl
@[simp] theorem modGroup_locks (s : State) (t g : Nat) (f : Group → Group) : (modGroup s t g f).locks = s.locks := rfl
@[simp] theorem modGroup_pins (s : State) (t g : Nat) (f : Group → Group) : (modGroup s t g f).pins = s.pins := rfl
@[simp] theorem modGroup_versions (s : State) (t g : Nat) (f : Group → Group) : (modGroup s t g f).versions = s.versions := rfl
@[simp] theorem modGroup_views (s : State) (t g : Nat) (f : Group → Group) : (modGroup s t g f).views = s.views := rfl
@[simp] theorem modGroup_commits (s : State) (t g : Nat) (f : Group → Group) : (modGroup s t g f).commits = s.commits := rfl
@[simp] theorem modGroup_sets (s : State) (t g : Nat) (f : Group → Group) : (modGroup s t g f).sets = s.sets := rfl
@[simp] theorem modGroup_holds (s : State) (t g : Nat) (f : Group → Group) : (modGroup s t g f).holds = s.holds := rfl
@[simp] theorem modGroup_waiters (s : State) (t g : Nat) (f : Group → Group) : (modGroup s t g f).waiters = s.waiters := rfl
@[simp] theorem modGroup_families (s : State) (t g : Nat) (f : Group → Group) : (modGroup s t g f).families = s.families := rfl
@[simp] theorem modGroup_forks (s : State) (t g : Nat) (f : Group → Group) : (modGroup s t g f).forks = s.forks := rfl
@[simp] theorem modGroup_deferred (s : State) (t g : Nat) (f : Group → Group) : (modGroup s t g f).deferred = s.deferred := rfl
@[simp] theorem modGroup_engines (s : State) (t g : Nat) (f : Group → Group) : (modGroup s t g f).engines = s.engines := rfl
@[simp] theorem modGroup_penUpdates (s : State) (t g : Nat) (f : Group → Group) : (modGroup s t g f).penUpdates = s.penUpdates := rfl
@[simp] theorem modGroup_bulk (s : State) (t g : Nat) (f : Group → Group) : (modGroup s t g f).bulk = s.bulk := rfl
@[simp] theorem modGroup_troughs (s : State) (t g : Nat) (f : Group → Group) : (modGroup s t g f).troughs = s.troughs := rfl
@[simp] theorem modGroup_matrix (s : State) (t g : Nat) (f : Group → Group) : (modGroup s t g f).matrix = s.matrix := rfl
@[simp] theorem modGroup_tiles (s : State) (t g : Nat) (f : Group → Group) : (modGroup s t g f).tiles = s.tiles := rfl
@[simp] theorem modGroup_logged (s : State) (t g : Nat) (f : Group → Group) : (modGroup s t g f).logged = s.logged := rfl
@[simp] theorem modGroup_partIf (s : State) (t g : Nat) (f : Group → Group) : (modGroup s t g f).partIf = s.partIf := rfl
@[simp] theorem modGroup_partitions (s : State) (t g : Nat) (f : Group → Group) : (modGroup s t g f).partitions = s.partitions := rfl
@[simp] theorem modGroup_engLeases (s : State) (t g : Nat) (f : Group → Group) : (modGroup s t g f).engLeases = s.engLeases := rfl
@[simp] theorem modGroup_pavIf (s : State) (t g : Nat) (f : Group → Group) : (modGroup s t g f).pavIf = s.pavIf := rfl
@[simp] theorem modGroup_pavilions (s : State) (t g : Nat) (f : Group → Group) : (modGroup s t g f).pavilions = s.pavilions := rfl
@[simp] theorem modGroup_rotation (s : State) (t g : Nat) (f : Group → Group) : (modGroup s t g f).rotation = s.rotation := rfl
@[simp] theorem modGroup_frames (s : State) (t g : Nat) (f : Group → Group) : (modGroup s t g f).frames = s.frames := rfl
@[simp] theorem modGroup_trust (s : State) (t g : Nat) (f : Group → Group) : (modGroup s t g f).trust = s.trust := rfl
@[simp] theorem modGroup_observe (s : State) (t g : Nat) (f : Group → Group) : (modGroup s t g f).observe = s.observe := rfl

/-! ### modThread -/

@[simp] theorem modThread_time (s : State) (t : Tid) (f : Thread → Thread) : (modThread s t f).time = s.time := rfl
@[simp] theorem modThread_agenda (s : State) (t : Tid) (f : Thread → Thread) : (modThread s t f).agenda = s.agenda := rfl
@[simp] theorem modThread_cur (s : State) (t : Tid) (f : Thread → Thread) : (modThread s t f).cur = s.cur := rfl
@[simp] theorem modThread_fresh (s : State) (t : Tid) (f : Thread → Thread) : (modThread s t f).fresh = s.fresh := rfl
@[simp] theorem modThread_nextId (s : State) (t : Tid) (f : Thread → Thread) : (modThread s t f).nextId = s.nextId := rfl
@[simp] theorem modThread_islands (s : State) (t : Tid) (f : Thread → Thread) : (modThread s t f).islands = s.islands := rfl
@[simp] theorem modThread_powerLimit (s : State) (t : Tid) (f : Thread → Thread) : (modThread s t f).powerLimit = s.powerLimit := rfl
@[simp] theorem modThread_gateStatus (s : State) (t : Tid) (f : Thread → Thread) : (modThread s t f).gateStatus = s.gateStatus := rfl
@[simp] theorem modThread_links (s : State) (t : Tid) (f : Thread → Thread) : (modThread s t f).links = s.links := rfl
@[simp] theorem modThread_mailbox (s : State) (t : Tid) (f : Thread → Thread) : (modThread s t f).mailbox = s.mailbox := rfl
@[simp] theorem modThread_host (s : State) (t : Tid) (f : Thread → Thread) : (modThread s t f).host = s.host := rfl
@[simp] theorem modThread_contexts (s : State) (t : Tid) (f : Thread → Thread) : (modThread s t f).contexts = s.contexts := rfl
@[simp] theorem modThread_launchSeq (s : State) (t : Tid) (f : Thread → Thread) : (modThread s t f).launchSeq = s.launchSeq := rfl
@[simp] theorem modThread_grids (s : State) (t : Tid) (f : Thread → Thread) : (modThread s t f).grids = s.grids := rfl
@[simp] theorem modThread_launches (s : State) (t : Tid) (f : Thread → Thread) : (modThread s t f).launches = s.launches := rfl
@[simp] theorem modThread_slots (s : State) (t : Tid) (f : Thread → Thread) : (modThread s t f).slots = s.slots := rfl
@[simp] theorem modThread_ageing (s : State) (t : Tid) (f : Thread → Thread) : (modThread s t f).ageing = s.ageing := rfl
@[simp] theorem modThread_fused (s : State) (t : Tid) (f : Thread → Thread) : (modThread s t f).fused = s.fused := rfl
@[simp] theorem modThread_stamps (s : State) (t : Tid) (f : Thread → Thread) : (modThread s t f).stamps = s.stamps := rfl
@[simp] theorem modThread_mem (s : State) (t : Tid) (f : Thread → Thread) : (modThread s t f).mem = s.mem := rfl
@[simp] theorem modThread_hostMem (s : State) (t : Tid) (f : Thread → Thread) : (modThread s t f).hostMem = s.hostMem := rfl
@[simp] theorem modThread_scratch (s : State) (t : Tid) (f : Thread → Thread) : (modThread s t f).scratch = s.scratch := rfl
@[simp] theorem modThread_banks (s : State) (t : Tid) (f : Thread → Thread) : (modThread s t f).banks = s.banks := rfl
@[simp] theorem modThread_lines (s : State) (t : Tid) (f : Thread → Thread) : (modThread s t f).lines = s.lines := rfl
@[simp] theorem modThread_seals (s : State) (t : Tid) (f : Thread → Thread) : (modThread s t f).seals = s.seals := rfl
@[simp] theorem modThread_dirty (s : State) (t : Tid) (f : Thread → Thread) : (modThread s t f).dirty = s.dirty := rfl
@[simp] theorem modThread_waiting (s : State) (t : Tid) (f : Thread → Thread) : (modThread s t f).waiting = s.waiting := rfl
@[simp] theorem modThread_gate (s : State) (t : Tid) (f : Thread → Thread) : (modThread s t f).gate = s.gate := rfl
@[simp] theorem modThread_leases (s : State) (t : Tid) (f : Thread → Thread) : (modThread s t f).leases = s.leases := rfl
@[simp] theorem modThread_constCache (s : State) (t : Tid) (f : Thread → Thread) : (modThread s t f).constCache = s.constCache := rfl
@[simp] theorem modThread_tlb (s : State) (t : Tid) (f : Thread → Thread) : (modThread s t f).tlb = s.tlb := rfl
@[simp] theorem modThread_walkCache (s : State) (t : Tid) (f : Thread → Thread) : (modThread s t f).walkCache = s.walkCache := rfl
@[simp] theorem modThread_locks (s : State) (t : Tid) (f : Thread → Thread) : (modThread s t f).locks = s.locks := rfl
@[simp] theorem modThread_pins (s : State) (t : Tid) (f : Thread → Thread) : (modThread s t f).pins = s.pins := rfl
@[simp] theorem modThread_versions (s : State) (t : Tid) (f : Thread → Thread) : (modThread s t f).versions = s.versions := rfl
@[simp] theorem modThread_views (s : State) (t : Tid) (f : Thread → Thread) : (modThread s t f).views = s.views := rfl
@[simp] theorem modThread_commits (s : State) (t : Tid) (f : Thread → Thread) : (modThread s t f).commits = s.commits := rfl
@[simp] theorem modThread_sets (s : State) (t : Tid) (f : Thread → Thread) : (modThread s t f).sets = s.sets := rfl
@[simp] theorem modThread_holds (s : State) (t : Tid) (f : Thread → Thread) : (modThread s t f).holds = s.holds := rfl
@[simp] theorem modThread_waiters (s : State) (t : Tid) (f : Thread → Thread) : (modThread s t f).waiters = s.waiters := rfl
@[simp] theorem modThread_families (s : State) (t : Tid) (f : Thread → Thread) : (modThread s t f).families = s.families := rfl
@[simp] theorem modThread_forks (s : State) (t : Tid) (f : Thread → Thread) : (modThread s t f).forks = s.forks := rfl
@[simp] theorem modThread_deferred (s : State) (t : Tid) (f : Thread → Thread) : (modThread s t f).deferred = s.deferred := rfl
@[simp] theorem modThread_engines (s : State) (t : Tid) (f : Thread → Thread) : (modThread s t f).engines = s.engines := rfl
@[simp] theorem modThread_penUpdates (s : State) (t : Tid) (f : Thread → Thread) : (modThread s t f).penUpdates = s.penUpdates := rfl
@[simp] theorem modThread_bulk (s : State) (t : Tid) (f : Thread → Thread) : (modThread s t f).bulk = s.bulk := rfl
@[simp] theorem modThread_troughs (s : State) (t : Tid) (f : Thread → Thread) : (modThread s t f).troughs = s.troughs := rfl
@[simp] theorem modThread_matrix (s : State) (t : Tid) (f : Thread → Thread) : (modThread s t f).matrix = s.matrix := rfl
@[simp] theorem modThread_tiles (s : State) (t : Tid) (f : Thread → Thread) : (modThread s t f).tiles = s.tiles := rfl
@[simp] theorem modThread_logged (s : State) (t : Tid) (f : Thread → Thread) : (modThread s t f).logged = s.logged := rfl
@[simp] theorem modThread_partIf (s : State) (t : Tid) (f : Thread → Thread) : (modThread s t f).partIf = s.partIf := rfl
@[simp] theorem modThread_partitions (s : State) (t : Tid) (f : Thread → Thread) : (modThread s t f).partitions = s.partitions := rfl
@[simp] theorem modThread_engLeases (s : State) (t : Tid) (f : Thread → Thread) : (modThread s t f).engLeases = s.engLeases := rfl
@[simp] theorem modThread_pavIf (s : State) (t : Tid) (f : Thread → Thread) : (modThread s t f).pavIf = s.pavIf := rfl
@[simp] theorem modThread_pavilions (s : State) (t : Tid) (f : Thread → Thread) : (modThread s t f).pavilions = s.pavilions := rfl
@[simp] theorem modThread_rotation (s : State) (t : Tid) (f : Thread → Thread) : (modThread s t f).rotation = s.rotation := rfl
@[simp] theorem modThread_frames (s : State) (t : Tid) (f : Thread → Thread) : (modThread s t f).frames = s.frames := rfl
@[simp] theorem modThread_trust (s : State) (t : Tid) (f : Thread → Thread) : (modThread s t f).trust = s.trust := rfl
@[simp] theorem modThread_observe (s : State) (t : Tid) (f : Thread → Thread) : (modThread s t f).observe = s.observe := rfl

/-! ### modGrid -/

@[simp] theorem modGrid_time (s : State) (id : Nat) (f : Grid → Grid) : (modGrid s id f).time = s.time := rfl
@[simp] theorem modGrid_agenda (s : State) (id : Nat) (f : Grid → Grid) : (modGrid s id f).agenda = s.agenda := rfl
@[simp] theorem modGrid_cur (s : State) (id : Nat) (f : Grid → Grid) : (modGrid s id f).cur = s.cur := rfl
@[simp] theorem modGrid_fresh (s : State) (id : Nat) (f : Grid → Grid) : (modGrid s id f).fresh = s.fresh := rfl
@[simp] theorem modGrid_nextId (s : State) (id : Nat) (f : Grid → Grid) : (modGrid s id f).nextId = s.nextId := rfl
@[simp] theorem modGrid_islands (s : State) (id : Nat) (f : Grid → Grid) : (modGrid s id f).islands = s.islands := rfl
@[simp] theorem modGrid_powerLimit (s : State) (id : Nat) (f : Grid → Grid) : (modGrid s id f).powerLimit = s.powerLimit := rfl
@[simp] theorem modGrid_gateStatus (s : State) (id : Nat) (f : Grid → Grid) : (modGrid s id f).gateStatus = s.gateStatus := rfl
@[simp] theorem modGrid_links (s : State) (id : Nat) (f : Grid → Grid) : (modGrid s id f).links = s.links := rfl
@[simp] theorem modGrid_mailbox (s : State) (id : Nat) (f : Grid → Grid) : (modGrid s id f).mailbox = s.mailbox := rfl
@[simp] theorem modGrid_host (s : State) (id : Nat) (f : Grid → Grid) : (modGrid s id f).host = s.host := rfl
@[simp] theorem modGrid_contexts (s : State) (id : Nat) (f : Grid → Grid) : (modGrid s id f).contexts = s.contexts := rfl
@[simp] theorem modGrid_launchSeq (s : State) (id : Nat) (f : Grid → Grid) : (modGrid s id f).launchSeq = s.launchSeq := rfl
@[simp] theorem modGrid_launches (s : State) (id : Nat) (f : Grid → Grid) : (modGrid s id f).launches = s.launches := rfl
@[simp] theorem modGrid_teams (s : State) (id : Nat) (f : Grid → Grid) : (modGrid s id f).teams = s.teams := rfl
@[simp] theorem modGrid_slots (s : State) (id : Nat) (f : Grid → Grid) : (modGrid s id f).slots = s.slots := rfl
@[simp] theorem modGrid_ageing (s : State) (id : Nat) (f : Grid → Grid) : (modGrid s id f).ageing = s.ageing := rfl
@[simp] theorem modGrid_fused (s : State) (id : Nat) (f : Grid → Grid) : (modGrid s id f).fused = s.fused := rfl
@[simp] theorem modGrid_stamps (s : State) (id : Nat) (f : Grid → Grid) : (modGrid s id f).stamps = s.stamps := rfl
@[simp] theorem modGrid_mem (s : State) (id : Nat) (f : Grid → Grid) : (modGrid s id f).mem = s.mem := rfl
@[simp] theorem modGrid_hostMem (s : State) (id : Nat) (f : Grid → Grid) : (modGrid s id f).hostMem = s.hostMem := rfl
@[simp] theorem modGrid_scratch (s : State) (id : Nat) (f : Grid → Grid) : (modGrid s id f).scratch = s.scratch := rfl
@[simp] theorem modGrid_banks (s : State) (id : Nat) (f : Grid → Grid) : (modGrid s id f).banks = s.banks := rfl
@[simp] theorem modGrid_lines (s : State) (id : Nat) (f : Grid → Grid) : (modGrid s id f).lines = s.lines := rfl
@[simp] theorem modGrid_seals (s : State) (id : Nat) (f : Grid → Grid) : (modGrid s id f).seals = s.seals := rfl
@[simp] theorem modGrid_dirty (s : State) (id : Nat) (f : Grid → Grid) : (modGrid s id f).dirty = s.dirty := rfl
@[simp] theorem modGrid_waiting (s : State) (id : Nat) (f : Grid → Grid) : (modGrid s id f).waiting = s.waiting := rfl
@[simp] theorem modGrid_gate (s : State) (id : Nat) (f : Grid → Grid) : (modGrid s id f).gate = s.gate := rfl
@[simp] theorem modGrid_leases (s : State) (id : Nat) (f : Grid → Grid) : (modGrid s id f).leases = s.leases := rfl
@[simp] theorem modGrid_constCache (s : State) (id : Nat) (f : Grid → Grid) : (modGrid s id f).constCache = s.constCache := rfl
@[simp] theorem modGrid_tlb (s : State) (id : Nat) (f : Grid → Grid) : (modGrid s id f).tlb = s.tlb := rfl
@[simp] theorem modGrid_walkCache (s : State) (id : Nat) (f : Grid → Grid) : (modGrid s id f).walkCache = s.walkCache := rfl
@[simp] theorem modGrid_locks (s : State) (id : Nat) (f : Grid → Grid) : (modGrid s id f).locks = s.locks := rfl
@[simp] theorem modGrid_pins (s : State) (id : Nat) (f : Grid → Grid) : (modGrid s id f).pins = s.pins := rfl
@[simp] theorem modGrid_versions (s : State) (id : Nat) (f : Grid → Grid) : (modGrid s id f).versions = s.versions := rfl
@[simp] theorem modGrid_views (s : State) (id : Nat) (f : Grid → Grid) : (modGrid s id f).views = s.views := rfl
@[simp] theorem modGrid_commits (s : State) (id : Nat) (f : Grid → Grid) : (modGrid s id f).commits = s.commits := rfl
@[simp] theorem modGrid_sets (s : State) (id : Nat) (f : Grid → Grid) : (modGrid s id f).sets = s.sets := rfl
@[simp] theorem modGrid_holds (s : State) (id : Nat) (f : Grid → Grid) : (modGrid s id f).holds = s.holds := rfl
@[simp] theorem modGrid_waiters (s : State) (id : Nat) (f : Grid → Grid) : (modGrid s id f).waiters = s.waiters := rfl
@[simp] theorem modGrid_families (s : State) (id : Nat) (f : Grid → Grid) : (modGrid s id f).families = s.families := rfl
@[simp] theorem modGrid_forks (s : State) (id : Nat) (f : Grid → Grid) : (modGrid s id f).forks = s.forks := rfl
@[simp] theorem modGrid_deferred (s : State) (id : Nat) (f : Grid → Grid) : (modGrid s id f).deferred = s.deferred := rfl
@[simp] theorem modGrid_engines (s : State) (id : Nat) (f : Grid → Grid) : (modGrid s id f).engines = s.engines := rfl
@[simp] theorem modGrid_penUpdates (s : State) (id : Nat) (f : Grid → Grid) : (modGrid s id f).penUpdates = s.penUpdates := rfl
@[simp] theorem modGrid_bulk (s : State) (id : Nat) (f : Grid → Grid) : (modGrid s id f).bulk = s.bulk := rfl
@[simp] theorem modGrid_troughs (s : State) (id : Nat) (f : Grid → Grid) : (modGrid s id f).troughs = s.troughs := rfl
@[simp] theorem modGrid_matrix (s : State) (id : Nat) (f : Grid → Grid) : (modGrid s id f).matrix = s.matrix := rfl
@[simp] theorem modGrid_tiles (s : State) (id : Nat) (f : Grid → Grid) : (modGrid s id f).tiles = s.tiles := rfl
@[simp] theorem modGrid_logged (s : State) (id : Nat) (f : Grid → Grid) : (modGrid s id f).logged = s.logged := rfl
@[simp] theorem modGrid_partIf (s : State) (id : Nat) (f : Grid → Grid) : (modGrid s id f).partIf = s.partIf := rfl
@[simp] theorem modGrid_partitions (s : State) (id : Nat) (f : Grid → Grid) : (modGrid s id f).partitions = s.partitions := rfl
@[simp] theorem modGrid_engLeases (s : State) (id : Nat) (f : Grid → Grid) : (modGrid s id f).engLeases = s.engLeases := rfl
@[simp] theorem modGrid_pavIf (s : State) (id : Nat) (f : Grid → Grid) : (modGrid s id f).pavIf = s.pavIf := rfl
@[simp] theorem modGrid_pavilions (s : State) (id : Nat) (f : Grid → Grid) : (modGrid s id f).pavilions = s.pavilions := rfl
@[simp] theorem modGrid_rotation (s : State) (id : Nat) (f : Grid → Grid) : (modGrid s id f).rotation = s.rotation := rfl
@[simp] theorem modGrid_frames (s : State) (id : Nat) (f : Grid → Grid) : (modGrid s id f).frames = s.frames := rfl
@[simp] theorem modGrid_trust (s : State) (id : Nat) (f : Grid → Grid) : (modGrid s id f).trust = s.trust := rfl
@[simp] theorem modGrid_observe (s : State) (id : Nat) (f : Grid → Grid) : (modGrid s id f).observe = s.observe := rfl

/-! ### modCtx -/

@[simp] theorem modCtx_time (s : State) (id : Nat) (f : Context → Context) : (modCtx s id f).time = s.time := rfl
@[simp] theorem modCtx_agenda (s : State) (id : Nat) (f : Context → Context) : (modCtx s id f).agenda = s.agenda := rfl
@[simp] theorem modCtx_cur (s : State) (id : Nat) (f : Context → Context) : (modCtx s id f).cur = s.cur := rfl
@[simp] theorem modCtx_fresh (s : State) (id : Nat) (f : Context → Context) : (modCtx s id f).fresh = s.fresh := rfl
@[simp] theorem modCtx_nextId (s : State) (id : Nat) (f : Context → Context) : (modCtx s id f).nextId = s.nextId := rfl
@[simp] theorem modCtx_islands (s : State) (id : Nat) (f : Context → Context) : (modCtx s id f).islands = s.islands := rfl
@[simp] theorem modCtx_powerLimit (s : State) (id : Nat) (f : Context → Context) : (modCtx s id f).powerLimit = s.powerLimit := rfl
@[simp] theorem modCtx_gateStatus (s : State) (id : Nat) (f : Context → Context) : (modCtx s id f).gateStatus = s.gateStatus := rfl
@[simp] theorem modCtx_links (s : State) (id : Nat) (f : Context → Context) : (modCtx s id f).links = s.links := rfl
@[simp] theorem modCtx_mailbox (s : State) (id : Nat) (f : Context → Context) : (modCtx s id f).mailbox = s.mailbox := rfl
@[simp] theorem modCtx_host (s : State) (id : Nat) (f : Context → Context) : (modCtx s id f).host = s.host := rfl
@[simp] theorem modCtx_launchSeq (s : State) (id : Nat) (f : Context → Context) : (modCtx s id f).launchSeq = s.launchSeq := rfl
@[simp] theorem modCtx_grids (s : State) (id : Nat) (f : Context → Context) : (modCtx s id f).grids = s.grids := rfl
@[simp] theorem modCtx_launches (s : State) (id : Nat) (f : Context → Context) : (modCtx s id f).launches = s.launches := rfl
@[simp] theorem modCtx_teams (s : State) (id : Nat) (f : Context → Context) : (modCtx s id f).teams = s.teams := rfl
@[simp] theorem modCtx_slots (s : State) (id : Nat) (f : Context → Context) : (modCtx s id f).slots = s.slots := rfl
@[simp] theorem modCtx_ageing (s : State) (id : Nat) (f : Context → Context) : (modCtx s id f).ageing = s.ageing := rfl
@[simp] theorem modCtx_fused (s : State) (id : Nat) (f : Context → Context) : (modCtx s id f).fused = s.fused := rfl
@[simp] theorem modCtx_stamps (s : State) (id : Nat) (f : Context → Context) : (modCtx s id f).stamps = s.stamps := rfl
@[simp] theorem modCtx_mem (s : State) (id : Nat) (f : Context → Context) : (modCtx s id f).mem = s.mem := rfl
@[simp] theorem modCtx_hostMem (s : State) (id : Nat) (f : Context → Context) : (modCtx s id f).hostMem = s.hostMem := rfl
@[simp] theorem modCtx_scratch (s : State) (id : Nat) (f : Context → Context) : (modCtx s id f).scratch = s.scratch := rfl
@[simp] theorem modCtx_banks (s : State) (id : Nat) (f : Context → Context) : (modCtx s id f).banks = s.banks := rfl
@[simp] theorem modCtx_lines (s : State) (id : Nat) (f : Context → Context) : (modCtx s id f).lines = s.lines := rfl
@[simp] theorem modCtx_seals (s : State) (id : Nat) (f : Context → Context) : (modCtx s id f).seals = s.seals := rfl
@[simp] theorem modCtx_dirty (s : State) (id : Nat) (f : Context → Context) : (modCtx s id f).dirty = s.dirty := rfl
@[simp] theorem modCtx_waiting (s : State) (id : Nat) (f : Context → Context) : (modCtx s id f).waiting = s.waiting := rfl
@[simp] theorem modCtx_gate (s : State) (id : Nat) (f : Context → Context) : (modCtx s id f).gate = s.gate := rfl
@[simp] theorem modCtx_leases (s : State) (id : Nat) (f : Context → Context) : (modCtx s id f).leases = s.leases := rfl
@[simp] theorem modCtx_constCache (s : State) (id : Nat) (f : Context → Context) : (modCtx s id f).constCache = s.constCache := rfl
@[simp] theorem modCtx_tlb (s : State) (id : Nat) (f : Context → Context) : (modCtx s id f).tlb = s.tlb := rfl
@[simp] theorem modCtx_walkCache (s : State) (id : Nat) (f : Context → Context) : (modCtx s id f).walkCache = s.walkCache := rfl
@[simp] theorem modCtx_locks (s : State) (id : Nat) (f : Context → Context) : (modCtx s id f).locks = s.locks := rfl
@[simp] theorem modCtx_pins (s : State) (id : Nat) (f : Context → Context) : (modCtx s id f).pins = s.pins := rfl
@[simp] theorem modCtx_versions (s : State) (id : Nat) (f : Context → Context) : (modCtx s id f).versions = s.versions := rfl
@[simp] theorem modCtx_views (s : State) (id : Nat) (f : Context → Context) : (modCtx s id f).views = s.views := rfl
@[simp] theorem modCtx_commits (s : State) (id : Nat) (f : Context → Context) : (modCtx s id f).commits = s.commits := rfl
@[simp] theorem modCtx_sets (s : State) (id : Nat) (f : Context → Context) : (modCtx s id f).sets = s.sets := rfl
@[simp] theorem modCtx_holds (s : State) (id : Nat) (f : Context → Context) : (modCtx s id f).holds = s.holds := rfl
@[simp] theorem modCtx_waiters (s : State) (id : Nat) (f : Context → Context) : (modCtx s id f).waiters = s.waiters := rfl
@[simp] theorem modCtx_families (s : State) (id : Nat) (f : Context → Context) : (modCtx s id f).families = s.families := rfl
@[simp] theorem modCtx_forks (s : State) (id : Nat) (f : Context → Context) : (modCtx s id f).forks = s.forks := rfl
@[simp] theorem modCtx_deferred (s : State) (id : Nat) (f : Context → Context) : (modCtx s id f).deferred = s.deferred := rfl
@[simp] theorem modCtx_engines (s : State) (id : Nat) (f : Context → Context) : (modCtx s id f).engines = s.engines := rfl
@[simp] theorem modCtx_penUpdates (s : State) (id : Nat) (f : Context → Context) : (modCtx s id f).penUpdates = s.penUpdates := rfl
@[simp] theorem modCtx_bulk (s : State) (id : Nat) (f : Context → Context) : (modCtx s id f).bulk = s.bulk := rfl
@[simp] theorem modCtx_troughs (s : State) (id : Nat) (f : Context → Context) : (modCtx s id f).troughs = s.troughs := rfl
@[simp] theorem modCtx_matrix (s : State) (id : Nat) (f : Context → Context) : (modCtx s id f).matrix = s.matrix := rfl
@[simp] theorem modCtx_tiles (s : State) (id : Nat) (f : Context → Context) : (modCtx s id f).tiles = s.tiles := rfl
@[simp] theorem modCtx_logged (s : State) (id : Nat) (f : Context → Context) : (modCtx s id f).logged = s.logged := rfl
@[simp] theorem modCtx_partIf (s : State) (id : Nat) (f : Context → Context) : (modCtx s id f).partIf = s.partIf := rfl
@[simp] theorem modCtx_partitions (s : State) (id : Nat) (f : Context → Context) : (modCtx s id f).partitions = s.partitions := rfl
@[simp] theorem modCtx_engLeases (s : State) (id : Nat) (f : Context → Context) : (modCtx s id f).engLeases = s.engLeases := rfl
@[simp] theorem modCtx_pavIf (s : State) (id : Nat) (f : Context → Context) : (modCtx s id f).pavIf = s.pavIf := rfl
@[simp] theorem modCtx_pavilions (s : State) (id : Nat) (f : Context → Context) : (modCtx s id f).pavilions = s.pavilions := rfl
@[simp] theorem modCtx_rotation (s : State) (id : Nat) (f : Context → Context) : (modCtx s id f).rotation = s.rotation := rfl
@[simp] theorem modCtx_frames (s : State) (id : Nat) (f : Context → Context) : (modCtx s id f).frames = s.frames := rfl
@[simp] theorem modCtx_trust (s : State) (id : Nat) (f : Context → Context) : (modCtx s id f).trust = s.trust := rfl
@[simp] theorem modCtx_observe (s : State) (id : Nat) (f : Context → Context) : (modCtx s id f).observe = s.observe := rfl

/-! ### modSlot -/

@[simp] theorem modSlot_time (s : State) (k : Nat) (f : Slot → Slot) : (modSlot s k f).time = s.time := rfl
@[simp] theorem modSlot_agenda (s : State) (k : Nat) (f : Slot → Slot) : (modSlot s k f).agenda = s.agenda := rfl
@[simp] theorem modSlot_cur (s : State) (k : Nat) (f : Slot → Slot) : (modSlot s k f).cur = s.cur := rfl
@[simp] theorem modSlot_fresh (s : State) (k : Nat) (f : Slot → Slot) : (modSlot s k f).fresh = s.fresh := rfl
@[simp] theorem modSlot_nextId (s : State) (k : Nat) (f : Slot → Slot) : (modSlot s k f).nextId = s.nextId := rfl
@[simp] theorem modSlot_islands (s : State) (k : Nat) (f : Slot → Slot) : (modSlot s k f).islands = s.islands := rfl
@[simp] theorem modSlot_powerLimit (s : State) (k : Nat) (f : Slot → Slot) : (modSlot s k f).powerLimit = s.powerLimit := rfl
@[simp] theorem modSlot_gateStatus (s : State) (k : Nat) (f : Slot → Slot) : (modSlot s k f).gateStatus = s.gateStatus := rfl
@[simp] theorem modSlot_links (s : State) (k : Nat) (f : Slot → Slot) : (modSlot s k f).links = s.links := rfl
@[simp] theorem modSlot_mailbox (s : State) (k : Nat) (f : Slot → Slot) : (modSlot s k f).mailbox = s.mailbox := rfl
@[simp] theorem modSlot_host (s : State) (k : Nat) (f : Slot → Slot) : (modSlot s k f).host = s.host := rfl
@[simp] theorem modSlot_contexts (s : State) (k : Nat) (f : Slot → Slot) : (modSlot s k f).contexts = s.contexts := rfl
@[simp] theorem modSlot_launchSeq (s : State) (k : Nat) (f : Slot → Slot) : (modSlot s k f).launchSeq = s.launchSeq := rfl
@[simp] theorem modSlot_grids (s : State) (k : Nat) (f : Slot → Slot) : (modSlot s k f).grids = s.grids := rfl
@[simp] theorem modSlot_launches (s : State) (k : Nat) (f : Slot → Slot) : (modSlot s k f).launches = s.launches := rfl
@[simp] theorem modSlot_teams (s : State) (k : Nat) (f : Slot → Slot) : (modSlot s k f).teams = s.teams := rfl
@[simp] theorem modSlot_ageing (s : State) (k : Nat) (f : Slot → Slot) : (modSlot s k f).ageing = s.ageing := rfl
@[simp] theorem modSlot_fused (s : State) (k : Nat) (f : Slot → Slot) : (modSlot s k f).fused = s.fused := rfl
@[simp] theorem modSlot_stamps (s : State) (k : Nat) (f : Slot → Slot) : (modSlot s k f).stamps = s.stamps := rfl
@[simp] theorem modSlot_mem (s : State) (k : Nat) (f : Slot → Slot) : (modSlot s k f).mem = s.mem := rfl
@[simp] theorem modSlot_hostMem (s : State) (k : Nat) (f : Slot → Slot) : (modSlot s k f).hostMem = s.hostMem := rfl
@[simp] theorem modSlot_scratch (s : State) (k : Nat) (f : Slot → Slot) : (modSlot s k f).scratch = s.scratch := rfl
@[simp] theorem modSlot_banks (s : State) (k : Nat) (f : Slot → Slot) : (modSlot s k f).banks = s.banks := rfl
@[simp] theorem modSlot_lines (s : State) (k : Nat) (f : Slot → Slot) : (modSlot s k f).lines = s.lines := rfl
@[simp] theorem modSlot_seals (s : State) (k : Nat) (f : Slot → Slot) : (modSlot s k f).seals = s.seals := rfl
@[simp] theorem modSlot_dirty (s : State) (k : Nat) (f : Slot → Slot) : (modSlot s k f).dirty = s.dirty := rfl
@[simp] theorem modSlot_waiting (s : State) (k : Nat) (f : Slot → Slot) : (modSlot s k f).waiting = s.waiting := rfl
@[simp] theorem modSlot_gate (s : State) (k : Nat) (f : Slot → Slot) : (modSlot s k f).gate = s.gate := rfl
@[simp] theorem modSlot_leases (s : State) (k : Nat) (f : Slot → Slot) : (modSlot s k f).leases = s.leases := rfl
@[simp] theorem modSlot_constCache (s : State) (k : Nat) (f : Slot → Slot) : (modSlot s k f).constCache = s.constCache := rfl
@[simp] theorem modSlot_tlb (s : State) (k : Nat) (f : Slot → Slot) : (modSlot s k f).tlb = s.tlb := rfl
@[simp] theorem modSlot_walkCache (s : State) (k : Nat) (f : Slot → Slot) : (modSlot s k f).walkCache = s.walkCache := rfl
@[simp] theorem modSlot_locks (s : State) (k : Nat) (f : Slot → Slot) : (modSlot s k f).locks = s.locks := rfl
@[simp] theorem modSlot_pins (s : State) (k : Nat) (f : Slot → Slot) : (modSlot s k f).pins = s.pins := rfl
@[simp] theorem modSlot_versions (s : State) (k : Nat) (f : Slot → Slot) : (modSlot s k f).versions = s.versions := rfl
@[simp] theorem modSlot_views (s : State) (k : Nat) (f : Slot → Slot) : (modSlot s k f).views = s.views := rfl
@[simp] theorem modSlot_commits (s : State) (k : Nat) (f : Slot → Slot) : (modSlot s k f).commits = s.commits := rfl
@[simp] theorem modSlot_sets (s : State) (k : Nat) (f : Slot → Slot) : (modSlot s k f).sets = s.sets := rfl
@[simp] theorem modSlot_holds (s : State) (k : Nat) (f : Slot → Slot) : (modSlot s k f).holds = s.holds := rfl
@[simp] theorem modSlot_waiters (s : State) (k : Nat) (f : Slot → Slot) : (modSlot s k f).waiters = s.waiters := rfl
@[simp] theorem modSlot_families (s : State) (k : Nat) (f : Slot → Slot) : (modSlot s k f).families = s.families := rfl
@[simp] theorem modSlot_forks (s : State) (k : Nat) (f : Slot → Slot) : (modSlot s k f).forks = s.forks := rfl
@[simp] theorem modSlot_deferred (s : State) (k : Nat) (f : Slot → Slot) : (modSlot s k f).deferred = s.deferred := rfl
@[simp] theorem modSlot_engines (s : State) (k : Nat) (f : Slot → Slot) : (modSlot s k f).engines = s.engines := rfl
@[simp] theorem modSlot_penUpdates (s : State) (k : Nat) (f : Slot → Slot) : (modSlot s k f).penUpdates = s.penUpdates := rfl
@[simp] theorem modSlot_bulk (s : State) (k : Nat) (f : Slot → Slot) : (modSlot s k f).bulk = s.bulk := rfl
@[simp] theorem modSlot_troughs (s : State) (k : Nat) (f : Slot → Slot) : (modSlot s k f).troughs = s.troughs := rfl
@[simp] theorem modSlot_matrix (s : State) (k : Nat) (f : Slot → Slot) : (modSlot s k f).matrix = s.matrix := rfl
@[simp] theorem modSlot_tiles (s : State) (k : Nat) (f : Slot → Slot) : (modSlot s k f).tiles = s.tiles := rfl
@[simp] theorem modSlot_logged (s : State) (k : Nat) (f : Slot → Slot) : (modSlot s k f).logged = s.logged := rfl
@[simp] theorem modSlot_partIf (s : State) (k : Nat) (f : Slot → Slot) : (modSlot s k f).partIf = s.partIf := rfl
@[simp] theorem modSlot_partitions (s : State) (k : Nat) (f : Slot → Slot) : (modSlot s k f).partitions = s.partitions := rfl
@[simp] theorem modSlot_engLeases (s : State) (k : Nat) (f : Slot → Slot) : (modSlot s k f).engLeases = s.engLeases := rfl
@[simp] theorem modSlot_pavIf (s : State) (k : Nat) (f : Slot → Slot) : (modSlot s k f).pavIf = s.pavIf := rfl
@[simp] theorem modSlot_pavilions (s : State) (k : Nat) (f : Slot → Slot) : (modSlot s k f).pavilions = s.pavilions := rfl
@[simp] theorem modSlot_rotation (s : State) (k : Nat) (f : Slot → Slot) : (modSlot s k f).rotation = s.rotation := rfl
@[simp] theorem modSlot_frames (s : State) (k : Nat) (f : Slot → Slot) : (modSlot s k f).frames = s.frames := rfl
@[simp] theorem modSlot_trust (s : State) (k : Nat) (f : Slot → Slot) : (modSlot s k f).trust = s.trust := rfl
@[simp] theorem modSlot_observe (s : State) (k : Nat) (f : Slot → Slot) : (modSlot s k f).observe = s.observe := rfl

/-! ### leaveFlock -/

@[simp] theorem leaveFlock_time (s : State) (t : Tid) : (leaveFlock s t).time = s.time := rfl
@[simp] theorem leaveFlock_agenda (s : State) (t : Tid) : (leaveFlock s t).agenda = s.agenda := rfl
@[simp] theorem leaveFlock_cur (s : State) (t : Tid) : (leaveFlock s t).cur = s.cur := rfl
@[simp] theorem leaveFlock_fresh (s : State) (t : Tid) : (leaveFlock s t).fresh = s.fresh := rfl
@[simp] theorem leaveFlock_nextId (s : State) (t : Tid) : (leaveFlock s t).nextId = s.nextId := rfl
@[simp] theorem leaveFlock_islands (s : State) (t : Tid) : (leaveFlock s t).islands = s.islands := rfl
@[simp] theorem leaveFlock_powerLimit (s : State) (t : Tid) : (leaveFlock s t).powerLimit = s.powerLimit := rfl
@[simp] theorem leaveFlock_gateStatus (s : State) (t : Tid) : (leaveFlock s t).gateStatus = s.gateStatus := rfl
@[simp] theorem leaveFlock_links (s : State) (t : Tid) : (leaveFlock s t).links = s.links := rfl
@[simp] theorem leaveFlock_mailbox (s : State) (t : Tid) : (leaveFlock s t).mailbox = s.mailbox := rfl
@[simp] theorem leaveFlock_host (s : State) (t : Tid) : (leaveFlock s t).host = s.host := rfl
@[simp] theorem leaveFlock_contexts (s : State) (t : Tid) : (leaveFlock s t).contexts = s.contexts := rfl
@[simp] theorem leaveFlock_launchSeq (s : State) (t : Tid) : (leaveFlock s t).launchSeq = s.launchSeq := rfl
@[simp] theorem leaveFlock_grids (s : State) (t : Tid) : (leaveFlock s t).grids = s.grids := rfl
@[simp] theorem leaveFlock_launches (s : State) (t : Tid) : (leaveFlock s t).launches = s.launches := rfl
@[simp] theorem leaveFlock_teams (s : State) (t : Tid) : (leaveFlock s t).teams = s.teams := rfl
@[simp] theorem leaveFlock_ageing (s : State) (t : Tid) : (leaveFlock s t).ageing = s.ageing := rfl
@[simp] theorem leaveFlock_fused (s : State) (t : Tid) : (leaveFlock s t).fused = s.fused := rfl
@[simp] theorem leaveFlock_stamps (s : State) (t : Tid) : (leaveFlock s t).stamps = s.stamps := rfl
@[simp] theorem leaveFlock_mem (s : State) (t : Tid) : (leaveFlock s t).mem = s.mem := rfl
@[simp] theorem leaveFlock_hostMem (s : State) (t : Tid) : (leaveFlock s t).hostMem = s.hostMem := rfl
@[simp] theorem leaveFlock_scratch (s : State) (t : Tid) : (leaveFlock s t).scratch = s.scratch := rfl
@[simp] theorem leaveFlock_banks (s : State) (t : Tid) : (leaveFlock s t).banks = s.banks := rfl
@[simp] theorem leaveFlock_lines (s : State) (t : Tid) : (leaveFlock s t).lines = s.lines := rfl
@[simp] theorem leaveFlock_seals (s : State) (t : Tid) : (leaveFlock s t).seals = s.seals := rfl
@[simp] theorem leaveFlock_dirty (s : State) (t : Tid) : (leaveFlock s t).dirty = s.dirty := rfl
@[simp] theorem leaveFlock_waiting (s : State) (t : Tid) : (leaveFlock s t).waiting = s.waiting := rfl
@[simp] theorem leaveFlock_gate (s : State) (t : Tid) : (leaveFlock s t).gate = s.gate := rfl
@[simp] theorem leaveFlock_leases (s : State) (t : Tid) : (leaveFlock s t).leases = s.leases := rfl
@[simp] theorem leaveFlock_constCache (s : State) (t : Tid) : (leaveFlock s t).constCache = s.constCache := rfl
@[simp] theorem leaveFlock_tlb (s : State) (t : Tid) : (leaveFlock s t).tlb = s.tlb := rfl
@[simp] theorem leaveFlock_walkCache (s : State) (t : Tid) : (leaveFlock s t).walkCache = s.walkCache := rfl
@[simp] theorem leaveFlock_locks (s : State) (t : Tid) : (leaveFlock s t).locks = s.locks := rfl
@[simp] theorem leaveFlock_pins (s : State) (t : Tid) : (leaveFlock s t).pins = s.pins := rfl
@[simp] theorem leaveFlock_versions (s : State) (t : Tid) : (leaveFlock s t).versions = s.versions := rfl
@[simp] theorem leaveFlock_views (s : State) (t : Tid) : (leaveFlock s t).views = s.views := rfl
@[simp] theorem leaveFlock_commits (s : State) (t : Tid) : (leaveFlock s t).commits = s.commits := rfl
@[simp] theorem leaveFlock_sets (s : State) (t : Tid) : (leaveFlock s t).sets = s.sets := rfl
@[simp] theorem leaveFlock_holds (s : State) (t : Tid) : (leaveFlock s t).holds = s.holds := rfl
@[simp] theorem leaveFlock_waiters (s : State) (t : Tid) : (leaveFlock s t).waiters = s.waiters := rfl
@[simp] theorem leaveFlock_families (s : State) (t : Tid) : (leaveFlock s t).families = s.families := rfl
@[simp] theorem leaveFlock_forks (s : State) (t : Tid) : (leaveFlock s t).forks = s.forks := rfl
@[simp] theorem leaveFlock_deferred (s : State) (t : Tid) : (leaveFlock s t).deferred = s.deferred := rfl
@[simp] theorem leaveFlock_engines (s : State) (t : Tid) : (leaveFlock s t).engines = s.engines := rfl
@[simp] theorem leaveFlock_penUpdates (s : State) (t : Tid) : (leaveFlock s t).penUpdates = s.penUpdates := rfl
@[simp] theorem leaveFlock_bulk (s : State) (t : Tid) : (leaveFlock s t).bulk = s.bulk := rfl
@[simp] theorem leaveFlock_troughs (s : State) (t : Tid) : (leaveFlock s t).troughs = s.troughs := rfl
@[simp] theorem leaveFlock_matrix (s : State) (t : Tid) : (leaveFlock s t).matrix = s.matrix := rfl
@[simp] theorem leaveFlock_tiles (s : State) (t : Tid) : (leaveFlock s t).tiles = s.tiles := rfl
@[simp] theorem leaveFlock_logged (s : State) (t : Tid) : (leaveFlock s t).logged = s.logged := rfl
@[simp] theorem leaveFlock_partIf (s : State) (t : Tid) : (leaveFlock s t).partIf = s.partIf := rfl
@[simp] theorem leaveFlock_partitions (s : State) (t : Tid) : (leaveFlock s t).partitions = s.partitions := rfl
@[simp] theorem leaveFlock_engLeases (s : State) (t : Tid) : (leaveFlock s t).engLeases = s.engLeases := rfl
@[simp] theorem leaveFlock_pavIf (s : State) (t : Tid) : (leaveFlock s t).pavIf = s.pavIf := rfl
@[simp] theorem leaveFlock_pavilions (s : State) (t : Tid) : (leaveFlock s t).pavilions = s.pavilions := rfl
@[simp] theorem leaveFlock_rotation (s : State) (t : Tid) : (leaveFlock s t).rotation = s.rotation := rfl
@[simp] theorem leaveFlock_frames (s : State) (t : Tid) : (leaveFlock s t).frames = s.frames := rfl
@[simp] theorem leaveFlock_trust (s : State) (t : Tid) : (leaveFlock s t).trust = s.trust := rfl
@[simp] theorem leaveFlock_observe (s : State) (t : Tid) : (leaveFlock s t).observe = s.observe := rfl

/-! ### wrMemBytes -/

@[simp] theorem wrMemBytes_time (s : State) (a : Nat) (bs : List Byte) : (wrMemBytes s a bs).time = s.time := rfl
@[simp] theorem wrMemBytes_agenda (s : State) (a : Nat) (bs : List Byte) : (wrMemBytes s a bs).agenda = s.agenda := rfl
@[simp] theorem wrMemBytes_cur (s : State) (a : Nat) (bs : List Byte) : (wrMemBytes s a bs).cur = s.cur := rfl
@[simp] theorem wrMemBytes_fresh (s : State) (a : Nat) (bs : List Byte) : (wrMemBytes s a bs).fresh = s.fresh := rfl
@[simp] theorem wrMemBytes_nextId (s : State) (a : Nat) (bs : List Byte) : (wrMemBytes s a bs).nextId = s.nextId := rfl
@[simp] theorem wrMemBytes_islands (s : State) (a : Nat) (bs : List Byte) : (wrMemBytes s a bs).islands = s.islands := rfl
@[simp] theorem wrMemBytes_powerLimit (s : State) (a : Nat) (bs : List Byte) : (wrMemBytes s a bs).powerLimit = s.powerLimit := rfl
@[simp] theorem wrMemBytes_gateStatus (s : State) (a : Nat) (bs : List Byte) : (wrMemBytes s a bs).gateStatus = s.gateStatus := rfl
@[simp] theorem wrMemBytes_links (s : State) (a : Nat) (bs : List Byte) : (wrMemBytes s a bs).links = s.links := rfl
@[simp] theorem wrMemBytes_mailbox (s : State) (a : Nat) (bs : List Byte) : (wrMemBytes s a bs).mailbox = s.mailbox := rfl
@[simp] theorem wrMemBytes_host (s : State) (a : Nat) (bs : List Byte) : (wrMemBytes s a bs).host = s.host := rfl
@[simp] theorem wrMemBytes_contexts (s : State) (a : Nat) (bs : List Byte) : (wrMemBytes s a bs).contexts = s.contexts := rfl
@[simp] theorem wrMemBytes_launchSeq (s : State) (a : Nat) (bs : List Byte) : (wrMemBytes s a bs).launchSeq = s.launchSeq := rfl
@[simp] theorem wrMemBytes_grids (s : State) (a : Nat) (bs : List Byte) : (wrMemBytes s a bs).grids = s.grids := rfl
@[simp] theorem wrMemBytes_launches (s : State) (a : Nat) (bs : List Byte) : (wrMemBytes s a bs).launches = s.launches := rfl
@[simp] theorem wrMemBytes_teams (s : State) (a : Nat) (bs : List Byte) : (wrMemBytes s a bs).teams = s.teams := rfl
@[simp] theorem wrMemBytes_slots (s : State) (a : Nat) (bs : List Byte) : (wrMemBytes s a bs).slots = s.slots := rfl
@[simp] theorem wrMemBytes_ageing (s : State) (a : Nat) (bs : List Byte) : (wrMemBytes s a bs).ageing = s.ageing := rfl
@[simp] theorem wrMemBytes_fused (s : State) (a : Nat) (bs : List Byte) : (wrMemBytes s a bs).fused = s.fused := rfl
@[simp] theorem wrMemBytes_stamps (s : State) (a : Nat) (bs : List Byte) : (wrMemBytes s a bs).stamps = s.stamps := rfl
@[simp] theorem wrMemBytes_hostMem (s : State) (a : Nat) (bs : List Byte) : (wrMemBytes s a bs).hostMem = s.hostMem := rfl
@[simp] theorem wrMemBytes_scratch (s : State) (a : Nat) (bs : List Byte) : (wrMemBytes s a bs).scratch = s.scratch := rfl
@[simp] theorem wrMemBytes_banks (s : State) (a : Nat) (bs : List Byte) : (wrMemBytes s a bs).banks = s.banks := rfl
@[simp] theorem wrMemBytes_lines (s : State) (a : Nat) (bs : List Byte) : (wrMemBytes s a bs).lines = s.lines := rfl
@[simp] theorem wrMemBytes_seals (s : State) (a : Nat) (bs : List Byte) : (wrMemBytes s a bs).seals = s.seals := rfl
@[simp] theorem wrMemBytes_dirty (s : State) (a : Nat) (bs : List Byte) : (wrMemBytes s a bs).dirty = s.dirty := rfl
@[simp] theorem wrMemBytes_waiting (s : State) (a : Nat) (bs : List Byte) : (wrMemBytes s a bs).waiting = s.waiting := rfl
@[simp] theorem wrMemBytes_gate (s : State) (a : Nat) (bs : List Byte) : (wrMemBytes s a bs).gate = s.gate := rfl
@[simp] theorem wrMemBytes_leases (s : State) (a : Nat) (bs : List Byte) : (wrMemBytes s a bs).leases = s.leases := rfl
@[simp] theorem wrMemBytes_constCache (s : State) (a : Nat) (bs : List Byte) : (wrMemBytes s a bs).constCache = s.constCache := rfl
@[simp] theorem wrMemBytes_tlb (s : State) (a : Nat) (bs : List Byte) : (wrMemBytes s a bs).tlb = s.tlb := rfl
@[simp] theorem wrMemBytes_walkCache (s : State) (a : Nat) (bs : List Byte) : (wrMemBytes s a bs).walkCache = s.walkCache := rfl
@[simp] theorem wrMemBytes_locks (s : State) (a : Nat) (bs : List Byte) : (wrMemBytes s a bs).locks = s.locks := rfl
@[simp] theorem wrMemBytes_pins (s : State) (a : Nat) (bs : List Byte) : (wrMemBytes s a bs).pins = s.pins := rfl
@[simp] theorem wrMemBytes_versions (s : State) (a : Nat) (bs : List Byte) : (wrMemBytes s a bs).versions = s.versions := rfl
@[simp] theorem wrMemBytes_views (s : State) (a : Nat) (bs : List Byte) : (wrMemBytes s a bs).views = s.views := rfl
@[simp] theorem wrMemBytes_commits (s : State) (a : Nat) (bs : List Byte) : (wrMemBytes s a bs).commits = s.commits := rfl
@[simp] theorem wrMemBytes_sets (s : State) (a : Nat) (bs : List Byte) : (wrMemBytes s a bs).sets = s.sets := rfl
@[simp] theorem wrMemBytes_holds (s : State) (a : Nat) (bs : List Byte) : (wrMemBytes s a bs).holds = s.holds := rfl
@[simp] theorem wrMemBytes_waiters (s : State) (a : Nat) (bs : List Byte) : (wrMemBytes s a bs).waiters = s.waiters := rfl
@[simp] theorem wrMemBytes_families (s : State) (a : Nat) (bs : List Byte) : (wrMemBytes s a bs).families = s.families := rfl
@[simp] theorem wrMemBytes_forks (s : State) (a : Nat) (bs : List Byte) : (wrMemBytes s a bs).forks = s.forks := rfl
@[simp] theorem wrMemBytes_deferred (s : State) (a : Nat) (bs : List Byte) : (wrMemBytes s a bs).deferred = s.deferred := rfl
@[simp] theorem wrMemBytes_engines (s : State) (a : Nat) (bs : List Byte) : (wrMemBytes s a bs).engines = s.engines := rfl
@[simp] theorem wrMemBytes_penUpdates (s : State) (a : Nat) (bs : List Byte) : (wrMemBytes s a bs).penUpdates = s.penUpdates := rfl
@[simp] theorem wrMemBytes_bulk (s : State) (a : Nat) (bs : List Byte) : (wrMemBytes s a bs).bulk = s.bulk := rfl
@[simp] theorem wrMemBytes_troughs (s : State) (a : Nat) (bs : List Byte) : (wrMemBytes s a bs).troughs = s.troughs := rfl
@[simp] theorem wrMemBytes_matrix (s : State) (a : Nat) (bs : List Byte) : (wrMemBytes s a bs).matrix = s.matrix := rfl
@[simp] theorem wrMemBytes_tiles (s : State) (a : Nat) (bs : List Byte) : (wrMemBytes s a bs).tiles = s.tiles := rfl
@[simp] theorem wrMemBytes_logged (s : State) (a : Nat) (bs : List Byte) : (wrMemBytes s a bs).logged = s.logged := rfl
@[simp] theorem wrMemBytes_partIf (s : State) (a : Nat) (bs : List Byte) : (wrMemBytes s a bs).partIf = s.partIf := rfl
@[simp] theorem wrMemBytes_partitions (s : State) (a : Nat) (bs : List Byte) : (wrMemBytes s a bs).partitions = s.partitions := rfl
@[simp] theorem wrMemBytes_engLeases (s : State) (a : Nat) (bs : List Byte) : (wrMemBytes s a bs).engLeases = s.engLeases := rfl
@[simp] theorem wrMemBytes_pavIf (s : State) (a : Nat) (bs : List Byte) : (wrMemBytes s a bs).pavIf = s.pavIf := rfl
@[simp] theorem wrMemBytes_pavilions (s : State) (a : Nat) (bs : List Byte) : (wrMemBytes s a bs).pavilions = s.pavilions := rfl
@[simp] theorem wrMemBytes_rotation (s : State) (a : Nat) (bs : List Byte) : (wrMemBytes s a bs).rotation = s.rotation := rfl
@[simp] theorem wrMemBytes_frames (s : State) (a : Nat) (bs : List Byte) : (wrMemBytes s a bs).frames = s.frames := rfl
@[simp] theorem wrMemBytes_trust (s : State) (a : Nat) (bs : List Byte) : (wrMemBytes s a bs).trust = s.trust := rfl
@[simp] theorem wrMemBytes_observe (s : State) (a : Nat) (bs : List Byte) : (wrMemBytes s a bs).observe = s.observe := rfl

/-! ### wrScratch -/

@[simp] theorem wrScratch_time (s : State) (c a : Nat) (bs : List Byte) : (wrScratch s c a bs).time = s.time := rfl
@[simp] theorem wrScratch_agenda (s : State) (c a : Nat) (bs : List Byte) : (wrScratch s c a bs).agenda = s.agenda := rfl
@[simp] theorem wrScratch_cur (s : State) (c a : Nat) (bs : List Byte) : (wrScratch s c a bs).cur = s.cur := rfl
@[simp] theorem wrScratch_fresh (s : State) (c a : Nat) (bs : List Byte) : (wrScratch s c a bs).fresh = s.fresh := rfl
@[simp] theorem wrScratch_nextId (s : State) (c a : Nat) (bs : List Byte) : (wrScratch s c a bs).nextId = s.nextId := rfl
@[simp] theorem wrScratch_islands (s : State) (c a : Nat) (bs : List Byte) : (wrScratch s c a bs).islands = s.islands := rfl
@[simp] theorem wrScratch_powerLimit (s : State) (c a : Nat) (bs : List Byte) : (wrScratch s c a bs).powerLimit = s.powerLimit := rfl
@[simp] theorem wrScratch_gateStatus (s : State) (c a : Nat) (bs : List Byte) : (wrScratch s c a bs).gateStatus = s.gateStatus := rfl
@[simp] theorem wrScratch_links (s : State) (c a : Nat) (bs : List Byte) : (wrScratch s c a bs).links = s.links := rfl
@[simp] theorem wrScratch_mailbox (s : State) (c a : Nat) (bs : List Byte) : (wrScratch s c a bs).mailbox = s.mailbox := rfl
@[simp] theorem wrScratch_host (s : State) (c a : Nat) (bs : List Byte) : (wrScratch s c a bs).host = s.host := rfl
@[simp] theorem wrScratch_contexts (s : State) (c a : Nat) (bs : List Byte) : (wrScratch s c a bs).contexts = s.contexts := rfl
@[simp] theorem wrScratch_launchSeq (s : State) (c a : Nat) (bs : List Byte) : (wrScratch s c a bs).launchSeq = s.launchSeq := rfl
@[simp] theorem wrScratch_grids (s : State) (c a : Nat) (bs : List Byte) : (wrScratch s c a bs).grids = s.grids := rfl
@[simp] theorem wrScratch_launches (s : State) (c a : Nat) (bs : List Byte) : (wrScratch s c a bs).launches = s.launches := rfl
@[simp] theorem wrScratch_teams (s : State) (c a : Nat) (bs : List Byte) : (wrScratch s c a bs).teams = s.teams := rfl
@[simp] theorem wrScratch_slots (s : State) (c a : Nat) (bs : List Byte) : (wrScratch s c a bs).slots = s.slots := rfl
@[simp] theorem wrScratch_ageing (s : State) (c a : Nat) (bs : List Byte) : (wrScratch s c a bs).ageing = s.ageing := rfl
@[simp] theorem wrScratch_fused (s : State) (c a : Nat) (bs : List Byte) : (wrScratch s c a bs).fused = s.fused := rfl
@[simp] theorem wrScratch_stamps (s : State) (c a : Nat) (bs : List Byte) : (wrScratch s c a bs).stamps = s.stamps := rfl
@[simp] theorem wrScratch_mem (s : State) (c a : Nat) (bs : List Byte) : (wrScratch s c a bs).mem = s.mem := rfl
@[simp] theorem wrScratch_hostMem (s : State) (c a : Nat) (bs : List Byte) : (wrScratch s c a bs).hostMem = s.hostMem := rfl
@[simp] theorem wrScratch_banks (s : State) (c a : Nat) (bs : List Byte) : (wrScratch s c a bs).banks = s.banks := rfl
@[simp] theorem wrScratch_lines (s : State) (c a : Nat) (bs : List Byte) : (wrScratch s c a bs).lines = s.lines := rfl
@[simp] theorem wrScratch_seals (s : State) (c a : Nat) (bs : List Byte) : (wrScratch s c a bs).seals = s.seals := rfl
@[simp] theorem wrScratch_dirty (s : State) (c a : Nat) (bs : List Byte) : (wrScratch s c a bs).dirty = s.dirty := rfl
@[simp] theorem wrScratch_waiting (s : State) (c a : Nat) (bs : List Byte) : (wrScratch s c a bs).waiting = s.waiting := rfl
@[simp] theorem wrScratch_gate (s : State) (c a : Nat) (bs : List Byte) : (wrScratch s c a bs).gate = s.gate := rfl
@[simp] theorem wrScratch_leases (s : State) (c a : Nat) (bs : List Byte) : (wrScratch s c a bs).leases = s.leases := rfl
@[simp] theorem wrScratch_constCache (s : State) (c a : Nat) (bs : List Byte) : (wrScratch s c a bs).constCache = s.constCache := rfl
@[simp] theorem wrScratch_tlb (s : State) (c a : Nat) (bs : List Byte) : (wrScratch s c a bs).tlb = s.tlb := rfl
@[simp] theorem wrScratch_walkCache (s : State) (c a : Nat) (bs : List Byte) : (wrScratch s c a bs).walkCache = s.walkCache := rfl
@[simp] theorem wrScratch_locks (s : State) (c a : Nat) (bs : List Byte) : (wrScratch s c a bs).locks = s.locks := rfl
@[simp] theorem wrScratch_pins (s : State) (c a : Nat) (bs : List Byte) : (wrScratch s c a bs).pins = s.pins := rfl
@[simp] theorem wrScratch_versions (s : State) (c a : Nat) (bs : List Byte) : (wrScratch s c a bs).versions = s.versions := rfl
@[simp] theorem wrScratch_views (s : State) (c a : Nat) (bs : List Byte) : (wrScratch s c a bs).views = s.views := rfl
@[simp] theorem wrScratch_commits (s : State) (c a : Nat) (bs : List Byte) : (wrScratch s c a bs).commits = s.commits := rfl
@[simp] theorem wrScratch_sets (s : State) (c a : Nat) (bs : List Byte) : (wrScratch s c a bs).sets = s.sets := rfl
@[simp] theorem wrScratch_holds (s : State) (c a : Nat) (bs : List Byte) : (wrScratch s c a bs).holds = s.holds := rfl
@[simp] theorem wrScratch_waiters (s : State) (c a : Nat) (bs : List Byte) : (wrScratch s c a bs).waiters = s.waiters := rfl
@[simp] theorem wrScratch_families (s : State) (c a : Nat) (bs : List Byte) : (wrScratch s c a bs).families = s.families := rfl
@[simp] theorem wrScratch_forks (s : State) (c a : Nat) (bs : List Byte) : (wrScratch s c a bs).forks = s.forks := rfl
@[simp] theorem wrScratch_deferred (s : State) (c a : Nat) (bs : List Byte) : (wrScratch s c a bs).deferred = s.deferred := rfl
@[simp] theorem wrScratch_engines (s : State) (c a : Nat) (bs : List Byte) : (wrScratch s c a bs).engines = s.engines := rfl
@[simp] theorem wrScratch_penUpdates (s : State) (c a : Nat) (bs : List Byte) : (wrScratch s c a bs).penUpdates = s.penUpdates := rfl
@[simp] theorem wrScratch_bulk (s : State) (c a : Nat) (bs : List Byte) : (wrScratch s c a bs).bulk = s.bulk := rfl
@[simp] theorem wrScratch_troughs (s : State) (c a : Nat) (bs : List Byte) : (wrScratch s c a bs).troughs = s.troughs := rfl
@[simp] theorem wrScratch_matrix (s : State) (c a : Nat) (bs : List Byte) : (wrScratch s c a bs).matrix = s.matrix := rfl
@[simp] theorem wrScratch_tiles (s : State) (c a : Nat) (bs : List Byte) : (wrScratch s c a bs).tiles = s.tiles := rfl
@[simp] theorem wrScratch_logged (s : State) (c a : Nat) (bs : List Byte) : (wrScratch s c a bs).logged = s.logged := rfl
@[simp] theorem wrScratch_partIf (s : State) (c a : Nat) (bs : List Byte) : (wrScratch s c a bs).partIf = s.partIf := rfl
@[simp] theorem wrScratch_partitions (s : State) (c a : Nat) (bs : List Byte) : (wrScratch s c a bs).partitions = s.partitions := rfl
@[simp] theorem wrScratch_engLeases (s : State) (c a : Nat) (bs : List Byte) : (wrScratch s c a bs).engLeases = s.engLeases := rfl
@[simp] theorem wrScratch_pavIf (s : State) (c a : Nat) (bs : List Byte) : (wrScratch s c a bs).pavIf = s.pavIf := rfl
@[simp] theorem wrScratch_pavilions (s : State) (c a : Nat) (bs : List Byte) : (wrScratch s c a bs).pavilions = s.pavilions := rfl
@[simp] theorem wrScratch_rotation (s : State) (c a : Nat) (bs : List Byte) : (wrScratch s c a bs).rotation = s.rotation := rfl
@[simp] theorem wrScratch_frames (s : State) (c a : Nat) (bs : List Byte) : (wrScratch s c a bs).frames = s.frames := rfl
@[simp] theorem wrScratch_trust (s : State) (c a : Nat) (bs : List Byte) : (wrScratch s c a bs).trust = s.trust := rfl
@[simp] theorem wrScratch_observe (s : State) (c a : Nat) (bs : List Byte) : (wrScratch s c a bs).observe = s.observe := rfl

/-! ### hostStores -/

@[simp] theorem hostStores_nil (s : State) : hostStores s [] = s := rfl

/-- What the host stores changes the host's memory and nothing else. -/
theorem hostStores_frame (s : State) (w : HostStores) : hostStores s w = { s with hostMem := (hostStores s w).hostMem } := by
  induction w generalizing s with
  | nil => rfl
  | cons c w ih => exact ih { s with hostMem := Memory.write s.hostMem (c.1 % 2 ^ 64) c.2 }

end Sys2Proof.Laws
end

