-- ==== Sys2Proof/Tests/Slice0.lean ====
section
/-! SUPPORT. Tests of the model: ill-formed terms that the checks refuse, words that decode, and single steps whose results were
worked out by hand from the rules named beside them. -/

set_option Elab.async false

namespace Sys2Proof.Tests

open Sys2Proof Machine

/-- Each word decodes to the instruction beside it. -/
def decodesTo : List (BitVec 32 × Instr) → Prop
  | [] => True
  | x :: l => decode x.1 = .ok x.2 ∧ decodesTo l

/-- The lane that stands before the loaded word. -/
def lane : Tid := ⟨2, 0, 0⟩

/-- That lane after one step, its thread prepared by `f`. -/
noncomputable def ran (w : Nat) (f : Thread → Thread) : Option Thread :=
  match step (modThread (State.reset.withFetchWord 32 w) lane f) with
  | .next t => thread? t lane
  | _ => none

/-- Its team after one step. -/
noncomputable def ranTeam (w : Nat) : Option Team :=
  match step (State.reset.withFetchWord 32 w) with
  | .next t => team? t 2
  | _ => none

/-- The results that the step scheduled for that lane. -/
noncomputable def wrote (w : Nat) (f : Thread → Thread) : Option (List (Reg × BitVec 80)) := (ran w f).map fun th => th.due.map fun d => (d.reg, d.val)

/-- Put values into vector registers. -/
def regs (l : List (Nat × Word)) (th : Thread) : Thread := { th with v := l.foldl (fun v x => updAt x.1 (fun _ => x.2) v) th.v }

/-- R293: the sum wraps at 32 bits. -/
theorem test_add_wraps : wrote 0x0403040C (regs [(2, 0xFFFFFFFF), (3, 0x2)]) = some [(.v 3, 0x1)] := by decide +kernel

/-- R293: va minus vb, in this order. -/
theorem test_sub_order : wrote 0x0481040C (regs [(2, 0x1), (3, 0x2)]) = some [(.v 1, 0xFFFFFFFF)] := by decide +kernel

/-- R293: the carry goes out in p47. -/
theorem test_addc_carry : wrote 0x0501040C (regs [(2, 0xFFFFFFFF), (3, 0x1)]) = some [(.v 1, 0x0), (.p 47, 0x1)] := by decide +kernel

/-- R293: the borrow goes out in p47. -/
theorem test_subb_borrow : wrote 0x0581040C (regs [(2, 0x0), (3, 0x1)]) = some [(.v 1, 0xFFFFFFFF), (.p 47, 0x1)] := by decide +kernel

/-- R293, R255: a signed saturating sum clamps and sets SAT. -/
theorem test_adds_i32_clamps : wrote 0x0601040C (regs [(2, 0x7FFFFFFF), (3, 0x1)]) = some [(.v 1, 0x7FFFFFFF), (.flags, 0x20)] := by decide +kernel

/-- R293: an unsigned saturating difference clamps at 0. -/
theorem test_subs_n32_clamps : wrote 0x0781040C (regs [(2, 0x1), (3, 0x2)]) = some [(.v 1, 0x0), (.flags, 0x20)] := by decide +kernel

/-- R294: addi sign-extends its immediate. -/
theorem test_addi_sign : wrote 0x08020BFC (regs [(2, 0x5)]) = some [(.v 1, 0x4)] := by decide +kernel

/-- R294: andi zero-extends its immediate. -/
theorem test_andi_zero : wrote 0x09020BFC (regs [(2, 0xFFFFFFFF)]) = some [(.v 1, 0xFF)] := by decide +kernel

/-- R295: the high word of a signed product. -/
theorem test_mulhi_i32 : wrote 0x0C81040C (regs [(2, 0xFFFFFFFF), (3, 0x2)]) = some [(.v 1, 0xFFFFFFFF)] := by decide +kernel

/-- R295: the high word of an unsigned product. -/
theorem test_mulhi_n32 : wrote 0x0D01040C (regs [(2, 0xFFFFFFFF), (3, 0x2)]) = some [(.v 1, 0x1)] := by decide +kernel

/-- R295: a signed product in a pair, low word first. -/
theorem test_mulw_i32 : wrote 0x0F04040C (regs [(2, 0xFFFFFFFF), (3, 0x2)]) = some [(.v 4, 0xFFFFFFFE), (.v 5, 0xFFFFFFFF)] := by decide +kernel

/-- R295: mad adds vd. -/
theorem test_mad_reads_vd : wrote 0x0D81040C (regs [(1, 0x7), (2, 0x3), (3, 0x5)]) = some [(.v 1, 0x16)] := by decide +kernel

/-- R296: andn inverts vb. -/
theorem test_andn : wrote 0x1181040C (regs [(2, 0xF0F0), (3, 0xFF00)]) = some [(.v 1, 0xF0)] := by decide +kernel

/-- R297: a shift by 32 or more gives 0. -/
theorem test_shl_32 : wrote 0x1401040C (regs [(2, 0x1), (3, 0x20)]) = some [(.v 1, 0x0)] := by decide +kernel

/-- R297: a signed shift by 32 or more gives copies of the sign. -/
theorem test_shr_i32_40 : wrote 0x1501040C (regs [(2, 0x80000000), (3, 0x28)]) = some [(.v 1, 0xFFFFFFFF)] := by decide +kernel

/-- R297: a rotation counts modulo 32. -/
theorem test_rotl_33 : wrote 0x1581040C (regs [(2, 0x80000001), (3, 0x21)]) = some [(.v 1, 0x3)] := by decide +kernel

/-- R297: the high word of va:vd shifted left. -/
theorem test_fshl : wrote 0x1681040C (regs [(1, 0x80000000), (2, 0x1), (3, 0x1)]) = some [(.v 1, 0x3)] := by decide +kernel

/-- R298: 32 for zero. -/
theorem test_clz_zero : wrote 0x1C810400 (regs [(2, 0x0)]) = some [(.v 1, 0x20)] := by decide +kernel

/-- R298: trailing zeros. -/
theorem test_ctz : wrote 0x1D010400 (regs [(2, 0x50)]) = some [(.v 1, 0x4)] := by decide +kernel

/-- R298: the bytes reversed. -/
theorem test_bswap : wrote 0x1E010400 (regs [(2, 0x1020304)]) = some [(.v 1, 0x4030201)] := by decide +kernel

/-- R298: nibbles below 4 pick bytes of va, 4 to 7 bytes of vd, others 0. -/
theorem test_perm : wrote 0x1E81040C (regs [(1, 0xDDCCBBAA), (2, 0x44332211), (3, 0x8704)]) = some [(.v 1, 0xDD11AA)] := by decide +kernel

/-- R298: a mask of width and position, cut at bit 31. -/
theorem test_bmsk : wrote 0x1F01040C (regs [(2, 0x1C), (3, 0x8)]) = some [(.v 1, 0xF0000000)] := by decide +kernel

/-- R299: a signed field. -/
theorem test_bfx_i32 : wrote 0x2081040C (regs [(2, 0xF0), (3, 0x404)]) = some [(.v 1, 0xFFFFFFFF)] := by decide +kernel

/-- R299: the low bits of va go into vd. -/
theorem test_bfi : wrote 0x2101040C (regs [(1, 0xFFFFFFFF), (2, 0x5), (3, 0x404)]) = some [(.v 1, 0xFFFFFF5F)] := by decide +kernel

/-- R300: the absolute value wraps. -/
theorem test_abs_min : wrote 0x26010400 (regs [(2, 0x80000000)]) = some [(.v 1, 0x80000000)] := by decide +kernel

/-- R300: the unsigned minimum. -/
theorem test_min_n32 : wrote 0x2501040C (regs [(2, 0xFFFFFFFF), (3, 0x1)]) = some [(.v 1, 0x1)] := by decide +kernel

/-- R300: the unsigned absolute difference. -/
theorem test_adiff : wrote 0x2701040C (regs [(2, 0x1), (3, 0xFFFFFFFF)]) = some [(.v 1, 0xFFFFFFFE)] := by decide +kernel

/-- R304: movh keeps the low half. -/
theorem test_movh : wrote 0x2E06AF34 (regs [(1, 0x12345678)]) = some [(.v 1, 0xABCD5678)] := by decide +kernel

/-- R316: 1 + 2 = 3, exact. -/
theorem test_fadd : wrote 0x5401040C (regs [(2, 0x3F800000), (3, 0x40000000)]) = some [(.v 1, 0x40400000)] := by decide +kernel

/-- R254, R316: an inexact sum rounds to nearest even and sets NX. -/
theorem test_fadd_inexact : wrote 0x5401040C (regs [(2, 0x3F800000), (3, 0x33800000)]) = some [(.v 1, 0x3F800000), (.flags, 0x10)] := by decide +kernel

/-- R254: an overflow gives infinity with OF and NX. -/
theorem test_fmul_overflow : wrote 0x5501040C (regs [(2, 0x7F000000), (3, 0x40000000)]) = some [(.v 1, 0x7F800000), (.flags, 0x14)] := by decide +kernel

/-- R317: the minimum of the zeros is minus zero. -/
theorem test_fmin_zeros : wrote 0x5581040C (regs [(2, 0x0), (3, 0x80000000)]) = some [(.v 1, 0x80000000)] := by decide +kernel

/-- R316: the magnitude of va with the sign of vb. -/
theorem test_fcopysign : wrote 0x5781040C (regs [(2, 0x3FC00000), (3, 0xC0000000)]) = some [(.v 1, 0xBFC00000)] := by decide +kernel

/-- R318: minus va times vb, plus vd. -/
theorem test_ffnma : wrote 0x5901040C (regs [(1, 0x40E00000), (2, 0x40000000), (3, 0x40400000)]) = some [(.v 1, 0x3F800000)] := by decide +kernel

/-- R319: each half alone. -/
theorem test_hadd_bf16 : wrote 0x5C01040C (regs [(2, 0x3F804000), (3, 0x3F803F80)]) = some [(.v 1, 0x40004040)] := by decide +kernel

/-- R330: four signed byte products are added to vd. -/
theorem test_dot_i8x4 : wrote 0x6C01040C (regs [(1, 0xA), (2, 0xFF020304), (3, 0x1010101)]) = some [(.v 1, 0x12)] := by decide +kernel

/-- R331: va times two to the power vb. -/
theorem test_scalef : wrote 0x7001040C (regs [(2, 0x40400000), (3, 0x2)]) = some [(.v 1, 0x41400000)] := by decide +kernel

/-- R331: the exponent of va. -/
theorem test_fexp : wrote 0x70810400 (regs [(2, 0x41000000)]) = some [(.v 1, 0x3)] := by decide +kernel

/-- R328: F32 to I32, toward zero in mode 1. -/
theorem test_cvt_to_int : wrote 0x68802084 (regs [(2, 0xBFC00000)]) = some [(.v 1, 0xFFFFFFFF), (.flags, 0x10)] := by decide +kernel

/-- R305: a signed compare. -/
theorem test_cmp_signed : wrote 0x3085040C (regs [(2, 0xFFFFFFFF), (3, 0x0)]) = some [(.p 5, 0x1)] := by decide +kernel

/-- R305: an unsigned compare. -/
theorem test_cmp_unsigned : wrote 0x3485040C (regs [(2, 0xFFFFFFFF), (3, 0x0)]) = some [(.p 5, 0x0)] := by decide +kernel

/-- R306: an ordered compare with a quiet NaN is false. -/
theorem test_cmp_f32_nan : wrote 0x38050408 (regs [(2, 0x7FC00000)]) = some [(.p 5, 0x0)] := by decide +kernel

/-- R305: pairs compare by their high words first. -/
theorem test_cmp64_pair : wrote 0x3C850410 (regs [(2, 0x9), (3, 0x0), (4, 0x0), (5, 0x1)]) = some [(.p 5, 0x1)] := by decide +kernel

/-- R190, R192, R365: trap takes TRAP_INST with sA in tval.lo, and without a handler the lane stops. -/
theorem test_trap_cause : (ran 0xDC000000 (id)).map (fun th => (th.cause, th.tvalLo, th.tvalHi, th.status)) = some (0x14#8, 0, 0, some .trapped) := by decide +kernel

/-- R365: the return offset of trap is the word after it. -/
theorem test_trap_return : (ran 0xDC000000 (id)).map (fun th => th.tret) = some (8) := by decide +kernel

/-- R365: the return offset of brk is brk itself. -/
theorem test_brk_return : (ran 0xDC200000 (id)).map (fun th => (th.cause, th.tret)) = some (0x15#8, 4) := by decide +kernel

/-- R282: a reserved OP traps ILLEGAL_OP with the word. -/
theorem test_illegal_word : (ran 0xE0000000 (id)).map (fun th => (th.cause, th.tvalLo)) = some (1#8, 0xE0000000) := by decide +kernel

/-- R333: a load of 4 bytes at offset 2 traps MISALIGN. -/
theorem test_misaligned_load : (ran 0x82010040 (regs [(2, 2)])).map (fun th => (th.cause, th.tvalLo)) = some (7#8, 2) := by decide +kernel

/-- R157, R332: an aligned load joins the queue of the thread, with its register pending. -/
theorem test_load_queued : (ran 0x82010040 (regs [(2, 8)])).map (fun th => (th.queue.map fun a => (a.va, a.size), th.pend.map Pend.reg)) = some ([(8, 4)], [.v 1]) := by decide +kernel

/-- R334: a store of 2 bytes takes the low half of its register. -/
theorem test_store_queued : (ran 0x85010040 (regs [(1, 0xABCD), (2, 8)])).map (fun th => th.queue.map (fun a => (a.va, a.data))) = some ([(8, [0xCD, 0xAB])]) := by decide +kernel

/-- R346: a fence joins the queue. -/
theorem test_fence_queued : (ran 0xAC400000 (id)).map (fun th => th.queue.map Access.op) = some ([.fence (.rel .device) false]) := by decide +kernel

/-- R309: a branch whose predicate is 0 is not taken; the thread goes on at the next header. -/
theorem test_bra_not_taken : (ran 0x48180014 (id)).map (fun th => (th.pc.off, th.pc.inside)) = some (8, false) := by decide +kernel

/-- R309: a taken branch to a word that is no header traps BAD_TARGET. -/
theorem test_bra_bad_target : (ran 0x49F80004 (id)).map (fun th => (th.cause, th.tvalLo)) = some (3#8, 4) := by decide +kernel

/-- R310: ret with an empty stack traps BAD_TARGET. -/
theorem test_ret_empty : (ran 0x51000000 (id)).map (fun th => (th.cause, th.tvalLo)) = some (3#8, 0) := by decide +kernel

/-- R370: the mask of the members whose predicate is 1. -/
theorem test_ballot_self : (ran 0xC0010A00 (fun th => { th with p := 0x20 })).map (fun th => th.due.map (fun d => (d.reg, d.val))) = some ([(.v 1, 1)]) := by decide +kernel

/-- R121: the register number of an unaligned pair traps ILLEGAL_OP. -/
theorem test_register_bound : (ran 0x60010410 (id)).map (fun th => (th.cause, th.tvalLo)) = some (1#8, 1) := by decide +kernel

/-- R313: smov takes its immediate. -/
theorem test_smov : (ranTeam 0x76010058).map (fun tm => ((tm.groups.flatMap Group.sdue) ++ tm.bdue).map fun d => (d.reg, d.val)) = some [(.s 1, 5)] := by decide +kernel

/-- R313: smin with an immediate. -/
theorem test_smin_signed : (ranTeam 0x76410858).map (fun tm => ((tm.groups.flatMap Group.sdue) ++ tm.bdue).map fun d => (d.reg, d.val)) = some [(.s 1, 0)] := by decide +kernel

/-- R314: badd adds its immediate to a base. -/
theorem test_badd : (ranTeam 0x7C410078).map (fun tm => ((tm.groups.flatMap Group.sdue) ++ tm.bdue).map fun d => (d.reg, d.val)) = some [(.b 1, 7)] := by decide +kernel

/-- R314: bset takes B above a scalar pair. -/
theorem test_bset : (ranTeam 0x7C010858).map (fun tm => ((tm.groups.flatMap Group.sdue) ++ tm.bdue).map fun d => (d.reg, d.val)) = some [(.b 1, 0x50000000000000000)] := by decide +kernel

/-- R283: predicates are 0 to 47. -/
theorem test_wf_predicate : (Instr.pset 48#6 0#2).wf = false := by decide

/-- R283: 63 is not inverted. -/
theorem test_wf_branch_predicate : (Instr.bra 1#1 63#6 0#17 0#2).wf = false := by decide

/-- R283: bases are 0 to 15. -/
theorem test_wf_base : (Instr.bmov 16#6 0#6 0#2).wf = false := by decide

/-- R283: queue registers are 0 to 7. -/
theorem test_wf_queue : (Instr.pop 0#7 8#7 0#2).wf = false := by decide

/-- R283: a scalar pair starts even. -/
theorem test_wf_even : (Instr.sldB64 1#6 0#6 0#6 0#1 0#2).wf = false := by decide

/-- R289: 11 is no special register. -/
theorem test_wf_special : (Instr.movsRead 0#7 11#7 0#2).wf = false := by decide

/-- R288: size 7 is reserved. -/
theorem test_wf_load_size : (Instr.ld 7#3 0#7 0#4 0#7 0#3 0#2).wf = false := by decide

/-- R288: a store has no signed size. -/
theorem test_wf_store_size : (Instr.st 1#3 0#7 0#4 0#7 0#3 0#2).wf = false := by decide

/-- R288: ordering code 6 is for loads. -/
theorem test_wf_store_order : (Instr.st 4#3 0#7 0#4 0#7 6#3 0#2).wf = false := by decide

/-- R288: scratchpad accesses take codes 0 to 4. -/
theorem test_wf_scratch_order : (Instr.lds 4#3 0#7 0#4 0#7 5#3 0#2).wf = false := by decide

/-- R128: windows are 0 and 1. -/
theorem test_wf_window : (Instr.lds 4#3 0#7 2#4 0#7 0#3 0#2).wf = false := by decide

/-- R287: integer compares take codes 0 to 5. -/
theorem test_wf_cc_int : (Instr.cmpI32 6#4 0#6 0#7 0#7 0#2).wf = false := by decide

/-- R287: codes 6 and 7 are reserved. -/
theorem test_wf_cc_float : (Instr.cmpF32 6#4 0#6 0#7 0#7 0#2).wf = false := by decide

/-- R287: code 14 is not for pairs. -/
theorem test_wf_cc_wide : (Instr.cmp64 14#4 0#6 0#7 0#7 0#2).wf = false := by decide

/-- R325: rounding codes 5 and 6 are reserved. -/
theorem test_wf_cvt_mode : (Instr.cvt 0#6 0#7 0#7 5#4 0#2).wf = false := by decide

/-- R120: scalars are 0 to 63. -/
theorem test_wf_scalar_number : (Instr.movsv 0#7 64#7 0#2).wf = false := by decide

/-- R283: four scalars start at a multiple of 4. -/
theorem test_wf_four_scalars : (Instr.tbegin 2#6 0#6 0#2).wf = false := by decide

/-- R283: eight scalars start at a multiple of 8. -/
theorem test_wf_eight_scalars : (Instr.copyTeam 0#7 4#6 0#2).wf = false := by decide

/-- R339: a 64-bit offset starts even. -/
theorem test_wf_pair_offset : (Instr.ldw 4#3 0#7 0#4 1#7 0#3 0#2).wf = false := by decide

/-- A term that every check accepts. -/
theorem test_wf_good : (Instr.ldw 4#3 0#7 0#4 2#7 1#3 0#2).wf = true := by decide

/-- Words of the example programs of spec/18, spec/21 to spec/25 and spec/14. -/
theorem test_decode_examples : decodesTo
  [(0x05040008#32, Instr.addc 4#7 0#7 2#7 0#2),
   (0x08040900#32, Instr.addi 2#7 2#7 0x40#8 0#2),
   (0x0902040C#32, Instr.andi 1#7 1#7 3#8 0#2),
   (0x13080600#32, Instr.not 8#7 3#7 0#2),
   (0x1804040C#32, Instr.shli 2#7 1#7 3#5 0#2),
   (0x1F0A1E00#32, Instr.bmsk 10#7 15#7 0#7 0#2),
   (0x28861010#32, Instr.sel 6#7 8#7 4#7 0#2),
   (0x29013000#32, Instr.movsRead 1#7 24#7 0#2),
   (0x2E0CFE00#32, Instr.movh 3#7 0x3F80#16 0#2),
   (0x3F410008#32, Instr.cmp64 13#4 1#6 0#7 2#7 0#2),
   (0x42DE0000#32, Instr.pclr 47#6 0#2),
   (0x441A0000#32, Instr.guard 0#1 3#6 2#3 0#2),
   (0x4A2FFFD0#32, Instr.bra 1#1 5#6 (-12#17) 0#2),
   (0x4DF80010#32, Instr.call 0#1 63#6 4#17 0#2),
   (0x6D850818#32, Instr.dotF8ax4 5#7 4#7 6#7 0#2),
   (0x75841078#32, Instr.sshl 4#6 4#6 7#6 1#1 0#2),
   (0x82820090#32, Instr.ld 5#3 2#7 0#4 4#7 4#3 0#2),
   (0x8607010C#32, Instr.st 4#3 7#7 0#4 8#7 3#3 0#2),
   (0x9B8400C0#32, Instr.atomCas 4#7 0#4 6#7 0#3 0#2),
   (0xB4028600#32, Instr.forkW 10#7 6#6 0#2),
   (0xBC6014FC#32, Instr.penWait 20#6 63#6 0#2),
   (0xC0090600#32, Instr.ballot 9#7 3#7 0#2),
   (0xC8258000#32, Instr.copyMc 22#7 0#6 0#2),
   (0xD4050F20#32, Instr.mxMma 20#7 15#6 8#6 0#2),
   (0xD8810018#32, Instr.waitExt 4#7 0#6 6#6 0#2)] := by repeat first | exact trivial | refine ⟨rfl, ?_⟩

/-- Words written out from the rows of OP 0x00 in the opcode table: the match bits and distinct operand fields. -/
theorem test_decode_op_00 : decodesTo
  [(0x00000002#32, Instr.nop 2#2),
   (0x00800002#32, Instr.yield 2#2),
   (0x01005002#32, Instr.sleeptk 40#7 2#2)] := ⟨rfl, rfl, rfl, trivial⟩

/-- Words written out from the rows of OP 0x01 in the opcode table: the match bits and distinct operand fields. -/
theorem test_decode_op_01 : decodesTo
  [(0x0428A5FA#32, Instr.add 40#7 82#7 126#7 2#2),
   (0x04A8A5FA#32, Instr.sub 40#7 82#7 126#7 2#2),
   (0x0528A5FA#32, Instr.addc 40#7 82#7 126#7 2#2),
   (0x05A8A5FA#32, Instr.subb 40#7 82#7 126#7 2#2),
   (0x0628A5FA#32, Instr.addsI32 40#7 82#7 126#7 2#2),
   (0x06A8A5FA#32, Instr.subsI32 40#7 82#7 126#7 2#2),
   (0x0728A5FA#32, Instr.addsN32 40#7 82#7 126#7 2#2),
   (0x07A8A5FA#32, Instr.subsN32 40#7 82#7 126#7 2#2)] := by repeat first | exact trivial | refine ⟨rfl, ?_⟩

/-- Words written out from the rows of OP 0x02 in the opcode table: the match bits and distinct operand fields. -/
theorem test_decode_op_02 : decodesTo
  [(0x08514A96#32, Instr.addi 40#7 82#7 165#8 2#2),
   (0x09514A96#32, Instr.andi 40#7 82#7 165#8 2#2),
   (0x0A514A96#32, Instr.ori 40#7 82#7 165#8 2#2),
   (0x0B514A96#32, Instr.xori 40#7 82#7 165#8 2#2)] := ⟨rfl, rfl, rfl, rfl, trivial⟩

/-- Words written out from the rows of OP 0x03 in the opcode table: the match bits and distinct operand fields. -/
theorem test_decode_op_03 : decodesTo
  [(0x0C28A5FA#32, Instr.mul 40#7 82#7 126#7 2#2),
   (0x0CA8A5FA#32, Instr.mulhiI32 40#7 82#7 126#7 2#2),
   (0x0D28A5FA#32, Instr.mulhiN32 40#7 82#7 126#7 2#2),
   (0x0DA8A5FA#32, Instr.mad 40#7 82#7 126#7 2#2),
   (0x0E28A5FA#32, Instr.madhiI32 40#7 82#7 126#7 2#2),
   (0x0EA8A5FA#32, Instr.madhiN32 40#7 82#7 126#7 2#2),
   (0x0F28A5FA#32, Instr.mulwI32 40#7 82#7 126#7 2#2),
   (0x0FA8A5FA#32, Instr.mulwN32 40#7 82#7 126#7 2#2)] := by repeat first | exact trivial | refine ⟨rfl, ?_⟩

/-- Words written out from the rows of OP 0x04 in the opcode table: the match bits and distinct operand fields. -/
theorem test_decode_op_04 : decodesTo
  [(0x1028A5FA#32, Instr.and 40#7 82#7 126#7 2#2),
   (0x10A8A5FA#32, Instr.or 40#7 82#7 126#7 2#2),
   (0x1128A5FA#32, Instr.xor 40#7 82#7 126#7 2#2),
   (0x11A8A5FA#32, Instr.andn 40#7 82#7 126#7 2#2),
   (0x1228A5FA#32, Instr.orn 40#7 82#7 126#7 2#2),
   (0x12A8A5FA#32, Instr.xnor 40#7 82#7 126#7 2#2),
   (0x1328A402#32, Instr.not 40#7 82#7 2#2)] := by repeat first | exact trivial | refine ⟨rfl, ?_⟩

/-- Words written out from the rows of OP 0x05 in the opcode table: the match bits and distinct operand fields. -/
theorem test_decode_op_05 : decodesTo
  [(0x1428A5FA#32, Instr.shl 40#7 82#7 126#7 2#2),
   (0x14A8A5FA#32, Instr.shrN32 40#7 82#7 126#7 2#2),
   (0x1528A5FA#32, Instr.shrI32 40#7 82#7 126#7 2#2),
   (0x15A8A5FA#32, Instr.rotl 40#7 82#7 126#7 2#2),
   (0x1628A5FA#32, Instr.rotr 40#7 82#7 126#7 2#2),
   (0x16A8A5FA#32, Instr.fshl 40#7 82#7 126#7 2#2),
   (0x1728A5FA#32, Instr.fshr 40#7 82#7 126#7 2#2)] := by repeat first | exact trivial | refine ⟨rfl, ?_⟩

/-- Words written out from the rows of OP 0x06 in the opcode table: the match bits and distinct operand fields. -/
theorem test_decode_op_06 : decodesTo
  [(0x18514856#32, Instr.shli 40#7 82#7 21#5 2#2),
   (0x19514856#32, Instr.shriN32 40#7 82#7 21#5 2#2),
   (0x1A514856#32, Instr.shriI32 40#7 82#7 21#5 2#2),
   (0x1B514856#32, Instr.roti 40#7 82#7 21#5 2#2)] := ⟨rfl, rfl, rfl, rfl, trivial⟩

/-- Words written out from the rows of OP 0x07 in the opcode table: the match bits and distinct operand fields. -/
theorem test_decode_op_07 : decodesTo
  [(0x1C28A402#32, Instr.popc 40#7 82#7 2#2),
   (0x1CA8A402#32, Instr.clz 40#7 82#7 2#2),
   (0x1D28A402#32, Instr.ctz 40#7 82#7 2#2),
   (0x1DA8A402#32, Instr.brev 40#7 82#7 2#2),
   (0x1E28A402#32, Instr.bswap 40#7 82#7 2#2),
   (0x1EA8A5FA#32, Instr.perm 40#7 82#7 126#7 2#2),
   (0x1F28A5FA#32, Instr.bmsk 40#7 82#7 126#7 2#2)] := by repeat first | exact trivial | refine ⟨rfl, ?_⟩

/-- Words written out from the rows of OP 0x08 in the opcode table: the match bits and distinct operand fields. -/
theorem test_decode_op_08 : decodesTo
  [(0x2028A5FA#32, Instr.bfxN32 40#7 82#7 126#7 2#2),
   (0x20A8A5FA#32, Instr.bfxI32 40#7 82#7 126#7 2#2),
   (0x2128A5FA#32, Instr.bfi 40#7 82#7 126#7 2#2)] := ⟨rfl, rfl, rfl, trivial⟩

/-- Words written out from the rows of OP 0x09 in the opcode table: the match bits and distinct operand fields. -/
theorem test_decode_op_09 : decodesTo
  [(0x2428A5FA#32, Instr.minI32 40#7 82#7 126#7 2#2),
   (0x24A8A5FA#32, Instr.maxI32 40#7 82#7 126#7 2#2),
   (0x2528A5FA#32, Instr.minN32 40#7 82#7 126#7 2#2),
   (0x25A8A5FA#32, Instr.maxN32 40#7 82#7 126#7 2#2),
   (0x2628A402#32, Instr.absI32 40#7 82#7 2#2),
   (0x26A8A402#32, Instr.negI32 40#7 82#7 2#2),
   (0x2728A5FA#32, Instr.adiffN32 40#7 82#7 126#7 2#2)] := by repeat first | exact trivial | refine ⟨rfl, ?_⟩

/-- Words written out from the rows of OP 0x0A in the opcode table: the match bits and distinct operand fields. -/
theorem test_decode_op_0A : decodesTo
  [(0x2828A402#32, Instr.mov 40#7 82#7 2#2),
   (0x28A8A5FA#32, Instr.sel 40#7 82#7 126#7 2#2),
   (0x29284202#32, Instr.movsRead 40#7 33#7 2#2),
   (0x292825FE#32, Instr.movsWrite 40#7 18#7 2#2),
   (0x29A80A02#32, Instr.pop 40#7 5#7 2#2),
   (0x2A055002#32, Instr.push 5#7 40#7 2#2),
   (0x2AA80002#32, Instr.movp 40#7 2#2),
   (0x2B005002#32, Instr.setp 40#7 2#2),
   (0x2BA85202#32, Instr.movsv 40#7 41#7 2#2)] := by repeat first | exact trivial | refine ⟨rfl, ?_⟩

/-- Words written out from the rows of OP 0x0B in the opcode table: the match bits and distinct operand fields. -/
theorem test_decode_op_0B : decodesTo
  [(0x2CA2FBBE#32, Instr.movl 40#7 48879#16 2#2),
   (0x2EA2FBBE#32, Instr.movh 40#7 48879#16 2#2)] := ⟨rfl, rfl, trivial⟩

/-- Words written out from the rows of OP 0x0C in the opcode table: the match bits and distinct operand fields. -/
theorem test_decode_op_0C : decodesTo
  [(0x3088514A#32, Instr.cmpI32 2#4 8#6 40#7 82#7 2#2)] := ⟨rfl, trivial⟩

/-- Words written out from the rows of OP 0x0D in the opcode table: the match bits and distinct operand fields. -/
theorem test_decode_op_0D : decodesTo
  [(0x3488514A#32, Instr.cmpN32 2#4 8#6 40#7 82#7 2#2)] := ⟨rfl, trivial⟩

/-- Words written out from the rows of OP 0x0E in the opcode table: the match bits and distinct operand fields. -/
theorem test_decode_op_0E : decodesTo
  [(0x3888514A#32, Instr.cmpF32 2#4 8#6 40#7 82#7 2#2)] := ⟨rfl, trivial⟩

/-- Words written out from the rows of OP 0x0F in the opcode table: the match bits and distinct operand fields. -/
theorem test_decode_op_0F : decodesTo
  [(0x3C88514A#32, Instr.cmp64 2#4 8#6 40#7 82#7 2#2)] := ⟨rfl, trivial⟩

/-- Words written out from the rows of OP 0x10 in the opcode table: the match bits and distinct operand fields. -/
theorem test_decode_op_10 : decodesTo
  [(0x4010831A#32, Instr.pand 8#6 16#6 24#6 1#1 1#1 2#2),
   (0x4090831A#32, Instr.por 8#6 16#6 24#6 1#1 1#1 2#2),
   (0x4110831A#32, Instr.pxor 8#6 16#6 24#6 1#1 1#1 2#2),
   (0x41908012#32, Instr.pmov 8#6 16#6 1#1 2#2),
   (0x42100002#32, Instr.pset 8#6 2#2),
   (0x42900002#32, Instr.pclr 8#6 2#2)] := by repeat first | exact trivial | refine ⟨rfl, ?_⟩

/-- Words written out from the rows of OP 0x11 in the opcode table: the match bits and distinct operand fields. -/
theorem test_decode_op_11 : decodesTo
  [(0x46430002#32, Instr.guard 1#1 8#6 3#3 2#2)] := ⟨rfl, trivial⟩

/-- Words written out from the rows of OP 0x12 in the opcode table: the match bits and distinct operand fields. -/
theorem test_decode_op_12 : decodesTo
  [(0x49FFC036#32, Instr.bra 0#1 63#6 126989#17 2#2)] := ⟨rfl, trivial⟩

/-- Words written out from the rows of OP 0x13 in the opcode table: the match bits and distinct operand fields. -/
theorem test_decode_op_13 : decodesTo
  [(0x4DFFC036#32, Instr.call 0#1 63#6 126989#17 2#2)] := ⟨rfl, trivial⟩

/-- Words written out from the rows of OP 0x14 in the opcode table: the match bits and distinct operand fields. -/
theorem test_decode_op_14 : decodesTo
  [(0x50005002#32, Instr.jmp 40#7 2#2),
   (0x50805002#32, Instr.callr 40#7 2#2),
   (0x51000002#32, Instr.ret 2#2)] := ⟨rfl, rfl, rfl, trivial⟩

/-- Words written out from the rows of OP 0x15 in the opcode table: the match bits and distinct operand fields. -/
theorem test_decode_op_15 : decodesTo
  [(0x5428A5FA#32, Instr.fadd 40#7 82#7 126#7 2#2),
   (0x54A8A5FA#32, Instr.fsub 40#7 82#7 126#7 2#2),
   (0x5528A5FA#32, Instr.fmul 40#7 82#7 126#7 2#2),
   (0x55A8A5FA#32, Instr.fmin 40#7 82#7 126#7 2#2),
   (0x5628A5FA#32, Instr.fmax 40#7 82#7 126#7 2#2),
   (0x56A8A5FA#32, Instr.fminnum 40#7 82#7 126#7 2#2),
   (0x5728A5FA#32, Instr.fmaxnum 40#7 82#7 126#7 2#2),
   (0x57A8A5FA#32, Instr.fcopysign 40#7 82#7 126#7 2#2)] := by repeat first | exact trivial | refine ⟨rfl, ?_⟩

/-- Words written out from the rows of OP 0x16 in the opcode table: the match bits and distinct operand fields. -/
theorem test_decode_op_16 : decodesTo
  [(0x5828A5FA#32, Instr.ffma 40#7 82#7 126#7 2#2),
   (0x58A8A5FA#32, Instr.ffms 40#7 82#7 126#7 2#2),
   (0x5928A5FA#32, Instr.ffnma 40#7 82#7 126#7 2#2),
   (0x59A8A5FA#32, Instr.ffnms 40#7 82#7 126#7 2#2)] := ⟨rfl, rfl, rfl, rfl, trivial⟩

/-- Words written out from the rows of OP 0x17 in the opcode table: the match bits and distinct operand fields. -/
theorem test_decode_op_17 : decodesTo
  [(0x5C28A5FA#32, Instr.haddBf16x2 40#7 82#7 126#7 2#2),
   (0x5CA8A5FA#32, Instr.hmulBf16x2 40#7 82#7 126#7 2#2),
   (0x5D28A5FA#32, Instr.hfmaBf16x2 40#7 82#7 126#7 2#2),
   (0x5DA8A5FA#32, Instr.haddF16x2 40#7 82#7 126#7 2#2),
   (0x5E28A5FA#32, Instr.hmulF16x2 40#7 82#7 126#7 2#2),
   (0x5EA8A5FA#32, Instr.hfmaF16x2 40#7 82#7 126#7 2#2),
   (0x5F28A5FA#32, Instr.hmaxBf16x2 40#7 82#7 126#7 2#2),
   (0x5FA8A5FA#32, Instr.hminBf16x2 40#7 82#7 126#7 2#2)] := by repeat first | exact trivial | refine ⟨rfl, ?_⟩

/-- Words written out from the rows of OP 0x18 in the opcode table: the match bits and distinct operand fields. -/
theorem test_decode_op_18 : decodesTo
  [(0x6028A5FA#32, Instr.dadd 40#7 82#7 126#7 2#2),
   (0x60A8A5FA#32, Instr.dsub 40#7 82#7 126#7 2#2),
   (0x6128A5FA#32, Instr.dmul 40#7 82#7 126#7 2#2),
   (0x61A8A5FA#32, Instr.dfma 40#7 82#7 126#7 2#2),
   (0x6228A5FA#32, Instr.dmin 40#7 82#7 126#7 2#2),
   (0x62A8A5FA#32, Instr.dmax 40#7 82#7 126#7 2#2),
   (0x6328A5FA#32, Instr.ddiv 40#7 82#7 126#7 2#2),
   (0x63A8A402#32, Instr.dsqrt 40#7 82#7 2#2)] := by repeat first | exact trivial | refine ⟨rfl, ?_⟩

/-- Words written out from the rows of OP 0x19 in the opcode table: the match bits and distinct operand fields. -/
theorem test_decode_op_19 : decodesTo
  [(0x6428A402#32, Instr.rcp 40#7 82#7 2#2),
   (0x64A8A402#32, Instr.rsqrt 40#7 82#7 2#2),
   (0x6528A402#32, Instr.sqrt 40#7 82#7 2#2),
   (0x65A8A402#32, Instr.log2 40#7 82#7 2#2),
   (0x6628A402#32, Instr.exp2 40#7 82#7 2#2),
   (0x66A8A402#32, Instr.sin 40#7 82#7 2#2),
   (0x6728A402#32, Instr.cos 40#7 82#7 2#2),
   (0x67A8A402#32, Instr.tanh 40#7 82#7 2#2)] := by repeat first | exact trivial | refine ⟨rfl, ?_⟩

/-- Words written out from the rows of OP 0x1A in the opcode table: the match bits and distinct operand fields. -/
theorem test_decode_op_1A : decodesTo
  [(0x688514AE#32, Instr.cvt 8#6 40#7 82#7 11#4 2#2)] := ⟨rfl, trivial⟩

/-- Words written out from the rows of OP 0x1B in the opcode table: the match bits and distinct operand fields. -/
theorem test_decode_op_1B : decodesTo
  [(0x6C28A5FA#32, Instr.dotI8x4 40#7 82#7 126#7 2#2),
   (0x6CA8A5FA#32, Instr.dotsI8x4 40#7 82#7 126#7 2#2),
   (0x6D28A5FA#32, Instr.dotI4x8 40#7 82#7 126#7 2#2),
   (0x6DA8A5FA#32, Instr.dotF8ax4 40#7 82#7 126#7 2#2),
   (0x6E28A5FA#32, Instr.dotF8bx4 40#7 82#7 126#7 2#2),
   (0x6EA8A5FA#32, Instr.dotL4x8 40#7 82#7 126#7 2#2),
   (0x6F28A5FA#32, Instr.dotBf16x2 40#7 82#7 126#7 2#2)] := by repeat first | exact trivial | refine ⟨rfl, ?_⟩

/-- Words written out from the rows of OP 0x1C in the opcode table: the match bits and distinct operand fields. -/
theorem test_decode_op_1C : decodesTo
  [(0x7028A5FA#32, Instr.scalef 40#7 82#7 126#7 2#2),
   (0x70A8A402#32, Instr.fexp 40#7 82#7 2#2),
   (0x7128A402#32, Instr.fmant 40#7 82#7 2#2)] := ⟨rfl, rfl, rfl, trivial⟩

/-- Words written out from the rows of OP 0x1D in the opcode table: the match bits and distinct operand fields. -/
theorem test_decode_op_1D : decodesTo
  [(0x7408418A#32, Instr.sadd 8#6 16#6 24#6 1#1 2#2),
   (0x7448418A#32, Instr.ssub 8#6 16#6 24#6 1#1 2#2),
   (0x7488418A#32, Instr.smul 8#6 16#6 24#6 1#1 2#2),
   (0x74C8418A#32, Instr.sand 8#6 16#6 24#6 1#1 2#2),
   (0x7508418A#32, Instr.sor 8#6 16#6 24#6 1#1 2#2),
   (0x7548418A#32, Instr.sxor 8#6 16#6 24#6 1#1 2#2),
   (0x7588418A#32, Instr.sshl 8#6 16#6 24#6 1#1 2#2),
   (0x75C8418A#32, Instr.sshr 8#6 16#6 24#6 1#1 2#2),
   (0x7608010A#32, Instr.smov 8#6 16#6 1#1 2#2),
   (0x7648418A#32, Instr.smin 8#6 16#6 24#6 1#1 2#2),
   (0x7688418A#32, Instr.smax 8#6 16#6 24#6 1#1 2#2),
   (0x76C84002#32, Instr.sfrom 8#6 16#6 2#2)] := by repeat first | exact trivial | refine ⟨rfl, ?_⟩

/-- Words written out from the rows of OP 0x1E in the opcode table: the match bits and distinct operand fields. -/
theorem test_decode_op_1E : decodesTo
  [(0x780C388A#32, Instr.sldB32 12#6 14#6 8#6 1#1 2#2),
   (0x784C388A#32, Instr.sldB64 12#6 14#6 8#6 1#1 2#2)] := ⟨rfl, rfl, trivial⟩

/-- Words written out from the rows of OP 0x1F in the opcode table: the match bits and distinct operand fields. -/
theorem test_decode_op_1F : decodesTo
  [(0x7C0C388A#32, Instr.bset 12#6 14#6 8#6 1#1 2#2),
   (0x7C4C388A#32, Instr.badd 12#6 14#6 8#6 1#1 2#2),
   (0x7C8C381A#32, Instr.bget 12#6 14#6 1#6 2#2),
   (0x7CCC3802#32, Instr.bmov 12#6 14#6 2#2)] := ⟨rfl, rfl, rfl, rfl, trivial⟩

/-- Words written out from the rows of OP 0x20 in the opcode table: the match bits and distinct operand fields. -/
theorem test_decode_op_20 : decodesTo
  [(0x82281A4E#32, Instr.ld 4#3 40#7 1#4 82#7 3#3 2#2)] := ⟨rfl, trivial⟩

/-- Words written out from the rows of OP 0x21 in the opcode table: the match bits and distinct operand fields. -/
theorem test_decode_op_21 : decodesTo
  [(0x86281A4E#32, Instr.st 4#3 40#7 1#4 82#7 3#3 2#2)] := ⟨rfl, trivial⟩

/-- Words written out from the rows of OP 0x22 in the opcode table: the match bits and distinct operand fields. -/
theorem test_decode_op_22 : decodesTo
  [(0x8A281A4E#32, Instr.ldw 4#3 40#7 1#4 82#7 3#3 2#2)] := ⟨rfl, trivial⟩

/-- Words written out from the rows of OP 0x23 in the opcode table: the match bits and distinct operand fields. -/
theorem test_decode_op_23 : decodesTo
  [(0x8E281A4E#32, Instr.stw 4#3 40#7 1#4 82#7 3#3 2#2)] := ⟨rfl, trivial⟩

/-- Words written out from the rows of OP 0x24 in the opcode table: the match bits and distinct operand fields. -/
theorem test_decode_op_24 : decodesTo
  [(0x92281A4E#32, Instr.lds 4#3 40#7 1#4 82#7 3#3 2#2)] := ⟨rfl, trivial⟩

/-- Words written out from the rows of OP 0x25 in the opcode table: the match bits and distinct operand fields. -/
theorem test_decode_op_25 : decodesTo
  [(0x96281A4E#32, Instr.sts 4#3 40#7 1#4 82#7 3#3 2#2)] := ⟨rfl, trivial⟩

/-- Words written out from the rows of OP 0x26 in the opcode table: the match bits and distinct operand fields. -/
theorem test_decode_op_26 : decodesTo
  [(0x98281A4E#32, Instr.atomAddI32 40#7 1#4 82#7 3#3 2#2),
   (0x98A81A4E#32, Instr.atomAddF32 40#7 1#4 82#7 3#3 2#2),
   (0x99281A4E#32, Instr.atomMinI32 40#7 1#4 82#7 3#3 2#2),
   (0x99A81A4E#32, Instr.atomMaxI32 40#7 1#4 82#7 3#3 2#2),
   (0x9A281A4E#32, Instr.atomMinN32 40#7 1#4 82#7 3#3 2#2),
   (0x9AA81A4E#32, Instr.atomMaxN32 40#7 1#4 82#7 3#3 2#2),
   (0x9B281A4E#32, Instr.atomExch 40#7 1#4 82#7 3#3 2#2),
   (0x9BA81A4E#32, Instr.atomCas 40#7 1#4 82#7 3#3 2#2)] := by repeat first | exact trivial | refine ⟨rfl, ?_⟩

/-- Words written out from the rows of OP 0x27 in the opcode table: the match bits and distinct operand fields. -/
theorem test_decode_op_27 : decodesTo
  [(0x9C281A4E#32, Instr.atomAnd 40#7 1#4 82#7 3#3 2#2),
   (0x9CA81A4E#32, Instr.atomOr 40#7 1#4 82#7 3#3 2#2),
   (0x9D281A4E#32, Instr.atomXor 40#7 1#4 82#7 3#3 2#2),
   (0x9DA81A4E#32, Instr.atomAddI64 40#7 1#4 82#7 3#3 2#2),
   (0x9E281A4E#32, Instr.atomCasB64 40#7 1#4 82#7 3#3 2#2),
   (0x9EA81A4E#32, Instr.atomAddBf16x2 40#7 1#4 82#7 3#3 2#2),
   (0x9F281A4E#32, Instr.atomIncN32 40#7 1#4 82#7 3#3 2#2),
   (0x9FA81A4E#32, Instr.atomDecN32 40#7 1#4 82#7 3#3 2#2)] := by repeat first | exact trivial | refine ⟨rfl, ?_⟩

/-- Words written out from the rows of OP 0x28 in the opcode table: the match bits and distinct operand fields. -/
theorem test_decode_op_28 : decodesTo
  [(0xA0281A4E#32, Instr.redAddI32 40#7 1#4 82#7 3#3 2#2),
   (0xA0A81A4E#32, Instr.redAddF32 40#7 1#4 82#7 3#3 2#2),
   (0xA1281A4E#32, Instr.redMinI32 40#7 1#4 82#7 3#3 2#2),
   (0xA1A81A4E#32, Instr.redMaxI32 40#7 1#4 82#7 3#3 2#2),
   (0xA2281A4E#32, Instr.redMinN32 40#7 1#4 82#7 3#3 2#2),
   (0xA2A81A4E#32, Instr.redMaxN32 40#7 1#4 82#7 3#3 2#2),
   (0xA3281A4E#32, Instr.redExch 40#7 1#4 82#7 3#3 2#2),
   (0xA3A81A4E#32, Instr.redCas 40#7 1#4 82#7 3#3 2#2)] := by repeat first | exact trivial | refine ⟨rfl, ?_⟩

/-- Words written out from the rows of OP 0x29 in the opcode table: the match bits and distinct operand fields. -/
theorem test_decode_op_29 : decodesTo
  [(0xA4281A4E#32, Instr.redAnd 40#7 1#4 82#7 3#3 2#2),
   (0xA4A81A4E#32, Instr.redOr 40#7 1#4 82#7 3#3 2#2),
   (0xA5281A4E#32, Instr.redXor 40#7 1#4 82#7 3#3 2#2),
   (0xA5A81A4E#32, Instr.redAddI64 40#7 1#4 82#7 3#3 2#2),
   (0xA6281A4E#32, Instr.redCasB64 40#7 1#4 82#7 3#3 2#2),
   (0xA6A81A4E#32, Instr.redAddBf16x2 40#7 1#4 82#7 3#3 2#2),
   (0xA7281A4E#32, Instr.redIncN32 40#7 1#4 82#7 3#3 2#2),
   (0xA7A81A4E#32, Instr.redDecN32 40#7 1#4 82#7 3#3 2#2)] := by repeat first | exact trivial | refine ⟨rfl, ?_⟩

/-- Words written out from the rows of OP 0x2A in the opcode table: the match bits and distinct operand fields. -/
theorem test_decode_op_2A : decodesTo
  [(0xA8281A4E#32, Instr.atomsAddI32 40#7 1#4 82#7 3#3 2#2),
   (0xA8A81A4E#32, Instr.atomsAddF32 40#7 1#4 82#7 3#3 2#2),
   (0xA9281A4E#32, Instr.atomsMinI32 40#7 1#4 82#7 3#3 2#2),
   (0xA9A81A4E#32, Instr.atomsMaxI32 40#7 1#4 82#7 3#3 2#2),
   (0xAA281A4E#32, Instr.atomsMinN32 40#7 1#4 82#7 3#3 2#2),
   (0xAAA81A4E#32, Instr.atomsMaxN32 40#7 1#4 82#7 3#3 2#2),
   (0xAB281A4E#32, Instr.atomsExch 40#7 1#4 82#7 3#3 2#2),
   (0xABA81A4E#32, Instr.atomsCas 40#7 1#4 82#7 3#3 2#2)] := by repeat first | exact trivial | refine ⟨rfl, ?_⟩

/-- Words written out from the rows of OP 0x2B in the opcode table: the match bits and distinct operand fields. -/
theorem test_decode_op_2B : decodesTo
  [(0xAC000002#32, Instr.fenceRelTeam 2#2),
   (0xAC200002#32, Instr.fenceRelCluster 2#2),
   (0xAC400002#32, Instr.fenceRelDevice 2#2),
   (0xAC600002#32, Instr.fenceRelSystem 2#2),
   (0xAC800002#32, Instr.fenceAcq 2#2),
   (0xACA00002#32, Instr.fenceFullTeam 2#2),
   (0xACC00002#32, Instr.fenceFullCluster 2#2),
   (0xACE00002#32, Instr.fenceFullDevice 2#2),
   (0xAD000002#32, Instr.fenceFullSystem 2#2),
   (0xAD200002#32, Instr.pfenceLc 2#2),
   (0xAD400002#32, Instr.pfenceLt 2#2)] := by repeat first | exact trivial | refine ⟨rfl, ?_⟩

/-- Words written out from the rows of OP 0x2C in the opcode table: the match bits and distinct operand fields. -/
theorem test_decode_op_2C : decodesTo
  [(0xB0000842#32, Instr.tbegin 8#6 16#6 2#2),
   (0xB0200002#32, Instr.tend 2#2),
   (0xB0400002#32, Instr.tabort 2#2),
   (0xB06A0002#32, Instr.tprobe 40#7 2#2),
   (0xB0800E22#32, Instr.adecl 14#6 8#6 2#2),
   (0xB0A00802#32, Instr.adrop 8#6 2#2)] := by repeat first | exact trivial | refine ⟨rfl, ?_⟩

/-- Words written out from the rows of OP 0x2D in the opcode table: the match bits and distinct operand fields. -/
theorem test_decode_op_2D : decodesTo
  [(0xB40A0802#32, Instr.forkW 40#7 8#6 2#2),
   (0xB42A0002#32, Instr.chooseFirst 40#7 2#2),
   (0xB44A0802#32, Instr.chooseBest 40#7 8#6 2#2),
   (0xB46A0002#32, Instr.wabort 40#7 2#2),
   (0xB48A0002#32, Instr.wquery 40#7 2#2)] := by repeat first | exact trivial | refine ⟨rfl, ?_⟩

/-- Words written out from the rows of OP 0x2E in the opcode table: the match bits and distinct operand fields. -/
theorem test_decode_op_2E : decodesTo
  [(0xB8000002#32, Instr.exitSave 2#2),
   (0xB8200002#32, Instr.entryDone 2#2),
   (0xB84A0802#32, Instr.rrec 40#7 8#6 2#2),
   (0xB8600802#32, Instr.rpoison 8#6 2#2)] := ⟨rfl, rfl, rfl, rfl, trivial⟩

/-- Words written out from the rows of OP 0x2F in the opcode table: the match bits and distinct operand fields. -/
theorem test_decode_op_2F : decodesTo
  [(0xBC000842#32, Instr.penInit 8#6 16#6 2#2),
   (0xBC200842#32, Instr.penExpect 8#6 16#6 2#2),
   (0xBC400802#32, Instr.penArrive 8#6 2#2),
   (0xBC600842#32, Instr.penWait 8#6 16#6 2#2),
   (0xBC8A0802#32, Instr.penTest 40#7 8#6 2#2),
   (0xBCA00802#32, Instr.barTeam 8#6 2#2),
   (0xBCC00842#32, Instr.barRole 8#6 16#6 2#2),
   (0xBCE00002#32, Instr.gsync 2#2),
   (0xBD000802#32, Instr.penInval 8#6 2#2)] := by repeat first | exact trivial | refine ⟨rfl, ?_⟩

/-- Words written out from the rows of OP 0x30 in the opcode table: the match bits and distinct operand fields. -/
theorem test_decode_op_30 : decodesTo
  [(0xC0285202#32, Instr.ballot 40#7 41#7 2#2),
   (0xC0A85202#32, Instr.vall 40#7 41#7 2#2),
   (0xC1285202#32, Instr.vany 40#7 41#7 2#2),
   (0xC1A8A402#32, Instr.matchLanes 40#7 82#7 2#2),
   (0xC228A5FA#32, Instr.shflIdx 40#7 82#7 126#7 2#2),
   (0xC2A8A5FA#32, Instr.shflUp 40#7 82#7 126#7 2#2),
   (0xC328A5FA#32, Instr.shflDown 40#7 82#7 126#7 2#2),
   (0xC3A8A5FA#32, Instr.shflXor 40#7 82#7 126#7 2#2)] := by repeat first | exact trivial | refine ⟨rfl, ?_⟩

/-- Words written out from the rows of OP 0x31 in the opcode table: the match bits and distinct operand fields. -/
theorem test_decode_op_31 : decodesTo
  [(0xC428A402#32, Instr.redaddI32 40#7 82#7 2#2),
   (0xC4A8A402#32, Instr.scanaddI32 40#7 82#7 2#2),
   (0xC528A402#32, Instr.exscanI32 40#7 82#7 2#2),
   (0xC5A8A402#32, Instr.redmaxI32 40#7 82#7 2#2),
   (0xC628A402#32, Instr.redminI32 40#7 82#7 2#2),
   (0xC6A8A402#32, Instr.redaddF32 40#7 82#7 2#2),
   (0xC7280002#32, Instr.elect 40#7 2#2),
   (0xC7805002#32, Instr.setgm 40#7 2#2)] := by repeat first | exact trivial | refine ⟨rfl, ?_⟩

/-- Words written out from the rows of OP 0x32 in the opcode table: the match bits and distinct operand fields. -/
theorem test_decode_op_32 : decodesTo
  [(0xC80A0802#32, Instr.copyTeam 40#7 8#6 2#2),
   (0xC82A0802#32, Instr.copyMc 40#7 8#6 2#2),
   (0xC84A0802#32, Instr.copySp 40#7 8#6 2#2),
   (0xC86A0802#32, Instr.copyOut 40#7 8#6 2#2),
   (0xC88A0842#32, Instr.rlkQ 40#7 8#6 16#6 2#2),
   (0xC8AA0802#32, Instr.copyBulk 40#7 8#6 2#2)] := by repeat first | exact trivial | refine ⟨rfl, ?_⟩

/-- Words written out from the rows of OP 0x33 in the opcode table: the match bits and distinct operand fields. -/
theorem test_decode_op_33 : decodesTo
  [(0xCC0A0802#32, Instr.gath 40#7 8#6 2#2),
   (0xCC200502#32, Instr.gathClose 5#6 2#2)] := ⟨rfl, rfl, trivial⟩

/-- Words written out from the rows of OP 0x34 in the opcode table: the match bits and distinct operand fields. -/
theorem test_decode_op_34 : decodesTo
  [(0xD0000522#32, Instr.trBind 5#6 8#6 2#2),
   (0xD0200502#32, Instr.trUnbind 5#6 2#2),
   (0xD04A0502#32, Instr.trFilled 40#7 5#6 2#2),
   (0xD06A0502#32, Instr.trFree 40#7 5#6 2#2),
   (0xD0800502#32, Instr.trReset 5#6 2#2)] := by repeat first | exact trivial | refine ⟨rfl, ?_⟩

/-- Words written out from the rows of OP 0x35 in the opcode table: the match bits and distinct operand fields. -/
theorem test_decode_op_35 : decodesTo
  [(0xD40A0842#32, Instr.mxMma 40#7 8#6 16#6 2#2),
   (0xD42A0802#32, Instr.mxRd 40#7 8#6 2#2),
   (0xD44A0842#32, Instr.mxSt 40#7 8#6 16#6 2#2),
   (0xD46A0842#32, Instr.mxLd 40#7 8#6 16#6 2#2),
   (0xD4800802#32, Instr.mxClr 8#6 2#2),
   (0xD4AA0002#32, Instr.mxStat 40#7 2#2)] := by repeat first | exact trivial | refine ⟨rfl, ?_⟩

/-- Words written out from the rows of OP 0x36 in the opcode table: the match bits and distinct operand fields. -/
theorem test_decode_op_36 : decodesTo
  [(0xD8000E22#32, Instr.launch 14#6 8#6 2#2),
   (0xD8200002#32, Instr.exit 2#2),
   (0xD8400E22#32, Instr.exitSucc 14#6 8#6 2#2),
   (0xD8600002#32, Instr.tyield 2#2),
   (0xD88A0E22#32, Instr.waitExt 40#7 14#6 8#6 2#2),
   (0xD8A00802#32, Instr.sigHost 8#6 2#2),
   (0xD8C00802#32, Instr.sleep 8#6 2#2)] := by repeat first | exact trivial | refine ⟨rfl, ?_⟩

/-- Words written out from the rows of OP 0x37 in the opcode table: the match bits and distinct operand fields. -/
theorem test_decode_op_37 : decodesTo
  [(0xDC000802#32, Instr.trap 8#6 2#2),
   (0xDC200002#32, Instr.brk 2#2),
   (0xDC4A0802#32, Instr.rdpriv 40#7 8#6 2#2),
   (0xDC6A0802#32, Instr.wrpriv 40#7 8#6 2#2),
   (0xDC800002#32, Instr.tret 2#2),
   (0xDC800006#32, Instr.tretSkip 2#2),
   (0xDCA00842#32, Instr.ipref 8#6 16#6 2#2),
   (0xDCCA0842#32, Instr.ipin 40#7 8#6 16#6 2#2),
   (0xDCEA0842#32, Instr.iunpin 40#7 8#6 16#6 2#2),
   (0xDD0A0002#32, Instr.tmark 40#7 2#2),
   (0xDD2A0802#32, Instr.perfRd 40#7 8#6 2#2),
   (0xDD4A0002#32, Instr.clk 40#7 2#2)] := by repeat first | exact trivial | refine ⟨rfl, ?_⟩

end Sys2Proof.Tests
end

