-- ==== Sys2Proof/Tests/Witness.lean ====
section
/-! SUPPORT. Concrete states and operands that meet the hypotheses of the statements, clause by clause: no statement is empty. -/

set_option Elab.async false
set_option linter.unusedVariables false

namespace Sys2Proof.Tests

open Sys2Proof Machine Claims Laws

/-! ### A small machine -/

/-- The lane that stands before the word, and its slot. -/
def wLane : Tid := ⟨2, 0, 0⟩
def wSlot : Slot :=
  { core := 0, quad := 0, k := 0, flock := [wLane], fid := 1, due := 0, lastClass := none, paid := false, stalled := false, yielded := false, low := [] }

/-- The word of an instruction. -/
def wordOf (i : Instr) : Word := (encode i).getD 0

/-- The machine in which the flock of one lane issues `i`, its thread prepared by `f` and the rest by `g`. -/
def turnAt (i : Instr) (f : Thread → Thread) (g : State → State) : State :=
  openTurn (beginStep (g (modThread (State.reset.withFetchWord 32 (wordOf i).toNat) wLane f)) []) 0

/-- Scalar registers, base registers, and the record flags of the grid. -/
def withS (l : List (Nat × Word)) (s : State) : State :=
  modGroup s 2 0 fun g => { g with s := l.foldl (fun v x => updAt x.1 (fun _ => x.2) v) g.s }
def withB (l : List (Nat × VAddr)) (s : State) : State :=
  modTeam s 2 fun t => { t with b := l.foldl (fun v x => updAt x.1 (fun _ => x.2) v) t.b }
def withFlags (n : Nat) (s : State) : State :=
  modGrid s 1 fun g => { g with record := { g.record with flags := BitVec.ofNat _ n } }
def withV (l : List (Nat × Word)) (th : Thread) : Thread := { th with v := l.foldl (fun v x => updAt x.1 (fun _ => x.2) v) th.v }

/-- The context has a trap handler. -/
def withHandler (s : State) : State := modCtx s 1 fun c => { c with handler := 0x100 }

/-- The state meets what `RegResult` asks for `i`. -/
def MeetsReg (tbl : Instr → Option RegOp) (i : Instr) (s : State) : Prop :=
  ∃ word e, encode i = some word ∧ tbl i = some e ∧ Ready s wSlot word e.uses noHold

/-- The state meets what `Turns` and `Leaves` ask for `i`. -/
def MeetsTurn (tbl : Instr → Option TurnOp) (i : Instr) (s : State) : Prop :=
  ∃ word e, encode i = some word ∧ tbl i = some e ∧ Ready s wSlot word e.uses e.hold ∧ e.fit s wSlot ∧
    ∀ t ∈ e.who (lanesOf s wSlot e.uses), ∀ l, lane? (atIssue s wSlot) t wSlot.fid word = some l → e.cond l

theorem meets {tbl : Instr → Option TurnOp} {i : Instr} {s : State} {word : Word} {e : TurnOp} (h1 : encode i = some word) (h2 : tbl i = some e)
    (h3 : readyB s wSlot word e.uses e.hold = true) (hf : e.fit s wSlot) (P : Lane → Prop) (hP : e.cond = P)
    (h : ∀ t ∈ e.who (lanesOf s wSlot e.uses), ∀ l, lane? (atIssue s wSlot) t wSlot.fid word = some l → P l) : MeetsTurn tbl i s :=
  ⟨word, e, h1, h2, ready_of h3, hf, by rw [hP]; exact h⟩

/-- A lane that passes a check. -/
theorem ex_lane {s : State} {t : Tid} {fid : Nat} {word : Word} (p : Lane → Bool) (h : (match lane? s t fid word with | some l => p l | none => false) = true)
    {P : Lane → Prop} (hp : ∀ l, p l = true → P l) : ∃ l, lane? s t fid word = some l ∧ P l := by
  revert h
  cases lane? s t fid word with
  | none => intro h; cases h
  | some l => intro h; exact ⟨l, rfl, hp l h⟩

/-- Parts of a state, where they stand. -/
def thAt (s : State) (t : Tid) : Thread := (thread? s t).getD (Thread.start 0)
def tmAt (s : State) (id : Nat) : Team := (team? s id).getD (loadTeam id 1 1 0)
def grAt (s : State) (id g : Nat) : Group := (group? s id g).getD loadGroup
def cxAt (s : State) (id : Nat) : Context := (ctx? s id).getD (loadContext id)
def gdAt (s : State) (id : Nat) : Grid := (grid? s id).getD (loadGrid id 1)

/-- A whole group of the one lane. -/
theorem whole_group {s : State} {u : Uses} (h1 : (posOf s wSlot).guardLeft = 0) (h2 : lanesOf s wSlot u = [wLane])
    (h3 : group? (atIssue s wSlot) 2 0 = some (grAt (atIssue s wSlot) 2 0)) (h4 : (grAt (atIssue s wSlot) 2 0).rdv = [])
    (h5 : ∀ th, thread? (atIssue s wSlot) wLane = some th → th.gmask = 1) : WholeGroup s wSlot u := by
  refine ⟨h1, by rw [h2]; exact List.cons_ne_nil _ _, 0, _, 1, h3, h4, ?_, ?_⟩
  · intro t ht
    rw [h2] at ht
    cases List.mem_singleton.mp ht
    exact ⟨rfl, rfl, h5⟩
  · intro c hc hm
    refine .inl ⟨wLane, by rw [h2]; exact List.mem_singleton.mpr rfl, ?_⟩
    revert c
    decide

/-! ### Register instructions -/

theorem witness_integer : MeetsReg integerOp (.add 1 2 3 0) (turnAt (.add 1 2 3 0) id id) := ⟨_, _, rfl, rfl, ready_of (by decide +kernel)⟩
theorem witness_integer_carry : MeetsReg integerOp (.addc 1 2 3 0) (turnAt (.addc 1 2 3 0) id id) := ⟨_, _, rfl, rfl, ready_of (by decide +kernel)⟩
theorem witness_logic : MeetsReg logicOp (.shl 1 2 3 0) (turnAt (.shl 1 2 3 0) id id) := ⟨_, _, rfl, rfl, ready_of (by decide +kernel)⟩
theorem witness_bit : MeetsReg bitOp (.bfi 1 2 3 0) (turnAt (.bfi 1 2 3 0) id id) := ⟨_, _, rfl, rfl, ready_of (by decide +kernel)⟩
theorem witness_move : MeetsReg moveOp (.cmp64 1 3 2 4 0) (turnAt (.cmp64 1 3 2 4 0) id id) := ⟨_, _, rfl, rfl, ready_of (by decide +kernel)⟩
/-- `sel` stands in a guard span. -/
theorem witness_sel : MeetsReg moveOp (.sel 1 2 3 0) (turnAt (.sel 1 2 3 0) (fun th => { th with pc := { th.pc with guardLeft := 1 } }) id) :=
  ⟨_, _, rfl, rfl, ready_of (by decide +kernel)⟩
theorem witness_float : MeetsReg floatOp (.ffma 1 2 3 0) (turnAt (.ffma 1 2 3 0) id id) := ⟨_, _, rfl, rfl, ready_of (by decide +kernel)⟩
theorem witness_convert : MeetsReg convertOp (.dotI8x4 1 2 3 0) (turnAt (.dotI8x4 1 2 3 0) id id) := ⟨_, _, rfl, rfl, ready_of (by decide +kernel)⟩
theorem witness_longUnit : MeetsTurn longUnitOp (.dadd 2 4 6 0) (turnAt (.dadd 2 4 6 0) id id) :=
  ⟨_, _, rfl, rfl, ready_of (by decide +kernel), trivial, fun _ _ _ _ => trivial⟩
theorem witness_sfu : MeetsTurn longUnitOp (.rcp 2 4 0) (turnAt (.rcp 2 4 0) id id) :=
  ⟨_, _, rfl, rfl, ready_of (by decide +kernel), trivial, fun _ _ _ _ => trivial⟩

/-! ### Special registers and the thread's own words -/

theorem witness_movsRead : MeetsTurn specialOp (.movsRead 1 32 0) (turnAt (.movsRead 1 32 0) id id) :=
  ⟨_, _, rfl, rfl, ready_of (by decide +kernel), trivial, fun t ht l hl h => by revert t l; decide +kernel⟩
theorem witness_movsWrite : MeetsTurn specialOp (.movsWrite 1 16 0) (turnAt (.movsWrite 1 16 0) (withV [(1, 4)]) id) :=
  ⟨_, _, rfl, rfl, ready_of (by decide +kernel), trivial, fun t ht l hl h => by revert t l; decide +kernel⟩
theorem witness_setgm : MeetsTurn specialOp (.setgm 1 0) (turnAt (.setgm 1 0) (withV [(1, 1)]) id) :=
  ⟨_, _, rfl, rfl, ready_of (by decide +kernel), trivial, fun t ht l hl h => by revert t l; decide +kernel⟩
theorem witness_rdpriv : MeetsTurn specialOp (.rdpriv 1 2 0) (turnAt (.rdpriv 1 2 0) id (withFlags 64)) :=
  ⟨_, _, rfl, rfl, ready_of (by decide +kernel), trivial, fun t ht l hl h => by revert t l; decide +kernel⟩
theorem witness_perfRd : MeetsTurn specialOp (.perfRd 2 1 0) (turnAt (.perfRd 2 1 0) id (withS [(1, 11)])) :=
  ⟨_, _, rfl, rfl, ready_of (by decide +kernel), trivial, fun t ht l hl h => by revert t l; decide +kernel⟩
theorem witness_clk : MeetsTurn specialOp (.clk 2 0) (turnAt (.clk 2 0) id id) :=
  ⟨_, _, rfl, rfl, ready_of (by decide +kernel), trivial, fun t ht l hl h => by revert t l; decide +kernel⟩
theorem witness_tprobe : MeetsTurn specialOp (.tprobe 2 0) (turnAt (.tprobe 2 0) id id) :=
  ⟨_, _, rfl, rfl, ready_of (by decide +kernel), trivial, fun t ht l hl h => by revert t l; decide +kernel⟩
theorem witness_wquery : MeetsTurn specialOp (.wquery 2 0) (turnAt (.wquery 2 0) id id) :=
  ⟨_, _, rfl, rfl, ready_of (by decide +kernel), trivial, fun t ht l hl h => by revert t l; decide +kernel⟩
theorem witness_mxStat : MeetsTurn specialOp (.mxStat 2 0) (turnAt (.mxStat 2 0) id id) :=
  ⟨_, _, rfl, rfl, ready_of (by decide +kernel), trivial, fun t ht l hl h => by revert t l; decide +kernel⟩
theorem witness_sleeptk : MeetsTurn threadOp (.sleeptk 127 0) (turnAt (.sleeptk 127 0) id id) :=
  meets rfl rfl (by decide +kernel) trivial (fun l => 127 < l.g.regs) rfl (by decide +kernel)
/-- A clause of five words. -/
def wFive (th : Thread) : Thread := { th with pc := { th.pc with hword := 0xFD702000 } }

theorem wFive_words (n : Word) (h : n = 4 ∨ n = 8) : fetchWord (turnAt (.guard 0 3 2 0) wFive id) (headTeam wSlot)
    ((posOf (turnAt (.guard 0 3 2 0) wFive id) wSlot).off + n) = some 0 := by
  rcases h with h | h <;> subst h <;> decide +kernel

/-- A guard of two words in a clause of five, whose words are in memory. -/
theorem witness_guard : MeetsTurn threadOp (.guard 0 3 2 0) (turnAt (.guard 0 3 2 0) wFive id) :=
  meets rfl rfl (by decide +kernel) ⟨by decide +kernel, by decide +kernel, by decide +kernel, fun j hj w hw => by
    have hj : j < 2 := hj
    rw [wFive_words _ (by match j, hj with | 0, _ => exact .inl rfl | 1, _ => exact .inr rfl)] at hw
    cases hw; decide⟩ (fun _ => True) rfl (fun _ _ _ _ => trivial)

theorem witness_sleep_zero : MeetsTurn threadOp (.sleep 1 0) (turnAt (.sleep 1 0) id id) :=
  meets rfl rfl (by decide +kernel) trivial (fun l => rdS l.g 1 = 0) rfl (by decide +kernel)

/-- The thread runs an entry routine of region 0 that was entered from offset 4. -/
def wRoutine (k : RoutineKind) (th : Thread) : Thread :=
  { th with routine := some { kind := k, region := 0, start := 0, len := 64, budgetEnd := 100, resume := loadPc, stack := [], preds := 0, gmask := 1, fctl := 0, fstat := 0, slot := 0x20000 } }

theorem witness_rrec : MeetsTurn threadOp (.rrec 1 2 0) (turnAt (.rrec 1 2 0) (wRoutine .exit) (withS [(2, 0x4FC)])) :=
  meets rfl rfl (by decide +kernel) trivial (fun l => l.th.routine.isSome ∧ (rdS l.g 2).toNat % 4 = 0 ∧ (rdS l.g 2).toNat < 0x500) rfl (by decide +kernel)
theorem witness_rpoison : MeetsTurn threadOp (.rpoison 4 0) (turnAt (.rpoison 4 0) id (withS [(4, 0xFFFFFFFF)])) :=
  meets rfl rfl (by decide +kernel) trivial (fun _ => True) rfl (fun _ _ _ _ => trivial)

/-! ### Control transfers -/

/-- A header stands at offset 0 of the code. -/
def withHeader (s : State) : State := { s with mem := Memory.writeN s.mem 0x10000 (leBytes 4 0xFC700000) }

/-- `Lands`, checked. -/
def landsB (target : Int) (l : Lane) : Bool :=
  decide (0 ≤ target ∧ target % 4 = 0) && (match fetchWord l.s l.tid.team (BitVec.ofInt 32 target) with | some w => w.extractLsb' 26 6 == 0x3F#6 | none => false) &&
    (match (if handlerOut l.th then none else l.th.routine) with
      | some r => decide (r.start.toNat ≤ (BitVec.ofInt 32 target).toNat ∧ (BitVec.ofInt 32 target).toNat < r.start.toNat + r.len)
      | none => l.tm.regions.isEmpty)

theorem lands_of {target : Int} {l : Lane} (h : landsB target l = true) : Lands target l := by
  simp only [landsB, Bool.and_eq_true, decide_eq_true_eq] at h
  obtain ⟨⟨h1, h2⟩, h3⟩ := h
  refine ⟨h1.1, h1.2, ?_, ?_⟩
  · revert h2
    cases fetchWord l.s l.tid.team (BitVec.ofInt 32 target) with
    | none => intro h; cases h
    | some w => intro h; exact ⟨w, rfl, eq_of_beq h⟩
  · revert h3
    cases (if handlerOut l.th then none else l.th.routine) with
    | some r => exact fun h => of_decide_eq_true h
    | none =>
      intro h r hr
      rw [List.isEmpty_iff.mp h] at hr
      cases hr

/-- A taken branch, and one that is not taken. -/
theorem witness_bra : MeetsTurn transferOp (.bra 0 63 0 0) (turnAt (.bra 0 63 0 0) id withHeader) :=
  meets rfl rfl (by decide +kernel) trivial _ rfl (of_seen (p := fun l => landsB (aimB 0 l) l) (by decide +kernel) fun l h _ => lands_of h)
theorem witness_bra_not_taken : MeetsTurn transferOp (.bra 0 3 5 0) (turnAt (.bra 0 3 5 0) id id) :=
  meets rfl rfl (by decide +kernel) trivial _ rfl (of_seen (p := fun l => l.th.p.getLsbD 3 == false) (by decide +kernel) fun l h ht => by
    rcases ht with ht | ht
    · exact absurd ht (by decide)
    · exact absurd (eq_of_beq h) ht)
theorem witness_call : MeetsTurn transferOp (.call 0 63 0 0) (turnAt (.call 0 63 0 0) (fun th => { th with stack := List.replicate 7 0 }) withHeader) :=
  meets rfl rfl (by decide +kernel) trivial _ rfl (of_seen (p := fun l => decide (l.th.stack.length < 8) && landsB (aimB 0 l) l) (by decide +kernel) fun l h _ =>
    ⟨of_decide_eq_true (Bool.and_eq_true _ _ ▸ h).1, lands_of (Bool.and_eq_true _ _ ▸ h).2⟩)
theorem witness_jmp : MeetsTurn transferOp (.jmp 1 0) (turnAt (.jmp 1 0) id withHeader) :=
  meets rfl rfl (by decide +kernel) trivial _ rfl (of_seen (p := fun l => landsB (rdV l.th 1).toNat l) (by decide +kernel) fun l h => lands_of h)
theorem witness_callr : MeetsTurn transferOp (.callr 1 0) (turnAt (.callr 1 0) id withHeader) :=
  meets rfl rfl (by decide +kernel) trivial _ rfl (of_seen (p := fun l => decide (l.th.stack.length < 8) && landsB (rdV l.th 1).toNat l) (by decide +kernel) fun l h =>
    ⟨of_decide_eq_true (Bool.and_eq_true _ _ ▸ h).1, lands_of (Bool.and_eq_true _ _ ▸ h).2⟩)
theorem witness_ret : MeetsTurn transferOp (.ret 0) (turnAt (.ret 0) (fun th => { th with stack := [8, 0] }) withHeader) :=
  meets rfl rfl (by decide +kernel) trivial _ rfl (of_seen (p := fun l => l.th.stack.getLast? == some 0 && landsB 0 l) (by decide +kernel) fun l h =>
    ⟨0, eq_of_beq (Bool.and_eq_true _ _ ▸ h).1, lands_of (Bool.and_eq_true _ _ ▸ h).2⟩)

/-! ### Memory accesses -/

/-- `Reaches`, checked. -/
def reachesB (l : Lane) (b off n : Nat) (op : AccOp) (ord : Nat) : Bool :=
  let va := (rdB l.tm l.th b).toNat + off
  (b != 15 || l.th.routine.isNone) && formAddr (rdB l.tm l.th b).toNat off == some va && va % n == 0 && (ord != 6 || regionNo va == 0) &&
    (regionNo va != 2 || (match op with | .atomic _ _ => false | _ => true)) && (regionNo va != 1 || peerReach l.s (partOf l.s l.tm) (va / 2 ^ 66 % 1024)) &&
    !lockHit l.s l.tm.core l.tm.ctx false op.stores va n && (l.tm.fork.isNone || (regionNo va == 0 && ord != 7)) &&
    (op.stores || regionNo va != 0 || (match granuleOf l.s l.tm.ctx va with | some x => ord == 6 || holderOf l.s l.tm.ctx x.1.id x.2 == l.tm.family | none => true)) &&
    (!op.stores || (l.tm.family.isNone && l.tm.fork.isNone && l.tm.view == 0 && (granuleOf l.s l.tm.ctx va).isNone))

theorem reaches_of {l : Lane} {b off n : Nat} {op : AccOp} {ord : Nat} (h : reachesB l b off n op ord = true) : Reaches l b off n op ord := by
  simp only [reachesB, and_assoc, Bool.and_eq_true, Bool.or_eq_true, Bool.not_eq_true', bne_iff_ne, beq_iff_eq, Option.isNone_iff_eq_none] at h
  obtain ⟨h1, h2, h3, h4, h5, h⟩ := h
  obtain ⟨h6, h7, h8, h9, h10⟩ := h
  refine ⟨fun h => h1.resolve_left (absurd h), h2, h3, fun h => h4.resolve_left (absurd h), fun h o d e => ?_, fun h => h6.resolve_left (absurd h), h7,
    fun h => h8.resolve_left h, fun h1 h2 x hx => ?_, fun h => ?_⟩
  · rw [e] at h5; exact h5.elim (absurd h) (fun h => Bool.noConfusion h)
  · rcases h9 with h9 | h9
    · rcases h9 with h9 | h9
      · rw [h1] at h9; cases h9
      · exact absurd h2 h9
    · rw [hx] at h9; simpa using h9
  · rw [h] at h10; simpa [and_assoc] using h10

theorem witness_load : MeetsTurn accessOp (.ld 4 6 2 4 0 0) (turnAt (.ld 4 6 2 4 0 0) (withV [(4, 0x100)]) (withB [(2, 0x20000)])) :=
  meets rfl rfl (by decide +kernel) trivial _ rfl (of_seen (p := fun l => reachesB l 2 (rdV l.th 4).toNat 4 (.load 6 false) 0) (by decide +kernel) fun l h => reaches_of h)
theorem witness_load_acquire_wide : MeetsTurn accessOp (.ldw 6 8 2 4 3 0) (turnAt (.ldw 6 8 2 4 3 0) (withV [(4, 0x100), (5, 1)]) id) :=
  meets rfl rfl (by decide +kernel) trivial _ rfl (of_seen (p := fun l => reachesB l 2 (rdV64 l.th 4).toNat 16 (.load 8 false) 3) (by decide +kernel) fun l h => reaches_of h)
theorem witness_store : MeetsTurn accessOp (.st 4 6 2 4 0 0) (turnAt (.st 4 6 2 4 0 0) (withV [(4, 0x100)]) (withB [(2, 0x20000)])) :=
  meets rfl rfl (by decide +kernel) trivial _ rfl (of_seen (p := fun l => reachesB l 2 (rdV l.th 4).toNat 4 .store 0) (by decide +kernel) fun l h => reaches_of h)
theorem witness_store_wide : MeetsTurn accessOp (.stw 5 6 2 4 2 0) (turnAt (.stw 5 6 2 4 2 0) (withV [(4, 0x100)]) (withB [(2, 0x20000)])) :=
  meets rfl rfl (by decide +kernel) trivial _ rfl (of_seen (p := fun l => reachesB l 2 (rdV64 l.th 4).toNat 8 .store 2) (by decide +kernel) fun l h => reaches_of h)
/-- An address of scratchpad, checked. -/
def scratchB (l : Lane) (wc : Bool) (off n core x : Nat) : Bool :=
  match scratchAddr l.s l.tm wc off n with | .ok p => p == (core, x) | .error _ => false

theorem scratch_of {l : Lane} {wc : Bool} {off n core x : Nat} (h : scratchB l wc off n core x = true) : scratchAddr l.s l.tm wc off n = .ok (core, x) := by
  revert h
  rw [scratchB]
  cases scratchAddr l.s l.tm wc off n with
  | error _ => intro h; cases h
  | ok p => intro h; rw [eq_of_beq h]

/-- What a scratchpad access of `n` bytes at offset register `o` asks, checked: it lands at core address `x` of core 0. -/
def scratchFits (o n x : Nat) (stores : Bool) (l : Lane) : Bool :=
  (rdV l.th o).toNat % n == 0 && scratchB l false (rdV l.th o).toNat n 0 x && !lockHit l.s l.tm.core l.tm.ctx true stores x n

theorem scratch_fits {o n x : Nat} {stores : Bool} {l : Lane} (h : scratchFits o n x stores l = true) : (rdV l.th o).toNat % n = 0 ∧
    ∃ core x, scratchAddr l.s l.tm false (rdV l.th o).toNat n = .ok (core, x) ∧ lockHit l.s l.tm.core l.tm.ctx true stores x n = false := by
  simp only [scratchFits, Bool.and_eq_true, beq_iff_eq, Bool.not_eq_true'] at h
  exact ⟨h.1.1, 0, x, scratch_of h.1.2, h.2⟩

theorem witness_scratch_load : MeetsTurn accessOp (.lds 4 6 0 4 0 0) (turnAt (.lds 4 6 0 4 0 0) (withV [(4, 1020)]) id) :=
  meets rfl rfl (by decide +kernel) trivial _ rfl (of_seen (p := scratchFits 4 4 1020 false) (by decide +kernel) fun l h => scratch_fits h)
theorem witness_scratch_store : MeetsTurn accessOp (.sts 6 8 0 4 0 0) (turnAt (.sts 6 8 0 4 0 0) (withV [(4, 1008)]) id) :=
  meets rfl rfl (by decide +kernel) trivial _ rfl (of_seen (p := scratchFits 4 16 1008 true) (by decide +kernel) fun l h => scratch_fits h)
theorem witness_atomic : MeetsTurn atomicOp (.atomAddI64 6 2 4 0 0) (turnAt (.atomAddI64 6 2 4 0 0) (withV [(4, 0x100)]) (withB [(2, 0x20000)])) :=
  meets rfl rfl (by decide +kernel) trivial _ rfl
    (of_seen (p := fun l => reachesB l 2 (rdV l.th 4).toNat 8 (.atomic .addI64 (some 6)) 0) (by decide +kernel) fun l h => reaches_of h)
theorem witness_reduction : MeetsTurn atomicOp (.redAddF32 6 2 4 2 0) (turnAt (.redAddF32 6 2 4 2 0) (withV [(4, 0x100)]) (withB [(2, 0x20000)])) :=
  meets rfl rfl (by decide +kernel) trivial _ rfl
    (of_seen (p := fun l => reachesB l 2 (rdV l.th 4).toNat 4 (.atomic .addF32 none) 2) (by decide +kernel) fun l h => reaches_of h)
theorem witness_scratch_atomic : MeetsTurn atomicOp (.atomsCas 6 0 4 0 0) (turnAt (.atomsCas 6 0 4 0 0) (withV [(4, 4)]) id) :=
  meets rfl rfl (by decide +kernel) trivial _ rfl (of_seen (p := scratchFits 4 4 4 true) (by decide +kernel) fun l h => scratch_fits h)
theorem witness_fence : MeetsTurn orderOp (.fenceRelDevice 0) (turnAt (.fenceRelDevice 0) id id) :=
  meets rfl rfl (by decide +kernel) trivial _ rfl (fun _ _ _ _ => trivial)

/-! ### Scalar and base registers -/

theorem witness_scalar : ∃ word e s, encode (.sadd 1 2 3 0 0) = some word ∧ scalarTable (.sadd 1 2 3 0 0) = some e ∧ Ready s wSlot word e.uses noHold :=
  ⟨_, _, turnAt (.sadd 1 2 3 0 0) id id, rfl, rfl, ready_of (by decide +kernel)⟩
theorem witness_sfrom : ∃ word e s, encode (.sfrom 1 2 0) = some word ∧ scalarTable (.sfrom 1 2 0) = some e ∧ Ready s wSlot word e.uses noHold :=
  ⟨_, _, turnAt (.sfrom 1 2 0) id id, rfl, rfl, ready_of (by decide +kernel)⟩
theorem witness_base : ∃ word e s l, encode (.badd 1 2 4 0 0) = some word ∧ baseTable (.badd 1 2 4 0 0) = some e ∧ Ready s wSlot word e.uses noHold ∧
    leader s wSlot e.uses word = some l := by
  refine ⟨_, _, turnAt (.badd 1 2 4 0 0) id id, ?_, rfl, rfl, ready_of (by decide +kernel), ?_⟩
  rotate_left
  · rfl
theorem witness_bget : ∃ word s l, encode (.bget 1 2 0 0) = some word ∧
    Ready s wSlot word { Uses.none cAlu with rb := [2], ws := [1, 2] } noHold ∧ leader s wSlot { Uses.none cAlu with rb := [2], ws := [1, 2] } word = some l := by
  refine ⟨_, turnAt (.bget 1 2 0 0) id id, ?_, rfl, ready_of (by decide +kernel), ?_⟩
  rotate_left
  · rfl
/-- `sld` of a pair of scalars, by the immediate. -/
theorem witness_sld : ∃ word s l, encode (.sldB64 2 1 1 1 0) = some word ∧
    Ready s wSlot word { Uses.none cMem with rb := [1], rs := [], ws := [2, 3], lead := 1 }
      (memHold 6 fun l => some (((rdB l.tm l.th 1).toNat + 4) % 2 ^ 80)) ∧
    groupLeaders (lanesOf s wSlot { Uses.none cMem with rb := [1], rs := [], ws := [2, 3], lead := 1 }) = [wLane] ∧
    lane? (atIssue s wSlot) wLane wSlot.fid word = some l ∧ Reaches l 1 4 8 (.scalar 2) 6 := by
  obtain ⟨l, hl, hr⟩ := ex_lane (s := atIssue (turnAt (.sldB64 2 1 1 1 0) id (withB [(1, 0x2004)])) wSlot) (t := wLane) (fid := wSlot.fid)
    (word := wordOf (.sldB64 2 1 1 1 0)) (fun l => reachesB l 1 4 8 (.scalar 2) 6) (by decide +kernel) fun l h => reaches_of h
  exact ⟨_, _, l, rfl, ready_of (by decide +kernel), by decide +kernel, hl, hr⟩

/-! ### Routines, collectives, barriers and plain words -/
noncomputable def sEntry : State := turnAt (.entryDone 0) (wRoutine .entry) (id)
theorem witness_EntriesEnd : ∃ st, ∃ word : Word, encode (.entryDone st) = some word ∧ ∃ s : State, ∃ sl : Slot, Ready s sl word { Uses.none cCtrl with last := true } anyPending ∧
    (∀ t ∈ lanesOf s sl { Uses.none cCtrl with last := true }, ∀ l, lane? (atIssue s sl) t sl.fid word = some l → l.th.checked = false ∧ (∃ c, ctx?
    (atIssue s sl) l.tm.ctx = some c) ∧ ∃ r, l.th.routine = some r ∧ r.kind = .entry) :=
  ⟨0, _, rfl, sEntry, wSlot, ready_of (by decide +kernel), fun t ht l hl => by
    have h : l.th.checked = false ∧ (∃ c, ctx? (atIssue sEntry wSlot) l.tm.ctx = some c ∧ True) ∧ ∃ r, l.th.routine = some r ∧ r.kind = .entry := by revert t l; decide +kernel
    obtain ⟨h1, ⟨c, hc, -⟩, h3⟩ := h
    exact ⟨h1, ⟨c, hc⟩, h3⟩⟩
noncomputable def sGsync : State := turnAt (.gsync 0) (id) (id)
theorem witness_GroupSync : ∃ st, ∃ word : Word, encode (.gsync st) = some word ∧ ∃ s : State, ∃ sl : Slot,
    let u : Uses := { Uses.none cCtrl with ban := true };
    Ready s sl word u noHold ∧ WholeGroup s sl u ∧ (∀ t ∈ lanesOf s sl u, ∀ th, thread? (atIssue s sl) t = some th → Quiet (atIssue s sl) t th) :=
  ⟨0, _, rfl, sGsync, wSlot, ready_of (by decide +kernel), whole_group (by decide +kernel) (by decide +kernel) (by decide +kernel) (by decide +kernel) (by decide +kernel), by unfold Quiet; decide +kernel⟩
noncomputable def sBar : State := turnAt (.barTeam 15 0) (id) (id)
theorem witness_Barriers_1 : ∃ (a : BitVec 6) (st : BitVec 2) (word : Word) (s : State) (sl : Slot), let u : Uses := { Uses.none cCtrl with ban := true };
    a.toNat < 16 ∧ encode (.barTeam a st) = some word ∧ Ready s sl word u noHold ∧ WholeTeam s sl u (fun _ _ => True) ∧
    ∀ t ∈ lanesOf s sl u, ∀ th, thread? (atIssue s sl) t = some th → Quiet (atIssue s sl) t th :=
  ⟨15, 0, _, sBar, wSlot, by decide +kernel, rfl, ready_of (by decide +kernel),
    ⟨by decide +kernel, by decide +kernel, tmAt (atIssue sBar wSlot) 2, by decide +kernel, by decide +kernel, by decide +kernel, by decide +kernel, by decide +kernel, by decide +kernel⟩, by unfold Quiet; decide +kernel⟩
noncomputable def sBarRole : State := turnAt (.barRole 1 15 0) (id) (id)
theorem witness_Barriers_2 : ∃ a : BitVec 6, ∃ b : BitVec 6, ∃ st, ∃ word : Word, ∃ s : State, ∃ sl : Slot, b.toNat < 16 ∧ encode (.barRole a b st) = some word ∧ a ≠ 0 ∧ (∀ tm,
    team? (atIssue s sl) (headTeam sl) = some tm → a.toNat < 2 ^ tm.hints.length) ∧
    (
    let u : Uses := { Uses.none cCtrl with ban := true };
    Ready s sl word u noHold ∧ WholeTeam s sl u (fun _ g => a.getLsbD g.role = true) ∧ (∀ t ∈ lanesOf s sl u, ∀ th, thread? (atIssue s sl) t = some th →
    Quiet (atIssue s sl) t th)) :=
  ⟨1, 15, 0, _, sBarRole, wSlot, by decide +kernel, rfl, by decide +kernel, by decide +kernel, ready_of (by decide +kernel), ⟨by decide +kernel, by decide +kernel, tmAt (atIssue sBarRole wSlot) 2, by decide +kernel, by decide +kernel, by decide +kernel, by decide +kernel, by decide +kernel, by decide +kernel⟩, by unfold Quiet; decide +kernel⟩
noncomputable def sNop : State := turnAt (.nop 0) (id) (id)
theorem witness_PlainWords_1 : ∃ st, ∃ word : Word, encode (.nop st) = some word ∧ ∃ s : State, ∃ sl : Slot, Ready s sl word (Uses.none none) noHold :=
  ⟨0, _, rfl, sNop, wSlot, ready_of (by decide +kernel)⟩
noncomputable def sYield : State := turnAt (.yield 0) (id) (id)
theorem witness_PlainWords_2 : ∃ st, ∃ word : Word, encode (.yield st) = some word ∧ ∃ s : State, ∃ sl : Slot, Ready s sl word (Uses.none none) noHold ∧ lanesOf s sl (Uses.none
    none) ≠ [] :=
  ⟨0, _, rfl, sYield, wSlot, ready_of (by decide +kernel), by decide +kernel⟩
/-- The trough of queue register 3 is bound, with `n` of its 4 slots filled. -/
def withTrough (n : Nat) (s : State) : State := modTeam s 2 fun t => { t with q := updAt 3 (fun _ => qCounts (qMake false 0 0 2 0 0) false n 0) t.q }
noncomputable def sPop : State := turnAt (.pop 1 3 0) (id) (withTrough 1)
theorem witness_TroughAccess_1 : ∃ d a st, ∃ word : Word, encode (.pop d a st) = some word ∧ ∃ s : State, ∃ sl : Slot,
    let u : Uses := { Uses.none cAlu with wv := [(d.toNat, 1)] };
    Ready s sl word u noHold ∧ (∀ t ∈ lanesOf s sl u, ∀ l, lane? (atIssue s sl) t sl.fid word = some l → qBound (qOf l.tm a.toNat) = true) :=
  ⟨1, 3, 0, _, rfl, sPop, wSlot, ready_of (by decide +kernel), by decide +kernel⟩
noncomputable def sPush : State := turnAt (.push 3 1 0) (id) (withTrough 1)
theorem witness_TroughAccess_2 : ∃ d a st, ∃ word : Word, encode (.push d a st) = some word ∧ ∃ s : State, ∃ sl : Slot,
    let u : Uses := { Uses.none cAlu with rv := [(a.toNat, 1)] };
    Ready s sl word u noHold ∧ (∀ t ∈ lanesOf s sl u, ∀ l, lane? (atIssue s sl) t sl.fid word = some l → qBound (qOf l.tm d.toNat) = true ∧ qClosed (qOf
    l.tm d.toNat) = false) :=
  ⟨3, 1, 0, _, rfl, sPush, wSlot, ready_of (by decide +kernel), by decide +kernel⟩

/-! ### Words of the tables that leave the flock, pens, counts and collectives -/

theorem vectors_of {l : Lane} (h : (match ctx? l.s l.tm.ctx with | some c => decide (c.handler ≠ 0) | none => false) = true)
    (h2 : l.th.handler = none ∧ inRoutine l.th .exit = false) : Vectors l := by
  refine ⟨?_, h2.1, .inl h2.2⟩
  revert h
  cases ctx? l.s l.tm.ctx with
  | none => intro h; cases h
  | some c => intro h; exact ⟨c, rfl, of_decide_eq_true h⟩

theorem witness_trap : MeetsTurn leaveOp (.trap 1 0) (turnAt (.trap 1 0) id withHandler) :=
  meets rfl rfl (by decide +kernel) trivial Vectors rfl fun t ht l hl => vectors_of (by revert t l; decide +kernel) (by revert t l; decide +kernel)
theorem witness_trap_alone : MeetsTurn trapWords (.trap 1 0) (turnAt (.trap 1 0) id withHandler) :=
  meets rfl rfl (by decide +kernel) trivial Vectors rfl fun t ht l hl => vectors_of (by revert t l; decide +kernel) (by revert t l; decide +kernel)
theorem witness_brk : MeetsTurn trapWords (.brk 0) (turnAt (.brk 0) id withHandler) :=
  meets rfl rfl (by decide +kernel) trivial Vectors rfl fun t ht l hl => vectors_of (by revert t l; decide +kernel) (by revert t l; decide +kernel)
theorem witness_tret : MeetsTurn leaveOp (.tret 0) (turnAt (.tret 0) (fun th => { th with handler := some ⟨loadPc, false⟩ }) id) :=
  meets rfl rfl (by decide +kernel) trivial (fun l => l.th.handler.isSome ∧ inRoutine l.th .exit = false ∧ inRoutineCode l.th = false) rfl (by decide +kernel)
theorem witness_tretSkip : MeetsTurn leaveOp (.tretSkip 0) (turnAt (.tretSkip 0) (fun th => { th with handler := some ⟨loadPc, false⟩ }) id) :=
  meets rfl rfl (by decide +kernel) trivial (fun l => l.th.handler.isSome ∧ inRoutine l.th .exit = false ∧ inRoutineCode l.th = false) rfl (by decide +kernel)
theorem witness_sleep : MeetsTurn leaveOp (.sleep 1 0) (turnAt (.sleep 1 0) id (withS [(1, 1)])) :=
  meets rfl rfl (by decide +kernel) trivial (fun l => rdS l.g 1 ≠ 0) rfl (by decide +kernel)
theorem witness_waitExt : MeetsTurn leaveOp (.waitExt 2 1 1 0) (turnAt (.waitExt 2 1 1 0) id (withS [(1, 0x108)])) :=
  meets rfl rfl (by decide +kernel) trivial _ rfl (of_seen (p := fun l => l.tm.fork.isNone && regionNo ((rdB l.tm l.th 1).toNat + (rdS l.g 1).toNat) == 0 &&
    reachesB l 1 (rdS l.g 1).toNat 8 (.waitExt (rdV64 l.th 2)) 0) (by decide +kernel) fun l h => by
      simp only [Bool.and_eq_true, beq_iff_eq, Option.isNone_iff_eq_none] at h
      exact ⟨h.1.1, h.1.2, reaches_of h.2⟩)
theorem witness_exitSave : MeetsTurn leaveOp (.exitSave 0) (turnAt (.exitSave 0) (wRoutine .exit) id) :=
  meets rfl rfl (by decide +kernel) trivial _ rfl fun t ht l hl => by
    have h : ∃ r, l.th.routine = some r ∧ (r.kind = .exit ∧ l.th.status = none ∧ l.s.time < r.budgetEnd ∧ l.th.queue = [] ∧ (∀ e ∈ l.s.gate, e.tid ≠ l.tid) ∧
        (∀ q ∈ l.s.troughs, q.tid ≠ l.tid) ∧ l.th.wctTeam ≤ l.s.time ∧ l.th.wctDevice ≤ l.s.time) := by revert t l; decide +kernel
    exact h

/-- A pen stands at offset 0 of the allocation: expected count 1, phase 0, stamped with the team's generation. -/
def withPen (s : State) : State := putPen s 0 0 (penFresh 1 1)

/-- A pen that scalar `a` names by offset 0, checked. -/
def penB (a : BitVec 6) (l : Lane) : Bool := (rdS l.g a.toNat).toNat % 64 == 0 && scratchB l false (rdS l.g a.toNat).toNat 64 0 0

theorem pen_of {a : BitVec 6} {l : Lane} (h : penB a l = true) : PenAt l a 0 := by
  simp only [penB, Bool.and_eq_true, beq_iff_eq] at h
  exact ⟨h.1, 0, scratch_of h.2⟩

theorem witness_penInit : MeetsTurn penTable (.penInit 1 2 0) (turnAt (.penInit 1 2 0) id (withS [(2, 255)])) :=
  meets rfl rfl (by decide +kernel) trivial _ rfl (of_seen (p := fun l => penB 1 l && decide (1 ≤ (rdS l.g 2).toNat ∧ (rdS l.g 2).toNat ≤ 255)) (by decide +kernel) fun l h => by
    rw [Bool.and_eq_true] at h; exact ⟨⟨0, pen_of h.1⟩, of_decide_eq_true h.2⟩)
theorem witness_penExpect : MeetsTurn penTable (.penExpect 1 2 0) (turnAt (.penExpect 1 2 0) id withPen) :=
  meets rfl rfl (by decide +kernel) trivial _ rfl (of_seen (p := penB 1) (by decide +kernel) fun l h => ⟨0, pen_of h⟩)
theorem witness_penInval : MeetsTurn penTable (.penInval 1 0) (turnAt (.penInval 1 0) id withPen) :=
  meets rfl rfl (by decide +kernel) trivial _ rfl (of_seen (p := penB 1) (by decide +kernel) fun l h => ⟨0, pen_of h⟩)
theorem witness_penArrive : MeetsTurn penTable (.penArrive 1 0) (turnAt (.penArrive 1 0) id withPen) :=
  meets rfl rfl (by decide +kernel) trivial _ rfl (of_seen (p := penB 1) (by decide +kernel) fun l h => ⟨0, pen_of h⟩)
theorem witness_penTest : MeetsTurn penTable (.penTest 3 1 0) (turnAt (.penTest 3 1 0) id withPen) :=
  meets rfl rfl (by decide +kernel) trivial _ rfl (of_seen (p := penB 1) (by decide +kernel) fun l h => ⟨0, pen_of h⟩)

/-- A pen in order whose phase is `ph`, checked. -/
def penOkB (ph : Bool) (l : Lane) : Bool :=
  penB 1 l && penBadCode (genAt l.s l.tm.core 0) (penAt l.s l.tm.core 0) == none && penPhase (penAt l.s l.tm.core 0) == ph

/-- `pen.wait` on the phase that the pen has: it waits. -/
theorem witness_penWait : MeetsTurn leaveOp (.penWait 1 2 0) (turnAt (.penWait 1 2 0) id withPen) :=
  meets rfl rfl (by decide +kernel) trivial _ rfl (of_seen (p := fun l => penOkB false l && (rdS l.g 2).getLsbD 0 == false) (by decide +kernel) fun l h => by
    simp only [penOkB, Bool.and_eq_true, beq_iff_eq] at h
    exact ⟨0, pen_of h.1.1.1, h.1.1.2, h.1.2.trans h.2.symm⟩)
/-- `pen.wait` on the other phase: it goes on. -/
theorem witness_penWait_past : MeetsTurn penTable (.penWait 1 2 0) (turnAt (.penWait 1 2 0) id (withPen ∘ withS [(2, 1)])) :=
  meets rfl rfl (by decide +kernel) trivial _ rfl (of_seen (p := fun l => penOkB false l && (rdS l.g 2).getLsbD 0 == true) (by decide +kernel) fun l h => by
    simp only [penOkB, Bool.and_eq_true, beq_iff_eq] at h
    refine ⟨0, pen_of h.1.1.1, h.1.1.2, fun e => ?_⟩
    rw [h.1.2] at e
    exact Bool.noConfusion (e.trans h.2))
theorem witness_rlkQ : MeetsTurn countTable (.rlkQ 1 2 3 0) (turnAt (.rlkQ 1 2 3 0) id (withS [(2, 1020), (3, 4)])) :=
  ⟨_, _, rfl, rfl, ready_of (by decide +kernel), trivial, fun t ht l hl h => by revert t l; decide +kernel⟩
theorem witness_trFilled : MeetsTurn countTable (.trFilled 1 3 0) (turnAt (.trFilled 1 3 0) id (withTrough 4)) :=
  ⟨_, _, rfl, rfl, ready_of (by decide +kernel), trivial, fun t ht l hl h => by revert t l; decide +kernel⟩
theorem witness_trFree : MeetsTurn countTable (.trFree 1 3 0) (turnAt (.trFree 1 3 0) id (withTrough 4)) :=
  ⟨_, _, rfl, rfl, ready_of (by decide +kernel), trivial, fun t ht l hl h => by revert t l; decide +kernel⟩
theorem witness_ballot : ∃ word e s, encode (.ballot 1 2 0) = some word ∧ collTable (.ballot 1 2 0) = some e ∧ Ready s wSlot word e.uses noHold ∧
    WholeGroup s wSlot e.uses :=
  ⟨_, _, turnAt (.ballot 1 2 0) id id, rfl, rfl, ready_of (by decide +kernel),
    whole_group (by decide +kernel) (by decide +kernel) (by decide +kernel) (by decide +kernel) (by decide +kernel)⟩
theorem witness_shuffle : ∃ word e s, encode (.shflDown 1 2 3 0) = some word ∧ collTable (.shflDown 1 2 3 0) = some e ∧ Ready s wSlot word e.uses noHold ∧
    WholeGroup s wSlot e.uses :=
  ⟨_, _, turnAt (.shflDown 1 2 3 0) id id, rfl, rfl, ready_of (by decide +kernel),
    whole_group (by decide +kernel) (by decide +kernel) (by decide +kernel) (by decide +kernel) (by decide +kernel)⟩

/-! ### Words that the team performs together -/

/-- The one lane is the whole team, and the rendezvous completes with its arrival. -/
theorem arrives {s : State} {u : Uses} {word : Word} {tm : Team} (h1 : (posOf s wSlot).guardLeft = 0) (h2 : lanesOf s wSlot u = [wLane])
    (h3 : team? (atIssue s wSlot) 2 = some tm) (h4 : tm.rdv = []) : Arriving s wSlot u word [] tm :=
  ⟨h1, by rw [h2]; exact List.cons_ne_nil _ _, h3, h4, ⟨List.nodup_nil, fun _ h => nomatch h⟩, fun _ h => nomatch h⟩

theorem assembles {s : State} {u : Uses} {word : Word} {tm : Team} (h1 : (posOf s wSlot).guardLeft = 0) (h2 : lanesOf s wSlot u = [wLane])
    (h3 : team? (atIssue s wSlot) 2 = some tm) (h4 : tm.rdv = []) (h5 : liveTids (atIssue s wSlot) tm.id = [wLane]) : Assembled s wSlot u word [] tm :=
  ⟨arrives h1 h2 h3 h4, fun t ht => by rw [h5] at ht; rw [h2]; exact .inl ht⟩

theorem all_here {s : State} {u : Uses} {word : Word} {tm : Team} {vals : Lane → List Word} {vs : List Word} (h1 : (posOf s wSlot).guardLeft = 0)
    (h2 : lanesOf s wSlot u = [wLane]) (h3 : team? (atIssue s wSlot) 2 = some tm) (h4 : tm.rdv = []) (h5 : liveTids (atIssue s wSlot) tm.id = [wLane])
    (h6 : ∀ a ∈ (rdvNow s wSlot u word [] vals).arrivals, a.vals = vs) : AllHere s wSlot u word [] tm vals vs :=
  ⟨assembles h1 h2 h3 h4 h5, h6⟩

/-- The team has an open task, with a view of its own. -/
def wFamily : Family := ⟨7, 1, 5, 2, .opened, 9, 1, 0, 8, 0, [wLane], false, false⟩
def withTask (s : State) : State :=
  modTeam { s with families := [wFamily], views := [⟨9, 0, 1, 1, .live, 0⟩] } 2 fun t => { t with family := some 7, view := 9 }
/-- The team is world 0 of a fork of two. -/
def wFork : Fork := ⟨8, 1, [⟨0, 2, 9, none, false, false, 2, 1⟩, ⟨1, 3, 10, none, false, false, 2, 1⟩], 0, 0, 1, none, false, 1, false, none, [], []⟩
def withFork (s : State) : State :=
  modTeam { s with forks := [wFork], views := [⟨9, 0, 1, 1, .live, 0⟩, ⟨10, 0, 1, 1, .live, 0⟩] } 2 fun t => { t with fork := some 8, nworld := 2, view := 9 }
/-- The context may allot view tags. -/
def withAlloc (n : Nat) (s : State) : State := modTeam s 2 fun t => { t with allocSize := n }
def withQuota (s : State) : State := modCtx s 1 fun c => { c with quota := 64 }
noncomputable def stend : State := turnAt (.tend 0) (id) (withTask)
theorem witness_tend : ∃ word s sl pre tm, encode (.tend 0) = some word ∧ Ready s sl word (usesTeam [] []) noHold ∧ Arriving s sl (usesTeam [] []) word pre tm ∧ tm.family.isSome ∧ tm.fork = none :=
  ⟨_, stend, wSlot, [], tmAt (atIssue stend wSlot) 2, rfl, ready_of (by decide +kernel), arrives (by decide +kernel) (by decide +kernel) (by decide +kernel) (by decide +kernel), by decide +kernel⟩
noncomputable def schooseBest : State := turnAt (.chooseBest 1 2 0) (id) (withFork)
theorem witness_chooseBest : ∃ word s sl pre tm, encode (.chooseBest 1 2 0) = some word ∧ Ready s sl word (usesTeam [1] [2]) noHold ∧ Arriving s sl (usesTeam [1] [2]) word pre tm ∧ tm.fork.isSome :=
  ⟨_, schooseBest, wSlot, [], tmAt (atIssue schooseBest wSlot) 2, rfl, ready_of (by decide +kernel), arrives (by decide +kernel) (by decide +kernel) (by decide +kernel) (by decide +kernel), by decide +kernel⟩
noncomputable def swabort : State := turnAt (.wabort 1 0) (id) (withFork)
theorem witness_wabort : ∃ word s sl pre tm, encode (.wabort 1 0) = some word ∧ Ready s sl word (usesTeam [1] []) noHold ∧ Arriving s sl (usesTeam [1] []) word pre tm ∧ tm.fork.isSome :=
  ⟨_, swabort, wSlot, [], tmAt (atIssue swabort wSlot) 2, rfl, ready_of (by decide +kernel), arrives (by decide +kernel) (by decide +kernel) (by decide +kernel) (by decide +kernel), by decide +kernel⟩
noncomputable def sTbegin : State := turnAt (.tbegin 1 5 0) (id) (withFlags 4 ∘ withQuota ∘ withAlloc 2048 ∘ withS [(1, 3), (5, 64)])
noncomputable def cTbegin : Context := cxAt (atIssue sTbegin wSlot) 1
noncomputable def allotted (s : State) (c : Context) (v : Nat) : Nat × State := (allotTag s c v).getD (0, s)
theorem allotted_of {s : State} {c : Context} {v : Nat} (h : (allotTag s c v).isSome = true) : allotTag s c v = some ((allotted s c v).1, (allotted s c v).2) := by
  obtain ⟨x, hx⟩ := Option.isSome_iff_exists.mp h
  rw [allotted, hx]
  rfl
theorem witness_TaskOpens : ∃ a b st, ∃ word : Word, encode (.tbegin a b st) = some word ∧ ∃ s : State, ∃ sl : Slot, ∃ pre, ∃ tm : Team, ∃ c tag, ∃ s1 vs,
    let u := usesTeam [] (b.toNat :: (upto 4).map (a.toNat + ·));
    let vals := fun (l : Lane) => (upto 4).map (fun i => rdS l.g (a.toNat + i)) ++ [rdS l.g b.toNat];
    let r := rdvNow s sl u word pre vals;
    let x := atIssue s sl;
    let m := vs.getD 3 0 ++ vs.getD 2 0 ++ vs.getD 1 0 ++ vs.getD 0 0;
    let sh := (vs.getD 4 0).toNat;
    Ready s sl word u noHold ∧ AllHere s sl u word pre tm vals vs ∧ flagOfGrid x tm 2 ∧ tm.family = none ∧ tm.fork = none ∧ x.time < 2 ^ 58 ∧ sh % 64 = 0
    ∧ sh + shadowSize tm.groups.length m ≤ tm.allocSize ∧ ctx? x tm.ctx = some c ∧ allotTag x c tm.view = some (tag, s1) ∧ snapshotPending x r = false ∧
    lastStamp x tm.core tm.slot ≠ some (x.time / 256 % 2 ^ 50) :=
  ⟨1, 5, 0, _, rfl, sTbegin, wSlot, [], tmAt (atIssue sTbegin wSlot) 2, cTbegin, (allotted (atIssue sTbegin wSlot) cTbegin 0).1, (allotted (atIssue sTbegin wSlot) cTbegin 0).2, [3, 0, 0, 0, 64], ready_of (by decide +kernel), all_here (by decide +kernel) (by decide +kernel) (by decide +kernel) (by decide +kernel) (by decide +kernel) (by decide +kernel), ⟨gdAt (atIssue sTbegin wSlot) 1, by decide +kernel, by decide +kernel⟩, by decide +kernel, by decide +kernel, by decide +kernel, by decide +kernel, by decide +kernel, by decide +kernel, allotted_of (by decide +kernel), by decide +kernel⟩
noncomputable def sTabort : State := turnAt (.tabort 0) (id) (withTask)
theorem witness_TaskAborts : ∃ st, ∃ word : Word, encode (.tabort st) = some word ∧ ∃ s : State, ∃ sl : Slot, ∃ pre, ∃ tm : Team, ∃ f,
    let u : Uses := { usesTeam [] [] with last := true };
    Ready s sl word u noHold ∧ AllHere s sl u word pre tm (fun _ => []) [] ∧ tm.family.bind (family? (atIssue s sl)) = some f ∧ f.state = .opened :=
  ⟨0, _, rfl, sTabort, wSlot, [], tmAt (atIssue sTabort wSlot) 2, wFamily, ready_of (by decide +kernel), all_here (by decide +kernel) (by decide +kernel) (by decide +kernel) (by decide +kernel) (by decide +kernel) (by decide +kernel), by decide +kernel⟩
noncomputable def sAdecl : State := turnAt (.adecl 1 2 0) (id) (withB [(1, 0x20000)] ∘ withS [(2, 32)])
theorem witness_SetWords_1 : ∃ a b st, ∃ word : Word, encode (.adecl a b st) = some word ∧ ∃ s : State, ∃ sl : Slot,
    let u : Uses := { Uses.none cCtrl with rb := [a.toNat], rs := [b.toNat], lead := 1 };
    let ts := lanesOf s sl u;
    Ready s sl word u (memHold 0 (fun l => some (((rdB l.tm l.th a.toNat).toNat + (rdS l.g b.toNat).toNat) % 2 ^ 80))) ∧ (∀ t ∈ ts, ∀ l, lane? (atIssue s
    sl) t sl.fid word = some l → l.th.routine = none ∧ l.tm.family = none ∧ l.tm.fork = none) ∧ (∀ t ∈ groupLeaders ts, ∀ l, lane? (atIssue s sl) t sl.fid
    word = some l → ((rdB l.tm l.th a.toNat).toNat + (rdS l.g b.toNat).toNat) % 32 = 0 ∧ Reaches l a.toNat (rdS l.g b.toNat).toNat 32 .adecl 0 ∧ regionNo
    ((rdB l.tm l.th a.toNat).toNat + (rdS l.g b.toNat).toNat) = 0) :=
  ⟨1, 2, 0, _, rfl, sAdecl, wSlot, ready_of (by decide +kernel), by decide +kernel, of_seen (p := fun l => ((rdB l.tm l.th 1).toNat + (rdS l.g 2).toNat) % 32 == 0 && reachesB l 1 (rdS l.g 2).toNat 32 .adecl 0 &&
      regionNo ((rdB l.tm l.th 1).toNat + (rdS l.g 2).toNat) == 0) (by decide +kernel) fun l h => by
      simp only [Bool.and_eq_true, beq_iff_eq] at h
      exact ⟨h.1.1, reaches_of h.1.2, h.2⟩⟩
noncomputable def sAdrop : State := turnAt (.adrop 1 0) (id) (fun s => withS [(1, 63)] { s with sets := [⟨1, 63, 0x20000, 128, 6, false⟩] })
theorem witness_SetWords_2 : ∃ a st, ∃ word : Word, encode (.adrop a st) = some word ∧ ∃ s : State, ∃ sl : Slot,
    let u : Uses := { Uses.none cCtrl with rs := [a.toNat], lead := 1 };
    Ready s sl word u noHold ∧ (∀ t ∈ groupLeaders (lanesOf s sl u), ∀ l, lane? (atIssue s sl) t sl.fid word = some l → l.th.routine = none ∧ l.tm.family
    = none ∧ l.tm.fork = none ∧ (rdS l.g a.toNat).toNat < 64 ∧ (∀ h ∈ l.s.holds, ¬(h.ctx = l.tm.ctx ∧ h.set = (rdS l.g a.toNat).toNat)) ∧ ∀ w ∈
    l.s.waiters, ¬(w.ctx = l.tm.ctx ∧ w.set = (rdS l.g a.toNat).toNat)) :=
  ⟨1, 0, _, rfl, sAdrop, wSlot, ready_of (by decide +kernel), by decide +kernel⟩
noncomputable def sForkW : State := turnAt (.forkW 1 2 0) (id) (withFlags 8 ∘ withQuota ∘ withS [(2, 8)])
theorem witness_WorldsFork : ∃ d a st, ∃ word : Word, encode (.forkW d a st) = some word ∧ ∃ s : State, ∃ sl : Slot, ∃ pre, ∃ tm : Team, ∃ c n,
    let u := usesTeam [d.toNat] [a.toNat];
    let vals := fun (l : Lane) => [rdS l.g a.toNat];
    let r := rdvNow s sl u word pre vals;
    let x := atIssue s sl;
    Ready s sl word u noHold ∧ AllHere s sl u word pre tm vals [n] ∧ (∀ t ∈ lanesOf s sl u, ∀ l, lane? x t sl.fid word = some l → rdS l.g a.toNat = n) ∧
    flagOfGrid x tm 3 ∧ 1 ≤ n.toNat ∧ n.toNat ≤ 8 ∧ forkWaits x tm = false ∧ viewDepth x tm.view < 4 ∧ ctx? x tm.ctx = some c ∧ (allotTag x c
    tm.view).isSome ∧ viewDepth x tm.view + 1 ≤ 4 :=
  ⟨1, 2, 0, _, rfl, sForkW, wSlot, [], tmAt (atIssue sForkW wSlot) 2, cxAt (atIssue sForkW wSlot) 1, 8, ready_of (by decide +kernel), all_here (by decide +kernel) (by decide +kernel) (by decide +kernel) (by decide +kernel) (by decide +kernel) (by decide +kernel), by decide +kernel, ⟨gdAt (atIssue sForkW wSlot) 1, by decide +kernel, by decide +kernel⟩, by decide +kernel⟩
noncomputable def sChooseFirst : State := turnAt (.chooseFirst 1 0) (id) (withFork)
theorem witness_WorldAsks : ∃ d st, ∃ word : Word, encode (.chooseFirst d st) = some word ∧ ∃ s : State, ∃ sl : Slot, ∃ pre, ∃ tm : Team, ∃ k f,
    let u := usesTeam [d.toNat] [];
    let r := rdvNow s sl u word pre fun _ => [];
    Ready s sl word u noHold ∧ AllHere s sl u word pre tm (fun _ => []) [] ∧ tm.fork = some k ∧ fork? (atIssue s sl) k = some f :=
  ⟨1, 0, _, rfl, sChooseFirst, wSlot, [], tmAt (atIssue sChooseFirst wSlot) 2, 8, wFork, ready_of (by decide +kernel), all_here (by decide +kernel) (by decide +kernel) (by decide +kernel) (by decide +kernel) (by decide +kernel) (by decide +kernel), by decide +kernel⟩
noncomputable def sTyieldR : State := turnAt (.tyield 0) (wRoutine .entry) (id)
theorem witness_TeamYields_1 : ∃ st, ∃ word : Word, encode (.tyield st) = some word ∧ ∃ s : State, ∃ sl : Slot, Ready s sl word (Uses.none cCtrl) noHold ∧ (posOf s sl).guardLeft = 0
    ∧ lanesOf s sl (Uses.none cCtrl) ≠ [] ∧ (∀ t ∈ lanesOf s sl (Uses.none cCtrl), ∀ l, lane? (atIssue s sl) t sl.fid word = some l → inRoutineCode l.th =
    true) :=
  ⟨0, _, rfl, sTyieldR, wSlot, ready_of (by decide +kernel), by decide +kernel⟩
noncomputable def sTyield : State := turnAt (.tyield 0) (id) (id)
theorem witness_TeamYields_2 : ∃ st, ∃ word : Word, encode (.tyield st) = some word ∧ ∃ s : State, ∃ sl : Slot, ∃ pre, ∃ tm : Team,
    let r := rdvNow s sl (Uses.none cCtrl) word pre fun _ => [];
    Ready s sl word (Uses.none cCtrl) noHold ∧ AllHere s sl (Uses.none cCtrl) word pre tm (fun _ => []) [] ∧ (∀ t ∈ lanesOf s sl (Uses.none cCtrl), ∀ l,
    lane? (atIssue s sl) t sl.fid word = some l → l.th.routine = none) ∧ (∀ own g, grid? (atIssue s sl) tm.grid = some own → g ∈ (atIssue s sl).grids →
    g.part = own.part → (g.id = own.id ∨ g.precedes own = true) → nextUnits (atIssue s sl) g 1 = []) :=
  ⟨0, _, rfl, sTyield, wSlot, [], tmAt (atIssue sTyield wSlot) 2, ready_of (by decide +kernel), all_here (by decide +kernel) (by decide +kernel) (by decide +kernel) (by decide +kernel) (by decide +kernel) (by decide +kernel), by decide +kernel, fun own g h1 h2 _ _ => by
      have h : ∀ g ∈ (atIssue sTyield wSlot).grids, nextUnits (atIssue sTyield wSlot) g 1 = [] := by decide +kernel
      exact h g h2⟩

/-! ### Words of the engines and of the matrix unit -/
noncomputable def sCopyTeam : State := turnAt (.copyTeam 3 8 0) (id) (withS [(12, 4), (13, 1)])
theorem witness_CopyStarts_copyTeam : ∃ i, ∃ word : Word, ∃ k d, ∃ a st, encode i = some word ∧ copyTable i = some (k, d, a, st) ∧ ∃ s : State, ∃ sl : Slot, ∃ pre, ∃ tm : Team,
    let u : Uses := { Uses.none cEngine with wv := [(d.toNat, 1)], rs := (upto 8).map (a.toNat + ·) };
    let r := rdvNow s sl u word pre fun l => (upto 8).map fun n => rdS l.g (a.toNat + n);
    Ready s sl word u noHold ∧ Assembled s sl u word pre tm ∧ (∀ y ∈ r.arrivals, sliceTrap (atIssue s sl) y.tid tm k y.vals = none ∧ sliceRules (atIssue s
    sl) y.tid tm k (sliceOf y.tid.group y.vals) = none) :=
  ⟨.copyTeam 3 8 0, _, .team, 3, 8, 0, rfl, rfl, sCopyTeam, wSlot, [], tmAt (atIssue sCopyTeam wSlot) 2, ready_of (by decide +kernel), assembles (by decide +kernel) (by decide +kernel) (by decide +kernel) (by decide +kernel) (by decide +kernel), by decide +kernel⟩
noncomputable def sCopyMc : State := turnAt (.copyMc 3 8 0) (id) (withS [(8, 16), (12, 4), (13, 1)])
theorem witness_CopyStarts_copyMc : ∃ i, ∃ word : Word, ∃ k d, ∃ a st, encode i = some word ∧ copyTable i = some (k, d, a, st) ∧ ∃ s : State, ∃ sl : Slot, ∃ pre, ∃ tm : Team,
    let u : Uses := { Uses.none cEngine with wv := [(d.toNat, 1)], rs := (upto 8).map (a.toNat + ·) };
    let r := rdvNow s sl u word pre fun l => (upto 8).map fun n => rdS l.g (a.toNat + n);
    Ready s sl word u noHold ∧ Assembled s sl u word pre tm ∧ (∀ y ∈ r.arrivals, sliceTrap (atIssue s sl) y.tid tm k y.vals = none ∧ sliceRules (atIssue s
    sl) y.tid tm k (sliceOf y.tid.group y.vals) = none) :=
  ⟨.copyMc 3 8 0, _, .multicast, 3, 8, 0, rfl, rfl, sCopyMc, wSlot, [], tmAt (atIssue sCopyMc wSlot) 2, ready_of (by decide +kernel), assembles (by decide +kernel) (by decide +kernel) (by decide +kernel) (by decide +kernel) (by decide +kernel), by decide +kernel⟩
noncomputable def sCopySp : State := turnAt (.copySp 3 8 0) (id) (withS [(12, 8), (13, 1)])
theorem witness_CopyStarts_copySp : ∃ i, ∃ word : Word, ∃ k d, ∃ a st, encode i = some word ∧ copyTable i = some (k, d, a, st) ∧ ∃ s : State, ∃ sl : Slot, ∃ pre, ∃ tm : Team,
    let u : Uses := { Uses.none cEngine with wv := [(d.toNat, 1)], rs := (upto 8).map (a.toNat + ·) };
    let r := rdvNow s sl u word pre fun l => (upto 8).map fun n => rdS l.g (a.toNat + n);
    Ready s sl word u noHold ∧ Assembled s sl u word pre tm ∧ (∀ y ∈ r.arrivals, sliceTrap (atIssue s sl) y.tid tm k y.vals = none ∧ sliceRules (atIssue s
    sl) y.tid tm k (sliceOf y.tid.group y.vals) = none) :=
  ⟨.copySp 3 8 0, _, .sparse, 3, 8, 0, rfl, rfl, sCopySp, wSlot, [], tmAt (atIssue sCopySp wSlot) 2, ready_of (by decide +kernel), assembles (by decide +kernel) (by decide +kernel) (by decide +kernel) (by decide +kernel) (by decide +kernel), by decide +kernel⟩
noncomputable def sCopyOut : State := turnAt (.copyOut 3 8 0) (id) (withS [(9, 4), (11, 1020), (12, 4), (13, 1)])
theorem witness_CopyStarts_copyOut : ∃ i, ∃ word : Word, ∃ k d, ∃ a st, encode i = some word ∧ copyTable i = some (k, d, a, st) ∧ ∃ s : State, ∃ sl : Slot, ∃ pre, ∃ tm : Team,
    let u : Uses := { Uses.none cEngine with wv := [(d.toNat, 1)], rs := (upto 8).map (a.toNat + ·) };
    let r := rdvNow s sl u word pre fun l => (upto 8).map fun n => rdS l.g (a.toNat + n);
    Ready s sl word u noHold ∧ Assembled s sl u word pre tm ∧ (∀ y ∈ r.arrivals, sliceTrap (atIssue s sl) y.tid tm k y.vals = none ∧ sliceRules (atIssue s
    sl) y.tid tm k (sliceOf y.tid.group y.vals) = none) :=
  ⟨.copyOut 3 8 0, _, .out, 3, 8, 0, rfl, rfl, sCopyOut, wSlot, [], tmAt (atIssue sCopyOut wSlot) 2, ready_of (by decide +kernel), assembles (by decide +kernel) (by decide +kernel) (by decide +kernel) (by decide +kernel) (by decide +kernel), by decide +kernel⟩
noncomputable def sBulk : State := turnAt (.copyBulk 3 8 0) (id) (withS [(9, 64), (11, 4096), (13, 64)])
theorem witness_GroupStarts_1 : ∃ d a st, ∃ word : Word, encode (.copyBulk d a st) = some word ∧ ∃ s : State, ∃ sl : Slot,
    let u : Uses := { Uses.none cEngine with wv := [(d.toNat, 1)], rs := (upto 8).map (a.toNat + ·), lead := 1 };
    Ready s sl word u noHold ∧ (∀ t ∈ groupLeaders (lanesOf s sl u), ∀ l, lane? (atIssue s sl) t sl.fid word = some l → bulkTrap (atIssue s sl) t l.tm
    ((upto 8).map fun j => rdS l.g (a.toNat + j)) = none) :=
  ⟨3, 8, 0, _, rfl, sBulk, wSlot, ready_of (by decide +kernel), by decide +kernel⟩
noncomputable def sGath : State := turnAt (.gath 3 8 0) (id) (withTrough 1 ∘ withS [(8, 0x1800), (11, 1)])
theorem witness_GroupStarts_2 : ∃ d a st, ∃ word : Word, encode (.gath d a st) = some word ∧ ∃ s : State, ∃ sl : Slot,
    let u : Uses := { Uses.none cEngine with wv := [(d.toNat, 1)], rs := (upto 8).map (a.toNat + ·), lead := 1 };
    Ready s sl word u noHold ∧ (∀ t ∈ groupLeaders (lanesOf s sl u), ∀ l, lane? (atIssue s sl) t sl.fid word = some l → gathTrap (atIssue s sl) t l.tm
    ((upto 8).map fun j => rdS l.g (a.toNat + j)) = none) :=
  ⟨3, 8, 0, _, rfl, sGath, wSlot, ready_of (by decide +kernel), by decide +kernel⟩
/-- What a lane sees. -/
noncomputable def lnAt (s : State) (t : Tid) (fid : Nat) (word : Word) (h : (lane? s t fid word).isSome = true) : Lane := (lane? s t fid word).get h
theorem lnAt_of {s : State} {t : Tid} {fid : Nat} {word : Word} (h : (lane? s t fid word).isSome = true) : lane? s t fid word = some (lnAt s t fid word h) :=
  (Option.some_get h).symm
noncomputable def strBind : State := turnAt (.trBind 3 1 0) (id) (withS [(1, 0x8C0200)])
theorem witness_trBind : ∃ word s sl t l, let u : Uses := { Uses.none cEngine with rs := [1], lead := 2 };
    encode (.trBind 3 1 0) = some word ∧ Ready s sl word u noHold ∧ minBy (fun (x : Tid) => x.lane) (lanesOf s sl u) = some t ∧
    lane? (atIssue s sl) t sl.fid word = some l ∧ (rdS l.g 1).extractLsb' 25 7 = 0 ∧ ((rdS l.g 1).extractLsb' 21 4).toNat ≤ 12 ∧ ((rdS l.g 1).extractLsb' 18 3).toNat ≤ 4 ∧
    ((rdS l.g 1).extractLsb' 0 18).toNat % (4 * 2 ^ ((rdS l.g 1).extractLsb' 18 3).toNat) = 0 ∧
    ((rdS l.g 1).extractLsb' 0 18).toNat + 2 ^ ((rdS l.g 1).extractLsb' 21 4).toNat * (4 * 2 ^ ((rdS l.g 1).extractLsb' 18 3).toNat) ≤ l.tm.allocSize ∧
    qBound (qOf l.tm 3) = false :=
  ⟨_, strBind, wSlot, wLane, lnAt (atIssue strBind wSlot) wLane 1 (wordOf (.trBind 3 1 0)) (by decide +kernel), rfl, ready_of (by decide +kernel), by decide +kernel, lnAt_of (by decide +kernel), by decide +kernel, by decide +kernel, by decide +kernel, by decide +kernel, by decide +kernel, by decide +kernel⟩
noncomputable def strUnbind : State := turnAt (.trUnbind 3 0) (id) (withTrough 1)
theorem witness_trUnbind : ∃ word s sl t l, let u : Uses := { Uses.none cEngine with rs := [], lead := 2 };
    encode (.trUnbind 3 0) = some word ∧ Ready s sl word u noHold ∧ minBy (fun (x : Tid) => x.lane) (lanesOf s sl u) = some t ∧
    lane? (atIssue s sl) t sl.fid word = some l ∧ qBound (qOf l.tm 3) = true ∧ NoneGathers l 3 :=
  ⟨_, strUnbind, wSlot, wLane, lnAt (atIssue strUnbind wSlot) wLane 1 (wordOf (.trUnbind 3 0)) (by decide +kernel), rfl, ready_of (by decide +kernel), by decide +kernel, lnAt_of (by decide +kernel), by decide +kernel, by unfold NoneGathers; decide +kernel⟩
noncomputable def strReset : State := turnAt (.trReset 3 0) (id) (withTrough 1)
theorem witness_trReset : ∃ word s sl t l, let u : Uses := { Uses.none cEngine with rs := [], lead := 2 };
    encode (.trReset 3 0) = some word ∧ Ready s sl word u noHold ∧ minBy (fun (x : Tid) => x.lane) (lanesOf s sl u) = some t ∧
    lane? (atIssue s sl) t sl.fid word = some l ∧ qBound (qOf l.tm 3) = true ∧ NoneGathers l 3 :=
  ⟨_, strReset, wSlot, wLane, lnAt (atIssue strReset wSlot) wLane 1 (wordOf (.trReset 3 0)) (by decide +kernel), rfl, ready_of (by decide +kernel), by decide +kernel, lnAt_of (by decide +kernel), by decide +kernel, by unfold NoneGathers; decide +kernel⟩
noncomputable def sgathClose : State := turnAt (.gathClose 3 0) (id) (withTrough 1)
theorem witness_gathClose : ∃ word s sl t l, let u : Uses := { Uses.none cEngine with rs := [], lead := 2 };
    encode (.gathClose 3 0) = some word ∧ Ready s sl word u noHold ∧ minBy (fun (x : Tid) => x.lane) (lanesOf s sl u) = some t ∧
    lane? (atIssue s sl) t sl.fid word = some l ∧ qBound (qOf l.tm 3) = true ∧ NoneGathers l 3 :=
  ⟨_, sgathClose, wSlot, wLane, lnAt (atIssue sgathClose wSlot) wLane 1 (wordOf (.gathClose 3 0)) (by decide +kernel), rfl, ready_of (by decide +kernel), by decide +kernel, lnAt_of (by decide +kernel), by decide +kernel, by unfold NoneGathers; decide +kernel⟩
/-- No tile of the unit is claimed. -/
theorem none_taken {s : State} (h : s.tiles = []) (c q t n : Nat) : tileTaken s c q t n = false := by
  rw [tileTaken, tile?, h]
  rfl
noncomputable def smxRd : State := turnAt (.mxRd 4 1 0) (id) (withAlloc 8192 ∘ withS [(1, 7)])
theorem witness_MatForms_mxRd : ∃ i word k st d u ps chk s sl, encode i = some word ∧ matTable i = some (k, st, d, u, ps, chk) ∧ Ready s sl word u matHold ∧
    (∀ t ∈ groupLeaders (lanesOf s sl u), ∀ l, lane? (atIssue s sl) t sl.fid word = some l → chk (ps l) l = none ∧
      (∀ m, Entered m k l d (ps l) → (k = .clear → m.tilesNamed ≠ []) ∧ ∀ n ∈ m.tilesNamed, tileTaken (atIssue s sl) l.tm.core l.g.quad l.tm.id n = false)) := by
  refine ⟨.mxRd 4 1 0, _, _, _, _, _, _, _, smxRd, wSlot, rfl, rfl, ready_of (by decide +kernel), fun t ht l hl => ⟨?_, fun m hm => ⟨?_, fun n _ => none_taken (by decide +kernel) _ _ _ n⟩⟩⟩
  · revert t l
    decide +kernel
  · intro h; cases h
noncomputable def smxSt : State := turnAt (.mxSt 4 1 2 0) (id) (withAlloc 8192 ∘ withS [(1, 1)])
theorem witness_MatForms_mxSt : ∃ i word k st d u ps chk s sl, encode i = some word ∧ matTable i = some (k, st, d, u, ps, chk) ∧ Ready s sl word u matHold ∧
    (∀ t ∈ groupLeaders (lanesOf s sl u), ∀ l, lane? (atIssue s sl) t sl.fid word = some l → chk (ps l) l = none ∧
      (∀ m, Entered m k l d (ps l) → (k = .clear → m.tilesNamed ≠ []) ∧ ∀ n ∈ m.tilesNamed, tileTaken (atIssue s sl) l.tm.core l.g.quad l.tm.id n = false)) := by
  refine ⟨.mxSt 4 1 2 0, _, _, _, _, _, _, _, smxSt, wSlot, rfl, rfl, ready_of (by decide +kernel), fun t ht l hl => ⟨?_, fun m hm => ⟨?_, fun n _ => none_taken (by decide +kernel) _ _ _ n⟩⟩⟩
  · revert t l
    decide +kernel
  · intro h; cases h
noncomputable def smxLd : State := turnAt (.mxLd 4 1 2 0) (id) (withAlloc 8192 ∘ withS [(1, 1)])
theorem witness_MatForms_mxLd : ∃ i word k st d u ps chk s sl, encode i = some word ∧ matTable i = some (k, st, d, u, ps, chk) ∧ Ready s sl word u matHold ∧
    (∀ t ∈ groupLeaders (lanesOf s sl u), ∀ l, lane? (atIssue s sl) t sl.fid word = some l → chk (ps l) l = none ∧
      (∀ m, Entered m k l d (ps l) → (k = .clear → m.tilesNamed ≠ []) ∧ ∀ n ∈ m.tilesNamed, tileTaken (atIssue s sl) l.tm.core l.g.quad l.tm.id n = false)) := by
  refine ⟨.mxLd 4 1 2 0, _, _, _, _, _, _, _, smxLd, wSlot, rfl, rfl, ready_of (by decide +kernel), fun t ht l hl => ⟨?_, fun m hm => ⟨?_, fun n _ => none_taken (by decide +kernel) _ _ _ n⟩⟩⟩
  · revert t l
    decide +kernel
  · intro h; cases h
noncomputable def smxClr : State := turnAt (.mxClr 1 0) (id) (withAlloc 8192 ∘ withS [(1, 255)])
theorem witness_MatForms_mxClr : ∃ i word k st d u ps chk s sl, encode i = some word ∧ matTable i = some (k, st, d, u, ps, chk) ∧ Ready s sl word u matHold ∧
    (∀ t ∈ groupLeaders (lanesOf s sl u), ∀ l, lane? (atIssue s sl) t sl.fid word = some l → chk (ps l) l = none ∧
      (∀ m, Entered m k l d (ps l) → (k = .clear → m.tilesNamed ≠ []) ∧ ∀ n ∈ m.tilesNamed, tileTaken (atIssue s sl) l.tm.core l.g.quad l.tm.id n = false)) := by
  refine ⟨.mxClr 1 0, _, _, _, _, _, _, _, smxClr, wSlot, rfl, rfl, ready_of (by decide +kernel), fun t ht l hl => ⟨?_, fun m hm => ⟨?_, fun n _ => none_taken (by decide +kernel) _ _ _ n⟩⟩⟩
  · revert t l
    decide +kernel
  · intro _ h
    have hl : (rdS l.g 1) = 255 := by clear h hm; revert t l; decide +kernel
    rw [MatOp.tilesNamed, hm.kind, hm.params] at h
    revert h
    show ¬(upto 8).filter (fun i => ((rdS l.g 1)).getLsbD i) = []
    rw [hl]
    decide
noncomputable def sMma : State := turnAt (.mxMma 4 5 8 0) (id) (withS [(10, 16), (14, 1), (15, 0xC0)])
theorem witness_MatMultiplies : ∃ d a, ∃ b st, ∃ word : Word, encode (.mxMma d a b st) = some word ∧ ∃ s : State, ∃ sl : Slot, ∃ w ps l0,
    let u : Uses := { Uses.none cMatrix with rv := [(a.toNat, 1)], wv := [(d.toNat, 1)], rs := (upto 8).map (b.toNat + ·) };
    Ready s sl word u (fun l => (mmaRegs a.toNat b.toNat l).any fun n => pendingReg l.th (.v n)) ∧ WholeGroup s sl u ∧ l0 ∈ ordered s sl u word ∧ ps =
    ((upto 8).map fun n => rdS l0.g (b.toNat + n)) ∧ (∀ t ∈ lanesOf s sl u, ∀ l, lane? (atIssue s sl) t sl.fid word = some l → rdV l.th a.toNat = w ∧
    mmaEarly a.toNat b.toNat l = none ∧ ∀ n ∈ mmaRegs a.toNat b.toNat l, l.th.poison.getLsbD n = false) ∧ mmaTrap (atIssue s sl) l0.tm l0.g w ps = none ∧
    (matQueue (atIssue s sl) l0.tm.core l0.g.quad).length < 8 :=
  ⟨4, 5, 8, 0, _, rfl, sMma, wSlot, 0, [0, 0, 16, 0, 0, 0, 1, 0xC0], lnAt (atIssue sMma wSlot) wLane 1 (wordOf (.mxMma 4 5 8 0)) (by decide +kernel), ready_of (by decide +kernel), whole_group (by decide +kernel) (by decide +kernel) (by decide +kernel) (by decide +kernel) (by decide +kernel), List.mem_of_getElem? (i := 0) rfl, by decide +kernel⟩

/-! ### Work and system words -/

/-- A record of one team of one group of 128 registers, with 1024 bytes of scratchpad, and a table that points at offset 0. -/
def wRecord : List Byte :=
  leBytes 4 0x14B56 ++ List.replicate 36 0 ++ leBytes 4 1 ++ leBytes 4 1 ++ leBytes 4 1 ++ leBytes 4 0 ++ leBytes 4 1 ++ leBytes 4 1024 ++
  leBytes 4 0 ++ leBytes 2 128 ++ leBytes 2 1 ++ leBytes 8 255 ++ List.replicate 168 0 ++ leBytes 8 (2 ^ 64 - 1)

/-- The record stands at virtual address 0x800. -/
def withRecord (s : State) : State := { s with mem := Memory.writeN s.mem 0x10800 wRecord }

/-- What a read gives when it succeeds. -/
def okd {ε α σ : Type} (p : Except ε α × σ) (d : α) : α := match p.1 with | .ok a => a | .error _ => d
theorem ok_of {ε α σ : Type} {p : Except ε α × σ} (d : α) (h : (match p.1 with | .ok _ => true | .error _ => false) = true) : p = (.ok (okd p d), p.2) := by
  obtain ⟨r, s⟩ := p
  cases r with
  | ok a => rfl
  | error e => cases h
def noRecord : Loaded := ⟨loadRecord, [], []⟩
/-- A launch waits before. -/
def withLaunch (s : State) : State := { s with launches := [⟨wLane, 1, 0x100, 0, none, true, 0⟩] }
noncomputable def sLaunchW : State := turnAt (.launch 1 2 0) (id) (withFork ∘ withS [(2, 0x800)])
theorem witness_Launches_1 : ∃ a b st, ∃ word : Word, encode (.launch a b st) = some word ∧ ∃ s : State, ∃ sl : Slot, ∃ t l,
    let u : Uses := { Uses.none cCtrl with rb := [a.toNat], rs := [b.toNat], lead := 1, ban := true };
    let x := atIssue s sl;
    let va := (rdB l.tm l.th a.toNat).toNat + (rdS l.g b.toNat).toNat;
    let w : LaunchWait := ⟨t, l.tm.ctx, BitVec.ofNat 80 va, x.nextId, none, false, l.th.pc.off⟩;
    let y := { x with nextId := x.nextId + 1, launches := x.launches ++ [w] };
    Ready s sl word u fenceHold ∧ groupLeaders (lanesOf s sl u) = [t] ∧ lane? x t sl.fid word = some l ∧ va % 256 = 0 ∧ va < 2 ^ 76 ∧ defers l.tm = true ∧
    deferCount x l.tm < deferCap x l.tm :=
  ⟨1, 2, 0, _, rfl, sLaunchW, wSlot, wLane, lnAt (atIssue sLaunchW wSlot) wLane 1 (wordOf (.launch 1 2 0)) (by decide +kernel), ready_of (by decide +kernel), by decide +kernel, lnAt_of (by decide +kernel), by decide +kernel⟩
noncomputable def sLaunchQ : State := turnAt (.launch 1 2 0) (id) (withLaunch ∘ withS [(2, 0x800)])
theorem witness_Launches_2 : ∃ a b st, ∃ word : Word, encode (.launch a b st) = some word ∧ ∃ s : State, ∃ sl : Slot, ∃ t l,
    let u : Uses := { Uses.none cCtrl with rb := [a.toNat], rs := [b.toNat], lead := 1, ban := true };
    let x := atIssue s sl;
    let va := (rdB l.tm l.th a.toNat).toNat + (rdS l.g b.toNat).toNat;
    let w : LaunchWait := ⟨t, l.tm.ctx, BitVec.ofNat 80 va, x.nextId, none, false, l.th.pc.off⟩;
    let y := { x with nextId := x.nextId + 1, launches := x.launches ++ [w] };
    Ready s sl word u fenceHold ∧ groupLeaders (lanesOf s sl u) = [t] ∧ lane? x t sl.fid word = some l ∧ va % 256 = 0 ∧ va < 2 ^ 76 ∧ defers l.tm = false
    ∧ ∃ c, ctx? x l.tm.ctx = some c ∧ launchReady y w c = false :=
  ⟨1, 2, 0, _, rfl, sLaunchQ, wSlot, wLane, lnAt (atIssue sLaunchQ wSlot) wLane 1 (wordOf (.launch 1 2 0)) (by decide +kernel), ready_of (by decide +kernel), by decide +kernel, lnAt_of (by decide +kernel), by decide +kernel, by decide +kernel, by decide +kernel, cxAt (atIssue sLaunchQ wSlot) 1, by decide +kernel⟩
noncomputable def sLaunch : State := turnAt (.launch 1 2 0) (id) (withRecord ∘ withS [(2, 0x800)])
noncomputable def lLaunch : Lane := lnAt (atIssue sLaunch wSlot) wLane 1 (wordOf (.launch 1 2 0)) (by decide +kernel)
noncomputable def aLaunch : LaunchWait :=
  ⟨wLane, lLaunch.tm.ctx, BitVec.ofNat 80 ((rdB lLaunch.tm lLaunch.th 1).toNat + (rdS lLaunch.g 2).toNat), (atIssue sLaunch wSlot).nextId, none, false, lLaunch.th.pc.off⟩
noncomputable def vLaunch : Except RecordFail Loaded × State :=
  validate { atIssue sLaunch wSlot with nextId := (atIssue sLaunch wSlot).nextId + 1, launches := (atIssue sLaunch wSlot).launches ++ [aLaunch] } (cxAt (atIssue sLaunch wSlot) 1) aLaunch.addr
theorem witness_Launches_3 : ∃ a b st, ∃ word : Word, encode (.launch a b st) = some word ∧ ∃ s : State, ∃ sl : Slot, ∃ t l,
    let u : Uses := { Uses.none cCtrl with rb := [a.toNat], rs := [b.toNat], lead := 1, ban := true };
    let x := atIssue s sl;
    let va := (rdB l.tm l.th a.toNat).toNat + (rdS l.g b.toNat).toNat;
    let w : LaunchWait := ⟨t, l.tm.ctx, BitVec.ofNat 80 va, x.nextId, none, false, l.th.pc.off⟩;
    let y := { x with nextId := x.nextId + 1, launches := x.launches ++ [w] };
    Ready s sl word u fenceHold ∧ groupLeaders (lanesOf s sl u) = [t] ∧ lane? x t sl.fid word = some l ∧ va % 256 = 0 ∧ va < 2 ^ 76 ∧ defers l.tm = false
    ∧ ∃ c r z, ctx? x l.tm.ctx = some c ∧ launchReady y w c = true ∧ (∀ k ∈ x.launches, k.seq < x.nextId) ∧ validate y c w.addr = (.ok r, z) ∧
    r.record.waitOn = 0 :=
  ⟨1, 2, 0, _, rfl, sLaunch, wSlot, wLane, lLaunch, ready_of (by decide +kernel), by decide +kernel, lnAt_of (by decide +kernel), by decide +kernel, by decide +kernel, by decide +kernel, cxAt (atIssue sLaunch wSlot) 1, okd vLaunch noRecord, vLaunch.2, by decide +kernel, by decide +kernel, by decide +kernel, ok_of (p := vLaunch) _ (by decide +kernel), by decide +kernel⟩
noncomputable def sExit : State := turnAt (.exit 0) (id) (id)
theorem witness_ThreadsExit : ∃ st, ∃ word : Word, encode (.exit st) = some word ∧ ∃ s : State, ∃ sl : Slot, ∃ tm : Team,
    let u : Uses := { Uses.none cCtrl with last := true, ban := true };
    let x := atIssue s sl;
    let ts := lanesOf s sl u;
    Ready s sl word u exitHold ∧ team? x (headTeam sl) = some tm ∧ ts ≠ [] ∧ tm.rdv = [] ∧ tm.bars = [] ∧ (∀ g ∈ tm.groups, g.rdv = []) ∧ (defers tm =
    true → ∃ t ∈ liveTids x tm.id, t ∉ ts) :=
  ⟨0, _, rfl, sExit, wSlot, tmAt (atIssue sExit wSlot) 2, ready_of (by decide +kernel), by decide +kernel⟩
noncomputable def sExitSucc : State := turnAt (.exitSucc 1 2 0) (id) (withFlags 64 ∘ withRecord ∘ withS [(2, 0x800)])
noncomputable def lSucc : Lane := lnAt (atIssue sExitSucc wSlot) wLane 1 (wordOf (.exitSucc 1 2 0)) (by decide +kernel)
noncomputable def vSucc : Except RecordFail Loaded × State :=
  readRecord (atIssue sExitSucc wSlot) (cxAt (atIssue sExitSucc wSlot) 1) ((rdB lSucc.tm lSucc.th 1).toNat + (rdS lSucc.g 2).toNat)
theorem witness_ThreadExitsTo : ∃ a b st, ∃ word : Word, encode (.exitSucc a b st) = some word ∧ ∃ s : State, ∃ sl : Slot, ∃ t l, ∃ c r z,
    let u : Uses := { Uses.none cCtrl with last := true, rb := [a.toNat], rs := [b.toNat], priv := true, ban := true };
    let x := atIssue s sl;
    let va := (rdB l.tm l.th a.toNat).toNat + (rdS l.g b.toNat).toNat;
    Ready s sl word u exitHold ∧ lanesOf s sl u = [t] ∧ lane? x t sl.fid word = some l ∧ l.tm.rdv = [] ∧ l.tm.bars = [] ∧ (∀ g ∈ l.tm.groups, g.rdv = [])
    ∧ va % 256 = 0 ∧ va < 2 ^ 80 ∧ l.tm.family = none ∧ l.tm.fork = none ∧ (l.tm.succ = none ∨ l.tm.succ = some (BitVec.ofNat 80 va)) ∧ ctx? x l.tm.ctx =
    some c ∧ readRecord x c va = (.ok r, z) ∧ succBad z l.tm c r.record = none ∧ z.teams = x.teams ∧ z.slots = x.slots :=
  ⟨1, 2, 0, _, rfl, sExitSucc, wSlot, wLane, lSucc, cxAt (atIssue sExitSucc wSlot) 1, okd vSucc noRecord, vSucc.2, ready_of (by decide +kernel), by decide +kernel, lnAt_of (by decide +kernel), by decide +kernel, by decide +kernel, by decide +kernel, by decide +kernel, by decide +kernel, by decide +kernel, by decide +kernel, by decide +kernel, by decide +kernel, ok_of (p := vSucc) _ (by decide +kernel), by decide +kernel⟩
noncomputable def sSigW : State := turnAt (.sigHost 1 0) (id) (withTask)
theorem witness_Signals_1 : ∃ a st, ∃ word : Word, encode (.sigHost a st) = some word ∧ ∃ s : State, ∃ sl : Slot, ∃ t l,
    let u : Uses := { Uses.none cCtrl with rs := [a.toNat], lead := 1 };
    let x := atIssue s sl;
    let i := rdS l.g a.toNat;
    Ready s sl word u noHold ∧ groupLeaders (lanesOf s sl u) = [t] ∧ lane? x t sl.fid word = some l ∧ defers l.tm = true ∧ deferCount x l.tm < deferCap x
    l.tm :=
  ⟨1, 0, _, rfl, sSigW, wSlot, wLane, lnAt (atIssue sSigW wSlot) wLane 1 (wordOf (.sigHost 1 0)) (by decide +kernel), ready_of (by decide +kernel), by decide +kernel, lnAt_of (by decide +kernel), by decide +kernel⟩
/-- The context has one vector, a seed of its own, and a ring of four records with `n` in it. -/
def withVector (s : State) : State := modCtx s 1 fun c => { c with vecCount := 1 }
def withRing (n : Nat) (s : State) : State := modCtx s 1 fun c => { c with ringBase := 0x30000, ringSize := 4, ringHead := n }
noncomputable def sSig : State := turnAt (.sigHost 1 0) (id) (withVector)
theorem witness_Signals_2 : ∃ a st, ∃ word : Word, encode (.sigHost a st) = some word ∧ ∃ s : State, ∃ sl : Slot, ∃ t l,
    let u : Uses := { Uses.none cCtrl with rs := [a.toNat], lead := 1 };
    let x := atIssue s sl;
    let i := rdS l.g a.toNat;
    Ready s sl word u noHold ∧ groupLeaders (lanesOf s sl u) = [t] ∧ lane? x t sl.fid word = some l ∧ defers l.tm = false ∧ ∃ c, ctx? x l.tm.ctx = some c
    ∧ i.toNat < c.vecCount :=
  ⟨1, 0, _, rfl, sSig, wSlot, wLane, lnAt (atIssue sSig wSlot) wLane 1 (wordOf (.sigHost 1 0)) (by decide +kernel), ready_of (by decide +kernel), by decide +kernel, lnAt_of (by decide +kernel), by decide +kernel, cxAt (atIssue sSig wSlot) 1, by decide +kernel⟩
noncomputable def sWrpriv1 : State := turnAt (.wrpriv 3 2 0) (withV [(3, 7)]) (withFlags 64)
theorem witness_PrivWrites_1 : ∃ d a st, ∃ word : Word, encode (.wrpriv d a st) = some word ∧ ∃ s : State, ∃ sl : Slot, ∃ t l c,
    let u : Uses := { Uses.none cCtrl with rv := [(d.toNat, 1)], priv := true, lead := 1 };
    let x := atIssue s sl;
    let v := rdV l.th d.toNat;
    let others := x.observe.samplers.filter fun k => k.ctx ≠ c.id;
    Ready s sl word u noHold ∧ groupLeaders (lanesOf s sl u) = [t] ∧ lane? x t sl.fid word = some l ∧ ctx? x l.tm.ctx = some c ∧ a = 2 :=
  ⟨3, 2, 0, _, rfl, sWrpriv1, wSlot, wLane, lnAt (atIssue sWrpriv1 wSlot) wLane 1 (wordOf (.wrpriv 3 2 0)) (by decide +kernel), cxAt (atIssue sWrpriv1 wSlot) 1, ready_of (by decide +kernel), by decide +kernel, lnAt_of (by decide +kernel), by decide +kernel⟩
noncomputable def sWrpriv2 : State := turnAt (.wrpriv 3 3 0) (withV [(3, 0)]) (withFlags 64)
theorem witness_PrivWrites_2 : ∃ d a st, ∃ word : Word, encode (.wrpriv d a st) = some word ∧ ∃ s : State, ∃ sl : Slot, ∃ t l c,
    let u : Uses := { Uses.none cCtrl with rv := [(d.toNat, 1)], priv := true, lead := 1 };
    let x := atIssue s sl;
    let v := rdV l.th d.toNat;
    let others := x.observe.samplers.filter fun k => k.ctx ≠ c.id;
    Ready s sl word u noHold ∧ groupLeaders (lanesOf s sl u) = [t] ∧ lane? x t sl.fid word = some l ∧ ctx? x l.tm.ctx = some c ∧ a = 3 :=
  ⟨3, 3, 0, _, rfl, sWrpriv2, wSlot, wLane, lnAt (atIssue sWrpriv2 wSlot) wLane 1 (wordOf (.wrpriv 3 3 0)) (by decide +kernel), cxAt (atIssue sWrpriv2 wSlot) 1, ready_of (by decide +kernel), by decide +kernel, lnAt_of (by decide +kernel), by decide +kernel⟩
noncomputable def sWrpriv3 : State := turnAt (.wrpriv 3 4 0) (withV [(3, 256)]) (withFlags 64)
theorem witness_PrivWrites_3 : ∃ d a st, ∃ word : Word, encode (.wrpriv d a st) = some word ∧ ∃ s : State, ∃ sl : Slot, ∃ t l c,
    let u : Uses := { Uses.none cCtrl with rv := [(d.toNat, 1)], priv := true, lead := 1 };
    let x := atIssue s sl;
    let v := rdV l.th d.toNat;
    let others := x.observe.samplers.filter fun k => k.ctx ≠ c.id;
    Ready s sl word u noHold ∧ groupLeaders (lanesOf s sl u) = [t] ∧ lane? x t sl.fid word = some l ∧ ctx? x l.tm.ctx = some c ∧ a = 4 ∧ (v = 0 ∨ 256 ≤
    v.toNat ∧ v.toNat ≤ 65536) :=
  ⟨3, 4, 0, _, rfl, sWrpriv3, wSlot, wLane, lnAt (atIssue sWrpriv3 wSlot) wLane 1 (wordOf (.wrpriv 3 4 0)) (by decide +kernel), cxAt (atIssue sWrpriv3 wSlot) 1, ready_of (by decide +kernel), by decide +kernel, lnAt_of (by decide +kernel), by decide +kernel⟩
noncomputable def sWrpriv4 : State := turnAt (.wrpriv 3 5 0) (withV [(3, 3)]) (withFlags 64)
theorem witness_PrivWrites_4 : ∃ d a st, ∃ word : Word, encode (.wrpriv d a st) = some word ∧ ∃ s : State, ∃ sl : Slot, ∃ t l c,
    let u : Uses := { Uses.none cCtrl with rv := [(d.toNat, 1)], priv := true, lead := 1 };
    let x := atIssue s sl;
    let v := rdV l.th d.toNat;
    let others := x.observe.samplers.filter fun k => k.ctx ≠ c.id;
    Ready s sl word u noHold ∧ groupLeaders (lanesOf s sl u) = [t] ∧ lane? x t sl.fid word = some l ∧ ctx? x l.tm.ctx = some c ∧ a = 5 :=
  ⟨3, 5, 0, _, rfl, sWrpriv4, wSlot, wLane, lnAt (atIssue sWrpriv4 wSlot) wLane 1 (wordOf (.wrpriv 3 5 0)) (by decide +kernel), cxAt (atIssue sWrpriv4 wSlot) 1, ready_of (by decide +kernel), by decide +kernel, lnAt_of (by decide +kernel), by decide +kernel⟩
noncomputable def sLine1 : State := turnAt (.ipref 1 2 0) (id) (withS [(1, 0x40), (2, 1)])
theorem witness_CodeLineWords_1 : ∃ a b st, ∃ word : Word, encode (.ipref a b st) = some word ∧ ∃ s : State, ∃ sl : Slot, ∃ t l c,
    let u : Uses := { Uses.none cCtrl with rs := [a.toNat, b.toNat], lead := 1 };
    Ready s sl word u noHold ∧ groupLeaders (lanesOf s sl u) = [t] ∧ lane? (atIssue s sl) t sl.fid word = some l ∧ (rdS l.g b.toNat).extractLsb' 24 7 = 0
    ∧ ctx? (atIssue s sl) l.tm.ctx = some c :=
  ⟨1, 2, 0, _, rfl, sLine1, wSlot, wLane, lnAt (atIssue sLine1 wSlot) wLane 1 (wordOf (.ipref 1 2 0)) (by decide +kernel), cxAt (atIssue sLine1 wSlot) 1, ready_of (by decide +kernel), by decide +kernel, lnAt_of (by decide +kernel), by decide +kernel⟩
noncomputable def sLine2 : State := turnAt (.ipin 3 1 2 0) (id) (withS [(1, 0x40), (2, 1)])
theorem witness_CodeLineWords_2 : ∃ d a, ∃ b st, ∃ word : Word, encode (.ipin d a b st) = some word ∧ ∃ s : State, ∃ sl : Slot, ∃ t l c,
    let u : Uses := { Uses.none cCtrl with wv := [(d.toNat, 1)], rs := [a.toNat, b.toNat], lead := 1 };
    let f := fetchLines (atIssue s sl) l.tm c (lineRange l a b);
    let level := ((rdS l.g b.toNat).extractLsb' 31 1).toNat;
    let used := fun (p : Pin) => p.core == l.tm.core && p.level == level;
    Ready s sl word u noHold ∧ groupLeaders (lanesOf s sl u) = [t] ∧ lane? (atIssue s sl) t sl.fid word = some l ∧ (rdS l.g b.toNat).extractLsb' 24 7 = 0
    ∧ ctx? (atIssue s sl) l.tm.ctx = some c ∧ f.2.teams = (atIssue s sl).teams ∧ (f.2.pins.filter used).length ≤ 64 :=
  ⟨3, 1, 2, 0, _, rfl, sLine2, wSlot, wLane, lnAt (atIssue sLine2 wSlot) wLane 1 (wordOf (.ipin 3 1 2 0)) (by decide +kernel), cxAt (atIssue sLine2 wSlot) 1, ready_of (by decide +kernel), by decide +kernel, lnAt_of (by decide +kernel), by decide +kernel⟩
noncomputable def sLine3 : State := turnAt (.iunpin 3 1 2 0) (id) (withS [(1, 0x40), (2, 1)])
theorem witness_CodeLineWords_3 : ∃ d a, ∃ b st, ∃ word : Word, encode (.iunpin d a b st) = some word ∧ ∃ s : State, ∃ sl : Slot, ∃ t l c,
    let u : Uses := { Uses.none cCtrl with wv := [(d.toNat, 1)], rs := [a.toNat, b.toNat], lead := 1 };
    let x := atIssue s sl;
    let hit := fun (p : Pin) => p.core == l.tm.core && p.team == l.tm.id && p.level == ((rdS l.g b.toNat).extractLsb' 31 1).toNat && (lineRange l a b).contains (p.line * 64);
    Ready s sl word u noHold ∧ groupLeaders (lanesOf s sl u) = [t] ∧ lane? x t sl.fid word = some l ∧ (rdS l.g b.toNat).extractLsb' 24 7 = 0 ∧ ctx? x
    l.tm.ctx = some c :=
  ⟨3, 1, 2, 0, _, rfl, sLine3, wSlot, wLane, lnAt (atIssue sLine3 wSlot) wLane 1 (wordOf (.iunpin 3 1 2 0)) (by decide +kernel), cxAt (atIssue sLine3 wSlot) 1, ready_of (by decide +kernel), by decide +kernel, lnAt_of (by decide +kernel), by decide +kernel⟩
noncomputable def sTmark1 : State := turnAt (.tmark 3 0) (id) (withRing 3)
theorem witness_TraceWord_1 : ∃ d st, ∃ word : Word, encode (.tmark d st) = some word ∧ ∃ s : State, ∃ sl : Slot, ∃ t l c,
    let u : Uses := { Uses.none cCtrl with rv := [(d.toNat, 1)] };
    let x := atIssue s sl;
    Ready s sl word u noHold ∧ lanesOf s sl u = [t] ∧ lane? x t sl.fid word = some l ∧ ctx? x l.tm.ctx = some c ∧ c.ringHead - c.ringTail < c.ringSize :=
  ⟨3, 0, _, rfl, sTmark1, wSlot, wLane, lnAt (atIssue sTmark1 wSlot) wLane 1 (wordOf (.tmark 3 0)) (by decide +kernel), cxAt (atIssue sTmark1 wSlot) 1, ready_of (by decide +kernel), by decide +kernel, lnAt_of (by decide +kernel), by decide +kernel⟩
noncomputable def sTmark2 : State := turnAt (.tmark 3 0) (id) (withRing 4)
theorem witness_TraceWord_2 : ∃ d st, ∃ word : Word, encode (.tmark d st) = some word ∧ ∃ s : State, ∃ sl : Slot, ∃ t l c,
    let u : Uses := { Uses.none cCtrl with rv := [(d.toNat, 1)] };
    let x := atIssue s sl;
    Ready s sl word u noHold ∧ lanesOf s sl u = [t] ∧ lane? x t sl.fid word = some l ∧ ctx? x l.tm.ctx = some c ∧ c.ringSize ≤ c.ringHead - c.ringTail :=
  ⟨3, 0, _, rfl, sTmark2, wSlot, wLane, lnAt (atIssue sTmark2 wSlot) wLane 1 (wordOf (.tmark 3 0)) (by decide +kernel), cxAt (atIssue sTmark2 wSlot) 1, ready_of (by decide +kernel), by decide +kernel, lnAt_of (by decide +kernel), by decide +kernel⟩

/-! ### Events of views, tasks and worlds -/

/-- The machine with its one team before the word, its thread prepared by `f` and the rest by `g`. -/
noncomputable def machine (f : Thread → Thread) (g : State → State) : State := g (modThread (State.reset.withFetchWord 32 0) wLane f)

/-- The thread waits and stands in no flock. -/
def waits (w : Wait) (th : Thread) : Thread := { th with wait := some w }
def parked (s : State) : State := { s with slots := s.slots.map fun (x : Slot) => { x with flock := [] } }
/-- The team has arrived at a word with its operands. -/
def wRdv (w : Word) (vals : List Word) : Rdv := ⟨4, w, [⟨wLane, 0, vals, 1⟩]⟩
def withRdv (w : Word) (vals : List Word) (s : State) : State := modTeam (parked s) 2 fun t => { t with rdv := [wRdv w vals] }
/-- One access stands in the thread's queue. -/
def wAcc : Access :=
  { id := 5, op := .load 3 false, space := .home, va := 0x20004, pa := some 0x30004, size := 4, ord := 0, data := [], view := 0, lease := 0, pc := 4, inst := 5
    slot := false, logged := none, s2 := false, granted := false, mark := 0, sent := false, c := none }
def withAcc (a : Access) (th : Thread) : Thread := { th with queue := [a] }
/-- A declared set with granules of 64 bytes at 0x20000. -/
def wSet : SetRec := ⟨1, 3, 0x20000, 128, 6, false⟩
def withSets (s : State) : State := { s with sets := [wSet] }
noncomputable def sStamp : State := machine (waits .team) (withRdv (wordOf (.tbegin 1 5 0)) [0, 0, 0, 0, 64] ∘ withFlags 4 ∘ withQuota ∘ withAlloc 2048)
theorem witness_StampMoves : ∃ s : State, ∃ tm : Team, ∃ c tag, ∃ s1 r, team? s tm.id = some tm ∧ rdvOf s tm.id 0x2C 0 = some r ∧ teamMet s tm.id r = true ∧ settleTeam s tm.id = s
    ∧ agree r = true ∧ snapshotPending s r = false ∧ lastStamp s tm.core tm.slot ≠ some (s.time / 256 % 2 ^ 50) ∧ tbeginTrap s tm r = none ∧ ctx? s tm.ctx
    = some c ∧ allotTag s c tm.view = some (tag, s1) :=
  ⟨sStamp, tmAt sStamp 2, cxAt sStamp 1, (allotted sStamp (cxAt sStamp 1) 0).1, (allotted sStamp (cxAt sStamp 1) 0).2, wRdv (wordOf (.tbegin 1 5 0)) [0, 0, 0, 0, 64], by decide +kernel, by decide +kernel, by decide +kernel, by decide +kernel, by decide +kernel, by decide +kernel, by decide +kernel, by decide +kernel, by decide +kernel, allotted_of (by decide +kernel)⟩
noncomputable def sAsked : State := machine (waits .team) (withRdv (wordOf (.tend 0)) [] ∘ withTask)
theorem witness_CommitAsked : ∃ s : State, ∃ team f, ∃ x r, rdvOf s team 0x2C 1 = some r ∧ (team? s team).bind (fun t => t.family) = some f ∧ family? s f = some x ∧ tendReady s
    team r = true ∧ x.state = .opened :=
  ⟨sAsked, 2, 7, wFamily, wRdv (wordOf (.tend 0)) [], by decide +kernel⟩
noncomputable def sGran1 : State := machine (waits (.granule 5) ∘ withAcc wAcc) (parked ∘ withTask)
theorem witness_GranuleAsked_1 : ∃ s : State, ∃ t th a, ∃ tm : Team, ∃ c f, thread? s t = some th ∧ th.wait = some (.granule a.id) ∧ acc? s t a.id = some a ∧ a.granted = false ∧ (∀ w
    ∈ s.waiters, ¬(w.tid = t ∧ w.acc = a.id)) ∧ team? s t.team = some tm ∧ ctx? s tm.ctx = some c ∧ tm.family.bind (family? s) = some f ∧ f.state ≠
    .wounded ∧ granuleOf s tm.ctx a.va.toNat = none ∧ a.op.stores = false :=
  ⟨sGran1, wLane, thAt sGran1 wLane, wAcc, tmAt sGran1 2, cxAt sGran1 1, wFamily, by decide +kernel⟩
noncomputable def sGran2 : State := machine (waits (.granule 5) ∘ withAcc wAcc) (parked ∘ withSets ∘ withTask)
theorem witness_GranuleAsked_2 : ∃ s : State, ∃ t th a, ∃ tm : Team, ∃ c f, thread? s t = some th ∧ th.wait = some (.granule a.id) ∧ acc? s t a.id = some a ∧ a.granted = false ∧ (∀ w
    ∈ s.waiters, ¬(w.tid = t ∧ w.acc = a.id)) ∧ team? s t.team = some tm ∧ ctx? s tm.ctx = some c ∧ tm.family.bind (family? s) = some f ∧ f.state ≠
    .wounded ∧ ∃ x g, granuleOf s tm.ctx a.va.toNat = some (x, g) ∧ holderOf s tm.ctx x.id g = none ∧ holdCount s f.id < 512 ∧ poolFull s c (newHold s c
    x.id g f.id) = false ∧ a.op.stores = false :=
  ⟨sGran2, wLane, thAt sGran2 wLane, wAcc, tmAt sGran2 2, cxAt sGran2 1, wFamily, by decide +kernel, by decide +kernel, by decide +kernel, by decide +kernel, by decide +kernel, by decide +kernel, by decide +kernel, by decide +kernel, by decide +kernel, wSet, 0, by decide +kernel⟩
/-- Another family, younger, holds granule 0 of the set. -/
def wOther : Family := { wFamily with id := 11, age := 9, anchor := 3, draft := 0 }
def withHolder (s : State) : State := { s with families := s.families ++ [wOther], holds := [⟨1, 3, 0, 11, false⟩] }
noncomputable def sGran3 : State := machine (waits (.granule 5) ∘ withAcc wAcc) (parked ∘ withHolder ∘ withSets ∘ withTask)
theorem witness_GranuleAsked_3 : ∃ s : State, ∃ t th a, ∃ tm : Team, ∃ c f, thread? s t = some th ∧ th.wait = some (.granule a.id) ∧ acc? s t a.id = some a ∧ a.granted = false ∧ (∀ w
    ∈ s.waiters, ¬(w.tid = t ∧ w.acc = a.id)) ∧ team? s t.team = some tm ∧ ctx? s tm.ctx = some c ∧ tm.family.bind (family? s) = some f ∧ f.state ≠
    .wounded ∧ ∃ x g, ∃ h y, granuleOf s tm.ctx a.va.toNat = some (x, g) ∧ holderOf s tm.ctx x.id g = some h ∧ h ≠ f.id ∧ family? s h = some y :=
  ⟨sGran3, wLane, thAt sGran3 wLane, wAcc, tmAt sGran3 2, cxAt sGran3 1, wFamily, by decide +kernel, by decide +kernel, by decide +kernel, by decide +kernel, by decide +kernel, by decide +kernel, by decide +kernel, by decide +kernel, by decide +kernel, wSet, 0, 11, wOther, by decide +kernel⟩
/-- The family of the task as `f` changes it. -/
def withFamily (f : Family → Family) (s : State) : State := modFamily (withTask s) 7 f
noncomputable def sWound : State := machine (id) (withFamily (fun x => { x with woundSent := true }))
theorem witness_WoundArrives_2 : ∃ s : State, ∃ x, family? s x.id = some x ∧ x.woundSent = true ∧ worldCommitted s x = false :=
  ⟨sWound, { wFamily with woundSent := true }, by decide +kernel⟩
/-- A world of the task, below its draft, was committed in this tick. -/
def withWorldDone (s : State) : State := { s with views := s.views ++ [⟨10, 9, 2, 1, .aliased, s.time⟩] }
noncomputable def sWound0 : State := machine (id) (withWorldDone ∘ withFamily (fun x => { x with woundSent := true }))
theorem witness_WoundArrives_1 : ∃ s : State, ∃ x, family? s x.id = some x ∧ x.woundSent = true ∧ worldCommitted s x = true :=
  ⟨sWound0, { wFamily with woundSent := true }, by decide +kernel⟩
noncomputable def sRoll : State := machine (id) (withQuota ∘ parked ∘ withFamily (fun x => { x with state := .wounded }))
theorem witness_RollsBack : ∃ s : State, ∃ x v, family? s x.id = some x ∧ x.state = .wounded ∧ x.waitingTag = false ∧ allTaken s x.id = true ∧ view? s x.draft = some v ∧ v.state
    = .live ∧ NoneAwaits s x.id :=
  ⟨sRoll, { wFamily with state := .wounded }, ⟨9, 0, 1, 1, .live, 0⟩, by decide +kernel, by decide +kernel, by decide +kernel, by decide +kernel, by decide +kernel, by decide +kernel, by unfold NoneAwaits; decide +kernel⟩
noncomputable def sAgain : State := machine (id) (withQuota ∘ parked ∘ withFamily (fun x => { x with state := .wounded, waitingTag := true }))
theorem witness_TaskStartsAgain : ∃ s : State, ∃ x, ∃ tm : Team, ∃ c tag s1, family? s x.id = some x ∧ x.waitingTag = true ∧ team? s x.anchor = some tm ∧ ctx? s x.ctx = some c ∧
    allotTag s c 0 = some (tag, s1) :=
  ⟨sAgain, { wFamily with state := .wounded, waitingTag := true }, tmAt sAgain 2, cxAt sAgain 1, (allotted sAgain (cxAt sAgain 1) (viewParent sAgain 9)).1, (allotted sAgain (cxAt sAgain 1) (viewParent sAgain 9)).2, by decide +kernel, by decide +kernel, by decide +kernel, by decide +kernel, allotted_of (by decide +kernel)⟩
/-- The fork as `f` changes it, with the team of its world 1. -/
def withFork2 (f : Fork → Fork) (s : State) : State :=
  let s := withFork s
  modFork { s with teams := s.teams ++ [{ loadTeam 3 1 1 0 with fork := some 8, world := 1, nworld := 2, view := 10, slot := 1, groups := [{ loadGroup with row := 128 }] }] } 8 f
noncomputable def sCopied : State := machine (waits .forkCopy) (parked ∘ withFork2 (fun f => { f with copying := true }))
theorem witness_ForkCopied : ∃ s : State, ∃ f t0, fork? s f.id = some f ∧ f.copying = true ∧ f.winner = none ∧ team? s t0.id = some t0 ∧ (f.worlds.find? fun w => w.idx == 0).map
    (fun w => w.team) = some t0.id ∧ (f.worlds.map fun w => w.team).Nodup ∧ (f.worlds.map fun w => w.idx).Nodup ∧ (∀ w ∈ f.worlds, (team? s
    w.team).isSome) ∧ (∀ w ∈ f.worlds, w.idx ≠ 0 → w.team ≠ t0.id) :=
  ⟨sCopied, { wFork with copying := true }, tmAt sCopied 2, by decide +kernel⟩
noncomputable def sFirst : State := machine (waits .choose) (parked ∘ withFork2 (fun f => { f with requests := [1, 0] }))
theorem witness_FirstChosen_1 : ∃ s : State, ∃ f w, fork? s f.id = some f ∧ f.winner = none ∧ w ∈ f.requests ∧ w ∉ f.reached :=
  ⟨sFirst, { wFork with requests := [1, 0] }, 1, by decide +kernel⟩
noncomputable def sFirst2 : State := machine (waits .choose) (parked ∘ withFork2 (fun f => { f with requests := [1, 0], reached := [1, 0] }))
theorem witness_FirstChosen_2 : ∃ s : State, ∃ f w, fork? s f.id = some f ∧ f.worlds.find? (fun x => x.idx == w.idx) = some w ∧ f.winner = none ∧ f.copying = false ∧ w.idx ∈
    f.reached ∧ (∀ i ∈ f.reached, w.idx ≤ i) ∧ (f.worlds.map fun x => x.idx).Nodup :=
  ⟨sFirst2, { wFork with requests := [1, 0], reached := [1, 0] }, ⟨0, 2, 9, none, false, false, 2, 1⟩, by decide +kernel⟩
noncomputable def sBest1 : State := machine (waits .team) (withRdv (wordOf (.chooseBest 1 2 0)) [7] ∘ withFork2 id)
theorem witness_BestArrives_1 : ∃ s : State, ∃ tm : Team, ∃ f r w, team? s tm.id = some tm ∧ bestRdv s tm.id = some r ∧ tm.fork = some f.id ∧ fork? s f.id = some f ∧ f.winner = none
    ∧ agree r = true ∧ f.worlds.find? (fun x => x.idx == tm.world) = some w ∧ (f.worlds.map fun x => x.idx).Nodup ∧ r.arrivals ≠ [] :=
  ⟨sBest1, tmAt sBest1 2, wFork, wRdv (wordOf (.chooseBest 1 2 0)) [7], ⟨0, 2, 9, none, false, false, 2, 1⟩, by decide +kernel⟩
/-- Both worlds have arrived with one score. -/
def wScored : Fork := { wFork with worlds := [⟨0, 2, 9, some 7, false, false, 2, 1⟩, ⟨1, 3, 10, some 7, false, false, 2, 1⟩] }
/-- Both worlds have aborted. -/
def wAborted : Fork := { wFork with worlds := [⟨0, 2, 9, none, true, false, 2, 1⟩, ⟨1, 3, 10, none, true, false, 2, 1⟩] }
noncomputable def sBest2 : State := machine (waits .choose) (parked ∘ withFork2 (fun _ => wScored))
theorem witness_BestArrives_2_1 : ∃ s : State, ∃ f, fork? s f.id = some f ∧ f.winner = none ∧ f.copying = false ∧ f.reached = [] ∧ (f.worlds.map fun x => x.idx).Nodup ∧ (∀ x ∈
    f.worlds, x.score ≠ none ∨ x.aborted = true) ∧ (∃ x ∈ f.worlds, x.score ≠ none) ∧ (∀ x ∈ f.worlds, x.idx < 8 ∧ ∀ n, x.score = some n → n < 2 ^ 31) :=
  ⟨sBest2, wScored, by decide +kernel, by decide +kernel, by decide +kernel, by decide +kernel, by decide +kernel, by decide +kernel, by decide +kernel, by
    intro x hx
    refine ⟨by revert x; decide +kernel, fun n hn => ?_⟩
    have h : ∀ x ∈ wScored.worlds, x.score = some 7 := by decide +kernel
    cases (h x hx).symm.trans hn
    decide⟩
noncomputable def sBest3 : State := machine (waits .choose) (parked ∘ withFork2 (fun _ => wAborted))
theorem witness_BestArrives_2_2_1 : ∃ s : State, ∃ f, fork? s f.id = some f ∧ f.winner = none ∧ f.copying = false ∧ f.reached = [] ∧ (f.worlds.map fun x => x.idx).Nodup ∧ (∀ x ∈
    f.worlds, x.score ≠ none ∨ x.aborted = true) ∧ (∀ x ∈ f.worlds, x.score = none) ∧ ∃ tm : Team, team? s (f.teamOf 0) = some tm :=
  ⟨sBest3, wAborted, by decide +kernel, by decide +kernel, by decide +kernel, by decide +kernel, by decide +kernel, by decide +kernel, by decide +kernel, tmAt sBest3 2, by decide +kernel⟩
theorem witness_BestArrives_2_2_2 : ∃ s : State, ∃ f, fork? s f.id = some f ∧ f.winner = none ∧ f.copying = false ∧ f.reached = [] ∧ (f.worlds.map fun x => x.idx).Nodup ∧ (∀ x ∈
    f.worlds, x.score ≠ none ∨ x.aborted = true) ∧ (∀ x ∈ f.worlds, x.score = none) :=
  ⟨sBest3, wAborted, by decide +kernel⟩
noncomputable def sChosen : State := machine (waits .choose) (parked ∘ withFork2 (fun f => { f with copying := true, winner := some 1, moved := false }))
theorem witness_ChoiceCopied : ∃ s : State, ∃ f w, ∃ z tj t0, fork? s f.id = some f ∧ f.copying = true ∧ f.winner = some w.idx ∧ f.worlds.find? (fun x => x.idx == w.idx) = some w ∧
    w.idx ≠ 0 ∧ f.worlds.find? (fun x => x.idx == 0) = some z ∧ team? s w.team = some tj ∧ team? s z.team = some t0 ∧ tj.id ≠ t0.id ∧ (∀ c ∈ s.commits,
    c.fork ≠ some f.id) ∧ (∀ sl ∈ s.slots, ∀ k ∈ sl.flock, k.team ≠ t0.id) ∧ (∀ e ∈ s.engines, e.team = tj.id → e.delivered = true) ∧ (∀ m ∈ s.matrix,
    m.team ≠ tj.id) :=
  ⟨sChosen, { wFork with copying := true, winner := some 1, moved := false }, ⟨1, 3, 10, none, false, false, 2, 1⟩, ⟨0, 2, 9, none, false, false, 2, 1⟩, tmAt sChosen 3, tmAt sChosen 2, by decide +kernel⟩
/-- A commit of view 9 is due now. -/
def withCommit (f : Option Nat) (s : State) : State := { s with commits := [⟨9, 0, f, none⟩] }
noncomputable def sViewC : State := machine (id) (fun s => withCommit none { s with views := [⟨9, 0, 1, 1, .live, 0⟩] })
theorem witness_ViewCommits : ∃ s : State, ∃ c v, c ∈ s.commits ∧ s.commits.find? (fun x => x.tag == c.tag) = some c ∧ c.tc ≤ s.time ∧ viewBusy s c.tag = false ∧ (∀ w ∈ s.waiting,
    resolveTag s s.views.length w.view ≠ c.tag) ∧ view? s c.tag = some v ∧ c.family = none ∧ c.fork = none :=
  ⟨sViewC, ⟨9, 0, none, none⟩, ⟨9, 0, 1, 1, .live, 0⟩, by decide +kernel⟩
noncomputable def sTaskC : State := machine (waits .commit) (withCommit (some 7) ∘ parked ∘ withFamily (fun x => { x with state := .committing }))
theorem witness_TaskCommits : ∃ s : State, ∃ c v, ∃ f x, ∃ tm : Team, s.commits.find? (fun x => x.tag == c.tag) = some c ∧ c.tc ≤ s.time ∧ viewBusy s c.tag = false ∧ (∀ w ∈
    s.waiting, resolveTag s s.views.length w.view ≠ c.tag) ∧ view? s c.tag = some v ∧ c.family = some f ∧ family? s f = some x ∧ x.draft = c.tag ∧ team? s
    x.anchor = some tm ∧ tm.state = .resident ∧ (∀ d ∈ s.deferred, d.family ≠ some f) ∧ NoneAwaits s f :=
  ⟨sTaskC, ⟨9, 0, some 7, none⟩, ⟨9, 0, 1, 1, .live, 0⟩, 7, { wFamily with state := .committing }, tmAt sTaskC 2, by decide +kernel, by decide +kernel, by decide +kernel, by decide +kernel, by decide +kernel, by decide +kernel, by decide +kernel, by decide +kernel, by decide +kernel, by decide +kernel, by decide +kernel, by unfold NoneAwaits; decide +kernel⟩
noncomputable def sDies : State := machine (id) (fun s => modCtx { s with views := [⟨9, 0, 1, 1, .live, 0⟩, ⟨10, 9, 2, 1, .live, 0⟩] } 1 fun c => { c with destroying := true })
theorem witness_ViewDies : ∃ s : State, ∃ v, view? s v.tag = some v ∧ v.state ≠ .dead ∧ discardable s v.tag = true :=
  ⟨sDies, ⟨9, 0, 1, 1, .live, 0⟩, by decide +kernel⟩
/-- View 9 in a state, with a version of line 5. -/
def withLine (k : ViewState) (s : State) : State := { s with views := [⟨9, 0, 1, 1, k, 0⟩], versions := [⟨9, 5, [(0, 7), (63, 1)], 1⟩] }
noncomputable def sSweep1 : State := machine (id) (withLine .dead)
theorem witness_SweeperPasses_1 : ∃ s : State, ∃ v, ∃ line : Nat, view? s v.tag = some v ∧ v.state = .dead :=
  ⟨sSweep1, ⟨9, 0, 1, 1, .dead, 0⟩, 5, by decide +kernel⟩
noncomputable def sSweep2 : State := machine (id) (withLine .aliased)
theorem witness_SweeperPasses_2 : ∃ s : State, ∃ v line, view? s v.tag = some v ∧ v.state = .aliased ∧ v.parent = 0 ∧ (∀ x ∈ s.versions, x.line = line → x.tag = v.tag) ∧ ∃ x,
    s.versions.filter (fun y => y.line == line) = [x] ∧ (x.bytes.map Prod.fst).Nodup ∧ view? s 0 = none ∧ Memory.wf s.mem = true ∧ 1 ≤ v.depth ∧ v.depth ≤
    4 ∧ inRing s (line * 64) 64 = false ∧ (∀ k, sealOf s line = some k → k.pav = ctxPav s x.ctx) :=
  ⟨sSweep2, ⟨9, 0, 1, 1, .aliased, 0⟩, 5, by decide +kernel, by decide +kernel, by decide +kernel, by decide +kernel, ⟨9, 5, [(0, 7), (63, 1)], 1⟩, by decide +kernel⟩
noncomputable def sTag : State := machine (id) (fun s => { s with time := 4096, views := [⟨9, 0, 1, 1, .dead, 0⟩] })
theorem witness_TagFrees : ∃ s : State, ∃ v, view? s v.tag = some v ∧ v.state ≠ .live ∧ v.tick + 4096 ≤ s.time ∧ (∀ x ∈ s.versions, x.tag ≠ v.tag) ∧ (∀ c ∈ s.leases, c.view =
    v.tag → c.peer ≠ none) :=
  ⟨sTag, ⟨9, 0, 1, 1, .dead, 0⟩, by decide +kernel⟩

/-! ### Events of memory -/

/-- The access as `f` changes it, granted and with its address. -/
def wGo (f : Access → Access) : Access := f { wAcc with granted := true }
def aLd1 : Access := wGo (id)
noncomputable def sLd1 : State := machine (withAcc aLd1) (fun s => { s with leases := [⟨0, 0xC00, 0, 9, List.replicate 64 3, none, 0, 0⟩] })
theorem witness_LoadsBind_1 : ∃ s : State, ∃ t th, ∃ a pa, ∃ rd sx, Queued s t th a pa ∧ MayLoad s t a ∧ a.op = .load rd sx ∧
    (
    let own := if a.slot then ownStores s t 0 else ownStores s t a.view;
    ∃ c, a.ord ≠ 5 ∧ a.ord ≠ 6 ∧ a.slot = false ∧ leaseHit s t none a.view (pa / 64) = some c) :=
  ⟨sLd1, wLane, thAt sLd1 wLane, aLd1, 0x30004, 3, false, ⟨by decide +kernel, by decide +kernel, rfl⟩, by unfold MayLoad; decide +kernel, by decide +kernel, ⟨0, 0xC00, 0, 9, List.replicate 64 3, none, 0, 0⟩, by decide +kernel⟩
def aLd2 : Access := wGo (fun a => { a with ord := 5 })
noncomputable def sLd2 : State := machine (withAcc aLd2) (id)
theorem witness_LoadsBind_2 : ∃ s : State, ∃ t th, ∃ a pa, ∃ rd sx, Queued s t th a pa ∧ MayLoad s t a ∧ a.op = .load rd sx ∧
    (
    let own := if a.slot then ownStores s t 0 else ownStores s t a.view;
    a.ord ≠ 6 ∧ (a.ord = 5 ∨ a.slot = true ∨ leaseHit s t none a.view (pa / 64) = none) ∧ LineSound s t (pa / 64)) :=
  ⟨sLd2, wLane, thAt sLd2 wLane, aLd2, 0x30004, 3, false, ⟨by decide +kernel, by decide +kernel, rfl⟩, by unfold MayLoad; decide +kernel, by decide +kernel, by decide +kernel, by decide +kernel, by unfold LineSound; decide +kernel⟩
def aLd3 : Access := wGo (fun a => { a with ord := 6 })
noncomputable def sLd3 : State := machine (withAcc aLd3) (fun s => { s with constCache := [⟨0, 1, 0, 0xC00, List.replicate 64 3⟩] })
theorem witness_LoadsBind_3 : ∃ s : State, ∃ t th, ∃ a pa, ∃ rd sx, Queued s t th a pa ∧ MayLoad s t a ∧ a.op = .load rd sx ∧
    (
    let own := if a.slot then ownStores s t 0 else ownStores s t a.view;
    ∃ tm : Team, ∃ c, a.ord = 6 ∧ team? s t.team = some tm ∧ s.constCache.find? (fun c => c.core == tm.core && c.ctx == tm.ctx && c.pav == pavOf s t &&
    c.line == pa / 64) = some c) :=
  ⟨sLd3, wLane, thAt sLd3 wLane, aLd3, 0x30004, 3, false, ⟨by decide +kernel, by decide +kernel, rfl⟩, by unfold MayLoad; decide +kernel, by decide +kernel, tmAt sLd3 2, ⟨0, 1, 0, 0xC00, List.replicate 64 3⟩, by decide +kernel⟩
def aLd4 : Access := wGo (fun a => { a with ord := 6 })
noncomputable def sLd4 : State := machine (withAcc aLd4) (id)
theorem witness_LoadsBind_4 : ∃ s : State, ∃ t th, ∃ a pa, ∃ rd sx, Queued s t th a pa ∧ MayLoad s t a ∧ a.op = .load rd sx ∧
    (
    let own := if a.slot then ownStores s t 0 else ownStores s t a.view;
    ∃ tm : Team, a.ord = 6 ∧ team? s t.team = some tm ∧ s.constCache.find? (fun c => c.core == tm.core && c.ctx == tm.ctx && c.pav == pavOf s t && c.line
    == pa / 64) = none ∧ LineSound s t (pa / 64)) :=
  ⟨sLd4, wLane, thAt sLd4 wLane, aLd4, 0x30004, 3, false, ⟨by decide +kernel, by decide +kernel, rfl⟩, by unfold MayLoad; decide +kernel, by decide +kernel, tmAt sLd4 2, by decide +kernel, by decide +kernel, by decide +kernel, by unfold LineSound; decide +kernel⟩
/-- The context is a pavilion's, with the frame at 0x30000. -/
def wSealPav : Pavilion :=
  { id := 3, part := 1, ways := 0, cores := [], frames := [(3, false)], key := 0, secret := none, src := .live, dst := .none, transfer := none, digest := 0
    copyKind := false, epoch := 0, copyPrepared := false }
def withPav (s : State) : State := modCtx { s with pavilions := [wSealPav] } 1 fun c => { c with pav := 3 }
def aLd5 : Access := wGo (id)
noncomputable def sLd5 : State := machine (withAcc aLd5) (fun s => withPav { s with rotation := { s.rotation with pav := 3, active := true, pointer := 0x30000 } })
theorem witness_LoadsBind_5 : ∃ s : State, ∃ t th, ∃ a pa, ∃ rd sx, Queued s t th a pa ∧ MayLoad s t a ∧ a.op = .load rd sx ∧
    (
    let own := if a.slot then ownStores s t 0 else ownStores s t a.view;
    servedInCore s t a pa = false ∧ sweepHolds s (pavOf s t) (pa / 64) = true) :=
  ⟨sLd5, wLane, thAt sLd5 wLane, aLd5, 0x30004, 3, false, ⟨by decide +kernel, by decide +kernel, rfl⟩, by unfold MayLoad; decide +kernel, by decide +kernel, by decide +kernel⟩
def aLd6 : Access := wGo (id)
noncomputable def sLd6 : State := machine (withAcc aLd6) (fun s => withPav { s with seals := [⟨0xC00, 3, 0, 0, true, false⟩] })
theorem witness_LoadsBind_6 : ∃ s : State, ∃ t th, ∃ a pa, ∃ rd sx, Queued s t th a pa ∧ MayLoad s t a ∧ a.op = .load rd sx ∧
    (
    let own := if a.slot then ownStores s t 0 else ownStores s t a.view;
    servedInCore s t a pa = false ∧ sweepHolds s (pavOf s t) (pa / 64) = false ∧ sealBroken s (pavOf s t) (pa / 64) = true) :=
  ⟨sLd6, wLane, thAt sLd6 wLane, aLd6, 0x30004, 3, false, ⟨by decide +kernel, by decide +kernel, rfl⟩, by unfold MayLoad; decide +kernel, by decide +kernel, by decide +kernel⟩
def aSig1 : Access := wGo (fun a => { a with op := .waitExt 0, size := 8, pa := some 0x30008, va := 0x20008 })
noncomputable def sSig1 : State := machine (withAcc aSig1 ∘ waits (.waitExt 5)) (id)
theorem witness_SignalRead_1 : ∃ s : State, ∃ t th, ∃ a pa v, Queued s t th a pa ∧ MayLoad s t a ∧ LineSound s t (pa / 64) ∧ a.op = .waitExt v ∧ leNat (seen (mergeLine s (pa / 64))
    (pavOf s t) a.view pa 8) = v.toNat :=
  ⟨sSig1, wLane, thAt sSig1 wLane, aSig1, 0x30008, 0, ⟨by decide +kernel, by decide +kernel, rfl⟩, by unfold MayLoad; decide +kernel, by unfold LineSound; decide +kernel, by decide +kernel⟩
def aSig2 : Access := wGo (fun a => { a with op := .waitExt 1, size := 8, pa := some 0x30008, va := 0x20008 })
noncomputable def sSig2 : State := machine (withAcc aSig2 ∘ waits (.waitExt 5)) (id)
theorem witness_SignalRead_2 : ∃ s : State, ∃ t th, ∃ a pa v, Queued s t th a pa ∧ MayLoad s t a ∧ LineSound s t (pa / 64) ∧ a.op = .waitExt v ∧ leNat (seen (mergeLine s (pa / 64))
    (pavOf s t) a.view pa 8) ≠ v.toNat :=
  ⟨sSig2, wLane, thAt sSig2 wLane, aSig2, 0x30008, 1, ⟨by decide +kernel, by decide +kernel, rfl⟩, by unfold MayLoad; decide +kernel, by unfold LineSound; decide +kernel, by decide +kernel⟩
def aGate : Access := wGo (fun a => { a with op := .store, data := [1, 2, 3, 4] })
noncomputable def sGate : State := machine (withAcc aGate) (id)
theorem witness_StoreEnters : ∃ s : State, ∃ t th, ∃ a pa, ∃ tm : Team, Queued s t th a pa ∧ team? s t.team = some tm ∧ a.op = .store ∧ a.space = .home ∧ canLeave s t a = true ∧
    lowerLaneWaits s t a = false :=
  ⟨sGate, wLane, thAt sGate wLane, aGate, 0x30004, tmAt sGate 2, ⟨by decide +kernel, by decide +kernel, rfl⟩, by decide +kernel⟩
def wEntry : GateEntry := ⟨wLane, 5, 0, 0, 0x30004, [1, 2, 3, 4], 0, 5⟩
noncomputable def sDrain : State := machine (fun th => { th with storesOut := [5] }) (fun s => { s with gate := [wEntry], lines := [⟨0xC00, 40, 12⟩] })
theorem witness_StoreDrains : ∃ s : State, ∃ e th, s.gate.find? (fun g => g.tid == e.tid && g.acc == e.acc) = some e ∧ olderInGate e s.gate = false ∧ thread? s e.tid = some th :=
  ⟨sDrain, wEntry, thAt sDrain wLane, by decide +kernel⟩
def aAtom : Access := wGo (fun a => { a with op := .atomic .addI32 (some 3), data := [1, 0, 0, 0] })
noncomputable def sAtom : State := machine (withAcc aAtom) (id)
theorem witness_AtomicReaches : ∃ s : State, ∃ t th, ∃ a pa, Queued s t th a pa ∧ isAtomic a = true ∧ a.space = .home ∧ a.sent = false ∧ issueKnown s a = true ∧ (∀ x ∈ requestOf s t
    a, atomicReady s x = true) ∧ earlierFlock s t a = false ∧ (sameAtomic a a = true ∨ lowerLaneWaits s t a = false) :=
  ⟨sAtom, wLane, thAt sAtom wLane, aAtom, 0x30004, ⟨by decide +kernel, by decide +kernel, rfl⟩, by decide +kernel⟩
def aBank1 : Access := wGo (fun a => { a with space := .scratch 0, va := 1020, pa := some 1020 })
noncomputable def sBank1 : State := machine (withAcc aBank1) (id)
theorem witness_BankAccess_1 : ∃ s : State, ∃ t th, ∃ a pa core, Queued s t th a pa ∧ a.space = .scratch core ∧ canLeave s t a = true ∧ ∃ rd sx, a.op = .load rd sx :=
  ⟨sBank1, wLane, thAt sBank1 wLane, aBank1, 1020, 0, ⟨by decide +kernel, by decide +kernel, rfl⟩, by decide +kernel, by decide +kernel, 3, false, by decide +kernel⟩
def aBank2 : Access := wGo fun a => { a with space := .scratch 0, va := 0, pa := some 0, op := .penTest 3 }
noncomputable def sBank2 : State := machine (withAcc aBank2) (withPen)
theorem witness_BankAccess_2 : ∃ s : State, ∃ t th, ∃ a pa core, Queued s t th a pa ∧ a.space = .scratch core ∧ canLeave s t a = true ∧ ∃ rd, a.op = .penTest rd :=
  ⟨sBank2, wLane, thAt sBank2 wLane, aBank2, 0, 0, ⟨by decide +kernel, by decide +kernel, rfl⟩, by decide +kernel, by decide +kernel, 3, by decide +kernel⟩
def aBank3 : Access := wGo (fun a => { a with space := .scratch 0, va := 1020, pa := some 1020, op := .store, data := [1, 2, 3, 4] })
noncomputable def sBank3 : State := machine (withAcc aBank3) (id)
theorem witness_BankAccess_3 : ∃ s : State, ∃ t th, ∃ a pa core, Queued s t th a pa ∧ a.space = .scratch core ∧ canLeave s t a = true ∧ a.op = .store ∧ lowerLaneWaits s t a = false
    ∧ (∀ n < a.data.length, penInitialised (genAt s core ((pa + n) / 64 * 64)) (penAt s core ((pa + n) / 64 * 64)) = false) :=
  ⟨sBank3, wLane, thAt sBank3 wLane, aBank3, 1020, 0, ⟨by decide +kernel, by decide +kernel, rfl⟩, by decide +kernel⟩
def aBank4 : Access := wGo (fun a => { a with space := .scratch 0, va := 1020, pa := some 1020, op := .atomic .addI32 (some 3), data := [1, 0, 0, 0] })
noncomputable def sBank4 : State := machine (withAcc aBank4) (id)
theorem witness_BankAccess_4 : ∃ s : State, ∃ t th, ∃ a pa core, Queued s t th a pa ∧ a.space = .scratch core ∧ canLeave s t a = true ∧ ∃ op rd, a.op = .atomic op (some rd) ∧
    requestOf s t a = [(t, a)] ∧ lowerLaneWaits s t a = false ∧ (∀ n < (atomBytes op (rdScratch s core pa a.size) a.data).length, penInitialised (genAt s
    core ((pa + n) / 64 * 64)) (penAt s core ((pa + n) / 64 * 64)) = false) :=
  ⟨sBank4, wLane, thAt sBank4 wLane, aBank4, 1020, 0, ⟨by decide +kernel, by decide +kernel, rfl⟩, by decide +kernel, by decide +kernel, .addI32, 3, by decide +kernel⟩
def aFence : Access := wGo (fun a => { a with op := .fence .pfenceLc false, pa := none })
noncomputable def sFence : State := machine (withAcc aFence) (id)
theorem witness_FenceFinishes : ∃ s : State, ∃ t th, ∃ a f b, ∃ tm : Team, thread? s t = some th ∧ acc? s t a.id = some a ∧ a.op = .fence f b ∧ team? s t.team = some tm ∧ fenceReady
    s t th a.id f (earlierIn a.id th.queue) = true :=
  ⟨sFence, wLane, thAt sFence wLane, aFence, .pfenceLc, false, tmAt sFence 2, by decide +kernel⟩
def aExt1 : Access := wGo (fun a => { a with ord := 7 })
noncomputable def sExt1 : State := machine (withAcc aExt1) (id)
theorem witness_ExternalLeaves_1 : ∃ s : State, ∃ t th, ∃ a pa, Queued s t th a pa ∧ a.isFence = false ∧ canLeave s t a = true ∧ lowerLaneWaits s t a = false ∧ ∃ rd sx, a.space = .home
    ∧ a.ord = 7 ∧ a.op = .load rd sx ∧ heldFromLoad s t a = false ∧ LineSound s t (pa / 64) :=
  ⟨sExt1, wLane, thAt sExt1 wLane, aExt1, 0x30004, ⟨by decide +kernel, by decide +kernel, rfl⟩, by decide +kernel, by decide +kernel, by decide +kernel, 3, false, by decide +kernel, by decide +kernel, by decide +kernel, by decide +kernel, by unfold LineSound; decide +kernel⟩
def aExt2 : Access := wGo (fun a => { a with space := .host })
noncomputable def sExt2 : State := machine (withAcc aExt2) (id)
theorem witness_ExternalLeaves_2 : ∃ s : State, ∃ t th, ∃ a pa, Queued s t th a pa ∧ a.isFence = false ∧ canLeave s t a = true ∧ lowerLaneWaits s t a = false ∧ a.space = .host :=
  ⟨sExt2, wLane, thAt sExt2 wLane, aExt2, 0x30004, ⟨by decide +kernel, by decide +kernel, rfl⟩, by decide +kernel⟩
def aExt3 : Access := wGo (fun a => { a with space := .peer 1 })
noncomputable def sExt3 : State := machine (withAcc aExt3) (fun s => { s with leases := [⟨0, 0xC00, 0, 9, List.replicate 64 3, some 1, 0, 0⟩] })
theorem witness_ExternalLeaves_3 : ∃ s : State, ∃ t th, ∃ a pa, Queued s t th a pa ∧ a.isFence = false ∧ canLeave s t a = true ∧ lowerLaneWaits s t a = false ∧ ∃ dev : Nat, ∃ c rd sx,
    a.space = .peer dev ∧ a.op = .load rd sx ∧ a.ord ≠ 5 ∧ a.ord ≠ 7 ∧ leaseHit s t (some dev) 0 (pa / 64) = some c :=
  ⟨sExt3, wLane, thAt sExt3 wLane, aExt3, 0x30004, ⟨by decide +kernel, by decide +kernel, rfl⟩, by decide +kernel, by decide +kernel, by decide +kernel, 1, ⟨0, 0xC00, 0, 9, List.replicate 64 3, some 1, 0, 0⟩, 3, false, by decide +kernel⟩
def aExt4 : Access := wGo (fun a => { a with space := .peer 1 })
noncomputable def sExt4 : State := machine (withAcc aExt4) (fun s => { s with links := { s.links with reach := [(1, [0, 5])] } })
theorem witness_ExternalLeaves_4 : ∃ s : State, ∃ t th, ∃ a pa, Queued s t th a pa ∧ a.isFence = false ∧ canLeave s t a = true ∧ lowerLaneWaits s t a = false ∧ ∃ dev : Nat, ∃ c, a.space
    = .peer dev ∧ (a.op.stores = true ∨ a.ord = 5 ∨ a.ord = 7 ∨ leaseHit s t (some dev) 0 (pa / 64) = none) ∧ tidCtx s t = some c ∧ peerReady s t a = true
    ∧ s.links.out = [] :=
  ⟨sExt4, wLane, thAt sExt4 wLane, aExt4, 0x30004, ⟨by decide +kernel, by decide +kernel, rfl⟩, by decide +kernel, by decide +kernel, by decide +kernel, 1, cxAt sExt4 1, by decide +kernel⟩
def aHost1 : Access := wGo (fun a => { a with space := .host, sent := true })
noncomputable def sHost1 : State := machine (withAcc aHost1) (id)
theorem witness_HostAnswers_1 : ∃ s : State, ∃ t th, ∃ a pa, Queued s t th a pa ∧ a.space = .host ∧ a.sent = true ∧ ∃ rd sx, a.op = .load rd sx :=
  ⟨sHost1, wLane, thAt sHost1 wLane, aHost1, 0x30004, ⟨by decide +kernel, by decide +kernel, rfl⟩, by decide +kernel, by decide +kernel, 3, false, by decide +kernel⟩
def aHost2 : Access := wGo (fun a => { a with op := .store, data := [1, 2, 3, 4], space := .host, sent := true })
noncomputable def sHost2 : State := machine (withAcc aHost2) (id)
theorem witness_HostAnswers_2 : ∃ s : State, ∃ t th, ∃ a pa, Queued s t th a pa ∧ a.space = .host ∧ a.sent = true ∧ a.op = .store ∧ a.c = none :=
  ⟨sHost2, wLane, thAt sHost2 wLane, aHost2, 0x30004, ⟨by decide +kernel, by decide +kernel, rfl⟩, by decide +kernel⟩
/-- A fault for a place that needs one. -/
def noFault : TFault := ⟨0, 0, false, false, 0⟩
def erd {ε α σ : Type} (p : Except ε α × σ) (d : ε) : ε := match p.1 with | .error e => e | .ok _ => d
theorem error_of {ε α σ : Type} {p : Except ε α × σ} (d : ε) (h : (match p.1 with | .error _ => true | .ok _ => false) = true) : p = (.error (erd p d), p.2) := by
  obtain ⟨r, s⟩ := p
  cases r with
  | error e => rfl
  | ok a => cases h
def aWalk1 : Access := wGo (fun a => { a with pa := none, va := 0x8004 })
noncomputable def sWalk1 : State := machine (withAcc aWalk1) (id)
noncomputable def vWalk1 : Except TFault (Nat × Nat × Nat) × State := translateNow sWalk1 false (.core 0) (cxAt sWalk1 1) 0x8004 aWalk1.kind
theorem witness_WalkEnds_1 : ∃ s : State, ∃ t th a, ∃ tm : Team, ∃ c x, ∃ pa lease z, thread? s t = some th ∧ acc? s t a.id = some a ∧ a.id ≠ 0 ∧ a.pa = none ∧ a.logged = none ∧
    a.isFence = false ∧ a.space ≠ .host ∧ a.slot = false ∧ walkerServes s t a.id = true ∧ team? s t.team = some tm ∧ ctx? s tm.ctx = some c ∧ translateNow
    s false (.core tm.core) c a.va.toNat a.kind = (.ok (x, pa, lease), z) ∧ z.teams = s.teams ∧ (a.op.stores = true → a.space = .home → noCell (removeAcc
    z t a.id) c a.view pa = false) :=
  ⟨sWalk1, wLane, thAt sWalk1 wLane, aWalk1, tmAt sWalk1 2, cxAt sWalk1 1, (okd vWalk1 (0, 0, 0)).1, (okd vWalk1 (0, 0, 0)).2.1, (okd vWalk1 (0, 0, 0)).2.2, vWalk1.2, by decide +kernel, by decide +kernel, by decide +kernel, by decide +kernel, by decide +kernel, by decide +kernel, by decide +kernel, by decide +kernel, by decide +kernel, by decide +kernel, by decide +kernel, ok_of (p := vWalk1) (0, 0, 0) (by decide +kernel), by decide +kernel⟩
def aWalk2 : Access := wGo (fun a => { a with pa := none, va := 0x90004 })
noncomputable def sWalk2 : State := machine (withAcc aWalk2) (id)
noncomputable def vWalk2 : Except TFault (Nat × Nat × Nat) × State := translateNow sWalk2 false (.core 0) (cxAt sWalk2 1) 0x90004 aWalk2.kind
theorem witness_WalkEnds_2 : ∃ s : State, ∃ t th a, ∃ tm : Team, ∃ c f z, thread? s t = some th ∧ acc? s t a.id = some a ∧ a.id ≠ 0 ∧ a.pa = none ∧ a.logged = none ∧ a.isFence =
    false ∧ a.space ≠ .host ∧ a.slot = false ∧ walkerServes s t a.id = true ∧ team? s t.team = some tm ∧ ctx? s tm.ctx = some c ∧ translateNow s false
    (.core tm.core) c a.va.toNat a.kind = (.error f, z) ∧ z.teams = s.teams ∧ (inRoutine th .exit = false ∨ th.status ≠ none) ∧ (loggedOf th).length < 4 :=
  ⟨sWalk2, wLane, thAt sWalk2 wLane, aWalk2, tmAt sWalk2 2, cxAt sWalk2 1, erd vWalk2 noFault, vWalk2.2, by decide +kernel, by decide +kernel, by decide +kernel, by decide +kernel, by decide +kernel, by decide +kernel, by decide +kernel, by decide +kernel, by decide +kernel, by decide +kernel, by decide +kernel, error_of (p := vWalk2) noFault (by decide +kernel), by decide +kernel⟩
noncomputable def sWalk3 : State := machine (waits (.fetch 0x40)) (id)
noncomputable def vWalk3 : Except TFault (Nat × Nat × Nat) × State := translateNow sWalk3 false (.core 0) (cxAt sWalk3 1) 0x40 kindFetch
theorem witness_WalkEnds_3 : ∃ s : State, ∃ t th, ∃ tm : Team, ∃ c off, ∃ va x z, thread? s t = some th ∧ team? s t.team = some tm ∧ ctx? s tm.ctx = some c ∧ formAddr (tm.b.getD
    14 0).toNat off.toNat = some va ∧ regionNo va = 0 ∧ th.fetchFault ≠ some off ∧ translateNow s false (.core tm.core) c va kindFetch = (.ok x, z) ∧
    z.teams = s.teams ∧ th.wait = some (.fetch off) :=
  ⟨sWalk3, wLane, thAt sWalk3 wLane, tmAt sWalk3 2, cxAt sWalk3 1, 0x40, 0x40, okd vWalk3 (0, 0, 0), vWalk3.2, by decide +kernel, by decide +kernel, by decide +kernel, by decide +kernel, by decide +kernel, by decide +kernel, ok_of (p := vWalk3) (0, 0, 0) (by decide +kernel), by decide +kernel⟩

/-! ### Events of the engines and of the matrix unit -/

/-- A team copy of one row of 64 bytes from 0x8000 to the start of the allocation, not started. -/
def wEng : EngOp :=
  { id := 20, kind := .team, team := 2, ctx := 1, core := 0, view := 0, tids := [wLane], rd := 3, descs := [(0, [0, 0x8000, 0, 0, 64, 1, 0, 0])]
    bases := List.replicate 16 0, pc := 4, started := false, order := 0, done := 0, written := 0, codes := [], gens := [], perCore := [], latest := 0, prog := []
    acks := [], fetched := [], paused := none, faultVa := 0, faultKind := 0, ended := false, cancelled := false, delivered := false }
def wRun (f : EngOp → EngOp) : EngOp := f { wEng with started := true }
def withEng (e : EngOp) (s : State) : State := { s with engines := [e] }
def wLock : RangeLock := ⟨0, some 19, 2, 1, true, true, 0, 4⟩
noncomputable def sStart : State := machine (id) (withEng wEng)
theorem witness_OperationStarts_1 : ∃ s : State, ∃ e, ∃ tm : Team, eng? s e.id = some e ∧ e.started = false ∧ stopped s e = false ∧ startFree s e = true ∧ team? s e.team = some tm ∧
    (
    let l := mergeLocks (opRanges s e tm);
    (∀ k ∈ l, heldLocks s k.core + needLocks l k.core ≤ 64 ∧ needLocks l k.core + teamLocks s e.team k.core ≤ 64) ∧ (e.kind ≠ .bulk → (s.engines.filter
    fun x => x.unit == e.unit && x.started && !x.delivered).length < 4)) :=
  ⟨sStart, wEng, tmAt sStart 2, by decide +kernel, by decide +kernel, by decide +kernel, by decide +kernel, by decide +kernel, by decide +kernel⟩
noncomputable def sStart2 : State := machine (id) (fun s => { withEng wEng s with locks := List.replicate 64 wLock })
theorem witness_OperationStarts_2 : ∃ s : State, ∃ e, ∃ tm : Team, eng? s e.id = some e ∧ e.started = false ∧ stopped s e = false ∧ startFree s e = true ∧ team? s e.team = some tm ∧
    (
    let l := mergeLocks (opRanges s e tm);
    ∃ k t0 th0, k ∈ l ∧ 64 < needLocks l k.core + teamLocks s e.team k.core ∧ minBy (fun (t : Tid) => t.group * 32 + t.lane) e.tids = some t0 ∧
    e.tids.Nodup ∧ thread? s t0 = some th0) :=
  ⟨sStart2, wEng, tmAt sStart2 2, by decide +kernel, by decide +kernel, by decide +kernel, by decide +kernel, by decide +kernel, (mergeLocks (opRanges sStart2 wEng (tmAt sStart2 2))).getD 0 wLock, wLane, thAt sStart2 wLane, by decide +kernel⟩
def eCopy : EngOp := wRun id
noncomputable def sCopy : State := machine (id) (withEng eCopy)
noncomputable def vCopy : Except EngErr (List Byte) × State := engRead sCopy eCopy 0 0x8000 64
theorem witness_CopyMoves_1 : ∃ s0 : State, ∃ hs : HostStores, ∃ s : State, s = hostStores s0 hs ∧ ∃ e, ∃ tm : Team, ∃ x row c, eng? s e.id = some e ∧ runsNow s e = true ∧ team? s e.team = some tm ∧ locate e.slices e.done = some (x,
    row, c) ∧
    (
    let base := (e.bases.getD x.gbase 0).toNat;
    let off := x.goff + row * x.gpitch + c;
    let place := tm.allocBase + x.soff + row * x.spitch + c;
    let n := min (x.rowb - c) (min (64 - (base + off) % 64) (64 - place % 64));
    ∃ bs z, e.kind = .team ∧ engRead s e base off n = (.ok bs, z) ∧ bs.length = n ∧ z.teams = s.teams ∧ z.engines = s.engines ∧ fencedFrom z (e.pav z)
    tm.core place = false ∧ NoPens z tm.core place n) :=
  ⟨sCopy, [], sCopy, rfl, eCopy, tmAt sCopy 2, sliceOf 0 [0, 0x8000, 0, 0, 64, 1, 0, 0], 0, 0, by decide +kernel, by decide +kernel, by decide +kernel, by decide +kernel, okd vCopy [], vCopy.2, by decide +kernel, ok_of (p := vCopy) [] (by decide +kernel), by decide +kernel, by decide +kernel, by decide +kernel, by decide +kernel, by unfold NoPens; decide +kernel⟩
def eOut : EngOp := wRun fun e => { e with kind := .out }
noncomputable def sOut : State := machine (id) (withEng eOut)
noncomputable def vOut : Except TFault (Nat × Nat × Nat) × State := translateNow sOut false (.core 0) (cxAt sOut 1) 0x8000 kindWrite
theorem witness_CopyMoves_2 : ∃ s0 : State, ∃ hs : HostStores, ∃ s : State, s = hostStores s0 hs ∧ ∃ e, ∃ tm : Team, ∃ x row c, eng? s e.id = some e ∧ runsNow s e = true ∧ team? s e.team = some tm ∧ locate e.slices e.done = some (x,
    row, c) ∧
    (
    let base := (e.bases.getD x.gbase 0).toNat;
    let off := x.goff + row * x.gpitch + c;
    let place := tm.allocBase + x.soff + row * x.spitch + c;
    let n := min (x.rowb - c) (min (64 - (base + off) % 64) (64 - place % 64));
    ∃ k va, ∃ pa w, ∃ lz z, e.kind = .out ∧ fencedFrom s (e.pav s) tm.core place = false ∧ ctx? s e.ctx = some k ∧ formAddr base off = some va ∧ regionNo va = 0 ∧ translateNow s false (.core e.core) k
    va kindWrite = (.ok (w, pa, lz), z) ∧ ctx? z e.ctx = some k ∧ noCell z k e.view pa = false ∧ z.teams = s.teams ∧ z.engines = s.engines) :=
  ⟨sOut, [], sOut, rfl, eOut, tmAt sOut 2, sliceOf 0 [0, 0x8000, 0, 0, 64, 1, 0, 0], 0, 0, by decide +kernel, by decide +kernel, by decide +kernel, by decide +kernel, cxAt sOut 1, 0x8000, (okd vOut (0, 0, 0)).2.1, (okd vOut (0, 0, 0)).1, (okd vOut (0, 0, 0)).2.2, vOut.2, by decide +kernel, by decide +kernel, by decide +kernel, by decide +kernel, by decide +kernel, ok_of (p := vOut) (0, 0, 0) (by decide +kernel), by decide +kernel⟩
def eBeat1 : EngOp := wRun fun e => { e with kind := .multicast, descs := [(0, [16, 0x8000, 0, 0, 64, 1, 0, 0])], gens := [(0, 1)] }
noncomputable def sBeat1 : State := machine (id) (withEng eBeat1)
noncomputable def vBeat1 : Except EngErr (List Byte) × State := engRead sBeat1 eBeat1 0 0x8000 64
theorem witness_BeatArrives_1 : ∃ s0 : State, ∃ hs : HostStores, ∃ s : State, s = hostStores s0 hs ∧ ∃ e, ∃ tm : Team, ∃ x row, ∃ c p, eng? s e.id = some e ∧ runsNow s e = true ∧ e.kind = .multicast ∧ team? s e.team = some tm ∧ locate
    (e.slices.filter fun x => x.cmask.testBit p) (atKey p e.prog) = some (x, row, c) ∧
    (
    let base := (e.bases.getD x.gbase 0).toNat;
    let off := x.goff + row * x.gpitch + c;
    ∃ u bs z, teamAt s tm p = some u ∧ (p, u.gen) ∈ e.gens ∧
    (
    let place := u.allocBase + x.soff + row * x.spitch + c;
    let n := min (x.rowb - c) (min (64 - (base + off) % 64) (64 - place % 64));
    engRead s e base off n = (.ok bs, z) ∧ bs.length = n ∧ z.teams = s.teams ∧ z.engines = s.engines ∧ fencedFrom z (e.pav z) u.core place = false ∧
    NoPens z u.core place n)) :=
  ⟨sBeat1, [], sBeat1, rfl, eBeat1, tmAt sBeat1 2, sliceOf 0 [16, 0x8000, 0, 0, 64, 1, 0, 0], 0, 0, 0, by decide +kernel, by decide +kernel, by decide +kernel, by decide +kernel, by decide +kernel, tmAt sBeat1 2, okd vBeat1 [], vBeat1.2, by decide +kernel, by decide +kernel, ok_of (p := vBeat1) [] (by decide +kernel), by decide +kernel, by decide +kernel, by decide +kernel, by decide +kernel, by unfold NoPens; decide +kernel⟩
def eBeat2 : EngOp := wRun fun e => { e with kind := .multicast, descs := [(0, [16, 0x8000, 0, 0, 64, 1, 0, 0])], gens := [(0, 7)] }
noncomputable def sBeat2 : State := machine (id) (withEng eBeat2)
theorem witness_BeatArrives_2 : ∃ s0 : State, ∃ hs : HostStores, ∃ s : State, s = hostStores s0 hs ∧ ∃ e, ∃ tm : Team, ∃ x row, ∃ c p, eng? s e.id = some e ∧ runsNow s e = true ∧ e.kind = .multicast ∧ team? s e.team = some tm ∧ locate
    (e.slices.filter fun x => x.cmask.testBit p) (atKey p e.prog) = some (x, row, c) ∧
    (
    let base := (e.bases.getD x.gbase 0).toNat;
    let off := x.goff + row * x.gpitch + c;
    (∀ u, teamAt s tm p = some u → (p, u.gen) ∉ e.gens) ∧
    (
    let place := x.soff + row * x.spitch + c;
    let n := min (x.rowb - c) (min (64 - (base + off) % 64) (64 - place % 64));
    0 < n)) :=
  ⟨sBeat2, [], sBeat2, rfl, eBeat2, tmAt sBeat2 2, sliceOf 0 [16, 0x8000, 0, 0, 64, 1, 0, 0], 0, 0, 0, by decide +kernel, by decide +kernel, by decide +kernel, by decide +kernel, by decide +kernel, fun u hu hm => by
      have h : (teamAt sBeat2 (tmAt sBeat2 2) 0).all (fun u => decide ((0, u.gen) ∉ eBeat2.gens)) = true := by decide +kernel
      rw [hu] at h
      exact of_decide_eq_true h hm, by decide +kernel⟩
def eStat : EngOp := wRun fun e => { e with done := 64, written := 64, ended := true }
noncomputable def sStat : State := machine (fun th => { th with pend := [⟨.v 3, .engine, 20⟩] }) (fun s => { withEng eStat s with time := 5 })
theorem witness_StatusDelivered : ∃ s : State, ∃ e, eng? s e.id = some e ∧ statusReady s e = true ∧ e.tids.Nodup :=
  ⟨sStat, eStat, by decide +kernel⟩
noncomputable def sPenCount : State := machine (id) (fun s => { withPen (withEng (wRun fun e => { e with ended := true, delivered := true }) s) with penUpdates := [⟨0, 0, 2, 64, 20⟩, ⟨0, 0, 1, 64, 20⟩] })
theorem witness_PenCounts : ∃ s : State, ∃ op u, minBy PenUpdate.src (s.penUpdates.filter fun x => x.op == op) = some u :=
  ⟨sPenCount, 20, ⟨0, 0, 1, 64, 20⟩, by decide +kernel⟩
/-- A condition that holds of every thread of the machine. -/
theorem all_threads {s : State} {P : Thread → Prop} (h : ∀ tm ∈ s.teams, ∀ g ∈ tm.groups, ∀ th ∈ g.threads, P th) {t : Tid} {th : Thread}
    (ht : thread? s t = some th) : P th := by
  rw [thread?, group?] at ht
  cases h1 : team? s t.team with
  | none => rw [h1] at ht; exact nomatch ht
  | some tm =>
    rw [h1] at ht
    cases h2 : tm.groups[t.group]? with
    | none => simp [h2] at ht
    | some g =>
      simp only [h2] at ht
      exact h tm (List.mem_of_find?_eq_some h1) g (List.mem_of_getElem? h2) th (List.mem_of_getElem? ht)
def eGath : EngOp := wRun fun e => { e with kind := .gather, descs := [(0, [0x1800, 0, 0, 1, 4, 0x8000, 0, 0])] }
noncomputable def sCloseLater : State := turnAt (.gathClose 3 0) (id) (withTrough 1 ∘ withEng eGath)
theorem witness_gathClose_later : ∃ word s sl t l e, let u : Uses := { Uses.none cEngine with rs := [], lead := 2 };
    encode (.gathClose 3 0) = some word ∧ Ready s sl word u noHold ∧ minBy (fun (x : Tid) => x.lane) (lanesOf s sl u) = some t ∧
    lane? (atIssue s sl) t sl.fid word = some l ∧ qBound (qOf l.tm 3) = true ∧
    minBy (fun (x : EngOp) => (atIssue s sl).nextId - x.order) ((atIssue s sl).engines.filter (pushesInto t.team 3)) = some e :=
  ⟨_, sCloseLater, wSlot, wLane, lnAt (atIssue sCloseLater wSlot) wLane 1 (wordOf (.gathClose 3 0)) (by decide +kernel), eGath, rfl, ready_of (by decide +kernel), by decide +kernel, lnAt_of (by decide +kernel), by decide +kernel, by decide +kernel⟩
noncomputable def sGath2 : State := machine (id) (withTrough 1 ∘ withEng eGath)
noncomputable def vGath : Except EngErr (List Byte) × State := engReads eGath 0 0x8000 4 sGath2
theorem witness_GatherPushes : ∃ s0 : State, ∃ hs : HostStores, ∃ s : State, s = hostStores s0 hs ∧ ∃ e, ∃ tm : Team, ∃ g d, ∃ hs' : HostStores, ∃ bs z, eng? s e.id = some e ∧ runsNow s e = true ∧ e.kind = .gather ∧ team? s e.team = some tm ∧ e.descs = [(g,
    d)] ∧ gthGlobal d = false ∧
    (
    let x := qOf tm (gthQ d);
    let i := leNat (rdScratch s tm.core (tm.allocBase + dscW d 1 + 4 * e.done) 4);
    let place := slotAt tm x (qHead x + qFilled x);
    qBound x = true ∧ qFilled x < qSlots x ∧ tm.family = none ∧ fencedFrom s (e.pav s) tm.core (tm.allocBase + dscW d 1 + 4 * e.done) = false ∧ fencedFrom
    z (e.pav z) tm.core place = false ∧ engReads e (e.bases.getD (gthEbase d) 0).toNat (dscQ d 5 + i * dscW d 4) (gthSize d) (hostStores s hs') = (.ok bs, z) ∧ bs.length =
    gthSize d ∧ gthSize d ≤ qSlotBytes x ∧ z.teams = s.teams ∧ z.engines = s.engines ∧ NoPens z tm.core place (qSlotBytes x) ∧ (∀ t th op, thread? s t =
    some th → th.wait ≠ some (.trough op (gthQ d)))) :=
  ⟨sGath2, [], sGath2, rfl, eGath, tmAt sGath2 2, 0, [0x1800, 0, 0, 1, 4, 0x8000, 0, 0], [], okd vGath [], vGath.2, by decide +kernel, by decide +kernel, by decide +kernel, by decide +kernel, by decide +kernel, by decide +kernel, by decide +kernel, by decide +kernel, by decide +kernel, by decide +kernel, by decide +kernel, ok_of (p := vGath) [] (by decide +kernel), by decide +kernel, by decide +kernel, by decide +kernel, by decide +kernel, by unfold NoPens; decide +kernel, fun t th op ht hw => absurd (all_threads (s := sGath2) (P := fun th => th.wait = none) (by decide +kernel) ht) (by rw [hw]; exact Option.some_ne_none _)⟩
def wReq (pop : Bool) : TroughReq := ⟨wLane, 3, pop, 6, 77, 30⟩
def withReq (pop closed : Bool) (n : Nat) (s : State) : State :=
  modTeam { s with troughs := [wReq pop] } 2 fun t => { t with q := updAt 3 (fun _ => qCounts (qMake false 0 0 2 0 0) closed n 0) t.q }
noncomputable def sServe1_1 : State := machine (fun th => { th with pend := [⟨.v 6, .load, 30⟩] }) (withReq true false 4)
theorem witness_TroughServes_1_1 : ∃ s : State, ∃ tm : Team, ∃ q r th, team? s tm.id = some tm ∧ r.tid.team = tm.id ∧ thread? s r.tid = some th ∧ qBound (qOf tm q) = true ∧ reqFree s r
    = true ∧
    (
    let x := qOf tm q;
    let rest := s.troughs.erase r;
    s.troughs.find? (fun k => k.tid.team == tm.id && k.q == q && k.pop) = some r ∧ r.q = q ∧ r.pop = true ∧ qFilled x ≠ 0 ∧ fencedFrom s (teamPav s tm)
    tm.core (slotAt tm x (qHead x)) = false) :=
  ⟨sServe1_1, tmAt sServe1_1 2, 3, wReq true, thAt sServe1_1 wLane, by decide +kernel, by decide +kernel, by decide +kernel, by decide +kernel, by decide +kernel, by decide +kernel⟩
noncomputable def sServe1_2 : State := machine (fun th => { th with pend := [⟨.v 6, .load, 30⟩] }) (withReq true true 0)
theorem witness_TroughServes_1_2 : ∃ s : State, ∃ tm : Team, ∃ q r th, team? s tm.id = some tm ∧ r.tid.team = tm.id ∧ thread? s r.tid = some th ∧ qBound (qOf tm q) = true ∧ reqFree s r
    = true ∧
    (
    let x := qOf tm q;
    let rest := s.troughs.erase r;
    s.troughs.find? (fun k => k.tid.team == tm.id && k.q == q && k.pop) = some r ∧ r.q = q ∧ r.pop = true ∧ qFilled x = 0 ∧ qClosed x = true) :=
  ⟨sServe1_2, tmAt sServe1_2 2, 3, wReq true, thAt sServe1_2 wLane, by decide +kernel, by decide +kernel, by decide +kernel, by decide +kernel, by decide +kernel, by decide +kernel⟩
noncomputable def sServe2 : State := machine (fun th => { th with storesOut := [30] }) (withReq false false 3)
theorem witness_TroughServes_2 : ∃ s : State, ∃ tm : Team, ∃ q r th, team? s tm.id = some tm ∧ r.tid.team = tm.id ∧ thread? s r.tid = some th ∧ qBound (qOf tm q) = true ∧ reqFree s r
    = true ∧
    (
    let x := qOf tm q;
    let rest := s.troughs.erase r;
    s.troughs.find? (fun k => k.tid.team == tm.id && k.q == q && !k.pop) = some r ∧ r.q = q ∧ r.pop = false ∧ qFilled x < qSlots x ∧ fencedFrom s (teamPav
    s tm) tm.core (slotAt tm x (qHead x + qFilled x)) = false ∧ NoPens s tm.core (slotAt tm x (qHead x + qFilled x)) (qSlotBytes x)) :=
  ⟨sServe2, tmAt sServe2 2, 3, wReq false, thAt sServe2 wLane, by decide +kernel, by decide +kernel, by decide +kernel, by decide +kernel, by decide +kernel, by decide +kernel, by decide +kernel, by decide +kernel, by decide +kernel, by decide +kernel, by unfold NoPens; decide +kernel⟩
def withBulk (e : EngOp) (leased : Bool) (s : State) : State := { withEng e s with bulk := [20], engLeases := if leased then [⟨0, 1, 100⟩] else [] }
def eBulk1 : EngOp := wRun fun e => { e with kind := .bulk, descs := [(0, [0, 0x8000, 0, 0x9000, 0, 64, 0, 0])] }
noncomputable def sBulk1 : State := machine (id) (withBulk eBulk1 false)
theorem witness_BulkWorks_1 : ∃ s0 : State, ∃ hs : HostStores, ∃ s : State, s = hostStores s0 hs ∧ ∃ e eng, (s.bulk.filterMap (eng? s)).find? (fun x => x.unit == 1000000 + eng) = some e ∧ eng? s e.id = some e ∧ e.kind = .bulk ∧ e.ended
    = false ∧ e.paused = none ∧ stopped s e = false ∧ (∀ p ∈ s.host.pri, p.1 ≠ e.id) ∧
    (
    let s1 := modEng s e.id fun x => { x with begun := true };
    e.begun = false ∧ hasLease s e.ctx eng = false ∧ 0 < e.total) :=
  ⟨sBulk1, [], sBulk1, rfl, eBulk1, 0, by decide +kernel, by decide +kernel, by decide +kernel, by decide +kernel, by decide +kernel, by decide +kernel, by decide +kernel, by decide +kernel⟩
def eBulk2 : EngOp := wRun fun e => { e with kind := .bulk, descs := [(0, [0, 0x8000, 0, 0x9000, 0, 64, 0, 0])], bases := 0x20000000000000000000 :: List.replicate 15 0 }
noncomputable def sBulk2 : State := machine (id) (withBulk eBulk2 true)
theorem witness_BulkWorks_2 : ∃ s0 : State, ∃ hs : HostStores, ∃ s : State, s = hostStores s0 hs ∧ ∃ e eng, (s.bulk.filterMap (eng? s)).find? (fun x => x.unit == 1000000 + eng) = some e ∧ eng? s e.id = some e ∧ e.kind = .bulk ∧ e.ended
    = false ∧ e.paused = none ∧ stopped s e = false ∧ (∀ p ∈ s.host.pri, p.1 ≠ e.id) ∧
    (
    let s1 := modEng s e.id fun x => { x with begun := true };
    (e.begun = true ∨ hasLease s e.ctx eng = true) ∧ ∃ a, a = (bulkPiece e).1 + (bulkPiece e).2.1 ∧ regionNo a = 2) :=
  ⟨sBulk2, [], sBulk2, rfl, eBulk2, 0, by decide +kernel, by decide +kernel, by decide +kernel, by decide +kernel, by decide +kernel, by decide +kernel, by decide +kernel, by decide +kernel, 0x20000000000000008000, by decide +kernel⟩
noncomputable def sBulk3 : State := machine (id) (withBulk eBulk1 true)
noncomputable def vBulk : Except EngErr (List Byte) × State := engRead (modEng sBulk3 eBulk1.id fun x => { x with begun := true }) eBulk1 0 0x8000 64
noncomputable def yBulk : Except EngErr Unit × State := engWrite vBulk.2 eBulk1 0 0x9000 (okd vBulk [])
theorem witness_BulkWorks_3 : ∃ s0 : State, ∃ hs : HostStores, ∃ s : State, s = hostStores s0 hs ∧ ∃ e eng, (s.bulk.filterMap (eng? s)).find? (fun x => x.unit == 1000000 + eng) = some e ∧ eng? s e.id = some e ∧ e.kind = .bulk ∧ e.ended
    = false ∧ e.paused = none ∧ stopped s e = false ∧ (∀ p ∈ s.host.pri, p.1 ≠ e.id) ∧
    (
    let s1 := modEng s e.id fun x => { x with begun := true };
    (e.begun = true ∨ hasLease s e.ctx eng = true) ∧ ∃ bs z, ∃ y sb, ∃ so db, ∃ dO n, bulkPiece e = (sb, so, db, dO, n) ∧ regionNo (sb + so) ≠ 2 ∧
    regionNo (db + dO) ≠ 2 ∧ engRead s1 e sb so n = (.ok bs, z) ∧ engWrite z e db dO bs = (.ok (), y) ∧ (∃ e1, eng? y e.id = some e1 ∧ e1.done = e.done ∧
    e1.written = e.written ∧ e1.codes = e.codes ∧ e1.kind = .bulk ∧ e1.descs = e.descs ∧ e1.ended = false)) :=
  ⟨sBulk3, [], sBulk3, rfl, eBulk1, 0, by decide +kernel, by decide +kernel, by decide +kernel, by decide +kernel, by decide +kernel, by decide +kernel, by decide +kernel, by decide +kernel, okd vBulk [], vBulk.2, yBulk.2, 0, 0x8000, 0, 0x9000, 64, by decide +kernel, by decide +kernel, by decide +kernel, ok_of (p := vBulk) [] (by decide +kernel), ok_of (p := yBulk) () (by decide +kernel), ⟨(eng? yBulk.2 20).getD eBulk1, by decide +kernel⟩⟩
noncomputable def sPri : State := machine (id) (fun s => { withBulk eBulk2 true s with host := { s.host with pri := [(20, 7)] } })
theorem witness_HostPages_1 : ∃ s : State, ∃ e p, eng? s e.id = some e ∧ s.host.pri.find? (fun x => x.1 == e.id) = some p ∧ e.kind ≠ .gather ∧ 0 < e.left :=
  ⟨sPri, eBulk2, (20, 7), by decide +kernel⟩
theorem witness_HostPages_2 : ∃ s : State, ∃ e p, eng? s e.id = some e ∧ s.host.pri.find? (fun x => x.1 == e.id) = some p :=
  ⟨sPri, eBulk2, (20, 7), by decide +kernel⟩
/-- A form in the queue of quadrant 0. -/
def wMat (f : MatOp → MatOp) : MatOp :=
  f { id := 40, kind := .read, core := 0, quad := 0, team := 2, group := 0, tids := [wLane], rd := 4, word := 0, params := [0], regsA := [], regsB := [], started := false
      chunk := 0, flags := 0, tok := 40 }
def withMats (m : MatOp) (s : State) : State := { s with matrix := [m], tiles := [⟨0, 0, 0, 2, List.replicate 1024 5⟩] }
def mStart : MatOp := wMat (fun m => { m with kind := .mma, params := [0, 0, 4096, 0, 0, 0, 2, 0] })
noncomputable def sMStart : State := machine (id) (withMats mStart)
theorem witness_MatStarts : ∃ s : State, ∃ m, ∃ tm : Team, matHead s m.core m.quad = some m ∧ team? s m.team = some tm ∧ teamEnded tm = false ∧ m.started = false ∧ matFree s m =
    true ∧ (matLocks m tm).length + teamLocks s m.team m.core ≤ 64 ∧ heldLocks s m.core + (matLocks m tm).length ≤ 64 :=
  ⟨sMStart, mStart, tmAt sMStart 2, by decide +kernel⟩
def mChunk : MatOp := { mStart with started := true, chunk := 1 }
noncomputable def sMChunk : State := machine (id) (withMats mChunk)
theorem witness_MatChunks : ∃ s : State, ∃ m, ∃ tm : Team, ∃ t, matHead s m.core m.quad = some m ∧ team? s m.team = some tm ∧ teamEnded tm = false ∧ m.kind = .mma ∧ m.started =
    true ∧ tile? s m.core m.quad (tileOf m.params) = some t :=
  ⟨sMChunk, mChunk, tmAt sMChunk 2, ⟨0, 0, 0, 2, List.replicate 1024 5⟩, by decide +kernel⟩
def mEndMma : MatOp := { mStart with started := true, chunk := 2 }
noncomputable def sMEndMma : State := machine (fun th => { th with pend := [⟨.v 4, .engine, 40⟩] }) (withMats mEndMma)
theorem witness_MatFinishes_Mma : ∃ s : State, ∃ m, ∃ tm : Team, ∃ core quad, matEnding s core quad = some m ∧ team? s m.team = some tm ∧ teamEnded tm = false ∧ (∀ t ∈ s.teams, ∀ g ∈
    t.groups, g.rdv = []) ∧ m.tids.Nodup :=
  ⟨sMEndMma, mEndMma, tmAt sMEndMma 2, 0, 0, by decide +kernel⟩
def mEndRead : MatOp := wMat fun m => { m with started := true }
noncomputable def sMEndRead : State := machine (fun th => { th with pend := [⟨.v 4, .engine, 40⟩] }) (withMats mEndRead)
theorem witness_MatFinishes_Read : ∃ s : State, ∃ m, ∃ tm : Team, ∃ core quad, matEnding s core quad = some m ∧ team? s m.team = some tm ∧ teamEnded tm = false ∧ (∀ t ∈ s.teams, ∀ g ∈
    t.groups, g.rdv = []) ∧ m.tids.Nodup :=
  ⟨sMEndRead, mEndRead, tmAt sMEndRead 2, 0, 0, by decide +kernel⟩
noncomputable def sUnit : State := machine (fun th => { th with held := [⟨9, [(.v 3, 7)]⟩], pend := [⟨.v 3, .sfu, 9⟩] }) (id)
theorem witness_UnitDelivers : ∃ s : State, ∃ team, ∃ tm : Team, ∃ tok, team? s team = some tm ∧ (∃ g ∈ tm.groups, ∃ th ∈ g.threads, ∃ h ∈ th.held, h.tok = tok) :=
  ⟨sUnit, 2, tmAt sUnit 2, 9, by decide +kernel⟩

/-! ### Events of the run: sleeps, grids, flocks, budgets, pre-emption -/

/-- The grid, the context and the team as functions change them. -/
def withGrid (f : Grid → Grid) (s : State) : State := modGrid s 1 f
def withCtx (f : Context → Context) (s : State) : State := modCtx s 1 f
def withTeam (f : Team → Team) (s : State) : State := modTeam s 2 f
/-- One cluster in the partition. -/
def oneCluster (s : State) : State := { s with partitions := [⟨1, ⟨[0], [0], [0], [0], [0]⟩, []⟩] }
/-- What stands in an option that is not empty. -/
noncomputable def got {α : Type} (o : Option α) (h : o.isSome = true) : α := o.get h
theorem got_of {α : Type} {o : Option α} (h : o.isSome = true) : o = some (got o h) := (Option.some_get h).symm
noncomputable def sSleep : State := machine (waits (.sleep 5)) (fun s => { s with time := 5 })
theorem witness_SleepEnds : ∃ s : State, ∃ t th, ∃ tm : Team, ∃ till, thread? s t = some th ∧ team? s t.team = some tm ∧ th.wait = some (.sleep till) ∧ till ≤ s.time :=
  ⟨sSleep, wLane, thAt sSleep wLane, tmAt sSleep 2, 5, by decide +kernel⟩
noncomputable def sReady1 : State := machine (id) (withGrid fun g => { g with ready := false })
theorem witness_GridsReady_1 : ∃ s : State, ∃ g c, grid? s g.id = some g ∧ ctx? s g.ctx = some c ∧ c.suspended = false ∧ g.waitFault = none ∧ g.ready = false ∧ g.record.waitOn = 0 :=
  ⟨sReady1, gdAt sReady1 1, cxAt sReady1 1, by decide +kernel⟩
noncomputable def sReady2 : State := machine (id) (withGrid fun g => { g with ready := false, record := { g.record with waitOn := 0x8000, expected := 1 } })
noncomputable def vReady : Except TFault Nat × State := readWaitOn sReady2 (cxAt sReady2 1) 0x8000
theorem witness_GridsReady_2 : ∃ s : State, ∃ g c, grid? s g.id = some g ∧ ctx? s g.ctx = some c ∧ c.suspended = false ∧ g.waitFault = none ∧ g.ready = false ∧ ∃ v z,
    g.record.waitOn ≠ 0 ∧ readWaitOn s c g.record.waitOn.toNat = (.ok v, z) ∧ z.grids = s.grids :=
  ⟨sReady2, gdAt sReady2 1, cxAt sReady2 1, by decide +kernel, by decide +kernel, by decide +kernel, by decide +kernel, by decide +kernel, okd vReady 0, vReady.2, by decide +kernel, ok_of (p := vReady) 0 (by decide +kernel), by decide +kernel⟩
def wLaunch : LaunchWait := ⟨wLane, 1, 0x800, 77, none, false, 4⟩
noncomputable def sTaken : State := machine (waits (.launch 0x800)) (fun s => { withRecord (parked s) with launches := [wLaunch] })
noncomputable def vTaken : Except RecordFail Loaded × State := validate sTaken (cxAt sTaken 1) 0x800
theorem witness_LaunchTaken : ∃ s : State, ∃ l c, ∃ r z th, s.launches.find? (fun k => k.seq == l.seq) = some l ∧ ctx? s l.ctx = some c ∧ l.fault = none ∧ launchReady s l c = true
    ∧ validate s c l.addr = (.ok r, z) ∧ z.teams = s.teams ∧ r.record.waitOn = 0 ∧ l.deferred = false ∧ thread? s l.tid = some th ∧ th.wait = some
    (.launch l.addr) ∧ (∀ k ∈ z.grids, k.id ≠ z.nextId) :=
  ⟨sTaken, wLaunch, cxAt sTaken 1, okd vTaken noRecord, vTaken.2, thAt sTaken wLane, by decide +kernel, by decide +kernel, by decide +kernel, by decide +kernel, ok_of (p := vTaken) noRecord (by decide +kernel), by decide +kernel⟩
noncomputable def sPick : State := machine (fun th => { th with restored := true }) (withHeader ∘ parked)
theorem witness_FlockPicked : ∃ s : State, ∃ core quad, ∃ k p, (slotOf s core quad k).flock = [] ∧ (∀ t ∈ idleTids s core quad, headerTrap s t = none) ∧ (dedup ((idleTids s core
    quad).map fun t => t.team)).foldl markRestored s = s ∧ pickPath (countTurn s core quad (readyPaths s core quad).length) core quad (slotOf s core quad
    k).low (readyPaths s core quad) = some p :=
  ⟨sPick, 0, 0, 0, got (pickPath (countTurn sPick 0 0 (readyPaths sPick 0 0).length) 0 0 (slotOf sPick 0 0 0).low (readyPaths sPick 0 0)) (by decide +kernel), by decide +kernel, by decide +kernel, by decide +kernel, got_of (by decide +kernel)⟩
def wSampler : Sampler := ⟨0, 0, 1, 0xACE1, 9⟩
noncomputable def sSample : State := machine (id) (fun s => { withCtx (fun c => { c with sample := 256, ringBase := 0x30000, ringSize := 4 }) s with time := 9, observe := { s.observe with samplers := [wSampler] } })
theorem witness_Samples : ∃ s : State, ∃ x c, s.observe.samplers.find? (fun y => y.core == x.core && y.quad == x.quad && decide (y.next ≤ s.time)) = some x ∧ ctx? s x.ctx =
    some c ∧ s.observe.samplers.filter (fun y => y.core == x.core && y.quad == x.quad && y.ctx == x.ctx) = [x] :=
  ⟨sSample, wSampler, cxAt sSample 1, by decide +kernel⟩
noncomputable def sSpent : State := machine (id) (withGrid fun g => { g with sliceTicks := 10, record := { g.record with budget := 10 } })
theorem witness_BudgetSpent : ∃ s : State, ∃ g, grid? s g.id = some g ∧ g.slice = true ∧ g.record.budget ≠ 0 ∧ g.record.budget ≤ g.sliceTicks ∧ (∃ t ∈ s.teams, t.grid = g.id ∧
    t.onCore = true) ∧ (∀ t ∈ s.teams, t.fork = none) :=
  ⟨sSpent, gdAt sSpent 1, by decide +kernel⟩
noncomputable def sDog1 : State := machine (waits (.team)) (withCtx (fun c => { c with idle := 2 ^ 24 }) ∘ parked)
theorem witness_WatchdogFires_1 : ∃ s : State, ∃ c, ctx? s c.id = some c ∧ c.window ≤ c.idle ∧ anySleeps s c.id = false ∧
    (
    let all := waitingTids s c.id;
    let ext := rooted s all (all.length + 1) [];
    (∃ t ∈ all, t ∉ ext)) :=
  ⟨sDog1, cxAt sDog1 1, by decide +kernel, by decide +kernel, by decide +kernel, by decide +kernel⟩
noncomputable def sDog2 : State := machine (waits (.waitExt 5)) (withCtx (fun c => { c with idle := 2 ^ 24 }) ∘ parked)
theorem witness_WatchdogFires_2 : ∃ s : State, ∃ c, ctx? s c.id = some c ∧ c.window ≤ c.idle ∧ anySleeps s c.id = false ∧
    (
    let all := waitingTids s c.id;
    let ext := rooted s all (all.length + 1) [];
    (∀ t ∈ all, t ∈ ext)) :=
  ⟨sDog2, cxAt sDog2 1, by decide +kernel, by decide +kernel, by decide +kernel, by decide +kernel⟩
/-- One new team is pending. -/
def freshB (n : Nat) (l : List Pending) : Bool := match l with | [.fresh k] => k == n | _ => false
theorem fresh_of {n : Nat} {l : List Pending} (h : freshB n l = true) : l = [.fresh n] := by
  unfold freshB at h
  split at h
  · rw [eq_of_beq h]
  · cases h
noncomputable def sPlace : State := machine (id) (oneCluster ∘ withRecord ∘ withGrid (fun g => { g with addr := 0x800, next := 1, total := 2 }))
noncomputable def vPlace : Except RecordFail Loaded × State := validate sPlace (cxAt sPlace 1) 0x800
theorem witness_TeamPlaced : ∃ s : State, ∃ g l, ∃ c n, ∃ rest rd, ∃ z p, placeOrder s g.part = g :: l ∧ grid? s g.id = some g ∧ ctx? s g.ctx = some c ∧ g.record.flags.getLsbD 0 =
    false ∧ g.record.flags.getLsbD 1 = false ∧ g.dropped = false ∧ pendingTeams s g = .fresh n :: rest ∧ validate s c g.addr = (.ok rd, z) ∧ z.grids =
    s.grids ∧ z.teams = s.teams ∧ pendingTeams z g = .fresh n :: rest ∧ roomSettled z g.part = true ∧
    (
    let m := (rd.keep g.record).record;
    chooseCore z (wantOf g c (rd.keep g.record) (.fresh n)) (coresOf (usableClusters z g.part)) = some p) :=
  ⟨sPlace, gdAt sPlace 1, [], cxAt sPlace 1, 1, [], okd vPlace noRecord, vPlace.2, got (chooseCore vPlace.2 (wantOf (gdAt sPlace 1) (cxAt sPlace 1) ((okd vPlace noRecord).keep (gdAt sPlace 1).record) (.fresh 1)) (coresOf (usableClusters vPlace.2 1))) (by decide +kernel), by decide +kernel, by decide +kernel, by decide +kernel, by decide +kernel, by decide +kernel, by decide +kernel, fresh_of (by decide +kernel), ok_of (p := vPlace) noRecord (by decide +kernel), by decide +kernel, by decide +kernel, fresh_of (by decide +kernel), by decide +kernel, got_of (o := chooseCore vPlace.2 (wantOf (gdAt sPlace 1) (cxAt sPlace 1) ((okd vPlace noRecord).keep (gdAt sPlace 1).record) (.fresh 1)) (coresOf (usableClusters vPlace.2 1))) (by decide +kernel)⟩
noncomputable def sResid : State := machine (id) (fun s => { s with time := 4096 })
theorem witness_ResidencyEnds : ∃ s : State, ∃ t g, team? s t.id = some t ∧ t.state = .resident ∧ t.placed + 4096 ≤ s.time ∧ grid? s t.grid = some g :=
  ⟨sResid, tmAt sResid 2, gdAt sResid 1, by decide +kernel⟩
noncomputable def sSaved : State := machine (fun th => { th with status := some .routineOk }) (withTeam (fun t => { t with state := .preempting, why := some .budget }) ∘ parked)
theorem witness_TeamSaved : ∃ s : State, ∃ t c, team? s t.id = some t ∧ saveReady s t = true ∧ t.discarded = false ∧ ctx? s t.ctx = some c ∧ c.destroying = false :=
  ⟨sSaved, tmAt sSaved 2, cxAt sSaved 1, by decide +kernel⟩
def wRegion : Region := { start := 0, stop := 0x100, exitOff := 0x200, entryOff := 0x300, budget := 100, save := 0, flags := 0, scratchOff := 0, scratchLen := 0, exitLen := 64, entryLen := 64, live := 0 }
noncomputable def sVec1 : State := machine (fun th => { th with restored := true }) (withTeam (fun t => { t with state := .preempting, why := some .budget }) ∘ withTeam (fun g => { g with regions := [wRegion] }) ∘ parked)
theorem witness_ThreadVectored_1 : ∃ s : State, ∃ t th, ∃ tm : Team, thread? s t = some th ∧ th.owed = none ∧ team? s t.team = some tm ∧ toVector tm th = true ∧ ∃ n c, ∃ rg gr, regionOf
    tm th.pc.off = some n ∧ ctx? s tm.ctx = some c ∧ tm.regions[n]? = some rg ∧ tm.groups[t.group]? = some gr :=
  ⟨sVec1, wLane, thAt sVec1 wLane, tmAt sVec1 2, by decide +kernel, by decide +kernel, by decide +kernel, by decide +kernel, 0, cxAt sVec1 1, wRegion, grAt sVec1 2 0, by decide +kernel⟩
noncomputable def sVec2 : State := machine (fun th => { th with restored := true }) (withTeam (fun t => { t with state := .preempting, why := some .budget }) ∘ parked)
theorem witness_ThreadVectored_2 : ∃ s : State, ∃ t th, ∃ tm : Team, thread? s t = some th ∧ th.owed = none ∧ team? s t.team = some tm ∧ toVector tm th = true ∧ regionOf tm th.pc.off =
    none :=
  ⟨sVec2, wLane, thAt sVec2 wLane, tmAt sVec2 2, by decide +kernel⟩
noncomputable def sOver : State := machine (wRoutine .exit) (fun s => { s with time := 101 })
noncomputable def rOver : Routine := ((thAt sOver wLane).routine).getD ⟨.entry, 0, 0, 0, 0, loadPc, [], 0, 0, 0, 0, 0⟩
theorem witness_RoutineOverruns_after : ∃ s : State, ∃ t th ro, thread? s t = some th ∧ th.routine = some ro ∧ ro.kind = .exit ∧ th.status = none ∧ (ro.budgetEnd < s.time ∨ ro.budgetEnd =
    s.time ∧ ∀ sl ∈ s.slots, t ∈ sl.flock → slotDue s sl = false) :=
  ⟨sOver, wLane, thAt sOver wLane, rOver, by decide +kernel⟩
noncomputable def sOver0 : State := machine (wRoutine .exit) (fun s => { parked s with time := rOver.budgetEnd })
theorem witness_RoutineOverruns_at : ∃ s : State, ∃ t th ro, thread? s t = some th ∧ th.routine = some ro ∧ ro.kind = .exit ∧ th.status = none ∧ (ro.budgetEnd < s.time ∨ ro.budgetEnd =
    s.time ∧ ∀ sl ∈ s.slots, t ∈ sl.flock → slotDue s sl = false) :=
  ⟨sOver0, wLane, thAt sOver0 wLane, rOver, by decide +kernel⟩
noncomputable def sRetire : State := machine (fun th => { th with life := .retired }) (parked)
theorem witness_TeamRetires_1 : ∃ s : State, ∃ t, team? s t.id = some t ∧ retireReady s t = true ∧ t.succ = none :=
  ⟨sRetire, tmAt sRetire 2, by decide +kernel⟩
theorem witness_TeamRetires_2 : ∃ s : State, ∃ t g, team? s t.id = some t ∧ retireReady s t = true ∧ teamDrained s t = true ∧ t.succ = none ∧ t.fork = none ∧ grid? s t.grid = some g :=
  ⟨sRetire, tmAt sRetire 2, gdAt sRetire 1, by decide +kernel⟩

/-! ### Power, resets, links, vectors, windows and the mailbox -/

/-- A command in the mailbox, not run. -/
def withCmd (l : List Word) (s : State) : State :=
  { s with mailbox := { s.mailbox with cmd := l ++ List.replicate (16 - l.length) 0, busy := true, running := true } }
def isl (step : Nat) (limit : BitVec 4) (deferred : Option Nat) : Island := ⟨step, limit, 40, deferred, 0, 0⟩
theorem witness_PowerSteps_1 : ∃ s : State, ∃ w, 1200 ≤ w ∧ w ≤ 2800 ∧ w % 10 = 0 :=
  ⟨State.reset, 2800, by decide +kernel⟩
theorem witness_PowerSteps_2 : ∃ s : State, ∃ w i x, s.powerLimit < w ∧ nextLower s = some i ∧ s.islands[i]? = some x :=
  ⟨State.reset, 2801, 0, Island.reset, by decide +kernel⟩
def sRaise : State := { State.reset with islands := isl 1 1 none :: List.replicate 15 Island.reset }
theorem witness_PowerSteps_3 : ∃ s : State, ∃ w i x, w ≤ s.powerLimit ∧ w * 100 < s.powerLimit * 95 ∧ nextRaise s = some i ∧ s.islands[i]? = some x :=
  ⟨sRaise, 2000, 0, isl 1 1 none, by decide +kernel⟩
theorem witness_PowerSteps_4 : ∃ s : State, ∃ i x, isCoreHalf i = true ∧ islandBusy s i = false ∧ s.islands[i]? = some x :=
  ⟨State.reset, 10, Island.reset, by decide +kernel⟩
def sDefer : State := { State.reset with islands := isl 0 1 (some 1) :: List.replicate 15 Island.reset }
theorem witness_PowerSteps_6 : ∃ s : State, ∃ i x k, s.islands[i]? = some x ∧ x.deferred = some k ∧ islandPreempting s i = false :=
  ⟨sDefer, 0, isl 0 1 (some 1), 1, by decide +kernel⟩
theorem witness_PowerSteps_7 : ∃ s : State, ∃ i x k, i < 16 ∧ k ≠ 3 ∧ k ≤ lowestStep i ∧ s.islands[i]? = some x ∧ x.step < k :=
  ⟨State.reset, 11, Island.reset, 2, by decide +kernel⟩
noncomputable def sGateI : State := machine (id) (id)
theorem witness_PowerSteps_5 : ∃ s : State, ∃ i, isCoreHalf i = true ∧ islandBusy s i = true :=
  ⟨sGateI, 0, by decide +kernel⟩
def sErr : State := { State.reset with observe := { State.reset.observe with errors := [(true, 3, 7, 2, 0)] } }
theorem witness_ErrorCounted : ∃ s : State, ∃ link : Bool, ∃ index total within, index < (if link then 4 else 256) ∧ s.observe.errors.find? (fun x => x.1 == link && x.2.1 == index)
    = some (link, index, total, within, s.time / 800000000) :=
  ⟨sErr, true, 3, 7, 2, by decide +kernel⟩
theorem witness_Warms_1 : ∃ s : State, ∃ i t, ∃ x : Island, i < 16 ∧ s.islands[i]? = some x ∧ t < 100 :=
  ⟨State.reset, 15, 99, Island.reset, by decide +kernel⟩
theorem witness_Warms_2 : ∃ s : State, ∃ i t, ∃ x : Island, i < 16 ∧ s.islands[i]? = some x ∧ 100 ≤ t ∧ t < 110 :=
  ⟨State.reset, 0, 109, Island.reset, by decide +kernel⟩
/-- The header words of a flit of type 1, and of type 3 for port 0 and number 4 or 5. -/
def hMsg : BitVec 64 := 0x100000000
def hFail (orig : Nat) : BitVec 64 := BitVec.ofNat 64 (0x300000000 + 2 ^ 41 * orig)
/-- Port 0 owns and reaches everything that the requests below need. -/
def withReach (s : State) : State :=
  { s with links := { s.links with reach := [(1, [0, 1])] }, partitions := [⟨1, ⟨[0], [0], upto 256, [0], [0, 1, 23]⟩, []⟩] }
noncomputable def sLink : State := machine (id) (withReach)
theorem witness_PeerServed_1 : ∃ s : State, ∃ port : Nat, ∃ dev : Nat, ∃ hdr : BitVec 64, ∃ slot : Nat, ∃ num : Nat, ∃ addr, ∃ cls : Nat, Receives s port hdr 1 ∧ slot < 15 ∧ portAllows s port addr = true ∧
    port < 24 ∧ s.links.out = [] :=
  ⟨sLink, 23, 1, hMsg, 14, 9, 0x30004, 3, by unfold Receives; decide +kernel, by decide +kernel⟩
theorem witness_PeerServed_2_write : ∃ s : State, ∃ port : Nat, ∃ dev : Nat, ∃ hdr : BitVec 64, ∃ slot : Nat, ∃ num : Nat, ∃ addr, ∃ n : Nat, ∃ atom : Option (Nat × Bool), ∃ data : BitVec 512, Receives
    s port hdr 1 ∧ slot + 1 + (min n 64 + 15) / 16 ≤ 15 ∧ portAllows s port addr = true ∧ addr % 64 + min n 64 ≤ 64 :=
  ⟨sLink, 23, 1, hMsg, 13, 9, 0x3003C, 4, none, 7, by unfold Receives; decide +kernel, by decide +kernel⟩
theorem witness_PeerServed_2_atomic : ∃ s : State, ∃ port : Nat, ∃ dev : Nat, ∃ hdr : BitVec 64, ∃ slot : Nat, ∃ num : Nat, ∃ addr, ∃ n : Nat, ∃ atom : Option (Nat × Bool), ∃ data : BitVec 512, Receives
    s port hdr 1 ∧ slot + 1 + (min n 64 + 15) / 16 ≤ 15 ∧ portAllows s port addr = true ∧ addr % 64 + min n 64 ≤ 64 :=
  ⟨sLink, 23, 1, hMsg, 13, 9, 0x3003C, 4, some (0, true), 7, by unfold Receives; decide +kernel, by decide +kernel⟩
/-- A request to device 1 is out. -/
def withOut (s : State) : State := { s with links := { s.links with reqs := [⟨9, .access [(wLane, 5)], 1, 1, 0, false⟩] } }
def aOut : Access := wGo fun a => { a with space := .peer 1, sent := true }
def aOutSt : Access := wGo fun a => { a with space := .peer 1, sent := true, op := .store, data := [1, 2, 3, 4] }
noncomputable def sAns1 : State := machine (withAcc aOut) (withOut)
noncomputable def sAns2 : State := machine (withAcc aOutSt) (withOut)
theorem witness_PeerAnswers_1 : ∃ s : State, ∃ port : Nat, ∃ dev : Nat, ∃ hdr : BitVec 64, ∃ slot : Nat, ∃ num : Nat, ∃ q t, ∃ acc th a, Receives s port hdr 1 ∧ req? s num = some q ∧ q.dev = dev ∧
    q.src = .access [(t, acc)] ∧ thread? s t = some th ∧ acc? s t acc = some a ∧ a.id = acc ∧ ∃ expiry : Nat, ∃ data : BitVec 512, ∃ rd sx, slot ≤ 10 ∧ a.op = .load
    rd sx :=
  ⟨sAns1, 23, 1, hMsg, 10, 9, ⟨9, .access [(wLane, 5)], 1, 1, 0, false⟩, wLane, 5, thAt sAns1 wLane, aOut, by unfold Receives; decide +kernel, by decide +kernel, by decide +kernel, by decide +kernel, by decide +kernel, by decide +kernel, by decide +kernel, 40, 1, 3, false, by decide +kernel⟩
theorem witness_PeerAnswers_2 : ∃ s : State, ∃ port : Nat, ∃ dev : Nat, ∃ hdr : BitVec 64, ∃ slot : Nat, ∃ num : Nat, ∃ q t, ∃ acc th a, Receives s port hdr 1 ∧ req? s num = some q ∧ q.dev = dev ∧
    q.src = .access [(t, acc)] ∧ thread? s t = some th ∧ acc? s t acc = some a ∧ a.id = acc ∧ slot < 15 :=
  ⟨sAns2, 23, 1, hMsg, 14, 9, ⟨9, .access [(wLane, 5)], 1, 1, 0, false⟩, wLane, 5, thAt sAns2 wLane, aOutSt, by unfold Receives; decide +kernel, by decide +kernel⟩
/-- A flit of type 1 to device 1 with number 7, replayed `n` times. -/
def wFlit (n : Nat) : Flit := ⟨1, 1, 0, 7, 0, 0, 0, 0, [⟨.ack, 1, 3, 0, 0, 0, none, 0, []⟩], 0, n⟩
def wPort (up : Bool) (l : List Flit) : Port := ⟨up, [(1, 8)], [(1, 4)], l⟩
def withPort (p : Port) (s : State) : State := { s with links := { s.links with ports := p :: List.replicate 23 Port.reset } }
noncomputable def sFail1 : State := machine (id) (withReach ∘ withPort (wPort true []))
noncomputable def sFail2 : State := machine (id) (withReach ∘ withPort (wPort true [wFlit 7]))
noncomputable def sFail3 : State := machine (id) (withReach ∘ withPort (wPort true [wFlit 9]))
noncomputable def sFail4 : State := machine (id) (withReach ∘ withPort (wPort false []))
theorem witness_LinkFails_1 : ∃ s : State, ∃ port : Nat, ∃ dev : Nat, ∃ p : Port, s.links.ports[port]? = some p ∧ p.up = true :=
  ⟨sFail1, 0, 1, wPort true [], by decide +kernel⟩
theorem witness_LinkFails_2 : ∃ s : State, ∃ port : Nat, ∃ dev : Nat, ∃ hdr : BitVec 64, ∃ p : Port, ∃ f, s.links.ports[port]? = some p ∧ p.up = true ∧ hdrType hdr = 2 ∧
    (p.replay.filter fun f => !(f.dev == dev && atOrBelow f.seq (hdrAck hdr))).find? (fun f => f.dev == dev && f.seq == hdrAck hdr + 1) = some f ∧
    f.replays < 8 :=
  ⟨sFail2, 0, 1, 0x200006000, wPort true [wFlit 7], wFlit 7, by decide +kernel⟩
theorem witness_LinkFails_3 : ∃ s : State, ∃ port : Nat, ∃ p : Port, ∃ f q, s.links.ports[port]? = some p ∧ p.up = true ∧ p.replay = [f] ∧ 8 < f.replays ∧ f.kind = 1 ∧ otherPort s
    port f.dev = some q :=
  ⟨sFail3, 0, wPort true [wFlit 9], wFlit 9, 1, by decide +kernel⟩
theorem witness_LinkFails_4_1 : ∃ s : State, ∃ port : Nat, ∃ dev : Nat, ∃ hdr : BitVec 64, ∃ slot : Nat, ∃ kind : Nat, ∃ num : Nat, ∃ addr : Nat, ∃ n : Nat, ∃ cls : Nat, ∃ atom : Option (Nat ×
    Bool), ∃ expiry : Nat, ∃ data : BitVec 512, ∃ p : Port, Receives s port hdr 3 ∧ port ≠ hdrFailed hdr ∧ s.links.ports[hdrFailed hdr]? = some p ∧
    s.links.resent ≠ some (dev, hdrFailed hdr, hdrOrig hdr) ∧ (∃ x, seqOf p.rxSeq dev = some x ∧ atOrBelow (hdrOrig hdr) x = true) :=
  ⟨sFail4, 1, 1, hFail 4, 0, 1, 3, 0x30000, 64, 0, none, 0, 5, wPort false [], by unfold Receives; decide +kernel, by decide +kernel, by decide +kernel, by decide +kernel, ⟨4, by decide +kernel⟩⟩
theorem witness_LinkFails_4_2 : ∃ s : State, ∃ port : Nat, ∃ dev : Nat, ∃ hdr : BitVec 64, ∃ slot : Nat, ∃ kind : Nat, ∃ num : Nat, ∃ addr : Nat, ∃ n : Nat, ∃ cls : Nat, ∃ atom : Option (Nat ×
    Bool), ∃ expiry : Nat, ∃ data : BitVec 512, ∃ p : Port, Receives s port hdr 3 ∧ port ≠ hdrFailed hdr ∧ s.links.ports[hdrFailed hdr]? = some p ∧
    s.links.resent ≠ some (dev, hdrFailed hdr, hdrOrig hdr) ∧ (∀ x, seqOf p.rxSeq dev = some x → atOrBelow (hdrOrig hdr) x = false) ∧ kind = 1 ∧ slot + 1 + (min n 64 + 15) / 16 ≤ 15 ∧
    portAllows s port addr = true ∧ addr % 64 + min n 64 ≤ 64 :=
  ⟨sFail4, 1, 1, hFail 5, 10, 1, 3, 0x30000, 64, 0, none, 0, 5, wPort false [], by unfold Receives; decide +kernel, by decide +kernel, by decide +kernel, by decide +kernel, fun x hx => by
    have h : seqOf (wPort false []).rxSeq 1 = some 4 := by decide +kernel
    cases h.symm.trans hx
    decide +kernel, by decide +kernel⟩
noncomputable def sLate : State := machine (withAcc aOutSt) (fun s => { withOut s with time := 80000 })
theorem witness_LinkFails_5 : ∃ s : State, ∃ num : Nat, ∃ q t, ∃ acc c, ∃ a th, req? s num = some q ∧ q.src = .access [(t, acc)] ∧ tidCtx s t = some c ∧ q.issued + 80000 ≤ s.time ∧
    acc? s t acc = some a ∧ a.op = .store ∧ thread? s t = some th :=
  ⟨sLate, 9, ⟨9, .access [(wLane, 5)], 1, 1, 0, false⟩, wLane, 5, cxAt sLate 1, aOutSt, thAt sLate wLane, by decide +kernel⟩
noncomputable def sMsi1 : State := machine (id) (fun s => { s with host := { s.host with sigs := [([wLane], 0, 8)] } })
theorem witness_VectorsSent_1 : ∃ s : State, ∃ ts, ∃ fn : Nat, ∃ vec : Nat, s.host.sigs = [(ts, fn, vec)] ∧ (∀ t ∈ ts, storesDone s t = true) :=
  ⟨sMsi1, [wLane], 0, 8, by decide +kernel⟩
noncomputable def sMsi2 : State := machine (withAcc aOutSt) (fun s => { s with host := { s.host with sigs := [([wLane], 0, 8)] } })
theorem witness_VectorsSent_2 : ∃ s : State, ∃ ts, ∃ fn : Nat, ∃ vec : Nat, s.host.sigs = [(ts, fn, vec)] ∧ (∃ t ∈ ts, storesDone s t = false) :=
  ⟨sMsi2, [wLane], 0, 8, by decide +kernel⟩
def sMask : State := { State.reset with host := { State.reset.host with masked := [(0, 8), (0, 9)], pending := [(0, 8)] } }
theorem witness_VectorsSent_3 : ∃ s : State, ∃ fn : Nat, ∃ vec : Nat, (fn, vec) ∈ s.host.pending ∧ vec < vectorsOf fn ∧ linkUp s fn = true :=
  ⟨sMask, 0, 8, by decide +kernel⟩
theorem witness_VectorsSent_4 : ∃ s : State, ∃ fn : Nat, ∃ vec : Nat, (fn, vec) ∉ s.host.pending :=
  ⟨sMask, 0, 9, by decide +kernel⟩
noncomputable def sDue5 : State := machine (id) (fun s => { withCtx (fun c => { c with faultDue := true, faultTick := some 0 }) s with time := 800 })
theorem witness_VectorsSent_5 : ∃ s : State, ∃ c, ctx? s c.id = some c ∧ c.faultDue = true ∧ (∀ t, c.faultTick = some t → t + 800 ≤ s.time) :=
  ⟨sDue5, cxAt sDue5 1, by decide +kernel⟩
noncomputable def sDue6 : State := machine (id) (fun s => { withCtx (fun c => { c with faultDue := true, faultTick := some 0 }) s with time := 799 })
theorem witness_VectorsSent_6 : ∃ s : State, ∃ c, ctx? s c.id = some c ∧ (c.faultDue = false ∨ ∃ t, c.faultTick = some t ∧ s.time < t + 800) :=
  ⟨sDue6, cxAt sDue6 1, by decide +kernel, .inr ⟨0, by decide +kernel, by decide +kernel⟩⟩
def sWin : State := { State.reset with host := { State.reset.host with segs := [(0, 0, 3)] } }
theorem witness_WindowWorks_1 : ∃ s : State, ∃ fn : Nat, ∃ off : Nat, ∃ n : Nat, ∃ pa e, ∃ ide : Option Nat, InWindow s fn off n pa e :=
  ⟨sWin, 0, 0, 1, 0, 3, none, ⟨by decide +kernel, by decide +kernel, by decide +kernel, by decide +kernel, by decide +kernel, by decide +kernel⟩⟩
theorem witness_WindowWorks_2 : ∃ s : State, ∃ fn : Nat, ∃ off : Nat, ∃ n : Nat, ∃ pa e, ∃ data : BitVec 512, ∃ ide : Option Nat, InWindow s fn off n pa e ∧ inRing s pa n = false ∧
    inDump s pa n = false ∧ e.getLsbD 1 = true ∧ 1 ≤ n ∧ off % 64 + n ≤ 64 :=
  ⟨sWin, 0, 0, 1, 0, 3, 7, none, ⟨by decide +kernel, by decide +kernel, by decide +kernel, by decide +kernel, by decide +kernel, by decide +kernel⟩, by decide +kernel⟩
theorem witness_WindowWorks_3_invalid : ∃ s : State, ∃ fn : Nat, ∃ off : Nat, ∃ n : Nat, ∃ data : BitVec 512, ∃ ide : Option Nat, linkUp s fn = true ∧ s.host.winFail ≠ 0xFFFFFFFF#32 ∧
    ((segOf s fn off).getLsbD 0 = false ∨ (2 ^ 30 < off % 2 ^ 30 + n ∧ ∀ pa, scrubPending s pa = false)) :=
  ⟨sWin, 0, 0x40000000, 8, 7, none, by decide +kernel, by decide +kernel, .inl rfl⟩
theorem witness_WindowWorks_3_across : ∃ s : State, ∃ fn : Nat, ∃ off : Nat, ∃ n : Nat, ∃ data : BitVec 512, ∃ ide : Option Nat, linkUp s fn = true ∧ s.host.winFail ≠ 0xFFFFFFFF#32 ∧
    ((segOf s fn off).getLsbD 0 = false ∨ (2 ^ 30 < off % 2 ^ 30 + n ∧ ∀ pa, scrubPending s pa = false)) :=
  ⟨sWin, 0, 0x3FFFFFFF, 2, 7, none, by decide +kernel, by decide +kernel, .inr ⟨by decide +kernel, fun pa => rfl⟩⟩
def sWin1 : State := { State.reset with host := { State.reset.host with link1 := false } }
theorem witness_WindowWorks_4 : ∃ s : State, ∃ fn : Nat, ∃ off : Nat, ∃ n : Nat, ∃ data : BitVec 512, ∃ ide : Option Nat, linkUp s fn = false :=
  ⟨sWin1, 1, 0, 1, 7, none, by decide +kernel⟩
def sVf : State := { State.reset with host := { State.reset.host with vfs := [⟨257, 1, 0, .run, none⟩] } }
theorem witness_InterfacesGuard_2 : ∃ s : State, ∃ fn : Nat, ∃ v, ∃ code : Nat, vf? s fn = some v :=
  ⟨sVf, 257, ⟨257, 1, 0, .run, none⟩, 1, by decide +kernel⟩
def sHf4 : State := { State.reset with host := { State.reset.host with hfEntries := 64 } }
def sHf5 : State := { State.reset with host := { State.reset.host with hfEntries := 65 } }
theorem witness_InterfacesGuard_4 : ∃ s : State, ∃ k, s.host.hfBase.toNat % 64 = 0 ∧ 6 ≤ k ∧ k ≤ 16 ∧ s.host.hfEntries = BitVec.ofNat 32 (2 ^ k) :=
  ⟨sHf4, 6, by decide +kernel⟩
theorem witness_InterfacesGuard_5 : ∃ s : State, (s.host.hfBase.toNat % 64 ≠ 0 ∨ (∀ k, 6 ≤ k → k ≤ 16 → s.host.hfEntries ≠ BitVec.ofNat 32 (2 ^ k))) :=
  ⟨sHf5, .inr fun k h1 h2 h => by
    have h3 : ∀ k ∈ List.range 17, (65 : Word) ≠ BitVec.ofNat 32 (2 ^ k) := by decide
    exact h3 k (List.mem_range.mpr (by omega)) h⟩
def sEnd : State := { withCmd [0x70004] State.reset with mailbox := { (withCmd [0x70004] State.reset).mailbox with pendResult := some 0, pendOut := [5] } }
theorem witness_CommandEnds_1 : ∃ s : State, ∃ res, s.mailbox.busy = true ∧ s.mailbox.running = true ∧ s.mailbox.pendResult = some res ∧ cmdWaits s = false ∧ s.mailbox.pendOut.length
    ≤ 6 :=
  ⟨sEnd, 0, by decide +kernel⟩
def sBad : State := withCmd [7] State.reset
theorem witness_CommandEnds_2 : ∃ s : State, ∃ code, Command s code ∧ (code = 0 ∨ 6 < code) :=
  ⟨sBad, 7, ⟨by decide +kernel, by decide +kernel⟩, by decide +kernel⟩
/-- A descriptor of partition 1, with an arena for the four cores of a cluster, at 0x30000. -/
def wDesc : List Byte :=
  leBytes 4 0x14358 ++ leBytes 4 0 ++ leBytes 2 1 ++ leBytes 2 0 ++ leBytes 4 0 ++ List.replicate 40 0 ++ leBytes 8 8388608 ++ List.replicate 24 0 ++ leBytes 4 64 ++
  List.replicate 12 0 ++ leBytes 2 8 ++ leBytes 2 1 ++ List.replicate 148 0
noncomputable def sCreate : State := machine (id) (fun s => let t := withCmd [1, 0x30000] (oneCluster s); { t with mem := Memory.writeN t.mem 0x30000 wDesc })
theorem witness_ContextCreated_1 : ∃ s : State, ∃ id, Command s 1 ∧ createFails s (cmdAddr s) (homeBytes s 0 (cmdAddr s) 256) = none ∧ freeCtx s = some id :=
  ⟨sCreate, 2, ⟨by decide +kernel, by decide +kernel⟩, by decide +kernel⟩
noncomputable def sCreate2 : State := machine (id) (withCmd [1, 0x30000])
theorem witness_ContextCreated_2 : ∃ s : State, ∃ code, Command s 1 ∧ createFails s (cmdAddr s) (homeBytes s 0 (cmdAddr s) 256) = some code :=
  ⟨sCreate2, 2, ⟨by decide +kernel, by decide +kernel⟩, by decide +kernel⟩
def sDestroy : State := { withCmd [2, 1] State.reset with contexts := [loadContext 1] }
theorem witness_ContextDestroyed_1 : ∃ s : State, ∃ c, Command s 2 ∧ cmdWord s 0 / 256 % 256 = 0 ∧ cmdWord s 1 = c.id ∧ ctx? s c.id = some c ∧ (∀ t ∈ s.teams, t.ctx ≠ c.id) ∧ (∀ k,
    s.observe.ckRun = some k → k.ctx ≠ c.id) :=
  ⟨sDestroy, loadContext 1, ⟨by decide +kernel, by decide +kernel⟩, by decide +kernel⟩
def sDestroy2 : State := { withCmd [2, 5] State.reset with contexts := [loadContext 1] }
theorem witness_ContextDestroyed_2 : ∃ s : State, Command s 2 ∧ cmdWord s 0 / 256 % 256 = 0 ∧ ctx? s (cmdWord s 1) = none :=
  ⟨sDestroy2, ⟨by decide +kernel, by decide +kernel⟩, by decide +kernel⟩
noncomputable def sSuspend : State := machine (id) (withCmd [3, 1])
theorem witness_ContextHeld_1 : ∃ s : State, ∃ c, Command s 3 ∧ cmdWord s 0 / 256 % 256 = 0 ∧ cmdWord s 1 = c.id ∧ ctx? s c.id = some c ∧ s.forks = [] ∧ (∀ t ∈ s.teams, t.ctx = c.id
    → t.discarded = false) ∧ (s.teams.map Team.id).Nodup :=
  ⟨sSuspend, cxAt sSuspend 1, ⟨by decide +kernel, by decide +kernel⟩, by decide +kernel⟩
noncomputable def sResume : State := machine (id) (withCmd [4, 1] ∘ withCtx (fun c => { c with suspended := true, suspendedBy := [0, 1] }))
theorem witness_ContextHeld_2 : ∃ s : State, ∃ c, Command s 4 ∧ cmdWord s 0 / 256 % 256 = 0 ∧ cmdWord s 1 = c.id ∧ ctx? s c.id = some c ∧ c.suspended = true ∧ (∀ w ∈ c.suspendedBy, w
    ≤ 1) :=
  ⟨sResume, cxAt sResume 1, ⟨by decide +kernel, by decide +kernel⟩, by decide +kernel⟩
def sWatch : State := { withCmd [5, 1, 0, 1] State.reset with contexts := [loadContext 1] }
theorem witness_ContextHeld_3 : ∃ s : State, ∃ c, Command s 5 ∧ cmdWord s 0 / 256 % 256 = 0 ∧ cmdWord s 1 = c.id ∧ ctx? s c.id = some c :=
  ⟨sWatch, loadContext 1, ⟨by decide +kernel, by decide +kernel⟩, by decide +kernel⟩
def sSteward : State := withCmd [6, 0x30000, 0, 0, 1] State.reset
theorem witness_StewardMeasured_1 : ∃ s : State, ∃ old, Command s 6 ∧ cmdWord s 0 / 256 % 256 = 0 ∧ cmdWord s 2 / 2 ^ 20 = 0 ∧ s.trust.stewardDone = false ∧ s.trust.contextCreated =
    false ∧ s.trust.meas[5]? = some old ∧
    (
    let n := cmdWord s 3 + 2 ^ 32 * cmdWord s 4;
    n ≠ 0 ∧ n ≤ 2 ^ 32 ∧ cmdAddr s + n ≤ deviceBytes) :=
  ⟨sSteward, State.reset.trust.meas.getD 5 0, ⟨by decide +kernel, by decide +kernel⟩, by decide +kernel, by decide +kernel, by decide +kernel, by decide +kernel, rfl, by decide +kernel⟩
def sSteward2 : State := { sSteward with trust := { sSteward.trust with stewardDone := true } }
theorem witness_StewardMeasured_2 : ∃ s : State, Command s 6 ∧ (s.trust.stewardDone = true ∨ s.trust.contextCreated = true) :=
  ⟨sSteward2, ⟨by decide +kernel, by decide +kernel⟩, .inl rfl⟩

/-! ### Partitions, pavilions, frames, keys and trust -/

def wOwn : Resources := ⟨[0, 1], [0, 1], [0, 1, 5, 6], [0], [0]⟩
def wParts : List Partition := [⟨1, wOwn, []⟩, ⟨3, ⟨[2], [2], [2], [2], [2]⟩, []⟩]
/-- Page 0x005: PSEL, PEER and what is staged. -/
def wPage (psel peer : Nat) (staged : Resources) : PartIf :=
  { psel := psel, force := false, peer := peer, result := 0, busy := false, op := 0, staged := staged, eng := 0, ectx := 1, lease := 50, eresult := 0 }
/-- A pavilion of partition 1. -/
def wPav : Pavilion :=
  { id := 3, part := 1, ways := 1, cores := [], frames := [], key := 7, secret := none, src := .live, dst := .none, transfer := none, digest := 0, copyKind := false
    epoch := 0, copyPrepared := false }
def wPavPage : PavIf := { sel := 3, part := 1, core := 0, quad := 1, bank := 1, ways := 1, frame := 5, count := 1, result := 0, busy := false, op := 0 }
def sDefine : State := { State.reset with partitions := wParts, partIf := wPage 64 0 ⟨[9], [9], [9], [], []⟩ }
theorem witness_PartitionsChange_1 : ∃ s : State, PselOk s ∧ part? s s.partIf.psel = none ∧ StagedFree s ∧ s.partIf.staged.clusters ≠ [] ∧ s.partIf.staged.slices ≠ [] ∧
    s.partIf.staged.channels ≠ [] :=
  ⟨sDefine, by unfold PselOk; decide +kernel, by decide +kernel, by unfold StagedFree; decide +kernel, by decide +kernel⟩
def sDelete : State := { State.reset with partitions := wParts, partIf := wPage 1 0 Resources.empty }
theorem witness_PartitionsChange_2 : ∃ s : State, ∃ p, PselOk s ∧ part? s s.partIf.psel = some p ∧ p.lent = [] ∧ (∀ c ∈ s.contexts, c.part ≠ s.partIf.psel) :=
  ⟨sDelete, ⟨1, wOwn, []⟩, by unfold PselOk; decide +kernel, by decide +kernel⟩
def sGrow : State := { State.reset with partitions := wParts, partIf := wPage 1 0 ⟨[9], [9], [9], [], []⟩ }
theorem witness_PartitionsChange_3 : ∃ s : State, ∃ p, PselOk s ∧ part? s s.partIf.psel = some p ∧ StagedFree s ∧ rehomes s = false :=
  ⟨sGrow, ⟨1, wOwn, []⟩, by unfold PselOk; decide +kernel, by decide +kernel, by unfold StagedFree; decide +kernel, by decide +kernel⟩
def sShrink : State := { State.reset with partitions := wParts, partIf := wPage 1 0 ⟨[1], [1], [], [], []⟩ }
theorem witness_PartitionsChange_4 : ∃ s : State, ∃ p, PselOk s ∧ part? s s.partIf.psel = some p ∧ StagedFree s ∧ p.lent = [] ∧ (p.own.minus s.partIf.staged).legal = true ∧ rehomes s =
    false ∧ s.grids = [] ∧ NoTeamOn s :=
  ⟨sShrink, ⟨1, wOwn, []⟩, by unfold PselOk; decide +kernel, by decide +kernel, by unfold StagedFree; decide +kernel, by decide +kernel, by decide +kernel, by decide +kernel, by decide +kernel, by unfold NoTeamOn; decide +kernel⟩
def sLend : State := { State.reset with partitions := wParts, partIf := wPage 1 3 ⟨[1], [], [], [], []⟩ }
theorem lend_free : ∀ c ∈ sLend.partIf.staged.clusters, c ∈ wOwn.clusters ∧ pavCluster sLend c = false ∧ (∀ b, (c, b) ∉ ([] : List (Nat × Nat))) ∧
    ∀ x ∈ sLend.partitions, (c, sLend.partIf.psel) ∉ x.lent := by
  have h : ∀ c ∈ sLend.partIf.staged.clusters, c ∈ wOwn.clusters ∧ pavCluster sLend c = false := by decide +kernel
  have h2 : ∀ x ∈ sLend.partitions, x.lent = [] := by decide +kernel
  refine fun c hc => ⟨(h c hc).1, (h c hc).2, fun b hb => (List.not_mem_nil hb).elim, fun x hx hm => ?_⟩
  rw [h2 x hx] at hm
  exact (List.not_mem_nil hm).elim
theorem witness_PartitionsChange_5 : ∃ s : State, ∃ p q, PselOk s ∧ 1 ≤ s.partIf.peer ∧ s.partIf.peer ≤ 64 ∧ OnlyClusters s ∧ part? s s.partIf.psel = some p ∧ part? s s.partIf.peer = some
    q ∧ (∀ c ∈ s.partIf.staged.clusters, c ∈ p.own.clusters ∧ pavCluster s c = false ∧ (∀ b, (c, b) ∉ p.lent) ∧ ∀ x ∈ s.partitions, (c, s.partIf.psel) ∉
    x.lent) ∧ NoTeamOn s :=
  ⟨sLend, ⟨1, wOwn, []⟩, ⟨3, ⟨[2], [2], [2], [2], [2]⟩, []⟩, by unfold PselOk; decide +kernel, by decide +kernel, by decide +kernel, by unfold OnlyClusters; decide +kernel, by decide +kernel, by decide +kernel, lend_free, by unfold NoTeamOn; decide +kernel⟩
def sReclaim : State := { State.reset with partitions := [⟨1, wOwn, [(1, 3)]⟩], partIf := wPage 1 0 ⟨[1], [], [], [], []⟩ }
theorem witness_PartitionsChange_6 : ∃ s : State, ∃ p, PselOk s ∧ OnlyClusters s ∧ part? s s.partIf.psel = some p ∧ (∀ c ∈ s.partIf.staged.clusters, c ∈ p.own.clusters) ∧ NoTeamOn s :=
  ⟨sReclaim, ⟨1, wOwn, [(1, 3)]⟩, by unfold PselOk; decide +kernel, by unfold OnlyClusters; decide +kernel, by decide +kernel, by decide +kernel, by unfold NoTeamOn; decide +kernel⟩
theorem witness_PartitionsChange_7 : ∃ s : State, ∃ p, PselOk s ∧ part? s s.partIf.psel = some p :=
  ⟨sDelete, ⟨1, wOwn, []⟩, by unfold PselOk; decide +kernel, by decide +kernel⟩
def sNo65 : State := { State.reset with partitions := wParts, partIf := wPage 65 0 Resources.empty }
def sTaken2 : State := { State.reset with partitions := wParts, partIf := wPage 2 0 ⟨[1], [9], [9], [], []⟩ }
def sTaken1 : State := { State.reset with partitions := wParts, partIf := wPage 1 0 ⟨[2], [9], [9], [], []⟩ }
def sNoCl : State := { State.reset with partitions := wParts, partIf := wPage 2 0 ⟨[], [9], [9], [], []⟩ }
def sUsed : State := { State.reset with partitions := wParts, partIf := wPage 1 0 Resources.empty, contexts := [loadContext 1] }
def sNone2 : State := { State.reset with partitions := wParts, partIf := wPage 2 0 ⟨[9], [], [], [], []⟩ }
theorem witness_PartitionRefused_define_1 : ∃ s : State, s.partIf.busy = false ∧ ∃ i : Instr, ∃ op : Nat, ∃ code : BitVec 8, ((i, op, code) : Instr × Nat × BitVec 8) ∈ [(.define, 1, 1),
    (.delete, 2, 1), (.grow, 3, 1), (.shrink, 4, 1), (.lend, 5, 1), (.reclaim, 6, 1), (.partitionRead, 7, 1), (.define, 1, 5), (.define, 1, 2), (.grow, 3,
    2), (.shrink, 4, 2), (.define, 1, 3), (.delete, 2, 4), (.delete, 2, 6), (.delete, 2, 5), (.grow, 3, 5), (.shrink, 4, 5), (.reclaim, 6, 5),
    (.partitionRead, 7, 5)] ∧ (if code = 1 then 64 < s.partIf.psel else 1 ≤ s.partIf.psel ∧ s.partIf.psel ≤ 64 ∧ (if op = 1 ∧ code = 5 then ∃ p, part? s
    s.partIf.psel = some p else if code = 5 then part? s s.partIf.psel = none ∧ (op = 6 → OnlyClusters s) else if code = 2 then ((op = 1 ∧ part? s
    s.partIf.psel = none) ∨ (op ≠ 1 ∧ ∃ p, part? s s.partIf.psel = some p)) ∧ ¬StagedFree s else if code = 3 then part? s s.partIf.psel = none ∧
    StagedFree s ∧ s.partIf.staged.clusters = [] else if code = 4 then (∃ p, part? s s.partIf.psel = some p ∧ p.lent = []) ∧ ∃ c ∈ s.contexts, c.part =
    s.partIf.psel else ∃ p, part? s s.partIf.psel = some p ∧ p.lent ≠ [])) :=
  ⟨sNo65, by decide +kernel, .define, 1, 1, List.mem_of_getElem? (i := 0) rfl, by simp only [← Option.isSome_iff_exists, StagedFree, OnlyClusters]; decide +kernel⟩
theorem witness_PartitionRefused_delete_1 : ∃ s : State, s.partIf.busy = false ∧ ∃ i : Instr, ∃ op : Nat, ∃ code : BitVec 8, ((i, op, code) : Instr × Nat × BitVec 8) ∈ [(.define, 1, 1),
    (.delete, 2, 1), (.grow, 3, 1), (.shrink, 4, 1), (.lend, 5, 1), (.reclaim, 6, 1), (.partitionRead, 7, 1), (.define, 1, 5), (.define, 1, 2), (.grow, 3,
    2), (.shrink, 4, 2), (.define, 1, 3), (.delete, 2, 4), (.delete, 2, 6), (.delete, 2, 5), (.grow, 3, 5), (.shrink, 4, 5), (.reclaim, 6, 5),
    (.partitionRead, 7, 5)] ∧ (if code = 1 then 64 < s.partIf.psel else 1 ≤ s.partIf.psel ∧ s.partIf.psel ≤ 64 ∧ (if op = 1 ∧ code = 5 then ∃ p, part? s
    s.partIf.psel = some p else if code = 5 then part? s s.partIf.psel = none ∧ (op = 6 → OnlyClusters s) else if code = 2 then ((op = 1 ∧ part? s
    s.partIf.psel = none) ∨ (op ≠ 1 ∧ ∃ p, part? s s.partIf.psel = some p)) ∧ ¬StagedFree s else if code = 3 then part? s s.partIf.psel = none ∧
    StagedFree s ∧ s.partIf.staged.clusters = [] else if code = 4 then (∃ p, part? s s.partIf.psel = some p ∧ p.lent = []) ∧ ∃ c ∈ s.contexts, c.part =
    s.partIf.psel else ∃ p, part? s s.partIf.psel = some p ∧ p.lent ≠ [])) :=
  ⟨sNo65, by decide +kernel, .delete, 2, 1, List.mem_of_getElem? (i := 1) rfl, by simp only [← Option.isSome_iff_exists, StagedFree, OnlyClusters]; decide +kernel⟩
theorem witness_PartitionRefused_grow_1 : ∃ s : State, s.partIf.busy = false ∧ ∃ i : Instr, ∃ op : Nat, ∃ code : BitVec 8, ((i, op, code) : Instr × Nat × BitVec 8) ∈ [(.define, 1, 1),
    (.delete, 2, 1), (.grow, 3, 1), (.shrink, 4, 1), (.lend, 5, 1), (.reclaim, 6, 1), (.partitionRead, 7, 1), (.define, 1, 5), (.define, 1, 2), (.grow, 3,
    2), (.shrink, 4, 2), (.define, 1, 3), (.delete, 2, 4), (.delete, 2, 6), (.delete, 2, 5), (.grow, 3, 5), (.shrink, 4, 5), (.reclaim, 6, 5),
    (.partitionRead, 7, 5)] ∧ (if code = 1 then 64 < s.partIf.psel else 1 ≤ s.partIf.psel ∧ s.partIf.psel ≤ 64 ∧ (if op = 1 ∧ code = 5 then ∃ p, part? s
    s.partIf.psel = some p else if code = 5 then part? s s.partIf.psel = none ∧ (op = 6 → OnlyClusters s) else if code = 2 then ((op = 1 ∧ part? s
    s.partIf.psel = none) ∨ (op ≠ 1 ∧ ∃ p, part? s s.partIf.psel = some p)) ∧ ¬StagedFree s else if code = 3 then part? s s.partIf.psel = none ∧
    StagedFree s ∧ s.partIf.staged.clusters = [] else if code = 4 then (∃ p, part? s s.partIf.psel = some p ∧ p.lent = []) ∧ ∃ c ∈ s.contexts, c.part =
    s.partIf.psel else ∃ p, part? s s.partIf.psel = some p ∧ p.lent ≠ [])) :=
  ⟨sNo65, by decide +kernel, .grow, 3, 1, List.mem_of_getElem? (i := 2) rfl, by simp only [← Option.isSome_iff_exists, StagedFree, OnlyClusters]; decide +kernel⟩
theorem witness_PartitionRefused_shrink_1 : ∃ s : State, s.partIf.busy = false ∧ ∃ i : Instr, ∃ op : Nat, ∃ code : BitVec 8, ((i, op, code) : Instr × Nat × BitVec 8) ∈ [(.define, 1, 1),
    (.delete, 2, 1), (.grow, 3, 1), (.shrink, 4, 1), (.lend, 5, 1), (.reclaim, 6, 1), (.partitionRead, 7, 1), (.define, 1, 5), (.define, 1, 2), (.grow, 3,
    2), (.shrink, 4, 2), (.define, 1, 3), (.delete, 2, 4), (.delete, 2, 6), (.delete, 2, 5), (.grow, 3, 5), (.shrink, 4, 5), (.reclaim, 6, 5),
    (.partitionRead, 7, 5)] ∧ (if code = 1 then 64 < s.partIf.psel else 1 ≤ s.partIf.psel ∧ s.partIf.psel ≤ 64 ∧ (if op = 1 ∧ code = 5 then ∃ p, part? s
    s.partIf.psel = some p else if code = 5 then part? s s.partIf.psel = none ∧ (op = 6 → OnlyClusters s) else if code = 2 then ((op = 1 ∧ part? s
    s.partIf.psel = none) ∨ (op ≠ 1 ∧ ∃ p, part? s s.partIf.psel = some p)) ∧ ¬StagedFree s else if code = 3 then part? s s.partIf.psel = none ∧
    StagedFree s ∧ s.partIf.staged.clusters = [] else if code = 4 then (∃ p, part? s s.partIf.psel = some p ∧ p.lent = []) ∧ ∃ c ∈ s.contexts, c.part =
    s.partIf.psel else ∃ p, part? s s.partIf.psel = some p ∧ p.lent ≠ [])) :=
  ⟨sNo65, by decide +kernel, .shrink, 4, 1, List.mem_of_getElem? (i := 3) rfl, by simp only [← Option.isSome_iff_exists, StagedFree, OnlyClusters]; decide +kernel⟩
theorem witness_PartitionRefused_lend_1 : ∃ s : State, s.partIf.busy = false ∧ ∃ i : Instr, ∃ op : Nat, ∃ code : BitVec 8, ((i, op, code) : Instr × Nat × BitVec 8) ∈ [(.define, 1, 1),
    (.delete, 2, 1), (.grow, 3, 1), (.shrink, 4, 1), (.lend, 5, 1), (.reclaim, 6, 1), (.partitionRead, 7, 1), (.define, 1, 5), (.define, 1, 2), (.grow, 3,
    2), (.shrink, 4, 2), (.define, 1, 3), (.delete, 2, 4), (.delete, 2, 6), (.delete, 2, 5), (.grow, 3, 5), (.shrink, 4, 5), (.reclaim, 6, 5),
    (.partitionRead, 7, 5)] ∧ (if code = 1 then 64 < s.partIf.psel else 1 ≤ s.partIf.psel ∧ s.partIf.psel ≤ 64 ∧ (if op = 1 ∧ code = 5 then ∃ p, part? s
    s.partIf.psel = some p else if code = 5 then part? s s.partIf.psel = none ∧ (op = 6 → OnlyClusters s) else if code = 2 then ((op = 1 ∧ part? s
    s.partIf.psel = none) ∨ (op ≠ 1 ∧ ∃ p, part? s s.partIf.psel = some p)) ∧ ¬StagedFree s else if code = 3 then part? s s.partIf.psel = none ∧
    StagedFree s ∧ s.partIf.staged.clusters = [] else if code = 4 then (∃ p, part? s s.partIf.psel = some p ∧ p.lent = []) ∧ ∃ c ∈ s.contexts, c.part =
    s.partIf.psel else ∃ p, part? s s.partIf.psel = some p ∧ p.lent ≠ [])) :=
  ⟨sNo65, by decide +kernel, .lend, 5, 1, List.mem_of_getElem? (i := 4) rfl, by simp only [← Option.isSome_iff_exists, StagedFree, OnlyClusters]; decide +kernel⟩
theorem witness_PartitionRefused_reclaim_1 : ∃ s : State, s.partIf.busy = false ∧ ∃ i : Instr, ∃ op : Nat, ∃ code : BitVec 8, ((i, op, code) : Instr × Nat × BitVec 8) ∈ [(.define, 1, 1),
    (.delete, 2, 1), (.grow, 3, 1), (.shrink, 4, 1), (.lend, 5, 1), (.reclaim, 6, 1), (.partitionRead, 7, 1), (.define, 1, 5), (.define, 1, 2), (.grow, 3,
    2), (.shrink, 4, 2), (.define, 1, 3), (.delete, 2, 4), (.delete, 2, 6), (.delete, 2, 5), (.grow, 3, 5), (.shrink, 4, 5), (.reclaim, 6, 5),
    (.partitionRead, 7, 5)] ∧ (if code = 1 then 64 < s.partIf.psel else 1 ≤ s.partIf.psel ∧ s.partIf.psel ≤ 64 ∧ (if op = 1 ∧ code = 5 then ∃ p, part? s
    s.partIf.psel = some p else if code = 5 then part? s s.partIf.psel = none ∧ (op = 6 → OnlyClusters s) else if code = 2 then ((op = 1 ∧ part? s
    s.partIf.psel = none) ∨ (op ≠ 1 ∧ ∃ p, part? s s.partIf.psel = some p)) ∧ ¬StagedFree s else if code = 3 then part? s s.partIf.psel = none ∧
    StagedFree s ∧ s.partIf.staged.clusters = [] else if code = 4 then (∃ p, part? s s.partIf.psel = some p ∧ p.lent = []) ∧ ∃ c ∈ s.contexts, c.part =
    s.partIf.psel else ∃ p, part? s s.partIf.psel = some p ∧ p.lent ≠ [])) :=
  ⟨sNo65, by decide +kernel, .reclaim, 6, 1, List.mem_of_getElem? (i := 5) rfl, by simp only [← Option.isSome_iff_exists, StagedFree, OnlyClusters]; decide +kernel⟩
theorem witness_PartitionRefused_partitionRead_1 : ∃ s : State, s.partIf.busy = false ∧ ∃ i : Instr, ∃ op : Nat, ∃ code : BitVec 8, ((i, op, code) : Instr × Nat × BitVec 8) ∈ [(.define, 1, 1),
    (.delete, 2, 1), (.grow, 3, 1), (.shrink, 4, 1), (.lend, 5, 1), (.reclaim, 6, 1), (.partitionRead, 7, 1), (.define, 1, 5), (.define, 1, 2), (.grow, 3,
    2), (.shrink, 4, 2), (.define, 1, 3), (.delete, 2, 4), (.delete, 2, 6), (.delete, 2, 5), (.grow, 3, 5), (.shrink, 4, 5), (.reclaim, 6, 5),
    (.partitionRead, 7, 5)] ∧ (if code = 1 then 64 < s.partIf.psel else 1 ≤ s.partIf.psel ∧ s.partIf.psel ≤ 64 ∧ (if op = 1 ∧ code = 5 then ∃ p, part? s
    s.partIf.psel = some p else if code = 5 then part? s s.partIf.psel = none ∧ (op = 6 → OnlyClusters s) else if code = 2 then ((op = 1 ∧ part? s
    s.partIf.psel = none) ∨ (op ≠ 1 ∧ ∃ p, part? s s.partIf.psel = some p)) ∧ ¬StagedFree s else if code = 3 then part? s s.partIf.psel = none ∧
    StagedFree s ∧ s.partIf.staged.clusters = [] else if code = 4 then (∃ p, part? s s.partIf.psel = some p ∧ p.lent = []) ∧ ∃ c ∈ s.contexts, c.part =
    s.partIf.psel else ∃ p, part? s s.partIf.psel = some p ∧ p.lent ≠ [])) :=
  ⟨sNo65, by decide +kernel, .partitionRead, 7, 1, List.mem_of_getElem? (i := 6) rfl, by simp only [← Option.isSome_iff_exists, StagedFree, OnlyClusters]; decide +kernel⟩
theorem witness_PartitionRefused_define_5 : ∃ s : State, s.partIf.busy = false ∧ ∃ i : Instr, ∃ op : Nat, ∃ code : BitVec 8, ((i, op, code) : Instr × Nat × BitVec 8) ∈ [(.define, 1, 1),
    (.delete, 2, 1), (.grow, 3, 1), (.shrink, 4, 1), (.lend, 5, 1), (.reclaim, 6, 1), (.partitionRead, 7, 1), (.define, 1, 5), (.define, 1, 2), (.grow, 3,
    2), (.shrink, 4, 2), (.define, 1, 3), (.delete, 2, 4), (.delete, 2, 6), (.delete, 2, 5), (.grow, 3, 5), (.shrink, 4, 5), (.reclaim, 6, 5),
    (.partitionRead, 7, 5)] ∧ (if code = 1 then 64 < s.partIf.psel else 1 ≤ s.partIf.psel ∧ s.partIf.psel ≤ 64 ∧ (if op = 1 ∧ code = 5 then ∃ p, part? s
    s.partIf.psel = some p else if code = 5 then part? s s.partIf.psel = none ∧ (op = 6 → OnlyClusters s) else if code = 2 then ((op = 1 ∧ part? s
    s.partIf.psel = none) ∨ (op ≠ 1 ∧ ∃ p, part? s s.partIf.psel = some p)) ∧ ¬StagedFree s else if code = 3 then part? s s.partIf.psel = none ∧
    StagedFree s ∧ s.partIf.staged.clusters = [] else if code = 4 then (∃ p, part? s s.partIf.psel = some p ∧ p.lent = []) ∧ ∃ c ∈ s.contexts, c.part =
    s.partIf.psel else ∃ p, part? s s.partIf.psel = some p ∧ p.lent ≠ [])) :=
  ⟨sDelete, by decide +kernel, .define, 1, 5, List.mem_of_getElem? (i := 7) rfl, by simp only [← Option.isSome_iff_exists, StagedFree, OnlyClusters]; decide +kernel⟩
theorem witness_PartitionRefused_define_2 : ∃ s : State, s.partIf.busy = false ∧ ∃ i : Instr, ∃ op : Nat, ∃ code : BitVec 8, ((i, op, code) : Instr × Nat × BitVec 8) ∈ [(.define, 1, 1),
    (.delete, 2, 1), (.grow, 3, 1), (.shrink, 4, 1), (.lend, 5, 1), (.reclaim, 6, 1), (.partitionRead, 7, 1), (.define, 1, 5), (.define, 1, 2), (.grow, 3,
    2), (.shrink, 4, 2), (.define, 1, 3), (.delete, 2, 4), (.delete, 2, 6), (.delete, 2, 5), (.grow, 3, 5), (.shrink, 4, 5), (.reclaim, 6, 5),
    (.partitionRead, 7, 5)] ∧ (if code = 1 then 64 < s.partIf.psel else 1 ≤ s.partIf.psel ∧ s.partIf.psel ≤ 64 ∧ (if op = 1 ∧ code = 5 then ∃ p, part? s
    s.partIf.psel = some p else if code = 5 then part? s s.partIf.psel = none ∧ (op = 6 → OnlyClusters s) else if code = 2 then ((op = 1 ∧ part? s
    s.partIf.psel = none) ∨ (op ≠ 1 ∧ ∃ p, part? s s.partIf.psel = some p)) ∧ ¬StagedFree s else if code = 3 then part? s s.partIf.psel = none ∧
    StagedFree s ∧ s.partIf.staged.clusters = [] else if code = 4 then (∃ p, part? s s.partIf.psel = some p ∧ p.lent = []) ∧ ∃ c ∈ s.contexts, c.part =
    s.partIf.psel else ∃ p, part? s s.partIf.psel = some p ∧ p.lent ≠ [])) :=
  ⟨sTaken2, by decide +kernel, .define, 1, 2, List.mem_of_getElem? (i := 8) rfl, by simp only [← Option.isSome_iff_exists, StagedFree, OnlyClusters]; decide +kernel⟩
theorem witness_PartitionRefused_grow_2 : ∃ s : State, s.partIf.busy = false ∧ ∃ i : Instr, ∃ op : Nat, ∃ code : BitVec 8, ((i, op, code) : Instr × Nat × BitVec 8) ∈ [(.define, 1, 1),
    (.delete, 2, 1), (.grow, 3, 1), (.shrink, 4, 1), (.lend, 5, 1), (.reclaim, 6, 1), (.partitionRead, 7, 1), (.define, 1, 5), (.define, 1, 2), (.grow, 3,
    2), (.shrink, 4, 2), (.define, 1, 3), (.delete, 2, 4), (.delete, 2, 6), (.delete, 2, 5), (.grow, 3, 5), (.shrink, 4, 5), (.reclaim, 6, 5),
    (.partitionRead, 7, 5)] ∧ (if code = 1 then 64 < s.partIf.psel else 1 ≤ s.partIf.psel ∧ s.partIf.psel ≤ 64 ∧ (if op = 1 ∧ code = 5 then ∃ p, part? s
    s.partIf.psel = some p else if code = 5 then part? s s.partIf.psel = none ∧ (op = 6 → OnlyClusters s) else if code = 2 then ((op = 1 ∧ part? s
    s.partIf.psel = none) ∨ (op ≠ 1 ∧ ∃ p, part? s s.partIf.psel = some p)) ∧ ¬StagedFree s else if code = 3 then part? s s.partIf.psel = none ∧
    StagedFree s ∧ s.partIf.staged.clusters = [] else if code = 4 then (∃ p, part? s s.partIf.psel = some p ∧ p.lent = []) ∧ ∃ c ∈ s.contexts, c.part =
    s.partIf.psel else ∃ p, part? s s.partIf.psel = some p ∧ p.lent ≠ [])) :=
  ⟨sTaken1, by decide +kernel, .grow, 3, 2, List.mem_of_getElem? (i := 9) rfl, by simp only [← Option.isSome_iff_exists, StagedFree, OnlyClusters]; decide +kernel⟩
theorem witness_PartitionRefused_shrink_2 : ∃ s : State, s.partIf.busy = false ∧ ∃ i : Instr, ∃ op : Nat, ∃ code : BitVec 8, ((i, op, code) : Instr × Nat × BitVec 8) ∈ [(.define, 1, 1),
    (.delete, 2, 1), (.grow, 3, 1), (.shrink, 4, 1), (.lend, 5, 1), (.reclaim, 6, 1), (.partitionRead, 7, 1), (.define, 1, 5), (.define, 1, 2), (.grow, 3,
    2), (.shrink, 4, 2), (.define, 1, 3), (.delete, 2, 4), (.delete, 2, 6), (.delete, 2, 5), (.grow, 3, 5), (.shrink, 4, 5), (.reclaim, 6, 5),
    (.partitionRead, 7, 5)] ∧ (if code = 1 then 64 < s.partIf.psel else 1 ≤ s.partIf.psel ∧ s.partIf.psel ≤ 64 ∧ (if op = 1 ∧ code = 5 then ∃ p, part? s
    s.partIf.psel = some p else if code = 5 then part? s s.partIf.psel = none ∧ (op = 6 → OnlyClusters s) else if code = 2 then ((op = 1 ∧ part? s
    s.partIf.psel = none) ∨ (op ≠ 1 ∧ ∃ p, part? s s.partIf.psel = some p)) ∧ ¬StagedFree s else if code = 3 then part? s s.partIf.psel = none ∧
    StagedFree s ∧ s.partIf.staged.clusters = [] else if code = 4 then (∃ p, part? s s.partIf.psel = some p ∧ p.lent = []) ∧ ∃ c ∈ s.contexts, c.part =
    s.partIf.psel else ∃ p, part? s s.partIf.psel = some p ∧ p.lent ≠ [])) :=
  ⟨sTaken1, by decide +kernel, .shrink, 4, 2, List.mem_of_getElem? (i := 10) rfl, by simp only [← Option.isSome_iff_exists, StagedFree, OnlyClusters]; decide +kernel⟩
theorem witness_PartitionRefused_define_3 : ∃ s : State, s.partIf.busy = false ∧ ∃ i : Instr, ∃ op : Nat, ∃ code : BitVec 8, ((i, op, code) : Instr × Nat × BitVec 8) ∈ [(.define, 1, 1),
    (.delete, 2, 1), (.grow, 3, 1), (.shrink, 4, 1), (.lend, 5, 1), (.reclaim, 6, 1), (.partitionRead, 7, 1), (.define, 1, 5), (.define, 1, 2), (.grow, 3,
    2), (.shrink, 4, 2), (.define, 1, 3), (.delete, 2, 4), (.delete, 2, 6), (.delete, 2, 5), (.grow, 3, 5), (.shrink, 4, 5), (.reclaim, 6, 5),
    (.partitionRead, 7, 5)] ∧ (if code = 1 then 64 < s.partIf.psel else 1 ≤ s.partIf.psel ∧ s.partIf.psel ≤ 64 ∧ (if op = 1 ∧ code = 5 then ∃ p, part? s
    s.partIf.psel = some p else if code = 5 then part? s s.partIf.psel = none ∧ (op = 6 → OnlyClusters s) else if code = 2 then ((op = 1 ∧ part? s
    s.partIf.psel = none) ∨ (op ≠ 1 ∧ ∃ p, part? s s.partIf.psel = some p)) ∧ ¬StagedFree s else if code = 3 then part? s s.partIf.psel = none ∧
    StagedFree s ∧ s.partIf.staged.clusters = [] else if code = 4 then (∃ p, part? s s.partIf.psel = some p ∧ p.lent = []) ∧ ∃ c ∈ s.contexts, c.part =
    s.partIf.psel else ∃ p, part? s s.partIf.psel = some p ∧ p.lent ≠ [])) :=
  ⟨sNoCl, by decide +kernel, .define, 1, 3, List.mem_of_getElem? (i := 11) rfl, by simp only [← Option.isSome_iff_exists, StagedFree, OnlyClusters]; decide +kernel⟩
theorem witness_PartitionRefused_delete_4 : ∃ s : State, s.partIf.busy = false ∧ ∃ i : Instr, ∃ op : Nat, ∃ code : BitVec 8, ((i, op, code) : Instr × Nat × BitVec 8) ∈ [(.define, 1, 1),
    (.delete, 2, 1), (.grow, 3, 1), (.shrink, 4, 1), (.lend, 5, 1), (.reclaim, 6, 1), (.partitionRead, 7, 1), (.define, 1, 5), (.define, 1, 2), (.grow, 3,
    2), (.shrink, 4, 2), (.define, 1, 3), (.delete, 2, 4), (.delete, 2, 6), (.delete, 2, 5), (.grow, 3, 5), (.shrink, 4, 5), (.reclaim, 6, 5),
    (.partitionRead, 7, 5)] ∧ (if code = 1 then 64 < s.partIf.psel else 1 ≤ s.partIf.psel ∧ s.partIf.psel ≤ 64 ∧ (if op = 1 ∧ code = 5 then ∃ p, part? s
    s.partIf.psel = some p else if code = 5 then part? s s.partIf.psel = none ∧ (op = 6 → OnlyClusters s) else if code = 2 then ((op = 1 ∧ part? s
    s.partIf.psel = none) ∨ (op ≠ 1 ∧ ∃ p, part? s s.partIf.psel = some p)) ∧ ¬StagedFree s else if code = 3 then part? s s.partIf.psel = none ∧
    StagedFree s ∧ s.partIf.staged.clusters = [] else if code = 4 then (∃ p, part? s s.partIf.psel = some p ∧ p.lent = []) ∧ ∃ c ∈ s.contexts, c.part =
    s.partIf.psel else ∃ p, part? s s.partIf.psel = some p ∧ p.lent ≠ [])) :=
  ⟨sUsed, by decide +kernel, .delete, 2, 4, List.mem_of_getElem? (i := 12) rfl, by simp only [← Option.isSome_iff_exists, StagedFree, OnlyClusters]; decide +kernel⟩
theorem witness_PartitionRefused_delete_6 : ∃ s : State, s.partIf.busy = false ∧ ∃ i : Instr, ∃ op : Nat, ∃ code : BitVec 8, ((i, op, code) : Instr × Nat × BitVec 8) ∈ [(.define, 1, 1),
    (.delete, 2, 1), (.grow, 3, 1), (.shrink, 4, 1), (.lend, 5, 1), (.reclaim, 6, 1), (.partitionRead, 7, 1), (.define, 1, 5), (.define, 1, 2), (.grow, 3,
    2), (.shrink, 4, 2), (.define, 1, 3), (.delete, 2, 4), (.delete, 2, 6), (.delete, 2, 5), (.grow, 3, 5), (.shrink, 4, 5), (.reclaim, 6, 5),
    (.partitionRead, 7, 5)] ∧ (if code = 1 then 64 < s.partIf.psel else 1 ≤ s.partIf.psel ∧ s.partIf.psel ≤ 64 ∧ (if op = 1 ∧ code = 5 then ∃ p, part? s
    s.partIf.psel = some p else if code = 5 then part? s s.partIf.psel = none ∧ (op = 6 → OnlyClusters s) else if code = 2 then ((op = 1 ∧ part? s
    s.partIf.psel = none) ∨ (op ≠ 1 ∧ ∃ p, part? s s.partIf.psel = some p)) ∧ ¬StagedFree s else if code = 3 then part? s s.partIf.psel = none ∧
    StagedFree s ∧ s.partIf.staged.clusters = [] else if code = 4 then (∃ p, part? s s.partIf.psel = some p ∧ p.lent = []) ∧ ∃ c ∈ s.contexts, c.part =
    s.partIf.psel else ∃ p, part? s s.partIf.psel = some p ∧ p.lent ≠ [])) :=
  ⟨sReclaim, by decide +kernel, .delete, 2, 6, List.mem_of_getElem? (i := 13) rfl, by simp only [← Option.isSome_iff_exists, StagedFree, OnlyClusters]; decide +kernel⟩
theorem witness_PartitionRefused_delete_5 : ∃ s : State, s.partIf.busy = false ∧ ∃ i : Instr, ∃ op : Nat, ∃ code : BitVec 8, ((i, op, code) : Instr × Nat × BitVec 8) ∈ [(.define, 1, 1),
    (.delete, 2, 1), (.grow, 3, 1), (.shrink, 4, 1), (.lend, 5, 1), (.reclaim, 6, 1), (.partitionRead, 7, 1), (.define, 1, 5), (.define, 1, 2), (.grow, 3,
    2), (.shrink, 4, 2), (.define, 1, 3), (.delete, 2, 4), (.delete, 2, 6), (.delete, 2, 5), (.grow, 3, 5), (.shrink, 4, 5), (.reclaim, 6, 5),
    (.partitionRead, 7, 5)] ∧ (if code = 1 then 64 < s.partIf.psel else 1 ≤ s.partIf.psel ∧ s.partIf.psel ≤ 64 ∧ (if op = 1 ∧ code = 5 then ∃ p, part? s
    s.partIf.psel = some p else if code = 5 then part? s s.partIf.psel = none ∧ (op = 6 → OnlyClusters s) else if code = 2 then ((op = 1 ∧ part? s
    s.partIf.psel = none) ∨ (op ≠ 1 ∧ ∃ p, part? s s.partIf.psel = some p)) ∧ ¬StagedFree s else if code = 3 then part? s s.partIf.psel = none ∧
    StagedFree s ∧ s.partIf.staged.clusters = [] else if code = 4 then (∃ p, part? s s.partIf.psel = some p ∧ p.lent = []) ∧ ∃ c ∈ s.contexts, c.part =
    s.partIf.psel else ∃ p, part? s s.partIf.psel = some p ∧ p.lent ≠ [])) :=
  ⟨sNone2, by decide +kernel, .delete, 2, 5, List.mem_of_getElem? (i := 14) rfl, by simp only [← Option.isSome_iff_exists, StagedFree, OnlyClusters]; decide +kernel⟩
theorem witness_PartitionRefused_grow_5 : ∃ s : State, s.partIf.busy = false ∧ ∃ i : Instr, ∃ op : Nat, ∃ code : BitVec 8, ((i, op, code) : Instr × Nat × BitVec 8) ∈ [(.define, 1, 1),
    (.delete, 2, 1), (.grow, 3, 1), (.shrink, 4, 1), (.lend, 5, 1), (.reclaim, 6, 1), (.partitionRead, 7, 1), (.define, 1, 5), (.define, 1, 2), (.grow, 3,
    2), (.shrink, 4, 2), (.define, 1, 3), (.delete, 2, 4), (.delete, 2, 6), (.delete, 2, 5), (.grow, 3, 5), (.shrink, 4, 5), (.reclaim, 6, 5),
    (.partitionRead, 7, 5)] ∧ (if code = 1 then 64 < s.partIf.psel else 1 ≤ s.partIf.psel ∧ s.partIf.psel ≤ 64 ∧ (if op = 1 ∧ code = 5 then ∃ p, part? s
    s.partIf.psel = some p else if code = 5 then part? s s.partIf.psel = none ∧ (op = 6 → OnlyClusters s) else if code = 2 then ((op = 1 ∧ part? s
    s.partIf.psel = none) ∨ (op ≠ 1 ∧ ∃ p, part? s s.partIf.psel = some p)) ∧ ¬StagedFree s else if code = 3 then part? s s.partIf.psel = none ∧
    StagedFree s ∧ s.partIf.staged.clusters = [] else if code = 4 then (∃ p, part? s s.partIf.psel = some p ∧ p.lent = []) ∧ ∃ c ∈ s.contexts, c.part =
    s.partIf.psel else ∃ p, part? s s.partIf.psel = some p ∧ p.lent ≠ [])) :=
  ⟨sNone2, by decide +kernel, .grow, 3, 5, List.mem_of_getElem? (i := 15) rfl, by simp only [← Option.isSome_iff_exists, StagedFree, OnlyClusters]; decide +kernel⟩
theorem witness_PartitionRefused_shrink_5 : ∃ s : State, s.partIf.busy = false ∧ ∃ i : Instr, ∃ op : Nat, ∃ code : BitVec 8, ((i, op, code) : Instr × Nat × BitVec 8) ∈ [(.define, 1, 1),
    (.delete, 2, 1), (.grow, 3, 1), (.shrink, 4, 1), (.lend, 5, 1), (.reclaim, 6, 1), (.partitionRead, 7, 1), (.define, 1, 5), (.define, 1, 2), (.grow, 3,
    2), (.shrink, 4, 2), (.define, 1, 3), (.delete, 2, 4), (.delete, 2, 6), (.delete, 2, 5), (.grow, 3, 5), (.shrink, 4, 5), (.reclaim, 6, 5),
    (.partitionRead, 7, 5)] ∧ (if code = 1 then 64 < s.partIf.psel else 1 ≤ s.partIf.psel ∧ s.partIf.psel ≤ 64 ∧ (if op = 1 ∧ code = 5 then ∃ p, part? s
    s.partIf.psel = some p else if code = 5 then part? s s.partIf.psel = none ∧ (op = 6 → OnlyClusters s) else if code = 2 then ((op = 1 ∧ part? s
    s.partIf.psel = none) ∨ (op ≠ 1 ∧ ∃ p, part? s s.partIf.psel = some p)) ∧ ¬StagedFree s else if code = 3 then part? s s.partIf.psel = none ∧
    StagedFree s ∧ s.partIf.staged.clusters = [] else if code = 4 then (∃ p, part? s s.partIf.psel = some p ∧ p.lent = []) ∧ ∃ c ∈ s.contexts, c.part =
    s.partIf.psel else ∃ p, part? s s.partIf.psel = some p ∧ p.lent ≠ [])) :=
  ⟨sNone2, by decide +kernel, .shrink, 4, 5, List.mem_of_getElem? (i := 16) rfl, by simp only [← Option.isSome_iff_exists, StagedFree, OnlyClusters]; decide +kernel⟩
theorem witness_PartitionRefused_reclaim_5 : ∃ s : State, s.partIf.busy = false ∧ ∃ i : Instr, ∃ op : Nat, ∃ code : BitVec 8, ((i, op, code) : Instr × Nat × BitVec 8) ∈ [(.define, 1, 1),
    (.delete, 2, 1), (.grow, 3, 1), (.shrink, 4, 1), (.lend, 5, 1), (.reclaim, 6, 1), (.partitionRead, 7, 1), (.define, 1, 5), (.define, 1, 2), (.grow, 3,
    2), (.shrink, 4, 2), (.define, 1, 3), (.delete, 2, 4), (.delete, 2, 6), (.delete, 2, 5), (.grow, 3, 5), (.shrink, 4, 5), (.reclaim, 6, 5),
    (.partitionRead, 7, 5)] ∧ (if code = 1 then 64 < s.partIf.psel else 1 ≤ s.partIf.psel ∧ s.partIf.psel ≤ 64 ∧ (if op = 1 ∧ code = 5 then ∃ p, part? s
    s.partIf.psel = some p else if code = 5 then part? s s.partIf.psel = none ∧ (op = 6 → OnlyClusters s) else if code = 2 then ((op = 1 ∧ part? s
    s.partIf.psel = none) ∨ (op ≠ 1 ∧ ∃ p, part? s s.partIf.psel = some p)) ∧ ¬StagedFree s else if code = 3 then part? s s.partIf.psel = none ∧
    StagedFree s ∧ s.partIf.staged.clusters = [] else if code = 4 then (∃ p, part? s s.partIf.psel = some p ∧ p.lent = []) ∧ ∃ c ∈ s.contexts, c.part =
    s.partIf.psel else ∃ p, part? s s.partIf.psel = some p ∧ p.lent ≠ [])) :=
  ⟨sNone2, by decide +kernel, .reclaim, 6, 5, List.mem_of_getElem? (i := 17) rfl, by simp only [← Option.isSome_iff_exists, StagedFree, OnlyClusters]; decide +kernel⟩
theorem witness_PartitionRefused_partitionRead_5 : ∃ s : State, s.partIf.busy = false ∧ ∃ i : Instr, ∃ op : Nat, ∃ code : BitVec 8, ((i, op, code) : Instr × Nat × BitVec 8) ∈ [(.define, 1, 1),
    (.delete, 2, 1), (.grow, 3, 1), (.shrink, 4, 1), (.lend, 5, 1), (.reclaim, 6, 1), (.partitionRead, 7, 1), (.define, 1, 5), (.define, 1, 2), (.grow, 3,
    2), (.shrink, 4, 2), (.define, 1, 3), (.delete, 2, 4), (.delete, 2, 6), (.delete, 2, 5), (.grow, 3, 5), (.shrink, 4, 5), (.reclaim, 6, 5),
    (.partitionRead, 7, 5)] ∧ (if code = 1 then 64 < s.partIf.psel else 1 ≤ s.partIf.psel ∧ s.partIf.psel ≤ 64 ∧ (if op = 1 ∧ code = 5 then ∃ p, part? s
    s.partIf.psel = some p else if code = 5 then part? s s.partIf.psel = none ∧ (op = 6 → OnlyClusters s) else if code = 2 then ((op = 1 ∧ part? s
    s.partIf.psel = none) ∨ (op ≠ 1 ∧ ∃ p, part? s s.partIf.psel = some p)) ∧ ¬StagedFree s else if code = 3 then part? s s.partIf.psel = none ∧
    StagedFree s ∧ s.partIf.staged.clusters = [] else if code = 4 then (∃ p, part? s s.partIf.psel = some p ∧ p.lent = []) ∧ ∃ c ∈ s.contexts, c.part =
    s.partIf.psel else ∃ p, part? s s.partIf.psel = some p ∧ p.lent ≠ [])) :=
  ⟨sNone2, by decide +kernel, .partitionRead, 7, 5, List.mem_of_getElem? (i := 18) rfl, by simp only [← Option.isSome_iff_exists, StagedFree, OnlyClusters]; decide +kernel⟩
noncomputable def sOpWait : State := machine (id) (fun s => { withTeam (fun t => { t with state := .preempting, why := some .reclaim }) s with partIf := { s.partIf with busy := true } })
theorem witness_OperationWaits_1 : ∃ s : State, ∃ t, s.partIf.busy = true ∧ t ∈ s.teams ∧ t.state = .preempting ∧ t.why = some .reclaim ∧ (∀ u ∈ s.teams, u.state ≠ .bound) :=
  ⟨sOpWait, tmAt sOpWait 2, by decide +kernel⟩
def sOpEnds : State := { State.reset with partitions := [⟨1, wOwn, [(1, 3)]⟩], partIf := { wPage 1 0 ⟨[1], [], [], [], []⟩ with busy := true, op := 6 } }
theorem witness_OperationWaits_2 : ∃ s : State, ∃ p, s.partIf.busy = true ∧ s.partIf.op = 6 ∧ part? s s.partIf.psel = some p ∧ (∀ t ∈ s.teams, t.state = .saved) :=
  ⟨sOpEnds, ⟨1, wOwn, [(1, 3)]⟩, by decide +kernel⟩
def sBind : State := { State.reset with partitions := wParts, partIf := wPage 1 0 Resources.empty, contexts := [loadContext 1], engLeases := [⟨0, 1, 9⟩] }
def sBind2 : State := { State.reset with partitions := wParts, partIf := wPage 1 0 Resources.empty, contexts := [loadContext 1], engLeases := [⟨0, 2, 9⟩] }
theorem witness_EnginesLeased_1_1 : ∃ s : State, ∃ c, s.partIf.eng < 64 ∧ s.partIf.ectx < 1024 ∧ ctx? s s.partIf.ectx = some c ∧ s.partIf.eng ∈ (ownOf s c.part).engines ∧ (∀ l, leaseOf s
    s.partIf.eng = some l → l.ctx = s.partIf.ectx) :=
  ⟨sBind, loadContext 1, by decide +kernel⟩
theorem witness_EnginesLeased_1_2 : ∃ s : State, ∃ c, s.partIf.eng < 64 ∧ s.partIf.ectx < 1024 ∧ ctx? s s.partIf.ectx = some c ∧ s.partIf.eng ∈ (ownOf s c.part).engines ∧ ∃ l, leaseOf s
    s.partIf.eng = some l ∧ l.ctx ≠ s.partIf.ectx :=
  ⟨sBind2, loadContext 1, by decide +kernel, by decide +kernel, by decide +kernel, by decide +kernel, ⟨0, 2, 9⟩, by decide +kernel⟩
theorem witness_EnginesLeased_2 : ∃ s : State, s.partIf.eng < 64 ∧ s.partIf.ectx < 1024 :=
  ⟨sBind, by decide +kernel⟩
def sPCreate : State := { State.reset with partitions := wParts, pavIf := wPavPage }
theorem witness_PavilionsChange_1 : ∃ s : State, ∃ q, s.pavIf.busy = false ∧ 1 ≤ s.pavIf.sel ∧ s.pavIf.sel < 64 ∧ s.pavIf.part < 65536 ∧ part? s s.pavIf.part = some q ∧ pav? s
    s.pavIf.sel = none ∧ s.pavIf.ways ≠ 0 ∧ s.pavIf.waysBad = false ∧ bitCount (reservedWays s s.pavIf.part s.pavIf.ways) ≤ 12 :=
  ⟨sPCreate, ⟨1, wOwn, []⟩, by decide +kernel⟩
def sPAssign : State := { State.reset with partitions := wParts, pavIf := wPavPage, pavilions := [wPav] }
theorem witness_PavilionsChange_2_1 : ∃ s : State, ∃ p, s.pavIf.busy = false ∧ 1 ≤ s.pavIf.sel ∧ s.pavIf.sel < 64 ∧ s.pavIf.core < 1024 ∧ s.pavIf.quad < 16 ∧ pav? s s.pavIf.sel = some p ∧
    coreOwned s = true ∧ unitsTaken s = false ∧ outsiders s = false ∧ s.pavIf.bank < 2 ^ 32 ∧ s.pavIf.quad ≠ 0 ∧ (masksOf p s.pavIf.core).1 < 16 ∧
    (masksOf p s.pavIf.core).2 < 2 ^ 32 :=
  ⟨sPAssign, wPav, by decide +kernel⟩
def sPAssign2 : State := { State.reset with partitions := wParts, pavIf := wPavPage, pavilions := [wPav, { wPav with id := 4, cores := [(0, 1, 0)] }] }
theorem witness_PavilionsChange_2_2 : ∃ s : State, ∃ p, s.pavIf.busy = false ∧ 1 ≤ s.pavIf.sel ∧ s.pavIf.sel < 64 ∧ s.pavIf.core < 1024 ∧ s.pavIf.quad < 16 ∧ pav? s s.pavIf.sel = some p ∧
    (coreOwned s = false ∨ unitsTaken s = true) :=
  ⟨sPAssign2, wPav, by decide +kernel, by decide +kernel, by decide +kernel, by decide +kernel, by decide +kernel, by decide +kernel, .inr (by decide +kernel)⟩
def sPAssign2b : State := { State.reset with partitions := wParts, pavIf := { wPavPage with core := 8 }, pavilions := [wPav] }
theorem witness_PavilionsChange_2_2_core : ∃ s : State, ∃ p, s.pavIf.busy = false ∧ 1 ≤ s.pavIf.sel ∧ s.pavIf.sel < 64 ∧ s.pavIf.core < 1024 ∧ s.pavIf.quad < 16 ∧ pav? s s.pavIf.sel = some p ∧
    (coreOwned s = false ∨ unitsTaken s = true) :=
  ⟨sPAssign2b, wPav, by decide +kernel, by decide +kernel, by decide +kernel, by decide +kernel, by decide +kernel, by decide +kernel, .inl (by decide +kernel)⟩
noncomputable def sPAssign3 : State := machine (id) (fun s => { s with partitions := wParts, pavIf := wPavPage, pavilions := [wPav] })
theorem witness_PavilionsChange_2_3 : ∃ s : State, ∃ p, s.pavIf.busy = false ∧ 1 ≤ s.pavIf.sel ∧ s.pavIf.sel < 64 ∧ s.pavIf.core < 1024 ∧ s.pavIf.quad < 16 ∧ pav? s s.pavIf.sel = some p ∧
    coreOwned s = true ∧ unitsTaken s = false ∧ outsiders s = true :=
  ⟨sPAssign3, wPav, by decide +kernel⟩
def sPUn : State := { State.reset with partitions := wParts, pavIf := wPavPage, pavilions := [{ wPav with cores := [(0, 3, 3)] }] }
theorem witness_PavilionsChange_2_4 : ∃ s : State, ∃ p, s.pavIf.busy = false ∧ 1 ≤ s.pavIf.sel ∧ s.pavIf.sel < 64 ∧ s.pavIf.core < 1024 ∧ s.pavIf.quad < 16 ∧ pav? s s.pavIf.sel = some p :=
  ⟨sPUn, { wPav with cores := [(0, 3, 3)] }, by decide +kernel⟩
def sPAdd : State := { State.reset with partitions := wParts, pavIf := { wPavPage with count := 2 }, pavilions := [wPav] }
theorem witness_PavilionsChange_3_1 : ∃ s : State, ∃ p, s.pavIf.busy = false ∧ 1 ≤ s.pavIf.sel ∧ s.pavIf.sel < 64 ∧ s.pavIf.frameLoBad = false ∧ s.pavIf.frameHiBad = false ∧ pav? s
    s.pavIf.sel = some p ∧ (∀ f ∈ namedFrames s, f * 65536 < deviceBytes ∧ meetsReserved s (f * 65536) 65536 = false ∧ f % 256 ∈ (ownOf s p.part).channels
    ∧ pavOfPa s (f * 65536) = 0 ∧ ∀ q ∈ s.pavilions, q.id ≠ 0) ∧ s.rotation.active = false :=
  ⟨sPAdd, wPav, by decide +kernel⟩
def sPDel : State := { State.reset with partitions := wParts, pavIf := wPavPage, pavilions := [{ wPav with frames := [(5, false)] }] }
def sPAddR : State := { State.reset with partitions := wParts, pavIf := { wPavPage with count := 2 }, pavilions := [wPav], rotation := { State.reset.rotation with active := true, pav := 3, pointer := 0x40000 } }
theorem witness_PavilionsChange_3_2 : ∃ s : State, ∃ p, s.pavIf.busy = false ∧ 1 ≤ s.pavIf.sel ∧ s.pavIf.sel < 64 ∧ s.pavIf.frameLoBad = false ∧ s.pavIf.frameHiBad = false ∧ pav? s
    s.pavIf.sel = some p ∧ (∀ f ∈ namedFrames s, f * 65536 < deviceBytes ∧ meetsReserved s (f * 65536) 65536 = false ∧ f % 256 ∈ (ownOf s p.part).channels
    ∧ pavOfPa s (f * 65536) = 0 ∧ ∀ q ∈ s.pavilions, q.id ≠ 0) ∧ rotating s s.pavIf.sel = true ∧ Memory.wf s.mem = true :=
  ⟨sPAddR, wPav, by decide +kernel⟩
def sPDel2 : State := { State.reset with partitions := wParts, pavIf := { wPavPage with count := 2 }, pavilions := [{ wPav with frames := [(6, false), (5, false)] }], rotation := { State.reset.rotation with active := true, pav := 4 } }
theorem witness_PavilionsChange_3_3 : ∃ s : State, ∃ p, s.pavIf.busy = false ∧ 1 ≤ s.pavIf.sel ∧ s.pavIf.sel < 64 ∧ s.pavIf.frameLoBad = false ∧ s.pavIf.frameHiBad = false ∧ pav? s
    s.pavIf.sel = some p ∧ (∀ f ∈ namedFrames s, f ∈ p.frames.map Prod.fst) ∧ rotating s s.pavIf.sel = false ∧ 1 ≤ s.pavIf.count :=
  ⟨sPDel2, { wPav with frames := [(6, false), (5, false)] }, by decide +kernel⟩
theorem witness_PavilionsChange_3_4 : ∃ s : State, ∃ p, s.pavIf.busy = false ∧ 1 ≤ s.pavIf.sel ∧ s.pavIf.sel < 64 ∧ s.pavIf.frameLoBad = false ∧ s.pavIf.frameHiBad = false ∧ pav? s
    s.pavIf.sel = some p ∧ (∀ c ∈ s.contexts, c.pav ≠ s.pavIf.sel) ∧ p.frames ≠ [] :=
  ⟨sPDel2, { wPav with frames := [(6, false), (5, false)] }, by decide +kernel⟩
theorem witness_PavilionsChange_3_5 : ∃ s : State, ∃ p, s.pavIf.busy = false ∧ 1 ≤ s.pavIf.sel ∧ s.pavIf.sel < 64 ∧ s.pavIf.frameLoBad = false ∧ s.pavIf.frameHiBad = false ∧ pav? s
    s.pavIf.sel = some p ∧ s.rotation.active = false ∧ s.pavIf.count = 1 ∧ s.pavIf.frame ∈ p.frames.map Prod.fst :=
  ⟨sPDel, { wPav with frames := [(5, false)] }, by decide +kernel⟩
theorem witness_PavilionsChange_3_6 : ∃ s : State, ∃ p, s.pavIf.busy = false ∧ 1 ≤ s.pavIf.sel ∧ s.pavIf.sel < 64 ∧ s.pavIf.frameLoBad = false ∧ s.pavIf.frameHiBad = false ∧ pav? s
    s.pavIf.sel = some p ∧ (∀ c ∈ s.contexts, c.pav ≠ s.pavIf.sel) ∧ p.frames = [] ∧ s.rotation.active = false :=
  ⟨sPAssign, wPav, by decide +kernel⟩
def sFrGo : State := { State.reset with frames := { State.reset.frames with base := 0x10000, size := 0 } }
theorem witness_FramesScrubbed_1 : ∃ s : State, ∃ n, frameSize s.frames.size = some n ∧ s.frames.base + n ≤ deviceBytes :=
  ⟨sFrGo, 65536, by decide +kernel⟩
def sFrScrub : State := { State.reset with frames := { State.reset.frames with queue := [⟨0x10000, 65536, 3⟩, ⟨0x30000, 65536, 4⟩] }, mem := [(0x10005, 1), (0x20000, 2)] }
theorem witness_FramesScrubbed_2 : ∃ s : State, ∃ q l, s.frames.queue = q :: l ∧ s.observe.ckRun = none ∧ s.pavIf.busy = false ∧ (∃ e ∈ scrubEngines s q, engineBusy s e = false) ∧ (∀ x
    ∈ l, x.seq ≠ q.seq) ∧ q.seq < 2 ^ 64 ∧ Memory.wf s.mem = true :=
  ⟨sFrScrub, ⟨0x10000, 65536, 3⟩, [⟨0x30000, 65536, 4⟩], by decide +kernel, by decide +kernel, by decide +kernel, ⟨0, by decide +kernel⟩, by decide +kernel⟩
def sRot1 : State := { State.reset with pavilions := [{ wPav with frames := [(6, false), (5, false)] }], rotation := { State.reset.rotation with sel := 3 } }
theorem witness_KeysRotate_1_1 : ∃ s : State, ∃ p, s.rotation.active = false ∧ 1 ≤ s.rotation.sel ∧ s.rotation.sel < 64 ∧ pav? s s.rotation.sel = some p ∧ p.id = s.rotation.sel ∧ ∃ f,
    minBy (fun (f : Nat) => f) (sweptFrames p) = some f :=
  ⟨sRot1, { wPav with frames := [(6, false), (5, false)] }, by decide +kernel, by decide +kernel, by decide +kernel, by decide +kernel, by decide +kernel, 5, by decide +kernel⟩
def sRot2 : State := { State.reset with pavilions := [wPav], rotation := { State.reset.rotation with sel := 3 } }
theorem witness_KeysRotate_1_2 : ∃ s : State, ∃ p, s.rotation.active = false ∧ 1 ≤ s.rotation.sel ∧ s.rotation.sel < 64 ∧ pav? s s.rotation.sel = some p ∧ p.id = s.rotation.sel ∧
    p.frames = [] ∧ s.pavIf.busy = false :=
  ⟨sRot2, wPav, by decide +kernel⟩
def sRot3 : State := { State.reset with pavilions := [{ wPav with frames := [(6, false), (5, false)] }], rotation := { State.reset.rotation with sel := 3, active := true, pav := 3, pointer := 0x5FFC0, newKey := 9 } }
theorem witness_KeysRotate_2 : ∃ s : State, s.rotation.active = true :=
  ⟨sRot3, by decide +kernel⟩
theorem witness_KeysRotate_3_1 : ∃ s : State, ∃ p, s.rotation.active = true ∧ s.pavIf.busy = false ∧ pav? s s.rotation.pav = some p ∧ p.id = s.rotation.pav ∧ ∃ a, nextLine p
    s.rotation.pointer = some a :=
  ⟨sRot3, { wPav with frames := [(6, false), (5, false)] }, by decide +kernel, by decide +kernel, by decide +kernel, by decide +kernel, 0x60000, by decide +kernel⟩
def sRot4 : State := { State.reset with pavilions := [{ wPav with frames := [(6, false), (5, false)] }], rotation := { State.reset.rotation with sel := 3, active := true, pav := 3, pointer := 0x6FFC0, newKey := 9 } }
theorem witness_KeysRotate_3_2 : ∃ s : State, ∃ p, s.rotation.active = true ∧ s.pavIf.busy = false ∧ pav? s s.rotation.pav = some p ∧ p.id = s.rotation.pav ∧ nextLine p
    s.rotation.pointer = none :=
  ⟨sRot4, { wPav with frames := [(6, false), (5, false)] }, by decide +kernel⟩
theorem witness_KeysRotate_4 : ∃ s : State, ∃ p : Pavilion, ∃ pa, s.rotation.active = true ∧ s.rotation.pav = p.id ∧ p.lists (pa / 64) = true ∧ pa / 64 * 64 < s.rotation.pointer :=
  ⟨sRot4, { wPav with frames := [(6, false), (5, false)] }, 0x6FFBF, by decide +kernel⟩
theorem witness_KeysRotate_5 : ∃ s : State, ∃ p : Pavilion, ∃ pa, (p.frames.any fun f => f.1 == pa / 65536 && f.2) = false ∧ s.rotation.pointer ≤ pa / 64 * 64 :=
  ⟨sRot4, { wPav with frames := [(6, false), (5, false)] }, 0x6FFC0, by decide +kernel⟩
def sExt6 : State := { State.reset with trust := { State.reset.trust with extSel := 6 } }
theorem witness_TrustRegisters_1 : ∃ s : State, ∃ old, (s.trust.extSel = 6 ∨ s.trust.extSel = 7) ∧ s.trust.meas[s.trust.extSel]? = some old :=
  ⟨sExt6, State.reset.trust.meas.getD 6 0, .inl rfl, rfl⟩
def sExt5 : State := { State.reset with trust := { State.reset.trust with extSel := 5 } }
theorem witness_TrustRegisters_2 : ∃ s : State, s.trust.extSel < 6 :=
  ⟨sExt5, by decide +kernel⟩
def sAud : State := { State.reset with trust := { State.reset.trust with audit := [⟨3, 0, 0, 1, 0, 0, [], 5⟩] } }
theorem witness_TrustRegisters_3 : ∃ s : State, ∃ e l, s.trust.audit = e :: l :=
  ⟨sAud, ⟨3, 0, 0, 1, 0, 0, [], 5⟩, [], by decide +kernel⟩
theorem witness_TrustRegisters_4 : ∃ s : State, ∃ code : Word, 0x100 ≤ code.toNat % 65536 :=
  ⟨State.reset, 0x100, by decide +kernel⟩
theorem witness_TrustRegisters_5 : ∃ s : State, ∃ code : Word, code.toNat % 65536 < 0x100 :=
  ⟨State.reset, 0xFF, by decide +kernel⟩
theorem witness_SpdmAnswers_1 : ∃ s : State, ∃ n : Nat, 1 ≤ n ∧ n ≤ 7 :=
  ⟨State.reset, 7, by decide +kernel⟩
theorem witness_SpdmAnswers_2 : ∃ s : State, ∃ n : Nat, 7 < n :=
  ⟨State.reset, 8, by decide +kernel⟩
theorem witness_SpdmAnswers_4 : ∃ s : State, ∃ n : Nat, ∃ nonce : BitVec 512, 0 < n :=
  ⟨State.reset, 1, 0, by decide +kernel⟩
theorem witness_SpdmAnswers_5 : ∃ s : State, ∃ n m, 1 ≤ n ∧ n ≤ 8 ∧ s.trust.meas[n - 1]? = some m :=
  ⟨State.reset, 8, State.reset.trust.meas.getD 7 0, by decide +kernel, by decide +kernel, rfl⟩
theorem witness_SpdmAnswers_7 : ∃ s : State, ∃ n : Nat, (n = 0 ∨ 8 < n) ∧ n ≠ 255 :=
  ⟨State.reset, 9, .inr (by decide +kernel), by decide +kernel⟩
theorem witness_SpdmAnswers_8 : ∃ s : State, ∃ code : Nat, code ∉ ([0x84, 0xE1, 0xE3, 0x82, 0x83, 0xE0] : List Nat) :=
  ⟨State.reset, 0x85, by decide +kernel⟩

/-! ### Handover, translation control, spill pools, checkpoints and rings -/
def sHo : State := { State.reset with pavilions := [wPav], trust := { State.reset.trust with hoPv := 3 } }
theorem witness_HandoverSteps_1 : ∃ s : State, ∃ p : Pavilion, HoReady s p :=
  ⟨sHo, wPav, by unfold HoReady HoLegal; decide +kernel⟩
theorem witness_HandoverSteps_2 : ∃ s : State, ∃ p : Pavilion, HoReady s p ∧ p.src = .live :=
  ⟨sHo, wPav, by unfold HoReady HoLegal; decide +kernel, by decide +kernel⟩
def sHoSealed : State := { State.reset with pavilions := [{ wPav with src := .sealed }], trust := { State.reset.trust with hoPv := 3 } }
def sHoGone : State := { State.reset with pavilions := [{ wPav with src := .gone }], trust := { State.reset.trust with hoPv := 3 } }
def sHoAcc : State := { State.reset with pavilions := [{ wPav with dst := .accepted }], trust := { State.reset.trust with hoPv := 3 } }
def sHoSecret : State := { State.reset with pavilions := [{ wPav with secret := some 5 }], trust := { State.reset.trust with hoPv := 3, hoCopy := true, hoImg := 0x100000 } }
theorem witness_HandoverSteps_3 : ∃ s : State, ∃ p : Pavilion, HoReady s p ∧ p.src = .sealed :=
  ⟨sHoSealed, { wPav with src := .sealed }, by unfold HoReady HoLegal; decide +kernel, by decide +kernel⟩
theorem witness_HandoverSteps_4 : ∃ s : State, ∃ p : Pavilion, HoReady s p ∧ p.src = .gone :=
  ⟨sHoGone, { wPav with src := .gone }, by unfold HoReady HoLegal; decide +kernel, by decide +kernel⟩
/-- The receipt or proof in HOIN may or may not verify: the witness is for a signature that does. -/
theorem witness_HandoverSteps_5 (h : Config.ed25519Verify sHoAcc.trust.peerId (commitText { wPav with dst := .accepted }) (BitVec.ofNat 512 (leNat (sHoAcc.trust.hoIn.take 64))) = true) :
    ∃ (s : State) (p : Pavilion), HoReady s p ∧ p.dst = .accepted ∧ p.copyKind = false ∧
      Config.ed25519Verify s.trust.peerId (commitText p) (BitVec.ofNat 512 (leNat (s.trust.hoIn.take 64))) = true :=
  ⟨sHoAcc, { wPav with dst := .accepted }, by unfold HoReady HoLegal; decide +kernel, rfl, rfl, h⟩
theorem witness_HandoverSteps_6 : ∃ s : State, ∃ p : Pavilion, HoReady s p ∧ p.dst ≠ .accepted :=
  ⟨sHo, wPav, by unfold HoReady HoLegal; decide +kernel, by decide +kernel⟩
theorem witness_HandoverSteps_7 : ∃ s : State, HoLegal s :=
  ⟨sHo, by unfold HoLegal; decide +kernel⟩
theorem witness_HandoverSteps_8_prepare : ∃ s : State, ∃ i : Instr, ∃ op : Nat, ((i, op) : Instr × Nat) ∈ [(.prepare, 1), (.handoverCommit, 2), (.handoverAbort, 3), (.accept, 4), (.keyx, 5),
    (.handoverRelease, 6)] ∧ HoLegal s ∧ pav? s s.trust.hoPv = none :=
  ⟨State.reset, .prepare, 1, List.mem_of_getElem? (i := 0) rfl, by unfold HoLegal; decide +kernel, by decide +kernel⟩
theorem witness_HandoverSteps_8_handoverCommit : ∃ s : State, ∃ i : Instr, ∃ op : Nat, ((i, op) : Instr × Nat) ∈ [(.prepare, 1), (.handoverCommit, 2), (.handoverAbort, 3), (.accept, 4), (.keyx, 5),
    (.handoverRelease, 6)] ∧ HoLegal s ∧ pav? s s.trust.hoPv = none :=
  ⟨State.reset, .handoverCommit, 2, List.mem_of_getElem? (i := 1) rfl, by unfold HoLegal; decide +kernel, by decide +kernel⟩
theorem witness_HandoverSteps_8_handoverAbort : ∃ s : State, ∃ i : Instr, ∃ op : Nat, ((i, op) : Instr × Nat) ∈ [(.prepare, 1), (.handoverCommit, 2), (.handoverAbort, 3), (.accept, 4), (.keyx, 5),
    (.handoverRelease, 6)] ∧ HoLegal s ∧ pav? s s.trust.hoPv = none :=
  ⟨State.reset, .handoverAbort, 3, List.mem_of_getElem? (i := 2) rfl, by unfold HoLegal; decide +kernel, by decide +kernel⟩
theorem witness_HandoverSteps_8_accept : ∃ s : State, ∃ i : Instr, ∃ op : Nat, ((i, op) : Instr × Nat) ∈ [(.prepare, 1), (.handoverCommit, 2), (.handoverAbort, 3), (.accept, 4), (.keyx, 5),
    (.handoverRelease, 6)] ∧ HoLegal s ∧ pav? s s.trust.hoPv = none :=
  ⟨State.reset, .accept, 4, List.mem_of_getElem? (i := 3) rfl, by unfold HoLegal; decide +kernel, by decide +kernel⟩
theorem witness_HandoverSteps_8_keyx : ∃ s : State, ∃ i : Instr, ∃ op : Nat, ((i, op) : Instr × Nat) ∈ [(.prepare, 1), (.handoverCommit, 2), (.handoverAbort, 3), (.accept, 4), (.keyx, 5),
    (.handoverRelease, 6)] ∧ HoLegal s ∧ pav? s s.trust.hoPv = none :=
  ⟨State.reset, .keyx, 5, List.mem_of_getElem? (i := 4) rfl, by unfold HoLegal; decide +kernel, by decide +kernel⟩
theorem witness_HandoverSteps_8_handoverRelease : ∃ s : State, ∃ i : Instr, ∃ op : Nat, ((i, op) : Instr × Nat) ∈ [(.prepare, 1), (.handoverCommit, 2), (.handoverAbort, 3), (.accept, 4), (.keyx, 5),
    (.handoverRelease, 6)] ∧ HoLegal s ∧ pav? s s.trust.hoPv = none :=
  ⟨State.reset, .handoverRelease, 6, List.mem_of_getElem? (i := 5) rfl, by unfold HoLegal; decide +kernel, by decide +kernel⟩
def sHoBuf : State := { State.reset with pavilions := [{ wPav with secret := some 5 }], trust := { State.reset.trust with hoPv := 3, hoCopy := true, hoImg := 0x100000, hoLen := 0x10000 } }
/-- The image of the pavilion as `PREPARE` seals it. -/
noncomputable def sealedImage (s : State) (p : Pavilion) (k : BitVec 256) : List Byte :=
  let body := imageBody (snapshot s p) p
  let hd := imageHeader p.id true s.trust.epoch.toNat (Config.sha512 body)
  hd ++ Config.sealBytes (transferKey s k (Config.x25519Public k) s.trust.peerX) hd body
/-- An accepted peer key: the signature verifies; and a buffer that is long enough. -/
theorem witness_CopyPrepared_1 (h : peerSigned sHoBuf = true) (h2 : (sealedImage sHoBuf { wPav with secret := some 5 } 5).length ≤ 0x10000) :
    ∃ (s : State) (p : Pavilion) (k : BitVec 256), HoReady s p ∧ p.src = .live ∧ p.dst ≠ .accepted ∧ p.secret = some k ∧ peerSigned s = true ∧ s.trust.hoCopy = true ∧ bufferOk s p s.trust.hoImg s.trust.hoLen.toNat = true ∧
      (sealedImage s p k).length ≤ s.trust.hoLen.toNat :=
  ⟨sHoBuf, { wPav with secret := some 5 }, 5, by unfold HoReady HoLegal; decide +kernel, rfl, by decide, rfl, h, rfl, by decide +kernel, h2⟩
theorem witness_CopyPrepared_2 (h : peerSigned sHoSecret = true) :
    ∃ (s : State) (p : Pavilion) (k : BitVec 256), HoReady s p ∧ p.src = .live ∧ p.dst ≠ .accepted ∧ p.secret = some k ∧ peerSigned s = true ∧ s.trust.hoCopy = true ∧ bufferOk s p s.trust.hoImg s.trust.hoLen.toNat = true ∧
      s.trust.hoLen.toNat < (sealedImage s p k).length :=
  ⟨sHoSecret, { wPav with secret := some 5 }, 5, by unfold HoReady HoLegal; decide +kernel, rfl, by decide, rfl, h, rfl, by decide +kernel, by
    have h0 : sHoSecret.trust.hoLen.toNat = 0 := rfl
    rw [h0]; exact Nat.succ_pos _⟩
noncomputable def sMove : State := machine (id) (fun s => { withCtx (fun c => { c with pav := 3 }) s with pavilions := [{ wPav with secret := some 5 }], trust := { s.trust with hoPv := 3, hoImg := 0x100000, hoLen := 0x10000 } })
theorem witness_MoveCommits_1 (h : peerSigned sMove = true) (h2 : (Machine.imageOf sMove { wPav with secret := some 5 } 0).2.length ≤ 0x10000) :
    ∃ (s : State) (p : Pavilion) (k : BitVec 256), HoReady s p ∧ p.src = .live ∧ p.dst ≠ .accepted ∧ p.secret = some k ∧ peerSigned s = true ∧ s.trust.hoCopy = false ∧ bufferOk s p s.trust.hoImg s.trust.hoLen.toNat = true ∧
      (Machine.imageOf s p 0).2.length ≤ s.trust.hoLen.toNat ∧ s.forks = [] ∧
      (∃ t ∈ s.teams, t.onCore = true ∧ ∃ c ∈ s.contexts, c.pav = p.id ∧ t.ctx = c.id) :=
  ⟨sMove, { wPav with secret := some 5 }, 5, by unfold HoReady HoLegal; decide +kernel, rfl, by decide, by decide +kernel, h, by decide +kernel, by decide +kernel, h2, by decide +kernel, by decide +kernel⟩
theorem witness_MoveCommits_2 (h : Config.ed25519Verify sHoSealed.trust.peerId (receiptText { wPav with src := .sealed }) (BitVec.ofNat 512 (leNat (sHoSealed.trust.hoIn.take 64))) = true) :
    ∃ (s : State) (p : Pavilion), HoReady s p ∧ p.src = .sealed ∧ p.frames = [] ∧ s.rotation.active = false ∧
      (∀ t ∈ s.teams, ∀ c ∈ s.contexts, c.pav = p.id → t.ctx ≠ c.id) ∧ (∀ x ∈ s.dirty, ∀ c ∈ s.contexts, c.pav = p.id → x.ctx ≠ c.id) ∧
      Config.ed25519Verify s.trust.peerId (receiptText p) (BitVec.ofNat 512 (leNat (s.trust.hoIn.take 64))) = true :=
  ⟨sHoSealed, { wPav with src := .sealed }, by unfold HoReady HoLegal; decide +kernel, rfl, rfl, rfl, by decide +kernel, by decide +kernel, h⟩
theorem witness_MoveCommits_3 (h : Config.ed25519Verify sHoSealed.trust.peerId (receiptText { wPav with src := .sealed }) (BitVec.ofNat 512 (leNat (sHoSealed.trust.hoIn.take 64))) = true) :
    ∃ (s : State) (p : Pavilion), HoReady s p ∧ p.src = .sealed ∧
      Config.ed25519Verify s.trust.peerId (receiptText p) (BitVec.ofNat 512 (leNat (s.trust.hoIn.take 64))) = true :=
  ⟨sHoSealed, { wPav with src := .sealed }, by unfold HoReady HoLegal; decide +kernel, rfl, h⟩
theorem witness_MoveCommits_4 : ∃ s : State, ∃ p : Pavilion, HoReady s p ∧ (p.src ≠ .sealed ∨ Config.ed25519Verify s.trust.peerId (receiptText p) (BitVec.ofNat 512 (leNat
    (s.trust.hoIn.take 64))) = false) :=
  ⟨sHo, wPav, by unfold HoReady HoLegal; decide +kernel, .inl (by decide)⟩
def sImage : State := { State.reset with pavilions := [{ wPav with secret := some 5 }], mem := [(0x100000, 3)], trust := { State.reset.trust with hoPv := 3, hoImg := 0x100000, hoLen := 0x68 } }
/-- An image that opens to a body of 24 zeros under a header of the pavilion with the body's digest. -/
theorem witness_ImageAccepted_1 (h : peerSigned sImage = true) (h2 : Config.openBytes (transferKey sImage 5 sImage.trust.peerX (Config.x25519Public 5))
    ((homeBytes sImage 0 0x100000 0x68).take 80) ((homeBytes sImage 0 0x100000 0x68).drop 80) = some (List.replicate 24 0#8))
    (h3 : Config.sha512 (List.replicate 24 0#8) = 0) :
    ∃ (s : State) (p : Pavilion) (k : BitVec 256), HoReady s p ∧ p.secret = some k ∧
      let img := homeBytes s 0 s.trust.hoImg s.trust.hoLen.toNat
      let key := transferKey s k s.trust.peerX (Config.x25519Public k)
      ∃ body, Config.openBytes key (img.take 80) (img.drop 80) = some body ∧ p.dst = .none ∧ peerSigned s = true ∧
        Config.sha512 body = BitVec.ofNat 512 (fieldAt (img.take 80) 16 64) ∧ fieldAt (img.take 80) 0 4 = p.id ∧ fieldAt body 16 8 ≤ p.frames.length :=
  ⟨sImage, { wPav with secret := some 5 }, 5, by unfold HoReady HoLegal; decide +kernel, rfl, List.replicate 24 0#8, h2, rfl, h, h3.trans (by decide +kernel), by decide +kernel, by decide +kernel⟩
theorem witness_ImageAccepted_2 (h2 : Config.openBytes (transferKey sImage 5 sImage.trust.peerX (Config.x25519Public 5))
    ((homeBytes sImage 0 0x100000 0x68).take 80) ((homeBytes sImage 0 0x100000 0x68).drop 80) = none) :
    ∃ (s : State) (p : Pavilion) (k : BitVec 256), HoReady s p ∧ p.secret = some k ∧
      let img := homeBytes s 0 s.trust.hoImg s.trust.hoLen.toNat
      let key := transferKey s k s.trust.peerX (Config.x25519Public k)
      Config.openBytes key (img.take 80) (img.drop 80) = none :=
  ⟨sImage, { wPav with secret := some 5 }, 5, by unfold HoReady HoLegal; decide +kernel, rfl, h2⟩
/-- A translation block of the PF for context 1. -/
def wBlock : TransBlock := { fn := 0, ctx := 1, stage := 0, va := 0x20000, pages := 1, seq := 4294967295, result := 0, busy := false, started := false, waits := [] }
def withBlock (b : TransBlock) (s : State) : State := { s with host := { s.host with trans := [b] } }
/-- A cached translation of page 2 of context 1. -/
def wTlb : Tlb := ⟨0, none, 1, 16, 2, 0x30000, 0x30000, true, true, 0⟩
noncomputable def sInval : State := machine (id) (fun s => { withBlock wBlock s with time := 9, tlb := [wTlb, { wTlb with page := 5 }] })
theorem witness_TranslationsDropped_1_1 : ∃ s : State, ∃ fn : Nat, ∃ c : Context, BlockOk s fn c ∧ windowsDone s fn ≤ s.time ∧
    (
    let b := transBlock s fn;
    let kept := fun (r : State) => (∀ e, e ∈ r.tlb ↔ e ∈ s.tlb ∧ ¬(e.ctx = b.ctx ∧ (b.stage ≠ 0 ∨ Named b (e.page * 2 ^ e.sz) (2 ^ e.sz)))) ∧ r.mem = s.mem ∧ r.leases = s.leases;
    usersOf s b = [] ∧ engUsers s b = [] ∧ 1 ≤ s.time ∧ lastDue s b.ctx ≤ s.time) :=
  ⟨sInval, 0, cxAt sInval 1, ⟨by decide +kernel, by decide +kernel, by decide +kernel, .inl rfl⟩, by decide +kernel, by decide +kernel⟩
noncomputable def sInvalW : State := machine (withAcc { wAcc with lease := 0 }) (fun s => { withBlock wBlock (parked s) with tlb := [wTlb] })
theorem witness_TranslationsDropped_1_2 : ∃ s : State, ∃ fn : Nat, ∃ c : Context, BlockOk s fn c ∧ windowsDone s fn ≤ s.time ∧
    (
    let b := transBlock s fn;
    let kept := fun (r : State) => (∀ e, e ∈ r.tlb ↔ e ∈ s.tlb ∧ ¬(e.ctx = b.ctx ∧ (b.stage ≠ 0 ∨ Named b (e.page * 2 ^ e.sz) (2 ^ e.sz)))) ∧ r.mem = s.mem ∧ r.leases = s.leases;
    (∃ x ∈ usersOf s b, accDone s x = false)) :=
  ⟨sInvalW, 0, cxAt sInvalW 1, ⟨by decide +kernel, by decide +kernel, by decide +kernel, .inl rfl⟩, by decide +kernel, by decide +kernel⟩
noncomputable def sBadB : State := machine (id) (withBlock { wBlock with va := 1 })
noncomputable def sNoCtxB : State := machine (id) (withBlock { wBlock with ctx := 5 })
theorem witness_TranslationsDropped_2_1_invalidate : ∃ s : State, ∃ fn : Nat, (transBlock s fn).busy = false ∧ ∃ i : Instr, i ∈ ([.invalidate fn, .replay fn, .abort fn] : List Instr) ∧ (1024 ≤
    (transBlock s fn).ctx ∨ 3 ≤ (transBlock s fn).stage ∨ (transBlock s fn).va.toNat % 65536 ≠ 0) :=
  ⟨sBadB, 0, by decide +kernel, .invalidate 0, List.mem_of_getElem? (i := 0) rfl, by decide +kernel⟩
theorem witness_TranslationsDropped_2_2_invalidate : ∃ s : State, ∃ fn : Nat, (transBlock s fn).busy = false ∧ ∃ i : Instr, i ∈ ([.invalidate fn, .replay fn, .abort fn] : List Instr) ∧ (transBlock s
    fn).ctx < 1024 ∧ (transBlock s fn).stage < 3 ∧ (transBlock s fn).va.toNat % 65536 = 0 ∧ ctx? s (transBlock s fn).ctx = none ∧ fn = 0 :=
  ⟨sNoCtxB, 0, by decide +kernel, .invalidate 0, List.mem_of_getElem? (i := 0) rfl, by decide +kernel⟩
theorem witness_TranslationsDropped_2_1_replay : ∃ s : State, ∃ fn : Nat, (transBlock s fn).busy = false ∧ ∃ i : Instr, i ∈ ([.invalidate fn, .replay fn, .abort fn] : List Instr) ∧ (1024 ≤
    (transBlock s fn).ctx ∨ 3 ≤ (transBlock s fn).stage ∨ (transBlock s fn).va.toNat % 65536 ≠ 0) :=
  ⟨sBadB, 0, by decide +kernel, .replay 0, List.mem_of_getElem? (i := 1) rfl, by decide +kernel⟩
theorem witness_TranslationsDropped_2_2_replay : ∃ s : State, ∃ fn : Nat, (transBlock s fn).busy = false ∧ ∃ i : Instr, i ∈ ([.invalidate fn, .replay fn, .abort fn] : List Instr) ∧ (transBlock s
    fn).ctx < 1024 ∧ (transBlock s fn).stage < 3 ∧ (transBlock s fn).va.toNat % 65536 = 0 ∧ ctx? s (transBlock s fn).ctx = none ∧ fn = 0 :=
  ⟨sNoCtxB, 0, by decide +kernel, .replay 0, List.mem_of_getElem? (i := 1) rfl, by decide +kernel⟩
theorem witness_TranslationsDropped_2_1_abort : ∃ s : State, ∃ fn : Nat, (transBlock s fn).busy = false ∧ ∃ i : Instr, i ∈ ([.invalidate fn, .replay fn, .abort fn] : List Instr) ∧ (1024 ≤
    (transBlock s fn).ctx ∨ 3 ≤ (transBlock s fn).stage ∨ (transBlock s fn).va.toNat % 65536 ≠ 0) :=
  ⟨sBadB, 0, by decide +kernel, .abort 0, List.mem_of_getElem? (i := 2) rfl, by decide +kernel⟩
theorem witness_TranslationsDropped_2_2_abort : ∃ s : State, ∃ fn : Nat, (transBlock s fn).busy = false ∧ ∃ i : Instr, i ∈ ([.invalidate fn, .replay fn, .abort fn] : List Instr) ∧ (transBlock s
    fn).ctx < 1024 ∧ (transBlock s fn).stage < 3 ∧ (transBlock s fn).va.toNat % 65536 = 0 ∧ ctx? s (transBlock s fn).ctx = none ∧ fn = 0 :=
  ⟨sNoCtxB, 0, by decide +kernel, .abort 0, List.mem_of_getElem? (i := 2) rfl, by decide +kernel⟩
def aRep : Access := { wAcc with va := 0x8004, pa := none, logged := some 7 }
/-- Four tables, the last entry a leaf of 16 GB at 0. -/
def withTables (s : State) : State :=
  withCtx (fun c => { c with root1 := 0x10000 }) { s with mem :=
    [(0x10000, 0x20003), (0x20000, 0x30003), (0x30000, 0x40003), (0x40000, 0x0200000000000005)].foldl (fun m x => Memory.writeN m x.1 (leBytes 8 x.2)) [] }
noncomputable def sRep : State := machine (withAcc aRep) (fun s => { withBlock { wBlock with va := 0 } (withTables (parked s)) with grids := [] })
noncomputable def vRep : Except TFault (Nat × Nat × Nat) × State := translateNow (forgetRecords sRep (transBlock sRep 0)) true (tidAt sRep wLane) (cxAt sRep 1) aRep.va.toNat aRep.kind
theorem ok_parts {p : Except TFault (Nat × Nat × Nat) × State} (d : Nat × Nat × Nat) (h : (match p.1 with | .ok _ => true | .error _ => false) = true) :
    p = (.ok ((okd p d).1, (okd p d).2.1, (okd p d).2.2), p.2) := ok_of d (by revert h; cases p.1 <;> exact id)
theorem rep_ok : vRep = (.ok ((okd vRep (0, 0, 0)).1, (okd vRep (0, 0, 0)).2.1, (okd vRep (0, 0, 0)).2.2), vRep.2) := ok_parts (0, 0, 0) (by decide +kernel)
theorem witness_FaultsServed_1 : ∃ s : State, ∃ fn : Nat, ∃ c : Context, ∃ t : Tid, ∃ a : Access, ∃ x : Nat, ∃ pa : Nat, ∃ lease : Nat, ∃ z : State, BlockOk s fn c ∧ OneNamed s fn t a
    ∧ isResident s t.team = true ∧ tidCtx s t = some c ∧ a.op.stores = false ∧ a.slot = false ∧ translateNow (forgetRecords s (transBlock s fn)) true
    (tidAt s t) c a.va.toNat a.kind = (.ok (x, pa, lease), z) ∧ z.teams = s.teams ∧ z.host = s.host :=
  ⟨sRep, 0, cxAt sRep 1, wLane, aRep, (okd vRep (0, 0, 0)).1, (okd vRep (0, 0, 0)).2.1, (okd vRep (0, 0, 0)).2.2, vRep.2, ⟨by decide +kernel, by decide +kernel, by decide +kernel, .inl rfl⟩, ⟨⟨by decide +kernel, by decide +kernel⟩, by decide +kernel, by decide +kernel, by decide +kernel, by decide +kernel⟩, by decide +kernel, by decide +kernel, by decide +kernel, by decide +kernel, rep_ok, by decide +kernel⟩
noncomputable def sRepOut : State := machine (withAcc aRep) (fun s => { withBlock { wBlock with va := 0 } (withTeam (fun t => { t with state := .preempting, why := some .reclaim }) (parked s)) with grids := [] })
theorem witness_FaultsServed_2 : ∃ s : State, ∃ fn : Nat, ∃ c : Context, ∃ t : Tid, ∃ a : Access, BlockOk s fn c ∧ OneNamed s fn t a ∧ isResident s t.team = false :=
  ⟨sRepOut, 0, cxAt sRepOut 1, wLane, aRep, ⟨by decide +kernel, by decide +kernel, by decide +kernel, .inl rfl⟩, ⟨⟨by decide +kernel, by decide +kernel⟩, by decide +kernel, by decide +kernel, by decide +kernel, by decide +kernel⟩, by decide +kernel⟩
theorem witness_FaultsServed_3 : ∃ s : State, ∃ fn : Nat, ∃ c : Context, ∃ t : Tid, ∃ a : Access, ∃ th : Thread, BlockOk s fn c ∧ OneNamed s fn t a ∧ isResident s t.team = true ∧
    thread? s t = some th ∧ th.wait = none ∧ (∀ b ∈ th.queue, b.id = a.id → b = a) :=
  ⟨sRep, 0, cxAt sRep 1, wLane, aRep, thAt sRep wLane, ⟨by decide +kernel, by decide +kernel, by decide +kernel, .inl rfl⟩, ⟨⟨by decide +kernel, by decide +kernel⟩, by decide +kernel, by decide +kernel, by decide +kernel, by decide +kernel⟩, by decide +kernel⟩
/-- A record that the hypervisor's queue holds for context 1. -/
def wHyper : LoggedRec := ⟨7, true, ⟨1, false, true, 9, 0, 0, 0, 0, 0, 0, 0x20004, 0x20004, 0⟩⟩
noncomputable def sInj : State := machine (id) (fun s => { withBlock { wBlock with seq := 7 } s with logged := [wHyper] })
theorem witness_FaultsServed_4 : ∃ s : State, ∃ c : Context, ∃ l : LoggedRec, BlockOk s 0 c ∧ s.logged = [l] ∧ l.hyper = true ∧ l.seq = (transBlock s 0).seq ∧ l.record.ctx = c.id ∧
    (transBlock s 0).ctx = c.id :=
  ⟨sInj, cxAt sInj 1, wHyper, ⟨by decide +kernel, by decide +kernel, by decide +kernel, .inl rfl⟩, by decide +kernel⟩
noncomputable def sInjVf : State := machine (id) (fun s => { s with host := { s.host with trans := [{ wBlock with fn := 2 }], vfs := [⟨2, 1, 0, .configUnlocked, none⟩] } })
theorem witness_FaultsServed_5 : ∃ s : State, ∃ fn : Nat, ∃ v : VirtFn, (transBlock s fn).busy = false ∧ fn ≠ 0 ∧ vf? s fn = some v ∧ (transBlock s fn).ctx < 1024 ∧ (transBlock s
    fn).stage < 3 ∧ (transBlock s fn).va.toNat % 65536 = 0 :=
  ⟨sInjVf, 2, ⟨2, 1, 0, .configUnlocked, none⟩, by decide +kernel⟩
noncomputable def sSp : State := machine (id) (fun s => { s with host := { s.host with spCtx := 1, spBase := 0x1000, spLen := 0x2000 } })
theorem witness_PoolGrows_1 : ∃ s : State, ∃ c : Context, s.host.spCtx = c.id ∧ c.id < 1024 ∧ ctx? s c.id = some c ∧ s.host.spBase.toNat % 4096 = 0 ∧ s.host.spBase.toNat < 2 ^ 52 ∧
    c.extents.length < 8 ∧ s.host.spLen ≠ 0 ∧ s.host.spLen.toNat % 4096 = 0 ∧ (∀ k ∈ s.contexts, ∀ e ∈ k.extents, ¬(s.host.spBase.toNat < e.1 + e.2 ∧ e.1
    < s.host.spBase.toNat + s.host.spLen.toNat)) :=
  ⟨sSp, cxAt sSp 1, by decide +kernel⟩
noncomputable def sSp0 : State := machine (id) (fun s => { s with host := { s.host with spCtx := 1, spBase := 0x1000, spLen := 0x2001 } })
theorem witness_PoolGrows_2 : ∃ s : State, ∃ c : Context, s.host.spCtx = c.id ∧ c.id < 1024 ∧ ctx? s c.id = some c ∧ (8 ≤ c.extents.length ∨ s.host.spLen = 0 ∨ s.host.spLen.toNat %
    4096 ≠ 0) :=
  ⟨sSp0, cxAt sSp0 1, by decide +kernel⟩
theorem witness_PoolGrows_3 : ∃ s : State, ∃ c : Context, s.host.spCtx = c.id ∧ c.id < 1024 ∧ ctx? s c.id = some c :=
  ⟨sSp, cxAt sSp 1, by decide +kernel⟩
def wrLe (m : List Host.Cell) (a n v : Nat) : List Host.Cell := Memory.writeN m a (leBytes n v)
noncomputable def sCk : State := machine (id) (fun s => { s with observe := { s.observe with ckCtx := 1, ckList := 0x1000, ckCount := 1, ckSlot0 := 0x400000, ckSlot1 := 0x800000 }, partitions := [⟨1, ⟨upto 64, upto 64, upto 256, upto 64, []⟩, []⟩], mem := wrLe [] 0x1000 16 (0x100000 + 65536 * 2 ^ 64) })
theorem witness_CheckpointsTaken_1 : ∃ s : State, s.observe.ckRun = none ∧ ckFails s = none ∧ s.forks = [] :=
  ⟨sCk, by decide +kernel⟩
noncomputable def sCkBad : State := machine (id) (fun s => { s with observe := { s.observe with ckCtx := 1, ckList := 0x1000, ckSlot0 := 0x400000, ckSlot1 := 0x800000, ckCount := 0 } })
theorem witness_CheckpointsTaken_2_checkpointStart : ∃ s : State, ∃ code : BitVec 8, s.observe.ckRun = none ∧ ckFails s = some code ∧ ∃ i : Instr, i ∈ ([.checkpointStart, .arm] : List Instr) :=
  ⟨sCkBad, 1, by decide +kernel, by decide +kernel, .checkpointStart, List.mem_of_getElem? (i := 0) rfl⟩
theorem witness_CheckpointsTaken_2_arm : ∃ s : State, ∃ code : BitVec 8, s.observe.ckRun = none ∧ ckFails s = some code ∧ ∃ i : Instr, i ∈ ([.checkpointStart, .arm] : List Instr) :=
  ⟨sCkBad, 1, by decide +kernel, by decide +kernel, .arm, List.mem_of_getElem? (i := 1) rfl⟩
theorem witness_CheckpointsTaken_3 : ∃ s : State, ∃ c : Context, s.observe.ckRun = none ∧ s.observe.ckCtx = c.id ∧ c.id < 1024 ∧ ctx? s c.id = some c :=
  ⟨sCk, cxAt sCk 1, by decide +kernel⟩
noncomputable def sCkWarn : State := machine (id) (fun s => { withCtx (fun c => { c with armed := some (0x1000, 1, 0x400000, 0x800000) }) s with observe := { s.observe with warned := [1] } })
theorem witness_CheckpointsTaken_4 : ∃ s : State, ∃ c : Context, ∃ l list, ∃ n a b, s.observe.ckRun = none ∧ s.observe.warned = c.id :: l ∧ ctx? s c.id = some c ∧ c.armed = some (list, n,
    a, b) ∧ s.forks = [] :=
  ⟨sCkWarn, cxAt sCkWarn 1, [], 0x1000, 1, 0x400000, 0x800000, by decide +kernel⟩
noncomputable def sCkRun : State := machine (id) (fun s => { s with observe := { s.observe with ckRun := some ⟨1, 0x1000, 1, 0x400000, 0x800000, false, none, [(0x100000, 64)], []⟩ } })
theorem witness_CheckpointsTaken_5_checkpointStart : ∃ s : State, ∃ k : CkptRun, s.observe.ckRun = some k ∧ ∃ i : Instr, i ∈ ([.checkpointStart, .arm, .disarm, .checkpointWarning] : List Instr) :=
  ⟨sCkRun, ⟨1, 0x1000, 1, 0x400000, 0x800000, false, none, [(0x100000, 64)], []⟩, by decide +kernel, .checkpointStart, List.mem_of_getElem? (i := 0) rfl⟩
theorem witness_CheckpointsTaken_5_arm : ∃ s : State, ∃ k : CkptRun, s.observe.ckRun = some k ∧ ∃ i : Instr, i ∈ ([.checkpointStart, .arm, .disarm, .checkpointWarning] : List Instr) :=
  ⟨sCkRun, ⟨1, 0x1000, 1, 0x400000, 0x800000, false, none, [(0x100000, 64)], []⟩, by decide +kernel, .arm, List.mem_of_getElem? (i := 1) rfl⟩
theorem witness_CheckpointsTaken_5_disarm : ∃ s : State, ∃ k : CkptRun, s.observe.ckRun = some k ∧ ∃ i : Instr, i ∈ ([.checkpointStart, .arm, .disarm, .checkpointWarning] : List Instr) :=
  ⟨sCkRun, ⟨1, 0x1000, 1, 0x400000, 0x800000, false, none, [(0x100000, 64)], []⟩, by decide +kernel, .disarm, List.mem_of_getElem? (i := 2) rfl⟩
theorem witness_CheckpointsTaken_5_checkpointWarning : ∃ s : State, ∃ k : CkptRun, s.observe.ckRun = some k ∧ ∃ i : Instr, i ∈ ([.checkpointStart, .arm, .disarm, .checkpointWarning] : List Instr) :=
  ⟨sCkRun, ⟨1, 0x1000, 1, 0x400000, 0x800000, false, none, [(0x100000, 64)], []⟩, by decide +kernel, .checkpointWarning, List.mem_of_getElem? (i := 3) rfl⟩
noncomputable def sCkTick : State := machine (id) (fun s => { s with teams := [], observe := { s.observe with ckRun := some ⟨1, 0x1000, 1, 0x400000, 0x800000, false, none, [(0x100000, 64)], []⟩ } })
theorem witness_CheckpointsTaken_6 : ∃ s : State, ∃ k : CkptRun, s.observe.ckRun = some k ∧ k.tick = none ∧ (∀ t ∈ s.teams, t.ctx = k.ctx → t.onCore = false) :=
  ⟨sCkTick, ⟨1, 0x1000, 1, 0x400000, 0x800000, false, none, [(0x100000, 64)], []⟩, by decide +kernel⟩
theorem witness_CheckpointsTaken_7 : ∃ s : State, ∃ k : CkptRun, ∃ t : Team, s.observe.ckRun = some k ∧ k.tick = none ∧ t ∈ s.teams ∧ t.ctx = k.ctx ∧ t.onCore = true :=
  ⟨sCkRun, ⟨1, 0x1000, 1, 0x400000, 0x800000, false, none, [(0x100000, 64)], []⟩, tmAt sCkRun 2, by decide +kernel, by decide +kernel, List.mem_of_getElem? (i := 0) (by decide +kernel), by decide +kernel⟩
theorem witness_CheckpointsRefused_1 : ∃ s : State, (1024 ≤ s.observe.ckCtx ∨ s.observe.ckList.toNat % 16 ≠ 0 ∨ 2 ^ 52 ≤ s.observe.ckList.toNat ∨ s.observe.ckCount.toNat = 0 ∨ 4096 <
    s.observe.ckCount.toNat ∨ s.observe.ckSlot0.toNat % 65536 ≠ 0 ∨ s.observe.ckSlot1.toNat % 65536 ≠ 0) :=
  ⟨sCkBad, by decide +kernel⟩
theorem witness_CheckpointsRefused_2 : ∃ s : State, ∃ code : BitVec 8, ckFails s = some code :=
  ⟨sCkBad, 1, by decide +kernel⟩
theorem witness_CheckpointsRefused_3 : ∃ s : State, ∃ c : Context, ckFails s = none ∧ ctx? s s.observe.ckCtx = some c :=
  ⟨sCk, cxAt sCk 1, by decide +kernel⟩
noncomputable def sCkEnd : State := machine (id) (fun s => { withCtx (fun c => { c with suspended := true, suspendedBy := [2] }) s with observe := { s.observe with ckRun := some ⟨1, 0x1000, 1, 0x400000, 0x800000, true, some 9, [(0x100000, 4)], [[1, 2, 3, 4]]⟩ } })
theorem witness_CheckpointCommits : ∃ s : State, ∃ k : CkptRun, ∃ t : Nat, ∃ c : Context, s.observe.ckRun = some k ∧ k.tick = some t ∧ ctx? s k.ctx = some c ∧ (∀ w ∈ c.suspendedBy, w =
    2) ∧ s.mailbox.busy = false :=
  ⟨sCkEnd, ⟨1, 0x1000, 1, 0x400000, 0x800000, true, some 9, [(0x100000, 4)], [[1, 2, 3, 4]]⟩, 9, cxAt sCkEnd 1, by decide +kernel⟩
noncomputable def sOb6 : State := machine (id) (fun s => { s with observe := { s.observe with obCtx := 1, obBase := 0x100000, obSize := 64 }, partitions := [⟨1, ⟨upto 64, upto 64, upto 256, upto 64, []⟩, []⟩] })
noncomputable def sOb20 : State := machine (id) (fun s => { s with observe := { s.observe with obCtx := 1, obBase := 0x100000, obSize := 0x100000 }, partitions := [⟨1, ⟨upto 64, upto 64, upto 256, upto 64, []⟩, []⟩] })
noncomputable def sObBad : State := machine (id) (fun s => { s with observe := { s.observe with obCtx := 1, obBase := 0x100000, obSize := 32 }, partitions := [⟨1, ⟨upto 64, upto 64, upto 256, upto 64, []⟩, []⟩] })
noncomputable def sObBig : State := machine (id) (fun s => { s with observe := { s.observe with obCtx := 1, obBase := 0x100000, obSize := 0x200000 }, partitions := [⟨1, ⟨upto 64, upto 64, upto 256, upto 64, []⟩, []⟩] })
noncomputable def sObBase : State := machine (id) (fun s => { s with observe := { s.observe with obCtx := 1, obBase := 0x100020, obSize := 64 }, partitions := [⟨1, ⟨upto 64, upto 64, upto 256, upto 64, []⟩, []⟩] })
theorem witness_RingsObserved_1_1 : ∃ s : State, ∃ c : Context, s.observe.obCtx = c.id ∧ c.id < 1024 ∧ ctx? s c.id = some c ∧ ∃ k : Nat, 6 ≤ k ∧ k ≤ 20 ∧ s.observe.obSize.toNat = 2 ^ k ∧
    s.observe.obBase.toNat % 64 = 0 ∧ ownsRange s c.part s.observe.obBase.toNat (64 * 2 ^ k) = true ∧ c.pav = 0 :=
  ⟨sOb6, cxAt sOb6 1, by decide +kernel, by decide +kernel, by decide +kernel, 6, by decide +kernel⟩
theorem witness_RingsObserved_1_1_high : ∃ s : State, ∃ c : Context, s.observe.obCtx = c.id ∧ c.id < 1024 ∧ ctx? s c.id = some c ∧ ∃ k : Nat, 6 ≤ k ∧ k ≤ 20 ∧ s.observe.obSize.toNat = 2 ^ k ∧
    s.observe.obBase.toNat % 64 = 0 ∧ ownsRange s c.part s.observe.obBase.toNat (64 * 2 ^ k) = true ∧ c.pav = 0 :=
  ⟨sOb20, cxAt sOb20 1, by decide +kernel, by decide +kernel, by decide +kernel, 20, by decide +kernel⟩
theorem sObBad_size : ∀ k, 6 ≤ k → k ≤ 20 → sObBad.observe.obSize.toNat ≠ 2 ^ k := by
    intro k h6 h20
    have h : ∀ k < 21, 6 ≤ k → sObBad.observe.obSize.toNat ≠ 2 ^ k := by decide +kernel
    exact h k (Nat.lt_succ_of_le h20) h6
theorem witness_RingsObserved_1_2_low : ∃ s : State, ∃ c : Context, s.observe.obCtx = c.id ∧ c.id < 1024 ∧ ctx? s c.id = some c ∧ s.observe.obSize.toNat ≠ 0 ∧ (∀ k, 6 ≤ k → k ≤ 20 →
    s.observe.obSize.toNat ≠ 2 ^ k) :=
  ⟨sObBad, cxAt sObBad 1, by decide +kernel, by decide +kernel, by decide +kernel, by decide +kernel, sObBad_size⟩
theorem sObBig_size : ∀ k, 6 ≤ k → k ≤ 20 → sObBig.observe.obSize.toNat ≠ 2 ^ k := by
    intro k h6 h20
    have h : ∀ k < 21, 6 ≤ k → sObBig.observe.obSize.toNat ≠ 2 ^ k := by decide +kernel
    exact h k (Nat.lt_succ_of_le h20) h6
theorem witness_RingsObserved_1_2_high : ∃ s : State, ∃ c : Context, s.observe.obCtx = c.id ∧ c.id < 1024 ∧ ctx? s c.id = some c ∧ s.observe.obSize.toNat ≠ 0 ∧ (∀ k, 6 ≤ k → k ≤ 20 →
    s.observe.obSize.toNat ≠ 2 ^ k) :=
  ⟨sObBig, cxAt sObBig 1, by decide +kernel, by decide +kernel, by decide +kernel, by decide +kernel, sObBig_size⟩
theorem witness_RingsObserved_1_3 : ∃ s : State, ∃ c : Context, s.observe.obCtx = c.id ∧ c.id < 1024 ∧ ctx? s c.id = some c ∧ ∃ k : Nat, 6 ≤ k ∧ k ≤ 20 ∧ s.observe.obSize.toNat = 2 ^ k ∧
    s.observe.obBase.toNat % 64 ≠ 0 :=
  ⟨sObBase, cxAt sObBase 1, by decide +kernel, by decide +kernel, by decide +kernel, 6, by decide +kernel⟩
theorem witness_RingsObserved_1_4 : ∃ s : State, ∃ c : Context, s.observe.obCtx = c.id ∧ c.id < 1024 ∧ ctx? s c.id = some c :=
  ⟨sOb6, cxAt sOb6 1, by decide +kernel⟩
def sObNone : State := { State.reset with observe := { State.reset.observe with obCtx := 5 } }
theorem witness_RingsObserved_2_obSet : ∃ s : State, ctx? s s.observe.obCtx = none ∧ s.observe.obCtx < 1024 ∧ ∃ i : Instr, i ∈ ([.obSet, .obRead, .obTail] : List Instr) :=
  ⟨sObNone, by decide +kernel, by decide +kernel, .obSet, List.mem_of_getElem? (i := 0) rfl⟩
theorem witness_RingsObserved_2_obRead : ∃ s : State, ctx? s s.observe.obCtx = none ∧ s.observe.obCtx < 1024 ∧ ∃ i : Instr, i ∈ ([.obSet, .obRead, .obTail] : List Instr) :=
  ⟨sObNone, by decide +kernel, by decide +kernel, .obRead, List.mem_of_getElem? (i := 1) rfl⟩
theorem witness_RingsObserved_2_obTail : ∃ s : State, ctx? s s.observe.obCtx = none ∧ s.observe.obCtx < 1024 ∧ ∃ i : Instr, i ∈ ([.obSet, .obRead, .obTail] : List Instr) :=
  ⟨sObNone, by decide +kernel, by decide +kernel, .obTail, List.mem_of_getElem? (i := 2) rfl⟩
def sHist : State := { State.reset with observe := { State.reset.observe with hgClr := true, hists := [⟨0, 0, List.replicate 24 3⟩, ⟨0, 1, List.replicate 24 4⟩] } }
theorem witness_RingsObserved_3 : ∃ s : State, ∃ h : Hist, s.observe.hists.find? (fun h => h.core == s.observe.hgCore && h.quad == s.observe.hgQuad) = some h :=
  ⟨sHist, ⟨0, 0, List.replicate 24 3⟩, by decide +kernel⟩

/-! ### Registers, steps and traps -/
theorem witness_RegistersHold_1_mailbox : ∃ s : State, ∃ v : Word, ∃ p : Nat × Nat, p ∈ plainRegisters ∧ s.mailbox.cmd.length = 16 ∧ s.mailbox.busy = false ∧ s.host.hfEn = false ∧ (transBlock
    s 0).busy = false ∧ s.observe.ckRun = none ∧ s.partIf.busy = false ∧ s.pavIf.busy = false ∧ s.trust.hoBusy = false :=
  ⟨State.reset, 0xFFFFFFFF, (2, 0), by decide +kernel⟩
theorem witness_RegistersHold_1_segment : ∃ s : State, ∃ v : Word, ∃ p : Nat × Nat, p ∈ plainRegisters ∧ s.mailbox.cmd.length = 16 ∧ s.mailbox.busy = false ∧ s.host.hfEn = false ∧ (transBlock
    s 0).busy = false ∧ s.observe.ckRun = none ∧ s.partIf.busy = false ∧ s.pavIf.busy = false ∧ s.trust.hoBusy = false :=
  ⟨State.reset, 0xFFFFFFFF, (3, 4092), by decide +kernel⟩
theorem witness_RegistersHold_1_staging : ∃ s : State, ∃ v : Word, ∃ p : Nat × Nat, p ∈ plainRegisters ∧ s.mailbox.cmd.length = 16 ∧ s.mailbox.busy = false ∧ s.host.hfEn = false ∧ (transBlock
    s 0).busy = false ∧ s.observe.ckRun = none ∧ s.partIf.busy = false ∧ s.pavIf.busy = false ∧ s.trust.hoBusy = false :=
  ⟨State.reset, 0xFFFFFFFF, (6, 196), by decide +kernel⟩
theorem witness_RegistersHold_1_handover : ∃ s : State, ∃ v : Word, ∃ p : Nat × Nat, p ∈ plainRegisters ∧ s.mailbox.cmd.length = 16 ∧ s.mailbox.busy = false ∧ s.host.hfEn = false ∧ (transBlock
    s 0).busy = false ∧ s.observe.ckRun = none ∧ s.partIf.busy = false ∧ s.pavIf.busy = false ∧ s.trust.hoBusy = false :=
  ⟨State.reset, 0xFFFFFFFF, (13, 20), by decide +kernel⟩
def sPBusy : State := { State.reset with partIf := { State.reset.partIf with busy := true } }
def sVBusy : State := { State.reset with pavIf := { State.reset.pavIf with busy := true } }
def sHBusy : State := { State.reset with trust := { State.reset.trust with hoBusy := true } }
def sMBusy : State := { State.reset with mailbox := { State.reset.mailbox with busy := true } }
theorem witness_RegistersHold_2 : ∃ s : State, ∃ v : Word, ∃ off : Nat, s.partIf.busy = true :=
  ⟨sPBusy, 1, 4, by decide +kernel⟩
theorem witness_RegistersHold_3 : ∃ s : State, ∃ v : Word, ∃ off : Nat, s.pavIf.busy = true :=
  ⟨sVBusy, 1, 36, by decide +kernel⟩
theorem witness_RegistersHold_4 : ∃ s : State, ∃ v : Word, ∃ off : Nat, s.trust.hoBusy = true :=
  ⟨sHBusy, 1, 4, by decide +kernel⟩
theorem witness_RegistersHold_5 : ∃ s : State, ∃ v : Word, ∃ off : Nat, s.mailbox.busy = true ∧ off < 0x40 :=
  ⟨sMBusy, 1, 0x3C, by decide +kernel⟩
theorem witness_RegistersHold_6 : ∃ s : State, ∃ v : Word, s.mailbox.busy = false ∧ v.getLsbD 0 = true :=
  ⟨State.reset, 1, by decide +kernel⟩
theorem witness_WordsStart : ∃ s : State, ∃ x : Nat × Nat × Word × Instr, x ∈ startWords ∧ s.pavIf.busy = false ∧ s.partIf.busy = false ∧ s.trust.hoBusy = false ∧ s.observe.ckRun
    = none ∧ (transBlock s 0).busy = false :=
  ⟨State.reset, (5, 4, 1, .define), List.mem_of_getElem? (i := 0) rfl, by decide +kernel⟩
def sNopWord : State := State.reset.withFetchWord 32 (wordOf (.nop 0)).toNat
theorem witness_StepRuns_1 : ∃ s : State, ∃ core : Nat, ∃ quad : Nat, ∃ k : Nat, ∃ w : Word, ∃ i : Instr, nextMove s = .issue core quad k ∧ turnOf (beginStep s (popMove s))
    (slotKey core quad k) = .word w ∧ decode w = .ok i :=
  ⟨sNopWord, 0, 0, 0, wordOf (.nop 0), .nop 0, by decide +kernel, by decide +kernel, rfl⟩
def sEvent : State := { State.reset with agenda := [.event .frameScrub] }
theorem witness_StepRuns_2 : ∃ s : State, ∃ i : Instr, nextMove s = .event i :=
  ⟨sEvent, .frameScrub, by decide +kernel⟩
def sIdle : State := { State.reset with agenda := [.issue 5 0 0] }
theorem witness_StepRuns_3 : ∃ s : State, ∃ core : Nat, ∃ quad : Nat, ∃ k : Nat, nextMove s = .issue core quad k ∧ turnOf (beginStep s (popMove s)) (slotKey core quad k) = .idle :=
  ⟨sIdle, 5, 0, 0, by decide +kernel⟩
theorem witness_StepRuns_4 : ∃ s : State, nextMove s = .tick :=
  ⟨State.reset, by decide +kernel⟩
theorem stands_of {s : State} {sl : Slot} (h : standsB s sl = true) : Stands s sl :=
  ⟨(stands_live h).1, (stands_live h).2.1, (stands_live h).2.2.1, (stands_live h).2.2.2⟩
theorem canVector_of {s : State} (h1 : (match ctx? s 1 with | some c => decide (c.handler ≠ 0) | none => false) = true)
    (h2 : (match team? s 2 with | some tm => tm.ctx == 1 | none => false) = true)
    (h3 : (match thread? s wLane with | some th => th.handler.isNone && !inRoutine th .exit | none => false) = true) : CanVector s wLane := by
  revert h1 h2 h3
  cases h4 : ctx? s 1 with
  | none => intro h; cases h
  | some c =>
    cases h5 : team? s 2 with
    | none => intro _ h; cases h
    | some tm =>
      cases h6 : thread? s wLane with
      | none => intro _ _ h; cases h
      | some th =>
        intro h1 h2 h3
        simp only [Bool.and_eq_true, Option.isNone_iff_eq_none, Bool.not_eq_true'] at h3
        exact ⟨th, tm, c, h6, h5, by rw [eq_of_beq h2]; exact h4, of_decide_eq_true h1, h3.1, .inl h3.2⟩
/-- What holds of the one lane holds of the slot's flock. -/
theorem flock_one {P : Tid → Prop} (h : P wLane) : ∀ t ∈ wSlot.flock, P t := by
  intro t ht
  cases List.mem_singleton.mp ht
  exact h
/-- A word of the unused OP 0x3E. -/
def sIllegal : State := withHandler (State.reset.withFetchWord 32 0xF8000000)
theorem witness_IllegalWordTraps : ∃ (s : State) (core quad k : Nat) (w : Word) (e : DecodeErr), nextMove s = .issue core quad k ∧
    turnOf (beginStep s (popMove s)) (slotKey core quad k) = .word w ∧ decode w = .error e ∧
    let x := openTurn (beginStep s (popMove s)) (slotKey core quad k)
    ∃ sl, Stands x sl ∧ ∀ t ∈ sl.flock, CanVector (atIssue x sl) t :=
  ⟨sIllegal, 0, 0, 0, 0xF8000000, _, by decide +kernel, by decide +kernel, rfl, wSlot, stands_of (by decide +kernel), flock_one (canVector_of (by decide +kernel) (by decide +kernel) (by decide +kernel))⟩
/-- An ALU word in a clause of class 4. -/
noncomputable def sClass : State := turnAt (.add 1 2 3 0) (fun th => { th with pc := { th.pc with hword := 0xFC600000 } }) withHandler
theorem witness_ClassMismatchTraps : ∃ (i : Instr) (word : Word) (e : RegOp) (k : Nat), encode i = some word ∧ registerOp i = some e ∧ e.uses.cls = some k ∧
    ∃ (s : State) (sl : Slot), Stands s sl ∧ hdrClass (posOf s sl).hword ≠ 6 ∧ hdrClass (posOf s sl).hword ≠ k ∧ ∀ t ∈ sl.flock, CanVector (atIssue s sl) t :=
  ⟨.add 1 2 3 0, _, _, _, rfl, rfl, rfl, sClass, wSlot, stands_of (by decide +kernel), by decide +kernel, by decide +kernel, flock_one (canVector_of (by decide +kernel) (by decide +kernel) (by decide +kernel))⟩
/-- Register v2 is poisoned. -/
noncomputable def sPoison : State := turnAt (.add 1 2 3 0) (fun th => { th with poison := 4 }) withHandler
/-- The entry of `add v1, v2, v3`. -/
def addUses : Uses := ((registerOp (.add 1 2 3 0)).map fun e => e.uses).getD (Uses.none none)
theorem poison_lane : ∀ l, lane? (atIssue sPoison wSlot) wLane wSlot.fid (wordOf (.add 1 2 3 0)) = some l →
    stalls l addUses = false ∧ operandTrap l addUses = some ⟨.poisonRead, 2, 0⟩ := by decide +kernel
theorem witness_OperandTraps_1 : ∃ (i : Instr) (word : Word) (e : RegOp), encode i = some word ∧ registerOp i = some e ∧ ∃ (s : State) (sl : Slot) (tr : Tid → Trap), Stands s sl ∧
    staticTrap (posOf s sl) word e.uses = none ∧ rotates (posOf s sl) sl e.uses = false ∧ (∀ t ∈ lanesOf s sl e.uses, CanVector (atIssue s sl) t ∧
      ∀ l, lane? (atIssue s sl) t sl.fid word = some l → stalls l e.uses = false ∧ operandTrap l e.uses = some (tr t)) ∧
    e.uses.ban = false ∧ e.uses.lead = 0 ∧ lanesOf s sl e.uses = sl.flock :=
  ⟨.add 1 2 3 0, _, _, rfl, rfl, sPoison, wSlot, fun _ => ⟨.poisonRead, 2, 0⟩, stands_of (by decide +kernel), by decide +kernel, by decide +kernel, fun t ht => by
    have h : lanesOf sPoison wSlot addUses = [wLane] := by decide +kernel
    have ht : t ∈ lanesOf sPoison wSlot addUses := ht
    rw [h] at ht
    cases List.mem_singleton.mp ht
    exact ⟨canVector_of (by decide +kernel) (by decide +kernel) (by decide +kernel), poison_lane⟩, rfl, rfl, by decide +kernel⟩
/-- What the one lane sees. -/
noncomputable def lnOf (s : State) (h : (lane? (atIssue s wSlot) wLane 1 0).isSome = true) : Lane := got _ h
noncomputable def lnPoison : Lane := lnOf sPoison (by decide +kernel)
theorem witness_OperandTraps_2_1 : ∃ l : Lane, ∃ u : Uses, ∃ p : Nat × Nat, p ∈ u.rv ++ u.wv ∧ ((u.rv ++ u.wv).findSome? (spanBad l.g.regs) = spanBad l.g.regs p) ∧ p.1 % p.2 ≠ 0 :=
  ⟨lnPoison, { Uses.none none with rv := [(3, 2)] }, (3, 2), by decide +kernel⟩
theorem witness_OperandTraps_2_2 : ∃ l : Lane, ∃ u : Uses, ∃ p : Nat × Nat, p ∈ u.rv ++ u.wv ∧ ((u.rv ++ u.wv).findSome? (spanBad l.g.regs) = spanBad l.g.regs p) ∧ p.2 = 1 ∧ l.g.regs ≤
    p.1 :=
  ⟨lnPoison, { Uses.none none with rv := [(128, 1)] }, (128, 1), by decide +kernel⟩
theorem witness_OperandTraps_3 : ∃ l : Lane, ∃ u : Uses, ∃ n : Nat, boundsTrap l u = none ∧ u.priv = false ∧ u.rv = [(n, 1)] ∧ l.th.poison.getLsbD n = true :=
  ⟨lnPoison, { Uses.none none with rv := [(2, 1)] }, 2, by decide +kernel⟩
noncomputable def s_rdpriv : State := turnAt (.rdpriv 1 2 0) id withHandler
theorem witness_PrivilegeTraps_rdpriv : ∃ (d : BitVec 7) (a : BitVec 6) (st : BitVec 2) (word : Word) (i : Instr) (u : Uses),
    ((i = .rdpriv d a st ∧ u = { Uses.none cCtrl with wv := [(d.toNat, 1)], priv := true }) ∨ (i = .wrpriv d a st ∧ u = { Uses.none cCtrl with rv := [(d.toNat, 1)], priv := true, lead := 1 })) ∧
    encode i = some word ∧ ∃ (s : State) (sl : Slot) (t : Tid), Stands s sl ∧ staticTrap (posOf s sl) word u = none ∧ rotates (posOf s sl) sl u = false ∧
    checkers u (lanesOf s sl u) = [t] ∧ CanVector (atIssue s sl) t ∧ recFlag (atIssue s sl) t.team 6 = false ∧
    (∀ k ∈ lanesOf s sl u, ∀ l, lane? (atIssue s sl) k sl.fid word = some l → stalls l u = false ∧ boundsTrap l u = none) :=
  ⟨1, 2, 0, _, .rdpriv 1 2 0, { Uses.none cCtrl with wv := [(1, 1)], priv := true }, .inl ⟨rfl, rfl⟩, rfl, s_rdpriv, wSlot, wLane, stands_of (by decide +kernel), by decide +kernel, by decide +kernel, by decide +kernel, canVector_of (by decide +kernel) (by decide +kernel) (by decide +kernel), by decide +kernel, by decide +kernel⟩
noncomputable def s_wrpriv : State := turnAt (.wrpriv 1 2 0) id withHandler
theorem witness_PrivilegeTraps_wrpriv : ∃ (d : BitVec 7) (a : BitVec 6) (st : BitVec 2) (word : Word) (i : Instr) (u : Uses),
    ((i = .rdpriv d a st ∧ u = { Uses.none cCtrl with wv := [(d.toNat, 1)], priv := true }) ∨ (i = .wrpriv d a st ∧ u = { Uses.none cCtrl with rv := [(d.toNat, 1)], priv := true, lead := 1 })) ∧
    encode i = some word ∧ ∃ (s : State) (sl : Slot) (t : Tid), Stands s sl ∧ staticTrap (posOf s sl) word u = none ∧ rotates (posOf s sl) sl u = false ∧
    checkers u (lanesOf s sl u) = [t] ∧ CanVector (atIssue s sl) t ∧ recFlag (atIssue s sl) t.team 6 = false ∧
    (∀ k ∈ lanesOf s sl u, ∀ l, lane? (atIssue s sl) k sl.fid word = some l → stalls l u = false ∧ boundsTrap l u = none) :=
  ⟨1, 2, 0, _, .wrpriv 1 2 0, { Uses.none cCtrl with rv := [(1, 1)], priv := true, lead := 1 }, .inr ⟨rfl, rfl⟩, rfl, s_wrpriv, wSlot, wLane, stands_of (by decide +kernel), by decide +kernel, by decide +kernel, by decide +kernel, canVector_of (by decide +kernel) (by decide +kernel) (by decide +kernel), by decide +kernel, by decide +kernel⟩
/-- The context has no handler. -/
noncomputable def sBrk : State := turnAt (.brk 0) id id
theorem witness_TrapStops : ∃ (st : BitVec 2) (word : Word), encode (.brk st) = some word ∧ ∃ (s : State) (sl : Slot) (t : Tid) (l : Lane) (c : Context) (g : Grid),
    Ready s sl word (Uses.none cCtrl) noHold ∧ sl.flock = [t] ∧ lanesOf s sl (Uses.none cCtrl) = [t] ∧ lane? (atIssue s sl) t sl.fid word = some l ∧ ctx? s l.tm.ctx = some c ∧
    c.handler = 0 ∧ l.th.routine = none ∧ l.tm.state = .resident ∧ l.tm.discarded = false ∧ l.tm.fork = none ∧ l.tm.setIdx = none ∧
    recFlag (atIssue s sl) t.team 1 = false ∧ grid? s l.tm.grid = some g :=
  ⟨0, wordOf (.brk 0), rfl, sBrk, wSlot, wLane, got (lane? (atIssue sBrk wSlot) wLane 1 (wordOf (.brk 0))) (by decide +kernel), cxAt sBrk 1, gdAt sBrk 1, ready_of (by decide +kernel), rfl, by decide +kernel,
    got_of (by decide +kernel), by decide +kernel, by decide +kernel, by decide +kernel, by decide +kernel, by decide +kernel, by decide +kernel, by decide +kernel, by decide +kernel, by decide +kernel⟩
theorem witness_IssueKeepsDevice : ∃ (i : Instr) (w : Word) (s r : State), encode i = some w ∧ exec i s = .next r := ⟨.nop 0, _, sNop, _, rfl, rfl⟩
/-- A page fault of context 1. -/
def wFault : FaultRec := ⟨1, false, false, 8, 0, 0, 0, 0, 0, 0, 0x20004, 0, 0⟩
noncomputable def sFlt : State := machine (id) (withCtx fun c => { c with faultEntries := 4 })
theorem witness_FaultVectorRises_1 : ∃ s : State, ∃ r : FaultRec, ∃ c : Context, r.stage2 = false ∧ ctx? s r.ctx = some c :=
  ⟨sFlt, wFault, cxAt sFlt 1, by decide +kernel⟩
noncomputable def sDue : State := machine (id) (fun s => { withCtx (fun c => { c with faultDue := true, faultTick := some 200 }) s with time := 1000 })
theorem witness_FaultVectorRises_2 : ∃ s : State, ∃ c : Context, ctx? s c.id = some c ∧ c.faultDue = true ∧ (∀ t, c.faultTick = some t → t + 800 ≤ s.time) :=
  ⟨sDue, cxAt sDue 1, by decide +kernel⟩
noncomputable def sSoon : State := machine (id) (fun s => { withCtx (fun c => { c with faultDue := true, faultTick := some 200 }) s with time := 999 })
theorem witness_FaultVectorRises_3 : ∃ s : State, ∃ c : Context, ∃ t : Nat, ctx? s c.id = some c ∧ c.faultTick = some t ∧ s.time < t + 800 :=
  ⟨sSoon, cxAt sSoon 1, 200, by decide +kernel⟩
noncomputable def sFull : State := machine (id) (withCtx fun c => { c with faultHead := 1 })
theorem witness_LostRecordCounts : ∃ s : State, ∃ r : FaultRec, ∃ c : Context, r.stage2 = false ∧ ctx? s r.ctx = some c ∧ (c.faultHead + 2 ^ 32 - Memory.readLe s.hostMem (c.faultBase +
    4) 4) % 2 ^ 32 = c.faultEntries :=
  ⟨sFull, wFault, cxAt sFull 1, by decide +kernel⟩
/-- A signal word in region 1. -/
noncomputable def sRegion : State := turnAt (.waitExt 2 1 1 0) id (withHandler ∘ withB [(1, 0x10000000000000000000)])
def regionUses : Uses := { Uses.none cCtrl with rv := [(2, 2)], rb := [1], rs := [1], ban := true }
theorem region_lane : ∀ l, lane? (atIssue sRegion wSlot) wLane wSlot.fid (wordOf (.waitExt 2 1 1 0)) = some l →
    ((rdB l.tm l.th 1).toNat + (rdS l.g 1).toNat) % 2 ^ 80 % 8 = 0 ∧ regionNo (((rdB l.tm l.th 1).toNat + (rdS l.g 1).toNat) % 2 ^ 80) ≠ 0 := by decide +kernel
theorem witness_SignalWordRegion : ∃ (d : BitVec 7) (a b : BitVec 6) (st : BitVec 2) (word : Word), encode (.waitExt d a b st) = some word ∧ ∃ (s : State) (sl : Slot),
    let u : Uses := { Uses.none cCtrl with rv := [(d.toNat, 2)], rb := [a.toNat], rs := [b.toNat], ban := true }
    Ready s sl word u (memHold 0 fun l => some (((rdB l.tm l.th a.toNat).toNat + (rdS l.g b.toNat).toNat) % 2 ^ 80)) ∧ lanesOf s sl u = sl.flock ∧
      ∀ t ∈ sl.flock, CanVector (atIssue s sl) t ∧ ∀ l, lane? (atIssue s sl) t sl.fid word = some l →
        let va := ((rdB l.tm l.th a.toNat).toNat + (rdS l.g b.toNat).toNat) % 2 ^ 80
        va % 8 = 0 ∧ regionNo va ≠ 0 :=
  ⟨2, 1, 1, 0, _, rfl, sRegion, wSlot, ready_of (by decide +kernel), by decide +kernel, flock_one ⟨canVector_of (by decide +kernel) (by decide +kernel) (by decide +kernel), region_lane⟩⟩
/-- A mask without the lane's own bit. -/
noncomputable def sSetgm : State := turnAt (.setgm 1 0) id withHandler
theorem mask_lane : ∀ l, lane? (atIssue sSetgm wSlot) wLane wSlot.fid (wordOf (.setgm 1 0)) = some l → (rdV l.th 1).getLsbD 0 = false := by decide +kernel
theorem witness_GroupMaskSet_1 : ∃ (a : BitVec 7) (st : BitVec 2) (word : Word), encode (.setgm a st) = some word ∧ ∃ (s : State) (sl : Slot),
    let u : Uses := { Uses.none cLong with rv := [(a.toNat, 1)] }
    Ready s sl word u noHold ∧ lanesOf s sl u = sl.flock ∧
      ∀ t ∈ sl.flock, CanVector (atIssue s sl) t ∧ ∀ l, lane? (atIssue s sl) t sl.fid word = some l → (rdV l.th a.toNat).getLsbD t.lane = false :=
  ⟨1, 0, _, rfl, sSetgm, wSlot, ready_of (by decide +kernel), by decide +kernel, flock_one ⟨canVector_of (by decide +kernel) (by decide +kernel) (by decide +kernel), mask_lane⟩⟩
theorem witness_GroupMaskSet_2 : MeetsTurn (fun i => match i with | .setgm _ _ => specialOp i | _ => none) (.setgm 1 0) (turnAt (.setgm 1 0) (withV [(1, 1)]) id) :=
  ⟨_, _, rfl, rfl, ready_of (by decide +kernel), trivial, fun t ht l hl h => by revert t l; decide +kernel⟩

/-! ### The invariants and the round trip -/

theorem witness_EncodingRoundTrips : ∃ i : Instr, i.wf = true ∧ ∃ w, encode i = some w := ⟨.add 127 126 125 3, rfl, _, rfl⟩
theorem witness_StepKeepsMemory : ∃ s r : State, MemoryCanonical s ∧ Sys2Proof.Machine.step s = .next r := ⟨sNopWord, _, by unfold MemoryCanonical; decide +kernel, rfl⟩
theorem witness_StepKeepsFlocks : ∃ s r : State, FlocksWellFormed s ∧ Sys2Proof.Machine.step s = .next r := ⟨sNopWord, _, by unfold FlocksWellFormed; decide +kernel, rfl⟩

end Sys2Proof.Tests
end

section
/-! SUPPORT. Memory read after written spans, contexts after an update, raised vectors and audit entries: each said once. -/

namespace Sys2Proof.Proofs

open Machine Claims Laws

/-! ### Bytes and memory -/

@[simp] theorem leBytes_length : ∀ n v : Nat, (leBytes n v).length = n
  | 0, _ => rfl
  | n + 1, v => by simp [leBytes, leBytes_length n]

/-- The little-endian bytes of a value read back as that value, cut to their number. -/
theorem leNat_leBytes : ∀ n v : Nat, leNat (leBytes n v) = v % 256 ^ n
  | 0, v => by simp [leBytes, leNat, Nat.mod_one]
  | n + 1, v => by
    have h : v % 256 ^ (n + 1) = v % 256 + 256 * (v / 256 % 256 ^ n) := by
      rw [Nat.pow_succ', Nat.mod_mul]
    simp [leBytes, leNat, leNat_leBytes n, h]

@[simp] theorem readN_length (m : Memory) (a n : Nat) : (Memory.readN m a n).length = n := by simp [Memory.readN, upto]

/-- A byte before or after a written span is as it was. -/
theorem read_writeN_apart : ∀ (bs : List Byte) (m : Memory) (a x : Nat), Memory.wf m = true → x < a ∨ a + bs.length ≤ x →
    Memory.read (Memory.writeN m a bs) x = Memory.read m x
  | [], _, _, _, _, _ => rfl
  | b :: bs, m, a, x, hm, hx => by
    simp only [List.length_cons] at hx
    rw [Memory.writeN, read_writeN_apart bs _ _ _ (write_wf m a b hm) (by omega), read_write_other m a x b hm (by omega)]

/-- A byte of a written span. -/
theorem read_writeN_inside : ∀ (bs : List Byte) (m : Memory) (a i : Nat), Memory.wf m = true → (h : i < bs.length) →
    Memory.read (Memory.writeN m a bs) (a + i) = bs[i]
  | b :: bs, m, a, 0, hm, _ => by
    rw [Memory.writeN, read_writeN_apart bs _ _ _ (write_wf m a b hm) (by omega)]
    exact read_write_same m a b hm
  | b :: bs, m, a, i + 1, hm, h => by
    rw [Memory.writeN, show a + (i + 1) = a + 1 + i by omega]
    exact read_writeN_inside bs _ (a + 1) i (write_wf m a b hm) (by simpa using h)

/-- A span within a written one reads as that part of the bytes. -/
theorem readN_writeN_inside (bs : List Byte) (m : Memory) (a i n : Nat) (hm : Memory.wf m = true) (h : i + n ≤ bs.length) :
    Memory.readN (Memory.writeN m a bs) (a + i) n = (bs.drop i).take n := by
  apply List.ext_getElem
  · simp; omega
  · intro j hj _
    rw [readN_length] at hj
    have hr := read_writeN_inside bs m a (i + j) hm (by omega)
    simpa [Memory.readN, upto, Nat.add_assoc] using hr

/-- A written span reads back. -/
theorem readN_writeN_same (bs : List Byte) (m : Memory) (a : Nat) (hm : Memory.wf m = true) :
    Memory.readN (Memory.writeN m a bs) a bs.length = bs := by
  simpa using readN_writeN_inside bs m a 0 bs.length hm (by simp)

/-- A span that starts behind a written one is as it was. -/
theorem readN_writeN_behind (bs : List Byte) (m : Memory) (a x n : Nat) (hm : Memory.wf m = true) (h : a + bs.length ≤ x) :
    Memory.readN (Memory.writeN m a bs) x n = Memory.readN m x n :=
  List.map_congr_left fun _ _ => read_writeN_apart bs m a _ hm (by omega)

/-! ### Contexts after an update -/

theorem ctx_modCtx (s : State) (id k : Nat) (f : Context → Context) (hf : ∀ c, (f c).id = c.id) :
    ctx? (modCtx s id f) k = if k = id then (ctx? s k).map f else ctx? s k := by
  simp only [ctx?, modCtx]
  rw [find_updWhere _ _ _ (by intro c; simp [hf])]
  cases hx : s.contexts.find? (fun c => c.id == k) with
  | none => simp
  | some c =>
    have hc : c.id = k := by simpa using List.find?_some hx
    by_cases h : k = id <;> simp [hc, h]

/-- The context that an update names. -/
theorem ctx_modCtx_same {s : State} {id : Nat} {c : Context} (h : ctx? s id = some c) (f : Context → Context) (hf : ∀ c, (f c).id = c.id) :
    ctx? (modCtx s id f) id = some (f c) := by
  rw [ctx_modCtx s id id f hf, if_pos rfl, h, Option.map_some]

/-- An update that keeps every context's pavilion keeps the pavilion that each number stands for. -/
theorem ctxPav_modCtx (s : State) (id k : Nat) (f : Context → Context) (hf : ∀ c, (f c).id = c.id) (hp : ∀ c, (f c).pav = c.pav) :
    ctxPav (modCtx s id f) k = ctxPav s k := by
  simp only [ctxPav, ctx_modCtx s id k f hf]
  by_cases h : k = id
  · cases ctx? s k <;> simp [h, hp]
  · rw [if_neg h]

/-! ### Vectors (R38) -/

/-- Raising a vector changes the host's side only. -/
theorem raiseVector_frame (s : State) (fn vec : Nat) : raiseVector s fn vec = { s with host := (raiseVector s fn vec).host } := by
  unfold raiseVector
  split
  · rfl
  · split
    · split <;> rfl
    · rfl

@[simp] theorem raiseVector_contexts (s : State) (fn vec : Nat) : (raiseVector s fn vec).contexts = s.contexts := by rw [raiseVector_frame]
@[simp] theorem raiseVector_observe (s : State) (fn vec : Nat) : (raiseVector s fn vec).observe = s.observe := by rw [raiseVector_frame]
@[simp] theorem raiseVector_mem (s : State) (fn vec : Nat) : (raiseVector s fn vec).mem = s.mem := by rw [raiseVector_frame]
@[simp] theorem raiseVector_trust (s : State) (fn vec : Nat) : (raiseVector s fn vec).trust = s.trust := by rw [raiseVector_frame]
@[simp] theorem raiseVector_time (s : State) (fn vec : Nat) : (raiseVector s fn vec).time = s.time := by rw [raiseVector_frame]
@[simp] theorem raiseVector_mailbox (s : State) (fn vec : Nat) : (raiseVector s fn vec).mailbox = s.mailbox := by rw [raiseVector_frame]

/-- Raising a vector is the message or the pending bit of R38. -/
theorem rings_raiseVector (s : State) (fn vec : Nat) : Rings s (raiseVector s fn vec) fn vec := by
  unfold raiseVector
  by_cases hv : vectorsOf fn ≤ vec
  · rw [if_pos hv]
    exact ⟨fun h => absurd h (by omega), fun h => absurd h (by omega), fun _ => ⟨rfl, rfl⟩⟩
  rw [if_neg hv]
  by_cases hm : (s.host.masked.contains (fn, vec) || !linkUp s fn) = true
  · rw [if_pos hm]
    have hheld : (fn, vec) ∈ s.host.masked ∨ linkUp s fn = false := by simpa using hm
    refine ⟨fun _ h1 h2 => ?_, fun _ _ => ?_, fun h => absurd h hv⟩
    · rcases hheld with h | h
      · exact absurd h h1
      · rw [h] at h2; cases h2
    · split
      · next hp => exact ⟨rfl, by simpa using hp⟩
      · exact ⟨rfl, List.mem_cons_self⟩
  · rw [if_neg hm]
    have hfree : (fn, vec) ∉ s.host.masked ∧ linkUp s fn = true := by simpa using hm
    refine ⟨fun _ _ _ => ⟨rfl, rfl⟩, fun _ h => ?_, fun h => absurd h hv⟩
    rcases h with h | h
    · exact absurd h hfree.1
    · rw [hfree.2] at h; cases h

/-- A vector speaks of the host's side only: what else changed before and after it does not matter. -/
theorem rings_of_host {s x r : State} {fn vec : Nat} (hx : x.host = s.host) (hr : r.host = (raiseVector x fn vec).host) : Rings s r fn vec := by
  have h := rings_raiseVector x fn vec
  simpa only [Rings, linkUp, hx, hr] using h

/-! ### The audit log (R69, R70) -/

theorem signHead_frame (s : State) : signHead s = { s with trust := (signHead s).trust } := by
  unfold signHead
  split <;> rfl

theorem signHead_keeps (s : State) : (signHead s).trust.audit = s.trust.audit ∧ (signHead s).trust.nextSeq = s.trust.nextSeq := by
  unfold signHead
  split <;> exact ⟨rfl, rfl⟩

theorem appendEntry_frame (s : State) (source code ctx part : Nat) (detail : List Byte) :
    appendEntry s source code ctx part detail = { s with trust := (appendEntry s source code ctx part detail).trust } := by
  by_cases hn : (s.trust.nextSeq % 1024 == 1023) = true <;> simp only [appendEntry, hn, if_true]
  · exact signHead_frame _
  · rfl

/-- An audit entry changes the root of trust only. -/
theorem audit_frame (s : State) (source code ctx part : Nat) (detail : List Byte) :
    audit s source code ctx part detail = { s with trust := (audit s source code ctx part detail).trust } := by
  unfold audit
  split
  · exact appendEntry_frame ..
  · rw [appendEntry_frame, appendEntry_frame]

@[simp] theorem audit_contexts (s : State) (source code ctx part : Nat) (detail : List Byte) :
    (audit s source code ctx part detail).contexts = s.contexts := by rw [audit_frame]
@[simp] theorem audit_observe (s : State) (source code ctx part : Nat) (detail : List Byte) :
    (audit s source code ctx part detail).observe = s.observe := by rw [audit_frame]
@[simp] theorem audit_mem (s : State) (source code ctx part : Nat) (detail : List Byte) :
    (audit s source code ctx part detail).mem = s.mem := by rw [audit_frame]
@[simp] theorem audit_host (s : State) (source code ctx part : Nat) (detail : List Byte) :
    (audit s source code ctx part detail).host = s.host := by rw [audit_frame]
@[simp] theorem audit_mailbox (s : State) (source code ctx part : Nat) (detail : List Byte) :
    (audit s source code ctx part detail).mailbox = s.mailbox := by rw [audit_frame]

/-- An appended entry stands first in the log, numbered and timed. -/
theorem appendEntry_head (s : State) (source code ctx part : Nat) (detail : List Byte) :
    ∃ e l, (appendEntry s source code ctx part detail).trust.audit = e :: l ∧ e.seq = s.trust.nextSeq ∧ e.time = s.time ∧ e.source = source ∧
      e.code = code ∧ e.ctx = ctx ∧ e.part = part ∧ e.detail = (detail ++ List.replicate 40 0#8).take 40 ∧
      (appendEntry s source code ctx part detail).trust.nextSeq = s.trust.nextSeq + 1 ∧
      e.chain = Config.sha512 (leBytes 64 (chainHead s).toNat ++ entryBytes e.seq e.time source code ctx part e.detail) := by
  by_cases hn : (s.trust.nextSeq % 1024 == 1023) = true <;> simp only [appendEntry, hn, if_true]
  · simp only [signHead_keeps]
    exact ⟨_, _, rfl, rfl, rfl, rfl, rfl, rfl, rfl, rfl, trivial, rfl⟩
  · exact ⟨_, _, rfl, rfl, rfl, rfl, rfl, rfl, rfl, rfl, rfl, rfl⟩

theorem logs_audit (s : State) (source code ctx part : Nat) (detail : List Byte) :
    Logs s (audit s source code ctx part detail) source code ctx part detail := by
  intro h
  simp only [audit, h]
  exact appendEntry_head s source code ctx part detail

/-- An entry speaks of the log and of device time only. -/
theorem logs_of_trust {s x r : State} {source code ctx part : Nat} {detail : List Byte} (hx : x.trust = s.trust) (ht : x.time = s.time)
    (hr : r.trust = (audit x source code ctx part detail).trust) : Logs s r source code ctx part detail := by
  have h := logs_audit x source code ctx part detail
  simpa only [Logs, chainHead, hx, ht, hr] using h

end Sys2Proof.Proofs
end

section
/-! SUPPORT. What a suspension leaves alone, and what the committed bytes do not depend on. -/

namespace Sys2Proof.Proofs

open Machine Claims Laws

/-! ### Suspension of a context without forks (R34, R173) -/

/-- What a pre-emption may change where no fork is under way: the teams, the flocks, the granule queues and the pending launches. -/
def OnlyTeamwork (a b : State) : Prop :=
  b = { a with teams := b.teams, slots := b.slots, waiters := b.waiters, launches := b.launches, forks := b.forks } ∧ (a.forks = [] → b.forks = [])

theorem OnlyTeamwork.refl (a : State) : OnlyTeamwork a a := ⟨rfl, id⟩

theorem OnlyTeamwork.trans {a b c : State} (h : OnlyTeamwork a b) (k : OnlyTeamwork b c) : OnlyTeamwork a c :=
  ⟨by rw [k.1, h.1], k.2 ∘ h.2⟩

theorem leaveChoice_teamwork (s : State) (t : Team) : OnlyTeamwork s (leaveChoice s t) := by
  unfold leaveChoice
  split
  · exact .refl s
  · exact ⟨rfl, fun h => by simp [modFork, updWhere, h]⟩

theorem cutTeam_teamwork (s : State) (id : Nat) (why : PreemptWhy) : OnlyTeamwork s (cutTeam s id why) := by
  unfold cutTeam
  split
  · exact .refl s
  · next t _ =>
    let x := leaveGranules { s with slots := s.slots.map fun sl => { sl with flock := sl.flock.filter (fun k => k.team ≠ id) } } id
    have h : OnlyTeamwork s (leaveChoice x t) := .trans (b := x) ⟨rfl, fun h => h⟩ (leaveChoice_teamwork x t)
    exact h.trans ⟨rfl, fun h => h⟩

/-- A request to a team of a machine without forks cuts that team or does nothing. -/
theorem requestTeam_teamwork {s : State} (hf : s.forks = []) (id : Nat) (why : PreemptWhy) : OnlyTeamwork s (requestTeam s id why) := by
  have hnone : ∀ t : Team, t.fork.bind (fork? s) = none := by
    intro t
    cases t.fork <;> simp [fork?, hf]
  unfold requestTeam
  split
  · exact .refl s
  · next t _ =>
    rw [hnone t]
    split
    · exact .refl s
    · dsimp only
      split
      · exact .refl s
      · exact cutTeam_teamwork s id why

theorem requestTeams_teamwork (why : PreemptWhy) : ∀ (ts : List Team) (s : State), s.forks = [] →
    OnlyTeamwork s (ts.foldl (fun s t => requestTeam s t.id why) s)
  | [], s, _ => .refl s
  | t :: ts, s, hf => by
    have h := requestTeam_teamwork hf t.id why
    exact h.trans (requestTeams_teamwork why ts _ (h.2 hf))

/-- A context as a suspension by `who` leaves it. -/
def suspendedCtx (who : Nat) (c : Context) : Context :=
  { c with suspended := true, suspendedBy := if c.suspendedBy.contains who then c.suspendedBy else c.suspendedBy ++ [who] }

theorem suspendCtx_teamwork {s : State} (hf : s.forks = []) (ctx who : Nat) :
    OnlyTeamwork (modCtx s ctx (suspendedCtx who)) (suspendCtx s ctx who) :=
  requestTeams_teamwork .suspend _ _ hf

@[simp] theorem mem_suspendedBy (who : Nat) (c : Context) : who ∈ (suspendedCtx who c).suspendedBy := by
  simp only [suspendedCtx]
  split
  · next h => simpa using h
  · simp

/-! ### What the committed state shows (R156, R218) -/

/-- The state with other contexts and other registers of checkpoint and observation. -/
def withRegs (s : State) (cs : List Context) (o : Observe) : State := { s with contexts := cs, observe := o }

@[simp] theorem withRegs_views (s : State) (cs : List Context) (o : Observe) : (withRegs s cs o).views = s.views := rfl
@[simp] theorem withRegs_versions (s : State) (cs : List Context) (o : Observe) : (withRegs s cs o).versions = s.versions := rfl

/-- The committed bytes do not see the exchange: each context's pavilion and the dump region stay. -/
structure SameHome (s : State) (cs : List Context) (o : Observe) : Prop where
  pav : ∀ c, ctxPav (withRegs s cs o) c = ctxPav s c
  dump : o.dump = s.observe.dump
  base : o.dumpBase = s.observe.dumpBase

/-- An operation that keeps contexts and registers keeps what the exchange may not touch. -/
theorem SameHome.keep {s x : State} {cs : List Context} {o : Observe} (h : SameHome s cs o) (hc : x.contexts = s.contexts) (ho : x.observe = s.observe) :
    SameHome x cs o :=
  ⟨fun c => by simpa only [ctxPav, ctx?, withRegs, hc] using h.pav c, by rw [ho]; exact h.dump, by rw [ho]; exact h.base⟩

/-- `x` and `y` are what an operation that neither reads nor writes what is exchanged makes of `s` and of `s` after the exchange. -/
structure Blind (cs : List Context) (o : Observe) (s x y : State) : Prop where
  contexts : x.contexts = s.contexts
  observe : x.observe = s.observe
  comm : y = withRegs x cs o

theorem foldl_blind {α : Type} {cs : List Context} {o : Observe} (g : State → α → State)
    (hg : ∀ s a, SameHome s cs o → Blind cs o s (g s a) (g (withRegs s cs o) a)) :
    ∀ (l : List α) (s : State), SameHome s cs o → Blind cs o s (l.foldl g s) (l.foldl g (withRegs s cs o))
  | [], _, _ => ⟨rfl, rfl, rfl⟩
  | a :: l, s, h => by
    obtain ⟨c1, c2, c3⟩ := hg s a h
    obtain ⟨i1, i2, i3⟩ := foldl_blind g hg l (g s a) (h.keep c1 c2)
    exact ⟨i1.trans c1, i2.trans c2, by simp only [List.foldl_cons, c3, i3]⟩

theorem reseal_blind (cs : List Context) (o : Observe) (s : State) (pav line : Nat) (changed : Bool) : 
    Blind cs o s (reseal s pav line changed) (reseal (withRegs s cs o) pav line changed) := by
  have hp : pav? (withRegs s cs o) pav = pav? s pav := rfl
  cases h : pav? s pav <;> constructor <;> simp only [reseal, hp, h]
  all_goals rfl

theorem commitLine_blind {cs : List Context} {o : Observe} {s : State} (h : SameHome s cs o) (ctx line : Nat) (f : Memory → Memory) :
    Blind cs o s (commitLine s ctx line f) (commitLine (withRegs s cs o) ctx line f) := by
  have hpav := h.pav ctx
  have hr : inRing (withRegs s cs o) (line * 64) 64 = inRing s (line * 64) 64 := rfl
  have hdirty : noteDirty (withRegs s cs o) ctx line = withRegs (noteDirty s ctx line) cs o := rfl
  have hseal : sealOf (withRegs (noteDirty s ctx line) cs o) line = sealOf (noteDirty s ctx line) line := rfl
  have hre := reseal_blind cs o { noteDirty s ctx line with mem := f (noteDirty s ctx line).mem } (ctxPav s ctx) line
  cases hring : inRing s (line * 64) 64 with
  | true => constructor <;> simp only [commitLine, hr, hring, if_true]
  | false =>
    cases hs : sealOf (noteDirty s ctx line) line with
    | none =>
      cases hp : ctxPav s ctx == 0 <;> constructor <;>
        simp only [commitLine, hr, hring, hpav, hdirty, hseal, hs, hp, if_true, Bool.false_eq_true, if_false]
      case false.contexts => exact (hre false).contexts
      case false.observe => exact (hre false).observe
      case false.comm => exact (hre false).comm
      all_goals rfl
    | some r =>
      cases hp : r.pav == ctxPav s ctx with
      | true =>
        constructor <;> simp only [commitLine, hr, hring, hpav, hdirty, hseal, hs, hp, if_true, Bool.false_eq_true, if_false]
        · exact (hre r.changed).contexts
        · exact (hre r.changed).observe
        · exact (hre r.changed).comm
      | false =>
        cases hc : r.changed <;> constructor <;>
          simp only [commitLine, hr, hring, hpav, hdirty, hseal, hs, hp, hc, if_true, Bool.false_eq_true, if_false]
        all_goals rfl

theorem mergeVersion_blind {cs : List Context} {o : Observe} {s : State} (h : SameHome s cs o) (v : Version) : 
    Blind cs o s (mergeVersion s v) (mergeVersion (withRegs s cs o) v) := by
  have hparent : viewParent (withRegs s cs o) v.tag = viewParent s v.tag := rfl
  cases hp : viewParent s v.tag == 0 with
  | true =>
    have hc := commitLine_blind (h.keep (x := { s with versions := s.versions.filter (fun w => !(w.tag == v.tag && w.line == v.line)) }) rfl rfl)
      v.ctx v.line fun m => v.bytes.foldl (fun m x => Memory.write m (v.line * 64 + x.1) x.2) m
    constructor <;> simp only [mergeVersion, hparent, hp, if_true]
    · exact hc.contexts
    · exact hc.observe
    · exact hc.comm
  | false =>
    cases hv : (s.versions.filter (fun w => !(w.tag == v.tag && w.line == v.line))).any (fun w => w.tag == viewParent s v.tag && w.line == v.line) <;>
      constructor <;> simp only [mergeVersion, hparent, withRegs_versions, hp, hv, if_true, Bool.false_eq_true, if_false]
    all_goals rfl

theorem mergeLine_blind {cs : List Context} {o : Observe} {s : State} (h : SameHome s cs o) (line : Nat) : 
    Blind cs o s (mergeLine s line) (mergeLine (withRegs s cs o) line) := by
  refine foldl_blind (fun s d => (aliasedAt s line d).foldl mergeVersion s) (fun s d h => ?_) _ s h
  exact foldl_blind mergeVersion (fun s v h => mergeVersion_blind h v) (aliasedAt s line d) s h

theorem resolveTag_withRegs (cs : List Context) (o : Observe) (s : State) : ∀ n tag, resolveTag (withRegs s cs o) n tag = resolveTag s n tag
  | 0, _ => rfl
  | n + 1, tag => by
    have hv : view? (withRegs s cs o) tag = view? s tag := rfl
    simp only [resolveTag, hv, resolveTag_withRegs cs o s n]

theorem viewChain_withRegs (cs : List Context) (o : Observe) (s : State) : ∀ n tag, viewChain (withRegs s cs o) n tag = viewChain s n tag
  | 0, _ => rfl
  | n + 1, tag => by
    have hv : ∀ t, viewParent (withRegs s cs o) t = viewParent s t := fun _ => rfl
    simp only [viewChain, hv, withRegs_views, viewChain_withRegs cs o s n, resolveTag_withRegs]

theorem homeByte_withRegs {cs : List Context} {o : Observe} {s : State} (h : SameHome s cs o) (a : Nat) : homeByte (withRegs s cs o) a = homeByte s a := by
  have hr : inRing (withRegs s cs o) a 1 = inRing s a 1 := rfl
  have hd : inDump (withRegs s cs o) a 1 = inDump s a 1 := by simp only [inDump, withRegs, h.base]
  have hb : ringByte (withRegs s cs o) (a - (withRegs s cs o).trust.logBase) = ringByte s (a - s.trust.logBase) := rfl
  simp only [homeByte, hr, hd, hb]
  simp only [withRegs, h.dump, h.base]

theorem chainByte_withRegs {cs : List Context} {o : Observe} {s : State} (h : SameHome s cs o) (a : Nat) :
    ∀ tags, chainByte (withRegs s cs o) tags a = chainByte s tags a
  | [] => homeByte_withRegs h a
  | t :: tags => by
    have ih := chainByte_withRegs h a tags
    simp only [chainByte] at ih
    simp only [chainByte, chainByteOn, withRegs_versions, ih]

theorem visible_withRegs {cs : List Context} {o : Observe} {s : State} (h : SameHome s cs o) (view a n : Nat) :
    visible (withRegs s cs o) view a n = visible s view a n := by
  obtain ⟨b1, b2, b3⟩ := mergeLine_blind h (a / 64)
  have hm := h.keep b1 b2
  simp only [visible, b3, chainOf, withRegs_views, viewChain_withRegs, resolveTag_withRegs, chainByte_withRegs hm]

theorem homeLe_withRegs {cs : List Context} {o : Observe} {s : State} (h : SameHome s cs o) (a n : Nat) : homeLe (withRegs s cs o) a n = homeLe s a n := by
  simp only [homeLe, homeBytes, visible_withRegs h]

/-- The choice of a slot looks at the committed bytes only. -/
theorem takesSlot1_withRegs {cs : List Context} {o : Observe} {s : State} (h : SameHome s cs o) (a b : Nat) :
    takesSlot1 (withRegs s cs o) a b = takesSlot1 s a b := by
  simp only [takesSlot1, stagedSeq, homeLe_withRegs h]

end Sys2Proof.Proofs
end

section
/-! PROOF. Checkpoints, rings and histograms (R231 to R236, R240 to R242). -/

namespace Sys2Proof.Proofs

open Machine Claims Laws

/-! ### What the device steps of this chapter are -/

theorem exec_checkpointStart (s : State) : exec .checkpointStart s = .next (ckStart s) := rfl
theorem exec_arm (s : State) : exec .arm s = .next (ckArm s) := rfl
theorem exec_disarm (s : State) : exec .disarm s = .next (ckDisarm s) := rfl
theorem exec_checkpointWarning (s : State) : exec .checkpointWarning s = execCheckpointWarning s := rfl
theorem exec_checkpointTick (s : State) : exec .checkpointTick s = execCheckpointTick s := rfl
theorem exec_stagedCommit (s : State) : exec .stagedCommit s = execStagedCommit s := rfl
theorem exec_obSet (s : State) : exec .obSet s = .next (obSet s) := rfl
theorem exec_obRead (s : State) : exec .obRead s = .next (obRead s) := rfl
theorem exec_obTail (s : State) : exec .obTail s = .next (obSetTail s) := rfl
theorem exec_hist (s : State) : exec .hist s = .next (obHist s) := rfl

/-! ### START, ARM and DISARM: the checks (R232, R236) -/

/-- What START and ARM look at before the context: reserved bits and the count. -/
theorem ckFails_of_field {s : State} (h : 1024 ≤ s.observe.ckCtx ∨ s.observe.ckList.toNat % 16 ≠ 0 ∨ 2 ^ 52 ≤ s.observe.ckList.toNat ∨
    s.observe.ckCount.toNat = 0 ∨ 4096 < s.observe.ckCount.toNat ∨ s.observe.ckSlot0.toNat % 65536 ≠ 0 ∨ s.observe.ckSlot1.toNat % 65536 ≠ 0) :
    ckFails s = some 1 := by
  simp only [ckFails]
  rw [if_pos]
  simp only [fieldOk, Nat.reducePow, Bool.not_and, Bool.or_eq_true, decide_eq_true_eq, Bool.not_eq_eq_eq_not,
    Bool.not_true, decide_eq_false_iff_not, not_lt, beq_iff_eq]
  omega

/-- The checks end with BAD_COMMAND, NO_CONTEXT, NOT_OWNER for a pavilion's context, or with a context outside pavilions. -/
theorem ckFails_cases (s : State) :
    ckFails s = some 1 ∨ ckFails s = some 3 ∨ ckFails s = some 5 ∨ ckFails s = none ∧ ∃ c, ctx? s s.observe.ckCtx = some c ∧ c.pav = 0 := by
  simp only [ckFails]
  split
  · exact .inl rfl
  · split
    · exact .inr (.inl rfl)
    · next c hc =>
      split
      · exact .inr (.inr (.inl rfl))
      · next hp =>
        split
        · exact .inl rfl
        · exact .inr (.inr (.inr ⟨rfl, c, hc, by simpa using hp⟩))

theorem ckFails_none {s : State} (h : ckFails s = none) : ∃ c, ctx? s s.observe.ckCtx = some c ∧ c.pav = 0 := by
  rcases ckFails_cases s with h1 | h1 | h1 | ⟨-, h1⟩
  · rw [h] at h1; cases h1
  · rw [h] at h1; cases h1
  · rw [h] at h1; cases h1
  · exact h1

theorem ckFails_code {s : State} {code : BitVec 8} (h : ckFails s = some code) : code = 1 ∨ code = 3 ∨ code = 5 := by
  rcases ckFails_cases s with h1 | h1 | h1 | ⟨h1, -⟩
  · rw [h] at h1; exact .inl (Option.some.inj h1)
  · rw [h] at h1; exact .inr (.inl (Option.some.inj h1))
  · rw [h] at h1; exact .inr (.inr (Option.some.inj h1))
  · rw [h] at h1; cases h1

theorem checkpointsRefused : CheckpointsRefused := by
  refine ⟨fun s h => ckFails_of_field h, fun s code h => ckFails_code h, fun s c h hc => ?_⟩
  obtain ⟨k, hk, hp⟩ := ckFails_none h
  rw [hc] at hk
  cases hk
  exact hp

/-! ### A checkpoint begins (R234) -/

/-- The checkpoint that begins: its list, slots and chosen slot, and no tick yet. -/
def newRun (s : State) (ctx list count a b : Nat) : CkptRun :=
  { ctx := ctx, list := list, count := count, slot0 := a, slot1 := b, useSlot1 := takesSlot1 s a b, tick := none
    ranges := rangeList (wrMemBytes s ((if takesSlot1 s a b then b else a) + 4032) (List.replicate 64 0#8)) list count }

/-- The state in which a checkpoint that begins suspends its context: the commit record is cleared and the checkpoint noted. -/
def ckNoted (s : State) (ctx list count a b : Nat) : State :=
  { wrMemBytes s ((if takesSlot1 s a b then b else a) + 4032) (List.replicate 64 0#8) with
    observe := { s.observe with ckRun := some (newRun s ctx list count a b) } }
theorem beginCkpt_eq (s : State) (ctx list count a b : Nat) : beginCkpt s ctx list count a b = suspendCtx (ckNoted s ctx list count a b) ctx 2 := rfl


/-- What a checkpoint that begins leaves of registers, memory and contexts. -/
theorem beginCkpt_frame {s : State} (hf : s.forks = []) (ctx list count a b : Nat) :
    (beginCkpt s ctx list count a b).observe = { s.observe with ckRun := some (newRun s ctx list count a b) } ∧
    (beginCkpt s ctx list count a b).mem = Memory.writeN s.mem ((if takesSlot1 s a b then b else a) + 4032) (List.replicate 64 0#8) ∧
    (beginCkpt s ctx list count a b).contexts = (modCtx s ctx (suspendedCtx 2)).contexts := by
  have hf' : (ckNoted s ctx list count a b).forks = [] := by simp only [ckNoted, wrMemBytes, hf]
  obtain ⟨h, -⟩ := suspendCtx_teamwork hf' ctx 2
  rw [beginCkpt_eq, h]
  simp only [modCtx, ckNoted, wrMemBytes, and_self]

theorem beginCkpt_ctx {s : State} (hf : s.forks = []) {ctx : Nat} {c : Context} (hc : ctx? s ctx = some c) (list count a b : Nat) :
    ctx? (beginCkpt s ctx list count a b) ctx = some (suspendedCtx 2 c) := by
  obtain ⟨-, -, h⟩ := beginCkpt_frame hf ctx list count a b
  have hm := ctx_modCtx_same hc (suspendedCtx 2) fun _ => rfl
  simpa only [ctx?, h] using hm

/-- A checkpoint that begins over a state whose committed bytes are those of `s` begins over `s`. -/
theorem beginCkpt_begins {s : State} {cs : List Context} {o : Observe} (h : SameHome s cs o) (hf : s.forks = []) {ctx : Nat} {c : Context}
    (hc : ctx? (withRegs s cs o) ctx = some c) (list count a b : Nat) :
    Begins s (beginCkpt (withRegs s cs o) ctx list count a b) ctx list count a b := by
  have hslot := takesSlot1_withRegs h a b
  obtain ⟨ho, hm, -⟩ := beginCkpt_frame (s := withRegs s cs o) hf ctx list count a b
  refine ⟨⟨newRun (withRegs s cs o) ctx list count a b, by rw [ho], ?_⟩, ?_, suspendedCtx 2 c,
    beginCkpt_ctx (s := withRegs s cs o) hf hc list count a b, rfl, mem_suspendedBy 2 c⟩
  · simp [newRun, hslot, rangeList, upto]
  · rw [hm, hslot]
    rfl

/-- RESULT is no part of the committed state. -/
theorem sameHome_ckResult (s : State) (r : BitVec 8) : SameHome s s.contexts { s.observe with ckResult := r } := ⟨fun _ => rfl, rfl, rfl⟩

theorem start_begins {s : State} (hrun : s.observe.ckRun = none) (hok : ckFails s = none) (hf : s.forks = []) :
    ∃ r, exec .checkpointStart s = .next r ∧ r.observe.ckResult = 0 ∧
      Begins s r s.observe.ckCtx s.observe.ckList.toNat s.observe.ckCount.toNat s.observe.ckSlot0.toNat s.observe.ckSlot1.toNat := by
  obtain ⟨c, hc, -⟩ := ckFails_none hok
  refine ⟨_, rfl, ?_, ?_⟩
  all_goals simp only [ckStart, hrun, hok, Option.isSome_none, Bool.false_eq_true, if_false]
  · rw [(beginCkpt_frame (s := ckEnd s 0) hf ..).1]; rfl
  · exact beginCkpt_begins (sameHome_ckResult s 0) hf hc ..

theorem arm_stores {s : State} (hrun : s.observe.ckRun = none) (hok : ckFails s = none) :
    ∃ r, exec .arm s = .next r ∧ r.observe.ckResult = 0 ∧ r.mem = s.mem ∧ ∃ k, ctx? r s.observe.ckCtx = some k ∧
      k.armed = some (s.observe.ckList.toNat, s.observe.ckCount.toNat, s.observe.ckSlot0.toNat, s.observe.ckSlot1.toNat) := by
  obtain ⟨c, hc, -⟩ := ckFails_none hok
  refine ⟨_, rfl, ?_, ?_, ?_⟩
  all_goals simp only [ckArm, hrun, hok, Option.isSome_none, Bool.false_eq_true, if_false]
  · rfl
  · rfl
  · exact ⟨_, ctx_modCtx_same (s := ckEnd s 0) hc _ fun _ => rfl, rfl⟩

theorem start_arm_fail {s : State} {code : BitVec 8} (hrun : s.observe.ckRun = none) (h : ckFails s = some code) :
    ∀ i, i ∈ ([.checkpointStart, .arm] : List Instr) → exec i s = .next { s with observe := { s.observe with ckResult := code } } := by
  intro i hi
  simp only [List.mem_cons, List.not_mem_nil, or_false] at hi
  rcases hi with rfl | rfl
  · simp only [exec_checkpointStart, ckStart, hrun, h, ckEnd, Option.isSome_none, Bool.false_eq_true, if_false]
  · simp only [exec_arm, ckArm, hrun, h, ckEnd, Option.isSome_none, Bool.false_eq_true, if_false]

/-- A context without an armed checkpoint. -/
def disarmed (c : Context) : Context := { c with armed := none }

theorem disarm_clears {s : State} {c : Context} (hrun : s.observe.ckRun = none) (hid : s.observe.ckCtx = c.id) (hlt : c.id < 1024) (hc : ctx? s c.id = some c) :
    ∃ r, exec .disarm s = .next r ∧ r.observe.ckResult = 0 ∧ ctx? r c.id = some { c with armed := none } := by
  have hlt' : ¬ 1024 ≤ c.id := by omega
  have hchecks : firstCode [(decide (1024 ≤ s.observe.ckCtx), 1), ((ctx? s s.observe.ckCtx).isNone, 3)] = none := by simp [firstCode, hid, hlt', hc]
  refine ⟨_, rfl, ?_, ?_⟩
  all_goals simp only [ckDisarm, hrun, hchecks, Option.isSome_none, Bool.false_eq_true, if_false]
  · rfl
  · rw [hid]; exact ctx_modCtx_same (s := ckEnd s 0) hc disarmed fun _ => rfl

/-- The state in which a warned context's checkpoint begins: it is disarmed, and `l` are the warned ones that are left. -/
def warningTaken (s : State) (ctx : Nat) (l : List Nat) : State := withRegs s (modCtx s ctx disarmed).contexts { s.observe with warned := l }

theorem sameHome_warningTaken (s : State) (ctx : Nat) (l : List Nat) : SameHome s (modCtx s ctx disarmed).contexts { s.observe with warned := l } :=
  ⟨fun k => ctxPav_modCtx s ctx k disarmed (fun _ => rfl) fun _ => rfl, rfl, rfl⟩

/-- A warning disarms the first warned context and takes its checkpoint. -/
theorem warning_begins {s : State} {c : Context} {l : List Nat} {list n a b : Nat} (hrun : s.observe.ckRun = none) (hw : s.observe.warned = c.id :: l)
    (hc : ctx? s c.id = some c) (harm : c.armed = some (list, n, a, b)) (hf : s.forks = []) :
    ∃ r, exec .checkpointWarning s = .next r ∧ r.observe.warned = l ∧ Begins s r c.id list n a b ∧ ∃ k, ctx? r c.id = some k ∧ k.armed = none := by
  have hx : exec .checkpointWarning s = .next (beginCkpt (warningTaken s c.id l) c.id list n a b) := by
    have hrun' : s.observe.ckRun.isSome = false := by rw [hrun]; rfl
    have hc' : ctx? { s with observe := { s.observe with warned := l } } c.id = some c := hc
    simp only [exec_checkpointWarning, execCheckpointWarning, hrun', hw, Bool.false_eq_true, if_false]
    rw [hc', Option.bind_some, harm]
    rfl
  have hcx : ctx? (warningTaken s c.id l) c.id = some (disarmed c) := ctx_modCtx_same hc disarmed fun _ => rfl
  have hobs := (beginCkpt_frame (s := warningTaken s c.id l) hf c.id list n a b).1
  refine ⟨_, hx, ?_, beginCkpt_begins (sameHome_warningTaken s c.id l) hf hcx list n a b, _, beginCkpt_ctx (s := warningTaken s c.id l) hf hcx list n a b, rfl⟩
  rw [hobs]
  rfl

/-- While a checkpoint is in progress START, ARM, DISARM and a warning are dropped (R235). -/
theorem inProgress_drops {s : State} {k : CkptRun} (h : s.observe.ckRun = some k) :
    ∀ i, i ∈ ([.checkpointStart, .arm, .disarm, .checkpointWarning] : List Instr) → exec i s = .next s := by
  intro i hi
  simp only [List.mem_cons, List.not_mem_nil, or_false] at hi
  rcases hi with rfl | rfl | rfl | rfl
  · simp only [exec_checkpointStart, ckStart, h, Option.isSome_some, if_true]
  · simp only [exec_arm, ckArm, h, Option.isSome_some, if_true]
  · simp only [exec_disarm, ckDisarm, h, Option.isSome_some, if_true]
  · simp only [exec_checkpointWarning, execCheckpointWarning, h, Option.isSome_some, if_true]

/-- The tick is chosen once no team of the context is on a core. -/
theorem tick_chosen {s : State} {k : CkptRun} (h : s.observe.ckRun = some k) (ht : k.tick = none) (hoff : ∀ t ∈ s.teams, t.ctx = k.ctx → t.onCore = false) :
    exec .checkpointTick s = .next { s with observe := { s.observe with ckRun := some { k with tick := some s.time, image := k.ranges.map fun x => homeBytes s 0 x.1 x.2 } } } := by
  have hany : (s.teams.any fun t => t.ctx == k.ctx && t.onCore) = false := by
    rw [List.any_eq_false]
    intro t ht
    have := hoff t ht
    simpa using this
  simp only [exec_checkpointTick, execCheckpointTick, h, ht, hany, Option.isSome_none, Bool.or_self, Bool.false_eq_true, if_false]

theorem tick_waits {s : State} {k : CkptRun} {t : Team} (h : s.observe.ckRun = some k) (hmem : t ∈ s.teams) (hctx : t.ctx = k.ctx) (hon : t.onCore = true) :
    exec .checkpointTick s = .next s := by
  have hany : (s.teams.any fun t => t.ctx == k.ctx && t.onCore) = true := by
    rw [List.any_eq_true]
    exact ⟨t, hmem, by simp [hctx, hon]⟩
  simp only [exec_checkpointTick, execCheckpointTick, h, hany, Bool.or_true, if_true]

theorem checkpointsTaken : CheckpointsTaken :=
  ⟨fun _ hrun hok hf => ⟨start_begins hrun hok hf, arm_stores hrun hok⟩,
    fun _ _ hrun h => start_arm_fail hrun h,
    fun _ _ hrun hid hlt hc => disarm_clears hrun hid hlt hc,
    fun _ _ _ _ _ _ _ hrun hw hc harm hf => warning_begins hrun hw hc harm hf,
    fun _ _ h => inProgress_drops h,
    fun _ _ h ht hoff => tick_chosen h ht hoff,
    fun _ _ _ h _ hmem hctx hon => tick_waits h hmem hctx hon⟩

/-! ### A checkpoint ends (R234) -/

theorem copyRanges_frame : ∀ (l : List (List Byte)) (s : State) (a : Nat), copyRanges s l a = { s with mem := (copyRanges s l a).mem }
  | [], _, _ => rfl
  | bs :: l, s, a => by
    rw [copyRanges, copyRanges_frame l]
    rfl

theorem copyRanges_wf : ∀ (l : List (List Byte)) (s : State) (a : Nat), Memory.wf s.mem = true → Memory.wf (copyRanges s l a).mem = true
  | [], _, _, h => h
  | bs :: l, s, a, h => copyRanges_wf l _ _ (writeN_wf bs s.mem a h)

/-- The staged commit record (R234 step 5). -/
def commitRecord (seq : BitVec 64) (len tick : Nat) : List Byte :=
  leBytes 8 0x434B ++ leBytes 8 seq.toNat ++ leBytes 8 len ++ leBytes 8 tick ++ List.replicate 32 0#8

@[simp] theorem commitRecord_length (seq : BitVec 64) (len tick : Nat) : (commitRecord seq len tick).length = 64 := by simp [commitRecord]

theorem commitRecord_magic (seq : BitVec 64) (len tick : Nat) : leNat (((commitRecord seq len tick).drop 0).take 2) = 0x434B := by
  simp [commitRecord, leBytes, leNat]

theorem commitRecord_seq (seq : BitVec 64) (len tick : Nat) : leNat (((commitRecord seq len tick).drop 8).take 8) = seq.toNat := by
  have hpart : ((commitRecord seq len tick).drop 8).take 8 = leBytes 8 seq.toNat := by simp [commitRecord, leBytes]
  rw [hpart, leNat_leBytes]
  exact Nat.mod_eq_of_lt seq.isLt

theorem commitRecord_tick (seq : BitVec 64) (len tick : Nat) : leNat (((commitRecord seq len tick).drop 24).take 8) = tick % 2 ^ 64 := by
  have hpart : ((commitRecord seq len tick).drop 24).take 8 = leBytes 8 tick := by simp [commitRecord, leBytes]
  rw [hpart, leNat_leBytes, show (256 : Nat) ^ 8 = 2 ^ 64 by norm_num]

/-- The slot that a checkpoint writes. -/
def ckSlot (k : CkptRun) : Nat := if k.useSlot1 then k.slot1 else k.slot0

/-- Header and ranges stand in the slot. -/
def staged (s : State) (k : CkptRun) (tick : Nat) : State := copyRanges (wrMemBytes (cleanRanges s k.ranges) (ckSlot k) (ckHeader k tick)) k.image (ckSlot k + 4096)

/-- The image is in its slot with its commit record, and the registers say so. -/
def recorded (s : State) (k : CkptRun) (tick : Nat) : State :=
  let x := wrMemBytes (staged s k tick) (ckSlot k + 4032) (commitRecord (s.observe.ckSeq + 1) (rangesLen k.ranges) tick)
  { x with observe := { x.observe with ckSeq := s.observe.ckSeq + 1, ckRun := none } }

theorem staged_frame (s : State) (k : CkptRun) (tick : Nat) : staged s k tick = { cleanRanges s k.ranges with mem := (staged s k tick).mem } := by
  unfold staged
  rw [copyRanges_frame]
  rfl

theorem recorded_keeps (s : State) (k : CkptRun) (tick : Nat) :
    (recorded s k tick).contexts = s.contexts ∧ (recorded s k tick).host = s.host ∧ (recorded s k tick).trust = s.trust ∧
      (recorded s k tick).time = s.time ∧ (recorded s k tick).mailbox = s.mailbox := by
  simp only [recorded, wrMemBytes]
  rw [staged_frame]
  exact ⟨rfl, rfl, rfl, rfl, rfl⟩

theorem staged_wf {s : State} (h : Memory.wf s.mem = true) (k : CkptRun) (tick : Nat) : Memory.wf (staged s k tick).mem = true := by
  apply copyRanges_wf
  simp only [wrMemBytes, cleanRanges]
  exact writeN_wf _ _ _ h

/-- No DESTROY_CONTEXT is in progress. -/
theorem driveDestroy_idle {s : State} (h : s.mailbox.busy = false) : driveDestroy s = s := by
  simp only [driveDestroy, h, Bool.false_and, Bool.false_eq_true, if_false]

/-- A context that only the checkpoint held runs again. -/
theorem unsuspend_runs {s : State} {ctx : Nat} {c : Context} (hc : ctx? s ctx = some c) (h : ∀ w ∈ c.suspendedBy, w = 2) :
    ∃ c', ctx? (unsuspend s ctx [2]) ctx = some c' ∧ c'.suspended = false := by
  refine ⟨_, ctx_modCtx_same hc _ fun _ => rfl, ?_⟩
  have hnil : (c.suspendedBy.filter fun w => !([2] : List Nat).contains w) = [] := by
    rw [List.filter_eq_nil_iff]
    intro w hw
    simp [h w hw]
  simp only [hnil, List.isEmpty_nil, Bool.not_true]

/-- The bytes of the commit record and of a single range after the end of a checkpoint. -/
theorem recorded_reads {s : State} (hm : Memory.wf s.mem = true) (k : CkptRun) (t : Nat) :
    Memory.readLe (recorded s k t).mem (ckSlot k + 4032) 2 = 0x434B ∧
    Memory.readLe (recorded s k t).mem (ckSlot k + 4040) 8 = (s.observe.ckSeq + 1).toNat ∧
    Memory.readLe (recorded s k t).mem (ckSlot k + 4056) 8 = t % 2 ^ 64 ∧
    ∀ bs, k.image = [bs] → Memory.readN (recorded s k t).mem (ckSlot k + 4096) bs.length = bs := by
  have hwf := staged_wf hm k t
  have hmem : (recorded s k t).mem = Memory.writeN (staged s k t).mem (ckSlot k + 4032) (commitRecord (s.observe.ckSeq + 1) (rangesLen k.ranges) t) := by
    simp only [recorded, wrMemBytes]
  have hread : ∀ x i n, x = ckSlot k + 4032 + i → i + n ≤ 64 → Memory.readLe (recorded s k t).mem x n =
      leNat (((commitRecord (s.observe.ckSeq + 1) (rangesLen k.ranges) t).drop i).take n) := by
    intro x i n hx h
    rw [hx, Memory.readLe, hmem, readN_writeN_inside _ _ _ i n hwf (by simpa using h)]
  refine ⟨?_, ?_, ?_, fun bs hbs => ?_⟩
  · rw [hread _ 0 2 (by omega) (by omega), commitRecord_magic]
  · rw [hread _ 8 8 (by omega) (by omega), commitRecord_seq]
  · rw [hread _ 24 8 (by omega) (by omega), commitRecord_tick]
  · rw [hmem, readN_writeN_behind _ _ _ _ _ hwf (by simp)]
    simp only [staged, hbs, copyRanges, wrMemBytes, cleanRanges]
    exact readN_writeN_same bs _ _ (writeN_wf _ _ _ hm)

/-- The state before the context resumes: recorded, vector 5 raised and event 0x0100 logged (R234 step 6). -/
def announced (s : State) (k : CkptRun) (tick : Nat) : State := audit (raiseVector (recorded s k tick) 0 5) 1 0x100 k.ctx 0 []

theorem stageCommit_eq (s : State) (k : CkptRun) (tick : Nat) : stageCommit s k tick = unsuspend (announced s k tick) k.ctx [2] := rfl

theorem checkpointCommits : CheckpointCommits := by
  intro s k t c hrun ht hc hby hbusy slot
  obtain ⟨kc, kh, kt, ktime, kmail⟩ := recorded_keeps s k t
  have hx : exec .stagedCommit s = .next (unsuspend (announced s k t) k.ctx [2]) := by
    have hidle : (unsuspend (announced s k t) k.ctx [2]).mailbox.busy = false := by simp [announced, unsuspend, kmail, hbusy]
    simp only [exec_stagedCommit, execStagedCommit, hrun, ht, stageCommit_eq]
    rw [driveDestroy_idle hidle]
  have hmem : (unsuspend (announced s k t) k.ctx [2]).mem = (recorded s k t).mem := by simp [announced, unsuspend]
  have hctx : ctx? (announced s k t) k.ctx = some c := by simpa [announced, ctx?, kc] using hc
  refine ⟨_, hx, ?_, ?_, ?_, ?_, unsuspend_runs hctx hby, fun hm => ?_⟩
  · simp [announced, unsuspend, recorded]
  · simp [announced, unsuspend, recorded]
  · exact rings_of_host kh (by simp [announced, unsuspend])
  · exact logs_of_trust (x := raiseVector (recorded s k t) 0 5) (by simp [kt]) (by simp [ktime]) rfl
  · rw [hmem]
    exact recorded_reads hm k t

/-! ### Rings and histograms (R242) -/

theorem ringSizeOk_iff (n : Nat) : ringSizeOk n = true ↔ n = 0 ∨ ∃ k, 6 ≤ k ∧ k ≤ 20 ∧ n = 2 ^ k := by
  simp only [ringSizeOk, Bool.or_eq_true, beq_iff_eq, List.any_eq_true, upto, List.mem_range]
  refine or_congr_right ⟨fun ⟨i, hi, h⟩ => ⟨6 + i, by omega, by omega, h⟩, fun ⟨k, h6, h20, h⟩ => ⟨k - 6, by omega, ?_⟩⟩
  rw [h, show 6 + (k - 6) = k by omega]

/-- The end of an operation: RESULT and vector 0, over a state with the host's side as before. -/
theorem endObs_ends {s x : State} (hx : x.host = s.host) (r : BitVec 8) :
    (endObs x r).observe.obResult = r ∧ Rings s (endObs x r) 0 0 ∧ (endObs x r).contexts = x.contexts :=
  ⟨by simp [endObs], rings_of_host (x := { x with observe := { x.observe with obResult := r } }) hx rfl, by simp [endObs]⟩

theorem endObs_observe (x : State) (r : BitVec 8) : (endObs x r).observe = { x.observe with obResult := r } := by simp [endObs]

theorem endObs_ctx {x : State} {id : Nat} {c : Context} (h : ctx? x id = some c) (r : BitVec 8) : ctx? (endObs x r) id = some c := by
  simpa [endObs, ctx?] using h

/-- The context that OBCTX names is there. -/
theorem obCtxCheck_passes {s : State} {c : Context} (hid : s.observe.obCtx = c.id) (hlt : c.id < 1024) (hc : ctx? s c.id = some c) :
    firstCode (obCtxCheck s) = none := by
  have hlt' : ¬ 1024 ≤ c.id := by omega
  simp [firstCode, obCtxCheck, hid, hlt', hc]

theorem firstCode_append (l m : List (Bool × BitVec 8)) : firstCode (l ++ m) = (firstCode l).or (firstCode m) := by
  simp only [firstCode, List.find?_append]
  cases l.find? (·.1) <;> rfl

/-- A context with an empty ring of `n` records at `base`. -/
def newRing (base n : Nat) (c : Context) : Context := { c with ringBase := base, ringSize := n, ringHead := 0, ringTail := 0, ringLost := 0 }

/-- A context whose ring the driver has read up to `tail`. -/
def newTail (tail : Nat) (c : Context) : Context := { c with ringTail := tail }

/-- The state in which OBHEAD, OBTAIL and OBLOST show the counts of a context. -/
def countsShown (s : State) (c : Context) : State :=
  { s with observe := { s.observe with obHead := BitVec.ofNat 64 c.ringHead, obTail := BitVec.ofNat 64 c.ringTail, obLost := BitVec.ofNat 64 c.ringLost } }

section
variable {s : State} {c : Context} (hid : s.observe.obCtx = c.id) (hlt : c.id < 1024) (hc : ctx? s c.id = some c)
include hid hlt hc

theorem obSet_gives_ring {k : Nat} (h6 : 6 ≤ k) (h20 : k ≤ 20) (hn : s.observe.obSize.toNat = 2 ^ k) (hb : s.observe.obBase.toNat % 64 = 0)
    (hown : ownsRange s c.part s.observe.obBase.toNat (64 * 2 ^ k) = true) (hp : c.pav = 0) :
    ∃ r, exec .obSet s = .next r ∧ r.observe.obResult = 0 ∧ Rings s r 0 0 ∧
      ctx? r c.id = some { c with ringBase := s.observe.obBase.toNat, ringSize := 2 ^ k, ringHead := 0, ringTail := 0, ringLost := 0 } := by
  have hsize : ringSizeOk (2 ^ k) = true := (ringSizeOk_iff _).mpr (.inr ⟨k, h6, h20, rfl⟩)
  have hx : exec .obSet s = .next (endObs (modCtx s c.id (newRing s.observe.obBase.toNat (2 ^ k))) 0) := by
    simp only [exec_obSet, obSet, firstCode_append, obCtxCheck_passes hid hlt hc, hid, hc, hn, hsize, hb, hown, hp]
    simp [firstCode]
    rfl
  obtain ⟨h1, h2, -⟩ := endObs_ends (s := s) (x := modCtx s c.id (newRing s.observe.obBase.toNat (2 ^ k))) rfl 0
  exact ⟨_, hx, h1, h2, endObs_ctx (ctx_modCtx_same hc (newRing s.observe.obBase.toNat (2 ^ k)) fun _ => rfl) 0⟩

theorem obSet_bad_size (hn : s.observe.obSize.toNat ≠ 0) (hk : ∀ k, 6 ≤ k → k ≤ 20 → s.observe.obSize.toNat ≠ 2 ^ k) :
    ∃ r, exec .obSet s = .next r ∧ r.observe.obResult = 1 ∧ Rings s r 0 0 ∧ r.contexts = s.contexts := by
  have hsize : ringSizeOk s.observe.obSize.toNat = false := by
    rw [Bool.eq_false_iff, ne_eq, ringSizeOk_iff]
    rintro (h | ⟨k, h6, h20, h⟩)
    · exact hn h
    · exact hk k h6 h20 h
  have hx : exec .obSet s = .next (endObs s 1) := by
    simp only [exec_obSet, obSet, firstCode_append, obCtxCheck_passes hid hlt hc, hsize]
    simp [firstCode]
  exact ⟨_, hx, endObs_ends rfl 1⟩

theorem obSet_bad_base {k : Nat} (h6 : 6 ≤ k) (h20 : k ≤ 20) (hn : s.observe.obSize.toNat = 2 ^ k) (hb : s.observe.obBase.toNat % 64 ≠ 0) :
    ∃ r, exec .obSet s = .next r ∧ r.observe.obResult = 5 ∧ Rings s r 0 0 ∧ r.contexts = s.contexts := by
  have hsize : ringSizeOk (2 ^ k) = true := (ringSizeOk_iff _).mpr (.inr ⟨k, h6, h20, rfl⟩)
  have hx : exec .obSet s = .next (endObs s 5) := by
    simp only [exec_obSet, obSet, firstCode_append, obCtxCheck_passes hid hlt hc, hn, hsize]
    simp [firstCode, hb]
  exact ⟨_, hx, endObs_ends rfl 5⟩

theorem obRead_reads :
    ∃ r, exec .obRead s = .next r ∧ r.observe.obResult = 0 ∧ Rings s r 0 0 ∧ r.contexts = s.contexts ∧
      r.observe.obHead = BitVec.ofNat 64 c.ringHead ∧ r.observe.obTail = BitVec.ofNat 64 c.ringTail ∧ r.observe.obLost = BitVec.ofNat 64 c.ringLost := by
  have hx : exec .obRead s = .next (endObs (countsShown s c) 0) := by
    simp only [exec_obRead, obRead, obCtxCheck_passes hid hlt hc, hid, hc, countsShown]
  obtain ⟨h1, h2, h3⟩ := endObs_ends (s := s) (x := countsShown s c) rfl 0
  exact ⟨_, hx, h1, h2, h3, by rw [endObs_observe]; rfl, by rw [endObs_observe]; rfl, by rw [endObs_observe]; rfl⟩

theorem obTail_sets : ∃ r, exec .obTail s = .next r ∧ r.observe.obResult = 0 ∧ Rings s r 0 0 ∧ ctx? r c.id = some { c with ringTail := s.observe.obTail.toNat } := by
  have hx : exec .obTail s = .next (endObs (modCtx s c.id (newTail s.observe.obTail.toNat)) 0) := by
    simp only [exec_obTail, obSetTail, obCtxCheck_passes hid hlt hc, hid]
    rfl
  obtain ⟨h1, h2, -⟩ := endObs_ends (s := s) (x := modCtx s c.id (newTail s.observe.obTail.toNat)) rfl 0
  exact ⟨_, hx, h1, h2, endObs_ctx (ctx_modCtx_same hc (newTail s.observe.obTail.toNat) fun _ => rfl) 0⟩

end

/-- SET, READ and TAIL of a context that does not exist end with NO_CONTEXT. -/
theorem ringOps_noContext {s : State} (hc : ctx? s s.observe.obCtx = none) (hlt : s.observe.obCtx < 1024) :
    ∀ i, i ∈ ([.obSet, .obRead, .obTail] : List Instr) → ∃ r, exec i s = .next r ∧ r.observe.obResult = 3 ∧ Rings s r 0 0 ∧ r.contexts = s.contexts := by
  have hlt' : ¬ 1024 ≤ s.observe.obCtx := by omega
  have hcheck : firstCode (obCtxCheck s) = some 3 := by simp [firstCode, obCtxCheck, hlt', hc]
  intro i hi
  refine ⟨endObs s 3, ?_, endObs_ends rfl 3⟩
  simp only [List.mem_cons, List.not_mem_nil, or_false] at hi
  rcases hi with rfl | rfl | rfl
  · simp only [exec_obSet, obSet, firstCode_append, hcheck, Option.some_or]
  · simp only [exec_obRead, obRead, hcheck]
  · simp only [exec_obTail, obSetTail, hcheck]

theorem hist_copies {s : State} {h : Hist} (hh : s.observe.hists.find? (fun h => h.core == s.observe.hgCore && h.quad == s.observe.hgQuad) = some h) :
    ∃ r, exec .hist s = .next r ∧ r.observe.obResult = 0 ∧ Rings s r 0 0 ∧ r.observe.hgVal = h.vals.map (fun v => v.setWidth 64) ∧
      (s.observe.hgClr = false → r.observe.hists = s.observe.hists) ∧
      (s.observe.hgClr = true → ∀ x, x ∈ r.observe.hists ↔ x ∈ s.observe.hists ∧ ¬(x.core = s.observe.hgCore ∧ x.quad = s.observe.hgQuad)) := by
  obtain ⟨x, hx, hhost⟩ : ∃ x, obHist s = endObs x 0 ∧ x.host = s.host := ⟨_, rfl, rfl⟩
  refine ⟨obHist s, rfl, by rw [hx]; exact (endObs_ends hhost 0).1, by rw [hx]; exact (endObs_ends hhost 0).2.1, ?_, ?_, ?_⟩
  all_goals simp only [obHist, endObs_observe]
  · simp only [hh]
  · intro hclr; simp only [hclr, Bool.false_eq_true, if_false]
  · intro hclr x; simp [hclr, imp_iff_not_or]

theorem ringsObserved : RingsObserved :=
  ⟨fun _ _ hid hlt hc =>
      ⟨fun _ h6 h20 hn hb hown hp => obSet_gives_ring hid hlt hc h6 h20 hn hb hown hp, fun hn hk => obSet_bad_size hid hlt hc hn hk,
        fun _ h6 h20 hn hb => obSet_bad_base hid hlt hc h6 h20 hn hb, obRead_reads hid hlt hc, obTail_sets hid hlt hc⟩,
    fun _ hc hlt => ringOps_noContext hc hlt,
    fun _ _ hh => hist_copies hh⟩

end Sys2Proof.Proofs
end

section
/-! PROOF. Plain registers read back as written (R4, R48). -/

namespace Sys2Proof.Proofs

open Machine Claims Laws

/-! ### Pieces of registers -/

theorem setWidth_append_low {v w : Nat} (x : BitVec v) (y : BitVec w) : (x ++ y).setWidth w = y := by
  ext k hk
  simp [BitVec.getLsbD_append, hk]
theorem setWidth_append_high {v w : Nat} (x : BitVec v) (y : BitVec w) : ((x ++ y) >>> w).setWidth v = x := by
  ext k hk
  simp [BitVec.getLsbD_append, BitVec.getLsbD_eq_getElem hk]

/-- A register of two words holds the word that was put into one of its halves. -/
@[simp] theorem half_putHalf (x : BitVec 64) (hi : Bool) (v : Word) : half (putHalf x hi v) hi = v := by
  cases hi
  · simp only [half, putHalf, Bool.false_eq_true, if_false]
    exact setWidth_append_low _ v
  · simp only [half, putHalf, if_true]
    exact setWidth_append_high v _

/-- A word of a wide register reads back. -/
theorem wideWord_putWordAt {w : Nat} (x : BitVec w) (i : Nat) (v : Word) (h : 32 * i + 32 ≤ w) : wideWord (putWordAt x i v) i = v := by
  apply BitVec.eq_of_getLsbD_eq
  intro k hk
  have hin : 32 * i + k < w := by omega
  have hmask : (0xFFFFFFFF * 2 ^ (32 * i)).testBit (32 * i + k) = true := by
    have hall : (0xFFFFFFFF : Nat) = 2 ^ 32 - 1 := rfl
    rw [hall, Nat.testBit_mul_two_pow, Nat.testBit_two_pow_sub_one]
    simp [hk]
  have hval : (v.toNat * 2 ^ (32 * i)).testBit (32 * i + k) = v.getLsbD k := by
    rw [Nat.testBit_mul_two_pow]
    simp [BitVec.getLsbD]
  have hbit : (putWordAt x i v).getLsbD (32 * i + k) = v.getLsbD k := by
    simp only [putWordAt, BitVec.getLsbD_or, BitVec.getLsbD_and, BitVec.getLsbD_not, BitVec.getLsbD_ofNat, hin, hmask, hval]
    simp
  rw [← hbit]
  simp only [wideWord, BitVec.getLsbD_ofNat, hk, decide_true, Bool.true_and, Nat.testBit_div_two_pow]
  rw [BitVec.getLsbD, Nat.add_comm]

theorem getLsbD_setBit_true {w : Nat} (x : BitVec w) (n k : Nat) (hk : k < w) : (setBit x n true).getLsbD k = (x.getLsbD k || decide (k = n)) := by
  simp [setBit, hk, eq_comm]

/-- A bit of a word of a bitmap says whether its number is in the set. -/
theorem getLsbD_bitsWord (l : List Nat) (i k : Nat) (hk : k < 32) : (bitsWord l i).getLsbD k = decide (32 * i + k ∈ l) := by
  have key : ∀ (l : List Nat) (x : Word), (l.foldl (fun x n => if n / 32 == i then setBit x (n % 32) true else x) x).getLsbD k =
      (x.getLsbD k || decide (32 * i + k ∈ l)) := by
    intro l
    induction l with
    | nil => simp
    | cons n l ih =>
      intro x
      rw [List.foldl_cons, ih]
      by_cases hn : n / 32 = i
      · have hiff : k = n % 32 ↔ 32 * i + k = n := by omega
        simp [hn, getLsbD_setBit_true x _ k hk, hiff, Bool.or_assoc]
      · have hne : 32 * i + k ≠ n := by omega
        simp [hn, hne]
  simpa [bitsWord] using key l 0

theorem mem_unitSet (l : List Nat) (n : Nat) : n ∈ unitSet l ↔ n ∈ l := by
  rw [unitSet, (sortBy_perm _ _).mem_iff, mem_dedup]

/-- A word of a staged bitmap reads back. -/
theorem bitsWord_putMap (l : List Nat) (i : Nat) (v : Word) : bitsWord (putMap l i v) i = v := by
  apply BitVec.eq_of_getLsbD_eq
  intro k hk
  have hold : ∀ a ∈ l, 32 * i + k = a → a / 32 = i := by intro a _ h; omega
  have hmem : 32 * i + k ∈ putMap l i v ↔ v.getLsbD k = true := by
    simp only [putMap, mem_unitSet, List.mem_append, List.mem_filter, List.mem_map, upto, List.mem_range, decide_eq_true_eq]
    constructor
    · rintro (⟨-, h⟩ | ⟨j, ⟨-, hj⟩, h⟩)
      · exact absurd (by omega) h
      · rwa [show k = j by omega]
    · exact fun h => .inr ⟨k, ⟨hk, h⟩, rfl⟩
  rw [getLsbD_bitsWord _ _ _ hk, decide_eq_decide.mpr hmem, Bool.decide_coe]

theorem ofNat_toNat_word (v : Word) : BitVec.ofNat 32 v.toNat = v := by simp

/-! ### A plain register (R4, R48) -/

/-- The interfaces are idle: no command, operation or checkpoint is in progress, and the fault area is not enabled. -/
structure Idle (s : State) : Prop where
  words : s.mailbox.cmd.length = 16
  mailbox : s.mailbox.busy = false
  hf : s.host.hfEn = false
  trans : (transBlock s 0).busy = false
  ck : s.observe.ckRun = none
  part : s.partIf.busy = false
  pav : s.pavIf.busy = false
  ho : s.trust.hoBusy = false

/-- In `r` a trusted reader reads `v` at a register and another 0, and outside the interfaces `r` is as `s`. -/
def Reads (s r : State) (page off : Nat) (v : Word) : Prop :=
  readReg r true page off = v ∧ readReg r false page off = 0 ∧
    r = { s with mailbox := r.mailbox, host := r.host, partIf := r.partIf, pavIf := r.pavIf, rotation := r.rotation, trust := r.trust, frames := r.frames, observe := r.observe }

theorem transBlock_putBlock (s : State) (b : TransBlock) : transBlock (putBlock s b) b.fn = b := by simp [transBlock, putBlock]

theorem transBlock_fn (s : State) (fn : Nat) : (transBlock s fn).fn = fn := by
  unfold transBlock
  cases hb : s.host.trans.find? fun b => b.fn == fn with
  | none => rfl
  | some b => simpa using List.find?_some hb

/-- A field of the PF's translation block: the word makes `b` of it. -/
theorem reads_transField {s : State} {v : Word} {o n : Nat} {b : TransBlock} (hb : b.fn = (transBlock s 0).fn) (hw : writeReg s 4 o v = putBlock s b)
    (ht : ∀ r, readReg r true 4 o = readTrans r 0 n) (hu : ∀ r, readReg r false 4 o = 0) (hv : ∀ r, transBlock r 0 = b → readTrans r 0 n = v) :
    Reads s (writeReg s 4 o v) 4 o v := by
  have hback : transBlock (putBlock s b) 0 = b := by
    simpa only [hb, transBlock_fn] using transBlock_putBlock s b
  rw [hw]
  exact ⟨(ht _).trans (hv _ hback), hu _, rfl⟩

/-- A segment entry is read and written by halves (R45). -/
theorem segEntry_writeSeg (s : State) (table idx : Nat) (hi : Bool) (v : Word) : half (segEntry (writeSeg s table idx hi v) table idx) hi = v := by
  simp [segEntry, writeSeg]

theorem reads_segment (s : State) (v : Word) (i : Nat) : Reads s (writeReg s 3 (4 * i) v) 3 (4 * i) v :=
  ⟨segEntry_writeSeg s 0 (4 * i / 8) (4 * i / 4 % 2 == 1) v, rfl, rfl⟩

theorem reads_spill (s : State) (v : Word) : ∀ o ∈ [0x200, 0x208, 0x20C, 0x210, 0x214], Reads s (writeReg s 4 o v) 4 o v := by
  intro o ho
  simp only [List.mem_cons, List.not_mem_nil, or_false] at ho
  rcases ho with rfl | rfl | rfl | rfl | rfl
  · exact ⟨ofNat_toNat_word v, rfl, rfl⟩
  · exact ⟨half_putHalf _ false v, rfl, rfl⟩
  · exact ⟨half_putHalf _ true v, rfl, rfl⟩
  · exact ⟨half_putHalf _ false v, rfl, rfl⟩
  · exact ⟨half_putHalf _ true v, rfl, rfl⟩

theorem reads_observation (s : State) (v : Word) : ∀ o ∈ [0x400, 0x408, 0x40C, 0x410, 0x420, 0x424], Reads s (writeReg s 4 o v) 4 o v := by
  intro o ho
  simp only [List.mem_cons, List.not_mem_nil, or_false] at ho
  rcases ho with rfl | rfl | rfl | rfl | rfl | rfl
  · exact ⟨ofNat_toNat_word v, rfl, rfl⟩
  · exact ⟨half_putHalf _ false v, rfl, rfl⟩
  · exact ⟨half_putHalf _ true v, rfl, rfl⟩
  · exact ⟨rfl, rfl, rfl⟩
  · exact ⟨half_putHalf _ false v, rfl, rfl⟩
  · exact ⟨half_putHalf _ true v, rfl, rfl⟩

theorem reads_lease (s : State) (v : Word) : ∀ o ∈ [0, 4, 8, 12], Reads s (writeReg s 7 o v) 7 o v := by
  intro o ho
  simp only [List.mem_cons, List.not_mem_nil, or_false] at ho
  rcases ho with rfl | rfl | rfl | rfl
  · exact ⟨ofNat_toNat_word v, rfl, rfl⟩
  · exact ⟨ofNat_toNat_word v, rfl, rfl⟩
  · exact ⟨half_putHalf _ false v, rfl, rfl⟩
  · exact ⟨half_putHalf _ true v, rfl, rfl⟩

theorem reads_rotation (s : State) (v : Word) : Reads s (writeReg s 9 0 v) 9 0 v := ⟨ofNat_toNat_word v, rfl, rfl⟩

theorem reads_audit (s : State) (v : Word) : ∀ o ∈ [16, 20], Reads s (writeReg s 11 o v) 11 o v := by
  intro o ho
  simp only [List.mem_cons, List.not_mem_nil, or_false] at ho
  rcases ho with rfl | rfl
  · exact ⟨half_putHalf _ false v, rfl, rfl⟩
  · exact ⟨half_putHalf _ true v, rfl, rfl⟩

section
variable {s : State} (h : Idle s) (v : Word)
include h

theorem reads_mailbox {i : Nat} (hi : i < 16) : Reads s (writeReg s 2 (4 * i) v) 2 (4 * i) v := by
  have hlt : 4 * i < 0x40 := by omega
  have hdiv : 4 * i / 4 = i := by omega
  have hw : writeReg s 2 (4 * i) v = { s with mailbox := { s.mailbox with cmd := updAt i (fun _ => v) s.mailbox.cmd } } := by
    simp only [writeReg, writeMailbox, hlt, hdiv, h.mailbox, if_true, Bool.false_eq_true, if_false]
  have hget : (updAt i (fun _ => v) s.mailbox.cmd)[i]? = some v := by
    rw [updAt_get, if_pos rfl, List.getElem?_eq_getElem (by rw [h.words]; exact hi)]
    rfl
  rw [hw]
  refine ⟨?_, rfl, rfl⟩
  show (if 4 * i < 0x40 then (updAt i (fun _ => v) s.mailbox.cmd).getD (4 * i / 4) 0 else _) = v
  rw [if_pos hlt, hdiv, List.getD_eq_getElem?_getD, hget, Option.getD_some]

theorem reads_faultArea : ∀ o ∈ [0, 4, 8], Reads s (writeReg s 4 o v) 4 o v := by
  have hs : { s with host := { s.host with hfEn := false } } = s := by rw [← h.hf]
  rw [← hs]
  intro o ho
  simp only [List.mem_cons, List.not_mem_nil, or_false] at ho
  rcases ho with rfl | rfl | rfl
  · exact ⟨half_putHalf _ false v, rfl, rfl⟩
  · exact ⟨half_putHalf _ true v, rfl, rfl⟩
  · exact ⟨rfl, rfl, rfl⟩

theorem reads_translation : ∀ o ∈ [0x100, 0x104, 0x110, 0x114, 0x120, 0x128], Reads s (writeReg s 4 o v) 4 o v := by
  intro o ho
  simp only [List.mem_cons, List.not_mem_nil, or_false] at ho
  rcases ho with rfl | rfl | rfl | rfl | rfl | rfl
  · exact reads_transField (n := 0) (b := { transBlock s 0 with ctx := v.toNat }) rfl (by simp [writeReg, writeBlocks, writeTrans, h.trans])
      (fun _ => rfl) (fun _ => rfl) fun r hr => by simp [readTrans, hr]
  · exact reads_transField (n := 4) (b := { transBlock s 0 with stage := v.toNat }) rfl (by simp [writeReg, writeBlocks, writeTrans, h.trans])
      (fun _ => rfl) (fun _ => rfl) fun r hr => by simp [readTrans, hr]
  · exact reads_transField (n := 0x10) (b := { transBlock s 0 with va := putWordAt (transBlock s 0).va 0 v }) rfl
      (by simp [writeReg, writeBlocks, writeTrans, h.trans]) (fun _ => rfl) (fun _ => rfl) fun r hr => by
        simp only [readTrans, hr]; exact wideWord_putWordAt _ 0 v (by omega)
  · exact reads_transField (n := 0x14) (b := { transBlock s 0 with va := putWordAt (transBlock s 0).va 1 v }) rfl
      (by simp [writeReg, writeBlocks, writeTrans, h.trans]) (fun _ => rfl) (fun _ => rfl) fun r hr => by
        simp only [readTrans, hr]; exact wideWord_putWordAt _ 1 v (by omega)
  · exact reads_transField (n := 0x20) (b := { transBlock s 0 with pages := v.toNat }) rfl (by simp [writeReg, writeBlocks, writeTrans, h.trans])
      (fun _ => rfl) (fun _ => rfl) fun r hr => by simp [readTrans, hr]
  · exact reads_transField (n := 0x28) (b := { transBlock s 0 with seq := v.toNat }) rfl (by simp [writeReg, writeBlocks, writeTrans, h.trans])
      (fun _ => rfl) (fun _ => rfl) fun r hr => by simp [readTrans, hr]

theorem reads_checkpoint : ∀ o ∈ [0x300, 0x308, 0x30C, 0x310, 0x318, 0x31C, 0x320, 0x324, 0x338], Reads s (writeReg s 4 o v) 4 o v := by
  have hs : { s with observe := { s.observe with ckRun := none } } = s := by rw [← h.ck]
  rw [← hs]
  intro o ho
  simp only [List.mem_cons, List.not_mem_nil, or_false] at ho
  rcases ho with rfl | rfl | rfl | rfl | rfl | rfl | rfl | rfl | rfl
  · exact ⟨ofNat_toNat_word v, rfl, rfl⟩
  · exact ⟨half_putHalf _ false v, rfl, rfl⟩
  · exact ⟨half_putHalf _ true v, rfl, rfl⟩
  · exact ⟨rfl, rfl, rfl⟩
  · exact ⟨half_putHalf _ false v, rfl, rfl⟩
  · exact ⟨half_putHalf _ true v, rfl, rfl⟩
  · exact ⟨half_putHalf _ false v, rfl, rfl⟩
  · exact ⟨half_putHalf _ true v, rfl, rfl⟩
  · exact ⟨rfl, rfl, rfl⟩

theorem reads_partition : ∀ o ∈ [0, 8], Reads s (writeReg s 5 o v) 5 o v := by
  have hs : { s with partIf := { s.partIf with busy := false } } = s := by rw [← h.part]
  rw [← hs]
  intro o ho
  simp only [List.mem_cons, List.not_mem_nil, or_false] at ho
  rcases ho with rfl | rfl <;> exact ⟨ofNat_toNat_word v, rfl, rfl⟩

theorem reads_pavilion : ∀ o ∈ [0, 4, 8, 12, 16, 32], Reads s (writeReg s 8 o v) 8 o v := by
  have hs : { s with pavIf := { s.pavIf with busy := false } } = s := by rw [← h.pav]
  rw [← hs]
  intro o ho
  simp only [List.mem_cons, List.not_mem_nil, or_false] at ho
  rcases ho with rfl | rfl | rfl | rfl | rfl | rfl <;> exact ⟨ofNat_toNat_word v, rfl, rfl⟩

theorem reads_handover : ∀ o ∈ [16, 20], Reads s (writeReg s 13 o v) 13 o v := by
  have hs : { s with trust := { s.trust with hoBusy := false } } = s := by rw [← h.ho]
  rw [← hs]
  intro o ho
  simp only [List.mem_cons, List.not_mem_nil, or_false] at ho
  rcases ho with rfl | rfl
  · exact ⟨half_putHalf _ false v, rfl, rfl⟩
  · exact ⟨half_putHalf _ true v, rfl, rfl⟩

/-- The staged bitmaps: clusters, slices, channels and engines, word by word. -/
theorem reads_staged {i : Nat} (hi : i < 50) : Reads s (writeReg s 6 (4 * i) v) 6 (4 * i) v := by
  have hread : ∀ r : State, readReg r true 6 (4 * i) =
      if 4 * i < 0x20 then bitsWord r.partIf.staged.clusters (4 * i / 4) else if 4 * i < 0xA0 then bitsWord r.partIf.staged.slices ((4 * i - 0x20) / 4)
      else if 4 * i < 0xC0 then bitsWord r.partIf.staged.channels ((4 * i - 0xA0) / 4) else if 4 * i < 0xC8 then bitsWord r.partIf.staged.engines ((4 * i - 0xC0) / 4)
      else if 4 * i < 0xCC then bitsWord r.partIf.staged.ports 0 else 0 := fun _ => rfl
  have hengines : 4 * i < 0xC8 := by omega
  simp only [Reads, hread, writeReg, writeStaged, h.part, Bool.false_eq_true, if_false]
  by_cases h1 : 4 * i < 0x20
  · simp only [h1, if_true, bitsWord_putMap]
    exact ⟨trivial, rfl, trivial⟩
  by_cases h2 : 4 * i < 0xA0
  · simp only [h1, h2, if_true, if_false, bitsWord_putMap]
    exact ⟨trivial, rfl, trivial⟩
  by_cases h3 : 4 * i < 0xC0
  · simp only [h1, h2, h3, if_true, if_false, bitsWord_putMap]
    exact ⟨trivial, rfl, trivial⟩
  · simp only [h1, h2, h3, hengines, if_true, if_false, bitsWord_putMap]
    exact ⟨trivial, rfl, trivial⟩

theorem reads_plain : ∀ p ∈ plainRegisters, Reads s (writeReg s p.1 p.2 v) p.1 p.2 v := by
  intro p hp
  simp only [plainRegisters, List.mem_append, List.mem_map, upto, List.mem_range] at hp
  rcases hp with (((((⟨i, hi, rfl⟩ | ⟨i, -, rfl⟩) | ⟨o, ho, rfl⟩) | hp) | ⟨i, hi, rfl⟩) | hp)
  · exact reads_mailbox h v hi
  · exact reads_segment s v i
  · have hblocks : o ∈ [0, 4, 8] ++ ([0x100, 0x104, 0x110, 0x114, 0x120, 0x128] ++ ([0x200, 0x208, 0x20C, 0x210, 0x214] ++
        ([0x300, 0x308, 0x30C, 0x310, 0x318, 0x31C, 0x320, 0x324, 0x338] ++ [0x400, 0x408, 0x40C, 0x410, 0x420, 0x424]))) := ho
    simp only [List.mem_append] at hblocks
    rcases hblocks with ho | ho | ho | ho | ho
    · exact reads_faultArea h v o ho
    · exact reads_translation h v o ho
    · exact reads_spill s v o ho
    · exact reads_checkpoint h v o ho
    · exact reads_observation s v o ho
  · have hpart : p ∈ [0, 8].map fun o => (5, o) := hp
    obtain ⟨o, ho, rfl⟩ := List.mem_map.mp hpart
    exact reads_partition h v o ho
  · exact reads_staged h v hi
  · have hrest : p ∈ ([0, 4, 8, 12].map fun o => (7, o)) ++ (([0, 4, 8, 12, 16, 32].map fun o => (8, o)) ++
        ([(9, 0)] ++ (([16, 20].map fun o => (11, o)) ++ ([16, 20].map fun o => (13, o))))) := hp
    simp only [List.mem_append] at hrest
    rcases hrest with hp | hp | hp | hp | hp
    · obtain ⟨o, ho, rfl⟩ := List.mem_map.mp hp
      exact reads_lease s v o ho
    · obtain ⟨o, ho, rfl⟩ := List.mem_map.mp hp
      exact reads_pavilion h v o ho
    · rw [List.mem_singleton] at hp
      rw [hp]
      exact reads_rotation s v
    · obtain ⟨o, ho, rfl⟩ := List.mem_map.mp hp
      exact reads_audit s v o ho
    · obtain ⟨o, ho, rfl⟩ := List.mem_map.mp hp
      exact reads_handover h v o ho

end

/-- Bit 0 of 0x40 on page 0x002 sets an idle mailbox to work on the command that it holds (R29, R30). -/
theorem mailbox_starts {s : State} {v : Word} (hb : s.mailbox.busy = false) (hv : v.getLsbD 0 = true) :
    writeReg s 2 0x40 v = { s with mailbox := { s.mailbox with busy := true, running := true, pendResult := none, pendOut := [] } } := by
  simp only [writeReg, writeMailbox, hb, hv, Bool.not_true, Bool.false_eq_true, if_false]
  rfl

theorem exec_registerWrite (page off : Nat) (v : Word) (s : State) : exec (.registerWrite page off v) s = .next (writeReg s page off v) := rfl

theorem registersHold : RegistersHold := by
  refine ⟨fun s v p hp h1 h2 h3 h4 h5 h6 h7 h8 => ⟨_, rfl, reads_plain ⟨h1, h2, h3, h4, h5, h6, h7, h8⟩ v p hp⟩, fun s v off h => ⟨?_, ?_⟩, fun s v off h => ?_,
    fun s v off h => ?_, fun s v off h hoff => ?_, fun s v hb hv => ⟨_, rfl, ?_⟩⟩
  · simp only [exec_registerWrite, writeReg, writePart, h, if_true]
  · simp only [exec_registerWrite, writeReg, writeStaged, h, if_true]
  · simp only [exec_registerWrite, writeReg, writePav, h, if_true]
  · simp only [exec_registerWrite, writeReg, writeHo, h, if_true]
  · simp only [exec_registerWrite, writeReg, writeMailbox, h, hoff, if_true]
  · rw [mailbox_starts hb hv]
    exact ⟨rfl, rfl, rfl⟩

end Sys2Proof.Proofs
end

section
/-! PROOF. The words of the operation registers start their operations (R4), and O60. -/

namespace Sys2Proof.Proofs

open Machine Claims Laws

/-! ### The words that start an operation (R4) -/

/-- The words of page 0x005 (R51). -/
def partitionWords : List (Nat × Nat × Word × Instr) :=
  [(5, 4, 1, .define), (5, 4, 2, .delete), (5, 4, 3, .grow), (5, 4, 4, .shrink), (5, 4, 5, .lend), (5, 4, 6, .reclaim), (5, 4, 7, .partitionRead)]

/-- The words of page 0x007 (R55). -/
def leaseWords : List (Nat × Nat × Word × Instr) :=
  [(7, 16, 1, .bind), (7, 16, 2, .leaseRelease)]

/-- The words of page 0x008 (R57). -/
def pavilionWords : List (Nat × Nat × Word × Instr) :=
  [(8, 36, 1, .pavilionCreate), (8, 36, 2, .assign), (8, 36, 3, .unassign), (8, 36, 4, .addframe), (8, 36, 5, .delframe), (8, 36, 6, .pavilionDestroy)]

/-- The start bits of pages 0x009 to 0x00C (R60, R64, R67, R70). -/
def goWords : List (Nat × Nat × Word × Instr) :=
  [(9, 4, 1, .keyRotationGo), (10, 0x280, 1, .measExtend), (11, 40, 1, .sigreq), (12, 12, 1, .frameQueue)]

/-- The words of the PF's translation block (R146). -/
def translationWords : List (Nat × Nat × Word × Instr) :=
  [(4, 0x124, 1, .invalidate 0), (4, 0x124, 2, .replay 0), (4, 0x124, 3, .abort 0), (4, 0x124, 4, .inject 0)]

/-- The words of the spill pool block (R217). -/
def spillWords : List (Nat × Nat × Word × Instr) :=
  [(4, 0x218, 1, .spillAdd), (4, 0x218, 2, .spillQuery)]

/-- The words of CKOP (R232). -/
def checkpointWords : List (Nat × Nat × Word × Instr) :=
  [(4, 0x328, 1, .checkpointStart), (4, 0x328, 2, .arm), (4, 0x328, 3, .disarm)]

/-- The words of OBOP (R242). -/
def observationWords : List (Nat × Nat × Word × Instr) :=
  [(4, 0x434, 1, .obSet), (4, 0x434, 2, .obRead), (4, 0x434, 3, .hist), (4, 0x434, 4, .obTail)]

/-- The words of page 0x00D (R74). -/
def handoverWords : List (Nat × Nat × Word × Instr) :=
  [(13, 4, 1, .prepare), (13, 4, 2, .handoverCommit), (13, 4, 3, .handoverAbort), (13, 4, 4, .accept), (13, 4, 5, .keyx), (13, 4, 6, .handoverRelease), (13, 4, 7, .statement)]

theorem startWords_eq : startWords = partitionWords ++ (leaseWords ++ (pavilionWords ++ (goWords ++ (translationWords ++ (spillWords ++
    (checkpointWords ++ (observationWords ++ handoverWords))))))) := rfl

theorem exec_invalidate (fn : Nat) (s : State) : exec (.invalidate fn) s = .next (invalidate s fn) := rfl
theorem exec_replay (fn : Nat) (s : State) : exec (.replay fn) s = .next (replay s fn) := rfl
theorem exec_abort (fn : Nat) (s : State) : exec (.abort fn) s = .next (abort s fn) := rfl
theorem exec_inject (fn : Nat) (s : State) : exec (.inject fn) s = .next (inject s fn) := rfl
theorem exec_spillAdd (s : State) : exec .spillAdd s = .next (spillAdd s) := rfl
theorem exec_spillQuery (s : State) : exec .spillQuery s = .next (spillQuery s) := rfl

/-- The word `x` starts its operation over the state that holds it in the operation field. -/
def Starts (s : State) (x : Nat × Nat × Word × Instr) : Prop :=
  exec (.registerWrite x.1 x.2.1 x.2.2.1) s = exec x.2.2.2 (opNoted s x.1 x.2.1 x.2.2.1.toNat)

theorem starts_partition {s : State} (h : s.partIf.busy = false) : ∀ x ∈ partitionWords, Starts s x := by
  have hs : { s with partIf := { s.partIf with busy := false } } = s := by rw [← h]
  rw [← hs]
  intro x hx
  simp only [partitionWords, List.mem_cons, List.not_mem_nil, or_false] at hx
  rcases hx with rfl | rfl | rfl | rfl | rfl | rfl | rfl <;> rfl

theorem starts_lease (s : State) : ∀ x ∈ leaseWords, Starts s x := by
  intro x hx
  simp only [leaseWords, List.mem_cons, List.not_mem_nil, or_false] at hx
  rcases hx with rfl | rfl <;> rfl

theorem starts_pavilion {s : State} (h : s.pavIf.busy = false) : ∀ x ∈ pavilionWords, Starts s x := by
  have hs : { s with pavIf := { s.pavIf with busy := false } } = s := by rw [← h]
  rw [← hs]
  intro x hx
  simp only [pavilionWords, List.mem_cons, List.not_mem_nil, or_false] at hx
  rcases hx with rfl | rfl | rfl | rfl | rfl | rfl <;> rfl

theorem starts_bits (s : State) : ∀ x ∈ goWords, Starts s x := by
  intro x hx
  simp only [goWords, List.mem_cons, List.not_mem_nil, or_false] at hx
  rcases hx with rfl | rfl | rfl | rfl <;> rfl

theorem starts_translation {s : State} (h : (transBlock s 0).busy = false) : ∀ x ∈ translationWords, Starts s x := by
  intro x hx
  simp only [translationWords, List.mem_cons, List.not_mem_nil, or_false] at hx
  rcases hx with rfl | rfl | rfl | rfl
  · simp [Starts, exec_registerWrite, exec_invalidate, writeReg, writeBlocks, writeTrans, opNoted, h]
  · simp [Starts, exec_registerWrite, exec_replay, writeReg, writeBlocks, writeTrans, opNoted, h]
  · simp [Starts, exec_registerWrite, exec_abort, writeReg, writeBlocks, writeTrans, opNoted, h]
  · simp [Starts, exec_registerWrite, exec_inject, writeReg, writeBlocks, writeTrans, opNoted, h]

theorem starts_spill (s : State) : ∀ x ∈ spillWords, Starts s x := by
  intro x hx
  simp only [spillWords, List.mem_cons, List.not_mem_nil, or_false] at hx
  rcases hx with rfl | rfl
  · simp [Starts, exec_registerWrite, exec_spillAdd, writeReg, writeBlocks, writeSpill, opNoted]
  · simp [Starts, exec_registerWrite, exec_spillQuery, writeReg, writeBlocks, writeSpill, opNoted]

theorem starts_checkpoint {s : State} (h : s.observe.ckRun = none) : ∀ x ∈ checkpointWords, Starts s x := by
  have hs : { s with observe := { s.observe with ckRun := none } } = s := by rw [← h]
  rw [← hs]
  intro x hx
  simp only [checkpointWords, List.mem_cons, List.not_mem_nil, or_false] at hx
  rcases hx with rfl | rfl | rfl <;> rfl

theorem starts_observation (s : State) : ∀ x ∈ observationWords, Starts s x := by
  intro x hx
  simp only [observationWords, List.mem_cons, List.not_mem_nil, or_false] at hx
  rcases hx with rfl | rfl | rfl | rfl <;> rfl

theorem starts_handover {s : State} (h : s.trust.hoBusy = false) : ∀ x ∈ handoverWords, Starts s x := by
  have hs : { s with trust := { s.trust with hoBusy := false } } = s := by rw [← h]
  rw [← hs]
  intro x hx
  simp only [handoverWords, List.mem_cons, List.not_mem_nil, or_false] at hx
  rcases hx with rfl | rfl | rfl | rfl | rfl | rfl | rfl <;> rfl

theorem wordsStart : WordsStart := by
  intro s x hx hpav hpart hho hck htr
  rw [startWords_eq] at hx
  simp only [List.mem_append] at hx
  rcases hx with h | h | h | h | h | h | h | h | h
  · exact starts_partition hpart x h
  · exact starts_lease s x h
  · exact starts_pavilion hpav x h
  · exact starts_bits s x h
  · exact starts_translation htr x h
  · exact starts_spill s x h
  · exact starts_checkpoint hck x h
  · exact starts_observation s x h
  · exact starts_handover hho x h

/-- Settles O60: each of its six parts by the theorem of its name. -/
theorem checkpointsAndRegisters : Obligations.CheckpointsAndRegisters :=
  ⟨checkpointsTaken, checkpointsRefused, checkpointCommits, ringsObserved, registersHold, wordsStart⟩

end Sys2Proof.Proofs
end

section
/-! SUPPORT. What messages on the Bascy link change of the state, and what they leave alone (R17 to R22). -/

namespace Sys2Proof.Proofs

open Machine Claims Laws

/-- A relation between states that every step of a fold keeps holds from its start to its end. -/
theorem foldl_related {α : Type} {R : State → State → Prop} (refl : ∀ s, R s s) (trans : ∀ {a b c}, R a b → R b c → R a c) {g : State → α → State}
    (h : ∀ s x, R s (g s x)) : ∀ (l : List α) (s : State), R s (l.foldl g s)
  | [], s => refl s
  | x :: l, s => trans (h s x) (foldl_related refl trans h l (g s x))

/-! ### Traffic: messages that leave or wait -/

/-- What traffic leaves of a port: whether it is up, and the numbers last received on it. -/
def portFace (p : Port) : Bool × List (Nat × BitVec 12) := (p.up, p.rxSeq)

/-- From `a` to `b` messages have moved towards their peers, and nothing else has happened. -/
structure OnlyTraffic (a b : State) : Prop where
  frame : b = { a with links := b.links }
  reqs : b.links.reqs = a.links.reqs
  resent : b.links.resent = a.links.resent
  ports : b.links.ports.map portFace = a.links.ports.map portFace

theorem OnlyTraffic.refl (a : State) : OnlyTraffic a a := ⟨rfl, rfl, rfl, rfl⟩

theorem OnlyTraffic.trans {a b c : State} (h : OnlyTraffic a b) (k : OnlyTraffic b c) : OnlyTraffic a c :=
  ⟨by rw [k.frame, h.frame], k.reqs.trans h.reqs, k.resent.trans h.resent, k.ports.trans h.ports⟩

/-- A port after traffic is up as before, with the same numbers received. -/
theorem OnlyTraffic.port {a b : State} (h : OnlyTraffic a b) (i : Nat) : (b.links.ports[i]?).map portFace = (a.links.ports[i]?).map portFace := by
  have hi := congrArg (fun l => l[i]?) h.ports
  simpa only [List.getElem?_map] using hi

theorem modPort_traffic (s : State) (i : Nat) (f : Port → Port) (hf : ∀ p, portFace (f p) = portFace p) : OnlyTraffic s (modPort s i f) :=
  ⟨rfl, rfl, rfl, updAt_map portFace f hf _ _⟩

theorem sendFlit_traffic (s : State) (f : Flit) : OnlyTraffic s (sendFlit s f) :=
  (modPort_traffic s f.port (fun p => { p with txSeq := setSeq p.txSeq f.dev (f.seq + 1), replay := p.replay ++ [f] }) fun _ => rfl).trans
    ⟨rfl, rfl, rfl, rfl⟩

theorem putMsg_traffic (s : State) (i : Nat) (m : LinkMsg) : OnlyTraffic s (putMsg s i m) := by
  unfold putMsg
  split
  · refine ⟨rfl, rfl, rfl, updAt_map portFace _ ?_ s.links.ports i⟩
    exact fun _ => rfl
  · exact sendFlit_traffic s _

theorem pumpOne_traffic (s : State) (o : OutMsg) : OnlyTraffic s (pumpOne s o) := by
  unfold pumpOne
  split
  · exact ⟨rfl, rfl, rfl, rfl⟩
  · split
    · exact ⟨rfl, rfl, rfl, rfl⟩
    · split
      · exact ⟨rfl, rfl, rfl, rfl⟩
      · exact putMsg_traffic s _ _

theorem pumpLinks_traffic (s : State) : OnlyTraffic s (pumpLinks s) := by
  have hstart : OnlyTraffic s { s with links := { s.links with out := [] } } := ⟨rfl, rfl, rfl, rfl⟩
  exact hstart.trans (foldl_related .refl .trans pumpOne_traffic s.links.out _)

/-- With nothing waiting the pump does nothing. -/
theorem pumpLinks_idle {s : State} (h : s.links.out = []) : pumpLinks s = s := by
  have hs : { s with links := { s.links with out := [] } } = s := by rw [← h]
  simp only [pumpLinks, h, List.foldl_nil, hs]

/-! ### Ports -/

theorem portUp_iff {s : State} {i : Nat} : portUp s i = true ↔ ∃ p, s.links.ports[i]? = some p ∧ p.up = true := by
  unfold portUp
  cases s.links.ports[i]? <;> simp

theorem ports_modPort (s : State) (i j : Nat) (f : Port → Port) :
    (modPort s i f).links.ports[j]? = if i = j then (s.links.ports[j]?).map f else s.links.ports[j]? :=
  updAt_get f s.links.ports i j

/-- The port that a change names. -/
theorem ports_modPort_same {s : State} {i : Nat} {p : Port} (h : s.links.ports[i]? = some p) (f : Port → Port) :
    (modPort s i f).links.ports[i]? = some (f p) := by
  rw [ports_modPort, if_pos rfl, h, Option.map_some]

theorem ports_modPort_other {s : State} {i j : Nat} (h : i ≠ j) (f : Port → Port) : (modPort s i f).links.ports[j]? = s.links.ports[j]? := by
  rw [ports_modPort, if_neg h]

/-- A changed port is up as before when the change keeps it so. -/
theorem portUp_modPort (s : State) (i j : Nat) (f : Port → Port) (hf : ∀ p, (f p).up = p.up) : portUp (modPort s i f) j = portUp s j := by
  simp only [portUp, ports_modPort]
  by_cases h : i = j
  · cases s.links.ports[j]? <;> simp [h, hf]
  · simp [h]

theorem OnlyTraffic.portUp {a b : State} (h : OnlyTraffic a b) (i : Nat) : portUp b i = portUp a i := by
  have hi := h.port i
  simp only [Machine.portUp]
  cases ha : a.links.ports[i]? <;> cases hb : b.links.ports[i]? <;> simp_all [portFace]

theorem OnlyTraffic.rxSeq {a b : State} (h : OnlyTraffic a b) {i : Nat} {p : Port} (hp : a.links.ports[i]? = some p) :
    ∃ q, b.links.ports[i]? = some q ∧ q.rxSeq = p.rxSeq := by
  have hi := h.port i
  rw [hp] at hi
  obtain ⟨q, hq, hface⟩ := Option.map_eq_some_iff.mp hi
  exact ⟨q, hq, congrArg Prod.snd hface⟩

/-- The number last received from a peer, after it is noted. -/
theorem seqOf_setSeq (l : List (Nat × BitVec 12)) (dev : Nat) (x : BitVec 12) : seqOf (setSeq l dev x) dev = some x := by simp [seqOf, setSeq]

/-! ### The arrival of a flit (R18) -/

/-- A port after a flit of `dev` with the header `h`: its number noted, what it acknowledges gone. -/
def flitNoted (dev : Nat) (h : BitVec 64) (p : Port) : Port :=
  { p with rxSeq := setSeq p.rxSeq dev (hdrSeq h), replay := p.replay.filter fun f => !(f.dev == dev && atOrBelow f.seq (hdrAck h)) }

theorem arriveFlit_eq (s : State) (port dev : Nat) (h : BitVec 64) : arriveFlit s port dev h = pumpLinks (modPort s port (flitNoted dev h)) := rfl

theorem arriveFlit_traffic (s : State) (port dev : Nat) (h : BitVec 64) : OnlyTraffic (modPort s port (flitNoted dev h)) (arriveFlit s port dev h) :=
  pumpLinks_traffic _

/-- A flit that arrives changes the link only. -/
theorem arriveFlit_frame (s : State) (port dev : Nat) (h : BitVec 64) :
    arriveFlit s port dev h = { s with links := (arriveFlit s port dev h).links } := (arriveFlit_traffic s port dev h).frame

@[simp] theorem arriveFlit_reqs (s : State) (port dev : Nat) (h : BitVec 64) : (arriveFlit s port dev h).links.reqs = s.links.reqs :=
  (arriveFlit_traffic s port dev h).reqs
@[simp] theorem arriveFlit_resent (s : State) (port dev : Nat) (h : BitVec 64) : (arriveFlit s port dev h).links.resent = s.links.resent :=
  (arriveFlit_traffic s port dev h).resent
@[simp] theorem arriveFlit_mem (s : State) (port dev : Nat) (h : BitVec 64) : (arriveFlit s port dev h).mem = s.mem := by rw [arriveFlit_frame]
@[simp] theorem arriveFlit_waiting (s : State) (port dev : Nat) (h : BitVec 64) : (arriveFlit s port dev h).waiting = s.waiting := by rw [arriveFlit_frame]
@[simp] theorem arriveFlit_time (s : State) (port dev : Nat) (h : BitVec 64) : (arriveFlit s port dev h).time = s.time := by rw [arriveFlit_frame]
@[simp] theorem arriveFlit_lines (s : State) (port dev : Nat) (h : BitVec 64) : (arriveFlit s port dev h).lines = s.lines := by rw [arriveFlit_frame]
@[simp] theorem arriveFlit_teams (s : State) (port dev : Nat) (h : BitVec 64) : (arriveFlit s port dev h).teams = s.teams := by rw [arriveFlit_frame]
@[simp] theorem arriveFlit_partitions (s : State) (port dev : Nat) (h : BitVec 64) : (arriveFlit s port dev h).partitions = s.partitions := by
  rw [arriveFlit_frame]

@[simp] theorem portAllows_arriveFlit (s : State) (port dev : Nat) (h : BitVec 64) (p a : Nat) : portAllows (arriveFlit s port dev h) p a = portAllows s p a := by
  simp only [portAllows, arriveFlit_partitions]

@[simp] theorem portUp_arriveFlit (s : State) (port dev : Nat) (h : BitVec 64) (i : Nat) : portUp (arriveFlit s port dev h) i = portUp s i := by
  rw [(arriveFlit_traffic s port dev h).portUp, portUp_modPort s port i (flitNoted dev h) fun _ => rfl]

/-- The numbers received on another port stay. -/
theorem arriveFlit_rxSeq {s : State} {port i : Nat} {p : Port} (hi : port ≠ i) (hp : s.links.ports[i]? = some p) (dev : Nat) (h : BitVec 64) :
    ∃ q, (arriveFlit s port dev h).links.ports[i]? = some q ∧ q.rxSeq = p.rxSeq :=
  (arriveFlit_traffic s port dev h).rxSeq (by rw [ports_modPort_other hi]; exact hp)

/-- With nothing waiting, nothing waits after the arrival. -/
theorem arriveFlit_out {s : State} (h : s.links.out = []) (port dev : Nat) (hdr : BitVec 64) : (arriveFlit s port dev hdr).links.out = [] := by
  rw [arriveFlit_eq, pumpLinks_idle (s := modPort s port _) h]
  exact h

/-- A message of a flit of type 1 that fits is received, after the flit's header. -/
theorem arrive_eq {s : State} {port : Nat} {hdr : BitVec 64} (h : Receives s port hdr 1) {slot : Nat} {m : LinkMsg} (hs : slot + m.slots ≤ 15) :
    arrive s port hdr slot m = receive (arriveFlit s port m.dev hdr) (portAllows s port m.addr) port m := by
  obtain ⟨hup, htype⟩ := h
  simp only [arrive, receiveAt, hup, htype, hs, beq_self_eq_true, Bool.and_self, if_true, portAllows_arriveFlit]

/-- The same without conditions on the type, for a message of a resent flit. -/
theorem receiveAt_eq {s : State} {slot port : Nat} {m : LinkMsg} (hs : slot + m.slots ≤ 15) : receiveAt s slot port m = receive s (portAllows s port m.addr) port m := by
  simp only [receiveAt, hs, if_true]

/-! ### A message that leaves on a port (R19) -/

/-- A port's replay buffer holds a flit of type 1 to a peer with a message. -/
def Carries (s : State) (port : Nat) (m : LinkMsg) : Prop :=
  ∃ x f, s.links.ports[port]? = some x ∧ f ∈ x.replay ∧ f.kind = 1 ∧ f.dev = m.dev ∧ m ∈ f.msgs

/-- A message that is put into a flit of its port stands there: in a flit of this tick with room, else in a new one. -/
theorem putMsg_carries {s : State} {port : Nat} {p : Port} (hp : s.links.ports[port]? = some p) (m : LinkMsg) : Carries (putMsg s port m) port m := by
  unfold putMsg
  split
  · next f hf =>
    have hmem := List.mem_of_find?_eq_some hf
    have hfit := List.find?_some hf
    simp only [hp, Option.getD_some] at hmem
    simp only [Bool.and_eq_true, beq_iff_eq, decide_eq_true_eq] at hfit
    obtain ⟨⟨⟨⟨hport, hdev⟩, hkind⟩, htime⟩, -⟩ := hfit
    refine ⟨_, { f with msgs := f.msgs ++ [m] }, ports_modPort_same hp _, ?_, hkind, hdev, by simp⟩
    exact List.mem_map.mpr ⟨f, hmem, by simp [hport, hkind]⟩
  · exact ⟨_, _, ports_modPort_same hp _, List.mem_append_right _ (List.mem_singleton.mpr rfl), rfl, rfl, List.mem_singleton.mpr rfl⟩

/-- An answer goes back on the port of its request where that is up (R22). -/
theorem sendMsg_answer {s : State} {port : Nat} (hup : portUp s port = true) (hlt : port < 24) (hout : s.links.out = []) (part : Nat) (m : LinkMsg) :
    Carries (sendMsg s ⟨part, some port, m⟩) port m := by
  have hne : ¬ port = 24 := by omega
  have hchoose : choosePort { s with links := { s.links with out := [] } } ⟨part, some port, m⟩ = some port := by
    have hup' : portUp { s with links := { s.links with out := [] } } port = true := hup
    simp only [choosePort, hup', Bool.or_true, if_true]
  have hsend : sendMsg s ⟨part, some port, m⟩ = putMsg { s with links := { s.links with out := [] } } port m := by
    simp [sendMsg, pumpLinks, hout, pumpOne, hchoose, hne]
  obtain ⟨p, hp, -⟩ := portUp_iff.mp hup
  rw [hsend]
  exact putMsg_carries (s := { s with links := { s.links with out := [] } }) hp m

end Sys2Proof.Proofs
end

section
/-! SUPPORT. What a merge of versions, a lease and a completion time change at a home slice, and what an access changes of its thread. -/

namespace Sys2Proof.Proofs

open Machine Claims Laws

/-! ### Committed lines (R59, R69, R156, R214, R218) -/

/-- From `a` to `b` bytes of lines have moved: into memory with their seals and marks, or between versions. -/
def OnlyLines (a b : State) : Prop := b = { a with mem := b.mem, seals := b.seals, dirty := b.dirty, versions := b.versions }

theorem OnlyLines.refl (a : State) : OnlyLines a a := rfl

theorem OnlyLines.trans {a b c : State} (h : OnlyLines a b) (k : OnlyLines b c) : OnlyLines a c := by
  unfold OnlyLines at *
  rw [k, h]

theorem reseal_lines (s : State) (pav line : Nat) (changed : Bool) : OnlyLines s (reseal s pav line changed) := by
  unfold reseal
  split <;> exact rfl

theorem sealSpan_lines (s : State) (pav base n : Nat) : OnlyLines s (sealSpan s pav base n) := by
  unfold sealSpan
  split
  · exact .refl s
  · exact foldl_related .refl .trans (fun s i => reseal_lines s pav (base / 64 + i) false) _ s

theorem wrFor_lines (s : State) (ctx a : Nat) (bs : List Byte) : OnlyLines s (wrFor s ctx a bs) :=
  OnlyLines.trans (b := wrMemBytes s a bs) rfl (sealSpan_lines ..)

theorem commitLine_lines (s : State) (ctx line : Nat) (f : Memory → Memory) : OnlyLines s (commitLine s ctx line f) := by
  have hput : OnlyLines s { noteDirty s ctx line with mem := f (noteDirty s ctx line).mem } := rfl
  unfold commitLine
  split
  · exact .refl s
  · dsimp only
    split
    · split
      · exact hput
      · exact hput.trans (reseal_lines ..)
    · split
      · exact hput.trans (reseal_lines ..)
      · split
        · exact hput
        · exact rfl

theorem mergeVersion_lines (s : State) (v : Version) : OnlyLines s (mergeVersion s v) := by
  unfold mergeVersion
  dsimp only
  split
  · exact OnlyLines.trans (b := { s with versions := s.versions.filter (fun w => !(w.tag == v.tag && w.line == v.line)) }) rfl (commitLine_lines ..)
  · split <;> exact rfl

theorem mergeLine_lines (s : State) (line : Nat) : OnlyLines s (mergeLine s line) :=
  foldl_related .refl .trans (fun s d => foldl_related .refl .trans mergeVersion_lines (aliasedAt s line d) s) _ s

@[simp] theorem mergeLine_links (s : State) (line : Nat) : (mergeLine s line).links = s.links := by rw [mergeLine_lines]

@[simp] theorem wrFor_contexts (s : State) (ctx a : Nat) (bs : List Byte) : (wrFor s ctx a bs).contexts = s.contexts := by rw [wrFor_lines]
@[simp] theorem wrFor_observe (s : State) (ctx a : Nat) (bs : List Byte) : (wrFor s ctx a bs).observe = s.observe := by rw [wrFor_lines]

/-! ### Leases and completion times (R154, R156) -/

/-- A lease changes the home slice's record of the line only. -/
theorem grantLease_frame (s : State) (line t cls : Nat) : (grantLease s line t cls).2 = { s with lines := (grantLease s line t cls).2.lines } := by
  unfold grantLease
  split
  · rfl
  · dsimp only
    split <;> rfl

@[simp] theorem grantLease_links (s : State) (line t cls : Nat) : (grantLease s line t cls).2.links = s.links := by rw [grantLease_frame]

/-! ### Fault records (R40 to R44) -/

/-- From `a` to `b` records have been written: only the host's side and the counts of the contexts differ. -/
def OnlyRecords (a b : State) : Prop := b = { a with hostMem := b.hostMem, host := b.host, contexts := b.contexts }

theorem OnlyRecords.refl (a : State) : OnlyRecords a a := rfl

theorem OnlyRecords.trans {a b c : State} (h : OnlyRecords a b) (k : OnlyRecords b c) : OnlyRecords a c := by
  unfold OnlyRecords at *
  rw [k, h]

theorem host_records (s : State) (m : Memory) (h : HostIf) : OnlyRecords s { s with hostMem := m, host := h } := rfl

theorem modCtx_records (s : State) (id : Nat) (f : Context → Context) : OnlyRecords s (modCtx s id f) := rfl

theorem raiseVector_records (s : State) (fn vec : Nat) : OnlyRecords s (raiseVector s fn vec) := by
  unfold OnlyRecords
  rw [raiseVector_frame]

theorem putFault_records {s s' : State} {base entries head : Nat} {r : FaultRec} (h : putFault s base entries head r = some s') :
    s'.contexts = s.contexts ∧ OnlyRecords s s' := by
  unfold putFault at h
  extract_lets tail bs m at h
  split at h
  · exact absurd h (by simp)
  · rw [← Option.some.inj h]
    exact ⟨rfl, host_records s m _⟩

/-- A record that is written, lost or held changes the host's side and the counts of its context only. The write into an area stands as a
name `put`: the kernel would work out the area's wrap-around in unary. -/
theorem writeFault_records (s : State) (r : FaultRec) : OnlyRecords s (writeFault s r).2 := by
  obtain ⟨put, hput⟩ : ∃ put, put = putFault := ⟨_, rfl⟩
  rw [writeFault, ← hput]
  split
  · split
    · exact host_records s s.hostMem _
    · dsimp only
      split
      · exact host_records s _ _
      · next s' hp =>
        rw [hput] at hp
        exact OnlyRecords.trans ((putFault_records hp).2.trans (host_records s' s'.hostMem _)) (raiseVector_records _ 0 1)
  · split
    · exact .refl s
    · split
      · exact (host_records s _ s.host).trans (modCtx_records ..)
      · next s' hp =>
        rw [hput] at hp
        exact (putFault_records hp).2.trans (modCtx_records ..)

@[simp] theorem writeFault_teams (s : State) (r : FaultRec) : (writeFault s r).2.teams = s.teams := by rw [writeFault_records]
@[simp] theorem writeFault_links (s : State) (r : FaultRec) : (writeFault s r).2.links = s.links := by rw [writeFault_records]

/-- A context's record is written, and counts as one more in its area or as one more lost: nothing else of its context changes (R40, R41). -/
theorem writeFault_ctx {s : State} {r : FaultRec} {c : Context} (h2 : r.stage2 = false) (hc : ctx? s r.ctx = some c) :
    ctx? (writeFault s r).2 r.ctx = some { c with faultHead := c.faultHead + 1, faultDue := true } ∨
      ctx? (writeFault s r).2 r.ctx = some { c with faultLost := c.faultLost + 1 } := by
  obtain ⟨put, hput⟩ : ∃ put, put = putFault := ⟨_, rfl⟩
  rw [writeFault, ← hput, if_neg (by simp [h2]), hc]
  dsimp only
  split
  · exact .inr (ctx_modCtx_same (s := { s with hostMem := _ }) hc (fun c => { c with faultLost := c.faultLost + 1 }) fun _ => rfl)
  · next s' hp =>
    rw [hput] at hp
    have hc' : ctx? s' r.ctx = some c := by simpa only [ctx?, (putFault_records hp).1] using hc
    exact .inl (ctx_modCtx_same hc' (fun c => { c with faultHead := c.faultHead + 1, faultDue := true }) fun _ => rfl)

/-! ### Accesses of a thread's queue (R334) -/

/-- The thread that an update names. -/
theorem thread_modThread_same {s : State} {t : Tid} {th : Thread} (h : thread? s t = some th) (f : Thread → Thread) :
    thread? (modThread s t f) t = some (f th) := by
  rw [thread_modThread, if_pos rfl, h, Option.map_some]

/-- Threads are those of the teams. -/
theorem thread_of_teams {a b : State} (h : b.teams = a.teams) (t : Tid) : thread? b t = thread? a t := by simp only [thread?, group?, team?, h]

theorem acc_of_teams {a b : State} (h : b.teams = a.teams) (t : Tid) (id : Nat) : acc? b t id = acc? a t id := by
  simp only [acc?, thread_of_teams h]

/-- The access of a number, in its thread. -/
theorem acc_some {s : State} {t : Tid} {id : Nat} {a : Access} (h : acc? s t id = some a) :
    ∃ th, thread? s t = some th ∧ th.queue.find? (fun a => a.id == id) = some a :=
  Option.bind_eq_some_iff.mp h

/-- An access after a change that keeps the numbers. -/
theorem acc_modAcc_same {s : State} {t : Tid} {id : Nat} {a : Access} (h : acc? s t id = some a) (f : Access → Access) (hf : ∀ b, (f b).id = b.id) :
    acc? (modAcc s t id f) t id = some (f a) := by
  obtain ⟨th, hth, hfind⟩ := acc_some h
  have hid : a.id == id := List.find?_some (p := fun a : Access => a.id == id) hfind
  simp only [acc?, modAcc, thread_modThread_same hth, Option.bind_some]
  rw [find_updWhere _ _ _ fun b => by rw [hf], hfind, Option.map_some, if_pos hid]

end Sys2Proof.Proofs
end

section
/-! PROOF. Requests and answers of peers, failing links (R19 to R22, R139, R161, R165), and O52. -/

namespace Sys2Proof.Proofs

open Machine Claims Laws

/-! ### Requests of peers (R19, R22, R139, R165) -/

/-- Whether a port is up is a matter of the links. -/
theorem portUp_of_links {a b : State} (h : b.links = a.links) (port : Nat) : portUp b port = portUp a port := by rw [portUp, portUp, h]

/-- A read request is answered on its port with the line and the lease that its home slice grants. -/
theorem serveRead_carries {s : State} {port : Nat} {m : LinkMsg} (hup : portUp s port = true) (hlt : port < 24) (hout : s.links.out = []) :
    let y := mergeLine s (m.addr / 64)
    Carries (serveRead s port m) port
      ⟨.response, m.dev, m.num, 0, 64, 0, none, (grantLease y (m.addr / 64) y.time m.cls).1.getD 0, Machine.seen y 0 0 (m.addr / 64 * 64) 64⟩ := by
  intro y
  have hlinks : (grantLease y (m.addr / 64) y.time m.cls).2.links = s.links := by rw [grantLease_links, mergeLine_links]
  have hup' : portUp (grantLease y (m.addr / 64) y.time m.cls).2 port = true := by rw [portUp_of_links hlinks]; exact hup
  exact sendMsg_answer hup' hlt (by rw [hlinks]; exact hout) 0 _

/-- A write or an atomic within a line waits at its home slice for its completion time. -/
theorem serveWrite_waits {s : State} {port : Nat} {m : LinkMsg} (h : m.addr % 64 + m.data.length ≤ 64) :
    PeerWaits s (serveWrite s port m) port m.dev m.num m.addr m.data m.atom ∧ (serveWrite s port m).links = s.links := by
  have hfits : ¬ 64 < m.addr % 64 + m.data.length := by omega
  simp only [serveWrite, hfits, if_false]
  exact ⟨⟨rfl, rfl⟩, rfl⟩

/-- What waits does not depend on the flit's header. -/
theorem peerWaits_of_arriveFlit {s r : State} {port dev num addr : Nat} {hdr : BitVec 64} {p d : Nat} {bs : List Byte} {atom : Option (AtomOp × Bool)}
    (h : PeerWaits (arriveFlit s p d hdr) r port dev num addr bs atom) : PeerWaits s r port dev num addr bs atom := by
  simpa only [PeerWaits, lineRec, arriveFlit_mem, arriveFlit_waiting, arriveFlit_time, arriveFlit_lines] using h

/-- A write or an atomic that arrives: the bytes of its data within the line. -/
def requestMsg (dev num addr n : Nat) (atom : Option (Nat × Bool)) (data : BitVec 512) : LinkMsg :=
  { (match atom with
      | some (k, value) => atomicMsg dev addr n (AtomOp.numbered k) value (leBytes (min n 64) data.toNat)
      | none => writeMsg dev addr (leBytes (min n 64) data.toNat)) with num := num }

theorem exec_linkWrite (port dev : Nat) (hdr : BitVec 64) (slot num addr n : Nat) (atom : Option (Nat × Bool)) (data : BitVec 512) (s : State) :
    exec (.linkWrite port dev hdr slot num addr ⟨n, atom⟩ data) s = .next (arrive s port hdr slot (requestMsg dev num addr n atom data)) := rfl

/-- A write and an atomic are requests that the home slice serves alike. -/
theorem receive_requestMsg (s : State) (port dev num addr n : Nat) (atom : Option (Nat × Bool)) (data : BitVec 512) :
    receive s true port (requestMsg dev num addr n atom data) = serveWrite s port (requestMsg dev num addr n atom data) := by
  rcases atom with - | ⟨k, value⟩ <;> rfl

theorem requestMsg_fields (dev num addr n : Nat) (atom : Option (Nat × Bool)) (data : BitVec 512) :
    let m := requestMsg dev num addr n atom data
    m.dev = dev ∧ m.num = num ∧ m.addr = addr ∧ m.data = leBytes (min n 64) data.toNat ∧ m.atom = atom.map (fun x => (AtomOp.numbered x.1, x.2)) ∧
      m.slots = 1 + (min n 64 + 15) / 16 := by
  rcases atom with - | ⟨k, value⟩ <;> exact ⟨rfl, rfl, rfl, rfl, rfl, by simp [LinkMsg.slots, requestMsg, atomicMsg, writeMsg]⟩

/-- A request that a port may serve waits at its home slice, whatever flit brought it. -/
theorem receive_waits {s : State} {port dev num addr n : Nat} {atom : Option (Nat × Bool)} {data : BitVec 512} (h : addr % 64 + min n 64 ≤ 64) :
    PeerWaits s (receive s true port (requestMsg dev num addr n atom data)) port dev num addr (leBytes (min n 64) data.toNat)
        (atom.map fun x => (AtomOp.numbered x.1, x.2)) ∧
      (receive s true port (requestMsg dev num addr n atom data)).links = s.links := by
  obtain ⟨hdev, hnum, haddr, hdata, hatom, -⟩ := requestMsg_fields dev num addr n atom data
  have hw := serveWrite_waits (s := s) (port := port) (m := requestMsg dev num addr n atom data) (by rw [haddr, hdata, leBytes_length]; exact h)
  rw [receive_requestMsg]
  rwa [hdev, hnum, haddr, hdata, hatom] at hw

theorem peerServed : PeerServed := by
  refine ⟨fun s port dev hdr slot num addr cls h hslot hallow hlt hout => ?_, fun s port dev hdr slot num addr n atom data h hslot hallow hfit => ?_⟩
  · have hfits : slot + LinkMsg.slots { readMsg dev addr 64 cls with num := num } ≤ 15 := by
      simp only [LinkMsg.slots, readMsg, List.length_nil]
      omega
    have hup : portUp (arriveFlit s port dev hdr) port = true := by rw [portUp_arriveFlit]; exact h.1
    have hx : exec (.linkReadRequest port dev hdr slot num addr cls) s =
        .next (serveRead (arriveFlit s port dev hdr) port { readMsg dev addr 64 cls with num := num }) := by
      show Host.Outcome.next (arrive s port hdr slot { readMsg dev addr 64 cls with num := num }) = _
      rw [arrive_eq h hfits, show portAllows s port ({ readMsg dev addr 64 cls with num := num } : LinkMsg).addr = true from hallow]
      rfl
    exact ⟨_, hx, serveRead_carries hup hlt (arriveFlit_out hout port dev hdr)⟩
  · obtain ⟨hdev, -, haddr, -, -, hslots⟩ := requestMsg_fields dev num addr n atom data
    refine ⟨_, exec_linkWrite .., ?_⟩
    rw [arrive_eq h (by rw [hslots]; omega), hdev, haddr, hallow]
    exact peerWaits_of_arriveFlit (receive_waits hfit).1

/-! ### Answers of peers (R19, R139, R161) -/

/-- An answered request is no longer outstanding. -/
theorem req_dropReq (s : State) (num : Nat) : req? (dropReq s num) num = none := by
  simp only [req?, dropReq, List.find?_eq_none, List.mem_filter]
  simp

/-- Requests are those of the link. -/
theorem req_of_reqs {a b : State} (h : b.links.reqs = a.links.reqs) (num : Nat) : req? b num = req? a num := by simp only [req?, h]

/-- An answer of the device that was asked is performed for those who asked. -/
theorem answered_eq {s : State} {m : LinkMsg} {q : RemoteReq} (hq : req? s m.num = some q) (hdev : q.dev = m.dev) (f : State → RemoteReq → State) :
    answered s m f = f (dropReq s m.num) q := by
  simp only [answered, hq, hdev, beq_self_eq_true, if_true]

/-- The access of a load is gone with its pending marks, and its registers hold the bytes. -/
theorem complete_delivers {s : State} {t : Tid} {th : Thread} {a : Access} {rd : Nat} {sx : Bool} (hth : thread? s t = some th) (hop : a.op = .load rd sx)
    (bs : List Byte) : Delivered (complete s t a bs) t th a rd sx bs ∧ (complete s t a bs).links = s.links := by
  have hrm : thread? (removeAcc s t a.id) t = some { th with queue := th.queue.filter fun b => b.id ≠ a.id } := thread_modThread_same hth _
  simp only [complete, hop]
  exact ⟨thread_modThread_same hrm _, rfl⟩

/-- A peer's line reaches a load, with a lease copy where a lease came with it. -/
theorem takeLine_delivers {s : State} {t : Tid} {th : Thread} {a : Access} {rd : Nat} {sx : Bool} (hth : thread? s t = some th) (hop : a.op = .load rd sx)
    (m : LinkMsg) : Delivered (takeLine s t a m) t th a rd sx (lineBytes m.data (a.pa.getD 0) a.size) ∧ (takeLine s t a m).links = s.links := by
  unfold takeLine
  extract_lets pa x
  have hx : x.teams = s.teams ∧ x.links = s.links := by
    simp only [x]
    split <;> exact ⟨rfl, rfl⟩
  have h := complete_delivers (s := x) (t := t) (by rw [thread_of_teams hx.1]; exact hth) hop (lineBytes m.data pa a.size)
  rwa [hx.2] at h

/-- A store at system scope completes one tick after its acknowledgement. -/
theorem takeAck_completes {s : State} {q : RemoteReq} {t : Tid} {acc : Nat} {th : Thread} {a : Access} (hsrc : q.src = .access [(t, acc)])
    (hth : thread? s t = some th) (hacc : acc? s t acc = some a) :
    (∃ b, acc? (takeAck s q) t acc = some b ∧ b.c = some (s.time + 1)) ∧ (takeAck s q).links = s.links ∧
      ∃ th', thread? (takeAck s q) t = some th' ∧ th'.wctSystem = max th.wctSystem (s.time + 1) := by
  have hq : takeAck s q = raiseWct (modAcc s t acc fun a => { a with c := some (s.time + 1) }) t 0 0 0 (s.time + 1) := by
    simp only [takeAck, hsrc, List.foldl_cons, List.foldl_nil]
  have hmid := acc_modAcc_same hacc (fun a => { a with c := some (s.time + 1) }) fun _ => rfl
  obtain ⟨th1, hth1, hfind⟩ := acc_some hmid
  have hold : thread? (modAcc s t acc fun a => { a with c := some (s.time + 1) }) t = _ := thread_modThread_same hth _
  rw [hq]
  refine ⟨⟨{ a with c := some (s.time + 1) }, ?_, rfl⟩, rfl, _, thread_modThread_same hold _, rfl⟩
  simp only [acc?, raiseWct, thread_modThread_same hth1, Option.bind_some]
  exact hfind

theorem peerAnswers : PeerAnswers := by
  intro s port dev hdr slot num q t acc th a h hq hdev hsrc hth hacc hid
  have hq' : req? (arriveFlit s port dev hdr) num = some q := by rw [req_of_reqs (arriveFlit_reqs ..)]; exact hq
  have hth' : thread? (dropReq (arriveFlit s port dev hdr) num) t = some th :=
    (thread_of_teams (arriveFlit_teams s port dev hdr) t).trans hth
  have hacc' : acc? (dropReq (arriveFlit s port dev hdr) num) t acc = some a :=
    (acc_of_teams (arriveFlit_teams s port dev hdr) t acc).trans hacc
  refine ⟨fun expiry data rd sx hslot hop => ?_, fun hslot => ?_⟩
  · have hfits : slot + LinkMsg.slots ⟨.response, dev, num, 0, 64, 0, none, expiry, leBytes 64 data.toNat⟩ ≤ 15 := by
      simp only [LinkMsg.slots, leBytes_length]
      omega
    have hload : isAtomic a = false := by simp only [isAtomic, hop]
    have hx : exec (.linkReadResponse port dev hdr slot num expiry data) s =
        .next (takeLine (dropReq (arriveFlit s port dev hdr) num) t a ⟨.response, dev, num, 0, 64, 0, none, expiry, leBytes 64 data.toNat⟩) := by
      show Host.Outcome.next (arrive s port hdr slot _) = _
      rw [arrive_eq h hfits]
      simp only [receive, answered_eq (m := ⟨.response, dev, num, 0, 64, 0, none, expiry, leBytes 64 data.toNat⟩) hq' hdev, takeResponse, hsrc, hacc', hload,
        Bool.false_eq_true, if_false]
    obtain ⟨hdel, hlinks⟩ := takeLine_delivers hth' hop ⟨.response, dev, num, 0, 64, 0, none, expiry, leBytes 64 data.toNat⟩
    exact ⟨_, hx, hdel, by rw [req_of_reqs (congrArg Links.reqs hlinks), req_dropReq]⟩
  · have hfits : slot + LinkMsg.slots ⟨.ack, dev, num, 0, 0, 0, none, 0, []⟩ ≤ 15 := by
      simp only [LinkMsg.slots, List.length_nil]
      omega
    have hx : exec (.linkAcknowledgement port dev hdr slot num) s = .next (takeAck (dropReq (arriveFlit s port dev hdr) num) q) := by
      show Host.Outcome.next (arrive s port hdr slot _) = _
      rw [arrive_eq h hfits]
      simp only [receive, answered_eq (m := ⟨.ack, dev, num, 0, 0, 0, none, 0, []⟩) hq' hdev]
    obtain ⟨hc, hlinks, hwct⟩ := takeAck_completes hsrc hth' hacc'
    have htime : (dropReq (arriveFlit s port dev hdr) num).time = s.time := arriveFlit_time s port dev hdr
    rw [htime] at hc hwct
    exact ⟨_, hx, hc, by rw [req_of_reqs (congrArg Links.reqs hlinks), req_dropReq], hwct⟩

/-! ### Failures of a link (R20, R21) -/

theorem exec_crcFailure (port dev : Nat) (s : State) : exec (.crcFailure port dev) s = .next (if portUp s port then askReplay s port dev else s) := rfl

/-- A bad CRC asks for the flit after the last one received. -/
theorem crcFailure_asks {s : State} {port : Nat} {p : Port} (dev : Nat) (hp : s.links.ports[port]? = some p) (hup : p.up = true) :
    ∃ f : Flit, f.kind = 2 ∧ f.dev = dev ∧ f.port = port ∧ f.ack = (seqOf p.rxSeq dev).getD 4095#12 ∧ f.msgs = [] ∧
      exec (.crcFailure port dev) s = .next { s with links := { s.links with sent := s.links.sent ++ [f] } } := by
  have hport : portUp s port = true := portUp_iff.mpr ⟨p, hp, hup⟩
  refine ⟨newFlit s port dev 2, rfl, rfl, rfl, ?_, rfl, ?_⟩
  · simp only [newFlit, hp, Option.getD_some]
  · rw [exec_crcFailure, hport, if_pos rfl]
    rfl

/-- A port after its peer has acknowledged what it received. -/
def acknowledged (dev : Nat) (h : BitVec 64) (p : Port) : Port := { p with replay := p.replay.filter fun f => !(f.dev == dev && atOrBelow f.seq (hdrAck h)) }

theorem exec_linkReplayRequest {s : State} {port : Nat} {hdr : BitVec 64} (dev : Nat) (hup : portUp s port = true) (ht : hdrType hdr = 2) :
    exec (.linkReplayRequest port dev hdr) s = .next (replayFlit (modPort s port (acknowledged dev hdr)) port dev (hdrAck hdr + 1)) := by
  have hx : exec (.linkReplayRequest port dev hdr) s = execLinkReplayRequest port dev hdr s := rfl
  simp only [hx, execLinkReplayRequest, hup, ht, beq_self_eq_true, Bool.and_self, if_true]
  rfl

/-- The flit that is named is sent once more and counted, as long as not eight replays of it have failed. -/
theorem replayFlit_sends {s : State} {port dev : Nat} {seq : BitVec 12} {p : Port} {f : Flit} (hp : s.links.ports[port]? = some p)
    (hf : p.replay.find? (fun f => f.dev == dev && f.seq == seq) = some f) (h8 : f.replays < 8) :
    (replayFlit s port dev seq).links.sent = s.links.sent ++ [{ f with replays := f.replays + 1 }] ∧
      ∃ q, (replayFlit s port dev seq).links.ports[port]? = some q ∧ { f with replays := f.replays + 1 } ∈ q.replay := by
  have hnamed : (f.dev == dev && f.seq == seq) = true := List.find?_some (p := fun f : Flit => f.dev == dev && f.seq == seq) hf
  simp only [replayFlit, hp, Option.getD_some, hf, h8, if_true]
  refine ⟨rfl, _, ports_modPort_same hp _, List.mem_map.mpr ⟨f, List.mem_of_find?_eq_some hf, ?_⟩⟩
  rw [if_pos hnamed]

theorem replayRequest_sends {s : State} {port dev : Nat} {hdr : BitVec 64} {p : Port} {f : Flit} (hp : s.links.ports[port]? = some p) (hup : p.up = true)
    (ht : hdrType hdr = 2) (hf : (acknowledged dev hdr p).replay.find? (fun f => f.dev == dev && f.seq == hdrAck hdr + 1) = some f) (h8 : f.replays < 8) :
    ∃ r, exec (.linkReplayRequest port dev hdr) s = .next r ∧ r.links.sent = s.links.sent ++ [{ f with replays := f.replays + 1 }] ∧
      ∃ q, r.links.ports[port]? = some q ∧ { f with replays := f.replays + 1 } ∈ q.replay :=
  ⟨_, exec_linkReplayRequest dev (portUp_iff.mpr ⟨p, hp, hup⟩) ht, replayFlit_sends (ports_modPort_same hp (acknowledged dev hdr)) hf h8⟩

/-- A port that is down. -/
def downPort (p : Port) : Port := { p with up := false }

/-- The port that takes over does not depend on the failed port's own state. -/
theorem otherPort_down (s : State) (port dev : Nat) : otherPort (modPort s port downPort) port dev = otherPort s port dev := by
  have hup : ∀ p, p ≠ port → portUp (modPort s port downPort) p = portUp s p := by
    intro p hp
    simp only [portUp, ports_modPort_other (fun h => hp h.symm)]
  have hreach : reachOf (modPort s port downPort) dev = reachOf s dev := rfl
  have howner : portOwner (modPort s port downPort) port = portOwner s port := rfl
  simp only [otherPort, hreach, howner]
  congr 1
  funext p
  by_cases hp : p = port
  · simp [hp]
  · rw [hup p hp]

/-- The takeover port is another one, and up. -/
theorem otherPort_some {s : State} {port dev q : Nat} (h : otherPort s port dev = some q) : q ≠ port ∧ portUp s q = true := by
  have hq := List.find?_some h
  simp only [Bool.and_eq_true, decide_eq_true_eq] at hq
  exact ⟨hq.1.1, hq.1.2⟩

/-- A flit of type 1 of a failed port goes on as one of type 3 on the port that takes over, and leaves the failed port's buffer. -/
theorem failFlit_moves {s : State} {port q : Nat} {p : Port} {f : Flit} (hp : s.links.ports[port]? = some p) (hk : f.kind = 1) (ho : otherPort s port f.dev = some q) :
    (failFlit port s f).links.reqs = s.links.reqs ∧
      (failFlit port s f).links.ports[port]? = some { p with replay := p.replay.filter fun x => !(x.dev == f.dev && x.seq == f.seq) } ∧
      ∃ x g, (failFlit port s f).links.ports[q]? = some x ∧ g ∈ x.replay ∧ g.kind = 3 ∧ g.dev = f.dev ∧ g.failed = port ∧ g.orig = f.seq ∧ g.msgs = f.msgs := by
  obtain ⟨hne, hup⟩ := otherPort_some ho
  obtain ⟨x, hx, -⟩ := portUp_iff.mp hup
  let g : Flit := { newFlit s q f.dev 3 with failed := port, orig := f.seq, msgs := f.msgs }
  let y := modPort s port fun p => { p with replay := p.replay.filter fun x => !(x.dev == f.dev && x.seq == f.seq) }
  have hfail : failFlit port s f = sendFlit y g := by simp [failFlit, ho, hk, y, g]
  have hport : y.links.ports[port]? = some { p with replay := p.replay.filter fun x => !(x.dev == f.dev && x.seq == f.seq) } := ports_modPort_same hp _
  have hq : y.links.ports[q]? = some x := by rw [← hx]; exact ports_modPort_other (fun h => hne h.symm) _
  rw [hfail]
  exact ⟨rfl, (ports_modPort_other (i := q) hne _).trans hport, _, g, ports_modPort_same (i := q) hq _, by simp, rfl, rfl, rfl, rfl, rfl⟩

theorem portDown_moves {s : State} {port q : Nat} {p : Port} {f : Flit} (hp : s.links.ports[port]? = some p) (hup : p.up = true) (hr : p.replay = [f])
    (h8 : 8 < f.replays) (hk : f.kind = 1) (ho : otherPort s port f.dev = some q) :
    ∃ r, exec (.portDown port) s = .next r ∧ r.links.reqs = s.links.reqs ∧
      (∃ y, r.links.ports[port]? = some y ∧ y.up = false ∧ y.replay = [] ∧ y.rxSeq = p.rxSeq) ∧
      ∃ x g, r.links.ports[q]? = some x ∧ g ∈ x.replay ∧ g.kind = 3 ∧ g.dev = f.dev ∧ g.failed = port ∧ g.orig = f.seq ∧ g.msgs = f.msgs := by
  have hfailed : portFailed p = true := by simp [portFailed, hr, h8]
  have hdown := ports_modPort_same hp downPort
  have hx : exec (.portDown port) s = .next (failFlit port (modPort s port downPort) f) := by
    have he : exec (.portDown port) s = execPortDown port s := rfl
    have hm : moveFlits (modPort s port downPort) port = failFlit port (modPort s port downPort) f := by
      simp [moveFlits, hdown, downPort, hr]
    simp only [he, execPortDown, hp, hup, hfailed, Bool.and_self, if_true]
    exact congrArg _ hm
  obtain ⟨h1, h2, h3⟩ := failFlit_moves hdown hk (by rw [otherPort_down]; exact ho)
  exact ⟨_, hx, h1, ⟨_, h2, rfl, by simp [downPort, hr], rfl⟩, h3⟩

/-- The number of a resent flit is noted for the failed port, and its messages are being performed (R21). -/
def resentNoted (s : State) (dev : Nat) (hdr : BitVec 64) : State :=
  let x := modPort s (hdrFailed hdr) fun p => { p with rxSeq := setSeq p.rxSeq dev (hdrOrig hdr) }
  { x with links := { x.links with resent := some (dev, hdrFailed hdr, hdrOrig hdr) } }

section
variable {s : State} {port dev : Nat} {hdr : BitVec 64} {p : Port} (h : Receives s port hdr 3) (hne : port ≠ hdrFailed hdr)
  (hp : s.links.ports[hdrFailed hdr]? = some p) (hres : s.links.resent ≠ some (dev, hdrFailed hdr, hdrOrig hdr))
  (slot kind num addr : Nat) (form : WriteForm) (cls expiry : Nat) (data : BitVec 512)
include h hne hp hres

/-- A resent flit that the failed port has received is dropped. -/
theorem failover_drops (hx : ∃ x, seqOf p.rxSeq dev = some x ∧ atOrBelow (hdrOrig hdr) x = true) :
    exec (.failoverMessage port dev hdr slot kind num addr form cls expiry data) s = .next (arriveFlit s port dev hdr) := by
  obtain ⟨hup, htype⟩ := h
  obtain ⟨x, hseq, hbelow⟩ := hx
  obtain ⟨q, hq, hrx⟩ := arriveFlit_rxSeq (s := s) hne hp dev hdr
  have he : exec (.failoverMessage port dev hdr slot kind num addr form cls expiry data) s =
    execFailoverMessage port dev hdr slot kind num addr form cls expiry data s := rfl
  simp [he, execFailoverMessage, hup, htype, hres, hq, hrx, hseq, hbelow]

/-- Another is performed, and its number is noted for the failed port. -/
theorem failover_performs (hx : ∀ x, seqOf p.rxSeq dev = some x → atOrBelow (hdrOrig hdr) x = false) :
    exec (.failoverMessage port dev hdr slot kind num addr form cls expiry data) s =
      .next (receiveAt (resentNoted (arriveFlit s port dev hdr) dev hdr) slot port (eventMsg kind dev num addr form cls expiry data)) := by
  obtain ⟨hup, htype⟩ := h
  obtain ⟨q, hq, hrx⟩ := arriveFlit_rxSeq (s := s) hne hp dev hdr
  have he : exec (.failoverMessage port dev hdr slot kind num addr form cls expiry data) s =
    execFailoverMessage port dev hdr slot kind num addr form cls expiry data s := rfl
  cases hs : seqOf p.rxSeq dev with
  | none => simp [he, execFailoverMessage, hup, htype, hres, hq, hrx, hs, resentNoted]
  | some x => simp [he, execFailoverMessage, hup, htype, hres, hq, hrx, hs, hx x hs, resentNoted]

end

/-- A resent write that the failed port had not received waits for its completion time (R21). -/
theorem failover_write {s : State} {port dev : Nat} {hdr : BitVec 64} {p : Port} (h : Receives s port hdr 3) (hne : port ≠ hdrFailed hdr)
    (hp : s.links.ports[hdrFailed hdr]? = some p) (hres : s.links.resent ≠ some (dev, hdrFailed hdr, hdrOrig hdr))
    (hx : ∀ x, seqOf p.rxSeq dev = some x → atOrBelow (hdrOrig hdr) x = false) {slot num addr n : Nat} {atom : Option (Nat × Bool)} (cls expiry : Nat)
    (data : BitVec 512) (hslot : slot + 1 + (min n 64 + 15) / 16 ≤ 15) (hallow : portAllows s port addr = true) (hfit : addr % 64 + min n 64 ≤ 64) :
    ∃ r, exec (.failoverMessage port dev hdr slot 1 num addr ⟨n, atom⟩ cls expiry data) s = .next r ∧
      PeerWaits s r port dev num addr (leBytes (min n 64) data.toNat) none ∧
      ∃ q, r.links.ports[hdrFailed hdr]? = some q ∧ seqOf q.rxSeq dev = some (hdrOrig hdr) := by
  have hmsg : eventMsg 1 dev num addr ⟨n, atom⟩ cls expiry data = requestMsg dev num addr n none data := rfl
  obtain ⟨-, -, haddr, -, -, hslots⟩ := requestMsg_fields dev num addr n none data
  have hallow' : portAllows (resentNoted (arriveFlit s port dev hdr) dev hdr) port addr = true := (portAllows_arriveFlit s port dev hdr port addr).trans hallow
  obtain ⟨q, hq, -⟩ := arriveFlit_rxSeq (s := s) hne hp dev hdr
  refine ⟨_, failover_performs h hne hp hres slot 1 num addr ⟨n, atom⟩ cls expiry data hx, ?_⟩
  rw [hmsg, receiveAt_eq (by rw [hslots]; omega), haddr, hallow']
  obtain ⟨hwaits, hlinks⟩ := receive_waits (s := resentNoted (arriveFlit s port dev hdr) dev hdr) (port := port) (dev := dev) (num := num) (atom := none) (data := data) hfit
  refine ⟨peerWaits_of_arriveFlit (hdr := hdr) (p := port) (d := dev) hwaits, ?_⟩
  rw [hlinks]
  exact ⟨_, ports_modPort_same hq _, seqOf_setSeq ..⟩

/-! ### The end of a request without an answer (R20) -/

theorem exec_peerTimeout {s : State} {num : Nat} {q : RemoteReq} (hq : req? s num = some q) (h : q.issued + 80000 ≤ s.time) :
    exec (.peerTimeout num) s = .next (abortRemote (dropMsg (dropReq s num) q) q) := by
  have he : exec (.peerTimeout num) s = execPeerTimeout num s := rfl
  simp only [he, execPeerTimeout, hq, h, if_true]

/-- The context of a thread is that of its team. -/
theorem tidCtx_some {s : State} {t : Tid} {c : Context} (h : tidCtx s t = some c) : ∃ tm, team? s t.team = some tm ∧ ctx? s tm.ctx = some c ∧ c.id = tm.ctx := by
  simp only [tidCtx, teamCtx] at h
  split at h
  · next tm htm =>
    have hid : c.id == tm.ctx := List.find?_some (p := fun c : Context => c.id == tm.ctx) h
    exact ⟨tm, htm, h, by simpa using hid⟩
  · cases h

/-- A store that fails leaves its queue and is reported by a record of its context. -/
theorem failLane_store {s : State} {t : Tid} {acc : Nat} {c : Context} {a : Access} {th : Thread} (hc : tidCtx s t = some c) (ha : acc? s t acc = some a)
    (hop : a.op = .store) (hth : thread? s t = some th) (cause : Cause) :
    (failLane s cause (t, acc)).links = s.links ∧ thread? (failLane s cause (t, acc)) t = some { th with queue := th.queue.filter fun b => b.id ≠ acc } ∧
      ∃ k, ctx? (failLane s cause (t, acc)) c.id = some k ∧ (k.faultHead = c.faultHead + 1 ∨ k.faultLost = c.faultLost + 1) := by
  obtain ⟨tm, htm, hctx, hid⟩ := tidCtx_some hc
  let rec' := threadFault s t cause.code a.pc a.va (peerDetail cause a.va.toNat)
  have hrec : rec'.stage2 = false ∧ rec'.ctx = c.id := by simp only [rec', threadFault, htm, hid, and_self]
  have hnone : (a.op.dests a.size).isEmpty = true := by simp only [hop, AccOp.dests, List.isEmpty_nil]
  have hfail : failLane s cause (t, acc) = (writeFault (removeAcc s t acc) rec').2 := by
    simp only [failLane, ha, hnone, if_true]
    rfl
  have hkeep : ctx? (removeAcc s t acc) rec'.ctx = some c := by rw [hrec.2, hid]; exact hctx
  rw [hfail]
  refine ⟨by simp [removeAcc], ?_, ?_⟩
  · rw [thread_of_teams (writeFault_teams ..)]
    exact thread_modThread_same hth _
  · rcases writeFault_ctx hrec.1 hkeep with h | h
    · rw [hrec.2] at h
      exact ⟨_, h, .inl rfl⟩
    · rw [hrec.2] at h
      exact ⟨_, h, .inr rfl⟩

theorem peerTimeout_ends {s : State} {num : Nat} {q : RemoteReq} {t : Tid} {acc : Nat} {c : Context} {a : Access} {th : Thread} (hq : req? s num = some q)
    (hsrc : q.src = .access [(t, acc)]) (hc : tidCtx s t = some c) (ht : q.issued + 80000 ≤ s.time) (ha : acc? s t acc = some a) (hop : a.op = .store)
    (hth : thread? s t = some th) :
    ∃ r, exec (.peerTimeout num) s = .next r ∧ req? r num = none ∧ thread? r t = some { th with queue := th.queue.filter fun b => b.id ≠ acc } ∧
      ∃ k, ctx? r c.id = some k ∧ (k.faultHead = c.faultHead + 1 ∨ k.faultLost = c.faultLost + 1) := by
  have hx : abortRemote (dropMsg (dropReq s num) q) q = failLane (dropMsg (dropReq s num) q) .externalAbort (t, acc) := by
    simp only [abortRemote, hsrc, List.foldl_cons, List.foldl_nil]
  obtain ⟨hlinks, hthread, hctx⟩ := failLane_store (s := dropMsg (dropReq s num) q) hc ha hop hth .externalAbort
  refine ⟨_, exec_peerTimeout hq ht, ?_⟩
  rw [hx]
  exact ⟨by rw [req_of_reqs (congrArg Links.reqs hlinks)]; exact req_dropReq s num, hthread, hctx⟩

theorem linkFails : LinkFails :=
  ⟨fun _ _ dev _ hp hup => crcFailure_asks dev hp hup,
    fun _ _ _ _ _ _ hp hup ht hf h8 => replayRequest_sends hp hup ht hf h8,
    fun _ _ _ _ _ hp hup hr h8 hk ho => portDown_moves hp hup hr h8 hk ho,
    fun _ _ _ _ slot kind num addr n cls atom expiry data _ h hne hp hres =>
      ⟨fun hx => failover_drops h hne hp hres slot kind num addr ⟨n, atom⟩ cls expiry data hx,
        fun hx hk hslot hallow hfit => hk ▸ failover_write h hne hp hres hx cls expiry data hslot hallow hfit⟩,
    fun _ _ _ _ _ _ _ _ hq hsrc hc ht ha hop hth => peerTimeout_ends hq hsrc hc ht ha hop hth⟩

/-- Settles O52: a flit that arrives changes the link only, so each message meets the memory, threads and requests that stood before it. -/
theorem linksAndPeers : Obligations.LinksAndPeers := ⟨peerServed, peerAnswers, linkFails⟩

end Sys2Proof.Proofs
end

section
/-! SUPPORT. What the removal and the pre-emption of teams leave alone, forks under way included (R34, R82, R228). -/

namespace Sys2Proof.Proofs

open Machine Claims Laws

/-- A context but for the cells of its save area that are taken. -/
def ctxShape (c : Context) : Context := { c with cellsUsed := [] }

/-- From `a` to `b` teams have changed, gone or given up their places, and nothing of a context but its taken cells. -/
structure OnlyPlaces (a b : State) : Prop where
  frame : b = { a with
    teams := b.teams, slots := b.slots, waiters := b.waiters, launches := b.launches, forks := b.forks, families := b.families, views := b.views
    engines := b.engines, matrix := b.matrix, bulk := b.bulk, locks := b.locks, tiles := b.tiles, pins := b.pins, ageing := b.ageing
    troughs := b.troughs, gate := b.gate, contexts := b.contexts }
  shapes : b.contexts.map ctxShape = a.contexts.map ctxShape

theorem OnlyPlaces.refl (a : State) : OnlyPlaces a a := ⟨rfl, rfl⟩

theorem OnlyPlaces.trans {a b c : State} (h : OnlyPlaces a b) (k : OnlyPlaces b c) : OnlyPlaces a c :=
  ⟨by rw [k.frame, h.frame], k.shapes.trans h.shapes⟩

theorem OnlyPlaces.fold {α : Type} {g : State → α → State} (h : ∀ s x, OnlyPlaces s (g s x)) (l : List α) (s : State) : OnlyPlaces s (l.foldl g s) :=
  foldl_related .refl .trans h l s

theorem modCtx_shapes (s : State) (id : Nat) (f : Context → Context) (hf : ∀ c, ctxShape (f c) = ctxShape c) :
    (modCtx s id f).contexts.map ctxShape = s.contexts.map ctxShape := by
  simp only [modCtx, updWhere, List.map_map]
  refine List.map_congr_left fun c _ => ?_
  simp only [Function.comp_apply]
  split <;> simp [hf]

/-- A context that is found has a counterpart of the same shape. -/
theorem ctx_of_shapes {a b : State} (h : b.contexts.map ctxShape = a.contexts.map ctxShape) {id : Nat} {c : Context} (hc : ctx? a id = some c) :
    ∃ c', ctx? b id = some c' ∧ ctxShape c' = ctxShape c := by
  have hfind : ∀ s : State, (ctx? s id).map ctxShape = (s.contexts.map ctxShape).find? fun c => c.id == id := by
    intro s
    rw [List.find?_map]
    rfl
  have hmap : (ctx? b id).map ctxShape = some (ctxShape c) := by rw [hfind, h, ← hfind, hc, Option.map_some]
  exact Option.map_eq_some_iff.mp hmap

theorem modThread_places (s : State) (t : Tid) (f : Thread → Thread) : OnlyPlaces s (modThread s t f) := ⟨rfl, rfl⟩

theorem poisonStatus_places (s : State) (ts : List Tid) (tok rd : Nat) : OnlyPlaces s (poisonStatus s ts tok rd) :=
  OnlyPlaces.fold (fun s t => modThread_places s t _) ts s

theorem cancelEngines_places (s : State) (team : Nat) : OnlyPlaces s (cancelEngines s team) := by
  unfold cancelEngines
  extract_lets es ms x y
  have hx : OnlyPlaces s x := .fold (fun s e => poisonStatus_places s e.tids e.id e.rd) es s
  have hy : OnlyPlaces x y := .fold (fun s m => .fold (fun s r => poisonStatus_places s m.tids m.tok r) m.dests s) ms x
  exact (hx.trans hy).trans ⟨rfl, rfl⟩

theorem leaveGranules_places (s : State) (team : Nat) : OnlyPlaces s (leaveGranules s team) := ⟨rfl, rfl⟩

theorem freePlace_places (s : State) (team : Nat) : OnlyPlaces s (freePlace s team) := by
  unfold freePlace
  extract_lets x y
  have hx : OnlyPlaces s x := ⟨rfl, rfl⟩
  have hy : OnlyPlaces x y := by
    simp only [y]
    split
    · split
      · exact ⟨rfl, modCtx_shapes x _ _ fun _ => rfl⟩
      · exact .refl x
    · exact .refl x
  exact (hx.trans hy).trans ⟨rfl, rfl⟩

theorem removeTeam_places (s : State) (team : Nat) : OnlyPlaces s (removeTeam s team) := by
  unfold removeTeam
  extract_lets x
  have hx : OnlyPlaces s x := ((cancelEngines_places s team).trans (leaveGranules_places ..)).trans (freePlace_places ..)
  clear_value x
  exact hx.trans ⟨rfl, rfl⟩

theorem undoFork_places (s : State) (f : Fork) : OnlyPlaces s (undoFork s f) := by
  unfold undoFork
  extract_lets others tags x y back
  have hx : OnlyPlaces s x := OnlyPlaces.fold (g := fun s (w : World) => removeTeam s w.team) (fun s w => removeTeam_places s w.team) others s
  have hy : OnlyPlaces x y := ⟨rfl, rfl⟩
  split
  · exact (hx.trans hy).trans ⟨rfl, rfl⟩
  · exact hx.trans hy

theorem stopChoice_places (s : State) (f : Fork) (win : Nat) : OnlyPlaces s (stopChoice s f win).2 := by
  unfold stopChoice
  extract_lets x y
  have hx : OnlyPlaces s x := ⟨rfl, rfl⟩
  have hy : OnlyPlaces x y := by
    simp only [y]
    split
    · exact .refl x
    · exact OnlyPlaces.trans (b := replaceTeam x f (f.teamOf 0) (f.teamOf win)) ⟨rfl, rfl⟩ (removeTeam_places ..)
  exact (hx.trans hy).trans ⟨rfl, rfl⟩

theorem cutTeam_places (s : State) (id : Nat) (why : PreemptWhy) : OnlyPlaces s (cutTeam s id why) := by
  have h := (cutTeam_teamwork s id why).1
  exact ⟨by rw [h], by rw [h]⟩

theorem requestTeam_places (s : State) (id : Nat) (why : PreemptWhy) : OnlyPlaces s (requestTeam s id why) := by
  unfold requestTeam
  split
  · exact .refl s
  · next t _ =>
    split
    · exact .refl s
    · split
      · split
        · exact .refl s
        · exact cutTeam_places s id why
      · next f _ =>
        split
        · exact .refl s
        · split
          · next w _ =>
            split
            · exact cutTeam_places s id why
            · exact (stopChoice_places s f w).trans (cutTeam_places ..)
          · split
            · dsimp only
              split
              · exact (undoFork_places s f).trans (cutTeam_places ..)
              · exact undoFork_places s f
            · exact cutTeam_places s id why

/-- A suspension marks its context and holds its teams back. -/
theorem suspendCtx_places (s : State) (ctx who : Nat) : OnlyPlaces (modCtx s ctx (suspendedCtx who)) (suspendCtx s ctx who) :=
  OnlyPlaces.fold (fun s (t : Team) => requestTeam_places s t.id .suspend) _ _

end Sys2Proof.Proofs
end

section
/-! PROOF. Watchdog, samplers, power, errors and temperature (R9 to R15, R96, R97, R239), and O50. -/

namespace Sys2Proof.Proofs

open Machine Claims Laws

/-! ### The watchdog (R96, R97) -/

theorem modCtx_ids (s : State) (id : Nat) (f : Context → Context) (hf : ∀ c, (f c).id = c.id) :
    (modCtx s id f).contexts.map Context.id = s.contexts.map Context.id := by
  simp only [modCtx, updWhere, List.map_map]
  refine List.map_congr_left fun c _ => ?_
  simp only [Function.comp_apply]
  split <;> simp [hf]

/-- A record adds no context and takes none away. -/
theorem writeFault_ids (s : State) (r : FaultRec) : (writeFault s r).2.contexts.map Context.id = s.contexts.map Context.id := by
  obtain ⟨put, hput⟩ : ∃ put, put = putFault := ⟨_, rfl⟩
  rw [writeFault, ← hput]
  split
  · split
    · rfl
    · dsimp only
      split
      · rfl
      · next s' hp =>
        rw [hput] at hp
        rw [raiseVector_frame]
        exact congrArg _ (putFault_records hp).1
  · split
    · rfl
    · split
      · exact modCtx_ids _ _ _ fun _ => rfl
      · next s' hp =>
        rw [hput] at hp
        exact (modCtx_ids s' r.ctx (fun c => { c with faultHead := c.faultHead + 1, faultDue := true }) fun _ => rfl).trans (congrArg _ (putFault_records hp).1)

/-- A context stands as long as its number does. -/
theorem ctx_isSome_of_ids {a b : State} (h : b.contexts.map Context.id = a.contexts.map Context.id) (id : Nat) :
    (ctx? b id).isSome = (ctx? a id).isSome := by
  have hany : ∀ s : State, (ctx? s id).isSome = (s.contexts.map Context.id).any fun i => i == id := by
    intro s
    rw [Bool.eq_iff_iff, ctx?, List.find?_isSome, List.any_map, List.any_eq_true]
    rfl
  rw [hany, hany, h]

/-- A context that a suspension leaves suspended, with its idle ticks cleared, whatever record was written before. -/
theorem watchdog_suspends {s : State} {id : Nat} {c : Context} (hc : ctx? s id = some c) (r : FaultRec) :
    ∃ c', ctx? (suspendCtx (modCtx (writeFault s r).2 id fun c => { c with idle := 0 }) id 1) id = some c' ∧ c'.suspended = true ∧ 1 ∈ c'.suspendedBy ∧
      c'.idle = 0 := by
  have hsome : (ctx? (writeFault s r).2 id).isSome := by rw [ctx_isSome_of_ids (writeFault_ids s r), hc, Option.isSome_some]
  obtain ⟨k, hk⟩ := Option.isSome_iff_exists.mp hsome
  have hidle := ctx_modCtx_same hk (fun c => { c with idle := 0 }) fun _ => rfl
  have hsus := ctx_modCtx_same hidle (suspendedCtx 1) fun _ => rfl
  obtain ⟨c', hc', hshape⟩ := ctx_of_shapes (suspendCtx_places _ id 1).shapes hsus
  have hs : c'.suspended = true := (congrArg Context.suspended hshape :)
  have hby : c'.suspendedBy = (suspendedCtx 1 { k with idle := 0 }).suspendedBy := (congrArg Context.suspendedBy hshape :)
  have hi : c'.idle = 0 := (congrArg Context.idle hshape :)
  exact ⟨c', hc', hs, hby ▸ mem_suspendedBy 1 _, hi⟩

/-- A quiescent notice is posted once. -/
theorem watchdog_notices {s : State} {id : Nat} {c : Context} (hc : ctx? s id = some c) :
    let x := modCtx s id fun c => { c with idle := 0, noticed := true }
    ∃ c', ctx? (if c.noticed then x else (writeFault x { plainFault id 1 0 0 with info := true }).2) id = some c' ∧ c'.idle = 0 ∧ c'.noticed = true ∧
      c'.suspended = c.suspended ∧ (c.noticed = true → c'.faultHead = c.faultHead) := by
  intro x
  have hx : ctx? x id = some { c with idle := 0, noticed := true } := ctx_modCtx_same hc _ fun _ => rfl
  split
  · exact ⟨_, hx, rfl, rfl, rfl, fun _ => rfl⟩
  · next hn =>
    rcases writeFault_ctx (r := { plainFault id 1 0 0 with info := true }) rfl hx with h | h
    · exact ⟨_, h, rfl, rfl, rfl, fun hn' => absurd hn' hn⟩
    · exact ⟨_, h, rfl, rfl, rfl, fun hn' => absurd hn' hn⟩

theorem exec_watchdogExpiry (id : Nat) (s : State) : exec (.watchdogExpiry id) s = execWatchdogExpiry id s := rfl

theorem watchdogFires : WatchdogFires := by
  intro s c hc hidle hsleep all ext
  have hlt : ¬ c.idle < c.window := by omega
  constructor
  · rintro ⟨t, ht, hext⟩
    obtain ⟨u, hu⟩ := Option.isSome_iff_exists.mp (List.find?_isSome.mpr ⟨t, ht, by simpa using hext⟩ : (all.find? fun t => !ext.contains t).isSome)
    refine ⟨_, ?_, watchdog_suspends hc (threadFault s u Cause.watchdog.code (match thread? s u with | some th => th.pc.off | none => 0) 0 0)⟩
    simp only [exec_watchdogExpiry, execWatchdogExpiry, hc, hlt, hsleep, decide_false, Bool.or_false, Bool.false_eq_true, if_false]
    rw [hu] <;> rfl
  · intro hall
    have hnone : all.find? (fun t => !ext.contains t) = none := List.find?_eq_none.mpr fun t ht => by simpa using hall t ht
    refine ⟨_, ?_, watchdog_notices hc⟩
    simp only [exec_watchdogExpiry, execWatchdogExpiry, hc, hlt, hsleep, decide_false, Bool.or_false, Bool.false_eq_true, if_false]
    rw [hnone]

/-! ### Samples (R239) -/

theorem ringWrite_observe (s : State) (ctx : Nat) (bs : List Byte) : (ringWrite s ctx bs).observe = s.observe := by
  unfold ringWrite
  split
  · rfl
  · split
    · rw [modCtx_observe, wrFor_observe]
    · rfl

/-- A record joins a ring that has room. -/
theorem ringWrite_head {s : State} {id : Nat} {c : Context} (hc : ctx? s id = some c) (hroom : c.ringHead - c.ringTail < c.ringSize) (bs : List Byte) :
    ∃ c', ctx? (ringWrite s id bs) id = some c' ∧ c'.ringHead = c.ringHead + 1 := by
  simp only [ringWrite, hc, hroom, if_true]
  have hw : ctx? (wrFor s id (c.ringBase + 64 * (c.ringHead % c.ringSize)) bs) id = some c := by rw [ctx?, wrFor_contexts]; exact hc
  exact ⟨_, ctx_modCtx_same hw (fun c => { c with ringHead := c.ringHead + 1 }) fun _ => rfl, rfl⟩

theorem exec_sample (core quad : Nat) (s : State) : exec (.sample core quad) s = execSample core quad s := rfl

/-- The samplers of a state after the sampler of a quadrant and a context has drawn its next interval. -/
def resampled (s : State) (x : Sampler) (base : Nat) : State :=
  let y := lfsrNext x.lfsr
  let ss := updWhere (fun (z : Sampler) => z.core == x.core && z.quad == x.quad && z.ctx == x.ctx)
    (fun z => { z with lfsr := y, next := z.next + base + y.toNat % base }) s.observe.samplers
  { s with observe := { s.observe with samplers := ss } }

/-- The slots of the sampler's quadrant whose flock belongs to its context. -/
def sampledSlots (s : State) (x : Sampler) : List Slot :=
  s.slots.filter fun sl => sl.core == x.core && sl.quad == x.quad && (match sl.flock with
    | t :: _ => (match team? s t.team with | some tm => tm.ctx == x.ctx | none => false)
    | [] => false)

/-- A sample draws the interval, and writes a record if a flock of the context stands in the quadrant. -/
theorem sample_cases {s : State} {x : Sampler} {c : Context}
    (hx : s.observe.samplers.find? (fun y => y.core == x.core && y.quad == x.quad && decide (y.next ≤ s.time)) = some x) (hc : ctx? s x.ctx = some c) :
    ∃ r, exec (.sample x.core x.quad) s = .next r ∧
      ((r = resampled s x c.sample.toNat ∧ sampledSlots s x = []) ∨ ∃ bs, r = ringWrite (resampled s x c.sample.toNat) x.ctx bs) := by
  rw [exec_sample, execSample, hx]
  dsimp only
  rw [hc]
  refine ⟨_, rfl, ?_⟩
  split
  · next hmin =>
    have hmin' : minBy (fun (sl : Slot) => sl.due) (sampledSlots s x) = none := hmin
    refine .inl ⟨rfl, ?_⟩
    by_contra hne
    obtain ⟨sl, hsl⟩ := minBy_some (fun (sl : Slot) => sl.due) hne
    rw [hmin'] at hsl
    cases hsl
  · next sl hmin =>
    have hmem : sl ∈ sampledSlots s x := minBy_mem (fun (sl : Slot) => sl.due) _ _ hmin
    split
    · next hlane =>
      have hne : sl.flock ≠ [] := by
        intro hnil
        simp [sampledSlots, hnil] at hmem
      obtain ⟨t, ht⟩ := minBy_some (fun (t : Tid) => t.lane) hne
      rw [hlane] at ht
      cases ht
    · exact .inr ⟨_, rfl⟩

theorem ctx_resampled (s : State) (x : Sampler) (base id : Nat) : ctx? (resampled s x base) id = ctx? s id := rfl

/-- The one sampler of its quadrant and context has drawn the interval. -/
theorem mem_resampled {s : State} {x : Sampler} (base : Nat)
    (hone : s.observe.samplers.filter (fun y => y.core == x.core && y.quad == x.quad && y.ctx == x.ctx) = [x]) :
    { x with lfsr := lfsrNext x.lfsr, next := x.next + base + (lfsrNext x.lfsr).toNat % base } ∈ (resampled s x base).observe.samplers := by
  have hmem : x ∈ s.observe.samplers := List.mem_of_mem_filter (hone ▸ List.mem_singleton_self x)
  exact List.mem_map.mpr ⟨x, hmem, by simp⟩

theorem samples : Samples := by
  intro s x c hx hc hone
  obtain ⟨r, hr, hcases⟩ := sample_cases hx hc
  have hobs : r.observe = (resampled s x c.sample.toNat).observe := by
    obtain ⟨rfl, -⟩ | ⟨bs, rfl⟩ := hcases
    · rfl
    · rw [ringWrite_observe]
  refine ⟨r, hr, ⟨_, by rw [hobs]; exact mem_resampled _ hone, rfl⟩, fun sl t tm hsl hcore hquad ht htm hctx hroom => ?_⟩
  obtain ⟨-, hempty⟩ | ⟨bs, rfl⟩ := hcases
  · obtain ⟨ts, hflock⟩ := List.head?_eq_some_iff.mp ht
    have hmem : sl ∈ sampledSlots s x := by simp [sampledSlots, hsl, hcore, hquad, hflock, htm, hctx]
    rw [hempty] at hmem
    cases hmem
  · exact ringWrite_head (by rw [ctx_resampled]; exact hc) hroom bs

/-! ### Power (R10 to R16) -/

theorem modIsland_same {s : State} {i : Nat} {x : Island} (h : s.islands[i]? = some x) (f : Island → Island) : (modIsland s i f).islands[i]? = some (f x) := by
  simp only [modIsland, updAt_get, if_true, h, Option.map_some]

theorem modIsland_other {i j : Nat} (h : j ≠ i) (s : State) (f : Island → Island) : (modIsland s i f).islands[j]? = s.islands[j]? := by
  simp only [modIsland, updAt_get, if_neg h.symm]

theorem setLimit_same {s : State} {i : Nat} {x : Island} (h : s.islands[i]? = some x) (bit : Nat) (b : Bool) :
    (setLimit s i bit b).islands[i]? = some { x with limit := setBit x.limit bit b } := modIsland_same h _

theorem islandPreempting_setLimit (s : State) (i bit : Nat) (b : Bool) (j : Nat) : islandPreempting (setLimit s i bit b) j = islandPreempting s j := rfl

/-- A change of step that takes effect: at step 0 neither the power limit nor management holds the island. -/
theorem takeStep_same {s : State} {i : Nat} {x : Island} (h : s.islands[i]? = some x) (k : Nat) :
    IslandIs (takeStep s i k) i { x with step := k, limit := if k = 0 then setBit (setBit x.limit 0 false) 2 false else x.limit, deferred := none, phase := 0 } := by
  have hset : (setStep s i k).islands[i]? = some { x with step := k, deferred := none, phase := 0 } := modIsland_same h _
  by_cases hk : k = 0
  · subst hk
    exact modIsland_same (modIsland_same hset _) _
  · simpa only [IslandIs, takeStep, beq_iff_eq, hk, if_false] using hset

theorem takeStep_other {i j : Nat} (h : j ≠ i) (s : State) (k : Nat) : (takeStep s i k).islands[j]? = s.islands[j]? := by
  unfold takeStep
  dsimp only
  split
  · rw [setLimit, modIsland_other h, setLimit, modIsland_other h, setStep, modIsland_other h]
  · exact modIsland_other h s _

/-- A change of step takes effect, or is deferred while a pre-emption of the island is under way. -/
theorem changeStep_same {s : State} {i : Nat} {x : Island} (h : s.islands[i]? = some x) (k : Nat) :
    IslandIs (changeStep s i k) i (if islandPreempting s i then { x with deferred := some k }
      else { x with step := k, limit := if k = 0 then setBit (setBit x.limit 0 false) 2 false else x.limit, deferred := none, phase := 0 }) := by
  unfold changeStep
  split
  · exact modIsland_same h _
  · exact takeStep_same h k

theorem changeStep_other {i j : Nat} (h : j ≠ i) (s : State) (k : Nat) : (changeStep s i k).islands[j]? = s.islands[j]? := by
  unfold changeStep
  split
  · exact modIsland_other h s _
  · exact takeStep_other h s k

theorem stepOf_eq {s : State} {i : Nat} {x : Island} (h : s.islands[i]? = some x) : stepOf s i = x.step := by rw [stepOf, h]

theorem powerLimitSet_sets {w : Nat} (hlow : 1200 ≤ w) (hhigh : w ≤ 2800) (hten : w % 10 = 0) (s : State) :
    exec (.powerLimitSet w) s = .next { s with powerLimit := w } := by
  have hx : exec (.powerLimitSet w) s = execPowerLimitSet w s := rfl
  simp [hx, execPowerLimitSet, hlow, hhigh, hten]

theorem exec_powerWindow (w : Nat) (s : State) : exec (.powerWindow w) s = execPowerWindow w s := rfl

/-- A window above the limit: the limit holds the next island, one step lower. -/
theorem powerWindow_lowers {s : State} {w i : Nat} {x : Island} (hw : s.powerLimit < w) (hi : nextLower s = some i) (hx : s.islands[i]? = some x) :
    ∃ r, exec (.powerWindow w) s = .next r ∧ (∀ j ≠ i, r.islands[j]? = s.islands[j]?) ∧
      IslandIs r i (if islandPreempting s i then { x with limit := setBit x.limit 0 true, deferred := some (x.step + 1) }
        else { x with step := x.step + 1, limit := setBit x.limit 0 true, deferred := none, phase := 0 }) := by
  refine ⟨changeStep (setLimit s i 0 true) i (x.step + 1), ?_, fun j hj => ?_, ?_⟩
  · simp only [exec_powerWindow, execPowerWindow, hw, if_true, hi, stepOf_eq hx]
  · rw [changeStep_other hj, setLimit, modIsland_other hj]
  · have h := changeStep_same (setLimit_same hx 0 true) (x.step + 1)
    simpa only [islandPreempting_setLimit, Nat.add_eq_zero_iff, Nat.one_ne_zero, and_false, if_false] using h

/-- An island that is raised is held by the power limit alone. -/
theorem nextRaise_limit {s : State} {i : Nat} {x : Island} (hi : nextRaise s = some i) (hx : s.islands[i]? = some x) : x.limit = 1#4 := by
  have hmem := minBy_mem _ _ _ hi
  simp only [List.mem_filter, hx, Bool.and_eq_true, beq_iff_eq] at hmem
  exact hmem.2.1.1.1

/-- A window below 95% of the limit: the next island is one step higher, and at step 0 nothing holds it. -/
theorem powerWindow_raises {s : State} {w i : Nat} {x : Island} (hw : w ≤ s.powerLimit) (h95 : w * 100 < s.powerLimit * 95) (hi : nextRaise s = some i)
    (hx : s.islands[i]? = some x) :
    ∃ r, exec (.powerWindow w) s = .next r ∧ (∀ j ≠ i, r.islands[j]? = s.islands[j]?) ∧
      IslandIs r i (if islandPreempting s i then { x with deferred := some (x.step - 1) }
        else { x with step := x.step - 1, limit := if x.step - 1 = 0 then 0 else x.limit, deferred := none, phase := 0 }) := by
  have hnot : ¬ s.powerLimit < w := by omega
  have hfree : setBit (setBit x.limit 0 false) 2 false = 0 := by
    rw [nextRaise_limit hi hx]
    decide
  refine ⟨changeStep s i (x.step - 1), ?_, fun j hj => changeStep_other hj s _, ?_⟩
  · simp only [exec_powerWindow, execPowerWindow, hnot, h95, if_false, if_true, hi, stepOf_eq hx]
  · simpa only [hfree] using changeStep_same hx (x.step - 1)

/-- A core half without teams is gated. -/
theorem gateHalf_free {s : State} {i : Nat} {x : Island} (hcore : isCoreHalf i = true) (hbusy : islandBusy s i = false) (hx : s.islands[i]? = some x) :
    IslandIs (gateHalf s i) i { x with step := 3, limit := setBit x.limit 2 true, deferred := none, phase := 0 } ∧ (gateHalf s i).gateStatus = .ok := by
  simp only [gateHalf, hcore, hbusy, Bool.not_true, Bool.false_eq_true, if_false, and_true]
  exact modIsland_same (setLimit_same hx 2 true) _

theorem gateHalf_busy {s : State} {i : Nat} (hcore : isCoreHalf i = true) (hbusy : islandBusy s i = true) : gateHalf s i = { s with gateStatus := .busy } := by
  simp only [gateHalf, hcore, hbusy, Bool.not_true, Bool.false_eq_true, if_false, if_true]

theorem exec_islandGateRequest (i : Nat) (s : State) : exec (.islandGateRequest i) s = .next (gateHalf s i) := rfl

/-- A deferred step comes once no team of the island is under pre-emption. -/
theorem islandStepChange_takes {s : State} {i k : Nat} {x : Island} (hx : s.islands[i]? = some x) (hk : x.deferred = some k)
    (hfree : islandPreempting s i = false) : exec (.islandStepChange i) s = .next (takeStep s i k) := by
  have he : exec (.islandStepChange i) s = execIslandStepChange i s := rfl
  simp only [he, execIslandStepChange, hx, hk, hfree, Bool.false_eq_true, if_false]

/-- Management lowers a clock, and holds the island. -/
theorem managementStepRequest_lowers {s : State} {i k : Nat} {x : Island} (hi : i < 16) (h3 : k ≠ 3) (hk : k ≤ lowestStep i) (hx : s.islands[i]? = some x)
    (hlt : x.step < k) :
    ∃ r, exec (.managementStepRequest i k) s = .next r ∧
      IslandIs r i (if islandPreempting s i then { x with limit := setBit x.limit 2 true, deferred := some k }
        else { x with step := k, limit := setBit x.limit 2 true, deferred := none, phase := 0 }) := by
  have he : exec (.managementStepRequest i k) s = execManagementStepRequest i k s := rfl
  have hin : ¬ 16 ≤ i := by omega
  have hlow : ¬ lowestStep i < k := by omega
  have hpos : 0 < k := by omega
  refine ⟨changeStep (setLimit s i 2 true) i k, ?_, ?_⟩
  · simp [he, execManagementStepRequest, hin, h3, hlow, hpos, stepOf_eq hx, hlt]
  · have h := changeStep_same (setLimit_same hx 2 true) k
    simpa only [islandPreempting_setLimit, hpos.ne', if_false] using h

theorem powerSteps : PowerSteps :=
  ⟨fun s _ hlow hhigh hten => powerLimitSet_sets hlow hhigh hten s,
    fun _ _ _ _ hw hi hx => powerWindow_lowers hw hi hx,
    fun _ _ _ _ hw h95 hi hx => powerWindow_raises hw h95 hi hx,
    fun s i _ hcore hbusy hx => ⟨gateHalf s i, exec_islandGateRequest i s, gateHalf_free hcore hbusy hx⟩,
    fun s i hcore hbusy => by rw [exec_islandGateRequest, gateHalf_busy hcore hbusy],
    fun s _ _ k hx hk hfree => ⟨_, islandStepChange_takes hx hk hfree, fun _ hj => takeStep_other hj s k, takeStep_same hx k⟩,
    fun _ _ _ _ hi h3 hk hx hlt => managementStepRequest_lowers hi h3 hk hx hlt⟩

/-! ### Errors and temperatures (R9, R15, R233) -/

/-- A warning reaches every armed context. -/
theorem postWarning_warns {s : State} {c : Context} (hc : c ∈ s.contexts) (harmed : c.armed.isSome) : c.id ∈ (postWarning s).observe.warned := by
  have hmem : c.id ∈ armedCtxs s := (sortBy_perm _ _).mem_iff.mpr (List.mem_map.mpr ⟨c, List.mem_filter.mpr ⟨hc, harmed⟩, rfl⟩)
  by_cases hold : c.id ∈ s.observe.warned
  · exact List.mem_append_left _ hold
  · exact List.mem_append_right _ (List.mem_filter.mpr ⟨hmem, by simpa using hold⟩)

theorem errorCounted : ErrorCounted := by
  intro s link index total within hlt hfind
  have he : exec (.correctedError link index) s = execCorrectedError link index s := rfl
  have hin : ¬ (if link = true then 4 else 256) ≤ index := by omega
  simp only [he, execCorrectedError, hin, if_false, hfind, Option.getD_some, beq_self_eq_true, if_true]
  refine ⟨_, rfl, ?_, fun hck c hc harmed => ?_, fun hck => ?_⟩
  · split <;> rfl
  · rw [if_pos (by simpa using hck)]
    exact postWarning_warns hc harmed
  · rw [if_neg (by simpa using hck)]

theorem exec_thermalWarning (i t : Nat) (s : State) : exec (.thermalWarning i t) s = .next (thermal s i t) := rfl

/-- The island that a hot sensor names: its reading, its lowest step, and the hold of its temperature (R15, R16). -/
theorem thermal_hot {s : State} {i t : Nat} {x : Island} (hi : i < 16) (hx : s.islands[i]? = some x) (hlow : 100 ≤ t) (hhigh : t < 110) :
    ∃ z, thermal s i t = postWarning z ∧ z.contexts = s.contexts ∧ z.observe.thermal = s.observe.thermal ++ [(i, s.time)] ∧
      ∃ y, IslandIs z i y ∧ y.temp = t ∧ y.step = max x.step (lowestStep i) ∧ y.limit = setBit x.limit 1 true := by
  have hin : ¬ 16 ≤ i := by omega
  have hnot : ¬ t < 100 := by omega
  have hmod : t % 256 = t := Nat.mod_eq_of_lt (by omega)
  have hread : (modIsland s i fun x => { x with temp := t % 256 }).islands[i]? = some { x with temp := t } := by
    rw [modIsland_same hx, hmod]
  simp only [thermal, hin, hnot, hhigh, if_false, if_true, stepOf_eq hread]
  refine ⟨_, rfl, ?_, ?_, ?_⟩
  · split <;> rfl
  · split <;> rfl
  · split
    · next hstep => exact ⟨_, modIsland_same (modIsland_same hread _) _, rfl, (Nat.max_eq_right hstep.le).symm, rfl⟩
    · next hstep => exact ⟨_, modIsland_same hread _, rfl, (Nat.max_eq_left (not_lt.mp hstep)).symm, rfl⟩

theorem warms : Warms := by
  intro s i t x hi hx
  refine ⟨fun hcool => ⟨_, exec_thermalWarning i t s, ?_⟩, fun hlow hhigh => ⟨_, exec_thermalWarning i t s, ?_⟩⟩
  · have hin : ¬ 16 ≤ i := by omega
    have hmod : t % 256 = t := Nat.mod_eq_of_lt (by omega)
    simp only [thermal, hin, hcool, if_false, if_true, hmod]
    exact ⟨modIsland_same hx _, rfl⟩
  · obtain ⟨z, hz, hctx, hthermal, hisland⟩ := thermal_hot hi hx hlow hhigh
    rw [hz]
    exact ⟨hisland, hthermal, fun c hc harmed => postWarning_warns (hctx ▸ hc) harmed⟩

/-- Settles O50: the frames of records, of pre-emptions and of island updates leave each event's own change. -/
theorem deviceTimers : Obligations.DeviceTimers := ⟨watchdogFires, samples, powerSteps, errorCounted, warms⟩

end Sys2Proof.Proofs
end

section
/-! SUPPORT. The part of the state that only steps of the device change, and the operations of issue that leave it alone (R24, R49, R56, R60). -/

namespace Sys2Proof.Proofs

open Machine Claims Laws

/-- What of the state only steps of the device change. -/
structure Device where
  time : Nat
  islands : List Island
  partitions : List Partition
  pavilions : List Pavilion
  rotation : Rotation
  frames : FrameIf
  trust : Trust
  mailbox : Mailbox
  partIf : PartIf
  pavIf : PavIf
  powerLimit : Nat

/-- The device's own part of a state. -/
def deviceOf (s : State) : Device :=
  ⟨s.time, s.islands, s.partitions, s.pavilions, s.rotation, s.frames, s.trust, s.mailbox, s.partIf, s.pavIf, s.powerLimit⟩

/-- Updates of other parts of the state. -/
@[simp] theorem device_mk (s : State) (agenda cur fresh nextId gateStatus links host contexts launchSeq grids launches teams slots ageing fused stamps mem hostMem scratch
    banks lines seals dirty waiting gate leases constCache tlb walkCache locks pins versions views commits sets holds waiters families forks deferred engines
    penUpdates bulk troughs matrix tiles logged engLeases observe) :
    deviceOf ⟨s.time, agenda, cur, fresh, nextId, s.islands, s.powerLimit, gateStatus, links, s.mailbox, host, contexts, launchSeq, grids, launches, teams, slots, ageing,
      fused, stamps, mem, hostMem, scratch, banks, lines, seals, dirty, waiting, gate, leases, constCache, tlb, walkCache, locks, pins, versions, views, commits, sets,
      holds, waiters, families, forks, deferred, engines, penUpdates, bulk, troughs, matrix, tiles, logged, s.partIf, s.partitions, engLeases, s.pavIf, s.pavilions,
      s.rotation, s.frames, s.trust, observe⟩ = deviceOf s := (rfl)

@[simp] theorem device_ite (c : Prop) [Decidable c] (a b : State) : deviceOf (if c then a else b) = if c then deviceOf a else deviceOf b := apply_ite deviceOf c a b

/-- A fold keeps the device's part when each of its steps does. -/
@[simp] theorem device_foldl {α : Type} {g : State → α → State} (h : ∀ s x, deviceOf (g s x) = deviceOf s) (l : List α) (s : State) :
    deviceOf (l.foldl g s) = deviceOf s := by
  induction l generalizing s with
  | nil => rfl
  | cons x l ih => rw [List.foldl_cons, ih, h]

/-! ### Teams, threads, slots and records -/

@[simp] theorem device_modTeam (s : State) (id : Nat) (f : Team → Team) : deviceOf (modTeam s id f) = deviceOf s := (rfl)
@[simp] theorem device_modGroup (s : State) (team g : Nat) (f : Group → Group) : deviceOf (modGroup s team g f) = deviceOf s := (rfl)
@[simp] theorem device_modThread (s : State) (t : Tid) (f : Thread → Thread) : deviceOf (modThread s t f) = deviceOf s := (rfl)
@[simp] theorem device_modSlot (s : State) (key : Nat) (f : Slot → Slot) : deviceOf (modSlot s key f) = deviceOf s := (rfl)
@[simp] theorem device_modGrid (s : State) (id : Nat) (f : Grid → Grid) : deviceOf (modGrid s id f) = deviceOf s := (rfl)
@[simp] theorem device_modCtx (s : State) (id : Nat) (f : Context → Context) : deviceOf (modCtx s id f) = deviceOf s := (rfl)
@[simp] theorem device_modFamily (s : State) (id : Nat) (f : Family → Family) : deviceOf (modFamily s id f) = deviceOf s := (rfl)
@[simp] theorem device_modFork (s : State) (id : Nat) (f : Fork → Fork) : deviceOf (modFork s id f) = deviceOf s := (rfl)
@[simp] theorem device_bump (s : State) (team n k : Nat) : deviceOf (bump s team n k) = deviceOf s := (rfl)
@[simp] theorem device_settleTeam (s : State) (id : Nat) : deviceOf (settleTeam s id) = deviceOf s := (rfl)
@[simp] theorem device_leaveFlock (s : State) (t : Tid) : deviceOf (leaveFlock s t) = deviceOf s := (rfl)
@[simp] theorem device_startWait (s : State) (t : Tid) (w : Wait) : deviceOf (startWait s t w) = deviceOf s := (rfl)
@[simp] theorem device_stallSlot (s : State) (key team : Nat) : deviceOf (stallSlot s key team) = deviceOf s := (rfl)
@[simp] theorem device_markFlock (s : State) (team fid : Nat) : deviceOf (markFlock s team fid) = deviceOf s := (rfl)
@[simp] theorem device_endRoutine (s : State) (t : Tid) (st : LaneStatus) : deviceOf (endRoutine s t st) = deviceOf s := (rfl)
@[simp] theorem device_freshId (s : State) : deviceOf (freshId s).2 = deviceOf s := (rfl)
@[simp] theorem device_wrScratch (s : State) (core a : Nat) (bs : List Byte) : deviceOf (wrScratch s core a bs) = deviceOf s := (rfl)

@[simp] theorem device_writeFault (s : State) (r : FaultRec) : deviceOf (writeFault s r).2 = deviceOf s := by
  rw [writeFault_records]
  rfl

@[simp] theorem device_wrFor (s : State) (ctx a : Nat) (bs : List Byte) : deviceOf (wrFor s ctx a bs) = deviceOf s := by
  rw [wrFor_lines]
  rfl

@[simp] theorem device_mergeLine (s : State) (line : Nat) : deviceOf (mergeLine s line) = deviceOf s := by
  rw [mergeLine_lines]
  rfl

@[simp] theorem device_progress (s : State) (ctx : Nat) : deviceOf (progress s ctx) = deviceOf s := (rfl)

@[simp] theorem device_teamProgress (s : State) (team : Nat) : deviceOf (teamProgress s team) = deviceOf s := by
  unfold teamProgress
  split <;> simp

/-! ### Traps (R279 to R283) -/

@[simp] theorem device_requestTeam (s : State) (id : Nat) (why : PreemptWhy) : deviceOf (requestTeam s id why) = deviceOf s := by
  rw [(requestTeam_places s id why).frame]
  rfl

@[simp] theorem device_requestPreempt (s : State) (id : Nat) (why : PreemptWhy) : deviceOf (requestPreempt s id why) = deviceOf s := by
  unfold requestPreempt
  split <;> simp

@[simp] theorem device_routineTrap (s : State) (t : Tid) (tr : Trap) (va : VAddr) (d : BitVec 64) : deviceOf (routineTrap s t tr va d) = deviceOf s := by
  unfold routineTrap
  split <;> simp

@[simp] theorem device_violate (s : State) (t : Tid) (word : Word) : deviceOf (violate s t word) = deviceOf s := by
  unfold violate
  split <;> simp

@[simp] theorem device_takeTrapFull (s : State) (t : Tid) (tr : Trap) (ret : Pc) (va : VAddr) (d : BitVec 64) :
    deviceOf (takeTrapFull s t tr ret va d) = deviceOf s := by
  unfold takeTrapFull
  split
  · dsimp only
    split
    · simp
    · split
      · simp
      · split <;> simp
  · rfl

@[simp] theorem device_takeTrapAt (s : State) (t : Tid) (tr : Trap) (ret : Pc) : deviceOf (takeTrapAt s t tr ret) = deviceOf s := device_takeTrapFull ..

@[simp] theorem device_takeTrap (s : State) (t : Tid) (tr : Trap) : deviceOf (takeTrap s t tr) = deviceOf s := by
  unfold takeTrap
  split <;> simp

@[simp] theorem device_takeTraps (s : State) (l : List (Tid × Trap)) : deviceOf (takeTraps s l) = deviceOf s := by simp [takeTraps]

@[simp] theorem device_takeMemTrap (s : State) (t : Tid) (m : MemTrap) : deviceOf (takeMemTrap s t m) = deviceOf s := by
  unfold takeMemTrap
  split <;> simp

@[simp] theorem device_takeOwed (s : State) (l : List Tid) : deviceOf (takeOwed s l) = deviceOf s :=
  device_foldl (fun s t => by split <;> simp) l s

/-! ### The turn of a flock: checks, headers and the end of a clause (R91 to R95) -/

/-- Checks that keep the device's part, one thread after another. -/
theorem device_passing {f : State → Tid → Option State} (h : ∀ s t s', f s t = some s' → deviceOf s' = deviceOf s) :
    ∀ (l : List Tid) (s : State), deviceOf (passing f l s).2 = deviceOf s
  | [], s => rfl
  | t :: l, s => by
    unfold passing
    split
    · next s' hs => rw [device_passing h l s', h s t s' hs]
    · exact device_passing h l s

theorem device_banned {s s' : State} {t : Tid} {word : Word} (h : banned s t word = some s') : deviceOf s' = deviceOf s := by
  unfold banned at h
  split at h
  · cases h
  · split at h
    · cases h; simp
    · split at h <;> cases h; simp

theorem device_operandCheck {fid : Nat} {word : Word} {u : Uses} {s s' : State} {t : Tid} (h : operandCheck fid word u s t = some s') :
    deviceOf s' = deviceOf s := by
  unfold operandCheck at h
  split at h
  · cases h
  · obtain ⟨tr, -, rfl⟩ := Option.map_eq_some_iff.mp h
    simp

@[simp] theorem device_preChecks (fid : Nat) (word : Word) (u : Uses) (adm : List Tid) (s : State) : deviceOf (preChecks fid word u adm s).2 = deviceOf s := by
  have hban : ∀ s t s', (if u.ban then banned s t word else none) = some s' → deviceOf s' = deviceOf s := by
    intro s t s' h
    split at h
    · exact device_banned h
    · cases h
  have hops : ∀ s t s', operandCheck fid word u s t = some s' → deviceOf s' = deviceOf s := fun s t s' h => device_operandCheck h
  unfold preChecks
  dsimp only
  split <;> simp [device_passing hops, device_passing hban]

@[simp] theorem device_reachHeaders (s : State) (l : List Tid) : deviceOf (reachHeaders s l) = deviceOf s := device_takeTraps ..

@[simp] theorem device_enterClause (s : State) (t : Tid) : deviceOf (enterClause s t) = deviceOf s := by
  unfold enterClause
  split
  · rfl
  · split
    · rfl
    · split <;> simp

@[simp] theorem device_takeNap (s : State) (t : Tid) : deviceOf (takeNap s t) = deviceOf s := by
  unfold takeNap
  split <;> simp

@[simp] theorem device_endClause (s : State) (key : Nat) (hword : Word) : deviceOf (endClause s key hword) = deviceOf s := by
  unfold endClause
  split
  · rfl
  · split
    · rfl
    · simp

@[simp] theorem device_retire (key : Nat) (p : Pc) (st : BitVec 2) (u : Uses) (n : Nat) (s : State) : deviceOf (retire key p st u n s) = deviceOf s := by
  unfold retire
  split
  · rfl
  · simp only [device_ite, device_endClause, ite_self]
    split <;> simp

/-- An issue keeps the device's part when its effect does. -/
theorem device_issueHold {eff : Slot → List Tid → State → State} (h : ∀ sl l s, deviceOf (eff sl l s) = deviceOf s) (word : Word) (st : BitVec 2) (u : Uses)
    (hold : Lane → Bool) (s : State) : deviceOf (issueHold word st u hold eff s) = deviceOf s := by
  unfold issueHold
  split
  · rfl
  · split
    · rfl
    · dsimp only
      split
      · simp
      · split
        · simp
        · split
          · simp
          · split
            · simp
            · split
              · simp
              · split <;> simp [h]

theorem device_issue {eff : Slot → List Tid → State → State} (h : ∀ sl l s, deviceOf (eff sl l s) = deviceOf s) (word : Word) (st : BitVec 2) (u : Uses)
    (s : State) : deviceOf (issue word st u eff s) = deviceOf s := device_issueHold h word st u _ s

/-! ### Effects lane by lane, group by group, and of the team -/

/-- An effect on those of the lanes that are found keeps the device's part when the effect on each does. -/
theorem device_onLanes {f : Lane → State → State} (h : ∀ ln s, deviceOf (f ln s) = deviceOf s) (word : Word) (fid : Nat) (l : List Tid) (s : State) :
    deviceOf (l.foldl (fun s t => match lane? s t fid word with | some ln => f ln s | none => s) s) = deviceOf s :=
  device_foldl (fun s t => by split <;> simp [h]) l s

theorem device_perLane {f : Lane → State → State} (h : ∀ ln s, deviceOf (f ln s) = deviceOf s) (word : Word) (sl : Slot) (l : List Tid) (s : State) :
    deviceOf (perLane f word sl l s) = deviceOf s := device_onLanes h word sl.fid _ s

theorem device_perGroup {f : Lane → State → State} (h : ∀ ln s, deviceOf (f ln s) = deviceOf s) (word : Word) (sl : Slot) (l : List Tid) (s : State) :
    deviceOf (perGroup f word sl l s) = deviceOf s := device_onLanes h word sl.fid _ s

theorem device_perTeam {f : Lane → State → State} (h : ∀ ln s, deviceOf (f ln s) = deviceOf s) (word : Word) (sl : Slot) (l : List Tid) (s : State) :
    deviceOf (perTeam f word sl l s) = deviceOf s := by
  unfold perTeam
  split
  · rfl
  · split <;> simp [h]

@[simp] theorem device_writeLane (s : State) (core fid lat : Nat) (t : Tid) (ws : List (Reg × BitVec 80)) : deviceOf (writeLane s core fid lat t ws) = deviceOf s := (rfl)
@[simp] theorem device_writeS (s : State) (core fid team g n : Nat) (x : Word) : deviceOf (writeS s core fid team g n x) = deviceOf s := (rfl)
@[simp] theorem device_writeB (s : State) (core fid team n : Nat) (x : VAddr) : deviceOf (writeB s core fid team n x) = deviceOf s := (rfl)

@[simp] theorem device_laneEffect (lat : Nat) (word : Word) (f : Lane → LaneRes) (sl : Slot) (l : List Tid) (s : State) :
    deviceOf (laneEffect lat word f sl l s) = deviceOf s :=
  device_foldl (fun s t => by
    split
    · rfl
    · split <;> simp) l s

theorem device_laneOp (word : Word) (st : BitVec 2) (u : Uses) (lat : Nat) (f : Lane → LaneRes) (s : State) : deviceOf (laneOp word st u lat f s) = deviceOf s :=
  device_issue (fun sl l s => device_laneEffect lat word f sl l s) word st u s

end Sys2Proof.Proofs
end

section
/-! SUPPORT. Accesses, launches, tasks, forks and copies leave the device's own part alone (R80, R219 to R231, R334). -/

namespace Sys2Proof.Proofs

open Machine Claims Laws

/-- The state of a pair that is taken apart. -/
theorem device_snd {α : Type} {p : α × State} {x : α} {s s' : State} (h : p = (x, s')) (hp : deviceOf p.2 = deviceOf s) : deviceOf s' = deviceOf s := by
  rw [← hp, h]

/-! ### Control transfers and accesses that join a queue -/

@[simp] theorem device_transfer (target : Int) (word : Word) (upd : Thread → Thread) (l : Lane) (s : State) :
    deviceOf (transfer target word upd l s) = deviceOf s := by
  unfold transfer
  dsimp only
  split
  · simp
  · split
    · simp
    · split
      · simp
      · split <;> simp

@[simp] theorem device_callTo (target : Int) (word : Word) (l : Lane) (s : State) : deviceOf (callTo target word l s) = deviceOf s := by simp [callTo]

@[simp] theorem device_enqueue (s : State) (t : Tid) (r : Req) (inst : Nat) (pc : Word) (granted : Bool) : deviceOf (enqueue s t r inst pc granted).2 = deviceOf s := by
  unfold enqueue
  dsimp only
  split <;> simp

@[simp] theorem device_addWaiter (s : State) (w : Waiter) : deviceOf (addWaiter s w) = deviceOf s := (rfl)

@[simp] theorem device_actPre (s : State) (t : Tid) (inst : Nat) (p : Pre) : deviceOf (actPre s t inst p) = deviceOf s := by
  unfold actPre
  split
  · split
    · simp
    · simp
    · simp
    · dsimp only
      split <;> simp
  · rfl

theorem device_memEffect (word : Word) (f : Lane → Pre) (sl : Slot) (l : List Tid) (s : State) : deviceOf (memEffect word f sl l s) = deviceOf s := by
  unfold memEffect
  rw [device_perLane fun ln s => device_actPre s ln.tid _ (f ln)]
  rfl

@[simp] theorem device_popEffect (d q : Nat) (l : Lane) (s : State) : deviceOf (popEffect d q l s) = deviceOf s := by simp [popEffect]
@[simp] theorem device_pushEffect (q a : Nat) (l : Lane) (s : State) : deviceOf (pushEffect q a l s) = deviceOf s := by simp [pushEffect]
@[simp] theorem device_acquireAfter (s : State) (t : Tid) : deviceOf (acquireAfter s t) = deviceOf s := (rfl)

/-! ### Translations and reads at a context's addresses (R49 to R56) -/

@[simp] theorem device_enterTrans (s : State) (p : TransAt) (va : Nat) (e : Tlb) : deviceOf (enterTrans s p va e) = deviceOf s := (rfl)
@[simp] theorem device_dropTrans (s : State) (p : TransAt) (ctx va : Nat) : deviceOf (dropTrans s p ctx va) = deviceOf s := (rfl)

@[simp] theorem device_keepTrans (s : State) (p : TransAt) (ctx va : Nat) (t : Trans) : deviceOf (keepTrans s p ctx va t) = deviceOf s := by
  unfold keepTrans
  dsimp only
  split <;> simp

@[simp] theorem device_keepWalk (s : State) (l : List WalkEntry) : deviceOf (keepWalk s l) = deviceOf s := by simp [keepWalk]
@[simp] theorem device_useTrans (s : State) (p : TransAt) (va : Nat) (e : Tlb) : deviceOf (useTrans s p va e) = deviceOf s := by simp [useTrans]

@[simp] theorem device_translateNow (s : State) (fresh : Bool) (p : TransAt) (c : Context) (va kind : Nat) :
    deviceOf (translateNow s fresh p c va kind).2 = deviceOf s := by
  unfold translateNow
  extract_lets go
  have hgo : ∀ fresh s, deviceOf (go fresh s).2 = deviceOf s := by
    intro fresh s
    simp only [go]
    split <;> simp
  split
  · split <;> simp [hgo]
  · exact hgo fresh s

@[simp] theorem device_ctxLines (c : Context) : ∀ (k va : Nat) (s : State), deviceOf (ctxLines s c k va).2 = deviceOf s
  | 0, va, s => rfl
  | k + 1, va, s => by
    unfold ctxLines
    split
    · rfl
    · dsimp only
      split
      · simp
      · simp [device_ctxLines c k]

@[simp] theorem device_ctxRead (s : State) (c : Context) (va n : Nat) : deviceOf (ctxRead s c va n).2 = deviceOf s := device_ctxLines c _ _ s

@[simp] theorem device_readRecord (s : State) (c : Context) (va : Nat) : deviceOf (readRecord s c va).2 = deviceOf s := by
  unfold readRecord
  split
  next x1 s1 h1 =>
    have e1 : deviceOf s1 = deviceOf s := device_snd h1 (device_ctxRead ..)
    split
    · exact e1
    · split
      · exact e1
      · extract_lets rec'
        split
        next x2 s2 h2 =>
          have e2 : deviceOf s2 = deviceOf s := (device_snd h2 (device_ctxRead ..)).trans e1
          split
          · exact e2
          · extract_lets rbs rs
            split
            · exact e2
            · split
              next x3 s3 h3 =>
                have e3 : deviceOf s3 = deviceOf s := by
                  split at h3
                  · exact (device_snd h3 rfl).trans e2
                  · exact (device_snd h3 (device_ctxRead ..)).trans e2
                split
                · exact e3
                · split
                  · exact e3
                  · split <;> exact e3

@[simp] theorem device_validate (s : State) (c : Context) (addr : VAddr) : deviceOf (validate s c addr).2 = deviceOf s := by
  unfold validate
  dsimp only
  split
  · split <;> simp
  · simp

@[simp] theorem device_readWaitOn (s : State) (c : Context) (va : Nat) : deviceOf (readWaitOn s c va).2 = deviceOf s := by
  unfold readWaitOn
  dsimp only
  split <;> simp

/-! ### Launches (R80, R83, R225) -/

@[simp] theorem device_keepRecord (s : State) (seq : Option Nat) (r : FaultRec) : deviceOf (keepRecord s seq r) = deviceOf s := by
  unfold keepRecord
  split <;> simp

/-- The write of a record stands as a name: the kernel would work out its area's wrap-around in unary. -/
@[simp] theorem device_checkReady (s : State) (g : Grid) (c : Context) : deviceOf (checkReady s g c) = deviceOf s := by
  obtain ⟨write, hwrite⟩ : ∃ write, write = writeFault := ⟨_, rfl⟩
  rw [checkReady, ← hwrite]
  split
  · rfl
  · split
    · simp
    · dsimp only
      split
      · split <;> simp
      · simp [hwrite]

@[simp] theorem device_queueGrid (s : State) (c : Context) (addr : VAddr) (l : Loaded) : deviceOf (queueGrid s c addr l) = deviceOf s := by simp [queueGrid]
@[simp] theorem device_dropLaunch (s : State) (seq : Nat) : deviceOf (dropLaunch s seq) = deviceOf s := (rfl)

@[simp] theorem device_failLaunch (s : State) (l : LaunchWait) (tr : Trap) (detail : BitVec 64) : deviceOf (failLaunch s l tr detail) = deviceOf s := by
  unfold failLaunch
  dsimp only
  split
  · simp
  · split <;> simp

@[simp] theorem device_takeLaunch (s : State) (l : LaunchWait) (c : Context) : deviceOf (takeLaunch s l c) = deviceOf s := by
  unfold takeLaunch
  dsimp only
  split
  · split <;> simp
  · simp
  · split
    · simp
    · split <;> simp

@[simp] theorem device_deferOp (kind : Nat) (addr : VAddr) (value : Word) (l : Lane) (s : State) : deviceOf (deferOp kind addr value l s) = deviceOf s := by
  simp [deferOp]

@[simp] theorem device_launchBy (a b : Nat) (l : Lane) (s : State) : deviceOf (launchBy a b l s) = deviceOf s := by
  unfold launchBy
  split
  · simp
  · split
    · simp
    · dsimp only
      split <;> split <;> simp

/-! ### Rendezvous of a team: tasks, forks, copies and yields -/

@[simp] theorem device_arriveTeam (vals : Lane → List Word) (l : Lane) (s : State) : deviceOf (arriveTeam vals l s) = deviceOf s := (rfl)
@[simp] theorem device_dropTeamRdv (s : State) (team : Nat) (off : Word) : deviceOf (dropTeamRdv s team off) = deviceOf s := (rfl)
@[simp] theorem device_trapOpen (s : State) (team : Nat) (r : Rdv) (c : Cause) : deviceOf (trapOpen s team r c) = deviceOf s := device_takeTraps ..
@[simp] theorem device_trapArrived (s : State) (team : Nat) (r : Rdv) (tr : Trap) : deviceOf (trapArrived s team r tr) = deviceOf s := device_takeTraps ..
@[simp] theorem device_passMember (s : State) (t : Tid) (ws : List (Reg × BitVec 80)) : deviceOf (passMember s t ws) = deviceOf s := by simp [passMember]

@[simp] theorem device_passArrived (s : State) (team : Nat) (r : Rdv) (ws : Tid → List (Reg × BitVec 80)) : deviceOf (passArrived s team r ws) = deviceOf s := by
  simp [passArrived]

theorem device_allotTag {s s' : State} {c : Context} {parent n : Nat} (h : allotTag s c parent = some (n, s')) : deviceOf s' = deviceOf s := by
  unfold allotTag at h
  split at h
  · cases h
  · obtain ⟨m, -, hm⟩ := Option.map_eq_some_iff.mp h
    cases hm
    simp

@[simp] theorem device_writeShadow (s : State) (tm : Team) (m : BitVec 128) (off : Nat) : deviceOf (writeShadow s tm m off) = deviceOf s := by
  refine device_foldl (fun s i => ?_) _ s
  split
  · rfl
  · dsimp only
    rw [device_foldl fun s c => ?_, device_wrScratch]
    split
    · split <;> simp
    · rfl

@[simp] theorem device_openTask (s : State) (tm : Team) (c : Context) (r : Rdv) : deviceOf (openTask s tm c r) = deviceOf s := by
  unfold openTask
  split
  · rfl
  · next h =>
    rw [← device_allotTag h]
    simp

@[simp] theorem device_tbeginMet (s : State) (team : Nat) (r : Rdv) : deviceOf (tbeginMet s team r) = deviceOf s := by
  unfold tbeginMet
  dsimp only
  split
  · simp
  · split
    · simp
    · split
      · simp
      · split <;> simp

@[simp] theorem device_markRecords (s : State) (tm : Team) : deviceOf (markRecords s tm) = deviceOf s :=
  device_foldl (fun s g => by split <;> simp [setStatus]) _ s

@[simp] theorem device_acceptWound (s : State) (f : Nat) : deviceOf (acceptWound s f) = deviceOf s := by simp [acceptWound]

@[simp] theorem device_tabortMet (s : State) (team : Nat) (r : Rdv) : deviceOf (tabortMet s team r) = deviceOf s := by
  unfold tabortMet
  split
  · split <;> simp
  · simp

@[simp] theorem device_bindArea (s : State) (c : Context) (core area : Nat) : deviceOf (bindArea s c core area) = deviceOf s := (rfl)
@[simp] theorem device_takeBanks (s : State) (ctx core base size : Nat) : deviceOf (takeBanks s ctx core base size).2 = deviceOf s := by simp [takeBanks]

@[simp] theorem device_placeCopies (tm : Team) (c : Context) : ∀ (n : Nat) (s : State), deviceOf (placeCopies tm c n s).2 = deviceOf s
  | 0, s => rfl
  | n + 1, s => by
    unfold placeCopies
    split
    · rfl
    · simp [device_placeCopies tm c n]

@[simp] theorem device_allotTags (c : Context) (parent : Nat) : ∀ (n : Nat) (s : State), deviceOf (allotTags c parent n s).2 = deviceOf s
  | 0, s => rfl
  | n + 1, s => by
    unfold allotTags
    split
    · next h => exact (device_allotTags c parent n _).trans (device_allotTag h)
    · rfl

@[simp] theorem device_grantFork (s : State) (tm : Team) (c : Context) (r : Rdv) (n : Nat) : deviceOf (grantFork s tm c r n) = deviceOf s := by simp [grantFork]

@[simp] theorem device_forkMet (s : State) (team : Nat) (r : Rdv) : deviceOf (forkMet s team r) = deviceOf s := by
  unfold forkMet
  dsimp only
  split
  · simp
  · split
    · simp
    · split
      · simp
      · split
        · simp
        · split <;> simp

@[simp] theorem device_waitChoice (s : State) (team f world : Nat) (r : Rdv) : deviceOf (waitChoice s team f world r) = deviceOf s := by simp [waitChoice]

@[simp] theorem device_chooseFirstMet (s : State) (team : Nat) (r : Rdv) : deviceOf (chooseFirstMet s team r) = deviceOf s := by
  unfold chooseFirstMet
  split
  · split <;> simp
  · rfl

@[simp] theorem device_addEngine (s : State) (op : EngOp) : deviceOf (addEngine s op) = deviceOf s := by simp [addEngine]

@[simp] theorem device_completeCopy (s : State) (team : Nat) (r : Rdv) : deviceOf (completeCopy s team r) = deviceOf s := by
  unfold completeCopy
  split
  · rfl
  · dsimp only
    split <;> simp

@[simp] theorem device_dispatchPreempt (s : State) (g : Grid) (c : Context) (rd : Loaded) (offered : Option Nat) :
    deviceOf (dispatchPreempt s g c rd offered) = deviceOf s := by simp [dispatchPreempt]

@[simp] theorem device_completeYield (s : State) (team : Nat) (r : Rdv) : deviceOf (completeYield s team r) = deviceOf s := by
  unfold completeYield
  split
  · rfl
  · dsimp only
    split
    · simp
    · split <;> simp

@[simp] theorem device_completeTeam (s : State) (team : Nat) (r : Rdv) : deviceOf (completeTeam s team r) = deviceOf s := by
  unfold completeTeam
  split <;> simp

@[simp] theorem device_meetTeam (s : State) (team : Nat) : deviceOf (meetTeam s team) = deviceOf s := by
  unfold meetTeam
  split <;> simp

@[simp] theorem device_waitMembers (s : State) (l : List Tid) (w : Wait) (arrived : State → Tid → Bool) : deviceOf (waitMembers s l w arrived) = deviceOf s :=
  device_foldl (fun s t => by split <;> simp) l s

@[simp] theorem device_teamEffect (chk : Lane → Option Trap) (vals : Lane → List Word) (word : Word) (sl : Slot) (l : List Tid) (s : State) :
    deviceOf (teamEffect chk vals word sl l s) = deviceOf s := by
  unfold teamEffect
  extract_lets x y
  have hx : deviceOf x = deviceOf s := device_perLane (fun ln s => by split <;> simp) word sl l s
  rw [device_waitMembers]
  simp only [y]
  split <;> simp [hx]

end Sys2Proof.Proofs
end

section
/-! SUPPORT. Pens, barriers, collectives, engines, matrices, exits and privileged instructions leave the device's own part alone. -/

namespace Sys2Proof.Proofs

open Machine Claims Laws

/-! ### Pens and barriers (R375 to R385) -/

theorem device_withInst {f : Nat → Lane → State → State} {run : (Lane → State → State) → State → State}
    (h : ∀ n s, deviceOf (run (f n) s) = deviceOf s) (s : State) : deviceOf (withInst f run s) = deviceOf s := by
  unfold withInst
  rw [h]
  rfl

@[simp] theorem device_penAccess (s : State) (l : Lane) (op : AccOp) (ca off size ord inst : Nat) :
    deviceOf (penAccess s l op ca off size ord inst) = deviceOf s := device_enqueue ..

@[simp] theorem device_penUpdateBy (op : PenOp) (a ord inst : Nat) (l : Lane) (s : State) : deviceOf (penUpdateBy op a ord inst l s) = deviceOf s := by
  unfold penUpdateBy
  split <;> simp

@[simp] theorem device_penInitBy (a b inst : Nat) (l : Lane) (s : State) : deviceOf (penInitBy a b inst l s) = deviceOf s := by
  unfold penInitBy
  split <;> simp

@[simp] theorem device_penWaitBy (a b : Nat) (l : Lane) (s : State) : deviceOf (penWaitBy a b l s) = deviceOf s := by
  unfold penWaitBy
  split
  · simp
  · dsimp only
    split <;> simp

@[simp] theorem device_arriveBar (id : Nat) (roles : Option Word) (l : Lane) (s : State) : deviceOf (arriveBar id roles l s) = deviceOf s := by
  unfold arriveBar
  split <;> simp

@[simp] theorem device_performArrivals (s : State) (b : Bar) : deviceOf (performArrivals s b) = deviceOf s :=
  device_foldl (fun s t => by
    split
    · split <;> simp
    · rfl) _ s

@[simp] theorem device_wakeWaiter (s : State) (t : Tid) : deviceOf (wakeWaiter s t) = deviceOf s := by simp [wakeWaiter]
@[simp] theorem device_meetBar (s : State) (team : Nat) (b : Bar) : deviceOf (meetBar s team b) = deviceOf s := by simp [meetBar]

@[simp] theorem device_meetBars (s : State) (team : Nat) : deviceOf (meetBars s team) = deviceOf s := by
  unfold meetBars
  split <;> simp

@[simp] theorem device_barEffect (id : Nat) (roles : Option Word) (word : Word) (sl : Slot) (l : List Tid) (s : State) :
    deviceOf (barEffect id roles word sl l s) = deviceOf s := by
  have hlanes := device_perLane (device_arriveBar id roles) word sl l s
  unfold barEffect
  dsimp only
  split
  · rw [device_meetBars, hlanes]
  · exact hlanes

/-! ### Rendezvous of a group: collectives and matrices -/

@[simp] theorem device_dropGroupRdv (s : State) (team g : Nat) (off : Word) : deviceOf (dropGroupRdv s team g off) = deviceOf s := (rfl)
@[simp] theorem device_completeGsync (s : State) (team g : Nat) (r : Rdv) : deviceOf (completeGsync s team g r) = deviceOf s := by simp [completeGsync]
@[simp] theorem device_claimTile (s : State) (core quad team n : Nat) : deviceOf (claimTile s core quad team n) = deviceOf s := by simp [claimTile]
@[simp] theorem device_enterMatrix (s : State) (m : MatOp) : deviceOf (enterMatrix s m) = deviceOf s := by simp [enterMatrix]

@[simp] theorem device_completeMma (s : State) (team g : Nat) (r : Rdv) : deviceOf (completeMma s team g r) = deviceOf s := by
  unfold completeMma
  split
  · dsimp only
    split
    · simp
    · split <;> simp
  · rfl

@[simp] theorem device_completeGroup (s : State) (team g : Nat) (r : Rdv) : deviceOf (completeGroup s team g r) = deviceOf s := by simp [completeGroup]

@[simp] theorem device_completeRdv (s : State) (team g : Nat) (r : Rdv) : deviceOf (completeRdv s team g r) = deviceOf s := by
  unfold completeRdv
  split <;> simp

@[simp] theorem device_meetGroup (s : State) (team g : Nat) : deviceOf (meetGroup s team g) = deviceOf s := by
  unfold meetGroup
  split <;> simp

@[simp] theorem device_arriveGroup (vals : Lane → List Word) (l : Lane) (s : State) : deviceOf (arriveGroup vals l s) = deviceOf s := by
  unfold arriveGroup
  dsimp only
  split
  · simp
  · split <;> simp

theorem device_collEffect {arrive : Lane → State → State} (h : ∀ ln s, deviceOf (arrive ln s) = deviceOf s) (word : Word) (sl : Slot) (l : List Tid) (s : State) :
    deviceOf (collEffect arrive word sl l s) = deviceOf s := by simp [collEffect, device_perLane h]

@[simp] theorem device_mmaEffect (va k : Nat) (word : Word) (sl : Slot) (l : List Tid) (s : State) : deviceOf (mmaEffect va k word sl l s) = deviceOf s := by
  unfold mmaEffect
  extract_lets on p
  have hp : deviceOf p.2 = deviceOf s := by
    refine device_passing (fun s t s' h => ?_) l s
    obtain ⟨tr, -, rfl⟩ := Option.map_eq_some_iff.mp h
    simp
  split
  · simp [hp]
  · rw [device_collEffect (device_arriveGroup _), hp]

@[simp] theorem device_matForm (k : MatKind) (rd : Nat) (p : Lane → List Word) (chk : List Word → Lane → Option Trap) (l : Lane) (ts : List Tid) (s : State) :
    deviceOf (matForm k rd p chk l ts s) = deviceOf s := by
  unfold matForm
  dsimp only
  split <;> simp

/-! ### Engines, locks and troughs -/

theorem device_perGroupAll {f : Lane → List Tid → State → State} (h : ∀ ln ts s, deviceOf (f ln ts s) = deviceOf s) (word : Word) (sl : Slot) (l : List Tid)
    (s : State) : deviceOf (perGroupAll f word sl l s) = deviceOf s :=
  device_foldl (fun s t => by split <;> simp [h]) _ s

@[simp] theorem device_writeAllV (s : State) (sl : Slot) (lat : Nat) (ts : List Tid) (d : Nat) (x : Word) : deviceOf (writeAllV s sl lat ts d x) = deviceOf s := by
  simp [writeAllV]

@[simp] theorem device_lockQuery (d a b : Nat) (sl : Slot) (l : Lane) (ts : List Tid) (s : State) : deviceOf (lockQuery d a b sl l ts s) = deviceOf s := by
  simp [lockQuery]

@[simp] theorem device_bulkEffect (d a : Nat) (l : Lane) (ts : List Tid) (s : State) : deviceOf (bulkEffect d a l ts s) = deviceOf s := by
  unfold bulkEffect
  dsimp only
  split <;> simp

@[simp] theorem device_gathEffect (d a : Nat) (l : Lane) (ts : List Tid) (s : State) : deviceOf (gathEffect d a l ts s) = deviceOf s := by
  unfold gathEffect
  dsimp only
  split <;> simp

@[simp] theorem device_setQ (s : State) (team q : Nat) (x : BitVec 64) : deviceOf (setQ s team q x) = deviceOf s := (rfl)

@[simp] theorem device_troughEffect (s : State) (team op q : Nat) : deviceOf (troughEffect s team op q) = deviceOf s := by
  unfold troughEffect
  split <;> simp

@[simp] theorem device_closeTrough (s : State) (team q : Nat) : deviceOf (closeTrough s team q) = deviceOf s := by
  unfold closeTrough
  split <;> simp

@[simp] theorem device_closeEffect (q : Nat) (l : Lane) (s : State) : deviceOf (closeEffect q l s) = deviceOf s := by simp [closeEffect]
@[simp] theorem device_troughWait (op q : Nat) (l : Lane) (s : State) : deviceOf (troughWait op q l s) = deviceOf s := by simp [troughWait]

theorem device_troughRead (d q : Nat) (f : BitVec 64 → Nat) (word : Word) (sl : Slot) (l : List Tid) (s : State) :
    deviceOf (troughRead d q f word sl l s) = deviceOf s := device_perTeam (fun ln s => by simp) word sl l s

/-! ### Declared sets, routines and their records -/

@[simp] theorem device_adeclBy (a b : Nat) (l : Lane) (ts : List Tid) (s : State) : deviceOf (adeclBy a b l ts s) = deviceOf s := by
  unfold adeclBy
  dsimp only
  split
  · simp
  · split
    · simp
    · split
      · simp
      · split
        · simp
        · rfl
        · split <;> simp

@[simp] theorem device_adropBy (a : Nat) (l : Lane) (s : State) : deviceOf (adropBy a l s) = deviceOf s := by
  unfold adropBy
  dsimp only
  split <;> simp

@[simp] theorem device_finishSave (s : State) (t : Tid) : deviceOf (finishSave s t) = deviceOf s := by
  unfold finishSave
  split
  · split <;> simp
  · rfl

@[simp] theorem device_exitSaveBy (l : Lane) (s : State) : deviceOf (exitSaveBy l s) = deviceOf s := by simp [exitSaveBy]

@[simp] theorem device_rebuildTrap (s : State) (t : Tid) (handler : Word) (dump : List Word) (diff : List Nat) :
    deviceOf (rebuildTrap s t handler dump diff) = deviceOf s := by simp [rebuildTrap]

@[simp] theorem device_markRestored (s : State) (team : Nat) : deviceOf (markRestored s team) = deviceOf s := by
  unfold markRestored
  split
  · rfl
  · dsimp only
    rw [device_modTeam]
    exact device_foldl (fun s t => by split <;> simp) _ s

@[simp] theorem device_entryDoneBy (l : Lane) (s : State) : deviceOf (entryDoneBy l s) = deviceOf s := by
  unfold entryDoneBy
  split <;> simp

@[simp] theorem device_rrecBy (d a : Nat) (l : Lane) (s : State) : deviceOf (rrecBy d a l s) = deviceOf s := by simp [rrecBy]

/-! ### Lanes that leave the flock (R99, R118, R361 to R367) -/

@[simp] theorem device_retireLane (l : Lane) (s : State) : deviceOf (retireLane l s) = deviceOf s := (rfl)

@[simp] theorem device_meetAll (s : State) (team : Nat) : deviceOf (meetAll s team) = deviceOf s := by
  unfold meetAll
  split <;> simp

theorem device_exitEffect {f : Lane → State → State} (h : ∀ ln s, deviceOf (f ln s) = deviceOf s) (word : Word) (sl : Slot) (l : List Tid) (s : State) :
    deviceOf (exitEffect f word sl l s) = deviceOf s := by
  unfold exitEffect
  dsimp only
  split <;> simp [device_perLane h]

@[simp] theorem device_exitBy (l : Lane) (s : State) : deviceOf (exitBy l s) = deviceOf s := by simp [exitBy]

@[simp] theorem device_exitSuccBy (a b : Nat) (l : Lane) (s : State) : deviceOf (exitSuccBy a b l s) = deviceOf s := by
  unfold exitSuccBy
  dsimp only
  split
  · simp
  · split
    · simp
    · split
      · rfl
      · split
        · simp
        · simp
        · split <;> simp

@[simp] theorem device_yieldEffect (word : Word) (sl : Slot) (l : List Tid) (s : State) : deviceOf (yieldEffect word sl l s) = deviceOf s := by simp [yieldEffect]

@[simp] theorem device_waitExtBy (d a b : Nat) (l : Lane) (s : State) : deviceOf (waitExtBy d a b l s) = deviceOf s := by
  unfold waitExtBy
  dsimp only
  split
  · simp
  · split
    · simp
    · split <;> simp

@[simp] theorem device_sigBy (a : Nat) (l : Lane) (ts : List Tid) (s : State) : deviceOf (sigBy a l ts s) = deviceOf s := by
  unfold sigBy
  dsimp only
  split
  · simp
  · split <;> simp

@[simp] theorem device_sleepBy (a : Nat) (l : Lane) (s : State) : deviceOf (sleepBy a l s) = deviceOf s := by simp [sleepBy]
@[simp] theorem device_trapBy (a : Nat) (l : Lane) (s : State) : deviceOf (trapBy a l s) = deviceOf s := device_takeTrapAt ..
@[simp] theorem device_tretBy (skip : Bool) (l : Lane) (s : State) : deviceOf (tretBy skip l s) = deviceOf s := by simp [tretBy]

/-! ### Privileged registers, code lines and marks -/

@[simp] theorem device_configSamplers (s : State) (c : Context) : deviceOf (configSamplers s c) = deviceOf s := (rfl)

@[simp] theorem device_reconfigure (s : State) (ctx : Nat) (f : Context → Context) : deviceOf (reconfigure s ctx f) = deviceOf s := by
  unfold reconfigure
  dsimp only
  split <;> simp

theorem device_privWrite {s s' : State} {ctx n : Nat} {x : Word} (h : privWrite s ctx n x = some s') : deviceOf s' = deviceOf s := by
  unfold privWrite at h
  split at h
  · cases h; simp
  · cases h; simp
  · split at h
    · cases h
    · cases h; simp
  · cases h; simp
  · cases h

@[simp] theorem device_wrprivBy (d n : Nat) (l : Lane) (s : State) : deviceOf (wrprivBy d n l s) = deviceOf s := by
  unfold wrprivBy
  split
  · next h => exact device_privWrite h
  · simp

@[simp] theorem device_fetchLines (tm : Team) (c : Context) : ∀ (l : List Nat) (s : State), deviceOf (fetchLines s tm c l).2 = deviceOf s
  | [], s => rfl
  | x :: l, s => by
    unfold fetchLines
    split
    · exact device_fetchLines tm c l s
    · dsimp only
      split <;> simp [device_fetchLines tm c l]

@[simp] theorem device_pinLines (tm : Team) (level : Nat) : ∀ (l : List Nat) (s : State), deviceOf (pinLines tm level l s).2 = deviceOf s
  | [], s => rfl
  | x :: l, s => by
    unfold pinLines
    dsimp only
    split
    · exact device_pinLines tm level l s
    · simp [device_pinLines tm level l]

/-- An operation on code lines keeps the device's part. -/
theorem device_codeLineBy {f : LineOp} (h : ∀ tm c level ls s, deviceOf (f tm c level ls s).2 = deviceOf s) (rd : Option Nat) (a b : Nat) (sl : Slot) (l : Lane)
    (ts : List Tid) (s : State) : deviceOf (codeLineBy f rd a b sl l ts s) = deviceOf s := by
  unfold codeLineBy
  dsimp only
  split
  · simp
  · split
    · rfl
    · split <;> simp [h]

theorem device_lineFetch (tm : Team) (c : Context) (level : Nat) (ls : List Nat) (s : State) : deviceOf (lineFetch tm c level ls s).2 = deviceOf s :=
  device_fetchLines tm c ls s

theorem device_linePin (tm : Team) (c : Context) (level : Nat) (ls : List Nat) (s : State) : deviceOf (linePin tm c level ls s).2 = deviceOf s := by
  simp [linePin]

theorem device_lineUnpin (tm : Team) (c : Context) (level : Nat) (ls : List Nat) (s : State) : deviceOf (lineUnpin tm c level ls s).2 = deviceOf s := by
  simp [lineUnpin]

@[simp] theorem device_tmarkBy (d : Nat) (sl : Slot) (l : Lane) (s : State) : deviceOf (tmarkBy d sl l s) = deviceOf s := by
  unfold tmarkBy ringWrite
  split
  · rfl
  · simp

end Sys2Proof.Proofs
end

section
/-! PROOF. An issued instruction changes nothing that only the device changes (R10, R49, R56, R60), and O5. -/

namespace Sys2Proof.Proofs

open Machine Claims Laws

/-- An answer that, where it is a next state, keeps the device's part. -/
def KeepsDevice (o : Host.Outcome State Fault Refusal) (s : State) : Prop := ∀ r, o = .next r → deviceOf r = deviceOf s

theorem keeps_next {r s : State} (h : deviceOf r = deviceOf s) : KeepsDevice (.next r) s := fun _ hr => (Host.Outcome.next.inj hr) ▸ h

/-! ### Instructions by the form of their effect -/

section
variable (word word' : Word) (st : BitVec 2) (u : Uses) (hold : Lane → Bool) (s : State)

theorem keeps_laneOp (lat : Nat) (f : Lane → LaneRes) : KeepsDevice (.next (laneOp word st u lat f s)) s := keeps_next (device_laneOp word st u lat f s)

/-- An issue whose effect keeps the device's part. -/
theorem keeps_issueHold {eff : Slot → List Tid → State → State} (h : ∀ sl l s, deviceOf (eff sl l s) = deviceOf s) :
    KeepsDevice (.next (issueHold word st u hold eff s)) s := keeps_next (device_issueHold h word st u hold s)

theorem keeps_issue {eff : Slot → List Tid → State → State} (h : ∀ sl l s, deviceOf (eff sl l s) = deviceOf s) : KeepsDevice (.next (issue word st u eff s)) s :=
  keeps_issueHold word st u _ s h

/-- An instruction that each lane performs, waiting for what it holds for. -/
theorem keeps_lanesHold {f : Slot → Lane → State → State} (h : ∀ sl ln s, deviceOf (f sl ln s) = deviceOf s) :
    KeepsDevice (.next (issueHold word st u hold (fun sl l s => perLane (f sl) word' sl l s) s)) s :=
  keeps_issueHold word st u hold s fun sl l s => device_perLane (h sl) word' sl l s

theorem keeps_lanes {f : Slot → Lane → State → State} (h : ∀ sl ln s, deviceOf (f sl ln s) = deviceOf s) :
    KeepsDevice (.next (issue word st u (fun sl l s => perLane (f sl) word' sl l s) s)) s := keeps_lanesHold word word' st u _ s h

/-- An instruction that each group performs once. -/
theorem keeps_groups {f : Slot → Lane → State → State} (h : ∀ sl ln s, deviceOf (f sl ln s) = deviceOf s) :
    KeepsDevice (.next (issue word st u (fun sl l s => perGroup (f sl) word' sl l s) s)) s :=
  keeps_issue word st u s fun sl l s => device_perGroup (h sl) word' sl l s

/-- An instruction that each group performs once, for all its lanes. -/
theorem keeps_groupsAllHold {f : Slot → Lane → List Tid → State → State} (h : ∀ sl ln ts s, deviceOf (f sl ln ts s) = deviceOf s) :
    KeepsDevice (.next (issueHold word st u hold (fun sl l s => perGroupAll (f sl) word' sl l s) s)) s :=
  keeps_issueHold word st u hold s fun sl l s => device_perGroupAll (h sl) word' sl l s

theorem keeps_groupsAll {f : Slot → Lane → List Tid → State → State} (h : ∀ sl ln ts s, deviceOf (f sl ln ts s) = deviceOf s) :
    KeepsDevice (.next (issue word st u (fun sl l s => perGroupAll (f sl) word' sl l s) s)) s := keeps_groupsAllHold word word' st u _ s h

/-- An instruction that the team performs once. -/
theorem keeps_team {f : Slot → Lane → State → State} (h : ∀ sl ln s, deviceOf (f sl ln s) = deviceOf s) :
    KeepsDevice (.next (issue word st u (fun sl l s => perTeam (f sl) word' sl l s) s)) s :=
  keeps_issue word st u s fun sl l s => device_perTeam (h sl) word' sl l s

theorem keeps_longOp (rv : List (Nat × Nat)) (d k : Nat) (f : Lane → Nat × Word) : KeepsDevice (longOp word st rv d k f s) s :=
  keeps_issue word st _ s fun sl l s => (device_perLane (fun ln s => device_modThread s ln.tid _) word sl l (freshId s).2).trans (device_freshId s)

theorem keeps_scalarOp (d : BitVec 6) (f : Lane → Word) : KeepsDevice (scalarOp word st u d f s) s := keeps_groups word word st _ s fun _ _ s => device_writeS s ..

theorem keeps_baseOp (d : BitVec 6) (f : Lane → VAddr) : KeepsDevice (baseOp word st u d f s) s := keeps_team word word st _ s fun _ _ s => device_writeB s ..

theorem keeps_memory {f : Lane → Pre} {g : List Tid → List Tid} : KeepsDevice (.next (issueHold word st u hold (fun sl l => memEffect word f sl (g l)) s)) s :=
  keeps_issueHold word st u hold s fun sl l s => device_memEffect word f sl (g l) s

theorem keeps_sldOp (n : Nat) (d a b : BitVec 6) (i : BitVec 1) : KeepsDevice (sldOp word st n d a b i s) s := keeps_memory word st _ _ s

theorem keeps_globalOp (b : BitVec 4) (o : BitVec 7) (pair : Bool) (ord : BitVec 3) (kind : Nat) (mk : Lane → Req) :
    KeepsDevice (globalOp word st u b o pair ord kind mk s) s := keeps_memory (g := id) word st _ _ s

theorem keeps_scratchOp (b : BitVec 4) (o : BitVec 7) (ord : BitVec 3) (mk : Lane → Req) : KeepsDevice (scratchOp word st u b o ord mk s) s :=
  keeps_memory (g := id) word st _ _ s

theorem keeps_fenceOp (f : Fence) : KeepsDevice (fenceOp word st f s) s := keeps_lanesHold word word st _ _ s fun _ _ _ => by simp

theorem keeps_teamOp (chk : Lane → Option Trap) (vals : Lane → List Word) : KeepsDevice (teamOp word st u chk vals s) s :=
  keeps_issue word st _ s fun sl l s => device_teamEffect chk vals word sl l s

theorem keeps_collective {arrive : Lane → State → State} (h : ∀ ln s, deviceOf (arrive ln s) = deviceOf s) :
    KeepsDevice (.next (issue word st u (collEffect arrive word) s)) s := keeps_issue word st u s fun sl l s => device_collEffect h word sl l s

theorem keeps_collOp (vals : Lane → List Word) : KeepsDevice (collOp word st u vals s) s := keeps_collective word st _ s (device_arriveGroup vals)

/-- Updates of pens: the groups or the lanes that perform share one number of the instruction. -/
theorem keeps_penGroups {f : Nat → Lane → State → State} (h : ∀ n ln s, deviceOf (f n ln s) = deviceOf s) :
    KeepsDevice (.next (issue word st u (fun sl l s => withInst f (fun f => perGroup f word' sl l) s) s)) s :=
  keeps_issue word st u s fun sl l s => device_withInst (fun n => device_perGroup (h n) word' sl l) s

theorem keeps_penLanes {f : Nat → Lane → State → State} (h : ∀ n ln s, deviceOf (f n ln s) = deviceOf s) :
    KeepsDevice (.next (issue word st u (fun sl l s => withInst f (fun f => perLane f word' sl l) s) s)) s :=
  keeps_issue word st u s fun sl l s => device_withInst (fun n => device_perLane (h n) word' sl l) s

end

/-! ### Every instruction -/

/-- An instruction that has a word keeps the device's part; the steps of the device have none. -/
theorem exec_keepsDevice {i : Instr} {w : BitVec 32} (h : encode i = some w) (s : State) : KeepsDevice (exec i s) s := by
  cases i
  case nop => exact keeps_issue _ _ _ s fun _ _ _ => rfl
  case yield => exact keeps_issue _ _ _ s fun _ _ _ => by simp
  case add | sub | addc | subb | addsI32 | subsI32 | addsN32 | subsN32 | addi | andi | ori | xori | mul | mulhiI32 | mulhiN32 | mad | madhiI32 | madhiN32 |
      mulwI32 | mulwN32 | and | or | xor | andn | orn | xnor | not | shl | shrN32 | shrI32 | rotl | rotr | fshl | fshr | shli | shriN32 | shriI32 | roti |
      popc | clz | ctz | brev | bswap | perm | bmsk | bfxN32 | bfxI32 | bfi | minI32 | maxI32 | minN32 | maxN32 | absI32 | negI32 | adiffN32 | mov | sel |
      movsWrite | movp | setp | movsv | movl | movh | cmpI32 | cmpN32 | cmpF32 | cmp64 | pand | por | pxor | pmov | pset | pclr | fadd | fsub | fmul | fmin
      | fmax | fminnum | fmaxnum | fcopysign | ffma | ffms | ffnma | ffnms | haddBf16x2 | hmulBf16x2 | hfmaBf16x2 | haddF16x2 | hmulF16x2 | hfmaF16x2 |
      hmaxBf16x2 | hminBf16x2 | cvt | dotI8x4 | dotsI8x4 | dotI4x8 | dotF8ax4 | dotF8bx4 | dotL4x8 | dotBf16x2 | scalef | fexp | fmant | tprobe | wquery |
      setgm | mxStat | rdpriv | perfRd | clk =>
    apply keeps_laneOp
  case dadd | dsub | dmul | dfma | dmin | dmax | ddiv | dsqrt | rcp | rsqrt | sqrt | log2 | exp2 | sin | cos | tanh => apply keeps_longOp
  case sadd | ssub | smul | sand | sor | sxor | sshl | sshr | smov | smin | smax | sfrom => apply keeps_scalarOp
  case bset | badd | bmov => apply keeps_baseOp
  case sldB32 | sldB64 => apply keeps_sldOp
  case ld | st | ldw | stw | atomAddI32 | atomAddF32 | atomMinI32 | atomMaxI32 | atomMinN32 | atomMaxN32 | atomExch | atomCas | atomAnd | atomOr | atomXor |
      atomAddI64 | atomCasB64 | atomAddBf16x2 | atomIncN32 | atomDecN32 | redAddI32 | redAddF32 | redMinI32 | redMaxI32 | redMinN32 | redMaxN32 | redExch |
      redCas | redAnd | redOr | redXor | redAddI64 | redCasB64 | redAddBf16x2 | redIncN32 | redDecN32 =>
    apply keeps_globalOp
  case lds | sts | atomsAddI32 | atomsAddF32 | atomsMinI32 | atomsMaxI32 | atomsMinN32 | atomsMaxN32 | atomsExch | atomsCas => apply keeps_scratchOp
  case fenceRelTeam | fenceRelCluster | fenceRelDevice | fenceRelSystem | fenceAcq | fenceFullTeam | fenceFullCluster | fenceFullDevice | fenceFullSystem |
      pfenceLc | pfenceLt =>
    apply keeps_fenceOp
  case tbegin | tend | tabort | forkW | chooseFirst | chooseBest | wabort | copyTeam | copyMc | copySp | copyOut => apply keeps_teamOp
  case ballot | vall | vany | matchLanes | shflIdx | shflUp | shflDown | shflXor | redaddI32 | scanaddI32 | exscanI32 | redmaxI32 | redminI32 | redaddF32 |
      elect =>
    apply keeps_collOp
  case sleeptk => exact keeps_lanes _ _ _ _ s fun _ _ _ => by split <;> simp
  case movsRead => exact keeps_lanes _ _ _ _ s fun _ _ _ => by split <;> simp
  case pop => exact keeps_lanes _ _ _ _ s fun _ => device_popEffect _ _
  case push => exact keeps_lanes _ _ _ _ s fun _ => device_pushEffect _ _
  case guard => exact keeps_lanes _ _ _ _ s fun _ _ _ => by simp
  case bra | call | jmp | callr => exact keeps_lanes _ _ _ _ s fun _ _ _ => by simp
  case ret => exact keeps_lanes _ _ _ _ s fun _ _ _ => by split <;> simp
  case bget => exact keeps_groups _ _ _ _ s fun _ _ _ => by simp
  case adecl => exact keeps_groupsAllHold _ _ _ _ _ s fun _ => device_adeclBy _ _
  case adrop => exact keeps_groups _ _ _ _ s fun _ => device_adropBy _
  case exitSave => exact keeps_lanes _ _ _ _ s fun _ => device_exitSaveBy
  case entryDone =>
    refine keeps_issueHold _ _ _ _ s fun sl l s => ?_
    rw [device_perLane device_entryDoneBy]
    simp
  case rrec => exact keeps_lanes _ _ _ _ s fun _ => device_rrecBy _ _
  case rpoison => exact keeps_issueHold _ _ _ _ s fun sl l s => device_laneEffect _ _ _ sl l s
  case penInit => exact keeps_penGroups _ _ _ _ s (device_penInitBy _ _)
  case penExpect | penInval => exact keeps_penGroups _ _ _ _ s fun n ln s => device_penUpdateBy _ _ _ n ln s
  case penArrive => exact keeps_penLanes _ _ _ _ s fun n ln s => device_penUpdateBy _ _ _ n ln s
  case penTest => exact keeps_penLanes _ _ _ _ s fun n ln s => by split <;> simp
  case penWait => exact keeps_lanesHold _ _ _ _ _ s fun _ => device_penWaitBy _ _
  case barTeam =>
    refine keeps_issue _ _ _ s fun sl l s => ?_
    split
    · exact device_barEffect ..
    · exact device_perLane (fun ln s => device_takeTrap s ..) _ sl l s
  case barRole => exact keeps_issue _ _ _ s fun sl l s => (device_barEffect ..).trans (device_perLane (fun ln s => by simp) _ sl l s)
  case gsync => exact keeps_collective _ _ _ s (device_arriveGroup _)
  case rlkQ => exact keeps_groupsAll _ _ _ _ s fun sl => device_lockQuery _ _ _ sl
  case copyBulk => exact keeps_groupsAll _ _ _ _ s fun _ => device_bulkEffect _ _
  case gath => exact keeps_groupsAll _ _ _ _ s fun _ => device_gathEffect _ _
  case gathClose => exact keeps_team _ _ _ _ s fun _ => device_closeEffect _
  case trBind => exact keeps_team _ _ _ _ s fun _ _ _ => by split <;> simp
  case trUnbind | trReset => exact keeps_team _ _ _ _ s fun _ => device_troughWait _ _
  case trFilled | trFree => exact keeps_issue _ _ _ s fun sl l s => device_troughRead _ _ _ _ sl l s
  case mxMma => exact keeps_issueHold _ _ _ _ s fun sl l s => device_mmaEffect _ _ _ sl l s
  case mxRd | mxSt | mxLd | mxClr => exact keeps_groupsAllHold _ _ _ _ _ s fun _ => device_matForm _ _ _ _
  case launch => exact keeps_issueHold _ _ _ _ s fun sl l s => device_perGroup (device_launchBy _ _) _ sl l s
  case exit => exact keeps_issueHold _ _ _ _ s fun sl l s => device_exitEffect device_exitBy _ sl l s
  case exitSucc => exact keeps_issueHold _ _ _ _ s fun sl l s => device_exitEffect (device_exitSuccBy _ _) _ sl l s
  case tyield => exact keeps_issue _ _ _ s fun sl l s => device_yieldEffect _ sl l s
  case waitExt => exact keeps_lanesHold _ _ _ _ _ s fun _ => device_waitExtBy _ _ _
  case sigHost => exact keeps_groupsAll _ _ _ _ s fun _ => device_sigBy _
  case sleep => exact keeps_lanes _ _ _ _ s fun _ => device_sleepBy _
  case trap => exact keeps_lanes _ _ _ _ s fun _ => device_trapBy _
  case brk => exact keeps_lanes _ _ _ _ s fun _ _ s => device_takeTrap s ..
  case wrpriv => exact keeps_groups _ _ _ _ s fun _ => device_wrprivBy _ _
  case tret | tretSkip => exact keeps_lanes _ _ _ _ s fun _ => device_tretBy _
  case ipref => exact keeps_groupsAll _ _ _ _ s fun sl => device_codeLineBy device_lineFetch _ _ _ sl
  case ipin => exact keeps_groupsAll _ _ _ _ s fun sl => device_codeLineBy device_linePin _ _ _ sl
  case iunpin => exact keeps_groupsAll _ _ _ _ s fun sl => device_codeLineBy device_lineUnpin _ _ _ sl
  case tmark => exact keeps_lanes _ _ _ _ s fun sl => device_tmarkBy _ sl
  all_goals cases h

/-- Settles O5: every operation that an issue is made of keeps the device's part, so every instruction with a word does. -/
theorem issueKeepsTheDevice : Obligations.IssueKeepsTheDevice := by
  intro i w h s r hr
  have hkeep := exec_keepsDevice h s r hr
  simpa only [deviceOf, Device.mk.injEq, and_assoc] using hkeep

end Sys2Proof.Proofs
end

section
/-! PROOF. The fault vector of a context, and records that its full area loses (R39, R41): O15 and O16. -/

namespace Sys2Proof.Proofs

open Machine Claims Laws

/-! ### A record is written or lost (R40, R41) -/

/-- An area whose head stands its whole size ahead of the host's tail takes no record. -/
theorem putFault_full {s : State} {base entries head : Nat} (h : (head + 2 ^ 32 - Memory.readLe s.hostMem (base + 4) 4) % 2 ^ 32 = entries) (r : FaultRec) :
    putFault s base entries head r = none := by
  unfold putFault
  exact if_pos (beq_iff_eq.mpr h)

/-- A record that a full area loses counts in the area's word and in its context. The write into an area stands as a name `put`, as in
`writeFault_records`. -/
theorem writeFault_lost {s : State} {r : FaultRec} {c : Context} (h2 : r.stage2 = false) (hc : ctx? s r.ctx = some c)
    (hfull : putFault s c.faultBase c.faultEntries c.faultHead r = none) :
    writeFault s r = (none, modCtx { s with hostMem := Memory.writeN s.hostMem (c.faultBase + 8) (leBytes 8 (c.faultLost + 1)) } r.ctx
      fun c => { c with faultLost := c.faultLost + 1 }) := by
  obtain ⟨put, hput⟩ : ∃ put, put = putFault := ⟨_, rfl⟩
  rw [← hput] at hfull
  rw [writeFault, ← hput, if_neg (by simp [h2]), hc]
  dsimp only
  rw [hfull]

/-- A record that an area takes makes its context's fault vector due. -/
theorem writeFault_taken {s s' : State} {r : FaultRec} {c : Context} (h2 : r.stage2 = false) (hc : ctx? s r.ctx = some c)
    (htaken : putFault s c.faultBase c.faultEntries c.faultHead r = some s') :
    writeFault s r = (some s.host.seq.toNat, modCtx s' r.ctx fun c => { c with faultHead := c.faultHead + 1, faultDue := true }) := by
  obtain ⟨put, hput⟩ : ∃ put, put = putFault := ⟨_, rfl⟩
  rw [← hput] at htaken
  rw [writeFault, ← hput, if_neg (by simp [h2]), hc]
  dsimp only
  rw [htaken]

theorem writeFault_due {s : State} {r : FaultRec} {c : Context} (h2 : r.stage2 = false) (hc : ctx? s r.ctx = some c) :
    ∃ k, ctx? (writeFault s r).2 r.ctx = some k ∧ k.faultDue = (c.faultDue || (writeFault s r).1.isSome) := by
  cases hput : putFault s c.faultBase c.faultEntries c.faultHead r with
  | none =>
    rw [writeFault_lost h2 hc hput]
    exact ⟨_, ctx_modCtx_same (s := { s with hostMem := _ }) hc _ fun _ => rfl, (Bool.or_false _).symm⟩
  | some s' =>
    have hc' : ctx? s' r.ctx = some c := by simpa only [ctx?, (putFault_records hput).1] using hc
    rw [writeFault_taken h2 hc hput]
    exact ⟨_, ctx_modCtx_same hc' _ fun _ => rfl, (Bool.or_true _).symm⟩

/-! ### The fault vector (R39) -/

theorem exec_faultVector (ctx : Nat) (s : State) : exec (.faultVector ctx) s = execFaultVector ctx s := rfl

/-- A context's fault vector may rise: it is due, and its last is a microsecond ago. -/
def vectorDue (s : State) (c : Context) : Prop := c.faultDue = true ∧ ∀ t, c.faultTick = some t → t + 800 ≤ s.time

/-- The step raises the vector where it may rise, and does nothing elsewhere. -/
theorem faultVector_cases {s : State} {c : Context} (hc : ctx? s c.id = some c) :
    vectorDue s c ∧ exec (.faultVector c.id) s =
        .next (modCtx (raiseVector s c.msix c.vecBase) c.id fun c => { c with faultDue := false, faultTick := some s.time }) ∨
      ¬ vectorDue s c ∧ exec (.faultVector c.id) s = .next s := by
  rw [exec_faultVector, execFaultVector, hc]
  cases hd : c.faultDue <;> cases ht : c.faultTick <;> simp [vectorDue, hd, ht]
  omega

/-- A due vector whose last was long enough ago is raised, and counts from now. -/
theorem faultVector_raised {s : State} {c : Context} (hc : ctx? s c.id = some c) (hdue : vectorDue s c) :
    ∃ r, exec (.faultVector c.id) s = .next r ∧ Rings s r c.msix c.vecBase ∧ ctx? r c.id = some { c with faultDue := false, faultTick := some s.time } := by
  have hc' : ctx? (raiseVector s c.msix c.vecBase) c.id = some c := by simpa only [ctx?, raiseVector_contexts] using hc
  rcases faultVector_cases hc with ⟨-, he⟩ | ⟨hno, -⟩
  · exact ⟨_, he, rings_of_host rfl rfl, ctx_modCtx_same hc' _ fun _ => rfl⟩
  · exact absurd hdue hno

/-- A vector that is not due, or whose last was within a microsecond, stays. -/
theorem faultVector_waits {s : State} {c : Context} (hc : ctx? s c.id = some c) (hno : ¬ vectorDue s c) : exec (.faultVector c.id) s = .next s := by
  rcases faultVector_cases hc with ⟨hdue, -⟩ | ⟨-, he⟩
  · exact absurd hdue hno
  · exact he

/-- Settles O15: a record written makes the vector due, and the step raises it unless its last was within 800 ticks. -/
theorem faultVectorOfAContext : Obligations.FaultVectorOfAContext :=
  ⟨fun _ _ _ h2 hc => writeFault_due h2 hc, fun _ _ hc hdue hlast => faultVector_raised hc ⟨hdue, hlast⟩,
    fun _ _ t hc ht hlt => faultVector_waits hc fun hdue => absurd (hdue.2 t ht) (by omega)⟩

/-- Settles O16: a full area takes no record, so only its word and the context's count change. -/
theorem lostFaultRecords : Obligations.LostFaultRecords := by
  intro s r c h2 hc hfull
  rw [writeFault_lost h2 hc (putFault_full hfull r)]
  exact ⟨rfl, rfl, rfl, rfl, _, ctx_modCtx_same (s := { s with hostMem := _ }) hc _ fun _ => rfl, rfl, rfl⟩

end Sys2Proof.Proofs
end

section
/-! PROOF. Vectors, windows, untrusted accesses and interfaces (R24 to R48), and O53. -/

namespace Sys2Proof.Proofs

open Machine Claims Laws

/-! ### Signals and masks (R38) -/

theorem exec_msiMessage (s : State) : exec .msiMessage s = .next (sendSignals { s with host := { s.host with sigs := [] } } s.host.sigs) := rfl
theorem exec_vectorUnmask (fn vec : Nat) (s : State) : exec (.vectorUnmask fn vec) s = .next (unmask s fn vec) := rfl

/-- Raising a vector keeps the masks and the signals that wait. -/
theorem raiseVector_keeps (s : State) (fn vec : Nat) :
    (raiseVector s fn vec).host.masked = s.host.masked ∧ (raiseVector s fn vec).host.sigs = s.host.sigs := by
  unfold raiseVector
  split
  · exact ⟨rfl, rfl⟩
  · split
    · split <;> exact ⟨rfl, rfl⟩
    · exact ⟨rfl, rfl⟩

/-- An unmasked vector of a trained link is a message. -/
theorem raiseVector_sent {s : State} {fn vec : Nat} (hvec : vec < vectorsOf fn) (hfree : (fn, vec) ∉ s.host.masked) (hup : linkUp s fn = true) :
    raiseVector s fn vec = { s with host := { s.host with msgs := s.host.msgs ++ [(fn, vec)] } } := by
  rw [raiseVector, if_neg (by omega), if_neg (by simpa [hup] using hfree)]

/-- One signal: sent when its threads' stores are done, kept elsewhere. -/
theorem sendSignals_one (s : State) (ts : List Tid) (fn vec : Nat) :
    sendSignals s [(ts, fn, vec)] = if ts.all (storesDone s) then raiseVector s fn vec
      else { s with host := { s.host with sigs := s.host.sigs ++ [(ts, fn, vec)] } } := rfl

/-- The step with one signal: the host's side does not say which stores are done. -/
theorem msiMessage_one {s : State} {ts : List Tid} {fn vec : Nat} (hs : s.host.sigs = [(ts, fn, vec)]) :
    exec .msiMessage s = .next (if ts.all (storesDone s) then raiseVector { s with host := { s.host with sigs := [] } } fn vec else s) := by
  rw [exec_msiMessage, hs, sendSignals_one, List.nil_append, ← hs]
  rfl

theorem signal_sent {s : State} {ts : List Tid} {fn vec : Nat} (hs : s.host.sigs = [(ts, fn, vec)]) (hdone : ∀ t ∈ ts, storesDone s t = true) :
    ∃ r, exec .msiMessage s = .next r ∧ Rings s r fn vec ∧ r.host.sigs = [] := by
  rw [msiMessage_one hs, if_pos (List.all_eq_true.mpr hdone)]
  exact ⟨_, rfl, rings_raiseVector { s with host := { s.host with sigs := [] } } fn vec, (raiseVector_keeps ..).2⟩

theorem signal_waits {s : State} {ts : List Tid} {fn vec : Nat} (hs : s.host.sigs = [(ts, fn, vec)]) (hout : ∃ t ∈ ts, storesDone s t = false) :
    exec .msiMessage s = .next s := by
  obtain ⟨t, ht, hf⟩ := hout
  have hno : ¬ ts.all (storesDone s) = true := fun h => by
    have hd := List.all_eq_true.mp h t ht
    rw [hf] at hd
    cases hd
  rw [msiMessage_one hs, if_neg hno]

theorem unmask_pending {s : State} {fn vec : Nat} (hp : (fn, vec) ∈ s.host.pending) (hvec : vec < vectorsOf fn) (hup : linkUp s fn = true) :
    ∃ r, exec (.vectorUnmask fn vec) s = .next r ∧
      r.host.msgs = s.host.msgs ++ [(fn, vec)] ∧ (fn, vec) ∉ r.host.pending ∧ (fn, vec) ∉ r.host.masked := by
  refine ⟨_, exec_vectorUnmask fn vec s, ?_⟩
  unfold unmask
  dsimp only
  rw [if_pos (by simpa using hp), raiseVector_sent hvec]
  · exact ⟨rfl, by simp, by simp⟩
  · simp
  · exact hup

theorem unmask_idle {s : State} {fn vec : Nat} (hp : (fn, vec) ∉ s.host.pending) :
    ∃ r, exec (.vectorUnmask fn vec) s = .next r ∧ r.host.msgs = s.host.msgs ∧ ∀ x, x ∈ r.host.masked ↔ x ∈ s.host.masked ∧ x ≠ (fn, vec) := by
  refine ⟨_, exec_vectorUnmask fn vec s, ?_⟩
  unfold unmask
  dsimp only
  rw [if_neg (by simpa using hp)]
  exact ⟨rfl, by simp⟩

theorem vectorsSent : VectorsSent := by
  refine ⟨fun s ts fn vec hs hdone => signal_sent hs hdone, fun s ts fn vec hs hout => signal_waits hs hout,
    fun s fn vec hp hvec hup => unmask_pending hp hvec hup, fun s fn vec hp => unmask_idle hp,
    fun s c hc hdue hlast => faultVector_raised hc ⟨hdue, hlast⟩, fun s c hc hwait => faultVector_waits hc fun hdue => ?_⟩
  rcases hwait with hnot | ⟨t, ht, hlt⟩
  · rw [hdue.1] at hnot
    cases hnot
  · exact absurd (hdue.2 t ht) (by omega)

/-! ### Windows (R24, R36, R45, R46) -/

theorem exec_windowRead (via : WindowVia) (off n : Nat) (s : State) : exec (.windowRead via off n) s = execWindowRead via off n s := rfl
theorem exec_windowWrite (via : WindowVia) (off n : Nat) (data : BitVec 512) (s : State) :
    exec (.windowWrite via off n data) s = execWindowWrite via off n data s := rfl

/-- The segment entry of an access within the window of a physical function. -/
theorem inWindow_seg {s : State} {fn off n pa : Nat} {e : BitVec 64} (h : InWindow s fn off n pa e) : segOf s fn off = e := by
  rw [segOf, if_neg (by have := h.inside.1; omega), tableOf, if_pos h.pf.1, h.entry]

/-- A physical function reaches the frames of such an access through its window. -/
theorem inWindow_frames {s : State} {fn off n pa : Nat} {e : BitVec 64} (h : InWindow s fn off n pa e) (ide : Option Nat) :
    (framesOf pa n).all (windowMay s fn ide) = true := by
  refine List.all_eq_true.mpr fun f hf => ?_
  obtain ⟨hpav, hscrub⟩ := h.memory.2 f hf
  simp [windowMay, h.pf.2.1, hpav, hscrub, h.pf.1]

/-- Such an access has its physical address; a write needs the entry's write bit and stays outside the audit log and the dump. -/
theorem inWindow_pa {s : State} {fn off n pa : Nat} {e : BitVec 64} (h : InWindow s fn off n pa e) (ide : Option Nat) (write : Bool)
    (hw : write = true → e.getLsbD 1 = true ∧ inRing s pa n = false ∧ inDump s pa n = false) : windowPa s fn off n ide write = some pa := by
  have hok : (!write || (e.getLsbD 1 && !inRing s pa n && !inDump s pa n)) = true := by
    cases write with
    | false => rfl
    | true =>
      obtain ⟨h1, h2, h3⟩ := hw rfl
      simp [h1, h2, h3]
  have hruns : vfRuns s fn = true := by rw [vfRuns, h.pf.2.1]
  obtain ⟨hvalid, hres, hhigh⟩ := h.valid
  simp only [windowPa, inWindow_seg h, ← h.place]
  refine if_pos ?_
  simp only [hok, hvalid, hres, hhigh, h.inside.2, h.memory.1, hruns, inWindow_frames h, decide_true, Bool.and_self]

theorem window_read {s : State} {fn off n pa : Nat} {e : BitVec 64} (h : InWindow s fn off n pa e) (ide : Option Nat) :
    exec (.windowRead ⟨fn, ide⟩ off n) s = .next { s with host := { s.host with readData := homeBytes s 0 pa n } } := by
  simp [exec_windowRead, execWindowRead, h.pf.2.2, inWindow_pa h ide false (by simp)]

/-- A window write within one line is one store at its home slice. -/
theorem windowStores_line (s : State) (link pa : Nat) {bs : List Byte} (hne : 1 ≤ bs.length) (hfit : pa % 64 + bs.length ≤ 64) :
    windowStores s link pa bs = windowStore s link pa bs := by
  have hone : (pa % 64 + bs.length + 63) / 64 = 1 := by omega
  have hlo : max pa (64 * (pa / 64)) = pa := by omega
  have hall : bs.take (64 * (pa / 64 + 1) - pa) = bs := List.take_of_length_le (by omega)
  simp [windowStores, hone, upto, hlo, hall]

theorem lastWindow_same (s : State) (link c : Nat) (l : List (Nat × Nat)) (h : s.host.lastWin = (link, c) :: l) : lastWindow s link = c := by
  simp [lastWindow, h]

theorem window_write {s : State} {fn off n pa : Nat} {e : BitVec 64} (data : BitVec 512) (ide : Option Nat) (h : InWindow s fn off n pa e)
    (hring : inRing s pa n = false) (hdump : inDump s pa n = false) (hbit : e.getLsbD 1 = true) (hn : 1 ≤ n) (hfit : off % 64 + n ≤ 64) :
    let c := max (max s.time (lastWindow s fn)) (max (lineRec s (pa / 64)).lm (lineRec s (pa / 64)).lastC) + 1
    ∃ r, exec (.windowWrite ⟨fn, ide⟩ off n data) s = .next r ∧ r.mem = s.mem ∧ lastWindow r fn = c ∧
      r.waiting = s.waiting ++ [{ tid := ⟨0, 0, 0⟩, ctx := 0, view := 0, pa := pa, bytes := leBytes n data.toNat, c := c }] := by
  have hlink : linkOf fn = fn := if_pos h.pf.1
  have hmin : min n 64 = n := by omega
  have hpa : pa % 64 = off % 64 := by
    have := h.place
    omega
  have he : exec (.windowWrite ⟨fn, ide⟩ off n data) s = .next (windowStore s fn pa (leBytes n data.toNat)) := by
    simp only [exec_windowWrite, execWindowWrite, h.pf.2.2, inWindow_pa h ide true fun _ => ⟨hbit, hring, hdump⟩, hlink, hmin]
    rw [windowStores_line s fn pa (by simpa using hn) (by simpa [hpa] using hfit)]
    rfl
  exact ⟨_, he, rfl, lastWindow_same _ fn _ _ rfl, rfl⟩

/-- An access through an invalid entry, or across the end of its segment, has no physical address. -/
theorem windowPa_fails {s : State} {fn off n : Nat} (h : (segOf s fn off).getLsbD 0 = false ∨ 2 ^ 30 < off % 2 ^ 30 + n) (ide : Option Nat) (write : Bool) :
    windowPa s fn off n ide write = none := by
  have hok : ((segOf s fn off).getLsbD 0 && decide (off % 2 ^ 30 + n ≤ 2 ^ 30)) = false := by
    rcases h with h | h
    · rw [h, Bool.false_and]
    · rw [decide_eq_false (by omega), Bool.and_false]
  simp only [windowPa]
  refine if_neg fun hall => ?_
  simp only [Bool.and_eq_true] at hall
  obtain ⟨⟨⟨⟨⟨⟨⟨hvalid, -⟩, hend⟩, -⟩, -⟩, -⟩, -⟩, -⟩ := hall
  rw [hvalid, hend] at hok
  cases hok

/-- A failed access that meets no scrub-pending granule is only counted. -/
theorem window_fails {s : State} {fn off n : Nat} (data : BitVec 512) (ide : Option Nat) (hup : linkUp s fn = true) (hmax : s.host.winFail ≠ 0xFFFFFFFF#32)
    (h : (segOf s fn off).getLsbD 0 = false ∨ (2 ^ 30 < off % 2 ^ 30 + n ∧ ∀ pa, scrubPending s pa = false)) :
    exec (.windowRead ⟨fn, ide⟩ off n) s = .next { s with host := { s.host with winFail := s.host.winFail + 1, readData := List.replicate n 0xFF#8 } } ∧
    exec (.windowWrite ⟨fn, ide⟩ off n data) s = .next { s with host := { s.host with winFail := s.host.winFail + 1 } } := by
  have hpa := fun write => windowPa_fails (h.imp_right And.left) ide write
  have hfault : ∀ write, windowFault s fn off write = s := by
    intro write
    simp only [windowFault]
    refine if_neg fun hall => ?_
    rw [Bool.and_eq_true] at hall
    rcases h with h | ⟨-, h⟩
    · rw [h] at hall
      exact absurd hall.1 (by simp)
    · rw [h] at hall
      exact absurd hall.2 (by simp)
  have hcount : (s.host.winFail == 0xFFFFFFFF#32) = false := beq_eq_false_iff_ne.mpr hmax
  simp [exec_windowRead, execWindowRead, exec_windowWrite, execWindowWrite, hup, hpa, hfault, winFail, hcount]

theorem windowWorks : WindowWorks := by
  refine ⟨fun s fn off n pa e ide h => window_read h ide,
    fun s fn off n pa e data ide h hring hdump hbit hn hfit => window_write data ide h hring hdump hbit hn hfit,
    fun s fn off n data ide hup hmax h => window_fails data ide hup hmax h, fun s fn off n data ide hdown => ?_⟩
  simp [exec_windowRead, execWindowRead, exec_windowWrite, execWindowWrite, hdown]

/-! ### Untrusted accesses, TDISP and HFEN (R25, R44, R48) -/

theorem exec_untrustedAccess (s : State) : exec .untrustedAccess s = execUntrustedAccess s := rfl
theorem exec_tdispStateChange (fn code : Nat) (s : State) : exec (.tdispStateChange fn code) s = execTdispStateChange fn code s := rfl
theorem exec_hfenWrite (en : Bool) (s : State) : exec (.hfenWrite en) s = .next (writeHfen s en) := rfl

@[simp] theorem appendEntry_untrusted (s : State) (source code ctx part : Nat) (detail : List Byte) :
    (appendEntry s source code ctx part detail).trust.untrusted = s.trust.untrusted := by
  have hsign : ∀ x : State, (signHead x).trust.untrusted = x.trust.untrusted := by
    intro x
    unfold signHead
    split <;> rfl
  by_cases hn : (s.trust.nextSeq % 1024 == 1023) = true <;> simp only [appendEntry, hn, if_true]
  · exact hsign _
  · rfl

@[simp] theorem audit_untrusted (s : State) (source code ctx part : Nat) (detail : List Byte) :
    (audit s source code ctx part detail).trust.untrusted = s.trust.untrusted := by
  unfold audit
  split <;> simp

theorem untrusted_logged (s : State) : ∃ r, exec .untrustedAccess s = .next r ∧ Logs s r 0 1 0 0 [] ∧
    r.trust.untrusted = s.trust.untrusted + 1 ∧ r = { s with trust := r.trust } := by
  let x : State := { s with trust := { s.trust with untrusted := s.trust.untrusted + 1 } }
  refine ⟨audit x 0 1 0 0 [], exec_untrustedAccess s, logs_audit x 0 1 0 0 [], audit_untrusted .., ?_⟩
  rw [audit_frame]

/-- The state of TDISP that a code names. -/
theorem tdisp_changed {s : State} {fn : Nat} {v : VirtFn} (code : Nat) (hv : vf? s fn = some v) : ∃ r, exec (.tdispStateChange fn code) s = .next r ∧
    vf? r fn = some { v with tdisp := if code = 0 then .configUnlocked else if code = 1 then .configLocked else if code = 2 then .run else .error } ∧
    r = { s with host := r.host } := by
  have hfn : (v.fn == fn) = true := List.find?_some (p := fun v : VirtFn => v.fn == fn) hv
  refine ⟨_, exec_tdispStateChange fn code s, ?_, rfl⟩
  simp only [vf?] at hv ⊢
  rw [find_updWhere _ _ _ (by intro x; rfl), hv, Option.map_some, if_pos hfn]
  rcases code with _ | _ | _ | n <;> rfl

/-- The legal numbers of entries are the powers of two from 64 to 65,536. -/
theorem entriesOk_iff (n : Nat) : entriesOk n = true ↔ ∃ k, 6 ≤ k ∧ k ≤ 16 ∧ n = 2 ^ k := by
  simp only [entriesOk, upto, List.any_eq_true, List.mem_range, beq_iff_eq]
  constructor
  · rintro ⟨i, hi, rfl⟩
    exact ⟨6 + i, by omega, by omega, rfl⟩
  · rintro ⟨k, h6, h16, rfl⟩
    exact ⟨k - 6, by omega, by rw [Nat.add_sub_cancel' h6]⟩

theorem hfen_set {s : State} {k : Nat} (hbase : s.host.hfBase.toNat % 64 = 0) (h6 : 6 ≤ k) (h16 : k ≤ 16) (hk : s.host.hfEntries = BitVec.ofNat 32 (2 ^ k)) :
    exec (.hfenWrite true) s = .next { s with host := { s.host with hfEn := true } } := by
  have hlt : 2 ^ k < 2 ^ 32 := Nat.pow_lt_pow_right (by omega) (by omega)
  have hok : entriesOk s.host.hfEntries.toNat = true := (entriesOk_iff _).mpr ⟨k, h6, h16, by rw [hk, BitVec.toNat_ofNat, Nat.mod_eq_of_lt hlt]⟩
  simp [exec_hfenWrite, writeHfen, hbase, hok]

theorem hfen_refused {s : State} (h : s.host.hfBase.toNat % 64 ≠ 0 ∨ ∀ k, 6 ≤ k → k ≤ 16 → s.host.hfEntries ≠ BitVec.ofNat 32 (2 ^ k)) :
    exec (.hfenWrite true) s = .next { s with host := { s.host with hfEn := false } } := by
  have hno : (decide (s.host.hfBase.toNat % 64 = 0) && entriesOk s.host.hfEntries.toNat) = false := by
    rcases h with h | h
    · simp [h]
    · refine Bool.and_eq_false_imp.mpr fun _ => Bool.eq_false_iff.mpr fun hok => ?_
      obtain ⟨k, h6, h16, hk⟩ := (entriesOk_iff _).mp hok
      exact h k h6 h16 (by rw [← hk, BitVec.ofNat_toNat, BitVec.setWidth_eq])
  simp [exec_hfenWrite, writeHfen, hno]

theorem interfacesGuard : InterfacesGuard :=
  ⟨untrusted_logged, fun _ _ _ code hv => tdisp_changed code hv, fun s => by simp [exec_hfenWrite, writeHfen],
    fun _ _ hbase h6 h16 hk => hfen_set hbase h6 h16 hk, fun _ h => hfen_refused h⟩

/-- Settles O53: each of its three parts by the theorem of its name. -/
theorem hostVectorsAndWindows : Obligations.HostVectorsAndWindows := ⟨vectorsSent, windowWorks, interfacesGuard⟩

end Sys2Proof.Proofs
end

section
/-! PROOF. Traps of a whole flock that vector to their handler (R190), and O17. -/

namespace Sys2Proof.Proofs

open Machine Claims Laws

/-! ### Threads that vector (R190) -/

/-- A thread that has taken a trap and stands at its handler. -/
def vectoredThread (handler : Word) (tr : Trap) (ret : Pc) (th : Thread) : Thread :=
  { th with cause := tr.cause.code, tvalLo := tr.lo, tvalHi := tr.hi, tret := ret.off, wait := none, jump := none
            handler := some ⟨ret, false⟩, pc := Pc.at handler }

/-- From `a` to `b` the threads of a list have taken their traps at their handlers and left their flocks, and nothing else differs. -/
structure Vectored (a b : State) (ts : List Tid) (tr : Tid → Trap) : Prop where
  taken : ∀ t ∈ ts, AtHandler a b t (tr t)
  others : ∀ t, t ∉ ts → thread? b t = thread? a t
  same : SameTeams a b
  slots : b.slots = a.slots.map fun sl => { sl with flock := sl.flock.filter fun t => t ∉ ts }
  frame : b = { a with teams := b.teams, slots := b.slots }

theorem Vectored.nil (a : State) (tr : Tid → Trap) : Vectored a a [] tr :=
  ⟨by simp, fun _ _ => rfl, rfl, by simp, rfl⟩

theorem updAt_updAt {α : Type} (f g : α → α) : ∀ (l : List α) (i : Nat), updAt i g (updAt i f l) = updAt i (g ∘ f) l
  | [], _ => by simp [updAt]
  | _ :: _, 0 => by simp [updAt]
  | a :: l, i + 1 => by simp only [updAt, updAt_updAt f g l i]

theorem modTeam_modTeam (s : State) (id : Nat) (f g : Team → Team) (hf : ∀ t, (f t).id = t.id) :
    modTeam (modTeam s id f) id g = modTeam s id (g ∘ f) := by
  simp only [modTeam, updWhere, List.map_map]
  congr 1
  refine List.map_congr_left fun t _ => ?_
  by_cases h : t.id = id <;> simp [h, hf]

theorem modThread_modThread (s : State) (t : Tid) (f g : Thread → Thread) : modThread (modThread s t f) t g = modThread s t (g ∘ f) := by
  simp only [modThread, modGroup]
  rw [modTeam_modTeam _ _ _ _ (by intro x; rfl)]
  congr 1
  funext tm
  simp only [Function.comp_apply, updAt_updAt]
  congr 2
  funext gr
  simp only [Function.comp_apply, updAt_updAt]

/-- A trap outside exit routines, in a context with a handler that the thread has not entered: the thread leaves its flock and stands at
the handler. -/
theorem takeTrapFull_vectors {s : State} {t : Tid} {th : Thread} {tm : Team} {c : Context} (hth : thread? s t = some th) (htm : team? s t.team = some tm)
    (hc : ctx? s tm.ctx = some c) (hhandler : c.handler ≠ 0) (hout : th.handler = none) (hexit : inRoutine th .exit = false ∨ th.status.isSome = true)
    {tr : Trap} (hcount : tr.cause ≠ .viewCapacity ∧ tr.cause ≠ .deferFull) (ret : Pc) (va : VAddr) (detail : BitVec 64) :
    takeTrapFull s t tr ret va detail = modThread (leaveFlock s t) t (vectoredThread c.handler tr ret) := by
  have hctx : teamCtx s t.team = some c := by rw [teamCtx, htm]; exact hc
  have hno : ¬ (inRoutine th .exit && th.status.isNone) = true := by
    rcases hexit with h | h
    · simp [h]
    · simp [Option.isSome_iff_ne_none.mp h]
  have hplain : ¬ (tr.cause == .viewCapacity || tr.cause == .deferFull) = true := by simpa using hcount
  have hgo : (decide (c.handler ≠ 0) && th.handler.isNone) = true := by simpa [hout] using hhandler
  unfold takeTrapFull
  simp only [hth, hctx]
  rw [if_neg hno, if_neg hplain, if_pos hgo, modThread_modThread]
  rfl

theorem ctx_of_frame {a b : State} (h : b = { a with teams := b.teams, slots := b.slots }) (id : Nat) : ctx? b id = ctx? a id := by rw [h]; rfl

/-- One thread more takes its trap. -/
theorem Vectored.step {a b : State} {ts : List Tid} {tr : Tid → Trap} (h : Vectored a b ts tr) {t : Tid} (ht : t ∉ ts) (hvec : CanVector a t)
    (hcount : (tr t).cause ≠ .viewCapacity ∧ (tr t).cause ≠ .deferFull) {th : Thread} (hth : thread? b t = some th) (va : VAddr) (detail : BitVec 64) :
    Vectored a (takeTrapFull b t (tr t) th.pc va detail) (ts ++ [t]) tr := by
  obtain ⟨th', tm, c, hth', htm, hc, hhandler, hout, hexit⟩ := hvec
  obtain rfl : th' = th := Option.some.inj (by rw [← hth', ← h.others t ht, hth])
  obtain ⟨tmb, htmb, hshape⟩ : ∃ tmb, team? b t.team = some tmb ∧ teamShape tmb = teamShape tm := by
    have hs := team_shape h.same t.team
    rw [htm, Option.map_some] at hs
    exact Option.map_eq_some_iff.mp hs
  have hctx : tmb.ctx = tm.ctx := by simpa [teamShape] using congrArg Team.ctx hshape
  have hcb : ctx? b tmb.ctx = some c := by rw [hctx, ctx_of_frame h.frame, hc]
  rw [takeTrapFull_vectors hth htmb hcb hhandler hout hexit hcount]
  have hleave : ∀ u, thread? (leaveFlock b t) u = thread? b u := fun _ => rfl
  refine ⟨fun u hu => ?_, fun u hu => ?_, sameTeams_trans h.same (modThread_sameTeams (leaveFlock b t) t _), ?_, ?_⟩
  · rcases List.mem_append.mp hu with hu | hu
    · intro thu tmu cu h1 h2 h3
      have hne : u ≠ t := fun e => ht (e ▸ hu)
      rw [thread_modThread, if_neg hne, hleave]
      exact h.taken u hu thu tmu cu h1 h2 h3
    · obtain rfl := List.mem_singleton.mp hu
      intro thu tmu cu h1 h2 h3
      rw [hth'] at h1; rw [htm] at h2
      cases h1; cases h2
      rw [hc] at h3; cases h3
      rw [thread_modThread, if_pos rfl, hleave, hth]
      rfl
  · simp only [List.mem_append, List.mem_singleton, not_or] at hu
    rw [thread_modThread, if_neg hu.2, hleave, h.others u hu.1]
  · have hslots : (leaveFlock b t).slots = b.slots.map fun sl => { sl with flock := sl.flock.filter fun u => u ≠ t } := by
      simp only [leaveFlock, updWhere]
      refine List.map_congr_left fun sl _ => ?_
      split
      · rfl
      · next hno =>
        have : sl.flock.filter (fun u => decide (u ≠ t)) = sl.flock := List.filter_eq_self.mpr fun u hu => by
          have : u ≠ t := fun e => hno (by simpa [e] using hu)
          simpa using this
        rw [this]
    rw [show (modThread (leaveFlock b t) t _).slots = (leaveFlock b t).slots from rfl, hslots, h.slots, List.map_map]
    refine List.map_congr_left fun sl _ => ?_
    simp only [Function.comp_apply, List.filter_filter]
    congr 1
    refine List.filter_congr fun u _ => ?_
    simp [not_or, and_comm]
  · have hf := h.frame
    generalize hx : modThread (leaveFlock b t) t (vectoredThread c.handler (tr t) th'.pc) = x
    have hb : x = { b with teams := x.teams, slots := x.slots } := by rw [← hx]; rfl
    generalize x.teams = ts' at hb ⊢
    generalize x.slots = sls at hb ⊢
    rw [hb, hf]

/-- A fold over distinct threads, each of which takes its trap. -/
theorem Vectored.fold {a : State} {tr : Tid → Trap} {g : State → Tid → State} : ∀ (l ts : List Tid) (b : State), l.Nodup → (∀ t ∈ l, t ∉ ts) →
    (∀ t ∈ l, CanVector a t ∧ (tr t).cause ≠ .viewCapacity ∧ (tr t).cause ≠ .deferFull) →
    (∀ b t, t ∈ l → SameTeams a b → thread? b t = thread? a t → ∃ th va detail, thread? b t = some th ∧ g b t = takeTrapFull b t (tr t) th.pc va detail) →
    Vectored a b ts tr → Vectored a (l.foldl g b) (ts ++ l) tr
  | [], ts, b, _, _, _, _, h => by simpa using h
  | t :: l, ts, b, hn, hnew, hvec, hg, h => by
    obtain ⟨hn1, hn2⟩ := List.nodup_cons.mp hn
    have ht := hnew t List.mem_cons_self
    obtain ⟨hcan, hcount⟩ := hvec t List.mem_cons_self
    obtain ⟨th, va, detail, hth, hstep⟩ := hg b t List.mem_cons_self h.same (h.others t ht)
    have h1 := h.step ht hcan hcount hth va detail
    rw [← hstep] at h1
    have hrest := Vectored.fold (g := g) l (ts ++ [t]) (g b t) hn2
      (fun u hu hin => by
        rcases List.mem_append.mp hin with h | h
        · exact hnew u (List.mem_cons_of_mem _ hu) h
        · exact hn1 (List.mem_singleton.mp h ▸ hu))
      (fun u hu => hvec u (List.mem_cons_of_mem _ hu)) (fun b u hu => hg b u (List.mem_cons_of_mem _ hu)) h1
    simpa using hrest

/-- A lane in a state whose teams are alike and in which its own thread is as it was. -/
theorem lane_sameTeams {a b : State} (hs : SameTeams a b) {t : Tid} (hth : thread? b t = thread? a t) {fid : Nat} {word : Word} {l : Lane}
    (h : lane? a t fid word = some l) : ∃ k, lane? b t fid word = some k ∧ k.tid = t ∧ k.th = l.th ∧ teamShape k.tm = teamShape l.tm ∧ k.g.s = l.g.s := by
  obtain ⟨htm, hg, -, -, htid, -, -⟩ := lane_some h
  obtain ⟨k, hk, hkth⟩ := lane_of_thread (hth.trans (lane_thread h)) fid word
  obtain ⟨htmk, hgk, -, -, htidk, -, -⟩ := lane_some hk
  have hshape := team_shape hs t.team
  rw [htm, htmk, Option.map_some, Option.map_some, Option.some.injEq] at hshape
  have hgroup := congrArg (fun x : Team => x.groups[t.group]?) hshape
  simp only [teamShape, List.getElem?_map, hg, hgk, Option.map_some, Option.some.injEq] at hgroup
  exact ⟨k, hk, htidk, hkth, hshape, by simpa using congrArg Group.s hgroup⟩

/-! ### The end of an issue whose flock has gone -/

/-- A slot whose flock has gone only gets its next turn: no team changes. -/
theorem retire_teams_of_empty {s : State} {key : Nat} (h : ∀ sl, slot? s key = some sl → sl.flock = []) (p : Pc) (st : BitVec 2) (u : Uses) (n : Nat) :
    (retire key p st u n s).teams = s.teams := by
  unfold retire
  split
  · rfl
  · next sl hsl =>
    have hkey : (sl.key == key) = true := List.find?_some (p := fun sl : Slot => sl.key == key) hsl
    simp only [h sl hsl, List.foldl_nil]
    split
    · unfold endClause
      have hslot : ∀ f : Slot → Slot, (∀ x, (f x).key = x.key) → slot? (modSlot s key f) key = some (f sl) := by
        intro f hf
        have hfind : s.slots.find? (fun sl => sl.key == key) = some sl := hsl
        simp only [slot?, modSlot]
        rw [find_updWhere _ _ _ (by intro x; rw [hf]), hfind, Option.map_some, if_pos hkey]
      rw [hslot _ (by intro x; rfl)]
      simp only [h sl hsl]
      rfl
    · rfl

/-- An issue of which every lane has vectored leaves the lanes at their handlers. -/
theorem issued_vectored {s : State} {sl : Slot} (hslot : curSlot s = some sl) {ts : List Tid} (hall : ∀ t ∈ sl.flock, t ∈ ts) {b : State} {tr : Tid → Trap}
    (h : Vectored (atIssue s sl) b ts tr) (st : BitVec 2) (u : Uses) : ∀ t ∈ ts, AtHandler (atIssue s sl) (issued s sl st u b) t (tr t) := by
  have hempty : ∀ x, slot? (teamProgress b (headTeam sl)) sl.key = some x → x.flock = [] := by
    intro x hx
    have hslots : (teamProgress b (headTeam sl)).slots = b.slots := by
      unfold teamProgress
      split <;> rfl
    have hfind : s.slots.find? (fun x => x.key == sl.key) = some sl := curSlot_slot hslot
    have hat : (atIssue s sl).slots = s.slots := rfl
    simp only [slot?, hslots, h.slots, hat, List.find?_map] at hx
    have hcomp : ((fun x : Slot => x.key == sl.key) ∘ fun sl : Slot => { sl with flock := sl.flock.filter fun t => t ∉ ts }) = fun x => x.key == sl.key := rfl
    rw [hcomp, hfind, Option.map_some] at hx
    cases hx
    exact List.filter_eq_nil_iff.mpr fun t ht => by simpa using hall t ht
  have hteams : (issued s sl st u b).teams = b.teams := by
    rw [issued, retire_teams_of_empty hempty]
    unfold teamProgress
    split <;> rfl
  intro t ht th tm c h1 h2 h3
  rw [thread_of_teams hteams]
  exact h.taken t ht th tm c h1 h2 h3

/-! ### wait.ext outside region 0 (R35) -/

/-- An aligned address outside region 0 is no place for the object. -/
theorem objectAt_outside {n a off : Nat} {l : Lane} (halign : ((rdB l.tm l.th a).toNat + off) % 2 ^ 80 % n = 0)
    (hregion : regionNo (((rdB l.tm l.th a).toNat + off) % 2 ^ 80) ≠ 0) :
    objectAt n a off l = .error (addrTrap .protection (((rdB l.tm l.th a).toNat + off) % 2 ^ 80)) := by
  simp only [objectAt]
  rw [if_neg (by simpa using halign), if_pos hregion]

/-- A lane that waits for a signal word outside region 0 takes PROTECTION with the address. -/
theorem waitExtBy_outside {d a b va : Nat} {l : Lane} {s : State} {th : Thread} (hth : thread? s l.tid = some th)
    (hva : ((rdB l.tm l.th a).toNat + (rdS l.g b).toNat) % 2 ^ 80 = va) (halign : va % 8 = 0) (hregion : regionNo va ≠ 0) :
    waitExtBy d a b l s = takeTrapFull s l.tid (addrTrap .protection va).trap th.pc (addrTrap .protection va).va (addrTrap .protection va).detail := by
  subst hva
  simp only [waitExtBy, objectAt_outside halign hregion, takeMemTrap, hth]

theorem exec_waitExt (d : BitVec 7) (a b : BitVec 6) (st : BitVec 2) (s : State) : exec (.waitExt d a b st) s = execWaitExt d a b st s := rfl

/-- The address that a lane of `wait.ext` names. -/
def signalVa (a b : Nat) (l : Lane) : Nat := ((rdB l.tm l.th a).toNat + (rdS l.g b).toNat) % 2 ^ 80

theorem signalVa_eq {a b : Nat} {l k : Lane} (hth : k.th = l.th) (hb : k.tm.b = l.tm.b) (hs : k.g.s = l.g.s) : signalVa a b k = signalVa a b l := by
  simp only [signalVa, rdB, rdS, hth, hb, hs]

/-- The trap of a lane of `wait.ext` outside region 0. -/
def signalTrap (s : State) (fid : Nat) (word : Word) (a b : Nat) (t : Tid) : Trap :=
  (addrTrap .protection (match lane? s t fid word with | some l => signalVa a b l | none => 0)).trap

/-- Settles O17: each lane's address fails the region check before any other, so each vectors in its turn. -/
theorem signalWordsLieInRegionZero : Obligations.SignalWordsLieInRegionZero := by
  intro d a b st word hword s sl u hready hall hlanes
  obtain rfl : encE 54#6 4#5 d a b st = word := Option.some.inj hword
  have hperm := sortBy_perm (fun t : Tid => t.lane) (lanesOf s sl u)
  have hmem : ∀ t, t ∈ sortBy (fun t : Tid => t.lane) (lanesOf s sl u) ↔ t ∈ sl.flock := fun t => by rw [hperm.mem_iff, hall]
  refine ⟨issued s sl st u (perLane (waitExtBy d.toNat a.toNat b.toNat) (encE 54#6 4#5 d a b st) sl (lanesOf s sl u) (atIssue s sl)),
    by rw [exec_waitExt, execWaitExt]; exact congrArg _ (issueHold_ready hready st _), ?_⟩
  have hv := Vectored.fold (a := atIssue s sl) (tr := signalTrap (atIssue s sl) sl.fid (encE 54#6 4#5 d a b st) a.toNat b.toNat)
    (g := fun s t => match lane? s t sl.fid (encE 54#6 4#5 d a b st) with | some ln => waitExtBy d.toNat a.toNat b.toNat ln s | none => s)
    (sortBy (fun t : Tid => t.lane) (lanesOf s sl u)) [] (atIssue s sl) (hperm.nodup_iff.mpr (lanesOf_nodup hready)) (by simp)
    (fun t ht => ⟨(hlanes t ((hmem t).mp ht)).1, by simp [signalTrap, addrTrap], by simp [signalTrap, addrTrap]⟩)
    (fun x t ht hsame hth => by
      obtain ⟨l, hl⟩ := lanesOf_lane hready t (hperm.mem_iff.mp ht)
      obtain ⟨halign, hregion⟩ := (hlanes t ((hmem t).mp ht)).2 l hl
      obtain ⟨k, hk, htid, hkth, hshape, hks⟩ := lane_sameTeams hsame hth hl
      have hkb : k.tm.b = l.tm.b := by simpa [teamShape] using congrArg Team.b hshape
      have hva : signalVa a.toNat b.toNat k = signalVa a.toNat b.toNat l := signalVa_eq hkth hkb hks
      have hthk : thread? x k.tid = some k.th := by rw [htid]; exact lane_thread hk
      refine ⟨k.th, (addrTrap .protection (signalVa a.toNat b.toNat l)).va, (addrTrap .protection (signalVa a.toNat b.toNat l)).detail, lane_thread hk, ?_⟩
      simp only [hk, signalTrap, hl]
      rw [waitExtBy_outside hthk hva halign hregion, htid])
    (Vectored.nil _ _)
  have hend := issued_vectored hready.slot (fun t ht => (hmem t).mpr ht) hv st u
  intro t ht l hl
  have h := hend t ((hmem t).mpr ht)
  simp only [signalTrap, hl] at h
  exact h

end Sys2Proof.Proofs
end

section
/-! PROOF. Engine operations: their counts, the piece that moves them on, and their ends (R166, R380, R382). -/

namespace Sys2Proof.Proofs

open Machine Claims Laws

/-! ### An operation in the list of operations -/

theorem eng_id {s : State} {id : Nat} {e : EngOp} (h : eng? s id = some e) : e.id = id := by simpa using List.find?_some h

theorem eng_modEng {s : State} {id : Nat} {e : EngOp} (h : eng? s id = some e) (f : EngOp → EngOp) (hf : ∀ x, (f x).id = x.id) :
    eng? (modEng s id f) id = some (f e) := by
  simp only [eng?, modEng] at h ⊢
  rw [find_updWhere _ _ _ (by intro x; rw [hf]), h, Option.map_some, if_pos (by simpa using List.find?_some h)]

/-- No operation of a number is left once all of it are taken out. -/
theorem eng_removed (s : State) (id : Nat) : eng? { s with engines := s.engines.filter fun x => x.id ≠ id } id = none := by
  simp [eng?]

/-! ### Counts (R380) -/

theorem addCode_only (c n : Nat) (e : EngOp) : addCode c n e = { e with codes := (addCode c n e).codes } := by
  unfold addCode
  split
  · rfl
  · split <;> rfl

theorem addCode_zero (c : Nat) (e : EngOp) : addCode c 0 e = e := rfl

/-- Bytes that are counted under a code stand there. -/
theorem addCode_counts (c : Nat) {n : Nat} (h : 0 < n) (e : EngOp) : ∃ m, (c, m) ∈ (addCode c n e).codes ∧ n ≤ m := by
  unfold addCode
  rw [if_neg (by simpa using Nat.pos_iff_ne_zero.mp h)]
  split
  · next hany =>
    obtain ⟨x, hx, hc⟩ := List.any_eq_true.mp hany
    obtain rfl : x.1 = c := by simpa using hc
    exact ⟨x.2 + n, by simpa [updWhere] using ⟨x.1, x.2, hx, by simp⟩, by omega⟩
  · exact ⟨n, by simp, le_rfl⟩

/-- What is added to a key's count stands there. -/
theorem atKey_addKey (k n : Nat) (l : List (Nat × Nat)) : atKey k (addKey k n l) = atKey k l + n := by
  simp only [atKey, addKey]
  by_cases hany : l.any (fun x => x.1 == k) = true
  · rw [if_pos hany, find_updWhere _ _ _ (by intro x; rfl)]
    obtain ⟨x, hf⟩ : ∃ x, l.find? (fun x => x.1 == k) = some x := Option.isSome_iff_exists.mp (by rwa [List.find?_isSome, ← List.any_eq_true])
    have hx : x.1 = k := by simpa using List.find?_some hf
    simp [hf, hx]
  · have hf : l.find? (fun x => x.1 == k) = none := List.find?_eq_none.mpr fun x hx hk => hany (List.any_eq_true.mpr ⟨x, hx, hk⟩)
    simp [hany, List.find?_append, hf]

/-! ### The end of an operation (R380, R382) -/

/-- The end of an operation that is no gather: its engine's queue loses it, and the bytes not moved are counted. -/
theorem endOp_plain {s : State} {id : Nat} {e : EngOp} (h : eng? s id = some e) (hk : e.kind ≠ .gather) (code left : Nat) :
    endOp s id code left = modEng { s with bulk := s.bulk.filter fun x => x ≠ id } id fun x => addCode code left { x with ended := true, paused := none } := by
  unfold endOp
  rw [h]
  simp [hk]

theorem endOp_counts {s : State} {id : Nat} {e : EngOp} (h : eng? s id = some e) (hk : e.kind ≠ .gather) (code : Nat) {left : Nat} (hleft : 0 < left) :
    (∃ e', eng? (endOp s id code left) id = some e' ∧ e'.ended = true ∧ ∃ m, (code, m) ∈ e'.codes ∧ left ≤ m) ∧ id ∉ (endOp s id code left).bulk := by
  rw [endOp_plain h hk]
  refine ⟨⟨_, eng_modEng (s := { s with bulk := _ }) h _ fun x => by rw [addCode_only], by rw [addCode_only], addCode_counts code hleft _⟩, by simp [modEng]⟩

/-! ### A piece of an operation -/

/-- Lines that came from peers for a step of an operation are used up. -/
def usedUp (e : EngOp) : EngOp := { e with fetched := e.fetched.filter fun y => y.2.2 == .waits }

/-- An operation that is no gather after `f` has counted a piece: the last one ends it. -/
def afterPiece (f : EngOp → EngOp) (e : EngOp) : EngOp :=
  if (f (usedUp e)).left == 0 then { f (usedUp e) with ended := true, paused := none } else f (usedUp e)

/-- A piece is counted in the operation, in its team's counter, and as progress of its context. -/
def pieceCounted (s : State) (e : EngOp) (n : Nat) (f : EngOp → EngOp) : State :=
  bump (progress (modEng s e.id fun x => f (usedUp x)) e.ctx) e.team 5 n

theorem eng_pieceCounted {s : State} {e x : EngOp} (n : Nat) {f : EngOp → EngOp} (h : eng? s e.id = some x) (hf : ∀ y, (f y).id = y.id) :
    eng? (pieceCounted s e n f) e.id = some (f (usedUp x)) := eng_modEng h (fun x => f (usedUp x)) fun _ => hf _

theorem moved_counted {s : State} {e x : EngOp} {n : Nat} {f : EngOp → EngOp} (h : eng? s e.id = some x) (hf : ∀ y, (f y).id = y.id) :
    moved s e n f = if (f (usedUp x)).left == 0 then endOp (pieceCounted s e n f) e.id 0 0 else pieceCounted s e n f := by
  have h1 := eng_pieceCounted n h hf
  unfold moved
  simp only [pieceCounted, usedUp] at h1 ⊢
  rw [h1]
  rfl

theorem moved_eng {s : State} {e x : EngOp} {n : Nat} {f : EngOp → EngOp} (h : eng? s e.id = some x) (hf : ∀ y, (f y).id = y.id)
    (hk : (f (usedUp x)).kind ≠ .gather) : eng? (moved s e n f) e.id = some (afterPiece f x) := by
  have h1 := eng_pieceCounted n h hf
  rw [moved_counted h hf, afterPiece]
  split
  · rw [endOp_plain h1 hk]
    exact eng_modEng (s := { pieceCounted s e n f with bulk := _ }) h1 _ fun _ => rfl
  · exact h1

/-- A piece of an operation that is no gather changes the operation, its queue, the counter of its team and its context's progress. -/
theorem moved_frame {s : State} {e x : EngOp} {n : Nat} {f : EngOp → EngOp} (h : eng? s e.id = some x) (hf : ∀ y, (f y).id = y.id)
    (hk : (f (usedUp x)).kind ≠ .gather) : ∃ en bu tms cs, moved s e n f = { s with engines := en, bulk := bu, teams := tms, contexts := cs } := by
  rw [moved_counted h hf]
  split
  · rw [endOp_plain (eng_pieceCounted n h hf) hk]
    exact ⟨_, _, _, _, rfl⟩
  · exact ⟨_, _, _, _, rfl⟩

/-- A piece that counts `n` bytes as done and written moves the operation on by them. -/
theorem moved_moves {s : State} {e x : EngOp} {n : Nat} {f : EngOp → EngOp} (h : eng? s e.id = some x) (hf : ∀ y, (f y).id = y.id)
    (hk : (f (usedUp x)).kind ≠ .gather) (hended : (f (usedUp x)).ended = false) (hdone : (f (usedUp x)).done = e.done + n)
    (hwritten : (f (usedUp x)).written = e.written + n) (hcodes : (f (usedUp x)).codes = e.codes) : Moves (moved s e n f) e n := by
  refine ⟨_, moved_eng h hf hk, ?_⟩
  unfold afterPiece
  split
  · next h0 => exact ⟨hdone, hwritten, hcodes, h0.symm⟩
  · next h0 => exact ⟨hdone, hwritten, hcodes, by rw [hended]; simpa using h0⟩

/-! ### The host's answer to a request for a page (R47) -/

theorem writeFault_pri {s : State} {r : FaultRec} (h2 : r.stage2 = false) : (writeFault s r).2.host.pri = s.host.pri := by
  cases hc : ctx? s r.ctx with
  | none => simp [writeFault, h2, hc]
  | some c =>
    cases hput : putFault s c.faultBase c.faultEntries c.faultHead r with
    | none => rw [writeFault_lost h2 hc hput]; rfl
    | some s' =>
      rw [writeFault_taken h2 hc hput]
      unfold putFault at hput
      dsimp only at hput
      split at hput
      · cases hput
      · cases hput; rfl

theorem threadFault_stage2 (s : State) (t : Tid) (code : BitVec 8) (pc : Word) (va : VAddr) (detail : BitVec 64) :
    (threadFault s t code pc va detail).stage2 = false := by
  unfold threadFault
  split <;> rfl

theorem eng_onlyRecords {a b : State} (h : OnlyRecords a b) (id : Nat) : eng? b id = eng? a id := by
  rw [eng?, show b.engines = a.engines by rw [show b = _ from h]]; rfl

/-- The machine's step for an answer of the host, without the outcome around it. -/
theorem exec_priResponse (op : Nat) (granted : Bool) (s : State) : exec (.priResponse op granted) s = execPriResponse op granted s := rfl

/-- The requests that are left when the host has answered those of an operation. -/
def answeredPri (s : State) (op : Nat) : State := { s with host := { s.host with pri := s.host.pri.filter fun x => x.1 ≠ op } }

theorem priResponse_granted {s : State} {e : EngOp} {p : Nat × Nat} (he : eng? s e.id = some e) (hp : s.host.pri.find? (fun x => x.1 == e.id) = some p) :
    exec (.priResponse e.id true) s = .next (answeredPri s e.id) := by
  rw [exec_priResponse, execPriResponse, hp, he]
  rfl

theorem priResponse_refused {s : State} {e : EngOp} {p : Nat × Nat} (he : eng? s e.id = some e) (hp : s.host.pri.find? (fun x => x.1 == e.id) = some p) :
    ∃ r : FaultRec, r.stage2 = false ∧ exec (.priResponse e.id false) s = .next (endOp (writeFault (answeredPri s e.id) r).2 e.id stFault e.left) := by
  refine ⟨_, threadFault_stage2 (answeredPri s e.id) (engLane (answeredPri s e.id) e ((e.descs.map Prod.fst).headD 0)) Cause.pageFault.code e.pc (BitVec.ofNat 80 p.2) 0, ?_⟩
  rw [exec_priResponse, execPriResponse, hp, he]
  rfl

theorem hostPages : HostPages := by
  intro s e p he hp
  refine ⟨priResponse_granted he hp, fun hk hleft => ?_⟩
  obtain ⟨r, h2, hexec⟩ := priResponse_refused he hp
  have hw := writeFault_records (answeredPri s e.id) r
  have he' : eng? (writeFault (answeredPri s e.id) r).2 e.id = some e := (eng_onlyRecords hw e.id).trans he
  obtain ⟨hcount, hbulk⟩ := endOp_counts he' hk stFault hleft
  refine ⟨_, hexec, fun x hx => ?_, hcount, hbulk⟩
  rw [endOp_plain he' hk] at hx
  have hx' : x ∈ (writeFault (answeredPri s e.id) r).2.host.pri := hx
  rw [writeFault_pri h2] at hx'
  simpa [answeredPri] using (List.mem_filter.mp hx').2

end Sys2Proof.Proofs
end

section
/-! PROOF. The steps of the bulk engines (R25, R47, R55, R391). -/

namespace Sys2Proof.Proofs

open Machine Claims Laws

theorem exec_bulkTransfer (eng : Nat) (ats : Bool) (hs : HostStores) (s : State) : exec (.bulkTransfer eng ats hs) s = execBulkTransfer eng ats hs s := rfl

/-- The operation at the head of a bulk engine's queue, ready to move. -/
structure BulkHead (s : State) (e : EngOp) (eng : Nat) : Prop where
  head : (s.bulk.filterMap (eng? s)).find? (fun x => x.unit == 1000000 + eng) = some e
  eng : eng? s e.id = some e
  kind : e.kind = .bulk
  runs : e.ended = false ∧ e.paused = none ∧ stopped s e = false
  noPage : ∀ p ∈ s.host.pri, p.1 ≠ e.id

/-- An operation that its engine has taken up. -/
def takenUp (s : State) (id : Nat) : State := modEng s id fun x => { x with begun := true }

theorem bulkTransfer_head {s0 : State} {hs : HostStores} {e : EngOp} {eng : Nat} (h : BulkHead (hostStores s0 hs) e eng) (ats : Bool) :
    exec (.bulkTransfer eng ats hs) s0 = .next (if !e.begun && !hasLease (hostStores s0 hs) e.ctx eng then endOp (hostStores s0 hs) e.id stNoLease e.total
      else bulkStep (takenUp (hostStores s0 hs) e.id) e ats) := by
  obtain ⟨hended, hpaused, hstopped⟩ := h.runs
  have hpri : (hostStores s0 hs).host.pri.any (fun p => p.1 == e.id) = false := by simpa using h.noPage
  rw [exec_bulkTransfer, execBulkTransfer, h.head]
  simp only [hended, hpaused, hstopped, hpri, Option.isSome_none, Bool.or_self, Bool.false_eq_true, if_false]
  rfl

/-- Taking an operation up leaves the requests of its function outstanding. -/
theorem priOf_takenUp (s : State) (id ctx : Nat) : priOf (takenUp s id) ctx = priOf s ctx := by
  have hctx : ∀ k, (eng? (takenUp s id) k).map EngOp.ctx = (eng? s k).map EngOp.ctx := by
    intro k
    simp only [eng?, takenUp, modEng]
    rw [find_updWhere _ _ _ (by intro x; rfl), Option.map_map]
    congr 1
    funext x
    simp only [Function.comp_apply]
    split <;> rfl
  refine congrArg List.length (List.filter_congr fun p _ => ?_)
  have h := hctx p.1
  cases h1 : eng? (takenUp s id) p.1 <;> cases h2 : eng? s p.1 <;> simp only [h1, h2, Option.map_none, Option.map_some, reduceCtorEq, Option.some.injEq] at h
  · rfl
  · simp only [h]
    rfl

theorem bulkStep_asks {s : State} {e : EngOp} (h : regionNo ((bulkPiece e).1 + (bulkPiece e).2.1) = 2) :
    bulkStep s e false = if priOf s e.ctx < 256 then { s with host := { s.host with pri := s.host.pri ++ [(e.id, (bulkPiece e).1 + (bulkPiece e).2.1)] } } else s := by
  unfold bulkStep
  dsimp only
  simp only [h, BEq.rfl, if_true]

theorem bulkStep_moves {s z y : State} {e : EngOp} {sb so db dO n : Nat} {bs : List Byte} (hp : bulkPiece e = (sb, so, db, dO, n)) (hs : regionNo (sb + so) ≠ 2)
    (hd : regionNo (db + dO) ≠ 2) (hr : engRead s e sb so n = (.ok bs, z)) (hw : engWrite z e db dO bs = (.ok (), y)) :
    bulkStep s e false = moved y e n fun x => { x with done := x.done + n, written := x.written + n } := by
  unfold bulkStep
  simp only [hp, beq_eq_false_iff_ne.mpr hs, beq_eq_false_iff_ne.mpr hd, Bool.false_eq_true, if_false, hr, hw]

theorem bulkWorks : BulkWorks := by
  intro s0 hs s e eng hhead he hk hended hpaused hstopped hpri s1
  have hb : BulkHead (hostStores s0 hs) e eng := ⟨hhead, he, hk, ⟨hended, hpaused, hstopped⟩, hpri⟩
  have hng : e.kind ≠ .gather := by rw [hk]; decide
  refine ⟨fun hbegun hlease htotal ats => ?_, fun hgo a ha hregion => ?_, fun hgo bs z y sb so db dO n hp hs2 hd2 hr hw hy => ?_⟩
  · have hlease' : hasLease (hostStores s0 hs) e.ctx eng = false := hlease
    obtain ⟨hcount, hout⟩ := endOp_counts he hng stNoLease htotal
    refine ⟨_, by rw [bulkTransfer_head hb, if_pos (by simp [hbegun, hlease'])], hcount, hout, ?_⟩
    rw [endOp_plain he hng]
    rfl
  all_goals
    have hgo' : ¬ (!e.begun && !hasLease (hostStores s0 hs) e.ctx eng) = true := by
      rcases hgo with h | h
      · simp [h]
      · have h' : hasLease (hostStores s0 hs) e.ctx eng = true := h
        simp [h']
  · subst ha
    rw [bulkTransfer_head hb, if_neg hgo', bulkStep_asks hregion, priOf_takenUp]
    rfl
  · obtain ⟨e1, he1, hdone, hwritten, hcodes, hk1, -, hended1⟩ := hy
    have hr' : engRead (takenUp (hostStores s0 hs) e.id) e sb so n = (.ok bs, z) := hr
    refine ⟨_, by rw [bulkTransfer_head hb, if_neg hgo', bulkStep_moves hp hs2 hd2 hr' hw], ?_⟩
    exact moved_moves he1 (fun _ => rfl) (by simp [usedUp, hk1]) hended1 (by simp [usedUp, hdone]) (by simp [usedUp, hwritten]) hcodes

end Sys2Proof.Proofs
end

section
/-! PROOF. The writes of a copy and the beats of a multicast (R166, R384, R387). -/

namespace Sys2Proof.Proofs

open Machine Claims Laws

/-! ### Bytes at a bank -/

/-- Bytes that meet no initialised pen are written, and nothing else happens (R376). -/
theorem bankWrite_noPens {s : State} {core a : Nat} {bs : List Byte} (h : NoPens s core a bs.length) : bankWrite s core a bs = wrScratch s core a bs := by
  have hnone : ((dedup ((upto bs.length).map fun i => (a + i) / 64 * 64)).filter fun x => penInitialised (genAt s core x) (penAt s core x)) = [] := by
    refine List.filter_eq_nil_iff.mpr fun x hx => ?_
    obtain ⟨i, hi, rfl⟩ := List.mem_map.mp ((mem_dedup _ _).mp hx)
    simp [h i (by simpa [upto] using hi)]
  unfold bankWrite
  rw [hnone]
  rfl

/-- What a delivery counts in its operation. -/
def wroteBytes (s : State) (g core n : Nat) (f : EngOp → EngOp) (x : EngOp) : EngOp :=
  f { x with written := x.written + n, perCore := addKey (256 * core + g) n x.perCore, latest := max x.latest s.time }

/-- A delivery at a bank that is not fenced, on bytes that no pen counts. -/
theorem deliverScratch_written {s : State} {e : EngOp} {g core addr : Nat} {bs : List Byte} {f : EngOp → EngOp}
    (hf : fencedFrom s (e.pav s) core addr = false) (hp : NoPens s core addr bs.length) :
    deliverScratch s e g core addr bs f = moved (wrScratch s core addr bs) e bs.length (wroteBytes s g core bs.length f) := by
  unfold deliverScratch
  simp only [hf, Bool.false_eq_true, if_false]
  rw [bankWrite_noPens hp]
  rfl

/-! ### A step of an operation -/

theorem exec_engineWrite (op : Nat) (hs : HostStores) (s : State) : exec (.engineWrite op hs) s = execEngineWrite op hs s := rfl
theorem exec_multicastBeat (op p : Nat) (hs : HostStores) (s : State) : exec (.multicastBeat op p hs) s = execMulticastBeat op p hs s := rfl

/-- An operation whose turn it is has not ended. -/
theorem runsNow_ended {s : State} {e : EngOp} (h : runsNow s e = true) : e.ended = false := by
  simp only [runsNow, Bool.and_eq_true, Bool.not_eq_true'] at h
  obtain ⟨⟨⟨⟨-, hended⟩, -⟩, -⟩, -⟩ := h
  exact hended

theorem engineWrite_copy {s0 : State} {hs : HostStores} {e : EngOp} (he : eng? (hostStores s0 hs) e.id = some e) (hr : runsNow (hostStores s0 hs) e = true)
    (hk : e.kind = .team ∨ e.kind = .out) : exec (.engineWrite e.id hs) s0 = .next (copyStep (hostStores s0 hs) e) := by
  rw [exec_engineWrite, execEngineWrite]
  simp only [he, hr]
  rcases hk with hk | hk <;> simp [hk]

theorem multicastBeat_beat {s0 : State} {hs : HostStores} {e : EngOp} (p : Nat) (he : eng? (hostStores s0 hs) e.id = some e)
    (hr : runsNow (hostStores s0 hs) e = true) (hk : e.kind = .multicast) : exec (.multicastBeat e.id p hs) s0 = .next (beatStep (hostStores s0 hs) e p) := by
  rw [exec_multicastBeat, execMulticastBeat]
  simp [he, hr, hk]

/-! ### The next piece of a row (R384) -/

/-- Offset of a position of a slice from its base, its place in a scratchpad allocation, and the length of its piece. -/
def rowOff (x : Slice) (row c : Nat) : Nat := x.goff + row * x.gpitch + c
def rowPlace (x : Slice) (alloc row c : Nat) : Nat := alloc + x.soff + row * x.spitch + c
def rowPiece (e : EngOp) (x : Slice) (alloc row c : Nat) : Nat :=
  min (x.rowb - c) (min (64 - ((e.bases.getD x.gbase 0).toNat + rowOff x row c) % 64) (64 - rowPlace x alloc row c % 64))

theorem rowAddrs_eq (e : EngOp) (x : Slice) (alloc row c : Nat) :
    rowAddrs e x alloc row c = ((e.bases.getD x.gbase 0).toNat + rowOff x row c, rowPlace x alloc row c) := by
  simp only [rowAddrs, rowOff, rowPlace, Nat.add_assoc]

theorem pieceLen_eq {e : EngOp} (hk : e.kind ≠ .sparse) (x : Slice) (alloc row c : Nat) :
    pieceLen e x ((e.bases.getD x.gbase 0).toNat + rowOff x row c) (rowPlace x alloc row c) c = rowPiece e x alloc row c := by
  simp [pieceLen, rowPiece, hk]

theorem copySource_dense (s : State) {e : EngOp} (hk : e.kind ≠ .sparse) (x : Slice) (row c n : Nat) :
    copySource s e x row c n = engRead s e (e.bases.getD x.gbase 0).toNat (rowOff x row c) n := by
  simp [copySource, rowOff, hk]

/-! ### copy.team (R385) -/

/-- Bytes are counted as done. -/
def addDone (n : Nat) (y : EngOp) : EngOp := { y with done := y.done + n }

/-- A copy's piece that reaches its scratchpad. -/
theorem copyStep_team {s z : State} {e : EngOp} {tm : Team} {x : Slice} {row c : Nat} {bs : List Byte} (hk : e.kind = .team) (htm : team? s e.team = some tm)
    (hloc : locate e.slices e.done = some (x, row, c))
    (hread : engRead s e (e.bases.getD x.gbase 0).toNat (rowOff x row c) (rowPiece e x tm.allocBase row c) = (.ok bs, z)) :
    copyStep s e = deliverScratch z e x.group tm.core (rowPlace x tm.allocBase row c) bs (addDone (rowPiece e x tm.allocBase row c)) := by
  have hs : e.kind ≠ .sparse := by rw [hk]; decide
  unfold copyStep
  simp only [htm, hloc, rowAddrs_eq, pieceLen_eq hs, copySource_dense _ hs, hread, hk]
  rfl

/-! ### A global write at its home slice (R156, R166) -/

/-- The completion time of a write that reaches its home slice now. -/
def homeTime (z : State) (pa : Nat) : Nat := max z.time (max (lineRec z (pa / 64)).lm (lineRec z (pa / 64)).lastC) + 1

/-- An operation's bytes wait at their home slice for that time, which the operation notes. -/
def waitsHome (z : State) (e : EngOp) (pa : Nat) (bs : List Byte) : State :=
  noteCompletion { setLine z { lineRec z (pa / 64) with lastC := homeTime z pa } with
      waiting := z.waiting ++ [⟨⟨0, 0, 0⟩, e.ctx, e.view, pa, bs, homeTime z pa, false, none, none⟩] } e.view (homeTime z pa)
def atHome (z : State) (e : EngOp) (pa : Nat) (bs : List Byte) : State :=
  modEng (waitsHome z e pa bs) e.id fun x => { x with latest := max x.latest (homeTime z pa) }

theorem eng_atHome {z : State} {e x : EngOp} (h : eng? z e.id = some x) (pa : Nat) (bs : List Byte) :
    eng? (atHome z e pa bs) e.id = some { x with latest := max x.latest (homeTime z pa) } :=
  eng_modEng (s := waitsHome z e pa bs) h (fun x => { x with latest := max x.latest (homeTime z pa) }) fun _ => rfl

theorem engWrite_home {s z : State} {e : EngOp} {k : Context} {base off va pa w : Nat} {lz : Nat} (bs : List Byte) (hk : ctx? s e.ctx = some k)
    (hva : formAddr base off = some va) (hr : regionNo va = 0) (ht : translateNow s false (.core e.core) k va kindWrite = (.ok (w, pa, lz), z))
    (hkz : ctx? z e.ctx = some k) (hcell : noCell z k e.view pa = false) : engWrite s e base off bs = (.ok (), atHome z e pa bs) := by
  have ha : engAddr s e base off kindWrite false = (.ok (va, pa), z) := by
    unfold engAddr
    simp only [hva, hk, hr, ht]
    rfl
  unfold engWrite
  simp only [ha, hkz, hr, hcell]
  rfl

theorem copyStep_out {s y : State} {e : EngOp} {tm : Team} {x : Slice} {row c : Nat} (hk : e.kind = .out) (htm : team? s e.team = some tm)
    (hloc : locate e.slices e.done = some (x, row, c)) (hfence : fencedFrom s (e.pav s) tm.core (rowPlace x tm.allocBase row c) = false)
    (hwrite : engWrite s e (e.bases.getD x.gbase 0).toNat (rowOff x row c)
      (rdScratch s tm.core (rowPlace x tm.allocBase row c) (rowPiece e x tm.allocBase row c)) = (.ok (), y)) :
    copyStep s e = moved y e (rowPiece e x tm.allocBase row c) fun v =>
      addDone (rowPiece e x tm.allocBase row c) { v with written := v.written + rowPiece e x tm.allocBase row c } := by
  have hs : e.kind ≠ .sparse := by rw [hk]; decide
  unfold copyStep
  simp only [htm, hloc, rowAddrs_eq, pieceLen_eq hs, hfence, hk]
  rw [show x.goff + row * x.gpitch + c = rowOff x row c from rfl, hwrite]
  rfl

theorem copyMoves : CopyMoves := by
  intro s0 hs s e tm x row c he hruns htm hloc
  refine ⟨fun bs z hk hread hlen hteams heng hfence hpens => ?_, fun k va pa w lz z hk hfence hctx hva hregion htrans hctxz hcell hteams heng => ?_⟩
  · have hread' : engRead (hostStores s0 hs) e (e.bases.getD x.gbase 0).toNat (rowOff x row c) (rowPiece e x tm.allocBase row c) = (.ok bs, z) := hread
    have hlen' : bs.length = rowPiece e x tm.allocBase row c := hlen
    have hez : eng? (wrScratch z tm.core (rowPlace x tm.allocBase row c) bs) e.id = some e := by
      rw [← he]
      simp only [eng?, wrScratch, heng]
    have hfk : (wroteBytes z x.group tm.core bs.length (addDone bs.length) (usedUp e)).kind ≠ .gather := by
      rw [show (wroteBytes _ _ _ _ _ _).kind = e.kind from rfl, hk]
      decide
    obtain ⟨en, bu, tms, cs, hframe⟩ := moved_frame (n := bs.length) hez (f := wroteBytes z x.group tm.core bs.length (addDone bs.length)) (fun _ => rfl) hfk
    refine ⟨_, by rw [engineWrite_copy he hruns (.inl hk), copyStep_team hk htm hloc hread', ← hlen',
      deliverScratch_written (addr := rowPlace x tm.allocBase row c) hfence (by rw [hlen]; exact hpens)], by rw [hframe]; rfl, ?_⟩
    rw [← hlen]
    exact moved_moves hez (fun _ => rfl) hfk (runsNow_ended hruns) rfl rfl rfl
  · have hwrite := engWrite_home (base := (e.bases.getD x.gbase 0).toNat) (off := rowOff x row c)
      (rdScratch (hostStores s0 hs) tm.core (rowPlace x tm.allocBase row c) (rowPiece e x tm.allocBase row c)) hctx hva hregion htrans hctxz hcell
    have hez : eng? z e.id = some e := by
      rw [← he]
      simp only [eng?, heng]
    generalize hbs : rdScratch (hostStores s0 hs) tm.core (rowPlace x tm.allocBase row c) (rowPiece e x tm.allocBase row c) = bs at hwrite
    have hey := eng_atHome hez pa bs
    have hfk : e.kind ≠ .gather := by rw [hk]; decide
    obtain ⟨en, bu, tms, cs, hframe⟩ := moved_frame (n := rowPiece e x tm.allocBase row c) hey (f := fun v =>
      addDone (rowPiece e x tm.allocBase row c) { v with written := v.written + rowPiece e x tm.allocBase row c }) (fun _ => rfl) hfk
    refine ⟨_, by rw [engineWrite_copy he hruns (.inr hk), copyStep_out hk htm hloc hfence (by rw [hbs]; exact hwrite)], ?_, by rw [hframe]; rfl, ?_⟩
    · rw [hframe, ← hbs]
      rfl
    · exact moved_moves hey (fun _ => rfl) hfk (runsNow_ended hruns) rfl rfl rfl

/-! ### copy.mc (R387) -/

/-- The destination of a beat: the team at the position, of the captured generation. -/
def beatDest (s : State) (e : EngOp) (tm : Team) (p : Nat) : Option Team := (teamAt s tm p).filter fun u => e.gens.any fun g => g.1 == p && g.2 == u.gen

theorem beatDest_captured {s : State} {e : EngOp} {tm u : Team} {p : Nat} (hu : teamAt s tm p = some u) (hg : (p, u.gen) ∈ e.gens) :
    beatDest s e tm p = some u := by
  rw [beatDest, hu]
  exact Option.filter_some_pos (List.any_eq_true.mpr ⟨_, hg, by simp⟩)

theorem beatDest_stale {s : State} {e : EngOp} {tm : Team} {p : Nat} (h : ∀ u, teamAt s tm p = some u → (p, u.gen) ∉ e.gens) : beatDest s e tm p = none := by
  rw [beatDest]
  refine Option.filter_eq_none_iff.mpr fun u hu hany => ?_
  obtain ⟨⟨q, gen⟩, hmem, heq⟩ := List.any_eq_true.mp hany
  obtain ⟨rfl, rfl⟩ : q = p ∧ gen = u.gen := by simpa using heq
  exact h u hu hmem

/-- Bytes are counted as done at a destination. -/
def advanceAt (p n : Nat) (y : EngOp) : EngOp := { y with prog := addKey p n y.prog }

theorem beatStep_written {s z : State} {e : EngOp} {tm u : Team} {p : Nat} {x : Slice} {row c : Nat} {bs : List Byte} (hk : e.kind = .multicast)
    (htm : team? s e.team = some tm) (hloc : locate (e.slices.filter fun x => x.cmask.testBit p) (atKey p e.prog) = some (x, row, c))
    (hdest : beatDest s e tm p = some u)
    (hread : engRead s e (e.bases.getD x.gbase 0).toNat (rowOff x row c) (rowPiece e x u.allocBase row c) = (.ok bs, z)) :
    beatStep s e p = deliverScratch z e x.group u.core (rowPlace x u.allocBase row c) bs (advanceAt p (rowPiece e x u.allocBase row c)) := by
  have hs : e.kind ≠ .sparse := by rw [hk]; decide
  unfold beatDest at hdest
  unfold beatStep
  simp only [htm, hloc, hdest, rowAddrs_eq, pieceLen_eq hs, copySource_dense _ hs, hread]
  rfl

theorem beatStep_stale {s : State} {e : EngOp} {tm : Team} {p : Nat} {x : Slice} {row c : Nat} (hk : e.kind = .multicast)
    (htm : team? s e.team = some tm) (hloc : locate (e.slices.filter fun x => x.cmask.testBit p) (atKey p e.prog) = some (x, row, c))
    (hdest : beatDest s e tm p = none) :
    beatStep s e p = moved s e 0 fun y => addCode stStale (rowPiece e x 0 row c) (advanceAt p (rowPiece e x 0 row c) y) := by
  have hs : e.kind ≠ .sparse := by rw [hk]; decide
  unfold beatDest at hdest
  unfold beatStep
  simp only [htm, hloc, hdest, rowAddrs_eq, pieceLen_eq hs]
  rfl

theorem beatArrives : BeatArrives := by
  intro s0 hs s e tm x row c p he hruns hk htm hloc
  have hng : e.kind ≠ .gather := by rw [hk]; decide
  refine ⟨fun u bs z hu hgen => ?_, fun hno => ?_⟩
  · intro place n hread hlen hteams heng hfence hpens
    have hread' : engRead (hostStores s0 hs) e (e.bases.getD x.gbase 0).toNat (rowOff x row c) (rowPiece e x u.allocBase row c) = (.ok bs, z) := hread
    have hlen' : bs.length = rowPiece e x u.allocBase row c := hlen
    have hez : eng? (wrScratch z u.core (rowPlace x u.allocBase row c) bs) e.id = some e := by
      rw [← he]
      simp only [eng?, wrScratch, heng]
    obtain ⟨en, bu, tms, cs, hframe⟩ := moved_frame (n := bs.length) hez (f := wroteBytes z x.group u.core bs.length (advanceAt p bs.length)) (fun _ => rfl) hng
    refine ⟨_, by rw [multicastBeat_beat p he hruns hk, beatStep_written hk htm hloc (beatDest_captured hu hgen) hread', ← hlen',
      deliverScratch_written (addr := rowPlace x u.allocBase row c) hfence (by rw [hlen]; exact hpens)], by rw [hframe]; rfl, _,
      moved_eng (f := wroteBytes z x.group u.core bs.length (advanceAt p bs.length)) hez (fun _ => rfl) hng, ?_⟩
    rw [← hlen]
    have hprog : atKey p (wroteBytes z x.group u.core bs.length (advanceAt p bs.length) (usedUp e)).prog = atKey p e.prog + bs.length :=
      atKey_addKey p bs.length e.prog
    unfold afterPiece
    split <;> exact ⟨hprog, rfl⟩
  · intro place n hn
    have hpiece : n = rowPiece e x 0 row c := by simp only [n, place, rowPiece, rowPlace, rowOff, Nat.zero_add]
    have hid : ∀ y, (addCode stStale n (advanceAt p n y)).id = y.id := fun y => by rw [addCode_only]; rfl
    have hk' : (addCode stStale n (advanceAt p n (usedUp e))).kind ≠ .gather := by rw [addCode_only]; exact hng
    obtain ⟨en, bu, tms, cs, hframe⟩ := moved_frame (n := 0) he (f := fun y => addCode stStale n (advanceAt p n y)) hid hk'
    refine ⟨_, by rw [multicastBeat_beat p he hruns hk, beatStep_stale hk htm hloc (beatDest_stale hno), ← hpiece], by rw [hframe], _,
      moved_eng he hid hk', ?_⟩
    have hcode := addCode_counts stStale hn (advanceAt p n (usedUp e))
    have hprog : atKey p (addCode stStale n (advanceAt p n (usedUp e))).prog = atKey p e.prog + n := by rw [addCode_only]; exact atKey_addKey p n e.prog
    have hwritten : (addCode stStale n (advanceAt p n (usedUp e))).written = e.written := by rw [addCode_only]; rfl
    unfold afterPiece
    split <;> exact ⟨hprog, hwritten, hcode⟩

end Sys2Proof.Proofs
end

section
/-! PROOF. The start of an engine operation, its status word, and the pushes of a gather (R166, R380, R381, R383, R393, R397). -/

namespace Sys2Proof.Proofs

open Machine Claims Laws

/-! ### One change to the threads of a list -/

/-- A change to every thread of a list. -/
def modThreads (s : State) (ts : List Tid) (f : Thread → Thread) : State := ts.foldl (fun s t => modThread s t f) s

theorem modThreads_cons (s : State) (t : Tid) (ts : List Tid) (f : Thread → Thread) : modThreads s (t :: ts) f = modThreads (modThread s t f) ts f := rfl

/-- From `a` to `b` nothing but the teams differs. -/
def TeamsFrom (a b : State) : Prop := b = { a with teams := b.teams }

theorem TeamsFrom.trans {a b c : State} (h : TeamsFrom a b) (k : TeamsFrom b c) : TeamsFrom a c := by
  unfold TeamsFrom at *
  rw [k, h]

theorem modThread_teamsFrom (s : State) (t : Tid) (f : Thread → Thread) : TeamsFrom s (modThread s t f) := rfl

theorem modThreads_only (f : Thread → Thread) (ts : List Tid) (s : State) : TeamsFrom s (modThreads s ts f) := by
  induction ts generalizing s with
  | nil => rfl
  | cons t ts ih => exact (modThread_teamsFrom s t f).trans (ih _)

theorem thread_modThreads_other (f : Thread → Thread) {u : Tid} {ts : List Tid} (s : State) (h : u ∉ ts) : thread? (modThreads s ts f) u = thread? s u := by
  induction ts generalizing s with
  | nil => rfl
  | cons t ts ih =>
    simp only [List.mem_cons, not_or] at h
    rw [modThreads_cons, ih _ h.2, thread_modThread, if_neg h.1]

theorem thread_modThreads (f : Thread → Thread) {u : Tid} {ts : List Tid} (s : State) (hn : ts.Nodup) (h : u ∈ ts) :
    thread? (modThreads s ts f) u = (thread? s u).map f := by
  induction ts generalizing s with
  | nil => cases h
  | cons t ts ih =>
    obtain ⟨ht, hn⟩ := List.nodup_cons.mp hn
    rw [modThreads_cons]
    rcases List.mem_cons.mp h with rfl | h
    · rw [thread_modThreads_other f _ ht, thread_modThread, if_pos rfl]
    · have hne : u ≠ t := fun e => ht (e ▸ h)
      rw [ih _ hn h, thread_modThread, if_neg hne]

/-- A change that twice made is once made, over a list that may name a thread again. -/
theorem thread_modThreads_idem {f : Thread → Thread} (hf : ∀ th, f (f th) = f th) {u : Tid} {ts : List Tid} (s : State) {th : Thread} (h : u ∈ ts)
    (hth : thread? s u = some th) : thread? (modThreads s ts f) u = some (f th) := by
  induction ts generalizing s th with
  | nil => cases h
  | cons t ts ih =>
    rw [modThreads_cons]
    by_cases hut : u = t
    · subst hut
      have hnow := thread_modThread_same hth f
      by_cases hin : u ∈ ts
      · rw [ih _ hin hnow, hf]
      · rw [thread_modThreads_other f _ hin, hnow]
    · exact ih _ ((List.mem_cons.mp h).resolve_left hut) (by rw [thread_modThread, if_neg hut]; exact hth)

/-! ### The status word (R166, R380) -/

/-- A thread that has read a status word. -/
def readStatus (tok rd : Nat) (w : Word) (th : Thread) : Thread :=
  putReg { th with pend := th.pend.filter fun p => p.tok ≠ tok } (.v rd) (BitVec.setWidth 80 w)

theorem deliverStatus_eq (s : State) (ts : List Tid) (tok rd : Nat) (w : Word) : deliverStatus s ts tok rd w = modThreads s ts (readStatus tok rd w) := rfl

theorem exec_engineStatus (op : Nat) (s : State) : exec (.engineStatus op) s = execEngineStatus op s := rfl

/-- Threads that have read the status word of an operation whose locks are gone. -/
def unlocked (s : State) (e : EngOp) : State := { s with locks := s.locks.filter fun k => k.op ≠ some e.id }
def statusRead (s : State) (e : EngOp) : State :=
  modThreads (unlocked s e) e.tids (readStatus e.id e.rd (opStatus (penCodes (unlocked s e) (penUpdatesOf s e) e)))

theorem engineStatus_ready {s : State} {e : EngOp} (he : eng? s e.id = some e) (hr : statusReady s e = true) :
    exec (.engineStatus e.id) s = .next (if (penUpdatesOf s e).isEmpty then { statusRead s e with engines := (statusRead s e).engines.filter fun x => x.id ≠ e.id }
      else modEng { statusRead s e with penUpdates := (statusRead s e).penUpdates ++ penUpdatesOf s e } e.id fun x => { x with delivered := true }) := by
  rw [exec_engineStatus, execEngineStatus, he]
  simp only [hr, Bool.not_true, Bool.false_eq_true, if_false, deliverStatus_eq]
  rfl

theorem statusRead_only (s : State) (e : EngOp) : TeamsFrom (unlocked s e) (statusRead s e) := modThreads_only _ _ _

theorem statusRead_thread {s : State} {e : EngOp} (hn : e.tids.Nodup) {t : Tid} (ht : t ∈ e.tids) {th : Thread} (hth : thread? s t = some th) :
    thread? (statusRead s e) t = some (readStatus e.id e.rd (opStatus (penCodes (unlocked s e) (penUpdatesOf s e) e)) th) := by
  rw [statusRead, thread_modThreads _ _ hn ht]
  exact congrArg (Option.map _) hth

theorem statusDelivered : StatusDelivered := by
  intro s e he hr hn
  have honly := statusRead_only s e
  have hstep := engineStatus_ready he hr
  have hread : ∀ t ∈ e.tids, ∀ th, thread? s t = some th → ∃ w, thread? (statusRead s e) t = some (readStatus e.id e.rd w th) ∧
      (penUpdatesOf s e = [] → w = opStatus e) := fun t ht th hth =>
    ⟨_, statusRead_thread hn ht hth, fun h0 => by rw [h0]; rfl⟩
  by_cases h0 : penUpdatesOf s e = []
  · rw [if_pos (by rw [h0]; rfl)] at hstep
    exact ⟨_, hstep, by rw [honly]; rfl, by rw [honly, h0, List.append_nil]; rfl, hread, fun _ => eng_removed _ _, fun h => absurd h0 h⟩
  · rw [if_neg (by simpa using h0)] at hstep
    refine ⟨_, hstep, by rw [honly]; rfl, by rw [honly]; rfl, hread, fun h => absurd h h0, fun _ => eng_modEng ?_ _ fun _ => rfl⟩
    rw [honly]
    exact he

/-! ### Starts (R381, R383) -/

theorem exec_engineStart (op : Nat) (s : State) : exec (.engineStart op) s = execEngineStart op s := rfl

theorem engineStart_tried {s : State} {e : EngOp} (he : eng? s e.id = some e) (hs : e.started = false) (hrun : stopped s e = false) (hfree : startFree s e = true) :
    exec (.engineStart e.id) s = .next (startOp s e) := by
  rw [exec_engineStart, execEngineStart]
  simp [he, hs, hrun, hfree]

/-- A thread whose queue an operation's start has left. -/
def leftQueue (id : Nat) (th : Thread) : Thread := { th with queue := th.queue.filter fun a => a.op ≠ .engine id }

theorem leaveQueues_eq (s : State) (e : EngOp) : leaveQueues s e = modThreads s e.tids (leftQueue e.id) := rfl

theorem leftQueue_idem (id : Nat) (th : Thread) : leftQueue id (leftQueue id th) = leftQueue id th := by simp [leftQueue, List.filter_filter]

/-- A start that all locks and engines allow. -/
def startBegun (s : State) (e : EngOp) (l : List RangeLock) : State :=
  leaveQueues { s with locks := s.locks ++ l, bulk := if e.kind == .bulk then s.bulk ++ [e.id] else s.bulk } e

theorem startBegun_only (s : State) (e : EngOp) (l : List RangeLock) :
    TeamsFrom { s with locks := s.locks ++ l, bulk := if e.kind == .bulk then s.bulk ++ [e.id] else s.bulk } (startBegun s e l) := modThreads_only _ _ _

theorem startBegun_keeps (s : State) (e : EngOp) (l : List RangeLock) : (startBegun s e l).engines = s.engines ∧ (startBegun s e l).nextId = s.nextId ∧
    (startBegun s e l).locks = s.locks ++ l ∧ (startBegun s e l).bulk = if e.kind = .bulk then s.bulk ++ [e.id] else s.bulk := by
  have h := startBegun_only s e l
  refine ⟨(congrArg State.engines h :), (congrArg State.nextId h :), (congrArg State.locks h :), Eq.trans (congrArg State.bulk h :) ?_⟩
  by_cases hb : e.kind = .bulk <;> simp [hb]

theorem mem_cores {l : List RangeLock} {c : Nat} : c ∈ dedup (l.map RangeLock.core) ↔ ∃ k ∈ l, k.core = c := by
  rw [mem_dedup, List.mem_map]

theorem startOp_starts {s : State} {e : EngOp} {tm : Team} (htm : team? s e.team = some tm) {l : List RangeLock} (hl : mergeLocks (opRanges s e tm) = l)
    (hroom : ∀ k ∈ l, heldLocks s k.core + needLocks l k.core ≤ 64 ∧ needLocks l k.core + teamLocks s e.team k.core ≤ 64)
    (hunit : e.kind ≠ .bulk → (s.engines.filter fun x => x.unit == e.unit && x.started && !x.delivered).length < 4) :
    ∃ g, startOp s e = modEng { startBegun s e l with nextId := (startBegun s e l).nextId + 1 } e.id fun x =>
      { x with started := true, order := (startBegun s e l).nextId, gens := g, ended := x.total == 0 } := by
  have hown : (dedup (l.map RangeLock.core)).find? (fun c => 64 - teamLocks s e.team c < needLocks l c) = none := by
    refine List.find?_eq_none.mpr fun c hc => ?_
    obtain ⟨k, hk, rfl⟩ := mem_cores.mp hc
    have := hroom k hk
    simp only [decide_eq_true_eq]
    omega
  have hheld : (dedup (l.map RangeLock.core)).any (fun c => 64 < heldLocks s c + needLocks l c) = false := by
    refine List.any_eq_false.mpr fun c hc => ?_
    obtain ⟨k, hk, rfl⟩ := mem_cores.mp hc
    have := hroom k hk
    simp only [decide_eq_true_eq]
    omega
  have hfour : (e.kind ≠ .bulk && decide (4 ≤ (s.engines.filter fun x => x.unit == e.unit && x.started && !x.delivered).length)) = false := by
    by_cases hk : e.kind = .bulk
    · simp [hk]
    · have := hunit hk
      simp only [Bool.and_eq_false_imp, decide_eq_false_iff_not]
      omega
  unfold startOp
  rw [htm]
  dsimp only
  rw [hl, hown]
  dsimp only
  rw [hheld, Bool.false_or, hfour]
  exact ⟨_, rfl⟩

theorem startOp_refused {s : State} {e : EngOp} {tm : Team} (htm : team? s e.team = some tm) {l : List RangeLock} (hl : mergeLocks (opRanges s e tm) = l)
    {k : RangeLock} (hk : k ∈ l) (hmany : 64 < needLocks l k.core + teamLocks s e.team k.core) : ∃ n, startOp s e = refuseOp s e n := by
  obtain ⟨c, hc⟩ : ∃ c, (dedup (l.map RangeLock.core)).find? (fun c => 64 - teamLocks s e.team c < needLocks l c) = some c := by
    refine Option.isSome_iff_exists.mp (List.find?_isSome.mpr ⟨k.core, mem_cores.mpr ⟨k, hk, rfl⟩, ?_⟩)
    have hpos : 0 < needLocks l k.core := List.length_pos_of_mem (List.mem_filter.mpr ⟨hk, by simp⟩)
    simp only [decide_eq_true_eq]
    omega
  unfold startOp
  rw [htm]
  dsimp only
  rw [hl, hc]
  exact ⟨_, rfl⟩

/-- A thread that owes the trap of a refused operation. -/
def owesRefusal (id need : Nat) (th : Thread) : Thread :=
  { th with pend := th.pend.filter (fun p => p.tok ≠ id), owed := some ⟨.rangeConflict, BitVec.ofNat 32 need, 0⟩ }

theorem refuseOp_eq {s : State} {e : EngOp} {t0 : Tid} (ht : minBy (fun (t : Tid) => t.group * 32 + t.lane) e.tids = some t0) (n : Nat) :
    refuseOp s e n = modThread (modThreads (modThreads { s with engines := s.engines.filter fun x => x.id ≠ e.id } e.tids (leftQueue e.id))
      (e.tids.filter fun t => t ≠ t0) (readStatus e.id e.rd (statusWord stRefused false 0))) t0 (owesRefusal e.id n) := by
  unfold refuseOp
  rw [ht]
  rfl

theorem refuseOp_frame {s : State} {e : EngOp} {t0 : Tid} (ht : minBy (fun (t : Tid) => t.group * 32 + t.lane) e.tids = some t0) (n : Nat) :
    TeamsFrom { s with engines := s.engines.filter fun x => x.id ≠ e.id } (refuseOp s e n) := by
  rw [refuseOp_eq ht]
  exact ((modThreads_only _ _ _).trans (modThreads_only _ _ _)).trans (modThread_teamsFrom _ _ _)

theorem refuseOp_thread {s : State} {e : EngOp} {t0 : Tid} {th0 : Thread} (ht : minBy (fun (t : Tid) => t.group * 32 + t.lane) e.tids = some t0)
    (hth : thread? s t0 = some th0) (n : Nat) : thread? (refuseOp s e n) t0 = some (owesRefusal e.id n (leftQueue e.id th0)) := by
  have hmem : t0 ∈ e.tids := minBy_mem _ _ _ ht
  have hnot : t0 ∉ e.tids.filter fun t => t ≠ t0 := by simp
  rw [refuseOp_eq ht]
  refine thread_modThread_same ?_ _
  rw [thread_modThreads_other _ _ hnot]
  exact thread_modThreads_idem (leftQueue_idem e.id) _ hmem hth

theorem operationStarts : OperationStarts := by
  intro s e tm he hs hrun hfree htm l
  have hstep := engineStart_tried he hs hrun hfree
  refine ⟨fun hroom hunit => ?_, fun k t0 th0 hk hmany ht0 hn hth0 => ?_⟩
  · obtain ⟨g, hstart⟩ := startOp_starts (l := l) htm rfl hroom hunit
    obtain ⟨hengines, hnext, hlocks, hbulk⟩ := startBegun_keeps s e l
    have he' : eng? { startBegun s e l with nextId := (startBegun s e l).nextId + 1 } e.id = some e := by
      rw [← he]
      simp only [eng?, hengines]
    refine ⟨_, hstep.trans (congrArg _ hstart), hlocks, ⟨g, ?_⟩, hbulk, congrArg (· + 1) hnext, fun t ht th hth => ?_⟩
    · rw [eng_modEng he' (fun x => { x with started := true, order := (startBegun s e l).nextId, gens := g, ended := x.total == 0 }) fun _ => rfl, hnext]
    · exact thread_modThreads_idem (leftQueue_idem e.id) _ ht hth
  · obtain ⟨n, hstart⟩ := startOp_refused htm rfl hk hmany
    have hframe := refuseOp_frame (s := s) ht0 n
    refine ⟨_, by rw [hstep, hstart], by rw [hframe]; exact eng_removed _ _, by rw [hframe], _, _, refuseOp_thread ht0 hth0 n, rfl, ?_⟩
    simp [owesRefusal]

end Sys2Proof.Proofs
end

section
/-! PROOF. The pushes of a gather into its trough, and the closing of it (R393, R397). -/

namespace Sys2Proof.Proofs

open Machine Claims Laws

/-! ### Changes to a team outside its groups -/

theorem group_modTeam {s : State} {id : Nat} {f : Team → Team} (hf : ∀ t, (f t).id = t.id ∧ (f t).groups = t.groups) (t g : Nat) :
    group? (modTeam s id f) t g = group? s t g := by
  simp only [group?]
  rw [team_modTeam _ _ _ _ fun t => (hf t).1]
  by_cases h : t = id
  · rw [if_pos h]
    cases team? s t with
    | none => rfl
    | some tm => simp [(hf tm).2]
  · rw [if_neg h]

theorem thread_modTeam {s : State} {id : Nat} {f : Team → Team} (hf : ∀ t, (f t).id = t.id ∧ (f t).groups = t.groups) (t : Tid) :
    thread? (modTeam s id f) t = thread? s t := by
  simp only [thread?, group_modTeam hf]

theorem team_modTeam_same {s : State} {id : Nat} {tm : Team} (h : team? s id = some tm) (f : Team → Team) (hf : ∀ t, (f t).id = t.id) :
    team? (modTeam s id f) id = some (f tm) := by
  rw [team_modTeam _ _ _ _ hf, if_pos rfl, h]
  rfl

/-- Putting a value where one stands gives it back. -/
theorem getD_updAt {α : Type} {l : List α} {i : Nat} (h : i < l.length) (x d : α) : (updAt i (fun _ => x) l).getD i d = x := by
  rw [List.getD_eq_getElem?_getD, updAt_get, if_pos rfl, List.getElem?_eq_getElem h]
  rfl

/-! ### Bindings -/

/-- A binding with one more slot filled. -/
def oneMore (x : BitVec 64) : BitVec 64 := qCounts x (qClosed x) (qFilled x + 1) (qHead x)
/-- A binding that is closed. -/
def closedBinding (x : BitVec 64) : BitVec 64 := qCounts x true (qFilled x) (qHead x)

/-- A bound queue register is one of the team's. -/
theorem bound_lt {tm : Team} {q : Nat} (h : qBound (qOf tm q) = true) : q < tm.q.length := by
  by_contra hge
  have h0 : qOf tm q = 0 := by
    rw [qOf, List.getD_eq_getElem?_getD, List.getElem?_eq_none (by omega)]
    rfl
  rw [h0] at h
  exact absurd h (by decide)

theorem troughEffect_closes {s : State} {team : Nat} {tm : Team} (h : team? s team = some tm) (q : Nat) :
    troughEffect s team 2 q = setQ s team q (closedBinding (qOf tm q)) := by
  unfold troughEffect
  rw [h]
  rfl

/-- No thread waits for a trough: nothing settles. -/
theorem settleTrough_idle {s : State} {q : Nat} (h : ∀ t th op, thread? s t = some th → th.wait ≠ some (.trough op q)) (team : Nat) : settleTrough s team q = s := by
  unfold settleTrough
  split
  · rfl
  · split
    · rfl
    · next tm _ =>
      suffices hfold : ∀ l : List Tid, l.foldl (fun s t => match (thread? s t).bind (·.wait) with
          | some (.trough op k) => if k == q then modThread (troughEffect s team op q) t finishWait else s
          | _ => s) s = s from hfold _
      intro l
      induction l with
      | nil => rfl
      | cons t l ih =>
        rw [List.foldl_cons]
        split
        · next op k hk =>
          obtain ⟨th, hth, hw⟩ := Option.bind_eq_some_iff.mp hk
          have hne : k ≠ q := fun e => h t th op hth (e ▸ hw)
          rw [if_neg (by simpa using hne)]
          exact ih
        · exact ih

/-! ### The end of a gather (R397) -/

/-- The end of a gather that has pushed its last element: its trough is closed where gath.close named it, and threads that wait for it go on. -/
theorem endOp_gather {s : State} {id : Nat} {e : EngOp} (h : eng? s id = some e) (hk : e.kind = .gather) {g : Nat} {d : List Word} (hd : e.descs = [(g, d)]) :
    endOp s id 0 0 =
      let r := modEng { s with bulk := s.bulk.filter fun x => x ≠ id } id fun x => { x with ended := true, paused := none }
      settleTrough (if e.closes then troughEffect r e.team 2 (gthQ d) else r) e.team (gthQ d) := by
  unfold endOp
  rw [h]
  simp [hk, hd, gthQ, addCode_zero]

/-- Elements are left to a gather while more than the next stand in its list. -/
theorem gather_left {e : EngOp} (hk : e.kind = .gather) : (e.left == 0) = decide (e.total ≤ e.done) := by
  have hpos : 0 < 2 ^ Machine.fld (dscW ((e.descs.map Prod.snd).headD []) 0) 9 2 := Nat.two_pow_pos _
  simp only [EngOp.left, hk]
  rw [Bool.eq_iff_iff, beq_iff_eq, decide_eq_true_eq, Nat.mul_eq_zero]
  omega

/-! ### A push (R393) -/

theorem exec_gatherPush (op : Nat) (hs hs' : HostStores) (s : State) : exec (.gatherPush op hs hs') s = execGatherPush op hs hs' s := rfl

theorem gatherPush_step {s0 : State} {hs : HostStores} (hs' : HostStores) {e : EngOp} (he : eng? (hostStores s0 hs) e.id = some e)
    (hr : runsNow (hostStores s0 hs) e = true) (hk : e.kind = .gather) : exec (.gatherPush e.id hs hs') s0 = .next (gatherStep (hostStores s0 hs) e hs') := by
  rw [exec_gatherPush, execGatherPush]
  simp [he, hr, hk]

/-- What a push counts in its operation. -/
def pushCounts (time size : Nat) (y : EngOp) : EngOp := { y with written := y.written + size, latest := max y.latest time, done := y.done + 1 }

/-- The address of a gather's next index in the scratchpad. -/
def indexAt (e : EngOp) (tm : Team) (d : List Word) : Nat := tm.allocBase + dscW d 1 + 4 * e.done

theorem gatherStep_pushes {s z : State} {hs' : HostStores} {e : EngOp} {tm : Team} {g : Nat} {d : List Word} {bs : List Byte} (htm : team? s e.team = some tm)
    (hd : e.descs = [(g, d)]) (hlocal : gthGlobal d = false) (hbound : qBound (qOf tm (gthQ d)) = true)
    (hroom : qFilled (qOf tm (gthQ d)) < qSlots (qOf tm (gthQ d))) (hplain : tm.family = none) (hindex : fencedFrom s (e.pav s) tm.core (indexAt e tm d) = false)
    (hslot : fencedFrom z (e.pav z) tm.core (slotAt tm (qOf tm (gthQ d)) (qHead (qOf tm (gthQ d)) + qFilled (qOf tm (gthQ d)))) = false)
    (hread : engReads e (e.bases.getD (gthEbase d) 0).toNat (dscQ d 5 + leNat (rdScratch s tm.core (indexAt e tm d) 4) * dscW d 4) (gthSize d)
      (hostStores s hs') = (.ok bs, z)) :
    gatherStep s e hs' = moved (pushSlot z tm (gthQ d) bs) e (gthSize d) (pushCounts s.time (gthSize d)) := by
  have hi : gthIndex s e tm d = (.ok (leNat (rdScratch s tm.core (indexAt e tm d) 4)), s) := by
    unfold gthIndex
    simp only [hlocal, Bool.false_eq_true, if_false]
    rw [show tm.allocBase + dscW d 1 + 4 * e.done = indexAt e tm d from rfl, hindex]
    rfl
  unfold gatherStep
  simp only [htm, hd, hi, hbound, hplain, hread, hslot, Option.isSome_none, Bool.false_and, Bool.not_true, Bool.false_or, decide_eq_true_eq, Nat.not_le.mpr hroom,
    Bool.false_eq_true, if_false]
  rfl

/-- The slot's bytes of a push and the team's new binding, on bytes that no pen counts. -/
theorem pushSlot_noPens {s : State} {tm : Team} {q : Nat} {bs : List Byte} (hfit : bs.length ≤ qSlotBytes (qOf tm q))
    (hp : NoPens s tm.core (slotAt tm (qOf tm q) (qHead (qOf tm q) + qFilled (qOf tm q))) (qSlotBytes (qOf tm q))) :
    pushSlot s tm q bs = setQ (wrScratch s tm.core (slotAt tm (qOf tm q) (qHead (qOf tm q) + qFilled (qOf tm q)))
      (bs ++ List.replicate (qSlotBytes (qOf tm q) - bs.length) 0)) tm.id q (oneMore (qOf tm q)) := by
  unfold pushSlot
  dsimp only
  rw [bankWrite_noPens]
  · rfl
  · rw [List.length_append, List.length_replicate, Nat.add_sub_cancel' hfit]
    exact hp

/-- The trough of a gather after a push: one slot more is filled, and the last push of a gather that gath.close named closes it. -/
def pushedBinding (e : EngOp) (x : BitVec 64) : BitVec 64 := if e.closes = true ∧ e.total ≤ e.done + 1 then closedBinding (oneMore x) else oneMore x

theorem pushedBinding_last {e : EngOp} {x : BitVec 64} (h : e.closes = true) (hlast : e.total ≤ e.done + 1) : pushedBinding e x = closedBinding (oneMore x) :=
  if_pos ⟨h, hlast⟩

theorem pushedBinding_open {e : EngOp} {x : BitVec 64} (h : ¬ (e.closes = true ∧ e.total ≤ e.done + 1)) : pushedBinding e x = oneMore x := if_neg h

/-- A push of gather `e` into queue register `q` has filled a slot of a trough that no thread waits for. -/
structure SlotFilled (s : State) (e : EngOp) (tm : Team) (g : Nat) (d : List Word) (x : BitVec 64) : Prop where
  eng : eng? s e.id = some e
  kind : e.kind = .gather
  descs : e.descs = [(g, d)]
  team : team? s e.team = some { tm with q := updAt (gthQ d) (fun _ => oneMore x) tm.q }
  reg : gthQ d < tm.q.length
  idle : ∀ t th op, thread? s t = some th → th.wait ≠ some (.trough op (gthQ d))

/-- The state once such a push is counted. -/
def pushCounted (s : State) (e : EngOp) (d : List Word) (time : Nat) : State := pieceCounted s e (gthSize d) (pushCounts time (gthSize d))

theorem pushCounted_eng {s : State} {e : EngOp} {tm : Team} {g : Nat} {d : List Word} {x : BitVec 64} (h : SlotFilled s e tm g d x) (time : Nat) :
    eng? (pushCounted s e d time) e.id = some (pushCounts time (gthSize d) (usedUp e)) := eng_pieceCounted (gthSize d) h.eng fun _ => rfl

theorem pushCounted_team {s : State} {e : EngOp} {tm : Team} {g : Nat} {d : List Word} {x : BitVec 64} (h : SlotFilled s e tm g d x) (time : Nat) :
    ∃ cs, team? (pushCounted s e d time) e.team = some { tm with q := updAt (gthQ d) (fun _ => oneMore x) tm.q, counters := cs } :=
  ⟨_, team_modTeam_same (s := progress (modEng s e.id fun x => pushCounts time (gthSize d) (usedUp x)) e.ctx) h.team _ fun _ => rfl⟩

theorem pushCounted_idle {s : State} {e : EngOp} {tm : Team} {g : Nat} {d : List Word} {x : BitVec 64} (h : SlotFilled s e tm g d x) (time : Nat) :
    ∀ t th op, thread? (pushCounted s e d time) t = some th → th.wait ≠ some (.trough op (gthQ d)) := by
  intro t th op hth
  refine h.idle t th op (Eq.trans ?_ hth)
  exact (thread_modTeam (s := progress (modEng s e.id fun x => pushCounts time (gthSize d) (usedUp x)) e.ctx)
    (f := fun t => { t with counters := updAt 5 (· + gthSize d) t.counters }) (fun _ => ⟨rfl, rfl⟩) t).symm

/-- The state once such a push, the last of its gather, is counted and the gather has ended. -/
def pushEnded (s : State) (e : EngOp) (d : List Word) (time : Nat) : State :=
  modEng { pushCounted s e d time with bulk := (pushCounted s e d time).bulk.filter fun x => x ≠ e.id } e.id fun x => { x with ended := true, paused := none }

theorem moved_last {s : State} {e : EngOp} {tm : Team} {g : Nat} {d : List Word} {x : BitVec 64} (h : SlotFilled s e tm g d x) (time : Nat)
    (hlast : e.total ≤ e.done + 1) : moved s e (gthSize d) (pushCounts time (gthSize d)) =
      if e.closes = true then setQ (pushEnded s e d time) e.team (gthQ d) (closedBinding (oneMore x)) else pushEnded s e d time := by
  have hc := pushCounted_eng h time
  obtain ⟨cs, htm⟩ := pushCounted_team h time
  have hidle := pushCounted_idle h time
  have hleft : ((pushCounts time (gthSize d) (usedUp e)).left == 0) = true := by
    rw [gather_left (e := pushCounts time (gthSize d) (usedUp e)) h.kind]
    exact decide_eq_true hlast
  have hend : moved s e (gthSize d) (pushCounts time (gthSize d)) = endOp (pushCounted s e d time) e.id 0 0 := by
    rw [moved_counted (f := pushCounts time (gthSize d)) h.eng (fun _ => rfl), if_pos hleft]
    rfl
  rw [hend, endOp_gather hc h.kind h.descs]
  by_cases hcl : e.closes = true
  · have heffect : troughEffect (pushEnded s e d time) e.team 2 (gthQ d) = setQ (pushEnded s e d time) e.team (gthQ d) (closedBinding (oneMore x)) := by
      rw [troughEffect_closes (s := pushEnded s e d time) htm, qOf, getD_updAt h.reg]
    have hidle' : ∀ t th op, thread? (setQ (pushEnded s e d time) e.team (gthQ d) (closedBinding (oneMore x))) t = some th → th.wait ≠ some (.trough op (gthQ d)) := by
      intro t th op hth
      refine hidle t th op (Eq.trans ?_ hth)
      exact (thread_modTeam (s := pushEnded s e d time) (f := fun t => { t with q := updAt (gthQ d) (fun _ => closedBinding (oneMore x)) t.q }) (fun _ => ⟨rfl, rfl⟩) t).symm
    rw [if_pos hcl, ← settleTrough_idle hidle' e.team, ← heffect, ← if_pos (t := troughEffect _ _ _ _) (e := pushEnded s e d time) hcl]
    rfl
  · rw [if_neg hcl, ← settleTrough_idle (s := pushEnded s e d time) hidle e.team]
    have hcl' : (pushCounts time (gthSize d) (usedUp e)).closes = false := by simpa [pushCounts, usedUp] using hcl
    simp only [hcl']
    rfl

/-- A counted push: the binding of its trough, and the counts of its operation. -/
theorem moved_push {s : State} {e : EngOp} {tm : Team} {g : Nat} {d : List Word} {x : BitVec 64} (h : SlotFilled s e tm g d x) (time : Nat) {r : State}
    (hr : r = moved s e (gthSize d) (pushCounts time (gthSize d))) :
    r.scratch = s.scratch ∧ (∃ tm', team? r e.team = some tm' ∧ tm'.q = updAt (gthQ d) (fun _ => pushedBinding e x) tm.q) ∧
      ∃ e', eng? r e.id = some e' ∧ e'.done = e.done + 1 ∧ e'.written = e.written + gthSize d := by
  have hc := pushCounted_eng h time
  obtain ⟨cs, htm⟩ := pushCounted_team h time
  by_cases hlast : e.total ≤ e.done + 1
  · have hended : eng? (pushEnded s e d time) e.id = some { pushCounts time (gthSize d) (usedUp e) with ended := true, paused := none } :=
      eng_modEng (s := { pushCounted s e d time with bulk := (pushCounted s e d time).bulk.filter fun x => x ≠ e.id }) hc
        (fun x => { x with ended := true, paused := none }) fun _ => rfl
    rw [moved_last h time hlast] at hr
    by_cases hcl : e.closes = true
    · rw [if_pos hcl] at hr
      subst hr
      refine ⟨rfl, ⟨_, team_modTeam_same (s := pushEnded s e d time) htm (fun t => { t with q := updAt (gthQ d) (fun _ => closedBinding (oneMore x)) t.q }) fun _ => rfl, ?_⟩,
        _, hended, rfl, rfl⟩
      rw [pushedBinding_last hcl hlast]
      exact updAt_updAt _ _ _ _
    · rw [if_neg hcl] at hr
      subst hr
      exact ⟨rfl, ⟨_, htm, by rw [pushedBinding_open fun k => hcl k.1]⟩, _, hended, rfl, rfl⟩
  · have hleft : ¬ ((pushCounts time (gthSize d) (usedUp e)).left == 0) = true := by
      rw [gather_left (e := pushCounts time (gthSize d) (usedUp e)) h.kind]
      exact fun h => hlast (of_decide_eq_true h)
    rw [moved_counted (f := pushCounts time (gthSize d)) h.eng (fun _ => rfl), if_neg hleft] at hr
    subst hr
    exact ⟨rfl, ⟨_, htm, by rw [pushedBinding_open fun k => hlast k.2]⟩, _, hc, rfl, rfl⟩

theorem gatherPushes : GatherPushes := by
  intro s0 hs hs' s e tm g d bs z he hruns hk htm hd hlocal x i place hbound hroom hplain hindex hslot hread hlen hfit hteams heng hpens hwait
  have hid : tm.id = e.team := by simpa using List.find?_some htm
  have hpush := pushSlot_noPens (q := gthQ d) (bs := bs) (s := z) (tm := tm) (by rw [hlen]; exact hfit) hpens
  have hfilled : SlotFilled (pushSlot z tm (gthQ d) bs) e tm g d x := by
    rw [hpush]
    refine ⟨?_, hk, hd, ?_, bound_lt hbound, fun t th op hth => hwait t th op (Eq.trans ?_ hth)⟩
    · rw [← he]
      simp only [eng?, setQ, modTeam, wrScratch, heng]
    · rw [← hid] at htm ⊢
      refine team_modTeam_same (Eq.trans ?_ htm) (fun t => { t with q := updAt (gthQ d) (fun _ => oneMore (qOf tm (gthQ d))) t.q }) fun _ => rfl
      simp only [team?, wrScratch, hteams]
    · rw [setQ, thread_modTeam (f := fun t => { t with q := updAt (gthQ d) (fun _ => oneMore (qOf tm (gthQ d))) t.q }) fun _ => ⟨rfl, rfl⟩]
      simp only [thread?, group?, team?, wrScratch, hteams]
  obtain ⟨hscratch, hteam, heng'⟩ := moved_push hfilled s.time rfl
  refine ⟨_, by rw [gatherPush_step hs' he hruns hk, gatherStep_pushes htm hd hlocal hbound hroom hplain hindex hslot hread], ?_, by rw [hid]; exact hteam, heng'⟩
  rw [hscratch, hpush, ← hlen]
  rfl

end Sys2Proof.Proofs
end

section
/-! PROOF. The issue of engine operations by the groups of a flock (R383, R391, R393). -/

namespace Sys2Proof.Proofs

open Machine Claims Laws

/-! ### The leaders of groups -/

theorem dedup_nodup {α : Type} [DecidableEq α] : ∀ l : List α, (dedup l).Nodup
  | [] => List.nodup_nil
  | a :: l => List.nodup_cons.mpr ⟨by simp, (dedup_nodup l).filter _⟩

/-- The least elements of the classes of a list, one for each key that occurs, have these keys. -/
theorem map_minBy_filter {α : Type} (key m : α → Nat) (l : List α) : ∀ gs : List Nat, (∀ g ∈ gs, ∃ a ∈ l, key a = g) →
    (gs.filterMap fun g => minBy m (l.filter fun a => key a == g)).map key = gs
  | [], _ => rfl
  | g :: gs, h => by
    obtain ⟨a, ha, hg⟩ := h g List.mem_cons_self
    have hne : l.filter (fun a => key a == g) ≠ [] := List.ne_nil_of_mem (List.mem_filter.mpr ⟨ha, by simpa using hg⟩)
    obtain ⟨b, hb⟩ := minBy_some m hne
    have hkey : key b = g := by simpa using (List.mem_filter.mp (minBy_mem _ _ _ hb)).2
    have ih := map_minBy_filter key m l gs fun k hk => h k (List.mem_cons_of_mem _ hk)
    simp only [List.filterMap_cons, hb, List.map_cons, hkey, ih]

theorem groupLeaders_groups (ts : List Tid) : (groupLeaders ts).map (fun t => t.group) = dedup (ts.map fun t => t.group) :=
  map_minBy_filter (fun t : Tid => t.group) (fun t => t.lane) ts _ fun g hg => by simpa using (mem_dedup _ _).mp hg

theorem groupLeaders_mem {ts : List Tid} {t : Tid} (h : t ∈ groupLeaders ts) : t ∈ ts := by
  obtain ⟨g, -, hg⟩ := List.mem_filterMap.mp h
  exact (List.mem_filter.mp (minBy_mem _ _ _ hg)).1

/-! ### What the checks of an engine form see of a team (R386, R391, R393) -/

/-- A team without what its threads hold and without its rendezvous. -/
def teamPlan (t : Team) : Team := { teamShape t with rdv := [] }

/-- The checks of lane `t` see the same in `b` as in `a`. -/
structure SameChecks (a b : State) (t : Tid) : Prop where
  thread : thread? b t = thread? a t
  teams : b.teams.map teamPlan = a.teams.map teamPlan
  sets : b.sets = a.sets
  locks : b.locks = a.locks
  fresh : b.fresh = a.fresh

theorem sameTeams_plan {a b : State} (h : SameTeams a b) : b.teams.map teamPlan = a.teams.map teamPlan := by
  have hplan : ∀ l : List Team, l.map teamPlan = (l.map teamShape).map fun t => { t with rdv := [] } := fun l => by rw [List.map_map]; rfl
  rw [hplan, hplan, h]

section
variable {a b : State} {t : Tid} (h : SameChecks a b t)
include h

theorem sameChecks_openTrap (c : Cause) : openTrap b t c = openTrap a t c := by simp only [openTrap, openWord, h.fresh]

theorem sameChecks_slotBaseTrap (tm : Team) (base off : Nat) : slotBaseTrap b t tm base off = slotBaseTrap a t tm base off := by
  simp only [slotBaseTrap, h.thread]

theorem sameChecks_spanTrap (tm : Team) (dest : Bool) (r : Nat × Nat) : spanTrap b t tm dest r = spanTrap a t tm dest r := by
  unfold spanTrap meetsSet
  rw [h.sets, sameChecks_openTrap h]

theorem sameChecks_meetsShadow (l : List RangeLock) : meetsShadow b l = meetsShadow a l := by simp only [meetsShadow, h.locks]

theorem sameChecks_bulkTrap {tm tm' : Team} (hp : teamPlan tm' = teamPlan tm) (d : List Word) : bulkTrap b t tm' d = bulkTrap a t tm d := by
  have hplan : ∀ tm : Team, bulkTrap a t tm d = bulkTrap a t (teamPlan tm) d := fun _ => rfl
  rw [hplan tm, ← hp, ← hplan]
  simp only [bulkTrap, sameChecks_slotBaseTrap h, sameChecks_spanTrap h]

theorem sameChecks_gathTrap {tm tm' : Team} (hp : teamPlan tm' = teamPlan tm) (d : List Word) : gathTrap b t tm' d = gathTrap a t tm d := by
  have hplan : ∀ tm : Team, gathTrap a t tm d = gathTrap a t (teamPlan tm) d := fun _ => rfl
  rw [hplan tm, ← hp, ← hplan]
  simp only [gathTrap, sameChecks_slotBaseTrap h, sameChecks_spanTrap h, sameChecks_meetsShadow h, sameChecks_openTrap h]

end

/-! ### An issued operation (R383) -/

/-- An operation is added, and every thread of it has its status register pending. -/
theorem addEngine_eq (s : State) (op : EngOp) :
    addEngine s op = modThreads { s with engines := s.engines ++ [op], nextId := s.nextId + 1 } op.tids fun th => withOp th op := rfl

theorem addEngine_only (s : State) (op : EngOp) : TeamsFrom { s with engines := s.engines ++ [op], nextId := s.nextId + 1 } (addEngine s op) :=
  modThreads_only _ _ _

theorem modThreads_sameTeams (f : Thread → Thread) (ts : List Tid) (s : State) : SameTeams s (modThreads s ts f) := by
  induction ts generalizing s with
  | nil => rfl
  | cons t ts ih => exact sameTeams_trans (modThread_sameTeams s t f) (ih _)

theorem addEngine_sameTeams (s : State) (op : EngOp) : SameTeams s (addEngine s op) :=
  modThreads_sameTeams (fun th => withOp th op) op.tids { s with engines := s.engines ++ [op], nextId := s.nextId + 1 }

theorem addEngine_thread {s : State} {op : EngOp} (hn : op.tids.Nodup) {t : Tid} (ht : t ∈ op.tids) {th : Thread} (hth : thread? s t = some th) :
    thread? (addEngine s op) t = some (withOp th op) := by
  rw [addEngine_eq, thread_modThreads _ _ hn ht]
  exact congrArg (Option.map _) hth

theorem addEngine_other (s : State) {op : EngOp} {t : Tid} (ht : t ∉ op.tids) : thread? (addEngine s op) t = thread? s t := by
  rw [addEngine_eq, thread_modThreads_other _ _ ht]
  rfl

theorem newOp_issued (s : State) (k : EngKind) (tm : Team) (ts : List Tid) (d : Nat) (descs : List (Nat × List Word)) (pc : Word) :
    Issued (newOp s k tm ts d descs pc) k tm d pc := ⟨rfl, rfl, rfl, rfl, rfl, rfl, rfl, rfl, rfl, rfl, rfl, rfl, rfl, rfl⟩

theorem issued_shape {op : EngOp} {k : EngKind} {tm tm' : Team} {d : Nat} {pc : Word} (hs : teamShape tm' = teamShape tm) (h : Issued op k tm' d pc) :
    Issued op k tm d pc := by
  obtain ⟨h1, h2, h3, h4, h5, h6, h7, h8, h9⟩ := h
  exact ⟨h1, h2.trans (congrArg Team.id hs :), h3.trans (congrArg Team.ctx hs :), h4.trans (congrArg Team.core hs :), h5.trans (congrArg Team.view hs :), h6,
    h7.trans (congrArg Team.b hs :), h8, h9⟩

/-! ### One operation for each group -/

/-- The operation of a group whose leader is `t`. -/
def GroupOp (x : State) (ts : List Tid) (word : Word) (fid : Nat) (k : EngKind) (d a : Nat) (t : Tid) (op : EngOp) : Prop :=
  (∀ l, lane? x t fid word = some l → Issued op k l.tm d l.th.pc.off ∧ op.descs = [(t.group, descOf l.g a)]) ∧ op.tids = ts.filter fun y => y.group == t.group

/-- The groups whose leaders are `ds` have issued the operations `ops`. -/
structure GroupsDone (x b : State) (ts : List Tid) (word : Word) (fid : Nat) (k : EngKind) (d a : Nat) (ds : List Tid) (ops : List EngOp) : Prop where
  engines : b.engines = x.engines ++ ops
  each : List.Forall₂ (GroupOp x ts word fid k d a) ds ops
  taken : ∀ t ∈ ts, t.group ∈ ds.map (fun t => t.group) → ∀ th, thread? x t = some th → ∃ op ∈ ops, t ∈ op.tids ∧ thread? b t = some (withOp th op)
  others : ∀ t, (t ∈ ts → t.group ∉ ds.map fun t => t.group) → thread? b t = thread? x t
  same : SameTeams x b
  frame : b = { x with teams := b.teams, engines := b.engines, nextId := b.nextId }

section
variable {x b : State} {ts : List Tid} {word : Word} {fid : Nat} {k : EngKind} {d a : Nat} {ds : List Tid} {ops : List EngOp}

theorem GroupsDone.start (x : State) (ts : List Tid) (word : Word) (fid : Nat) (k : EngKind) (d a : Nat) : GroupsDone x x ts word fid k d a [] [] :=
  ⟨by simp, .nil, by simp, fun _ _ => rfl, rfl, rfl⟩

theorem GroupsDone.checks (h : GroupsDone x b ts word fid k d a ds ops) {t : Tid} (ht : t.group ∉ ds.map fun t => t.group) : SameChecks x b t := by
  have hth := h.others t fun _ => ht
  have hteams := sameTeams_plan h.same
  have hframe := h.frame
  generalize b.engines = en at hframe
  generalize b.nextId = ni at hframe
  exact ⟨hth, hteams, by rw [hframe], by rw [hframe], by rw [hframe]⟩

/-- One group more issues its operation. -/
theorem GroupsDone.step (h : GroupsDone x b ts word fid k d a ds ops) (hn : ts.Nodup) {t : Tid} (ht : t.group ∉ ds.map fun t => t.group) {op : EngOp}
    (hop : GroupOp x ts word fid k d a t op) : GroupsDone x (addEngine b op) ts word fid k d a (ds ++ [t]) (ops ++ [op]) := by
  have honly := addEngine_only b op
  have hnod : op.tids.Nodup := by rw [hop.2]; exact hn.filter _
  have hmem : ∀ u, u ∈ op.tids ↔ u ∈ ts ∧ u.group = t.group := fun u => by rw [hop.2]; simp
  have hgroups : ∀ u : Tid, u.group ∈ (ds ++ [t]).map (fun t => t.group) ↔ u.group ∈ ds.map (fun t => t.group) ∨ u.group = t.group := fun u => by simp
  refine ⟨?_, List.rel_append h.each (.cons hop .nil), fun u hu hug th hth => ?_, fun u hu => ?_, sameTeams_trans h.same (addEngine_sameTeams b op), ?_⟩
  · rw [honly, ← List.append_assoc, ← h.engines]
  · rcases (hgroups u).mp hug with hug | hug
    · obtain ⟨o, ho, huo, hthu⟩ := h.taken u hu hug th hth
      have hout : u ∉ op.tids := fun hin => ht (((hmem u).mp hin).2 ▸ hug)
      exact ⟨o, List.mem_append_left _ ho, huo, (addEngine_other b hout).trans hthu⟩
    · have hin : u ∈ op.tids := (hmem u).mpr ⟨hu, hug⟩
      have hsame : thread? b u = some th := (h.others u fun _ => hug ▸ ht).trans hth
      exact ⟨op, List.mem_append_right _ (List.mem_singleton.mpr rfl), hin, addEngine_thread hnod hin hsame⟩
  · have hout : u ∉ op.tids := fun hin => hu ((hmem u).mp hin).1 ((hgroups u).mpr (.inr ((hmem u).mp hin).2))
    rw [addEngine_other b hout]
    exact h.others u fun hin hg => hu hin ((hgroups u).mpr (.inl hg))
  · have hframe := h.frame
    generalize addEngine b op = c at honly ⊢
    unfold TeamsFrom at honly
    generalize c.teams = tms at honly ⊢
    subst honly
    generalize b.engines = en at hframe ⊢
    generalize b.nextId = ni at hframe ⊢
    rw [hframe]

/-- A fold over leaders of distinct groups, each of which issues its group's operation. -/
theorem GroupsDone.fold {g : State → Tid → State} (hn : ts.Nodup)
    (hg : ∀ b t ds ops, GroupsDone x b ts word fid k d a ds ops → t.group ∉ ds.map (fun t => t.group) → t ∈ groupLeaders ts →
      ∃ op, g b t = addEngine b op ∧ GroupOp x ts word fid k d a t op) :
    ∀ (l ds : List Tid) (ops : List EngOp) (b : State), (∀ t ∈ l, t ∈ groupLeaders ts) → ((ds ++ l).map fun t => t.group).Nodup →
      GroupsDone x b ts word fid k d a ds ops → ∃ ops', GroupsDone x (l.foldl g b) ts word fid k d a (ds ++ l) ops'
  | [], ds, ops, b, _, _, h => ⟨ops, by simpa using h⟩
  | t :: l, ds, ops, b, hl, hnod, h => by
    have ht : t.group ∉ ds.map fun t => t.group := fun hin => by
      rw [List.map_append, List.nodup_append] at hnod
      exact hnod.2.2 _ hin _ (by simp) rfl
    obtain ⟨op, hstep, hop⟩ := hg b t ds ops h ht (hl t List.mem_cons_self)
    have h1 := h.step hn ht hop
    rw [← hstep] at h1
    have hrest := GroupsDone.fold hn hg l (ds ++ [t]) (ops ++ [op]) (g b t) (fun u hu => hl u (List.mem_cons_of_mem _ hu)) (by simpa using hnod) h1
    simpa using hrest

/-- When the leaders of all groups have issued, the flock has. -/
theorem GroupsDone.all (h : GroupsDone x b ts word fid k d a (groupLeaders ts) ops) : GroupOps x b ts word fid k d a := by
  have hgroups : ∀ t : Tid, t ∈ ts → t.group ∈ (groupLeaders ts).map fun t => t.group := fun t ht => by
    rw [groupLeaders_groups, mem_dedup]
    exact List.mem_map_of_mem ht
  refine ⟨ops, h.engines, h.each.length_eq.symm, fun n op t ho hl l hlane => ?_, fun t ht => h.taken t ht (hgroups t ht), fun t ht => h.others t fun hin => absurd hin ht,
    h.same, h.frame⟩
  have hop := List.Forall₂.get h.each (List.getElem?_eq_some_iff.mp hl).1 (List.getElem?_eq_some_iff.mp ho).1
  simp only [List.get_eq_getElem] at hop
  rw [(List.getElem?_eq_some_iff.mp hl).2, (List.getElem?_eq_some_iff.mp ho).2] at hop
  obtain ⟨hissued, hdescs⟩ := hop.1 l hlane
  exact ⟨hissued, hdescs, hop.2⟩

end

/-! ### copy.bulk and gath (R391, R393) -/

theorem exec_copyBulk (d : BitVec 7) (a : BitVec 6) (st : BitVec 2) (s : State) : exec (.copyBulk d a st) s = execCopyBulk d a st s := rfl
theorem exec_gath (d : BitVec 7) (a : BitVec 6) (st : BitVec 2) (s : State) : exec (.gath d a st) s = execGath d a st s := rfl

/-- The effect of an engine form that groups issue, when every leader's checks pass: `eff` then adds the group's operation. -/
theorem perGroupAll_issues {x : State} {sl : Slot} {word : Word} {ts : List Tid} {k : EngKind} {d a : Nat} (hn : ts.Nodup)
    (hlane : ∀ t ∈ ts, ∃ l, lane? x t sl.fid word = some l) {eff : Lane → List Tid → State → State}
    (heff : ∀ b t l m, SameChecks x b t → t ∈ groupLeaders ts → lane? x t sl.fid word = some l → m.tid = t → teamPlan m.tm = teamPlan l.tm → m.g.s = l.g.s →
      ∀ us, eff m us b = addEngine b (newOp b k m.tm us d [(m.tid.group, descOf m.g a)] m.th.pc.off)) :
    GroupOps x (perGroupAll eff word sl ts x) ts word sl.fid k d a := by
  have hfold := GroupsDone.fold (x := x) (ts := ts) (word := word) (fid := sl.fid) (k := k) (d := d) (a := a)
    (g := fun s t => match lane? s t sl.fid word with | some ln => eff ln (ts.filter fun u => u.group == t.group) s | none => s) hn
    (fun b t ds ops h ht hlead => by
      obtain ⟨l, hl⟩ := hlane t (groupLeaders_mem hlead)
      have hchecks := h.checks ht
      obtain ⟨m, hm, htid, hth, hshape, hs⟩ := lane_sameTeams h.same hchecks.thread hl
      have hplan : teamPlan m.tm = teamPlan l.tm := congrArg (fun t : Team => { t with rdv := [] }) hshape
      refine ⟨newOp b k m.tm (ts.filter fun u => u.group == t.group) d [(m.tid.group, descOf m.g a)] m.th.pc.off, ?_, ?_, rfl⟩
      · simp only [hm]
        exact heff b t l m hchecks hlead hl htid hplan hs _
      · intro l' hl'
        obtain rfl : l = l' := Option.some.inj (hl.symm.trans hl')
        rw [← hth]
        have hdesc : descOf m.g a = descOf l.g a := by simp only [descOf, rdS, hs]
        exact ⟨issued_shape hshape (newOp_issued _ _ _ _ _ _ _), by rw [← htid, ← hdesc]; rfl⟩)
    (groupLeaders ts) [] [] x (fun _ h => h) (by rw [List.nil_append, groupLeaders_groups]; exact dedup_nodup _) (GroupsDone.start _ _ _ _ _ _ _)
  obtain ⟨ops, hdone⟩ := hfold
  exact GroupsDone.all hdone

theorem groupStarts : GroupStarts := by
  constructor
  · intro d a st word hword s sl u hready hpass
    obtain rfl : encE 50#6 5#5 d a 0#6 st = word := Option.some.inj hword
    refine ⟨_, by rw [exec_copyBulk, execCopyBulk]; exact congrArg _ (issueHold_ready hready st _), ?_⟩
    refine perGroupAll_issues (lanesOf_nodup hready) (lanesOf_lane hready) fun b t l m hchecks hlead hl htid hplan hs us => ?_
    have hdesc : descOf m.g a.toNat = descOf l.g a.toNat := by simp only [descOf, rdS, hs]
    have hno : bulkTrap b m.tid m.tm (descOf m.g a.toNat) = none := by
      rw [htid, hdesc, sameChecks_bulkTrap hchecks hplan]
      exact hpass t hlead l hl
    unfold bulkEffect
    simp only [hno]
  · intro d a st word hword s sl u hready hpass
    obtain rfl : encE 51#6 0#5 d a 0#6 st = word := Option.some.inj hword
    refine ⟨_, by rw [exec_gath, execGath]; exact congrArg _ (issueHold_ready hready st _), ?_⟩
    refine perGroupAll_issues (lanesOf_nodup hready) (lanesOf_lane hready) fun b t l m hchecks hlead hl htid hplan hs us => ?_
    have hdesc : descOf m.g a.toNat = descOf l.g a.toNat := by simp only [descOf, rdS, hs]
    have hno : gathTrap b m.tid m.tm (descOf m.g a.toNat) = none := by
      rw [htid, hdesc, sameChecks_gathTrap hchecks hplan]
      exact hpass t hlead l hl
    unfold gathEffect
    simp only [hno]

end Sys2Proof.Proofs
end

section
/-! PROOF. The rendezvous of a team: the lanes of a flock arrive, and those who have arrived go on (R349). -/

namespace Sys2Proof.Proofs

open Machine Claims Laws

/-! ### A flock outside guard spans -/

theorem putReg_pc (th : Thread) (r : Reg) (x : BitVec 80) : (putReg th r x).pc = th.pc := by cases r <;> rfl

theorem settleThread_pc (s : State) (th : Thread) : (settleThread s th).pc = th.pc := by
  have hfold : ∀ (l : List Due) (th : Thread), (l.foldl (fun th d => putReg th d.reg d.val) th).pc = th.pc := by
    intro l
    induction l with
    | nil => exact fun _ => rfl
    | cons d l ih => exact fun th => (ih _).trans (putReg_pc _ _ _)
  unfold settleThread
  split
  · rfl
  · exact hfold _ _

theorem settleGroup_threads (s : State) (g : Group) : (settleGroup s g).threads = g.threads.map (settleThread s) := by
  unfold settleGroup
  dsimp only
  split <;> rfl

theorem thread_settleTeam (s : State) (t : Tid) : thread? (settleTeam s t.team) t = (thread? s t).map (settleThread s) := by
  simp only [thread?, group?, settleTeam]
  rw [team_modTeam _ _ _ (settle s) (by intro t; rfl), if_pos rfl]
  cases team? s t.team with
  | none => rfl
  | some tm =>
    simp only [Option.map_some, settle, List.getElem?_map]
    cases tm.groups[t.group]? with
    | none => rfl
    | some g => simp only [Option.map_some, settleGroup_threads, List.getElem?_map]

/-- A flock at a position outside guard spans is outside them before its results are written, too. -/
theorem inSpan_outside {s : State} {sl : Slot} (hslot : curSlot s = some sl) (hpos : (posOf s sl).guardLeft = 0) : inSpan s = false := by
  unfold inSpan curPos
  simp only [hslot]
  cases hfl : sl.flock with
  | nil => rfl
  | cons t l =>
    cases hth : thread? s t with
    | none => simp [hth]
    | some th =>
      have hnow : thread? (atIssue s sl) t = some (settleThread s th) := by
        rw [atIssue, show headTeam sl = t.team by rw [headTeam, hfl], thread_settleTeam, hth]
        rfl
      have hpc : posOf s sl = th.pc := by rw [posOf, hfl]; simp only [hnow, settleThread_pc]
      simp [hth, ← hpc, hpos]

/-! ### Arrivals -/

/-- The rendezvous of a team change. -/
def teamRdv (s : State) (team : Nat) (f : List Rdv → List Rdv) : State := modTeam s team fun t => { t with rdv := f t.rdv }

/-- Arrivals join a list of rendezvous. -/
def joinedRdv (off word : Word) (l : List Rdv) (as : List Arrival) : List Rdv := as.foldl (fun l a => joinRdv off word a l) l

theorem joinedRdv_one (off word : Word) (pre as : List Arrival) : joinedRdv off word [⟨off, word, pre⟩] as = [⟨off, word, pre ++ as⟩] := by
  induction as generalizing pre with
  | nil => simp [joinedRdv]
  | cons a as ih =>
    have hstep : joinRdv off word a [⟨off, word, pre⟩] = [⟨off, word, pre ++ [a]⟩] := by simp [joinRdv, updWhere]
    rw [joinedRdv, List.foldl_cons, hstep, ← joinedRdv, ih, List.append_assoc]
    rfl

/-- Those who arrive stand behind those who have arrived. -/
theorem joinedRdv_pre {off word : Word} (pre : List Arrival) {as : List Arrival} (h : as ≠ []) :
    joinedRdv off word (if pre.isEmpty then [] else [⟨off, word, pre⟩]) as = [⟨off, word, pre ++ as⟩] := by
  cases pre with
  | cons p pre => exact joinedRdv_one off word (p :: pre) as
  | nil =>
    cases as with
    | nil => exact absurd rfl h
    | cons a as => exact joinedRdv_one off word [a] as

/-- The arrival of a lane. -/
def arrivalOf (vals : Lane → List Word) (l : Lane) : Arrival := ⟨l.tid, 0, vals l, l.fid⟩

theorem arriveTeam_eq (vals : Lane → List Word) (l : Lane) (s : State) :
    arriveTeam vals l s = teamRdv s l.tid.team (joinRdv l.th.pc.off l.word (arrivalOf vals l)) := rfl

theorem teamRdv_teamRdv (s : State) (team : Nat) (f g : List Rdv → List Rdv) : teamRdv (teamRdv s team f) team g = teamRdv s team (g ∘ f) := by
  unfold teamRdv
  rw [modTeam_modTeam _ _ _ _ (by intro t; rfl)]
  rfl

theorem teamRdv_id (s : State) (team : Nat) : teamRdv s team id = s := by simp [teamRdv, modTeam, updWhere]

/-- A lane sees its own thread and its group's scalars whatever the rendezvous of its team. -/
theorem lane_teamRdv {s : State} {t : Tid} {fid : Nat} {word : Word} {l : Lane} (h : lane? s t fid word = some l) (f : List Rdv → List Rdv) :
    ∃ k, lane? (teamRdv s t.team f) t fid word = some k ∧ k.tid = t ∧ k.g = l.g ∧ k.th = l.th ∧ k.fid = fid ∧ k.word = word := by
  obtain ⟨htm, hg, hth, -, -, -, -⟩ := lane_some h
  have htm' : team? (teamRdv s t.team f) t.team = some { l.tm with rdv := f l.tm.rdv } := team_modTeam_same htm (fun t => { t with rdv := f t.rdv }) fun _ => rfl
  exact ⟨⟨_, t, _, l.g, l.th, fid, word⟩, by unfold lane?; simp only [htm', hg, hth]; rfl, rfl, rfl, rfl, rfl, rfl⟩

/-- Lanes of one team at one offset arrive, one after the other. -/
theorem arrive_lanes {x : State} {team fid : Nat} {off word : Word} {vals : Lane → List Word} (hvals : ∀ l k : Lane, k.g = l.g → vals k = vals l) {ts : List Tid}
    (hts : ∀ t ∈ ts, t.team = team ∧ ∃ l, lane? x t fid word = some l ∧ l.th.pc.off = off) (f : List Rdv → List Rdv) :
    ts.foldl (fun s t => match lane? s t fid word with | some ln => arriveTeam vals ln s | none => s) (teamRdv x team f) =
      teamRdv x team fun l => joinedRdv off word (f l) ((ts.filterMap fun t => lane? x t fid word).map (arrivalOf vals)) := by
  induction ts generalizing f with
  | nil => rfl
  | cons t ts ih =>
    obtain ⟨rfl, l, hl, hoff⟩ := hts t List.mem_cons_self
    obtain ⟨k, hk, htid, hg, hth, hfid, hword⟩ := lane_teamRdv hl f
    obtain ⟨-, -, -, -, hltid, hlfid, -⟩ := lane_some hl
    have harr : arrivalOf vals k = arrivalOf vals l := by simp only [arrivalOf, htid, hfid, hltid, hlfid, hvals l k hg]
    have hstep : arriveTeam vals k (teamRdv x t.team f) = teamRdv x t.team (joinRdv off word (arrivalOf vals l) ∘ f) := by
      rw [arriveTeam_eq, htid, hth, hoff, hword, harr, teamRdv_teamRdv]
    simp only [List.foldl_cons, hk, hstep, List.filterMap_cons, hl, List.map_cons]
    exact ih (fun u hu => hts u (List.mem_cons_of_mem _ hu)) _

/-- The tids of lanes that all exist. -/
theorem tids_of_lanes {x : State} {fid : Nat} {word : Word} {ts : List Tid} (h : ∀ t ∈ ts, ∃ l, lane? x t fid word = some l) :
    (ts.filterMap fun t => lane? x t fid word).map (fun l => l.tid) = ts := by
  induction ts with
  | nil => rfl
  | cons t ts ih =>
    obtain ⟨l, hl⟩ := h t List.mem_cons_self
    obtain ⟨-, -, -, -, htid, -, -⟩ := lane_some hl
    simp only [List.filterMap_cons, hl, List.map_cons, htid, ih fun u hu => h u (List.mem_cons_of_mem _ hu)]

section
variable {s : State} {sl : Slot} {word : Word} {u : Uses} {pre : List Arrival} {tm : Team}

/-- Those of a rendezvous: who stood there, and the performing lanes in ascending order. -/
theorem comers_rdvNow (hready : Ready s sl word u noHold) (vals : Lane → List Word) :
    comers (rdvNow s sl u word pre vals) = pre.map (fun a => a.tid) ++ sortBy (fun (t : Tid) => t.lane) (lanesOf s sl u) := by
  have hlanes := tids_of_lanes (x := atIssue s sl) (fid := sl.fid) (word := word) (ts := sortBy (fun (t : Tid) => t.lane) (lanesOf s sl u))
    fun t ht => lanesOf_lane hready t ((sortBy_perm _ _).mem_iff.mp ht)
  rw [comers, rdvNow, List.map_append, arrivals, List.map_map]
  exact congrArg _ hlanes

theorem comers_mem (hready : Ready s sl word u noHold) (vals : Lane → List Word) (t : Tid) :
    t ∈ comers (rdvNow s sl u word pre vals) ↔ t ∈ pre.map (fun a => a.tid) ∨ t ∈ lanesOf s sl u := by
  rw [comers_rdvNow hready, List.mem_append, (sortBy_perm _ _).mem_iff]

theorem comers_nodup (hready : Ready s sl word u noHold) (harr : Arriving s sl u word pre tm) (vals : Lane → List Word) :
    (comers (rdvNow s sl u word pre vals)).Nodup := by
  obtain ⟨hnod, hout⟩ := harr.others
  rw [comers_rdvNow hready]
  refine List.nodup_append.mpr ⟨hnod, (sortBy_perm _ _).nodup_iff.mpr (lanesOf_nodup hready), fun t ht v hv e => ?_⟩
  obtain ⟨a, ha, rfl⟩ := List.mem_map.mp ht
  exact (hout a ha).2 ((sortBy_perm _ _).mem_iff.mp (e ▸ hv))

theorem arriving_id (harr : Arriving s sl u word pre tm) : tm.id = headTeam sl := by simpa using List.find?_some harr.team

/-- Those of a rendezvous are of the flock's team. -/
theorem comers_team (hready : Ready s sl word u noHold) (harr : Arriving s sl u word pre tm) (vals : Lane → List Word) :
    ∀ t ∈ comers (rdvNow s sl u word pre vals), t.team = headTeam sl := by
  intro t ht
  rcases (comers_mem hready vals t).mp ht with ht | ht
  · obtain ⟨a, ha, rfl⟩ := List.mem_map.mp ht
    exact (harr.others.2 a ha).1.trans (arriving_id harr)
  · exact hready.oneTeam t (List.mem_of_mem_filter ht)

/-- The state once the lanes of a flock stand at their team's rendezvous. -/
def assembled (s : State) (sl : Slot) (u : Uses) (word : Word) (vals : Lane → List Word) : State :=
  teamRdv (atIssue s sl) (headTeam sl) fun l => joinedRdv (posOf s sl).off word l (arrivals s sl u word vals)

theorem perLane_arrives (hready : Ready s sl word u noHold) {vals : Lane → List Word} (hvals : ∀ l k : Lane, k.g = l.g → vals k = vals l) :
    perLane (arriveTeam vals) word sl (lanesOf s sl u) (atIssue s sl) = assembled s sl u word vals := by
  have hts : ∀ t ∈ sortBy (fun (t : Tid) => t.lane) (lanesOf s sl u), t.team = headTeam sl ∧
      ∃ l, lane? (atIssue s sl) t sl.fid word = some l ∧ l.th.pc.off = (posOf s sl).off := by
    intro t ht
    have hin := (sortBy_perm _ _).mem_iff.mp ht
    obtain ⟨l, hl⟩ := lanesOf_lane hready t hin
    have hflock := List.mem_of_mem_filter hin
    exact ⟨hready.oneTeam t hflock, l, hl, hready.together t hflock l.th (lane_thread hl)⟩
  have h := arrive_lanes hvals hts id
  rw [teamRdv_id] at h
  exact h

theorem assembled_only (s : State) (sl : Slot) (u : Uses) (word : Word) (vals : Lane → List Word) : TeamsFrom (atIssue s sl) (assembled s sl u word vals) := rfl

theorem assembled_thread (s : State) (sl : Slot) (u : Uses) (word : Word) (vals : Lane → List Word) (t : Tid) :
    thread? (assembled s sl u word vals) t = thread? (atIssue s sl) t :=
  thread_modTeam (f := fun t => { t with rdv := joinedRdv (posOf s sl).off word t.rdv (arrivals s sl u word vals) }) (fun _ => ⟨rfl, rfl⟩) t

theorem assembled_team (hready : Ready s sl word u noHold) (harr : Arriving s sl u word pre tm) (vals : Lane → List Word) :
    team? (assembled s sl u word vals) (headTeam sl) = some { tm with rdv := [rdvNow s sl u word pre vals] } := by
  have hne : arrivals s sl u word vals ≠ [] := by
    have hc := tids_of_lanes (x := atIssue s sl) (fid := sl.fid) (word := word) (ts := sortBy (fun (t : Tid) => t.lane) (lanesOf s sl u))
      fun t ht => lanesOf_lane hready t ((sortBy_perm _ _).mem_iff.mp ht)
    intro h0
    have h1 : ordered s sl u word = [] := by simpa [arrivals] using h0
    have h2 : sortBy (fun (t : Tid) => t.lane) (lanesOf s sl u) = [] := by
      rw [← hc]
      exact congrArg (List.map fun l : Lane => l.tid) h1
    exact harr.some' (List.eq_nil_iff_forall_not_mem.mpr fun t ht => by
      have := (sortBy_perm (fun (t : Tid) => t.lane) (lanesOf s sl u)).mem_iff.mpr ht
      rw [h2] at this
      cases this)
  have h := team_modTeam_same harr.team (fun t => { t with rdv := joinedRdv (posOf s sl).off word t.rdv (arrivals s sl u word vals) }) fun _ => rfl
  rw [harr.rdv, joinedRdv_pre pre hne] at h
  exact h

/-- Every live thread of the team has arrived: the rendezvous is complete. -/
theorem assembled_met (hready : Ready s sl word u noHold) (h : Assembled s sl u word pre tm) (vals : Lane → List Word) :
    teamMet (assembled s sl u word vals) (headTeam sl) (rdvNow s sl u word pre vals) = true := by
  obtain ⟨harr, hall⟩ := h
  have htm := assembled_team hready harr vals
  have hlive : liveTids (assembled s sl u word vals) (headTeam sl) = liveTids (atIssue s sl) (headTeam sl) := by
    simp only [liveTids, htm, harr.team, assembled_thread]
    rfl
  refine List.all_eq_true.mpr fun t ht => ?_
  rw [hlive, ← arriving_id harr] at ht
  have hin : t ∈ comers (rdvNow s sl u word pre vals) := (comers_mem hready vals t).mpr (by
    rcases hall t ht with hl | ⟨a, ha, rfl⟩
    · exact .inr hl
    · exact .inl (List.mem_map_of_mem ha))
  obtain ⟨a, ha, rfl⟩ := List.mem_map.mp hin
  exact List.any_eq_true.mpr ⟨a, ha, by simp⟩

/-- Completing the rendezvous of the team is completing this one. -/
theorem meetTeam_assembled (hready : Ready s sl word u noHold) (h : Assembled s sl u word pre tm) (vals : Lane → List Word) :
    meetTeam (assembled s sl u word vals) (headTeam sl) = completeTeam (assembled s sl u word vals) (headTeam sl) (rdvNow s sl u word pre vals) := by
  unfold meetTeam
  rw [assembled_team hready h.1 vals]
  dsimp only
  rw [List.filter_cons_of_pos (assembled_met hready h vals)]
  rfl

end

/-! ### Those who have arrived go on (R96, R349) -/

/-- A thread that goes on from a rendezvous with no results. -/
def passes (th : Thread) : Thread :=
  match th.wait with
  | some .coll | some .team | some .choose | some .forkCopy => finishWait th
  | _ => th

theorem passes_idle {th : Thread} (h : th.wait = none) : passes th = th := by simp [passes, h]

theorem passes_waiting {th : Thread} (h : th.wait = some .team) : (passes th).wait = none := by simp [passes, h, finishWait]

/-- Without results nothing is due to a thread that goes on. -/
theorem passes_noDues : (fun th : Thread => passes { th with due := th.due ++ [] }) = passes := by
  funext th
  have heta : ({ th with due := th.due ++ [] } : Thread) = th := by rw [List.append_nil]
  rw [heta]

/-- A context's watchdog window restarts. -/
def restarted (c : Context) : Context := { c with idle := 0, noticed := false }

/-- Contexts `B` are contexts `A` after progress of context `id`, or without it. -/
def Progressed (id : Nat) (A B : List Context) : Prop := updWhere (fun c => c.id == id) restarted B = updWhere (fun c => c.id == id) restarted A

theorem Progressed.once (id : Nat) (A : List Context) : Progressed id A (updWhere (fun c => c.id == id) restarted A) := by
  simp only [Progressed, updWhere, List.map_map]
  refine List.map_congr_left fun c _ => ?_
  by_cases h : c.id = id <;> simp [h, restarted]

/-- One who has arrived goes on; only a wait that ends so is progress. -/
theorem passMember_eq {s : State} {t : Tid} {tm : Team} (htm : team? s t.team = some tm) :
    ∃ C, passMember s t [] = { modThread s t passes with contexts := C } ∧ Progressed tm.ctx s.contexts C := by
  have heq : passMember s t [] = modThread (if ((thread? s t).bind (·.wait)).isSome then teamProgress s t.team else s) t
    fun th => passes { th with due := th.due ++ [] } := rfl
  rw [heq, passes_noDues]
  split
  · refine ⟨updWhere (fun c => c.id == tm.ctx) restarted s.contexts, ?_, .once _ _⟩
    rw [teamProgress, htm]
    rfl
  · exact ⟨s.contexts, rfl, rfl⟩

/-- Changes to threads and to contexts do not meet. -/
theorem modThreads_contexts (f : Thread → Thread) (C : List Context) (ts : List Tid) (s : State) :
    modThreads { s with contexts := C } ts f = { modThreads s ts f with contexts := C } := by
  induction ts generalizing s with
  | nil => rfl
  | cons t ts ih => exact ih (modThread s t f)

/-- All who have arrived go on. -/
theorem pass_all {team : Nat} (as : List Arrival) {s : State} {tm : Team} (htm : team? s team = some tm) (has : ∀ a ∈ as, a.tid.team = team) :
    ∃ C, as.foldl (fun s a => passMember s a.tid []) s = { modThreads s (as.map fun a => a.tid) passes with contexts := C } ∧ Progressed tm.ctx s.contexts C := by
  induction as generalizing s tm with
  | nil => exact ⟨s.contexts, rfl, rfl⟩
  | cons a as ih =>
    obtain ⟨C, hC, hp⟩ := passMember_eq (s := s) (t := a.tid) (tm := tm) (by rw [has a List.mem_cons_self]; exact htm)
    have hshape := team_shape (modThread_sameTeams s a.tid passes) team
    rw [htm, Option.map_some] at hshape
    obtain ⟨tm', htm', hs'⟩ := Option.map_eq_some_iff.mp hshape
    have hctx : tm'.ctx = tm.ctx := by simpa [teamShape] using congrArg Team.ctx hs'
    obtain ⟨C', hC', hp'⟩ := ih (s := { modThread s a.tid passes with contexts := C }) htm' fun b hb => has b (List.mem_cons_of_mem _ hb)
    rw [hctx] at hp'
    refine ⟨C', ?_, hp'.trans hp⟩
    rw [List.foldl_cons, hC, hC', modThreads_contexts]
    rfl

end Sys2Proof.Proofs
end

section
/-! PROOF. The start of a team copy, and O43 (R384 to R389). -/

namespace Sys2Proof.Proofs

open Machine Claims Laws

/-! ### The checks of a slice see no rendezvous (R386) -/

theorem teamAt_single (s : State) {tm : Team} (h : tm.setIdx = none) (p : Nat) : teamAt s tm p = if p == tm.core % 4 then some tm else none := by
  unfold teamAt
  rw [h]

theorem teamAt_set (s : State) {tm : Team} {k : Nat} (h : tm.setIdx = some k) (p : Nat) : teamAt s tm p = s.teams.find? fun u =>
    u.grid == tm.grid && u.setIdx == some k && u.core % 4 == p && (u.state == .resident || u.state == .preempting) := by
  unfold teamAt
  rw [h]

/-- The team at a position of a set, whatever the rendezvous. -/
theorem teamAt_plan {a b : State} (h : b.teams.map teamPlan = a.teams.map teamPlan) (tm : Team) (r : List Rdv) (p : Nat) :
    (teamAt b { tm with rdv := r } p).map teamPlan = (teamAt a tm p).map teamPlan := by
  obtain ⟨tm', htm⟩ : ∃ tm' : Team, tm' = { tm with rdv := r } := ⟨_, rfl⟩
  have hplan : teamPlan tm' = teamPlan tm := by rw [htm]; rfl
  have hsame : tm'.setIdx = tm.setIdx ∧ tm'.core = tm.core ∧ tm'.grid = tm.grid := by rw [htm]; exact ⟨rfl, rfl, rfl⟩
  obtain ⟨hidx, hcore, hgrid⟩ := hsame
  rw [← htm]
  cases hset : tm.setIdx with
  | none =>
    rw [teamAt_single a hset, teamAt_single b (hidx.trans hset), hcore]
    split
    · exact congrArg some hplan
    · rfl
  | some k =>
    rw [teamAt_set a hset, teamAt_set b (hidx.trans hset), hgrid]
    have hfind : ∀ l : List Team, (l.find? fun u => u.grid == tm.grid && u.setIdx == some k && u.core % 4 == p && (u.state == .resident || u.state == .preempting)).map teamPlan =
        (l.map teamPlan).find? fun u => u.grid == tm.grid && u.setIdx == some k && u.core % 4 == p && (u.state == .resident || u.state == .preempting) := fun l => by
      rw [List.find?_map]
      rfl
    exact (hfind _).trans ((congrArg _ h).trans (hfind _).symm)

section
variable {a b : State} {t : Tid} (h : SameChecks a b t)
include h

theorem sameChecks_sliceTrap (tm : Team) (r : List Rdv) (k : EngKind) (d : List Word) : sliceTrap b t { tm with rdv := r } k d = sliceTrap a t tm k d := by
  have hat : ∀ p, (teamAt b { tm with rdv := r } p).isSome = (teamAt a tm p).isSome := fun p => by
    have := congrArg Option.isSome (teamAt_plan h.teams tm r p)
    simpa using this
  unfold sliceTrap
  simp only [hat, sameChecks_slotBaseTrap h]
  rfl

theorem sameChecks_sliceRanges (op : Nat) (tm : Team) (r : List Rdv) (k : EngKind) (x : Slice) :
    sliceRanges b op { tm with rdv := r } k x = sliceRanges a op tm k x := by
  have hdest : ((x.places k tm.core).filterMap fun p => if p == tm.core % 4 then some { tm with rdv := r } else teamAt b { tm with rdv := r } p).map teamPlan =
      ((x.places k tm.core).filterMap fun p => if p == tm.core % 4 then some tm else teamAt a tm p).map teamPlan := by
    rw [List.map_filterMap, List.map_filterMap]
    congr 1
    funext p
    split
    · rfl
    · exact teamAt_plan h.teams tm r p
  have hrows : ∀ (f : Team → List RangeLock) (l : List Team), (∀ u, f (teamPlan u) = f u) → l.flatMap f = (l.map teamPlan).flatMap f := fun f l hf => by
    rw [List.flatMap_map]
    exact congrArg (l.flatMap ·) (funext fun u => (hf u).symm)
  unfold sliceRanges
  dsimp only
  split
  · rfl
  · refine congrArg (HAppend.hAppend _) ?_
    rw [hrows _ _ fun _ => rfl, hdest]
    exact (hrows _ _ fun _ => rfl).symm

theorem sameChecks_sliceRules (tm : Team) (r : List Rdv) (k : EngKind) (x : Slice) : sliceRules b t { tm with rdv := r } k x = sliceRules a t tm k x := by
  unfold sliceRules
  rw [sameChecks_sliceRanges h, sameChecks_meetsShadow h, sameChecks_openTrap h]
  have hspan : spanTrap b t { tm with rdv := r } (k == .out) = spanTrap a t tm (k == .out) := funext fun p => sameChecks_spanTrap h _ _ p
  rw [hspan]
  rfl

end

/-! ### The completion of a copy's rendezvous (R384, R386) -/

/-- The arrivals that supply the descriptors: the lowest of each group. -/
def leadsOf (r : Rdv) : List Arrival :=
  (sortBy id (dedup (r.arrivals.map fun a => a.tid.group))).filterMap fun g =>
    minBy (fun (a : Arrival) => a.tid.lane) (r.arrivals.filter fun a => a.tid.group == g)

theorem leadsOf_mem {r : Rdv} {a : Arrival} (h : a ∈ leadsOf r) : a ∈ r.arrivals := by
  obtain ⟨g, -, hg⟩ := List.mem_filterMap.mp h
  exact (List.mem_filter.mp (minBy_mem _ _ _ hg)).1

theorem leadsOf_groups (r : Rdv) : (leadsOf r).map (fun a => a.tid.group) = sortBy id (dedup (r.arrivals.map fun a => a.tid.group)) :=
  map_minBy_filter (fun a : Arrival => a.tid.group) (fun a => a.tid.lane) r.arrivals _ fun g hg => by
    simpa using (mem_dedup _ _).mp ((sortBy_perm _ _).mem_iff.mp hg)

/-- The operation of a copy whose rendezvous is complete. -/
def copyOp (s : State) (k : EngKind) (tm : Team) (r : Rdv) : EngOp :=
  newOp s k tm (comers r) (r.word.extractLsb' 14 7).toNat ((leadsOf r).map fun a => (a.tid.group, a.vals)) r.off

theorem copyOp_contexts (s : State) (C : List Context) (k : EngKind) (tm : Team) (r : Rdv) : copyOp { s with contexts := C } k tm r = copyOp s k tm r := rfl

/-- The issue of an operation and a change to contexts do not meet. -/
theorem addEngine_contexts (s : State) (C : List Context) (op : EngOp) : addEngine { s with contexts := C } op = { addEngine s op with contexts := C } :=
  modThreads_contexts (fun th => withOp th op) C op.tids { s with engines := s.engines ++ [op], nextId := s.nextId + 1 }

theorem addEngine_frame {x y : State} (h : TeamsFrom x y) (op : EngOp) : addEngine y op =
    { x with teams := (addEngine y op).teams, engines := x.engines ++ [op], nextId := x.nextId + 1 } := by
  have honly := addEngine_only y op
  unfold TeamsFrom at h honly
  generalize addEngine y op = c at honly ⊢
  generalize c.teams = tms at honly ⊢
  generalize y.teams = tys at h
  rw [honly, h]

/-- When every group's descriptor passes, all go on and the operation is issued. -/
theorem completeCopy_passes {s : State} {team : Nat} {r : Rdv} {tm : Team} {k : EngKind} (htm : team? s team = some tm) (hk : copyKind (wordOp r.word).2 = k)
    (hpass : ∀ y ∈ r.arrivals, sliceTrap s y.tid tm k y.vals = none ∧ sliceRules s y.tid tm k (sliceOf y.tid.group y.vals) = none) :
    completeCopy s team r = addEngine (r.arrivals.foldl (fun s a => passMember s a.tid []) (dropTeamRdv s team r.off))
      (copyOp (r.arrivals.foldl (fun s a => passMember s a.tid []) (dropTeamRdv s team r.off)) k tm r) := by
  subst hk
  have hfails : (leadsOf r).filterMap (fun a => ((sliceTrap s a.tid tm (copyKind (wordOp r.word).2) a.vals).or
      (sliceRules s a.tid tm (copyKind (wordOp r.word).2) (sliceOf a.tid.group a.vals))).map fun tr => (a.tid, tr)) = [] := by
    refine List.filterMap_eq_nil_iff.mpr fun a ha => ?_
    obtain ⟨h1, h2⟩ := hpass a (leadsOf_mem ha)
    rw [h1, h2]
    rfl
  unfold leadsOf at hfails
  unfold completeCopy
  rw [htm]
  dsimp only
  rw [hfails]
  rfl

/-- Threads that wait for nothing and stand at no rendezvous stay in the flock. -/
theorem waitMembers_none {s : State} {w : Wait} {arrived : State → Tid → Bool} {l : List Tid}
    (h : ∀ t ∈ l, (∃ th, thread? s t = some th ∧ th.wait = none) ∧ arrived s t = false) : waitMembers s l w arrived = s := by
  induction l with
  | nil => rfl
  | cons t l ih =>
    obtain ⟨⟨th, hth, hw⟩, ha⟩ := h t List.mem_cons_self
    have hstep := ih fun u hu => h u (List.mem_cons_of_mem _ hu)
    unfold waitMembers at hstep ⊢
    simp only [List.foldl_cons, hth, Option.bind_some, hw, ha]
    exact hstep

/-! ### The four forms -/

/-- What the word of a team copy says: its kind and its status register. -/
structure CopyWord (word : Word) (k : EngKind) (d : BitVec 7) : Prop where
  op : (wordOp word).1 = 0x32
  kind : copyKind (wordOp word).2 = k
  rd : word.extractLsb' 14 7 = d

theorem copyWord_enc (fn : BitVec 5) (d : BitVec 7) (a : BitVec 6) (st : BitVec 2) : CopyWord (encE 50#6 fn d a 0#6 st) (copyKind fn.toNat) d := by
  have hop : (encE 50#6 fn d a 0#6 st).extractLsb' 26 6 = 50#6 := fld_encE_op _ _ _ _ _ _
  have hfn : (encE 50#6 fn d a 0#6 st).extractLsb' 21 5 = fn := fld_encE_fn _ _ _ _ _ _
  refine ⟨?_, ?_, fld_encE_d _ _ _ _ _ _⟩
  · rw [wordOp, hop]
    rfl
  · rw [wordOp, hfn]

/-- What a team copy uses. -/
def copyUses (d : BitVec 7) (a : BitVec 6) : Uses := { usesEngine d a with lead := 0 }

theorem exec_copy {i : Instr} {word : Word} {k : EngKind} {d : BitVec 7} {a : BitVec 6} {st : BitVec 2} (hword : encode i = some word)
    (htable : copyTable i = some (k, d, a, st)) (s : State) :
    exec i s = teamOp word st (copyUses d a) (fun _ => none) (fun l => descOf l.g a.toNat) s ∧ CopyWord word k d := by
  unfold copyTable at htable
  split at htable
  · cases htable; cases hword; exact ⟨rfl, copyWord_enc 0#5 d a st⟩
  · cases htable; cases hword; exact ⟨rfl, copyWord_enc 1#5 d a st⟩
  · cases htable; cases hword; exact ⟨rfl, copyWord_enc 2#5 d a st⟩
  · cases htable; cases hword; exact ⟨rfl, copyWord_enc 3#5 d a st⟩
  · cases htable

/-! ### A copy starts (R384) -/

section
variable {s : State} {sl : Slot} {word : Word} {u : Uses} {pre : List Arrival} {tm : Team} {k : EngKind} {d : BitVec 7} {vals : Lane → List Word}

/-- The rendezvous of a copy is over, and those who had arrived go on. -/
def passedOn (s : State) (sl : Slot) (u : Uses) (word : Word) (pre : List Arrival) (vals : Lane → List Word) : State :=
  modThreads (dropTeamRdv (assembled s sl u word vals) (headTeam sl) (posOf s sl).off) (comers (rdvNow s sl u word pre vals)) passes

/-- The operation that a copy issues. -/
def copyIssued (s : State) (sl : Slot) (u : Uses) (word : Word) (pre : List Arrival) (vals : Lane → List Word) (k : EngKind) (tm : Team) : EngOp :=
  copyOp (passedOn s sl u word pre vals) k { tm with rdv := [rdvNow s sl u word pre vals] } (rdvNow s sl u word pre vals)

/-- The state once a copy is issued, before its context's progress. -/
def copyMid (s : State) (sl : Slot) (u : Uses) (word : Word) (pre : List Arrival) (vals : Lane → List Word) (k : EngKind) (tm : Team) : State :=
  addEngine (passedOn s sl u word pre vals) (copyIssued s sl u word pre vals k tm)

theorem passedOn_only (s : State) (sl : Slot) (u : Uses) (word : Word) (pre : List Arrival) (vals : Lane → List Word) :
    TeamsFrom (atIssue s sl) (passedOn s sl u word pre vals) :=
  TeamsFrom.trans (b := dropTeamRdv (assembled s sl u word vals) (headTeam sl) (posOf s sl).off) rfl (modThreads_only _ _ _)

theorem dropped_thread (t : Tid) : thread? (dropTeamRdv (assembled s sl u word vals) (headTeam sl) (posOf s sl).off) t = thread? (atIssue s sl) t := by
  rw [← assembled_thread s sl u word vals t]
  exact thread_modTeam (f := fun t => { t with rdv := t.rdv.filter fun r => r.off ≠ (posOf s sl).off }) (fun _ => ⟨rfl, rfl⟩) t

theorem dropped_team (hready : Ready s sl word u noHold) (harr : Arriving s sl u word pre tm) :
    team? (dropTeamRdv (assembled s sl u word vals) (headTeam sl) (posOf s sl).off) (headTeam sl) = some { tm with rdv := [] } := by
  have h := team_modTeam_same (assembled_team hready harr vals) (fun t => { t with rdv := t.rdv.filter fun r => r.off ≠ (posOf s sl).off }) fun _ => rfl
  have hdrop : [rdvNow s sl u word pre vals].filter (fun r => r.off ≠ (posOf s sl).off) = [] := by simp [rdvNow]
  rw [hdrop] at h
  exact h

theorem passedOn_thread (hready : Ready s sl word u noHold) (harr : Arriving s sl u word pre tm) {t : Tid} (ht : t ∈ comers (rdvNow s sl u word pre vals)) :
    thread? (passedOn s sl u word pre vals) t = (thread? (atIssue s sl) t).map passes := by
  rw [passedOn, thread_modThreads _ _ (comers_nodup hready harr vals) ht, dropped_thread]

theorem copyMid_thread (hready : Ready s sl word u noHold) (harr : Arriving s sl u word pre tm) {t : Tid} (ht : t ∈ comers (rdvNow s sl u word pre vals))
    {th : Thread} (hth : thread? (atIssue s sl) t = some th) :
    thread? (copyMid s sl u word pre vals k tm) t = some (withOp (passes th) (copyIssued s sl u word pre vals k tm)) := by
  refine addEngine_thread (comers_nodup hready harr vals) ht ?_
  rw [passedOn_thread hready harr ht, hth]
  rfl

/-- Lanes wait for nothing as they issue, and those who stood at the rendezvous wait for it. -/
theorem comers_passed (hready : Ready s sl word u noHold) (harr : Arriving s sl u word pre tm) {t : Tid} (ht : t ∈ comers (rdvNow s sl u word pre vals)) :
    ∃ th, thread? (atIssue s sl) t = some th ∧ (passes th).wait = none := by
  rcases (comers_mem hready vals t).mp ht with ht | ht
  · obtain ⟨a, ha, rfl⟩ := List.mem_map.mp ht
    obtain ⟨th, hth, hw, -⟩ := harr.waiting a ha
    exact ⟨th, hth, passes_waiting hw⟩
  · obtain ⟨th, hth, -, hw, -⟩ := hready.live t (List.mem_of_mem_filter ht)
    exact ⟨th, hth, by rw [passes_idle hw]; exact hw⟩

theorem copyMid_waits (hready : Ready s sl word u noHold) (harr : Arriving s sl u word pre tm) :
    AllWait (copyMid s sl u word pre vals k tm) (comers (rdvNow s sl u word pre vals)) none := by
  intro t ht
  obtain ⟨th, hth, hw⟩ := comers_passed hready harr ht
  exact ⟨_, copyMid_thread hready harr ht hth, hw⟩

theorem copyMid_team (hready : Ready s sl word u noHold) (harr : Arriving s sl u word pre tm) :
    ∃ tm', team? (copyMid s sl u word pre vals k tm) (headTeam sl) = some tm' ∧ tm'.rdv = [] ∧ tm'.ctx = tm.ctx := by
  have hsame : SameTeams (dropTeamRdv (assembled s sl u word vals) (headTeam sl) (posOf s sl).off) (copyMid s sl u word pre vals k tm) :=
    sameTeams_trans (modThreads_sameTeams _ _ _) (addEngine_sameTeams _ _)
  have hshape := team_shape hsame (headTeam sl)
  rw [dropped_team hready harr, Option.map_some] at hshape
  obtain ⟨tm', htm', hs⟩ := Option.map_eq_some_iff.mp hshape
  exact ⟨tm', htm', by simpa [teamShape] using congrArg Team.rdv hs, by simpa [teamShape] using congrArg Team.ctx hs⟩

theorem assembled_checks (s : State) (sl : Slot) (u : Uses) (word : Word) (vals : Lane → List Word) (t : Tid) :
    SameChecks (atIssue s sl) (assembled s sl u word vals) t := by
  refine ⟨assembled_thread s sl u word vals t, ?_, rfl, rfl, rfl⟩
  simp only [assembled, teamRdv, modTeam, updWhere, List.map_map]
  refine List.map_congr_left fun tm _ => ?_
  simp only [Function.comp_apply]
  split <;> rfl

theorem completeTeam_copy (s : State) (team : Nat) {r : Rdv} (h : (wordOp r.word).1 = 0x32) : completeTeam s team r = completeCopy s team r := by
  obtain ⟨n, hn⟩ : ∃ n, wordOp r.word = (0x32, n) := ⟨_, Prod.ext h rfl⟩
  unfold completeTeam
  rw [hn]
  rfl

/-- What a copy's rendezvous makes of the state: the operation is issued, and the context has its progress or not yet. -/
theorem copy_completes (hready : Ready s sl word u noHold) (h : Assembled s sl u word pre tm) (hword : CopyWord word k d)
    (hpass : ∀ y ∈ (rdvNow s sl u word pre vals).arrivals, sliceTrap (atIssue s sl) y.tid tm k y.vals = none ∧
      sliceRules (atIssue s sl) y.tid tm k (sliceOf y.tid.group y.vals) = none) :
    ∃ C, meetTeam (assembled s sl u word vals) (headTeam sl) = { copyMid s sl u word pre vals k tm with contexts := C } ∧
      Progressed tm.ctx (atIssue s sl).contexts C := by
  have harr := h.1
  obtain ⟨C, hC, hp⟩ := pass_all (rdvNow s sl u word pre vals).arrivals (dropped_team (vals := vals) hready harr) fun a ha =>
    comers_team hready harr vals a.tid (List.mem_map_of_mem ha)
  refine ⟨C, ?_, hp⟩
  have hpassed : (rdvNow s sl u word pre vals).arrivals.foldl (fun s a => passMember s a.tid [])
      (dropTeamRdv (assembled s sl u word vals) (headTeam sl) (rdvNow s sl u word pre vals).off) = { passedOn s sl u word pre vals with contexts := C } := hC
  rw [meetTeam_assembled hready h vals, completeTeam_copy _ _ (r := rdvNow s sl u word pre vals) hword.op,
    completeCopy_passes (r := rdvNow s sl u word pre vals) (assembled_team hready harr vals) hword.kind]
  · rw [hpassed, copyOp_contexts, addEngine_contexts, copyMid, copyIssued]
  · intro y hy
    have hchecks := assembled_checks s sl u word vals y.tid
    rw [sameChecks_sliceTrap hchecks, sameChecks_sliceRules hchecks]
    exact hpass y hy

/-- The lanes of a copy that is issued stay in their flock. -/
theorem copy_stays (hready : Ready s sl word u noHold) (harr : Arriving s sl u word pre tm) (C : List Context) :
    waitMembers { copyMid s sl u word pre vals k tm with contexts := C } (lanesOf s sl u) .team inTeamRdv =
      { copyMid s sl u word pre vals k tm with contexts := C } := by
  refine waitMembers_none fun t ht => ⟨copyMid_waits hready harr t ((comers_mem hready vals t).mpr (.inr ht)), ?_⟩
  obtain ⟨tm', htm', hrdv, -⟩ := copyMid_team (vals := vals) (k := k) hready harr
  have hteam : t.team = headTeam sl := hready.oneTeam t (List.mem_of_mem_filter ht)
  have hnow : team? { copyMid s sl u word pre vals k tm with contexts := C } t.team = some tm' := by rw [hteam]; exact htm'
  unfold inTeamRdv
  rw [hnow]
  simp [hrdv]

/-- The progress of the issue covers that of those who went on. -/
theorem copy_progress (hready : Ready s sl word u noHold) (harr : Arriving s sl u word pre tm) {C : List Context}
    (hC : Progressed tm.ctx (atIssue s sl).contexts C) (st : BitVec 2) :
    issued s sl st u { copyMid s sl u word pre vals k tm with contexts := C } = issued s sl st u (copyMid s sl u word pre vals k tm) := by
  obtain ⟨tm', htm', -, hctx⟩ := copyMid_team (vals := vals) (k := k) hready harr
  have hcontexts : (copyMid s sl u word pre vals k tm).contexts = (atIssue s sl).contexts := by
    rw [copyMid, addEngine_frame (passedOn_only s sl u word pre vals)]
  have hteam : teamProgress { copyMid s sl u word pre vals k tm with contexts := C } (headTeam sl) = teamProgress (copyMid s sl u word pre vals k tm) (headTeam sl) := by
    have hnow : team? { copyMid s sl u word pre vals k tm with contexts := C } (headTeam sl) = some tm' := htm'
    simp only [teamProgress, htm', hnow, progress, modCtx, hctx]
    rw [hcontexts]
    exact congrArg (fun B => { copyMid s sl u word pre vals k tm with contexts := B }) hC
  unfold issued
  rw [hteam]

end

theorem copyStarts : CopyStarts := by
  intro i word k d a st hword htable s sl pre tm u r hready hasm hpass
  obtain ⟨hexec, hw⟩ := exec_copy hword htable s
  have harr := hasm.1
  have hid := arriving_id harr
  have hbad : ({ copyUses d a with bad := inSpan s } : Uses) = u := by rw [inSpan_outside hready.slot harr.noSpan]; rfl
  have hvals : ∀ l k : Lane, k.g = l.g → descOf k.g a.toNat = descOf l.g a.toNat := fun l k hg => by rw [hg]
  obtain ⟨C, hmeet, hC⟩ := copy_completes (vals := fun l => descOf l.g a.toNat) hready hasm hw hpass
  have heff : teamEffect (fun _ => none) (fun l => descOf l.g a.toNat) word sl (lanesOf s sl u) (atIssue s sl) =
      { copyMid s sl u word pre (fun l => descOf l.g a.toNat) k tm with contexts := C } := by
    have hmeets : (match lanesOf s sl u with
        | t :: _ => meetTeam (assembled s sl u word fun l => descOf l.g a.toNat) t.team
        | [] => assembled s sl u word fun l => descOf l.g a.toNat) = { copyMid s sl u word pre (fun l => descOf l.g a.toNat) k tm with contexts := C } := by
      cases hl : lanesOf s sl u with
      | nil => exact absurd hl harr.some'
      | cons t l =>
        have hteam : t.team = headTeam sl := hready.oneTeam t (List.mem_of_mem_filter (hl ▸ List.mem_cons_self : t ∈ lanesOf s sl u))
        simp only [hteam]
        exact hmeet
    rw [← copy_stays hready harr C, ← hmeets, ← perLane_arrives hready hvals]
    rfl
  have hteams := passedOn_only s sl u word pre fun l => descOf l.g a.toNat
  refine ⟨copyMid s sl u word pre (fun l => descOf l.g a.toNat) k tm, copyIssued s sl u word pre (fun l => descOf l.g a.toNat) k tm, ?_, ?_, ?_, rfl, ?_, ?_, ?_,
    copyMid_waits hready harr, ?_, ?_⟩
  · rw [hexec, teamOp, hbad, ← copy_progress hready harr hC, ← heff]
    exact congrArg _ (issueHold_ready hready st _)
  · rw [copyMid, addEngine_frame hteams]
  · have hrd : (word.extractLsb' 14 7).toNat = d.toNat := by rw [hw.rd]
    rw [← hrd]
    exact ⟨rfl, rfl, rfl, rfl, rfl, rfl, rfl, rfl, rfl, rfl, rfl, rfl, rfl, rfl⟩
  · have hgroups := leadsOf_groups r
    rw [comers, List.map_map]
    refine Eq.trans ?_ hgroups
    exact List.map_map.trans rfl
  · intro x hx
    obtain ⟨y, hy, rfl⟩ := List.mem_map.mp hx
    exact ⟨y, leadsOf_mem hy, rfl, rfl⟩
  · intro t ht th hth
    have hwait : th.wait = none := by
      obtain ⟨th', hth', -, hw', -⟩ := hready.live t (List.mem_of_mem_filter ht)
      obtain rfl : th = th' := Option.some.inj (hth.symm.trans hth')
      exact hw'
    have h := copyMid_thread (k := k) hready harr ((comers_mem hready (fun l => descOf l.g a.toNat) t).mpr (.inr ht)) hth
    rwa [passes_idle hwait] at h
  · obtain ⟨tm', htm', hrdv, -⟩ := copyMid_team (vals := fun l => descOf l.g a.toNat) (k := k) hready harr
    exact ⟨tm', by rw [hid]; exact htm', hrdv⟩
  · rw [copyMid, addEngine_frame hteams]

/-- Settles O43: the parts are the issue of the engine forms, the start, the pieces and the status word of an operation, and the host's answers. -/
theorem enginesMoveBytes : Obligations.EnginesMoveBytes :=
  ⟨copyStarts, groupStarts, operationStarts, copyMoves, beatArrives, statusDelivered, gatherPushes, bulkWorks, hostPages⟩

end Sys2Proof.Proofs
end

section
/-! SUPPORT. What an audit entry and a raised vector leave as they were, and the entry of an event that changes other trust registers first. -/

namespace Sys2Proof.Proofs

open Machine Claims Laws

/-! ### Registers of the root of trust beside the log (R66 to R74) -/

/-- From `a` to `b` only the log and its head's signature have changed. -/
def OnlyLog (a b : Trust) : Prop :=
  b = { a with audit := b.audit, nextSeq := b.nextSeq, lost := b.lost, overwritten := b.overwritten, headSeq := b.headSeq, headSig := b.headSig }

theorem OnlyLog.refl (a : Trust) : OnlyLog a a := rfl

theorem OnlyLog.trans {a b c : Trust} (h : OnlyLog a b) (k : OnlyLog b c) : OnlyLog a c := by
  unfold OnlyLog at *
  rw [k, h]

theorem signHead_log {a : Trust} {s : State} (h : OnlyLog a s.trust) : OnlyLog a (signHead s).trust := by
  unfold signHead
  split
  · exact h
  · exact h.trans rfl

theorem appendEntry_log {a : Trust} {s : State} (h : OnlyLog a s.trust) (source code ctx part : Nat) (detail : List Byte) :
    OnlyLog a (appendEntry s source code ctx part detail).trust := by
  by_cases hn : (s.trust.nextSeq % 1024 == 1023) = true <;> simp only [appendEntry, hn, if_true]
  · exact signHead_log (h.trans rfl)
  · exact h.trans rfl

theorem audit_log (s : State) (source code ctx part : Nat) (detail : List Byte) : OnlyLog s.trust (audit s source code ctx part detail).trust := by
  unfold audit
  split
  · exact appendEntry_log (.refl _) ..
  · refine appendEntry_log (appendEntry_log ?_ ..) ..
    exact rfl

section
variable (s : State) (source code ctx part : Nat) (detail : List Byte)

@[simp] theorem audit_meas : (audit s source code ctx part detail).trust.meas = s.trust.meas := by rw [audit_log]
@[simp] theorem audit_booted : (audit s source code ctx part detail).trust.booted = s.trust.booted := by rw [audit_log]
@[simp] theorem audit_epoch : (audit s source code ctx part detail).trust.epoch = s.trust.epoch := by rw [audit_log]
@[simp] theorem audit_hoPv : (audit s source code ctx part detail).trust.hoPv = s.trust.hoPv := by rw [audit_log]
@[simp] theorem audit_hoResult : (audit s source code ctx part detail).trust.hoResult = s.trust.hoResult := by rw [audit_log]
@[simp] theorem audit_hoBusy : (audit s source code ctx part detail).trust.hoBusy = s.trust.hoBusy := by rw [audit_log]
@[simp] theorem audit_hoLen : (audit s source code ctx part detail).trust.hoLen = s.trust.hoLen := by rw [audit_log]
@[simp] theorem audit_hoOut : (audit s source code ctx part detail).trust.hoOut = s.trust.hoOut := by rw [audit_log]
@[simp] theorem audit_ownX : (audit s source code ctx part detail).trust.ownX = s.trust.ownX := by rw [audit_log]
@[simp] theorem audit_ownSig : (audit s source code ctx part detail).trust.ownSig = s.trust.ownSig := by rw [audit_log]

@[simp] theorem audit_time : (audit s source code ctx part detail).time = s.time := by rw [audit_frame]
@[simp] theorem audit_seals : (audit s source code ctx part detail).seals = s.seals := by rw [audit_frame]
@[simp] theorem audit_versions : (audit s source code ctx part detail).versions = s.versions := by rw [audit_frame]
@[simp] theorem audit_scratch : (audit s source code ctx part detail).scratch = s.scratch := by rw [audit_frame]
@[simp] theorem audit_teams : (audit s source code ctx part detail).teams = s.teams := by rw [audit_frame]
@[simp] theorem audit_grids : (audit s source code ctx part detail).grids = s.grids := by rw [audit_frame]
@[simp] theorem audit_partIf : (audit s source code ctx part detail).partIf = s.partIf := by rw [audit_frame]
@[simp] theorem audit_partitions : (audit s source code ctx part detail).partitions = s.partitions := by rw [audit_frame]
@[simp] theorem audit_pavIf : (audit s source code ctx part detail).pavIf = s.pavIf := by rw [audit_frame]
@[simp] theorem audit_pavilions : (audit s source code ctx part detail).pavilions = s.pavilions := by rw [audit_frame]
@[simp] theorem audit_rotation : (audit s source code ctx part detail).rotation = s.rotation := by rw [audit_frame]
@[simp] theorem audit_frames : (audit s source code ctx part detail).frames = s.frames := by rw [audit_frame]

end

section
variable (s : State) (fn vec : Nat)

@[simp] theorem raiseVector_versions : (raiseVector s fn vec).versions = s.versions := by rw [raiseVector_frame]
@[simp] theorem raiseVector_scratch : (raiseVector s fn vec).scratch = s.scratch := by rw [raiseVector_frame]
@[simp] theorem raiseVector_teams : (raiseVector s fn vec).teams = s.teams := by rw [raiseVector_frame]
@[simp] theorem raiseVector_grids : (raiseVector s fn vec).grids = s.grids := by rw [raiseVector_frame]
@[simp] theorem raiseVector_partIf : (raiseVector s fn vec).partIf = s.partIf := by rw [raiseVector_frame]
@[simp] theorem raiseVector_partitions : (raiseVector s fn vec).partitions = s.partitions := by rw [raiseVector_frame]
@[simp] theorem raiseVector_pavIf : (raiseVector s fn vec).pavIf = s.pavIf := by rw [raiseVector_frame]
@[simp] theorem raiseVector_pavilions : (raiseVector s fn vec).pavilions = s.pavilions := by rw [raiseVector_frame]
@[simp] theorem raiseVector_rotation : (raiseVector s fn vec).rotation = s.rotation := by rw [raiseVector_frame]
@[simp] theorem raiseVector_frames : (raiseVector s fn vec).frames = s.frames := by rw [raiseVector_frame]

end

/-! ### Entries of events that change other registers first -/

/-- `x` has the log and the device time of `s`. -/
def SameLog (s x : State) : Prop :=
  x.trust.audit = s.trust.audit ∧ x.trust.nextSeq = s.trust.nextSeq ∧ x.trust.overwritten = s.trust.overwritten ∧ x.time = s.time

/-- An entry that is appended to the log of `s` is this event's, whatever else has changed before and after it. -/
theorem logs_of_sameLog {s x r : State} {source code ctx part : Nat} {detail : List Byte} (hx : SameLog s x)
    (ha : r.trust.audit = (audit x source code ctx part detail).trust.audit)
    (hn : r.trust.nextSeq = (audit x source code ctx part detail).trust.nextSeq) : Logs s r source code ctx part detail := by
  obtain ⟨h1, h2, h3, h4⟩ := hx
  have h := logs_audit x source code ctx part detail
  simpa only [Logs, chainHead, h1, h2, h3, h4, ha, hn] using h

theorem appendEntry_nextSeq (s : State) (source code ctx part : Nat) (detail : List Byte) :
    (appendEntry s source code ctx part detail).trust.nextSeq = s.trust.nextSeq + 1 := by
  obtain ⟨_, _, -, -, -, -, -, -, -, -, hn, -⟩ := appendEntry_head s source code ctx part detail
  exact hn

/-- An event takes a number of the log, and one more where it notes entries overwritten unread (R70). -/
theorem audit_nextSeq_le (s : State) (source code ctx part : Nat) (detail : List Byte) :
    s.trust.nextSeq + 1 ≤ (audit s source code ctx part detail).trust.nextSeq := by
  unfold audit
  split <;> simp [appendEntry_nextSeq]

/-- The one byte of a code. -/
theorem leBytes_one (x : BitVec 8) : leBytes 1 x.toNat = [x] := by simp [leBytes]

end Sys2Proof.Proofs
end

section
/-! SUPPORT. Measurements, signatures, the log port and the SPDM responder (O57; R67, R68, R70, R71). -/

namespace Sys2Proof.Proofs

open Machine Claims Laws

theorem exec_measExtend (s : State) : exec .measExtend s = .next (extendGo s) := rfl
theorem exec_lpcode (code : Word) (s : State) : exec (.lpcode code) s = .next (logPort s code.toNat) := rfl

/-- The registers with one extended, before the event is logged (R66). -/
def extended (s : State) (n : Nat) (digest : BitVec 512) : State :=
  { s with trust := { s.trust with meas := updAt n (fun old => Config.sha512 (leBytes 64 old.toNat ++ leBytes 64 digest.toNat)) s.trust.meas } }

theorem extend_eq (s : State) (n : Nat) (digest : BitVec 512) : extend s n digest = audit (extended s n digest) 2 0x50 0 0 (leBytes 1 n) := rfl

/-- A measurement register after its extension (R66). -/
theorem extend_meas (s : State) (n m : Nat) (digest : BitVec 512) : (extend s n digest).trust.meas[m]? =
    if n = m then s.trust.meas[m]?.map fun old => Config.sha512 (leBytes 64 old.toNat ++ leBytes 64 digest.toNat) else s.trust.meas[m]? := by
  simp only [extend_eq, audit_meas, extended, updAt_get]

/-- An extension logs event 0x0050 of its register (R67). -/
theorem extend_logs (s : State) (n : Nat) (digest : BitVec 512) : Logs s (extend s n digest) 2 0x50 0 0 (leBytes 1 n) :=
  logs_of_sameLog (x := extended s n digest) ⟨rfl, rfl, rfl, rfl⟩ rfl rfl

theorem measExtend_extends {s : State} {old : BitVec 512} (hsel : s.trust.extSel = 6 ∨ s.trust.extSel = 7) (hold : s.trust.meas[s.trust.extSel]? = some old) :
    ∃ r, exec .measExtend s = .next r ∧
      r.trust.meas[s.trust.extSel]? = some (Config.sha512 (leBytes 64 old.toNat ++ leBytes 64 s.trust.extDigest.toNat)) ∧
      (∀ n, n ≠ s.trust.extSel → r.trust.meas[n]? = s.trust.meas[n]?) ∧ Logs s r 2 0x50 0 0 (leBytes 1 s.trust.extSel) := by
  have hx : exec .measExtend s = .next (extend s s.trust.extSel s.trust.extDigest) := by
    rcases hsel with h | h <;> simp [exec_measExtend, extendGo, h]
  refine ⟨_, hx, ?_, fun n hn => ?_, extend_logs s s.trust.extSel s.trust.extDigest⟩
  · rw [extend_meas, if_pos rfl, hold, Option.map_some]
  · rw [extend_meas, if_neg hn.symm]

theorem lpcode_logs {s : State} {code : Word} (h : 0x100 ≤ code.toNat % 65536) :
    ∃ r, exec (.lpcode code) s = .next r ∧ Logs s r 1 (code.toNat % 65536) 0 0 s.trust.lpDetail ∧ r.trust.lpDetail = List.replicate 40 0#8 := by
  refine ⟨_, exec_lpcode code s, ?_⟩
  rw [logPort, if_neg (by omega)]
  exact ⟨logs_of_sameLog (x := s) ⟨rfl, rfl, rfl, rfl⟩ rfl rfl, rfl⟩

theorem trustRegisters : TrustRegisters := by
  refine ⟨fun s old hsel hold => measExtend_extends hsel hold, fun s hsel => ?_, fun s e l hl => ?_, fun s code h => lpcode_logs h, fun s code h => ?_⟩
  · have h6 : s.trust.extSel ≠ 6 := by omega
    have h7 : s.trust.extSel ≠ 7 := by omega
    simp [exec_measExtend, extendGo, h6, h7]
  · have hsign : exec .sigreq s = .next (signHead s) := rfl
    rw [hsign, signHead, hl]
  · rw [exec_lpcode, logPort, if_pos h]

/-- A request outside the six that the responder knows. -/
theorem answers_unsupported {code : Nat} (h : code ∉ ([0x84, 0xE1, 0xE3, 0x82, 0x83, 0xE0] : List Nat)) (s : State) :
    Answers (.unsupportedRequest code) s 0x7F [7#8] := by
  have hx : exec (.unsupportedRequest code) s = execUnsupportedRequest code s := rfl
  have hno : ([0x84, 0xE1, 0xE3, 0x82, 0x83, 0xE0] : List Nat).contains code = false := by simpa using h
  rw [Answers, hx, execUnsupportedRequest, hno]
  rfl

/-- Certificates (R68): slot 0 holds the chain, slots 1 to 7 are empty, and there are no more. -/
theorem answers_certificate (s : State) : Answers (.getCertificate 0) s 0x02 Config.certChain ∧
    (∀ n, 1 ≤ n → n ≤ 7 → Answers (.getCertificate n) s 0x02 []) ∧ ∀ n, 7 < n → Answers (.getCertificate n) s 0x7F [1#8] := by
  have hx : ∀ n, exec (.getCertificate n) s = execGetCertificate n s := fun _ => rfl
  refine ⟨rfl, fun n h1 h7 => ?_, fun n h => ?_⟩
  · have hn : n ≠ 0 := by omega
    simp [Answers, hx, execGetCertificate, answer, hn, h7]
  · have hn : n ≠ 0 := by omega
    have h7 : ¬ n ≤ 7 := by omega
    simp [Answers, hx, execGetCertificate, spdmError, answer, leBytes, hn, h7]

/-- Measurement blocks (R68): one for each register, all under index 255, and no other. -/
theorem answers_measurements (s : State) :
    (∀ n m, 1 ≤ n → n ≤ 8 → s.trust.meas[n - 1]? = some m →
      Answers (.getMeasurements n) s 0x60 (leBytes 64 m.toNat ++ leBytes 64 (Config.ed25519Sign 0 (leBytes 64 m.toNat)).toNat)) ∧
    Answers (.getMeasurements 255) s 0x60 (measBytes s ++ leBytes 64 (Config.ed25519Sign 0 (measBytes s)).toNat) ∧
    ∀ n, n = 0 ∨ 8 < n → n ≠ 255 → Answers (.getMeasurements n) s 0x7F [1#8] := by
  have hx : ∀ n, exec (.getMeasurements n) s = execGetMeasurements n s := fun _ => rfl
  refine ⟨fun n m h1 h8 hm => ?_, rfl, fun n hn h255 => ?_⟩
  · have h255 : n ≠ 255 := by omega
    simp [Answers, hx, execGetMeasurements, answer, h255, h1, h8, List.getD, hm]
  · have hno : ¬(1 ≤ n ∧ n ≤ 8) := by omega
    simp [Answers, hx, execGetMeasurements, spdmError, answer, leBytes, h255, hno]

theorem spdmAnswers : SpdmAnswers := by
  intro s
  obtain ⟨hcert, hempty, hno⟩ := answers_certificate s
  obtain ⟨hone, hall, hnone⟩ := answers_measurements s
  refine ⟨rfl, rfl, rfl, hcert, hempty, hno, fun _ => rfl, fun n nonce hn => ?_, hone, hall, hnone, fun code h => answers_unsupported h s⟩
  have hx : exec (.challenge n nonce) s = execChallenge n nonce s := rfl
  have h0 : n ≠ 0 := by omega
  simp [Answers, hx, execChallenge, spdmError, answer, leBytes, h0]

/-- Settles O57: an extension, a port entry and a signature each change their own registers, and every request gets one answer. -/
theorem rootOfTrust : Obligations.RootOfTrust := ⟨trustRegisters, spdmAnswers⟩

end Sys2Proof.Proofs
end

section
/-! SUPPORT. The device's reset and the fatal-error path (O51; R66, R237, R238). -/

namespace Sys2Proof.Proofs

open Machine Claims Laws

/-! ### The boot ROM (R66) -/

/-- From `a` to `b` the boot ROM has measured: only the root of trust differs, whose epoch and mark of the boot stay. -/
def OnlyMeasured (a b : State) : Prop := b = { a with trust := b.trust } ∧ b.trust.epoch = a.trust.epoch ∧ b.trust.booted = a.trust.booted

theorem OnlyMeasured.refl (a : State) : OnlyMeasured a a := ⟨rfl, rfl, rfl⟩

theorem OnlyMeasured.trans {a b c : State} (h : OnlyMeasured a b) (k : OnlyMeasured b c) : OnlyMeasured a c :=
  ⟨by rw [k.1, h.1], k.2.1.trans h.2.1, k.2.2.trans h.2.2⟩

theorem measure_measured (s : State) (n : Nat) (image : List Byte) : OnlyMeasured s (Machine.measure s n image) := by
  refine ⟨?_, audit_epoch .., audit_booted ..⟩
  rw [Machine.measure, extend, audit_frame]

theorem measure_nextSeq_le (s : State) (n : Nat) (image : List Byte) : s.trust.nextSeq + 1 ≤ (Machine.measure s n image).trust.nextSeq :=
  audit_nextSeq_le (extended s n (Config.sha512 image)) ..

theorem measures_nextSeq : ∀ (l : List Nat) (s : State), s.trust.nextSeq + l.length ≤ (l.foldl (fun s n => Machine.measure s n (Config.bootImage n)) s).trust.nextSeq
  | [], _ => Nat.le_refl _
  | n :: l, s => by
    have hone := measure_nextSeq_le s n (Config.bootImage n)
    have hrest := measures_nextSeq l (Machine.measure s n (Config.bootImage n))
    simp only [List.foldl_cons, List.length_cons]
    omega

/-- The boot ROM of a device that has not booted measures five components. -/
theorem bootRom_boots {s : State} (h : s.trust.booted = false) :
    OnlyMeasured { s with trust := { s.trust with booted := true } } (bootRom s) ∧ s.trust.nextSeq + 5 ≤ (bootRom s).trust.nextSeq := by
  have hx : bootRom s = (upto 5).foldl (fun s n => Machine.measure s n (Config.bootImage n)) { s with trust := { s.trust with booted := true } } := by
    rw [bootRom, h]
    rfl
  have hseq := measures_nextSeq (upto 5) { s with trust := { s.trust with booted := true } }
  rw [← hx] at hseq
  refine ⟨?_, hseq⟩
  rw [hx]
  exact foldl_related .refl .trans (fun s n => measure_measured s n _) _ _

/-! ### The reset -/

theorem exec_deviceReset (s : State) : exec .deviceReset s = .next (resetDevice s) := rfl
theorem exec_fatalError (cause : FatalCause) (s : State) : exec (.fatalError cause) s = .next (fatalError s (causeCode cause) (causeIsland cause)) := rfl

/-- The machine as a reset leaves it for the boot ROM: what R66 keeps, and the reset values of all else. -/
def atReset (s : State) : State :=
  { State.reset with
    agenda := s.agenda, fresh := s.fresh, nextId := s.nextId, mem := sealedMem s, hostMem := s.hostMem
    trust := { State.reset.trust with audit := s.trust.audit, nextSeq := s.trust.nextSeq, overwritten := s.trust.overwritten, epoch := s.trust.epoch + 1 }
    observe := { State.reset.observe with dump := s.observe.dump } }

theorem resetDevice_eq (s : State) : resetDevice s = bootRom (atReset s) := rfl

/-- A reset leaves the machine of `atReset` with five components measured. -/
theorem resetDevice_resets (s : State) : resetDevice s = { atReset s with trust := (resetDevice s).trust } ∧
    (resetDevice s).trust.epoch = s.trust.epoch + 1 ∧ (resetDevice s).trust.booted = true ∧ s.trust.nextSeq + 5 ≤ (resetDevice s).trust.nextSeq := by
  obtain ⟨⟨hframe, hepoch, hbooted⟩, hseq⟩ := bootRom_boots (s := atReset s) rfl
  rw [resetDevice_eq]
  exact ⟨hframe, hepoch, hbooted, hseq⟩

theorem sealedMem_none {s : State} (h : s.seals = []) : sealedMem s = s.mem := by rw [sealedMem, h, List.foldl_nil]

/-- What stands in HBM after a reset is of the lines and their seals alone. -/
theorem sealedMem_congr {a b : State} (hmem : b.mem = a.mem) (hseals : b.seals = a.seals) : sealedMem b = sealedMem a := by
  have hcipher : ∀ r : SealRec, r.cipher b = r.cipher a := fun r => by simp only [SealRec.cipher, memLine, hmem]
  simp only [sealedMem, hmem, hseals, hcipher]

/-! ### Fatal errors -/

/-- The islands at their lowest steps, the failed supply's held there (R16, R237). -/
def stopped (s : State) (cause island : Nat) : State :=
  (upto 16).foldl (fun s i => setStep s i (lowestStep i)) (if cause == 1 then setLimit s island 3 true else s)

theorem stopped_frame (s : State) (cause island : Nat) : stopped s cause island = { s with islands := (stopped s cause island).islands } := by
  have hstart : (if cause == 1 then setLimit s island 3 true else s) =
      { s with islands := (if cause == 1 then setLimit s island 3 true else s).islands } := by split <;> rfl
  have hfold : ∀ (l : List Nat) (x : State), l.foldl (fun s i => setStep s i (lowestStep i)) x =
      { x with islands := (l.foldl (fun s i => setStep s i (lowestStep i)) x).islands } :=
    foldl_related (R := fun a b => b = { a with islands := b.islands }) (fun _ => rfl) (fun h k => by rw [k, h]) fun _ _ => rfl
  rw [stopped, hfold, hstart]

/-- The device with its dump written and the event logged, before its reset. -/
def dumped (s : State) (cause island : Nat) : State :=
  let x := stopped s cause island
  audit { x with observe := { x.observe with dump := some (dumpOf x cause), ckRun := none } } 1 0x101 0 0 (leBytes 4 cause)

theorem fatalError_eq (s : State) (cause island : Nat) : fatalError s cause island = resetDevice (dumped s cause island) := rfl

theorem dumpHeader_length (s : State) (cause : Nat) : (dumpHeader s cause).length = 4096 := by
  simp only [dumpHeader, List.length_take, List.length_append, List.length_replicate]
  omega

/-- A dump starts with its format and its cause (R238). -/
theorem dumpHeader_starts (s : State) (cause : Nat) : (dumpHeader s cause).take 8 = leBytes 4 0x4644 ++ leBytes 4 cause := by
  simp only [dumpHeader, List.append_assoc, List.take_take]
  rw [← List.append_assoc, List.take_left' (by simp)]

theorem ctxPav_stopped (s : State) (cause island ctx : Nat) : ctxPav (stopped s cause island) ctx = ctxPav s ctx := by
  rw [stopped_frame]
  rfl

theorem fatalError_resets (s : State) (cause : FatalCause) : ∃ r, exec (.fatalError cause) s = .next r ∧ r.mem = sealedMem s ∧
    r.trust.epoch = s.trust.epoch + 1 ∧ r.contexts = [] ∧ r.teams = [] ∧
    ∃ d, r.observe.dump = some d ∧ d.header.length = 4096 ∧ d.header.take 8 = leBytes 4 0x4644 ++ leBytes 4 (causeCode cause) ∧
      d.grids = s.grids.filter (fun g => ctxPav s g.ctx == 0) ∧ d.views = s.views.filter (fun v => ctxPav s v.ctx == 0) ∧
      d.holds = s.holds.filter (fun h => ctxPav s h.ctx == 0) := by
  refine ⟨_, exec_fatalError cause s, ?_⟩
  rw [fatalError_eq]
  generalize causeCode cause = n
  generalize causeIsland cause = i
  obtain ⟨hframe, hepoch, -, -⟩ := resetDevice_resets (dumped s n i)
  have hstop := stopped_frame s n i
  have hmem : sealedMem (dumped s n i) = sealedMem s := by
    refine sealedMem_congr ?_ ?_ <;> simp only [dumped, audit_mem, audit_seals] <;> rw [hstop]
  have hold : (dumped s n i).trust.epoch = s.trust.epoch := by
    simp only [dumped, audit_epoch]
    rw [hstop]
  have hdump : (dumped s n i).observe.dump = some (dumpOf (stopped s n i) n) := by simp only [dumped, audit_observe]
  refine ⟨?_, by rw [hepoch, hold], by rw [hframe]; rfl, by rw [hframe]; rfl, dumpOf (stopped s n i) n, ?_, dumpHeader_length .., dumpHeader_starts .., ?_, ?_, ?_⟩
  · rw [hframe, ← hmem]
    rfl
  · rw [hframe, ← hdump]
    rfl
  all_goals
    simp only [dumpOf, ctxPav_stopped]
    rw [hstop]

theorem deviceResets : DeviceResets := by
  refine ⟨fun s => ?_, fatalError_resets⟩
  obtain ⟨hframe, hepoch, hbooted, hseq⟩ := resetDevice_resets s
  refine ⟨_, exec_deviceReset s, ?_, fun h => ?_, ?_, hepoch, hseq, hbooted, ?_⟩
  · rw [hframe]
    rfl
  · rw [hframe, ← sealedMem_none h]
    rfl
  · rw [hframe]
    rfl
  · rw [hframe]
    exact ⟨rfl, rfl, rfl, rfl, rfl, rfl, rfl, rfl, rfl⟩

/-- Settles O51: a reset is `atReset` measured by the boot ROM, and a fatal error is a reset of the device that holds its dump. -/
theorem resetAndFatalErrors : Obligations.ResetAndFatalErrors := deviceResets

end Sys2Proof.Proofs
end

section
/-! SUPPORT. Partition operations and leases of engines (O55; R49 to R55, R88). -/

namespace Sys2Proof.Proofs

open Machine Claims Laws

/-! ### Partitions after an update, and an operation's end (R52) -/

theorem part_id {s : State} {id : Nat} {p : Partition} (h : part? s id = some p) : p.id = id := by simpa using List.find?_some h

/-- The partition that an update names. -/
theorem part_modPart {s : State} {id : Nat} {p : Partition} (h : part? s id = some p) (f : Partition → Partition) (hf : ∀ q, (f q).id = q.id) :
    part? (modPart s id f) id = some (f p) := by
  simp only [part?] at h
  simp only [part?, modPart]
  rw [find_updWhere _ _ _ (by intro q; simp [hf]), h, Option.map_some, if_pos (List.find?_some h)]

theorem ownOf_part {s : State} {id : Nat} {p : Partition} (h : part? s id = some p) : ownOf s id = p.own := by rw [ownOf, h]

theorem lentOut_part {s : State} {id : Nat} {p : Partition} (h : part? s id = some p) : lentOut s id = p.lent.map Prod.fst := by rw [lentOut, h]

@[simp] theorem endPart_partitions (s : State) (op : Nat) (code : BitVec 8) : (endPart s op code).partitions = s.partitions := by
  simp only [endPart]
  split <;> simp

@[simp] theorem endPart_scratch (s : State) (op : Nat) (code : BitVec 8) : (endPart s op code).scratch = s.scratch := by
  simp only [endPart]
  split <;> simp

@[simp] theorem part_endPart (s : State) (op : Nat) (code : BitVec 8) (id : Nat) : part? (endPart s op code) id = part? s id := by simp [part?]

/-- The end of an operation over a state whose host side, log and PSEL are as before. -/
theorem endPart_ends {s x : State} {op : Nat} (h1 : 1 ≤ op) (h15 : op ≤ 15) (hhost : x.host = s.host) (htrust : x.trust = s.trust)
    (htime : x.time = s.time) (hpsel : x.partIf.psel = s.partIf.psel) (code : BitVec 8) : PartEnds s (endPart x op code) op code := by
  let y : State := { x with partIf := { x.partIf with result := code, busy := false, op := 0 } }
  have hx : endPart x op code = audit (raiseVector y 0 2) 0 (0x10 + op) 0 s.partIf.psel [code] := by
    simp only [endPart, h1, h15, decide_true, Bool.and_self, if_true, raiseVector_partIf, leBytes_one, ← hpsel]
    rfl
  rw [hx]
  refine ⟨by simp [y], by simp [y], rings_of_host (x := y) hhost (by simp), logs_of_trust (x := raiseVector y 0 2) (by simp [y, htrust]) (by simp [y, htime]) rfl⟩

/-! ### The checks of an operation -/

@[simp] theorem firstCode_nil : firstCode [] = none := rfl

@[simp] theorem firstCode_cons (b : Bool) (code : BitVec 8) (l : List (Bool × BitVec 8)) :
    firstCode ((b, code) :: l) = if b then some code else firstCode l := by
  cases b <;> rfl

theorem runPart_passes {s : State} {op : Nat} {checks : List (Bool × BitVec 8)} {eff : State → State} (hidle : s.partIf.busy = false)
    (h : firstCode checks = none) : runPart s op checks eff = eff s := by
  simp [runPart, hidle, h]

/-- An operation that fails a check ends with its code, and no partition changes. -/
theorem runPart_fails {s : State} {op : Nat} {checks : List (Bool × BitVec 8)} {eff : State → State} {code : BitVec 8} (hidle : s.partIf.busy = false)
    (h1 : 1 ≤ op) (h15 : op ≤ 15) (h : firstCode checks = some code) :
    (runPart s op checks eff).partitions = s.partitions ∧ PartEnds s (runPart s op checks eff) op code := by
  have hx : runPart s op checks eff = endPart s op code := by simp [runPart, hidle, h]
  rw [hx]
  exact ⟨endPart_partitions .., endPart_ends h1 h15 rfl rfl rfl rfl code⟩

theorem pselBad_false {s : State} (h : s.partIf.psel ≤ 64) : pselBad s = false := by simpa [pselBad] using h

theorem pselBad_true {s : State} (h : 64 < s.partIf.psel) : pselBad s = true := by simpa [pselBad] using h

theorem othersOwn_false_iff (s : State) : othersOwn s = false ↔ StagedFree s := by
  simp only [othersOwn, StagedFree, List.any_eq_false, Bool.and_eq_true, decide_eq_true_eq, not_and, Bool.not_eq_true]

theorem othersOwn_true {s : State} (h : ¬StagedFree s) : othersOwn s = true := by
  rw [← othersOwn_false_iff] at h
  simpa using h

theorem stagesOthers_false {s : State} (h : OnlyClusters s) : stagesOthers s = false := by
  obtain ⟨h1, h2, h3, h4⟩ := h
  simp [stagesOthers, h1, h2, h3, h4]

theorem partBusy_false {s : State} {id : Nat} (h : ∀ c ∈ s.contexts, c.part ≠ id) : partBusy s id = false := by simpa [partBusy] using h

theorem partBusy_true {s : State} {id : Nat} (h : ∃ c ∈ s.contexts, c.part = id) : partBusy s id = true := by simpa [partBusy] using h

theorem exec_define (s : State) : exec .define s = .next (partDefine s) := rfl
theorem exec_delete (s : State) : exec .delete s = .next (partDelete s) := rfl
theorem exec_grow (s : State) : exec .grow s = .next (partGrow s) := rfl
theorem exec_shrink (s : State) : exec .shrink s = .next (partShrink s) := rfl
theorem exec_lend (s : State) : exec .lend s = .next (partLend s) := rfl
theorem exec_reclaim (s : State) : exec .reclaim s = .next (partReclaim s) := rfl
theorem exec_reclaimComplete (s : State) : exec .reclaimComplete s = .next (settlePart s) := rfl
theorem exec_partitionRead (s : State) : exec .partitionRead s = .next (partRead s) := rfl

/-! ### Operations that end at once: DEFINE, DELETE, GROW and READ -/

theorem define_defines {s : State} (hsel : PselOk s) (hnew : part? s s.partIf.psel = none) (hfree : StagedFree s) (hc : s.partIf.staged.clusters ≠ [])
    (hs : s.partIf.staged.slices ≠ []) (hch : s.partIf.staged.channels ≠ []) :
    ∃ r, exec .define s = .next r ∧ r.partitions = s.partitions ++ [⟨s.partIf.psel, s.partIf.staged, []⟩] ∧ PartEnds s r 1 0 := by
  obtain ⟨hidle, hlow, hhigh⟩ := hsel
  have h0 : s.partIf.psel ≠ 0 := by omega
  have hlegal : s.partIf.staged.legal = true := by simp [Resources.legal, hc, hs, hch]
  let x : State := { s with partitions := s.partitions ++ [⟨s.partIf.psel, s.partIf.staged, []⟩] }
  have hx : exec .define s = .next (endPart x 1 0) := by
    rw [exec_define, partDefine, runPart_passes hidle]
    simp [pselBad_false hhigh, h0, hnew, (othersOwn_false_iff s).mpr hfree, hlegal]
  exact ⟨_, hx, endPart_partitions .., endPart_ends (x := x) (by omega) (by omega) rfl rfl rfl rfl 0⟩

theorem delete_deletes {s : State} {p : Partition} (hsel : PselOk s) (hp : part? s s.partIf.psel = some p) (hlent : p.lent = [])
    (hfree : ∀ c ∈ s.contexts, c.part ≠ s.partIf.psel) :
    ∃ r, exec .delete s = .next r ∧ r.partitions = s.partitions.filter (fun x => x.id ≠ s.partIf.psel) ∧ PartEnds s r 2 0 := by
  obtain ⟨hidle, hlow, hhigh⟩ := hsel
  let x : State := { s with partitions := s.partitions.filter fun x => x.id ≠ s.partIf.psel }
  have hx : exec .delete s = .next (endPart x 2 0) := by
    rw [exec_delete, partDelete, runPart_passes hidle]
    simp [pselBad_false hhigh, hp, lentOut_part hp, hlent, partBusy_false hfree]
  exact ⟨_, hx, endPart_partitions .., endPart_ends (x := x) (by omega) (by omega) rfl rfl rfl rfl 0⟩

theorem grow_adds {s : State} {p : Partition} (hsel : PselOk s) (hp : part? s s.partIf.psel = some p) (hfree : StagedFree s) (hhomes : rehomes s = false) :
    ∃ r, exec .grow s = .next r ∧ part? r s.partIf.psel = some { p with own := p.own.plus s.partIf.staged } ∧ PartEnds s r 3 0 := by
  obtain ⟨hidle, hlow, hhigh⟩ := hsel
  let x : State := modPart s s.partIf.psel fun x => { x with own := x.own.plus s.partIf.staged }
  have hx : exec .grow s = .next (endPart x 3 0) := by
    rw [exec_grow, partGrow, runPart_passes hidle]
    simp [pselBad_false hhigh, hp, (othersOwn_false_iff s).mpr hfree, hhomes]
  refine ⟨_, hx, ?_, endPart_ends (x := x) (by omega) (by omega) rfl rfl rfl rfl 0⟩
  rw [part_endPart]
  exact part_modPart hp (fun x => { x with own := x.own.plus s.partIf.staged }) fun _ => rfl

theorem read_shows {s : State} {p : Partition} (hsel : PselOk s) (hp : part? s s.partIf.psel = some p) :
    ∃ r, exec .partitionRead s = .next r ∧ r.partIf.staged = p.own ∧ PartEnds s r 7 0 := by
  obtain ⟨hidle, hlow, hhigh⟩ := hsel
  let x : State := { s with partIf := { s.partIf with staged := p.own } }
  have hx : exec .partitionRead s = .next (endPart x 7 0) := by
    rw [exec_partitionRead, partRead, runPart_passes hidle]
    · rw [ownOf_part hp]
    · simp [pselBad_false hhigh, hp]
  exact ⟨_, hx, by simp [endPart, x], endPart_ends (x := x) (by omega) (by omega) rfl rfl rfl rfl 0⟩

/-! ### Operations that take clusters from teams (R53, R54, R88) -/

/-- The state of an operation in progress. -/
def inProgress (s : State) (op : Nat) : State := { s with partIf := { s.partIf with busy := true, op := op } }

/-- No team stands on a cluster that an operation takes away. -/
def NoneLeaves (s : State) : Prop := ∀ t ∈ s.teams, t.state ≠ .preempting ∧ (onClusters (leavingClusters s) t = false ∨ t.state = .saved)

/-- An operation in progress that waits for no team completes. -/
theorem settlePart_finishes {s : State} (hbusy : s.partIf.busy = true) (h : NoneLeaves s) : settlePart s = finishPart s := by
  have hbound : s.teams.filter (fun t => t.state == .bound && onClusters (leavingClusters s) t) = [] := by
    rw [List.filter_eq_nil_iff]
    intro t ht
    obtain ⟨-, hoff | hsaved⟩ := h t ht
    · simp [hoff]
    · simp [hsaved]
  have hwaits : partWaits s = false := by
    simp only [partWaits, List.any_eq_false, Bool.or_eq_true, Bool.and_eq_true, beq_iff_eq, not_or, not_and]
    intro t ht
    obtain ⟨hpre, hoff | hsaved⟩ := h t ht
    · exact ⟨fun _ => by simp [hoff], fun hp => absurd hp hpre⟩
    · exact ⟨fun hk => by simp [Team.keepsAlloc, Team.onCore, hsaved] at hk, fun hp => absurd hp hpre⟩
  simp [settlePart, hbusy, hbound, hwaits]

/-- The clusters that an operation takes are among the staged ones. -/
theorem leaving_staged (s : State) : ∀ c ∈ leavingClusters s, c ∈ s.partIf.staged.clusters := by
  intro c hc
  simp only [leavingClusters] at hc
  split at hc
  · cases hc
  · split at hc
    · exact List.mem_of_mem_filter hc
    · exact hc

/-- An operation on clusters where no team stands completes as it starts. -/
theorem takeClusters_finishes {s : State} (h : NoTeamOn s) (op : Nat) {cl : List Nat} (hcl : ∀ c ∈ cl, c ∈ s.partIf.staged.clusters) :
    takeClusters s op cl [] = finishPart (inProgress s op) := by
  have hoff : ∀ l : List Nat, (∀ c ∈ l, c ∈ s.partIf.staged.clusters) → ∀ t ∈ s.teams, onClusters l t = false := by
    intro l hl t ht
    have hno := (h t ht).1
    simp only [onClusters, ← Bool.not_eq_true, List.contains_iff_mem] at hno ⊢
    exact fun hc => hno (hl _ hc)
  have hnone : s.teams.filter (fun t => onClusters cl t || ([] : List Nat).contains t.grid) = [] := by
    rw [List.filter_eq_nil_iff]
    intro t ht
    simp [hoff cl hcl t ht]
  have hx : takeClusters s op cl [] = settlePart (inProgress s op) := by
    simp only [takeClusters, hnone, List.foldl_nil]
    rfl
  rw [hx]
  exact settlePart_finishes rfl fun t ht => ⟨(h t ht).2, .inl (hoff _ (leaving_staged (inProgress s op)) t ht)⟩

theorem shrink_removes {s : State} {p : Partition} (hsel : PselOk s) (hp : part? s s.partIf.psel = some p) (hfree : StagedFree s) (hlent : p.lent = [])
    (hlegal : (p.own.minus s.partIf.staged).legal = true) (hhomes : rehomes s = false) (hgrids : s.grids = []) (hteams : NoTeamOn s) :
    ∃ r, exec .shrink s = .next r ∧ part? r s.partIf.psel = some { p with own := p.own.minus s.partIf.staged } ∧ PartEnds s r 4 0 := by
  obtain ⟨hidle, hlow, hhigh⟩ := hsel
  let f : Partition → Partition := fun x => { x with own := x.own.minus s.partIf.staged }
  let x : State := { modPart (inProgress s 4) s.partIf.psel f with engLeases := s.engLeases.filter fun l => !s.partIf.staged.engines.contains l.eng }
  have hx : exec .shrink s = .next (endPart x 4 0) := by
    rw [exec_shrink, partShrink, runPart_passes hidle]
    · simp only [hgrids, List.filter_nil, List.map_nil]
      rw [takeClusters_finishes hteams 4 fun _ h => h]
      rfl
    · simp [pselBad_false hhigh, hp, (othersOwn_false_iff s).mpr hfree, lentOut_part hp, hlent, ownOf_part hp, hlegal, hhomes, hgrids]
  refine ⟨_, hx, ?_, endPart_ends (x := x) (by omega) (by omega) rfl rfl rfl rfl 0⟩
  rw [part_endPart]
  exact part_modPart (s := inProgress s 4) hp f fun _ => rfl

/-- A cluster's cores keep no scratchpad byte. -/
theorem scrubClusters_scratch (s : State) (cl : List Nat) : ∀ x ∈ (scrubClusters s cl).scratch, clusterOf (x.1 / 262144) ∉ cl := by
  intro x hx hc
  have hcore : x.1 / 262144 ∉ coresOf cl := by simpa [scrubClusters] using (List.mem_filter.mp hx).2
  refine hcore ?_
  simp only [coresOf, List.mem_flatMap, List.mem_map, upto, List.mem_range, clusterOf] at hc ⊢
  exact ⟨_, hc, x.1 / 262144 % 4, Nat.mod_lt _ (by omega), by omega⟩

theorem lend_gives {s : State} {p q : Partition} (hsel : PselOk s) (hpeer : s.partIf.peer ≤ 64) (honly : OnlyClusters s)
    (hp : part? s s.partIf.psel = some p) (hq : part? s s.partIf.peer = some q)
    (hcl : ∀ c ∈ s.partIf.staged.clusters, c ∈ p.own.clusters ∧ pavCluster s c = false ∧ (∀ b, (c, b) ∉ p.lent) ∧ ∀ x ∈ s.partitions, (c, s.partIf.psel) ∉ x.lent)
    (hteams : NoTeamOn s) :
    ∃ r, exec .lend s = .next r ∧ part? r s.partIf.psel = some { p with lent := p.lent ++ s.partIf.staged.clusters.map fun c => (c, s.partIf.peer) } ∧
      PartEnds s r 5 0 ∧ ∀ x ∈ r.scratch, clusterOf (x.1 / 262144) ∉ s.partIf.staged.clusters := by
  obtain ⟨hidle, hlow, hhigh⟩ := hsel
  have hborrowed : (s.partIf.staged.clusters.any fun c => s.partitions.any fun x => x.lent.any fun y => y.1 == c && y.2 == s.partIf.psel) = false := by
    simp only [List.any_eq_false, List.any_eq_true, Bool.and_eq_true, beq_iff_eq, not_exists, not_and]
    rintro c hc x hx ⟨a, b⟩ hy rfl rfl
    exact (hcl _ hc).2.2.2 x hx hy
  have howned : (s.partIf.staged.clusters.any fun c => !(ownOf s s.partIf.psel).clusters.contains c) = false := by
    simp only [List.any_eq_false, ownOf_part hp]
    intro c hc
    simp [(hcl c hc).1]
  have hpav : s.partIf.staged.clusters.any (pavCluster s) = false := by
    simp only [List.any_eq_false]
    intro c hc
    simp [(hcl c hc).2.1]
  have hlent : s.partIf.staged.clusters.any (lentOut s s.partIf.psel).contains = false := by
    simp only [List.any_eq_false, lentOut_part hp]
    intro c hc
    simpa using fun b => (hcl c hc).2.2.1 b
  let f : Partition → Partition := fun x => { x with lent := x.lent ++ s.partIf.staged.clusters.map fun c => (c, s.partIf.peer) }
  let x : State := modPart (scrubClusters (inProgress s 5) s.partIf.staged.clusters) s.partIf.psel f
  have hx : exec .lend s = .next (endPart x 5 0) := by
    rw [exec_lend, partLend, runPart_passes hidle]
    · rw [takeClusters_finishes hteams 5 fun _ h => h]
      rfl
    · simp only [firstCode_cons, firstCode_nil, pselBad_false hhigh, show ¬ 64 < s.partIf.peer by omega, stagesOthers_false honly, hborrowed, hp, hq, howned, hpav, hlent]
      simp
  refine ⟨_, hx, ?_, endPart_ends (x := x) (by omega) (by omega) rfl rfl rfl rfl 0, ?_⟩
  · rw [part_endPart]
    exact part_modPart (s := scrubClusters (inProgress s 5) s.partIf.staged.clusters) hp f fun _ => rfl
  · rw [endPart_scratch]
    exact scrubClusters_scratch (inProgress s 5) s.partIf.staged.clusters

/-- The end of a RECLAIM: the staged clusters that were lent are lent no more. -/
theorem finishReclaim {s : State} {p : Partition} (hop : s.partIf.op = 6) (hp : part? s s.partIf.psel = some p) :
    part? (finishPart s) s.partIf.psel = some { p with lent := p.lent.filter fun x => !s.partIf.staged.clusters.contains x.1 } ∧
      PartEnds s (finishPart s) 6 0 := by
  let back := s.partIf.staged.clusters.filter (lentOut s s.partIf.psel).contains
  let f : Partition → Partition := fun p => { p with lent := p.lent.filter fun x => !back.contains x.1 }
  let x : State := modPart (scrubClusters s back) s.partIf.psel f
  have hx : finishPart s = endPart x 6 0 := by
    simp only [finishPart, hop]
    rfl
  have hlent : p.lent.filter (fun x => !back.contains x.1) = p.lent.filter fun x => !s.partIf.staged.clusters.contains x.1 := by
    refine List.filter_congr fun y hy => ?_
    have hin : y.1 ∈ lentOut s s.partIf.psel := by
      rw [lentOut_part hp]
      exact List.mem_map_of_mem hy
    simp [back, List.contains_eq_mem, hin]
  rw [hx]
  refine ⟨?_, endPart_ends (x := x) (by omega) (by omega) rfl rfl rfl rfl 0⟩
  rw [part_endPart, ← hlent]
  exact part_modPart (s := scrubClusters s back) hp f fun _ => rfl

theorem reclaim_returns {s : State} {p : Partition} (hsel : PselOk s) (honly : OnlyClusters s) (hp : part? s s.partIf.psel = some p)
    (hcl : ∀ c ∈ s.partIf.staged.clusters, c ∈ p.own.clusters) (hteams : NoTeamOn s) :
    ∃ r, exec .reclaim s = .next r ∧ part? r s.partIf.psel = some { p with lent := p.lent.filter fun x => !s.partIf.staged.clusters.contains x.1 } ∧
      PartEnds s r 6 0 := by
  obtain ⟨hidle, hlow, hhigh⟩ := hsel
  have howned : (s.partIf.staged.clusters.any fun c => !(ownOf s s.partIf.psel).clusters.contains c) = false := by
    simp only [List.any_eq_false, ownOf_part hp]
    intro c hc
    simp [hcl c hc]
  have hx : exec .reclaim s = .next (finishPart (inProgress s 6)) := by
    rw [exec_reclaim, partReclaim, runPart_passes hidle]
    · exact congrArg _ (takeClusters_finishes hteams 6 fun _ h => List.mem_of_mem_filter h)
    · simp only [firstCode_cons, firstCode_nil, pselBad_false hhigh, stagesOthers_false honly, hp, howned]
      simp
  obtain ⟨hpart, hends⟩ := finishReclaim (s := inProgress s 6) rfl hp
  exact ⟨_, hx, hpart, hends⟩

theorem partitionsChange : PartitionsChange :=
  ⟨fun _ hsel hnew hfree hc hs hch => define_defines hsel hnew hfree hc hs hch, fun _ _ hsel hp hlent hfree => delete_deletes hsel hp hlent hfree,
    fun _ _ hsel hp hfree hhomes => grow_adds hsel hp hfree hhomes,
    fun _ _ hsel hp hfree hlent hlegal hhomes hgrids hteams => shrink_removes hsel hp hfree hlent hlegal hhomes hgrids hteams,
    fun _ _ _ hsel _ hpeer honly hp hq hcl hteams => lend_gives hsel hpeer honly hp hq hcl hteams,
    fun _ _ hsel honly hp hcl hteams => reclaim_returns hsel honly hp hcl hteams, fun _ _ hsel hp => read_shows hsel hp⟩

/-- A team that is not saved holds an operation back, and the last one's save ends it. -/
theorem operationWaits : OperationWaits := by
  refine ⟨fun s t hbusy ht hpre hwhy hbound => ?_, fun s p hbusy hop hp hsaved => ?_⟩
  · have hnone : s.teams.filter (fun t => t.state == .bound && onClusters (leavingClusters s) t) = [] := by
      rw [List.filter_eq_nil_iff]
      intro u hu
      simp [hbound u hu]
    have hwaits : partWaits s = true := by
      rw [partWaits, List.any_eq_true]
      exact ⟨t, ht, by simp [hpre, hwhy]⟩
    simp [exec_reclaimComplete, settlePart, hbusy, hnone, hwaits]
  · have hx : exec .reclaimComplete s = .next (finishPart s) := by
      rw [exec_reclaimComplete, settlePart_finishes hbusy fun t ht => ⟨by simp [hsaved t ht], .inr (hsaved t ht)⟩]
    obtain ⟨hpart, hends⟩ := finishReclaim hop hp
    exact ⟨_, hx, hpart, hends⟩

/-! ### Operations that a check ends (R52) -/

/-- `i` is operation `op` of page 0x005 and ends with a code, no partition changed. -/
def Refuses (s : State) (i : Instr) (op : Nat) (code : BitVec 8) : Prop := ∃ r, exec i s = .next r ∧ r.partitions = s.partitions ∧ PartEnds s r op code

/-- The operations, with their codes of OP. -/
def partitionOps : List (Instr × Nat) := [(.define, 1), (.delete, 2), (.grow, 3), (.shrink, 4), (.lend, 5), (.reclaim, 6), (.partitionRead, 7)]

/-- PSEL above 64 is BAD_OP. -/
theorem refuses_badOp {s : State} (hidle : s.partIf.busy = false) (h : 64 < s.partIf.psel) : ∀ x ∈ partitionOps, Refuses s x.1 x.2 1 := by
  have hbad := pselBad_true h
  simp only [partitionOps, List.forall_mem_cons, List.not_mem_nil, false_imp_iff, implies_true, and_true]
  refine ⟨⟨_, exec_define s, ?_⟩, ⟨_, exec_delete s, ?_⟩, ⟨_, exec_grow s, ?_⟩, ⟨_, exec_shrink s, ?_⟩, ⟨_, exec_lend s, ?_⟩, ⟨_, exec_reclaim s, ?_⟩,
    ⟨_, exec_partitionRead s, ?_⟩⟩
  all_goals
    simp only [partDefine, partDelete, partGrow, partShrink, partLend, partReclaim, partRead]
    exact runPart_fails hidle (by omega) (by omega) (by simp [hbad, rBadOp])

/-- DEFINE of a defined partition is NO_PARTITION. -/
theorem refuses_defined {s : State} (hidle : s.partIf.busy = false) (hhigh : s.partIf.psel ≤ 64) (h : (part? s s.partIf.psel).isSome) : Refuses s .define 1 5 := by
  refine ⟨_, exec_define s, ?_⟩
  rw [partDefine]
  exact runPart_fails hidle (by omega) (by omega) (by simp [pselBad_false hhigh, h, rNoPart])

/-- DELETE, GROW, SHRINK and READ of an undefined partition are NO_PARTITION. -/
theorem refuses_undefined {s : State} (hidle : s.partIf.busy = false) (hhigh : s.partIf.psel ≤ 64) (h : part? s s.partIf.psel = none) :
    ∀ x ∈ ([(.delete, 2), (.grow, 3), (.shrink, 4), (.partitionRead, 7)] : List (Instr × Nat)), Refuses s x.1 x.2 5 := by
  have hok := pselBad_false hhigh
  simp only [List.forall_mem_cons, List.not_mem_nil, false_imp_iff, implies_true, and_true]
  refine ⟨⟨_, exec_delete s, ?_⟩, ⟨_, exec_grow s, ?_⟩, ⟨_, exec_shrink s, ?_⟩, ⟨_, exec_partitionRead s, ?_⟩⟩
  all_goals
    simp only [partDelete, partGrow, partShrink, partRead]
    exact runPart_fails hidle (by omega) (by omega) (by simp [hok, h, rNoPart])

/-- RECLAIM of clusters of an undefined partition is NO_PARTITION. -/
theorem refuses_reclaim {s : State} (hidle : s.partIf.busy = false) (hhigh : s.partIf.psel ≤ 64) (h : part? s s.partIf.psel = none) (honly : OnlyClusters s) :
    Refuses s .reclaim 6 5 := by
  refine ⟨_, exec_reclaim s, ?_⟩
  rw [partReclaim]
  exact runPart_fails hidle (by omega) (by omega) (by simp [pselBad_false hhigh, h, stagesOthers_false honly, rNoPart])

/-- A staged resource of another partition is CONFLICT. -/
theorem refuses_conflict {s : State} (hidle : s.partIf.busy = false) (hlow : 1 ≤ s.partIf.psel) (hhigh : s.partIf.psel ≤ 64) (h : ¬StagedFree s) :
    (part? s s.partIf.psel = none → Refuses s .define 1 2) ∧ ((part? s s.partIf.psel).isSome → Refuses s .grow 3 2 ∧ Refuses s .shrink 4 2) := by
  have hok := pselBad_false hhigh
  have h0 : s.partIf.psel ≠ 0 := by omega
  have hown := othersOwn_true h
  refine ⟨fun hp => ⟨_, exec_define s, ?_⟩, fun hp => ⟨⟨_, exec_grow s, ?_⟩, ⟨_, exec_shrink s, ?_⟩⟩⟩
  case refine_1 =>
    rw [partDefine]
    exact runPart_fails hidle (by omega) (by omega) (by simp [hok, h0, hp, hown, rConflict])
  all_goals
    have hsome : part? s s.partIf.psel ≠ none := Option.isSome_iff_ne_none.mp hp
    simp only [partGrow, partShrink]
    exact runPart_fails hidle (by omega) (by omega) (by simp [hok, hsome, hown, rConflict])

/-- DEFINE of no cluster is EMPTY. -/
theorem refuses_empty {s : State} (hidle : s.partIf.busy = false) (hlow : 1 ≤ s.partIf.psel) (hhigh : s.partIf.psel ≤ 64) (hnew : part? s s.partIf.psel = none)
    (hfree : StagedFree s) (h : s.partIf.staged.clusters = []) : Refuses s .define 1 3 := by
  have h0 : s.partIf.psel ≠ 0 := by omega
  have hillegal : s.partIf.staged.legal = false := by simp [Resources.legal, h]
  refine ⟨_, exec_define s, ?_⟩
  rw [partDefine]
  exact runPart_fails hidle (by omega) (by omega) (by simp [pselBad_false hhigh, h0, hnew, (othersOwn_false_iff s).mpr hfree, hillegal, rEmpty])

/-- DELETE of a partition with a cluster lent out is LENT, with a context BUSY. -/
theorem refuses_delete {s : State} {p : Partition} (hidle : s.partIf.busy = false) (hhigh : s.partIf.psel ≤ 64) (hp : part? s s.partIf.psel = some p) :
    (p.lent ≠ [] → Refuses s .delete 2 6) ∧ (p.lent = [] → (∃ c ∈ s.contexts, c.part = s.partIf.psel) → Refuses s .delete 2 4) := by
  have hok := pselBad_false hhigh
  refine ⟨fun h => ⟨_, exec_delete s, ?_⟩, fun h hbusy => ⟨_, exec_delete s, ?_⟩⟩ <;> rw [partDelete]
  · exact runPart_fails hidle (by omega) (by omega) (by simp [hok, hp, lentOut_part hp, h, rLent])
  · exact runPart_fails hidle (by omega) (by omega) (by simp [hok, hp, lentOut_part hp, h, partBusy_true hbusy, rBusy])

theorem partitionRefused : PartitionRefused := by
  intro s hidle i op code hmem h
  change Refuses s i op code
  by_cases h1 : code = 1
  · have hop : (i, op) ∈ partitionOps := by
      subst h1
      simpa [partitionOps] using hmem
    rw [if_pos h1] at h
    rw [h1]
    exact refuses_badOp hidle h _ hop
  rw [if_neg h1] at h
  obtain ⟨hlow, hhigh, h⟩ := h
  simp only [List.mem_cons, Prod.mk.injEq, List.not_mem_nil, or_false, h1, and_false, false_or] at hmem
  have hconf := refuses_conflict hidle hlow hhigh
  rcases hmem with ⟨rfl, rfl, rfl⟩ | ⟨rfl, rfl, rfl⟩ | ⟨rfl, rfl, rfl⟩ | ⟨rfl, rfl, rfl⟩ | ⟨rfl, rfl, rfl⟩ | ⟨rfl, rfl, rfl⟩ | ⟨rfl, rfl, rfl⟩ |
    ⟨rfl, rfl, rfl⟩ | ⟨rfl, rfl, rfl⟩ | ⟨rfl, rfl, rfl⟩ | ⟨rfl, rfl, rfl⟩ | ⟨rfl, rfl, rfl⟩ <;> simp at h
  · obtain ⟨p, hp⟩ := h
    exact refuses_defined hidle hhigh (by simp [hp])
  · exact (hconf h.2).1 h.1
  · obtain ⟨⟨p, hp⟩, hstaged⟩ := h
    exact ((hconf hstaged).2 (by simp [hp])).1
  · obtain ⟨⟨p, hp⟩, hstaged⟩ := h
    exact ((hconf hstaged).2 (by simp [hp])).2
  · obtain ⟨hnew, hfree, hempty⟩ := h
    exact refuses_empty hidle hlow hhigh hnew hfree hempty
  · obtain ⟨⟨p, hp, hlent⟩, hbusy⟩ := h
    exact (refuses_delete hidle hhigh hp).2 hlent hbusy
  · obtain ⟨p, hp, hlent⟩ := h
    exact (refuses_delete hidle hhigh hp).1 hlent
  · exact refuses_undefined hidle hhigh h (.delete, 2) (by simp)
  · exact refuses_undefined hidle hhigh h (.grow, 3) (by simp)
  · exact refuses_undefined hidle hhigh h (.shrink, 4) (by simp)
  · exact refuses_reclaim hidle hhigh h.1 h.2
  · exact refuses_undefined hidle hhigh h (.partitionRead, 7) (by simp)

/-! ### Leases of engines (R55) -/

theorem exec_bind (s : State) : exec .bind s = .next (bindEngine s) := rfl
theorem exec_leaseRelease (s : State) : exec .leaseRelease s = .next (releaseEngine s) := rfl
theorem exec_leaseExpiry (eng : Nat) (s : State) : exec (.leaseExpiry eng) s = execLeaseExpiry eng s := rfl

/-- The engine may be leased to the context: both numbers are legal and the context's partition owns the engine. -/
theorem bindEngine_owned {s : State} {c : Context} (he : s.partIf.eng < 64) (hx : s.partIf.ectx < 1024) (hc : ctx? s s.partIf.ectx = some c)
    (hown : s.partIf.eng ∈ (ownOf s c.part).engines) : bindEngine s =
      if (leaseOf s s.partIf.eng).any fun l => l.ctx ≠ s.partIf.ectx then endLease s rBusy
      else endLease { s with engLeases := ⟨s.partIf.eng, s.partIf.ectx, s.time + s.partIf.lease.toNat⟩ :: s.engLeases.filter fun l => l.eng ≠ s.partIf.eng } 0 := by
  have he' : ¬ 64 ≤ s.partIf.eng := by omega
  have hx' : ¬ 1024 ≤ s.partIf.ectx := by omega
  simp [bindEngine, he', hx', hc, hown]

/-- A lease of an engine leaves the others'. -/
theorem mem_otherLeases {l : List EngLease} {e : Nat} {x : EngLease} (h : x.eng ≠ e) : x ∈ l.filter (fun l => l.eng ≠ e) ↔ x ∈ l := by
  simp [h]

theorem bind_leases {s : State} {c : Context} (he : s.partIf.eng < 64) (hx : s.partIf.ectx < 1024) (hc : ctx? s s.partIf.ectx = some c)
    (hown : s.partIf.eng ∈ (ownOf s c.part).engines) (hfree : ∀ l, leaseOf s s.partIf.eng = some l → l.ctx = s.partIf.ectx) :
    ∃ r, exec .bind s = .next r ∧ r.partIf.eresult = 0 ∧
      (0 < s.partIf.lease.toNat → leaseOf r s.partIf.eng = some ⟨s.partIf.eng, s.partIf.ectx, s.time + s.partIf.lease.toNat⟩) ∧
      ∀ l, l.eng ≠ s.partIf.eng → (l ∈ r.engLeases ↔ l ∈ s.engLeases) := by
  have hno : ((leaseOf s s.partIf.eng).any fun l => l.ctx ≠ s.partIf.ectx) = false := by
    cases hl : leaseOf s s.partIf.eng with
    | none => rfl
    | some l => simp [hfree l hl]
  refine ⟨_, exec_bind s, ?_⟩
  rw [bindEngine_owned he hx hc hown, hno]
  refine ⟨rfl, fun hpos => ?_, fun l hl => ?_⟩
  · simp [leaseOf, endLease, hpos]
  · have hne : l ≠ ⟨s.partIf.eng, s.partIf.ectx, s.time + s.partIf.lease.toNat⟩ := fun h => hl (by rw [h])
    exact List.mem_cons.trans ((or_iff_right hne).trans (mem_otherLeases hl))

theorem bind_busy {s : State} {c : Context} {l : EngLease} (he : s.partIf.eng < 64) (hx : s.partIf.ectx < 1024) (hc : ctx? s s.partIf.ectx = some c)
    (hown : s.partIf.eng ∈ (ownOf s c.part).engines) (hl : leaseOf s s.partIf.eng = some l) (hother : l.ctx ≠ s.partIf.ectx) :
    exec .bind s = .next { s with partIf := { s.partIf with eresult := 4 } } := by
  have hany : ((leaseOf s s.partIf.eng).any fun l => l.ctx ≠ s.partIf.ectx) = true := by simp [hl, hother]
  rw [exec_bind, bindEngine_owned he hx hc hown, hany]
  rfl

theorem release_frees {s : State} (he : s.partIf.eng < 64) (hx : s.partIf.ectx < 1024) : ∃ r, exec .leaseRelease s = .next r ∧ r.partIf.eresult = 0 ∧
    leaseOf r s.partIf.eng = none ∧ ∀ l, l.eng ≠ s.partIf.eng → (l ∈ r.engLeases ↔ l ∈ s.engLeases) := by
  have he' : ¬ 64 ≤ s.partIf.eng := by omega
  have hx' : ¬ 1024 ≤ s.partIf.ectx := by omega
  have hrel : exec .leaseRelease s = .next (endLease { s with engLeases := s.engLeases.filter fun l => l.eng ≠ s.partIf.eng } 0) := by
    simp [exec_leaseRelease, releaseEngine, he', hx']
  refine ⟨_, hrel, rfl, ?_, fun l hl => mem_otherLeases hl⟩
  simp only [leaseOf, endLease, List.find?_eq_none, List.mem_filter]
  intro l hl
  simp_all

theorem enginesLeased : EnginesLeased := by
  refine ⟨fun s c he hx hc hown => ⟨fun hfree => bind_leases he hx hc hown hfree, fun l hl hother => bind_busy he hx hc hown hl hother⟩,
    fun s he hx => release_frees he hx, fun s eng => ⟨_, exec_leaseExpiry eng s, fun l => ?_⟩⟩
  simp only [List.mem_filter, Bool.not_eq_true', Bool.and_eq_false_iff, beq_eq_false_iff_ne, decide_eq_false_iff_not, not_and_or]

/-- Settles O55: each of its four parts by the theorem of its name. -/
theorem partitionsAndLeases : Obligations.PartitionsAndLeases := ⟨partitionsChange, partitionRefused, operationWaits, enginesLeased⟩

end Sys2Proof.Proofs
end

section
/-! SUPPORT. Pavilions, the frame queue with its scrub, and key rotation (O56; R56 to R65). -/

namespace Sys2Proof.Proofs

open Machine Claims Laws

/-! ### Pavilions after an update, and an operation's end (R57) -/

theorem pav_id {s : State} {id : Nat} {p : Pavilion} (h : pav? s id = some p) : p.id = id := by simpa using List.find?_some h

/-- The first entry that an update touches, where the update keeps what it is found by. -/
theorem find_updWhere_same {α : Type} {q : α → Bool} {f : α → α} (hf : ∀ a, q a = true → q (f a) = true) : ∀ l : List α, (updWhere q f l).find? q = (l.find? q).map f
  | [] => rfl
  | a :: l => by
    have ih := find_updWhere_same hf l
    cases ha : q a with
    | true => simp [updWhere, ha, hf a ha]
    | false =>
      have hskip : updWhere q f (a :: l) = a :: updWhere q f l := by simp [updWhere, ha]
      rw [hskip, List.find?_cons_of_neg (by simp [ha]), List.find?_cons_of_neg (by simp [ha]), ih]

/-- The pavilion that an update names, where the update keeps its number. -/
theorem pav_modPav {s : State} {id : Nat} {p : Pavilion} (h : pav? s id = some p) {f : Pavilion → Pavilion} (hf : ∀ q, q.id = id → (f q).id = id) :
    pav? (modPav s id f) id = some (f p) := by
  have hfind := find_updWhere_same (q := fun q : Pavilion => q.id == id) (f := f) (fun q hq => by simpa using hf q (by simpa using hq)) s.pavilions
  rw [pav?, modPav, hfind, ← pav?, h, Option.map_some]

@[simp] theorem endPav_pavilions (s : State) (op : Nat) (code : BitVec 8) : (endPav s op code).pavilions = s.pavilions := by simp [endPav]
@[simp] theorem endPav_mem (s : State) (op : Nat) (code : BitVec 8) : (endPav s op code).mem = s.mem := by simp [endPav]
@[simp] theorem endPav_rotation (s : State) (op : Nat) (code : BitVec 8) : (endPav s op code).rotation = s.rotation := by simp [endPav]
@[simp] theorem pav_endPav (s : State) (op : Nat) (code : BitVec 8) (id : Nat) : pav? (endPav s op code) id = pav? s id := by simp [pav?]

/-- The end of an operation over a state whose log and PVSEL are as before. -/
theorem endPav_ends {s x : State} (hlog : SameLog s x) (hsel : x.pavIf.sel = s.pavIf.sel) {p : Pavilion} (hp : pav? x s.pavIf.sel = some p) (op : Nat)
    (code : BitVec 8) : PavEnds s (endPav x op code) op p.part code := by
  let y : State := { x with pavIf := { x.pavIf with result := code, busy := false, op := 0 } }
  rw [← hsel] at hp
  have hx : endPav x op code = audit y 0 (0x20 + op) 0 p.part (leBytes 1 s.pavIf.sel) := by
    rw [← hsel]
    simp only [endPav, hp]
    rfl
  rw [hx]
  refine ⟨by simp [y], by simp [y], logs_of_sameLog (x := y) hlog rfl rfl⟩

/-! ### The checks of an operation -/

theorem runPav_passes {s : State} {op : Nat} {checks : List (Bool × BitVec 8)} {eff : State → State} (hidle : s.pavIf.busy = false)
    (h : firstCode checks = none) : runPav s op checks eff = eff s := by
  simp [runPav, hidle, h]

/-- An operation that fails a check ends with its code, and no pavilion changes. -/
theorem runPav_fails {s : State} {op : Nat} {checks : List (Bool × BitVec 8)} {eff : State → State} {code : BitVec 8} {p : Pavilion}
    (hidle : s.pavIf.busy = false) (hp : pav? s s.pavIf.sel = some p) (h : firstCode checks = some code) :
    PavEnds s (runPav s op checks eff) op p.part code ∧ (runPav s op checks eff).pavilions = s.pavilions := by
  have hx : runPav s op checks eff = endPav s op code := by simp [runPav, hidle, h]
  rw [hx]
  exact ⟨endPav_ends ⟨rfl, rfl, rfl, rfl⟩ rfl hp op code, endPav_pavilions ..⟩

theorem pvselBad_false {s : State} (h1 : 1 ≤ s.pavIf.sel) (h64 : s.pavIf.sel < 64) : pvselBad s = false := by
  have h0 : s.pavIf.sel ≠ 0 := by omega
  simp [pvselBad, h0, h64]

theorem exec_pavilionCreate (s : State) : exec .pavilionCreate s = .next (pavCreate s) := rfl
theorem exec_assign (s : State) : exec .assign s = .next (pavAssign s) := rfl
theorem exec_unassign (s : State) : exec .unassign s = .next (pavUnassign s) := rfl
theorem exec_addframe (s : State) : exec .addframe s = .next (pavAddframe s) := rfl
theorem exec_delframe (s : State) : exec .delframe s = .next (pavDelframe s) := rfl
theorem exec_pavilionDestroy (s : State) : exec .pavilionDestroy s = .next (pavDestroy s) := rfl

/-! ### CREATE -/

/-- A pavilion as CREATE makes it. -/
def newPavilion (s : State) : Pavilion :=
  { id := s.pavIf.sel, part := s.pavIf.part, ways := s.pavIf.ways, cores := [], frames := [], key := Config.freshKey s.fresh, secret := none
    src := .live, dst := .none, transfer := none, digest := 0, copyKind := false, epoch := 0, copyPrepared := false }

/-- The state with the new pavilion. -/
def created (s : State) : State := { s with pavilions := s.pavilions ++ [newPavilion s] }

theorem create_creates {s : State} {q : Partition} (hidle : s.pavIf.busy = false) (h1 : 1 ≤ s.pavIf.sel) (h64 : s.pavIf.sel < 64) (hpart : s.pavIf.part < 65536)
    (hq : part? s s.pavIf.part = some q) (hnew : pav? s s.pavIf.sel = none) (hways : s.pavIf.ways ≠ 0) (hok : s.pavIf.waysBad = false)
    (hcount : bitCount (reservedWays s s.pavIf.part s.pavIf.ways) ≤ 12) :
    exec .pavilionCreate s = .next (endPav (created s) 1 0) := by
  have hpart' : ¬ 65536 ≤ s.pavIf.part := by omega
  have hcount' : ¬ 12 < bitCount (reservedWays s s.pavIf.part s.pavIf.ways) := by omega
  rw [exec_pavilionCreate, pavCreate, runPav_passes hidle]
  · rfl
  · simpa [pvselBad_false h1 h64, hpart', hok, hq, hnew, hcount'] using hways

theorem pav_created {s : State} (hnew : pav? s s.pavIf.sel = none) : pav? (created s) s.pavIf.sel = some (newPavilion s) := by
  simp only [pav?, created] at hnew ⊢
  rw [List.find?_append, hnew]
  simp [newPavilion]

/-! ### ASSIGN and UNASSIGN -/

/-- A pavilion with other masks on a core. -/
def withMasks (core : Nat) (n : BitVec 4 × BitVec 32) (p : Pavilion) : Pavilion :=
  { p with cores := p.cores.filter (fun x => x.1 ≠ core) ++ (if n.1 == 0 && n.2 == 0 then [] else [(core, n.1.toNat, n.2.toNat)]) }

theorem masksOf_withMasks (core k : Nat) (n : BitVec 4 × BitVec 32) (p : Pavilion) :
    masksOf (withMasks core n p) k = if k = core then (n.1.toNat, n.2.toNat) else masksOf p k := by
  simp only [masksOf, withMasks, List.find?_append, List.find?_filter]
  by_cases hk : k = core
  · subst hk
    have hnone : p.cores.find? (fun x => decide ((decide (x.1 ≠ k) = true) ∧ (x.1 == k) = true)) = none := by
      rw [List.find?_eq_none]
      intro x _
      simp
    rw [hnone, if_pos rfl]
    by_cases hn : (n.1 == 0 && n.2 == 0) = true
    · obtain ⟨h1, h2⟩ : n.1 = 0 ∧ n.2 = 0 := by simpa using hn
      simp [h1, h2]
    · rw [if_neg hn]
      simp
  · have hsame : p.cores.find? (fun x => decide ((decide (x.1 ≠ core) = true) ∧ (x.1 == k) = true)) = p.cores.find? fun x => x.1 == k := by
      congr 1
      funext x
      by_cases hx : x.1 = k
      · simp [hx, hk]
      · simp [hx]
    have htail : (if n.1 == 0 && n.2 == 0 then [] else [(core, n.1.toNat, n.2.toNat)]).find? (fun x => x.1 == k) = none := by
      split <;> simp [Ne.symm hk]
    rw [hsame, htail, if_neg hk, Option.or_none]

/-- The masks of the named core become `f` of the old ones, and no other core's masks change. -/
theorem setMasks_masks {s : State} {p : Pavilion} (hp : pav? s s.pavIf.sel = some p) (f : BitVec 4 → BitVec 32 → BitVec 4 × BitVec 32) :
    let n := f (BitVec.ofNat 4 (masksOf p s.pavIf.core).1) (BitVec.ofNat 32 (masksOf p s.pavIf.core).2)
    pav? (setMasks s f) s.pavIf.sel = some (withMasks s.pavIf.core n p) :=
  pav_modPav hp (f := fun p => withMasks s.pavIf.core (f (BitVec.ofNat 4 (masksOf p s.pavIf.core).1) (BitVec.ofNat 32 (masksOf p s.pavIf.core).2)) p) fun _ h => h

section
variable {s : State} {p : Pavilion} (hidle : s.pavIf.busy = false) (h1 : 1 ≤ s.pavIf.sel) (h64 : s.pavIf.sel < 64) (hcore : s.pavIf.core < 1024)
  (hquad : s.pavIf.quad < 16) (hp : pav? s s.pavIf.sel = some p)

include h1 h64 hcore hquad in
theorem unitsBad_false : unitsBad s = false := by
  have hcore' : ¬ 1024 ≤ s.pavIf.core := by omega
  have hquad' : ¬ 16 ≤ s.pavIf.quad := by omega
  simp [unitsBad, pvselBad_false h1 h64, hcore', hquad']

include hidle h1 h64 hcore hquad hp

theorem assign_adds (hown : coreOwned s = true) (hfree : unitsTaken s = false) (hout : outsiders s = false) (hbank : s.pavIf.bank < 2 ^ 32)
    (hm1 : (masksOf p s.pavIf.core).1 < 16) (hm2 : (masksOf p s.pavIf.core).2 < 2 ^ 32) :
    ∃ r, exec .assign s = .next r ∧ PavEnds s r 2 p.part 0 ∧ ∃ p', pav? r s.pavIf.sel = some p' ∧
      masksOf p' s.pavIf.core = ((masksOf p s.pavIf.core).1 ||| s.pavIf.quad, (masksOf p s.pavIf.core).2 ||| s.pavIf.bank) ∧
      ∀ k, k ≠ s.pavIf.core → masksOf p' k = masksOf p k := by
  let f : BitVec 4 → BitVec 32 → BitVec 4 × BitVec 32 := fun q b => (q ||| BitVec.ofNat 4 s.pavIf.quad, b ||| BitVec.ofNat 32 s.pavIf.bank)
  have hx : exec .assign s = .next (endPav (setMasks s f) 2 0) := by
    rw [exec_assign, pavAssign, runPav_passes hidle]
    simp [unitsBad_false h1 h64 hcore hquad, hp, hown, hfree, hout]
  have hset := setMasks_masks hp f
  refine ⟨_, hx, endPav_ends (x := setMasks s f) ⟨rfl, rfl, rfl, rfl⟩ rfl hset 2 0, _, by rw [pav_endPav, hset], ?_, fun k hk => ?_⟩
  · rw [masksOf_withMasks, if_pos rfl]
    simp only [f, BitVec.toNat_or, BitVec.toNat_ofNat, Nat.mod_eq_of_lt hbank, Nat.mod_eq_of_lt hm2, Nat.mod_eq_of_lt (show s.pavIf.quad < 2 ^ 4 from hquad),
      Nat.mod_eq_of_lt (show (masksOf p s.pavIf.core).1 < 2 ^ 4 from hm1)]
  · rw [masksOf_withMasks, if_neg hk]

/-- ASSIGN of a core that is not the partition's own, or of a unit of another pavilion, is CONFLICT. -/
theorem assign_conflict (h : coreOwned s = false ∨ unitsTaken s = true) :
    ∃ r, exec .assign s = .next r ∧ PavEnds s r 2 p.part 2 ∧ r.pavilions = s.pavilions := by
  refine ⟨_, exec_assign s, ?_⟩
  rw [pavAssign]
  refine runPav_fails hidle hp ?_
  rcases h with h | h <;> simp [unitsBad_false h1 h64 hcore hquad, hp, h, rConflict]

/-- ASSIGN of a quadrant on which a team from outside is resident is BUSY. -/
theorem assign_busy (hown : coreOwned s = true) (hfree : unitsTaken s = false) (hout : outsiders s = true) :
    ∃ r, exec .assign s = .next r ∧ PavEnds s r 2 p.part 4 ∧ r.pavilions = s.pavilions := by
  refine ⟨_, exec_assign s, ?_⟩
  rw [pavAssign]
  refine runPav_fails hidle hp ?_
  simp [unitsBad_false h1 h64 hcore hquad, hp, hown, hfree, hout, rBusy]

theorem unassign_removes :
    ∃ r, exec .unassign s = .next r ∧ PavEnds s r 3 p.part 0 ∧ ∃ p', pav? r s.pavIf.sel = some p' ∧
      masksOf p' s.pavIf.core = ((BitVec.ofNat 4 (masksOf p s.pavIf.core).1 &&& ~~~BitVec.ofNat 4 s.pavIf.quad).toNat,
        (BitVec.ofNat 32 (masksOf p s.pavIf.core).2 &&& ~~~BitVec.ofNat 32 s.pavIf.bank).toNat) ∧ ∀ k, k ≠ s.pavIf.core → masksOf p' k = masksOf p k := by
  let f : BitVec 4 → BitVec 32 → BitVec 4 × BitVec 32 := fun q b => (q &&& ~~~BitVec.ofNat 4 s.pavIf.quad, b &&& ~~~BitVec.ofNat 32 s.pavIf.bank)
  have hx : exec .unassign s = .next (endPav (setMasks s f) 3 0) := by
    rw [exec_unassign, pavUnassign, runPav_passes hidle]
    simp [unitsBad_false h1 h64 hcore hquad, hp]
  have hset := setMasks_masks hp f
  refine ⟨_, hx, endPav_ends (x := setMasks s f) ⟨rfl, rfl, rfl, rfl⟩ rfl hset 3 0, _, by rw [pav_endPav, hset], ?_, fun k hk => ?_⟩
  · rw [masksOf_withMasks, if_pos rfl]
  · rw [masksOf_withMasks, if_neg hk]

end

/-! ### Zeros in memory (R62, R65) -/

/-- A byte that a filter by address keeps reads as before, another one as unlisted. -/
theorem read_filter (keep : Nat → Bool) (a : Nat) : ∀ m : Memory, Memory.wf m = true →
    Memory.read (m.filter fun x => keep x.1) a = if keep a then Memory.read m a else unlistedByte
  | [], _ => by simp [Memory.read]
  | c :: m, h => by
    obtain ⟨-, -, htail⟩ := (wf_cons c m).mp h
    have habove := wf_above h
    have ih := read_filter keep a m htail
    have hbelow : a ≤ c.1 → Memory.read (m.filter fun x => keep x.1) a = unlistedByte := fun ha =>
      read_below fun d hd => Nat.lt_of_le_of_lt ha (habove d (List.mem_of_mem_filter hd))
    by_cases hc : keep c.1 = true
    · rw [List.filter_cons, if_pos hc]
      by_cases hac : c.1 = a
      · simp [Memory.read, hac, hac ▸ hc]
      · simp only [Memory.read, beq_iff_eq, hac, if_false, ih]
        split <;> simp
    · rw [List.filter_cons, if_neg hc, ih]
      by_cases hac : c.1 = a
      · simp [hac ▸ hc]
      · by_cases hlt : a < c.1
        · rw [← ih, hbelow (by omega)]
          simp [Memory.read, hac, hlt]
        · simp [Memory.read, hac, hlt]

theorem read_zeroMem {m : Memory} (h : Memory.wf m = true) (base size a : Nat) :
    Memory.read (zeroMem m base size) a = if base ≤ a ∧ a < base + size then 0 else Memory.read m a := by
  have hx := read_filter (fun a => !(decide (base ≤ a) && decide (a < base + size))) a m h
  rw [show zeroMem m base size = m.filter fun x => !(decide (base ≤ x.1) && decide (x.1 < base + size)) from rfl, hx]
  by_cases hin : base ≤ a ∧ a < base + size
  · simp [hin, unlistedByte]
  · rw [if_neg hin, if_pos]
    simp only [Bool.not_eq_true', Bool.and_eq_false_iff, decide_eq_false_iff_not]
    omega

/-! ### ADDFRAME (R62) -/

theorem mem_namedFrames (s : State) (f : Nat) : f ∈ namedFrames s ↔ s.pavIf.frame ≤ f ∧ f < s.pavIf.frame + s.pavIf.count := by
  simp only [namedFrames, List.mem_map, upto, List.mem_range]
  exact ⟨fun ⟨i, hi, h⟩ => by omega, fun h => ⟨f - s.pavIf.frame, by omega, by omega⟩⟩

/-- The named frames are in reach of the pavilion's partition, and on no pavilion's list. -/
def FramesFit (s : State) (p : Pavilion) : Prop :=
  ∀ f ∈ namedFrames s, f * 65536 < deviceBytes ∧ meetsReserved s (f * 65536) 65536 = false ∧ f % 256 ∈ (ownOf s p.part).channels ∧ pavOfPa s (f * 65536) = 0 ∧
    ∀ q ∈ s.pavilions, q.id ≠ 0

/-- An address of no pavilion is on no pavilion's list. -/
theorem unlisted_of_pavOfPa {s : State} {f : Nat} (h : pavOfPa s (f * 65536) = 0) (hid : ∀ q ∈ s.pavilions, q.id ≠ 0) :
    (s.pavilions.any fun p => p.frames.any fun x => x.1 == f) = false := by
  have hdiv : f * 65536 / 65536 = f := by omega
  cases hfind : s.pavilions.find? fun p => p.frames.any fun x => x.1 == f with
  | none => simpa [List.find?_eq_none] using hfind
  | some q =>
    have hz : q.id = 0 := by simpa [pavOfPa, hdiv, hfind] using h
    exact absurd hz (hid q (List.mem_of_find?_eq_some hfind))

/-- A pavilion with frames added to its list, fresh ones during a rotation. -/
def withFrames (fs : List Nat) (fresh : Bool) (p : Pavilion) : Pavilion := { p with frames := sortBy Prod.fst (p.frames ++ fs.map fun f => (f, fresh)) }

theorem mem_withFrames (fs : List Nat) (fresh : Bool) (p : Pavilion) (x : Nat × Bool) :
    x ∈ (withFrames fs fresh p).frames ↔ x ∈ p.frames ∨ x.1 ∈ fs ∧ x.2 = fresh := by
  simp only [withFrames, (sortBy_perm _ _).mem_iff, List.mem_append, List.mem_map]
  refine or_congr_right ⟨fun ⟨f, hf, h⟩ => ?_, fun h => ⟨x.1, h.1, Prod.ext rfl h.2.symm⟩⟩
  rw [← h]
  exact ⟨hf, rfl⟩

/-- The state before the frames join the list: during a rotation of the pavilion they are zeros. -/
def framesReady (s : State) : State := if rotating s s.pavIf.sel then zeroSpan s (s.pavIf.frame * 65536) (s.pavIf.count * 65536) else s

section
variable {s : State} {p : Pavilion} (hidle : s.pavIf.busy = false) (h1 : 1 ≤ s.pavIf.sel) (h64 : s.pavIf.sel < 64) (hlo : s.pavIf.frameLoBad = false)
  (hhi : s.pavIf.frameHiBad = false) (hp : pav? s s.pavIf.sel = some p)
include hidle h1 h64 hlo hhi hp

theorem addframe_adds (hfit : FramesFit s p) :
    ∃ x, exec .addframe s = .next (endPav x 4 0) ∧ x = modPav (framesReady s) s.pavIf.sel (withFrames (namedFrames s) (rotating s s.pavIf.sel)) ∧
      PavEnds s (endPav x 4 0) 4 p.part 0 ∧ pav? (endPav x 4 0) s.pavIf.sel = some (withFrames (namedFrames s) (rotating s s.pavIf.sel) p) := by
  have hpart : pavPart s = p.part := by rw [pavPart, hp]
  have hlegal : ((namedFrames s).any fun f => decide (deviceBytes ≤ f * 65536) || meetsReserved s (f * 65536) 65536 ||
      !(ownOf s (pavPart s)).channels.contains (f % 256) || s.pavilions.any fun p => p.frames.any fun x => x.1 == f) = false := by
    rw [List.any_eq_false]
    intro f hf
    obtain ⟨hin, hres, hch, hpav, hid⟩ := hfit f hf
    have hin' : ¬ deviceBytes ≤ f * 65536 := by omega
    simp only [hin', hres, hpart, List.contains_iff_mem.mpr hch, unlisted_of_pavOfPa hpav hid]
    decide
  have hx : exec .addframe s = .next (endPav (modPav (framesReady s) s.pavIf.sel (withFrames (namedFrames s) (rotating s s.pavIf.sel))) 4 0) := by
    rw [exec_addframe, pavAddframe, runPav_passes hidle]
    · rfl
    · simp only [firstCode_cons, firstCode_nil, pvselBad_false h1 h64, hlo, hhi, hp, hlegal]
      simp
  have hready : pav? (framesReady s) s.pavIf.sel = some p ∧ SameLog s (framesReady s) ∧ (framesReady s).pavIf = s.pavIf := by
    unfold framesReady
    split <;> exact ⟨hp, ⟨rfl, rfl, rfl, rfl⟩, rfl⟩
  obtain ⟨hpav, hlog, hif⟩ := hready
  have hmod := pav_modPav hpav (f := withFrames (namedFrames s) (rotating s s.pavIf.sel)) fun _ h => h
  refine ⟨_, hx, rfl, endPav_ends (x := modPav (framesReady s) s.pavIf.sel _) hlog (by rw [← hif]; rfl) hmod 4 0, by rw [pav_endPav, hmod]⟩

/-- Frames added outside a rotation keep their contents (log entry 67). -/
theorem addframe_keeps (hfit : FramesFit s p) (hrot : s.rotation.active = false) :
    ∃ r, exec .addframe s = .next r ∧ PavEnds s r 4 p.part 0 ∧ r.mem = s.mem ∧ ∃ p', pav? r s.pavIf.sel = some p' ∧
      ∀ f, f ∈ p'.frames.map Prod.fst ↔ f ∈ p.frames.map Prod.fst ∨ f ∈ namedFrames s := by
  have hno : rotating s s.pavIf.sel = false := by simp [rotating, hrot]
  obtain ⟨x, hx, hxeq, hends, hpav⟩ := addframe_adds hidle h1 h64 hlo hhi hp hfit
  refine ⟨_, hx, hends, ?_, _, hpav, fun f => ?_⟩
  · rw [endPav_mem, hxeq, framesReady, hno]
    rfl
  · simp only [List.mem_map, mem_withFrames, Prod.exists, exists_and_right, exists_eq_right]
    constructor
    · rintro ⟨b, h | ⟨h, -⟩⟩
      · exact .inl ⟨b, h⟩
      · exact .inr h
    · rintro (⟨b, h⟩ | h)
      · exact ⟨b, .inl h⟩
      · exact ⟨_, .inr ⟨h, rfl⟩⟩

/-- Frames added during a rotation of the pavilion are fresh and read as zeros (R62). -/
theorem addframe_fresh (hfit : FramesFit s p) (hrot : rotating s s.pavIf.sel = true) (hwf : Memory.wf s.mem = true) :
    ∃ r, exec .addframe s = .next r ∧ PavEnds s r 4 p.part 0 ∧
      (∃ p', pav? r s.pavIf.sel = some p' ∧ ∀ x, x ∈ p'.frames ↔ x ∈ p.frames ∨ x.1 ∈ namedFrames s ∧ x.2 = true) ∧
      ∀ a, s.pavIf.frame * 65536 ≤ a → a < (s.pavIf.frame + s.pavIf.count) * 65536 → Memory.read r.mem a = 0 := by
  obtain ⟨x, hx, hxeq, hends, hpav⟩ := addframe_adds hidle h1 h64 hlo hhi hp hfit
  refine ⟨_, hx, hends, ⟨_, hpav, fun y => ?_⟩, fun a hlow hhigh => ?_⟩
  · rw [mem_withFrames, hrot]
  · have hmem : x.mem = zeroMem s.mem (s.pavIf.frame * 65536) (s.pavIf.count * 65536) := by
      rw [hxeq, framesReady, hrot]
      rfl
    have hend : a < s.pavIf.frame * 65536 + s.pavIf.count * 65536 := by rwa [← Nat.add_mul]
    rw [endPav_mem, hmem, read_zeroMem hwf, if_pos ⟨hlow, hend⟩]

end

/-! ### DELFRAME and DESTROY: frames pass through the scrub (R57, R62, R64) -/

/-- From `a` to `b` frames have been queued: accesses into them are translated again, and nothing else differs. -/
def OnlyQueued (a b : State) : Prop := b = { a with frames := b.frames, teams := b.teams } ∧ ∀ q ∈ a.frames.queue, q ∈ b.frames.queue

theorem OnlyQueued.refl (a : State) : OnlyQueued a a := ⟨rfl, fun _ h => h⟩

theorem OnlyQueued.trans {a b c : State} (h : OnlyQueued a b) (k : OnlyQueued b c) : OnlyQueued a c :=
  ⟨by rw [k.1, h.1], fun q hq => k.2 q (h.2 q hq)⟩

theorem queueScrub_queued (s : State) (base size : Nat) : OnlyQueued s (queueScrub s base size) := ⟨rfl, fun _ h => List.mem_append_left _ h⟩

/-- Frames queued for scrub, one after another. -/
def queueFrames (s : State) (fs : List Nat) : State := fs.foldl (fun s f => queueScrub s (f * 65536) 65536) s

theorem queueFrames_queued (s : State) (fs : List Nat) : OnlyQueued s (queueFrames s fs) :=
  foldl_related .refl .trans (fun s f => queueScrub_queued s (f * 65536) 65536) fs s

theorem mem_queueScrub (s : State) (base size : Nat) : ⟨base, size, s.frames.nextSeq⟩ ∈ (queueScrub s base size).frames.queue := by
  simp [queueScrub, unmapRange]

theorem queueFrames_mem (fs : List Nat) (s : State) : ∀ f ∈ fs, ∃ q ∈ (queueFrames s fs).frames.queue, q.base = f * 65536 ∧ q.size = 65536 := by
  induction fs generalizing s with
  | nil => simp
  | cons g fs ih =>
    intro f hf
    rcases List.mem_cons.mp hf with rfl | hf
    · exact ⟨⟨f * 65536, 65536, s.frames.nextSeq⟩, (queueFrames_queued (queueScrub s (f * 65536) 65536) fs).2 _ (mem_queueScrub ..), rfl, rfl⟩
    · exact ih (queueScrub s (g * 65536) 65536) f hf

/-- A frame that is queued keeps an operation waiting. -/
theorem anyQueued_true {s : State} {fs : List Nat} {f : Nat} (hf : f ∈ fs) (h : ∃ q ∈ s.frames.queue, q.base = f * 65536 ∧ q.size = 65536) : anyQueued s fs = true := by
  obtain ⟨q, hq, hbase, hsize⟩ := h
  have hdiv : f * 65536 / 65536 = f := by omega
  rw [anyQueued, List.any_eq_true]
  exact ⟨q, hq, by simp [hbase, hsize, hdiv, hf]⟩

/-- An operation of page 0x008 in progress, at a stage. -/
def pavStage (s : State) (stage : Nat) : State := { s with pavIf := { s.pavIf with busy := true, op := stage } }

theorem settlePav_idle {s : State} (h : s.pavIf.busy = false) : settlePav s = s := by simp [settlePav, h]

/-- A DESTROY waits while a frame of its pavilion is queued, and ends when none is. -/
theorem settlePav_destroy {x : State} {p : Pavilion} (hbusy : x.pavIf.busy = true) (hop : x.pavIf.op = 8) (hpx : pav? x x.pavIf.sel = some p) :
    settlePav x = if anyQueued x (p.frames.map Prod.fst) then x else dropPav (endPav x 6 0) p := by
  simp [settlePav, hbusy, hop, hpx]

section
variable {s : State} {p : Pavilion} (hidle : s.pavIf.busy = false) (h1 : 1 ≤ s.pavIf.sel) (h64 : s.pavIf.sel < 64) (hp : pav? s s.pavIf.sel = some p)
include hidle h1 h64 hp

/-- DELFRAME of listed frames where no sweep is under way queues them and waits. -/
theorem delframe_queues (hlo : s.pavIf.frameLoBad = false) (hhi : s.pavIf.frameHiBad = false) (hlisted : ∀ f ∈ namedFrames s, f ∈ p.frames.map Prod.fst)
    (hrot : rotating s s.pavIf.sel = false) (hcount : 1 ≤ s.pavIf.count) : exec .delframe s = .next (queueFrames (pavStage s 7) (namedFrames s)) := by
  have hall : ((namedFrames s).any fun f => !(match pav? s s.pavIf.sel with | some p => p.frames.any fun x => x.1 == f | none => false)) = false := by
    rw [List.any_eq_false, hp]
    intro f hf
    obtain ⟨x, hx, rfl⟩ := List.mem_map.mp (hlisted f hf)
    have hany : (p.frames.any fun y => y.1 == x.1) = true := List.any_eq_true.mpr ⟨x, hx, by simp⟩
    simp [hany]
  have hx : exec .delframe s = .next (settlePav (pavStage s 5)) := by
    rw [exec_delframe, pavDelframe, runPav_passes hidle]
    · rfl
    · simp only [firstCode_cons, firstCode_nil, pvselBad_false h1 h64, hlo, hhi, hp] at hall ⊢
      simp [hall]
  have hqueued := queueFrames_queued (pavStage s 7) (namedFrames s)
  have hwait : anyQueued (queueFrames (pavStage s 7) (namedFrames s)) (namedFrames s) = true :=
    have hf : s.pavIf.frame ∈ namedFrames s := (mem_namedFrames ..).mpr (by omega)
    anyQueued_true hf (queueFrames_mem _ _ _ hf)
  have hstage : (queueFrames (pavStage s 7) (namedFrames s)).pavIf = (pavStage s 7).pavIf := by rw [hqueued.1]
  have hsettle : settlePav (pavStage s 5) = (let y := queueFrames (pavStage s 7) (namedFrames s)
      if y.pavIf.op == 7 && !anyQueued y (namedFrames s) then
        endPav (modPav y y.pavIf.sel fun p => { p with frames := p.frames.filter fun f => !(namedFrames s).contains f.1 }) 5 0
      else if y.pavIf.op == 8 then
        match pav? y y.pavIf.sel with
        | some p => if anyQueued y (p.frames.map Prod.fst) then y else dropPav (endPav y 6 0) p
        | none => endPav y 6 0
      else y) := by
    have hgo : (rotating (pavStage s 5) (pavStage s 5).pavIf.sel && (namedFrames (pavStage s 5)).contains ((pavStage s 5).rotation.pointer / 65536)) = false := by
      rw [show rotating (pavStage s 5) (pavStage s 5).pavIf.sel = false from hrot, Bool.false_and]
    simp only [settlePav, hgo]
    rfl
  rw [hx, hsettle]
  simp only [hwait, hstage]
  simp [pavStage]

/-- DESTROY of a pavilion without contexts queues its frames. -/
theorem destroy_queues (hfree : ∀ c ∈ s.contexts, c.pav ≠ s.pavIf.sel) :
    exec .pavilionDestroy s = .next (settlePav (queueFrames (pavStage s 8) (p.frames.map Prod.fst))) := by
  have hno : (s.contexts.any fun c => c.pav == s.pavIf.sel) = false := by simpa [List.any_eq_false] using hfree
  rw [exec_pavilionDestroy, pavDestroy, runPav_passes hidle]
  · rw [hp]
    rfl
  · simp only [firstCode_cons, firstCode_nil, pvselBad_false h1 h64, hp, hno]
    simp

theorem destroy_waits (hfree : ∀ c ∈ s.contexts, c.pav ≠ s.pavIf.sel) (hframes : p.frames ≠ []) :
    exec .pavilionDestroy s = .next (queueFrames (pavStage s 8) (p.frames.map Prod.fst)) := by
  let x := queueFrames (pavStage s 8) (p.frames.map Prod.fst)
  have hframe : x = { pavStage s 8 with frames := x.frames, teams := x.teams } := (queueFrames_queued ..).1
  have hif : x.pavIf = (pavStage s 8).pavIf := by rw [hframe]
  have hpav : pav? x x.pavIf.sel = some p := by rw [hframe]; exact hp
  obtain ⟨f, l, hfl⟩ := List.exists_cons_of_ne_nil hframes
  have hf : f.1 ∈ p.frames.map Prod.fst := by simp [hfl]
  rw [destroy_queues hidle h1 h64 hp hfree, settlePav_destroy (by rw [hif]; rfl) (by rw [hif]; rfl) hpav,
    if_pos (anyQueued_true hf (queueFrames_mem _ _ _ hf))]

theorem destroy_ends (hfree : ∀ c ∈ s.contexts, c.pav ≠ s.pavIf.sel) (hframes : p.frames = []) (hrot : s.rotation.active = false) :
    ∃ r, exec .pavilionDestroy s = .next r ∧ PavEnds s r 6 p.part 0 ∧ r.pavilions = s.pavilions.filter fun x => x.id ≠ p.id := by
  have hx : exec .pavilionDestroy s = .next (dropPav (endPav (pavStage s 8) 6 0) p) := by
    rw [destroy_queues hidle h1 h64 hp hfree, hframes]
    have hnone : anyQueued (pavStage s 8) [] = false := by simp [anyQueued]
    have hsettle := settlePav_destroy (x := pavStage s 8) rfl rfl hp
    rw [hframes, List.map_nil, hnone] at hsettle
    exact congrArg _ hsettle
  have hno : rotating (endPav (pavStage s 8) 6 0) p.id = false := by simp [rotating, pavStage, hrot]
  obtain ⟨hres, hbusy, hlogs⟩ := endPav_ends (s := s) (x := pavStage s 8) ⟨rfl, rfl, rfl, rfl⟩ rfl hp 6 0
  refine ⟨_, hx, ?_, ?_⟩ <;> simp only [dropPav, hno]
  · exact ⟨hres, hbusy, hlogs⟩
  · exact congrArg _ (endPav_pavilions ..)

end

theorem pavilionsChange : PavilionsChange := by
  refine ⟨fun s q hidle h1 h64 hpart hq hnew hways hok hcount => ?_, fun s p hidle h1 h64 hcore hquad hp => ⟨?_, ?_, ?_, ?_⟩,
    fun s p hidle h1 h64 hlo hhi hp => ⟨?_, ?_, ?_, ?_, ?_, ?_⟩⟩
  · exact ⟨_, create_creates hidle h1 h64 hpart hq hnew hways hok hcount, endPav_ends (s := s) (x := created s) ⟨rfl, rfl, rfl, rfl⟩ rfl (pav_created hnew) 1 0, newPavilion s,
      endPav_pavilions .., rfl, rfl, rfl, rfl, rfl, rfl, rfl, rfl⟩
  · exact fun hown hfree hout hbank _ hm1 hm2 => assign_adds hidle h1 h64 hcore hquad hp hown hfree hout hbank hm1 hm2
  · exact assign_conflict hidle h1 h64 hcore hquad hp
  · exact assign_busy hidle h1 h64 hcore hquad hp
  · exact unassign_removes hidle h1 h64 hcore hquad hp
  · exact addframe_keeps hidle h1 h64 hlo hhi hp
  · exact addframe_fresh hidle h1 h64 hlo hhi hp
  · intro hlisted hrot hcount
    have hframe := (queueFrames_queued (pavStage s 7) (namedFrames s)).1
    refine ⟨_, delframe_queues hidle h1 h64 hp hlo hhi hlisted hrot hcount, by rw [hframe]; rfl, by rw [hframe]; exact hp, queueFrames_mem _ _⟩
  · intro hfree hframes
    have hframe := (queueFrames_queued (pavStage s 8) (p.frames.map Prod.fst)).1
    refine ⟨_, destroy_waits hidle h1 h64 hp hfree hframes, by rw [hframe]; rfl, by rw [hframe]; rfl, fun f hf => queueFrames_mem _ _ _ (List.mem_map_of_mem hf)⟩
  · intro hrot hcount hlisted
    have hone : namedFrames s = [s.pavIf.frame] := by simp [namedFrames, hcount, upto]
    have hall : ∀ f ∈ namedFrames s, f ∈ p.frames.map Prod.fst := by simpa [hone] using hlisted
    have hx := delframe_queues hidle h1 h64 hp hlo hhi hall (by simp [rotating, hrot]) (by omega)
    rw [hone] at hx
    exact ⟨_, hx, rfl, hp, rfl⟩
  · exact destroy_ends hidle h1 h64 hp

/-! ### The frame queue and the scrub (R64, R65) -/

theorem exec_frameQueue (s : State) : exec .frameQueue s = .next (frameGo s) := rfl

theorem frameQueue_queues {s : State} {n : Nat} (hn : frameSize s.frames.size = some n) (hfit : s.frames.base + n ≤ deviceBytes) :
    ∃ r, exec .frameQueue s = .next r ∧ r.frames.queue = s.frames.queue ++ [⟨s.frames.base, n, s.frames.nextSeq⟩] ∧
      r.frames.nextSeq = s.frames.nextSeq + 1 ∧ r.mem = s.mem ∧ ∀ a, s.frames.base ≤ a → a < s.frames.base + n → scrubPending r a = true := by
  have hx : exec .frameQueue s = .next (queueScrub s s.frames.base n) := by
    rw [exec_frameQueue, frameGo, hn]
    simp only
    rw [if_neg (by omega)]
  refine ⟨_, hx, rfl, rfl, rfl, fun a hlow hhigh => ?_⟩
  rw [scrubPending, List.any_eq_true]
  refine ⟨⟨s.frames.base, n, s.frames.nextSeq⟩, mem_queueScrub .., ?_⟩
  simp only [Bool.and_eq_true, decide_eq_true_eq]
  omega

/-- The scrub of the first queued frame, where no checkpoint is under way and an engine is free. -/
theorem frameScrub_scrubs {s : State} {q : ScrubRec} {l : List ScrubRec} (hqueue : s.frames.queue = q :: l) (hck : s.observe.ckRun = none)
    (hidle : s.pavIf.busy = false) (heng : ∃ e ∈ scrubEngines s q, engineBusy s e = false) : exec .frameScrub s = .next (scrubFrame s q) := by
  have hfree : (scrubEngine s q).isSome = true := by
    obtain ⟨e, he, hbusy⟩ := heng
    rw [scrubEngine, List.find?_isSome]
    exact ⟨e, he, by simp [hbusy]⟩
  have hwait : scrubWaits s q = false := by simp [scrubWaits, hck]
  have hfirst : s.frames.queue.find? (fun r => !scrubWaits s r && (scrubEngine s r).isSome) = some q := by
    rw [hqueue, List.find?_cons_of_pos (by simp [hwait, hfree])]
  have hx : exec .frameScrub s = execFrameScrub s := rfl
  have hidle' : (scrubFrame s q).pavIf.busy = false := by
    simp only [scrubFrame, audit_pavIf, raiseVector_pavIf]
    exact hidle
  rw [hx, execFrameScrub, hfirst]
  exact congrArg _ (settlePav_idle hidle')

theorem framesScrubbed : FramesScrubbed := by
  refine ⟨fun s n hn hfit => frameQueue_queues hn hfit, fun s q l hqueue hck hidle heng huniq hseq hwf => ?_⟩
  let x : State := { scrubRange s q.base q.size with frames := { s.frames with queue := s.frames.queue.filter fun x => x.seq ≠ q.seq, token := BitVec.ofNat 64 q.seq } }
  have hscrub : scrubFrame s q = audit (raiseVector x 0 4) 0 0x40 0 0 (leBytes 8 q.base ++ leBytes 8 q.size) := rfl
  have hrest : s.frames.queue.filter (fun x => x.seq ≠ q.seq) = l := by
    rw [hqueue, List.filter_cons_of_neg (by simp), List.filter_eq_self]
    intro y hy
    simpa using huniq y hy
  have hmem : (scrubFrame s q).mem = zeroMem s.mem q.base q.size := by simp [hscrub, x, scrubRange, zeroSpan]
  refine ⟨_, frameScrub_scrubs hqueue hck hidle heng, ?_, ?_, ?_, ?_, fun a hlow hhigh => ?_, fun a hout => ?_, fun v hv => ?_⟩
  · simpa [hscrub, x] using hrest
  · have htoken : (scrubFrame s q).frames.token = BitVec.ofNat 64 q.seq := by simp [hscrub, x]
    rw [htoken, BitVec.toNat_ofNat, Nat.mod_eq_of_lt hseq]
  · exact rings_of_host (x := x) rfl (by simp [hscrub])
  · exact logs_of_trust (x := raiseVector x 0 4) (by simp [x, scrubRange, zeroSpan]) (by simp [x, scrubRange, zeroSpan]) rfl
  · rw [hmem, read_zeroMem hwf, if_pos ⟨hlow, hhigh⟩]
  · rw [hmem, read_zeroMem hwf, if_neg hout]
  · have hv' : v ∈ (scrubRange s q.base q.size).versions := by simpa [hscrub, x] using hv
    have hkeep := (List.mem_filter.mp hv').2
    simp only [overlaps, Bool.not_eq_true', Bool.and_eq_false_iff, decide_eq_false_iff_not] at hkeep
    omega

/-! ### Key rotation (R60 to R62) -/

theorem exec_keyRotationGo (s : State) : exec .keyRotationGo s = .next (rotateGo s) := rfl

/-- A pavilion under its new key, with no fresh frame. -/
def rekeyed (key : BitVec 256) (p : Pavilion) : Pavilion := { p with key := key, frames := p.frames.map fun f => (f.1, false) }

/-- The end of a rotation over a state with the host's side, log and page 0x008 as before. -/
theorem endRotation_ends {s x : State} {p : Pavilion} (hhost : x.host = s.host) (htrust : x.trust = s.trust) (htime : x.time = s.time)
    (hidle : x.pavIf.busy = false) (hpav : x.rotation.pav = p.id) (hp : pav? x p.id = some p) :
    (endRotation x).rotation.active = false ∧ (endRotation x).rotation.done = true ∧ Rings s (endRotation x) 0 3 ∧
      Logs s (endRotation x) 0 0x30 0 p.part (leBytes 1 p.id) ∧ pav? (endRotation x) p.id = some (rekeyed x.rotation.newKey p) := by
  let m := modPav x x.rotation.pav (rekeyed x.rotation.newKey)
  let y : State := { m with rotation := { x.rotation with active := false, pointer := 0, done := true, newKey := 0 } }
  rw [← hpav] at hp ⊢
  have hx : endRotation x = audit (raiseVector y 0 3) 0 0x30 0 p.part (leBytes 1 x.rotation.pav) := by
    have hidle' : (audit (raiseVector y 0 3) 0 0x30 0 p.part (leBytes 1 x.rotation.pav)).pavIf.busy = false := by
      simp only [audit_pavIf, raiseVector_pavIf]
      exact hidle
    rw [← settlePav_idle hidle']
    simp only [endRotation, hp]
    rfl
  rw [hx]
  refine ⟨by simp [y], by simp [y], rings_of_host (x := y) hhost (by simp), logs_of_trust (x := raiseVector y 0 3) ((raiseVector_trust ..).trans htrust)
    ((raiseVector_time ..).trans htime) rfl, ?_⟩
  have hmod := pav_modPav hp (f := rekeyed x.rotation.newKey) fun _ h => h
  simpa [pav?, y, m] using hmod

section
variable {s : State} {p : Pavilion}

/-- The rotation that GO starts. -/
def rotationStarted (s : State) (p : Pavilion) : State :=
  { s with rotation := { s.rotation with
    pav := s.rotation.sel, active := true, result := 0, newKey := Config.freshKey s.fresh
    pointer := 65536 * (minBy (fun (f : Nat) => f) (sweptFrames p)).getD 0 } }

theorem rotateGo_starts (hrest : s.rotation.active = false) (h1 : 1 ≤ s.rotation.sel) (h64 : s.rotation.sel < 64) (hp : pav? s s.rotation.sel = some p) :
    rotateGo s = if (minBy (fun (f : Nat) => f) (sweptFrames p)).isNone then endRotation (rotationStarted s p) else rotationStarted s p := by
  have h0 : s.rotation.sel ≠ 0 := by omega
  have h64' : ¬ 64 ≤ s.rotation.sel := by omega
  simp [rotateGo, hrest, h0, h64', hp, rotationStarted]

theorem go_starts {f : Nat} (hrest : s.rotation.active = false) (h1 : 1 ≤ s.rotation.sel) (h64 : s.rotation.sel < 64) (hp : pav? s s.rotation.sel = some p)
    (hf : minBy (fun (f : Nat) => f) (sweptFrames p) = some f) :
    ∃ r, exec .keyRotationGo s = .next r ∧ r.rotation.active = true ∧ r.rotation.pav = p.id ∧ r.rotation.pointer = f * 65536 ∧
      r.rotation.newKey = Config.freshKey s.fresh ∧ r.rotation.result = 0 ∧ r.pavilions = s.pavilions := by
  have hx : exec .keyRotationGo s = .next (rotationStarted s p) := by
    rw [exec_keyRotationGo, rotateGo_starts hrest h1 h64 hp, hf]
    rfl
  refine ⟨_, hx, rfl, (pav_id hp).symm, ?_, rfl, rfl, rfl⟩
  simp [rotationStarted, hf, Nat.mul_comm]

theorem go_ends (hrest : s.rotation.active = false) (h1 : 1 ≤ s.rotation.sel) (h64 : s.rotation.sel < 64) (hp : pav? s s.rotation.sel = some p)
    (hframes : p.frames = []) (hidle : s.pavIf.busy = false) :
    ∃ r, exec .keyRotationGo s = .next r ∧ r.rotation.active = false ∧ r.rotation.done = true ∧ Rings s r 0 3 ∧ Logs s r 0 0x30 0 p.part (leBytes 1 p.id) ∧
      ∃ p', pav? r p.id = some p' ∧ p'.key = Config.freshKey s.fresh := by
  have hx : exec .keyRotationGo s = .next (endRotation (rotationStarted s p)) := by
    rw [exec_keyRotationGo, rotateGo_starts hrest h1 h64 hp, sweptFrames, hframes]
    rfl
  have hid := pav_id hp
  obtain ⟨hact, hdone, hrings, hlogs, hpav⟩ := endRotation_ends (s := s) (x := rotationStarted s p) rfl rfl rfl hidle hid.symm (hid ▸ hp)
  exact ⟨_, hx, hact, hdone, hrings, hlogs, _, hpav, rfl⟩

theorem sweepLine_eq (hact : s.rotation.active = true) (hp : pav? s s.rotation.pav = some p) : exec .sweepLine s = .next
    (match nextLine p s.rotation.pointer with
      | some a => settlePav { resealLine s with rotation := { s.rotation with pointer := a } }
      | none => endRotation (resealLine s)) := by
  have hx : exec .sweepLine s = execSweepLine s := rfl
  have hpav : pav? (resealLine s) (resealLine s).rotation.pav = some p := hp
  rw [hx, execSweepLine, if_neg (by simp [hact])]
  simp only [hpav, Option.bind_some]
  rfl

/-- The line at POINTER is sealed under the new key, and the sweep goes on (R60, R61). -/
theorem sweep_goes_on {a : Nat} (hact : s.rotation.active = true) (hidle : s.pavIf.busy = false) (hp : pav? s s.rotation.pav = some p)
    (hid : p.id = s.rotation.pav) (ha : nextLine p s.rotation.pointer = some a) :
    ∃ r, exec .sweepLine s = .next r ∧ r.rotation = { s.rotation with pointer := a } ∧ r.pavilions = s.pavilions ∧ r.mem = s.mem ∧
      ∀ x ∈ s.seals, (x.line = s.rotation.pointer / 64 → x.pav = p.id →
          { x with key := s.rotation.newKey, code := Config.sealCode s.rotation.newKey x.line (memLine s x.line), held := false } ∈ r.seals) ∧
        (x.line ≠ s.rotation.pointer / 64 ∨ x.pav ≠ p.id → x ∈ r.seals) := by
  have hx : exec .sweepLine s = .next { resealLine s with rotation := { s.rotation with pointer := a } } := by
    rw [sweepLine_eq hact hp, ha]
    exact congrArg _ (settlePav_idle hidle)
  refine ⟨_, hx, rfl, rfl, rfl, fun x hxs => ⟨fun hline hpav => ?_, fun hother => ?_⟩⟩
  · refine List.mem_map.mpr ⟨x, hxs, ?_⟩
    simp [hline, hpav, hid]
  · refine List.mem_map.mpr ⟨x, hxs, ?_⟩
    rw [if_neg]
    simp only [Bool.and_eq_true, beq_iff_eq, ← hid]
    exact fun h => hother.elim (fun hl => hl h.1) fun hp => hp h.2

/-- Past the last line the old key is gone. -/
theorem sweep_ends (hact : s.rotation.active = true) (hidle : s.pavIf.busy = false) (hp : pav? s s.rotation.pav = some p)
    (hid : p.id = s.rotation.pav) (hlast : nextLine p s.rotation.pointer = none) :
    ∃ r, exec .sweepLine s = .next r ∧ r.rotation.active = false ∧ r.rotation.done = true ∧ Rings s r 0 3 ∧ Logs s r 0 0x30 0 p.part (leBytes 1 p.id) ∧
      ∃ p', pav? r p.id = some p' ∧ p'.key = s.rotation.newKey ∧ p'.frames.map Prod.fst = p.frames.map Prod.fst ∧ ∀ f ∈ p'.frames, f.2 = false := by
  have hx : exec .sweepLine s = .next (endRotation (resealLine s)) := by rw [sweepLine_eq hact hp, hlast]
  obtain ⟨hact', hdone, hrings, hlogs, hpav⟩ := endRotation_ends (s := s) (x := resealLine s) rfl rfl rfl hidle hid.symm (hid ▸ hp)
  refine ⟨_, hx, hact', hdone, hrings, hlogs, _, hpav, rfl, ?_, ?_⟩
  · simp [rekeyed, List.map_map, Function.comp_def]
  · simp [rekeyed]

end

theorem keysRotate : KeysRotate := by
  refine ⟨fun s p hrest h1 h64 hp _ => ⟨fun f hf => go_starts hrest h1 h64 hp hf, fun hframes hidle => go_ends hrest h1 h64 hp hframes hidle⟩,
    fun s hact => ?_, fun s p hact hidle hp hid => ⟨fun a ha => sweep_goes_on hact hidle hp hid ha, sweep_ends hact hidle hp hid⟩,
    fun s p pa hact hpav hlist hbehind => ?_, fun s p pa hfresh hahead => ?_⟩
  · simp [exec_keyRotationGo, rotateGo, hact, rBusy]
  · simp [lineKey, rotating, hact, hpav, hlist, hbehind]
  · have hahead' : ¬ pa / 64 * 64 < s.rotation.pointer := by omega
    simp only [lineKey, hfresh, hahead', decide_false, Bool.or_self, Bool.and_false, Bool.false_eq_true, if_false]

/-- Settles O56: each of its three parts by the theorem of its name. -/
theorem pavilionsAndFrames : Obligations.PavilionsAndFrames := ⟨pavilionsChange, framesScrubbed, keysRotate⟩

end Sys2Proof.Proofs
end

section
/-! SUPPORT. What the end of a handover operation, the suspension and the destruction of a pavilion's contexts, and the filling of an image
change of the machine (R72 to R74). -/

namespace Sys2Proof.Proofs

open Machine Claims Laws

/-! ### The end of an operation (R74) -/

/-- An operation's end changes the root of trust and the host's side only. -/
theorem endHo_frame (s : State) (op : Nat) (code : BitVec 8) :
    endHo s op code = { s with host := (endHo s op code).host, trust := (endHo s op code).trust } := by
  unfold endHo
  dsimp only
  split
  · rw [audit_frame, raiseVector_frame]
    rfl
  · rw [raiseVector_frame]
    rfl

section
variable (s : State) (op : Nat) (code : BitVec 8)

@[simp] theorem endHo_mem : (endHo s op code).mem = s.mem := by rw [endHo_frame]
@[simp] theorem endHo_contexts : (endHo s op code).contexts = s.contexts := by rw [endHo_frame]
@[simp] theorem endHo_teams : (endHo s op code).teams = s.teams := by rw [endHo_frame]
@[simp] theorem endHo_grids : (endHo s op code).grids = s.grids := by rw [endHo_frame]
@[simp] theorem endHo_pavilions : (endHo s op code).pavilions = s.pavilions := by rw [endHo_frame]
@[simp] theorem pav_endHo (id : Nat) : pav? (endHo s op code) id = pav? s id := by simp [pav?]

/-- RESULT and BUSY of an operation's end, and the registers that stay. -/
theorem endHo_registers : (endHo s op code).trust.hoResult = code ∧ (endHo s op code).trust.hoBusy = false ∧ (endHo s op code).trust.hoLen = s.trust.hoLen ∧
    (endHo s op code).trust.hoOut = s.trust.hoOut ∧ (endHo s op code).trust.ownX = s.trust.ownX ∧ (endHo s op code).trust.ownSig = s.trust.ownSig := by
  unfold endHo
  dsimp only
  split <;> simp [modTrust]

end

/-- The end of an operation raises vector 6. -/
theorem endHo_rings {s x : State} (hhost : x.host = s.host) (op : Nat) (code : BitVec 8) : Rings s (endHo x op code) 0 6 := by
  refine rings_of_host (x := modTrust x fun t => { t with hoResult := code, hoBusy := false }) hhost ?_
  unfold endHo
  dsimp only
  split <;> simp

/-- The end of an operation on the pavilion of HOPV, over a state whose host side and log are as before. -/
theorem endHo_ends {s x : State} (hlog : SameLog s x) (hhost : x.host = s.host) (hpv : x.trust.hoPv = s.trust.hoPv) {p : Pavilion}
    (hp : pav? x s.trust.hoPv = some p) (op : Nat) (code : BitVec 8) : HoEnds s (endHo x op code) op p.part code := by
  obtain ⟨hresult, hbusy, -⟩ := endHo_registers x op code
  refine ⟨hresult, hbusy, endHo_rings hhost op code, fun hcode => ?_⟩
  let y := raiseVector (modTrust x fun t => { t with hoResult := code, hoBusy := false }) 0 6
  have hy : SameLog s y := by simpa [SameLog, y, modTrust] using hlog
  have hypv : y.trust.hoPv = s.trust.hoPv := by simpa [y, modTrust] using hpv
  have hyp : pav? y y.trust.hoPv = some p := by
    rw [hypv]
    simpa [pav?, y, modTrust] using hp
  have hx : endHo x op code = audit y 2 (0x60 + op - 1) 0 p.part (leBytes 1 s.trust.hoPv) := by
    rw [← hypv, hcode]
    simp only [y, hcode] at hyp ⊢
    simp only [endHo, hyp, beq_self_eq_true, if_true]
  exact logs_of_sameLog hy (by rw [hx]) (by rw [hx])

theorem runHo_passes {s : State} (h : HoLegal s) (op : Nat) (eff : State → State) : runHo s op eff = eff s := by
  obtain ⟨hidle, hbad, halign, hfit⟩ := h
  have hlow : s.trust.hoImg < 4503599627370496 := hfit
  simp [runHo, hidle, hbad, halign, Nat.not_le.mpr hlow]

/-! ### What stays of the pavilions and the root of trust -/

/-- From `a` to `b` neither a pavilion, the root of trust, the host's side nor device time has changed. -/
def KeepsTrust (a b : State) : Prop := b.pavilions = a.pavilions ∧ b.trust = a.trust ∧ b.host = a.host ∧ b.time = a.time

theorem KeepsTrust.refl (a : State) : KeepsTrust a a := ⟨rfl, rfl, rfl, rfl⟩

theorem KeepsTrust.trans {a b c : State} (h : KeepsTrust a b) (k : KeepsTrust b c) : KeepsTrust a c := by
  obtain ⟨h1, h2, h3, h4⟩ := h
  obtain ⟨k1, k2, k3, k4⟩ := k
  exact ⟨k1.trans h1, k2.trans h2, k3.trans h3, k4.trans h4⟩

theorem KeepsTrust.fold {α : Type} {g : State → α → State} (h : ∀ s x, KeepsTrust s (g s x)) (l : List α) (s : State) : KeepsTrust s (l.foldl g s) :=
  foldl_related .refl .trans h l s

theorem KeepsTrust.pav {a b : State} (h : KeepsTrust a b) (id : Nat) : pav? b id = pav? a id := by rw [pav?, h.1, ← pav?]

theorem KeepsTrust.hoPv {a b : State} (h : KeepsTrust a b) : b.trust.hoPv = a.trust.hoPv := by rw [h.2.1]

theorem KeepsTrust.log {a b : State} (h : KeepsTrust a b) : SameLog a b := by
  obtain ⟨-, ht, -, htime⟩ := h
  exact ⟨by rw [ht], by rw [ht], by rw [ht], htime⟩

theorem OnlyLines.keepsTrust {a b : State} (h : OnlyLines a b) : KeepsTrust a b := by
  rw [h]
  exact ⟨rfl, rfl, rfl, rfl⟩

theorem OnlyPlaces.keepsTrust {a b : State} (h : OnlyPlaces a b) : KeepsTrust a b := by
  rw [h.frame]
  exact ⟨rfl, rfl, rfl, rfl⟩

theorem OnlyQueued.keepsTrust {a b : State} (h : OnlyQueued a b) : KeepsTrust a b := by
  rw [h.1]
  exact ⟨rfl, rfl, rfl, rfl⟩

/-! ### Contexts that run again (R74) -/

theorem runCtxs_frame (s : State) (pv : Nat) : runCtxs s pv = { s with contexts := (runCtxs s pv).contexts } :=
  foldl_related (R := fun a b => b = { a with contexts := b.contexts }) (fun _ => rfl) (fun h k => by rw [k, h]) (fun _ _ => rfl) _ s

theorem runCtxs_keepsTrust (s : State) (pv : Nat) : KeepsTrust s (runCtxs s pv) := by
  rw [runCtxs_frame]
  exact ⟨rfl, rfl, rfl, rfl⟩

/-- A context after a handover's suspensions have ended was one before, and is held by a handover only where none was to end. -/
theorem unsuspends_context : ∀ (l : List Context) (s : State), ∀ c ∈ (l.foldl (fun s c => unsuspend s c.id [3]) s).contexts, ∃ c' ∈ s.contexts,
    c'.id = c.id ∧ c'.pav = c.pav ∧ (3 ∈ c.suspendedBy → 3 ∈ c'.suspendedBy ∧ ∀ x ∈ l, x.id ≠ c.id)
  | [], s, c, hc => ⟨c, hc, rfl, rfl, fun h => ⟨h, by simp⟩⟩
  | x :: l, s, c, hc => by
    obtain ⟨c1, hc1, hid, hpav, hby⟩ := unsuspends_context l (unsuspend s x.id [3]) c hc
    simp only [unsuspend, modCtx, updWhere, List.mem_map] at hc1
    obtain ⟨c0, hc0, rfl⟩ := hc1
    refine ⟨c0, hc0, ?_⟩
    by_cases hx : c0.id = x.id
    · rw [if_pos (beq_iff_eq.mpr hx)] at hid hpav hby
      exact ⟨hid, hpav, fun h3 => absurd (hby h3).1 (by simp)⟩
    · rw [if_neg (by simpa using hx)] at hid hpav hby
      refine ⟨hid, hpav, fun h3 => ⟨(hby h3).1, fun y hy => ?_⟩⟩
      rcases List.mem_cons.mp hy with rfl | hy
      · exact fun h => hx (hid.trans h.symm)
      · exact (hby h3).2 y hy

/-- No context of the pavilion is held by a handover any more. -/
theorem runCtxs_released (s : State) (pv : Nat) : ∀ c ∈ (runCtxs s pv).contexts, c.pav = pv → 3 ∉ c.suspendedBy := by
  intro c hc hpav h3
  obtain ⟨c', hc', hid, hpav', hby⟩ := unsuspends_context _ s c hc
  exact (hby h3).2 c' (List.mem_filter.mpr ⟨hc', by simp [hpav', hpav]⟩) hid

/-! ### Contexts that are suspended (R72, R173) -/

/-- The suspension of contexts one after another, for a handover. -/
def suspendAll (s : State) (cs : List Context) : State := cs.foldl (fun s c => suspendCtx s c.id 3) s

theorem suspendAll_forks : ∀ (cs : List Context) (s : State), s.forks = [] → (suspendAll s cs).forks = []
  | [], _, h => h
  | c :: cs, _, h => suspendAll_forks cs _ ((suspendCtx_teamwork h c.id 3).2 h)

theorem suspendAll_keepsTrust (s : State) (cs : List Context) : KeepsTrust s (suspendAll s cs) :=
  .fold (fun s (c : Context) => KeepsTrust.trans (b := modCtx s c.id (suspendedCtx 3)) ⟨rfl, rfl, rfl, rfl⟩ (suspendCtx_places s c.id 3).keepsTrust) cs s

/-- The contexts after suspensions are those before, suspended where they were named. -/
theorem suspendAll_contexts : ∀ (cs : List Context) (s : State), s.forks = [] →
    (∀ c ∈ (suspendAll s cs).contexts, ∃ c' ∈ s.contexts, c'.id = c.id ∧ c'.pav = c.pav ∧ (c'.suspended = true ∨ (∃ x ∈ cs, x.id = c.id) → c.suspended = true)) ∧
    ∀ c' ∈ s.contexts, ∃ c ∈ (suspendAll s cs).contexts, c.id = c'.id ∧ c.pav = c'.pav
  | [], _, _ => ⟨fun c hc => ⟨c, hc, rfl, rfl, fun h => h.elim id fun ⟨_, hx, _⟩ => absurd hx (by simp)⟩, fun c hc => ⟨c, hc, rfl, rfl⟩⟩
  | x :: cs, s, hf => by
    have hwork := suspendCtx_teamwork hf x.id 3
    have hone : (suspendCtx s x.id 3).contexts = s.contexts.map fun c => if c.id = x.id then suspendedCtx 3 c else c := by
      rw [hwork.1]
      simp [modCtx, updWhere]
    obtain ⟨hback, hforth⟩ := suspendAll_contexts cs (suspendCtx s x.id 3) (hwork.2 hf)
    refine ⟨fun c hc => ?_, fun c hc => ?_⟩
    · obtain ⟨c1, hc1, hid, hpav, hsus⟩ := hback c hc
      rw [hone, List.mem_map] at hc1
      obtain ⟨c0, hc0, rfl⟩ := hc1
      refine ⟨c0, hc0, ?_⟩
      by_cases hx : c0.id = x.id
      · rw [if_pos hx] at hid hpav hsus
        exact ⟨hid, hpav, fun _ => hsus (.inl rfl)⟩
      · rw [if_neg hx] at hid hpav hsus
        refine ⟨hid, hpav, fun h => hsus ?_⟩
        rcases h with h | ⟨y, hy, hyid⟩
        · exact .inl h
        · rcases List.mem_cons.mp hy with rfl | hy
          · exact absurd (hid.trans hyid.symm) hx
          · exact .inr ⟨y, hy, hyid⟩
    · obtain ⟨c2, hc2, hid, hpav⟩ := hforth (if c.id = x.id then suspendedCtx 3 c else c) (by rw [hone]; exact List.mem_map_of_mem hc)
      refine ⟨c2, hc2, hid.trans ?_, hpav.trans ?_⟩ <;> split <;> rfl

/-- Teams on their cores stay there under a pre-emption. -/
def StayOnCore (a b : State) : Prop := ∀ t ∈ a.teams, t.onCore = true → ∃ u ∈ b.teams, u.ctx = t.ctx ∧ u.onCore = true

theorem StayOnCore.refl (a : State) : StayOnCore a a := fun t ht h => ⟨t, ht, rfl, h⟩

theorem StayOnCore.trans {a b c : State} (h : StayOnCore a b) (k : StayOnCore b c) : StayOnCore a c := fun t ht hon => by
  obtain ⟨u, hu, hctx, honu⟩ := h t ht hon
  obtain ⟨v, hv, hctxv, honv⟩ := k u hu honu
  exact ⟨v, hv, hctxv.trans hctx, honv⟩

theorem modTeam_stay {a b : State} (hb : b.teams = a.teams) (id : Nat) {f : Team → Team} (hf : ∀ t, (f t).ctx = t.ctx ∧ (f t).state = .preempting) :
    StayOnCore a (modTeam b id f) := by
  intro t ht hon
  refine ⟨if t.id == id then f t else t, ?_, ?_, ?_⟩
  · simp only [modTeam, updWhere, hb]
    exact List.mem_map_of_mem ht
  · split
    · exact (hf t).1
    · rfl
  · split
    · simp [Team.onCore, (hf t).2]
    · exact hon

theorem leaveChoice_teams (s : State) (t : Team) : (leaveChoice s t).teams = s.teams := by
  unfold leaveChoice
  split <;> rfl

theorem cutTeam_stay (s : State) (id : Nat) (why : PreemptWhy) : StayOnCore s (cutTeam s id why) := by
  unfold cutTeam
  split
  · exact .refl s
  · next t _ =>
    let x := leaveGranules { s with slots := s.slots.map fun sl => { sl with flock := sl.flock.filter (fun k => k.team ≠ id) } } id
    let y := { leaveChoice x t with launches := (leaveChoice x t).launches.filter fun l => l.deferred || l.tid.team ≠ id }
    have hy : y.teams = s.teams := leaveChoice_teams x t
    refine modTeam_stay hy id fun t => ?_
    dsimp only
    split <;> exact ⟨rfl, rfl⟩

theorem requestTeam_stay {s : State} (hf : s.forks = []) (id : Nat) (why : PreemptWhy) : StayOnCore s (requestTeam s id why) := by
  have hnone : ∀ t : Team, t.fork.bind (fork? s) = none := fun t => by cases t.fork <;> simp [fork?, hf]
  unfold requestTeam
  split
  · exact .refl s
  · next t _ =>
    rw [hnone t]
    split
    · exact .refl s
    · dsimp only
      split
      · exact .refl s
      · exact cutTeam_stay s id why

theorem requestTeams_stay (why : PreemptWhy) : ∀ (ts : List Team) (s : State), s.forks = [] → StayOnCore s (ts.foldl (fun s t => requestTeam s t.id why) s)
  | [], _, _ => .refl _
  | t :: ts, _, hf => (requestTeam_stay hf t.id why).trans (requestTeams_stay why ts _ ((requestTeam_teamwork hf t.id why).2 hf))

theorem suspendAll_stay : ∀ (cs : List Context) (s : State), s.forks = [] → StayOnCore s (suspendAll s cs)
  | [], _, _ => .refl _
  | c :: cs, s, hf => by
    have hone : StayOnCore s (suspendCtx s c.id 3) := requestTeams_stay .suspend _ (modCtx s c.id (suspendedCtx 3)) hf
    exact hone.trans (suspendAll_stay cs _ ((suspendCtx_teamwork hf c.id 3).2 hf))

/-! ### Contexts that are destroyed (R63, R72) -/

/-- From `a` to `b` views have been discarded. -/
def OnlyDiscarded (a b : State) : Prop := b = { a with views := b.views, gate := b.gate, waiting := b.waiting, commits := b.commits, leases := b.leases }

theorem OnlyDiscarded.refl (s : State) : OnlyDiscarded s s := rfl

theorem OnlyDiscarded.trans {a b c : State} (h : OnlyDiscarded a b) (k : OnlyDiscarded b c) : OnlyDiscarded a c := by
  unfold OnlyDiscarded at *
  rw [k, h]

theorem discardView_discarded (s : State) (tag : Nat) : OnlyDiscarded s (discardView s tag) := rfl

theorem discardViews_discarded (vs : List ViewRec) (s : State) : OnlyDiscarded s (vs.foldl (fun s v => discardView s v.tag) s) :=
  foldl_related OnlyDiscarded.refl OnlyDiscarded.trans (fun s (v : ViewRec) => discardView_discarded s v.tag) vs s

theorem dropDirty_lines (s : State) (d : DirtyLine) : OnlyLines s (dropDirty s d) := by
  unfold dropDirty
  split
  · exact .refl s
  · dsimp only
    split
    · split
      · exact rfl
      · exact OnlyLines.trans (b := { s with mem := Memory.writeN s.mem (d.line * 64) d.old }) rfl (reseal_lines ..)
    · exact rfl

/-- A context's views are discarded and its lines dropped, before its records go. -/
def contextDropped (s : State) (c : Context) : State :=
  let x := (s.views.filter fun v => v.ctx == c.id).foldl (fun s v => discardView s v.tag) s
  (x.dirty.filter fun d => d.ctx == c.id).foldl dropDirty { x with waiting := x.waiting.filter fun w => w.ctx ≠ c.id }

/-- What the end of a context's destruction leaves of the rest: all but its own. -/
theorem finishDestroy_keeps (s : State) (c : Context) : KeepsTrust (contextDropped s c) (finishDestroy s c) ∧ (finishDestroy s c).mem = (contextDropped s c).mem ∧
    (finishDestroy s c).dirty = (contextDropped s c).dirty.filter (fun d => d.ctx ≠ c.id) ∧
    (finishDestroy s c).contexts = (contextDropped s c).contexts.filter fun x => x.id ≠ c.id := ⟨⟨rfl, rfl, rfl, rfl⟩, rfl, rfl, rfl⟩

theorem contextDropped_keeps (s : State) (c : Context) : KeepsTrust s (contextDropped s c) ∧ (contextDropped s c).contexts = s.contexts := by
  let x := (s.views.filter fun v => v.ctx == c.id).foldl (fun s v => discardView s v.tag) s
  have hx : OnlyDiscarded s x := discardViews_discarded _ s
  have hlines : OnlyLines { x with waiting := x.waiting.filter fun w => w.ctx ≠ c.id } (contextDropped s c) := foldl_related .refl .trans dropDirty_lines _ _
  have hkeep : KeepsTrust s { x with waiting := x.waiting.filter fun w => w.ctx ≠ c.id } := by
    rw [show x = _ from hx]
    exact ⟨rfl, rfl, rfl, rfl⟩
  refine ⟨hkeep.trans hlines.keepsTrust, ?_⟩
  rw [show contextDropped s c = _ from hlines, show x = _ from hx]

/-- A context without dirty lines leaves the memory as it stands. -/
theorem contextDropped_clean {s : State} {c : Context} (h : ∀ d ∈ s.dirty, d.ctx ≠ c.id) : (contextDropped s c).mem = s.mem ∧ (contextDropped s c).dirty = s.dirty := by
  let x := (s.views.filter fun v => v.ctx == c.id).foldl (fun s v => discardView s v.tag) s
  have hx : OnlyDiscarded s x := discardViews_discarded _ s
  have hdirty : x.dirty = s.dirty := by rw [show x = _ from hx]
  have hmem : x.mem = s.mem := by rw [show x = _ from hx]
  have hnone : x.dirty.filter (fun d => d.ctx == c.id) = [] := by
    rw [hdirty, List.filter_eq_nil_iff]
    intro d hd
    simpa using h d hd
  have hdrop : contextDropped s c = { x with waiting := x.waiting.filter fun w => w.ctx ≠ c.id } := by
    rw [contextDropped, hnone, List.foldl_nil]
  exact ⟨by rw [hdrop]; exact hmem, by rw [hdrop]; exact hdirty⟩

theorem finishDestroy_keepsTrust (s : State) (c : Context) : KeepsTrust s (finishDestroy s c) := (contextDropped_keeps s c).1.trans (finishDestroy_keeps s c).1

/-- The destruction of contexts, one after another. -/
def destroyAll (s : State) (cs : List Context) : State := cs.foldl finishDestroy s

theorem destroyAll_keepsTrust (s : State) (cs : List Context) : KeepsTrust s (destroyAll s cs) := .fold finishDestroy_keepsTrust cs s

/-- A context that is left was there before, and was not named. -/
theorem destroyAll_contexts : ∀ (cs : List Context) (s : State), ∀ c ∈ (destroyAll s cs).contexts, c ∈ s.contexts ∧ ∀ x ∈ cs, x.id ≠ c.id
  | [], _, _, hc => ⟨hc, by simp⟩
  | x :: cs, s, c, hc => by
    obtain ⟨hin, hrest⟩ := destroyAll_contexts cs (finishDestroy s x) c hc
    obtain ⟨-, -, -, hctx⟩ := finishDestroy_keeps s x
    rw [hctx, (contextDropped_keeps s x).2, List.mem_filter] at hin
    refine ⟨hin.1, List.forall_mem_cons.mpr ⟨?_, hrest⟩⟩
    have hne : c.id ≠ x.id := by simpa using hin.2
    exact hne.symm

theorem destroyAll_mem : ∀ (cs : List Context) (s : State), (∀ d ∈ s.dirty, ∀ c ∈ cs, d.ctx ≠ c.id) → (destroyAll s cs).mem = s.mem
  | [], _, _ => rfl
  | c :: cs, s, h => by
    obtain ⟨hmem, hdirty⟩ := contextDropped_clean (s := s) (c := c) fun d hd => h d hd c List.mem_cons_self
    obtain ⟨-, hmem', hdirty', -⟩ := finishDestroy_keeps s c
    have hrest := destroyAll_mem cs (finishDestroy s c) fun d hd x hx => by
      rw [hdirty', hdirty] at hd
      exact h d (List.mem_of_mem_filter hd) x (List.mem_cons_of_mem _ hx)
    exact hrest.trans (hmem'.trans hmem)

/-- A team of a context that goes gives up its place. -/
theorem wipeTeam_keepsTrust (s : State) (t : Team) : KeepsTrust s (wipeTeam s t) := by
  have hzero : KeepsTrust s (if t.keepsAlloc then zeroScratch s t.core t.allocBase t.allocSize else s) := by
    split <;> exact ⟨rfl, rfl, rfl, rfl⟩
  exact hzero.trans (removeTeam_places _ t.id).keepsTrust

/-! ### An image is filled in (R59, R74) -/

theorem fillSpans_lines (pav : Nat) : ∀ (l : List (Nat × Nat)) (s : State) (bs : List Byte), OnlyLines s (fillSpans s pav l bs)
  | [], _, _ => .refl _
  | e :: l, s, bs => by
    have hone : OnlyLines s (sealSpan (wrMemBytes s e.1 (bs.take e.2)) pav e.1 e.2) := OnlyLines.trans (b := wrMemBytes s e.1 (bs.take e.2)) rfl (sealSpan_lines ..)
    exact hone.trans (fillSpans_lines pav l _ _)

theorem retagRecords_lines (s : State) (ts : List Team) : OnlyLines s (retagRecords s ts) := by
  refine foldl_related OnlyLines.refl OnlyLines.trans (fun s (t : Team) => foldl_related OnlyLines.refl OnlyLines.trans (fun s g => ?_) t.groups s) ts s
  split
  · exact wrFor_lines ..
  · exact .refl s

end Sys2Proof.Proofs
end

section
/-! SUPPORT and O58. The handover of pavilions: each operation's equation, and what it changes (R72 to R74). -/

namespace Sys2Proof.Proofs

open Machine Claims Laws

theorem exec_keyx (s : State) : exec .keyx s = .next (keyx s) := rfl
theorem exec_prepare (s : State) : exec .prepare s = .next (prepare s) := rfl
theorem exec_handoverCommit (s : State) : exec .handoverCommit s = .next (commitHo s) := rfl
theorem exec_handoverAbort (s : State) : exec .handoverAbort s = .next (abortHo s) := rfl
theorem exec_accept (s : State) : exec .accept s = .next (accept s) := rfl
theorem exec_handoverRelease (s : State) : exec .handoverRelease s = .next (releaseHo s) := rfl
theorem exec_statement (s : State) : exec .statement s = .next (statement s) := rfl

/-! ### The pavilion of HOPV -/

/-- An operation that ends where it began. -/
theorem endHo_here {s : State} {p : Pavilion} (hp : pav? s s.trust.hoPv = some p) (op : Nat) (code : BitVec 8) : HoEnds s (endHo s op code) op p.part code :=
  endHo_ends (s := s) ⟨rfl, rfl, rfl, rfl⟩ rfl rfl hp op code

theorem pav_modPav_ho {s x : State} {p : Pavilion} (hp : pav? x s.trust.hoPv = some p) {f : Pavilion → Pavilion} (hf : ∀ q, q.id = p.id → (f q).id = p.id) :
    pav? (modPav x p.id f) s.trust.hoPv = some (f p) := by
  rw [pav_id hp] at hf ⊢
  exact pav_modPav hp hf

/-- The pavilion and the root of trust are changed, as an accepted operation does before it ends. -/
def changed (x : State) (p : Pavilion) (f : Pavilion → Pavilion) (g : Trust → Trust) : State := modTrust (modPav x p.id f) g

section
variable (x : State) (p : Pavilion) (f : Pavilion → Pavilion) (g : Trust → Trust)

theorem changed_registers : (changed x p f g).trust = g x.trust ∧ (changed x p f g).host = x.host ∧ (changed x p f g).time = x.time := ⟨rfl, rfl, rfl⟩

theorem changed_records : (changed x p f g).mem = x.mem ∧ (changed x p f g).contexts = x.contexts ∧ (changed x p f g).teams = x.teams ∧
    (changed x p f g).grids = x.grids := ⟨rfl, rfl, rfl, rfl⟩

theorem pav_changed (id : Nat) : pav? (changed x p f g) id = pav? (modPav x p.id f) id := rfl

end

/-- A change of the trust registers that keeps the log and HOPV. -/
def KeepsLog (g : Trust → Trust) : Prop :=
  ∀ t, (g t).audit = t.audit ∧ (g t).nextSeq = t.nextSeq ∧ (g t).overwritten = t.overwritten ∧ (g t).hoPv = t.hoPv

/-- HOOUT is written with a signed text. -/
def publish (text : List Byte) (t : Trust) : Trust := { t with hoOut := signed text }

theorem publish_keepsLog (text : List Byte) : KeepsLog (publish text) := fun _ => ⟨rfl, rfl, rfl, rfl⟩

/-- An accepted operation ends with the pavilion of HOPV changed. -/
theorem endHo_changed {s x : State} (hkeep : KeepsTrust s x) {p : Pavilion} (hp : pav? s s.trust.hoPv = some p) {f : Pavilion → Pavilion}
    (hid : ∀ q, q.id = p.id → (f q).id = p.id) (hpart : (f p).part = p.part) {g : Trust → Trust} (hg : KeepsLog g) (op : Nat) :
    HoEnds s (endHo (changed x p f g) op 0) op p.part 0 ∧ pav? (endHo (changed x p f g) op 0) s.trust.hoPv = some (f p) := by
  have hpav : pav? (changed x p f g) s.trust.hoPv = some (f p) := by
    rw [pav_changed]
    exact pav_modPav_ho ((hkeep.pav _).trans hp) hid
  obtain ⟨-, htrust, hhost, htime⟩ := hkeep
  obtain ⟨haudit, hseq, hover, hpv⟩ := hg s.trust
  obtain ⟨ht, hh, htm⟩ := changed_registers x p f g
  rw [htrust] at ht
  have hlog : SameLog s (changed x p f g) := ⟨by rw [ht, haudit], by rw [ht, hseq], by rw [ht, hover], htm.trans htime⟩
  have hends := endHo_ends hlog (hh.trans hhost) (by rw [ht, hpv]) hpav op 0
  rw [hpart] at hends
  exact ⟨hends, by rw [pav_endHo]; exact hpav⟩

/-! ### KEYX, ABORT, RELEASE, STATEMENT -/

/-- A pavilion with the secret of a key pair. -/
def withSecret (k : BitVec 256) (p : Pavilion) : Pavilion := { p with secret := some k }

/-- The public key of a secret is published, signed with the epoch. -/
def publishKey (k : BitVec 256) (t : Trust) : Trust :=
  { t with ownX := Config.x25519Public k, ownSig := Config.ed25519Sign 0 (leBytes 32 (Config.x25519Public k).toNat ++ leBytes 8 t.epoch.toNat) }

section
variable {s : State} {p : Pavilion} (h : HoReady s p)
include h

theorem keyx_publishes : ∃ r, exec .keyx s = .next r ∧ HoEnds s r 5 p.part 0 ∧
    (∃ p', pav? r s.trust.hoPv = some p' ∧ p'.secret = some (Config.x25519Fresh s.fresh)) ∧ r.trust.ownX = Config.x25519Public (Config.x25519Fresh s.fresh) ∧
    r.trust.ownSig = Config.ed25519Sign 0 (leBytes 32 (Config.x25519Public (Config.x25519Fresh s.fresh)).toNat ++ leBytes 8 s.trust.epoch.toNat) := by
  obtain ⟨hlegal, hp⟩ := h
  let k := Config.x25519Fresh s.fresh
  have hx : exec .keyx s = .next (endHo (changed s p (withSecret k) (publishKey k)) 5 0) := by
    rw [exec_keyx, keyx, runHo_passes hlegal, hp]
    rfl
  obtain ⟨hends, hpav⟩ := endHo_changed (f := withSecret k) (g := publishKey k) (.refl s) hp (fun _ hq => hq) rfl (fun _ => ⟨rfl, rfl, rfl, rfl⟩) 5
  obtain ⟨-, -, -, -, hown, hsig⟩ := endHo_registers (changed s p (withSecret k) (publishKey k)) 5 0
  exact ⟨_, hx, hends, ⟨_, hpav, rfl⟩, hown, hsig⟩

theorem abort_live (hsrc : p.src = .live) :
    ∃ r, exec .handoverAbort s = .next r ∧ HoEnds s r 3 p.part 0 ∧ r.pavilions = s.pavilions ∧ r.contexts = s.contexts := by
  obtain ⟨hlegal, hp⟩ := h
  refine ⟨endHo s 3 0, ?_, endHo_here hp 3 0, by simp, by simp⟩
  rw [exec_handoverAbort, abortHo, runHo_passes hlegal, hp]
  simp only [hsrc]

theorem abort_gone (hsrc : p.src = .gone) : ∃ r, exec .handoverAbort s = .next r ∧ HoEnds s r 3 p.part 2 ∧ r.pavilions = s.pavilions := by
  obtain ⟨hlegal, hp⟩ := h
  refine ⟨endHo s 3 rConflict, ?_, endHo_here hp 3 rConflict, by simp⟩
  rw [exec_handoverAbort, abortHo, runHo_passes hlegal, hp]
  simp only [hsrc]

/-- A handover that ends with the pavilion's contexts running again, whatever it sets of the pavilion. -/
theorem runs_again {f : Pavilion → Pavilion} (hf : ∀ q, (f q).id = q.id ∧ (f q).part = q.part) (op : Nat) :
    HoEnds s (endHo (runCtxs (modPav s p.id f) p.id) op 0) op p.part 0 ∧ pav? (endHo (runCtxs (modPav s p.id f) p.id) op 0) s.trust.hoPv = some (f p) ∧
    ∀ c ∈ (endHo (runCtxs (modPav s p.id f) p.id) op 0).contexts, c.pav = p.id → 3 ∉ c.suspendedBy := by
  let x := runCtxs (modPav s p.id f) p.id
  have hkeep : KeepsTrust (modPav s p.id f) x := runCtxs_keepsTrust ..
  have hpav : pav? x s.trust.hoPv = some (f p) := (hkeep.pav _).trans (pav_modPav_ho h.2 fun q hq => (hf q).1.trans hq)
  have hends : HoEnds s (endHo x op 0) op (f p).part 0 := endHo_ends (s := s) hkeep.log hkeep.2.2.1 (by rw [hkeep.2.1]; rfl) hpav op 0
  rw [(hf p).2] at hends
  exact ⟨hends, by rw [pav_endHo]; exact hpav, by rw [endHo_contexts]; exact runCtxs_released _ p.id⟩

theorem abort_sealed (hsrc : p.src = .sealed) : ∃ r, exec .handoverAbort s = .next r ∧ HoEnds s r 3 p.part 0 ∧
    pav? r s.trust.hoPv = some { p with src := .live, transfer := none } ∧ ∀ c ∈ r.contexts, c.pav = p.id → 3 ∉ c.suspendedBy := by
  refine ⟨_, ?_, runs_again h (f := fun p => { p with src := .live, transfer := none }) (fun _ => ⟨rfl, rfl⟩) 3⟩
  obtain ⟨hlegal, hp⟩ := h
  rw [exec_handoverAbort, abortHo, runHo_passes hlegal, hp]
  simp only [hsrc]

theorem release_accepted (hdst : p.dst = .accepted) (hmove : p.copyKind = false)
    (hsigned : Config.ed25519Verify s.trust.peerId (commitText p) (BitVec.ofNat 512 (leNat (s.trust.hoIn.take 64))) = true) :
    ∃ r, exec .handoverRelease s = .next r ∧ HoEnds s r 6 p.part 0 ∧ pav? r s.trust.hoPv = some { p with dst := .released, transfer := none } ∧
    ∀ c ∈ r.contexts, c.pav = p.id → 3 ∉ c.suspendedBy := by
  refine ⟨_, ?_, runs_again h (f := fun p => { p with dst := .released, transfer := none }) (fun _ => ⟨rfl, rfl⟩) 6⟩
  obtain ⟨hlegal, hp⟩ := h
  have hproof : inSigns s (commitText p) = true := hsigned
  rw [exec_handoverRelease, releaseHo, runHo_passes hlegal, hp]
  simp [hdst, hmove, hproof]

theorem release_refused (hdst : p.dst ≠ .accepted) :
    ∃ r, exec .handoverRelease s = .next r ∧ HoEnds s r 6 p.part 2 ∧ r.pavilions = s.pavilions ∧ r.contexts = s.contexts := by
  obtain ⟨hlegal, hp⟩ := h
  refine ⟨endHo s 6 rConflict, ?_, endHo_here hp 6 rConflict, by simp, by simp⟩
  rw [exec_handoverRelease, releaseHo, runHo_passes hlegal, hp]
  simp [hdst]

end

theorem statement_signs {s : State} (h : HoLegal s) : ∃ r, exec .statement s = .next r ∧ r.trust.hoResult = 0 ∧ Rings s r 0 6 ∧
    r.trust.hoOut = signed (statementText (if s.trust.destroyedCopies.contains s.trust.hoPv then 1 else 2) s.trust.hoPv s.trust.epoch.toNat) := by
  let x := modTrust s (publish (statementText (if s.trust.destroyedCopies.contains s.trust.hoPv then 1 else 2) s.trust.hoPv s.trust.epoch.toNat))
  obtain ⟨hresult, -, -, hout, -⟩ := endHo_registers x 7 0
  have hx : exec .statement s = .next (endHo x 7 0) := by
    rw [exec_statement, statement, runHo_passes h]
    rfl
  exact ⟨_, hx, hresult, endHo_rings (s := s) (x := x) rfl 7 0, hout⟩

/-- Without a pavilion of HOPV every operation on one ends with CONFLICT. -/
theorem conflict_of_missing {s : State} (h : HoLegal s) (hnone : pav? s s.trust.hoPv = none) {i : Instr} {op : Nat}
    (hi : (i, op) ∈ [(.prepare, 1), (.handoverCommit, 2), (.handoverAbort, 3), (.accept, 4), (.keyx, 5), (.handoverRelease, 6)]) :
    exec i s = .next (endHo s op rConflict) := by
  simp only [List.mem_cons, Prod.mk.injEq, List.not_mem_nil, or_false] at hi
  rcases hi with ⟨rfl, rfl⟩ | ⟨rfl, rfl⟩ | ⟨rfl, rfl⟩ | ⟨rfl, rfl⟩ | ⟨rfl, rfl⟩ | ⟨rfl, rfl⟩
  · rw [exec_prepare, prepare, runHo_passes h, hnone]
  · rw [exec_handoverCommit, commitHo, runHo_passes h, hnone]
  · rw [exec_handoverAbort, abortHo, runHo_passes h, hnone]
  · rw [exec_accept, accept, runHo_passes h, hnone]
  · rw [exec_keyx, keyx, runHo_passes h, hnone]
  · rw [exec_handoverRelease, releaseHo, runHo_passes h, hnone]

theorem handoverSteps : HandoverSteps := by
  refine ⟨fun s p h => keyx_publishes h, fun s p h => abort_live h, fun s p h => abort_sealed h, fun s p h => abort_gone h, fun s p h => release_accepted h,
    fun s p h => release_refused h, fun s h => statement_signs h, fun s i op hi h hnone => ⟨_, conflict_of_missing h hnone hi, ?_⟩⟩
  obtain ⟨hresult, -⟩ := endHo_registers s op rConflict
  exact ⟨hresult, endHo_rings (s := s) (x := s) rfl op rConflict, by simp, by simp, by simp⟩

/-! ### PREPARE (R72, R74) -/

section
variable {s : State} {p : Pavilion} {k : BitVec 256} (h : HoReady s p) (hsrc : p.src = .live) (hdst : p.dst ≠ .accepted) (hk : p.secret = some k)
  (hpeer : peerSigned s = true)
include h hsrc hdst hk hpeer

/-- A COPY is sealed at once. -/
theorem prepare_copy (hcopy : s.trust.hoCopy = true) : exec .prepare s = .next (sealImage s p) := by
  obtain ⟨hlegal, hp⟩ := h
  rw [exec_prepare, prepare, runHo_passes hlegal, hp]
  simp [hsrc, hdst, hk, hpeer, hcopy]

/-- The state in which a MOVE waits for its teams. -/
def moveBegun (s : State) (p : Pavilion) : State := modTrust (suspendAll s (pavCtxs s p.id)) fun t => { t with hoBusy := true }

/-- A MOVE suspends the pavilion's contexts. -/
theorem prepare_move (hmove : s.trust.hoCopy = false) (hbuf : bufferOk s p s.trust.hoImg s.trust.hoLen.toNat = true)
    (hfits : (imageOf s p 0).2.length ≤ s.trust.hoLen.toNat) : exec .prepare s = .next (settlePrepare (moveBegun s p)) := by
  obtain ⟨hlegal, hp⟩ := h
  rw [exec_prepare, prepare, runHo_passes hlegal, hp]
  dsimp only
  rw [if_neg (by simp [hsrc, hdst, hk, hpeer]), if_neg (by simp [hmove, hbuf]), if_neg (Nat.not_lt.mpr hfits)]
  rfl

end

/-- A pavilion of which a COPY image has been written. -/
def copied (s : State) (key : BitVec 256) (digest : BitVec 512) (p : Pavilion) : Pavilion :=
  { p with digest := digest, copyKind := true, epoch := s.trust.epoch, copyPrepared := true, transfer := some key }

/-- No release statement stands for a pavilion, and HOLEN is the length of its image. -/
def newCopy (pv n : Nat) (t : Trust) : Trust := { t with destroyedCopies := t.destroyedCopies.filter fun x => x ≠ pv, hoLen := BitVec.ofNat 64 n }

/-- The state of a COPY whose image is written, before it ends. -/
def imaged (s : State) (p : Pavilion) (key : BitVec 256) (digest : BitVec 512) (img : List Byte) : State :=
  changed (wrMemBytes s s.trust.hoImg img) p (copied s key digest) (newCopy p.id img.length)

section
variable {s : State} {p : Pavilion} {k : BitVec 256} (hk : p.secret = some k)
  (hbuf : bufferOk s p s.trust.hoImg s.trust.hoLen.toNat = true)
include hk hbuf

theorem sealImage_copy (hcopy : s.trust.hoCopy = true) {digest : BitVec 512} {img : List Byte} (himg : imageOf s p (transferKey s k (Config.x25519Public k) s.trust.peerX) = (digest, img))
    (hfits : img.length ≤ s.trust.hoLen.toNat) :
    sealImage s p = endHo (imaged s p (transferKey s k (Config.x25519Public k) s.trust.peerX) digest img) 1 0 := by
  rw [sealImage, hk]
  simp only [himg, hbuf, Bool.not_true, Bool.false_eq_true, if_false, if_neg (Nat.not_lt.mpr hfits), hcopy, Bool.or_true]
  rfl

theorem sealImage_short {digest : BitVec 512} {img : List Byte} (himg : imageOf s p (transferKey s k (Config.x25519Public k) s.trust.peerX) = (digest, img))
    (hshort : s.trust.hoLen.toNat < img.length) : sealImage s p = endHo (setHoLen s img.length) 1 rConflict := by
  rw [sealImage, hk]
  simp only [himg, hbuf, Bool.not_true, Bool.false_eq_true, if_false, if_pos hshort]

end

theorem imaged_ends {s : State} {p : Pavilion} (hp : pav? s s.trust.hoPv = some p) (key : BitVec 256) (digest : BitVec 512) (img : List Byte) :
    HoEnds s (endHo (imaged s p key digest img) 1 0) 1 p.part 0 ∧ (endHo (imaged s p key digest img) 1 0).trust.hoLen = BitVec.ofNat 64 img.length ∧
    (endHo (imaged s p key digest img) 1 0).mem = (wrMemBytes s s.trust.hoImg img).mem ∧ 
    pav? (endHo (imaged s p key digest img) 1 0) s.trust.hoPv = some (copied s key digest p) := by
  have hkeep : KeepsTrust s (wrMemBytes s s.trust.hoImg img) := ⟨rfl, rfl, rfl, rfl⟩
  obtain ⟨hends, hpav⟩ := endHo_changed (f := copied s key digest) (g := newCopy p.id img.length) hkeep hp (fun _ hq => hq) rfl
    (fun _ => ⟨rfl, rfl, rfl, rfl⟩) 1
  obtain ⟨-, -, hlen, -⟩ := endHo_registers (imaged s p key digest img) 1 0
  obtain ⟨hmem, -⟩ := changed_records (wrMemBytes s s.trust.hoImg img) p (copied s key digest) (newCopy p.id img.length)
  exact ⟨hends, hlen, (endHo_mem ..).trans hmem, hpav⟩

theorem short_ends {s : State} {p : Pavilion} (hp : pav? s s.trust.hoPv = some p) (n : Nat) :
    HoEnds s (endHo (setHoLen s n) 1 rConflict) 1 p.part 2 ∧ (endHo (setHoLen s n) 1 rConflict).trust.hoLen = BitVec.ofNat 64 n ∧
    (endHo (setHoLen s n) 1 rConflict).mem = s.mem ∧ (endHo (setHoLen s n) 1 rConflict).pavilions = s.pavilions := by
  obtain ⟨-, -, hlen, -⟩ := endHo_registers (setHoLen s n) 1 rConflict
  exact ⟨endHo_ends (s := s) (x := setHoLen s n) ⟨rfl, rfl, rfl, rfl⟩ rfl rfl hp 1 rConflict, hlen, by rw [endHo_mem]; rfl, by rw [endHo_pavilions]; rfl⟩

theorem copyPrepared : CopyPrepared := by
  intro s p k h hsrc hdst hk hpeer hcopy hbuf body hd key img
  have hx := prepare_copy h hsrc hdst hk hpeer hcopy
  have himg : imageOf s p key = (Config.sha512 body, img) := by
    rw [imageOf, hcopy]
  refine ⟨fun hfits => ?_, fun hshort => ?_⟩
  · rw [sealImage_copy hk hbuf hcopy himg hfits] at hx
    exact ⟨_, hx, imaged_ends h.2 key _ img⟩
  · rw [sealImage_short hk hbuf himg hshort] at hx
    exact ⟨_, hx, short_ends h.2 img.length⟩

/-! ### COMMIT (R72) -/

/-- A team of the pavilion on its core keeps a MOVE waiting. -/
theorem moveBegun_waits {s : State} {p : Pavilion} (hp : pav? s s.trust.hoPv = some p) (hf : s.forks = [])
    (hon : ∃ t ∈ s.teams, t.onCore = true ∧ ∃ c ∈ s.contexts, c.pav = p.id ∧ t.ctx = c.id) : settlePrepare (moveBegun s p) = moveBegun s p := by
  obtain ⟨t, ht, htOn, c, hc, hcpav, htc⟩ := hon
  obtain ⟨u, hu, huctx, huOn⟩ := suspendAll_stay (pavCtxs s p.id) s hf t ht htOn
  obtain ⟨d, hd, hdid, hdpav⟩ := (suspendAll_contexts (pavCtxs s p.id) s hf).2 c hc
  have hkeep := suspendAll_keepsTrust s (pavCtxs s p.id)
  have hpav : pav? (moveBegun s p) (moveBegun s p).trust.hoPv = some p := by
    rw [show (moveBegun s p).trust.hoPv = s.trust.hoPv from hkeep.hoPv]
    exact (hkeep.pav _).trans hp
  have hwait : ((moveBegun s p).teams.any fun t => t.onCore && (pavCtxs (moveBegun s p) p.id).any fun c => c.id == t.ctx) = true := by
    have hd' : d ∈ pavCtxs (moveBegun s p) p.id := List.mem_filter.mpr ⟨hd, by simp [hdpav, hcpav]⟩
    have hmine : (pavCtxs (moveBegun s p) p.id).any (fun c => c.id == u.ctx) = true := List.any_eq_true.mpr ⟨d, hd', by simp [hdid, huctx, htc]⟩
    exact List.any_eq_true.mpr ⟨u, hu, by simp [huOn, hmine]⟩
  rw [settlePrepare, if_neg (by simp [moveBegun, modTrust]), hpav]
  exact if_pos hwait

theorem moveBegun_suspended {s : State} {p : Pavilion} (hf : s.forks = []) : ∀ c ∈ (moveBegun s p).contexts, c.pav = p.id → c.suspended = true := by
  intro c hc hpav
  obtain ⟨c', hc', hid, hpav', hsus⟩ := (suspendAll_contexts (pavCtxs s p.id) s hf).1 c hc
  exact hsus (.inr ⟨c', List.mem_filter.mpr ⟨hc', by simp [hpav', hpav]⟩, hid⟩)

/-- The pavilion's teams and contexts go, and its frames are queued for scrub. -/
def emptied (s : State) (p : Pavilion) : State :=
  let x := (s.teams.filter fun t => (pavCtxs s p.id).any fun c => c.id == t.ctx).foldl wipeTeam s
  p.frames.foldl (fun s f => queueScrub s (f.1 * 65536) 65536) (destroyAll x (pavCtxs s p.id))

theorem emptied_keepsTrust (s : State) (p : Pavilion) : KeepsTrust s (emptied s p) := by
  let x := (s.teams.filter fun t => (pavCtxs s p.id).any fun c => c.id == t.ctx).foldl wipeTeam s
  have hwipe : KeepsTrust s x := .fold wipeTeam_keepsTrust _ s
  have hframes : KeepsTrust (destroyAll x (pavCtxs s p.id)) (emptied s p) := .fold (fun s _ => (queueScrub_queued s _ _).keepsTrust) _ _
  exact hwipe.trans ((destroyAll_keepsTrust x _).trans hframes)

/-- The key of a pavilion whose handover commits is rotated no longer. -/
def unrotated (s : State) (pv : Nat) : State :=
  if rotating s pv then { s with rotation := { s.rotation with active := false, pointer := 0, newKey := 0 } } else s

theorem unrotated_frame (s : State) (pv : Nat) : unrotated s pv = { s with rotation := (unrotated s pv).rotation } := by
  unfold unrotated
  split <;> rfl

/-- A pavilion that has been moved away. -/
def movedAway (p : Pavilion) : Pavilion := { p with src := .gone, key := 0, transfer := none }

/-- The state of a COMMIT before it ends. -/
def committed (s : State) (p : Pavilion) : State :=
  changed (unrotated (emptied s p) p.id) p movedAway (publish (commitText p))

section
variable {s : State} {p : Pavilion} (h : HoReady s p)
include h

theorem commit_effect (hsrc : p.src = .sealed) (hsigned : inSigns s (receiptText p) = true) : exec .handoverCommit s = .next (endHo (committed s p) 2 0) := by
  obtain ⟨hlegal, hp⟩ := h
  rw [exec_handoverCommit, commitHo, runHo_passes hlegal, hp]
  simp only [hsrc, hsigned, ne_eq, not_true_eq_false, decide_false, Bool.not_true, Bool.or_false, Bool.false_eq_true, if_false]
  rfl

theorem commit_refused (hno : p.src ≠ .sealed ∨ inSigns s (receiptText p) = false) :
    ∃ r, exec .handoverCommit s = .next r ∧ HoEnds s r 2 p.part 2 ∧ r.pavilions = s.pavilions ∧ r.contexts = s.contexts := by
  obtain ⟨hlegal, hp⟩ := h
  refine ⟨endHo s 2 rConflict, ?_, endHo_here hp 2 rConflict, by simp, by simp⟩
  rw [exec_handoverCommit, commitHo, runHo_passes hlegal, hp]
  rcases hno with hsrc | hsigned
  · simp [hsrc]
  · simp [hsigned]

theorem committed_ends : HoEnds s (endHo (committed s p) 2 0) 2 p.part 0 ∧ pav? (endHo (committed s p) 2 0) s.trust.hoPv = some (movedAway p) ∧
    (endHo (committed s p) 2 0).trust.hoOut = signed (commitText p) := by
  have hkeep : KeepsTrust s (unrotated (emptied s p) p.id) := (emptied_keepsTrust s p).trans (by rw [unrotated_frame]; exact ⟨rfl, rfl, rfl, rfl⟩)
  obtain ⟨hends, hpav⟩ := endHo_changed (f := movedAway) hkeep h.2 (fun _ hq => hq) rfl (publish_keepsLog (commitText p)) 2
  obtain ⟨-, -, -, hout, -⟩ := endHo_registers (committed s p) 2 0
  exact ⟨hends, hpav, hout⟩

end

/-- What a COMMIT leaves where the pavilion holds no teams and no frames. -/
theorem committed_of_idle {s : State} {p : Pavilion} (hframes : p.frames = []) (hteams : ∀ t ∈ s.teams, ∀ c ∈ s.contexts, c.pav = p.id → t.ctx ≠ c.id) :
    (committed s p).contexts = (destroyAll s (pavCtxs s p.id)).contexts ∧ (committed s p).mem = (destroyAll s (pavCtxs s p.id)).mem := by
  have hnone : (s.teams.filter fun t => (pavCtxs s p.id).any fun c => c.id == t.ctx) = [] := by
    rw [List.filter_eq_nil_iff]
    intro t ht hany
    obtain ⟨c, hc, hct⟩ := List.any_eq_true.mp hany
    obtain ⟨hc', hcpav⟩ := List.mem_filter.mp hc
    exact hteams t ht c hc' (by simpa using hcpav) (by simpa using Eq.symm (by simpa using hct : c.id = t.ctx))
  have hemptied : emptied s p = destroyAll s (pavCtxs s p.id) := by
    rw [emptied, hframes, hnone]
    rfl
  have hkept : (unrotated (emptied s p) p.id).contexts = (emptied s p).contexts ∧ (unrotated (emptied s p) p.id).mem = (emptied s p).mem := by
    rw [unrotated_frame]
    exact ⟨rfl, rfl⟩
  obtain ⟨hmem, hctxs, -⟩ := changed_records (unrotated (emptied s p) p.id) p movedAway (publish (commitText p))
  obtain ⟨hkctxs, hkmem⟩ := hkept
  rw [← hemptied]
  exact ⟨hctxs.trans hkctxs, hmem.trans hkmem⟩

theorem moveCommits : MoveCommits := by
  refine ⟨?_, ?_, ?_, ?_⟩
  · intro s p k h hsrc hdst hk hpeer hmove hbuf hfits hf hon
    have hx := prepare_move h hsrc hdst hk hpeer hmove hbuf hfits
    rw [moveBegun_waits h.2 hf hon] at hx
    exact ⟨_, hx, rfl, (suspendAll_keepsTrust s (pavCtxs s p.id)).1, moveBegun_suspended hf⟩
  · intro s p h hsrc hframes _ hteams hdirty hsigned
    obtain ⟨hends, hpav, hout⟩ := committed_ends h
    obtain ⟨hctxs, hmem⟩ := committed_of_idle hframes hteams
    refine ⟨_, commit_effect h hsrc hsigned, hends, fun c hc hcpav => ?_, hpav, hout, ?_⟩
    · rw [endHo_contexts, hctxs] at hc
      obtain ⟨hin, hout⟩ := destroyAll_contexts _ s c hc
      exact hout c (List.mem_filter.mpr ⟨hin, by simp [hcpav]⟩) rfl
    · rw [endHo_mem, hmem]
      refine destroyAll_mem _ s fun d hd c hc => ?_
      obtain ⟨hc', hcpav⟩ := List.mem_filter.mp hc
      exact hdirty d hd c hc' (by simpa using hcpav)
  · intro s p h hsrc hsigned
    obtain ⟨⟨hresult, hbusy, -⟩, hpav, hout⟩ := committed_ends h
    exact ⟨_, commit_effect h hsrc hsigned, hresult, hbusy, hpav, hout⟩
  · exact fun s p h hno => commit_refused h hno

/-! ### ACCEPT (R74) -/

/-- The cargo of an image's body, with this device's numbers. -/
def cargoHere (s : State) (p : Pavilion) (body : List Byte) : Cargo := renumber s p (unpackCargo ((body.drop 24).take (fieldAt body 0 8)))

/-- The state with the bytes of an image's frames, arenas and spill pools. -/
def filled (s : State) (p : Pavilion) (body : List Byte) : State :=
  let frames := ((p.frames.map Prod.fst).take (fieldAt body 16 8)).map fun f => (f * 65536, 65536)
  fillSpans (fillSpans s p.id frames (body.drop (24 + fieldAt body 0 8 + fieldAt body 8 8))) p.id (poolSpans (cargoHere s p body).contexts)
    ((body.drop (24 + fieldAt body 0 8)).take (fieldAt body 8 8))

/-- The state with an image's records beside its own. -/
def withCargo (s : State) (c : Cargo) : State :=
  { s with contexts := s.contexts ++ c.contexts, grids := s.grids ++ c.grids, teams := s.teams ++ c.teams, views := s.views ++ c.views
           versions := s.versions ++ c.versions, families := s.families ++ c.families, holds := s.holds ++ c.holds
           sets := s.sets ++ c.sets, forks := s.forks ++ c.forks, deferred := s.deferred ++ c.deferred, nextId := cargoTop s c }

/-- The state that holds an image's bytes and records. -/
def unpacked (s : State) (p : Pavilion) (body : List Byte) : State :=
  retagRecords (withCargo (filled s p body) (cargoHere s p body)) (cargoHere s p body).teams

/-- A pavilion that has accepted the image of a header. -/
def acceptedPav (p : Pavilion) (hd : List Byte) (key : BitVec 256) : Pavilion :=
  { p with dst := .accepted, digest := BitVec.ofNat 512 (fieldAt hd 16 64), copyKind := fieldAt hd 4 4 == 1, epoch := BitVec.ofNat 64 (fieldAt hd 8 8), transfer := some key }

/-- The state of an ACCEPT before it ends. -/
def acceptDone (s : State) (p p' : Pavilion) (body : List Byte) : State :=
  changed (unpacked s p body) p (fun _ => p') (publish (receiptText p'))

theorem filled_lines (s : State) (p : Pavilion) (body : List Byte) : OnlyLines s (filled s p body) := (fillSpans_lines ..).trans (fillSpans_lines ..)

theorem unpacked_keepsTrust (s : State) (p : Pavilion) (body : List Byte) : KeepsTrust s (unpacked s p body) := by
  have hcargo : KeepsTrust (filled s p body) (withCargo (filled s p body) (cargoHere s p body)) := ⟨rfl, rfl, rfl, rfl⟩
  exact (filled_lines s p body).keepsTrust.trans (hcargo.trans (retagRecords_lines ..).keepsTrust)

theorem unpacked_records (s : State) (p : Pavilion) (body : List Byte) : (unpacked s p body).contexts = s.contexts ++ (cargoHere s p body).contexts ∧
    (unpacked s p body).teams = s.teams ++ (cargoHere s p body).teams ∧ (unpacked s p body).grids = s.grids ++ (cargoHere s p body).grids := by
  have htag : OnlyLines (withCargo (filled s p body) (cargoHere s p body)) (unpacked s p body) := retagRecords_lines ..
  have hfill := filled_lines s p body
  rw [show unpacked s p body = _ from htag]
  exact ⟨congrArg (·.contexts ++ _) hfill, congrArg (·.teams ++ _) hfill, congrArg (·.grids ++ _) hfill⟩

/-- A context of an image is held and bound to the pavilion. -/
theorem cargoHere_contexts (s : State) (p : Pavilion) (body : List Byte) :
    ∀ x ∈ (cargoHere s p body).contexts, x.suspended = true ∧ x.part = p.part ∧ x.pav = p.id := by
  intro x hx
  obtain ⟨y, -, rfl⟩ := List.mem_map.mp hx
  exact ⟨rfl, rfl, rfl⟩

section
variable {s : State} {p : Pavilion} {k : BitVec 256} (h : HoReady s p) (hk : p.secret = some k)
include h hk

theorem accept_effect {body : List Byte} (hopen : Config.openBytes (transferKey s k s.trust.peerX (Config.x25519Public k))
      ((homeBytes s 0 s.trust.hoImg s.trust.hoLen.toNat).take 80) ((homeBytes s 0 s.trust.hoImg s.trust.hoLen.toNat).drop 80) = some body)
    (hdst : p.dst = .none) (hpeer : peerSigned s = true)
    (hdigest : Config.sha512 body = BitVec.ofNat 512 (fieldAt ((homeBytes s 0 s.trust.hoImg s.trust.hoLen.toNat).take 80) 16 64))
    (hid : fieldAt ((homeBytes s 0 s.trust.hoImg s.trust.hoLen.toNat).take 80) 0 4 = p.id) (hroom : fieldAt body 16 8 ≤ p.frames.length) :
    exec .accept s = .next (endHo (acceptDone s p (acceptedPav p ((homeBytes s 0 s.trust.hoImg s.trust.hoLen.toNat).take 80)
      (transferKey s k s.trust.peerX (Config.x25519Public k))) body) 4 0) := by
  obtain ⟨hlegal, hp⟩ := h
  rw [exec_accept, accept, runHo_passes hlegal, hp]
  dsimp only
  split
  · next hnone => simp [hk] at hnone
  · next k' hk' =>
    obtain rfl : k = k' := Option.some.inj (hk.symm.trans hk')
    rw [hopen]
    dsimp only
    rw [if_neg (by simp [hdst, hpeer, hid, hdigest, Nat.not_lt.mpr hroom])]
    rfl

theorem accept_refused (hopen : Config.openBytes (transferKey s k s.trust.peerX (Config.x25519Public k))
      ((homeBytes s 0 s.trust.hoImg s.trust.hoLen.toNat).take 80) ((homeBytes s 0 s.trust.hoImg s.trust.hoLen.toNat).drop 80) = none) :
    exec .accept s = .next (endHo s 4 rConflict) := by
  obtain ⟨hlegal, hp⟩ := h
  rw [exec_accept, accept, runHo_passes hlegal, hp]
  simp only [hk, hopen]

end

theorem acceptDone_ends {s : State} {p p' : Pavilion} (h : HoReady s p) (hid : p'.id = p.id) (hpart : p'.part = p.part) (body : List Byte) :
    HoEnds s (endHo (acceptDone s p p' body) 4 0) 4 p.part 0 ∧ pav? (endHo (acceptDone s p p' body) 4 0) s.trust.hoPv = some p' ∧
    (endHo (acceptDone s p p' body) 4 0).trust.hoOut = signed (receiptText p') := by
  obtain ⟨hends, hpav⟩ := endHo_changed (f := fun _ => p') (unpacked_keepsTrust s p body) h.2 (fun _ _ => hid) hpart (publish_keepsLog (receiptText p')) 4
  obtain ⟨-, -, -, hout, -⟩ := endHo_registers (acceptDone s p p' body) 4 0
  exact ⟨hends, hpav, hout⟩

theorem imageAccepted : ImageAccepted := by
  intro s p k h hk img key
  constructor
  · intro body hopen hdst hpeer hdigest hid hroom c f g
    obtain ⟨hends, hpav, hout⟩ := acceptDone_ends h (p' := acceptedPav p (img.take 80) key) rfl rfl body
    obtain ⟨hctxs, hteams, hgrids⟩ := unpacked_records s p body
    let p' := acceptedPav p (img.take 80) key
    obtain ⟨hmem, hctxs', hteams', hgrids'⟩ := changed_records (unpacked s p body) p (fun _ => p') (publish (receiptText p'))
    exact ⟨_, accept_effect h hk hopen hdst hpeer hdigest hid hroom, hends, (endHo_contexts ..).trans (hctxs'.trans hctxs), (endHo_teams ..).trans (hteams'.trans hteams),
      (endHo_grids ..).trans (hgrids'.trans hgrids), cargoHere_contexts s p body, (endHo_mem ..).trans hmem, _, hpav, rfl, rfl, hout⟩
  · intro hopen
    exact ⟨_, accept_refused h hk hopen, endHo_here h.2 4 rConflict, by simp, by simp, by simp⟩

/-- Settles O58: each operation's checks pass to its effect, which keeps the log and the pavilion of HOPV until the operation ends. -/
theorem handover : Obligations.Handover := ⟨handoverSteps, copyPrepared, moveCommits, imageAccepted⟩

end Sys2Proof.Proofs
end

section
/-! PROOF. What a step is for each move of the schedule (R91, R276), and O6. -/

namespace Sys2Proof.Proofs

open Machine Claims

theorem step_of_event {s : State} {i : Instr} (h : nextMove s = .event i) : Machine.step s = exec i (beginStep s (popMove s)) := by
  unfold Machine.step
  rw [h]

theorem step_of_issue {s : State} {core quad k : Nat} (h : nextMove s = .issue core quad k) :
    Machine.step s = issueStep (slotKey core quad k) (beginStep s (popMove s)) := by
  unfold Machine.step
  rw [h]

theorem step_of_tick {s : State} (h : nextMove s = .tick) : Machine.step s = .next (tickMove (beginStep s (popMove s))) := by
  unfold Machine.step
  rw [h]

theorem issueStep_of_idle {s : State} {key : Nat} (h : turnOf s key = .idle) : issueStep key s = .next s := by
  unfold issueStep
  rw [h]

theorem issueStep_of_word {s : State} {key : Nat} {w : Word} {i : Instr} (h : turnOf s key = .word w) (hdec : decode w = .ok i) :
    issueStep key s = exec i (openTurn s key) := by
  unfold issueStep
  rw [h]
  dsimp only
  rw [hdec]

/-- Settles O6: each move of the schedule has its equation of `step`, and a turn that finds a word its equation of `issueStep`. -/
theorem stepRunsTheDecodedInstruction : Obligations.StepRunsTheDecodedInstruction :=
  ⟨fun _ _ _ _ _ _ hmove hturn hdec => (step_of_issue hmove).trans (issueStep_of_word hturn hdec), fun _ _ hmove => step_of_event hmove,
    fun _ _ _ _ hmove hturn => (step_of_issue hmove).trans (issueStep_of_idle hturn), fun _ hmove => ⟨_, step_of_tick hmove⟩⟩

end Sys2Proof.Proofs
end

section
/-! SUPPORT. Slots that hold no more than others did, and the slots of a state (R92, R93). -/

namespace Sys2Proof.Proofs

open Machine Claims Laws

/-- Slots `l'` hold no more than slots `l` did: no key and no flock is new. -/
def Thins (l l' : List Slot) : Prop := (l'.map Slot.key).Sublist (l.map Slot.key) ∧ ∀ b ∈ l', ∃ a ∈ l, b.flock.Sublist a.flock

@[simp] theorem thins_refl (l : List Slot) : Thins l l := ⟨List.Sublist.refl _, fun b hb => ⟨b, hb, List.Sublist.refl _⟩⟩

@[simp] theorem thins_nil (l : List Slot) : Thins l [] := ⟨List.nil_sublist _, fun _ hb => absurd hb List.not_mem_nil⟩

theorem Thins.trans {a b c : List Slot} (hab : Thins a b) (hbc : Thins b c) : Thins a c := by
  refine ⟨hbc.1.trans hab.1, fun x hx => ?_⟩
  obtain ⟨y, hy, hxy⟩ := hbc.2 x hx
  obtain ⟨z, hz, hyz⟩ := hab.2 y hy
  exact ⟨z, hz, hxy.trans hyz⟩

theorem thins_map {f : Slot → Slot} (hkey : ∀ a, (f a).key = a.key) (hflock : ∀ a, (f a).flock.Sublist a.flock) (l : List Slot) : Thins l (l.map f) := by
  constructor
  · rw [List.map_map, show Slot.key ∘ f = Slot.key from funext hkey]
  · intro b hb
    obtain ⟨a, ha, rfl⟩ := List.mem_map.mp hb
    exact ⟨a, ha, hflock a⟩

theorem updWhere_keys {f : Slot → Slot} (hkey : ∀ a, (f a).key = a.key) (p : Slot → Bool) (l : List Slot) : (updWhere p f l).map Slot.key = l.map Slot.key := by
  rw [updWhere, List.map_map]
  refine List.map_congr_left fun a _ => ?_
  rw [Function.comp_apply]
  split
  · exact hkey a
  · rfl

theorem thins_updWhere {f : Slot → Slot} (hkey : ∀ a, (f a).key = a.key) (hflock : ∀ a, (f a).flock.Sublist a.flock) (p : Slot → Bool) (l : List Slot) :
    Thins l (updWhere p f l) := by
  refine thins_map (fun a => ?_) (fun a => ?_) l <;> split <;> simp [hkey, hflock]

/-- The slots of a state. -/
def slotsOf (s : State) : List Slot := s.slots

/-- Updates of other parts of the state. -/
@[simp] theorem slots_mk (s : State) (time agenda cur fresh nextId islands powerLimit gateStatus links mailbox host contexts launchSeq grids launches teams ageing fused stamps mem hostMem scratch
    banks lines seals dirty waiting gate leases constCache tlb walkCache locks pins versions views commits sets holds waiters families forks deferred engines
    penUpdates bulk troughs matrix tiles logged partIf partitions engLeases pavIf pavilions rotation frames trust observe) :
    slotsOf ⟨time, agenda, cur, fresh, nextId, islands, powerLimit, gateStatus, links, mailbox, host, contexts, launchSeq, grids, launches, teams, s.slots, ageing,
      fused, stamps, mem, hostMem, scratch, banks, lines, seals, dirty, waiting, gate, leases, constCache, tlb, walkCache, locks, pins, versions, views, commits, sets,
      holds, waiters, families, forks, deferred, engines, penUpdates, bulk, troughs, matrix, tiles, logged, partIf, partitions, engLeases, pavIf, pavilions,
      rotation, frames, trust, observe⟩ = slotsOf s := (rfl)

@[simp] theorem slots_ite (c : Prop) [Decidable c] (a b : State) : slotsOf (if c then a else b) = if c then slotsOf a else slotsOf b := apply_ite slotsOf c a b

@[simp] theorem thins_ite (L : List Slot) (c : Prop) [Decidable c] (a b : List Slot) :
    Thins L (if c then a else b) ↔ if c then Thins L a else Thins L b := by split <;> rfl

@[simp] theorem slots_foldl {α : Type} {g : State → α → State} (h : ∀ s x, slotsOf (g s x) = slotsOf s) (l : List α) (s : State) :
    slotsOf (l.foldl g s) = slotsOf s := by
  induction l generalizing s with
  | nil => rfl
  | cons x l ih => exact (ih _).trans (h s x)

@[simp] theorem thins_foldl {L : List Slot} {α : Type} {g : State → α → State} (h : ∀ s x, Thins (slotsOf s) (slotsOf (g s x))) (l : List α) {s : State}
    (hs : Thins L (slotsOf s)) : Thins L (slotsOf (l.foldl g s)) := by
  induction l generalizing s with
  | nil => exact hs
  | cons x l ih => exact ih (hs.trans (h s x))

theorem thins_each {L : List Slot} {α : Type} {f : α → State → Host.Outcome State Fault Refusal} (h : ∀ x s, Thins (slotsOf s) (slotsOf (after (f x s) s))) (l : List α)
    {s : State} (hs : Thins L (slotsOf s)) : Thins L (slotsOf (each l f s)) := thins_foldl (fun s x => h x s) l hs

theorem snd_eq {α β : Type} {p : α × β} {x : α} {y : β} (h : p = (x, y)) : y = p.2 := by rw [h]

@[simp] theorem after_next (t s : State) : after (.next t) s = t := rfl

@[simp] theorem key_mk (core quad k fid due : Nat) (flock : List Tid) (lastClass : Option Nat) (paid stalled yielded : Bool) (low : List (Nat × Word)) :
    Slot.key ⟨core, quad, k, flock, fid, due, lastClass, paid, stalled, yielded, low⟩ = slotKey core quad k := (rfl)

@[simp] theorem slotKey_eq_key (a : Slot) : slotKey a.core a.quad a.k = a.key := (rfl)

end Sys2Proof.Proofs
end

section
/-! SUPPORT. What the operations of an issue leave of the slots: traps, pre-emption, the turn of a flock (R91 to R95, R173, R190). -/

namespace Sys2Proof.Proofs

open Machine Claims Laws

variable {L : List Slot} {s : State}

/-! ### State operations, traps and pre-emption (R173, R190) -/

@[simp] theorem slots_wrMemBytes (s : State) (a : Nat) (bs : List Byte) : slotsOf (wrMemBytes s a bs) = slotsOf s := (rfl)
@[simp] theorem slots_wrScratch (s : State) (core a : Nat) (bs : List Byte) : slotsOf (wrScratch s core a bs) = slotsOf s := (rfl)
@[simp] theorem slots_modTeam (s : State) (id : Nat) (f : Team → Team) : slotsOf (modTeam s id f) = slotsOf s := (rfl)
@[simp] theorem slots_modGrid (s : State) (id : Nat) (f : Grid → Grid) : slotsOf (modGrid s id f) = slotsOf s := (rfl)
@[simp] theorem slots_modCtx (s : State) (id : Nat) (f : Context → Context) : slotsOf (modCtx s id f) = slotsOf s := (rfl)
@[simp] theorem slots_modFamily (s : State) (id : Nat) (f : Family → Family) : slotsOf (modFamily s id f) = slotsOf s := (rfl)
@[simp] theorem slots_modFork (s : State) (id : Nat) (f : Fork → Fork) : slotsOf (modFork s id f) = slotsOf s := (rfl)
@[simp] theorem slots_modPav (s : State) (id : Nat) (f : Pavilion → Pavilion) : slotsOf (modPav s id f) = slotsOf s := (rfl)
@[simp] theorem slots_modEng (s : State) (id : Nat) (f : EngOp → EngOp) : slotsOf (modEng s id f) = slotsOf s := (rfl)
@[simp] theorem slots_modGroup (s : State) (team g : Nat) (f : Machine.Group → Machine.Group) : slotsOf (modGroup s team g f) = slotsOf s := (rfl)
@[simp] theorem slots_modThread (s : State) (t : Tid) (f : Thread → Thread) : slotsOf (modThread s t f) = slotsOf s := (rfl)
@[simp] theorem slots_bump (s : State) (team n k : Nat) : slotsOf (bump s team n k) = slotsOf s := (rfl)
@[simp] theorem slots_retireGroups (s : State) (team : Nat) : slotsOf (retireGroups s team) = slotsOf s := (rfl)

@[simp] theorem thins_modSlot (key : Nat) {f : Slot → Slot} (hkey : ∀ a, (f a).key = a.key) (hflock : ∀ a, (f a).flock.Sublist a.flock) (h : Thins L (slotsOf s)) :
    Thins L (slotsOf (modSlot s key f)) :=
  h.trans (thins_updWhere hkey hflock _ _)

/-- Either of two states thins the slots. -/
theorem thins_either {c : Prop} [Decidable c] {a b : State} (ha : Thins L (slotsOf a)) (hb : Thins L (slotsOf b)) : Thins L (slotsOf (if c then a else b)) := by
  split
  · exact ha
  · exact hb

@[simp] theorem thins_leaveFlock (t : Tid) (h : Thins L (slotsOf s)) : Thins L (slotsOf (leaveFlock s t)) :=
  h.trans (thins_updWhere (f := fun sl => { sl with flock := sl.flock.filter (fun u => u ≠ t) }) (fun _ => rfl) (fun _ => List.filter_sublist) _ _)

@[simp] theorem slots_reseal (s : State) (pav line : Nat) (changed : Bool) : slotsOf (reseal s pav line changed) = slotsOf s := by
  unfold reseal
  split <;> rfl

@[simp] theorem slots_sealSpan (s : State) (pav base n : Nat) : slotsOf (sealSpan s pav base n) = slotsOf s := by simp [sealSpan]
@[simp] theorem slots_wrFor (s : State) (ctx a : Nat) (bs : List Byte) : slotsOf (wrFor s ctx a bs) = slotsOf s := by simp [wrFor]
@[simp] theorem slots_hostStores (s : State) (w : HostStores) : slotsOf (hostStores s w) = slotsOf s := by simp [hostStores]
@[simp] theorem slots_noteDirty (s : State) (ctx line : Nat) : slotsOf (noteDirty s ctx line) = slotsOf s := (rfl)

@[simp] theorem slots_commitLine (s : State) (ctx line : Nat) (f : Memory → Memory) : slotsOf (commitLine s ctx line f) = slotsOf s := by
  unfold commitLine
  rw [slots_ite]
  split
  · rfl
  · dsimp only
    split <;> simp

@[simp] theorem slots_mergeVersion (s : State) (v : Version) : slotsOf (mergeVersion s v) = slotsOf s := by simp [mergeVersion]
@[simp] theorem slots_mergeLine (s : State) (line : Nat) : slotsOf (mergeLine s line) = slotsOf s := by simp [mergeLine]
@[simp] theorem slots_writeView (s : State) (ctx tag a : Nat) (bs : List Byte) : slotsOf (writeView s ctx tag a bs) = slotsOf s := by simp [writeView]
@[simp] theorem slots_completionTime (s : State) (line a : Nat) : slotsOf (completionTime s line a).2 = slotsOf s := (rfl)

@[simp] theorem slots_grantLease (s : State) (line t cls : Nat) : slotsOf (grantLease s line t cls).2 = slotsOf s := by
  unfold grantLease
  split
  · rfl
  · dsimp only
    split <;> rfl

@[simp] theorem slots_raiseVector (s : State) (fn vec : Nat) : slotsOf (raiseVector s fn vec) = slotsOf s := by simp [raiseVector]

@[simp] theorem slots_writeFault (s : State) (r : FaultRec) : slotsOf (writeFault s r).2 = slotsOf s := by
  rw [writeFault_records]
  rfl

@[simp] theorem slots_leaveGranules (s : State) (team : Nat) : slotsOf (leaveGranules s team) = slotsOf s := (rfl)
@[simp] theorem slots_poisonStatus (s : State) (ts : List Tid) (tok rd : Nat) : slotsOf (poisonStatus s ts tok rd) = slotsOf s := by simp [poisonStatus]
@[simp] theorem slots_cancelEngines (s : State) (team : Nat) : slotsOf (cancelEngines s team) = slotsOf s := by simp [cancelEngines]
@[simp] theorem slots_dropTeamMemory (s : State) (team : Nat) : slotsOf (dropTeamMemory s team) = slotsOf s := (rfl)

@[simp] theorem thins_clearFlocks (team : Nat) (h : Thins L (slotsOf s)) : Thins L (slotsOf (clearFlocks s team)) :=
  h.trans (thins_map (f := fun sl => { sl with flock := sl.flock.filter fun k => k.team ≠ team }) (fun _ => rfl) (fun _ => List.filter_sublist) _)

@[simp] theorem thins_freePlace (team : Nat) (h : Thins L (slotsOf s)) : Thins L (slotsOf (freePlace s team)) := by
  unfold freePlace
  dsimp only
  split
  · split <;> simp [h]
  · simp [h]

@[simp] theorem thins_removeTeam (team : Nat) (h : Thins L (slotsOf s)) : Thins L (slotsOf (removeTeam s team)) := by simp [removeTeam, h]

@[simp] theorem thins_undoFork (f : Fork) (h : Thins L (slotsOf s)) : Thins L (slotsOf (undoFork s f)) := by
  unfold undoFork
  dsimp only
  split <;> simp [h]

@[simp] theorem slots_passChosen (s : State) (team rd : Nat) (val : Word) : slotsOf (passChosen s team rd val) = slotsOf s := (rfl)
@[simp] theorem slots_adoptParent (s : State) (f : Fork) (team : Nat) : slotsOf (adoptParent s f team) = slotsOf s := (rfl)
@[simp] theorem slots_replaceTeam (s : State) (f : Fork) (old team : Nat) : slotsOf (replaceTeam s f old team) = slotsOf s := (rfl)
@[simp] theorem slots_continueTeam (s : State) (f : Fork) (team idx : Nat) (val : Word) : slotsOf (continueTeam s f team idx val) = slotsOf s := (rfl)
@[simp] theorem thins_stopChoice (f : Fork) (win : Nat) (h : Thins L (slotsOf s)) : Thins L (slotsOf (stopChoice s f win).2) := by simp [stopChoice, h]

@[simp] theorem slots_leaveChoice (s : State) (t : Team) : slotsOf (leaveChoice s t) = slotsOf s := by
  unfold leaveChoice
  split <;> rfl

@[simp] theorem thins_cutTeam (id : Nat) (why : PreemptWhy) (h : Thins L (slotsOf s)) : Thins L (slotsOf (cutTeam s id why)) := by
  unfold cutTeam
  split
  · exact h
  · next t ht =>
    have hclear : slotsOf (leaveChoice (leaveGranules (clearFlocks s id) id) t) = slotsOf (clearFlocks s id) := by simp
    exact hclear.symm ▸ thins_clearFlocks id h

@[simp] theorem thins_requestTeam (id : Nat) (why : PreemptWhy) (h : Thins L (slotsOf s)) : Thins L (slotsOf (requestTeam s id why)) := by
  unfold requestTeam
  split
  · exact h
  · rw [slots_ite]
    split
    · exact h
    · split
      · simp [h]
      · rw [slots_ite]
        split
        · exact h
        · split <;> simp [h]

@[simp] theorem thins_requestPreempt (id : Nat) (why : PreemptWhy) (h : Thins L (slotsOf s)) : Thins L (slotsOf (requestPreempt s id why)) := by
  unfold requestPreempt
  split
  · exact h
  · simp [h]

@[simp] theorem thins_endRoutine (t : Tid) (st : LaneStatus) (h : Thins L (slotsOf s)) : Thins L (slotsOf (endRoutine s t st)) := by simp [endRoutine, h]

@[simp] theorem thins_routineTrap (t : Tid) (tr : Trap) (va : VAddr) (detail : BitVec 64) (h : Thins L (slotsOf s)) :
    Thins L (slotsOf (routineTrap s t tr va detail)) := by
  unfold routineTrap
  split
  · exact h
  · simp [h]

@[simp] theorem thins_takeTrapFull (t : Tid) (tr : Trap) (ret : Pc) (va : VAddr) (detail : BitVec 64) (h : Thins L (slotsOf s)) :
    Thins L (slotsOf (takeTrapFull s t tr ret va detail)) := by
  unfold takeTrapFull
  split
  · rw [slots_ite]
    split
    · simp [h]
    · dsimp only
      rw [slots_ite]
      split
      · simp [h]
      · split <;> simp [h]
  · exact h

@[simp] theorem thins_takeTrapAt (t : Tid) (tr : Trap) (ret : Pc) (h : Thins L (slotsOf s)) :
    Thins L (slotsOf (takeTrapAt s t tr ret)) := by simp [takeTrapAt, h]

@[simp] theorem thins_takeTrap (t : Tid) (tr : Trap) (h : Thins L (slotsOf s)) : Thins L (slotsOf (takeTrap s t tr)) := by
  unfold takeTrap
  split
  · simp [h]
  · exact h

@[simp] theorem thins_takeTraps (l : List (Tid × Trap)) (h : Thins L (slotsOf s)) : Thins L (slotsOf (takeTraps s l)) := by simp [takeTraps, h]

/-! ### Operands -/

@[simp] theorem slots_settleTeam (s : State) (id : Nat) : slotsOf (settleTeam s id) = slotsOf s := (rfl)

/-! ### The turn of a flock (R91 to R95, R290) -/

@[simp] theorem thins_reachHeaders (l : List Tid) (h : Thins L (slotsOf s)) : Thins L (slotsOf (reachHeaders s l)) := by simp [reachHeaders, h]

@[simp] theorem slots_enterClause (s : State) (t : Tid) : slotsOf (enterClause s t) = slotsOf s := by
  unfold enterClause
  split
  · rfl
  · rw [slots_ite]
    split
    · rfl
    · split <;> rfl

@[simp] theorem thins_startWait (t : Tid) (w : Wait) (h : Thins L (slotsOf s)) : Thins L (slotsOf (startWait s t w)) := by simp [startWait, h]
@[simp] theorem slots_progress (s : State) (ctx : Nat) : slotsOf (progress s ctx) = slotsOf s := (rfl)

@[simp] theorem slots_teamProgress (s : State) (team : Nat) : slotsOf (teamProgress s team) = slotsOf s := by
  unfold teamProgress
  split <;> rfl

@[simp] theorem slots_markFlock (s : State) (team fid : Nat) : slotsOf (markFlock s team fid) = slotsOf s := (rfl)

@[simp] theorem thins_takeNap (t : Tid) (h : Thins L (slotsOf s)) : Thins L (slotsOf (takeNap s t)) := by
  unfold takeNap
  split
  · exact h
  · simp [h]

/-- The flock of a slot, none when the slot has no entry. -/
def flockAt (s : State) (key : Nat) : List Tid := match slot? s key with | some x => x.flock | none => []

theorem flockAt_of_key {a : Slot} (ha : a ∈ slotsOf s) : ∃ c ∈ slotsOf s, flockAt s a.key = c.flock := by
  unfold flockAt slot?
  cases hfind : s.slots.find? (fun sl => sl.key == a.key) with
  | none => exact absurd (beq_self_eq_true a.key) (List.find?_eq_none.mp hfind a ha)
  | some c => exact ⟨c, List.mem_of_find?_eq_some hfind, rfl⟩

/-- A slot that is given a part of its own flock. -/
theorem thins_shortenFlock (key : Nat) {f : Slot → Slot} (hkey : ∀ a, (f a).key = a.key) (hflock : ∀ a, (f a).flock.Sublist (flockAt s key))
    (h : Thins L (slotsOf s)) : Thins L (slotsOf (modSlot s key f)) := by
  refine h.trans ⟨(updWhere_keys hkey (fun sl => sl.key == key) s.slots).symm ▸ List.Sublist.refl _, fun b hb => ?_⟩
  obtain ⟨a, ha, rfl⟩ := List.mem_map.mp hb
  split
  · next hk =>
    obtain ⟨c, hc, hflockAt⟩ := flockAt_of_key ha
    exact ⟨c, hc, hflockAt ▸ beq_iff_eq.mp hk ▸ hflock a⟩
  · exact ⟨a, ha, List.Sublist.refl _⟩

@[simp] theorem thins_endClause (key : Nat) (hword : Word) (h : Thins L (slotsOf s)) : Thins L (slotsOf (endClause s key hword)) := by
  unfold endClause
  split
  · exact h
  · next sl _ =>
    split
    · exact h
    · next t0 _ _ =>
      have hnap : Thins L (slotsOf (sl.flock.foldl takeNap (markFlock s t0.team sl.fid))) := by simp [h]
      refine thins_either (thins_foldl (fun s t => by simp) _ (thins_shortenFlock key (fun _ => rfl) (fun _ => List.filter_sublist) (thins_reachHeaders _ hnap)))
        (thins_modSlot key (fun _ => rfl) (fun _ => List.nil_sublist _) (thins_reachHeaders _ hnap))

@[simp] theorem thins_violate (t : Tid) (word : Word) (h : Thins L (slotsOf s)) : Thins L (slotsOf (violate s t word)) := by
  unfold violate
  split
  · exact h
  · simp [h]

theorem thins_banned {s' : State} {t : Tid} {word : Word} (heq : banned s t word = some s') (h : Thins L (slotsOf s)) : Thins L (slotsOf s') := by
  unfold banned at heq
  split at heq
  · cases heq
  · split at heq
    · cases heq; simp [h]
    · split at heq <;> cases heq; simp [h]

/-- Checks of which each, where it fails, thins the slots. -/
theorem thins_passing {f : State → Tid → Option State} (hf : ∀ s t s', f s t = some s' → Thins (slotsOf s) (slotsOf s')) :
    ∀ (l : List Tid) {s : State}, Thins L (slotsOf s) → Thins L (slotsOf (passing f l s).2)
  | [], _, h => h
  | t :: l, s, h => by
    unfold passing
    split
    · next s' hs => exact thins_passing hf l (h.trans (hf s t s' hs))
    · exact thins_passing hf l h

theorem thins_operandCheck {fid : Nat} {word : Word} {u : Uses} {s' : State} {t : Tid} (heq : operandCheck fid word u s t = some s') (h : Thins L (slotsOf s)) :
    Thins L (slotsOf s') := by
  unfold operandCheck at heq
  split at heq
  · cases heq
  · obtain ⟨tr, -, rfl⟩ := Option.map_eq_some_iff.mp heq
    exact thins_takeTrap t tr h

@[simp] theorem thins_preChecks (fid : Nat) (word : Word) (u : Uses) (adm : List Tid) (h : Thins L (slotsOf s)) : Thins L (slotsOf (preChecks fid word u adm s).2) := by
  have hban : ∀ s t s', (if u.ban then banned s t word else none) = some s' → Thins (slotsOf s) (slotsOf s') := by
    intro s t s' heq
    split at heq
    · exact thins_banned heq (thins_refl _)
    · cases heq
  have hops : ∀ s t s', operandCheck fid word u s t = some s' → Thins (slotsOf s) (slotsOf s') := fun _ _ _ heq => thins_operandCheck heq (thins_refl _)
  have hpass : Thins L (slotsOf (passing (operandCheck fid word u) (checkers u (passing (fun s t => if u.ban then banned s t word else none) adm s).1)
      (passing (fun s t => if u.ban then banned s t word else none) adm s).2).2) := thins_passing hops _ (thins_passing hban adm h)
  unfold preChecks
  dsimp only
  split
  · exact thins_takeTraps _ hpass
  · exact hpass

@[simp] theorem thins_takeOwed (l : List Tid) (h : Thins L (slotsOf s)) : Thins L (slotsOf (takeOwed s l)) := by
  unfold takeOwed
  refine thins_foldl (fun s x => ?_) _ h
  split <;> simp

@[simp] theorem thins_retire (key : Nat) (p : Pc) (st : BitVec 2) (u : Uses) (n : Nat) (h : Thins L (slotsOf s)) :
    Thins L (slotsOf (retire key p st u n s)) := by
  unfold retire
  split
  · exact h
  · dsimp only
    rw [slots_ite]
    split
    · apply thins_endClause
      split <;> simp [h]
    · split <;> simp [h]

@[simp] theorem thins_stallSlot (key team : Nat) (h : Thins L (slotsOf s)) : Thins L (slotsOf (stallSlot s key team)) := by
  unfold stallSlot
  rw [slots_bump]
  apply thins_modSlot
  · simp
  · split <;> simp
  · exact h

/-- An issue thins the slots when its effect does. -/
theorem thins_issueHold {eff : Slot → List Tid → State → State} (heff : ∀ sl l s, Thins (slotsOf s) (slotsOf (eff sl l s))) (word : Word) (st : BitVec 2) (u : Uses)
    (hold : Lane → Bool) (h : Thins L (slotsOf s)) : Thins L (slotsOf (issueHold word st u hold eff s)) := by
  unfold issueHold
  split
  · exact h
  · next sl0 _ =>
    split
    · exact h
    · next t0 _ _ =>
      have howed : Thins L (slotsOf (takeOwed (settleTeam s t0.team) sl0.flock)) := by simp [h]
      dsimp only
      split
      · exact howed
      · split
        · exact howed
        · split
          · exact howed
          · split
            · exact thins_takeTraps _ howed
            · refine thins_either (by simp [howed]) (thins_either (by simp [howed]) (thins_retire _ _ _ _ _ ?_))
              rw [slots_teamProgress]
              exact (thins_preChecks _ _ _ _ howed).trans (heff ..)

@[simp] theorem slots_writeLane (s : State) (core fid lat : Nat) (t : Tid) (ws : List (Reg × BitVec 80)) :
    slotsOf (writeLane s core fid lat t ws) = slotsOf s := (rfl)

@[simp] theorem thins_laneEffect (lat : Nat) (word : Word) (f : Lane → LaneRes) (sl : Slot) (l : List Tid) (h : Thins L (slotsOf s)) :
    Thins L (slotsOf (laneEffect lat word f sl l s)) := by
  unfold laneEffect
  refine thins_foldl (fun s x => ?_) _ h
  split
  · simp
  · split <;> simp

@[simp] theorem slots_writeS (s : State) (core fid team g n : Nat) (x : Word) : slotsOf (writeS s core fid team g n x) = slotsOf s := (rfl)
@[simp] theorem slots_writeB (s : State) (core fid team n : Nat) (x : VAddr) : slotsOf (writeB s core fid team n x) = slotsOf s := (rfl)

/-- An effect on those of the lanes that are found thins the slots when the effect on each does. -/
theorem thins_onLanes {f : Lane → State → State} (hf : ∀ ln s, Thins (slotsOf s) (slotsOf (f ln s))) (word : Word) (fid : Nat) (l : List Tid) (h : Thins L (slotsOf s)) :
    Thins L (slotsOf (l.foldl (fun s t => match lane? s t fid word with | some ln => f ln s | none => s) s)) :=
  thins_foldl (fun s t => by split <;> simp [hf]) l h

theorem thins_perLane {f : Lane → State → State} (hf : ∀ ln s, Thins (slotsOf s) (slotsOf (f ln s))) (word : Word) (sl : Slot) (l : List Tid) (h : Thins L (slotsOf s)) :
    Thins L (slotsOf (perLane f word sl l s)) := thins_onLanes hf word sl.fid _ h

theorem thins_perGroup {f : Lane → State → State} (hf : ∀ ln s, Thins (slotsOf s) (slotsOf (f ln s))) (word : Word) (sl : Slot) (l : List Tid) (h : Thins L (slotsOf s)) :
    Thins L (slotsOf (perGroup f word sl l s)) := thins_onLanes hf word sl.fid _ h

theorem thins_perTeam {f : Lane → State → State} (hf : ∀ ln s, Thins (slotsOf s) (slotsOf (f ln s))) (word : Word) (sl : Slot) (l : List Tid) (h : Thins L (slotsOf s)) :
    Thins L (slotsOf (perTeam f word sl l s)) := by
  unfold perTeam
  split
  · exact h
  · split
    · exact h.trans (hf ..)
    · exact h

end Sys2Proof.Proofs
end

section
/-! SUPPORT. What accesses, messages of the link and pens leave of the slots. -/

namespace Sys2Proof.Proofs

open Machine Claims Laws

variable {L : List Slot} {s : State}

/-! ### Translations -/

@[simp] theorem slots_keepWalk (s : State) (l : List WalkEntry) : slotsOf (keepWalk s l) = slotsOf s := by simp [keepWalk]
@[simp] theorem slots_enterTrans (s : State) (p : TransAt) (va : Nat) (e : Tlb) : slotsOf (enterTrans s p va e) = slotsOf s := (rfl)

@[simp] theorem slots_keepTrans (s : State) (p : TransAt) (ctx va : Nat) (t : Machine.Trans) : slotsOf (keepTrans s p ctx va t) = slotsOf s := by
  unfold keepTrans
  dsimp only
  split <;> rfl

@[simp] theorem slots_dropTrans (s : State) (p : TransAt) (ctx va : Nat) : slotsOf (dropTrans s p ctx va) = slotsOf s := (rfl)
@[simp] theorem slots_useTrans (s : State) (p : TransAt) (va : Nat) (e : Tlb) : slotsOf (useTrans s p va e) = slotsOf s := by simp [useTrans]

@[simp] theorem slots_translateNow (s : State) (fresh : Bool) (p : TransAt) (c : Context) (va kind : Nat) :
    slotsOf (translateNow s fresh p c va kind).2 = slotsOf s := by
  unfold translateNow
  split
  · split
    · simp
    · dsimp only
      split <;> simp
  · dsimp only
    split <;> simp

/-! ### Accesses that join a queue -/

@[simp] theorem slots_enqueue (s : State) (t : Tid) (r : Req) (inst : Nat) (pc : Word) (granted : Bool) :
    slotsOf (enqueue s t r inst pc granted).2 = slotsOf s := by
  unfold enqueue
  split
  · split <;> split <;> split <;> rfl
  · split <;> rfl

@[simp] theorem thins_takeMemTrap (t : Tid) (m : MemTrap) (h : Thins L (slotsOf s)) : Thins L (slotsOf (takeMemTrap s t m)) := by
  unfold takeMemTrap
  split
  · simp [h]
  · exact h

@[simp] theorem slots_addWaiter (s : State) (w : Waiter) : slotsOf (addWaiter s w) = slotsOf s := (rfl)

@[simp] theorem thins_actPre (t : Tid) (inst : Nat) (p : Pre) (h : Thins L (slotsOf s)) : Thins L (slotsOf (actPre s t inst p)) := by
  unfold actPre
  split
  · split
    · simp [h]
    · exact h
    · simp [h]
    · dsimp only
      split <;> simp [h]
  · exact h

/-! ### The Bascy link -/

@[simp] theorem slots_modPort (s : State) (p : Nat) (f : Port → Port) : slotsOf (modPort s p f) = slotsOf s := (rfl)

@[simp] theorem slots_putMsg (s : State) (p : Nat) (m : LinkMsg) : slotsOf (putMsg s p m) = slotsOf s := by
  unfold putMsg
  split <;> rfl

@[simp] theorem slots_pumpOne (s : State) (o : OutMsg) : slotsOf (pumpOne s o) = slotsOf s := by
  unfold pumpOne
  rw [slots_ite]
  split
  · rfl
  · split
    · rfl
    · simp

@[simp] theorem slots_pumpLinks (s : State) : slotsOf (pumpLinks s) = slotsOf s := by simp [pumpLinks]
@[simp] theorem slots_sendMsg (s : State) (o : OutMsg) : slotsOf (sendMsg s o) = slotsOf s := by simp [sendMsg]
@[simp] theorem slots_sendRequest (s : State) (src : ReqBy) (part : Nat) (m : LinkMsg) : slotsOf (sendRequest s src part m) = slotsOf s := by simp [sendRequest]
@[simp] theorem slots_arriveFlit (s : State) (port dev : Nat) (h' : BitVec 64) : slotsOf (arriveFlit s port dev h') = slotsOf s := by simp [arriveFlit]
@[simp] theorem slots_askReplay (s : State) (port dev : Nat) : slotsOf (askReplay s port dev) = slotsOf s := (rfl)

@[simp] theorem slots_replayFlit (s : State) (port dev : Nat) (seq : BitVec 12) : slotsOf (replayFlit s port dev seq) = slotsOf s := by
  unfold replayFlit
  dsimp only
  split
  · rfl
  · simp

@[simp] theorem slots_failFlit (s : State) (port : Nat) (f : Flit) : slotsOf (failFlit port s f) = slotsOf s := by
  unfold failFlit
  split <;> rfl

@[simp] theorem slots_moveFlits (s : State) (port : Nat) : slotsOf (moveFlits s port) = slotsOf s := by
  unfold moveFlits
  split
  · simp
  · rfl

@[simp] theorem slots_linkTick (s : State) : slotsOf (linkTick s) = slotsOf s := by simp [linkTick]

/-! ### Control transfers -/

@[simp] theorem thins_transfer (target : Int) (word : Word) (upd : Thread → Thread) (l : Lane) (h : Thins L (slotsOf s)) :
    Thins L (slotsOf (transfer target word upd l s)) := by
  unfold transfer
  dsimp only
  rw [slots_ite]
  split
  · simp [h]
  · split
    · simp [h]
    · rw [slots_ite]
      split
      · simp [h]
      · split <;> simp [h]

@[simp] theorem thins_callTo (target : Int) (word : Word) (l : Lane) (h : Thins L (slotsOf s)) :
    Thins L (slotsOf (callTo target word l s)) := by simp [callTo, h]

@[simp] theorem slots_execSfuF64Result (s : State) (team tok : Nat) : slotsOf (after (execSfuF64Result team tok s) s) = slotsOf s := by
  unfold execSfuF64Result
  split
  · rfl
  · simp

/-! ### Pens -/

@[simp] theorem slots_putPen (s : State) (core a : Nat) (p : PenWords) : slotsOf (putPen s core a p) = slotsOf s := (rfl)

@[simp] theorem slots_restampPens (s : State) (core base size : Nat) (old new : BitVec 8) :
    slotsOf (restampPens s core base size old new) = slotsOf s := by simp [restampPens]

@[simp] theorem slots_acquireAfter (s : State) (t : Tid) : slotsOf (acquireAfter s t) = slotsOf s := (rfl)
@[simp] theorem slots_wakeWaiter (s : State) (t : Tid) : slotsOf (wakeWaiter s t) = slotsOf s := by simp [wakeWaiter]

@[simp] theorem thins_settlePen (core a : Nat) (h : Thins L (slotsOf s)) : Thins L (slotsOf (settlePen s core a)) := by
  unfold settlePen
  dsimp only
  split <;> simp [h]

@[simp] theorem thins_combine (core a : Nat) (op : PenOp) (ts : List Tid) (off : Nat) (h : Thins L (slotsOf s)) :
    Thins L (slotsOf (combine s core a op ts off)) := by
  unfold combine
  split
  · simp [h]
  · dsimp only
    split
    · exact h
    · simp [h]

@[simp] theorem thins_bankWrite (core a : Nat) (bs : List Byte) (h : Thins L (slotsOf s)) : Thins L (slotsOf (bankWrite s core a bs)) := by simp [bankWrite, h]

/-! ### Scratchpad and queued accesses -/

@[simp] theorem thins_memEffect (word : Word) (f : Lane → Pre) (sl : Slot) (l : List Tid) (h : Thins L (slotsOf s)) :
    Thins L (slotsOf (memEffect word f sl l s)) := by
  unfold memEffect
  dsimp only
  refine thins_foldl (fun s x => ?_) _ h
  split <;> simp

end Sys2Proof.Proofs
end

section
/-! SUPPORT. What the reference machine, rendezvous, views and tasks leave of the slots. -/

namespace Sys2Proof.Proofs

open Machine Claims Laws

variable {L : List Slot} {s : State}

/-! ### The reference machine (R156, R157) -/

@[simp] theorem slots_modAcc (s : State) (t : Tid) (id : Nat) (f : Access → Access) : slotsOf (modAcc s t id f) = slotsOf s := (rfl)
@[simp] theorem slots_removeAcc (s : State) (t : Tid) (id : Nat) : slotsOf (removeAcc s t id) = slotsOf s := (rfl)
@[simp] theorem slots_deliverRegs (s : State) (t : Tid) (tok : Nat) (ws : List (Reg × BitVec 80)) : slotsOf (deliverRegs s t tok ws) = slotsOf s := (rfl)

@[simp] theorem slots_complete (s : State) (t : Tid) (a : Access) (bs : List Byte) : slotsOf (complete s t a bs) = slotsOf s := by
  unfold complete
  dsimp only
  split <;> rfl

@[simp] theorem slots_raiseWct (s : State) (t : Tid) (team cluster device system : Nat) : slotsOf (raiseWct s t team cluster device system) = slotsOf s := (rfl)
@[simp] theorem slots_wakeExt (s : State) (line : Nat) : slotsOf (wakeExt s line) = slotsOf s := by simp [wakeExt]

@[simp] theorem thins_failLane (c : Cause) (x : Tid × Nat) (h : Thins L (slotsOf s)) : Thins L (slotsOf (failLane s c x)) := by
  unfold failLane
  split
  · exact h
  · simp [h]

@[simp] theorem slots_homeLoad (s : State) (t : Tid) (a : Access) (pa : Nat) : slotsOf (homeLoad s t a pa).2 = slotsOf s := by
  unfold homeLoad
  split
  · simp
  · dsimp only
    split <;> simp

@[simp] theorem slots_loadValue (s : State) (t : Tid) (a : Access) (pa : Nat) : slotsOf (loadValue s t a pa).2 = slotsOf s := by
  unfold loadValue
  split
  · split
    · rfl
    · simp
  · split
    · rfl
    · simp

@[simp] theorem slots_constantValue (s : State) (t : Tid) (pa n : Nat) : slotsOf (constantValue s t pa n).2 = slotsOf s := by
  unfold constantValue
  split
  · dsimp only
    split
    · rfl
    · simp
  · dsimp only
    split
    · rfl
    · simp

@[simp] theorem slots_passAdecl (s : State) (t : Tid) (acc : Nat) : slotsOf (passAdecl s t acc) = slotsOf s := (rfl)

@[simp] theorem thins_finishAdecl (t : Tid) (a : Access) (bs : List Byte) (h : Thins L (slotsOf s)) : Thins L (slotsOf (finishAdecl s t a bs)) := by
  unfold finishAdecl
  dsimp only
  split
  · simp [h]
  · exact h

/-- The value of a load that is delivered. -/
theorem thins_deliverLoad (t : Tid) (a : Access) (pa : Nat) (h : Thins L (slotsOf s)) :
    let r := if a.ord == 6 then constantValue s t pa a.size else loadValue s t a pa
    Thins L (slotsOf (complete r.2 t a r.1)) := by
  dsimp only
  rw [slots_complete]
  split <;> simp [h]

@[simp] theorem thins_performLoad (t : Tid) (a : Access) (pa : Nat) (h : Thins L (slotsOf s)) : Thins L (slotsOf (performLoad s t a pa)) := by
  unfold performLoad
  cases a.op
  case waitExt v => exact thins_either (by simp [h]) (by simp [h])
  case adecl => exact thins_finishAdecl t a _ (by simp [h])
  all_goals exact thins_deliverLoad t a pa h

@[simp] theorem thins_reachLoad (t : Tid) (a : Access) (pa : Nat) (h : Thins L (slotsOf s)) : Thins L (slotsOf (reachLoad s t a pa)) := by simp [reachLoad, h]

@[simp] theorem thins_execPerformLoad (t : Tid) (acc : Nat) (h : Thins L (slotsOf s)) : Thins L (slotsOf (after (execPerformLoad t acc s) s)) := by
  unfold execPerformLoad
  split
  · split
    · simp [h]
    · exact h
  · exact h

@[simp] theorem slots_execExpire (s : State) (store line : Nat) : slotsOf (after (execExpire store line s) s) = slotsOf s := (rfl)

@[simp] theorem slots_execEnterGate (s : State) (t : Tid) (acc : Nat) : slotsOf (after (execEnterGate t acc s) s) = slotsOf s := by
  unfold execEnterGate
  split
  · split
    · simp
    · rfl
  · rfl

@[simp] theorem slots_noteCompletion (s : State) (view c : Nat) : slotsOf (noteCompletion s view c) = slotsOf s := (rfl)
@[simp] theorem slots_drainEntry (s : State) (e : GateEntry) : slotsOf (drainEntry s e) = slotsOf s := by simp [drainEntry]

@[simp] theorem slots_execDrain (s : State) (t : Tid) (acc : Nat) : slotsOf (after (execDrain t acc s) s) = slotsOf s := by
  unfold execDrain
  split
  · simp
  · rfl

@[simp] theorem slots_execPerformAtomic (s : State) (t : Tid) (acc : Nat) : slotsOf (after (execPerformAtomic t acc s) s) = slotsOf s := by
  unfold execPerformAtomic
  split
  · split
    · simp
    · rfl
  · rfl

@[simp] theorem thins_atomicTurn (t : Tid) (a : Access) (pa : Nat) (h : Thins L (slotsOf s)) : Thins L (slotsOf (atomicTurn s t a pa)) := by
  unfold atomicTurn
  split
  · dsimp only
    split <;> simp [h]
  · exact h

@[simp] theorem slots_answerPeer (s : State) (w : Waiting) (old : List Byte) : slotsOf (answerPeer s w old) = slotsOf s := by
  unfold answerPeer
  split
  · rfl
  · simp

@[simp] theorem slots_applyWaiting (s : State) (w : Waiting) : slotsOf (applyWaiting s w) = slotsOf s := by simp [applyWaiting]

@[simp] theorem thins_applyCompletions (h : Thins L (slotsOf s)) : Thins L (slotsOf (applyCompletions s)) := by
  unfold applyCompletions
  dsimp only
  refine thins_foldl (fun s x => by simp) _ ?_
  refine thins_foldl (fun s x => ?_) _ (by simp [h])
  split <;> simp

@[simp] theorem thins_bankAtomic (t : Tid) (a : Access) (core pa : Nat) (op : AtomOp) (h : Thins L (slotsOf s)) :
    Thins L (slotsOf (bankAtomic s t a core pa op)) := by simp [bankAtomic, h]

@[simp] theorem thins_bankAccess (t : Tid) (a : Access) (h : Thins L (slotsOf s)) : Thins L (slotsOf (bankAccess s t a)) := by
  unfold bankAccess
  dsimp only
  split
  · split
    · simp [h]
    · simp [h]
    · simp [h]
    · simp [h]
    · simp [h]
    · simp [h]
    · exact h
  · exact h

@[simp] theorem thins_execScratchAccess (t : Tid) (acc : Nat) (h : Thins L (slotsOf s)) : Thins L (slotsOf (after (execScratchAccess t acc s) s)) := by
  unfold execScratchAccess
  split
  · split
    · simp [h]
    · exact h
  · exact h

@[simp] theorem slots_execFinishFence (s : State) (t : Tid) (acc : Nat) : slotsOf (after (execFinishFence t acc s) s) = slotsOf s := by
  unfold execFinishFence
  split
  · split
    · simp
    · rfl
  · rfl

@[simp] theorem slots_sendRemote (s : State) (t : Tid) (a : Access) (dev pa : Nat) : slotsOf (sendRemote s t a dev pa) = slotsOf s := by simp [sendRemote]

@[simp] theorem slots_answerLanes (s : State) (l : List (Tid × Nat)) (old : List Byte) : slotsOf (answerLanes s l old) = slotsOf s := by
  refine List.foldlRecOn (motive := fun (x : List Byte × State) => slotsOf x.2 = slotsOf s) l _ rfl fun x hx k _ => ?_
  split
  · exact (slots_complete ..).trans hx
  · exact hx

@[simp] theorem thins_execExternalAccess (t : Tid) (acc : Nat) (h : Thins L (slotsOf s)) : Thins L (slotsOf (after (execExternalAccess t acc s) s)) := by
  unfold execExternalAccess
  split
  · split
    · split
      · exact h
      · split
        · simp [h]
        · split <;> simp [h]
        · simp [h]
        · exact h
    · exact h
  · exact h

@[simp] theorem slots_execPcieCompletion (s : State) (t : Tid) (acc : Nat) : slotsOf (after (execPcieCompletion t acc s) s) = slotsOf s := by
  unfold execPcieCompletion
  split
  · split
    · simp
    · rfl
  · rfl

@[simp] theorem slots_execPostedWriteAccepted (s : State) (t : Tid) (acc : Nat) : slotsOf (after (execPostedWriteAccepted t acc s) s) = slotsOf s := by
  unfold execPostedWriteAccepted
  split
  · split
    · simp
    · rfl
  · rfl

@[simp] theorem slots_keepRecord (s : State) (seq : Option Nat) (r : FaultRec) : slotsOf (keepRecord s seq r) = slotsOf s := by
  unfold keepRecord
  split <;> rfl

@[simp] theorem thins_logFault (t : Tid) (a : Access) (f : TFault) (h : Thins L (slotsOf s)) : Thins L (slotsOf (logFault s t a f)) := by
  unfold logFault
  split
  · exact h
  · simp [h]

@[simp] theorem thins_putPa (t : Tid) (a : Access) (c : Context) (pa lease : Nat) (h : Thins L (slotsOf s)) :
    Thins L (slotsOf (putPa s t a c pa lease)) := by simp [putPa, h]

@[simp] theorem thins_walkAccess (t : Tid) (a : Access) (fresh : Bool) (h : Thins L (slotsOf s)) : Thins L (slotsOf (walkAccess s t a fresh)) := by
  unfold walkAccess
  split
  · exact h
  · dsimp only
    split
    · apply thins_putPa
      split
      · exact h
      · simp [h]
    · apply thins_logFault
      rw [slots_modAcc]
      split
      · exact h
      · simp [h]

@[simp] theorem slots_wakeFetch (s : State) (team : Nat) (page : Nat → Bool) : slotsOf (wakeFetch s team page) = slotsOf s := (rfl)

@[simp] theorem thins_walkFetch (t : Tid) (off : Word) (fresh : Bool) (h : Thins L (slotsOf s)) : Thins L (slotsOf (walkFetch s t off fresh)) := by
  unfold walkFetch
  split
  · dsimp only
    split
    · simp [h]
    · rw [slots_ite]
      split
      · exact h
      · split <;> simp [h]
  · exact h

@[simp] theorem thins_execPageWalk (t : Tid) (acc : Nat) (off : Word) (h : Thins L (slotsOf s)) : Thins L (slotsOf (after (execPageWalk t acc off s) s)) := by
  unfold execPageWalk
  split
  · simp [h]
  · split
    · simp [h]
    · exact h

/-! ### Groups, teams and barriers that meet -/

@[simp] theorem slots_dropGroupRdv (s : State) (team g : Nat) (off : Word) : slotsOf (dropGroupRdv s team g off) = slotsOf s := (rfl)

@[simp] theorem thins_arriveGroup (vals : Lane → List Word) (l : Lane) (h : Thins L (slotsOf s)) : Thins L (slotsOf (arriveGroup vals l s)) := by
  unfold arriveGroup
  dsimp only
  rw [slots_ite]
  split
  · simp [h]
  · split
    · rw [slots_ite]
      split
      · refine thins_foldl (fun s x => ?_) _ h
        simp
      · exact h
    · exact h

@[simp] theorem thins_waitMembers (l : List Tid) (w : Wait) (arrived : State → Tid → Bool) (h : Thins L (slotsOf s)) :
    Thins L (slotsOf (waitMembers s l w arrived)) := by
  unfold waitMembers
  refine thins_foldl (fun s x => ?_) _ h
  split <;> simp

@[simp] theorem slots_passMember (s : State) (t : Tid) (ws : List (Reg × BitVec 80)) : slotsOf (passMember s t ws) = slotsOf s := by simp [passMember]
@[simp] theorem slots_completeGroup (s : State) (team g : Nat) (r : Rdv) : slotsOf (completeGroup s team g r) = slotsOf s := by simp [completeGroup]
@[simp] theorem slots_arriveTeam (s : State) (vals : Lane → List Word) (l : Lane) : slotsOf (arriveTeam vals l s) = slotsOf s := (rfl)
@[simp] theorem slots_dropTeamRdv (s : State) (team : Nat) (off : Word) : slotsOf (dropTeamRdv s team off) = slotsOf s := (rfl)

@[simp] theorem thins_trapArrived (team : Nat) (r : Rdv) (tr : Trap) (h : Thins L (slotsOf s)) :
    Thins L (slotsOf (trapArrived s team r tr)) := by simp [trapArrived, h]

@[simp] theorem slots_passArrived (s : State) (team : Nat) (r : Rdv) (ws : Tid → List (Reg × BitVec 80)) :
    slotsOf (passArrived s team r ws) = slotsOf s := by simp [passArrived]

@[simp] theorem slots_performArrivals (s : State) (b : Bar) : slotsOf (performArrivals s b) = slotsOf s := by
  unfold performArrivals
  refine slots_foldl (fun s x => ?_) _ s
  split
  · split
    · simp
    · rfl
  · rfl

@[simp] theorem slots_meetBar (s : State) (team : Nat) (b : Bar) : slotsOf (meetBar s team b) = slotsOf s := by simp [meetBar]

@[simp] theorem slots_meetBars (s : State) (team : Nat) : slotsOf (meetBars s team) = slotsOf s := by
  unfold meetBars
  split
  · simp
  · rfl

@[simp] theorem thins_arriveBar (id : Nat) (roles : Option Word) (l : Lane) (h : Thins L (slotsOf s)) : Thins L (slotsOf (arriveBar id roles l s)) := by
  unfold arriveBar
  split <;> simp [h]

@[simp] theorem thins_barEffect (id : Nat) (roles : Option Word) (word : Word) (sl : Slot) (l : List Tid) (h : Thins L (slotsOf s)) :
    Thins L (slotsOf (barEffect id roles word sl l s)) := by
  unfold barEffect
  dsimp only
  split
  · rw [slots_meetBars]
    refine thins_foldl (fun s x => ?_) _ h
    split <;> simp
  · exact h

/-! ### Views, granules and tasks -/

theorem slots_allotTag {s s' : State} {c : Context} {parent n : Nat} (h : allotTag s c parent = some (n, s')) : slotsOf s' = slotsOf s := by
  unfold allotTag at h
  split at h
  · cases h
  · obtain ⟨m, -, hm⟩ := Option.map_eq_some_iff.mp h
    cases hm
    simp

@[simp] theorem slots_requestCommit (s : State) (tag : Nat) (family fork : Option Nat) : slotsOf (requestCommit s tag family fork) = slotsOf s := (rfl)
@[simp] theorem slots_aliasView (s : State) (tag : Nat) : slotsOf (aliasView s tag) = slotsOf s := (rfl)
@[simp] theorem slots_discardView (s : State) (tag : Nat) : slotsOf (discardView s tag) = slotsOf s := (rfl)
@[simp] theorem slots_passGranule (s : State) (w : Waiter) : slotsOf (passGranule s w) = slotsOf s := by simp [passGranule]

@[simp] theorem thins_grantAccess (w : Waiter) (h : Thins L (slotsOf s)) : Thins L (slotsOf (grantAccess s w)) := by
  unfold grantAccess
  dsimp only
  split <;> simp [h]

@[simp] theorem thins_performWaited (w : Waiter) (h : Thins L (slotsOf s)) : Thins L (slotsOf (performWaited s w)) := by
  unfold performWaited
  dsimp only
  split
  · split <;> simp [h]
  · simp [h]

@[simp] theorem thins_refuseAccess (t : Tid) (acc : Nat) (tr : Trap) (h : Thins L (slotsOf s)) :
    Thins L (slotsOf (refuseAccess s t acc tr)) := by simp [refuseAccess, h]

@[simp] theorem thins_grantNext (hold : Hold) : ∀ (n : Nat) {s : State}, Thins L (slotsOf s) → Thins L (slotsOf (grantNext hold n s))
  | 0, _, h => h
  | n + 1, s, h => by
    unfold grantNext
    split
    · exact h
    · dsimp only
      split
      · exact thins_grantNext hold n (thins_foldl (fun s w => by split <;> simp) _ (by simp [h]))
      · exact thins_foldl (fun s w => by simp) _ (by simp [h])

@[simp] theorem thins_releaseHold (hold : Hold) (h : Thins L (slotsOf s)) : Thins L (slotsOf (releaseHold s hold)) := by
  unfold releaseHold
  dsimp only
  refine thins_grantNext hold _ (thins_foldl (fun s w => by simp) _ ?_)
  rw [slots_mk]
  exact thins_foldl (fun s x => by split <;> simp) _ (by simp [h])

@[simp] theorem thins_releaseHolds (f : Nat) (h : Thins L (slotsOf s)) : Thins L (slotsOf (releaseHolds s f)) := by simp [releaseHolds, h]

@[simp] theorem slots_completionPa (s : State) (c : Context) (va : Nat) : slotsOf (completionPa s c va).2 = slotsOf s := by
  unfold completionPa
  split
  · next hp =>
    obtain rfl := snd_eq hp
    split <;> simp

@[simp] theorem slots_completeAt (s : State) (c : Context) (va : Nat) : slotsOf (completeAt s c va) = slotsOf s := by
  unfold completeAt
  split
  · rfl
  · rw [slots_ite]
    split
    · simp
    · split
      · next hp =>
        obtain rfl := snd_eq hp
        simp
      · next hp =>
        obtain rfl := snd_eq hp
        simp
  · split
    · next hp =>
      obtain rfl := snd_eq hp
      simp
    · next hp =>
      obtain rfl := snd_eq hp
      simp

@[simp] theorem slots_releaseDeferred (s : State) (d : Deferred) : slotsOf (releaseDeferred s d) = slotsOf s := by
  unfold releaseDeferred
  split
  · split <;> rfl
  · split
    · simp
    · rfl
  · split <;> rfl
  · split
    · simp
    · rfl

@[simp] theorem slots_releaseQueue (s : State) (p : Deferred → Bool) : slotsOf (releaseQueue s p) = slotsOf s := by simp [releaseQueue]

@[simp] theorem slots_writeShadow (s : State) (tm : Team) (m : BitVec 128) (off : Nat) : slotsOf (writeShadow s tm m off) = slotsOf s := by
  refine slots_foldl (fun s i => ?_) _ s
  split
  · rfl
  · dsimp only
    rw [slots_foldl fun s c => ?_, slots_wrScratch]
    split
    · split <;> simp
    · rfl

@[simp] theorem slots_restartTeam (s : State) (tm : Team) (f : Family) : slotsOf (restartTeam s tm f) = slotsOf s := (rfl)
@[simp] theorem slots_setStatus (s : State) (ctx a code : Nat) : slotsOf (setStatus s ctx a code) = slotsOf s := by simp [setStatus]

@[simp] theorem slots_markRecords (s : State) (tm : Team) : slotsOf (markRecords s tm) = slotsOf s := by
  unfold markRecords
  refine slots_foldl (fun s x => ?_) _ s
  split
  · simp
  · rfl

@[simp] theorem slots_rewriteHeaders (s : State) (tm : Team) (view world nworld restarts : Nat) :
    slotsOf (rewriteHeaders s tm view world nworld restarts) = slotsOf s := by
  unfold rewriteHeaders
  refine slots_foldl (fun s x => ?_) _ s
  split
  · simp
  · rfl

@[simp] theorem thins_acceptWound (f : Nat) (h : Thins L (slotsOf s)) : Thins L (slotsOf (acceptWound s f)) := by
  unfold acceptWound
  dsimp only
  rw [slots_mk, slots_foldl fun s t => by split <;> simp]
  exact h.trans (thins_map (f := fun sl => { sl with flock := sl.flock.filter _ }) (fun _ => rfl) (fun _ => List.filter_sublist) _)

@[simp] theorem slots_enterShadow (s : State) (tm : Team) (x : Family) : slotsOf (enterShadow s tm x) = slotsOf s := by simp [enterShadow]

@[simp] theorem slots_restartFamily (s : State) (f : Nat) : slotsOf (restartFamily s f) = slotsOf s := by
  unfold restartFamily
  split
  · rfl
  · split
    · split
      · rfl
      · next htag =>
        rw [← slots_allotTag htag]
        dsimp only
        split
        · simp
        · split <;> simp
    · rfl

@[simp] theorem slots_leaveDraft (s : State) (x : Family) : slotsOf (leaveDraft s x) = slotsOf s := by
  unfold leaveDraft
  dsimp only
  split
  · simp
  · rfl

@[simp] theorem thins_rollback (f : Nat) (h : Thins L (slotsOf s)) : Thins L (slotsOf (rollback s f)) := by
  unfold rollback
  split
  · exact h
  · dsimp only
    rw [slots_restartFamily, slots_modFamily, slots_leaveDraft]
    refine thins_foldl (fun s x => by simp) _ ?_
    simp [h]

@[simp] theorem thins_finishTask (f : Nat) (h : Thins L (slotsOf s)) : Thins L (slotsOf (finishTask s f)) := by
  unfold finishTask
  split
  · exact h
  · simp [h]

end Sys2Proof.Proofs
end

section
/-! SUPPORT. What saves, placements, launches and worlds leave of the slots. -/

namespace Sys2Proof.Proofs

open Machine Claims Laws

variable {L : List Slot} {s : State}

/-! ### Task records, routines and their walks -/

@[simp] theorem slots_ctxLines (c : Context) : ∀ (k va : Nat) (s : State), slotsOf (ctxLines s c k va).2 = slotsOf s
  | 0, _, _ => rfl
  | k + 1, va, s => by
    unfold ctxLines
    split
    · rfl
    · dsimp only
      split
      · simp
      · simp [slots_ctxLines c k]

@[simp] theorem slots_ctxRead (s : State) (c : Context) (va n : Nat) : slotsOf (ctxRead s c va n).2 = slotsOf s := slots_ctxLines c _ _ s

@[simp] theorem slots_readRecord (s : State) (c : Context) (va : Nat) : slotsOf (readRecord s c va).2 = slotsOf s := by
  unfold readRecord
  split
  · next hp =>
    obtain rfl := snd_eq hp
    split
    · simp
    · split
      · simp
      · dsimp only
        split
        · simp
        · split
          · simp
          · split
            · split <;> simp
            · split
              · split <;> simp
              · split <;> split <;> simp

/-! ### Saved teams (R177 to R180) -/

@[simp] theorem thins_abortAccess (t : Tid) (a : Access) (h : Thins L (slotsOf s)) : Thins L (slotsOf (abortAccess s t a)) := by
  unfold abortAccess
  split
  · exact h
  · simp [h]

@[simp] theorem thins_replayAccess (t : Tid) (a : Access) (h : Thins L (slotsOf s)) : Thins L (slotsOf (replayAccess s t a)) := by simp [replayAccess, h]
@[simp] theorem thins_actMarks (team : Nat) (h : Thins L (slotsOf s)) : Thins L (slotsOf (actMarks s team)) := by simp [actMarks, h]

@[simp] theorem slots_captureGroup (s : State) (t : Tid) : slotsOf (captureGroup s t) = slotsOf s := by
  unfold captureGroup
  split <;> rfl

@[simp] theorem thins_vectorThread (t : Tid) (h : Thins L (slotsOf s)) : Thins L (slotsOf (vectorThread s t)) := by
  unfold vectorThread
  dsimp only
  split
  · rw [slots_ite]
    split
    · simp [h]
    · split
      · split <;> simp [h]
      · simp [h]
  · simp [h]

@[simp] theorem thins_execThreadVectoring (t : Tid) (h : Thins L (slotsOf s)) :
    Thins L (slotsOf (after (execThreadVectoring t s) s)) := by simp [execThreadVectoring, h]

@[simp] theorem thins_execRoutineOverrun (t : Tid) (h : Thins L (slotsOf s)) : Thins L (slotsOf (after (execRoutineOverrun t s) s)) := by
  unfold execRoutineOverrun
  split
  · split
    · simp [h]
    · exact h
  · exact h

@[simp] theorem slots_spillRanges (ctx core base : Nat) : ∀ (l : List (Nat × Nat)) (a : Nat) (s : State), slotsOf (spillRanges s ctx core base l a) = slotsOf s
  | [], _, _ => rfl
  | _ :: l, _, s => (slots_spillRanges ctx core base l _ _).trans (slots_wrFor s ..)

@[simp] theorem slots_unspillRanges (core base : Nat) : ∀ (l : List (Nat × Nat)) (a : Nat) (s : State), slotsOf (unspillRanges s core base l a) = slotsOf s
  | [], _, _ => rfl
  | _ :: l, _, s => (slots_unspillRanges core base l _ _).trans (slots_wrScratch s ..)

@[simp] theorem slots_spillTeam (s : State) (tm : Team) (c : Context) : slotsOf (spillTeam s tm c).1 = slotsOf s := by
  unfold spillTeam
  dsimp only
  split
  · rfl
  · split
    · rfl
    · simp

@[simp] theorem slots_dropTroughs (s : State) (team : Nat) : slotsOf (dropTroughs s team) = slotsOf s := by simp [dropTroughs]

@[simp] theorem thins_parkTeam (team : Nat) (bound : Bool) (c : Context) (h : Thins L (slotsOf s)) :
    Thins L (slotsOf (parkTeam s team bound c)) := by simp [parkTeam, h]

@[simp] theorem thins_saveTeam (team : Nat) (h : Thins L (slotsOf s)) : Thins L (slotsOf (saveTeam s team)) := by
  unfold saveTeam
  dsimp only
  split <;> simp [h]

@[simp] theorem thins_restoreTeam (team : Nat) (wasBound : Bool) (h : Thins L (slotsOf s)) : Thins L (slotsOf (restoreTeam s team wasBound)) := by
  unfold restoreTeam
  split
  · dsimp only
    apply thins_actMarks
    split
    · split
      · split
        · split <;> split <;> split <;> simp [h]
        · split <;> split <;> simp [h]
      · split
        · split
          · split
            · split
              · simp [h]
              · exact h
            · split
              · simp [h]
              · exact h
          · split
            · split
              · simp [h]
              · exact h
            · split
              · simp [h]
              · exact h
        · split
          · split
            · simp [h]
            · exact h
          · split
            · simp [h]
            · exact h
    · split
      · split
        · split
          · split
            · simp [h]
            · exact h
          · split
            · simp [h]
            · exact h
        · split
          · split
            · simp [h]
            · exact h
          · split
            · simp [h]
            · exact h
      · split
        · split
          · simp [h]
          · exact h
        · split
          · simp [h]
          · exact h
  · exact h

@[simp] theorem slots_markRestored (s : State) (team : Nat) : slotsOf (markRestored s team) = slotsOf s := by
  unfold markRestored
  split
  · rfl
  · dsimp only
    refine slots_foldl (fun s x => ?_) _ s
    split
    · simp
    · rfl

/-! ### Placement and retirement (R79 to R88, R114) -/

@[simp] theorem slots_bindArea (s : State) (c : Context) (core area : Nat) : slotsOf (bindArea s c core area) = slotsOf s := (rfl)
@[simp] theorem slots_takeBanks (s : State) (ctx core base size : Nat) : slotsOf (takeBanks s ctx core base size).2 = slotsOf s := by simp [takeBanks]
@[simp] theorem slots_setFused (s : State) (fused : Bool) (core : Nat) : slotsOf (setFused s fused core) = slotsOf s := (rfl)

@[simp] theorem slots_startTeam (s : State) (g : Grid) (rd : Loaded) (idx : Nat) (p : Plan) (gen : BitVec 8) :
    slotsOf (startTeam s g rd idx p gen) = slotsOf s := (rfl)

@[simp] theorem slots_openSlice (s : State) (grid : Nat) : slotsOf (openSlice s grid) = slotsOf s := by simp [openSlice]

@[simp] theorem slots_placeNew (s : State) (g : Grid) (c : Context) (rd : Loaded) (idx : Nat) (p : Plan) :
    slotsOf (placeNew s g c rd idx p) = slotsOf s := by simp [placeNew]

@[simp] theorem thins_placeSaved (g : Grid) (c : Context) (rd : Loaded) (t : Team) (p : Plan) (h : Thins L (slotsOf s)) :
    Thins L (slotsOf (placeSaved s g c rd t p)) := by
  unfold placeSaved
  dsimp only
  rw [slots_markRestored]
  apply thins_restoreTeam
  split <;> simp [h]

@[simp] theorem thins_placeOne (g : Grid) (c : Context) (rd : Loaded) (p : Pending) (pl : Plan) (h : Thins L (slotsOf s)) :
    Thins L (slotsOf (placeOne s g c rd p pl)) := by
  unfold placeOne
  split <;> simp [h]

theorem thins_placeSetOn {g : Grid} {c : Context} {rd : Loaded} {cluster : Nat} : ∀ {l : List Pending} {s r : State}, placeSetOn g c rd cluster l s = some r →
    Thins L (slotsOf s) → Thins L (slotsOf r)
  | [], _, _, heq, h => Option.some.inj heq ▸ h
  | p :: l, s, r, heq, h => by
    unfold placeSetOn at heq
    split at heq
    · exact thins_placeSetOn heq (thins_placeOne g c rd p _ h)
    · cases heq

theorem thins_placeSet {g : Grid} {c : Context} {rd : Loaded} {cl : List Nat} {l : List Pending} {s r : State} (heq : placeSet g c rd cl l s = some r)
    (h : Thins L (slotsOf s)) : Thins L (slotsOf r) := by
  obtain ⟨k, -, hk⟩ := List.exists_of_findSome?_eq_some heq
  exact thins_placeSetOn hk h

theorem thins_placeUnit {g : Grid} {c : Context} {rd : Loaded} {cl : List Nat} {l : List Pending} {s r : State} (heq : placeUnit g c rd cl l s = some r)
    (h : Thins L (slotsOf s)) : Thins L (slotsOf r) := by
  unfold placeUnit at heq
  split at heq
  · exact thins_placeSet heq h
  · split at heq
    · obtain ⟨pl, -, rfl⟩ := Option.map_eq_some_iff.mp heq
      exact thins_placeOne g c rd _ pl h
    · cases heq

theorem thins_placeAll {g : Grid} {c : Context} {rd : Loaded} {cl : List Nat} : ∀ {l : List (List Pending)} {s r : State}, placeAll g c rd cl l s = some r →
    Thins L (slotsOf s) → Thins L (slotsOf r)
  | [], _, _, heq, h => Option.some.inj heq ▸ h
  | u :: l, s, r, heq, h => by
    unfold placeAll at heq
    split at heq
    · next hu => exact thins_placeAll heq (thins_placeUnit hu h)
    · cases heq

theorem thins_placeGrid {g : Grid} {c : Context} {rd : Loaded} {n : Nat} {s r : State} (heq : placeGrid s g c rd n = some r) (h : Thins L (slotsOf s)) :
    Thins L (slotsOf r) := by
  unfold placeGrid at heq
  split at heq
  · cases heq
  · split at heq
    · exact thins_placeAll heq h
    · cases heq

@[simp] theorem slots_validate (s : State) (c : Context) (addr : VAddr) : slotsOf (validate s c addr).2 = slotsOf s := by
  unfold validate
  split
  · next hp =>
    obtain rfl := snd_eq hp
    split
    · split <;> simp
    · simp

@[simp] theorem thins_dispatchPreempt (g : Grid) (c : Context) (rd : Loaded) (offered : Option Nat) (h : Thins L (slotsOf s)) :
    Thins L (slotsOf (dispatchPreempt s g c rd offered)) := by simp [dispatchPreempt, h]

@[simp] theorem slots_dropGrid (s : State) (g : Nat) : slotsOf (dropGrid s g) = slotsOf s := (rfl)

/-- The write of a record stands as a name: the kernel would work out its area's wrap-around in unary. -/
@[simp] theorem slots_readAtPlace (s : State) (g : Grid) (c : Context) : slotsOf (readAtPlace s g c).2 = slotsOf s := by
  obtain ⟨write, hwrite⟩ : ∃ write, write = writeFault := ⟨_, rfl⟩
  rw [readAtPlace, ← hwrite]
  split
  · split <;> rfl
  · dsimp only
    split
    · simp
    · simp [hwrite]
    · simp [hwrite]

@[simp] theorem thins_serveGrids : ∀ (l : List Grid) {s : State} (first : Bool), Thins L (slotsOf s) → Thins L (slotsOf (serveGrids s first l))
  | [], _, _, h => h
  | g :: l, s, first, h => by
    unfold serveGrids
    split
    · next g c _ _ =>
      have hread : Thins L (slotsOf (readAtPlace s g c).2) := by simp [h]
      split
      · exact thins_serveGrids l first h
      · dsimp only
        split
        · split
          · next hplace =>
            split at hplace
            · exact thins_placeGrid hplace hread
            · cases hplace
          · refine thins_serveGrids l false ?_
            split
            · exact thins_dispatchPreempt _ _ _ _ hread
            · exact hread
        · exact thins_serveGrids l first hread
    · exact thins_serveGrids l first h

@[simp] theorem thins_placePart (part : Nat) (h : Thins L (slotsOf s)) : Thins L (slotsOf (placePart s part)) := by simp [placePart, h]
@[simp] theorem thins_execTeamPlace (part : Nat) (h : Thins L (slotsOf s)) : Thins L (slotsOf (after (execTeamPlace part s) s)) := by simp [execTeamPlace, h]

@[simp] theorem thins_execResidencyExpiry (team : Nat) (h : Thins L (slotsOf s)) : Thins L (slotsOf (after (execResidencyExpiry team s) s)) := by
  unfold execResidencyExpiry
  split
  · split
    · split <;> simp [h]
    · simp [h]
  · simp [h]

@[simp] theorem slots_zeroScratch (s : State) (core base size : Nat) : slotsOf (zeroScratch s core base size) = slotsOf s := (rfl)
@[simp] theorem thins_wipeTeam (t : Team) (h : Thins L (slotsOf s)) : Thins L (slotsOf (wipeTeam s t)) := by simp [wipeTeam, h]

@[simp] theorem thins_execSaveRecordComplete (team : Nat) (h : Thins L (slotsOf s)) : Thins L (slotsOf (after (execSaveRecordComplete team s) s)) := by
  unfold execSaveRecordComplete
  split
  · split
    · dsimp only
      split <;> simp [h]
    · exact h
  · exact h

@[simp] theorem slots_endGrid (s : State) (g : Nat) : slotsOf (endGrid s g) = slotsOf s := by
  unfold endGrid
  split
  · simp
  · rfl

@[simp] theorem slots_startSuccessor (s : State) (t : Team) (addr : VAddr) : slotsOf (startSuccessor s t addr) = slotsOf s := by
  unfold startSuccessor
  split
  · rfl
  · split
    · next hp =>
      obtain rfl := snd_eq hp
      split
      · simp
      · split <;> simp

@[simp] theorem slots_deferEnd (s : State) (t : Team) : slotsOf (deferEnd s t) = slotsOf s := by
  unfold deferEnd
  split
  · simp
  · rfl

@[simp] theorem thins_settleBanks (team : Nat) (h : Thins L (slotsOf s)) : Thins L (slotsOf (settleBanks s team)) := by simp [settleBanks, h]
@[simp] theorem thins_dropRetired (t : Team) (h : Thins L (slotsOf s)) : Thins L (slotsOf (dropRetired s t)) := by simp [dropRetired, h]

@[simp] theorem thins_retireTeam (t : Team) (h : Thins L (slotsOf s)) : Thins L (slotsOf (retireTeam s t)) := by
  unfold retireTeam
  dsimp only
  rw [slots_deferEnd, slots_endGrid]
  have hplace : Thins L (slotsOf (modTeam (freePlace (match t.succ with | some a => startSuccessor (settleBanks s t.id) t a | none => settleBanks s t.id) t.id) t.id
      fun t => { t with state := .retired })) := by
    rw [slots_modTeam]
    apply thins_freePlace
    split <;> simp [h]
  split
  · exact thins_either (thins_dropRetired _ hplace) hplace
  · exact hplace

@[simp] theorem thins_execTeamRetire (team : Nat) (h : Thins L (slotsOf s)) : Thins L (slotsOf (after (execTeamRetire team s) s)) := by
  unfold execTeamRetire
  split
  · simp [h]
  · exact h

/-! ### Launches, the picker's turn and budgets (R80, R89, R93) -/

@[simp] theorem slots_readWaitOn (s : State) (c : Context) (va : Nat) : slotsOf (readWaitOn s c va).2 = slotsOf s := by
  unfold readWaitOn
  dsimp only
  split <;> simp

/-- The write of a record stands as a name, as above. -/
@[simp] theorem slots_checkReady (s : State) (g : Grid) (c : Context) : slotsOf (checkReady s g c) = slotsOf s := by
  obtain ⟨write, hwrite⟩ : ∃ write, write = writeFault := ⟨_, rfl⟩
  rw [checkReady, ← hwrite]
  split
  · rfl
  · split
    · simp
    · dsimp only
      split
      · split <;> simp
      · simp [hwrite]

@[simp] theorem slots_execGridReady (s : State) (grid : Nat) : slotsOf (after (execGridReady grid s) s) = slotsOf s := by
  unfold execGridReady
  split
  · split
    · simp
    · rfl
  · rfl

@[simp] theorem slots_queueGrid (s : State) (c : Context) (addr : VAddr) (l : Loaded) : slotsOf (queueGrid s c addr l) = slotsOf s := by simp [queueGrid]
@[simp] theorem slots_dropLaunch (s : State) (seq : Nat) : slotsOf (dropLaunch s seq) = slotsOf s := (rfl)

@[simp] theorem thins_failLaunch (l : LaunchWait) (tr : Trap) (detail : BitVec 64) (h : Thins L (slotsOf s)) :
    Thins L (slotsOf (failLaunch s l tr detail)) := by
  unfold failLaunch
  dsimp only
  rw [slots_ite]
  split
  · simp [h]
  · split
    · simp [h]
    · exact h

@[simp] theorem thins_takeLaunch (l : LaunchWait) (c : Context) (h : Thins L (slotsOf s)) : Thins L (slotsOf (takeLaunch s l c)) := by
  unfold takeLaunch
  split
  · next hp =>
    obtain rfl := snd_eq hp
    split <;> simp [h]

@[simp] theorem thins_execLaunchComplete (seq : Nat) (h : Thins L (slotsOf s)) : Thins L (slotsOf (after (execLaunchComplete seq s) s)) := by
  unfold execLaunchComplete
  split
  · split
    · simp [h]
    · exact h
  · exact h

@[simp] theorem slots_ringWrite (s : State) (ctx : Nat) (bs : List Byte) : slotsOf (ringWrite s ctx bs) = slotsOf s := by
  unfold ringWrite
  split
  · rfl
  · simp

@[simp] theorem slots_setAge (s : State) (core quad : Nat) (p : Machine.Path) (n : Nat) : slotsOf (setAge s core quad p n) = slotsOf s := (rfl)

@[simp] theorem slots_countTurn (s : State) (core quad n : Nat) : slotsOf (countTurn s core quad n) = slotsOf s := by
  unfold countTurn
  dsimp only
  rw [slots_ite]
  split
  · split <;> rfl
  · rfl

@[simp] theorem slots_execSample (s : State) (core quad : Nat) : slotsOf (after (execSample core quad s) s) = slotsOf s := by
  unfold execSample
  split
  · simp
  · split
    · dsimp only
      split
      · simp
      · split <;> simp
    · dsimp only
      split
      · simp
      · split <;> simp

@[simp] theorem thins_suspendCtx (ctx who : Nat) (h : Thins L (slotsOf s)) : Thins L (slotsOf (suspendCtx s ctx who)) := by simp [suspendCtx, h]

@[simp] theorem thins_execBudgetEvent (grid : Nat) (h : Thins L (slotsOf s)) : Thins L (slotsOf (after (execBudgetEvent grid s) s)) := by
  unfold execBudgetEvent
  split
  · simp [h]
  · exact h

@[simp] theorem thins_execWatchdogExpiry (ctx : Nat) (h : Thins L (slotsOf s)) : Thins L (slotsOf (after (execWatchdogExpiry ctx s) s)) := by
  unfold execWatchdogExpiry
  split
  · exact h
  · split
    · exact h
    · split
      · dsimp only
        split
        · exact h
        · simp [h]
      · dsimp only
        split <;> simp [h]

@[simp] theorem slots_execSleepEnd (s : State) (t : Tid) : slotsOf (after (execSleepEnd t s) s) = slotsOf s := by
  unfold execSleepEnd
  split
  · split
    · simp
    · rfl
  · rfl

/-! ### Tasks, forks and choices (R204 to R228) -/

@[simp] theorem thins_trapOpen (team : Nat) (r : Rdv) (c : Cause) (h : Thins L (slotsOf s)) : Thins L (slotsOf (trapOpen s team r c)) := by simp [trapOpen, h]

@[simp] theorem slots_openTask (s : State) (tm : Team) (c : Context) (r : Rdv) : slotsOf (openTask s tm c r) = slotsOf s := by
  unfold openTask
  split
  · rfl
  · next htag =>
    rw [← slots_allotTag htag]
    simp

@[simp] theorem thins_tbeginMet (team : Nat) (r : Rdv) (h : Thins L (slotsOf s)) : Thins L (slotsOf (tbeginMet s team r)) := by
  unfold tbeginMet
  dsimp only
  split
  · exact h
  · rw [slots_ite]
    split
    · simp [h]
    · rw [slots_ite]
      split
      · exact h
      · split
        · simp [h]
        · simp [h]
        · exact h

@[simp] theorem slots_execCommitRequest (s : State) (team : Nat) : slotsOf (after (execCommitRequest team s) s) = slotsOf s := by
  unfold execCommitRequest
  split
  · split
    · simp
    · rfl
  · rfl

@[simp] theorem thins_tabortMet (team : Nat) (r : Rdv) (h : Thins L (slotsOf s)) : Thins L (slotsOf (tabortMet s team r)) := by
  unfold tabortMet
  split
  · split
    · simp [h]
    · exact h
  · simp [h]

@[simp] theorem thins_decideRequest (t : Tid) (a : Access) (tm : Team) (c : Context) (f : Family) (h : Thins L (slotsOf s)) :
    Thins L (slotsOf (decideRequest s t a tm c f)) := by
  unfold decideRequest
  dsimp only
  split
  · simp [h]
  · split
    · rw [slots_ite]
      split
      · simp [h]
      · split
        · simp [h]
        · exact h
    · simp [h]

@[simp] theorem thins_execGranuleRequest (t : Tid) (acc : Nat) (h : Thins L (slotsOf s)) : Thins L (slotsOf (after (execGranuleRequest t acc s) s)) := by
  unfold execGranuleRequest
  split
  · split
    · simp [h]
    · exact h
  · exact h

@[simp] theorem thins_execWound (family : Nat) (h : Thins L (slotsOf s)) : Thins L (slotsOf (after (execWound family s) s)) := by
  unfold execWound
  split
  · simp [h]
  · exact h

@[simp] theorem thins_execRollback (family : Nat) (h : Thins L (slotsOf s)) : Thins L (slotsOf (after (execRollback family s) s)) := by
  unfold execRollback
  split
  · simp [h]
  · exact h

@[simp] theorem slots_execTaskRestart (s : State) (family : Nat) : slotsOf (after (execTaskRestart family s) s) = slotsOf s := by
  unfold execTaskRestart
  split
  · simp
  · rfl

@[simp] theorem slots_placeCopies (tm : Team) (c : Context) : ∀ (n : Nat) (s : State), slotsOf (placeCopies tm c n s).2 = slotsOf s
  | 0, _ => rfl
  | n + 1, s => by
    unfold placeCopies
    split
    · rfl
    · simp [slots_placeCopies tm c n]

@[simp] theorem slots_allotTags (c : Context) (parent : Nat) : ∀ (n : Nat) (s : State), slotsOf (allotTags c parent n s).2 = slotsOf s
  | 0, _ => rfl
  | n + 1, s => by
    unfold allotTags
    split
    · next htag => exact (slots_allotTags c parent n _).trans (slots_allotTag htag)
    · rfl

@[simp] theorem slots_grantFork (s : State) (tm : Team) (c : Context) (r : Rdv) (n : Nat) : slotsOf (grantFork s tm c r n) = slotsOf s := by simp [grantFork]

@[simp] theorem thins_forkMet (team : Nat) (r : Rdv) (h : Thins L (slotsOf s)) : Thins L (slotsOf (forkMet s team r)) := by
  unfold forkMet
  dsimp only
  split
  · exact h
  · rw [slots_ite]
    split
    · exact h
    · rw [slots_ite]
      split
      · simp [h]
      · rw [slots_ite]
        split
        · exact h
        · split
          · simp [h]
          · exact h

@[simp] theorem slots_copyAlloc (s : State) (src dst : Team) : slotsOf (copyAlloc s src dst) = slotsOf s := by simp [copyAlloc]

@[simp] theorem slots_passFork (s : State) (team rd k : Nat) : slotsOf (passFork s team rd k) = slotsOf s := by
  unfold passFork
  refine slots_foldl (fun s x => ?_) _ s
  split
  · simp
  · rfl

@[simp] theorem slots_execForkCopyDone (s : State) (fork : Nat) : slotsOf (after (execForkCopyDone fork s) s) = slotsOf s := by
  unfold execForkCopyDone
  rw [after_next]
  split
  · split
    · rfl
    · split
      · rfl
      · dsimp only
        rw [slots_progress, slots_modFork, slots_foldl fun s w => by simp, slots_modTeam, slots_foldl fun s w => by split <;> simp, slots_modTeam]
  · rfl

@[simp] theorem thins_dropWorldTeam (t : Team) (h : Thins L (slotsOf s)) : Thins L (slotsOf (dropWorldTeam s t)) := by simp [dropWorldTeam, h]

@[simp] theorem thins_discardLosers (f : Fork) (win : Option Nat) (h : Thins L (slotsOf s)) :
    Thins L (slotsOf (discardLosers s f win)) := by simp [discardLosers, h]

@[simp] theorem thins_chooseWinner (f : Fork) (w : World) (h : Thins L (slotsOf s)) : Thins L (slotsOf (chooseWinner s f w)) := by simp [chooseWinner, h]

@[simp] theorem slots_passWaiting (s : State) (team rd : Nat) (val : BitVec 80) : slotsOf (passWaiting s team rd val) = slotsOf s := by
  unfold passWaiting
  refine slots_foldl (fun s x => ?_) _ s
  split
  · simp
  · rfl

@[simp] theorem thins_chooseNone (f : Fork) (h : Thins L (slotsOf s)) : Thins L (slotsOf (chooseNone s f)) := by simp [chooseNone, h]
@[simp] theorem slots_waitChoice (s : State) (team f world : Nat) (r : Rdv) : slotsOf (waitChoice s team f world r) = slotsOf s := by simp [waitChoice]

@[simp] theorem thins_chooseFirstMet (team : Nat) (r : Rdv) (h : Thins L (slotsOf s)) : Thins L (slotsOf (chooseFirstMet s team r)) := by
  unfold chooseFirstMet
  split
  · split <;> simp [h]
  · exact h

@[simp] theorem slots_execChooseFirstRequest (s : State) (fork world : Nat) : slotsOf (after (execChooseFirstRequest fork world s) s) = slotsOf s := by
  unfold execChooseFirstRequest
  split
  · simp
  · rfl

@[simp] theorem thins_decideBest (f : Fork) (h : Thins L (slotsOf s)) : Thins L (slotsOf (decideBest s f)) := by
  unfold decideBest
  rw [slots_ite]
  split
  · exact h
  · dsimp only
    split <;> simp [h]

@[simp] theorem thins_decideFork (fork : Nat) (h : Thins L (slotsOf s)) : Thins L (slotsOf (decideFork s fork)) := by
  unfold decideFork
  split
  · exact h
  · rw [slots_ite]
    split
    · exact h
    · split <;> simp [h]

@[simp] theorem thins_choiceTick (h : Thins L (slotsOf s)) : Thins L (slotsOf (choiceTick s)) := by simp [choiceTick, h]

@[simp] theorem thins_execChooseBestArrival (team : Nat) (h : Thins L (slotsOf s)) : Thins L (slotsOf (after (execChooseBestArrival team s) s)) := by
  unfold execChooseBestArrival
  split
  · split
    · simp [h]
    · exact h
  · exact h

@[simp] theorem slots_passQueue (s : State) (f : Fork) (w : World) : slotsOf (passQueue s f w) = slotsOf s := by
  unfold passQueue
  dsimp only
  split
  · simp
  · rfl
  · rfl

@[simp] theorem slots_passChoice (s : State) (f : Fork) (team idx : Nat) : slotsOf (passChoice s f team idx) = slotsOf s := by simp [passChoice]

@[simp] theorem slots_adoptLate (s : State) (f : Fork) (team : Nat) : slotsOf (adoptLate s f team) = slotsOf s := by
  unfold adoptLate
  dsimp only
  split
  · simp
  · rfl

@[simp] theorem slots_finishChoice (s : State) (f : Fork) : slotsOf (finishChoice s f) = slotsOf s := by
  unfold finishChoice
  split
  · rfl
  · simp

@[simp] theorem slots_moveThreads (s : State) (old new : Nat) : slotsOf (moveThreads s old new) = slotsOf s := (rfl)

@[simp] theorem thins_copyWinner (f : Fork) (idx : Nat) (tj t0 : Team) (h : Thins L (slotsOf s)) :
    Thins L (slotsOf (copyWinner s f idx tj t0)) := by simp [copyWinner, h]

@[simp] theorem thins_execChooseCopyDone (fork : Nat) (h : Thins L (slotsOf s)) : Thins L (slotsOf (after (execChooseCopyDone fork s) s)) := by
  unfold execChooseCopyDone
  split
  · split
    · split
      · simp [h]
      · exact h
    · exact h
  · exact h

@[simp] theorem slots_afterTask (s : State) (anchor : Nat) : slotsOf (afterTask s anchor) = slotsOf s := by
  unfold afterTask
  split
  · rfl
  · simp

@[simp] theorem thins_commitView (c : CommitRec) (h : Thins L (slotsOf s)) : Thins L (slotsOf (commitView s c)) := by
  unfold commitView
  dsimp only
  split
  · split
    · simp [h]
    · exact h
  · split
    · simp [h]
    · exact h
  · exact h

@[simp] theorem thins_execCommit (tag : Nat) (h : Thins L (slotsOf s)) : Thins L (slotsOf (after (execCommit tag s) s)) := by
  unfold execCommit
  split <;> simp [h]

@[simp] theorem slots_execDiscard (s : State) (tag : Nat) : slotsOf (after (execDiscard tag s) s) = slotsOf s := by simp [execDiscard]

@[simp] theorem slots_execSweeper (s : State) (tag line : Nat) : slotsOf (after (execSweeper tag line s) s) = slotsOf s := by
  unfold execSweeper
  split
  · simp
  · rfl

@[simp] theorem slots_execTagFree (s : State) (tag : Nat) : slotsOf (after (execTagFree tag s) s) = slotsOf s := by
  unfold execTagFree
  split
  · simp
  · rfl

end Sys2Proof.Proofs
end

section
/-! SUPPORT. What engines, troughs and matrix operations leave of the slots. -/

namespace Sys2Proof.Proofs

open Machine Claims Laws

variable {L : List Slot} {s : State}

/-! ### Engines -/

@[simp] theorem slots_addEngine (s : State) (op : EngOp) : slotsOf (addEngine s op) = slotsOf s := by simp [addEngine]
@[simp] theorem slots_setQ (s : State) (team q : Nat) (x : BitVec 64) : slotsOf (setQ s team q x) = slotsOf s := (rfl)

@[simp] theorem thins_pushSlot (tm : Team) (q : Nat) (bs : List Byte) (h : Thins L (slotsOf s)) :
    Thins L (slotsOf (pushSlot s tm q bs)) := by simp [pushSlot, h]

@[simp] theorem slots_troughEffect (s : State) (team op q : Nat) : slotsOf (troughEffect s team op q) = slotsOf s := by
  unfold troughEffect
  split <;> rfl

@[simp] theorem slots_closeTrough (s : State) (team q : Nat) : slotsOf (closeTrough s team q) = slotsOf s := by
  unfold closeTrough
  split
  · simp
  · rfl

@[simp] theorem slots_settleTrough (s : State) (team q : Nat) : slotsOf (settleTrough s team q) = slotsOf s := by
  unfold settleTrough
  rw [slots_ite]
  split
  · rfl
  · split
    · rfl
    · refine slots_foldl (fun s x => ?_) _ s
      split
      · simp
      · rfl

@[simp] theorem slots_leaveQueues (s : State) (e : EngOp) : slotsOf (leaveQueues s e) = slotsOf s := by simp [leaveQueues]

@[simp] theorem slots_deliverStatus (s : State) (ts : List Tid) (tok rd : Nat) (w : Word) :
    slotsOf (deliverStatus s ts tok rd w) = slotsOf s := by simp [deliverStatus]

@[simp] theorem slots_refuseOp (s : State) (e : EngOp) (need : Nat) : slotsOf (refuseOp s e need) = slotsOf s := by
  unfold refuseOp
  dsimp only
  split <;> simp

@[simp] theorem slots_startOp (s : State) (e : EngOp) : slotsOf (startOp s e) = slotsOf s := by
  unfold startOp
  split
  · rfl
  · dsimp only
    split <;> simp

@[simp] theorem slots_execEngineStart (s : State) (op : Nat) : slotsOf (after (execEngineStart op s) s) = slotsOf s := by
  unfold execEngineStart
  split
  · simp
  · rfl

@[simp] theorem slots_engAddr (s : State) (e : EngOp) (base off kind : Nat) (fresh : Bool) : slotsOf (engAddr s e base off kind fresh).2 = slotsOf s := by
  unfold engAddr
  split
  · rfl
  · rfl
  · split
    · rfl
    · split
      · rfl
      · dsimp only
        split <;> simp

@[simp] theorem slots_peerLine (s : State) (e : EngOp) (c : Context) (dev pa : Nat) : slotsOf (peerLine s e c dev pa).2 = slotsOf s := by
  unfold peerLine
  dsimp only
  split
  · rfl
  · rfl
  · rfl
  · simp

@[simp] theorem slots_engRead (s : State) (e : EngOp) (base off n : Nat) : slotsOf (engRead s e base off n).2 = slotsOf s := by
  unfold engRead
  dsimp only
  split
  · simp
  · simp
  · split
    · simp
    · split
      · simp
      · split
        · simp
        · split <;> simp

@[simp] theorem slots_engWrite (s : State) (e : EngOp) (base off : Nat) (bs : List Byte) : slotsOf (engWrite s e base off bs).2 = slotsOf s := by
  unfold engWrite
  dsimp only
  split
  · simp
  · simp
  · split
    · simp
    · split
      · simp
      · split <;> simp

@[simp] theorem slots_endOp (s : State) (id code left : Nat) : slotsOf (endOp s id code left) = slotsOf s := by
  unfold endOp
  split
  · rfl
  · simp

/-- A failed piece keeps the slots when what skips it does. -/
@[simp] theorem slots_engFail (s : State) (e : EngOp) (g : Nat) (err : EngErr) {skip : State → State} (h : ∀ s, slotsOf (skip s) = slotsOf s) :
    slotsOf (engFail s e g err skip) = slotsOf s := by
  unfold engFail
  split <;> simp [h]

@[simp] theorem slots_moved (s : State) (e : EngOp) (n : Nat) (f : EngOp → EngOp) : slotsOf (moved s e n f) = slotsOf s := by
  unfold moved
  dsimp only
  split
  · simp
  · rfl

@[simp] theorem thins_deliverScratch (e : EngOp) (g core addr : Nat) (bs : List Byte) (f : EngOp → EngOp) (h : Thins L (slotsOf s)) :
    Thins L (slotsOf (deliverScratch s e g core addr bs f)) := by simp [deliverScratch, h]

@[simp] theorem slots_engReads (e : EngOp) (base off : Nat) : ∀ (n : Nat) (s : State), slotsOf (engReads e base off n s).2 = slotsOf s
  | 0, _ => rfl
  | n + 1, s => by
    unfold engReads
    dsimp only
    split
    · exact slots_engReads e base off n s
    · split <;> simp [slots_engReads e base off n s]

@[simp] theorem slots_copySource (s : State) (e : EngOp) (x : Slice) (r c n : Nat) : slotsOf (copySource s e x r c n).2 = slotsOf s := by
  unfold copySource
  split
  · dsimp only
    split
    · simp
    · split <;> simp
  · simp

@[simp] theorem thins_copyStep (e : EngOp) (h : Thins L (slotsOf s)) : Thins L (slotsOf (copyStep s e)) := by
  unfold copyStep
  split
  · dsimp only
    rw [slots_ite]
    split
    · simp [h]
    · rw [slots_ite]
      split <;> split <;> simp [h]
  · exact h

@[simp] theorem thins_execEngineWrite (op : Nat) (host : HostStores) (h : Thins L (slotsOf s)) : Thins L (slotsOf (after (execEngineWrite op host s) s)) := by
  unfold execEngineWrite
  dsimp only
  split <;> simp [h]

@[simp] theorem thins_beatStep (e : EngOp) (p : Nat) (h : Thins L (slotsOf s)) : Thins L (slotsOf (beatStep s e p)) := by
  unfold beatStep
  split
  · dsimp only
    split
    · simp [h]
    · split <;> simp [h]
  · exact h

@[simp] theorem thins_execMulticastBeat (op p : Nat) (host : HostStores) (h : Thins L (slotsOf s)) :
    Thins L (slotsOf (after (execMulticastBeat op p host s) s)) := by
  unfold execMulticastBeat
  dsimp only
  split <;> simp [h]

@[simp] theorem thins_enginePen (u : PenUpdate) (h : Thins L (slotsOf s)) : Thins L (slotsOf (enginePen s u).2) := by
  unfold enginePen
  split
  · exact h
  · simp [h]

@[simp] theorem slots_execEngineStatus (s : State) (op : Nat) : slotsOf (after (execEngineStatus op s) s) = slotsOf s := by
  unfold execEngineStatus
  split
  · simp
  · rfl

@[simp] theorem thins_execEnginePenUpdate (op : Nat) (h : Thins L (slotsOf s)) : Thins L (slotsOf (after (execEnginePenUpdate op s) s)) := by
  unfold execEnginePenUpdate
  split
  · exact h
  · simp [h]

@[simp] theorem slots_gthIndex (s : State) (e : EngOp) (tm : Team) (d : List Word) : slotsOf (gthIndex s e tm d).2 = slotsOf s := by
  unfold gthIndex
  split
  · simp
  · rfl

@[simp] theorem slots_gthStop (s : State) (e : EngOp) (g va : Nat) : slotsOf (gthStop s e g va) = slotsOf s := by simp [gthStop]

@[simp] theorem thins_gatherStep (e : EngOp) (between : HostStores) (h : Thins L (slotsOf s)) : Thins L (slotsOf (gatherStep s e between)) := by
  unfold gatherStep
  split
  · dsimp only
    rw [slots_ite]
    split
    · exact h
    · split
      · simp [h]
      · rw [slots_ite]
        split
        · simp [h]
        · split <;> simp [h]
  · exact h

@[simp] theorem thins_execGatherPush (op : Nat) (host between : HostStores) (h : Thins L (slotsOf s)) :
    Thins L (slotsOf (after (execGatherPush op host between s) s)) := by
  unfold execGatherPush
  dsimp only
  split <;> simp [h]

@[simp] theorem slots_fencedReq (s : State) (tm : Team) (r : TroughReq) (a : Nat) : slotsOf (fencedReq s tm r a) = slotsOf s := (rfl)
@[simp] theorem slots_servePop (s : State) (tm : Team) (r : TroughReq) : slotsOf (servePop s tm r) = slotsOf s := by simp [servePop]
@[simp] theorem thins_servePush (tm : Team) (r : TroughReq) (h : Thins L (slotsOf s)) : Thins L (slotsOf (servePush s tm r)) := by simp [servePush, h]

@[simp] theorem thins_execTroughServe (team q pop : Nat) (h : Thins L (slotsOf s)) : Thins L (slotsOf (after (execTroughServe team q pop s) s)) := by
  unfold execTroughServe
  split
  · simp [h]
  · exact h

@[simp] theorem slots_bulkStep (s : State) (e : EngOp) (ats : Bool) : slotsOf (bulkStep s e ats) = slotsOf s := by
  unfold bulkStep
  split
  · dsimp only
    split
    · simp
    · split
      · simp
      · split <;> simp

@[simp] theorem slots_execBulkTransfer (s : State) (eng : Nat) (ats : Bool) (host : HostStores) :
    slotsOf (after (execBulkTransfer eng ats host s) s) = slotsOf s := by
  unfold execBulkTransfer
  dsimp only
  split <;> simp

@[simp] theorem slots_execPriResponse (s : State) (op : Nat) (granted : Bool) : slotsOf (after (execPriResponse op granted s) s) = slotsOf s := by
  unfold execPriResponse
  split <;> simp

@[simp] theorem slots_replayEngine (s : State) (id : Nat) : slotsOf (replayEngine s id) = slotsOf s := by
  unfold replayEngine
  split
  · rfl
  · rw [slots_ite]
    split
    · rfl
    · split
      · rfl
      · dsimp only
        split <;> simp

@[simp] theorem slots_abortEngine (s : State) (id : Nat) : slotsOf (abortEngine s id) = slotsOf s := by
  unfold abortEngine
  split
  · simp
  · rfl

/-! ### Troughs and locks -/

theorem thins_perGroupAll {f : Lane → List Tid → State → State} (hf : ∀ ln ts s, Thins (slotsOf s) (slotsOf (f ln ts s))) (word : Word) (sl : Slot) (l : List Tid)
    (h : Thins L (slotsOf s)) : Thins L (slotsOf (perGroupAll f word sl l s)) :=
  thins_foldl (fun s t => by split <;> simp [hf]) _ h

@[simp] theorem slots_writeAllV (s : State) (sl : Slot) (lat : Nat) (ts : List Tid) (d : Nat) (x : Word) :
    slotsOf (writeAllV s sl lat ts d x) = slotsOf s := by simp [writeAllV]

@[simp] theorem thins_bulkEffect (d a : Nat) (l : Lane) (ts : List Tid) (h : Thins L (slotsOf s)) : Thins L (slotsOf (bulkEffect d a l ts s)) := by
  unfold bulkEffect
  dsimp only
  split <;> simp [h]

@[simp] theorem thins_gathEffect (d a : Nat) (l : Lane) (ts : List Tid) (h : Thins L (slotsOf s)) : Thins L (slotsOf (gathEffect d a l ts s)) := by
  unfold gathEffect
  dsimp only
  split <;> simp [h]

@[simp] theorem thins_troughWait (op q : Nat) (l : Lane) (h : Thins L (slotsOf s)) : Thins L (slotsOf (troughWait op q l s)) := by simp [troughWait, h]
@[simp] theorem thins_closeEffect (q : Nat) (l : Lane) (h : Thins L (slotsOf s)) : Thins L (slotsOf (closeEffect q l s)) := by simp [closeEffect, h]

@[simp] theorem thins_troughRead (d q : Nat) (f : BitVec 64 → Nat) (word : Word) (sl : Slot) (l : List Tid) (h : Thins L (slotsOf s)) :
    Thins L (slotsOf (troughRead d q f word sl l s)) := by
  unfold troughRead
  apply thins_perTeam
  · simp
  · exact h

@[simp] theorem thins_popEffect (d q : Nat) (l : Lane) (h : Thins L (slotsOf s)) : Thins L (slotsOf (popEffect d q l s)) := by simp [popEffect, h]
@[simp] theorem thins_pushEffect (q a : Nat) (l : Lane) (h : Thins L (slotsOf s)) : Thins L (slotsOf (pushEffect q a l s)) := by simp [pushEffect, h]

@[simp] theorem thins_lockQuery (d a b : Nat) (sl : Slot) (l : Lane) (ts : List Tid) (h : Thins L (slotsOf s)) :
    Thins L (slotsOf (lockQuery d a b sl l ts s)) := by simp [lockQuery, h]

/-! ### Matrix operations -/

@[simp] theorem slots_claimTile (s : State) (core quad team n : Nat) : slotsOf (claimTile s core quad team n) = slotsOf s := by simp [claimTile]
@[simp] theorem slots_setTile (s : State) (core quad n : Nat) (v : List Word) : slotsOf (setTile s core quad n v) = slotsOf s := (rfl)
@[simp] theorem slots_enterMatrix (s : State) (m : MatOp) : slotsOf (enterMatrix s m) = slotsOf s := by simp [enterMatrix]

@[simp] theorem thins_completeMma (team g : Nat) (r : Rdv) (h : Thins L (slotsOf s)) : Thins L (slotsOf (completeMma s team g r)) := by
  unfold completeMma
  split
  · dsimp only
    rw [slots_ite]
    split
    · simp [h]
    · split <;> simp [h]
  · exact h

@[simp] theorem slots_runChunk (s : State) (tm : Team) (m : MatOp) : slotsOf (runChunk s tm m) = slotsOf s := (rfl)
@[simp] theorem slots_modMat (s : State) (id : Nat) (f : MatOp → MatOp) : slotsOf (modMat s id f) = slotsOf s := (rfl)

@[simp] theorem slots_refuseMat (s : State) (m : MatOp) (need : Nat) : slotsOf (refuseMat s m need) = slotsOf s := by
  unfold refuseMat
  dsimp only
  split
  · rfl
  · simp

@[simp] theorem slots_execMatrixOpStart (s : State) (core quad : Nat) : slotsOf (after (execMatrixOpStart core quad s) s) = slotsOf s := by
  unfold execMatrixOpStart
  split
  · split
    · simp
    · rfl
  · rfl

@[simp] theorem slots_execMatrixChunk (s : State) (core quad : Nat) : slotsOf (after (execMatrixChunk core quad s) s) = slotsOf s := by
  unfold execMatrixChunk
  split
  · split
    · simp
    · rfl
  · rfl

@[simp] theorem thins_matEffect (tm : Team) (m : MatOp) (h : Thins L (slotsOf s)) : Thins L (slotsOf (matEffect s tm m)) := by
  unfold matEffect
  dsimp only
  split <;> simp [h]

@[simp] theorem thins_retryMma (core quad : Nat) (h : Thins L (slotsOf s)) : Thins L (slotsOf (retryMma s core quad)) := by
  unfold retryMma
  refine thins_foldl (fun s x => ?_) _ h
  refine thins_foldl (fun s x => ?_) _ (by simp)
  split <;> simp

@[simp] theorem thins_execMatrixOpFinish (core quad : Nat) (h : Thins L (slotsOf s)) : Thins L (slotsOf (after (execMatrixOpFinish core quad s) s)) := by
  unfold execMatrixOpFinish
  split
  · split
    · simp [h]
    · exact h
  · exact h

end Sys2Proof.Proofs
end

section
/-! SUPPORT. What the effects of instructions leave of the slots. -/

namespace Sys2Proof.Proofs

open Machine Claims Laws

variable {L : List Slot} {s : State}

/-! ### Rendezvous that complete -/

@[simp] theorem slots_completeGsync (s : State) (team g : Nat) (r : Rdv) : slotsOf (completeGsync s team g r) = slotsOf s := by simp [completeGsync]

@[simp] theorem thins_completeRdv (team g : Nat) (r : Rdv) (h : Thins L (slotsOf s)) : Thins L (slotsOf (completeRdv s team g r)) := by
  unfold completeRdv
  split <;> simp [h]

@[simp] theorem thins_meetGroup (team g : Nat) (h : Thins L (slotsOf s)) : Thins L (slotsOf (meetGroup s team g)) := by
  unfold meetGroup
  split
  · simp [h]
  · exact h

@[simp] theorem thins_completeCopy (team : Nat) (r : Rdv) (h : Thins L (slotsOf s)) : Thins L (slotsOf (completeCopy s team r)) := by
  unfold completeCopy
  split
  · exact h
  · simp [h]

@[simp] theorem thins_completeYield (team : Nat) (r : Rdv) (h : Thins L (slotsOf s)) : Thins L (slotsOf (completeYield s team r)) := by
  unfold completeYield
  split
  · exact h
  · dsimp only
    split
    · apply thins_dispatchPreempt
      simp [h]
    · split <;> simp [h]

@[simp] theorem thins_completeTeam (team : Nat) (r : Rdv) (h : Thins L (slotsOf s)) : Thins L (slotsOf (completeTeam s team r)) := by
  unfold completeTeam
  split
  · simp [h]
  · simp [h]
  · simp [h]
  · simp [h]
  · simp [h]
  · simp [h]
  · exact h

@[simp] theorem thins_meetTeam (team : Nat) (h : Thins L (slotsOf s)) : Thins L (slotsOf (meetTeam s team)) := by
  unfold meetTeam
  split
  · simp [h]
  · exact h

@[simp] theorem thins_meetAll (team : Nat) (h : Thins L (slotsOf s)) : Thins L (slotsOf (meetAll s team)) := by
  unfold meetAll
  split
  · rw [slots_meetBars]
    apply thins_meetTeam
    simp [h]
  · exact h

@[simp] theorem thins_execTbeginStampAdvance (team : Nat) (h : Thins L (slotsOf s)) : Thins L (slotsOf (after (execTbeginStampAdvance team s) s)) := by
  unfold execTbeginStampAdvance
  split
  · simp [h]
  · exact h

theorem thins_collEffect {arrive : Lane → State → State} (hf : ∀ ln s, Thins (slotsOf s) (slotsOf (arrive ln s))) (word : Word) (sl : Slot) (l : List Tid)
    (h : Thins L (slotsOf s)) : Thins L (slotsOf (collEffect arrive word sl l s)) :=
  thins_waitMembers _ _ _ (thins_foldl (fun s x => by simp) _ (thins_perLane hf word sl l h))

@[simp] theorem thins_teamEffect (chk : Lane → Option Trap) (vals : Lane → List Word) (word : Word) (sl : Slot) (l : List Tid) (h : Thins L (slotsOf s)) :
    Thins L (slotsOf (teamEffect chk vals word sl l s)) := by
  unfold teamEffect
  extract_lets x y
  have hx : Thins L (slotsOf x) := thins_perLane (fun ln s => by split <;> simp) word sl l h
  apply thins_waitMembers
  simp only [y]
  split
  · exact thins_meetTeam _ hx
  · exact hx

@[simp] theorem slots_penAccess (s : State) (l : Lane) (op : AccOp) (ca off size ord inst : Nat) :
    slotsOf (penAccess s l op ca off size ord inst) = slotsOf s := by simp [penAccess]

@[simp] theorem thins_penUpdateBy (op : PenOp) (a ord inst : Nat) (l : Lane) (h : Thins L (slotsOf s)) :
    Thins L (slotsOf (penUpdateBy op a ord inst l s)) := by
  unfold penUpdateBy
  split
  · simp [h]
  · exact h

@[simp] theorem thins_penInitBy (a b inst : Nat) (l : Lane) (h : Thins L (slotsOf s)) : Thins L (slotsOf (penInitBy a b inst l s)) := by
  unfold penInitBy
  split <;> simp [h]

@[simp] theorem thins_penWaitBy (a b : Nat) (l : Lane) (h : Thins L (slotsOf s)) : Thins L (slotsOf (penWaitBy a b l s)) := by
  unfold penWaitBy
  split
  · simp [h]
  · dsimp only
    split <;> simp [h]

theorem thins_withInst {f : Nat → Lane → State → State} {run : (Lane → State → State) → State → State} (hrun : ∀ n s, Thins (slotsOf s) (slotsOf (run (f n) s)))
    (h : Thins L (slotsOf s)) : Thins L (slotsOf (withInst f run s)) := h.trans (hrun _ { s with nextId := s.nextId + 1 })

@[simp] theorem thins_mmaEffect (va k : Nat) (word : Word) (sl : Slot) (l : List Tid) (h : Thins L (slotsOf s)) : Thins L (slotsOf (mmaEffect va k word sl l s)) := by
  unfold mmaEffect
  extract_lets on p
  have hp : Thins L (slotsOf p.2) := by
    refine thins_passing (fun s t s' heq => ?_) l h
    obtain ⟨tr, -, rfl⟩ := Option.map_eq_some_iff.mp heq
    simp
  split
  · exact thins_takeTraps _ hp
  · exact thins_collEffect (fun ln s => by simp) word sl _ hp

@[simp] theorem thins_matForm (k : MatKind) (rd : Nat) (p : Lane → List Word) (chk : List Word → Lane → Option Trap) (l : Lane) (ts : List Tid) (h : Thins L (slotsOf s)) :
    Thins L (slotsOf (matForm k rd p chk l ts s)) := by
  unfold matForm
  dsimp only
  split <;> simp [h]

/-! ### Effects of tasks and pens -/

@[simp] theorem thins_adeclBy (a b : Nat) (l : Lane) (ts : List Tid) (h : Thins L (slotsOf s)) : Thins L (slotsOf (adeclBy a b l ts s)) := by
  unfold adeclBy
  dsimp only
  rw [slots_ite]
  split
  · simp [h]
  · split
    · simp [h]
    · split
      · simp [h]
      · split
        · simp [h]
        · exact h
        · refine thins_foldl (fun s x => by simp) _ ?_
          split <;> simp [h]

@[simp] theorem thins_adropBy (a : Nat) (l : Lane) (h : Thins L (slotsOf s)) : Thins L (slotsOf (adropBy a l s)) := by
  unfold adropBy
  dsimp only
  split <;> simp [h]

/-! ### Effects of routines -/

@[simp] theorem thins_finishSave (t : Tid) (h : Thins L (slotsOf s)) : Thins L (slotsOf (finishSave s t)) := by
  unfold finishSave
  split
  · split
    · simp [h]
    · exact h
  · exact h

@[simp] theorem thins_exitSaveBy (l : Lane) (h : Thins L (slotsOf s)) : Thins L (slotsOf (exitSaveBy l s)) := by simp [exitSaveBy, h]

@[simp] theorem slots_rebuildTrap (s : State) (t : Tid) (handler : Word) (dump : List Word) (diff : List Nat) :
    slotsOf (rebuildTrap s t handler dump diff) = slotsOf s := by simp [rebuildTrap]

@[simp] theorem thins_entryDoneBy (l : Lane) (h : Thins L (slotsOf s)) : Thins L (slotsOf (entryDoneBy l s)) := by
  unfold entryDoneBy
  split <;> simp [h]

@[simp] theorem thins_rrecBy (d a : Nat) (l : Lane) (h : Thins L (slotsOf s)) : Thins L (slotsOf (rrecBy d a l s)) := by simp [rrecBy, h]

/-! ### Launches, exits and waits -/

@[simp] theorem thins_deferOp (kind : Nat) (addr : VAddr) (value : Word) (l : Lane) (h : Thins L (slotsOf s)) :
    Thins L (slotsOf (deferOp kind addr value l s)) := by simp [deferOp, h]

@[simp] theorem thins_launchBy (a b : Nat) (l : Lane) (h : Thins L (slotsOf s)) : Thins L (slotsOf (launchBy a b l s)) := by
  unfold launchBy
  split
  · simp [h]
  · rw [slots_ite]
    split
    · simp [h]
    · dsimp only
      split <;> simp [h]

@[simp] theorem thins_retireLane (l : Lane) (h : Thins L (slotsOf s)) : Thins L (slotsOf (retireLane l s)) := by simp [retireLane, h]
@[simp] theorem thins_exitBy (l : Lane) (h : Thins L (slotsOf s)) : Thins L (slotsOf (exitBy l s)) := by simp [exitBy, h]

@[simp] theorem thins_exitSuccBy (a b : Nat) (l : Lane) (h : Thins L (slotsOf s)) : Thins L (slotsOf (exitSuccBy a b l s)) := by
  unfold exitSuccBy
  dsimp only
  rw [slots_ite]
  split
  · simp [h]
  · rw [slots_ite]
    split
    · simp [h]
    · split
      · exact h
      · split
        · simp [h]
        · simp [h]
        · split <;> simp [h]

theorem thins_exitEffect {f : Lane → State → State} (hf : ∀ ln s, Thins (slotsOf s) (slotsOf (f ln s))) (word : Word) (sl : Slot) (l : List Tid)
    (h : Thins L (slotsOf s)) : Thins L (slotsOf (exitEffect f word sl l s)) := by
  have hlanes := thins_perLane hf word sl l h
  unfold exitEffect
  dsimp only
  split
  · exact thins_meetAll _ hlanes
  · exact hlanes

@[simp] theorem thins_yieldEffect (word : Word) (sl : Slot) (l : List Tid) (h : Thins L (slotsOf s)) :
    Thins L (slotsOf (yieldEffect word sl l s)) := by simp [yieldEffect, h]

@[simp] theorem thins_waitExtBy (d a b : Nat) (l : Lane) (h : Thins L (slotsOf s)) : Thins L (slotsOf (waitExtBy d a b l s)) := by
  unfold waitExtBy
  dsimp only
  split
  · simp [h]
  · rw [slots_ite]
    split
    · simp [h]
    · split
      · simp [h]
      · exact h
      · simp [h]

@[simp] theorem thins_sigBy (a : Nat) (l : Lane) (ts : List Tid) (h : Thins L (slotsOf s)) : Thins L (slotsOf (sigBy a l ts s)) := by
  unfold sigBy
  dsimp only
  rw [slots_ite]
  split
  · simp [h]
  · split
    · exact h
    · simp [h]

@[simp] theorem thins_sleepBy (a : Nat) (l : Lane) (h : Thins L (slotsOf s)) : Thins L (slotsOf (sleepBy a l s)) := by simp [sleepBy, h]

/-! ### Privileged registers and code lines -/

@[simp] theorem thins_trapBy (a : Nat) (l : Lane) (h : Thins L (slotsOf s)) : Thins L (slotsOf (trapBy a l s)) := by simp [trapBy, h]
@[simp] theorem thins_tretBy (skip : Bool) (l : Lane) (h : Thins L (slotsOf s)) : Thins L (slotsOf (tretBy skip l s)) := by simp [tretBy, h]

@[simp] theorem slots_reconfigure (s : State) (ctx : Nat) (f : Context → Context) : slotsOf (reconfigure s ctx f) = slotsOf s := by
  unfold reconfigure
  dsimp only
  split <;> rfl

theorem slots_privWrite {s s' : State} {ctx n : Nat} {x : Word} (h : privWrite s ctx n x = some s') : slotsOf s' = slotsOf s := by
  unfold privWrite at h
  split at h
  · cases h; simp
  · cases h; simp
  · split at h
    · cases h
    · cases h; simp
  · cases h; simp
  · cases h

@[simp] theorem thins_wrprivBy (d n : Nat) (l : Lane) (h : Thins L (slotsOf s)) : Thins L (slotsOf (wrprivBy d n l s)) := by
  unfold wrprivBy
  split
  · next hs => exact (slots_privWrite hs).symm ▸ h
  · simp [h]

@[simp] theorem slots_fetchLines (tm : Team) (c : Context) : ∀ (l : List Nat) (s : State), slotsOf (fetchLines s tm c l).2 = slotsOf s
  | [], _ => rfl
  | x :: l, s => by
    unfold fetchLines
    split
    · exact slots_fetchLines tm c l s
    · dsimp only
      split <;> simp [slots_fetchLines tm c l]

@[simp] theorem slots_pinLines (tm : Team) (level : Nat) : ∀ (l : List Nat) (s : State), slotsOf (pinLines tm level l s).2 = slotsOf s
  | [], _ => rfl
  | x :: l, s => by
    unfold pinLines
    dsimp only
    split
    · exact slots_pinLines tm level l s
    · simp [slots_pinLines tm level l]

theorem thins_codeLineBy {f : LineOp} (hf : ∀ tm c level ls s, slotsOf (f tm c level ls s).2 = slotsOf s) (rd : Option Nat) (a b : Nat) (sl : Slot) (l : Lane)
    (ts : List Tid) (h : Thins L (slotsOf s)) : Thins L (slotsOf (codeLineBy f rd a b sl l ts s)) := by
  unfold codeLineBy
  dsimp only
  split
  · simp [h]
  · split
    · exact h
    · split <;> simp [hf, h]

@[simp] theorem slots_tmarkBy (s : State) (d : Nat) (sl : Slot) (l : Lane) : slotsOf (tmarkBy d sl l s) = slotsOf s := by simp [tmarkBy]

end Sys2Proof.Proofs
end

section
/-! SUPPORT. What power, audit, host and partitions leave of the slots. -/

namespace Sys2Proof.Proofs

open Machine Claims Laws

variable {L : List Slot} {s : State}

/-! ### Power and errors -/

@[simp] theorem slots_modIsland (s : State) (i : Nat) (f : Island → Island) : slotsOf (modIsland s i f) = slotsOf s := (rfl)
@[simp] theorem slots_setStep (s : State) (i step : Nat) : slotsOf (setStep s i step) = slotsOf s := (rfl)
@[simp] theorem slots_setLimit (s : State) (i bit : Nat) (b : Bool) : slotsOf (setLimit s i bit b) = slotsOf s := (rfl)
@[simp] theorem slots_takeStep (s : State) (i step : Nat) : slotsOf (takeStep s i step) = slotsOf s := by simp [takeStep]
@[simp] theorem slots_changeStep (s : State) (i step : Nat) : slotsOf (changeStep s i step) = slotsOf s := by simp [changeStep]
@[simp] theorem slots_execPowerLimitSet (s : State) (watts : Nat) : slotsOf (after (execPowerLimitSet watts s) s) = slotsOf s := by simp [execPowerLimitSet]

@[simp] theorem slots_execPowerWindow (s : State) (watts : Nat) : slotsOf (after (execPowerWindow watts s) s) = slotsOf s := by
  unfold execPowerWindow
  split
  · split <;> simp
  · split
    · split <;> simp
    · simp

@[simp] theorem slots_gateHalf (s : State) (i : Nat) : slotsOf (gateHalf s i) = slotsOf s := by simp [gateHalf]

@[simp] theorem slots_execIslandGateRequest (s : State) (island : Nat) :
    slotsOf (after (execIslandGateRequest island s) s) = slotsOf s := by simp [execIslandGateRequest]

@[simp] theorem slots_execIslandStepChange (s : State) (island : Nat) : slotsOf (after (execIslandStepChange island s) s) = slotsOf s := by
  unfold execIslandStepChange
  split
  · split
    · simp
    · rfl
  · rfl

@[simp] theorem slots_execManagementStepRequest (s : State) (island step : Nat) :
    slotsOf (after (execManagementStepRequest island step s) s) = slotsOf s := by simp [execManagementStepRequest]

@[simp] theorem slots_postWarning (s : State) : slotsOf (postWarning s) = slotsOf s := (rfl)

@[simp] theorem slots_execCorrectedError (s : State) (link : Bool) (index : Nat) :
    slotsOf (after (execCorrectedError link index s) s) = slotsOf s := by simp [execCorrectedError]

@[simp] theorem slots_serveRead (s : State) (port : Nat) (m : LinkMsg) : slotsOf (serveRead s port m) = slotsOf s := by simp [serveRead]
@[simp] theorem slots_serveWrite (s : State) (port : Nat) (m : LinkMsg) : slotsOf (serveWrite s port m) = slotsOf s := by simp [serveWrite]
@[simp] theorem slots_dropReq (s : State) (num : Nat) : slotsOf (dropReq s num) = slotsOf s := (rfl)

@[simp] theorem slots_keepPeerLine (s : State) (t : Tid) (dev line expiry : Nat) (bs : List Byte) :
    slotsOf (keepPeerLine s t dev line expiry bs) = slotsOf s := (rfl)

@[simp] theorem slots_takeLine (s : State) (t : Tid) (a : Access) (m : LinkMsg) : slotsOf (takeLine s t a m) = slotsOf s := by simp [takeLine]

@[simp] theorem slots_takeResponse (s : State) (r : RemoteReq) (m : LinkMsg) : slotsOf (takeResponse s r m) = slotsOf s := by
  unfold takeResponse
  split
  · rfl
  · rfl
  · split
    · rfl
    · split
      · simp
      · rfl

@[simp] theorem slots_takeAck (s : State) (r : RemoteReq) : slotsOf (takeAck s r) = slotsOf s := by
  unfold takeAck
  split
  · rfl
  · rfl
  · simp

@[simp] theorem slots_answered (s : State) (m : LinkMsg) {f : State → RemoteReq → State} (h : ∀ s r, slotsOf (f s r) = slotsOf s) : slotsOf (answered s m f) = slotsOf s := by
  unfold answered
  split
  · split <;> simp [h]
  · rfl

@[simp] theorem slots_receive (s : State) (allowed : Bool) (port : Nat) (m : LinkMsg) : slotsOf (receive s allowed port m) = slotsOf s := by
  unfold receive
  split <;> simp

@[simp] theorem slots_receiveAt (s : State) (slot port : Nat) (m : LinkMsg) : slotsOf (receiveAt s slot port m) = slotsOf s := by simp [receiveAt]

@[simp] theorem slots_arrive (s : State) (port : Nat) (hdr : BitVec 64) (slot : Nat) (m : LinkMsg) :
    slotsOf (arrive s port hdr slot m) = slotsOf s := by simp [arrive]

@[simp] theorem slots_loopTick (s : State) : slotsOf (loopTick s) = slotsOf s := by simp [loopTick]

@[simp] theorem slots_execLinkReadRequest (s : State) (port dev : Nat) (hdr : BitVec 64) (slot num addr cls : Nat) :
    slotsOf (after (execLinkReadRequest port dev hdr slot num addr cls s) s) = slotsOf s := by simp [execLinkReadRequest]

@[simp] theorem slots_execLinkWrite (s : State) (port dev : Nat) (hdr : BitVec 64) (slot num addr : Nat) (form : WriteForm) (data : BitVec 512) :
    slotsOf (after (execLinkWrite port dev hdr slot num addr form data s) s) = slotsOf s := by simp [execLinkWrite]

@[simp] theorem slots_execLinkReadResponse (s : State) (port dev : Nat) (hdr : BitVec 64) (slot num expiry : Nat) (data : BitVec 512) :
    slotsOf (after (execLinkReadResponse port dev hdr slot num expiry data s) s) = slotsOf s := by simp [execLinkReadResponse]

@[simp] theorem slots_execLinkAcknowledgement (s : State) (port dev : Nat) (hdr : BitVec 64) (slot num : Nat) :
    slotsOf (after (execLinkAcknowledgement port dev hdr slot num s) s) = slotsOf s := by simp [execLinkAcknowledgement]

@[simp] theorem slots_execCrcFailure (s : State) (port dev : Nat) : slotsOf (after (execCrcFailure port dev s) s) = slotsOf s := by simp [execCrcFailure]

@[simp] theorem slots_execLinkReplayRequest (s : State) (port dev : Nat) (hdr : BitVec 64) :
    slotsOf (after (execLinkReplayRequest port dev hdr s) s) = slotsOf s := by simp [execLinkReplayRequest]

@[simp] theorem slots_execPortDown (s : State) (port : Nat) : slotsOf (after (execPortDown port s) s) = slotsOf s := by
  unfold execPortDown
  split
  · simp
  · rfl

@[simp] theorem slots_execFailoverMessage (s : State) (port dev : Nat) (hdr : BitVec 64) (slot kind num addr : Nat) (form : WriteForm) (cls expiry : Nat) (data : BitVec 512) :
    slotsOf (after (execFailoverMessage port dev hdr slot kind num addr form cls expiry data s) s) = slotsOf s := by
  unfold execFailoverMessage
  split
  · simp
  · dsimp only
    split
    · simp
    · split <;> simp

@[simp] theorem thins_abortRemote (r : RemoteReq) (h : Thins L (slotsOf s)) : Thins L (slotsOf (abortRemote s r)) := by
  unfold abortRemote
  dsimp only
  split
  · simp [h]
  · simp [h]
  · split
    · exact h
    · simp [h]

@[simp] theorem slots_dropMsg (s : State) (r : RemoteReq) : slotsOf (dropMsg s r) = slotsOf s := (rfl)

@[simp] theorem thins_execPeerTimeout (num : Nat) (h : Thins L (slotsOf s)) : Thins L (slotsOf (after (execPeerTimeout num s) s)) := by
  unfold execPeerTimeout
  split
  · simp [h]
  · exact h

/-! ### The audit log -/

@[simp] theorem slots_signHead (s : State) : slotsOf (signHead s) = slotsOf s := by
  unfold signHead
  split <;> rfl

@[simp] theorem slots_appendEntry (s : State) (source code ctx part : Nat) (detail : List Byte) :
    slotsOf (appendEntry s source code ctx part detail) = slotsOf s := by simp [appendEntry]

@[simp] theorem slots_audit (s : State) (source code ctx part : Nat) (detail : List Byte) : slotsOf (audit s source code ctx part detail) = slotsOf s := by
  unfold audit
  dsimp only
  rw [slots_appendEntry]
  split
  · rfl
  · simp

@[simp] theorem slots_extend (s : State) (n : Nat) (digest : BitVec 512) : slotsOf (extend s n digest) = slotsOf s := by simp [extend]
@[simp] theorem slots_measure (s : State) (n : Nat) (image : List Byte) : slotsOf (Machine.measure s n image) = slotsOf s := slots_extend ..
@[simp] theorem slots_bootRom (s : State) : slotsOf (bootRom s) = slotsOf s := by simp [bootRom]

/-! ### The host interface -/

@[simp] theorem slots_sendSignals : ∀ (l : List (List Tid × Nat × Nat)) (s : State), slotsOf (sendSignals s l) = slotsOf s
  | [], _ => rfl
  | x :: l, s => by
    unfold sendSignals
    split <;> simp [slots_sendSignals l]

@[simp] theorem slots_execMsiMessage (s : State) : slotsOf (after (execMsiMessage s) s) = slotsOf s := by simp [execMsiMessage]
@[simp] theorem slots_mask (s : State) (fn vec : Nat) : slotsOf (mask s fn vec) = slotsOf s := by simp [mask]
@[simp] theorem slots_unmask (s : State) (fn vec : Nat) : slotsOf (unmask s fn vec) = slotsOf s := by simp [unmask]
@[simp] theorem slots_execVectorUnmask (s : State) (fn vec : Nat) : slotsOf (after (execVectorUnmask fn vec s) s) = slotsOf s := by simp [execVectorUnmask]

@[simp] theorem slots_execFaultVector (s : State) (ctx : Nat) : slotsOf (after (execFaultVector ctx s) s) = slotsOf s := by
  unfold execFaultVector
  split
  · simp
  · rfl

@[simp] theorem slots_winFail (s : State) : slotsOf (winFail s) = slotsOf s := (rfl)
@[simp] theorem slots_windowFault (s : State) (fn off : Nat) (write : Bool) : slotsOf (windowFault s fn off write) = slotsOf s := by simp [windowFault]

@[simp] theorem slots_execWindowRead (s : State) (via : WindowVia) (off n : Nat) : slotsOf (after (execWindowRead via off n s) s) = slotsOf s := by
  unfold execWindowRead
  split
  · simp
  · split <;> simp

@[simp] theorem slots_windowStore (s : State) (link pa : Nat) (bs : List Byte) : slotsOf (windowStore s link pa bs) = slotsOf s := (rfl)
@[simp] theorem slots_windowStores (s : State) (link pa : Nat) (bs : List Byte) : slotsOf (windowStores s link pa bs) = slotsOf s := by simp [windowStores]

@[simp] theorem slots_execWindowWrite (s : State) (via : WindowVia) (off n : Nat) (data : BitVec 512) :
    slotsOf (after (execWindowWrite via off n data s) s) = slotsOf s := by
  unfold execWindowWrite
  split
  · simp
  · split <;> simp

@[simp] theorem slots_execUntrustedAccess (s : State) : slotsOf (after (execUntrustedAccess s) s) = slotsOf s := by simp [execUntrustedAccess]
@[simp] theorem slots_execTdispStateChange (s : State) (fn code : Nat) : slotsOf (after (execTdispStateChange fn code s) s) = slotsOf s := (rfl)
@[simp] theorem slots_execHfenWrite (s : State) (en : Bool) : slotsOf (after (execHfenWrite en s) s) = slotsOf s := (rfl)
@[simp] theorem slots_endCmd (s : State) (r : BitVec 8) (out : List Word) : slotsOf (endCmd s r out) = slotsOf s := (rfl)

@[simp] theorem slots_endMailbox (s : State) : slotsOf (endMailbox s) = slotsOf s := by
  unfold endMailbox
  split
  · rfl
  · simp

@[simp] theorem slots_execCommandEnd (s : State) : slotsOf (after (execCommandEnd s) s) = slotsOf s := by simp [execCommandEnd]
@[simp] theorem slots_execBadCommand (s : State) : slotsOf (after (execBadCommand s) s) = slotsOf s := by simp [execBadCommand]
@[simp] theorem thins_startRoot (c : Context) (h : Thins L (slotsOf s)) : Thins L (slotsOf (startRoot s c)) := by simp [startRoot, h]

@[simp] theorem thins_createContext (h : Thins L (slotsOf s)) : Thins L (slotsOf (createContext s)) := by
  unfold createContext
  dsimp only
  split
  · simp [h]
  · simp [h]
  · rw [slots_endCmd]
    exact thins_startRoot _ (by simp [h])

@[simp] theorem thins_execCreateContext (h : Thins L (slotsOf s)) : Thins L (slotsOf (after (execCreateContext s) s)) := by simp [execCreateContext, h]

@[simp] theorem thins_startDestroy (ctx : Nat) (h : Thins L (slotsOf s)) : Thins L (slotsOf (startDestroy s ctx)) := by
  unfold startDestroy
  dsimp only
  refine thins_foldl (fun s x => by simp) _ ?_
  simp [h]

@[simp] theorem slots_dropDirty (s : State) (d : DirtyLine) : slotsOf (dropDirty s d) = slotsOf s := by
  unfold dropDirty
  rw [slots_ite]
  split
  · rfl
  · dsimp only
    split
    · simp
    · rfl

@[simp] theorem slots_finishDestroy (s : State) (c : Context) : slotsOf (finishDestroy s c) = slotsOf s := by simp [finishDestroy]

@[simp] theorem thins_driveDestroy (h : Thins L (slotsOf s)) : Thins L (slotsOf (driveDestroy s)) := by
  unfold driveDestroy
  rw [slots_ite]
  split
  · split
    · exact h
    · simp [h]
  · exact h

@[simp] theorem thins_execDestroyContext (h : Thins L (slotsOf s)) : Thins L (slotsOf (after (execDestroyContext s) s)) := by simp [execDestroyContext, h]
@[simp] theorem thins_execSuspendContext (h : Thins L (slotsOf s)) : Thins L (slotsOf (after (execSuspendContext s) s)) := by simp [execSuspendContext, h]
@[simp] theorem slots_unsuspend (s : State) (ctx : Nat) (who : List Nat) : slotsOf (unsuspend s ctx who) = slotsOf s := (rfl)

@[simp] theorem slots_resumeCtx (s : State) (ctx : Nat) : slotsOf (resumeCtx s ctx) = slotsOf s := by
  unfold resumeCtx
  split
  · rfl
  · simp

@[simp] theorem slots_execResumeContext (s : State) : slotsOf (after (execResumeContext s) s) = slotsOf s := by simp [execResumeContext]
@[simp] theorem slots_execSetWatchdog (s : State) : slotsOf (after (execSetWatchdog s) s) = slotsOf s := by simp [execSetWatchdog]
@[simp] theorem slots_execMeasureSteward (s : State) : slotsOf (after (execMeasureSteward s) s) = slotsOf s := by simp [execMeasureSteward]

/-! ### Partitions and leases of engines -/

@[simp] theorem slots_modPart (s : State) (id : Nat) (f : Machine.Partition → Machine.Partition) : slotsOf (modPart s id f) = slotsOf s := (rfl)
@[simp] theorem slots_endPart (s : State) (op : Nat) (r : BitVec 8) : slotsOf (endPart s op r) = slotsOf s := by simp [endPart]

@[simp] theorem slots_runPart (s : State) (op : Nat) (checks : List (Bool × BitVec 8)) {eff : State → State} (h : slotsOf (eff s) = slotsOf s) :
    slotsOf (runPart s op checks eff) = slotsOf s := by
  unfold runPart
  split
  · rfl
  · split <;> simp [h]

@[simp] theorem thins_runPart (op : Nat) (checks : List (Bool × BitVec 8)) {eff : State → State} (heff : Thins (slotsOf s) (slotsOf (eff s))) (h : Thins L (slotsOf s)) :
    Thins L (slotsOf (runPart s op checks eff)) := by
  unfold runPart
  split
  · exact h
  · split
    · simp [h]
    · exact h.trans heff

@[simp] theorem slots_spillBound (s : State) (team : Nat) : slotsOf (spillBound s team) = slotsOf s := by
  unfold spillBound
  split
  · simp
  · rfl

@[simp] theorem slots_scrubClusters (s : State) (cl : List Nat) : slotsOf (scrubClusters s cl) = slotsOf s := (rfl)

@[simp] theorem slots_finishPart (s : State) : slotsOf (finishPart s) = slotsOf s := by
  unfold finishPart
  dsimp only
  split
  · simp
  · simp
  · simp
  · rfl

@[simp] theorem slots_settlePart (s : State) : slotsOf (settlePart s) = slotsOf s := by simp [settlePart]

@[simp] theorem thins_takeClusters (op : Nat) (cl more : List Nat) (h : Thins L (slotsOf s)) :
    Thins L (slotsOf (takeClusters s op cl more)) := by simp [takeClusters, h]

@[simp] theorem slots_partDefine (s : State) : slotsOf (partDefine s) = slotsOf s := by simp [partDefine]
@[simp] theorem slots_partDelete (s : State) : slotsOf (partDelete s) = slotsOf s := by simp [partDelete]
@[simp] theorem slots_partGrow (s : State) : slotsOf (partGrow s) = slotsOf s := by simp [partGrow]
@[simp] theorem thins_partShrink (h : Thins L (slotsOf s)) : Thins L (slotsOf (partShrink s)) := by simp [partShrink, h]
@[simp] theorem thins_partLend (h : Thins L (slotsOf s)) : Thins L (slotsOf (partLend s)) := by simp [partLend, h]
@[simp] theorem thins_partReclaim (h : Thins L (slotsOf s)) : Thins L (slotsOf (partReclaim s)) := by simp [partReclaim, h]
@[simp] theorem slots_partRead (s : State) : slotsOf (partRead s) = slotsOf s := by simp [partRead]
@[simp] theorem slots_partReserved (s : State) (op : Nat) : slotsOf (partReserved s op) = slotsOf s := by simp [partReserved]
@[simp] theorem slots_execDefine (s : State) : slotsOf (after (execDefine s) s) = slotsOf s := by simp [execDefine]
@[simp] theorem slots_execDelete (s : State) : slotsOf (after (execDelete s) s) = slotsOf s := by simp [execDelete]
@[simp] theorem slots_execGrow (s : State) : slotsOf (after (execGrow s) s) = slotsOf s := by simp [execGrow]
@[simp] theorem thins_execShrink (h : Thins L (slotsOf s)) : Thins L (slotsOf (after (execShrink s) s)) := by simp [execShrink, h]
@[simp] theorem thins_execLend (h : Thins L (slotsOf s)) : Thins L (slotsOf (after (execLend s) s)) := by simp [execLend, h]
@[simp] theorem thins_execReclaim (h : Thins L (slotsOf s)) : Thins L (slotsOf (after (execReclaim s) s)) := by simp [execReclaim, h]
@[simp] theorem slots_execReclaimComplete (s : State) : slotsOf (after (execReclaimComplete s) s) = slotsOf s := by simp [execReclaimComplete]
@[simp] theorem slots_execPartitionRead (s : State) : slotsOf (after (execPartitionRead s) s) = slotsOf s := by simp [execPartitionRead]
@[simp] theorem slots_endLease (s : State) (r : BitVec 8) : slotsOf (endLease s r) = slotsOf s := (rfl)
@[simp] theorem slots_bindEngine (s : State) : slotsOf (bindEngine s) = slotsOf s := by simp [bindEngine]
@[simp] theorem slots_releaseEngine (s : State) : slotsOf (releaseEngine s) = slotsOf s := by simp [releaseEngine]
@[simp] theorem slots_execBind (s : State) : slotsOf (after (execBind s) s) = slotsOf s := by simp [execBind]
@[simp] theorem slots_execLeaseRelease (s : State) : slotsOf (after (execLeaseRelease s) s) = slotsOf s := by simp [execLeaseRelease]
@[simp] theorem slots_execLeaseExpiry (s : State) (eng : Nat) : slotsOf (after (execLeaseExpiry eng s) s) = slotsOf s := (rfl)

end Sys2Proof.Proofs
end

section
/-! SUPPORT. What pavilions, the root of trust and replays leave of the slots. -/

namespace Sys2Proof.Proofs

open Machine Claims Laws

variable {L : List Slot} {s : State}

/-! ### Pavilions -/

@[simp] theorem slots_queueScrub (s : State) (base size : Nat) : slotsOf (queueScrub s base size) = slotsOf s := (rfl)

@[simp] theorem slots_frameGo (s : State) : slotsOf (frameGo s) = slotsOf s := by
  unfold frameGo
  split
  · simp
  · rfl

@[simp] theorem slots_execFrameQueue (s : State) : slotsOf (after (execFrameQueue s) s) = slotsOf s := by simp [execFrameQueue]
@[simp] theorem slots_zeroSpan (s : State) (base size : Nat) : slotsOf (zeroSpan s base size) = slotsOf s := (rfl)
@[simp] theorem slots_scrubRange (s : State) (base size : Nat) : slotsOf (scrubRange s base size) = slotsOf s := (rfl)
@[simp] theorem slots_scrubFrame (s : State) (r : ScrubRec) : slotsOf (scrubFrame s r) = slotsOf s := by simp [scrubFrame]
@[simp] theorem slots_endPav (s : State) (op : Nat) (r : BitVec 8) : slotsOf (endPav s op r) = slotsOf s := by simp [endPav]

@[simp] theorem slots_runPav (s : State) (op : Nat) (checks : List (Bool × BitVec 8)) {eff : State → State} (h : slotsOf (eff s) = slotsOf s) :
    slotsOf (runPav s op checks eff) = slotsOf s := by
  unfold runPav
  split
  · rfl
  · split <;> simp [h]

@[simp] theorem slots_pavCreate (s : State) : slotsOf (pavCreate s) = slotsOf s := by simp [pavCreate]
@[simp] theorem slots_setMasks (s : State) (f : BitVec 4 → BitVec 32 → BitVec 4 × BitVec 32) : slotsOf (setMasks s f) = slotsOf s := (rfl)
@[simp] theorem slots_pavAssign (s : State) : slotsOf (pavAssign s) = slotsOf s := by simp [pavAssign]
@[simp] theorem slots_pavUnassign (s : State) : slotsOf (pavUnassign s) = slotsOf s := by simp [pavUnassign]
@[simp] theorem slots_pavAddframe (s : State) : slotsOf (pavAddframe s) = slotsOf s := by simp [pavAddframe]
@[simp] theorem slots_dropPav (s : State) (p : Pavilion) : slotsOf (dropPav s p) = slotsOf s := by simp [dropPav]

@[simp] theorem slots_settlePav (s : State) : slotsOf (settlePav s) = slotsOf s := by
  unfold settlePav
  rw [slots_ite]
  split
  · rfl
  · dsimp only
    rw [slots_ite]
    split
    · split
      · simp
      · rw [slots_ite]
        split
        · split <;> simp
        · simp
    · split
      · simp
      · rw [slots_ite]
        split
        · split <;> simp
        · rfl

@[simp] theorem slots_pavDelframe (s : State) : slotsOf (pavDelframe s) = slotsOf s := by simp [pavDelframe]
@[simp] theorem slots_pavDestroy (s : State) : slotsOf (pavDestroy s) = slotsOf s := by simp [pavDestroy]
@[simp] theorem slots_pavReserved (s : State) : slotsOf (pavReserved s) = slotsOf s := by simp [pavReserved]
@[simp] theorem slots_execPavilionCreate (s : State) : slotsOf (after (execPavilionCreate s) s) = slotsOf s := by simp [execPavilionCreate]
@[simp] theorem slots_execAssign (s : State) : slotsOf (after (execAssign s) s) = slotsOf s := by simp [execAssign]
@[simp] theorem slots_execUnassign (s : State) : slotsOf (after (execUnassign s) s) = slotsOf s := by simp [execUnassign]
@[simp] theorem slots_execAddframe (s : State) : slotsOf (after (execAddframe s) s) = slotsOf s := by simp [execAddframe]
@[simp] theorem slots_execDelframe (s : State) : slotsOf (after (execDelframe s) s) = slotsOf s := by simp [execDelframe]
@[simp] theorem slots_execPavilionDestroy (s : State) : slotsOf (after (execPavilionDestroy s) s) = slotsOf s := by simp [execPavilionDestroy]

@[simp] theorem slots_execFrameScrub (s : State) : slotsOf (after (execFrameScrub s) s) = slotsOf s := by
  unfold execFrameScrub
  split
  · simp
  · rfl

@[simp] theorem slots_endRotation (s : State) : slotsOf (endRotation s) = slotsOf s := by simp [endRotation]

@[simp] theorem slots_rotateGo (s : State) : slotsOf (rotateGo s) = slotsOf s := by
  unfold rotateGo
  dsimp only
  rw [slots_ite]
  split
  · rfl
  · rw [slots_ite]
    split
    · rfl
    · split
      · rfl
      · simp

@[simp] theorem slots_execKeyRotationGo (s : State) : slotsOf (after (execKeyRotationGo s) s) = slotsOf s := by simp [execKeyRotationGo]
@[simp] theorem slots_resealLine (s : State) : slotsOf (resealLine s) = slotsOf s := (rfl)

@[simp] theorem slots_execSweepLine (s : State) : slotsOf (after (execSweepLine s) s) = slotsOf s := by
  unfold execSweepLine
  split
  · rfl
  · dsimp only
    split <;> simp

/-! ### The root of trust and handovers -/

@[simp] theorem slots_extendGo (s : State) : slotsOf (extendGo s) = slotsOf s := by simp [extendGo]
@[simp] theorem slots_execMeasExtend (s : State) : slotsOf (after (execMeasExtend s) s) = slotsOf s := by simp [execMeasExtend]
@[simp] theorem slots_execSigreq (s : State) : slotsOf (after (execSigreq s) s) = slotsOf s := by simp [execSigreq]
@[simp] theorem slots_logPort (s : State) (code : Nat) : slotsOf (logPort s code) = slotsOf s := by simp [logPort]
@[simp] theorem slots_execLpcode (s : State) (code : Word) : slotsOf (after (execLpcode code s) s) = slotsOf s := by simp [execLpcode]
@[simp] theorem slots_answer (s : State) (code : Nat) (content : List Byte) : slotsOf (answer s code content) = slotsOf s := (rfl)
@[simp] theorem slots_spdmError (s : State) (code : Nat) : slotsOf (spdmError s code) = slotsOf s := (rfl)
@[simp] theorem slots_execGetVersion (s : State) : slotsOf (after (execGetVersion s) s) = slotsOf s := (rfl)
@[simp] theorem slots_execGetCapabilities (s : State) : slotsOf (after (execGetCapabilities s) s) = slotsOf s := (rfl)
@[simp] theorem slots_execNegotiateAlgorithms (s : State) : slotsOf (after (execNegotiateAlgorithms s) s) = slotsOf s := (rfl)
@[simp] theorem slots_execGetCertificate (s : State) (slot : Nat) : slotsOf (after (execGetCertificate slot s) s) = slotsOf s := by simp [execGetCertificate]

@[simp] theorem slots_execChallenge (s : State) (slot : Nat) (nonce : BitVec 512) :
    slotsOf (after (execChallenge slot nonce s) s) = slotsOf s := by simp [execChallenge]

@[simp] theorem slots_execGetMeasurements (s : State) (index : Nat) :
    slotsOf (after (execGetMeasurements index s) s) = slotsOf s := by simp [execGetMeasurements]

@[simp] theorem slots_execUnsupportedRequest (s : State) (code : Nat) :
    slotsOf (after (execUnsupportedRequest code s) s) = slotsOf s := by simp [execUnsupportedRequest]

@[simp] theorem slots_modTrust (s : State) (f : Trust → Trust) : slotsOf (modTrust s f) = slotsOf s := (rfl)
@[simp] theorem slots_endHo (s : State) (op : Nat) (r : BitVec 8) : slotsOf (endHo s op r) = slotsOf s := by simp [endHo]

@[simp] theorem slots_runHo (s : State) (op : Nat) {eff : State → State} (h : slotsOf (eff s) = slotsOf s) : slotsOf (runHo s op eff) = slotsOf s := by
  unfold runHo
  split
  · rfl
  · split <;> simp [h]

@[simp] theorem thins_runHo (op : Nat) {eff : State → State} (heff : Thins (slotsOf s) (slotsOf (eff s))) (h : Thins L (slotsOf s)) :
    Thins L (slotsOf (runHo s op eff)) := by
  unfold runHo
  split
  · exact h
  · split
    · simp [h]
    · exact h.trans heff

@[simp] theorem slots_keyx (s : State) : slotsOf (keyx s) = slotsOf s := by
  unfold keyx
  rw [slots_runHo]
  split <;> simp

@[simp] theorem slots_setHoLen (s : State) (n : Nat) : slotsOf (setHoLen s n) = slotsOf s := (rfl)

@[simp] theorem slots_sealImage (s : State) (p : Pavilion) : slotsOf (sealImage s p) = slotsOf s := by
  unfold sealImage
  split <;> simp

@[simp] theorem slots_runCtxs (s : State) (pv : Nat) : slotsOf (runCtxs s pv) = slotsOf s := by simp [runCtxs]

@[simp] theorem slots_settlePrepare (s : State) : slotsOf (settlePrepare s) = slotsOf s := by
  unfold settlePrepare
  rw [slots_ite]
  split
  · rfl
  · split <;> simp

@[simp] theorem thins_prepare (h : Thins L (slotsOf s)) : Thins L (slotsOf (prepare s)) := by
  unfold prepare
  apply thins_runHo
  · split <;> simp
  · exact h

@[simp] theorem thins_commitHo (h : Thins L (slotsOf s)) : Thins L (slotsOf (commitHo s)) := by
  unfold commitHo
  apply thins_runHo
  · split <;> simp
  · exact h

@[simp] theorem slots_abortHo (s : State) : slotsOf (abortHo s) = slotsOf s := by
  unfold abortHo
  rw [slots_runHo]
  split
  · simp
  · split <;> simp

@[simp] theorem slots_fillSpans (pav : Nat) : ∀ (l : List (Nat × Nat)) (bs : List Byte) (s : State), slotsOf (fillSpans s pav l bs) = slotsOf s
  | [], _, _ => rfl
  | _ :: l, _, s => (slots_fillSpans pav l _ _).trans (by simp)

@[simp] theorem slots_retagRecords (s : State) (ts : List Team) : slotsOf (retagRecords s ts) = slotsOf s := by
  unfold retagRecords
  refine slots_foldl (fun s x => ?_) _ s
  refine slots_foldl (fun s x => ?_) _ s
  split
  · simp
  · rfl

@[simp] theorem slots_accept (s : State) : slotsOf (accept s) = slotsOf s := by
  unfold accept
  rw [slots_runHo]
  split
  · simp
  · split
    · simp
    · dsimp only
      split <;> simp

@[simp] theorem slots_releaseHo (s : State) : slotsOf (releaseHo s) = slotsOf s := by
  unfold releaseHo
  rw [slots_runHo]
  split <;> simp

@[simp] theorem slots_statement (s : State) : slotsOf (statement s) = slotsOf s := by simp [statement]
@[simp] theorem slots_execKeyx (s : State) : slotsOf (after (execKeyx s) s) = slotsOf s := by simp [execKeyx]
@[simp] theorem thins_execPrepare (h : Thins L (slotsOf s)) : Thins L (slotsOf (after (execPrepare s) s)) := by simp [execPrepare, h]
@[simp] theorem thins_execHandoverCommit (h : Thins L (slotsOf s)) : Thins L (slotsOf (after (execHandoverCommit s) s)) := by simp [execHandoverCommit, h]
@[simp] theorem slots_execHandoverAbort (s : State) : slotsOf (after (execHandoverAbort s) s) = slotsOf s := by simp [execHandoverAbort]
@[simp] theorem slots_execAccept (s : State) : slotsOf (after (execAccept s) s) = slotsOf s := by simp [execAccept]
@[simp] theorem slots_execHandoverRelease (s : State) : slotsOf (after (execHandoverRelease s) s) = slotsOf s := by simp [execHandoverRelease]
@[simp] theorem slots_execStatement (s : State) : slotsOf (after (execStatement s) s) = slotsOf s := by simp [execStatement]

/-! ### Faults replayed and aborted -/

@[simp] theorem slots_putBlock (s : State) (b : TransBlock) : slotsOf (putBlock s b) = slotsOf s := (rfl)
@[simp] theorem slots_endTrans (s : State) (fn : Nat) (r : BitVec 8) : slotsOf (endTrans s fn r) = slotsOf s := by simp [endTrans]

@[simp] theorem slots_runTrans (s : State) (fn : Nat) (inject : Bool) {eff : TransBlock → State → State} (h : ∀ b, slotsOf (eff b s) = slotsOf s) :
    slotsOf (runTrans s fn inject eff) = slotsOf s := by
  unfold runTrans
  dsimp only
  split
  · rfl
  · split <;> simp [h]

@[simp] theorem thins_runTrans (fn : Nat) (inject : Bool) {eff : TransBlock → State → State} (heff : ∀ b, Thins (slotsOf s) (slotsOf (eff b s))) (h : Thins L (slotsOf s)) :
    Thins L (slotsOf (runTrans s fn inject eff)) := by
  unfold runTrans
  dsimp only
  split
  · exact h
  · split
    · simp [h]
    · exact h.trans (heff _)

@[simp] theorem slots_settleTrans (s : State) (fn : Nat) : slotsOf (settleTrans s fn) = slotsOf s := by simp [settleTrans]
@[simp] theorem slots_invalidate (s : State) (fn : Nat) : slotsOf (invalidate s fn) = slotsOf s := by simp [invalidate]
@[simp] theorem slots_execInvalidate (s : State) (fn : Nat) : slotsOf (after (execInvalidate fn s) s) = slotsOf s := by simp [execInvalidate]
@[simp] theorem slots_markAcc (s : State) (t : Tid) (a : Access) (m : Nat) : slotsOf (markAcc s t a m) = slotsOf s := (rfl)
@[simp] theorem slots_forgetRecords (s : State) (b : TransBlock) : slotsOf (forgetRecords s b) = slotsOf s := (rfl)

@[simp] theorem thins_replayGrids (b : TransBlock) (h : Thins L (slotsOf s)) : Thins L (slotsOf (replayGrids s b)) := by
  unfold replayGrids
  dsimp only
  refine thins_foldl (fun s l => ?_) _ ?_
  · split
    · split <;> simp
    · simp
  · rw [slots_mk, slots_foldl fun s g => by split <;> simp]
    exact h

@[simp] theorem thins_replay (fn : Nat) (h : Thins L (slotsOf s)) : Thins L (slotsOf (replay s fn)) := by
  unfold replay
  apply thins_runTrans
  · intro b
    dsimp only
    rw [slots_endTrans]
    refine thins_foldl (fun s x => by simp) _ ?_
    refine thins_foldl (fun s x => by simp) _ ?_
    simp
  · exact h

@[simp] theorem thins_execReplay (fn : Nat) (h : Thins L (slotsOf s)) : Thins L (slotsOf (after (execReplay fn s) s)) := by simp [execReplay, h]

@[simp] theorem thins_abortGrids (b : TransBlock) (recs : List LoggedRec) (h : Thins L (slotsOf s)) :
    Thins L (slotsOf (abortGrids s b recs)) := by simp [abortGrids, h]

@[simp] theorem thins_abort (fn : Nat) (h : Thins L (slotsOf s)) : Thins L (slotsOf (abort s fn)) := by
  unfold abort
  apply thins_runTrans
  · intro b
    dsimp only
    rw [slots_endTrans]
    apply thins_abortGrids
    simp
  · exact h

@[simp] theorem thins_execAbort (fn : Nat) (h : Thins L (slotsOf s)) : Thins L (slotsOf (after (execAbort fn s) s)) := by simp [execAbort, h]
@[simp] theorem slots_renameFault (s : State) (ctx old new : Nat) : slotsOf (renameFault s ctx old new) = slotsOf s := (rfl)

@[simp] theorem slots_inject (s : State) (fn : Nat) : slotsOf (inject s fn) = slotsOf s := by
  unfold inject
  rw [slots_runTrans]
  intro b
  split <;> simp

@[simp] theorem slots_execInject (s : State) (fn : Nat) : slotsOf (after (execInject fn s) s) = slotsOf s := by simp [execInject]

@[simp] theorem slots_endSpill (s : State) (r : BitVec 8) : slotsOf (endSpill s r) = slotsOf s := by
  unfold endSpill
  dsimp only
  rw [slots_raiseVector]
  split <;> rfl

@[simp] theorem slots_spillAdd (s : State) : slotsOf (spillAdd s) = slotsOf s := by
  unfold spillAdd
  dsimp only
  split <;> simp

@[simp] theorem slots_spillQuery (s : State) : slotsOf (spillQuery s) = slotsOf s := by simp [spillQuery]
@[simp] theorem slots_execSpillAdd (s : State) : slotsOf (after (execSpillAdd s) s) = slotsOf s := by simp [execSpillAdd]
@[simp] theorem slots_execSpillQuery (s : State) : slotsOf (after (execSpillQuery s) s) = slotsOf s := by simp [execSpillQuery]

end Sys2Proof.Proofs
end

section
/-! SUPPORT. What checkpoints, resets and register writes leave of the slots. -/

namespace Sys2Proof.Proofs

open Machine Claims Laws

variable {L : List Slot} {s : State}

/-! ### Checkpoints and observation -/

@[simp] theorem slots_ckEnd (s : State) (r : BitVec 8) : slotsOf (ckEnd s r) = slotsOf s := (rfl)

@[simp] theorem thins_beginCkpt (ctx list count a b : Nat) (h : Thins L (slotsOf s)) :
    Thins L (slotsOf (beginCkpt s ctx list count a b)) := by simp [beginCkpt, h]

@[simp] theorem thins_ckStart (h : Thins L (slotsOf s)) : Thins L (slotsOf (ckStart s)) := by
  unfold ckStart
  rw [slots_ite]
  split
  · exact h
  · split
    · exact h
    · simp [h]

@[simp] theorem slots_ckArm (s : State) : slotsOf (ckArm s) = slotsOf s := by
  unfold ckArm
  rw [slots_ite]
  split
  · rfl
  · split <;> rfl

@[simp] theorem slots_ckDisarm (s : State) : slotsOf (ckDisarm s) = slotsOf s := by
  unfold ckDisarm
  rw [slots_ite]
  split
  · rfl
  · split <;> rfl

@[simp] theorem thins_execCheckpointStart (h : Thins L (slotsOf s)) : Thins L (slotsOf (after (execCheckpointStart s) s)) := by simp [execCheckpointStart, h]
@[simp] theorem slots_execArm (s : State) : slotsOf (after (execArm s) s) = slotsOf s := by simp [execArm]
@[simp] theorem slots_execDisarm (s : State) : slotsOf (after (execDisarm s) s) = slotsOf s := by simp [execDisarm]

@[simp] theorem thins_execCheckpointWarning (h : Thins L (slotsOf s)) : Thins L (slotsOf (after (execCheckpointWarning s) s)) := by
  unfold execCheckpointWarning
  split
  · exact h
  · split
    · exact h
    · dsimp only
      split
      · simp [h]
      · exact h

@[simp] theorem slots_execCheckpointTick (s : State) : slotsOf (after (execCheckpointTick s) s) = slotsOf s := by
  unfold execCheckpointTick
  split
  · simp
  · rfl

@[simp] theorem slots_copyRanges : ∀ (l : List (List Byte)) (a : Nat) (s : State), slotsOf (copyRanges s l a) = slotsOf s
  | [], _, _ => rfl
  | _ :: l, _, s => (slots_copyRanges l _ _).trans (slots_wrMemBytes s ..)

@[simp] theorem slots_cleanRanges (s : State) (rs : List (Nat × Nat)) : slotsOf (cleanRanges s rs) = slotsOf s := (rfl)
@[simp] theorem slots_stageCommit (s : State) (k : CkptRun) (tick : Nat) : slotsOf (stageCommit s k tick) = slotsOf s := by simp [stageCommit]

@[simp] theorem thins_execStagedCommit (h : Thins L (slotsOf s)) : Thins L (slotsOf (after (execStagedCommit s) s)) := by
  unfold execStagedCommit
  split
  · split
    · simp [h]
    · exact h
  · exact h

@[simp] theorem slots_endObs (s : State) (r : BitVec 8) : slotsOf (endObs s r) = slotsOf s := by simp [endObs]

@[simp] theorem slots_obSet (s : State) : slotsOf (obSet s) = slotsOf s := by
  unfold obSet
  dsimp only
  split <;> simp

@[simp] theorem slots_obRead (s : State) : slotsOf (obRead s) = slotsOf s := by
  unfold obRead
  split
  · simp
  · simp
  · rfl

@[simp] theorem slots_obSetTail (s : State) : slotsOf (obSetTail s) = slotsOf s := by
  unfold obSetTail
  split <;> simp

@[simp] theorem slots_obHist (s : State) : slotsOf (obHist s) = slotsOf s := by simp [obHist]
@[simp] theorem slots_execObSet (s : State) : slotsOf (after (execObSet s) s) = slotsOf s := by simp [execObSet]
@[simp] theorem slots_execObRead (s : State) : slotsOf (after (execObRead s) s) = slotsOf s := by simp [execObRead]
@[simp] theorem slots_execHist (s : State) : slotsOf (after (execHist s) s) = slotsOf s := by simp [execHist]
@[simp] theorem slots_execObTail (s : State) : slotsOf (after (execObTail s) s) = slotsOf s := by simp [execObTail]

/-! ### Resets and fatal errors -/

/-- The reset state has no slots. -/
@[simp] theorem slots_resetDevice (s : State) : slotsOf (resetDevice s) = [] := by
  unfold resetDevice
  dsimp only
  rw [slots_bootRom]
  rfl

@[simp] theorem thins_execDeviceReset : Thins L (slotsOf (after (execDeviceReset s) s)) := by simp [execDeviceReset]
@[simp] theorem thins_fatalError (cause island : Nat) : Thins L (slotsOf (fatalError s cause island)) := by simp [fatalError]

@[simp] theorem thins_execFatalError (cause : FatalCause) :
    Thins L (slotsOf (after (execFatalError cause s) s)) := by simp [execFatalError]

@[simp] theorem thins_thermal (i temp : Nat) (h : Thins L (slotsOf s)) : Thins L (slotsOf (thermal s i temp)) := by simp [thermal, h]

@[simp] theorem thins_execThermalWarning (island temp : Nat) (h : Thins L (slotsOf s)) :
    Thins L (slotsOf (after (execThermalWarning island temp s) s)) := by simp [execThermalWarning, h]

/-! ### Register pages -/

@[simp] theorem slots_writeMailbox (s : State) (off : Nat) (v : Word) : slotsOf (writeMailbox s off v) = slotsOf s := by simp [writeMailbox]
@[simp] theorem slots_writeSeg (s : State) (table idx : Nat) (hi : Bool) (v : Word) : slotsOf (writeSeg s table idx hi v) = slotsOf s := (rfl)

@[simp] theorem slots_writeHf (s : State) (off : Nat) (v : Word) : slotsOf (writeHf s off v) = slotsOf s := by
  unfold writeHf
  dsimp only
  split
  · simp
  · simp
  · simp
  · rfl
  · rfl

@[simp] theorem thins_writeTrans (fn off : Nat) (v : Word) (h : Thins L (slotsOf s)) : Thins L (slotsOf (writeTrans s fn off v)) := by
  unfold writeTrans
  dsimp only
  rw [slots_ite]
  split
  · exact h
  · split
    · exact h
    · exact h
    · exact h
    · exact h
    · exact h
    · exact h
    · exact h
    · split <;> simp [h]
    · exact h

@[simp] theorem slots_writeSpill (s : State) (off : Nat) (v : Word) : slotsOf (writeSpill s off v) = slotsOf s := by
  unfold writeSpill
  dsimp only
  split
  · rfl
  · rfl
  · rfl
  · rfl
  · rfl
  · split <;> simp
  · rfl

@[simp] theorem thins_writeCkpt (off : Nat) (v : Word) (h : Thins L (slotsOf s)) : Thins L (slotsOf (writeCkpt s off v)) := by
  unfold writeCkpt
  dsimp only
  rw [slots_ite]
  split
  · exact h
  · split
    · exact h
    · exact h
    · exact h
    · exact h
    · exact h
    · exact h
    · exact h
    · exact h
    · split
      · simp [h]
      · simp [h]
      · simp [h]
      · exact h
    · exact h
    · exact h

@[simp] theorem slots_writeObs (s : State) (off : Nat) (v : Word) : slotsOf (writeObs s off v) = slotsOf s := by
  unfold writeObs
  dsimp only
  split
  · rfl
  · rfl
  · rfl
  · rfl
  · rfl
  · rfl
  · rfl
  · split <;> simp
  · rfl

@[simp] theorem thins_startPart (v : Word) (h : Thins L (slotsOf s)) : Thins L (slotsOf (startPart s v)) := by
  unfold startPart
  dsimp only
  rw [slots_ite]
  split
  · exact h
  · rw [slots_ite]
    split
    · simp [h]
    · split <;> simp [h]

@[simp] theorem thins_writePart (off : Nat) (v : Word) (h : Thins L (slotsOf s)) : Thins L (slotsOf (writePart s off v)) := by
  unfold writePart
  rw [slots_ite]
  split
  · exact h
  · split
    · exact h
    · simp [h]
    · exact h
    · exact h

@[simp] theorem slots_writeStaged (s : State) (off : Nat) (v : Word) : slotsOf (writeStaged s off v) = slotsOf s := by simp [writeStaged]

@[simp] theorem slots_writeLease (s : State) (off : Nat) (v : Word) : slotsOf (writeLease s off v) = slotsOf s := by
  unfold writeLease
  dsimp only
  split
  · rfl
  · rfl
  · rfl
  · rfl
  · split
    · simp
    · simp
    · rfl
  · rfl

@[simp] theorem slots_writePav (s : State) (off : Nat) (v : Word) : slotsOf (writePav s off v) = slotsOf s := by
  unfold writePav
  dsimp only
  rw [slots_ite]
  split
  · rfl
  · split
    · rfl
    · rfl
    · rfl
    · rfl
    · rfl
    · rfl
    · rfl
    · rfl
    · rfl
    · split <;> simp
    · rfl

@[simp] theorem slots_writeRotation (s : State) (off : Nat) (v : Word) : slotsOf (writeRotation s off v) = slotsOf s := by
  unfold writeRotation
  split
  · rfl
  · simp
  · simp
  · rfl

@[simp] theorem slots_writeMeas (s : State) (off : Nat) (v : Word) : slotsOf (writeMeas s off v) = slotsOf s := by simp [writeMeas]

@[simp] theorem slots_writeAudit (s : State) (off : Nat) (v : Word) : slotsOf (writeAudit s off v) = slotsOf s := by
  unfold writeAudit
  split
  · rfl
  · rfl
  · simp
  · rfl

@[simp] theorem slots_writeFrames (s : State) (off : Nat) (v : Word) : slotsOf (writeFrames s off v) = slotsOf s := by
  unfold writeFrames
  dsimp only
  split
  · rfl
  · rfl
  · rfl
  · simp
  · rfl

@[simp] theorem thins_startHo (v : Word) (h : Thins L (slotsOf s)) : Thins L (slotsOf (startHo s v)) := by
  unfold startHo
  dsimp only
  rw [slots_ite]
  split
  · exact h
  · rw [slots_ite]
    split
    · simp [h]
    · split <;> simp [h]

@[simp] theorem thins_writeHo (off : Nat) (v : Word) (h : Thins L (slotsOf s)) : Thins L (slotsOf (writeHo s off v)) := by simp [writeHo, h]
@[simp] theorem thins_writeBlocks (off : Nat) (v : Word) (h : Thins L (slotsOf s)) : Thins L (slotsOf (writeBlocks s off v)) := by simp [writeBlocks, h]
@[simp] theorem slots_bindVf (s : State) (fn : Nat) (v : Word) : slotsOf (bindVf s fn v) = slotsOf s := by simp [bindVf]
@[simp] theorem slots_writeMsix (s : State) (fn off : Nat) (v : Word) : slotsOf (writeMsix s fn off v) = slotsOf s := by simp [writeMsix]
@[simp] theorem slots_trainLink (s : State) (up : Bool) : slotsOf (trainLink s up) = slotsOf s := by simp [trainLink]
@[simp] theorem slots_sizeBar2 (s : State) (fn gib : Nat) : slotsOf (sizeBar2 s fn gib) = slotsOf s := by simp [sizeBar2]
@[simp] theorem thins_writeOther (page off : Nat) (v : Word) (h : Thins L (slotsOf s)) : Thins L (slotsOf (writeOther s page off v)) := by simp [writeOther, h]

@[simp] theorem thins_writeReg (page off : Nat) (v : Word) (h : Thins L (slotsOf s)) : Thins L (slotsOf (writeReg s page off v)) := by
  unfold writeReg
  split
  · simp [h]
  · exact h
  · simp [h]
  · simp [h]
  · simp [h]
  · simp [h]
  · simp [h]
  · simp [h]
  · simp [h]
  · simp [h]
  · simp [h]
  · simp [h]
  · simp [h]

@[simp] theorem thins_execRegisterWrite (page off : Nat) (val : Word) (h : Thins L (slotsOf s)) :
    Thins L (slotsOf (after (execRegisterWrite page off val s) s)) := by simp [execRegisterWrite, h]

end Sys2Proof.Proofs
end

section
/-! SUPPORT. What a tick, the machine's own schedule and a slot's turn leave of the slots. -/

namespace Sys2Proof.Proofs

open Machine Claims Laws

variable {L : List Slot} {s : State}

/-! ### A tick -/

@[simp] theorem slots_advanceTime (s : State) : slotsOf (advanceTime s) = slotsOf s := (rfl)
@[simp] theorem slots_settleTick (s : State) (team : Nat) : slotsOf (settleTick s team) = slotsOf s := (rfl)

@[simp] theorem thins_meetTick (team : Nat) (h : Thins L (slotsOf s)) : Thins L (slotsOf (meetTick s team)) := by
  unfold meetTick
  extract_lets n settled s1 s2 s3 s4
  have h1 : Thins L (slotsOf s1) := by
    simp only [s1, settled]
    split
    · split <;> simp [h]
    · simp [h]
  have h3 : Thins L (slotsOf s3) := by
    simp only [s3, s2]
    split
    · exact thins_foldl (fun s t => by simp) _ (thins_meetAll _ h1)
    · exact thins_meetAll _ h1
  rw [slots_foldl fun s q => by simp]
  simp only [s4]
  split
  · split <;> simp [h3]
  · exact h3

@[simp] theorem thins_sweepTeams (h : Thins L (slotsOf s)) : Thins L (slotsOf (sweepTeams s)) := by simp [sweepTeams, h]

@[simp] theorem thins_retireTick (h : Thins L (slotsOf s)) : Thins L (slotsOf (retireTick s)) := by
  unfold retireTick
  refine thins_foldl (fun s x => ?_) _ h
  split <;> simp

@[simp] theorem thins_drainedTick (h : Thins L (slotsOf s)) : Thins L (slotsOf (drainedTick s)) := by simp [drainedTick, h]
@[simp] theorem thins_commitTick (h : Thins L (slotsOf s)) : Thins L (slotsOf (commitTick s)) := by simp [commitTick, h]

@[simp] theorem slots_readyTick (s : State) : slotsOf (readyTick s) = slotsOf s := by
  unfold readyTick
  refine slots_foldl (fun s x => ?_) _ s
  split
  · split
    · simp
    · rfl
  · rfl

@[simp] theorem slots_signalEnd (s : State) (g : Grid) : slotsOf (signalEnd s g) = slotsOf s := by
  unfold signalEnd
  split
  · rfl
  · rw [slots_ite]
    split
    · rfl
    · split <;> simp

@[simp] theorem slots_gridTick (s : State) : slotsOf (gridTick s) = slotsOf s := by simp [gridTick]
@[simp] theorem slots_watchTick (s : State) : slotsOf (watchTick s) = slotsOf s := (rfl)
@[simp] theorem slots_sliceTick (s : State) : slotsOf (sliceTick s) = slotsOf s := (rfl)
@[simp] theorem slots_residentTick (s : State) : slotsOf (residentTick s) = slotsOf s := (rfl)
@[simp] theorem slots_turnTick (s : State) : slotsOf (turnTick s) = slotsOf s := by simp [turnTick]
@[simp] theorem slots_drainOld (s : State) : slotsOf (drainOld s) = slotsOf s := by simp [drainOld]
@[simp] theorem thins_commandTick (h : Thins L (slotsOf s)) : Thins L (slotsOf (commandTick s)) := by simp [commandTick, h]
@[simp] theorem thins_endTick (h : Thins L (slotsOf s)) : Thins L (slotsOf (endTick s)) := by simp [endTick, h]

@[simp] theorem thins_tick (h : Thins L (slotsOf s)) : Thins L (slotsOf (tick s)) := by
  unfold tick
  extract_lets s1 s2 s3 s4
  have h1 : Thins L (slotsOf s1) := thins_endTick (by simp [h])
  have h2 : Thins L (slotsOf s2) := by
    simp only [s2, slots_readyTick]
    exact thins_commitTick (by simp [h1])
  have h3 : Thins L (slotsOf s3) := thins_foldl (fun s t => by simp) _ h2
  rw [slots_turnTick, slots_residentTick, slots_sliceTick, slots_watchTick]
  apply thins_commandTick
  rw [slots_gridTick]
  exact thins_drainedTick (thins_sweepTeams h3)

/-! ### The machine's own schedule -/

@[simp] theorem thins_ownMemory (h : Thins L (slotsOf s)) : Thins L (slotsOf (ownMemory s)) := by
  unfold ownMemory
  dsimp only
  iterate 13 refine thins_each (fun x s => by simp) _ ?_
  exact h

@[simp] theorem thins_ownUnits (h : Thins L (slotsOf s)) : Thins L (slotsOf (ownUnits s)) := by
  unfold ownUnits
  dsimp only
  iterate 12 refine thins_each (fun x s => by simp) _ ?_
  exact h

@[simp] theorem thins_ownWorlds (h : Thins L (slotsOf s)) : Thins L (slotsOf (ownWorlds s)) := by
  unfold ownWorlds
  dsimp only
  iterate 12 refine thins_each (fun x s => by simp) _ ?_
  exact h

@[simp] theorem thins_ownMailbox (h : Thins L (slotsOf s)) : Thins L (slotsOf (ownMailbox s)) := by
  have hctx : Thins L (slotsOf (after (execDestroyContext (after (execCreateContext s) s)) (after (execCreateContext s) s))) := by simp [h]
  unfold ownMailbox
  dsimp only
  simp [hctx]

@[simp] theorem thins_ownControl (h : Thins L (slotsOf s)) : Thins L (slotsOf (ownControl s)) := by
  unfold ownControl
  dsimp only
  iterate 5 refine thins_each (fun x s => by simp) _ ?_
  refine thins_execCheckpointWarning (thins_execStagedCommit ?_)
  rw [slots_execCheckpointTick, slots_execSweepLine, slots_execFrameScrub, slots_execReclaimComplete]
  apply thins_ownMailbox
  rw [slots_execCommandEnd, slots_execMsiMessage]
  iterate 10 refine thins_each (fun x s => by simp) _ ?_
  exact h

@[simp] theorem slots_openTurn (s : State) (key : Nat) : slotsOf (openTurn s key) = slotsOf s := by
  unfold openTurn
  dsimp only
  split
  · simp
  · rfl

@[simp] theorem thins_illegalWord (w : Word) (h : Thins L (slotsOf s)) : Thins L (slotsOf (illegalWord w s)) := by
  unfold illegalWord
  split
  · exact h
  · split
    · exact h
    · dsimp only
      split <;> simp [h]

@[simp] theorem thins_missTurn (key : Nat) (h : Thins L (slotsOf s)) : Thins L (slotsOf (missTurn s key)) := by
  unfold missTurn
  split
  · split
    · simp [h]
    · exact h
  · exact h

@[simp] theorem slots_beginStep (s : State) (m : List Move) : slotsOf (beginStep s m) = slotsOf s := (rfl)

end Sys2Proof.Proofs
end

section
/-! SUPPORT. Every instruction thins the slots, but the step of the picker, which fills one (R93). -/

namespace Sys2Proof.Proofs

open Machine Claims Laws

/-- The slots after an answer, where it is a next state, thin those before. -/
def ThinsOut (o : Host.Outcome State Fault Refusal) (s : State) : Prop := Thins (slotsOf s) (slotsOf (after o s))

section
variable (word word' : Word) (st : BitVec 2) (u : Uses) (hold : Lane → Bool) (s : State)

theorem thinsOut_issueHold {eff : Slot → List Tid → State → State} (heff : ∀ sl l s, Thins (slotsOf s) (slotsOf (eff sl l s))) :
    ThinsOut (.next (issueHold word st u hold eff s)) s := thins_issueHold heff word st u hold (thins_refl _)

theorem thinsOut_issue {eff : Slot → List Tid → State → State} (heff : ∀ sl l s, Thins (slotsOf s) (slotsOf (eff sl l s))) :
    ThinsOut (.next (issue word st u eff s)) s := thinsOut_issueHold word st u _ s heff

theorem thinsOut_laneOp (lat : Nat) (f : Lane → LaneRes) : ThinsOut (.next (laneOp word st u lat f s)) s :=
  thinsOut_issue word st u s fun sl l _ => thins_laneEffect lat word f sl l (thins_refl _)

/-- An instruction that each lane performs, waiting for what it holds for. -/
theorem thinsOut_lanesHold {f : Slot → Lane → State → State} (hf : ∀ sl ln s, Thins (slotsOf s) (slotsOf (f sl ln s))) :
    ThinsOut (.next (issueHold word st u hold (fun sl l s => perLane (f sl) word' sl l s) s)) s :=
  thinsOut_issueHold word st u hold s fun sl l _ => thins_perLane (hf sl) word' sl l (thins_refl _)

theorem thinsOut_lanes {f : Slot → Lane → State → State} (hf : ∀ sl ln s, Thins (slotsOf s) (slotsOf (f sl ln s))) :
    ThinsOut (.next (issue word st u (fun sl l s => perLane (f sl) word' sl l s) s)) s := thinsOut_lanesHold word word' st u _ s hf

/-- An instruction that each group performs once. -/
theorem thinsOut_groups {f : Slot → Lane → State → State} (hf : ∀ sl ln s, Thins (slotsOf s) (slotsOf (f sl ln s))) :
    ThinsOut (.next (issue word st u (fun sl l s => perGroup (f sl) word' sl l s) s)) s :=
  thinsOut_issue word st u s fun sl l _ => thins_perGroup (hf sl) word' sl l (thins_refl _)

/-- An instruction that each group performs once, for all its lanes. -/
theorem thinsOut_groupsAllHold {f : Slot → Lane → List Tid → State → State} (hf : ∀ sl ln ts s, Thins (slotsOf s) (slotsOf (f sl ln ts s))) :
    ThinsOut (.next (issueHold word st u hold (fun sl l s => perGroupAll (f sl) word' sl l s) s)) s :=
  thinsOut_issueHold word st u hold s fun sl l _ => thins_perGroupAll (hf sl) word' sl l (thins_refl _)

theorem thinsOut_groupsAll {f : Slot → Lane → List Tid → State → State} (hf : ∀ sl ln ts s, Thins (slotsOf s) (slotsOf (f sl ln ts s))) :
    ThinsOut (.next (issue word st u (fun sl l s => perGroupAll (f sl) word' sl l s) s)) s := thinsOut_groupsAllHold word word' st u _ s hf

/-- An instruction that the team performs once. -/
theorem thinsOut_team {f : Slot → Lane → State → State} (hf : ∀ sl ln s, Thins (slotsOf s) (slotsOf (f sl ln s))) :
    ThinsOut (.next (issue word st u (fun sl l s => perTeam (f sl) word' sl l s) s)) s :=
  thinsOut_issue word st u s fun sl l _ => thins_perTeam (hf sl) word' sl l (thins_refl _)

theorem thinsOut_longOp (rv : List (Nat × Nat)) (d k : Nat) (f : Lane → Nat × Word) : ThinsOut (longOp word st rv d k f s) s :=
  thinsOut_issue word st _ s fun sl l s => thins_perLane (fun ln s => by simp) word sl l (by simp)

theorem thinsOut_scalarOp (d : BitVec 6) (f : Lane → Word) : ThinsOut (scalarOp word st u d f s) s := thinsOut_groups word word st _ s fun _ _ s => by simp

theorem thinsOut_baseOp (d : BitVec 6) (f : Lane → VAddr) : ThinsOut (baseOp word st u d f s) s := thinsOut_team word word st _ s fun _ _ s => by simp

theorem thinsOut_memory {f : Lane → Pre} {g : List Tid → List Tid} : ThinsOut (.next (issueHold word st u hold (fun sl l => memEffect word f sl (g l)) s)) s :=
  thinsOut_issueHold word st u hold s fun sl l s => by simp

theorem thinsOut_sldOp (n : Nat) (d a b : BitVec 6) (i : BitVec 1) : ThinsOut (sldOp word st n d a b i s) s := thinsOut_memory word st _ _ s

theorem thinsOut_globalOp (b : BitVec 4) (o : BitVec 7) (pair : Bool) (ord : BitVec 3) (kind : Nat) (mk : Lane → Req) :
    ThinsOut (globalOp word st u b o pair ord kind mk s) s := thinsOut_memory (g := id) word st _ _ s

theorem thinsOut_scratchOp (b : BitVec 4) (o : BitVec 7) (ord : BitVec 3) (mk : Lane → Req) : ThinsOut (scratchOp word st u b o ord mk s) s :=
  thinsOut_memory (g := id) word st _ _ s

theorem thinsOut_fenceOp (f : Fence) : ThinsOut (fenceOp word st f s) s := thinsOut_lanesHold word word st _ _ s fun _ _ _ => by simp

theorem thinsOut_teamOp (chk : Lane → Option Trap) (vals : Lane → List Word) : ThinsOut (teamOp word st u chk vals s) s :=
  thinsOut_issue word st _ s fun sl l s => by simp

theorem thinsOut_collective {arrive : Lane → State → State} (hf : ∀ ln s, Thins (slotsOf s) (slotsOf (arrive ln s))) :
    ThinsOut (.next (issue word st u (collEffect arrive word) s)) s := thinsOut_issue word st u s fun sl l _ => thins_collEffect hf word sl l (thins_refl _)

theorem thinsOut_collOp (vals : Lane → List Word) : ThinsOut (collOp word st u vals s) s := thinsOut_collective word st _ s fun _ _ => by simp

/-- Updates of pens: the groups or the lanes that perform share one number of the instruction. -/
theorem thinsOut_penGroups {f : Nat → Lane → State → State} (hf : ∀ n ln s, Thins (slotsOf s) (slotsOf (f n ln s))) :
    ThinsOut (.next (issue word st u (fun sl l s => withInst f (fun f => perGroup f word' sl l) s) s)) s :=
  thinsOut_issue word st u s fun sl l _ => thins_withInst (fun n _ => thins_perGroup (hf n) word' sl l (thins_refl _)) (thins_refl _)

theorem thinsOut_penLanes {f : Nat → Lane → State → State} (hf : ∀ n ln s, Thins (slotsOf s) (slotsOf (f n ln s))) :
    ThinsOut (.next (issue word st u (fun sl l s => withInst f (fun f => perLane f word' sl l) s) s)) s :=
  thinsOut_issue word st u s fun sl l _ => thins_withInst (fun n _ => thins_perLane (hf n) word' sl l (thins_refl _)) (thins_refl _)

end
/-! ### Every instruction but the picker's -/

theorem slots_lineFetch (tm : Team) (c : Context) (level : Nat) (ls : List Nat) (s : State) : slotsOf (lineFetch tm c level ls s).2 = slotsOf s :=
  slots_fetchLines tm c ls s

theorem slots_linePin (tm : Team) (c : Context) (level : Nat) (ls : List Nat) (s : State) : slotsOf (linePin tm c level ls s).2 = slotsOf s := by
  simp [linePin]

theorem slots_lineUnpin (tm : Team) (c : Context) (level : Nat) (ls : List Nat) (s : State) : slotsOf (lineUnpin tm c level ls s).2 = slotsOf s := by
  simp [lineUnpin]

/-- Every instruction thins the slots, but the picker's step, which fills one. -/
theorem exec_thins {i : Instr} (h : ∀ core quad k, i ≠ .flockPick core quad k) (s : State) : ThinsOut (exec i s) s := by
  cases i
  case nop => exact thinsOut_issue _ _ _ s fun _ _ _ => thins_refl _
  case yield => exact thinsOut_issue _ _ _ s fun _ _ _ => by simp
  case add | sub | addc | subb | addsI32 | subsI32 | addsN32 | subsN32 | addi | andi | ori | xori | mul | mulhiI32 | mulhiN32 | mad | madhiI32 | madhiN32 |
      mulwI32 | mulwN32 | and | or | xor | andn | orn | xnor | not | shl | shrN32 | shrI32 | rotl | rotr | fshl | fshr | shli | shriN32 | shriI32 | roti |
      popc | clz | ctz | brev | bswap | perm | bmsk | bfxN32 | bfxI32 | bfi | minI32 | maxI32 | minN32 | maxN32 | absI32 | negI32 | adiffN32 | mov | sel |
      movsWrite | movp | setp | movsv | movl | movh | cmpI32 | cmpN32 | cmpF32 | cmp64 | pand | por | pxor | pmov | pset | pclr | fadd | fsub | fmul | fmin
      | fmax | fminnum | fmaxnum | fcopysign | ffma | ffms | ffnma | ffnms | haddBf16x2 | hmulBf16x2 | hfmaBf16x2 | haddF16x2 | hmulF16x2 | hfmaF16x2 |
      hmaxBf16x2 | hminBf16x2 | cvt | dotI8x4 | dotsI8x4 | dotI4x8 | dotF8ax4 | dotF8bx4 | dotL4x8 | dotBf16x2 | scalef | fexp | fmant | tprobe | wquery |
      setgm | mxStat | rdpriv | perfRd | clk =>
    apply thinsOut_laneOp
  case dadd | dsub | dmul | dfma | dmin | dmax | ddiv | dsqrt | rcp | rsqrt | sqrt | log2 | exp2 | sin | cos | tanh => apply thinsOut_longOp
  case sadd | ssub | smul | sand | sor | sxor | sshl | sshr | smov | smin | smax | sfrom => apply thinsOut_scalarOp
  case bset | badd | bmov => apply thinsOut_baseOp
  case sldB32 | sldB64 => apply thinsOut_sldOp
  case ld | st | ldw | stw | atomAddI32 | atomAddF32 | atomMinI32 | atomMaxI32 | atomMinN32 | atomMaxN32 | atomExch | atomCas | atomAnd | atomOr | atomXor |
      atomAddI64 | atomCasB64 | atomAddBf16x2 | atomIncN32 | atomDecN32 | redAddI32 | redAddF32 | redMinI32 | redMaxI32 | redMinN32 | redMaxN32 | redExch |
      redCas | redAnd | redOr | redXor | redAddI64 | redCasB64 | redAddBf16x2 | redIncN32 | redDecN32 =>
    apply thinsOut_globalOp
  case lds | sts | atomsAddI32 | atomsAddF32 | atomsMinI32 | atomsMaxI32 | atomsMinN32 | atomsMaxN32 | atomsExch | atomsCas => apply thinsOut_scratchOp
  case fenceRelTeam | fenceRelCluster | fenceRelDevice | fenceRelSystem | fenceAcq | fenceFullTeam | fenceFullCluster | fenceFullDevice | fenceFullSystem |
      pfenceLc | pfenceLt =>
    apply thinsOut_fenceOp
  case tbegin | tend | tabort | forkW | chooseFirst | chooseBest | wabort | copyTeam | copyMc | copySp | copyOut => apply thinsOut_teamOp
  case ballot | vall | vany | matchLanes | shflIdx | shflUp | shflDown | shflXor | redaddI32 | scanaddI32 | exscanI32 | redmaxI32 | redminI32 | redaddF32 |
      elect =>
    apply thinsOut_collOp
  case sleeptk | movsRead | ret => exact thinsOut_lanes _ _ _ _ s fun _ _ _ => by split <;> simp
  case pop | push | guard | bra | call | jmp | callr | exitSave | rrec | sleep | trap | brk | tret | tretSkip | tmark =>
    exact thinsOut_lanes _ _ _ _ s fun _ _ _ => by simp
  case penWait | waitExt => exact thinsOut_lanesHold _ _ _ _ _ s fun _ _ _ => by simp
  case bget | adrop | wrpriv => exact thinsOut_groups _ _ _ _ s fun _ _ _ => by simp
  case rlkQ | copyBulk | gath | sigHost => exact thinsOut_groupsAll _ _ _ _ s fun _ _ _ _ => by simp
  case adecl | mxRd | mxSt | mxLd | mxClr => exact thinsOut_groupsAllHold _ _ _ _ _ s fun _ _ _ _ => by simp
  case gathClose | trUnbind | trReset => exact thinsOut_team _ _ _ _ s fun _ _ _ => by simp
  case trBind => exact thinsOut_team _ _ _ _ s fun _ _ _ => by split <;> simp
  case trFilled | trFree | tyield => exact thinsOut_issue _ _ _ s fun _ _ _ => by simp
  case rpoison | mxMma => exact thinsOut_issueHold _ _ _ _ s fun _ _ _ => by simp
  case entryDone =>
    refine thinsOut_issueHold _ _ _ _ s fun sl l s => thins_perLane (fun ln s => ?_) _ sl _ (thins_foldl (fun s t => ?_) _ (thins_refl _))
    · simp
    · simp
  case launch => exact thinsOut_issueHold _ _ _ _ s fun sl l _ => thins_perGroup (fun _ _ => by simp) _ sl l (thins_refl _)
  case exit | exitSucc => exact thinsOut_issueHold _ _ _ _ s fun sl l _ => thins_exitEffect (fun _ _ => by simp) _ sl l (thins_refl _)
  case penInit | penExpect | penInval => exact thinsOut_penGroups _ _ _ _ s fun _ _ _ => by simp
  case penArrive => exact thinsOut_penLanes _ _ _ _ s fun _ _ _ => by simp
  case penTest => exact thinsOut_penLanes _ _ _ _ s fun _ _ _ => by split <;> simp
  case barTeam =>
    refine thinsOut_issue _ _ _ s fun sl l s => ?_
    split
    · simp
    · exact thins_perLane (fun _ _ => by simp) _ sl l (thins_refl _)
  case barRole =>
    refine thinsOut_issue _ _ _ s fun sl l s => thins_barEffect _ _ _ _ _ (thins_perLane (fun ln s => ?_) _ sl l (thins_refl _))
    split <;> simp
  case gsync => exact thinsOut_collective _ _ _ s fun _ _ => by simp
  case ipref => exact thinsOut_groupsAll _ _ _ _ s fun sl l ts _ => thins_codeLineBy slots_lineFetch _ _ _ sl l ts (thins_refl _)
  case ipin => exact thinsOut_groupsAll _ _ _ _ s fun sl l ts _ => thins_codeLineBy slots_linePin _ _ _ sl l ts (thins_refl _)
  case iunpin => exact thinsOut_groupsAll _ _ _ _ s fun sl l ts _ => thins_codeLineBy slots_lineUnpin _ _ _ sl l ts (thins_refl _)
  case flockPick core quad k => exact absurd rfl (h core quad k)
  all_goals
    dsimp only [ThinsOut, exec]
    simp

end Sys2Proof.Proofs
end

section
/-! PROOF. The flocks that the picker forms, and O3 (R92 to R95). -/

namespace Sys2Proof.Proofs

open Machine Claims Laws

/-! ### Flocks of one team -/

theorem headTeam_of_mem {sl : Slot} {n : Nat} (h : ∀ t ∈ sl.flock, t.team = n) : ∀ t ∈ sl.flock, t.team = headTeam sl := by
  intro t ht
  cases hfl : sl.flock with
  | nil => exact absurd (hfl ▸ ht) List.not_mem_nil
  | cons t0 l =>
    rw [h t ht, ← h t0 (hfl ▸ List.mem_cons_self), headTeam, hfl]

theorem flocksWellFormed_of_thins {s r : State} (hs : FlocksWellFormed s) (h : Thins (slotsOf s) (slotsOf r)) : FlocksWellFormed r := by
  obtain ⟨hkeys, hflocks⟩ := hs
  refine ⟨hkeys.sublist h.1, fun b hb => ?_⟩
  obtain ⟨a, ha, hsub⟩ := h.2 b hb
  obtain ⟨hcols, hteam⟩ := hflocks a ha
  exact ⟨hcols.sublist (hsub.map _), headTeam_of_mem fun t ht => hteam t (hsub.subset ht)⟩

theorem flocksWellFormed_putSlot {s : State} (hs : FlocksWellFormed s) {sl : Slot} (hcols : (sl.flock.map fun t => t.lane).Nodup)
    (hteam : ∀ t ∈ sl.flock, t.team = headTeam sl) : FlocksWellFormed (putSlot s sl) := by
  obtain ⟨hkeys, hflocks⟩ := hs
  refine ⟨List.nodup_cons.mpr ⟨fun hmem => ?_, hkeys.sublist (List.filter_sublist.map _)⟩, fun b hb => ?_⟩
  · obtain ⟨b, hb, hkey⟩ := List.mem_map.mp hmem
    exact of_decide_eq_true (List.mem_filter.mp hb).2 hkey
  · obtain rfl | hb := List.mem_cons.mp hb
    · exact ⟨hcols, hteam⟩
    · exact hflocks b (List.mem_filter.mp hb).1

/-! ### The picker (R93, R94) -/

theorem mem_oneperColumn {l : List Tid} {t : Tid} (h : t ∈ oneperColumn l) : t ∈ l := by
  obtain ⟨c, -, hc⟩ := List.mem_filterMap.mp h
  exact (List.mem_filter.mp (minBy_mem _ _ _ hc)).1

/-- The picker takes one thread for each column. -/
theorem oneperColumn_nodup (l : List Tid) : ((oneperColumn l).map fun t => t.lane).Nodup := by
  have hcol : ∀ cs : List Nat, (((cs.filterMap fun c => minBy (fun (t : Tid) => t.group) (l.filter fun t => t.lane == c)).map fun t => t.lane)).Sublist cs := by
    intro cs
    induction cs with
    | nil => exact List.Sublist.refl _
    | cons c cs ih =>
      rw [List.filterMap_cons]
      split
      · exact ih.cons c
      · next t ht =>
        have hlane : t.lane = c := beq_iff_eq.mp (List.mem_filter.mp (minBy_mem _ _ _ ht)).2
        rw [List.map_cons, hlane]
        exact ih.cons_cons c
  exact List.Nodup.sublist (hcol _) List.nodup_range

theorem pickPath_mem {s : State} {core quad : Nat} {low : List (Nat × Word)} {l : List Path} {p : Path} (h : pickPath s core quad low l = some p) : p ∈ l := by
  unfold pickPath at h
  dsimp only at h
  split at h
  · exact (List.mem_filter.mp (minBy_mem _ _ _ h)).1
  · split at h
    · exact (List.mem_filter.mp (minBy_mem _ _ _ h)).1
    · exact minBy_mem _ _ _ h

/-- The threads of a ready path are of its team. -/
theorem readyPaths_team {s : State} {core quad : Nat} {p : Path} (h : p ∈ readyPaths s core quad) : ∃ n, ∀ t ∈ p.lanes, t.team = n := by
  obtain ⟨k, -, hk⟩ := List.mem_filterMap.mp h
  obtain ⟨tm, -, rfl⟩ := Option.map_eq_some_iff.mp hk
  exact ⟨k.1, fun t ht => beq_iff_eq.mp (Bool.and_eq_true_iff.mp (List.mem_filter.mp ht).2).1⟩

theorem flocksWellFormed_pickFlock {s : State} (hs : FlocksWellFormed s) (core quad k : Nat) : FlocksWellFormed (pickFlock s core quad k) := by
  unfold pickFlock
  extract_lets sl s1 s2 ps s3 due
  have h3 : FlocksWellFormed s3 := flocksWellFormed_of_thins hs (by simp [s3, s2, s1])
  split
  · exact hs
  · next hfree =>
    have hnil : sl.flock = [] := by simpa using hfree
    split
    · exact flocksWellFormed_putSlot h3 (by simp [hnil]) (by simp [hnil])
    · next p hp =>
      obtain ⟨n, hn⟩ := readyPaths_team (pickPath_mem hp)
      extract_lets s4 s5 fl s6
      have h5 : FlocksWellFormed { s5 with nextId := s5.nextId + 1 } := flocksWellFormed_of_thins h3 (by simp [s5, s4])
      have h6 : FlocksWellFormed s6 := flocksWellFormed_putSlot h5 (oneperColumn_nodup p.lanes) (headTeam_of_mem fun t ht => hn t (mem_oneperColumn ht))
      exact flocksWellFormed_of_thins h6 (by simp)

/-! ### Every step, and O3 -/

theorem exec_keepsFlocks {i : Instr} {s r : State} (hs : FlocksWellFormed s) (h : exec i s = .next r) : FlocksWellFormed r := by
  by_cases hpick : ∃ core quad k, i = .flockPick core quad k
  · obtain ⟨core, quad, k, rfl⟩ := hpick
    cases h
    exact flocksWellFormed_pickFlock hs core quad k
  · have hthins : Thins (slotsOf s) (slotsOf (after (exec i s) s)) := exec_thins (fun core quad k hi => hpick ⟨core, quad, k, hi⟩) s
    rw [h] at hthins
    exact flocksWellFormed_of_thins hs hthins

theorem issueStep_keepsFlocks {key : Nat} {s r : State} (hs : FlocksWellFormed s) (h : issueStep key s = .next r) : FlocksWellFormed r := by
  unfold issueStep at h
  split at h
  · cases h
    exact hs
  · cases h
    exact flocksWellFormed_of_thins hs (by simp)
  · split at h
    · exact exec_keepsFlocks (flocksWellFormed_of_thins hs (by simp)) h
    · cases h
      exact flocksWellFormed_of_thins hs (by simp)

theorem each_keepsFlocks {α : Type} {f : α → State → Host.Outcome State Fault Refusal} (hf : ∀ x s, FlocksWellFormed s → FlocksWellFormed (after (f x s) s))
    (l : List α) {s : State} (hs : FlocksWellFormed s) : FlocksWellFormed (each l f s) := by
  induction l generalizing s with
  | nil => exact hs
  | cons x l ih => exact ih (hf x s hs)

theorem ownPicks_keepsFlocks {s : State} (hs : FlocksWellFormed s) : FlocksWellFormed (ownPicks s) := by
  unfold ownPicks
  refine each_keepsFlocks (fun x s hs => ?_) _ hs
  rw [execFlockPick, after_next]
  exact flocksWellFormed_pickFlock hs _ _ _

theorem tickMove_keepsFlocks {s : State} (hs : FlocksWellFormed s) : FlocksWellFormed (tickMove s) := by
  have htick : FlocksWellFormed (tick s) := flocksWellFormed_of_thins hs (by simp)
  have hunits : Thins (slotsOf (tick s)) (slotsOf (ownUnits (ownMemory (tick s)))) := by simp
  unfold tickMove
  split
  · exact ownPicks_keepsFlocks (flocksWellFormed_of_thins htick (thins_ownControl (thins_ownWorlds hunits)))
  · exact htick

/-- Settles O3: all that a step does takes threads out of flocks, but the picker, which forms one of a path with one thread for each column. -/
theorem stepKeepsFlocks : Obligations.StepKeepsFlocks := by
  intro s r hs h
  have hbegin : FlocksWellFormed (beginStep s (popMove s)) := flocksWellFormed_of_thins hs (by simp)
  cases hmove : nextMove s with
  | event i => exact exec_keepsFlocks hbegin ((step_of_event hmove).symm.trans h)
  | issue core quad k => exact issueStep_keepsFlocks hbegin ((step_of_issue hmove).symm.trans h)
  | tick =>
    obtain rfl := Host.Outcome.next.inj ((step_of_tick hmove).symm.trans h)
    exact tickMove_keepsFlocks hbegin

end Sys2Proof.Proofs
end

section
/-! PROOF. Grids that become ready and launches that are taken (R80, R82, R359). -/

namespace Sys2Proof.Proofs

open Machine Claims Laws

/-! ### Grids and teams after an update -/

theorem grid_modGrid_same {s : State} {id : Nat} {g : Grid} (h : grid? s id = some g) (f : Grid → Grid) (hf : ∀ g, (f g).id = g.id) :
    grid? (modGrid s id f) id = some (f g) := by
  rw [grid?, modGrid, find_updWhere_same fun a ha => by simpa [hf] using ha]
  exact congrArg _ h

theorem team_id {s : State} {id : Nat} {t : Team} (h : team? s id = some t) : t.id = id := by simpa using List.find?_some h

theorem grid_of_grids {a b : State} (h : b.grids = a.grids) (id : Nat) : grid? b id = grid? a id := by rw [grid?, grid?, h]
theorem team_of_teams {a b : State} (h : b.teams = a.teams) (id : Nat) : team? b id = team? a id := by rw [team?, team?, h]

/-! ### Grids become ready (R82) -/

theorem checkReady_free {s : State} {g : Grid} {c : Context} (hr : g.ready = false) (hw : g.record.waitOn = 0) :
    checkReady s g c = modGrid s g.id fun g => { g with ready := true } := by simp [checkReady, hr, hw]

theorem checkReady_read {s z : State} {g : Grid} {c : Context} {v : Nat} (hr : g.ready = false) (hw : g.record.waitOn ≠ 0)
    (hread : readWaitOn s c g.record.waitOn.toNat = (.ok v, z)) :
    checkReady s g c = if g.record.expected ≤ v then modGrid z g.id fun g => { g with ready := true, waitFault := none } else z := by
  have hwait : (g.record.waitOn == 0) = false := beq_eq_false_iff_ne.mpr hw
  simp only [checkReady, hr, hwait, hread, Bool.false_eq_true, if_false]

theorem exec_gridReady {s : State} {g : Grid} {c : Context} (hg : grid? s g.id = some g) (hc : ctx? s g.ctx = some c) (hs : c.suspended = false)
    (hf : g.waitFault = none) : exec (.gridReady g.id) s = .next (checkReady s g c) := by
  change execGridReady g.id s = _
  simp [execGridReady, hg, hc, hs, hf]

theorem gridsReady : GridsReady := by
  intro s g c hg hc hs hf hr
  rw [exec_gridReady hg hc hs hf]
  refine ⟨fun hw => by rw [checkReady_free hr hw], fun v z hw hread hz => ⟨_, rfl, ?_⟩⟩
  rw [checkReady_read hr hw hread]
  have hgz : grid? z g.id = some g := (grid_of_grids hz g.id).trans hg
  split
  · next he => rw [grid_modGrid_same hgz (fun g => { g with ready := true, waitFault := none }) fun _ => rfl, ← hf, decide_eq_true he]
  · next he => rw [hgz, decide_eq_false he, ← hr]

/-! ### Launches taken (R80, R359) -/

theorem exec_launchComplete {s : State} {l : LaunchWait} {c : Context} (hl : s.launches.find? (fun k => k.seq == l.seq) = some l)
    (hc : ctx? s l.ctx = some c) (hf : l.fault = none) (hr : launchReady s l c = true) : exec (.launchComplete l.seq) s = .next (takeLaunch s l c) := by
  change execLaunchComplete l.seq s = _
  simp [execLaunchComplete, hl, hc, hf, hr]

/-- A grid without a wait-on word is ready in its queue. -/
theorem queueGrid_free (s : State) (c : Context) (addr : VAddr) {l : Loaded} (hw : l.record.waitOn = 0) :
    queueGrid s c addr l =
      modGrid { s with nextId := s.nextId + 1, launchSeq := s.launchSeq + 1, grids := s.grids ++ [gridOf s.nextId c addr l s.launchSeq false], sets := l.sets }
        s.nextId fun g => { g with ready := true } := checkReady_free rfl hw

/-- The new grid under its number, where no other grid has it. -/
theorem grid_queueGrid_free {s : State} (c : Context) (addr : VAddr) {l : Loaded} (hw : l.record.waitOn = 0) (hnew : ∀ k ∈ s.grids, k.id ≠ s.nextId) :
    grid? (queueGrid s c addr l) s.nextId = some { gridOf s.nextId c addr l s.launchSeq false with ready := true } := by
  rw [queueGrid_free s c addr hw]
  refine grid_modGrid_same (g := gridOf s.nextId c addr l s.launchSeq false) ?_ _ fun _ => rfl
  have hnone : s.grids.find? (fun g => g.id == s.nextId) = none := List.find?_eq_none.mpr fun k hk => by simpa using hnew k hk
  simp [grid?, hnone, gridOf]

/-- A team's progress changes nothing but its context. -/
theorem teamProgress_contexts (s : State) (team : Nat) : ∃ cs, teamProgress s team = { s with contexts := cs } := by
  unfold teamProgress
  split
  · exact ⟨_, rfl⟩
  · exact ⟨s.contexts, rfl⟩

/-- A thread whose launch has been taken. -/
def passLaunch (th : Thread) : Thread := match th.wait with | some (.launch _) => finishWait th | _ => th

/-- A launch whose lane waits for it and whose record is good: its grid is queued, and the lane goes on. -/
theorem takeLaunch_good {s z : State} {l : LaunchWait} {c : Context} {r : Loaded} (hv : validate s c l.addr = (.ok r, z)) (hd : l.deferred = false) :
    takeLaunch s l c = teamProgress (modThread (queueGrid (dropLaunch z l.seq) c l.addr r) l.tid passLaunch) l.tid.team := by
  simp only [takeLaunch, hv, hd, Bool.false_eq_true, if_false]
  rfl

theorem passLaunch_of_wait {th : Thread} {addr : VAddr} (h : th.wait = some (.launch addr)) : passLaunch th = { th with wait := none, pc := Pc.next th.pc } := by
  rw [passLaunch, h, finishWait]

theorem launchTaken : LaunchTaken := by
  intro s l c r z th hl hc hf hready hv hz hw hd hth hwait hnew
  let x := modThread (queueGrid (dropLaunch z l.seq) c l.addr r) l.tid passLaunch
  obtain ⟨cs, hcs⟩ := teamProgress_contexts x l.tid.team
  refine ⟨{ x with contexts := cs }, ?_, ?_, ?_, ?_, { gridOf z.nextId c l.addr r z.launchSeq false with ready := true }, ?_, rfl, rfl, rfl, rfl, rfl⟩
  · rw [exec_launchComplete hl hc hf hready, takeLaunch_good hv hd, hcs]
  · intro k hk
    simp only [x, queueGrid_free _ c l.addr hw] at hk
    simpa using (List.mem_filter.mp hk).2
  · have hzth : thread? (queueGrid (dropLaunch z l.seq) c l.addr r) l.tid = some th := by
      rw [queueGrid_free _ c l.addr hw]
      exact (thread_of_teams hz l.tid).trans hth
    rw [← passLaunch_of_wait hwait]
    exact thread_modThread_same hzth passLaunch
  · simp only [x, queueGrid_free _ c l.addr hw]
    rfl
  · exact grid_queueGrid_free (s := dropLaunch z l.seq) c l.addr hw hnew

end Sys2Proof.Proofs
end

section
/-! PROOF. Budgets, protections that end, and the picker (R84, R89, R90, R93 to R95). -/

namespace Sys2Proof.Proofs

open Machine Claims Laws

/-! ### Requests where no team is in a fork (R173) -/

/-- No team is a world of a fork. -/
def Unforked (s : State) : Prop := ∀ t ∈ s.teams, t.fork = none

/-- A team of which a request with a reason has taken hold. -/
def Cut (why : PreemptWhy) (t : Team) : Prop := t.state = .preempting ∧ t.why = some why

/-- A request takes hold of a resident team that still counts, and of no other. -/
theorem requestTeam_unforked {s : State} (hs : Unforked s) {id : Nat} {t : Team} (ht : team? s id = some t) (why : PreemptWhy) :
    requestTeam s id why = if t.state = .resident ∧ t.discarded = false then cutTeam s id why else s := by
  have hfork : t.fork = none := hs t (List.mem_of_find?_eq_some ht)
  by_cases hr : t.state = .resident <;> cases hd : t.discarded <;> simp [requestTeam, ht, hr, hd, hfork]

/-- What a cut changes of its team: its place among the teams stays, and it is under pre-emption. -/
theorem cutTeam_modTeam {s : State} {id : Nat} {t : Team} (ht : team? s id = some t) (why : PreemptWhy) :
    ∃ f, (cutTeam s id why).teams = (modTeam s id f).teams ∧ ∀ t, (f t).id = t.id ∧ (f t).fork = t.fork ∧ Cut why (f t) := by
  have hx : ∀ x, ∀ f, (modTeam (leaveChoice x t) id f).teams = updWhere (fun t => t.id == id) f x.teams := fun x f => by rw [modTeam, leaveChoice_teams]
  simp only [cutTeam, ht]
  refine ⟨_, hx (leaveGranules { s with slots := _ } id) _, fun t => ?_⟩
  split <;> exact ⟨rfl, rfl, rfl, rfl⟩

/-- A request leaves the team that it names under pre-emption, or as it is, and no team in a fork. -/
theorem requestTeam_teams {s : State} (hs : Unforked s) (id : Nat) (why : PreemptWhy) :
    Unforked (requestTeam s id why) ∧ ∀ k t, team? s k = some t →
      ∃ u, team? (requestTeam s id why) k = some u ∧ (u = t ∨ Cut why u) ∧ (k = id → t.state = .resident → t.discarded = false → Cut why u) := by
  cases hid : team? s id with
  | none =>
    have hsame : requestTeam s id why = s := by simp [requestTeam, hid]
    rw [hsame]
    exact ⟨hs, fun k t ht => ⟨t, ht, .inl rfl, fun hk => by simp [hk, hid] at ht⟩⟩
  | some t =>
    rw [requestTeam_unforked hs hid]
    split
    · obtain ⟨f, hteams, hf⟩ := cutTeam_modTeam hid why
      refine ⟨fun u hu => ?_, fun k u hu => ?_⟩
      · rw [hteams] at hu
        obtain ⟨v, hv, rfl⟩ := List.mem_map.mp hu
        split
        · exact (hf v).2.1.trans (hs v hv)
        · exact hs v hv
      · rw [team_of_teams hteams, team_modTeam _ _ _ _ fun t => (hf t).1, hu]
        by_cases hk : k = id
        · rw [if_pos hk]
          exact ⟨f u, rfl, .inr (hf u).2.2, fun _ _ _ => (hf u).2.2⟩
        · rw [if_neg hk]
          exact ⟨u, rfl, .inl rfl, fun h => absurd h hk⟩
    · next hno =>
      refine ⟨hs, fun k u hu => ⟨u, hu, .inl rfl, fun hk hr hd => ?_⟩⟩
      subst hk
      rw [hid] at hu
      cases hu
      exact absurd ⟨hr, hd⟩ hno

/-- Requests to a list of teams: each team that is under pre-emption for the reason stays so. -/
theorem requestTeams_cut (why : PreemptWhy) : ∀ (l : List Team) {s : State}, Unforked s → ∀ {k u}, team? s k = some u → Cut why u →
    ∃ v, team? (l.foldl (fun s t => requestTeam s t.id why) s) k = some v ∧ Cut why v
  | [], _, _, _, u, hu, hcut => ⟨u, hu, hcut⟩
  | t :: l, _, hs, k, u, hu, hcut => by
    obtain ⟨hs1, h1⟩ := requestTeam_teams hs t.id why
    obtain ⟨v, hv, hor, -⟩ := h1 k u hu
    exact requestTeams_cut why l hs1 hv (hor.elim (fun h => h ▸ hcut) id)

/-- Requests to a list of teams take hold of each resident one among them. -/
theorem requestTeams_resident (why : PreemptWhy) : ∀ (l : List Team) {s : State}, Unforked s → ∀ {k t}, team? s k = some t → t.state = .resident →
    t.discarded = false → (∃ x ∈ l, x.id = k) → ∃ v, team? (l.foldl (fun s t => requestTeam s t.id why) s) k = some v ∧ Cut why v
  | [], _, _, _, _, _, _, _, hmem => by simp at hmem
  | x :: l, _, hs, k, t, ht, hr, hd, hmem => by
    obtain ⟨hs1, h1⟩ := requestTeam_teams hs x.id why
    obtain ⟨u, hu, hor, hnamed⟩ := h1 k t ht
    by_cases hcut : Cut why u
    · exact requestTeams_cut why l hs1 hu hcut
    · have hne : x.id ≠ k := fun h => hcut (hnamed h.symm hr hd)
      have hsame : u = t := hor.resolve_right hcut
      obtain ⟨y, hy, hyk⟩ := hmem
      rcases List.mem_cons.mp hy with rfl | hy
      · exact absurd hyk hne
      · exact requestTeams_resident why l hs1 (hsame ▸ hu) hr hd ⟨y, hy, hyk⟩

theorem requestTeams_grids (why : PreemptWhy) (l : List Team) (s : State) : (l.foldl (fun s t => requestTeam s t.id why) s).grids = s.grids := by
  rw [(OnlyPlaces.fold (fun s (t : Team) => requestTeam_places s t.id why) l s).frame]

/-! ### Slice budgets (R89, R90) -/

@[simp] theorem writeFault_grids (s : State) (r : FaultRec) : (writeFault s r).2.grids = s.grids := by rw [writeFault_records]

/-- A spent budget's teams are requested, and its grid's count starts again. -/
def budgetCut (s : State) (g : Grid) : State :=
  modGrid ((s.teams.filter fun t => t.grid == g.id).foldl (fun s t => requestTeam s t.id .budget) s) g.id fun g => { g with sliceTicks := 0 }

/-- The grid of a spent budget is advanced by its period, or held with a record. -/
def budgetEnd (s : State) (g : Grid) : State :=
  if g.record.flags.getLsbD 12 then modGrid s g.id fun g => { g with deadline := g.deadline + g.record.period }
  else modGrid (writeFault s (plainFault g.ctx Cause.budget.code 0 0)).2 g.id fun g => { g with held := true }

theorem exec_budgetEvent {s : State} {g : Grid} (hg : grid? s g.id = some g) (hslice : g.slice = true) (hb : g.record.budget ≠ 0)
    (hspent : g.record.budget ≤ g.sliceTicks) (hon : ∃ t ∈ s.teams, t.grid = g.id ∧ t.onCore = true) :
    exec (.budgetEvent g.id) s = .next (budgetEnd (budgetCut s g) g) := by
  change execBudgetEvent g.id s = _
  have hany : (s.teams.any fun t => t.grid == g.id && t.onCore) = true := by simpa using hon
  simp only [execBudgetEvent, hg, hslice, hany, ne_eq, hb, not_false_eq_true, hspent, decide_true, Bool.and_self, if_true]
  rfl

@[simp] theorem budgetEnd_teams (s : State) (g : Grid) : (budgetEnd s g).teams = s.teams := by
  unfold budgetEnd
  split
  · rfl
  · exact writeFault_teams ..

theorem grid_budgetCut {s : State} {g : Grid} (hg : grid? s g.id = some g) : grid? (budgetCut s g) g.id = some { g with sliceTicks := 0 } :=
  grid_modGrid_same ((grid_of_grids (requestTeams_grids ..) g.id).trans hg) (fun g => { g with sliceTicks := 0 }) fun _ => rfl

theorem grid_budgetEnd {s : State} {g x : Grid} (hx : grid? s g.id = some x) : grid? (budgetEnd s g) g.id =
    some (if g.record.flags.getLsbD 12 then { x with deadline := x.deadline + x.record.period } else { x with held := true }) := by
  unfold budgetEnd
  split
  · exact grid_modGrid_same hx (fun g => { g with deadline := g.deadline + g.record.period }) fun _ => rfl
  · exact grid_modGrid_same ((grid_of_grids (writeFault_grids ..) g.id).trans hx) (fun g => { g with held := true }) fun _ => rfl

theorem budgetSpent : BudgetSpent := by
  intro s g hg hslice hb hspent hon hfork
  refine ⟨_, exec_budgetEvent hg hslice hb hspent hon, fun t ht hgrid hr hd => ?_, _, grid_budgetEnd (grid_budgetCut hg), ?_⟩
  · have hin : t ∈ s.teams.filter fun t => t.grid == g.id := List.mem_filter.mpr ⟨List.mem_of_find?_eq_some ht, by simpa using hgrid⟩
    rw [team_of_teams (budgetEnd_teams ..)]
    exact requestTeams_resident .budget _ hfork ht hr hd ⟨t, hin, rfl⟩
  · cases g.record.flags.getLsbD 12 <;> simp

/-! ### The end of a protection (R84) -/

theorem residencyEnds : ResidencyEnds := by
  intro s t g ht hr hplaced hg
  refine ⟨placePart s g.part, ?_, rfl⟩
  change execResidencyExpiry t.id s = _
  simp [execResidencyExpiry, ht, hr, hplaced, hg]

/-! ### The picker (R93 to R95) -/

theorem reachHeaders_of_none {s : State} {l : List Tid} (h : ∀ t ∈ l, headerTrap s t = none) : reachHeaders s l = s := by
  have hnil : (l.filterMap fun t => (headerTrap s t).map fun tr => (t, tr)) = [] := List.filterMap_eq_nil_iff.mpr fun t ht => by rw [h t ht, Option.map_none]
  rw [reachHeaders, hnil]
  rfl

theorem countTurn_nextId (s : State) (core quad n : Nat) : (countTurn s core quad n).nextId = s.nextId := by
  unfold countTurn
  dsimp only
  split
  · split <;> rfl
  · rfl

theorem coreCycle_countTurn (s : State) (core quad n : Nat) : coreCycle (countTurn s core quad n) core = coreCycle s core := by
  unfold countTurn
  dsimp only
  split
  · split <;> rfl
  · rfl

theorem setAges_nextId (core quad : Nat) (f : State → Machine.Path → Nat) (l : List Machine.Path) (s : State) :
    (l.foldl (fun s q => setAge s core quad q (f s q)) s).nextId = s.nextId := by
  induction l generalizing s with
  | nil => rfl
  | cons q l ih => exact ih _

theorem slot_of_slots {a b : State} (h : slotsOf b = slotsOf a) (key : Nat) : slot? b key = slot? a key := congrArg (List.find? fun sl : Slot => sl.key == key) h

theorem slot_putSlot (s : State) (sl : Slot) : slot? (putSlot s sl) sl.key = some sl := by simp [slot?, putSlot]

theorem slotOf_key (s : State) (core quad k : Nat) : (slotOf s core quad k).key = slotKey core quad k := by
  unfold slotOf
  cases h : slot? s (slotKey core quad k) with
  | none => rfl
  | some sl => simpa using List.find?_some h

/-- A slot entry in which a new flock stands. -/
def pickedSlot (s : State) (core quad k : Nat) (p : Machine.Path) (fid : Nat) : Slot :=
  { slotOf s core quad k with
    flock := oneperColumn p.lanes, fid := fid, due := max (slotOf s core quad k).due (turnFrom (coreCycle s core) k), lastClass := none, paid := false
    stalled := false, yielded := false, low := [] }

theorem pickedSlot_key (s : State) (core quad k : Nat) (p : Machine.Path) (fid : Nat) : (pickedSlot s core quad k p fid).key = slotKey core quad k :=
  slotOf_key s core quad k

/-- A turn of a free slot that neither traps at a header nor restores a lane: the flock of the first path stands in the slot and enters its clause. -/
theorem pickFlock_picks {s : State} {core quad k : Nat} {p : Machine.Path} (hfree : (slotOf s core quad k).flock = [])
    (hheads : ∀ t ∈ idleTids s core quad, headerTrap s t = none) (hmarked : (dedup ((idleTids s core quad).map fun t => t.team)).foldl markRestored s = s)
    (hp : pickPath (countTurn s core quad (readyPaths s core quad).length) core quad (slotOf s core quad k).low (readyPaths s core quad) = some p) :
    ∃ x, pickFlock s core quad k = (oneperColumn p.lanes).foldl enterClause (putSlot x (pickedSlot s core quad k p s.nextId)) := by
  have hreach : ∀ f, reachHeaders s ((idleTids s core quad).filter f) = s := fun f => reachHeaders_of_none fun t ht => hheads t (List.mem_of_mem_filter ht)
  let ps := readyPaths s core quad
  let aged := (ps.filter fun q => !(q.team.id == p.team.id && q.off == p.off)).foldl
    (fun s q => setAge s core quad q (min 64 (ageCount s core quad q + 1))) (countTurn s core quad ps.length)
  have hid : aged.nextId = s.nextId := (setAges_nextId core quad ..).trans (countTurn_nextId ..)
  refine ⟨{ setAge aged core quad p 0 with nextId := aged.nextId + 1 }, ?_⟩
  rw [pickedSlot, ← hid, ← coreCycle_countTurn s core quad ps.length]
  simp only [pickFlock, hfree, hreach, hmarked, hp, List.isEmpty_nil, Bool.not_true, Bool.false_eq_true, if_false]
  rfl

theorem flockPicked : FlockPicked := by
  intro s core quad k p hfree hheads hmarked hp
  obtain ⟨x, hx⟩ := pickFlock_picks hfree hheads hmarked hp
  refine ⟨pickFlock s core quad k, rfl, pickedSlot s core quad k p s.nextId, ?_, rfl, rfl, rfl, rfl⟩
  rw [hx, slot_of_slots (slots_foldl slots_enterClause _ _), ← pickedSlot_key s core quad k p s.nextId, slot_putSlot]

end Sys2Proof.Proofs
end

section
/-! PROOF. The placement of a new team (R79, R83, R85, R100). -/

namespace Sys2Proof.Proofs

open Machine Claims Laws

/-! ### The team that starts (R100) -/

theorem startGroups_threads {needs : List Need} {spots : List Spot} {gr : Machine.Group} (h : gr ∈ startGroups needs spots) :
    ∃ e, gr.threads = List.replicate 32 (Thread.start e) ∧ ∃ q ∈ needs, e = q.entry := by
  obtain ⟨x, hx, rfl⟩ := List.mem_map.mp h
  exact ⟨x.1.entry, rfl, x.1, (List.of_mem_zip hx).1, rfl⟩

/-- A team as its placement by a plan starts it. -/
structure Started (s : State) (g : Grid) (rd : Loaded) (idx : Nat) (p : Plan) (tm : Team) : Prop where
  grid : tm.grid = g.id
  ctx : tm.ctx = g.ctx
  index : tm.index = idx
  core : tm.core = p.core
  slot : tm.slot = p.slot
  base : tm.allocBase = p.base
  size : tm.allocSize = rd.record.scratch
  state : tm.state = .resident
  placed : tm.placed = s.time
  view : tm.view = 0
  family : tm.family = none
  bases : tm.b = startBases rd.record
  regions : tm.regions = rd.regions
  groups : tm.groups = startGroups (recordNeeds rd.record) p.spots

theorem startTeam_started (s : State) (g : Grid) (rd : Loaded) (idx : Nat) (p : Plan) (gen : BitVec 8) :
    ∃ tm, (startTeam s g rd idx p gen).teams = s.teams ++ [tm] ∧ Started s g rd idx p tm :=
  ⟨_, rfl, rfl, rfl, rfl, rfl, rfl, rfl, rfl, rfl, rfl, rfl, rfl, rfl, rfl, rfl⟩

/-! ### What a placement changes besides (R85, R89, R117) -/

/-- From `a` to `b` a place has been prepared: teams, grids and time are the same. -/
def OnlyRoom (a b : State) : Prop := b.teams = a.teams ∧ b.grids = a.grids ∧ b.time = a.time

theorem setFused_room (s : State) (fused : Bool) (core : Nat) : OnlyRoom s (setFused s fused core) := ⟨rfl, rfl, rfl⟩
theorem bindArea_room (s : State) (c : Context) (core area : Nat) : OnlyRoom s (bindArea s c core area) := ⟨rfl, rfl, rfl⟩

theorem OnlyRoom.trans {a b c : State} (h : OnlyRoom a b) (k : OnlyRoom b c) : OnlyRoom a c := by
  obtain ⟨ht, hg, hn⟩ := h
  obtain ⟨kt, kg, kn⟩ := k
  exact ⟨kt.trans ht, kg.trans hg, kn.trans hn⟩

theorem takeBanks_room (s : State) (ctx core base size : Nat) : OnlyRoom s (takeBanks s ctx core base size).2 := by
  unfold takeBanks
  extract_lets bs find gen other x
  have hx : OnlyRoom s x := foldl_related (fun _ => ⟨rfl, rfl, rfl⟩) .trans (fun _ _ => ⟨rfl, rfl, rfl⟩) other s
  exact hx.trans ⟨rfl, rfl, rfl⟩

@[simp] theorem openSlice_teams (s : State) (grid : Nat) : (openSlice s grid).teams = s.teams := by
  unfold openSlice
  split <;> rfl

@[simp] theorem openSlice_time (s : State) (grid : Nat) : (openSlice s grid).time = s.time := by
  unfold openSlice
  split <;> rfl

/-- A slice begins where no team of the grid stands on a core. -/
theorem grid_openSlice {s : State} {id : Nat} {g : Grid} (hg : grid? s id = some g) : ∃ g', grid? (openSlice s id) id = some g' ∧
    g'.next = g.next ∧ g'.record = g.record ∧ ((∀ t ∈ s.teams, t.grid = id → t.onCore = false) → g'.slice = true ∧ g'.sliceTicks = 0) := by
  unfold openSlice
  split
  · next hany =>
    obtain ⟨t, ht, hon⟩ := List.any_eq_true.mp hany
    obtain ⟨hid, hcore⟩ := by simpa using hon
    exact ⟨g, hg, rfl, rfl, fun hall => by simp [hall t ht hid] at hcore⟩
  · exact ⟨_, grid_modGrid_same hg (fun g => { g with slice := true, sliceTicks := 0 }) fun _ => rfl, rfl, rfl, fun _ => ⟨rfl, rfl⟩⟩

/-- A new team stands last among the teams, and its grid's next team is the one after it. -/
theorem placeNew_places {s : State} {g : Grid} (hg : grid? s g.id = some g) (c : Context) (rd : Loaded) (idx : Nat) (p : Plan) :
    (∃ tm, (placeNew s g c rd idx p).teams = s.teams ++ [tm] ∧ Started s g rd idx p tm) ∧
    ∃ g', grid? (placeNew s g c rd idx p) g.id = some g' ∧ g'.next = max g.next (idx + 1) ∧ g'.record = g.record ∧
      ((∀ t ∈ s.teams, t.grid = g.id → t.onCore = false) → g'.slice = true ∧ g'.sliceTicks = 0) := by
  let x := setFused (bindArea (openSlice s g.id) c p.core p.area) (rd.record.flags.getLsbD 5) p.core
  obtain ⟨hteams, hgrids, htime⟩ := ((bindArea_room ..).trans (setFused_room ..)).trans (takeBanks_room x c.id p.core p.base rd.record.scratch)
  let y := { (takeBanks x c.id p.core p.base rd.record.scratch).2 with sets := rd.sets }
  constructor
  · obtain ⟨tm, htm, hstart⟩ := startTeam_started y g rd idx p (takeBanks x c.id p.core p.base rd.record.scratch).1
    refine ⟨tm, ?_, { hstart with placed := hstart.placed.trans (htime.trans (openSlice_time ..)) }⟩
    exact htm.trans (congrArg (· ++ [tm]) (hteams.trans (openSlice_teams ..)))
  · obtain ⟨g', hg', hnext, hrecord, hslice⟩ := grid_openSlice hg
    refine ⟨_, grid_modGrid_same ((grid_of_grids hgrids g.id).trans hg') (fun g => { g with next := max g.next (idx + 1) }) fun _ => rfl, ?_, hrecord, hslice⟩
    rw [hnext]

/-! ### The dispatcher's choice of a new team (R79, R83) -/

/-- The first unit of a grid of single teams that come alone. -/
theorem nextUnits_single {s : State} {g : Grid} {u : Pending} {rest : List Pending} (h0 : g.record.flags.getLsbD 0 = false)
    (h1 : g.record.flags.getLsbD 1 = false) (hp : pendingTeams s g = u :: rest) : nextUnits s g 1 = [[u]] := by
  simp only [nextUnits, unitsOf, h0, h1, hp, Bool.false_eq_true, if_false, List.map_cons, List.take_succ_cons, List.take_zero]

theorem placeGrid_fresh {s : State} {g : Grid} {c : Context} {rd : Loaded} {n : Nat} {p : Plan} (h0 : g.record.flags.getLsbD 0 = false)
    (hu : nextUnits s g 1 = [[.fresh n]]) (hp : chooseCore s (wantOf g c rd (.fresh n)) (coresOf (usableClusters s g.part)) = some p) :
    placeGrid s g c rd 1 = some (placeNew s g c rd n p) := by
  simp only [placeGrid, hu, unitFree, h0, placeAll, placeUnit, hp, placeOne, Bool.not_false, Bool.true_or, List.all_cons, List.all_nil, Bool.and_self, if_true,
    Bool.false_eq_true, if_false, Option.map_some]

theorem readAtPlace_good {s z : State} {g : Grid} {c : Context} {rd : Loaded} (hd : g.dropped = false) (hv : validate s c g.addr = (.ok rd, z)) :
    readAtPlace s g c = (some (rd.keep g.record), z) := by simp [readAtPlace, hd, hv]

/-- The first grid is served when its unit has a place and the pre-emptions of its partition are settled. -/
theorem serveGrids_head {s z r : State} {g : Grid} {l : List Grid} {c : Context} {rd : Loaded} {first : Bool} (hg : grid? s g.id = some g)
    (hc : ctx? s g.ctx = some c) (hu : nextUnits s g 1 ≠ []) (hread : readAtPlace s g c = (some rd, z)) (hz : grid? z g.id = some g)
    (hroom : roomSettled z g.part = true) (hplace : placeGrid z g c rd 1 = some r) : serveGrids s first (g :: l) = r := by
  simp [serveGrids, hg, hc, hu, hread, hz, hroom, hplace]

theorem teamPlaced : TeamPlaced := by
  intro s g l c n rest rd z p horder hg hc h0 h1 hd hpend hv hgrids hteams hpendz hroom m hp
  have hgz : grid? z g.id = some g := (grid_of_grids hgrids g.id).trans hg
  have hserve : placePart s g.part = placeNew z g c (rd.keep g.record) n p := by
    rw [placePart, horder]
    exact serveGrids_head hg hc (by simp [nextUnits_single h0 h1 hpend]) (readAtPlace_good hd hv) hgz hroom
      (placeGrid_fresh h0 (nextUnits_single h0 h1 hpendz) hp)
  obtain ⟨⟨tm, htm, hs⟩, g', hg', hnext, hrecord, hslice⟩ := placeNew_places hgz c (rd.keep g.record) n p
  refine ⟨_, congrArg Host.Outcome.next hserve, tm, hteams ▸ htm, hs.grid, hs.ctx, hs.index, hs.core, hs.slot, hs.base, hs.size, hs.state, hs.placed, hs.view,
    hs.family, hs.bases, hs.regions, fun gr hgr => ?_, g', hg', hnext, hrecord, hteams ▸ hslice⟩
  rw [hs.groups] at hgr
  exact startGroups_threads hgr

end Sys2Proof.Proofs
end

section
/-! PROOF. Teams that retire (R114, R116), and O48. -/

namespace Sys2Proof.Proofs

open Machine Claims Laws

/-! ### A place that is given up (R114) -/

/-- No tile, pin, lock or flock is a team's. -/
structure Placeless (s : State) (team : Nat) : Prop where
  tiles : ∀ x ∈ s.tiles, x.team ≠ team
  pins : ∀ p ∈ s.pins, p.team ≠ team
  locks : ∀ k ∈ s.locks, k.team ≠ team
  flocks : ∀ sl ∈ s.slots, ∀ k ∈ sl.flock, k.team ≠ team

/-- What giving up a place leaves: teams, grids and accesses under way. -/
theorem freePlace_frame (s : State) (team : Nat) : ∃ cs, freePlace s team = { clearFlocks s team with
    contexts := cs, tiles := s.tiles.filter fun x => x.team ≠ team, pins := s.pins.filter fun p => p.team ≠ team
    locks := s.locks.filter fun k => k.team ≠ team, ageing := s.ageing.filter fun a => a.team ≠ team } := by
  unfold freePlace
  dsimp only
  split
  · split <;> exact ⟨_, rfl⟩
  · exact ⟨_, rfl⟩

@[simp] theorem freePlace_teams (s : State) (team : Nat) : (freePlace s team).teams = s.teams := by
  obtain ⟨cs, h⟩ := freePlace_frame s team
  rw [h]
  rfl

@[simp] theorem freePlace_grids (s : State) (team : Nat) : (freePlace s team).grids = s.grids := by rw [(freePlace_places s team).frame]

@[simp] theorem freePlace_gate (s : State) (team : Nat) : (freePlace s team).gate = s.gate := by
  obtain ⟨cs, h⟩ := freePlace_frame s team
  rw [h]
  rfl

theorem freePlace_placeless (s : State) (team : Nat) : Placeless (freePlace s team) team := by
  obtain ⟨cs, h⟩ := freePlace_frame s team
  rw [h]
  constructor
  · intro x hx
    simpa using (List.mem_filter.mp hx).2
  · intro p hp
    simpa using (List.mem_filter.mp hp).2
  · intro k hk
    simpa using (List.mem_filter.mp hk).2
  · intro sl hsl k hk
    obtain ⟨old, -, rfl⟩ := List.mem_map.mp hsl
    simpa using (List.mem_filter.mp hk).2

/-! ### A team that goes (R114, R116) -/

theorem removeTeam_placeless (s : State) (team : Nat) : Placeless (removeTeam s team) team := by
  obtain ⟨htiles, hpins, hlocks, hflocks⟩ := freePlace_placeless (leaveGranules (cancelEngines s team) team) team
  exact ⟨htiles, hpins, hlocks, hflocks⟩

@[simp] theorem removeTeam_grids (s : State) (team : Nat) : (removeTeam s team).grids = s.grids := by rw [(removeTeam_places s team).frame]

/-- The teams by number, each with its grid. -/
def teamNames (s : State) : List (Nat × Nat) := s.teams.map fun t => (t.id, t.grid)

theorem modTeam_names (s : State) (id : Nat) {f : Team → Team} (hf : ∀ t, (f t).id = t.id ∧ (f t).grid = t.grid) : teamNames (modTeam s id f) = teamNames s := by
  rw [teamNames, modTeam, updWhere, List.map_map]
  refine List.map_congr_left fun t _ => ?_
  rw [Function.comp_apply]
  split
  · rw [(hf t).1, (hf t).2]
  · rfl

theorem modThread_names (s : State) (t : Tid) (f : Thread → Thread) : teamNames (modThread s t f) = teamNames s := modTeam_names s t.team fun _ => ⟨rfl, rfl⟩

theorem foldl_names {α : Type} {g : State → α → State} (h : ∀ s x, teamNames (g s x) = teamNames s) (l : List α) (s : State) :
    teamNames (l.foldl g s) = teamNames s :=
  foldl_related (R := fun a b => teamNames b = teamNames a) (fun _ => rfl) (fun h k => k.trans h) h l s

theorem poisonStatus_names (s : State) (ts : List Tid) (tok rd : Nat) : teamNames (poisonStatus s ts tok rd) = teamNames s :=
  foldl_names (fun s t => modThread_names s t _) ts s

theorem cancelEngines_names (s : State) (team : Nat) : teamNames (cancelEngines s team) = teamNames s := by
  unfold cancelEngines
  extract_lets es ms x y
  have hx : teamNames x = teamNames s := foldl_names (fun s (e : EngOp) => poisonStatus_names s e.tids e.id e.rd) es s
  have hy : teamNames y = teamNames x := foldl_names (fun s (m : MatOp) => foldl_names (fun s r => poisonStatus_names s m.tids m.tok r) m.dests s) ms x
  exact hy.trans hx

/-- The teams that stay are the others. -/
theorem removeTeam_others {s : State} {team : Nat} {u : Team} (hu : u ∈ (removeTeam s team).teams) : u.id ≠ team ∧ (u.id, u.grid) ∈ teamNames s := by
  obtain ⟨hin, hne⟩ := List.mem_filter.mp hu
  rw [freePlace_teams] at hin
  refine ⟨by simpa using hne, ?_⟩
  rw [← cancelEngines_names s team]
  exact List.mem_map_of_mem (f := fun t : Team => (t.id, t.grid)) hin

theorem team_removeTeam (s : State) (team : Nat) : team? (removeTeam s team) team = none :=
  List.find?_eq_none.mpr fun u hu => by simpa using (removeTeam_others hu).1

/-! ### The end of a grid (R116) -/

theorem endGrid_onlyGrids (s : State) (grid : Nat) : ∃ gs, endGrid s grid = { s with grids := gs } := by
  unfold endGrid
  split
  · split
    · exact ⟨s.grids, rfl⟩
    · exact ⟨_, rfl⟩
  · exact ⟨s.grids, rfl⟩

/-- A grid is found as it was, or as ended; it has ended where no team of it is left and none is to come. -/
theorem grid_endGrid {s : State} {id : Nat} {g : Grid} (hg : grid? s id = some g) : ∃ g', grid? (endGrid s id) id = some g' ∧ g'.flush = g.flush ∧
    ((∀ u ∈ s.teams, u.grid ≠ id) → (g.total ≤ g.next ∨ g.dropped = true) → g'.ended = true) := by
  unfold endGrid
  rw [hg]
  dsimp only
  split
  · next hstay =>
    refine ⟨g, hg, rfl, fun hnone hall => ?_⟩
    simp only [Bool.or_eq_true, List.any_eq_true, Bool.and_eq_true, beq_iff_eq, decide_eq_true_eq, Bool.not_eq_true'] at hstay
    rcases hstay with ⟨u, hu, hgrid, -⟩ | ⟨hlt, hdrop⟩
    · exact absurd hgrid (hnone u hu)
    · rcases hall with hall | hall
      · omega
      · simp [hdrop] at hall
  · exact ⟨_, grid_modGrid_same hg (fun g => { g with ended := true, slice := false }) fun _ => rfl, rfl, fun _ _ => rfl⟩

theorem deferEnd_grids (s : State) (t : Team) : ∃ ds gs, deferEnd s t = { s with deferred := ds, grids := gs } := by
  unfold deferEnd
  split
  · split
    · exact ⟨_, _, rfl⟩
    · exact ⟨s.deferred, s.grids, rfl⟩
  · exact ⟨s.deferred, s.grids, rfl⟩

theorem deferEnd_unforked {s : State} {t : Team} (h : t.fork = none) : deferEnd s t = s := by
  unfold deferEnd
  split <;> simp [isWorld, h]

/-! ### Retirement (R114, R116) -/

/-- The state in which a team has given up its place and is retired. -/
def placeGiven (s : State) (t : Team) : State := modTeam (freePlace (settleBanks s t.id) t.id) t.id fun t => { t with state := .retired }

/-- A retired team goes once it is drained. -/
def dropDrained (s : State) (team : Nat) : State := match team? s team with | some t => if teamDrained s t then dropRetired s t else s | none => s

theorem exec_teamRetire {s : State} {t : Team} (ht : team? s t.id = some t) (hready : retireReady s t = true) (hsucc : t.succ = none) :
    exec (.teamRetire t.id) s = .next (deferEnd (endGrid (dropDrained (placeGiven s t) t.id) t.grid) t) := by
  change execTeamRetire t.id s = _
  simp only [execTeamRetire, ht, hready, if_true, retireTeam, hsucc]
  rfl

theorem placeGiven_placeless (s : State) (t : Team) : Placeless (placeGiven s t) t.id := by
  obtain ⟨htiles, hpins, hlocks, hflocks⟩ := freePlace_placeless (settleBanks s t.id) t.id
  exact ⟨htiles, hpins, hlocks, hflocks⟩

theorem dropDrained_placeless {s : State} {team : Nat} (h : Placeless s team) : Placeless (dropDrained s team) team := by
  unfold dropDrained
  split
  · next t ht =>
    split
    · rw [dropRetired, team_id ht]
      exact removeTeam_placeless ..
    · exact h
  · exact h

/-- A team that is still there is retired. -/
theorem team_dropDrained {s : State} {t u : Team} (h : team? (dropDrained (placeGiven s t) t.id) t.id = some u) : u.state = .retired := by
  have hfind := team_modTeam (freePlace (settleBanks s t.id) t.id) t.id t.id (fun t => { t with state := .retired }) fun _ => rfl
  rw [if_pos rfl] at hfind
  unfold dropDrained at h
  split at h
  · next v hv =>
    split at h
    · rw [dropRetired, team_id hv, team_removeTeam] at h
      cases h
    · rw [placeGiven, hfind] at h
      obtain ⟨w, -, rfl⟩ := Option.map_eq_some_iff.mp h
      rfl
  · next hnone =>
    rw [hnone] at h
    cases h

/-- The end of a grid and its deferral touch neither teams nor places. -/
theorem gridEnd_keeps (s : State) (t : Team) : (deferEnd (endGrid s t.grid) t).teams = s.teams ∧
    (Placeless s t.id → Placeless (deferEnd (endGrid s t.grid) t) t.id) := by
  obtain ⟨gs, hg⟩ := endGrid_onlyGrids s t.grid
  obtain ⟨ds, gs', hd⟩ := deferEnd_grids (endGrid s t.grid) t
  rw [hd, hg]
  refine ⟨rfl, fun h => ?_⟩
  obtain ⟨htiles, hpins, hlocks, hflocks⟩ := h
  exact ⟨htiles, hpins, hlocks, hflocks⟩

/-! ### A drained team (R116) -/

theorem mem_allQueues {s : State} {x : Tid × Access} (h : x ∈ allQueues s) : ∃ th, thread? s x.1 = some th ∧ x.2 ∈ th.queue := by
  obtain ⟨t, -, hx⟩ := List.mem_flatMap.mp h
  obtain ⟨k, -, hx⟩ := List.mem_flatMap.mp hx
  split at hx
  · next th hth =>
    obtain ⟨a, ha, rfl⟩ := List.mem_map.mp hx
    exact ⟨th, hth, ha⟩
  · cases hx

theorem drained_queue {s : State} {t : Team} (ht : team? s t.id = some t) (hd : teamDrained s t = true) {k : Tid} (hk : k.team = t.id) {th : Thread}
    (hth : thread? s k = some th) : th.queue = [] := by
  obtain ⟨hall, -⟩ := Bool.and_eq_true_iff.mp hd
  simp only [thread?, group?, hk, ht] at hth
  split at hth
  · next g hg =>
    have hthread := List.all_eq_true.mp (List.all_eq_true.mp hall g (List.mem_of_getElem? hg)) th (List.mem_of_getElem? hth)
    exact List.isEmpty_iff.mp (Bool.and_eq_true_iff.mp hthread).1
  · cases hth

/-- A drained team has no access left to perform. -/
theorem settleBanks_drained {s : State} {t : Team} (ht : team? s t.id = some t) (hd : teamDrained s t = true) : settleBanks s t.id = s := by
  unfold settleBanks
  rw [List.filter_eq_nil_iff.mpr]
  · rfl
  · intro x hx hmine
    obtain ⟨th, hth, ha⟩ := mem_allQueues hx
    rw [drained_queue ht hd (by simpa using (Bool.and_eq_true_iff.mp hmine).1) hth] at ha
    cases ha

/-- A drained team is gone as soon as it retires. -/
theorem dropDrained_drained {s : State} {t : Team} (ht : team? s t.id = some t) (hd : teamDrained s t = true) :
    dropDrained (placeGiven s t) t.id = removeTeam (modGrid (placeGiven s t) t.grid fun g => { g with flush := max g.flush (teamFlush t) }) t.id := by
  have hgiven : placeGiven s t = modTeam (freePlace s t.id) t.id fun t => { t with state := .retired } := by rw [placeGiven, settleBanks_drained ht hd]
  have hteam : team? (placeGiven s t) t.id = some { t with state := .retired } := by
    rw [hgiven]
    exact team_modTeam_same ((team_of_teams (freePlace_teams ..) t.id).trans ht) (fun t => { t with state := .retired }) fun _ => rfl
  have hdrained : teamDrained (placeGiven s t) { t with state := .retired } = true := by
    rw [← hd, hgiven]
    simp only [teamDrained, modTeam_gate, freePlace_gate]
  unfold dropDrained
  rw [hteam]
  simp only [hdrained, if_true]
  rfl

theorem grid_dropDrained {s : State} {t : Team} {g : Grid} (ht : team? s t.id = some t) (hd : teamDrained s t = true) (hg : grid? s t.grid = some g) :
    grid? (dropDrained (placeGiven s t) t.id) t.grid = some { g with flush := max g.flush (teamFlush t) } := by
  rw [dropDrained_drained ht hd, grid_of_grids (removeTeam_grids ..)]
  refine grid_modGrid_same ?_ (fun g => { g with flush := max g.flush (teamFlush t) }) fun _ => rfl
  rw [placeGiven, settleBanks_drained ht hd]
  exact (grid_of_grids (freePlace_grids ..) t.grid).trans hg

theorem dropDrained_others {s : State} {t : Team} (ht : team? s t.id = some t) (hd : teamDrained s t = true)
    (hlast : ∀ u ∈ s.teams, u.id ≠ t.id → u.grid ≠ t.grid) : ∀ u ∈ (dropDrained (placeGiven s t) t.id).teams, u.grid ≠ t.grid := by
  intro u hu
  rw [dropDrained_drained ht hd] at hu
  obtain ⟨hne, hin⟩ := removeTeam_others hu
  have hnames : teamNames (placeGiven s t) = teamNames s := by
    rw [placeGiven, settleBanks_drained ht hd, modTeam_names (f := fun t => { t with state := .retired }) _ _ fun _ => ⟨rfl, rfl⟩]
    exact congrArg (List.map fun t : Team => (t.id, t.grid)) (freePlace_teams ..)
  obtain ⟨v, hv, heq⟩ := List.mem_map.mp (hnames ▸ hin : (u.id, u.grid) ∈ teamNames s)
  obtain ⟨hid, hgrid⟩ := Prod.mk.inj heq
  exact hgrid ▸ hlast v hv (hid ▸ hne)

theorem teamRetires : TeamRetires := by
  constructor
  · intro s t ht hready hsucc
    obtain ⟨hteams, hplace⟩ := gridEnd_keeps (dropDrained (placeGiven s t) t.id) t
    obtain ⟨htiles, hpins, hlocks, hflocks⟩ := hplace (dropDrained_placeless (placeGiven_placeless s t))
    refine ⟨_, exec_teamRetire ht hready hsucc, fun u hu => ?_, htiles, hpins, hlocks, hflocks⟩
    rw [team_of_teams hteams] at hu
    exact team_dropDrained hu
  · intro s t g ht hready hd hsucc hfork hg
    obtain ⟨hteams, hplace⟩ := gridEnd_keeps (dropDrained (placeGiven s t) t.id) t
    obtain ⟨htiles, hpins, hlocks, -⟩ := hplace (dropDrained_placeless (placeGiven_placeless s t))
    refine ⟨_, exec_teamRetire ht hready hsucc, ?_, htiles, hpins, hlocks, ?_⟩
    · rw [team_of_teams hteams, dropDrained_drained ht hd, team_removeTeam]
    · obtain ⟨g', hg', hflush, hended⟩ := grid_endGrid (grid_dropDrained ht hd hg)
      rw [deferEnd_unforked hfork]
      exact ⟨g', hg', hflush, fun hlast hall => hended (dropDrained_others ht hd hlast) hall⟩

/-- Settles O48, from one theorem for each of the scheduler's operations. -/
theorem gridsAndTeamsRun : Obligations.GridsAndTeamsRun :=
  ⟨gridsReady, launchTaken, teamPlaced, flockPicked, teamRetires, budgetSpent, residencyEnds⟩

end Sys2Proof.Proofs
end

section
/-! PROOF. Register instructions: each is a lane operation that writes its row of the tables (R106, R291 to R331), and O19 to O24. -/

namespace Sys2Proof.Proofs

open Machine Claims Laws

/-! ### What a row of the tables stands for -/

/-- The instruction of a row is the lane operation of its writes, which come from the lane's own registers and its group's scalars. -/
structure Computes (i : Instr) (word : Word) (e : RegOp) : Prop where
  exec : ∀ s, exec i s = .next (laneOp word e.st e.uses e.lat (fun l => .ok (e.val l)) s)
  own : ∀ l k : Lane, k.th = l.th → k.g.s = l.g.s → e.val k = e.val l
  plain : e.uses.priv = false ∧ e.uses.ban = false ∧ e.uses.lead = 0

theorem integerOp_computes {i : Instr} {word : Word} {e : RegOp} (hw : encode i = some word) (he : integerOp i = some e) : Computes i word e := by
  unfold integerOp at he
  split at he <;> cases he
  all_goals
    cases hw
    exact ⟨fun _ => rfl, fun l k hth _ => by simp only [tri, tri3, duo, sat, carry, wide, hth], rfl, rfl, rfl⟩

theorem logicOp_computes {i : Instr} {word : Word} {e : RegOp} (hw : encode i = some word) (he : logicOp i = some e) : Computes i word e := by
  unfold logicOp at he
  split at he <;> cases he
  all_goals
    cases hw
    exact ⟨fun _ => rfl, fun l k hth _ => by simp only [tri, tri3, duo, hth], rfl, rfl, rfl⟩

theorem bitOp_computes {i : Instr} {word : Word} {e : RegOp} (hw : encode i = some word) (he : bitOp i = some e) : Computes i word e := by
  unfold bitOp at he
  split at he <;> cases he
  all_goals
    cases hw
    exact ⟨fun _ => rfl, fun l k hth _ => by simp only [tri, tri3, duo, hth], rfl, rfl, rfl⟩

theorem moveOp_computes {i : Instr} {word : Word} {e : RegOp} (hw : encode i = some word) (he : moveOp i = some e) : Computes i word e := by
  unfold moveOp at he
  split at he <;> cases he
  all_goals
    cases hw
    exact ⟨fun _ => rfl, fun l k hth hs => by simp only [duo, one, pred, Claims.cmp, plg, rdS, hth, hs], rfl, rfl, rfl⟩

theorem floatOp_computes {i : Instr} {word : Word} {e : RegOp} (hw : encode i = some word) (he : floatOp i = some e) : Computes i word e := by
  unfold floatOp at he
  split at he <;> cases he
  all_goals
    cases hw
    exact ⟨fun _ => rfl, fun l k hth _ => by simp only [ftri, ffour, flt, hth], rfl, rfl, rfl⟩

theorem convertOp_computes {i : Instr} {word : Word} {e : RegOp} (hw : encode i = some word) (he : convertOp i = some e) : Computes i word e := by
  unfold convertOp at he
  split at he <;> cases he
  all_goals
    cases hw
    exact ⟨fun _ => rfl, fun l k hth _ => by simp only [ffour, fscale, flt, hth], rfl, rfl, rfl⟩

theorem registerOp_computes {i : Instr} {word : Word} {e : RegOp} (hw : encode i = some word) (he : registerOp i = some e) : Computes i word e := by
  unfold registerOp at he
  simp only [Option.or_eq_some_iff] at he
  rcases he with h | ⟨-, h | ⟨-, h | ⟨-, h | ⟨-, h | ⟨-, h⟩⟩⟩⟩⟩
  · exact integerOp_computes hw h
  · exact logicOp_computes hw h
  · exact bitOp_computes hw h
  · exact moveOp_computes hw h
  · exact floatOp_computes hw h
  · exact convertOp_computes hw h

/-! ### Results on a ready flock -/

/-- A table whose rows are lane operations holds on every ready flock. -/
theorem regResult_of_computes {table : Instr → Option RegOp} (h : ∀ {i word e}, encode i = some word → table i = some e → Computes i word e) : RegResult table := by
  intro i word e hw he s sl hready
  obtain ⟨hexec, hown, -⟩ := h hw he
  exact reg_result hready (hexec s) fun t _ l k _ hal => congrArg Except.ok (hown l k hal.th (alike_scalars hal))

/-- Settles O19: the integer sums and products are lane operations of their rows. -/
theorem integerResults : Obligations.IntegerResults := regResult_of_computes integerOp_computes

/-- Settles O20: so are the logic and shift instructions. -/
theorem logicAndShiftResults : Obligations.LogicAndShiftResults := regResult_of_computes logicOp_computes

/-- Settles O21: so are the bit, field and minimum instructions. -/
theorem bitFieldResults : Obligations.BitFieldResults := regResult_of_computes bitOp_computes

/-- Settles O22: so are the moves, compares and predicate instructions. -/
theorem moveResults : Obligations.MoveResults := regResult_of_computes moveOp_computes

/-- Settles O23: so are F32 and packed arithmetic, whose flags are writes too. -/
theorem floatResults : Obligations.FloatResults := regResult_of_computes floatOp_computes

/-- Settles O24: so are conversions, dot products and scaling. -/
theorem conversionResults : Obligations.ConversionResults := regResult_of_computes convertOp_computes

end Sys2Proof.Proofs
end

section
/-! PROOF. Privilege checks against what a fellow lane of the flock may do to the team (R118, R191, R222, R367), and O12. -/

namespace Sys2Proof.Proofs

open Machine Claims Laws

/-- The word of `rdpriv v1, window`. -/
def privWord : Word := encE 55#6 2#5 1 2 0#6 0

/-- Lane 1 stands beside lane 0, behind a guard that fails for it, and runs in its trap handler: its next trap stops it. -/
def strandedThread : Thread :=
  { Thread.start 0 with pc := { loadPc with guardOk := false }, gmask := 3, handler := some ⟨loadPc, false⟩ }

/-- The team of both lanes is world 1 of a fork whose copies are not complete. -/
def forkedTeam : Team :=
  { loadTeam 2 1 1 0 with
    world := 1, fork := some 7
    groups := [{ loadGroup with threads := { Thread.start 0 with pc := loadPc, gmask := 3 } :: strandedThread :: List.replicate 30 { Thread.start 0 with life := .retired } }] }

def unfinishedFork : Fork :=
  { id := 7, ctx := 1, parentView := 0, parentWorld := 0, parentNworld := 1, parentFork := none, copying := true, rd := 0, moved := false, winner := none
    requests := [], reached := []
    worlds := [{ idx := 1, team := 2, tag := 1, score := none, aborted := false, discarded := false, cap := 0, rd := 0 }] }

def strandedSlot : Slot :=
  { core := 0, quad := 0, k := 0, flock := [⟨2, 0, 0⟩, ⟨2, 0, 1⟩], fid := 1, due := 0, lastClass := none, paid := false, stalled := false, yielded := false, low := [] }

/-- The machine in which they issue `rdpriv` as the last word of a clause, with no header behind it; the grid's record lacks flag [6]. -/
def strandedState : State :=
  { loadWord State.reset privWord with
    cur := some 0
    contexts := [{ loadContext 1 with handler := 0x100 }]
    teams := [forkedTeam]
    forks := [unfinishedFork]
    slots := [strandedSlot] }

def privUses : Uses := { Uses.none cCtrl with wv := [(1, 1)], priv := true }

theorem stranded_stands : Stands strandedState strandedSlot := by
  obtain ⟨hslot, hne, hnodup, hlive⟩ := stands_live (s := strandedState) (sl := strandedSlot) (by decide +kernel)
  exact ⟨hslot, hne, hnodup, hlive⟩

/-- The state has the thread of lane 0. -/
def holdsLane0 (o : Host.Outcome State Fault Refusal) : Bool := match o with | .next r => (thread? r ⟨2, 0, 0⟩).isSome | _ => false

/-- Lane 1 stops at the missing header, and the pre-emption that it asks for undoes the fork: the team goes with both lanes (R222). -/
theorem stranded_team_goes : holdsLane0 (exec (.rdpriv 1 2 0) strandedState) = false := by decide +kernel

theorem stranded_vectors : CanVector (atIssue strandedState strandedSlot) ⟨2, 0, 0⟩ :=
  ⟨{ Thread.start 0 with pc := loadPc, gmask := 3 }, forkedTeam, { loadContext 1 with handler := 0x100 }, by decide +kernel, by decide +kernel, by decide +kernel,
    by decide, rfl, .inl rfl⟩

theorem stranded_checked : ∀ k ∈ lanesOf strandedState strandedSlot privUses, ∀ l, lane? (atIssue strandedState strandedSlot) k strandedSlot.fid privWord = some l →
    stalls l privUses = false ∧ boundsTrap l privUses = none := by decide +kernel

/-- Refutes O12: the lane takes PRIV, but nothing keeps a fellow lane of its flock from the pre-emption that removes their team before the
instruction has ended, and with it the thread at its handler. -/
theorem not_privilegeIsChecked : ¬ Obligations.PrivilegeIsChecked := by
  intro h
  obtain ⟨r, th, hexec, hth, -⟩ := h 1 2 0 privWord (.rdpriv 1 2 0) privUses (.inl ⟨rfl, rfl⟩) rfl strandedState strandedSlot ⟨2, 0, 0⟩ stranded_stands
    (by decide +kernel) (by decide +kernel) (by decide +kernel) stranded_vectors (by decide +kernel) stranded_checked
  have hgone := stranded_team_goes
  rw [hexec] at hgone
  simp [holdsLane0, hth] at hgone

end Sys2Proof.Proofs
end

section
/-! PROOF. Operand checks that every lane of a flock fails (R121, R188, R190, R290), and O11. -/

namespace Sys2Proof.Proofs

open Machine Claims Laws

/-! ### The checks of a flock that stands -/

/-- A flock that meets no static trap and nothing that stalls it comes to the checks of its lanes, and goes on with those that pass. -/
theorem issueHold_checked {s : State} {sl : Slot} {word : Word} {u : Uses} {hold : Lane → Bool} (h : Stands s sl) (hstatic : staticTrap (posOf s sl) word u = none)
    (hrot : rotates (posOf s sl) sl u = false) (hfree : ∀ t ∈ lanesOf s sl u, ∀ l, lane? (atIssue s sl) t sl.fid word = some l → stalls l u = false)
    (hheld : ∀ l, hold l = false) (st : BitVec 2) (eff : Slot → List Tid → State → State) :
    issueHold word st u hold eff s = retire sl.key (posOf s sl) st u (preChecks sl.fid word u (lanesOf s sl u) (atIssue s sl)).1.length
      (teamProgress (eff sl (preChecks sl.fid word u (lanesOf s sl u) (atIssue s sl)).1 (preChecks sl.fid word u (lanesOf s sl u) (atIssue s sl)).2) (headTeam sl)) := by
  obtain ⟨hslot, hne, -, hlive⟩ := h
  obtain ⟨t0, l0, hfl⟩ := List.exists_cons_of_ne_nil hne
  have hat : settleTeam s t0.team = atIssue s sl := by simp only [atIssue, headTeam, hfl]
  obtain ⟨th0, hth0, -⟩ := hlive t0 (by rw [hfl]; exact List.mem_cons_self)
  have hpos : posOf s sl = th0.pc := by simp only [posOf, hfl, hth0]
  have hkey : slot? (atIssue s sl) sl.key = some sl := curSlot_slot hslot
  have howed : takeOwed (atIssue s sl) sl.flock = atIssue s sl := takeOwed_none _ _ fun t ht => (hlive t ht).imp fun _ h => ⟨h.1, h.2.1⟩
  have hstall : ((admitted (atIssue s sl) u sl.flock).any fun t => match lane? (atIssue s sl) t sl.fid word with | some l => stalls l u | none => false) = false := by
    refine List.any_eq_false.mpr fun t ht => ?_
    cases hl : lane? (atIssue s sl) t sl.fid word with
    | none => simp
    | some l => simp [hfree t ht l hl]
  have hhold : ((checkers u (admitted (atIssue s sl) u sl.flock)).any fun t => match lane? (atIssue s sl) t sl.fid word with | some l => hold l | none => false) = false := by
    refine List.any_eq_false.mpr fun t _ => ?_
    cases lane? (atIssue s sl) t sl.fid word <;> simp [hheld]
  unfold issueHold
  simp only [hslot]
  split
  · next hx => rw [hfl] at hx; cases hx
  next t l hx =>
  obtain ⟨rfl, rfl⟩ := List.cons.inj (hfl.symm.trans hx)
  simp only [hat, howed, hkey]
  split
  · next hy => rw [hfl] at hy; cases hy
  next t1 l1 hy =>
  obtain ⟨rfl, rfl⟩ := List.cons.inj (hfl.symm.trans hy)
  simp only [hth0, ← hpos, hstatic, hrot, Bool.false_eq_true, if_false]
  rw [if_neg]
  · simp only [headTeam, hfl, lanesOf]
  · rw [Bool.or_eq_true]
    rintro (h | h)
    · exact Bool.noConfusion (hstall.symm.trans h)
    · exact Bool.noConfusion (hhold.symm.trans h)

/-! ### What the checks of a lane look at -/

/-- Two views of a lane that the checks of an unprivileged instruction cannot tell apart. -/
structure SameToChecks (l k : Lane) : Prop where
  th : k.th = l.th
  fid : k.fid = l.fid
  word : k.word = l.word
  tm : teamShape k.tm = teamShape l.tm
  g : { k.g with threads := k.g.threads.map fun _ => Thread.start 0 } = { l.g with threads := l.g.threads.map fun _ => Thread.start 0 }
  ctx : ∀ id, ctx? k.s id = ctx? l.s id

theorem ownTrap_same {l k : Lane} (h : SameToChecks l k) {u : Uses} (hpriv : u.priv = false) : ownTrap k u = ownTrap l u := by
  have hregs : k.g.regs = l.g.regs := by simpa using congrArg Group.regs h.g
  simp only [ownTrap, boundsTrap, privTrap, poisonTrap, hpriv, hregs, h.th, h.word, Bool.false_and, Bool.false_eq_true, if_false]

theorem earlyTrap_same {l k : Lane} (h : SameToChecks l k) (u : Uses) : earlyTrap k u = earlyTrap l u := by
  have hsdue : k.g.sdue = l.g.sdue := by simpa using congrArg Group.sdue h.g
  have hbdue : k.tm.bdue = l.tm.bdue := by simpa [teamShape] using congrArg Team.bdue h.tm
  have hctx : k.tm.ctx = l.tm.ctx := by simpa [teamShape] using congrArg Team.ctx h.tm
  have hchecks : checksStalls k = checksStalls l := by rw [checksStalls, h.ctx, hctx]; rfl
  simp only [earlyTrap, early, hchecks, h.th, h.fid, hsdue, hbdue]

/-- A lane that has not trapped sees what it saw before the others did. -/
theorem Vectored.lane {a b : State} {ts : List Tid} {tr : Tid → Trap} (h : Vectored a b ts tr) {t : Tid} (ht : t ∉ ts) {fid : Nat} {word : Word} {l : Lane}
    (hl : lane? a t fid word = some l) : ∃ k, lane? b t fid word = some k ∧ SameToChecks l k := by
  obtain ⟨htm, hg, -, hs, -, hfid, hword⟩ := lane_some hl
  obtain ⟨k, hk, hth⟩ := lane_of_thread ((h.others t ht).trans (lane_thread hl)) fid word
  obtain ⟨htmk, hgk, -, hsk, -, hfidk, hwordk⟩ := lane_some hk
  have hshape : teamShape k.tm = teamShape l.tm := by
    have hs := team_shape h.same t.team
    rwa [htm, htmk, Option.map_some, Option.map_some, Option.some.injEq] at hs
  have hgroup := congrArg (fun x : Team => x.groups[t.group]?) hshape
  simp only [teamShape, List.getElem?_map, hg, hgk, Option.map_some, Option.some.injEq] at hgroup
  exact ⟨k, hk, hth, hfidk.trans hfid.symm, hwordk.trans hword.symm, hshape, hgroup, fun id => by rw [hs, hsk, ctx_of_frame h.frame]⟩

/-- The causes of the checks of steps 5 to 7. -/
theorem operandTrap_cause {l : Lane} {u : Uses} {tr : Trap} (h : operandTrap l u = some tr) : tr.cause ≠ .viewCapacity ∧ tr.cause ≠ .deferFull := by
  have hcases : boundsTrap l u = some tr ∨ privTrap l u = some tr ∨ poisonTrap l u = some tr ∨ earlyTrap l u = some tr := by
    simp only [operandTrap, ownTrap, Option.or_eq_some_iff] at h
    tauto
  rcases hcases with h | h | h | h
  · unfold boundsTrap at h
    split at h
    · cases h; exact ⟨nofun, nofun⟩
    · split at h <;> cases h; exact ⟨nofun, nofun⟩
  · unfold privTrap at h
    split at h <;> cases h; exact ⟨nofun, nofun⟩
  · unfold poisonTrap at h
    split at h <;> cases h; exact ⟨nofun, nofun⟩
  · unfold earlyTrap at h
    split at h
    · cases h
    · repeat' split at h
      all_goals cases h
      all_goals exact ⟨nofun, nofun⟩

/-! ### Every lane fails -/

/-- A lane that `operandTrap` stops before the early reads are looked at. -/
def failsOwn (a : State) (fid : Nat) (word : Word) (u : Uses) (t : Tid) : Bool := ((lane? a t fid word).bind fun l => ownTrap l u).isSome

section
variable {a : State} {fid : Nat} {word : Word} {u : Uses} {tr : Tid → Trap} {adm : List Tid} (hpriv : u.priv = false) (hnodup : adm.Nodup)
  (hfail : ∀ t ∈ adm, CanVector a t ∧ ∃ l, lane? a t fid word = some l ∧ operandTrap l u = some (tr t))
include hpriv hfail

theorem operandCheck_of_fails {b : State} {ts : List Tid} (h : Vectored a b ts tr) {t : Tid} (ht : t ∉ ts) (hin : t ∈ adm) :
    operandCheck fid word u b t = if failsOwn a fid word u t then some (takeTrap b t (tr t)) else none := by
  obtain ⟨-, l, hl, htrap⟩ := hfail t hin
  obtain ⟨k, hk, hsame⟩ := h.lane ht hl
  simp only [operandCheck, hk, failsOwn, hl, Option.bind_some, ownTrap_same hsame hpriv]
  cases hown : ownTrap l u with
  | none => simp
  | some x =>
    rw [operandTrap, hown, Option.some_or, Option.some.injEq] at htrap
    simp [htrap]

omit hpriv in
theorem takeTrap_vectors {b : State} {ts : List Tid} (h : Vectored a b ts tr) {t : Tid} (ht : t ∉ ts) (hin : t ∈ adm) : Vectored a (takeTrap b t (tr t)) (ts ++ [t]) tr := by
  obtain ⟨hcan, l, hl, htrap⟩ := hfail t hin
  have hth : thread? b t = some l.th := (h.others t ht).trans (lane_thread hl)
  rw [takeTrap, hth]
  exact h.step ht hcan (operandTrap_cause htrap) hth _ _

include hnodup

/-- The lanes that fail at once are at their handlers; the others are left, in order. -/
theorem passing_fails : ∀ (l ts : List Tid) (b : State), l.Sublist adm → (∀ t ∈ l, t ∉ ts) → Vectored a b ts tr →
    (passing (operandCheck fid word u) l b).1 = l.filter (fun t => !failsOwn a fid word u t) ∧
      Vectored a (passing (operandCheck fid word u) l b).2 (ts ++ l.filter (failsOwn a fid word u)) tr
  | [], ts, b, _, _, h => by simpa [passing] using h
  | t :: l, ts, b, hsub, hnew, h => by
    have ht := hnew t List.mem_cons_self
    have hin := hsub.subset List.mem_cons_self
    have htl : t ∉ l := (List.nodup_cons.mp (hnodup.sublist hsub)).1
    have hsub' := (List.sublist_cons_self t l).trans hsub
    have hnew' : ∀ x ∈ l, x ∉ ts := fun x hx => hnew x (List.mem_cons_of_mem _ hx)
    simp only [passing, operandCheck_of_fails hpriv hfail h ht hin]
    cases hf : failsOwn a fid word u t with
    | true =>
      obtain ⟨hleft, hvec⟩ := passing_fails l (ts ++ [t]) _ hsub'
        (fun x hx hmem => (List.mem_append.mp hmem).elim (hnew' x hx) fun h => htl (List.mem_singleton.mp h ▸ hx)) (takeTrap_vectors hfail h ht hin)
      rw [List.append_assoc] at hvec
      simpa [hf] using ⟨hleft, hvec⟩
    | false =>
      obtain ⟨hleft, hvec⟩ := passing_fails l ts b hsub' hnew' h
      simpa [hf] using ⟨hleft, hvec⟩

omit hpriv hnodup in
/-- A lane that passes the first checks fails by an early read, before and after the others have trapped. -/
theorem earlyOf_left {b : State} {ts : List Tid} (h : Vectored a b ts tr) {t : Tid} (hin : t ∈ adm) (ht : t ∉ ts) (hown : failsOwn a fid word u t = false) :
    earlyOf fid word u b t = some (tr t) := by
  obtain ⟨-, l, hl, htrap⟩ := hfail t hin
  obtain ⟨k, hk, hsame⟩ := h.lane ht hl
  have hnone : ownTrap l u = none := by simpa [failsOwn, hl] using hown
  rw [operandTrap, hnone, Option.none_or] at htrap
  rw [earlyOf, hk, Option.bind_some, earlyTrap_same hsame, htrap]

omit hpriv in
/-- Lanes that pass the first checks are stopped by their early reads: they take the traps that are left. -/
theorem takeTraps_early {l ts : List Tid} {b : State} (hsub : l.Sublist adm) (hnew : ∀ t ∈ l, t ∉ ts) (hown : ∀ t ∈ l, failsOwn a fid word u t = false)
    (h : Vectored a b ts tr) (x : Trap) :
    Vectored a (takeTraps b (l.map fun t => (t, (earlyOf fid word u b t).getD x))) (ts ++ l) tr := by
  have hpairs : l.map (fun t => (t, (earlyOf fid word u b t).getD x)) = l.map fun t => (t, tr t) :=
    List.map_congr_left fun t ht => by rw [earlyOf_left hfail h (hsub.subset ht) (hnew t ht) (hown t ht), Option.getD_some]
  rw [hpairs, takeTraps, List.foldl_map]
  refine Vectored.fold l ts b (hnodup.sublist hsub) hnew (fun t ht => ?_) (fun c t ht _ hth => ?_) h
  · obtain ⟨hcan, ln, -, htrap⟩ := hfail t (hsub.subset ht)
    exact ⟨hcan, operandTrap_cause htrap⟩
  · obtain ⟨-, ln, hl, -⟩ := hfail t (hsub.subset ht)
    have hth' : thread? c t = some ln.th := hth.trans (lane_thread hl)
    exact ⟨ln.th, _, _, hth', by rw [takeTrap, hth']; rfl⟩

/-- The checks of lanes that all fail leave none for which the instruction is performed, and each lane at its handler. -/
theorem preChecks_fails (hban : u.ban = false) (hlead : u.lead = 0) :
    (preChecks fid word u adm a).1 = [] ∧ ∃ ts, (∀ t ∈ adm, t ∈ ts) ∧ Vectored a (preChecks fid word u adm a).2 ts tr := by
  have hbans : passing (fun s t => if u.ban then banned s t word else none) adm a = (adm, a) := passing_all _ _ _ fun t _ => by rw [hban]; rfl
  have hcheckers : checkers u adm = adm := by rw [checkers, hlead]; rfl
  obtain ⟨hleft, hvec⟩ := passing_fails hpriv hnodup hfail adm [] a (List.Sublist.refl _) (fun _ _ => List.not_mem_nil) (Vectored.nil a tr)
  unfold preChecks
  simp only [hbans, hcheckers]
  generalize hr : passing (operandCheck fid word u) adm a = r at hleft hvec
  have hperf : performers u r.1 adm = r.1 := by rw [performers, hlead]; rfl
  have hown : ∀ t ∈ r.1, failsOwn a fid word u t = false := fun t ht => by
    rw [hleft] at ht
    simpa using (List.mem_filter.mp ht).2
  have hsub : r.1.Sublist adm := hleft ▸ List.filter_sublist
  have hnew : ∀ t ∈ r.1, t ∉ adm.filter (failsOwn a fid word u) := fun t ht hmem => by simp [hown t ht] at hmem
  have hall : ∀ t ∈ adm, t ∈ adm.filter (failsOwn a fid word u) ∨ t ∈ r.1 := by
    intro t ht
    rw [hleft]
    cases hf : failsOwn a fid word u t <;> simp [ht, hf]
  rw [List.nil_append] at hvec
  split
  · next x _ =>
    rw [hperf]
    exact ⟨rfl, _, fun t ht => List.mem_append.mpr (hall t ht), takeTraps_early hnodup hfail hsub hnew hown hvec x⟩
  · next hnone =>
    have hempty : r.1 = [] := by
      refine List.eq_nil_iff_forall_not_mem.mpr fun t ht => ?_
      have hearly := List.findSome?_eq_none_iff.mp hnone t ht
      rw [earlyOf_left hfail hvec (hsub.subset ht) (hnew t ht) (hown t ht)] at hearly
      cases hearly
    refine ⟨hperf.trans hempty, _, fun t ht => (hall t ht).resolve_right fun h => ?_, hvec⟩
    rw [hempty] at h
    cases h

end

/-- A flock of which every lane has vectored is at its handlers after the turn of its slot, however many lanes the turn counts. -/
theorem retired_vectored {s : State} {sl : Slot} (hslot : curSlot s = some sl) {ts : List Tid} (hall : ∀ t ∈ sl.flock, t ∈ ts) {b : State} {tr : Tid → Trap}
    (h : Vectored (atIssue s sl) b ts tr) (p : Pc) (st : BitVec 2) (u : Uses) (n : Nat) :
    ∀ t ∈ ts, AtHandler (atIssue s sl) (retire sl.key p st u n (teamProgress b (headTeam sl))) t (tr t) := by
  have hprogress : (teamProgress b (headTeam sl)).slots = b.slots ∧ (teamProgress b (headTeam sl)).teams = b.teams := by
    unfold teamProgress
    split <;> exact ⟨rfl, rfl⟩
  have hempty : ∀ x, slot? (teamProgress b (headTeam sl)) sl.key = some x → x.flock = [] := by
    intro x hx
    have hfind : s.slots.find? (fun x => x.key == sl.key) = some sl := curSlot_slot hslot
    have hat : (atIssue s sl).slots = s.slots := rfl
    simp only [slot?, hprogress.1, h.slots, hat, List.find?_map] at hx
    obtain ⟨y, hy, rfl⟩ := Option.map_eq_some_iff.mp hx
    obtain rfl : sl = y := Option.some.inj (hfind.symm.trans hy)
    exact List.filter_eq_nil_iff.mpr fun t ht => by simpa using hall t ht
  intro t ht th tm c h1 h2 h3
  rw [thread_of_teams ((retire_teams_of_empty hempty p st u n).trans hprogress.2)]
  exact h.taken t ht th tm c h1 h2 h3

/-! ### The traps by their check -/

/-- A span that the bounds check names first is the trap of the lane. -/
theorem operandTrap_of_span {l : Lane} {u : Uses} {p : Nat × Nat} {n : Nat} (hfirst : (u.rv ++ u.wv).findSome? (spanBad l.g.regs) = spanBad l.g.regs p)
    (hbad : spanBad l.g.regs p = some n) : operandTrap l u = some ⟨.illegalOp, BitVec.ofNat 32 n, 0⟩ := by
  have hbounds : boundsTrap l u = some ⟨.illegalOp, BitVec.ofNat 32 n, 0⟩ := by simp only [boundsTrap, hfirst, hbad]
  rw [operandTrap, ownTrap, hbounds, Option.some_or, Option.some_or]

theorem spanBad_of_high {regs : Nat} {p : Nat × Nat} (hone : p.2 = 1) (hhigh : regs ≤ p.1) : spanBad regs p = some p.1 := by
  have hspan : spanRegs [p] = [p.1] := by simp [spanRegs, hone, upto]
  rw [spanBad, if_neg (by simp [hone, Nat.mod_one]), hspan]
  simp [hhigh]

/-- Settles O11: the lanes fail one after the other, at once or by their early reads, and each stands at its handler when its slot goes on. -/
theorem operandChecksTrap : Obligations.OperandChecksTrap := by
  refine ⟨?_, ?_, ?_⟩
  · intro i word e hw he s sl tr hstands hstatic hrot hlanes hban hlead hall
    obtain ⟨hexec, -, hpriv, -, -⟩ := registerOp_computes hw he
    have hnodup : (lanesOf s sl e.uses).Nodup := hstands.nodup.filter _
    have hfail : ∀ t ∈ lanesOf s sl e.uses, CanVector (atIssue s sl) t ∧ ∃ l, lane? (atIssue s sl) t sl.fid word = some l ∧ operandTrap l e.uses = some (tr t) := by
      intro t ht
      obtain ⟨th, hth, -⟩ := hstands.live t (List.mem_of_mem_filter ht)
      obtain ⟨l, hl, -⟩ := lane_of_thread hth sl.fid word
      exact ⟨(hlanes t ht).1, l, hl, ((hlanes t ht).2 l hl).2⟩
    obtain ⟨hnone, ts, hts, hvec⟩ := preChecks_fails hpriv hnodup hfail hban hlead
    refine ⟨_, (hexec s).trans (congrArg _ (issueHold_checked hstands hstatic hrot (fun t ht l hl => ((hlanes t ht).2 l hl).1) (fun _ => rfl) _ _)), fun t ht => ?_⟩
    rw [hnone]
    exact retired_vectored hstands.slot (fun t ht => hts t (hall ▸ ht)) hvec _ _ _ _ t (hts t ht)
  · intro l u p _ hfirst
    exact ⟨fun hmis => operandTrap_of_span hfirst (if_pos hmis), fun hone hhigh => operandTrap_of_span hfirst (spanBad_of_high hone hhigh)⟩
  · intro l u n hbounds hpriv hrv hpoison
    have hpoisoned : poisonTrap l u = some ⟨.poisonRead, BitVec.ofNat 32 n, 0⟩ := by simp [poisonTrap, hrv, spanRegs, upto, hpoison]
    have hunprivileged : privTrap l u = none := by simp [privTrap, hpriv]
    rw [operandTrap, ownTrap, hbounds, hunprivileged, hpoisoned]
    rfl

end Sys2Proof.Proofs
end

section
/-! PROOF. Reads and writes of special registers (R125, R229, R302, R353, R367, R369, R373, R409), and O26. -/

namespace Sys2Proof.Proofs

open Machine Claims Laws

/-! ### One row of a table of turns -/

/-- What `Turns` says of one instruction. -/
def TurnsAt (i : Instr) (word : Word) (e : TurnOp) : Prop :=
  ∀ s sl, Ready s sl word e.uses e.hold → e.fit s sl →
    (∀ t ∈ e.who (lanesOf s sl e.uses), ∀ l, lane? (atIssue s sl) t sl.fid word = some l → e.cond l) →
    ∃ mid, exec i s = .next (issued s sl e.st e.uses mid) ∧ LanesTurn (atIssue s sl) mid (e.who (lanesOf s sl e.uses)) sl.fid word (e.rel sl)

/-- A lane operation that gives the results of a row wherever they are defined. -/
theorem partly_turns {i : Instr} {word : Word} {st : BitVec 2} {u : Uses} {lat : Nat} {val : Lane → Option (List (Reg × BitVec 80))} (f : Lane → LaneRes)
    (hexec : ∀ s, exec i s = .next (laneOp word st u lat f s)) (hval : ∀ l ws, val l = some ws → f l = .ok ws) (hown : ∀ l k, Alike l k → val k = val l) :
    TurnsAt i word (partly st u lat val) := by
  intro s sl hready _ hcond
  refine effect_exec hready f (hexec s) _ fun t ht l k hl hal => ?_
  obtain ⟨ws, hws⟩ := Option.ne_none_iff_exists'.mp (hcond t ht l hl)
  obtain ⟨-, -, -, hs, -⟩ := lane_some hl
  exact ⟨ws, hval k ws ((hown l k hal).trans hws), ws, hws, by rw [hs]⟩

/-- The lanes of a ready flock perform an operation that knows its slot. -/
theorem perLaneSlot_turns {i : Instr} {word : Word} {st : BitVec 2} {u : Uses} {cond : Lane → Prop} {rel : Slot → Lane → Thread → Prop}
    (f : Slot → Lane → State → State) (hexec : ∀ s, exec i s = .next (issue word st u (fun sl => perLane (f sl) word sl) s))
    (hf : ∀ sl a l k b t, lane? a t sl.fid word = some l → OnlyTeams a b → lane? b t sl.fid word = some k → Alike l k → cond l → LaneStep (rel sl) b (f sl k b) t l) :
    TurnsAt i word (turn st u cond rel) := by
  intro s sl hready _ hcond
  refine ⟨perLane (f sl) word sl (lanesOf s sl u) (atIssue s sl), (hexec s).trans (congrArg _ (issueHold_ready hready st _)), ?_⟩
  refine lanes_turn hready _ (rel sl) _ (sortBy_perm _ _) ?_ _ rfl rfl
  intro b t l ht ho hs hth hl
  obtain ⟨k, hk, hal⟩ := lane_alike ho hs hth hl
  simp only [hk]
  exact hf sl _ l k b t hl ho hk hal (hcond t ht l hl)

/-! ### What alike lanes read -/

section
variable {l k : Lane} (h : Alike l k)
include h

theorem alike_deferKey : deferKey k.tm = deferKey l.tm := by simp only [deferKey, alike_fork h, alike_world h, alike_family h]
theorem alike_deferCount : deferCount k.s k.tm = deferCount l.s l.tm := by simp only [deferCount, alike_deferKey h, alike_s_deferred h]
theorem alike_viewDepth (tag : Nat) : viewDepth k.s tag = viewDepth l.s tag := by simp only [viewDepth, alike_fn_view h]
theorem alike_holdCount (f : Nat) : holdCount k.s f = holdCount l.s f := by simp only [holdCount, alike_s_holds h]
theorem alike_tile (core quad n : Nat) : tile? k.s core quad n = tile? l.s core quad n := by simp only [tile?, alike_s_tiles h]
theorem alike_ageOf : ageOf k.s k.tm = ageOf l.s l.tm := by simp only [ageOf, alike_family h, alike_fn_family h]
theorem alike_restartsOf : restartsOf k.s k.tm = restartsOf l.s l.tm := by simp only [restartsOf, alike_family h, alike_fn_family h]
theorem alike_regions : k.tm.regions = l.tm.regions := by simpa [teamShape] using congrArg Team.regions h.tm
theorem alike_rdS (n : Nat) : rdS k.g n = rdS l.g n := by simp only [rdS, alike_g_s h]

theorem alike_readSpecial (n : Nat) : readSpecial k n = readSpecial l n := by
  unfold readSpecial
  simp only [h.tid, h.th, alike_x h, alike_y h, alike_z h, alike_g_role h, alike_core h, alike_g_quad h, alike_world h, alike_nworld h, alike_view h,
    alike_ageOf h, alike_restartsOf h, alike_s_time h, regionOf, alike_regions h]

end

/-- The registers of the statement are those that the model reads. -/
theorem readSpecial_eq (l : Lane) (n : Nat) : readSpecial l n = specialValue l n := by
  unfold readSpecial specialValue
  split
  case h_22 => cases l.th.dtime <;> rfl
  case h_23 => cases (if inRoutineCode l.th then none else regionOf l.tm l.th.pc.off) <;> rfl
  case h_24 => cases l.th.routine <;> rfl
  case h_25 => exact congrArg some (BitVec.ofNat_toNat ..)
  all_goals rfl

/-- The latch of a read is that of the statement. -/
theorem latchTime_eq (l : Lane) (n : Nat) : latchTime l.s n l.th = { l.th with dtime := timeLatched n l } := by
  unfold latchTime timeLatched
  split_ifs <;> simp_all

theorem movsRead_turns (d a : BitVec 7) (st : BitVec 2) {word : Word} {e : TurnOp} (hw : encode (.movsRead d a st) = some word)
    (he : specialOp (.movsRead d a st) = some e) : TurnsAt (.movsRead d a st) word e := by
  cases hw
  cases he
  refine perLaneSlot_turns _ (fun _ => rfl) fun sl x l k b t hl ho hk hal hcond => ?_
  obtain ⟨v, hv⟩ := Option.ne_none_iff_exists'.mp hcond
  obtain ⟨-, -, -, hs, -⟩ := lane_some hl
  obtain ⟨-, -, -, hsk, htid, -⟩ := lane_some hk
  have hread : readSpecial k a.toNat = some v := by rw [alike_readSpecial hal, readSpecial_eq, hv]
  have hlatch : latchTime b a.toNat k.th = { l.th with dtime := timeLatched a.toNat l } := by
    have htime : timeLatched a.toNat k = timeLatched a.toNat l := by simp only [timeLatched, alike_s_time hal, hal.th]
    rw [← hsk, latchTime_eq, htime, hal.th]
  have hdue : mkDue b sl.core sl.fid 4 (.v d.toNat) (v.setWidth 80) = mkDue l.s sl.core sl.fid 4 (.v d.toNat) (v.setWidth 80) := by rw [mkDue_only ho, hs]
  simp only [hread, writeLane, htid, modThread_modThread]
  refine laneStep_modThread (lane_thread hk) ⟨v, hv, ?_⟩
  have hmid : mkDue (modThread b t (latchTime b a.toNat)) sl.core sl.fid 4 (.v d.toNat) (v.setWidth 80) = mkDue b sl.core sl.fid 4 (.v d.toNat) (v.setWidth 80) := rfl
  simp only [Function.comp_apply, hlatch, List.map_cons, List.map_nil, hmid, hdue]

theorem movsWrite_turns (d a : BitVec 7) (st : BitVec 2) {word : Word} {e : TurnOp} (hw : encode (.movsWrite d a st) = some word)
    (he : specialOp (.movsWrite d a st) = some e) : TurnsAt (.movsWrite d a st) word e := by
  cases hw
  cases he
  refine partly_turns _ (fun _ => rfl) (fun l ws hws => ?_) fun l k hal => by simp only [hal.th]
  have hmode : ((rdV l.th d.toNat).extractLsb' 0 3).toNat = (rdV l.th d.toNat).toNat % 8 := by simp [BitVec.extractLsb'_toNat]
  split_ifs at hws with h16 hrm h17 h18 <;> cases hws
  · have hlow : ¬ 5 ≤ ((rdV l.th d.toNat).extractLsb' 0 3).toNat := by omega
    simp only [h16, writeSpecial, if_neg hlow]
  · simp [h17, writeSpecial, fstatMask]
  · simp [h18, writeSpecial]

theorem rdpriv_turns (d : BitVec 7) (a : BitVec 6) (st : BitVec 2) {word : Word} {e : TurnOp} (hw : encode (.rdpriv d a st) = some word)
    (he : specialOp (.rdpriv d a st) = some e) : TurnsAt (.rdpriv d a st) word e := by
  cases hw
  cases he
  refine partly_turns _ (fun _ => rfl) (fun l ws hws => ?_) fun l k hal => by simp only [alike_fn_ctx hal, alike_ctx hal]
  cases hc : ctx? l.s l.tm.ctx with
  | none => simp [hc] at hws
  | some c =>
    simp only [hc] at hws
    simp only [Option.bind_some]
    split at hws <;> cases hws
    all_goals simp_all [privRead, resV]

/-- The word of `tprobe`, with the wound of the family told apart by its state. -/
theorem tprobe_word (l : Lane) : probeWord l =
    (let f := l.tm.family.bind (family? l.s)
     BitVec.ofNat 32
      ((match f with | some x => holdCount l.s x.id | none => 0) % 1024 * 2 ^ 12 + deferCount l.s l.tm % 64 * 2 ^ 6 + viewDepth l.s l.tm.view % 8 * 2 ^ 3 +
        (if l.tm.fork.isSome then 4 else 0) + (match f with | some x => if x.state = .wounded then 2 else 0 | none => 0) + (if f.isSome then 1 else 0))) := by
  simp only [probeWord, isWorld]
  cases l.tm.family.bind (family? l.s) with
  | none => rfl
  | some x => simp only [beq_iff_eq]; rfl

/-- Settles O26: each row is a lane operation with the value that the lane's state gives, or the read with its latch. -/
theorem specialRegisterResults : Obligations.SpecialRegisterResults := by
  intro i word e hw he
  cases i
  case movsRead d a st => exact movsRead_turns d a st hw he
  case movsWrite d a st => exact movsWrite_turns d a st hw he
  case rdpriv d a st => exact rdpriv_turns d a st hw he
  case setgm a st =>
    cases hw; cases he
    refine partly_turns _ (fun _ => rfl) (fun l ws hws => ?_) fun l k hal => by simp only [hal.th, hal.tid]
    split_ifs at hws with hcol
    cases hws
    simp only [hcol, if_true]
  case perfRd d a st =>
    cases hw; cases he
    refine partly_turns _ (fun _ => rfl) (fun l ws hws => ?_) fun l k hal => by simp only [alike_rdS hal, alike_counters hal]
    split_ifs at hws with hlt
    cases hws
    rw [perfRes, if_neg (by omega)]
    rfl
  case clk d st =>
    cases hw; cases he
    exact partly_turns _ (fun _ => rfl) (fun l ws hws => congrArg _ (Option.some.inj hws)) fun l k hal => by simp only [alike_s_time hal]
  case tprobe d st =>
    cases hw; cases he
    refine partly_turns _ (fun _ => rfl) (fun l ws hws => ?_) fun l k hal => by
      simp only [alike_family hal, alike_fn_family hal, alike_holdCount hal, alike_deferCount hal, alike_view hal, alike_viewDepth hal, alike_fork hal]
    rw [← Option.some.inj hws, tprobe_word]
    rfl
  case wquery d st =>
    cases hw; cases he
    exact partly_turns _ (fun _ => rfl) (fun l ws hws => congrArg _ (Option.some.inj hws)) fun l k hal => by
      simp only [alike_fork hal, alike_fn_fork hal, alike_view hal, alike_viewDepth hal, alike_nworld hal, alike_world hal]
  case mxStat d st =>
    cases hw; cases he
    exact partly_turns _ (fun _ => rfl) (fun l ws hws => congrArg _ (Option.some.inj hws)) fun l k hal => by
      simp only [alike_s_matrix hal, alike_core hal, alike_g_quad hal, alike_id hal, alike_tile hal]
  all_goals cases he

end Sys2Proof.Proofs
end

section
/-! PROOF. Scalar and base registers: written once per group or team (R122, R313, R314), and O30. -/

namespace Sys2Proof.Proofs

open Machine Claims Laws

/-! ### Groups after an update -/

/-- A team without its groups. -/
def bareTeam (t : Team) : Team := { t with groups := [] }

theorem group_modGroup (s : State) (team g : Nat) (f : Machine.Group → Machine.Group) (team' g' : Nat) :
    group? (modGroup s team g f) team' g' = if team' = team ∧ g' = g then (group? s team' g').map f else group? s team' g' := by
  simp only [group?, modGroup]
  rw [team_modTeam _ _ _ _ (by intro; rfl)]
  by_cases hteam : team' = team
  · cases htm : team? s team' with
    | none => simp [hteam]
    | some tm =>
      simp only [hteam, if_true, Option.map_some, updAt_get, true_and]
      by_cases hg : g' = g
      · simp [hg]
      · simp [hg, Ne.symm hg]
  · simp [hteam]

theorem modGroup_modGroup (s : State) (team g : Nat) (f f' : Machine.Group → Machine.Group) :
    modGroup (modGroup s team g f) team g f' = modGroup s team g (f' ∘ f) := by
  simp only [modGroup]
  rw [modTeam_modTeam _ _ _ _ (by intro; rfl)]
  simp only [Function.comp_def, updAt_updAt]

theorem modGroup_bare (s : State) (team g : Nat) (f : Machine.Group → Machine.Group) : (modGroup s team g f).teams.map bareTeam = s.teams.map bareTeam := by
  simp only [modGroup, modTeam, updWhere, List.map_map]
  refine List.map_congr_left fun t _ => ?_
  simp only [Function.comp_apply]
  split <;> rfl

theorem team_bare {a b : State} (h : b.teams.map bareTeam = a.teams.map bareTeam) (id : Nat) : (team? b id).map bareTeam = (team? a id).map bareTeam := by
  have hfind : ∀ l : List Team, (l.find? fun t => t.id == id).map bareTeam = (l.map bareTeam).find? fun t => t.id == id := fun l => by
    rw [List.find?_map]
    rfl
  simp only [team?, hfind, h]

/-! ### One scalar write for each group -/

/-- Two views of a lane with the same group: their teams differ only in other groups. -/
structure SameGroup (l k : Lane) : Prop where
  tid : k.tid = l.tid
  th : k.th = l.th
  g : k.g = l.g
  tm : bareTeam k.tm = bareTeam l.tm

theorem sameGroup_rdB {l k : Lane} (h : SameGroup l k) (n : Nat) : rdB k.tm k.th n = rdB l.tm l.th n := by
  have hb : k.tm.b = l.tm.b := by simpa [bareTeam] using congrArg Team.b h.tm
  simp only [rdB, h.th, hb]

theorem lane_sameGroup {a b : State} (hbare : b.teams.map bareTeam = a.teams.map bareTeam) {t : Tid} (hgroup : group? b t.team t.group = group? a t.team t.group)
    {fid : Nat} {word : Word} {l : Lane} (h : lane? a t fid word = some l) : ∃ k, lane? b t fid word = some k ∧ SameGroup l k := by
  obtain ⟨htm, hg, hth, -, htid, -⟩ := lane_some h
  have hga : group? a t.team t.group = some l.g := by simp only [group?, htm, hg]
  have hthread : thread? b t = some l.th := by simp only [thread?, hgroup, hga, hth]
  obtain ⟨k, hk, hkth⟩ := lane_of_thread hthread fid word
  obtain ⟨htmk, hgk, -, -, htidk, -⟩ := lane_some hk
  have hgb : group? b t.team t.group = some k.g := by simp only [group?, htmk, hgk]
  have hteam := team_bare hbare t.team
  rw [htm, htmk, Option.map_some, Option.map_some, Option.some.injEq] at hteam
  exact ⟨k, hk, htidk.trans htid.symm, hkth, Option.some.inj (hgb.symm.trans (hgroup.trans hga)), hteam⟩

/-- The groups of the leaders `ds` have received their scalar writes. -/
structure ScalarsDone (a b : State) (sl : Slot) (word : Word) (val : Lane → List (Nat × Word)) (ds : List Tid) : Prop where
  only : OnlyTeams a b
  done : ∀ t ∈ ds, ∀ l, lane? a t sl.fid word = some l →
    group? b t.team t.group = some { l.g with sdue := l.g.sdue ++ (val l).map fun x => mkDue a sl.core sl.fid 4 (.s x.1) (x.2.setWidth 80) }
  others : ∀ team g, (∀ t ∈ ds, t.team ≠ team ∨ t.group ≠ g) → group? b team g = group? a team g
  bare : b.teams.map bareTeam = a.teams.map bareTeam

/-- An operation that writes the scalars `val` of the group of its lane. -/
def WritesScalars (a : State) (sl : Slot) (val : Lane → List (Nat × Word)) (f : Lane → State → State) : Prop :=
  ∀ l k b, OnlyTeams a b → SameGroup l k → f k b =
    modGroup b l.tid.team l.tid.group fun g => { g with sdue := g.sdue ++ (val l).map fun x => mkDue a sl.core sl.fid 4 (.s x.1) (x.2.setWidth 80) }

theorem ScalarsDone.step {a b : State} {sl : Slot} {word : Word} {val : Lane → List (Nat × Word)} {ds : List Tid} (h : ScalarsDone a b sl word val ds)
    {f : Lane → State → State} (hf : WritesScalars a sl val f) {t : Tid} (hnew : ∀ d ∈ ds, d.team ≠ t.team ∨ d.group ≠ t.group) {l : Lane}
    (hl : lane? a t sl.fid word = some l) :
    ScalarsDone a (match lane? b t sl.fid word with | some ln => f ln b | none => b) sl word val (ds ++ [t]) := by
  obtain ⟨htm, hg, -, -, htid, -⟩ := lane_some hl
  have hga : group? a t.team t.group = some l.g := by simp only [group?, htm, hg]
  have hgroup := h.others t.team t.group hnew
  obtain ⟨k, hk, hsame⟩ := lane_sameGroup h.bare hgroup hl
  simp only [hk, hf l k b h.only hsame, htid]
  refine ⟨onlyTeams_trans h.only rfl, fun u hu m hm => ?_, fun team g hne => ?_, (modGroup_bare ..).trans h.bare⟩
  · rw [group_modGroup]
    rcases List.mem_append.mp hu with hu | hu
    · rw [if_neg fun he => (hnew u hu).elim (fun h => h he.1) fun h => h he.2]
      exact h.done u hu m hm
    · obtain rfl := List.mem_singleton.mp hu
      obtain rfl : l = m := Option.some.inj (hl.symm.trans hm)
      rw [if_pos ⟨rfl, rfl⟩, hgroup, hga, Option.map_some]
  · rw [group_modGroup, if_neg fun he => (hne t (by simp)).elim (fun h => h he.1.symm) fun h => h he.2.symm]
    exact h.others team g fun d hd => hne d (List.mem_append_left _ hd)

theorem ScalarsDone.fold {a : State} {sl : Slot} {word : Word} {val : Lane → List (Nat × Word)} {f : Lane → State → State} (hf : WritesScalars a sl val f) :
    ∀ (l ds : List Tid) (b : State), (∀ t ∈ l, ∃ ln, lane? a t sl.fid word = some ln) → ((ds ++ l).map fun t => t.group).Nodup →
      ScalarsDone a b sl word val ds →
      ScalarsDone a (l.foldl (fun s t => match lane? s t sl.fid word with | some ln => f ln s | none => s) b) sl word val (ds ++ l)
  | [], ds, b, _, _, h => by simpa using h
  | t :: l, ds, b, hlane, hnodup, h => by
    obtain ⟨ln, hl⟩ := hlane t List.mem_cons_self
    have hnew : ∀ d ∈ ds, d.team ≠ t.team ∨ d.group ≠ t.group := fun d hd => .inr fun he => by
      rw [List.map_append, List.nodup_append] at hnodup
      exact hnodup.2.2 _ (List.mem_map_of_mem hd) _ (by simp) he
    have hrest := ScalarsDone.fold hf l (ds ++ [t]) _ (fun u hu => hlane u (List.mem_cons_of_mem _ hu)) (by simpa using hnodup) (h.step hf hnew hl)
    simpa using hrest

/-- An instruction of a ready flock that each group performs once to write its scalars. -/
theorem perGroup_scalars {i : Instr} {s : State} {sl : Slot} {word : Word} {u : Uses} (hready : Ready s sl word u noHold) {st : BitVec 2}
    {f : Slot → Lane → State → State} {val : Lane → List (Nat × Word)} (hexec : exec i s = .next (issue word st u (fun sl => perGroup (f sl) word sl) s))
    (hf : WritesScalars (atIssue s sl) sl val (f sl)) :
    ∃ mid, exec i s = .next (issued s sl st u mid) ∧ ScalarsWrite (atIssue s sl) mid sl (groupLeaders (lanesOf s sl u)) word val := by
  refine ⟨perGroup (f sl) word sl (lanesOf s sl u) (atIssue s sl), hexec.trans (congrArg _ (issueHold_ready hready st _)), ?_⟩
  obtain ⟨honly, hdone, hothers, hbare⟩ := ScalarsDone.fold hf (groupLeaders (lanesOf s sl u)) [] (atIssue s sl)
    (fun t ht => lanesOf_lane hready t (groupLeaders_mem ht)) (by rw [List.nil_append, groupLeaders_groups]; exact dedup_nodup _)
    ⟨rfl, by simp, fun _ _ _ => rfl, rfl⟩
  exact ⟨honly, hdone, hothers, hbare⟩

/-! ### The scalar instructions (R313) -/

/-- A scalar form whose value comes from the leader's group and registers. -/
theorem scalarOp_result {i : Instr} {word : Word} {e : ScalarOp} {u : Uses} {d : BitVec 6} {f : Lane → Word} (hexec : ∀ s, exec i s = scalarOp word e.st u d f s)
    (huses : e.uses = { u with ws := [d.toNat] }) (hval : ∀ l, e.val l = [(d.toNat, f l)]) (hown : ∀ l k, SameGroup l k → f k = f l)
    {s : State} {sl : Slot} (hready : Ready s sl word e.uses noHold) :
    ∃ mid, exec i s = .next (issued s sl e.st e.uses mid) ∧ ScalarsWrite (atIssue s sl) mid sl (groupLeaders (lanesOf s sl e.uses)) word e.val := by
  refine perGroup_scalars hready (by rw [huses]; exact hexec s) fun l k b honly hsame => ?_
  simp only [writeS, hsame.tid, hown l k hsame, hval, mkDue_only honly, List.map_cons, List.map_nil]

theorem opB_eq (i : BitVec 1) (b : BitVec 6) (l : Lane) : opB i b l = scalarB i b l.g := by simp only [opB, scalarB, beq_iff_eq]

theorem salu_result {i : Instr} {word : Word} {st : BitVec 2} {d a b : BitVec 6} {im : BitVec 1} {f : Word → Word → Word}
    (hexec : ∀ s, exec i s = salu word st d a b im f s) {s : State} {sl : Slot} (hready : Ready s sl word (sform st d a b im f).uses noHold) :
    ∃ mid, exec i s = .next (issued s sl st (sform st d a b im f).uses mid) ∧
      ScalarsWrite (atIssue s sl) mid sl (groupLeaders (lanesOf s sl (sform st d a b im f).uses)) word (sform st d a b im f).val :=
  scalarOp_result (e := sform st d a b im f) hexec rfl (fun l => by simp only [sform, opB_eq]) (fun l k h => by simp only [h.g]) hready

theorem scalarResult : ScalarResult scalarTable := by
  intro i word e hw he s sl hready
  cases i
  case sadd | ssub | smul | sand | sor | sxor | sshl | sshr | smin | smax =>
    cases hw; cases he
    exact salu_result (fun _ => rfl) hready
  case smov d b im st =>
    cases hw; cases he
    exact scalarOp_result (u := { Uses.none cAlu with rs := readsB im b }) (d := d) (f := fun l => scalarB im b l.g) (fun _ => rfl) rfl
      (fun l => by simp only [opB_eq]) (fun l k h => by simp only [h.g]) hready
  case sfrom d a st =>
    cases hw; cases he
    exact scalarOp_result (u := { Uses.none cAlu with rv := [(a.toNat, 1)], lead := 1 }) (d := d) (f := fun l => rdV l.th a.toNat) (fun _ => rfl) rfl
      (fun _ => rfl) (fun l k h => by simp only [h.th]) hready
  all_goals cases he

/-! ### Base registers (R122, R314) -/

theorem baseOp_result {i : Instr} {word : Word} {e : BaseOp} {u : Uses} {d : BitVec 6} {f : Lane → VAddr} (hexec : ∀ s, exec i s = baseOp word e.st u d f s)
    (huses : e.uses = { u with wb := [d.toNat] }) (hdst : e.dst = d.toNat) (hval : ∀ l, e.val l = f l)
    {s : State} {sl : Slot} (hready : Ready s sl word e.uses noHold) {l : Lane} (hl : leader s sl e.uses word = some l) :
    exec i s = .next (issued s sl e.st e.uses (modTeam (atIssue s sl) l.tid.team fun t =>
      { t with bdue := t.bdue ++ [mkDue (atIssue s sl) sl.core sl.fid 4 (.b e.dst) (e.val l)] })) := by
  rw [hexec, baseOp, ← huses]
  refine congrArg Host.Outcome.next ((issueHold_ready hready e.st _).trans (congrArg _ ?_))
  unfold leader at hl
  unfold perTeam
  split at hl
  · next t hmin => simp only [hmin, hl, writeB, hdst, hval]
  · cases hl

theorem baseResult : BaseResult := by
  intro i word e hw he s sl l hready hl
  cases i
  case bset d a b im st =>
    cases hw; cases he
    exact baseOp_result (u := { Uses.none cAlu with rs := [a.toNat, a.toNat + 1] ++ readsB im b }) (d := d)
      (f := fun l => (scalarB im b l.g).extractLsb' 0 16 ++ rdS64 l.g a.toNat) (fun _ => rfl) rfl rfl (fun l => by simp only [opB_eq]) hready hl
  case badd d a b im st =>
    cases hw; cases he
    exact baseOp_result (u := { Uses.none cAlu with rb := [a.toNat], rs := if im == 1#1 then [] else [b.toNat, b.toNat + 1] }) (d := d)
      (f := fun l => rdB l.tm l.th a.toNat + (if im == 1#1 then b.setWidth 80 else (rdS64 l.g b.toNat).signExtend 80)) (fun _ => rfl) rfl rfl
      (fun l => by simp only [beq_iff_eq]) hready hl
  case bmov d a st =>
    cases hw; cases he
    exact baseOp_result (u := { Uses.none cAlu with rb := [a.toNat] }) (d := d) (f := fun l => rdB l.tm l.th a.toNat) (fun _ => rfl) rfl rfl (fun _ => rfl) hready hl
  all_goals cases he

theorem baseRead : BaseRead := by
  intro d a b st word hw s sl u val hready
  cases hw
  refine perGroup_scalars hready rfl fun l k x honly hsame => ?_
  have hzero : (b.toNat == 0) = true ↔ b = 0#6 := by rw [beq_iff_eq, BitVec.toNat_eq]; rfl
  have hval : rdB k.tm k.th a.toNat = rdB l.tm l.th a.toNat := sameGroup_rdB hsame _
  simp only [hzero, hval, hsame.tid, val]
  have hdue : ∀ f y, mkDue (modGroup y l.tid.team l.tid.group f) sl.core sl.fid 4 = mkDue y sl.core sl.fid 4 := fun _ _ => rfl
  split
  · simp only [writeS, modGroup_modGroup, hdue, mkDue_only honly, List.map_cons, List.map_nil, Function.comp_def, List.append_assoc, List.cons_append, List.nil_append]
  · simp only [writeS, mkDue_only honly, List.map_cons, List.map_nil]

/-- Settles O30: base writes are made by the flock's lowest lane, base reads by the lowest lane of each group. -/
theorem baseRegisterResults : Obligations.BaseRegisterResults := ⟨baseResult, baseRead⟩

end Sys2Proof.Proofs
end

section
/-! PROOF. Scalar loads (R341), and O29. -/

namespace Sys2Proof.Proofs

open Machine Claims Laws

/-- A group update that leaves the threads of every other lane leaves every other thread. -/
theorem thread_modGroup_other {s : State} {t : Tid} {f : Machine.Group → Machine.Group} (hf : ∀ g c, c ≠ t.lane → (f g).threads[c]? = g.threads[c]?)
    {k : Tid} (hk : k ≠ t) : thread? (modGroup s t.team t.group f) k = thread? s k := by
  simp only [thread?, group_modGroup]
  by_cases hg : k.team = t.team ∧ k.group = t.group
  · rw [if_pos hg]
    cases group? s k.team k.group with
    | none => rfl
    | some g =>
      refine hf g k.lane fun hlane => hk ?_
      cases k
      cases t
      simp_all
  · rw [if_neg hg]

/-! ### The access of a scalar load -/

/-- The queue entry of a request of a lane. -/
def queued (l : Lane) (r : Req) (inst id : Nat) : Access := { r.access id inst l.th.pc.off true with pos := some l.th.pc }

theorem queued_fresh (l : Lane) (r : Req) (inst id : Nat) : Fresh l (queued l r inst id) :=
  ⟨rfl, rfl, rfl, rfl, rfl, rfl, rfl⟩

/-- What a scalar load of a lane changes in its group: the entry joins the lane's queue, and the destinations are pending. -/
def scalarQueued (lane : Nat) (r : Req) (pc : Word) (inst id : Nat) (g : Machine.Group) : Machine.Group :=
  { g with threads := updAt lane (fun th => { th with queue := th.queue ++ [{ r.access id inst pc true with pos := some th.pc }] }) g.threads
           spend := g.spend ++ (r.op.dests r.size).map fun d => ⟨d, .load, id⟩ }

theorem actPre_scalar {s : State} {t : Tid} {th : Thread} {tm : Team} (hth : thread? s t = some th) (htm : team? s t.team = some tm) {r : Req} {sd : Nat}
    (hop : r.op = .scalar sd) (hord : r.ord = 6) (inst : Nat) :
    actPre s t inst (.go r none) = modGroup { s with nextId := s.nextId + 3 } t.team t.group (scalarQueued t.lane r th.pc.off inst s.nextId) := by
  simp only [actPre, hth, htm, enqueue, hord, codeScope, hop, List.append_nil]
  rw [modThread, modGroup_modGroup]
  refine congrArg (modGroup _ _ _) (funext fun g => ?_)
  simp only [Function.comp_apply, scalarQueued, hop]

theorem formAddr_lt {base off va : Nat} (h : formAddr base off = some va) : va < 2 ^ 80 := by
  unfold formAddr at h
  dsimp only at h
  split at h
  · cases h
  · next hsum =>
    split at h
    · cases h
    · obtain rfl := Option.some.inj h
      simp only [Bool.or_eq_true, decide_eq_true_eq, not_or, not_le] at hsum
      exact hsum.1.1

/-- A constant load of home memory stands outside the rules of worlds, tasks and sets. -/
theorem taskRules_constant {s : State} {tm : Team} {r : Req} {va sd : Nat} (hop : r.op = .scalar sd) (hord : r.ord = 6) : taskRules s tm r va = .go r none := by
  simp [taskRules, hop, hord]

/-- A constant load that forms an unlocked address of home memory passes the checks of a global access, which fill in where it goes. -/
theorem globalChecks_constant {s : State} {tm : Team} {r : Req} {base off va sd : Nat} (hop : r.op = .scalar sd) (hord : r.ord = 6)
    (hva : formAddr base off = some va) (hreg : regionNo va = 0) (hlock : lockHit s tm.core tm.ctx false r.op.stores va r.size = false) :
    ∃ pa lease, globalChecks s tm kindRead r base off = .go { r with va := BitVec.ofNat 80 va, space := spaceOf va, pa := pa, lease := lease } none := by
  have hstores : r.op.stores = false := by rw [hop]; rfl
  have hkind : (kindRead == kindAtomic) = false := rfl
  simp only [globalChecks, hva, hreg, hkind]
  rw [if_neg (by simp), if_neg (by simp), taskRules_constant (sd := sd)]
  case hop => exact hop
  case hord => exact hord
  dsimp only
  rw [if_neg (by rw [hlock]; exact Bool.false_ne_true)]
  simp only [hstores, Bool.false_and, Bool.false_eq_true, if_false]
  split
  · exact ⟨_, _, rfl⟩
  · exact ⟨_, _, rfl⟩

/-- A constant load that reaches its memory passes its checks with the address it names, outside every view. -/
theorem memChecks_scalar {l : Lane} {b off n sd : Nat} (h : Reaches l b off n (.scalar sd) 6) :
    ∃ r, memChecks l kindRead (mkReq (.scalar sd) n 6#3 []) b off = .go r none ∧ r.op = .scalar sd ∧ r.va.toNat = (rdB l.tm l.th b).toNat + off ∧
      r.size = n ∧ r.ord = 6 ∧ r.view = 0 := by
  have hlt := formAddr_lt h.forms
  obtain ⟨pa, lease, hgo⟩ := globalChecks_constant (r := { mkReq (.scalar sd) n 6#3 [] with view := 0 }) rfl rfl h.forms (h.const rfl) h.unlocked
  refine ⟨_, Eq.trans ?_ hgo, rfl, (BitVec.toNat_ofNat _ _).trans (Nat.mod_eq_of_lt hlt), rfl, rfl, rfl⟩
  simp only [memChecks, Nat.mod_eq_of_lt hlt, mkReq, h.aligned]
  rw [if_neg (by simp)]
  split
  · next x hroutine hb => rw [h.own (beq_iff_eq.mp hb)] at hroutine; cases hroutine
  · rfl

theorem lane_withNextId {s : State} {t : Tid} {fid : Nat} {word : Word} {l : Lane} (h : lane? s t fid word = some l) (n : Nat) :
    lane? { s with nextId := n } t fid word = some { l with s := { s with nextId := n } } := by
  obtain ⟨htm, hg, hth, hs, htid, hfid, hword⟩ := lane_some h
  have htm' : team? { s with nextId := n } t.team = some l.tm := htm
  simp only [lane?, htm', hg, hth, htid, hfid, hword]

/-! ### O29 -/

/-- The one scalar load of a flock with one group joins its lane's queue. -/
theorem sldOp_result {i : Instr} {word : Word} {st : BitVec 2} {n : Nat} {d a b : BitVec 6} {im : BitVec 1} (hexec : ∀ s, exec i s = sldOp word st n d a b im s)
    {s : State} {sl : Slot} {t : Tid} {l : Lane} {u : Uses} {off : Lane → Nat}
    (hu : u = { Uses.none cMem with rb := [a.toNat], rs := readsB im b, ws := (upto (n / 4)).map (d.toNat + ·), lead := 1 })
    (hoff : off = fun l => if im == 1#1 then 4 * b.toNat else (rdS l.g b.toNat).toNat)
    (hready : Ready s sl word u (memHold 6 (laneAddr a.toNat off))) (hgroups : groupLeaders (lanesOf s sl u) = [t])
    (hl : lane? (atIssue s sl) t sl.fid word = some l) (hreach : Reaches l a.toNat (off l) n (.scalar d.toNat) 6) :
    ∃ r, exec i s = .next (issued s sl st u (modGroup { atIssue s sl with nextId := (atIssue s sl).nextId + 1 + 3 } t.team t.group
        (scalarQueued t.lane r l.th.pc.off (atIssue s sl).nextId ((atIssue s sl).nextId + 1)))) ∧
      r.op = .scalar d.toNat ∧ r.va.toNat = (rdB l.tm l.th a.toNat).toNat + off l ∧ r.size = n ∧ r.ord = 6 ∧ r.view = 0 := by
  obtain ⟨htm, -, -, hs, htid, -⟩ := lane_some hl
  have hreach' : Reaches { l with s := { atIssue s sl with nextId := (atIssue s sl).nextId + 1 } } a.toNat (off l) n (.scalar d.toNat) 6 := by
    obtain ⟨hown, hforms, haligned, hconst, hhost, hpeer, hunlocked, hworld, hloads, hstores⟩ := hreach
    rw [hs] at hpeer hunlocked hloads hstores
    exact ⟨hown, hforms, haligned, hconst, hhost, hpeer, hunlocked, hworld, hloads, hstores⟩
  obtain ⟨r, hr, hop, hva, hsize, hord, hview⟩ := memChecks_scalar hreach'
  refine ⟨r, ?_, hop, hva, hsize, hord, hview⟩
  rw [hexec, sldOp]
  subst hu hoff
  refine congrArg Host.Outcome.next ((issueHold_ready hready st _).trans (congrArg _ ?_))
  have hone : ∀ (f : Lane → State → State) (x : State), perLane f word sl [t] x = match lane? x t sl.fid word with | some ln => f ln x | none => x := fun _ _ => rfl
  have hlane := lane_withNextId hl ((atIssue s sl).nextId + 1)
  simp only [memEffect, hgroups, hone, hlane, hr]
  rw [htid]
  exact actPre_scalar (lane_thread hlane) (lane_some hlane).1 hop hord _

theorem scalarLoads : ScalarLoads := by
  intro wide d a b i st word hw s sl t l n off u hready hgroups hl hreach
  have hoff : off = fun l => if i == 1#1 then 4 * b.toNat else (rdS l.g b.toNat).toNat := by simp only [off, beq_iff_eq]
  have hexec : ∀ s, exec (if wide then .sldB64 d a b i st else .sldB32 d a b i st) s = sldOp word st n d a b i s := by
    cases wide
    · cases hw; exact fun _ => rfl
    · cases hw; exact fun _ => rfl
  obtain ⟨r, hr, hop, hva, hsize, hord, hview⟩ := sldOp_result hexec (u := u) rfl hoff hready hgroups hl hreach
  obtain ⟨htm, hg, hth, -⟩ := lane_some hl
  have hgroup : group? (atIssue s sl) t.team t.group = some l.g := by simp only [group?, htm, hg]
  have hgroup' : ∀ f n, group? (modGroup { atIssue s sl with nextId := n } t.team t.group f) t.team t.group = some (f l.g) := fun f n => by
    rw [group_modGroup, if_pos ⟨rfl, rfl⟩]
    exact (congrArg _ hgroup).trans rfl
  refine ⟨_, queued l r (atIssue s sl).nextId ((atIssue s sl).nextId + 1), hr, rfl, queued_fresh .., hop, hva, hsize, hord, hview, ⟨_, hgroup' _ _, ?_, rfl⟩, ?_, fun k hk => ?_⟩
  · simp only [scalarQueued, hop, hsize, AccOp.dests, List.map_map]
    rfl
  · simp only [thread?, hgroup', scalarQueued, updAt_get, if_true, hth, Option.map_some]
    rfl
  · exact thread_modGroup_other (fun g c hc => by simp [scalarQueued, updAt_get, Ne.symm hc]) hk

/-- Settles O29: the lowest lane of each group writes once, and `sld` joins that lane's queue. -/
theorem scalarResults : Obligations.ScalarResults := ⟨scalarResult, scalarLoads⟩

end Sys2Proof.Proofs
end

section
/-! PROOF. Collectives against two teams of one id, and O34 (R110, R370). -/

namespace Sys2Proof.Proofs

open Machine Claims Laws

/-! ### The rendezvous of the groups, and what leaves them alone -/

/-- The rendezvous of every group of every team. -/
def rdvsOf (s : State) : List (List (List Rdv)) := s.teams.map fun t => t.groups.map fun g => g.rdv

theorem rdvsOf_sameTeams {a b : State} (h : SameTeams a b) : rdvsOf b = rdvsOf a := by
  have hshape : ∀ l : List Team, (l.map fun t => t.groups.map fun g => g.rdv) = (l.map teamShape).map fun t => t.groups.map fun g => g.rdv := fun l => by
    simp [teamShape, Function.comp_def]
  exact (hshape _).trans ((congrArg _ h).trans (hshape _).symm)

theorem rdvsOf_bump (s : State) (team n k : Nat) : rdvsOf (bump s team n k) = rdvsOf s := by
  simp only [rdvsOf, bump, modTeam, updWhere, List.map_map]
  refine List.map_congr_left fun t _ => ?_
  simp only [Function.comp_apply]
  split <;> rfl

theorem rdvsOf_advance (fl : List Tid) (s : State) : rdvsOf (fl.foldl (fun s t => modThread s t advance) s) = rdvsOf s := by
  induction fl generalizing s with
  | nil => rfl
  | cons t fl ih => exact (ih _).trans (rdvsOf_sameTeams (modThread_sameTeams s t advance))

theorem rdvsOf_teamProgress (s : State) (team : Nat) : rdvsOf (teamProgress s team) = rdvsOf s := by
  unfold teamProgress
  split <;> rfl

/-- A word within its clause leaves the rendezvous alone as it retires. -/
theorem rdvsOf_retire {p : Pc} (hp : 1 < wordsLeft p) (key : Nat) (st : BitVec 2) (u : Uses) (n : Nat) (s : State) : rdvsOf (retire key p st u n s) = rdvsOf s := by
  unfold retire
  split
  · rfl
  · next sl _ =>
    rw [if_neg (by omega)]
    have hmod : ∀ f, rdvsOf (modSlot (sl.flock.foldl (fun s t => modThread s t advance) s) key f) = rdvsOf s := fun f => rdvsOf_advance sl.flock s
    split
    · rw [rdvsOf_bump, rdvsOf_bump, hmod]
    · exact hmod _

theorem rdvsOf_issued {s : State} {sl : Slot} (hp : 1 < wordsLeft (posOf s sl)) (st : BitVec 2) (u : Uses) (mid : State) : rdvsOf (issued s sl st u mid) = rdvsOf mid := by
  rw [issued, rdvsOf_retire hp, rdvsOf_teamProgress]

/-! ### Two teams of one id -/

/-- The first of two words of a clause. -/
def earlyPc : Pc := { loadPc with hword := 0xFCB00000 }

/-- Lane 0, the one live thread of its group, names itself as the group. -/
def soleMember : Thread := { Thread.start 0 with pc := earlyPc, gmask := 1 }

def soleTeam : Team :=
  { loadTeam 2 1 1 0 with groups := [{ loadGroup with threads := soleMember :: List.replicate 31 { Thread.start 0 with life := .retired } }] }

/-- A second entry with the id of that team, whose group stands at a rendezvous of the same offset. -/
def shadowTeam : Team := { loadTeam 2 1 1 0 with groups := [{ loadGroup with threads := [], rdv := [⟨earlyPc.off, 0, []⟩] }] }

def electWord : Word := encA 49#6 6#3 1 0#7 0#7 0

def soleSlot : Slot :=
  { core := 0, quad := 0, k := 0, flock := [⟨2, 0, 0⟩], fid := 1, due := 0, lastClass := none, paid := false, stalled := false, yielded := false, low := [] }

/-- The machine in which lane 0 issues `elect p1`. -/
def shadowedState : State :=
  { loadWord State.reset electWord with
    cur := some 0
    teams := [soleTeam, shadowTeam]
    slots := [soleSlot] }

def electUses : Uses := { Uses.none cLong with wp := [1] }

theorem shadowed_ready : Ready shadowedState soleSlot electWord electUses noHold := ready_of (by decide +kernel)

theorem shadowed_whole : WholeGroup shadowedState soleSlot electUses := by
  have hlanes : lanesOf shadowedState soleSlot electUses = [⟨2, 0, 0⟩] := by decide +kernel
  refine ⟨by decide +kernel, by rw [hlanes]; exact List.cons_ne_nil _ _, 0, soleTeam.groups.getD 0 loadGroup, 1, by decide +kernel, rfl, ?_, ?_⟩
  · rw [hlanes]
    intro t ht
    obtain rfl := List.mem_singleton.mp ht
    exact ⟨rfl, rfl, by decide +kernel⟩
  · rw [hlanes]
    intro c hc hm
    refine .inl ⟨_, List.mem_singleton.mpr rfl, ?_⟩
    revert c
    decide

/-- What a state's groups wait for. -/
def rdvsAfter (o : Host.Outcome State Fault Refusal) : List (List (List Rdv)) := match o with | .next r => rdvsOf r | _ => []

/-- The completed collective takes the second team's rendezvous along. -/
theorem shadowed_dropped : rdvsAfter (exec (.elect 1 0) shadowedState) ≠ rdvsOf (atIssue shadowedState soleSlot) := by decide +kernel

/-- Refutes O34: groups are changed by the id of their team, so of two teams with one id (which no run of the machine makes, but which the
statement's states may hold) the second loses a rendezvous at the same offset when the first one's completes. -/
theorem not_collectiveResults : ¬ Obligations.CollectiveResults := by
  intro h
  obtain ⟨mid, hexec, -, -, -, hsame⟩ := h.1 (.elect 1 0) electWord _ rfl rfl shadowedState soleSlot shadowed_ready shadowed_whole
  have hkept : rdvsAfter (exec (.elect 1 0) shadowedState) = rdvsOf (atIssue shadowedState soleSlot) := by
    rw [hexec, rdvsAfter, rdvsOf_issued (by decide +kernel), rdvsOf_sameTeams hsame]
  exact shadowed_dropped hkept

end Sys2Proof.Proofs
end

section
/-! PROOF. Launches and host signals (R38, R225, R359, R363). -/

namespace Sys2Proof.Proofs

open Machine Claims Laws

/-! ### A lane leaves its flock -/

theorem leaveFlock_slots (s : State) (t : Tid) : (leaveFlock s t).slots = s.slots.map fun sl => { sl with flock := sl.flock.filter fun u => u ≠ t } := by
  simp only [leaveFlock, updWhere]
  refine List.map_congr_left fun sl _ => ?_
  split
  · rfl
  · next hno =>
    have hsame : sl.flock.filter (fun u => decide (u ≠ t)) = sl.flock := List.filter_eq_self.mpr fun u hu => by
      have : u ≠ t := fun e => hno (by simpa [e] using hu)
      simpa using this
    rw [hsame]

/-- A lane that starts to wait leaves its flock, and nothing else changes. -/
theorem lanesLeave_startWait {x y : State} {t : Tid} {l : Lane} {fid : Nat} {word : Word} (hl : lane? x t fid word = some l) (hteams : y.teams = x.teams)
    (hslots : y.slots = x.slots) (hframe : y = { x with nextId := y.nextId }) (w : Wait) :
    LanesLeave x (startWait y t w) [t] fid word fun k th => th = { k.th with wait := some w } := by
  have hthreads : ∀ u, thread? (leaveFlock y t) u = thread? x u := fun u => thread_of_teams hteams u
  refine ⟨?_, ?_, fun u hu k hk => ?_, fun u hu => ?_, ?_⟩
  · rw [hframe]
    rfl
  · rw [show (startWait y t w).slots = (leaveFlock y t).slots from rfl, leaveFlock_slots, hslots]
    simp
  · obtain rfl := List.mem_singleton.mp hu
    refine ⟨_, ?_, rfl⟩
    rw [startWait, thread_modThread, if_pos rfl, hthreads, lane_thread hk]
    rfl
  · rw [startWait, thread_modThread, if_neg (by simpa using hu), hthreads]
  · have h := modThread_sameTeams (leaveFlock y t) t fun th => { th with wait := some w }
    rw [SameTeams, leaveFlock_teams, hteams] at h
    exact h

/-! ### Instructions of a flock with one group -/

theorem perGroup_one {f : Lane → State → State} {word : Word} {sl : Slot} {ts : List Tid} {x : State} {t : Tid} {l : Lane} (hone : groupLeaders ts = [t])
    (hl : lane? x t sl.fid word = some l) : perGroup f word sl ts x = f l x := by
  simp only [perGroup, hone, List.foldl_cons, List.foldl_nil, hl]

theorem perGroupAll_one {f : Lane → List Tid → State → State} {word : Word} {sl : Slot} {ts : List Tid} {x : State} {t : Tid} {l : Lane}
    (hone : groupLeaders ts = [t]) (hl : lane? x t sl.fid word = some l) : perGroupAll f word sl ts x = f l ts x := by
  have hgroups : ∀ u ∈ ts, u.group = t.group := fun u hu => by
    have hmem := (mem_dedup u.group (ts.map fun t => t.group)).mpr (List.mem_map_of_mem hu)
    rw [← groupLeaders_groups, hone] at hmem
    simpa using hmem
  have hall : ts.filter (fun u => u.group == t.group) = ts := List.filter_eq_self.mpr fun u hu => beq_iff_eq.mpr (hgroups u hu)
  simp only [perGroupAll, hone, List.foldl_cons, List.foldl_nil, hl, hall]

/-! ### Operations that are deferred (R225) -/

theorem deferOp_room {s : State} {l : Lane} (hroom : deferCount s l.tm < deferCap s l.tm) (kind : Nat) (addr : VAddr) (value : Word) :
    deferOp kind addr value l s = { s with deferred := s.deferred ++ [⟨l.tid, (deferKey l.tm).1, (deferKey l.tm).2, kind, addr, value, none, l.th.pc.off⟩] } := by
  rw [deferOp, if_neg (by omega)]

/-! ### `sig.host` (R363) -/

theorem sigBy_deferred {a : Nat} {l : Lane} {s : State} (hd : defers l.tm = true) (hroom : deferCount s l.tm < deferCap s l.tm) (ts : List Tid) :
    sigBy a l ts s = { s with deferred := s.deferred ++ [⟨l.tid, (deferKey l.tm).1, (deferKey l.tm).2, 0, 0, rdS l.g a, none, l.th.pc.off⟩] } := by
  rw [sigBy]
  simp only [hd, if_true]
  exact deferOp_room hroom 0 0 _

theorem sigBy_raised {a : Nat} {l : Lane} {s : State} {c : Context} (hd : defers l.tm = false) (hc : ctx? s l.tm.ctx = some c)
    (hvec : (rdS l.g a).toNat < c.vecCount) (ts : List Tid) :
    sigBy a l ts s = { s with host := { s.host with sigs := s.host.sigs ++ [(ts, c.msix, c.vecBase + (rdS l.g a).toNat)] } } := by
  rw [sigBy]
  simp only [hd, Bool.false_eq_true, if_false, hc]
  rw [if_neg (by omega)]

theorem signals : Signals := by
  intro a st word hw s sl t l u x i hready hone hl
  cases hw
  have hexec : ∀ y, sigBy a.toNat l (lanesOf s sl u) x = y → exec (.sigHost a st) s = .next (issued s sl st u y) := fun y hy => by
    rw [← hy, ← perGroupAll_one (f := sigBy a.toNat) hone hl]
    exact congrArg Host.Outcome.next (issueHold_ready hready st _)
  obtain ⟨-, -, -, -, htid, -⟩ := lane_some hl
  refine ⟨fun hd hroom => hexec _ ?_, fun hd c hc hvec => hexec _ (sigBy_raised hd hc hvec _)⟩
  rw [sigBy_deferred hd hroom, htid]

/-! ### `launch` (R359) -/

theorem objectAt_home {n a off va : Nat} {l : Lane} (hva : (rdB l.tm l.th a).toNat + off = va) (haligned : va % n = 0) (hlt : va < 2 ^ 76) :
    objectAt n a off l = .ok va := by
  have hmod : va % 2 ^ 80 = va := Nat.mod_eq_of_lt (by omega)
  have hregion : regionNo va = 0 := Nat.div_eq_of_lt hlt
  simp only [objectAt, hva, hmod, haligned, hregion]
  rw [if_neg (by simp), if_neg (by simp), if_neg (by omega)]

/-- A grid whose record names no wait-on word is ready as it is queued. -/
theorem queueGrid_ready {s : State} {c : Context} {addr : VAddr} {rd : Loaded} (h : rd.record.waitOn = 0) :
    queueGrid s c addr rd = modGrid { s with nextId := s.nextId + 1, launchSeq := s.launchSeq + 1, grids := s.grids ++ [gridOf s.nextId c addr rd s.launchSeq false]
                                             sets := rd.sets } s.nextId fun g => { g with ready := true } := by
  have hwait : (gridOf s.nextId c addr rd s.launchSeq false).record.waitOn = 0 := h
  rw [queueGrid, checkReady]
  simp only [hwait]
  rfl

/-- The launch as it stands in the controller's queue. -/
def launchOf (l : Lane) (va seq : Nat) : LaunchWait := ⟨l.tid, l.tm.ctx, BitVec.ofNat 80 va, seq, none, false, l.th.pc.off⟩

/-- The state with a launch of the lane queued. -/
def launchQueued (l : Lane) (va : Nat) (x : State) : State := { x with nextId := x.nextId + 1, launches := x.launches ++ [launchOf l va x.nextId] }

section
variable {a b : BitVec 6} {l : Lane} {x : State} {va : Nat} (hva : (rdB l.tm l.th a.toNat).toNat + (rdS l.g b.toNat).toNat = va) (haligned : va % 256 = 0)
  (hlt : va < 2 ^ 76)
include hva haligned hlt

theorem launchBy_deferred (hd : defers l.tm = true) (hroom : deferCount x l.tm < deferCap x l.tm) :
    launchBy a.toNat b.toNat l x =
      { x with deferred := x.deferred ++ [⟨l.tid, (deferKey l.tm).1, (deferKey l.tm).2, 1, BitVec.ofNat 80 va, 0, none, l.th.pc.off⟩] } := by
  rw [launchBy, objectAt_home hva haligned hlt]
  simp only [hd, if_true]
  exact deferOp_room hroom 1 _ 0

theorem launchBy_queued (hd : defers l.tm = false) {c : Context} (hc : ctx? x l.tm.ctx = some c) {y : State}
    (hy : (if launchReady (launchQueued l va x) (launchOf l va x.nextId) c then takeLaunch (launchQueued l va x) (launchOf l va x.nextId) c else launchQueued l va x) = y) :
    launchBy a.toNat b.toNat l x = if y.launches.any (fun k => k.seq == x.nextId) then startWait y l.tid (.launch (BitVec.ofNat 80 va)) else y := by
  have hctx : ctx? { x with nextId := x.nextId + 1, launches := x.launches ++ [⟨l.tid, l.tm.ctx, BitVec.ofNat 80 va, x.nextId, none, false, l.th.pc.off⟩] } l.tm.ctx =
      some c := hc
  rw [launchBy, objectAt_home hva haligned hlt, ← hy]
  simp only [hd, Bool.false_eq_true, if_false, hctx]
  rfl

/-- The controller has no room, or the lane's release does not hold: the lane waits. -/
theorem launchBy_waits (hd : defers l.tm = false) {c : Context} (hc : ctx? x l.tm.ctx = some c)
    (hfull : launchReady (launchQueued l va x) (launchOf l va x.nextId) c = false) :
    launchBy a.toNat b.toNat l x = startWait (launchQueued l va x) l.tid (.launch (BitVec.ofNat 80 va)) := by
  rw [launchBy_queued hva haligned hlt hd hc (if_neg (by rw [hfull]; exact Bool.false_ne_true)), if_pos]
  simp [launchQueued, launchOf]

/-- The controller takes the launch, which leaves its queue. -/
theorem launchBy_taken (hd : defers l.tm = false) {c : Context} (hc : ctx? x l.tm.ctx = some c)
    (hroom : launchReady (launchQueued l va x) (launchOf l va x.nextId) c = true)
    (hgone : ∀ k ∈ (takeLaunch (launchQueued l va x) (launchOf l va x.nextId) c).launches, k.seq ≠ x.nextId) :
    launchBy a.toNat b.toNat l x = takeLaunch (launchQueued l va x) (launchOf l va x.nextId) c := by
  rw [launchBy_queued hva haligned hlt hd hc (if_pos hroom), if_neg]
  simpa using hgone

end

/-- A grid of a record, as the controller queues it. -/
def queuedGrid (c : Context) (addr : VAddr) (rd : Loaded) (z : State) : Grid := { gridOf z.nextId c addr rd z.launchSeq false with ready := true }

/-- A valid record of a launch that names no wait-on word becomes a ready grid. -/
structure GridQueued (z b : State) (c : Context) (addr : VAddr) (rd : Loaded) (seq : Nat) : Prop where
  ids : b.grids.map (fun k => k.id) = z.grids.map (fun k => k.id) ++ [z.nextId]
  grid : z.nextId ∉ z.grids.map (fun k => k.id) → grid? b z.nextId = some (queuedGrid c addr rd z)
  launchSeq : b.launchSeq = z.launchSeq + 1
  sets : b.sets = rd.sets
  launches : ∀ k ∈ b.launches, k.seq ≠ seq

theorem gridQueued_queueGrid {z : State} {c : Context} {addr : VAddr} {rd : Loaded} (h : rd.record.waitOn = 0) (seq : Nat) :
    GridQueued z (queueGrid (dropLaunch z seq) c addr rd) c addr rd seq := by
  rw [queueGrid_ready h]
  refine ⟨?_, fun hnew => ?_, rfl, rfl, fun k hk => ?_⟩
  · have hid : ∀ l : List Grid, (updWhere (fun g => g.id == z.nextId) (fun g => { g with ready := true }) l).map (fun k => k.id) = l.map fun k => k.id := fun l => by
      simp only [updWhere, List.map_map]
      refine List.map_congr_left fun g _ => ?_
      simp only [Function.comp_apply]
      split <;> rfl
    exact (hid _).trans (List.map_append ..)
  · have hfind : (z.grids ++ [gridOf z.nextId c addr rd z.launchSeq false]).find? (fun g => g.id == z.nextId) = some (gridOf z.nextId c addr rd z.launchSeq false) := by
      have hnone : z.grids.find? (fun g => g.id == z.nextId) = none := List.find?_eq_none.mpr fun g hg he => hnew (by
        rw [← beq_iff_eq.mp he]
        exact List.mem_map_of_mem hg)
      rw [List.find?_append, hnone]
      simp [gridOf]
    exact (find_updWhere_same (q := fun g : Grid => g.id == z.nextId) (f := fun g => { g with ready := true }) (fun _ h => h) _).trans (congrArg (Option.map _) hfind)
  · simpa using (List.mem_filter.mp hk).2

theorem takeLaunch_grid {y z : State} {w : LaunchWait} {c : Context} {rd : Loaded} (hvalid : validate y c w.addr = (.ok rd, z)) (hwait : rd.record.waitOn = 0)
    (hlane : w.deferred = false) : GridQueued z (takeLaunch y w c) c w.addr rd w.seq := by
  have h := gridQueued_queueGrid (z := z) (c := c) (addr := w.addr) hwait w.seq
  rw [takeLaunch, hvalid]
  simp only [hlane, Bool.false_eq_true, if_false]
  unfold teamProgress
  split
  · exact ⟨h.ids, h.grid, h.launchSeq, h.sets, h.launches⟩
  · exact ⟨h.ids, h.grid, h.launchSeq, h.sets, h.launches⟩

theorem launches : Launches := by
  intro a b st word hw s sl t l u x va w y hready hone hl haligned hlt
  cases hw
  obtain ⟨-, -, -, hs, rfl, -⟩ := lane_some hl
  have hexec : ∀ y, launchBy a.toNat b.toNat l x = y → exec (.launch a b st) s = .next (issued s sl st u y) := fun y hy => by
    rw [← hy, ← perGroup_one (f := launchBy a.toNat b.toNat) hone hl]
    exact congrArg Host.Outcome.next (issueHold_ready hready st _)
  refine ⟨fun hd hroom => hexec _ (launchBy_deferred rfl haligned hlt hd hroom), fun hd c hc hfull => ?_, fun hd c r z hc hroom hseq hvalid hwait => ?_⟩
  · refine ⟨_, hexec _ (launchBy_waits rfl haligned hlt hd hc hfull), ?_, rfl⟩
    exact lanesLeave_startWait (y := { x with nextId := x.nextId + 1 }) hl rfl rfl rfl (.launch w.addr)
  · have hq := takeLaunch_grid (w := w) hvalid hwait rfl
    exact ⟨_, queuedGrid c w.addr r z, hexec _ (launchBy_taken rfl haligned hlt hd hc hroom hq.launches), hq.ids, hq.grid, rfl, rfl, rfl, rfl, rfl, rfl, rfl,
      hq.launchSeq, hq.sets, hq.launches⟩

end Sys2Proof.Proofs
end

section
/-! PROOF. Threads that exit (R113, R114, R118, R360, R426). -/

namespace Sys2Proof.Proofs

open Machine Claims Laws

/-! ### The flags of retired groups -/

/-- A group with its flag as its threads have it. -/
def flagged (g : Machine.Group) : Machine.Group := { g with retired := g.threads.all fun th => th.life == .retired }

theorem team_retireGroups (s : State) (team id : Nat) :
    team? (retireGroups s team) id = if id = team then (team? s id).map fun t => { t with groups := t.groups.map flagged } else team? s id :=
  team_modTeam s team id _ fun _ => rfl

theorem thread_retireGroups (s : State) (team : Nat) (t : Tid) : thread? (retireGroups s team) t = thread? s t := by
  simp only [thread?, group?, team_retireGroups]
  by_cases h : t.team = team
  · rw [if_pos h]
    cases team? s t.team with
    | none => rfl
    | some tm =>
      simp only [Option.map_some, List.getElem?_map]
      cases tm.groups[t.group]? <;> rfl
  · rw [if_neg h]

/-- A team without what its threads hold and without the flags of its groups. -/
def exitShape (t : Team) : Team := { t with groups := t.groups.map fun (g : Machine.Group) => { g with threads := g.threads.map fun _ => Thread.start 0, retired := false } }

theorem exitShape_teamShape (t : Team) : exitShape (teamShape t) = exitShape t := by
  simp [exitShape, teamShape, Function.comp_def]

theorem exitShape_flagged (t : Team) : exitShape { t with groups := t.groups.map flagged } = exitShape t := by
  simp [exitShape, flagged, Function.comp_def]

theorem exitShapes_sameTeams {a b : State} (h : SameTeams a b) : b.teams.map exitShape = a.teams.map exitShape := by
  have hshape : ∀ l : List Team, (l.map teamShape).map exitShape = l.map exitShape := fun l => by
    simp only [List.map_map, Function.comp_def, exitShape_teamShape]
  rw [← hshape, ← hshape a.teams, h]

theorem exitShapes_retireGroups (s : State) (team : Nat) : (retireGroups s team).teams.map exitShape = s.teams.map exitShape := by
  simp only [retireGroups, modTeam, updWhere, List.map_map]
  refine List.map_congr_left fun t _ => ?_
  simp only [Function.comp_apply]
  split
  · exact exitShape_flagged t
  · rfl

theorem team_exitShape {a b : State} (h : b.teams.map exitShape = a.teams.map exitShape) (id : Nat) : (team? b id).map exitShape = (team? a id).map exitShape := by
  have hfind : ∀ l : List Team, (l.find? fun t => t.id == id).map exitShape = (l.map exitShape).find? fun t => t.id == id := fun l => by
    rw [List.find?_map]
    rfl
  simp only [team?, hfind, h]

theorem tidsOf_exitShape (t : Team) : tidsOf (exitShape t) = tidsOf t := by simp [tidsOf, exitShape]

/-! ### Threads that have exited -/

/-- A thread that has exited, provisionally inside a task. -/
def exitedThread (task : Bool) (th : Thread) : Thread := { th with life := if task then .provisional else .retired, jump := none }

/-- The threads `ts` of a team have exited. -/
structure Exited (x b : State) (team : Nat) (task : Bool) (ts : List Tid) : Prop where
  gone : ∀ t ∈ ts, ∀ th, thread? x t = some th → thread? b t = some (exitedThread task th)
  others : ∀ t, t ∉ ts → thread? b t = thread? x t
  shape : b.teams.map exitShape = x.teams.map exitShape
  flags : ts ≠ [] → ∀ tm, team? b team = some tm → ∀ g ∈ tm.groups, g.retired = g.threads.all fun th => th.life == .retired
  slots : b.slots = x.slots.map fun sl => { sl with flock := sl.flock.filter fun t => !ts.contains t }
  frame : b = { x with teams := b.teams, slots := b.slots }

theorem Exited.none (x : State) (team : Nat) (task : Bool) : Exited x x team task [] := by
  refine ⟨by simp, fun _ _ => rfl, rfl, fun h => absurd rfl h, ?_, rfl⟩
  simp

theorem Exited.team {x b : State} {team : Nat} {task : Bool} {ts : List Tid} (h : Exited x b team task ts) {id : Nat} {tm : Team} (htm : team? x id = some tm) :
    ∃ tm', team? b id = some tm' ∧ exitShape tm' = exitShape tm := by
  have hs := team_exitShape h.shape id
  rw [htm, Option.map_some] at hs
  exact Option.map_eq_some_iff.mp hs

/-- One thread more exits. -/
theorem Exited.step {x b : State} {team : Nat} {task : Bool} {ts : List Tid} (h : Exited x b team task ts) {l : Lane} (hnew : l.tid ∉ ts) (hteam : l.tid.team = team)
    (htask : l.tm.family.isSome = task) : Exited x (retireLane l b) team task (ts ++ [l.tid]) := by
  have hthread : ∀ u, thread? (retireLane l b) u = if u = l.tid then (thread? b u).map (exitedThread task) else thread? b u := fun u => by
    rw [retireLane, thread_retireGroups, thread_modThread, htask]
    rfl
  refine ⟨fun u hu th hth => ?_, fun u hu => ?_, ?_, fun _ tm htm g hg => ?_, ?_, ?_⟩
  · rw [hthread]
    rcases List.mem_append.mp hu with hu | hu
    · have hne : u ≠ l.tid := fun e => hnew (e ▸ hu)
      rw [if_neg hne]
      exact h.gone u hu th hth
    · obtain rfl := List.mem_singleton.mp hu
      rw [if_pos rfl, h.others _ hnew, hth]
      rfl
  · simp only [List.mem_append, List.mem_singleton, not_or] at hu
    rw [hthread, if_neg hu.2, h.others u hu.1]
  · rw [retireLane, exitShapes_retireGroups, exitShapes_sameTeams (modThread_sameTeams (leaveFlock b l.tid) l.tid _)]
    exact h.shape
  · rw [retireLane, team_retireGroups, if_pos hteam.symm] at htm
    obtain ⟨tm0, -, rfl⟩ := Option.map_eq_some_iff.mp htm
    obtain ⟨g0, -, rfl⟩ := List.mem_map.mp hg
    rfl
  · rw [show (retireLane l b).slots = (leaveFlock b l.tid).slots from rfl, leaveFlock_slots, h.slots, List.map_map]
    refine List.map_congr_left fun sl _ => ?_
    simp only [Function.comp_apply, List.filter_filter]
    congr 1
    refine List.filter_congr fun u _ => ?_
    simp [Bool.and_comm]
  · have hf := h.frame
    generalize hy : retireLane l b = y
    have hb : y = { b with teams := y.teams, slots := y.slots } := by rw [← hy]; rfl
    generalize y.teams = tms at hb ⊢
    generalize y.slots = sls at hb ⊢
    rw [hb, hf]

/-- A fold over distinct threads of `all`, each of which exits. -/
theorem Exited.fold {x : State} {team : Nat} {task : Bool} {all : List Tid} {g : State → Tid → State}
    (hg : ∀ b ts t, t ∈ all → t ∉ ts → (∀ u ∈ ts, u ∈ all) → Exited x b team task ts → Exited x (g b t) team task (ts ++ [t])) :
    ∀ (l ts : List Tid) (b : State), (ts ++ l).Nodup → (∀ t ∈ ts ++ l, t ∈ all) → Exited x b team task ts → Exited x (l.foldl g b) team task (ts ++ l)
  | [], ts, b, _, _, h => by simpa using h
  | t :: l, ts, b, hn, hall, h => by
    have hnew : t ∉ ts := fun ht => (List.nodup_append.mp hn).2.2 t ht t List.mem_cons_self rfl
    have hstep := hg b ts t (hall t (by simp)) hnew (fun u hu => hall u (List.mem_append_left _ hu)) h
    have hrest := Exited.fold hg l (ts ++ [t]) (g b t) (by simpa using hn) (by simpa using hall) hstep
    simpa using hrest

/-! ### Nothing waits for the exited threads -/

/-- A team at no rendezvous of its own or its groups', and at no barrier. -/
structure Unmet (tm : Team) : Prop where
  rdv : tm.rdv = []
  bars : tm.bars = []
  groups : ∀ g ∈ tm.groups, g.rdv = []

theorem unmet_exitShape {tm tm' : Team} (h : Unmet tm) (hs : exitShape tm' = exitShape tm) : Unmet tm' := by
  have hrdv : tm'.rdv = tm.rdv := by simpa [exitShape] using congrArg Team.rdv hs
  have hbars : tm'.bars = tm.bars := by simpa [exitShape] using congrArg Team.bars hs
  have hgroups : tm'.groups.map (fun g => g.rdv) = tm.groups.map fun g => g.rdv := by
    have := congrArg (fun t : Team => t.groups.map fun g => g.rdv) hs
    simpa [exitShape, Function.comp_def] using this
  refine ⟨hrdv.trans h.rdv, hbars.trans h.bars, fun g hg => ?_⟩
  have hmem : g.rdv ∈ tm.groups.map fun g => g.rdv := hgroups ▸ List.mem_map_of_mem hg
  obtain ⟨g0, hg0, he⟩ := List.mem_map.mp hmem
  exact he.symm.trans (h.groups g0 hg0)

theorem meetGroup_unmet {s : State} {team : Nat} {tm : Team} (htm : team? s team = some tm) (h : Unmet tm) (g : Nat) : meetGroup s team g = s := by
  unfold meetGroup group?
  rw [htm]
  dsimp only
  cases hg : tm.groups[g]? with
  | none => rfl
  | some gr =>
    have := h.groups gr (List.mem_of_getElem? hg)
    simp [this]

theorem meetAll_unmet {s : State} {team : Nat} {tm : Team} (htm : team? s team = some tm) (h : Unmet tm) : meetAll s team = s := by
  have hgroups : ∀ l : List Nat, l.foldl (fun s g => meetGroup s team g) s = s := fun l => by
    induction l with
    | nil => rfl
    | cons g l ih => rw [List.foldl_cons, meetGroup_unmet htm h, ih]
  have hteam : meetTeam s team = s := by
    unfold meetTeam
    rw [htm]
    simp [h.rdv]
  have hbars : meetBars s team = s := by
    unfold meetBars
    rw [htm]
    simp [h.bars]
  unfold meetAll
  rw [htm]
  dsimp only
  rw [hgroups, hteam, hbars]

/-! ### `exit` (R113) -/

theorem lane_exited {x b : State} {team : Nat} {task : Bool} {ts : List Tid} (h : Exited x b team task ts) {t : Tid} (ht : t ∉ ts) {fid : Nat} {word : Word} {l : Lane}
    (hl : lane? x t fid word = some l) : ∃ k, lane? b t fid word = some k ∧ k.tid = t ∧ exitShape k.tm = exitShape l.tm := by
  obtain ⟨htm, -⟩ := lane_some hl
  obtain ⟨k, hk, -⟩ := lane_of_thread ((h.others t ht).trans (lane_thread hl)) fid word
  obtain ⟨htmk, -, -, -, htid, -⟩ := lane_some hk
  obtain ⟨tm', htm', hs⟩ := h.team htm
  obtain rfl : k.tm = tm' := Option.some.inj (htmk.symm.trans htm')
  exact ⟨k, hk, htid, hs⟩

theorem exitShape_defers {tm tm' : Team} (h : exitShape tm' = exitShape tm) : tm'.family = tm.family ∧ defers tm' = defers tm := by
  have hfamily : tm'.family = tm.family := by simpa [exitShape] using congrArg Team.family h
  have hfork : tm'.fork = tm.fork := by simpa [exitShape] using congrArg Team.fork h
  exact ⟨hfamily, by simp only [defers, isWorld, hfamily, hfork]⟩

/-- A live thread that has not exited is a live thread still. -/
theorem Exited.live {x b : State} {team : Nat} {task : Bool} {ts : List Tid} (h : Exited x b team task ts) {t : Tid} (ht : t ∈ liveTids x team) (hnew : t ∉ ts) :
    t ∈ liveTids b team := by
  unfold liveTids at ht
  cases htm : team? x team with
  | none => simp [htm] at ht
  | some tm =>
    obtain ⟨tm', htm', hs⟩ := h.team htm
    have htids : tidsOf tm' = tidsOf tm := by rw [← tidsOf_exitShape tm', hs, tidsOf_exitShape]
    simp only [htm] at ht
    simp only [liveTids, htm', htids, List.mem_filter, h.others t hnew]
    exact List.mem_filter.mp ht

/-- A lane exits unless it is the last live one of a team that may not end. -/
theorem exitBy_retires {l : Lane} {s : State} (h : defers l.tm = true → ∃ t ∈ liveTids s l.tid.team, t ≠ l.tid) : exitBy l s = retireLane l s := by
  rw [exitBy, if_neg]
  intro hlast
  obtain ⟨hd, hall⟩ := Bool.and_eq_true_iff.mp hlast
  obtain ⟨t, ht, hne⟩ := h hd
  exact hne (beq_iff_eq.mp (List.all_eq_true.mp hall t ht))

theorem Exited.congr {x b : State} {team : Nat} {task : Bool} {ts us : List Tid} (h : Exited x b team task ts) (he : ∀ t, t ∈ us ↔ t ∈ ts) : Exited x b team task us := by
  refine ⟨fun t ht => h.gone t ((he t).mp ht), fun t ht => h.others t fun hin => ht ((he t).mpr hin), h.shape, fun hne => h.flags fun hnil => hne ?_, ?_, h.frame⟩
  · exact List.eq_nil_iff_forall_not_mem.mpr fun t ht => by
      rw [he, hnil] at ht
      cases ht
  · have hcontains : ∀ t, us.contains t = ts.contains t := fun t => by rw [Bool.eq_iff_iff, List.contains_iff_mem, List.contains_iff_mem, he]
    simp only [hcontains]
    exact h.slots

/-- Nothing more happens as the lanes of a team at no rendezvous have exited. -/
theorem exitEffect_exited {x : State} {f : Lane → State → State} {word : Word} {sl : Slot} {ts : List Tid} {team : Nat} {tm : Team} {b : State}
    (hperLane : perLane f word sl ts x = b) (hne : ts ≠ []) (hteam : ∀ t ∈ ts, t.team = team) (htm : team? b team = some tm) (hun : Unmet tm) :
    exitEffect f word sl ts x = b := by
  cases ts with
  | nil => exact absurd rfl hne
  | cons t l =>
    rw [exitEffect, hperLane]
    rw [hteam t List.mem_cons_self, meetAll_unmet htm hun]

theorem threadsExit : ThreadsExit := by
  intro st word hw s sl tm u x ts hready htm hne hrdv hbars hgroups hmay
  cases hw
  have hid : tm.id = headTeam sl := by simpa using List.find?_some htm
  have hteam : ∀ t ∈ ts, t.team = headTeam sl := fun t ht => hready.oneTeam t (List.mem_of_mem_filter ht)
  have hperm := sortBy_perm (fun t : Tid => t.lane) ts
  have hexit := Exited.fold (x := x) (team := headTeam sl) (task := tm.family.isSome) (all := ts)
    (g := fun s t => match lane? s t sl.fid (encE 54#6 1#5 0#7 0#6 0#6 st) with | some ln => exitBy ln s | none => s) (fun b ds t ht hnew hds h => by
      obtain ⟨l, hl⟩ := lanesOf_lane hready t ht
      obtain ⟨k, hk, hktid, hks⟩ := lane_exited h hnew hl
      have hltm : l.tm = tm := Option.some.inj ((lane_some hl).1.symm.trans ((hteam t ht).symm ▸ htm))
      obtain ⟨hfamily, hdefers⟩ := exitShape_defers hks
      rw [hltm] at hfamily hdefers
      simp only [hk]
      rw [exitBy_retires]
      · rw [← hktid] at hnew ⊢
        exact h.step hnew (hktid ▸ hteam t ht) (by rw [hfamily])
      · intro hd
        obtain ⟨v, hv, hout⟩ := hmay (hdefers.symm.trans hd)
        rw [hid] at hv
        rw [hktid, hteam t ht]
        exact ⟨v, h.live hv fun hin => hout (hds v hin), fun e => hout (e ▸ ht)⟩)
    (sortBy (fun t : Tid => t.lane) ts) [] x (by simpa using hperm.nodup_iff.mpr (lanesOf_nodup hready)) (fun t ht => hperm.mem_iff.mp (by simpa using ht)) (.none ..)
  replace hexit := hexit.congr (us := ts) fun t => by rw [List.nil_append, hperm.mem_iff]
  rw [← hid] at hexit
  obtain ⟨tm', htm', hs⟩ := hexit.team (hid ▸ htm)
  have heffect := exitEffect_exited (f := exitBy) (word := encE 54#6 1#5 0#7 0#6 0#6 st) (sl := sl) (x := x) rfl hne (fun t ht => (hteam t ht).trans hid.symm) htm'
    (unmet_exitShape ⟨hrdv, hbars, hgroups⟩ hs)
  refine ⟨_, tm', ?_, htm', hexit.gone, hexit.others, hexit.flags hne tm' htm', ?_⟩
  · exact congrArg Host.Outcome.next ((issueHold_ready hready st _).trans (congrArg _ heffect))
  · rw [← hexit.slots]
    exact hexit.frame

/-! ### `exit.succ` (R118, R360) -/

/-- The team's successor is entered. -/
def withSuccessor (s : State) (team : Nat) (addr : VAddr) : State := modTeam s team fun t => { t with succ := some addr }

theorem thread_withSuccessor (s : State) (team : Nat) (addr : VAddr) (t : Tid) : thread? (withSuccessor s team addr) t = thread? s t :=
  thread_modTeam (f := fun t => { t with succ := some addr }) (fun _ => ⟨rfl, rfl⟩) t

theorem team_withSuccessor {s : State} {team : Nat} {tm : Team} (h : team? s team = some tm) (addr : VAddr) :
    team? (withSuccessor s team addr) team = some { tm with succ := some addr } :=
  team_modTeam_same h (fun t => { t with succ := some addr }) fun _ => rfl

/-- The successor that a lane names is entered in its team, and the lane exits. -/
theorem exitSuccBy_passes {a b : Nat} {l : Lane} {x z : State} {va : Nat} {c : Context} {r : Loaded} (hva : (rdB l.tm l.th a).toNat + (rdS l.g b).toNat = va)
    (haligned : va % 256 = 0) (hlt : va < 2 ^ 80) (hd : defers l.tm = false) (hsucc : l.tm.succ = none ∨ l.tm.succ = some (BitVec.ofNat 80 va))
    (hc : ctx? x l.tm.ctx = some c) (hread : readRecord x c va = (.ok r, z)) (hgood : succBad z l.tm c r.record = none) :
    exitSuccBy a b l x = retireLane l (withSuccessor z l.tid.team (BitVec.ofNat 80 va)) := by
  have hmod : va % 2 ^ 80 = va := Nat.mod_eq_of_lt hlt
  have hsame : (l.tm.succ.isSome && decide (l.tm.succ ≠ some (BitVec.ofNat 80 va))) = false := by
    rcases hsucc with h | h <;> simp [h]
  simp only [exitSuccBy, hva, hmod, haligned, hd, hsame, hc, hread, hgood]
  rw [if_neg (by simp), if_neg (by simp)]
  rfl

theorem threadExitsTo : ThreadExitsTo := by
  intro a b st word hw s sl t l c r z u x va hready hlanes hl hrdv hbars hgroups haligned hlt hfamily hfork hsucc hc hread hgood hzteams hzslots
  cases hw
  obtain ⟨htm, -, -, -, rfl, -⟩ := lane_some hl
  have hd : defers l.tm = false := by simp [defers, isWorld, hfamily, hfork]
  have hby := exitSuccBy_passes (l := l) rfl haligned hlt hd hsucc hc hread hgood
  have hteam := team_withSuccessor ((team_of_teams hzteams l.tid.team).trans htm) (BitVec.ofNat 80 va)
  have hthread : ∀ k, thread? (withSuccessor z l.tid.team (BitVec.ofNat 80 va)) k = thread? x k := fun k =>
    (thread_withSuccessor ..).trans (thread_of_teams hzteams k)
  have hexit := (Exited.none (withSuccessor z l.tid.team (BitVec.ofNat 80 va)) l.tid.team false).step (l := l) (by simp) rfl (by rw [hfamily]; rfl)
  obtain ⟨tm', htm', hs⟩ := hexit.team hteam
  have hone : perLane (exitSuccBy a.toNat b.toNat) (encE 54#6 2#5 0#7 a b st) sl [l.tid] x = exitSuccBy a.toNat b.toNat l x := by
    change (match lane? x l.tid sl.fid _ with | some ln => exitSuccBy a.toNat b.toNat ln x | none => x) = _
    rw [hl]
  have heffect := exitEffect_exited (hone.trans hby) (List.cons_ne_nil _ _) (fun v hv => by rw [List.mem_singleton.mp hv]) htm'
    (unmet_exitShape (tm := { l.tm with succ := some (BitVec.ofNat 80 va) }) ⟨hrdv, hbars, hgroups⟩ hs)
  refine ⟨_, tm', ?_, htm', by simpa [exitShape] using congrArg Team.succ hs, hexit.gone l.tid (by simp) l.th ((hthread l.tid).trans (lane_thread hl)),
    fun k hk => (hexit.others k (by simpa using hk)).trans (hthread k), ?_⟩
  · refine congrArg Host.Outcome.next ((issueHold_ready hready st _).trans (congrArg _ ?_))
    rw [hlanes]
    exact heffect
  · have hslots : (retireLane l (withSuccessor z l.tid.team (BitVec.ofNat 80 va))).slots = z.slots.map fun k => { k with flock := k.flock.filter fun y => y ≠ l.tid } :=
      leaveFlock_slots _ _
    rw [← hslots]
    exact hexit.frame

end Sys2Proof.Proofs
end

section
/-! PROOF. `tyield` (R361), and O44. -/

namespace Sys2Proof.Proofs

open Machine Claims Laws

/-! ### A flock yields its slot -/

/-- The slot's flock gives way at the end of its clause. -/
def slotYields (s : State) (key : Nat) : State := modSlot s key fun x => { x with yielded := true }

theorem slotYields_slots (s : State) (key : Nat) : slotYields s key = { s with slots := s.slots.map fun x => if x.key = key then { x with yielded := true } else x } := by
  simp only [slotYields, modSlot, updWhere, beq_iff_eq]

/-- A thread runs the code of a routine. -/
def routined (s : State) (t : Tid) : Bool := match thread? s t with | some th => inRoutineCode th | none => false

theorem yieldEffect_eq (word : Word) (sl : Slot) (ts : List Tid) (s : State) : yieldEffect word sl ts s =
    teamEffect (fun _ => none) (fun _ => []) word sl (ts.filter fun t => !(ts.filter (routined s)).contains t)
      (if (ts.filter (routined s)).isEmpty then s else slotYields s sl.key) := rfl

/-- A flock that runs a routine yields its slot and does no more. -/
theorem yieldEffect_routines {word : Word} {sl : Slot} {ts : List Tid} {s : State} (hne : ts ≠ []) (hin : ∀ t ∈ ts, routined s t = true) :
    yieldEffect word sl ts s = slotYields s sl.key := by
  have hrest : ts.filter (fun t => !ts.contains t) = [] := List.filter_eq_nil_iff.mpr fun t ht => by simpa using ht
  rw [yieldEffect_eq, List.filter_eq_self.mpr hin, hrest, if_neg (by simpa using hne)]
  rfl

/-- A flock outside routines arrives at its team's rendezvous. -/
theorem yieldEffect_outside {word : Word} {sl : Slot} {ts : List Tid} {s : State} (hout : ∀ t ∈ ts, routined s t = false) :
    yieldEffect word sl ts s = teamEffect (fun _ => none) (fun _ => []) word sl ts s := by
  have hnone : ts.filter (routined s) = [] := List.filter_eq_nil_iff.mpr fun t ht => by simp [hout t ht]
  have hrest : ts.filter (fun t => !([] : List Tid).contains t) = ts := by simp
  rw [yieldEffect_eq, hnone, hrest]
  rfl

/-! ### What a grid has to place, whatever the threads and rendezvous (R84) -/

theorem teamPlan_teamShape (t : Team) : teamPlan (teamShape t) = teamPlan t := by
  simp [teamPlan, teamShape, Function.comp_def]

theorem teamPlans_sameTeams {a b : State} (h : SameTeams a b) : b.teams.map teamPlan = a.teams.map teamPlan := by
  have hplan : ∀ l : List Team, (l.map teamShape).map teamPlan = l.map teamPlan := fun l => by
    simp only [List.map_map, Function.comp_def, teamPlan_teamShape]
  rw [← hplan, ← hplan a.teams, h]

theorem teamPlans_dropTeamRdv (s : State) (team : Nat) (off : Word) : (dropTeamRdv s team off).teams.map teamPlan = s.teams.map teamPlan := by
  simp only [dropTeamRdv, modTeam, updWhere, List.map_map]
  refine List.map_congr_left fun t _ => ?_
  simp only [Function.comp_apply]
  split <;> rfl

theorem any_teamPlan {a b : State} (h : b.teams.map teamPlan = a.teams.map teamPlan) {p : Team → Bool} (hp : ∀ t, p (teamPlan t) = p t) :
    b.teams.any p = a.teams.any p := by
  have hany : ∀ l : List Team, l.any p = (l.map teamPlan).any p := fun l => by
    simp only [List.any_map, Function.comp_def, hp]
  rw [hany, hany a.teams, h]

theorem unitsOf_eq_nil (cluster : Bool) (l : List Pending) : unitsOf cluster l = [] ↔ l = [] := by
  unfold unitsOf
  split
  · refine ⟨fun h => List.eq_nil_iff_forall_not_mem.mpr fun p hp => ?_, fun h => by rw [h]; rfl⟩
    have hmem := (mem_dedup (p.index / 4) (l.map fun p => p.index / 4)).mpr (List.mem_map_of_mem hp)
    rw [List.map_eq_nil_iff.mp h] at hmem
    cases hmem
  · exact List.map_eq_nil_iff

/-- A grid has a pending team that is off its core, or one that has never been placed. -/
theorem pendingTeams_eq_nil (s : State) (g : Grid) : pendingTeams s g = [] ↔
    s.teams.any (fun t => t.grid == g.id && t.offCore && !t.held && !Sys2Proof.Machine.movedAway s t) = false ∧ (g.dropped = true ∨ g.total ≤ g.next) := by
  have hsaved : (sortBy (fun (t : Team) => t.index) (s.teams.filter fun t => t.grid == g.id && t.offCore && !t.held && !Sys2Proof.Machine.movedAway s t)).map Pending.saved = [] ↔
      s.teams.any (fun t => t.grid == g.id && t.offCore && !t.held && !Sys2Proof.Machine.movedAway s t) = false := by
    rw [List.map_eq_nil_iff, List.eq_nil_iff_length_eq_zero, (sortBy_perm _ _).length_eq, ← List.eq_nil_iff_length_eq_zero, List.filter_eq_nil_iff, List.any_eq_false]
  have hfresh : (if g.dropped then [] else (upto (g.total - g.next)).map fun i => Pending.fresh (g.next + i)) = [] ↔ g.dropped = true ∨ g.total ≤ g.next := by
    split
    · next h => simp [h]
    · next h => simp [h, upto, Nat.sub_eq_zero_iff_le]
  rw [pendingTeams, List.append_eq_nil_iff, hsaved, hfresh]

theorem nextUnits_teamPlan {a b : State} (h : b.teams.map teamPlan = a.teams.map teamPlan) (hforks : b.forks = a.forks) (g : Grid) :
    nextUnits b g 1 = [] ↔ nextUnits a g 1 = [] := by
  have hmoved : ∀ t, Sys2Proof.Machine.movedAway b t = Sys2Proof.Machine.movedAway a t := fun t => by
    have hfork : fork? b = fork? a := funext fun id => by rw [fork?, fork?, hforks]
    simp only [Sys2Proof.Machine.movedAway, hfork]
  have hpending : pendingTeams b g = [] ↔ pendingTeams a g = [] := by
    simp only [pendingTeams_eq_nil, hmoved]
    rw [any_teamPlan h fun _ => rfl]
  have hresident : (b.teams.any fun t => t.grid == g.id && t.onCore) = a.teams.any fun t => t.grid == g.id && t.onCore := any_teamPlan h fun _ => rfl
  have htake : ∀ l : List (List Pending), l.take 1 = [] ↔ l = [] := fun l => by cases l <;> simp
  unfold nextUnits
  simp only [hresident]
  split
  · split
    · simp
    · rw [unitsOf_eq_nil, unitsOf_eq_nil, hpending]
  · rw [htake, htake, unitsOf_eq_nil, unitsOf_eq_nil, hpending]

/-! ### The rendezvous of `tyield` -/

theorem yieldsTo_none {s : State} {tm : Team} (h : ∀ own g, grid? s tm.grid = some own → g ∈ s.grids → g.part = own.part →
    (g.id = own.id ∨ g.precedes own = true) → nextUnits s g 1 = []) : yieldsTo s tm = none := by
  unfold yieldsTo
  cases hown : grid? s tm.grid with
  | none => rfl
  | some own =>
    refine List.find?_eq_none.mpr fun x hx => ?_
    obtain ⟨g, hg, hx⟩ := List.mem_filterMap.mp hx
    obtain ⟨c, -, hx⟩ := Option.bind_eq_some_iff.mp hx
    obtain ⟨rd, -, rfl⟩ := Option.map_eq_some_iff.mp hx
    have hmem := List.mem_filter.mp ((sortBy_perm _ _).mem_iff.mp hg)
    obtain ⟨hpart, -⟩ := Bool.and_eq_true_iff.mp hmem.2
    intro hbad
    simp only [Bool.and_eq_true, Bool.or_eq_true, beq_iff_eq] at hbad
    obtain ⟨⟨hord, hunits⟩, -⟩ := hbad
    rw [h own g hown hmem.1 (beq_iff_eq.mp hpart) hord] at hunits
    cases hunits

/-- With nobody to give way to, the threads that have arrived go on and the flock yields its slot. -/
theorem completeYield_stays {s : State} {team : Nat} {r : Rdv} {tm : Team} (htm : team? s team = some tm) {key : Nat}
    (hcur : (passArrived s team r fun _ => []).cur = some key) (hnone : yieldsTo (passArrived s team r fun _ => []) tm = none) :
    completeYield s team r = slotYields (passArrived s team r fun _ => []) key := by
  unfold completeYield
  rw [htm]
  simp only [hnone, hcur]
  rfl

/-- The progress of the issue covers progress of the same context before it. -/
theorem issued_progressed {s : State} {sl : Slot} {mid : State} {tm : Team} (htm : team? mid (headTeam sl) = some tm) {C : List Context}
    (hC : Progressed tm.ctx mid.contexts C) (st : BitVec 2) (u : Uses) : issued s sl st u { mid with contexts := C } = issued s sl st u mid := by
  have hnow : team? { mid with contexts := C } (headTeam sl) = some tm := htm
  have hteam : teamProgress { mid with contexts := C } (headTeam sl) = teamProgress mid (headTeam sl) := by
    simp only [teamProgress, htm, hnow, progress, modCtx]
    exact congrArg (fun B => { mid with contexts := B }) hC
  rw [issued, issued, hteam]

theorem cur_of_curSlot {s : State} {sl : Slot} (h : curSlot s = some sl) : s.cur = some sl.key := by
  unfold curSlot at h
  split at h
  · next k hk =>
    have hkey := List.find?_some h
    rw [hk, beq_iff_eq.mp hkey]
  · cases h

section
variable {s : State} {sl : Slot} {word : Word} {u : Uses} {pre : List Arrival} {tm : Team} {vals : Lane → List Word}

theorem passedOn_plans (s : State) (sl : Slot) (u : Uses) (word : Word) (pre : List Arrival) (vals : Lane → List Word) :
    (passedOn s sl u word pre vals).teams.map teamPlan = (atIssue s sl).teams.map teamPlan :=
  (teamPlans_sameTeams (modThreads_sameTeams _ _ _)).trans ((teamPlans_dropTeamRdv ..).trans (assembled_checks s sl u word vals ⟨0, 0, 0⟩).teams)

/-- Those who have arrived go on, and the context has its progress or not yet. -/
theorem passArrived_rdvNow (hready : Ready s sl word u noHold) (harr : Arriving s sl u word pre tm) :
    ∃ C, passArrived (assembled s sl u word vals) (headTeam sl) (rdvNow s sl u word pre vals) (fun _ => []) = { passedOn s sl u word pre vals with contexts := C } ∧
      Progressed tm.ctx (atIssue s sl).contexts C := by
  have h := pass_all (rdvNow s sl u word pre vals).arrivals (dropped_team (vals := vals) hready harr) fun a ha =>
    comers_team hready harr vals a.tid (List.mem_map_of_mem ha)
  exact h

theorem passedOn_team (hready : Ready s sl word u noHold) (harr : Arriving s sl u word pre tm) :
    ∃ tm', team? (passedOn s sl u word pre vals) (headTeam sl) = some tm' ∧ tm'.rdv = [] ∧ tm'.ctx = tm.ctx := by
  have hshape := team_shape (modThreads_sameTeams passes (comers (rdvNow s sl u word pre vals))
    (dropTeamRdv (assembled s sl u word vals) (headTeam sl) (posOf s sl).off)) (headTeam sl)
  rw [dropped_team hready harr, Option.map_some] at hshape
  obtain ⟨tm', htm', hs⟩ := Option.map_eq_some_iff.mp hshape
  exact ⟨tm', htm', by simpa [teamShape] using congrArg Team.rdv hs, by simpa [teamShape] using congrArg Team.ctx hs⟩

/-- The state once the flock has yielded, before its context's progress. -/
def yieldedOn (s : State) (sl : Slot) (u : Uses) (word : Word) (pre : List Arrival) : State :=
  slotYields (passedOn s sl u word pre fun _ => []) sl.key

theorem yieldedOn_waits (hready : Ready s sl word u noHold) (harr : Arriving s sl u word pre tm) :
    AllWait (yieldedOn s sl u word pre) (comers (rdvNow s sl u word pre fun _ => [])) none := by
  intro t ht
  obtain ⟨th, hth, hw⟩ := comers_passed hready harr ht
  refine ⟨passes th, ?_, hw⟩
  refine (passedOn_thread hready harr ht).trans ?_
  rw [hth]
  rfl

theorem yieldedOn_frame (s : State) (sl : Slot) (u : Uses) (word : Word) (pre : List Arrival) : yieldedOn s sl u word pre =
    { atIssue s sl with teams := (yieldedOn s sl u word pre).teams, slots := (yieldedOn s sl u word pre).slots } := by
  have hframe := passedOn_only s sl u word pre fun _ => []
  unfold yieldedOn
  generalize passedOn s sl u word pre (fun _ => []) = y at hframe ⊢
  rw [TeamsFrom] at hframe
  generalize y.teams = tms at hframe
  rw [hframe]
  rfl

theorem yieldedOn_slot (hready : Ready s sl word u noHold) : slot? (yieldedOn s sl u word pre) sl.key = some { sl with yielded := true } := by
  have hslots : (passedOn s sl u word pre fun _ => []).slots = s.slots := by
    rw [passedOn_only s sl u word pre fun _ => []]
    rfl
  have hslot : s.slots.find? (fun x => x.key == sl.key) = some sl := curSlot_slot hready.slot
  refine (find_updWhere_same (q := fun x : Slot => x.key == sl.key) (f := fun x => { x with yielded := true }) (fun _ h => h) _).trans ?_
  rw [hslots, hslot]
  rfl

theorem yieldedOn_team (hready : Ready s sl word u noHold) (harr : Arriving s sl u word pre tm) :
    ∃ tm', team? (yieldedOn s sl u word pre) (headTeam sl) = some tm' ∧ tm'.rdv = [] ∧ tm'.ctx = tm.ctx :=
  passedOn_team (vals := fun _ => []) hready harr

theorem meetTeam_yields (hready : Ready s sl word u noHold) (h : Assembled s sl u word pre tm) (hword : (wordOp word).1 = 0x36)
    (hnone : ∀ own g, grid? (atIssue s sl) tm.grid = some own → g ∈ (atIssue s sl).grids → g.part = own.part → (g.id = own.id ∨ g.precedes own = true) →
      nextUnits (atIssue s sl) g 1 = []) :
    ∃ C, meetTeam (assembled s sl u word fun _ => []) (headTeam sl) = { yieldedOn s sl u word pre with contexts := C } ∧ Progressed tm.ctx (atIssue s sl).contexts C := by
  obtain ⟨C, hpass, hC⟩ := passArrived_rdvNow (vals := fun _ => []) hready h.1
  refine ⟨C, ?_, hC⟩
  have hframe := passedOn_only s sl u word pre fun _ => []
  have hcomplete : completeTeam (assembled s sl u word fun _ => []) (headTeam sl) (rdvNow s sl u word pre fun _ => []) =
      completeYield (assembled s sl u word fun _ => []) (headTeam sl) (rdvNow s sl u word pre fun _ => []) := by
    obtain ⟨n, hn⟩ : ∃ n, wordOp (rdvNow s sl u word pre fun _ => []).word = (0x36, n) := ⟨_, Prod.ext hword rfl⟩
    unfold completeTeam
    rw [hn]
    rfl
  rw [meetTeam_assembled hready h, hcomplete, completeYield_stays (key := sl.key) (assembled_team hready h.1 _), hpass]
  · rfl
  · rw [hpass]
    have hcur : (passedOn s sl u word pre fun _ => []).cur = s.cur := by rw [hframe]; rfl
    exact hcur.trans (cur_of_curSlot hready.slot)
  · rw [hpass]
    refine yieldsTo_none fun own g hown hg hpart hord => ?_
    have hgrids : (passedOn s sl u word pre fun _ => []).grids = (atIssue s sl).grids := by rw [hframe]
    have hforks : (passedOn s sl u word pre fun _ => []).forks = (atIssue s sl).forks := by rw [hframe]
    refine (nextUnits_teamPlan (b := { passedOn s sl u word pre fun _ => [] with contexts := C }) (passedOn_plans s sl u word pre _) hforks g).mpr ?_
    exact hnone own g (by simpa only [grid?, hgrids] using hown) (hgrids ▸ hg) hpart hord

end

theorem exec_tyield {st : BitVec 2} {s : State} {sl : Slot} (hready : Ready s sl (encE 54#6 3#5 0#7 0#6 0#6 st) (Uses.none cCtrl) noHold)
    (hspan : (posOf s sl).guardLeft = 0) : exec (.tyield st) s = .next (issued s sl st (Uses.none cCtrl)
      (yieldEffect (encE 54#6 3#5 0#7 0#6 0#6 st) sl (lanesOf s sl (Uses.none cCtrl)) (atIssue s sl))) := by
  have hbad : ({ Uses.none cCtrl with bad := inSpan s } : Uses) = Uses.none cCtrl := by rw [inSpan_outside hready.slot hspan]; rfl
  change Host.Outcome.next (issue _ st { Uses.none cCtrl with bad := inSpan s } _ s) = _
  rw [hbad]
  exact congrArg Host.Outcome.next (issueHold_ready hready st _)

/-- The lanes of a flock that yields stay in it, and the rendezvous is over. -/
theorem yieldEffect_yields {s : State} {sl : Slot} {word : Word} {u : Uses} {pre : List Arrival} {tm : Team} (hready : Ready s sl word u noHold)
    (harr : Arriving s sl u word pre tm) (hout : ∀ t ∈ lanesOf s sl u, routined (atIssue s sl) t = false) {C : List Context}
    (hmeet : meetTeam (assembled s sl u word fun _ => []) (headTeam sl) = { yieldedOn s sl u word pre with contexts := C }) :
    yieldEffect word sl (lanesOf s sl u) (atIssue s sl) = { yieldedOn s sl u word pre with contexts := C } := by
  have hmeets : (match lanesOf s sl u with | t :: _ => meetTeam (assembled s sl u word fun _ => []) t.team | [] => assembled s sl u word fun _ => []) =
      { yieldedOn s sl u word pre with contexts := C } := by
    cases hl : lanesOf s sl u with
    | nil => exact absurd hl harr.some'
    | cons t l =>
      have hteam : t.team = headTeam sl := hready.oneTeam t (List.mem_of_mem_filter (hl ▸ List.mem_cons_self : t ∈ lanesOf s sl u))
      simp only [hteam]
      exact hmeet
  have hstay : waitMembers { yieldedOn s sl u word pre with contexts := C } (lanesOf s sl u) .team inTeamRdv = { yieldedOn s sl u word pre with contexts := C } := by
    refine waitMembers_none fun t ht => ⟨yieldedOn_waits hready harr t ((comers_mem hready _ t).mpr (.inr ht)), ?_⟩
    obtain ⟨tm', htm', hrdv, -⟩ := yieldedOn_team hready harr
    have hnow : team? { yieldedOn s sl u word pre with contexts := C } t.team = some tm' := by
      rw [hready.oneTeam t (List.mem_of_mem_filter ht)]
      exact htm'
    unfold inTeamRdv
    rw [hnow]
    simp [hrdv]
  rw [yieldEffect_outside hout, ← hstay, ← hmeets, ← perLane_arrives hready fun _ _ _ => rfl]
  rfl

theorem teamYields : TeamYields := by
  constructor
  · intro st word hw s sl hready hspan hne hin
    cases hw
    rw [exec_tyield hready hspan, yieldEffect_routines hne, slotYields_slots]
    intro t ht
    obtain ⟨l, hl⟩ := lanesOf_lane hready t ht
    simp only [routined, lane_thread hl, hin t ht l hl]
  · intro st word hw s sl pre tm r hready hall hout hnone
    cases hw
    have harr := hall.1.1
    have hword : (wordOp (encE 54#6 3#5 0#7 0#6 0#6 st)).1 = 0x36 := congrArg BitVec.toNat (fld_encE_op 54#6 3#5 0#7 0#6 0#6 st)
    obtain ⟨C, hmeet, hC⟩ := meetTeam_yields hready hall.1 hword hnone
    have heffect := yieldEffect_yields hready harr (fun t ht => by
      obtain ⟨l, hl⟩ := lanesOf_lane hready t ht
      simp only [routined, lane_thread hl, inRoutineCode, hout t ht l hl]
      rfl) hmeet
    obtain ⟨tm', htm', -, hctx⟩ := yieldedOn_team hready harr
    have hframe := yieldedOn_frame s sl (Uses.none cCtrl) (encE 54#6 3#5 0#7 0#6 0#6 st) pre
    refine ⟨_, ?_, yieldedOn_waits hready harr, ⟨_, yieldedOn_slot hready, rfl, rfl⟩, hframe⟩
    rw [exec_tyield hready harr.noSpan, heffect]
    refine congrArg Host.Outcome.next (issued_progressed htm' ?_ st _)
    rw [hctx, hframe]
    exact hC

/-! ### O44 -/

/-- Settles O44: launches, exits, successors, yields and host signals, each from the effect of its instruction on a ready flock. -/
theorem workLeavesTheFlock : Obligations.WorkLeavesTheFlock := ⟨launches, threadsExit, threadExitsTo, teamYields, signals⟩

end Sys2Proof.Proofs
end
